-- ==== Sys2Proof/Word.lean ====
section
/-! DEFINITION. The word types of the SX4 model: bytes, register words, the 512-bit data line of the memory port. -/

namespace Sys2Proof

/-- A byte of host memory, of DRAM or of a frame. -/
abbrev Byte := BitVec 8

/-- A register word of the host port (R44). -/
abbrev Word := BitVec 32

/-- A byte string, first byte first. -/
abbrev Bytes := List (BitVec 8)

/-- One line of the memory port: 64 bytes, byte n in bits 8n+7..8n (R45). -/
abbrev Line := BitVec 512

end Sys2Proof
end

