-- ==== Sys2Proof/Syntax.lean ====
section
/-! DEFINITION. The commands of the SX4, one constructor per row of spec/opcode_table.json, with the values each row's step takes
from outside: the bytes of a frame, a register word, a reading, or the outcome of a test the model does not compute. -/

namespace Sys2Proof

/-- Who takes descriptors of a submission ring (R89). -/
inductive Owner where
  | channel (n : Fin 16)
  | vault
  | nms
  | journal
  | krysa
  deriving DecidableEq, Repr

/-- Which of the SX4's own DMA accesses received an error response (R115). -/
inductive DmaKind where
  | descriptorRead
  | inputRead
  | outputWrite
  | completionWrite
  deriving DecidableEq, Repr

/-- What the tests and measurements of a start-up phase or a wake report. -/
structure BootReport where
  /-- P0: every sensor is within its alarm limits. P1 and wake: the known-answer tests pass. P2: the flash answers as R52 asks. -/
  ok : Bool := true
  /-- P0: VDD_FUSE is present (R62). -/
  fuse : Bool := true
  /-- P0: the code of an alarm condition that is present (R486). -/
  cause : Fin 16 := 0
  /-- P1: the start-up health tests of the noise source pass (R120). -/
  health : Bool := true
  /-- P1: the read-back of a root bank that is burned matches (R120). -/
  burn : Bool := true
  /-- Duration of the phase in us (R516). -/
  us : Nat := 0
  /-- Channels whose known-answer tests fail in the phase (R196). -/
  badChans : List (Fin 16) := []
  /-- P2 and P5: row addresses of the journal flash that read as unreadable (R433). -/
  unreadable : List Nat := []
  /-- Wake: vclk time without an edge, in 1/16 us (R73). -/
  elapsed : Nat := 0
  deriving DecidableEq, Repr

/-- What comes back with data from DRAM besides the data: the DM_ERR code each listed line address now returns (0 clean, 1 corrected,
2 uncorrectable, R49), the channels whose caches met a corrected error (R232), and the root seals of which a copy fails its parity:
tree (16 is the Almanac's), subtree, and the copies, 1 the first, 2 the second, 3 both (R262). -/
structure DramReturn where
  errs : List (Nat × Fin 3) := []
  caches : List (Fin 16) := []
  roots : List (Fin 17 × Fin 64 × Fin 4) := []
  deriving DecidableEq, Repr

/-- What raises the alarm line from outside the model's own steps (R485, R497, R500). -/
inductive AlarmCause where
  /-- A Vigil alarm with its VG_CAUSE code (R486). -/
  | vigil (code : Fin 16)
  /-- A share parity failure in the vault (R146). -/
  | parity
  /-- A vault stall (R497). -/
  | stall
  deriving DecidableEq, Repr

/-- The 192 commands: the operations and events of the opcode table. -/
inductive Instr where
  /-- TICK_EDGE (R68): A rising edge on TICK_IN is classed from the previous Calends as ignored, early or on time, and is acted on or counted as its class gives. -/
  | tickEdge (t : Nat)
  /-- EARLY_EDGE_DRAIN_END (R68): After an early edge, the Calends is taken once the last admitted item of every channel is complete, or once DRAIN has run out. -/
  | earlyEdgeDrainEnd (t : Nat)
  /-- TICK_KEEPER_CALENDS (R69): The internal tick keeper issues a Calends when no edge has arrived by T + TOL, or every period under SRC = 1. -/
  | tickKeeperCalends
  /-- FIRST_CALENDS_AFTER_P2 (R518): The first edge after P2, or the keeper one period after P2, gives the first Calends; it is not counted as a lost tick. -/
  | firstCalendsAfterP2 (byEdge : Bool)
  /-- CALENDS_COMMIT (R81): At each Calends, incomplete items are ended, staged changes are validated and applied in the order of R82, the count increments, and admission reopens. -/
  | calendsCommit
  /-- LEDGER_HOLD_EXPIRY (R382): A held downlink frame whose expiry tick ends at this Calends is discarded with reason 1. -/
  | ledgerHoldExpiry
  /-- ADMISSION_CLOSE (R75): Admission closes at the close point t_close of the tick. -/
  | admissionClose
  /-- ADMIT_DESCRIPTOR (R76): A channel admits the head descriptor of a ring in round-robin turn when its worst-case cost, DMA allowance and completion room fit, or else passes over the ring. -/
  | admitDescriptor (owner : Owner) (t : Nat)
  /-- OVERRUN_SELF_TEST (R85): After it has ended items at a Calends, a channel runs known-answer tests of all its lanes before admitting again. -/
  | overrunSelfTest (ch : Fin 16) (pass : Bool)
  /-- SPARE_SELF_TEST (R29): The SPARE channel runs the known-answer tests of every lane once per tick. -/
  | spareSelfTest (pass : Bool)
  /-- SQ_DOORBELL (R96): A write to the doorbell of SQk sets the ring's tail and passes new descriptors to the SX4. -/
  | sqDoorbell (k : Fin 64) (val : Word)
  /-- CQ_DOORBELL (R96): A write to the doorbell of CQk sets the ring's head and returns consumed entries. -/
  | cqDoorbell (k : Fin 64) (val : Word)
  /-- RING_ABORT_REQUEST (R111): A RING_CTL_k write with GO set requests the abort of a descriptor, and of the later ones with ALL set. -/
  | ringAbortRequest (k : Fin 128) (val : Word)
  /-- ABORT_DECISION (R112): The commit arbiter decides each aborted item 4 to 6 ec after acceptance, against the start of its write-back. -/
  | abortDecision (k : Fin 64)
  /-- COMPLETION_WRITE (R106): A final result's completion, with its output writes visible first, is written to the completion ring in ring order. -/
  | completionWrite (k : Fin 64)
  /-- SOURCE_EVENT_WRITE (R107): A source other than a ring writes its event completion once it has reserved a free completion entry, waiting while none is free. -/
  | sourceEventWrite (cq : Fin 64)
  /-- DMA_ERROR_RESPONSE (R115): An error response to the SX4's own DMA halts the ring or completes the item MALFORMED, as the failing DMA gives. -/
  | dmaErrorResponse (k : Fin 64) (ix : Nat) (kind : DmaKind) (poison : Bool)
  /-- REGISTER_WRITE (R535): A write to a register without a row of its own takes effect at once or at the Calends, under its field map and the block state. -/
  | registerWrite (off : BitVec 18) (val : Word) (be : BitVec 4) (priv : Bool)
  /-- HOST_ACCESS_ERROR (R534): A misaligned access, a PRIV access without FH_T_PRIV, a STATUS write or an access to the unassigned window receives the error response and is counted. -/
  | hostAccessError (write : Bool) (off : BitVec 18) (val : Word) (be : BitVec 4) (priv : Bool)
  /-- EVENT_REGISTER_CLEAR (R542): A W1C write clears event bits, except a bit set by an event at the same engine clock. -/
  | eventRegisterClear (off : BitVec 18) (val : Word) (be : BitVec 4) (priv : Bool) (same : Word)
  /-- CALENDS_LO_READ (R74): A read of CALENDS_LO latches bits [47:32] of the count into the reader's copy of CALENDS_HI. -/
  | calendsLoRead (priv : Bool)
  /-- INTEG_LAST_LO_READ (R270): A read of INTEG_LAST_LO latches INTEG_LAST_HI for the reader's kind of access. -/
  | integLastLoRead (priv : Bool)
  /-- ALM_TIME_LO_READ (R373): A read of ALM_TIME_LO latches ALM_TIME_HI for the reader's kind of access. -/
  | almTimeLoRead (priv : Bool)
  /-- JF_GRANT_LO_READ (R447): A read of JF_GRANT_LO latches JF_GRANT_HI for the reader's kind of access. -/
  | jfGrantLoRead (priv : Bool)
  /-- RGN_STAGE (R222): RGN_CTL_n.STAGE stages the region holding copy for validation at the Calends. -/
  | rgnStage (n : Fin 64) (val : Word) (priv : Bool)
  /-- KID_STAGE (R216): KID_CTL_k.STAGE stages the KeyID holding copy for validation at the Calends. -/
  | kidStage (k : Fin 256) (val : Word) (priv : Bool)
  /-- TREE_STAGE (R259): TREE_CTL_t.STAGE stages a tree entry for validation at the Calends. -/
  | treeStage (n : Fin 16) (val : Word) (priv : Bool)
  /-- EQX_STAGE (R272): EQX_CTL_j.STAGE stages the start of an Equinox REKEY or REBUILD job. -/
  | eqxStage (j : Fin 4) (val : Word) (priv : Bool)
  /-- TIER_STAGE (R328): TIER_CTL_t.STAGE stages a tier entry for validation at the Calends. -/
  | tierStage (n : Fin 256) (val : Word) (priv : Bool)
  /-- ALMANAC_ENABLE (R357): ALM_CTL.EN commits the Almanac areas at the Calends, or refuses them, and begins restore. -/
  | almanacEnable (val : Word) (priv : Bool)
  /-- FAILBACK (R317): LINK_CMD_p.FAILBACK requests failback of a recovered path at the Calends. -/
  | failback (p : Fin 2) (val : Word) (priv : Bool)
  /-- KILL_N_BURN (R510): FLT_KILLCFG with BURN = 1 burns the KILL_N field once, or is refused. -/
  | killNBurn (val : Word) (readback : Bool) (priv : Bool)
  /-- KILL_ARM (R512): A write of ARMD to FLT_KILL arms the command kill for the rest of the tick. -/
  | killArm (priv : Bool)
  /-- KILL (R512): A write of KILL to FLT_KILL while armed makes the vault raise the alarm and blow the root-kill fuse. -/
  | kill (priv : Bool)
  /-- KILL_DISARM (R512): Any other value written to FLT_KILL clears the arming. -/
  | killDisarm (val : Word) (priv : Bool)
  /-- KILL_ARM_LAPSE (R512): An arming lapses at the Calends that ends the tick of its write. -/
  | killArmLapse
  /-- SLEEP_REQUEST (R526): A write of SLEP to SLP_CTL requests sleep at the Calends, which refuses it or accepts it. -/
  | sleepRequest (val : Word) (priv : Bool)
  /-- SLEEP_ENTRY (R527): An accepted sleep request flushes caches and journal, writes the sleep image, zeroizes keys and gates CORE. -/
  | sleepEntry
  /-- WAKE (R528): Vigil wakes the block after WAKE_TICKS edges or time, restores the sleep image, or runs a cold start. -/
  | wake (report : BootReport)
  /-- NOP (R104): NOP completes OK with zero cost, and with ORDER reports every earlier descriptor complete. -/
  | nop (k : Fin 64) (ix : Nat)
  /-- CTR_XCRYPT (R189): Bulk CTR encryption or decryption of TEXT_LEN bytes. -/
  | ctrXcrypt (k : Fin 64) (ix : Nat)
  /-- GCM_ENC (R189): Bulk GCM encryption with tag generation. -/
  | gcmEnc (k : Fin 64) (ix : Nat)
  /-- GCM_DEC (R189): Bulk GCM decryption with tag verification. -/
  | gcmDec (k : Fin 64) (ix : Nat)
  /-- GMAC_GEN (R189): Bulk GMAC tag generation over AAD. -/
  | gmacGen (k : Fin 64) (ix : Nat)
  /-- GMAC_VER (R189): Bulk GMAC tag verification over AAD. -/
  | gmacVer (k : Fin 64) (ix : Nat)
  /-- CCM_ENC (R189): Bulk CCM or CCM* encryption with tag generation. -/
  | ccmEnc (k : Fin 64) (ix : Nat)
  /-- CCM_DEC (R189): Bulk CCM or CCM* decryption with tag verification. -/
  | ccmDec (k : Fin 64) (ix : Nat)
  /-- XTS_ENC (R189): Bulk XTS-AES encryption of one data unit. -/
  | xtsEnc (k : Fin 64) (ix : Nat)
  /-- XTS_DEC (R189): Bulk XTS-AES decryption of one data unit. -/
  | xtsDec (k : Fin 64) (ix : Nat)
  /-- CMAC_GEN (R189): Bulk CMAC tag generation. -/
  | cmacGen (k : Fin 64) (ix : Nat)
  /-- CMAC_VER (R189): Bulk CMAC tag verification. -/
  | cmacVer (k : Fin 64) (ix : Nat)
  /-- TXSC_SET (R298): Writes one SecY of a path's transmit direction at the commit. -/
  | txscSet (k : Fin 64) (ix : Nat)
  /-- RXSC_SET (R299): Writes one receive SC of a path at the commit. -/
  | rxscSet (k : Fin 64) (ix : Nat)
  /-- SA_INSTALL (R300): Fills one SA entry with key copy, PN, SSCI and salt, making it READY at the commit. -/
  | saInstall (k : Fin 64) (ix : Nat)
  /-- SA_ACTIVATE (R301): Binds an AN to an entry, making it the encoding SA or an ACTIVE receive SA at the commit. -/
  | saActivate (k : Fin 64) (ix : Nat)
  /-- SA_RETIRE (R302): Zeroizes the entry bound to an AN, frees it and unbinds the AN at the commit. -/
  | saRetire (k : Fin 64) (ix : Nat)
  /-- SA_UPDATE_PN (R302): Raises a receive entry's lowest acceptable PN at the commit. -/
  | saUpdatePn (k : Fin 64) (ix : Nat)
  /-- SA_READ (R303): Returns the state, PN and frame count of an SA entry. -/
  | saRead (k : Fin 64) (ix : Nat)
  /-- SA_OVERLAP_END (R301): At the Calends that ends tick N + OVERLAP, the other ACTIVE entries of the receive SC retire. -/
  | saOverlapEnd (p : Fin 2)
  /-- SA_REVALIDATE (R295): After a revocation epoch change, each path revalidates its SA entries over the key bus and kills refused ones. -/
  | saRevalidate (p : Fin 2)
  /-- CLIENT_TX_FRAME (R290): A client transmit frame is assigned a SecY, takes the next PN and is secured, held, passed as EAPOL or discarded. -/
  | clientTxFrame (p : Fin 2) (frame : Bytes)
  /-- LINE_RX_FRAME (R292): A line receive frame is resolved to its SC and SA, validated, replay-checked and passed or discarded. -/
  | lineRxFrame (p : Fin 2) (frame : Bytes) (err : Bool)
  /-- HEARTBEAT_SEND (R312): A heartbeat frame is sent on a path's line transmit when no frame has started for PERIOD / 2. -/
  | heartbeatSend (p : Fin 2)
  /-- HEARTBEAT_INTERVAL_END (R311): At the end of each heartbeat interval a path counts a miss if no frame validated, and fails after three. -/
  | heartbeatIntervalEnd (p : Fin 2)
  /-- PHY_DOWN (R51): A PA_LINK_UP or PB_LINK_UP low lasting 1 µs is taken as PHY down for that path. -/
  | phyDown (p : Fin 2)
  /-- PHY_UP (R313): A path's link input returns high, counting toward recovery. -/
  | phyUp (p : Fin 2)
  /-- FAILOVER_FLUSH (R315): Frames still in the failed path's transmit channel that the MAC has not accepted by 1 µs are discarded. -/
  | failoverFlush (p : Fin 2)
  /-- PATH_RECOVERED (R313): A path that has been good for RECOVER ticks is marked READY at the Calends. -/
  | pathRecovered (p : Fin 2)
  /-- PATH_RETURN_COMPLETE (R313): A RETURNING path becomes UP when its last frame has left the other path's transmit channel. -/
  | pathReturnComplete (p : Fin 2)
  /-- HOLD_FLUSH (R318): A path HELD for HOLD_TICKS ticks discards its held frames at the Calends. -/
  | holdFlush (p : Fin 2)
  /-- UPLINK (R335): An uplink frame is parsed, looked up, MIC-verified, decrypted and committed to the Almanac for freshness. -/
  | uplink (k : Fin 64) (ix : Nat)
  /-- DOWNLINK (R341): A downlink frame takes a counter, is stamped with predicted node time, secured and submitted to the ledger. -/
  | downlink (k : Fin 64) (ix : Nat)
  /-- CONV_START (R408): Opens a conversation of the given protocol for a node in the ring's channel. -/
  | convStart (k : Fin 64) (ix : Nat)
  /-- CONV_END (R409): Ends a conversation with outcome ENDED. -/
  | convEnd (k : Fin 64) (ix : Nat)
  /-- CONV_QUERY (R409): Writes a conversation table entry to host memory, KEY reading zero. -/
  | convQuery (k : Fin 64) (ix : Nat)
  /-- CONVERSATION_STEP (R400): A START, RX or TIMEOUT step of a conversation is admitted and run on a conversation engine. -/
  | conversationStep (ch : Fin 16) (t : Nat)
  /-- CONV_TIMEOUT (R398): A conversation's TIMER reaches 0 at a Calends, returning it to OPEN and queueing its TIMEOUT step. -/
  | convTimeout (ch : Fin 16) (id : Fin 256)
  /-- CONV_EXPIRE (R398): A conversation's LIFE reaches 0 at a Calends and it ends EXPIRED. -/
  | convExpire (ch : Fin 16) (id : Fin 256)
  /-- ENGINE_NOP (R414): Engine instruction with no effect. -/
  | engineNop (ch : Fin 16) (e : Fin 2)
  /-- ADD (R414): Engine instruction RD = RA + RB. -/
  | engineAdd (ch : Fin 16) (e : Fin 2)
  /-- SUB (R414): Engine instruction RD = RA - RB. -/
  | engineSub (ch : Fin 16) (e : Fin 2)
  /-- AND (R414): Engine instruction RD = RA and RB. -/
  | engineAnd (ch : Fin 16) (e : Fin 2)
  /-- OR (R414): Engine instruction RD = RA or RB. -/
  | engineOr (ch : Fin 16) (e : Fin 2)
  /-- XOR (R414): Engine instruction RD = RA xor RB. -/
  | engineXor (ch : Fin 16) (e : Fin 2)
  /-- SHL (R414): Engine instruction shifts RA left by RB[4:0]. -/
  | engineShl (ch : Fin 16) (e : Fin 2)
  /-- SHR (R414): Engine instruction shifts RA right logically by RB[4:0]. -/
  | engineShr (ch : Fin 16) (e : Fin 2)
  /-- ADDI (R414): Engine instruction RD = RA + signed IMM. -/
  | engineAddi (ch : Fin 16) (e : Fin 2)
  /-- LUI (R414): Engine instruction RD = IMM shifted left by 18. -/
  | engineLui (ch : Fin 16) (e : Fin 2)
  /-- ORI (R414): Engine instruction RD = RA or zero-extended IMM. -/
  | engineOri (ch : Fin 16) (e : Fin 2)
  /-- BEQ (R414): Engine instruction branches if RA equals RB. -/
  | engineBeq (ch : Fin 16) (e : Fin 2)
  /-- BNE (R414): Engine instruction branches if RA differs from RB. -/
  | engineBne (ch : Fin 16) (e : Fin 2)
  /-- BLTU (R414): Engine instruction branches if RA is below RB, unsigned. -/
  | engineBltu (ch : Fin 16) (e : Fin 2)
  /-- BGEU (R414): Engine instruction branches if RA is at least RB, unsigned. -/
  | engineBgeu (ch : Fin 16) (e : Fin 2)
  /-- JMP (R414): Engine instruction branches by IMM. -/
  | engineJmp (ch : Fin 16) (e : Fin 2)
  /-- LDE (R414): Engine instruction loads an entry word. -/
  | engineLde (ch : Fin 16) (e : Fin 2)
  /-- STE (R414): Engine instruction stores an ARG or CHAL entry word. -/
  | engineSte (ch : Fin 16) (e : Fin 2)
  /-- LDI (R414): Engine instruction loads an input payload byte. -/
  | engineLdi (ch : Fin 16) (e : Fin 2)
  /-- STO (R414): Engine instruction stores an output byte. -/
  | engineSto (ch : Fin 16) (e : Fin 2)
  /-- HDR (R414): Engine instruction reads an input header field. -/
  | engineHdr (ch : Fin 16) (e : Fin 2)
  /-- RAND (R414): Engine instruction takes 32 bits from the vault DRBG. -/
  | engineRand (ch : Fin 16) (e : Fin 2)
  /-- CHK (R414): Engine instruction compares 8 input bytes with CHAL in constant time. -/
  | engineChk (ch : Fin 16) (e : Fin 2)
  /-- NKEY (R414): Engine instruction derives the node key of an epoch into KEY. -/
  | engineNkey (ch : Fin 16) (e : Fin 2)
  /-- KOUT (R414): Engine instruction copies KEY into the output. -/
  | engineKout (ch : Fin 16) (e : Fin 2)
  /-- SEND (R395): Engine instruction sends a conversation downlink in the node's receive window and ends the step. -/
  | engineSend (ch : Fin 16) (e : Fin 2)
  /-- WAIT (R414): Engine instruction ends the step. -/
  | engineWait (ch : Fin 16) (e : Fin 2)
  /-- SYNC (R403): Engine instruction reports resync success to the Almanac. -/
  | engineSync (ch : Fin 16) (e : Fin 2)
  /-- POST (R414): Engine instruction raises a POST event with a code and two values. -/
  | enginePost (ch : Fin 16) (e : Fin 2)
  /-- END (R414): Engine instruction ends the conversation with an outcome and detail. -/
  | engineEnd (ch : Fin 16) (e : Fin 2)
  /-- RTRY (R414): Engine instruction consumes a retry or ends the conversation GAVE_UP. -/
  | engineRtry (ch : Fin 16) (e : Fin 2)
  /-- GENERATE (R160): Stages a key drawn from the DRBG into a slot. -/
  | generate (k : Fin 64) (ix : Nat)
  /-- DERIVE (R161): Stages a key derived with one derivation of R131 into a slot. -/
  | derive (k : Fin 64) (ix : Nat)
  /-- IMPORT_WRAPPED (R162): Unwraps a key from host memory and stages it into a slot. -/
  | importWrapped (k : Fin 64) (ix : Nat)
  /-- IMPORT_CLEAR (R163): Stages a clear LINK-domain key from the descriptor into a slot and zeroes it in the ring. -/
  | importClear (k : Fin 64) (ix : Nat)
  /-- WRAP (R165): Writes a slot's attributes and material, wrapped under another key, to host memory. -/
  | wrap (k : Fin 64) (ix : Nat)
  /-- PERSIST (R166): Sets or clears a slot's PERSIST flag, queueing its record or a tombstone at the commit. -/
  | persist (k : Fin 64) (ix : Nat)
  /-- INVALIDATE (R140): Renews a slot's generation at the commit, orphaning its subtree. -/
  | invalidate (k : Fin 64) (ix : Nat)
  /-- ERASE (R140): Zeroizes a slot and frees it at the commit, orphaning its children. -/
  | erase (k : Fin 64) (ix : Nat)
  /-- SET_LIMIT (R167): Sets a slot's usage limit at the commit. -/
  | setLimit (k : Fin 64) (ix : Nat)
  /-- DELIVER (R168): Loads a pinned delivered copy of a key into a channel's key bank. -/
  | deliver (k : Fin 64) (ix : Nat)
  /-- QUERY (R169): Writes a slot's 48-byte record to host memory. -/
  | query (k : Fin 64) (ix : Nat)
  /-- ATTEST (R172): Builds the attestation message and returns its CMAC under the attestation secret. -/
  | attest (k : Fin 64) (ix : Nat)
  /-- OPBANK_WRITE (R174): Wraps and burns one operator secret into the operator bank and reads it back. -/
  | opbankWrite (k : Fin 64) (ix : Nat) (readback : Bool)
  /-- PROVISION_CLOSE (R175): Locks the operator bank at the commit and moves the lifecycle to DEPLOYED. -/
  | provisionClose (k : Fin 64) (ix : Nat)
  /-- OCTAVE_SWEEP_VISIT (R145): The sweep re-masks one slot, checks its parity and chain, and zeroizes it if orphaned. -/
  | octaveSweepVisit (parityOk : Bool) (lastUs : Nat)
  /-- NMS_PROFILE_LOAD (R478): Verifies a regulatory profile, stores it in the journal and stages it. -/
  | nmsProfileLoad (k : Fin 64) (ix : Nat)
  /-- NMS_UCODE_LOAD (R478): Verifies an operator microcode image, stores it in the journal and stages it. -/
  | nmsUcodeLoad (k : Fin 64) (ix : Nat)
  /-- NMS_UPD_WRITE (R481): Verifies an NMS image and programs it into the target image area. -/
  | nmsUpdWrite (k : Fin 64) (ix : Nat) (fail : Option Nat)
  /-- NMS_UPD_ACTIVATE (R482): Sets TRIAL to the area written last. -/
  | nmsUpdActivate (k : Fin 64) (ix : Nat) (ok : Bool)
  /-- NMS_UPD_CONFIRM (R482): Confirms the running trial image. -/
  | nmsUpdConfirm (k : Fin 64) (ix : Nat)
  /-- NMS_ROLLBACK (R484): Blows rollback counter steps up to TARGET. -/
  | nmsRollback (k : Fin 64) (ix : Nat)
  /-- NMS_KEYFUSE (R475): Burns one operator public key into the NMS key bank. -/
  | nmsKeyfuse (k : Fin 64) (ix : Nat) (readback : Bool)
  /-- NMS_LOG_READ (R490): Writes security log entries from the buffer or the journal to host memory. -/
  | nmsLogRead (k : Fin 64) (ix : Nat)
  /-- NMS_LOG_NOTE (R488): Captures a NOTE entry in the security log. -/
  | nmsLogNote (k : Fin 64) (ix : Nat)
  /-- NMS_STATS (R491): Writes the whole STATUS window, as in force after the next Calends, to host memory. -/
  | nmsStats (k : Fin 64) (ix : Nat)
  /-- LOG_FLUSH (R489): The NMS flushes log entries to the journal as LOG records. -/
  | logFlush
  /-- VIGIL_WARN (R485): A sensor reading outside its operating range raises a warning. -/
  | vigilWarn (sensor : Fin 10) (reading : BitVec 16)
  /-- JF_FORMAT (R443): Formats a blank or foreign journal device and mounts it. -/
  | jfFormat (k : Fin 64) (ix : Nat)
  /-- JF_SYNC (R444): Makes every record queued before its admission durable. -/
  | jfSync (k : Fin 64) (ix : Nat)
  /-- JF_SCRUB (R442): Starts a scrub pass if none runs. -/
  | jfScrub (k : Fin 64) (ix : Nat)
  /-- PAGE_PROGRAM (R428): The journal manager programs a page of queued records, for an urgent record, a full page or the flush time. -/
  | pageProgram
  /-- PAGE_PROGRAM_DONE (R428): A page program completes, making its records durable or marking the block bad. -/
  | pageProgramDone (ok : Bool)
  /-- BLOCK_ROTATION (R429): The oldest ring block's live records are copied forward and the block is erased. -/
  | blockRotation
  /-- SNAPSHOT_RESNAPSHOT (R430): The oldest snapshot block is re-snapshotted and erased. -/
  | snapshotResnapshot
  /-- SCRUB_READ (R432): A scrub reads one programmed page and refreshes its block if needed. -/
  | scrubRead (ecc : Nat)
  /-- JOURNAL_NO_ANSWER (R431): A device that does not answer within 20 ms makes the journal READ_ONLY. -/
  | journalNoAnswer
  /-- SNAPSHOT_SWEEP (R366): The Almanac hands dirty entries to the journal as snapshot items, up to RATE per tick. -/
  | snapshotSweep
  /-- KR_KEYLOAD (R467): Unwraps and stages the ring key into slot 0x009. -/
  | krKeyload (k : Fin 64) (ix : Nat)
  /-- KR_ASSIGN (R462): Proposes an ASSIGN of a node range to a unit. -/
  | krAssign (k : Fin 64) (ix : Nat)
  /-- KR_QUERY (R468): Writes the ownership map to host memory. -/
  | krQuery (k : Fin 64) (ix : Nat)
  /-- BEACON (R454): A received BEACON updates port states, FLOOR, proposals and the unit's hearing. -/
  | beacon
  /-- CLAIM (R457): A received CLAIM raises FLOOR and may void a pending claim. -/
  | claim
  /-- CHANGE (R461): A received CHANGE proposes a map change of the next version. -/
  | change
  /-- ENTRY (R463): A received ENTRY places moved Almanac entries at the target. -/
  | entry
  /-- MOVE_END (R463): A received MOVE_END lets the target serve the moved range from the next Calends. -/
  | moveEnd
  /-- MAP (R454): A received MAP message supplies the ownership map. -/
  | map
  /-- RING_MESSAGE_FORWARD (R453): A ring message is forwarded to the opposite port and authenticated before processing. -/
  | ringMessageForward (port : Bool) (msg : Bytes) (crcOk : Bool)
  /-- KRYSA_PORT_DOWN (R450): A Krysa port goes down on KE_LOCK or KW_LOCK low for 1 µs. -/
  | krysaPortDown (port : Bool)
  /-- CLAIM_TIMEOUT (R457): A claim not confirmed within 64 ticks is voided. -/
  | claimTimeout
  /-- OWNERSHIP_LEASE_EXPIRY (R460): An ownership lease runs out 30 s after its last beacon. -/
  | ownershipLeaseExpiry
  /-- MEMORY_READ (R219): A read accepted at the memory-side port is checked, steered and issued downstream or refused. -/
  | memoryRead (addr : BitVec 48) (cls : BitVec 4) (tag : BitVec 8)
  /-- MEMORY_WRITE (R229): A full or partial write is checked, encrypted under a raised minor counter, tagged and issued. -/
  | memoryWrite (addr : BitVec 48) (cls : BitVec 4) (data : Line) (be : BitVec 64) (tag : BitVec 8)
  /-- DRAM_DATA_RETURN (R225): Data, tag line or tree nodes arrive from DRAM, are decrypted and verified, and the read is answered. -/
  | dramDataReturn (n : Nat) (ret : DramReturn)
  /-- CACHE_EVICTION (R232): A dirty tag line or node is written back to DRAM with its seal. -/
  | cacheEviction (ch : Fin 16)
  /-- REGION_INIT_PASS (R247): The initialisation pass writes initial tag lines of a region one every 4 ec. -/
  | regionInitPass (n : Fin 64)
  /-- MARKED_WRITEBACK (R223): Marked tag lines of a changed region are written back and dropped in the background. -/
  | markedWriteback (ch : Fin 16)
  /-- EQX_GROUP_CONVERT (R276): Equinox converts one group of its span to the new keys and epoch. -/
  | eqxGroupConvert (j : Fin 4) (ret : DramReturn)
  /-- EQX_REBUILD_WRITE (R282): A REBUILD writes zeros to tag lines, data lines and tree lines. -/
  | eqxRebuildWrite (j : Fin 4)
  /-- DATAPATH_FAULT (R199): A channel's check fails and the channel is fenced, zeroized and gated. -/
  | datapathFault (ch : Fin 16) (cause : BitVec 4)
  /-- POWER_TOKEN_GRANT (R522): The arbiter grants a power token and powers a channel, which then runs its tests. -/
  | powerTokenGrant (pass : Bool)
  /-- UNIT_WEDGE (R498): A unit's progress watchdog expires and the unit is stopped until full reset. -/
  | unitWedge (unit : Fin 6)
  /-- ALARM (R501): The alarm line rises and every volatile key store is zeroized within 2 µs. -/
  | alarm (cause : AlarmCause) (eraseOk : Bool)
  /-- ALARM_COUNT_STEP (R509): One step of the alarm count is burned, and the root-kill fuse when it reaches KILL_N. -/
  | alarmCountStep (ok : Bool)
  /-- OUTPUT_SCRUB (R503): After the erase, the host port writes zeros over unfinished items' output ranges. -/
  | outputScrub
  /-- POWER_FAIL_SHUTDOWN (R57): Board input below 4.4 V stops new work, zeroizes keys and enters the power-fail state. -/
  | powerFailShutdown
  /-- SX_RST_N_ASSERT (R60): Assertion of SX_RST_N is a full reset that zeroizes every volatile key store. -/
  | sxRstNAssert (por : Bool)
  /-- P0 (R516): A start checks every sensor and VDD_FUSE and burns any pending alarm step. -/
  | p0 (report : BootReport)
  /-- P1 (R122): The vault unseals the root, runs its tests, fills the P1 slots and CH0 and CH1 are powered. -/
  | p1 (report : BootReport)
  /-- P2 (R439): The journal is mounted, leases resume with the intercalary skip and the Calends count is set. -/
  | p2 (report : BootReport)
  /-- P3 (R149): The vault restores the key tree from the journal and the NMS selects its image. -/
  | p3 (report : BootReport)
  /-- P4 (R516): Every remaining non-IDLE channel of the partition is powered and tested. -/
  | p4 (report : BootReport)
  /-- P5 (R367): The Almanac restores its entries from the snapshot. -/
  | p5 (report : BootReport)
  /-- IDCODE (R63): The TAP shifts out the IDCODE. -/
  | idcode
  /-- DBG_STATUS (R63): The TAP shifts out the debug status bits. -/
  | dbgStatus
  /-- DBG_CHALLENGE (R63): The TAP shifts out a fresh 128-bit challenge. -/
  | dbgChallenge
  /-- DBG_RESPONSE (R125): A valid response latches debug unlock for the next full reset. -/
  | dbgResponse (resp : Bytes)
  /-- NMS_DAP (R63): Selects the NMS debug access port under the Carnival root, or BYPASS. -/
  | nmsDap
  /-- SCAN (R65): Zeroizes every volatile key store and opens the scan chains, with the debug fuse blown. -/
  | scan
  /-- BYPASS (R63): Selects the one-bit bypass register: an instruction code that selects no other instruction, 0xFF its own, and the
  bits shifted in. -/
  | bypass (code : BitVec 8 := 0xFF) (tdi : List Bool := [])
  /-- VIGIL_WARN_CLEAR (R485): A Vigil warning clears once its reading has stayed within the operating range for 1 s. -/
  | vigilWarnClear (sensor : Fin 10) (reading : BitVec 16)
  /-- KRYSA_PORT_UP (R450): A Krysa port comes up when its KE_LOCK or KW_LOCK input returns high and authenticated messages arrive on it. -/
  | krysaPortUp (port : Bool)
  /-- BLOCK_ERASE_DONE (R431): A journal block erase completes, leaving the block erased or marking it bad on an erase failure. -/
  | blockEraseDone (ok : Bool)
  /-- LINE_TX_READY (R50): A change of a path's line transmit READY is passed through to client transmit READY within 4 lclk, and holds back or releases frames on that path. -/
  | lineTxReady (p : Fin 2) (ready : Bool)
  deriving DecidableEq, Repr

end Sys2Proof
end

