-- ==== Sys2Proof/Decode.lean ====
section
/-! DEFINITION. The commands spelled by table words. No row of spec/opcode_table.json gives bits (its "fields" are all empty):
the commands of this block reach it at its interfaces, not as encoded words. -/

namespace Sys2Proof

/-- The command that a word of the table's bits spells: none, for no row has bits. -/
def decodeTableWord (_nbits _w : Nat) : Option Instr := none

end Sys2Proof
end

