-- ==== Sys2Proof/Config.lean ====
section
/-! DEFINITION. What an implementation fixes, and the free values: constants without a body, so that no proof can see them. -/

namespace Sys2Proof.Config

/-- FREE VALUE. The n-th byte the vault's DRBG gives since the device was made (R125 names the generator; its bits are
unpredictable by design). Every draw of the model reads it at the counter `drbg` of the state and advances the counter.
DESIGN CHOICE (log entry 2). -/
opaque drbgByte : Nat → BitVec 8

/-- FREE VALUE. Whether the part is stepping D1 (R538: STEP reads 0xD0 or 0xD1). DESIGN CHOICE (log entry 20). -/
opaque stepD1 : Bool

/-- FREE VALUE. The default usage limit of a key whose ALG and OPS permit none of the modes of R195 (R158 states none).
DESIGN CHOICE (log entry 10). -/
opaque noModeLimit : Nat → Nat → BitVec 40

/-- FREE VALUE. ORIGIN, OPS, FLAGS and USE_LIMIT in the records of the fixed slots 0x007 to 0x00B, by slot: the spec gives
those fields for the domain keys and the memory base key only (R548). DESIGN CHOICE (log entry 11). -/
opaque fixedOrigin : Nat → BitVec 8
/-- FREE VALUE. See `fixedOrigin`. DESIGN CHOICE (log entry 11). -/
opaque fixedOps : Nat → BitVec 6
/-- FREE VALUE. See `fixedOrigin`. DESIGN CHOICE (log entry 11). -/
opaque fixedFlags : Nat → BitVec 2
/-- FREE VALUE. See `fixedOrigin`. -/
opaque fixedLimit : Nat → BitVec 40

/-- FREE VALUE. The set of the tag cache that a tree node goes to, by its address: the spec gives the cache 4 ways of 1,024 entries and
no set index (R231). DESIGN CHOICE (log entry 9). -/
opaque tagSet : Nat → BitVec 8

/-- FREE VALUE. The i-th byte of the field of an operator secret, by secret ID, whose burn was cut off: the spec says that the field is
unusable and not which of its bits were blown (R174). DESIGN CHOICE (log entry 158). -/
opaque cutField : Nat → Nat → BitVec 8

/-- FREE VALUE. The gap of the n-th failover in ns: the spec gives its bound of 20 us and no value (R315).
DESIGN CHOICE (log entry 13). -/
opaque failoverGap : Nat → BitVec 16

/-- FREE VALUE. The byte quantum of the deficit round-robin of a transmit channel, less one: R316 gives equal quanta and not their
size. DESIGN CHOICE (log entry 170). -/
opaque drrQuantum : BitVec 16

/-- FREE VALUE. ADDR of the integrity event of a subtree that a fence makes LOST, by region and subtree: the spec gives the
address of a line or group and a fence names none (R267, R268). DESIGN CHOICE (log entry 14). -/
opaque subtreeAddr : Nat → Nat → BitVec 40

/-- FREE VALUE. A(c) of a Calends count c that the Almanac has not recorded: before the 256 recorded ones of this boot there
is no value the spec states (R350, R351). DESIGN CHOICE (log entry 15). -/
opaque almTimeBefore : Nat → BitVec 64

/-- FREE VALUE. The IEEE 802.15.4 MAC header, with its auxiliary security header, of a conversation downlink for an S154 node:
the spec builds such a downlink as a DOWNLINK item and names no source for its header (R391, R395).
DESIGN CHOICE (log entry 16). -/
opaque convHeader : Nat → List (BitVec 8)
/-- FREE VALUE. The offset of the auxiliary security header in `convHeader`. DESIGN CHOICE (log entry 16). -/
opaque convAuxOff : Nat → BitVec 8
/-- FREE VALUE. The controller's extended address in the nonce of such a downlink. DESIGN CHOICE (log entry 16). -/
opaque convExtAddr : Nat → BitVec 64

/-- FREE VALUE. The time that steps 1 to 4 of the alarm erase take, by Calends count: the spec gives its bound of 2,000 ns
(R501). DESIGN CHOICE (log entry 17). -/
opaque eraseNs : Nat → BitVec 16

/-- FREE VALUE. EVENT code of the log entry of a wedge: R498 logs it and R488 gives it no code.
DESIGN CHOICE (log entry 18). -/
opaque wedgeEvent : BitVec 16
/-- FREE VALUE. CLASS of that entry. DESIGN CHOICE (log entry 18). -/
opaque wedgeClass : BitVec 8
/-- FREE VALUE. DATA of that entry, by unit. DESIGN CHOICE (log entry 18). -/
opaque wedgeData : Nat → List (BitVec 8)

/-- FREE VALUE. The encrypted bytes of the sleep image with an image counter, by offset: the spec gives no layout of the
plaintext (R525). DESIGN CHOICE (log entry 19). -/
opaque sleepImage : Nat → Nat → BitVec 8
/-- FREE VALUE. The length of the sleep image with an image counter, at most 2 MiB (R524, R525).
DESIGN CHOICE (log entry 19). -/
opaque sleepLen : Nat → BitVec 21

end Sys2Proof.Config
end

