-- ==== Sys2Proof/Machine/Bits.lean ====
section
/-! DEFINITION. Bit fields, byte orders and byte strings: the plain helpers every other file reads fields with. -/

namespace Sys2Proof.Machine

/-- Bits hi..lo of a number. -/
def bits (v hi lo : Nat) : Nat := (v >>> lo) % 2 ^ (hi + 1 - lo)

/-- Bit n of a number. -/
def bit (v n : Nat) : Bool := v.testBit n

/-- A Bool as a bit. -/
def b2n (b : Bool) : Nat := if b then 1 else 0

/-- v with its bits hi..lo replaced by x. -/
def setBits (v hi lo x : Nat) : Nat :=
  let m := 2 ^ (hi + 1 - lo)
  (v - bits v hi lo * 2 ^ lo) + (x % m) * 2 ^ lo

/-- Little-endian value of a byte string: the first byte is the least significant. -/
def leN : Bytes → Nat
  | [] => 0
  | b :: bs => b.toNat + 256 * leN bs

/-- Big-endian value of a byte string: the first byte is the most significant. -/
def beN (bs : Bytes) : Nat := bs.foldl (fun a b => a * 256 + b.toNat) 0

/-- n bytes of v, little-endian. -/
def toLe : Nat → Nat → Bytes
  | 0, _ => []
  | n + 1, v => BitVec.ofNat 8 v :: toLe n (v / 256)

/-- n bytes of v, big-endian. -/
def toBe (n v : Nat) : Bytes := (toLe n v).reverse

/-- n zero bytes. -/
def zeros (n : Nat) : Bytes := List.replicate n 0

/-- len bytes of bs from offset off; a string that ends early is filled with zero bytes. -/
def sub (bs : Bytes) (off len : Nat) : Bytes :=
  let x := (bs.drop off).take len
  x ++ zeros (len - x.length)

/-- Little-endian field of len bytes at offset off. -/
def leAt (bs : Bytes) (off len : Nat) : Nat := leN (sub bs off len)

/-- Big-endian field of len bytes at offset off. -/
def beAt (bs : Bytes) (off len : Nat) : Nat := beN (sub bs off len)

/-- The byte at an offset; zero past the end. -/
def byteAt (bs : Bytes) (off : Nat) : Byte := bs.getD off 0

/-- Byte-wise exclusive or, as long as the first string. -/
def bxor : Bytes → Bytes → Bytes
  | [], _ => []
  | a :: as, [] => a :: as
  | a :: as, b :: bs => (a ^^^ b) :: bxor as bs

/-- Cut a byte string into pieces of n bytes, the last one possibly shorter; fuel bounds the pieces. -/
def chunksAux (n : Nat) : Nat → Bytes → List Bytes
  | 0, _ => []
  | f + 1, bs => if bs.isEmpty then [] else bs.take n :: chunksAux n f (bs.drop n)

/-- Cut a byte string into pieces of n bytes (n at least 1). -/
def chunks (n : Nat) (bs : Bytes) : List Bytes := chunksAux n bs.length bs

/-- bs with bytes xs written over it from offset off. -/
def overlay (bs : Bytes) (off : Nat) (xs : Bytes) : Bytes :=
  sub bs 0 off ++ xs ++ bs.drop (off + xs.length)

/-- The bytes of a 512-bit line, byte 0 first (R45). -/
def lineBytes (d : Line) : Bytes := toLe 64 d.toNat

/-- A 512-bit line of 64 bytes. -/
def bytesLine (bs : Bytes) : Line := BitVec.ofNat 512 (leN bs)

/-- Saturating increment of a counter of w bits. -/
def satInc (w v : Nat) : Nat := min (v + 1) (2 ^ w - 1)

/-- Saturating addition to a counter of w bits. -/
def satAdd (w v d : Nat) : Nat := min (v + d) (2 ^ w - 1)

/-- The least n with 2 ^ n at least v, for v up to 2 ^ fuel. -/
def clog2Aux : Nat → Nat → Nat → Nat
  | 0, n, _ => n
  | f + 1, n, v => if 2 ^ n ≥ v then n else clog2Aux f (n + 1) v

/-- Division rounding up. -/
def cdiv (a b : Nat) : Nat := (a + b - 1) / b

/-- All indexes below n that satisfy p. -/
def idxs (n : Nat) (p : Nat → Bool) : List Nat := (List.range n).filter p

/-- v read as a two's complement number of w bits. -/
def signed (w v : Nat) : Int := if v < 2 ^ (w - 1) then (v : Int) else (v : Int) - (2 ^ w : Nat)

/-- The w-bit two's complement encoding of an integer. -/
def unsigned (w : Nat) (i : Int) : Nat := (i % ((2 ^ w : Nat) : Int)).toNat

/-- Bring an integer into lo..hi. -/
def clampInt (lo hi i : Int) : Int := max lo (min hi i)

end Sys2Proof.Machine
end

