-- ==== Sys2Proof/Machine/Hash.lean ====
section
/-! DEFINITION. SHA-384 (FIPS 180-4) and ECDSA over P-384 (FIPS 186-5), which verify images, profiles and debug responses (R65, R474).
PRESUMED: the standards' steps and constants are taken from outside the spec, which names them (log entry 3). -/

namespace Sys2Proof.Machine

/-- Round constants 0 to 9 of SHA-512 and SHA-384. -/
def sha512K0 : List (BitVec 64) :=
  [0x428a2f98d728ae22, 0x7137449123ef65cd, 0xb5c0fbcfec4d3b2f, 0xe9b5dba58189dbbc, 0x3956c25bf348b538,
   0x59f111f1b605d019, 0x923f82a4af194f9b, 0xab1c5ed5da6d8118, 0xd807aa98a3030242, 0x12835b0145706fbe]

/-- Round constants 10 to 19 of SHA-512 and SHA-384. -/
def sha512K1 : List (BitVec 64) :=
  [0x243185be4ee4b28c, 0x550c7dc3d5ffb4e2, 0x72be5d74f27b896f, 0x80deb1fe3b1696b1, 0x9bdc06a725c71235,
   0xc19bf174cf692694, 0xe49b69c19ef14ad2, 0xefbe4786384f25e3, 0x0fc19dc68b8cd5b5, 0x240ca1cc77ac9c65]

/-- Round constants 20 to 29 of SHA-512 and SHA-384. -/
def sha512K2 : List (BitVec 64) :=
  [0x2de92c6f592b0275, 0x4a7484aa6ea6e483, 0x5cb0a9dcbd41fbd4, 0x76f988da831153b5, 0x983e5152ee66dfab,
   0xa831c66d2db43210, 0xb00327c898fb213f, 0xbf597fc7beef0ee4, 0xc6e00bf33da88fc2, 0xd5a79147930aa725]

/-- Round constants 30 to 39 of SHA-512 and SHA-384. -/
def sha512K3 : List (BitVec 64) :=
  [0x06ca6351e003826f, 0x142929670a0e6e70, 0x27b70a8546d22ffc, 0x2e1b21385c26c926, 0x4d2c6dfc5ac42aed,
   0x53380d139d95b3df, 0x650a73548baf63de, 0x766a0abb3c77b2a8, 0x81c2c92e47edaee6, 0x92722c851482353b]

/-- Round constants 40 to 49 of SHA-512 and SHA-384. -/
def sha512K4 : List (BitVec 64) :=
  [0xa2bfe8a14cf10364, 0xa81a664bbc423001, 0xc24b8b70d0f89791, 0xc76c51a30654be30, 0xd192e819d6ef5218,
   0xd69906245565a910, 0xf40e35855771202a, 0x106aa07032bbd1b8, 0x19a4c116b8d2d0c8, 0x1e376c085141ab53]

/-- Round constants 50 to 59 of SHA-512 and SHA-384. -/
def sha512K5 : List (BitVec 64) :=
  [0x2748774cdf8eeb99, 0x34b0bcb5e19b48a8, 0x391c0cb3c5c95a63, 0x4ed8aa4ae3418acb, 0x5b9cca4f7763e373,
   0x682e6ff3d6b2b8a3, 0x748f82ee5defb2fc, 0x78a5636f43172f60, 0x84c87814a1f0ab72, 0x8cc702081a6439ec]

/-- Round constants 60 to 69 of SHA-512 and SHA-384. -/
def sha512K6 : List (BitVec 64) :=
  [0x90befffa23631e28, 0xa4506cebde82bde9, 0xbef9a3f7b2c67915, 0xc67178f2e372532b, 0xca273eceea26619c,
   0xd186b8c721c0c207, 0xeada7dd6cde0eb1e, 0xf57d4f7fee6ed178, 0x06f067aa72176fba, 0x0a637dc5a2c898a6]

/-- Round constants 70 to 79 of SHA-512 and SHA-384. -/
def sha512K7 : List (BitVec 64) :=
  [0x113f9804bef90dae, 0x1b710b35131c471b, 0x28db77f523047d84, 0x32caab7b40c72493, 0x3c9ebe0a15c9bebc,
   0x431d67c49c100d4c, 0x4cc5d4becb3e42b6, 0x597f299cfc657e2a, 0x5fcb6fab3ad6faec, 0x6c44198c4a475817]

/-- The 80 round constants. -/
def sha512K : List (BitVec 64) :=
  sha512K0 ++ sha512K1 ++ sha512K2 ++ sha512K3 ++ sha512K4 ++ sha512K5 ++ sha512K6 ++ sha512K7

/-- The initial hash value of SHA-384. -/
def sha384H0 : List (BitVec 64) :=
  [0xcbbb9d5dc1059ed8, 0x629a292a367cd507, 0x9159015a3070dd17, 0x152fecd8f70e5939,
   0x67332667ffc00b31, 0x8eb44a8768581511, 0xdb0c2e0d64f98fa7, 0x47b5481dbefa4fa4]

/-- The message schedule, newest word first, extended by n words. -/
def shaSched : Nat → List (BitVec 64) → List (BitVec 64)
  | 0, w => w
  | n + 1, w =>
    let a := w.getD 1 0
    let b := w.getD 14 0
    let s1 := a.rotateRight 19 ^^^ a.rotateRight 61 ^^^ (a >>> 6)
    let s0 := b.rotateRight 1 ^^^ b.rotateRight 8 ^^^ (b >>> 7)
    shaSched n ((s1 + w.getD 6 0 + s0 + w.getD 15 0) :: w)

/-- One round of the compression on the eight working words. -/
def shaRound (h : List (BitVec 64)) (kw : BitVec 64) : List (BitVec 64) :=
  let a := h.getD 0 0; let b := h.getD 1 0; let c := h.getD 2 0; let d := h.getD 3 0
  let e := h.getD 4 0; let f := h.getD 5 0; let g := h.getD 6 0; let hh := h.getD 7 0
  let t1 := hh + (e.rotateRight 14 ^^^ e.rotateRight 18 ^^^ e.rotateRight 41) + ((e &&& f) ^^^ (~~~e &&& g)) + kw
  let t2 := (a.rotateRight 28 ^^^ a.rotateRight 34 ^^^ a.rotateRight 39) + ((a &&& b) ^^^ (a &&& c) ^^^ (b &&& c))
  [t1 + t2, a, b, c, d + t1, e, f, g]

/-- The compression of one 128-byte block. -/
def shaBlock (h : List (BitVec 64)) (blk : Bytes) : List (BitVec 64) :=
  let w0 := ((chunks 8 blk).map (fun b => BitVec.ofNat 64 (beN b))).reverse
  let w := (shaSched 64 w0).reverse
  let x := ((sha512K.zip w).map (fun p => p.1 + p.2)).foldl shaRound h
  (h.zip x).map (fun p => p.1 + p.2)

/-- SHA-384 of a byte string, 48 bytes. -/
def sha384 (m : Bytes) : Bytes :=
  let l := m.length
  let p := m ++ [0x80#8] ++ zeros ((239 - l % 128) % 128) ++ toBe 16 (8 * l)
  (((chunks 128 p).foldl shaBlock sha384H0).flatMap (fun w => toBe 8 w.toNat)).take 48

/-- The field prime of P-384. -/
def p384P : Nat := 2 ^ 384 - 2 ^ 128 - 2 ^ 96 + 2 ^ 32 - 1

/-- The group order of P-384. -/
def p384N : Nat := 0xffffffffffffffffffffffffffffffffffffffffffffffffc7634d81f4372ddf581a0db248b0a77aecec196accc52973

/-- The curve coefficient b of P-384. -/
def p384B : Nat := 0xb3312fa7e23ee7e4988e056be3f82d19181d9c6efe8141120314088f5013875ac656398d8a2ed19d2a85c8edd3ec2aef

/-- The base point's coordinates. -/
def p384Gx : Nat := 0xaa87ca22be8b05378eb1c71ef320ad746e1d3b628ba79b9859f741e082542a385502f25dbf55296c3a545e3872760ab7

/-- The base point's second coordinate. -/
def p384Gy : Nat := 0x3617de4a96262c6f5d9e98bf9292dc29f8f41dbd289a147ce9da3113b5f0b8c00a60b1ce1d7e819d7a431d7c90ea0e5f

/-- b ^ e modulo m, over n bits of e. -/
def modPow : Nat → Nat → Nat → Nat → Nat
  | 0, _, _, m => 1 % m
  | n + 1, b, e, m => (if e % 2 = 1 then b else 1) * modPow n (b * b % m) (e / 2) m % m

/-- Subtraction modulo m. -/
def msub (a b m : Nat) : Nat := (a + m - b % m) % m

/-- A point of P-384 in Jacobian coordinates; third coordinate 0 is the point at infinity. -/
abbrev JPoint := Nat × Nat × Nat

/-- Doubling of a point. -/
def jdbl (q : JPoint) : JPoint :=
  let p := p384P
  let (x, y, z) := q
  if z = 0 ∨ y = 0 then (1, 1, 0) else
  let yy := y * y % p
  let s := 4 * x * yy % p
  let zz := z * z % p
  let m := 3 * (msub x zz p) * (x + zz) % p
  let x' := msub (m * m) (2 * s) p
  (x', msub (m * msub s x' p) (8 * yy * yy) p, 2 * y * z % p)

/-- Addition of two points. -/
def jadd (q r : JPoint) : JPoint :=
  let p := p384P
  let (x1, y1, z1) := q
  let (x2, y2, z2) := r
  if z1 = 0 then r else if z2 = 0 then q else
  let z1z := z1 * z1 % p
  let z2z := z2 * z2 % p
  let u1 := x1 * z2z % p
  let u2 := x2 * z1z % p
  let s1 := y1 * z2 * z2z % p
  let s2 := y2 * z1 * z1z % p
  if u1 = u2 then (if s1 = s2 then jdbl q else (1, 1, 0)) else
  let h := msub u2 u1 p
  let rr := msub s2 s1 p
  let hh := h * h % p
  let hhh := h * hh % p
  let v := u1 * hh % p
  let x3 := msub (rr * rr) (hhh + 2 * v) p
  (x3, msub (rr * msub v x3 p) (s1 * hhh) p, z1 * z2 * h % p)

/-- Scalar multiple over n bits of k, least significant bit first. -/
def jmul : Nat → Nat → JPoint → JPoint → JPoint
  | 0, _, _, acc => acc
  | n + 1, k, q, acc => jmul n (k / 2) (jdbl q) (if k % 2 = 1 then jadd acc q else acc)

/-- Whether (x, y) is a point of P-384 other than infinity. -/
def p384OnCurve (x y : Nat) : Bool :=
  x < p384P && y < p384P && (y * y % p384P == (x * x * x + (p384P - 3) * x + p384B) % p384P)

/-- ECDSA P-384 verification with SHA-384: public key X then Y (96 bytes), signature R then S (96 bytes), big-endian. -/
def ecdsaVerify (pub msg sig : Bytes) : Bool :=
  let qx := beAt pub 0 48; let qy := beAt pub 48 48
  let r := beAt sig 0 48; let s := beAt sig 48 48
  let n := p384N
  if r = 0 ∨ s = 0 ∨ r ≥ n ∨ s ≥ n ∨ !(p384OnCurve qx qy) then false else
  let e := beN (sha384 msg)
  let w := modPow 384 s (n - 2) n
  let pt := jadd (jmul 384 (e * w % n) (p384Gx, p384Gy, 1) (1, 1, 0)) (jmul 384 (r * w % n) (qx, qy, 1) (1, 1, 0))
  let (x, _, z) := pt
  if z = 0 then false else
  let zi := modPow 384 z (p384P - 2) p384P
  (x * (zi * zi % p384P) % p384P) % n == r

end Sys2Proof.Machine
end

