-- ==== Sys2Proof/Machine/Aes.lean ====
section
/-! DEFINITION. AES-128 and AES-256 (FIPS 197, named by R9 and R188): the block cipher under every mode of the SX4.
PRESUMED: the standard's own tables and steps are taken from outside the spec, which names the standard (log entry 3). -/

namespace Sys2Proof.Machine

/-- Multiplication by x in GF(2^8) of FIPS 197. -/
def xtime (b : Byte) : Byte := (b <<< 1) ^^^ (if b.msb then 0x1b#8 else 0#8)

/-- Product in GF(2^8), by the n low bits of the second factor. -/
def gmulAux : Nat → Byte → Byte → Byte
  | 0, _, _ => 0
  | n + 1, a, b => (if b.getLsbD 0 then a else 0) ^^^ gmulAux n (xtime a) (b >>> 1)

/-- Product in GF(2^8). -/
def gmul (a b : Byte) : Byte := gmulAux 8 a b

/-- The multiplicative inverse in GF(2^8), 0 for 0: the 254th power. -/
def ginv (a : Byte) : Byte :=
  let a2 := gmul a a; let a4 := gmul a2 a2; let a8 := gmul a4 a4; let a16 := gmul a8 a8
  let a32 := gmul a16 a16; let a64 := gmul a32 a32; let a128 := gmul a64 a64
  gmul a2 (gmul a4 (gmul a8 (gmul a16 (gmul a32 (gmul a64 a128)))))

/-- The S-box. -/
def sbox (a : Byte) : Byte :=
  let i := ginv a
  i ^^^ i.rotateLeft 1 ^^^ i.rotateLeft 2 ^^^ i.rotateLeft 3 ^^^ i.rotateLeft 4 ^^^ 0x63#8

/-- The inverse S-box. -/
def invSbox (a : Byte) : Byte :=
  ginv (a.rotateLeft 1 ^^^ a.rotateLeft 3 ^^^ a.rotateLeft 6 ^^^ 0x05#8)

/-- Round constant i (from 1). -/
def rcon : Nat → Byte
  | 0 => 0x8d
  | n + 1 => xtime (rcon n)

/-- Key expansion: words so far with the newest first; i is the index of the next word, nk the key length in words. -/
def expandAux (nk : Nat) : Nat → Nat → List Bytes → List Bytes
  | 0, _, ws => ws
  | f + 1, i, ws =>
    let t := ws.headD []
    let t' :=
      if i % nk = 0 then
        let r := (t.drop 1 ++ t.take 1).map sbox
        bxor r [rcon (i / nk)]
      else if nk > 6 ∧ i % nk = 4 then t.map sbox else t
    expandAux nk f (i + 1) (bxor (ws.getD (nk - 1) []) t' :: ws)

/-- Round keys of a 16- or 32-byte key, 16 bytes each, first round first. -/
def roundKeys (key : Bytes) : List Bytes :=
  let nk := key.length / 4
  let total := 4 * (nk + 7)
  chunks 16 ((expandAux nk (total - nk) nk (chunks 4 key).reverse).reverse.flatten)

/-- ShiftRows of a state held column by column. -/
def shiftRows (s : Bytes) : Bytes :=
  [0, 5, 10, 15, 4, 9, 14, 3, 8, 13, 2, 7, 12, 1, 6, 11].map (byteAt s)

/-- Inverse ShiftRows. -/
def invShiftRows (s : Bytes) : Bytes :=
  [0, 13, 10, 7, 4, 1, 14, 11, 8, 5, 2, 15, 12, 9, 6, 3].map (byteAt s)

/-- One column times the polynomial with coefficients a b c d. -/
def mixCol (a b c d : Byte) (x : Bytes) : Bytes :=
  let w := byteAt x 0; let y := byteAt x 1; let z := byteAt x 2; let v := byteAt x 3
  [gmul a w ^^^ gmul b y ^^^ gmul c z ^^^ gmul d v,
   gmul d w ^^^ gmul a y ^^^ gmul b z ^^^ gmul c v,
   gmul c w ^^^ gmul d y ^^^ gmul a z ^^^ gmul b v,
   gmul b w ^^^ gmul c y ^^^ gmul d z ^^^ gmul a v]

/-- MixColumns. -/
def mixColumns (s : Bytes) : Bytes := ((chunks 4 s).map (mixCol 2 3 1 1)).flatten

/-- Inverse MixColumns. -/
def invMixColumns (s : Bytes) : Bytes := ((chunks 4 s).map (mixCol 14 11 13 9)).flatten

/-- AES encryption of one block with expanded round keys. -/
def aesEncRk (rks : List Bytes) (b : Bytes) : Bytes :=
  match rks with
  | [] => b
  | k0 :: ks =>
    let s := ks.dropLast.foldl (fun s k => bxor (mixColumns (shiftRows (s.map sbox))) k) (bxor b k0)
    bxor (shiftRows (s.map sbox)) (ks.getLastD [])

/-- AES decryption of one block with expanded round keys. -/
def aesDecRk (rks : List Bytes) (b : Bytes) : Bytes :=
  match rks.reverse with
  | [] => b
  | k0 :: ks =>
    let s := ks.dropLast.foldl (fun s k => invMixColumns (bxor ((invShiftRows s).map invSbox) k)) (bxor b k0)
    bxor ((invShiftRows s).map invSbox) (ks.getLastD [])

/-- AES encryption of a 16-byte block under a 16- or 32-byte key. PRESUMED (log entry 3). -/
def aesEnc (key b : Bytes) : Bytes := aesEncRk (roundKeys key) b

/-- AES decryption of a 16-byte block under a 16- or 32-byte key. -/
def aesDec (key b : Bytes) : Bytes := aesDecRk (roundKeys key) b

end Sys2Proof.Machine
end

