-- ==== Sys2Proof/Machine/Modes.lean ====
section
/-! DEFINITION. The modes of AES the spec names (R189): CTR, GHASH and GCM (SP 800-38D), CMAC (SP 800-38B), CCM (SP 800-38C),
XTS (IEEE 1619), key wrap (RFC 3394), and the SP 800-108 derivation and the CRCs that the vault and the images use.
PRESUMED: the standards' steps are taken from outside the spec, which names them (log entry 3). -/

namespace Sys2Proof.Machine

/-- The counter block after b, its last w bytes counting modulo 256^w. -/
def incBlock (w : Nat) (b : Bytes) : Bytes :=
  b.take (16 - w) ++ toBe w (beN (b.drop (16 - w)) + 1)

/-- CTR keystream exclusive-or over pieces of the text, from counter block c. -/
def ctrAux (rks : List Bytes) (w : Nat) : Bytes → List Bytes → Bytes
  | _, [] => []
  | c, p :: ps => bxor p (aesEncRk rks c) ++ ctrAux rks w (incBlock w c) ps

/-- CTR encryption or decryption with an initial counter block whose last w bytes count. -/
def ctr (w : Nat) (key icb text : Bytes) : Bytes := ctrAux (roundKeys key) w icb (chunks 16 text)

/-- One step of the GF(2^128) product of GCM: bit 127 of the number is the block's first bit. -/
def gfStep (z v x : BitVec 128) : BitVec 128 × BitVec 128 :=
  (if x.msb then z ^^^ v else z, (v >>> 1) ^^^ (if v.getLsbD 0 then 0xe1#128 <<< 120 else 0#128))

/-- The product of x and v in GF(2^128), n bits of x left. -/
def gfMulAux : Nat → BitVec 128 → BitVec 128 → BitVec 128 → BitVec 128
  | 0, z, _, _ => z
  | n + 1, z, v, x => gfMulAux n (gfStep z v x).1 (gfStep z v x).2 (x <<< 1)

/-- The product of two blocks in GF(2^128). -/
def gfMul (a b : BitVec 128) : BitVec 128 := gfMulAux 128 0 b a

/-- A block as a 128-bit number, first byte most significant; a short block is filled with zero bytes. -/
def blk (b : Bytes) : BitVec 128 := BitVec.ofNat 128 (beN (sub b 0 16))

/-- GHASH over a byte string padded to whole blocks by the caller. -/
def ghash (h : BitVec 128) (bs : Bytes) : BitVec 128 :=
  (chunks 16 bs).foldl (fun y b => gfMul (y ^^^ blk b) h) 0

/-- bs filled with zero bytes to a multiple of 16. -/
def pad16 (bs : Bytes) : Bytes := bs ++ zeros ((16 - bs.length % 16) % 16)

/-- The hash subkey of a key. -/
def ghKey (key : Bytes) : BitVec 128 := blk (aesEnc key (zeros 16))

/-- The GCM pre-counter block of a 12-byte or other IV. -/
def gcmJ0 (h : BitVec 128) (iv : Bytes) : Bytes :=
  if iv.length = 12 then iv ++ toBe 4 1
  else toBe 16 (ghash h (pad16 iv ++ toBe 16 (iv.length * 8))).toNat

/-- The 16-byte GCM tag over additional data and ciphertext. -/
def gcmTag (key iv aad ct : Bytes) : Bytes :=
  let h := ghKey key
  let s := ghash h (pad16 aad ++ pad16 ct ++ toBe 8 (aad.length * 8) ++ toBe 8 (ct.length * 8))
  bxor (toBe 16 s.toNat) (aesEnc key (gcmJ0 h iv))

/-- GCM counter-mode text under a key and IV. -/
def gcmText (key iv text : Bytes) : Bytes := ctr 4 key (incBlock 4 (gcmJ0 (ghKey key) iv)) text

/-- GCM encryption: ciphertext and 16-byte tag. PRESUMED (log entry 3). -/
def gcmEnc (key iv aad pt : Bytes) : Bytes × Bytes :=
  let ct := gcmText key iv pt
  (ct, gcmTag key iv aad ct)

/-- Doubling in GF(2^128) for the CMAC subkeys. -/
def dbl (b : Bytes) : Bytes :=
  let v := blk b
  toBe 16 ((v <<< 1) ^^^ (if v.msb then 0x87#128 else 0#128)).toNat

/-- CBC-MAC chain over whole blocks. -/
def cbcMac (rks : List Bytes) (x0 : Bytes) (bs : Bytes) : Bytes :=
  (chunks 16 bs).foldl (fun x b => aesEncRk rks (bxor x b)) x0

/-- AES-CMAC, 16 bytes. -/
def cmac (key msg : Bytes) : Bytes :=
  let rks := roundKeys key
  let k1 := dbl (aesEncRk rks (zeros 16))
  let n := if msg.length = 0 then 0 else (msg.length - 1) / 16 * 16
  let last := msg.drop n
  let l := if last.length = 16 then bxor last k1
           else bxor (sub (last ++ [0x80#8]) 0 16) (dbl k1)
  aesEncRk rks (bxor (cbcMac rks (zeros 16) (msg.take n)) l)

/-- The encoding of the additional data's length of CCM. -/
def ccmAad (aad : Bytes) : Bytes :=
  if aad.length = 0 then []
  else if aad.length < 0xff00 then pad16 (toBe 2 aad.length ++ aad)
  else pad16 ([0xff#8, 0xfe#8] ++ toBe 4 aad.length ++ aad)

/-- Counter block i of CCM for a nonce. -/
def ccmCtr (nonce : Bytes) (i : Nat) : Bytes :=
  BitVec.ofNat 8 (14 - nonce.length) :: nonce ++ toBe (15 - nonce.length) i

/-- The CCM (and CCM*) authentication value of m bytes before encryption; m = 0 gives the empty one. -/
def ccmMac (key nonce aad pt : Bytes) (m : Nat) : Bytes :=
  if m = 0 then [] else
  let l := 15 - nonce.length
  let flags := (if aad.length > 0 then 64 else 0) + 8 * ((m - 2) / 2) + (l - 1)
  let b0 := BitVec.ofNat 8 flags :: nonce ++ toBe l pt.length
  let rks := roundKeys key
  (cbcMac rks (zeros 16) (b0 ++ ccmAad aad ++ pad16 pt)).take m

/-- The CCM text transform (counter blocks 1, 2, ...). -/
def ccmText (key nonce text : Bytes) : Bytes := ctr (15 - nonce.length) key (ccmCtr nonce 1) text

/-- The CCM tag of m bytes: the authentication value under counter block 0. PRESUMED (log entry 3). -/
def ccmTag (key nonce aad pt : Bytes) (m : Nat) : Bytes :=
  bxor (ccmMac key nonce aad pt m) (aesEnc key (ccmCtr nonce 0))

/-- Doubling of the XTS tweak (little-endian field). -/
def xtsDbl (t : Bytes) : Bytes :=
  let v := BitVec.ofNat 128 (leN t)
  toLe 16 ((v <<< 1) ^^^ (if v.msb then 0x87#128 else 0#128)).toNat

/-- One XTS block with tweak t through block function f. -/
def xexBlk (f : Bytes → Bytes) (t b : Bytes) : Bytes := bxor (f (bxor b t)) t

/-- XTS encryption of the pieces of one data unit, with ciphertext stealing at the end. -/
def xtsEncAux (f : Bytes → Bytes) : Bytes → List Bytes → Bytes
  | _, [] => []
  | t, [b] => xexBlk f t b
  | t, [b, c] =>
    if c.length = 16 then xexBlk f t b ++ xexBlk f (xtsDbl t) c
    else
      let cc := xexBlk f t b
      xexBlk f (xtsDbl t) (c ++ cc.drop c.length) ++ cc.take c.length
  | t, b :: rest => xexBlk f t b ++ xtsEncAux f (xtsDbl t) rest

/-- XTS decryption of the pieces of one data unit, with ciphertext stealing at the end. -/
def xtsDecAux (f : Bytes → Bytes) : Bytes → List Bytes → Bytes
  | _, [] => []
  | t, [b] => xexBlk f t b
  | t, [b, c] =>
    if c.length = 16 then xexBlk f t b ++ xexBlk f (xtsDbl t) c
    else
      let pp := xexBlk f (xtsDbl t) b
      xexBlk f t (c ++ pp.drop c.length) ++ pp.take c.length
  | t, b :: rest => xexBlk f t b ++ xtsDecAux f (xtsDbl t) rest

/-- XTS-AES encryption of one data unit: data key, tweak key, 16-byte tweak. -/
def xtsEnc (kd kt tweak text : Bytes) : Bytes :=
  xtsEncAux (aesEncRk (roundKeys kd)) (aesEnc kt tweak) (chunks 16 text)

/-- XTS-AES decryption of one data unit. -/
def xtsDec (kd kt tweak text : Bytes) : Bytes :=
  xtsDecAux (aesDecRk (roundKeys kd)) (aesEnc kt tweak) (chunks 16 text)

/-- One pass of the key wrap of RFC 3394 over the 8-byte pieces. -/
def kwPass (rks : List Bytes) : Nat → Bytes → List Bytes → Bytes × List Bytes
  | _, a, [] => (a, [])
  | t, a, r :: rs =>
    let b := aesEncRk rks (a ++ r)
    let x := kwPass rks (t + 1) (bxor (b.take 8) (toBe 8 t)) rs
    (x.1, b.drop 8 :: x.2)

/-- AES key wrap (RFC 3394). -/
def kwWrap (kek pt : Bytes) : Bytes :=
  let rks := roundKeys kek
  let rs := chunks 8 pt
  let n := rs.length
  let x := (List.range 6).foldl (fun x j => kwPass rks (n * j + 1) x.1 x.2) (List.replicate 8 0xa6#8, rs)
  x.1 ++ x.2.flatten

/-- One pass of the key unwrap over the pieces, last piece first. -/
def kuPass (rks : List Bytes) : Nat → Bytes → List Bytes → Bytes × List Bytes
  | _, a, [] => (a, [])
  | t, a, r :: rs =>
    let b := aesDecRk rks (bxor a (toBe 8 t) ++ r)
    let x := kuPass rks (t - 1) (b.take 8) rs
    (x.1, b.drop 8 :: x.2)

/-- AES key unwrap (RFC 3394): the plaintext where the integrity value is right. -/
def kwUnwrap (kek ct : Bytes) : Option Bytes :=
  let rks := roundKeys kek
  let rs := (chunks 8 (ct.drop 8)).reverse
  let n := rs.length
  let x := (List.range 6).foldl (fun x j => kuPass rks (n * (6 - j)) x.1 x.2) (ct.take 8, rs)
  if x.1 = List.replicate 8 0xa6#8 then some x.2.reverse.flatten else none

/-- One step of a reflected CRC-32. -/
def crcBit : Nat → BitVec 32 → BitVec 32
  | 0, c => c
  | n + 1, c => crcBit n ((c >>> 1) ^^^ (if c.getLsbD 0 then 0xEDB88320#32 else 0#32))

/-- CRC-32 of IEEE 802.3 over a byte string. -/
def crc32 (bs : Bytes) : Nat :=
  (~~~ (bs.foldl (fun c b => crcBit 8 (c ^^^ b.setWidth 32)) 0xFFFFFFFF#32)).toNat

end Sys2Proof.Machine
end

