-- ==== Sys2Proof/Machine/Tab.lean ====
section
/-! DEFINITION. Sparse tables: lists of (key, value) pairs with keys strictly rising and no value equal to the default.
Equal tables are equal data. Registers, memory bytes, key slots and every other indexed store of the state use them. -/

namespace Sys2Proof.Machine

/-- A sparse table over keys of type Nat. -/
abbrev Tab (α : Type) := List (Nat × α)

variable {α : Type}

/-- The value at key k; d where the table lists none. -/
def tget (d : α) : Tab α → Nat → α
  | [], _ => d
  | (a, v) :: m, k => if k = a then v else tget d m k

/-- The table with key k removed. -/
def tdel (m : Tab α) (k : Nat) : Tab α := m.filter (fun c => decide (c.1 ≠ k))

/-- The table with v listed at k, in key order. -/
def tins : Tab α → Nat → α → Tab α
  | [], k, x => [(k, x)]
  | (a, v) :: m, k, x =>
    if k = a then (k, x) :: m else if k < a then (k, x) :: (a, v) :: m else (a, v) :: tins m k x

/-- The table with value x at key k: a value equal to the default removes the entry. -/
def tput [DecidableEq α] (d : α) (m : Tab α) (k : Nat) (x : α) : Tab α :=
  if x = d then tdel m k else tins m k x

/-- The table with the value at key k changed by f. -/
def tmod [DecidableEq α] (d : α) (m : Tab α) (k : Nat) (f : α → α) : Tab α := tput d m k (f (tget d m k))

/-- Every listed key is above b and the keys rise strictly. -/
def tsorted : Nat → Tab α → Bool
  | _, [] => true
  | b, (a, _) :: m => decide (b ≤ a) && tsorted (a + 1) m

/-- The canonical form: keys strictly rising and no listed value equal to the default. -/
def twf [DecidableEq α] (d : α) (m : Tab α) : Bool := tsorted 0 m && m.all (fun c => decide (c.2 ≠ d))

/-- The n values at keys k, k+1, ... -/
def tgetN (d : α) (m : Tab α) (k n : Nat) : List α := (List.range n).map (fun i => tget d m (k + i))

/-- The values xs written at keys k, k+1, ... -/
def tputN [DecidableEq α] (d : α) : Tab α → Nat → List α → Tab α
  | m, _, [] => m
  | m, k, x :: xs => tputN d (tput d m k x) (k + 1) xs

/-- Every entry mapped by f (which also sees the key), entries equal to the default dropped. -/
def tmap [DecidableEq α] (d : α) (m : Tab α) (f : Nat → α → α) : Tab α :=
  (m.map (fun c => (c.1, f c.1 c.2))).filter (fun c => decide (c.2 ≠ d))

/-- The keys listed. -/
def tkeys (m : Tab α) : List Nat := m.map (·.1)

/-- Replace the n-th member of a list by f of it. -/
def lmod (l : List α) (n : Nat) (f : α → α) : List α := l.modify n f

end Sys2Proof.Machine
end

