-- ==== Sys2Proof/Machine/State.lean ====
section
/-! DEFINITION. The state of the SX4: plain data, one structure per unit, and the state after reset. -/

namespace Sys2Proof.Machine

/-- Why a run stops with a fault. -/
inductive Fault where
  /-- Raised by no meaning: the spec gives every command an effect in every state, and where a condition of a command does not
  hold the state stays as it is. The type is there because the interface asks for one. Safe. -/
  | never
  deriving DecidableEq, Repr

/-- Why a command is refused. -/
inductive Refusal where
  /-- The command has no meaning in this model yet; the string is its mnemonic. Safe. -/
  | notModelled (mnemonic : String)
  deriving DecidableEq, Repr

/-- MODEL'S OWN: something that left the block at its boundary. DESIGN CHOICE (log entry 128). -/
inductive Out where
  /-- A frame on line transmit of a path (R50). -/
  | lineTx (p : Nat) (frame : Bytes)
  /-- A frame on client receive of a path. -/
  | clientRx (p : Nat) (frame : Bytes)
  /-- A message on a Krysa port; true is east (R451). -/
  | krysa (east : Bool) (msg : Bytes)
  /-- The answer to a memory read: tag, status beat and line (R228). -/
  | memRead (tag : Nat) (status : Nat) (data : Bytes)
  /-- The answer to a memory write: tag and status. -/
  | memWrite (tag : Nat) (status : Nat)
  /-- Bits shifted out on SX_TDO as a byte string (R63). -/
  | tdo (data : Bytes)
  /-- Bits shifted out through the bypass register, first bit first (R63). -/
  | tdoBits (bits : List Bool)
  deriving DecidableEq, Repr

/-- The registers of the four windows, by block offset (R534). A table without an entry reads the reset value of `regReset`. -/
structure Regs where
  /-- HOST and PRIV registers: the value last written; event registers: the bits set. -/
  wr : Tab Nat := []
  /-- HOST and PRIV registers of Calends timing: the value in force. -/
  fc : Tab Nat := []
  /-- STATUS registers kept as stored words (counters and last-error fields). -/
  st : Tab Nat := []
  deriving DecidableEq, Repr

/-- The host port as last seen from outside (R44, R534 to R536). -/
structure HostPort where
  /-- FH_T_RESP of the last access reads error (0b10). -/
  err : Bool := false
  /-- Read data of the last access. -/
  rdata : Nat := 0
  /-- High halves of the latched pairs for accesses without FH_T_PRIV, by offset of the high register (R536). -/
  latch : Tab Nat := []
  /-- The same for accesses with FH_T_PRIV. -/
  latchPriv : Tab Nat := []
  deriving DecidableEq, Repr

/-- The tick keeper and the Calends (R66 to R88). -/
structure Tick where
  /-- Engine clocks since the previous Calends instant C. -/
  t : Nat := 0
  /-- The Calends count, 48 bits (R71). -/
  count : Nat := 0
  /-- The count was set at the end of P2; no Calends is acted on before (R72). -/
  countSet : Bool := false
  /-- A first Calends after P2 was taken: the block is in service (R518, R537). -/
  started : Bool := false
  /-- A Calends instant is reached and its commit not yet run. -/
  due : Bool := false
  /-- The coming Calends is fixed by an edge classed early or on time (R68). -/
  fixed : Bool := false
  /-- Latest engine clock of the Calends that an early edge fixed (R68). -/
  early : Option Nat := none
  /-- Admission closed by the close point or an early edge (R75). -/
  closed : Bool := true
  /-- TICK_STATUS.KEEPER (R69). -/
  keeper : Bool := false
  /-- Consecutive on-time edges counted toward clearing KEEPER, 0 to 4 (R69). -/
  onTime : Nat := 0
  deriving DecidableEq, Repr

/-- A result: status code (R109), ZEROIZED flag and the 16 bytes of RESULT. -/
structure Res where
  status : Nat := 0
  zeroized : Bool := false
  result : Bytes := []
  deriving DecidableEq, Repr

/-- A key that admitted work is bound to: slot and generation (R143), and whether a key-bank entry is held for it. -/
structure KeyRef where
  slot : Nat := 0
  gen : Nat := 0
  deriving DecidableEq, Repr

/-- Work-unit costs on pipeline, GF lane and one iterated core (R76). -/
structure Cost where
  p : Nat := 0
  g : Nat := 0
  i : Nat := 0
  deriving DecidableEq, Repr

/-- A descriptor taken from a submission ring whose completion is not yet written (R97, R106, R112). -/
structure Item where
  /-- Index in the ring. -/
  idx : Nat := 0
  /-- The 64 bytes read (R97). -/
  desc : Bytes := []
  /-- Calends count in force at admission (R105). -/
  cal : Nat := 0
  /-- The channel that admitted it; 16 for a unit that is no channel. -/
  ch : Nat := 16
  /-- The keys bound at admission. -/
  keys : List KeyRef := []
  /-- Its lane costs still in the backlog. -/
  cost : Cost := {}
  /-- Its iterated-core work lies on I1. -/
  core1 : Bool := false
  /-- Its draws on the read and write DMA allowances, in 8-byte units (R192). -/
  rd : Nat := 0
  wrd : Nat := 0
  /-- Order of admission (R82). -/
  seq : Nat := 0
  /-- Output byte ranges it may have written: address and length (R109). -/
  outs : List (Nat × Nat) := []
  /-- What the vault holds for an immediate command from its admission on (R154). -/
  hold : Bytes := []
  /-- A staged change that waits for its Calends (R81, R112). -/
  staged : Bool := false
  /-- Its completion ring was disabled since its admission: its completion is dropped (R95). -/
  drop : Bool := false
  /-- The final result; write-back has started once it is there (R112). -/
  res : Option Res := none
  deriving DecidableEq, Repr

/-- A completion event of a source other than a ring, waiting for a free entry (R107). -/
structure SrcEvt where
  source : Nat := 0
  code : Nat := 0
  /-- The STATUS byte (R305). -/
  status : Nat := 0
  /-- What the event is about: of one source, code and key at most one event waits (R305). -/
  key : Nat := 0
  tag : Nat := 0
  cal : Nat := 0
  result : Bytes := []
  /-- Its completion entry is reserved (R107, R400). -/
  held : Bool := false
  deriving DecidableEq, Repr

/-- One ring, submission or completion (R89 to R119). -/
structure Ring where
  /-- Enabled in force. -/
  en : Bool := false
  /-- Base address bits 47..12 in force. -/
  base : Nat := 0
  log2 : Nat := 6
  irqAll : Bool := false
  head : Nat := 0
  tail : Nat := 0
  phase : Bool := false
  halted : Bool := false
  err : Nat := 0
  /-- STALL count (R107). -/
  stall : Nat := 0
  abortPend : Bool := false
  abortRes : Nat := 0
  /-- The abort request on its way to the arbiter: index and ALL (R111). -/
  abortReq : Option (Nat × Bool) := none
  /-- Indices aborted before admission that have not yet reached the head (R112). -/
  aborted : List Nat := []
  /-- Submission ring: the items taken, in ring order. -/
  items : List Item := []
  /-- Submission ring: passed over until the next tick (R78); in a vault ring, its head waited and was counted (R153). -/
  passed : Bool := false
  /-- Submission ring: the head waited for completion room in this tick and was counted (R107). -/
  stalled : Bool := false
  /-- Submission ring: the head descriptor as read, which is read once (R97). -/
  fetched : Option Bytes := none
  /-- Submission ring: entries up to the tail at a role change still to complete ROLE_CHANGED (R27). -/
  flush : Nat := 0
  /-- Completion ring: entries reserved (R107). -/
  reserved : Nat := 0
  /-- Completion ring: events of other sources that wait, oldest first. -/
  events : List SrcEvt := []
  deriving DecidableEq, Repr

/-- One vault slot: the record of R132 and its material as two shares whose exclusive or is the key (R145). -/
structure Slot where
  /-- Parent slot; 0xFFFF for a domain key. -/
  parent : Nat := 0
  pgen : Nat := 0
  gen : Nat := 0
  alg : Nat := 0
  domain : Nat := 0
  level : Nat := 0
  origin : Nat := 0
  ops : Nat := 0
  roles : Nat := 0
  channels : Nat := 0
  /-- [0] NOEXPORT, [1] PERSIST. -/
  flags : Nat := 0
  /-- 0 FREE, 1 LIVE, 2 SPENT, 3 ORPHAN. -/
  state : Nat := 0
  useCnt : Nat := 0
  useLimit : Nat := 0
  created : Nat := 0
  share1 : Bytes := []
  share2 : Bytes := []
  /-- The context a derived key was derived with, after its label; none after a restore (R131, R140). -/
  ctx : Option Bytes := none
  /-- The durable persisted USE_CNT of R148; 0 where no record is durable. -/
  persCnt : Nat := 0
  /-- The persisted USE_CNT of the record queued and not yet durable. -/
  persQueued : Option Nat := none
  deriving DecidableEq, Repr

/-- A staged vault change (R82 step 1, R154): the ring item that asks for it and what its admission computed. -/
structure VaultChange where
  ring : Nat := 0
  idx : Nat := 0
  /-- Order of admission (R82). -/
  seq : Nat := 0
  /-- Attribute block of an install (R157). -/
  attr : Bytes := []
  /-- Material computed at admission. -/
  mat : Bytes := []
  /-- GEN of the parent bound at admission. -/
  pgen : Nat := 0
  /-- Status its processing has already fixed, 0 for none (R162). -/
  fail : Nat := 0
  /-- The change comes from no ring: the fixed slot an OPBANK_WRITE installs (R174). -/
  fixed : Nat := 0
  deriving DecidableEq, Repr

/-- The Key Vault (R120 to R176). DESIGN CHOICE (log entry 8). -/
structure Vault where
  /-- The root in use, once unsealed (R122) or set to the Carnival root (R124). -/
  root : Option Bytes := none
  carnival : Bool := false
  katFail : Bool := false
  opbankErr : Bool := false
  restored : Bool := false
  /-- The DRBG is instantiated (R125). -/
  drbgUp : Bool := false
  /-- Revocation epoch (R139). -/
  epoch : Nat := 0
  slots : Tab Slot := []
  /-- Next slot the Octave sweep visits (R145). -/
  sweep : Nat := 0
  /-- Staged changes, in order of admission. -/
  staged : List VaultChange := []
  /-- Immediate commands in progress (R153). -/
  immediate : Nat := 0
  /-- A fuse command in progress: ring and index (R153). -/
  fuseBusy : Option (Nat × Nat) := none
  /-- Staging commands admitted in this tick (R153). -/
  stagedNow : Nat := 0
  /-- Commands deferred in this tick (R153). -/
  deferredNow : Nat := 0
  /-- Next ring of the round-robin, 48 to 55. -/
  rr : Nat := 48
  deriving DecidableEq, Repr

/-- The antifuses: what stays without power and through every reset. DESIGN CHOICE (log entry 7). -/
structure Fuses where
  /-- SHARE1, SHARE2 and CHECK of the root bank (R121); empty where blank. -/
  share1 : Bytes := []
  share2 : Bytes := []
  check : Bytes := []
  /-- LOCK of the root bank. -/
  lock : Bool := false
  /-- The root-kill fuse. -/
  kill : Bool := false
  /-- The debug fuse (R124). -/
  debug : Bool := false
  /-- Operator bank: the two wrapped secrets as burned, 40 bytes each; empty where blank (R126). -/
  att : Bytes := []
  du : Bytes := []
  attWritten : Bool := false
  duWritten : Bool := false
  bankLock : Bool := false
  /-- Steps of the count era, 0 to 15 (R72). -/
  era : Nat := 0
  /-- NMS key bank: public key by KEY_ID, as burned (R475). -/
  nmsKey : Tab Bytes := []
  /-- KEY_IDs whose written fuse is blown. -/
  nmsWritten : List Nat := []
  /-- Rollback counter steps, 0 to 64 (R484). -/
  rollback : Nat := 0
  /-- Alarm count steps, 0 to 16 (R509). -/
  alarmCount : Nat := 0
  /-- KILL_N field as burned (R510). -/
  killN : Nat := 0
  killNWritten : Bool := false
  killNDamaged : Bool := false
  deriving DecidableEq, Repr

/-- A key-bank entry: a delivered copy or, with `node`, a derived node key (R180, R181). -/
structure KeyEntry where
  slot : Nat := 0
  gen : Nat := 0
  /-- Revocation epoch at delivery. -/
  epoch : Nat := 0
  grant : Nat := 0
  share1 : Bytes := []
  share2 : Bytes := []
  pinned : Bool := false
  /-- Node identity of a derived node key. -/
  node : Option Nat := none
  deriving DecidableEq, Repr

/-- One channel (R22 to R40, R177 to R208). DESIGN CHOICE (log entry 8). DEDUCED (log entry 131). -/
structure Chan where
  /-- Role in force: 0 IDLE, 1 MEM, 2 LINK, 3 AIR, 4 SPARE; for a fenced channel the role it held. -/
  role : Nat := 0
  fenced : Bool := false
  cause : Nat := 0
  faultCal : Nat := 0
  powered : Bool := false
  /-- Known-answer tests must pass before it admits (R85, R196). -/
  needKat : Bool := false
  replacing : Bool := false
  /-- Fenced, and a role change has committed since without a replacement in its role: it counts as IDLE (R203). -/
  unbound : Bool := false
  /-- Channel whose rings it serves. -/
  ringsOf : Nat := 0
  shareP : Nat := 0
  shareG : Nat := 0
  /-- Next source of the round-robin: 0 to 2 its rings, 3 its conversation engines (R78). -/
  rr : Nat := 0
  /-- A conversation step did not fit and waits for the next tick (R78, R400). -/
  stepPassed : Bool := false
  /-- Backlogs of pipeline, GF lane, I0, I1 (R76). -/
  backP : Nat := 0
  backG : Nat := 0
  back0 : Nat := 0
  back1 : Nat := 0
  /-- Pipeline units admitted in this tick (CH_BUDGET_n.PEAK). -/
  admP : Nat := 0
  /-- For each of the latest 64 ticks, newest first, whether it ended items (R85). -/
  overruns : List Bool := []
  /-- Result of the latest self-test of a SPARE channel (R197). -/
  testOk : Bool := true
  /-- The key bank, most recently used first. -/
  bank : List KeyEntry := []
  deriving DecidableEq, Repr

/-- The partition of roles and the steering table (R24 to R37, R203 to R208). -/
structure Part where
  /-- CH_ROLE_n writes of this tick, in order of acceptance. -/
  roleWr : List (Nat × Nat) := []
  /-- CH_SHARE_n writes of this tick, in order of acceptance: channel and value. -/
  shareWr : List (Nat × Nat) := []
  /-- Channels fenced or taken over in this tick: their role writes void the change (R203, R207). -/
  voided : List Nat := []
  /-- The channels of takeovers of this tick: a software write to their CH_ROLE is discarded (R207). -/
  taken : List Nat := []
  /-- Steering table in force, 64 entries (R33). -/
  steer : List Nat := (List.range 64).map (· % 2)
  /-- Role changes held back in Eve mode, oldest first: the writes of one tick each (R521). -/
  heldRoles : List (List (Nat × Nat)) := []
  spareFor : Nat := 0
  spareUsed : Bool := false
  /-- LINK2_PATH in force. -/
  link2 : Nat := 0
  /-- Read and write DMA allowance backlogs, in 8-byte units (R192). -/
  dmaRd : Nat := 0
  dmaWr : Nat := 0
  deriving DecidableEq, Repr

/-- Start-up, power and the states that stop work (R516 to R533, R537). DESIGN CHOICE (log entry 7). -/
structure Boot where
  /-- SX_RST_N asserted, or the reset extended (R60). -/
  inReset : Bool := true
  /-- Start-up phase reached: 0 to 5 while it runs, 6 when every phase has ended (R516). -/
  phase : Nat := 0
  /-- Eve mode (R519, R520). -/
  eve : Bool := false
  /-- Start-up stopped in P1 or P2 (R519). -/
  stopped : Bool := false
  /-- The alarm line rose in this boot; from step 1 of R501 until the next full reset. -/
  alarm : Bool := false
  /-- LOCKOUT (R505). -/
  lockout : Bool := false
  /-- Power-fail shutdown begun, or the power-fail state (R57). -/
  pfail : Bool := false
  /-- Sleep entry from its Calends until SAFE (R527). -/
  entering : Bool := false
  /-- In sleep, from SAFE until step 1 of wake (R528). -/
  asleep : Bool := false
  /-- The reset that began this boot was the first rise of VDD_AON (R488, R516). -/
  por : Bool := true
  /-- This boot is governed by a latched unlock or the debug fuse: Carnival root (R64, R124). -/
  debug : Bool := false
  /-- P4 has ended (R516). -/
  p4Done : Bool := false
  /-- P5 has ended (R517). -/
  p5Done : Bool := false
  /-- Channels that wait for a power token, in order of grant (R522). -/
  tokens : List Nat := []
  /-- Duration in us of phases 0 to 5 (R516). -/
  times : Tab Nat := []
  /-- This start is a cold wake (R528). -/
  cold : Bool := false
  /-- This start is the first start: its P1 generated the production root (R72, R120). -/
  first : Bool := false
  /-- A rising while SX_RST_N was held belongs to this boot: no second step is counted for it (R60). -/
  riseDone : Bool := false
  deriving DecidableEq, Repr

/-- A record for the journal flash (R425 to R427): TYPE, identity within the type, body. -/
structure JRec where
  kind : Nat := 0
  /-- Slot of a KEY record, lease number, BLOB_ID * 256 + PART, Almanac index of a snapshot item. -/
  id : Nat := 0
  data : Bytes := []
  /-- Urgent: a page program is started for it at once (R428). -/
  urgent : Bool := false
  /-- Order and Almanac time of its queueing. -/
  qn : Nat := 0
  since : Nat := 0
  /-- The block a forward copy comes from (R429). -/
  src : Option Nat := none
  /-- Journal counter once written (R426). -/
  jcnt : Nat := 0
  deriving DecidableEq, Repr

/-- The journal flash device on its private port (R52, R53, R422). DESIGN CHOICE (log entry 5). -/
structure Flash where
  present : Bool := true
  /-- Page size as a power of two: 11 or 12. -/
  pageLog2 : Nat := 12
  blocks : Nat := 1024
  /-- The first four READ ID bytes. -/
  devId : Bytes := [0, 0, 0, 0]
  /-- Blocks that carry a factory marker (R424). -/
  factory : List Nat := []
  /-- Programmed pages by row address; an unlisted page is erased. -/
  pages : Tab Bytes := []
  /-- The block of an erase that was issued and goes on inside the device (R53). -/
  erasing : Option Nat := none
  deriving DecidableEq, Repr

/-- A page program in progress (R428). -/
structure PageProg where
  row : Nat := 0
  recs : List JRec := []
  snap : Bool := false
  deriving DecidableEq, Repr

/-- A JF_SYNC that waits (R442): ring, index, and the queue number at its admission. -/
structure SyncWait where
  ring : Nat := 0
  idx : Nat := 0
  qn : Nat := 0
  deriving DecidableEq, Repr

/-- The journal manager (R422 to R447). DESIGN CHOICE (log entry 8). -/
structure Journal where
  /-- 0 UNMOUNTED, 1 MOUNTED, 2 DEGRADED, 3 READ_ONLY, 4 VOLATILE. -/
  state : Nat := 0
  /-- Mount result of R439. -/
  result : Nat := 0
  wide : Bool := false
  markHalt : Bool := false
  /-- Queued records, oldest first. -/
  queue : List JRec := []
  qn : Nat := 0
  prog : Option PageProg := none
  /-- Next JCNT (R426). -/
  jcnt : Nat := 0
  /-- JCNT of the last durable record (R442). -/
  lastJcnt : Nat := 0
  /-- Layout of the label (R423). -/
  img : Nat := 0
  snap : Nat := 0
  /-- Bad blocks as the CKPT record holds them (R424). -/
  bad : List Nat := []
  /-- Write pointers: block and next page of the ring and of the snapshot area. -/
  wblk : Nat := 0
  wpage : Nat := 0
  sblk : Nat := 0
  spage : Nat := 0
  /-- Blocks known erased. -/
  erased : List Nat := []
  /-- A block being prepared for erase: its live records are being copied forward (R429 to R432). -/
  rot : Option Nat := none
  /-- A rotation is due because the write pointer entered the erased block (R429). -/
  rotDue : Bool := false
  /-- Next row of the scrub pass, while one runs, and Almanac time of the start of the latest pass (R432). -/
  scrub : Option Nat := none
  scrubAt : Nat := 0
  /-- Rows found unreadable (R433). -/
  unreadable : List Nat := []
  syncs : List SyncWait := []
  /-- Current lease and counters granted from it (R434, R436). -/
  cur : Option Nat := none
  granted : Nat := 0
  /-- Durable leases ahead of the current one, and leases whose records are queued. -/
  ahead : List Nat := []
  queuedLeases : List Nat := []
  /-- Highest lease queued by this unit, and LEASE_HI of R437. -/
  leaseTop : Nat := 0
  leaseHi : Nat := 0
  /-- Durable MARK (R438) and a newer one that is queued. -/
  mark : Nat := 0
  markQueued : Option Nat := none
  /-- RING of the newest LEASE record read at mount (R458). -/
  ringRead : Nat := 0
  /-- A LEASE record was read at mount. -/
  leaseRead : Bool := false
  /-- Next ring of the round-robin, 60 or 61 (R442). -/
  rr : Nat := 60
  deriving DecidableEq, Repr

/-- An entry of the security log buffer (R487, R489): SEQ, 32 bytes, and whether its LOG record is queued. -/
structure LogEntry where
  seq : Nat := 0
  data : Bytes := []
  /-- Almanac time at its capture. -/
  since : Nat := 0
  handed : Bool := false
  deriving DecidableEq, Repr

/-- The security log (R487 to R490). -/
structure SecLog where
  buf : List LogEntry := []
  seq : Nat := 0
  /-- Entries lost since the last one stored, and the SEQ of the first of them. -/
  lost : Nat := 0
  lostSeq : Nat := 0
  /-- LOG_LOST: entries lost since full reset. -/
  lostAll : Nat := 0
  deriving DecidableEq, Repr

/-- A region entry in force with its integrity state (R218, R246, R252, R270). -/
structure Region where
  /-- Data range base, address bits 39..20. -/
  base : Nat := 0
  /-- Length in MiB. -/
  size : Nat := 0
  /-- Tag area base, address bits 39..17. -/
  tag : Nat := 0
  /-- 0 ENC, 1 NATIVE, 2 TREE. -/
  mode : Nat := 0
  tree : Nat := 0
  kidLo : Nat := 0
  kidHi : Nat := 0
  clsBase : Nat := 0
  clsKid : Nat := 0
  en : Bool := false
  epoch : Nat := 0
  /-- Next group of the initialisation pass, while one runs (R247). -/
  init : Option Nat := none
  /-- Calends count at the initialisation. -/
  initCal : Nat := 0
  locked : Bool := false
  lost : Bool := false
  deriving DecidableEq, Repr

/-- A KeyID entry in force (R215). -/
structure KidEntry where
  data : KeyRef := {}
  tag : KeyRef := {}
  en : Bool := false
  deriving DecidableEq, Repr

/-- A tree entry in force (R259). -/
structure TreeEntry where
  /-- Tree area base, address bits 39..16. -/
  base : Nat := 0
  key : KeyRef := {}
  en : Bool := false
  deriving DecidableEq, Repr

/-- A counter-cache line: a whole tag line (R231, R240). -/
structure CLine where
  /-- Group number, address bits 39..9. -/
  grp : Nat := 0
  /-- Region entry it belongs to. -/
  rgn : Nat := 0
  /-- Its address in the tag area. -/
  addr : Nat := 0
  data : Bytes := []
  dirty : Bool := false
  /-- Marked for write-back under R223. -/
  marked : Bool := false
  /-- Tree of a TREE-mode line with its leaf index; none otherwise. -/
  leaf : Option (Nat × Nat) := none
  deriving DecidableEq, Repr

/-- A tag-cache entry: a tree node (R231, R261). -/
structure TNode where
  addr : Nat := 0
  tree : Nat := 0
  /-- Subtree, the steering hash. -/
  sub : Nat := 0
  level : Nat := 0
  idx : Nat := 0
  depth : Nat := 0
  data : Bytes := []
  dirty : Bool := false
  deriving DecidableEq, Repr

/-- The memory stores of one channel (R231). -/
structure MemChan where
  /-- Counter cache, most recently used first. -/
  cc : List CLine := []
  /-- Tag cache, most recently used first. -/
  tc : List TNode := []
  /-- Write-back buffer, oldest first: address and line. -/
  wb : List (Nat × Bytes) := []
  /-- Counter-cache misses in this tick. -/
  miss : Nat := 0
  deriving DecidableEq, Repr

/-- A memory transaction accepted and not yet retired, with all it bound at acceptance (R47, R202). -/
structure Txn where
  tag : Nat := 0
  write : Bool := false
  /-- Address bits 39..0 of the line. -/
  addr : Nat := 0
  kid : Nat := 0
  cls : Nat := 0
  data : Bytes := []
  be : Nat := 0
  /-- Outside every protected region (R48). -/
  pass : Bool := false
  rgn : Nat := 0
  reg : Region := {}
  ch : Nat := 0
  /-- The epoch its group carries. -/
  epoch : Nat := 0
  dkey : Bytes := []
  tkey : Bytes := []
  /-- The tree key of a TREE-mode region. -/
  skey : Bytes := []
  /-- The references of the DATA and TAG keys bound: another channel has them delivered anew (R202). -/
  dref : KeyRef := {}
  tref : KeyRef := {}
  deriving DecidableEq, Repr

/-- An Equinox job slot (R271 to R287). -/
structure Job where
  /-- 0 IDLE, 1 RUNNING, 2 DONE, 3 FAILED. -/
  state : Nat := 0
  phase : Nat := 0
  err : Nat := 0
  failNew : Bool := false
  region : Nat := 0
  kind : Nat := 0
  keyid : Nat := 0
  scrub : Bool := false
  newTKey : Bool := false
  /-- The new tree key of a REBUILD. -/
  nd : KeyRef := {}
  /-- Old DATA and TAG references of a REKEY (R273). -/
  oldD : KeyRef := {}
  oldT : KeyRef := {}
  oldEpoch : Nat := 0
  /-- Boundary in force, as a unit number from the start of the region or phase. -/
  bound : Nat := 0
  quota : Nat := 0
  /-- Units at or above the boundary already converted or written: the carry list and this tick's work. -/
  conv : List Nat := []
  /-- Carry list length at the last Calends (R278). -/
  carry : Nat := 0
  units : Nat := 0
  short : Nat := 0
  /-- A key use was refused in this tick: true for the new set (R281). -/
  failing : Option Bool := none
  /-- Units whose fetch failed a seal in this tick: they open the next span (R263, R278). -/
  tried : List Nat := []
  deriving DecidableEq, Repr

/-- Memory encryption, integrity and Equinox (R209 to R287). -/
structure Mem where
  regions : Tab Region := []
  kids : Tab KidEntry := [(0, { data := { slot := 0x010 }, en := true })]
  trees : Tab TreeEntry := []
  /-- Root seals by 64 * tree + subtree, two copies (R262). -/
  roots : Tab Nat := []
  rootsCopy : Tab Nat := []
  /-- The next value of the epoch counter (R246). -/
  epoch : Nat := 1
  /-- Groups formed ahead of an initialisation pass: region and group (R247). -/
  ahead : List (Nat × Nat) := []
  /-- STAGE writes of this tick: KeyID, region and tree holding copies, in order (R222). -/
  stKid : List (Nat × KidEntry) := []
  stRgn : List (Nat × Region) := []
  stTree : List (Nat × TreeEntry) := []
  /-- Staged Equinox starts of this tick: job and holding copy (R272). -/
  stJob : List (Nat × Job) := []
  chan : Tab MemChan := []
  /-- Transactions in flight, oldest first. -/
  inflight : List Txn := []
  jobs : Tab Job := []
  /-- Regions whose last job ended FAILED and that were not initialised since, each with that job as it was frozen: its converted
  groups keep the new keys, the others the old ones (R272, R281). -/
  split : Tab Job := []
  /-- Trees of which a root copy was restored from the other (R262). -/
  rootCe : List Nat := []
  deriving DecidableEq, Repr

/-- An SA entry of a path direction (R295, R303, R308). -/
structure SaEntry where
  /-- 0 FREE, 1 READY, 2 BOUND, 3 ACTIVE, 4 STOPPED, 5 DEAD. -/
  state : Nat := 0
  suite : Nat := 0
  /-- Short SCI and salt of the XPN suites. -/
  ssci : Bytes := []
  salt : Bytes := []
  /-- Transmit: next PN. Receive: lowest acceptable PN. -/
  pn : Nat := 0
  /-- Slot, GEN and revocation epoch bound at install or at the latest revalidation. -/
  slot : Nat := 0
  gen : Nat := 0
  epoch : Nat := 0
  /-- The delivered key copy as two shares. -/
  share1 : Bytes := []
  share2 : Bytes := []
  /-- Hash subkey H. -/
  h : Bytes := []
  /-- Bound SC and AN. -/
  bound : Option (Nat × Nat) := none
  /-- Frames processed since install. -/
  frames : Nat := 0
  /-- Calends count at which an OVERLAP retires the entry (R301). -/
  retireAt : Option Nat := none
  deriving DecidableEq, Repr

/-- A SecY: one transmit SC (R298). -/
structure SecY where
  en : Bool := false
  vmatch : Bool := false
  sciTx : Bool := false
  es : Bool := false
  scb : Bool := false
  encrypt : Bool := false
  offset : Nat := 0
  suite : Nat := 0
  vid : Nat := 0
  sci : Bytes := []
  /-- Entry bound to each AN. -/
  ans : List (Option Nat) := [none, none, none, none]
  /-- Encoding AN. -/
  enc : Option Nat := none
  deriving DecidableEq, Repr

/-- A receive SC (R299). -/
structure RxSc where
  en : Bool := false
  /-- 0 Disabled, 1 Check, 2 Strict. -/
  validate : Nat := 0
  replay : Bool := false
  offset : Nat := 0
  suite : Nat := 0
  window : Nat := 0
  sci : Bytes := []
  ans : List (Option Nat) := [none, none, none, none]
  deriving DecidableEq, Repr

/-- A backhaul path with its SA table and its hold buffers (R288 to R320). DESIGN CHOICE (log entry 6). -/
structure Path where
  /-- 0 UP, 1 DOWN, 2 HELD, 3 RETURNING, 4 UNSERVED (R313). -/
  state : Nat := 0
  /-- The link input is high (R51). -/
  phy : Bool := false
  /-- Line transmit READY as the MAC drives it (R50). -/
  lineReady : Bool := false
  hbOk : Bool := false
  ready : Bool := false
  missed : Nat := 0
  /-- A frame validated in this heartbeat interval (R311). -/
  hbSeen : Bool := false
  /-- Heartbeats sent (R312). -/
  hbSeq : Nat := 0
  /-- Ticks of good service since the path failed (R313). -/
  good : Nat := 0
  /-- The good service began in this tick, so that the tick does not count whole. -/
  fresh : Bool := false
  /-- Ticks spent HELD (R318). -/
  heldTicks : Nat := 0
  /-- HELD began in this tick, which does not count whole; a path that a role change serves stays HELD for one tick (R313). -/
  heldNew : Bool := false
  /-- A takeover of the transmit or the receive channel is under way: frames wait in the hold buffer until its step 6 (R201, R319). -/
  takeTx : Bool := false
  takeRx : Bool := false
  /-- A failure whose step 2 of R315 has not run yet. -/
  flush : Bool := false
  /-- The transmit hold buffer feeds the other path (step 3 of R315). -/
  conn : Bool := false
  /-- The gap of the failover is still to be recorded (step 4 of R315). -/
  gap : Bool := false
  /-- FAILBACK requested for the coming Calends (R317). -/
  failback : Bool := false
  secys : Tab SecY := []
  rxscs : Tab RxSc := []
  txe : Tab SaEntry := []
  rxe : Tab SaEntry := []
  /-- Frames in the transmit channel that the MAC has not accepted: path of origin and bytes. -/
  txq : List (Nat × Bytes) := []
  /-- Transmit hold buffer: client frames, oldest first (R314). -/
  holdTx : List Bytes := []
  /-- Receive hold buffer: line frames with their ERR bit, oldest first (R314, R319). -/
  holdRx : List (Bytes × Bool) := []
  deriving DecidableEq, Repr

/-- A staged LINK descriptor (R297). -/
structure LinkChange where
  ring : Nat := 0
  idx : Nat := 0
  seq : Nat := 0
  path : Nat := 0
  tx : Bool := false
  deriving DecidableEq, Repr

/-- The backhaul link (R288 to R323). -/
structure Link where
  paths : Tab Path := []
  staged : List LinkChange := []
  deriving DecidableEq, Repr

/-- An epoch field of a tier entry (R324, R342). -/
structure EpochField where
  slot : Nat := 0
  gen : Nat := 0
  epoch : Nat := 0
  valid : Bool := false
  page : Nat := 0
  deriving DecidableEq, Repr

/-- A tier entry in force (R324). -/
structure TierEntry where
  lo : Nat := 0
  hi : Nat := 0
  en : Bool := false
  ul : Bool := false
  dl : Bool := false
  hlf : Bool := false
  s154 : Bool := false
  s154Min : Nat := 0
  a : EpochField := {}
  b : EpochField := {}
  deriving DecidableEq, Repr

/-- Node frame security (R324 to R349). -/
structure Nodes where
  tiers : Tab TierEntry := []
  /-- STAGE writes of this tick, in order (R328). -/
  staged : List (Nat × TierEntry) := []
  deriving DecidableEq, Repr

/-- An Almanac entry (R352). -/
structure AlmEntry where
  node : Nat := 0
  refTime : Nat := 0
  refTs : Nat := 0
  drift : Int := 0
  jitter : Nat := 0
  last : Nat := 0
  epoch : Nat := 0
  bmiss : Nat := 0
  owner : Nat := 0
  /-- 0 SYNCED, 1 DRIFTING, 2 LOST, 3 RESYNC. -/
  state : Nat := 0
  present : Bool := false
  anchor : Bool := false
  good : Nat := 0
  s154 : Bool := false
  snapDirty : Bool := false
  deriving DecidableEq, Repr

/-- A cached Almanac entry (R359): index, its 32 bytes, dirty. -/
structure AlmCached where
  idx : Nat := 0
  data : Bytes := []
  dirty : Bool := false
  deriving DecidableEq, Repr

/-- A cached tag line (level 0) or tree node of the Almanac's tree (R355, R359). -/
structure AlmNode where
  level : Nat := 0
  idx : Nat := 0
  data : Bytes := []
  dirty : Bool := false
  deriving DecidableEq, Repr

/-- The Almanac (R350 to R373). DESIGN CHOICE (log entry 45). -/
structure Almanac where
  en : Bool := false
  /-- EN was written and its commit is to come (R357). -/
  enReq : Bool := false
  err : Nat := 0
  log2 : Nat := 0
  base : Nat := 0
  tag : Nat := 0
  tree : Nat := 0
  restoring : Bool := false
  /-- Area keys: DATA, TAG and tree (R356). -/
  kd : Bytes := []
  kt : Bytes := []
  ks : Bytes := []
  /-- Root seal, held twice (R356). -/
  root : Nat := 0
  rootCopy : Nat := 0
  /-- Almanac time, and (c, A(c)) of the latest 256 Calends, newest first (R350). -/
  time : Nat := 0
  times : List (Nat × Nat) := []
  /-- Entry cache and node cache, most recently used first (R359). -/
  cache : List AlmCached := []
  nodes : List AlmNode := []
  /-- Entry cache misses of this tick and of the last complete one. -/
  miss : Nat := 0
  missLast : Nat := 0
  /-- Unmapped tiers (R353). -/
  unmapped : List Nat := []
  /-- Entries with SNAP_DIRTY set: 1 waits for the sweep, 2 handed to the journal and not durable (R366). -/
  dirty : Tab Nat := []
  /-- Nodes whose tombstone waits for the sweep (R366). -/
  tombs : List Nat := []
  /-- The index the snapshot sweep has reached, Almanac time of its start, and items handed in this tick (R366). -/
  sweep : Nat := 0
  sweepStart : Nat := 0
  handed : Nat := 0
  /-- SNAP_LATE was raised for the sweep in progress (R366). -/
  late : Bool := false
  /-- Present entries by index: 4 * node + sync state; ALM_CNT_s counts them (R373). -/
  present : Tab Nat := []
  /-- Tiers and bases in force at the enabling Calends: NODE_LO, NODE_HI, BASE (R367). -/
  rmap : Option (List (Nat × Nat × Nat)) := none
  deriving DecidableEq, Repr

/-- A rate entry (R376). -/
structure Rate where
  pre : Nat := 0
  bitNs : Nat := 0
  ovh : Nat := 0
  cnum : Nat := 0
  cden : Nat := 0
  blk : Nat := 0
  valid : Bool := false
  deriving DecidableEq, Repr

/-- A band of the profile in force (R375). -/
structure Band where
  en : Bool := false
  ppm : Nat := 0
  maxTx : Nat := 0
  resetPpm : Nat := 0
  rates : List Rate := []
  deriving DecidableEq, Repr

/-- A frame in the held store (R381). -/
structure HeldFrame where
  frame : Bytes := []
  dst : Nat := 0
  tag : Nat := 0
  ring : Nat := 0
  irq : Bool := false
  node : Nat := 0
  dcnt : Nat := 0
  ts : Nat := 0
  airtime : Nat := 0
  band : Nat := 0
  rate : Nat := 0
  info : Nat := 0
  /-- Expiry tick, as the Calends count in force in it. -/
  expiry : Nat := 0
  /-- Its completion ring was disabled since: its event is dropped (R383). -/
  mute : Bool := false
  deriving DecidableEq, Repr

/-- The duty-cycle ledger (R374 to R385). -/
structure Ledger where
  loaded : Bool := false
  version : Nat := 0
  bands : List Band := []
  /-- Sixty buckets of each band, the current one first (R379). -/
  buckets : List (List Nat) := []
  /-- Index of the current bucket. -/
  bucket : Nat := 0
  held : List HeldFrame := []
  /-- A profile accepted and not yet committed (R377). -/
  staged : Option Bytes := none
  /-- SHA-384 digest of the body in force: M_PROFILE (R172, R374). -/
  digest : Bytes := []
  /-- U of each band at the last Calends. -/
  used : List Nat := []
  deriving DecidableEq, Repr

/-- A conversation input (R390). -/
structure ConvInput where
  type : Nat := 0
  s154 : Bool := false
  epoch : Nat := 0
  counter : Nat := 0
  ts : Nat := 0
  bmiss : Nat := 0
  status : Nat := 0
  /-- The input is an opportunity (R394). -/
  opp : Bool := false
  cal : Nat := 0
  sub : Nat := 0
  len : Nat := 0
  payload : Bytes := []
  deriving DecidableEq, Repr

/-- A conversation table entry (R388). -/
structure Conv where
  node : Nat := 0
  proto : Nat := 0
  /-- 0 FREE, 1 OPEN, 2 SENT. -/
  state : Nat := 0
  seq : Nat := 0
  retry : Nat := 0
  /-- Retries given at the opening. -/
  retry0 : Nat := 0
  timer : Nat := 0
  life : Nat := 0
  /-- Ticks counted toward the next unit of LIFE. -/
  lifeSub : Nat := 0
  missed : Nat := 0
  tag : Nat := 0
  arg : Bytes := []
  chal : Bytes := []
  key : Bytes := []
  /-- The epoch key the KEY field is bound to (R404). -/
  keyRef : Option KeyRef := none
  oppCal : Nat := 0
  oppSub : Nat := 0
  /-- The completion ring of its events (R410). -/
  cq : Nat := 0
  s154 : Bool := false
  /-- Opened by an uplink (R401). -/
  byUplink : Bool := false
  input : Option ConvInput := none
  deriving DecidableEq, Repr

/-- A queued step of a conversation (R398, R400): entry, and 0 START, 1 RX, 2 TIMEOUT. -/
structure ConvStep where
  id : Nat := 0
  kind : Nat := 0
  deriving DecidableEq, Repr

/-- A conversation engine that runs an operator program (R413). -/
structure Engine where
  on : Bool := false
  id : Nat := 0
  kind : Nat := 0
  g : List Nat := []
  pc : Nat := 0
  count : Nat := 0
  input : ConvInput := {}
  output : Bytes := []
  cost : Cost := {}
  core1 : Bool := false
  /-- Pipeline work of the step's node-key derivations so far (R198, R339). -/
  work : Nat := 0
  /-- Completion entries reserved for the step and not used (R400). -/
  reserved : Nat := 0
  deriving DecidableEq, Repr

/-- An operator program (R416). -/
structure Program where
  version : Nat := 0
  start : Nat := 0
  rx : Nat := 0
  timeout : Nat := 0
  costP : Nat := 0
  costI : Nat := 0
  code : List Nat := []
  /-- The image without its signature (M_CONV, R172). -/
  image : Bytes := []
  /-- Order of loading (R172). -/
  order : Nat := 0
  deriving DecidableEq, Repr

/-- Conversation engines and tables (R386 to R421). -/
structure Convs where
  /-- Entries by CV_ID. -/
  table : Tab Conv := []
  /-- Next SEQ (R392). -/
  seq : Nat := 1
  /-- Steps waiting, by channel, oldest first. -/
  steps : Tab (List ConvStep) := []
  /-- Engines by 2 * channel + engine. -/
  engines : Tab Engine := []
  /-- Operator programs 5 and 6 in force, and images accepted and not yet committed. -/
  programs : Tab Program := []
  staged : Tab Program := []
  /-- Programs loaded since full reset; gives `order`. -/
  loads : Nat := 0
  /-- Completion entries reserved for the step in progress and not used (R400). -/
  reserve : Nat := 0
  /-- Steps run in this tick and in the last complete one, by channel. -/
  ran : Tab Nat := []
  ranLast : Tab Nat := []
  deriving DecidableEq, Repr

/-- Another unit of the Krysa ring as this one knows it (R453 to R461). -/
structure Peer where
  /-- Calends count and Almanac time when its BEACON was last heard, and its ownership lease is live here (R460). -/
  heard : Option Nat := none
  beaconAt : Nat := 0
  lease : Bool := false
  links : Nat := 0
  floor : Nat := 0
  mapver : Nat := 0
  maporg : Nat := 0
  /-- Highest (CALENDS, SEQ) processed. -/
  last : Option (Nat × Nat) := none
  lost : Bool := false
  deriving DecidableEq, Repr

/-- A range of the ownership map (R459). -/
structure KRange where
  lo : Nat := 0
  hi : Nat := 0
  owner : Nat := 0
  deriving DecidableEq, Repr

/-- A proposed map change (R461); kind 1 ASSIGN, 2 TAKE. -/
structure KChange where
  ver : Nat := 0
  origin : Nat := 0
  kind : Nat := 0
  dst : Nat := 0
  src : Nat := 0
  lo : Nat := 0
  hi : Nat := 0
  deriving DecidableEq, Repr

/-- An authenticated message that waits to be processed (R453). -/
structure KMsg where
  type : Nat := 0
  origin : Nat := 0
  cal : Nat := 0
  body : Bytes := []
  deriving DecidableEq, Repr

/-- A move this unit receives (R463, R464): the range is withheld until `ended`. -/
structure KMove where
  lo : Nat := 0
  hi : Nat := 0
  src : Nat := 0
  ver : Nat := 0
  /-- Almanac time at the moving Calends. -/
  since : Nat := 0
  ended : Bool := false
  deriving DecidableEq, Repr

/-- The Krysa ring agent (R448 to R471). DESIGN CHOICE (log entry 6). -/
structure Krysa where
  /-- Ring state of R455. -/
  state : Nat := 0
  /-- JOINED since full reset. -/
  joined : Bool := false
  decided : Bool := false
  /-- A decision of this boot had EN = 0 and LEAVE = 1 (R458). -/
  released : Bool := false
  /-- Counters may be granted (R458). -/
  granting : Bool := false
  /-- Grants wait for the first JOINED Calends (R458). -/
  waitJoin : Bool := false
  /-- KR_CFG was written in this tick. -/
  cfgWritten : Bool := false
  /-- Lock inputs low for 1 us, and the Calends count of the latest authenticated message: east, west. -/
  eastLow : Bool := false
  westLow : Bool := false
  eastHeard : Option Nat := none
  westHeard : Option Nat := none
  /-- SEQ of the next message of this tick (R451). -/
  seq : Nat := 0
  peers : Tab Peer := []
  floor : Nat := 0
  mapver : Nat := 0
  /-- Origin of the map change last applied. -/
  maporg : Nat := 0
  map : List KRange := []
  prop : Option KChange := none
  /-- The KR_ASSIGN that made the pending proposal: ring, index, count at admission. -/
  assign : Option (Nat × Nat × Nat) := none
  inbox : List KMsg := []
  /-- Pending claim: number, count when sent (R457). -/
  claim : Option (Nat × Nat) := none
  /-- Units whose beacon confirmed the claim. -/
  claimAck : List Nat := []
  /-- Leases the journal manager waits for. -/
  wanted : Nat := 0
  /-- Calends count of the latest BEACON of which a copy returned (R455). -/
  backCal : Nat := 0
  /-- MAPVER and MAPORG in the latest BEACON sent (R454, R461). -/
  told : Nat × Nat := (0, 0)
  /-- Almanac time of the first BEACON of the present unbroken run of sendings. -/
  sendFrom : Option Nat := none
  /-- Almanac time of the sending that this unit's own lease counts from (R460). -/
  leaseFrom : Option Nat := none
  /-- Round trip in engine clocks, and consecutive Calends with RTT above T / 2. -/
  rtt : Nat := 0
  slow : Nat := 0
  /-- The agent's copy of the ring key and the GEN it has, the previous key, and the ticks that one is still accepted (R466). -/
  key : Bytes := []
  keyGen : Nat := 0
  oldKey : Bytes := []
  oldTicks : Nat := 0
  /-- A move this unit makes: the change, the Almanac time of its Calends, the entries sent (R463). -/
  moveOut : Option KChange := none
  moveAt : Nat := 0
  moveSent : Nat := 0
  movesIn : List KMove := []
  /-- The map is to be sent (R454). -/
  sendMap : Bool := false
  /-- Entries sent and placed by moves since full reset. -/
  hoSent : Nat := 0
  hoRecv : Nat := 0
  /-- Next ring of the round-robin, 62 or 63 (R468). -/
  rr : Nat := 62
  deriving DecidableEq, Repr

/-- An NMS command that waits for its records to be durable or for its commit Calends (R478, R482). -/
structure NmsWait where
  ring : Nat := 0
  idx : Nat := 0
  op : Nat := 0
  /-- Journal queue number after its records were queued. -/
  qn : Nat := 0
  /-- The object loaded; empty for a boot selection. -/
  object : Bytes := []
  /-- The object is staged for the coming Calends. -/
  staged : Bool := false
  deriving DecidableEq, Repr

/-- The NMS processor (R472 to R484, R491). -/
structure Nms where
  ready : Bool := false
  /-- 0 ROM service, 1 image A, 2 image B. -/
  service : Nat := 0
  trial : Bool := false
  fallback : Bool := false
  /-- VERSION and SVN of the running image; 0 for the ROM service. -/
  version : Nat := 0
  svn : Nat := 0
  /-- M_NMS (R474); empty stands for 48 zero bytes. -/
  digest : Bytes := []
  /-- The area written last since full reset (R482). -/
  written : Option Nat := none
  wait : Option NmsWait := none
  /-- The STATUS window as taken for NMS_STATS at the first Calends after its admission (R491). -/
  stats : Option Bytes := none
  /-- Next ring of the round-robin, 56 to 59. -/
  rr : Nat := 56
  deriving DecidableEq, Repr

/-- Vigil in the AON domain: kept through SX_RST_N, reset by VG_POR_N only (R60, R485, R486, R509). -/
structure Vigil where
  /-- The alarm latch VG_CAUSE. -/
  cause : Nat := 0
  /-- Sensors with an active warning: 0 VIN, 1 CORE, 2 AON, 3 FUSE, 4 to 7 T0 to T3, 8 ec, 9 mclk. -/
  warn : List Nat := []
  /-- Latest readings by sensor: mV, degrees C as 16-bit two's complement, MHz. -/
  readings : Tab Nat := []
  /-- FLT_FUSE.PENDING: an alarm step waits for the next start (R509). -/
  pending : Bool := false
  /-- The line rose while SX_RST_N was held: a step pends where the boot that follows is one that counts (R60, R509). -/
  heldRise : Bool := false
  deriving DecidableEq, Repr

/-- Alarm erase, wedges and the kill (R497 to R515). -/
structure Flt where
  /-- 0 NORMAL, 1 ALARMED, 2 LOCKOUT. -/
  state : Nat := 0
  eraseFail : Bool := false
  /-- 0 none, 1 Vigil, 2 vault, 3 command kill. -/
  source : Nat := 0
  phase : Nat := 0
  acal : Nat := 0
  /-- Wedged units: 0 Almanac, 1 ledger, 2 journal, 3 Krysa, 4 NMS, 5 ring engine (R515). -/
  units : List Nat := []
  eraseNs : Nat := 0
  scrubbed : Nat := 0
  /-- Output ranges the scrub has still to write (R503). -/
  scrub : List (Nat × Nat) := []
  scrubBusy : Bool := false
  /-- A step of the alarm count is to be burned in step 5 of R501. -/
  stepDue : Bool := false
  /-- The root-kill fuse is to be blown in step 5 of R501 (R502). -/
  killDue : Bool := false
  /-- The Calends count in force when a command kill was armed, while the arming holds (R512). -/
  armed : Option Nat := none
  deriving DecidableEq, Repr

/-- The retention store of the AON domain (R524). -/
structure Retention where
  key : Bytes := []
  counter : Nat := 0
  count : Nat := 0
  almTime : Nat := 0
  length : Nat := 0
  wakeTicks : Nat := 0
  deriving DecidableEq, Repr

/-- What a sleep image holds (R525): the model keeps the content beside the encrypted bytes in DRAM.
DESIGN CHOICE (log entry 19). -/
structure SleepSaved where
  /-- The image bytes as they lie in DRAM. -/
  bytes : Bytes := []
  /-- Where they lie. -/
  addr : Nat := 0
  slots : Tab Slot := []
  epoch : Nat := 0
  regions : Tab Region := []
  kids : Tab KidEntry := []
  trees : Tab TreeEntry := []
  roots : Tab Nat := []
  rootsCopy : Tab Nat := []
  memEpoch : Nat := 0
  alm : Almanac := {}
  table : Tab Conv := []
  ledger : Ledger := {}
  jf : Journal := {}
  regs : Regs := {}
  deriving DecidableEq, Repr

/-- Sleep (R524 to R529). -/
structure Sleep where
  err : Nat := 0
  /-- A request was written in this tick (R526). -/
  req : Bool := false
  /-- SLP_IMG was written in this tick (R525). -/
  imgReq : Bool := false
  wakes : Nat := 0
  last : Nat := 0
  /-- TICK_IN edges counted in sleep (R528). -/
  edges : Nat := 0
  /-- Ticks slept that the first Calends after the wake has still to act on (R529). -/
  slept : Option Nat := none
  ret : Option Retention := none
  saved : Option SleepSaved := none
  /-- The image counter (R524). -/
  counter : Nat := 0
  deriving DecidableEq, Repr

/-- The debug TAP (R63 to R65, R125). PRESUMED (log entry 130). -/
structure TapPort where
  /-- The code of the instruction selected, 8 bits (R63). -/
  ir : Nat := 1
  /-- The challenge shifted out last; none where every response to it is invalid. -/
  chal : Option Bytes := none
  /-- A response that waits for the end of P1. -/
  resp : Option Bytes := none
  /-- The one-bit bypass register. -/
  bypass : Bool := false
  /-- Unlock latched for the next full reset. -/
  unlock : Bool := false
  /-- The scan chains are open. -/
  scanOpen : Bool := false
  deriving DecidableEq, Repr

/-- The whole machine: the block, its fuses, its DRAM as the memory port reaches it, and the commands that wait. -/
structure State where
  /-- Commands waiting, first in first out. -/
  pending : List Instr := []
  regs : Regs := {}
  host : HostPort := {}
  tick : Tick := {}
  /-- Rings r = 0..127: SQk is k, CQk is 64 + k (R118). -/
  rings : Tab Ring := []
  vault : Vault := {}
  fuses : Fuses := {}
  ch : Tab Chan := []
  part : Part := {}
  boot : Boot := {}
  jf : Journal := {}
  mem : Mem := {}
  link : Link := {}
  /-- Frames and memory accesses held at the ports from a Calends instant until step 4 of its commit (R81, R84). -/
  portHeld : List Instr := []
  /-- Host writes of Calends effect accepted since the Calends instant, offset and value: they belong to the tick that begins
  (R12, R81). -/
  lateWr : List (Nat × Nat) := []
  flash : Flash := {}
  log : SecLog := {}
  nodes : Nodes := {}
  alm : Almanac := {}
  ledger : Ledger := {}
  conv : Convs := {}
  krysa : Krysa := {}
  nms : Nms := {}
  vigil : Vigil := {}
  flt : Flt := {}
  sleep : Sleep := {}
  tap : TapPort := {}
  /-- Memory behind the memory port, by byte address; an unlisted byte reads `dramInit`. -/
  dram : List Host.Cell := []
  /-- MODEL'S OWN: the DM_ERR code that a read of a line returns, by line address; an unlisted line is clean (R49, R257).
  DESIGN CHOICE (log entry 161). -/
  dmErr : Tab Nat := []
  /-- MODEL'S OWN: number of DRBG bytes drawn so far; the free values of `Config.drbgByte`. -/
  drbg : Nat := 0
  /-- MODEL'S OWN: number of admissions and staged register requests so far; gives their order (R82). -/
  seq : Nat := 0
  /-- MODEL'S OWN: what left the block at its boundary, newest first. -/
  outs : List Out := []
  deriving DecidableEq, Repr

/-- The role of a channel after a full reset (R26). -/
def resetRole (n : Nat) : Nat := if n < 8 then 1 else if n < 12 then 2 else if n < 15 then 3 else 4

/-- A channel after a full reset (R26, R80, R208). -/
def Chan.reset (n : Nat) : Chan :=
  { role := resetRole n, ringsOf := n
    shareP := if n < 8 then 224 else if n < 12 then 200 else 0
    shareG := if n < 8 then 224 else if n < 12 then 200 else 0 }

/-- The machine right after the first reset: unprogrammed fuses, empty memory, every register at its reset value. -/
def State.reset : State :=
  { ch := (List.range 16).map (fun n => (n, Chan.reset n)) }

end Sys2Proof.Machine
end

