-- ==== Sys2Proof/Machine/Regs.lean ====
section
/-! DEFINITION. The register map (R534 to R547): for every register its offsets, reset value, writable bits and timing,
taken from the field maps of the chapters. -/

namespace Sys2Proof.Machine

/-- How a register takes a write (R10, R12). -/
inductive RegKind where
  /-- Read-only, or a status register. -/
  | ro
  /-- RW, in effect at once. -/
  | imm
  /-- RW, in effect at the Calends. -/
  | cal
  /-- Event register, write 1 to clear. -/
  | evt
  /-- Interrupt enable register, in effect at once. -/
  | irqEn
  /-- Holding copy of a staged table entry; its own chapter places its effect. -/
  | hold
  /-- A register whose write is a row of its own or has a rule of its own. -/
  | act
  deriving DecidableEq, Repr

/-- One group of registers: base offset, count, stride, reset value, writable bits, kind. -/
structure RegRow where
  base : Nat
  count : Nat
  stride : Nat
  reset : Nat
  mask : Nat
  kind : RegKind
  deriving DecidableEq, Repr

/-- Global, tick, ring and vault registers (R87, R118, R150, R540, R543, R544). -/
def regRowsGlobal : List RegRow :=
  [⟨0x20, 1, 4, 0x0, 0xFFFFFFFF, .imm⟩,
   ⟨0x40, 1, 4, 0x3D550, 0x3FFFF, .imm⟩,
   ⟨0x13F00, 1, 4, 0x2, 0x3, .imm⟩,
   ⟨0x100, 1, 4, 0x860FA0, 0x1FFFFFFF, .cal⟩,
   ⟨0x104, 1, 4, 0x3E8, 0x3FF, .cal⟩,
   ⟨0x108, 1, 4, 0x0, 0x1F, .evt⟩,
   ⟨0x10C, 1, 4, 0x0, 0x1F, .irqEn⟩,
   ⟨0x140, 8, 4, 0xE000E0, 0x1FF01FF, .act⟩,
   ⟨0x160, 4, 4, 0xC800C8, 0x1FF01FF, .act⟩,
   ⟨0x170, 4, 4, 0x0, 0x1FF01FF, .act⟩,
   ⟨0x180, 2, 4, 0x0, 0xFFFFFFFF, .evt⟩,
   ⟨0x188, 2, 4, 0x0, 0xFFFFFFFF, .irqEn⟩,
   ⟨0x1000, 128, 16, 0x0, 0xFFFFF000, .cal⟩,
   ⟨0x1004, 128, 16, 0x0, 0xFFFF, .cal⟩,
   ⟨0x1008, 128, 16, 0x6, 0x7F, .cal⟩,
   ⟨0x100C, 128, 16, 0x0, 0x0, .act⟩,
   ⟨0x20000, 128, 64, 0x0, 0x0, .act⟩,
   ⟨0x2000, 1, 4, 0x0, 0x1F, .evt⟩,
   ⟨0x2004, 1, 4, 0x0, 0x1F, .irqEn⟩]

/-- Channel registers (R206). -/
def regRowsChannel : List RegRow :=
  [⟨0x3000, 8, 4, 0x1, 0x7, .act⟩,
   ⟨0x3020, 4, 4, 0x2, 0x7, .act⟩,
   ⟨0x3030, 3, 4, 0x3, 0x7, .act⟩,
   ⟨0x303C, 1, 4, 0x4, 0x7, .act⟩,
   ⟨0x3040, 1, 4, 0x0, 0x1, .cal⟩,
   ⟨0x3044, 1, 4, 0x0, 0x1F, .evt⟩,
   ⟨0x3048, 1, 4, 0x0, 0x1F, .irqEn⟩]

/-- Region registers (R235). -/
def regRowsRegion : List RegRow :=
  [⟨0x10000, 64, 32, 0x0, 0xFFFFF, .hold⟩,
   ⟨0x10004, 64, 32, 0x0, 0x1FFFFF, .hold⟩,
   ⟨0x10008, 64, 32, 0x0, 0x7FFFFF, .hold⟩,
   ⟨0x1000C, 64, 32, 0x0, 0xFFFFF3, .hold⟩,
   ⟨0x10010, 64, 32, 0x0, 0xFFFFFFFF, .hold⟩,
   ⟨0x10014, 64, 32, 0x0, 0x1, .act⟩]

/-- KeyID registers (R236); entry 0 is read-only in DATA and EN. -/
def regRowsKid : List RegRow :=
  [⟨0x11000, 1, 32, 0x10, 0x0, .ro⟩,
   ⟨0x11018, 1, 32, 0x1, 0x0, .act⟩,
   ⟨0x11020, 255, 32, 0x0, 0xFFF, .hold⟩,
   ⟨0x11024, 255, 32, 0x0, 0xFFFFFFFF, .hold⟩,
   ⟨0x11028, 255, 32, 0x0, 0xFFFF, .hold⟩,
   ⟨0x1100C, 256, 32, 0x0, 0xFFF, .hold⟩,
   ⟨0x11010, 256, 32, 0x0, 0xFFFFFFFF, .hold⟩,
   ⟨0x11014, 256, 32, 0x0, 0xFFFF, .hold⟩,
   ⟨0x11038, 255, 32, 0x0, 0x1, .act⟩]

/-- Memory event, tree and Equinox registers (R237, R268, R269, R285, R286). -/
def regRowsMem : List RegRow :=
  [⟨0x13000, 1, 4, 0x0, 0x3F, .evt⟩,
   ⟨0x13004, 1, 4, 0x0, 0x3F, .irqEn⟩,
   ⟨0x13008, 1, 4, 0x0, 0xFF, .evt⟩,
   ⟨0x1300C, 1, 4, 0x0, 0xFF, .irqEn⟩,
   ⟨0x13010, 1, 4, 0x0, 0xF, .evt⟩,
   ⟨0x13014, 1, 4, 0x0, 0xF, .irqEn⟩,
   ⟨0x13100, 16, 32, 0x0, 0xFFFFFF, .hold⟩,
   ⟨0x13104, 16, 32, 0x0, 0xFFF, .hold⟩,
   ⟨0x13108, 16, 32, 0x0, 0xFFFFFFFF, .hold⟩,
   ⟨0x1310C, 16, 32, 0x0, 0xFFFF, .hold⟩,
   ⟨0x13110, 16, 32, 0x0, 0x1, .act⟩,
   ⟨0x13400, 4, 32, 0x0, 0xFF07FF, .act⟩,
   ⟨0x13404, 4, 32, 0x0, 0x1FFF, .cal⟩,
   ⟨0x13408, 4, 32, 0x0, 0xFFF, .hold⟩,
   ⟨0x1340C, 4, 32, 0x0, 0xFFFFFFFF, .hold⟩,
   ⟨0x13410, 4, 32, 0x0, 0xFFFF, .hold⟩,
   ⟨0x13414, 4, 32, 0x0, 0xFFF, .hold⟩,
   ⟨0x13418, 4, 32, 0x0, 0xFFFFFFFF, .hold⟩,
   ⟨0x1341C, 4, 32, 0x0, 0xFFFF, .hold⟩]

/-- Link registers (R321, R322). -/
def regRowsLink : List RegRow :=
  [⟨0x4000, 2, 64, 0x10005, 0x1FFFF, .cal⟩,
   ⟨0x4004, 2, 64, 0x0, 0xFFFFFFFF, .cal⟩,
   ⟨0x4008, 2, 64, 0x0, 0xFFFF, .cal⟩,
   ⟨0x400C, 2, 64, 0x0, 0xFFFFFFFF, .cal⟩,
   ⟨0x4010, 2, 64, 0x0, 0xFFFF, .cal⟩,
   ⟨0x4014, 2, 64, 0x41E0128, 0xFF3F03FF, .cal⟩,
   ⟨0x4018, 2, 64, 0x1, 0x3FF, .cal⟩,
   ⟨0x401C, 2, 64, 0x0, 0x0, .act⟩,
   ⟨0x4080, 1, 4, 0x0, 0xFFF, .evt⟩,
   ⟨0x4084, 1, 4, 0x0, 0xFFF, .irqEn⟩]

/-- Journal registers (R445, R446). -/
def regRowsJournal : List RegRow :=
  [⟨0x5300, 1, 4, 0x1C640A, 0x3FFFF7F, .cal⟩,
   ⟨0x5304, 1, 4, 0x0, 0x1FF, .evt⟩,
   ⟨0x5308, 1, 4, 0x0, 0x1FF, .irqEn⟩]

/-- Node-frame and tier registers (R347, R348). -/
def regRowsNodes : List RegRow :=
  [⟨0x5000, 1, 4, 0xC040, 0xFFFF, .cal⟩,
   ⟨0x5004, 1, 4, 0x0, 0xF, .evt⟩,
   ⟨0x5008, 1, 4, 0x0, 0xF, .irqEn⟩,
   ⟨0x8000, 256, 64, 0x0, 0xFFFFFFFF, .hold⟩,
   ⟨0x8004, 256, 64, 0x0, 0xFFFFFFFF, .hold⟩,
   ⟨0x800C, 256, 64, 0x0, 0x1FF0FFF, .hold⟩,
   ⟨0x8010, 256, 64, 0x0, 0xFFFFFFFF, .hold⟩,
   ⟨0x8014, 256, 64, 0x0, 0xFFFF, .hold⟩,
   ⟨0x8018, 256, 64, 0x0, 0x1FF0FFF, .hold⟩,
   ⟨0x801C, 256, 64, 0x0, 0xFFFFFFFF, .hold⟩,
   ⟨0x8020, 256, 64, 0x0, 0xFFFF, .hold⟩,
   ⟨0x8008, 256, 64, 0x0, 0xFF, .act⟩]

/-- Almanac registers (R371, R372). -/
def regRowsAlm : List RegRow :=
  [⟨0x5100, 1, 4, 0x3640032, 0xFFF3FFF, .cal⟩,
   ⟨0x5104, 1, 4, 0xC83C07D0, 0xFFFFFFFF, .cal⟩,
   ⟨0x5108, 1, 4, 0x100258, 0x1FFFFFF, .cal⟩,
   ⟨0x5400, 256, 4, 0x0, 0x3FFFFF, .cal⟩,
   ⟨0x510C, 1, 4, 0x0, 0x3F, .evt⟩,
   ⟨0x5110, 1, 4, 0x0, 0x3F, .irqEn⟩,
   ⟨0x13800, 1, 4, 0x0, 0xFFFFF, .hold⟩,
   ⟨0x13804, 1, 4, 0x0, 0x7FFFFF, .hold⟩,
   ⟨0x13808, 1, 4, 0x0, 0xFFFFFF, .hold⟩,
   ⟨0x1380C, 1, 4, 0x16, 0x8000001F, .act⟩]

/-- Ledger event registers (R384). -/
def regRowsLedger : List RegRow :=
  [⟨0x5200, 1, 4, 0x0, 0x1F, .evt⟩,
   ⟨0x5204, 1, 4, 0x0, 0x1F, .irqEn⟩]

/-- Conversation registers (R419). -/
def regRowsConv : List RegRow :=
  [⟨0x6000, 1, 4, 0x1003E8, 0x3F7FFF, .cal⟩,
   ⟨0x6004, 1, 4, 0x3C1, 0x3FF, .cal⟩,
   ⟨0x6008, 1, 4, 0x0, 0x3F, .evt⟩,
   ⟨0x600C, 1, 4, 0x0, 0x3F, .irqEn⟩,
   ⟨0x6010, 1, 4, 0x0, 0xFFF00000, .cal⟩,
   ⟨0x6014, 1, 4, 0x0, 0xFFFF, .cal⟩,
   ⟨0x6020, 1, 8, 0x300EA60, 0xFFFFFFF, .cal⟩,
   ⟨0x6028, 1, 8, 0x50DBBA0, 0xFFFFFFF, .cal⟩,
   ⟨0x6030, 1, 8, 0x80DBBA0, 0xFFFFFFF, .cal⟩,
   ⟨0x6038, 3, 8, 0x30DBBA0, 0xFFFFFFF, .cal⟩,
   ⟨0x6024, 1, 8, 0xE1, 0xFFFFFF, .cal⟩,
   ⟨0x602C, 2, 8, 0x269FB, 0xFFFFFF, .cal⟩,
   ⟨0x603C, 3, 8, 0x1518, 0xFFFFFF, .cal⟩,
   ⟨0x6080, 8, 4, 0x0, 0xFFFFFFFF, .cal⟩]

/-- Krysa registers (R469, R470). -/
def regRowsKrysa : List RegRow :=
  [⟨0x5800, 1, 4, 0x20080, 0x7FFFFF, .cal⟩,
   ⟨0x5804, 1, 4, 0x0, 0x1FF, .evt⟩,
   ⟨0x5808, 1, 4, 0x0, 0x1FF, .irqEn⟩]

/-- NMS, fault, start-up and power registers (R492, R513, R514, R531, R532). -/
def regRowsFaults : List RegRow :=
  [⟨0x5A00, 1, 4, 0x0, 0x3F, .evt⟩,
   ⟨0x5A04, 1, 4, 0x0, 0x3F, .irqEn⟩,
   ⟨0x5B00, 1, 4, 0x0, 0x1F, .evt⟩,
   ⟨0x5B04, 1, 4, 0x0, 0x1F, .irqEn⟩,
   ⟨0x13C00, 1, 4, 0x0, 0x0, .act⟩,
   ⟨0x13C04, 1, 4, 0x0, 0x0, .act⟩,
   ⟨0x5C00, 1, 4, 0x0, 0x1, .cal⟩,
   ⟨0x5C04, 1, 4, 0xFA0, 0xFFFFFF, .cal⟩,
   ⟨0x5C08, 1, 4, 0x0, 0x0, .act⟩,
   ⟨0x5C0C, 1, 4, 0x0, 0xF, .evt⟩,
   ⟨0x5C10, 1, 4, 0x0, 0xF, .irqEn⟩,
   ⟨0x13D00, 1, 4, 0x0, 0x8007FFFF, .act⟩]

/-- Every register group of the HOST, PRIV and doorbell windows. -/
def regRows : List RegRow :=
  regRowsGlobal ++ regRowsChannel ++ regRowsRegion ++ regRowsKid ++ regRowsMem ++ regRowsLink ++ regRowsJournal ++ regRowsNodes ++ regRowsAlm ++ regRowsLedger ++ regRowsConv ++ regRowsKrysa ++ regRowsFaults

/-- Whether an offset belongs to a group. -/
def RegRow.has (r : RegRow) (off : Nat) : Bool :=
  decide (r.base ≤ off) && decide ((off - r.base) % r.stride = 0) && decide ((off - r.base) / r.stride < r.count)

/-- The group of an offset. -/
def regRow (off : Nat) : Option RegRow := regRows.find? (fun r => r.has off)

/-- The reset value of a register; 0 for an unassigned offset (R534). -/
def regReset (off : Nat) : Nat := ((regRow off).map (·.reset)).getD 0

end Sys2Proof.Machine
end

