-- ==== Sys2Proof/Machine/Ops.lean ====
section
/-! DEFINITION. The named operations every unit uses: rings, channels, registers, engine-clock conversions, DRBG draws. -/

namespace Sys2Proof.Machine

/-- Ring r. -/
def State.ring (s : State) (r : Nat) : Ring := tget {} s.rings r
/-- Ring r changed by f. -/
def State.modRing (s : State) (r : Nat) (f : Ring → Ring) : State := { s with rings := tmod {} s.rings r f }
/-- Channel n. -/
def State.chan (s : State) (n : Nat) : Chan := tget {} s.ch n
/-- Channel n changed by f. -/
def State.modChan (s : State) (n : Nat) (f : Chan → Chan) : State := { s with ch := tmod {} s.ch n f }
/-- Slot n of the vault. -/
def State.slot (s : State) (n : Nat) : Slot := tget {} s.vault.slots n
/-- Slot n changed by f. -/
def State.modSlot (s : State) (n : Nat) (f : Slot → Slot) : State :=
  { s with vault := { s.vault with slots := tmod {} s.vault.slots n f } }

/-- A register as last written, or its event bits; the reset value where nothing was written (R534). -/
def State.wr (s : State) (off : Nat) : Nat := tget (regReset off) s.regs.wr off
/-- A register of Calends timing as in force (R12). -/
def State.fc (s : State) (off : Nat) : Nat := tget (regReset off) s.regs.fc off
/-- A stored STATUS word. -/
def State.stw (s : State) (off : Nat) : Nat := tget 0 s.regs.st off
/-- Write a register's last-written value. -/
def State.putWr (s : State) (off v : Nat) : State := { s with regs := { s.regs with wr := tins s.regs.wr off v } }
/-- Write a register's value in force. -/
def State.putFc (s : State) (off v : Nat) : State := { s with regs := { s.regs with fc := tins s.regs.fc off v } }
/-- Write a stored STATUS word. -/
def State.putSt (s : State) (off v : Nat) : State := { s with regs := { s.regs with st := tins s.regs.st off v } }
/-- Field hi..lo of a register in force. -/
def State.fcf (s : State) (off hi lo : Nat) : Nat := bits (s.fc off) hi lo
/-- Field hi..lo of a stored STATUS word. -/
def State.stf (s : State) (off hi lo : Nat) : Nat := bits (s.stw off) hi lo
/-- Set field hi..lo of a stored STATUS word. -/
def State.putStf (s : State) (off hi lo v : Nat) : State := s.putSt off (setBits (s.stw off) hi lo v)

/-- n bytes drawn from the DRBG: free values (R125; log entry 2). -/
def State.draw (s : State) (n : Nat) : Bytes := (List.range n).map (fun i => Config.drbgByte (s.drbg + i))
/-- The state after n bytes were drawn. DESIGN CHOICE (log entry 2). -/
def State.drew (s : State) (n : Nat) : State := { s with drbg := s.drbg + n }

/-- The next number of admission or acceptance (R82). DESIGN CHOICE (log entry 128). -/
def State.bump (s : State) : State := { s with seq := s.seq + 1 }

/-- Something left the block. DESIGN CHOICE (log entry 128). -/
def State.emit (s : State) (o : Out) : State := { s with outs := o :: s.outs }

/-- The engine clock in MHz as in force (R70). -/
def State.mhz (s : State) : Nat := s.fcf 0x104 9 0
/-- The tick period T in engine clocks (R549). -/
def State.perEc (s : State) : Nat := s.fcf 0x100 15 0 * s.mhz / 16
/-- The tolerance TOL in engine clocks (R549). -/
def State.tolEc (s : State) : Nat := s.perEc / 2 ^ s.fcf 0x100 19 16
/-- DRAIN in engine clocks (R75). -/
def State.drainEc (s : State) : Nat := s.fcf 0x100 27 20 * s.mhz
/-- TICK_CFG.SRC in force. -/
def State.src1 (s : State) : Bool := bit (s.fc 0x100) 28
/-- The close point t_close in engine clocks after C (R75). -/
def State.tClose (s : State) : Nat := s.perEc - s.tolEc - s.drainEc
/-- Engine clocks now since C, moved forward to t. -/
def State.at (s : State) (t : Nat) : State := { s with tick := { s.tick with t := max s.tick.t t } }
/-- Ticks in a time of n milliseconds, rounded up. -/
def State.msTicks (s : State) (n : Nat) : Nat := cdiv (n * 16000) (s.fcf 0x100 15 0)
/-- Floor of the LINK share (R80). -/
def State.floorLink (s : State) : Nat := cdiv 200000 s.mhz

/-- The block takes no new work: alarm, LOCKOUT, stopped start-up, power fail, sleep entry or sleep, reset (R537). -/
def State.halted (s : State) : Bool :=
  s.boot.inReset || s.boot.asleep || s.boot.alarm || s.boot.lockout || s.boot.stopped || s.boot.pfail || s.boot.entering

/-- The bytes of an ASCII label. -/
def asc (t : String) : Bytes := t.toList.map (fun c => BitVec.ofNat 8 c.toNat)

/-- SP 800-108 counter mode with CMAC-AES-256 (R130): n bytes (at most 64) under a parent, label and context. -/
def kdf (parent : Bytes) (label : String) (context : Bytes) (n : Nat) : Bytes :=
  ((List.range (cdiv n 16)).flatMap (fun i =>
    cmac parent (BitVec.ofNat 8 (i + 1) :: (asc label ++ [0#8] ++ context ++ toBe 2 (8 * n))))).take n

/-- Material bytes of an ALG (R162): 0 for a reserved code. -/
def algLen (alg : Nat) : Nat :=
  if alg = 1 then 16 else if alg = 2 then 32 else if alg = 3 then 32 else if alg = 4 then 64 else 0

/-- The key of a slot: the exclusive or of its shares (R145). -/
def Slot.key (x : Slot) : Bytes := bxor x.share1 x.share2

/-- A log entry captured now (R487). -/
def logEntry (s : State) (seq ev cls : Nat) (data : Bytes) : Bytes :=
  toLe 4 seq ++ toLe 6 s.tick.count ++ toLe 2 (s.tick.t * 16 / s.mhz) ++ toLe 2 ev ++ toLe 1 cls ++ [0#8] ++ sub data 0 16

/-- Store one entry in the log buffer, in which `State.logPut` has found room. -/
def State.logStore (s : State) (ev cls : Nat) (data : Bytes) : State :=
  let l := s.log
  let waiting := l.buf.countP (fun e => !e.handed)
  let s := { s with log := { l with
    buf := l.buf ++ [{ seq := l.seq, data := logEntry s l.seq ev cls data, since := s.alm.time }], seq := l.seq + 1 } }
  if waiting + 1 = 8192 then s.putWr 0x5A00 (s.wr 0x5A00 ||| 8) else s

/-- One entry is lost (R489). -/
def State.logLose (s : State) : State :=
  let l := s.log
  let s := { s with log := { l with
    lost := l.lost + 1, lostSeq := if l.lost = 0 then l.seq else l.lostSeq, lostAll := satInc 32 l.lostAll, seq := l.seq + 1 } }
  s.putWr 0x5A00 (s.wr 0x5A00 ||| 16)

/-- Capture an event in the security log (R487 to R489). After an alarm, in a stopped start, in reset and in sleep the NMS is
halted and captures nothing (R504, R527). DEDUCED (log entry 88). -/
def State.logPut (s : State) (ev cls : Nat) (data : Bytes) : State :=
  let l := s.log
  if s.boot.inReset || s.boot.asleep || s.boot.alarm || s.boot.lockout || s.boot.stopped || s.boot.pfail then s
  else if l.buf.length ≥ 16384 then s.logLose
  else if l.lost > 0 then
    let s := { s with log := { l with lost := 0 } }
    let s := s.logStore 2 1 (toLe 4 l.lost ++ toLe 4 l.lostSeq)
    if s.log.buf.length ≥ 16384 then s.logLose else s.logStore ev cls data
  else s.logStore ev cls data

/-- Unit u is wedged (R498): 0 Almanac, 1 ledger, 2 journal, 3 Krysa, 4 NMS, 5 ring engine. -/
def State.wedged (s : State) (u : Nat) : Bool := s.flt.units.contains u

/-- Calends count in force. -/
def State.count (s : State) : Nat := s.tick.count

end Sys2Proof.Machine
end

