-- ==== Sys2Proof/Machine/Flags.lean ====
section
/-! DEFINITION. Event flags, saturating counters and the interrupt lines they raise (R10, R541 to R545). -/

namespace Sys2Proof.Machine

/-- Set bit n of the event register at off (R541). -/
def State.evt (s : State) (off n : Nat) : State := s.putWr off (s.wr off ||| 2 ^ n)

/-- Clear the bits of a W1C write, but not those set by an event at the same engine clock (R542). -/
def State.w1c (s : State) (off val same : Nat) : State :=
  s.putWr off ((s.wr off &&& (0xFFFFFFFF ^^^ (val % 2 ^ 32))) ||| (s.wr off &&& same))

/-- Saturating increment of field hi..lo of a stored STATUS word. -/
def State.inc (s : State) (off hi lo : Nat) : State := s.putStf off hi lo (satInc (hi + 1 - lo) (s.stf off hi lo))

/-- Saturating addition to field hi..lo of a stored STATUS word. -/
def State.incBy (s : State) (off hi lo d : Nat) : State :=
  s.putStf off hi lo (satAdd (hi + 1 - lo) (s.stf off hi lo) d)

/-! ### Answers of the host port (R44, R45, R534, R537) -/

/-- The access was answered OK (R535). -/
def hostOk (s : State) (rdata : Nat) : State := { s with host := { s.host with err := false, rdata := rdata } }

/-- Reset or sleep: every access receives an error response that counts nowhere (R537, R545). -/
def hostDead (s : State) : Bool := s.boot.inReset || s.boot.asleep

/-- The states in which a write has no effect unless it clears events or sets an interrupt enable (R537). -/
def hostShut (s : State) : Bool :=
  s.boot.alarm || s.boot.lockout || s.boot.stopped || s.boot.pfail || s.boot.entering

/-- The answer in reset and in sleep. -/
def hostSilent (s : State) : State := { s with host := { s.host with err := true, rdata := 0 } }

/-- The error response with its REASON: counted, recorded, and logged where PRIV access is denied (R45, R534, R545).
DEDUCED (log entry 119). -/
def hostError (s : State) (write : Bool) (off reason : Nat) (deny : Bool) : State :=
  let s := ((hostSilent s).inc 0x30004 15 0).putSt 0x30008 (off % 2 ^ 18 + b2n write * 2 ^ 18 + reason * 2 ^ 19)
  if deny then s.logPut 0x10 3 (toLe 4 (off % 2 ^ 18)) else s

/-- An access to the PRIV window without FH_T_PRIV, which the security log records whatever else is wrong with it (R45). -/
def privDenied (off : Nat) (priv : Bool) : Bool := decide (0x10000 ≤ off) && decide (off < 0x20000) && !priv

/-- Why an access receives the error response; 0 for none (R44, R45, R534). DEDUCED (log entry 119). -/
def accessError (write : Bool) (off be : Nat) (priv : Bool) : Nat :=
  if off % 4 ≠ 0 ∨ be ≠ 15 then 1
  else if privDenied off priv then 2
  else if 0x30000 ≤ off ∧ write then 3
  else if 0x22000 ≤ off ∧ off < 0x30000 then 4
  else 0

/-- An access to the host port: refused, or answered and acted on by f. DEDUCED (log entry 119). -/
def regAccess (s : State) (write : Bool) (off be : Nat) (priv : Bool) (f : State → State) : State :=
  if hostDead s then hostSilent s
  else if accessError write off be priv ≠ 0 then hostError s write off (accessError write off be priv) (privDenied off priv)
  else f s

/-- A register write that takes effect in service and in start-up only (R537). -/
def regWrite (s : State) (off be : Nat) (priv : Bool) (f : State → State) : State :=
  regAccess s true off be priv (fun s => let s := hostOk s 0; if hostShut s then s else f s)

/-- A write of Calends effect: held while a commit is due (R12, R81). -/
def later (s : State) (off val : Nat) (f : State → State) : State :=
  if s.tick.due then { s with lateWr := s.lateWr ++ [(off, val)] } else f s

/-- Event and enable registers of the ten interrupt sources (R541). -/
def irqPairs : List (List (Nat × Nat)) :=
  [[(0x108, 0x10C)], [(0x180, 0x188), (0x184, 0x18C)], [(0x2000, 0x2004)], [(0x3044, 0x3048)],
   [(0x13000, 0x13004), (0x13008, 0x1300C), (0x13010, 0x13014)], [(0x4080, 0x4084)],
   [(0x5004, 0x5008), (0x510C, 0x5110), (0x5200, 0x5204), (0x6008, 0x600C)], [(0x5304, 0x5308), (0x5804, 0x5808)],
   [(0x5A00, 0x5A04)], [(0x5B00, 0x5B04), (0x5C0C, 0x5C10)]]

/-- Whether source i is pending (R541). -/
def State.srcPending (s : State) (i : Nat) : Bool :=
  (irqPairs.getD i []).any (fun p => decide (s.wr p.1 &&& s.wr p.2 ≠ 0))

/-- The line a source is routed to (R541, R543, R544). -/
def State.route (s : State) (i : Nat) : Nat :=
  if i = 4 then bits (s.wr 0x13F00) 1 0
  else bits (s.wr 0x40) ((if i < 4 then 2 * i else 2 * (i - 1)) + 1) (if i < 4 then 2 * i else 2 * (i - 1))

/-- The level of interrupt line FH_IRQ[k] (R541). -/
def State.irqLine (s : State) (k : Nat) : Bool := (List.range 10).any (fun i => s.srcPending i && decide (s.route i = k))

/-- IRQ_PEND (R545). -/
def State.irqPend (s : State) : Nat :=
  ((List.range 10).map (fun i => b2n (s.srcPending i) * 2 ^ i)).sum
  + ((List.range 4).map (fun k => b2n (s.irqLine k) * 2 ^ (16 + k))).sum

end Sys2Proof.Machine
end

