-- ==== Sys2Proof/Machine/Sas.lean ====
section
/-! DEFINITION. The SA tables of the backhaul paths, and which channel serves which path direction (R25, R91, R294, R303, R310). -/

namespace Sys2Proof.Machine

/-- The channel a submission ring belongs to by number (R89). -/
def ringChan (k : Nat) : Nat := k / 3

/-- The channel that serves the rings of channel n: the one that holds its role (R91). -/
def State.serverOf (s : State) (n : Nat) : Option Nat :=
  (List.range 16).find? (fun m => decide ((s.chan m).ringsOf = n) && !(s.chan m).fenced
    && (decide (m = n) || (s.chan m).replacing) && !(decide (m = n) && (s.chan m).replacing))

/-- Path p: 0 is A, 1 is B. -/
def State.path (s : State) (p : Nat) : Path := tget {} s.link.paths p
/-- Change path p. -/
def State.modPath (s : State) (p : Nat) (f : Path → Path) : State :=
  { s with link := { s.link with paths := tins s.link.paths p (f (s.path p)) } }
/-- An entry of a path direction; true is transmit. -/
def State.sae (s : State) (p : Nat) (tx : Bool) (e : Nat) : SaEntry := tget {} (if tx then (s.path p).txe else (s.path p).rxe) e
/-- Change an entry of a path direction. -/
def State.modSae (s : State) (p : Nat) (tx : Bool) (e : Nat) (f : SaEntry → SaEntry) : State :=
  s.modPath p (fun x => if tx then { x with txe := tins x.txe e (f (s.sae p tx e)) }
    else { x with rxe := tins x.rxe e (f (s.sae p tx e)) })
/-- SecY n of path p. -/
def State.secy (s : State) (p n : Nat) : SecY := tget {} (s.path p).secys n
/-- Receive SC n of path p. -/
def State.rxsc (s : State) (p n : Nat) : RxSc := tget {} (s.path p).rxscs n
/-- Change a SecY. -/
def State.modSecy (s : State) (p n : Nat) (f : SecY → SecY) : State :=
  s.modPath p (fun x => { x with secys := tins x.secys n (f (s.secy p n)) })
/-- Change a receive SC. -/
def State.modRxsc (s : State) (p n : Nat) (f : RxSc → RxSc) : State :=
  s.modPath p (fun x => { x with rxscs := tins x.rxscs n (f (s.rxsc p n)) })

/-- Channel n stands for its own role: it is no replacement, or the channel it replaced is no LINK channel any more. -/
def standsAlone (s : State) (n : Nat) : Bool :=
  let x := s.chan n
  let y := s.chan x.ringsOf
  !x.unbound && (!x.replacing || decide (y.role ≠ 2) || y.unbound)

/-- The channels of the LINK role by number, a replaced channel standing for its replacement. -/
def linkChans (s : State) : List Nat := idxs 16 (fun n => decide ((s.chan n).role = 2) && standsAlone s n)

/-- The channel number a path direction is bound to. -/
def linkChan (s : State) (p : Nat) (tx : Bool) : Option Nat :=
  let l := linkChans s
  let d := if tx then 0 else 1
  if l.length ≥ 4 then l[2 * p + d]? else if p = s.part.link2 then l[d]? else none

/-- The path and direction a LINK channel number is bound to; true is transmit. -/
def linkBinding (s : State) (n : Nat) : Option (Nat × Bool) :=
  [(0, true), (0, false), (1, true), (1, false)].find? (fun b => decide (linkChan s b.1 b.2 = some n))

/-- The path and direction of the channel that serves the rings of channel number n. -/
def ringBinding (s : State) (n : Nat) : Option (Nat × Bool) :=
  match linkBinding s n with
  | some b => some b
  | none => (s.serverOf n).bind (fun m => linkBinding s m)

/-- The RESULT of a LINK completion for an entry (R303). -/
def saResult (e : SaEntry) : Bytes :=
  toLe 8 e.pn ++ toLe 4 e.frames ++ toLe 1 e.state ++ toLe 1 ((e.bound.map (·.1)).getD 0xFF)
  ++ toLe 1 ((e.bound.map (·.2)).getD 0xFF) ++ toLe 1 e.suite

/-- The entry an AN of an SC is bound to. -/
def State.boundEntry (s : State) (p : Nat) (tx : Bool) (sc an : Nat) : Option Nat :=
  (if tx then (s.secy p sc).ans else (s.rxsc p sc).ans).getD an none

/-- The entry that a LINK descriptor of SQk names, as it stands (R303). -/
def linkEntry (s : State) (k : Nat) (d : Bytes) : SaEntry :=
  match ringBinding s (ringChan k) with
  | none => {}
  | some (p, tx) =>
    if leAt d 0 1 = 0x14 then ((s.boundEntry p tx (leAt d 8 1) (leAt d 9 1 % 4)).map (s.sae p tx)).getD {}
    else s.sae p tx (leAt d (if leAt d 0 1 = 0x13 then 0x0A else 8) 2)

/-- The RESULT of a LINK completion: all zero for TXSC_SET and RXSC_SET (R303). DEDUCED (log entry 37). -/
def linkResult (op : Nat) (e : SaEntry) : Bytes := if op = 0x10 ∨ op = 0x11 then zeros 16 else saResult e

end Sys2Proof.Machine
end

