-- ==== Sys2Proof/Machine/Keys.lean ====
section
/-! DEFINITION. Key records, the generation rules, usage grants and the channel key banks (R126 to R149, R180 to R182). -/

namespace Sys2Proof.Machine

/-- No usage limit (R132). -/
def noLimit : Nat := 0xFFFFFFFFFF

/-- TYPE of a KEY record (R427). -/
def jKindKey : Nat := 4

/-- The 48-byte record of a slot with its PENDING bits (R132). -/
def slotRecord (n : Nat) (x : Slot) (pending : Nat) : Bytes :=
  toLe 2 n ++ toLe 2 x.parent ++ toLe 6 x.pgen ++ toLe 6 x.gen ++ toLe 1 x.alg ++ toLe 1 x.domain ++ toLe 1 x.level
  ++ toLe 1 x.origin ++ toLe 1 x.ops ++ toLe 1 x.roles ++ toLe 2 x.channels ++ toLe 1 x.flags ++ toLe 1 x.state
  ++ toLe 1 pending ++ toLe 5 x.useCnt ++ toLe 5 x.useLimit ++ toLe 6 x.created ++ zeros 5

/-- A slot read back from its 48-byte record, without material (R132). -/
def slotOfRecord (b : Bytes) : Slot :=
  { parent := leAt b 2 2, pgen := leAt b 4 6, gen := leAt b 10 6, alg := leAt b 16 1, domain := leAt b 17 1
    level := leAt b 18 1, origin := leAt b 19 1, ops := leAt b 20 1, roles := leAt b 21 1, channels := leAt b 22 2
    flags := leAt b 24 1, state := leAt b 25 1, useCnt := leAt b 27 5, useLimit := leAt b 32 5
    created := leAt b 37 6 }

/-- The roles a domain's keys may be delivered to (R127). -/
def domainRoles (d : Nat) : Nat := if d = 1 then 1 else if d = 2 then 2 else if d = 3 then 4 else 0

/-- OPS bits (R132): ENC 0, DEC 1, MAC_GEN 2, MAC_VER 3, DERIVE 4, WRAP 5. -/
def hasOp (ops n : Nat) : Bool := bit ops n

/-- The rules every installed record must keep (R133), for a parent and the new record's fields. -/
def recordOk (parent x : Slot) : Bool :=
  decide (x.roles &&& domainRoles x.domain = x.roles)
  && (!hasOp x.ops 5 || decide (x.roles = 0))
  && (decide (x.roles = 0) || !hasOp x.ops 4 || (decide (x.origin = 0x32) && decide (x.domain = 3)))
  && (!(hasOp x.ops 4 || hasOp x.ops 5) || decide (x.alg = 2))
  && (decide (x.roles ≠ 0) || decide (x.channels = 0))
  && (!bit parent.flags 0 || bit x.flags 0)
  && decide (x.level ≤ 6)
  && (if x.origin % 16 = 3 then hasOp parent.ops 5 else if x.origin % 16 = 4 then true else hasOp parent.ops 4)
  && (decide (x.origin % 16 ≠ 4) || decide (x.domain = 2))

/-- The slots whose chain check ends at the slot itself until the end of P3 (R129). -/
def chainEndsHere (s : State) (n : Nat) : Bool :=
  !s.vault.restored && (decide (n = 0x010) || decide (n = 0x00A) || decide (n = 0x00B))

/-- Step 3 of R136: every ancestor's GEN in force equals the PGEN recorded below it, over at most f levels. -/
def chainAux (s : State) : Nat → Nat → Bool
  | 0, _ => false
  | f + 1, n =>
    let x := s.slot n
    if x.parent = 0xFFFF ∨ chainEndsHere s n = true then true
    else decide ((s.slot x.parent).gen = x.pgen) && chainAux s f x.parent

/-- The generation chain of a slot is whole (R136 step 3, R138). -/
def chainOk (s : State) (n : Nat) : Bool := decide ((s.slot n).state ≠ 3) && chainAux s 7 n

/-- A key reference (R135) at an offset of a descriptor. -/
def keyRef (d : Bytes) (off : Nat) : KeyRef := { slot := leAt d off 2 % 4096, gen := leAt d (off + 2) 6 }

/-- Step 1 of R136. -/
def refLive (s : State) (r : KeyRef) : Bool :=
  decide ((s.slot r.slot).state ≠ 0) && (decide (r.gen = 0) || decide (r.gen = (s.slot r.slot).gen))

/-- The reference with the generation in force bound to it. -/
def bindRef (s : State) (r : KeyRef) : KeyRef := { r with gen := (s.slot r.slot).gen }

/-- Status codes (R109). -/
def stOK : Nat := 0x00
def stAuthFail : Nat := 0x01
def stStale : Nat := 0x02
def stReplay : Nat := 0x03
def stOrphan : Nat := 0x04
def stSpent : Nat := 0x05
def stRole : Nat := 0x06
def stRedirect : Nat := 0x07
def stAborted : Nat := 0x08
def stAbortLate : Nat := 0x09
def stHeld : Nat := 0x0A
def stReject : Nat := 0x0B
def stPoison : Nat := 0x0C
def stOverrun : Nat := 0x0D
def stAttr : Nat := 0x0E
def stMalformed : Nat := 0x0F
def stLocked : Nat := 0x10
def stNotOwner : Nat := 0x11

/-- The key record's masks include a role and a channel (R17). -/
def masksAdmit (x : Slot) (role n : Nat) : Bool := decide (role ≥ 1) && bit x.roles (role - 1) && bit x.channels n

/-- Steps 1 to 3 of R136 over all keys of an item, each with the test whether its record's attributes permit the item: the
first failure, each step over all keys before the next. DEDUCED (log entry 23). -/
def keyCheck (s : State) (refs : List (KeyRef × (Slot → Bool))) : Nat :=
  if refs.any (fun r => !refLive s r.1) then stOrphan
  else if refs.any (fun r => !r.2 (s.slot r.1.slot)) then stAttr
  else if refs.any (fun r => !chainOk s r.1.slot) then stOrphan
  else stOK

/-- The reserve r of R148. -/
def useReserve (x : Slot) : Nat := min (2 ^ 20) (cdiv x.useLimit 16)

/-- A slot whose record the journal keeps: PERSIST is set, and its domain is not JOURNAL (R147). -/
def Slot.persists (x : Slot) : Bool := bit x.flags 1 && decide (x.domain ≠ 4)

/-- The largest live count that R148 lets a grant reach now. -/
def useCap (x : Slot) : Nat :=
  if x.persists && decide (x.useLimit ≠ noLimit) then min x.persCnt x.useLimit else x.useLimit

/-- The payload that persists a slot (R147): its record, then its material wrapped under the journal wrap key; domain
slots persist the record alone. `cnt` is the USE_CNT the record carries (R148). -/
def persistPayload (s : State) (n cnt : Nat) : Bytes :=
  let x := s.slot n
  slotRecord n { x with useCnt := cnt } 0
    ++ (if x.level = 1 then [] else kwWrap (s.slot 0x008).key x.key)

/-- What follows from a record being durable, by its TYPE (R366, R428, R436, R438, R148, R489). -/
def recDurable (s : State) (r : JRec) : State :=
  let j := s.jf
  if r.kind = 2 then
    { s with jf := { j with leaseHi := max j.leaseHi r.id, ahead := j.ahead ++ (if j.queuedLeases.contains r.id then [r.id] else [])
                            queuedLeases := j.queuedLeases.filter (· ≠ r.id) } }
  else if r.kind = 3 then
    let m := beN (r.data.take 6)
    { s with jf := { j with mark := max j.mark m, markQueued := if j.markQueued = some m then none else j.markQueued } }
  else if r.kind = 4 then
    let v := leAt r.data 27 5
    let x := s.slot r.id
    if leAt r.data 25 1 = 0 ∨ leAt r.data 10 6 ≠ x.gen ∨ r.src ≠ none then s
    else s.modSlot r.id (fun x => { x with persCnt := v, persQueued := if x.persQueued = some v then none else x.persQueued })
  else if r.kind = 5 then
    let seqs := (chunks 32 r.data).map (fun e => leAt e 0 4)
    if r.src ≠ none then s
    else { s with log := { s.log with buf := s.log.buf.filter (fun e => !(e.handed && seqs.contains e.seq)) } }
  else if r.kind = 7 then
    if tget 0 s.alm.dirty r.id = 2 then { s with alm := { s.alm with dirty := tdel s.alm.dirty r.id } } else s
  else s

/-- Bytes of a record on its page (R425). -/
def JRec.size (r : JRec) : Nat := 32 + r.data.length

/-- Bytes in the write queue (R428). -/
def queueBytes (s : State) : Nat := (s.jf.queue.map JRec.size).sum

/-- Queue a record for the journal (R428); a LOG record is dropped and counted while the queue of 64 KiB is full, and under
the Carnival root every record counts as durable when queued (R441). DEDUCED (log entry 73). -/
def State.jPut (s : State) (r : JRec) : State :=
  let r := { r with qn := s.jf.qn, since := s.alm.time }
  if s.jf.state = 4 then recDurable s r
  else if r.kind = 5 ∧ queueBytes s + r.size > 65536 then s.inc 0x39320 31 0
  else { s with jf := { s.jf with queue := s.jf.queue ++ [r], qn := s.jf.qn + 1 } }

/-- The persisted USE_CNT a new record carries (R148). -/
def nextPersist (x : Slot) : Nat :=
  if x.useLimit = noLimit then x.useCnt else min (x.useCnt + useReserve x) x.useLimit

/-- Queue the persisted record of a slot where it is one that persists (R147, R148). -/
def queueKey (s : State) (n : Nat) (urgent : Bool) : State :=
  if !(s.slot n).persists then s
  else
    let v := nextPersist (s.slot n)
    let s1 := s.modSlot n (fun x => { x with persQueued := some v })
    s1.jPut { kind := jKindKey, id := n, data := persistPayload s n v, urgent := urgent }

/-- Queue the tombstone of a slot that persisted as record x: the record with STATE FREE and the GEN in force (R147). -/
def queueTomb (s : State) (n : Nat) (x : Slot) : State :=
  if !x.persists then s
  else s.jPut { kind := jKindKey, id := n, data := slotRecord n { x with state := 0, gen := (s.slot n).gen } 0 }

/-- A new persisted record is queued where the live count comes near the persisted one (R148). -/
def persistAhead (s : State) (n : Nat) : State :=
  let x := s.slot n
  let p := x.persQueued.getD x.persCnt
  if decide (x.useLimit ≠ noLimit) && decide (p < x.useLimit) && decide (p ≤ x.useCnt + cdiv (useReserve x) 2) then queueKey s n true
  else s

/-- Add u uses to USE_CNT; SPENT when the limit is reached (R143, R144), a new persisted record when the live count comes
near the persisted one (R148). DEDUCED (log entry 34). -/
def addUses (s : State) (n u : Nat) : State :=
  let x := s.slot n
  let free := decide (x.useLimit = noLimit)
  let c := if free then satAdd 40 x.useCnt u else x.useCnt + u
  let spent := !free && decide (c ≥ x.useLimit) && decide (x.state = 1)
  let s := s.modSlot n (fun x => { x with useCnt := c, state := if spent then 2 else x.state })
  persistAhead (if spent then s.evt 0x2000 0 else s) n

/-- The size of a usage grant (R144), within the reserve of R148. -/
def grantSize (x : Slot) : Nat :=
  if x.useLimit = noLimit then 65536
  else min (min 65536 (min (cdiv x.useLimit 256) (x.useLimit - x.useCnt))) (useCap x - x.useCnt)

/-- The answer of a key use at admission. -/
inductive KeyAns where
  | ok
  | fail (st : Nat)
  | wait
  deriving DecidableEq, Repr

/-- The key-bank entries an item binds (R181): the copy of each key, and for a node frame the derived node key too. -/
def Item.entries (it : Item) : List (Nat × Nat × Option Nat) :=
  let op := leAt it.desc 0 1
  if op = 0x12 then []
  else it.keys.flatMap (fun r => (r.slot, r.gen, none) ::
    (if op = 0x20 ∨ op = 0x21 then [(r.slot, r.gen, some (leAt it.desc 0x18 4))] else []))

/-- Entries bound by admitted items of a channel whose result is not final (R181). -/
def boundKeys (s : State) (n : Nat) : List (Nat × Nat × Option Nat) :=
  ((List.range 48).flatMap (fun k => (s.ring k).items)).flatMap
    (fun it => if it.ch = n ∧ it.res = none then it.entries else [])

/-- Whether an entry is bound. -/
def isBound (b : List (Nat × Nat × Option Nat)) (e : KeyEntry) : Bool := b.contains (e.slot, e.gen, e.node)

/-- Remove the last member that satisfies p. -/
def dropLastWhere (p : KeyEntry → Bool) (l : List KeyEntry) : List KeyEntry :=
  let r := l.reverse
  (r.takeWhile (fun e => !p e) ++ (r.dropWhile (fun e => !p e)).drop 1).reverse

/-- Make room in a bank (R181): a derived node key first, then an on-demand copy, least recently used first; none where
every entry is pinned or bound. DEDUCED (log entry 157). -/
def makeRoom (b : List (Nat × Nat × Option Nat)) (bank : List KeyEntry) : Option (List KeyEntry) :=
  if bank.length < 128 then some bank
  else if bank.any (fun e => e.node.isSome && !isBound b e) then some (dropLastWhere (fun e => e.node.isSome && !isBound b e) bank)
  else if bank.any (fun e => !e.pinned && !isBound b e) then some (dropLastWhere (fun e => !e.pinned && !isBound b e) bank)
  else none

/-- The entry of a delivered copy of a slot in a bank. -/
def findCopy (bank : List KeyEntry) (slot gen : Nat) : Option KeyEntry :=
  bank.find? (fun e => decide (e.slot = slot) && decide (e.gen = gen) && decide (e.node = none))

/-- The bank without the delivered copy of a slot and the node keys derived from it. -/
def dropCopy (bank : List KeyEntry) (slot : Nat) : List KeyEntry := bank.filter (fun e => decide (e.slot ≠ slot))

/-- The bank with an entry moved to the front as most recently used and changed by f. -/
def touchCopy (bank : List KeyEntry) (slot gen : Nat) (f : KeyEntry → KeyEntry) : List KeyEntry :=
  match findCopy bank slot gen with
  | some e => f e :: bank.filter (fun x => !(decide (x.slot = slot) && decide (x.gen = gen) && decide (x.node = none)))
  | none => bank

/-- A copy of a key of a generation as it is delivered: two shares under a fresh mask (R145, R180). -/
def newCopy (s : State) (slot gen : Nat) (key : Bytes) (grant : Nat) : KeyEntry :=
  let m := s.draw key.length
  { slot := slot, gen := gen, epoch := s.vault.epoch, grant := grant, share1 := bxor key m, share2 := m }

/-- Count a refused delivery (R17, R151). -/
def dlvRefused (s : State) : State := (s.inc 0x3200C 15 0).evt 0x2000 4

/-- A refused revalidation (R139): where the bank holds a stale copy that the vault does not confirm, the copy and the node keys
derived from it are zeroized, and it counts. -/
def revalFail (s : State) (n slot : Nat) : State :=
  let dead (e : KeyEntry) : Bool := decide (e.slot = slot) && decide (e.epoch ≠ s.vault.epoch)
    && (decide (e.gen ≠ (s.slot slot).gen) || decide ((s.slot slot).state = 0) || !chainOk s slot)
  if (s.chan n).bank.any dead then
    (s.modChan n (fun c => { c with bank := dropCopy c.bank slot })).inc 0x3200C 31 16
  else s

/-- What a failed key check leaves in a channel of a role: a delivery that the masks refuse counts (R17), and a stale copy that
the vault does not confirm goes (R139). -/
def keyDenied (s : State) (st role n slot : Nat) : State :=
  if st = stAttr then (if masksAdmit (s.slot slot) role n then s else dlvRefused s) else revalFail s n slot

/-- Bring a copy of a key into a channel's bank (R17, R180, R181), without checks and with a given grant; none where every
entry is bound. -/
def loadCopy (s : State) (n slot gen : Nat) (key : Bytes) (grant : Nat) : Option State :=
  match makeRoom (boundKeys s n) (dropCopy (s.chan n).bank slot) with
  | none => none
  | some bank =>
    some ((s.modChan n (fun c => { c with bank := newCopy s slot gen key grant :: bank })).drew key.length)

/-- Use a key in a channel at admission, after the checks of R136: hit, revalidate, or deliver; then debit u uses of its
grant, asking for another where it runs out (R139, R144, R180). A delivery for a use that counts nothing carries no grant.
DESIGN CHOICE (log entry 146). -/
def useCopy (s : State) (n slot u : Nat) : State × KeyAns :=
  let x := s.slot slot
  let s1 :=
    match findCopy (s.chan n).bank slot x.gen with
    | some _ => some (s.modChan n (fun c =>
        { c with bank := touchCopy c.bank slot x.gen (fun e => { e with epoch := s.vault.epoch }) }))
    | none => loadCopy s n slot x.gen x.key 0
  match s1 with
  | none => (s, .wait)
  | some s1 =>
    let have1 := ((findCopy (s1.chan n).bank slot x.gen).map (·.grant)).getD 0
    let g := if have1 ≥ u then 0 else grantSize x
    let s2 := if g = 0 then s1 else addUses s1 slot g
    if have1 + g ≥ u then
      (s2.modChan n (fun c => { c with bank := touchCopy c.bank slot x.gen (fun e => { e with grant := e.grant + g - u }) }), .ok)
    else if x.useLimit ≠ noLimit ∧ x.useCnt ≥ x.useLimit then (s1, .fail stSpent)
    else (s1.evt 0x2000 3, .wait)

/-- The key material of a delivered copy; empty where the bank holds none. -/
def copyKey (s : State) (n slot gen : Nat) : Bytes :=
  ((findCopy (s.chan n).bank slot gen).map (fun e => bxor e.share1 e.share2)).getD []

/-- The key of a memory use (R17, R180): the channel's copy, delivered or restamped; where every entry is bound by an admitted
item, the key comes for this one use and is held in no entry. DESIGN CHOICE (log entry 155).
DESIGN CHOICE (log entry 146). -/
def lineKey (s : State) (n slot : Nat) : State × Bytes :=
  match useCopy s n slot 0 with
  | (s, .ok) => (s, copyKey s n slot (s.slot slot).gen)
  | (s, _) => let e := newCopy s slot (s.slot slot).gen (s.slot slot).key 0; (s, bxor e.share1 e.share2)

/-- The node key derived in a channel from its copy of an epoch key (R131): label HUABRY-NODE, context node ID and epoch. -/
def nodeKeyOf (epochKey : Bytes) (node epoch : Nat) : Bytes :=
  kdf epochKey "HUABRY-NODE" (toBe 4 node ++ toBe 1 epoch) 16

/-- Put a derived node key into the bank (R181): none where every other entry is bound. The copy of its epoch key is bound
with it. -/
def cacheNodeKey (s : State) (n slot gen node : Nat) (key : Bytes) : Option State :=
  match makeRoom ((slot, gen, none) :: boundKeys s n) (s.chan n).bank with
  | none => none
  | some b =>
    let m := s.draw 16
    some ((s.modChan n (fun c => { c with bank :=
      { slot := slot, gen := gen, epoch := s.vault.epoch, share1 := bxor key m, share2 := m, node := some node } :: b })).drew 16)

/-- Re-mask every entry of a bank with fresh masks (R145), from DRBG byte number d. -/
def remaskBank (d : Nat) : List KeyEntry → List KeyEntry
  | [] => []
  | e :: es =>
    let m := (List.range e.share1.length).map (fun i => Config.drbgByte (d + i))
    { e with share1 := bxor e.share1 m, share2 := bxor e.share2 m } :: remaskBank (d + e.share1.length) es

/-- The slot a vault descriptor names as target or subject (R170). -/
def vaultSlotOf (d : Bytes) : Nat :=
  let op := leAt d 0 1
  if 0x40 ≤ op ∧ op ≤ 0x4A then leAt d 8 2 % 4096
  else if op = 0x58 then (if leAt d 8 1 = 1 then 0x00A else 0x00B) else if op = 0x78 then 0x009 else 0

/-- RESULT of a vault completion (R170). -/
def vaultResult (s : State) (slot created aux : Nat) : Bytes :=
  toLe 2 slot ++ toLe 6 (s.slot slot).gen ++ toLe 6 created ++ toLe 1 (s.slot slot).state ++ toLe 1 aux

/-- RESULT of a descriptor that ends without its own result: the vault's layout in a vault ring (R170), the entry of a LINK descriptor (R303), the fields known
before the Almanac answered for a node frame (R337, R343), zeros elsewhere (R105). DEDUCED (log entry 37). -/
def plainResult (s : State) (k : Nat) (d : Bytes) (st : Nat) : Bytes :=
  let op := leAt d 0 1
  if 48 ≤ k ∧ k < 56 ∧ 0x40 ≤ op ∧ op ≤ 0x58 ∧ op ≠ 0x50 then
    vaultResult s (vaultSlotOf d) 0 (if op = 0x58 then leAt d 8 1 else 0)
  else if k < 48 ∧ 0x10 ≤ op ∧ op ≤ 0x16 then linkResult op (linkEntry s k d)
  else if k < 48 ∧ op = 0x20 then
    (if st = stMalformed ∨ st = stPoison then zeros 16 else sub d 0x18 4 ++ zeros 8 ++ sub d 0x1C 1 ++ [0#8, 2#8, 0#8])
  else if k < 48 ∧ op = 0x21 then zeros 14 ++ [2#8, 0#8]
  else zeros 16

/-- Set a slot's material as two fresh shares (R145). -/
def setMaterial (s : State) (n : Nat) (key : Bytes) : State :=
  let m := s.draw key.length
  (s.modSlot n (fun x => { x with share1 := bxor key m, share2 := m })).drew key.length

end Sys2Proof.Machine
end

