-- ==== Sys2Proof/Machine/MemCore.lean ====
section
/-! DEFINITION. Lines, tag lines, caches and trees of protected memory (R209 to R213, R231, R232, R240 to R267). -/

namespace Sys2Proof.Machine

/-- What a byte of DRAM that nothing has written reads as. DESIGN CHOICE (log entry 4). -/
def dramInit : BitVec 8 := 0

/-- n bytes of DRAM at an address. DESIGN CHOICE (log entry 4). -/
def dramGet (s : State) (a n : Nat) : Bytes := tgetN dramInit s.dram a n
/-- Write bytes to DRAM; a line that is written no longer holds the error it held. DESIGN CHOICE (log entry 161). -/
def dramPut (s : State) (a : Nat) (b : Bytes) : State :=
  { s with
    dram := tputN dramInit s.dram a b
    dmErr := s.dmErr.filter (fun e => !(decide (b ≠ []) && decide (a < e.1 + 64) && decide (e.1 < a + b.length))) }
/-- The DM_ERR code of a read of the line at an address (R49). -/
def State.dm (s : State) (a : Nat) : Nat := tget 0 s.dmErr (a / 64 * 64)

def State.region (s : State) (n : Nat) : Region := tget {} s.mem.regions n
def State.kid (s : State) (k : Nat) : KidEntry := tget {} s.mem.kids k
def State.tree (s : State) (t : Nat) : TreeEntry := tget {} s.mem.trees t
def State.mchan (s : State) (n : Nat) : MemChan := tget {} s.mem.chan n
def State.job (s : State) (j : Nat) : Job := tget {} s.mem.jobs j
def State.modRegion (s : State) (n : Nat) (f : Region → Region) : State :=
  { s with mem := { s.mem with regions := tmod {} s.mem.regions n f } }
def State.modMchan (s : State) (n : Nat) (f : MemChan → MemChan) : State :=
  { s with mem := { s.mem with chan := tmod {} s.mem.chan n f } }
def State.modJob (s : State) (j : Nat) (f : Job → Job) : State :=
  { s with mem := { s.mem with jobs := tmod {} s.mem.jobs j f } }

/-- The steering hash of an address (R33). -/
def steerHash (a : Nat) : Nat :=
  bits a 14 9 ^^^ bits a 20 15 ^^^ bits a 26 21 ^^^ bits a 32 27 ^^^ bits a 38 33 ^^^ bits a 39 39

/-- The channel that an address is steered to (R33). -/
def State.steerOf (s : State) (a : Nat) : Nat := s.part.steer.getD (steerHash a) 0

/-- An address lies in the data range of a region in force (R209). -/
def Region.holds (r : Region) (a : Nat) : Bool :=
  r.en && decide (r.base * 2 ^ 20 ≤ a) && decide (a < (r.base + r.size) * 2 ^ 20)

/-- Address of the tag line of a line (R240). -/
def Region.tagAddr (r : Region) (a : Nat) : Nat := r.tag * 2 ^ 17 + 64 * (a / 512 - r.base * 2 ^ 11)

/-- Leaves of one subtree (R260). -/
def treeLeaves (size : Nat) : Nat := size * 32
/-- Nodes of level k in one subtree (R260). -/
def treeNodes (size k : Nat) : Nat := cdiv (treeLeaves size) (8 ^ k)
/-- The depth D (R260). -/
def treeDepth (size : Nat) : Nat := ((List.range 9).find? (fun k => decide (8 ^ k ≥ treeLeaves size))).getD 9
/-- Nodes of the levels below k in one subtree: P_k (R260). -/
def treePrefix (size k : Nat) : Nat := (((List.range k).drop 1).map (treeNodes size)).sum
/-- Length of the tree area in 64 KiB units (R260). -/
def treeLen (size : Nat) : Nat := cdiv (4096 * treePrefix size (treeDepth size + 1)) 65536
/-- Address of a tree node (R260). -/
def treeNodeAddr (base size k i h : Nat) : Nat := base * 2 ^ 16 + 4096 * treePrefix size k + 64 * (64 * i + h)
/-- Leaf index of a group (R260). -/
def leafIdx (r : Region) (a : Nat) : Nat := a / 32768 - r.base * 32

/-- Leaves N of the tree for a capacity 2^log2 (R355). -/
def almLeaves (log2 : Nat) : Nat := 2 ^ log2 / 16
/-- Depth D of the tree: the least k with 8^k at least N. -/
def almDepth (log2 : Nat) : Nat := ((List.range 9).find? (fun k => decide (8 ^ k ≥ almLeaves log2))).getD 9
/-- Nodes of level k. -/
def almNodes (log2 k : Nat) : Nat := cdiv (almLeaves log2) (8 ^ k)
/-- Nodes of the levels 1 to k - 1. -/
def almPrefix (log2 k : Nat) : Nat := (((List.range k).drop 1).map (almNodes log2)).sum
/-- Length of the tree area in 64 KiB units (R355). -/
def almTreeLen (log2 : Nat) : Nat := cdiv (64 * almPrefix log2 (almDepth log2 + 1)) 65536

/-- The three areas for a base, tag base, tree base and capacity: address and length (R355). -/
def almSpans (base tag tree log2 : Nat) : List (Nat × Nat) :=
  [(base * 2 ^ 20, 32 * 2 ^ log2), (tag * 2 ^ 17, 4 * 2 ^ log2), (tree * 2 ^ 16, almTreeLen log2 * 65536)]

/-- The counter block (R211); blk is its last byte. -/
def counterBlock (kid laddr major minor blk : Nat) : Bytes :=
  toBe 1 kid ++ toBe 5 laddr ++ toBe 8 major ++ toBe 1 minor ++ toBe 1 blk

/-- The keystream of a line (R212). -/
def lineKeystream (key : Bytes) (kid laddr major minor : Nat) : Bytes :=
  let rks := roundKeys key
  [0, 1, 2, 3].flatMap (fun j => aesEncRk rks (counterBlock kid laddr major minor j))

/-- Encrypt or decrypt a line (R212). -/
def lineCrypt (key : Bytes) (kid laddr major minor : Nat) (line : Bytes) : Bytes :=
  bxor line (lineKeystream key kid laddr major minor)

/-- The native tag of a ciphertext line, 6 bytes (R243). -/
def lineTag (key : Bytes) (kid laddr major minor : Nat) (line : Bytes) : Bytes :=
  let m := aesEnc key (counterBlock kid laddr major minor 0x80)
  let sv := ghash (ghKey key) (line ++ counterBlock kid laddr major minor 0x40)
  let t := (bxor (toBe 16 sv.toNat) m).take 6
  if t = List.replicate 6 0xff#8 then List.replicate 5 0xff#8 ++ [0xfe#8] else t

/-- The LOST value of a seal (R261). -/
def sealLost : Nat := 2 ^ 64 - 1

/-- The seal of a line X at address a and level k in a tree (R261), as the number whose little-endian bytes are stored. -/
def sealOf (key x : Bytes) (k t a : Nat) : Nat :=
  let y := toBe 1 k ++ toBe 1 t ++ toBe 5 a ++ zeros 8 ++ [0x40#8]
  let v := (aesEnc key (toBe 16 (ghash (ghKey key) (x ++ y)).toNat)).take 8
  let n := leN v
  if n = 0 then 2 ^ 56 else if n = sealLost then 0xfe * 2 ^ 56 + (2 ^ 56 - 1) else n

/-! ### Tag lines -/

def tlMajor (b : Bytes) : Nat := leAt b 0 8
def tlMinor (b : Bytes) (i : Nat) : Nat := leAt b (8 + 7 * i) 1
def tlTag (b : Bytes) (i : Nat) : Bytes := sub b (9 + 7 * i) 6
def tlSet (b : Bytes) (i minor : Nat) (tag : Bytes) : Bytes := overlay b (8 + 7 * i) (toLe 1 minor ++ tag)
def tlSetMajor (b : Bytes) (m : Nat) : Bytes := overlay b 0 (toLe 8 m)

/-- The MAJOR value of a LOST group (R241). -/
def majorLost : Nat := 2 ^ 64 - 1
/-- The initial tag line of an epoch (R246). -/
def tlInitial (epoch : Nat) : Bytes := toLe 8 (epoch * 2 ^ 40) ++ zeros 56
/-- The six bytes of a poisoned tag. -/
def tagPoison : Bytes := List.replicate 6 0xff#8
/-- The tag line of a LOST group (R258). -/
def tlLost (mode : Nat) : Bytes :=
  toLe 8 majorLost ++ (List.replicate 8 ([0#8] ++ (if mode = 0 then zeros 6 else tagPoison))).flatten

/-- The state of a line (R242). -/
inductive LineState where
  | lost
  | unwritten
  | poisoned
  | corrupt
  | written
  deriving DecidableEq, Repr

/-- The state of line i of a group from its tag line (R242); in ENC mode TAG_i reads 0. -/
def lineState (mode : Nat) (b : Bytes) (i : Nat) : LineState :=
  let tag := if mode = 0 then zeros 6 else tlTag b i
  if tlMajor b = majorLost then .lost
  else if tlMinor b i = 0 ∧ tag = zeros 6 then .unwritten
  else if tag = tagPoison then .poisoned
  else if tlMinor b i = 0 then .corrupt
  else .written

/-! ### Caches -/

/-- Set index of the counter cache: bits 16..9 xor bits 24..17 of the group address (R231). -/
def ccSet (grp : Nat) : Nat := grp % 256 ^^^ (grp / 256) % 256

/-- Attributes a memory key needs (R134, R216): DATA with ENC and DEC, TAG with MAC_GEN and MAC_VER, in role MEM. -/
def memPermit (ch : Nat) (data : Bool) (x : Slot) : Bool :=
  masksAdmit x 1 ch && (if data then hasOp x.ops 0 && hasOp x.ops 1 else hasOp x.ops 2 && hasOp x.ops 3)

/-- A memory key use (R217): steps 1 to 3 of R136 and R17, delivered or revalidated, no usage counted (R143). -/
def memKey (s : State) (ch : Nat) (r : KeyRef) (data : Bool) : State × Option Bytes :=
  let st := keyCheck s [(r, memPermit ch data)]
  if st ≠ stOK then (keyDenied s st 1 ch r.slot, none)
  else let k := lineKey s ch r.slot; (k.1, some k.2)

/-- Put a line into the write-back buffer; where it is full, its oldest line reaches DRAM first (R231, R232).
DEDUCED (log entry 61). -/
def pushWb (s : State) (ch a : Nat) (b : Bytes) : State :=
  let w := (s.mchan ch).wb
  let s := if w.length ≥ 32 then
      match w with
      | (a0, b0) :: rest => (dramPut s a0 b0).modMchan ch (fun m => { m with wb := rest })
      | [] => s
    else s
  s.modMchan ch (fun m => { m with wb := m.wb ++ [(a, b)] })

/-- Write the oldest line of the write-back buffer to DRAM (R231). DEDUCED (log entry 61). -/
def drainWbOne (s : State) (ch : Nat) : State :=
  match (s.mchan ch).wb with
  | (a, b) :: rest => (dramPut s a b).modMchan ch (fun m => { m with wb := rest })
  | [] => s

/-- A line of DRAM as a channel sees it: its newest copy in the write-back buffer, else DRAM. -/
def fetchLine (s : State) (ch a : Nat) : Bytes :=
  match (s.mchan ch).wb.reverse.find? (fun p => decide (p.1 = a)) with
  | some p => p.2
  | none => dramGet s a 64

/-- The root seal of a subtree (R262). DESIGN CHOICE (log entry 63). -/
def rootOf (s : State) (t h : Nat) : Nat := tget 0 s.mem.roots (64 * t + h)
/-- Set both copies of a root seal (R262). DESIGN CHOICE (log entry 63). -/
def setRoot (s : State) (t h v : Nat) : State :=
  { s with mem := { s.mem with roots := tins s.mem.roots (64 * t + h) v, rootsCopy := tins s.mem.rootsCopy (64 * t + h) v } }

/-- The tag-cache node of a tree position. -/
def findNode (s : State) (ch t k i h : Nat) : Option TNode :=
  (s.mchan ch).tc.find? (fun n => decide (n.tree = t) && decide (n.level = k) && decide (n.idx = i) && decide (n.sub = h))

/-- Change the tag-cache node of a tree position and make it the most recently used. -/
def touchNode (s : State) (ch t k i h : Nat) (f : TNode → TNode) : State :=
  match findNode s ch t k i h with
  | none => s
  | some n => s.modMchan ch (fun m => { m with tc := f n :: m.tc.filter (fun x =>
      !(decide (x.tree = t) && decide (x.level = k) && decide (x.idx = i) && decide (x.sub = h))) })

/-- The seal of the child at level k, index i, as its parent or the root holds it. -/
def childSeal (s : State) (ch t k i h depth : Nat) : Nat :=
  if k ≥ depth then rootOf s t h
  else match findNode s ch t (k + 1) (i / 8) h with
    | some p => leAt p.data (8 * (i % 8)) 8
    | none => 0

/-- Write the seal of the child at level k, index i, into its resident parent or the root (R264). -/
def setChildSeal (s : State) (ch t k i h depth v : Nat) : State :=
  if k ≥ depth then setRoot s t h v
  else touchNode s ch t (k + 1) (i / 8) h (fun p => { p with data := overlay p.data (8 * (i % 8)) (toLe 8 v), dirty := true })

/-! ### Integrity events and losses -/

/-- Record an integrity event (R268): kind, address and region. -/
def integEvent (s : State) (kind a n : Nat) : State :=
  let hi := a / 2 ^ 32 % 256 + kind * 2 ^ 8 + n * 2 ^ 12
  ((s.putSt 0x3711C (a % 2 ^ 32)).putSt 0x37120 hi).logPut 0x40 1 (toLe 4 (a % 2 ^ 32) ++ toLe 4 hi)

/-- Count a LOST group and flag its region (R258). -/
def countLost (s : State) (n grp : Nat) : State :=
  integEvent (((s.modRegion n (fun r => { r with lost := true })).evt 0x13008 3).inc 0x37110 15 0) 3 (grp * 512) n

/-- Count a LOST subtree (R262). -/
def countSubtree (s : State) (n a : Nat) : State :=
  integEvent (((s.modRegion n (fun r => { r with lost := true })).evt 0x13008 4).inc 0x37110 31 16) 4 a n

/-- A line's tag or a seal check failed (R253, R263, R268). -/
def tagFailed (s : State) : State := (s.inc 0x37100 31 0).evt 0x13008 0

/-- A corrected error hit a tag line or tree node (R257). -/
def metaCe (s : State) : State := (s.inc 0x37118 31 0).evt 0x13008 7

/-- The region in force that uses a tree. -/
def treeRegion (s : State) (t : Nat) : Option Nat :=
  (tkeys s.mem.regions).find? (fun n => (s.region n).en && decide ((s.region n).mode = 2) && decide ((s.region n).tree = t))

/-- A subtree of tree t below subtree h becomes LOST where a region uses the tree. DESIGN CHOICE (log entry 14). -/
def loseSubtree (s : State) (t h : Nat) : State :=
  match treeRegion s t with
  | some n => countSubtree s n (Config.subtreeAddr n h).toNat
  | none => s

/-- Seal a dirty line leaving the caches; a key that can no longer be had leaves the LOST value.
DEDUCED (log entry 59). -/
def sealInto (s : State) (ch t k i h depth a : Nat) (b : Bytes) : State :=
  match memKey s ch (s.tree t).key false with
  | (s, some key) => setChildSeal s ch t k i h depth (sealOf key b k t a)
  | (s, none) => loseSubtree (setChildSeal s ch t k i h depth sealLost) t h

/-- Remove a tag line from the counter cache, written back where dirty (R232, R264). -/
def evictLine (s : State) (ch : Nat) (l : CLine) : State :=
  let s := s.modMchan ch (fun m => { m with cc := m.cc.filter (fun x => !(decide (x.grp = l.grp) && decide (x.addr = l.addr))) })
  if !l.dirty then s
  else
    let s := match l.leaf with
      | some (t, j) => sealInto s ch t 0 j (steerHash (l.grp * 512)) (treeDepth (s.region l.rgn).size) l.addr l.data
      | none => s
    pushWb s ch l.addr l.data

/-- Evict a tree node after the resident lines and nodes below it (R264), over f levels. -/
def evictNode : Nat → State → Nat → TNode → State
  | 0, s, _, _ => s
  | f + 1, s, ch, n =>
    let m := s.mchan ch
    let s := if n.level = 1 then
        (m.cc.filter (fun l => match l.leaf with
          | some (t, j) => decide (t = n.tree) && decide (steerHash (l.grp * 512) = n.sub) && decide (j / 8 = n.idx)
          | none => false)).foldl (fun s l => evictLine s ch l) s
      else
        (m.tc.filter (fun x => decide (x.tree = n.tree) && decide (x.sub = n.sub) && decide (x.level + 1 = n.level)
          && decide (x.idx / 8 = n.idx))).foldl (fun s x => evictNode f s ch x) s
    match findNode s ch n.tree n.level n.idx n.sub with
    | none => s
    | some n =>
      let s := s.modMchan ch (fun m => { m with tc := m.tc.filter (fun x => decide (x.addr ≠ n.addr)) })
      if !n.dirty then s
      else pushWb (sealInto s ch n.tree n.level n.idx n.sub n.depth n.addr n.data) ch n.addr n.data

/-- Put a tag line into the counter cache, evicting the least recently used of a full set (R231). -/
def insertLine (s : State) (ch : Nat) (l : CLine) : State :=
  let same := (s.mchan ch).cc.filter (fun x => decide (ccSet x.grp = ccSet l.grp))
  let s := if same.length ≥ 8 then (match same.getLast? with | some v => evictLine s ch v | none => s) else s
  s.modMchan ch (fun m => { m with cc := l :: m.cc })

/-- Put a tree node into the 4-way tag cache, evicting from a full set the least recently used node that is not on the path being
fetched (R231, R264). DESIGN CHOICE (log entry 9). -/
def insertNode (s : State) (ch : Nat) (path : List Nat) (n : TNode) : State :=
  let same := (s.mchan ch).tc.filter (fun x => decide (Config.tagSet x.addr = Config.tagSet n.addr))
  let s := if same.length ≥ 4 then
      (match (same.filter (fun x => !path.contains x.addr)).getLast? with | some v => evictNode 9 s ch v | none => s) else s
  s.modMchan ch (fun m => { m with tc := n :: m.tc })

/-- The resident tag line of a group. -/
def findLine (s : State) (ch grp : Nat) : Option CLine :=
  (s.mchan ch).cc.find? (fun l => decide (l.grp = grp) && !l.marked)

/-- Change the resident tag line of a group and make it the most recently used. -/
def touchLine (s : State) (ch grp : Nat) (f : CLine → CLine) : State :=
  match findLine s ch grp with
  | none => s
  | some l => s.modMchan ch (fun m => { m with cc := f l :: m.cc.filter (fun x => !(decide (x.grp = grp) && !x.marked)) })

/-- Write back and drop the marked line of a group before its entry is used anew (R223). No older copy waits in the write-back buffer:
marking drained it. -/
def releaseMarked (s : State) (ch grp : Nat) : State :=
  match (s.mchan ch).cc.find? (fun l => decide (l.grp = grp) && l.marked) with
  | none => s
  | some l =>
    let s := s.modMchan ch (fun m => { m with cc := m.cc.filter (fun x => !(decide (x.grp = grp) && x.marked)) })
    if l.dirty then dramPut s l.addr l.data else s

/-- Every copy that a channel's caches or write-back buffer hold of the metadata lines q selects goes, unwritten: the line's content
starts anew (R223, R247, R282). DEDUCED (log entry 156). -/
def dropMeta (s : State) (q : Nat → Bool) : State :=
  (List.range 16).foldl (fun s c => s.modMchan c (fun m => { m with
    cc := m.cc.filter (fun l => !q l.addr), tc := m.tc.filter (fun x => !q x.addr), wb := m.wb.filter (fun p => !q p.1) })) s

/-- Everything a channel holds of the groups p selects leaves its caches and reaches DRAM (R36, R205). -/
def flushChan (s : State) (ch : Nat) (p : Nat → Bool) : State :=
  let s := ((s.mchan ch).cc.filter (fun l => p (l.grp * 512))).foldl (fun s l => evictLine s ch l) s
  let s := ((s.mchan ch).tc.filter (fun n => p (n.sub * 512))).foldl (fun s n => evictNode 9 s ch n) s
  (List.range (s.mchan ch).wb.length).foldl (fun s _ => drainWbOne s ch) s

/-- What looking for a tag line gives. -/
inductive TagRes where
  /-- It is resident now. -/
  | line (b : Bytes)
  /-- Its tree path is LOST. -/
  | lostPath
  /-- A seal failed; the tag line as DRAM returned it. -/
  | sealFail (b : Bytes)
  deriving DecidableEq, Repr

/-- How a path is fetched: by which channel, under which tree key, and for a full-line write, which goes on with what DRAM returned
where a seal fails (R229, R255, R263). DEDUCED (log entry 162). -/
structure Fetch where
  ch : Nat := 0
  /-- Region entry bound, and its number. -/
  reg : Region := {}
  n : Nat := 0
  a : Nat := 0
  skey : Bytes := []
  trust : Bool := false
  /-- Addresses of the path: they stay resident while it is fetched (R264). -/
  path : List Nat := []
  deriving DecidableEq, Repr

/-- A fetched line is held against the seal its parent holds: the state after a failure counted, and whether the fetch goes on.
DEDUCED (log entry 162). -/
def sealHolds (s : State) (f : Fetch) (b : Bytes) (lvl addr sv : Nat) : State × Bool :=
  if sealOf f.skey b lvl f.reg.tree addr = sv then (s, true) else if f.trust then (tagFailed s, true) else (s, false)

/-- Bring the tree nodes of a path in, from level k down to 1 (R257, R263): true where it stands, or what stopped it. -/
def loadPath (f : Fetch) : Nat → State → State × Option Bool
  | 0, s => (s, none)
  | k + 1, s =>
    let t := f.reg.tree
    let lvl := k + 1
    let h := steerHash f.a
    let d := treeDepth f.reg.size
    let i := leafIdx f.reg f.a / 8 ^ lvl
    match findNode s f.ch t lvl i h with
    | some _ => loadPath f k (touchNode s f.ch t lvl i h id)
    | none =>
      let addr := treeNodeAddr (s.tree t).base f.reg.size lvl i h
      let sv := childSeal s f.ch t lvl i h d
      let nd : TNode := { addr := addr, tree := t, sub := h, level := lvl, idx := i, depth := d, data := zeros 64 }
      if sv = 0 then loadPath f k (insertNode (dropMeta s (fun x => decide (x = addr))) f.ch f.path nd)
      else if sv = sealLost then (s, some true)
      else if s.dm addr = 2 then (countSubtree (setChildSeal s f.ch t lvl i h d sealLost) f.n f.a, some true)
      else
        let ce := decide (s.dm addr = 1)
        let b := fetchLine s f.ch addr
        match sealHolds (if ce then metaCe s else s) f b lvl addr sv with
        | (s, false) => (s, some false)
        | (s, true) => loadPath f k (insertNode s f.ch f.path { nd with data := b, dirty := ce })

/-- The epoch of a group, and whether its tag line is formed on chip, ahead of the initialisation pass (R247). -/
def formsInitial (s : State) (n idx : Nat) : Bool :=
  match (s.region n).init with
  | some p => decide (idx ≥ p) && !s.mem.ahead.contains (n, idx)
  | none => false

/-- A tag line as its mode reads it: in ENC mode every TAG_i reads as 0 (R242). -/
def tlRead (mode : Nat) (b : Bytes) : Bytes :=
  if mode = 0 then (List.range 8).foldl (fun b i => overlay b (9 + 7 * i) (zeros 6)) b else b

/-- Make the tag line of a group of an ENC or NATIVE region resident (R225, R247, R257). `epoch` is the one its counters must carry. -/
def loadFlat (s : State) (f : Fetch) (epoch : Nat) : State × TagRes :=
  let grp := f.a / 512
  let addr := f.reg.tagAddr f.a
  let idx := grp - f.reg.base * 2 ^ 11
  let cl : CLine := { grp := grp, rgn := f.n, addr := addr }
  if formsInitial s f.n idx then
    let s := { s with mem := { s.mem with ahead := (f.n, idx) :: s.mem.ahead } }
    let b := tlInitial epoch
    (insertLine (dropMeta s (fun x => decide (x = addr))) f.ch { cl with data := b, dirty := true }, .line b)
  else
    let ce := decide (s.dm addr = 1)
    let bad := decide (s.dm addr = 2)
    let b := tlRead f.reg.mode (fetchLine s f.ch addr)
    let s := if ce then metaCe s else s
    if bad || (decide (tlMajor b ≠ majorLost) && decide (tlMajor b / 2 ^ 40 ≠ epoch)) then
      let b := tlLost f.reg.mode
      (insertLine (countLost s f.n grp) f.ch { cl with data := b, dirty := true }, .line b)
    else (insertLine s f.ch { cl with data := b, dirty := ce }, .line b)

/-- Make the tag line of a group of a TREE region resident (R225, R257, R263). DEDUCED (log entry 59). -/
def loadLeaf (s : State) (f : Fetch) (epoch : Nat) : State × TagRes :=
  let t := f.reg.tree
  let grp := f.a / 512
  let addr := f.reg.tagAddr f.a
  let d := treeDepth f.reg.size
  let j := leafIdx f.reg f.a
  let h := steerHash f.a
  let f := { f with path := (List.range (d + 1)).map (fun k => treeNodeAddr (s.tree t).base f.reg.size k (j / 8 ^ k) h) }
  let cl : CLine := { grp := grp, rgn := f.n, addr := addr, leaf := some (t, j) }
  match loadPath f d s with
  | (s, some true) => (s, .lostPath)
  | (s, some false) => (s, .sealFail (fetchLine s f.ch addr))
  | (s, none) =>
    let sv := childSeal s f.ch t 0 j h d
    if sv = 0 then
      let b := tlInitial epoch
      (insertLine (dropMeta s (fun x => decide (x = addr))) f.ch { cl with data := b }, .line b)
    else if sv = sealLost then (s, .lostPath)
    else if s.dm addr = 2 then
      let b := tlLost f.reg.mode
      (insertLine (countLost s f.n grp) f.ch { cl with data := b, dirty := true }, .line b)
    else
      let ce := decide (s.dm addr = 1)
      let b := fetchLine s f.ch addr
      match sealHolds (if ce then metaCe s else s) f b 0 addr sv with
      | (s, false) => (s, .sealFail b)
      | (s, true) => (insertLine s f.ch { cl with data := b, dirty := ce }, .line b)

/-- Make the tag line of a group resident in its channel: a hit, or a fetch that counts a miss (R225, R239). -/
def loadTag (s : State) (f : Fetch) (epoch : Nat) : State × TagRes :=
  let s := releaseMarked s f.ch (f.a / 512)
  match findLine s f.ch (f.a / 512) with
  | some l => (touchLine s f.ch (f.a / 512) id, .line l.data)
  | none =>
    let s := s.modMchan f.ch (fun m => { m with miss := satInc 16 m.miss })
    if f.reg.mode = 2 then loadLeaf s f epoch else loadFlat s f epoch

/-- Write a resident tag line's new content. -/
def storeTag (s : State) (ch grp : Nat) (b : Bytes) : State :=
  touchLine s ch grp (fun l => { l with data := b, dirty := true })

/-! ### What DRAM and the caches report (R49, R232, R262) -/

/-- One root seal loses copies to parity errors (R262): the good copy restores the other, both failing leave the LOST value.
DESIGN CHOICE (log entry 63). -/
def rootParity (s : State) (t h bad : Nat) : State :=
  let i := 64 * t + h
  if bad = 0 then s
  else if bad = 3 then
    loseSubtree (setRoot (dropMeta s (fun x => (List.range 16).any (fun c =>
      (s.mchan c).tc.any (fun n => decide (n.addr = x) && decide (n.tree = t) && decide (n.sub = h))
      || (s.mchan c).cc.any (fun l => decide (l.addr = x) && decide (l.leaf.map (·.1) = some t)
        && decide (steerHash (l.grp * 512) = h))))) t h sealLost) t h
  else
    { s with mem := { s.mem with
      roots := if bad = 1 then tins s.mem.roots i (tget 0 s.mem.rootsCopy i) else s.mem.roots
      rootsCopy := if bad = 2 then tins s.mem.rootsCopy i (tget 0 s.mem.roots i) else s.mem.rootsCopy
      rootCe := if s.mem.rootCe.contains t then s.mem.rootCe else t :: s.mem.rootCe } }

/-- The same of the Almanac's root (R356). -/
def almRootParity (s : State) (bad : Nat) : State :=
  if bad = 0 then s
  else { s with alm := { s.alm with
    root := if bad = 1 then s.alm.rootCopy else if bad = 3 then sealLost else s.alm.root
    rootCopy := if bad = 2 then s.alm.root else if bad = 3 then sealLost else s.alm.rootCopy } }

/-- A corrected error in the caches of a channel (R232, R237, R239). -/
def cacheCe (s : State) (ch : Nat) : State := (s.inc (0x37040 + 4 * ch) 31 16).evt 0x13000 4

/-- The reports that come with data from DRAM take effect before the data is used. DESIGN CHOICE (log entry 161). -/
def noteDram (s : State) (ret : DramReturn) : State :=
  let s := { s with dmErr := ret.errs.foldl (fun t e => tput 0 t e.1 e.2.val) s.dmErr }
  let s := ret.caches.foldl (fun s c => cacheCe s c) s
  ret.roots.foldl (fun s r => if r.1.val = 16 then almRootParity s r.2.2 else rootParity s r.1 r.2.1 r.2.2) s

end Sys2Proof.Machine
end

