-- ==== Sys2Proof/Machine/MemPort.lean ====
section
/-! DEFINITION. The memory-side port: admission checks, reads, writes, group re-encryption, refusals (R47 to R49, R209 to R230,
R242 to R258), and the SX4's own DMA, which reaches memory through it with class 0xF (R46, R218). -/

namespace Sys2Proof.Machine

/-- The Almanac's own areas: base and length in bytes (R355). DEDUCED (log entry 95). -/
def almAreas (s : State) : List (Nat × Nat) :=
  if s.alm.en then almSpans s.alm.base s.alm.tag s.alm.tree s.alm.log2 else []

/-- The sleep image area in force, which counts as a tree area (R525). -/
def sleepArea (s : State) : List (Nat × Nat) :=
  if bit (s.fc 0x13D00) 31 then [(s.fcf 0x13D00 18 0 * 2 ^ 21, 2 ^ 21)] else []

/-- Tag areas, tree areas and Almanac areas in force (R219 step 1). -/
def metaAreas (s : State) : List (Nat × Nat) :=
  (tkeys s.mem.regions).flatMap (fun n =>
    let r := s.region n
    if !r.en then [] else
      (r.tag * 2 ^ 17, r.size * 2 ^ 17) ::
        (if r.mode = 2 then [((s.tree r.tree).base * 2 ^ 16, treeLen r.size * 65536)] else []))
  ++ almAreas s ++ sleepArea s

def inArea (a : Nat) (p : Nat × Nat) : Bool := decide (p.1 ≤ a) && decide (a < p.1 + p.2)

/-- The region in force that contains an address (R219 step 2). -/
def regionOf (s : State) (a : Nat) : Option Nat :=
  (tkeys s.mem.regions).find? (fun n => (s.region n).holds a)

/-- The RUNNING job on a region (R271). -/
def jobOn (s : State) (n : Nat) : Option Nat :=
  (List.range 4).find? (fun j => decide ((s.job j).state = 1) && decide ((s.job j).region = n))

/-- A group of a region under REKEY is converted (R275). -/
def converted (x : Job) (idx : Nat) : Bool := decide (idx < x.bound) || x.conv.contains idx

/-- Some MEM channel is in service: the channel an address is steered to is not fenced (R35); one that left IDLE and waits for its
power token is in service. DESIGN CHOICE (log entry 143). -/
def memServed (s : State) (ch : Nat) : Bool := decide ((s.chan ch).role = 1) && !(s.chan ch).fenced

/-- Whether the region state refuses an access (R219 step 8, R252, R280). -/
def regionRefuses (s : State) (n kid cls : Nat) (write : Bool) (a : Nat) : Bool :=
  let idx := a / 512 - (s.region n).base * 2 ^ 11
  let jr := jobOn s n
  s.boot.entering || !memServed s (s.steerOf a) ||
  (match jr with
   | some j => decide ((s.job j).kind = 1) || decide ((s.job j).keyid ≠ kid) || decide (cls = 15)
   | none => false) ||
  ((s.region n).locked && write &&
    !(match jr with | some j => decide ((s.job j).kind = 0) && converted (s.job j) idx | none => false))

/-- Record a refusal (R220): count, class, KeyID and reason. -/
def denyCount (s : State) (kid cls reason : Nat) : State :=
  let c := satInc 16 (s.stf 0x37004 15 0)
  let s := (s.putSt 0x37004 (c + cls % 16 * 2 ^ 16 + reason * 2 ^ 20 + kid * 2 ^ 24)).evt 0x13000 2
  if reason = 8 ∨ reason = 9 then s.inc 0x37008 31 0 else s

/-- A failed key use of a KeyID (R217) and of a running job's key set (R281). -/
def keyFailed (s : State) (kid : Nat) (data : Bool) (job : Option (Nat × Bool)) : State :=
  let s := (s.putStf (0x3501C + 32 * kid) (if data then 3 else 4) (if data then 3 else 4) 1).evt 0x13000 3
  match job with
  | some (j, new) => s.modJob j (fun x => { x with failing := some (x.failing.getD new) })
  | none => s

/-- What the port decides on a transaction (R219). -/
inductive Accept where
  | refused (reason : Nat)
  | pass
  | serve (t : Txn)
  deriving DecidableEq, Repr

/-- The keys a group is read or written with: the entry in force, or the latched old keys of an unconverted group under
REKEY; with the epoch of its counters, and the job and key set (R275). After a REKEY that ended FAILED its groups stay split as it
left them (R281). -/
def groupKeys (s : State) (n kid idx : Nat) : KeyRef × KeyRef × Nat × Option (Nat × Bool) :=
  let e := s.kid kid
  match jobOn s n with
  | some j =>
    if converted (s.job j) idx then (e.data, e.tag, (s.region n).epoch, some (j, true))
    else ((s.job j).oldD, (s.job j).oldT, (s.job j).oldEpoch, some (j, false))
  | none =>
    match s.mem.split.find? (fun p => decide (p.1 = n)) with
    | some (_, x) =>
      if x.kind = 0 ∧ !converted x idx then
        (if x.keyid = kid then x.oldD else e.data, if x.keyid = kid then x.oldT else e.tag, x.oldEpoch, none)
      else (e.data, e.tag, (s.region n).epoch, none)
    | none => (e.data, e.tag, (s.region n).epoch, none)

/-- Protected lines are not served: after an alarm, in LOCKOUT, in a stopped start, from power-fail shutdown on (R57, R504,
R519). -/
def memClosed (s : State) : Bool := s.boot.alarm || s.boot.lockout || s.boot.stopped || s.boot.pfail

/-- The checks of R219 in order, with the keys bound (R47, R217). -/
def accept (s : State) (addr cls : Nat) (write : Bool) : State × Accept :=
  let a := addr % 2 ^ 40 / 64 * 64
  let kid := addr / 2 ^ 40 % 256
  if (metaAreas s).any (inArea a) then (s, .refused 1)
  else match regionOf s a with
  | none => (s, .pass)
  | some n =>
    let r := s.region n
    if memClosed s then (s, .refused 9)
    else if kid = 0 ∧ !bit r.clsBase cls then (s, .refused 2)
    else if kid ≠ 0 ∧ s.boot.eve then (s, .refused 3)
    else if kid ≠ 0 ∧ (kid < r.kidLo ∨ r.kidHi < kid) then (s, .refused 4)
    else if kid ≠ 0 ∧ !bit r.clsKid cls then (s, .refused 5)
    else if !(s.kid kid).en then (s, .refused 6)
    else if regionRefuses s n kid cls write a then (s, .refused 7)
    else if r.mode ≠ 0 ∧ (s.kid kid).tag.slot = 0 then (s, .refused 8)
    else
      let ch := s.steerOf a
      let (rd, rt, ep, job) := groupKeys s n kid (a / 512 - r.base * 2 ^ 11)
      match memKey s ch rd true with
      | (s, none) => (keyFailed s kid true job, .refused 9)
      | (s, some dk) =>
        let t : Txn := { write := write, addr := a, kid := kid, cls := cls, rgn := n, reg := r, ch := ch, epoch := ep, dkey := dk
                         dref := rd, tref := rt }
        if r.mode = 0 then (s, .serve t)
        else match memKey s ch rt false with
        | (s, none) => (keyFailed s kid false job, .refused 9)
        | (s, some tk) =>
          if r.mode = 2 then
            match memKey s ch (s.tree r.tree).key false with
            | (s, none) => (keyFailed s kid false none, .refused 9)
            | (s, some sk) => (s, .serve { t with tkey := tk, skey := sk })
          else (s, .serve { t with tkey := tk })

/-- Merge the enabled bytes of a write into a line. -/
def mergeBytes (be : Nat) (old new : Bytes) : Bytes :=
  (List.range 64).map (fun i => if bit be i then byteAt new i else byteAt old i)

/-- Make line i of a resident tag line POISONED. -/
def poisonLine (s : State) (t : Txn) (b : Bytes) (i : Nat) : State × Bytes :=
  let b := overlay b (9 + 7 * i) tagPoison
  (storeTag s t.ch (t.addr / 512) b, b)

/-- The plaintext of a WRITTEN line with its verdict (R212, R253). -/
def openLine (t : Txn) (b : Bytes) (i laddr : Nat) (ct : Bytes) : Bytes × Bool :=
  let mj := tlMajor b; let mn := tlMinor b i
  (lineCrypt t.dkey t.kid laddr mj mn ct, decide (t.reg.mode = 0) || decide (lineTag t.tkey t.kid laddr mj mn ct = tlTag b i))

/-- Encrypt and tag a line under a MAJOR and minor counter: ciphertext and tag (R212, R213, R243). -/
def closeLine (t : Txn) (mj mn laddr : Nat) (pt : Bytes) : Bytes × Bytes :=
  let ct := lineCrypt t.dkey t.kid laddr mj mn pt
  (ct, if t.reg.mode = 0 then zeros 6 else lineTag t.tkey t.kid laddr mj mn ct)

/-- Group re-encryption (R250): every WRITTEN line under the next MAJOR with minor counter 1; the written line i with its
new content. DEDUCED (log entry 57). -/
def reencrypt (s : State) (t : Txn) (b : Bytes) (i : Nat) (pt : Bytes) : State :=
  let g := t.addr / 512 * 512
  let mj := tlMajor b + 1
  let step (p : State × Bytes) (j : Nat) : State × Bytes :=
    let (s, nb) := p
    let la := g + 64 * j
    if j = i then
      let c := closeLine t mj 1 la pt
      (dramPut s la c.1, tlSet nb j 1 c.2)
    else if lineState t.reg.mode b j ≠ .written then p
    else
      let o := openLine t b j la (dramGet s la 64)
      if t.reg.mode ≠ 0 ∧ s.dm la = 2 then (s, overlay nb (9 + 7 * j) tagPoison)
      else if !o.2 then (tagFailed s, overlay nb (9 + 7 * j) tagPoison)
      else
        let c := closeLine t mj 1 la o.1
        (dramPut s la c.1, tlSet nb j 1 c.2)
  let (s, nb) := (List.range 8).foldl step (s, tlSetMajor b mj)
  let s := (storeTag s t.ch (t.addr / 512) nb).inc 0x37114 31 0
  if mj % 2 ^ 40 ≥ 0xFFFFFF0000 ∧ !(s.region t.rgn).locked then
    integEvent ((s.modRegion t.rgn (fun r => { r with locked := true })).evt 0x13008 5) 5 g t.rgn
  else s

/-- Write the new content of a line (R213, R229): raised minor counter, or a re-encryption of the group.
DEDUCED (log entry 58). -/
def writeLine (s : State) (t : Txn) (b : Bytes) (pt : Bytes) : State :=
  let i := t.addr / 64 % 8
  if tlMinor b i = 0xFF then reencrypt s t b i pt
  else
    let mn := tlMinor b i + 1
    let c := closeLine t (tlMajor b) mn t.addr pt
    storeTag (dramPut s t.addr c.1) t.ch (t.addr / 512) (tlSet b i mn c.2)

/-- A read that returns poison (R256). -/
def poisonRead (s : State) (data : Bytes) : State × Nat × Bytes := (s.inc 0x37104 31 0, 3, data)

/-- A refused partial write (R254). -/
def partRefused (s : State) (t : Txn) : State × Nat × Bytes :=
  (integEvent ((s.inc 0x37108 31 0).evt 0x13008 1) 1 t.addr t.rgn, 2, [])

/-- How a transaction fetches its tag line. -/
def Txn.fetch (t : Txn) : Fetch :=
  { ch := t.ch, reg := t.reg, n := t.rgn, a := t.addr, skey := t.skey, trust := t.write && decide (t.be = 2 ^ 64 - 1) }

/-- Serve a transaction once its data and tag line have come (R225, R229, R242, R253 to R257): new state, status, data.
DEDUCED (log entry 58). DEDUCED (log entry 59). DEDUCED (log entry 162). -/
def serveCore (s : State) (t : Txn) : State × Nat × Bytes :=
  let raw := dramGet s t.addr 64
  let bad := decide (s.dm t.addr = 2)
  let full := decide (t.be = 2 ^ 64 - 1)
  if t.pass then
    if t.write then (dramPut s t.addr (mergeBytes t.be raw t.data), 0, [])
    else (s, if bad then 3 else 0, raw)
  else
    let i := t.addr / 64 % 8
    let lostWrite (s : State) : State × Nat × Bytes := if full then (s.inc 0x37108 31 0, 2, []) else partRefused s t
    match loadTag s t.fetch t.epoch with
    | (s, .lostPath) => if t.write then lostWrite s else poisonRead s (zeros 64)
    | (s, .sealFail b) =>
      let s := tagFailed s
      if t.write then lostWrite s
      else poisonRead s (if lineState t.reg.mode b i = .written ∧ bad = false then (openLine t b i t.addr raw).1 else zeros 64)
    | (s, .line b) =>
      let ls := lineState t.reg.mode b i
      let o := openLine t b i t.addr raw
      let nat := decide (t.reg.mode ≠ 0)
      if !t.write then
        if ls = .lost then poisonRead s (zeros 64)
        else if bad then poisonRead (if nat then (poisonLine s t b i).1 else s) (zeros 64)
        else if ls = .poisoned ∨ ls = .corrupt then poisonRead s (zeros 64)
        else if ls = .unwritten then (s, 0, zeros 64)
        else if o.2 then (s, 0, o.1)
        else poisonRead (tagFailed s) o.1
      else if ls = .lost then lostWrite s
      else if full then
        let s := writeLine s t b t.data
        if ls = .poisoned then (integEvent ((s.inc 0x3710C 31 0).evt 0x13008 2) 2 t.addr t.rgn, 0, []) else (s, 0, [])
      else if bad then partRefused (if nat then (poisonLine s t b i).1 else s) t
      else if ls = .poisoned then partRefused s t
      else if ls = .corrupt then partRefused (poisonLine s t b i).1 t
      else if ls = .unwritten then (writeLine s t b (mergeBytes t.be (zeros 64) t.data), 0, [])
      else if o.2 then (writeLine s t b (mergeBytes t.be o.1 t.data), 0, [])
      else partRefused (tagFailed (poisonLine s t b i).1) t

/-- Answer a transaction upstream (R224). -/
def answer (s : State) (t : Txn) (st : Nat) (data : Bytes) : State :=
  s.emit (if t.write then .memWrite t.tag st else .memRead t.tag st data)

/-- Serve and answer a transaction. -/
def serve (s : State) (t : Txn) : State :=
  let r := serveCore s t
  answer r.1 t r.2.1 r.2.2

/-- A transaction on a group whose tag line must be formed ahead of the initialisation pass waits while the ahead set is
full (R247). -/
def aheadFull (s : State) (t : Txn) : Bool :=
  !t.pass && decide (t.reg.mode ≠ 2) && (findLine s t.ch (t.addr / 512)).isNone
  && formsInitial s t.rgn (t.addr / 512 - t.reg.base * 2 ^ 11) && decide (s.mem.ahead.length ≥ 16384)

/-- One step of a region's initialisation pass (R247): the initial tag line of the next group, or a skip over a group of
the ahead set. -/
def passGroup (s : State) (n : Nat) : State :=
  let r := s.region n
  match r.init with
  | none => s
  | some p =>
    let addr := r.tag * 2 ^ 17 + 64 * p
    let s := if s.mem.ahead.contains (n, p) then { s with mem := { s.mem with ahead := s.mem.ahead.filter (· ≠ (n, p)) } }
             else dramPut (dropMeta s (fun x => decide (x = addr))) addr (tlInitial r.epoch)
    if p + 1 ≥ r.size * 2 ^ 11 then (s.modRegion n (fun r => { r with init := none })).evt 0x13008 6
    else s.modRegion n (fun r => { r with init := some (p + 1) })

/-- A region initialised at the same Calends with a lower number is still being passed (R247). -/
def passWaits (s : State) (n : Nat) : Bool :=
  (tkeys s.mem.regions).any (fun m => decide (m < n) && (s.region m).init.isSome && decide ((s.region m).initCal = (s.region n).initCal))

/-- Groups that the initialisation passes have still to visit. -/
def passLeft (s : State) : Nat :=
  ((tkeys s.mem.regions).map (fun n => match (s.region n).init with | some p => (s.region n).size * 2 ^ 11 - p | none => 0)).sum

/-- The passes go on until the ahead set has room (R247). -/
def freeAhead (s : State) : State :=
  (List.range (passLeft s)).foldl (fun s _ =>
    if s.mem.ahead.length < 16384 then s
    else match (tkeys s.mem.regions).find? (fun n => (s.region n).init.isSome && !passWaits s n) with
      | some n => passGroup s n
      | none => s) s

/-- A transaction waits for room in the ahead set, then it is served and answered. -/
def serveWaiting (s : State) (t : Txn) : State := serve (if aheadFull s t then freeAhead s else s) t

/-- Serve the oldest transaction in flight on a group (R230). DEDUCED (log entry 137). -/
def serveOldest (s : State) (grp : Nat) : State :=
  match s.mem.inflight.find? (fun t => decide (t.addr / 512 = grp)) with
  | none => s
  | some t => serveWaiting { s with mem := { s.mem with inflight := s.mem.inflight.erase t } } t

/-- Transactions in flight that p selects complete, each after the older ones on its group, with what DRAM returns now (R36, R222,
R230). DESIGN CHOICE (log entry 154). -/
def settleWhere (s : State) (p : Txn → Bool) : State :=
  (List.range s.mem.inflight.length).foldl (fun s _ =>
    match s.mem.inflight.find? p with
    | some t => serveOldest s (t.addr / 512)
    | none => s) s

/-- Every transaction in flight on a protected line completes. DESIGN CHOICE (log entry 154). -/
def settleAll (s : State) : State := settleWhere s (fun t => !t.pass)

/-- A full-line write needs nothing from DRAM: outside every region, or its tag line is resident and its minor counter is
not 0xFF (R229). -/
def writesAtOnce (s : State) (t : Txn) : Bool :=
  decide (t.be = 2 ^ 64 - 1) && !(s.mem.inflight.any (fun x => decide (x.addr / 512 = t.addr / 512))) &&
  (t.pass || (match findLine s t.ch (t.addr / 512) with
    | some l => decide (tlMinor l.data (t.addr / 64 % 8) ≠ 0xFF)
    | none => false))

/-- A transaction reaches the memory-side port (R47, R219, R220, R224). -/
def memAccess (s : State) (addr cls tag : Nat) (write : Bool) (data : Bytes) (be : Nat) : State :=
  match accept s addr cls write with
  | (s, .refused reason) =>
    let s := denyCount s (addr / 2 ^ 40 % 256) cls reason
    s.emit (if write then .memWrite tag 2 else .memRead tag 2 (zeros 64))
  | (s, .pass) =>
    let t : Txn := { tag := tag, write := write, addr := addr % 2 ^ 40 / 64 * 64, cls := cls, data := data, be := be, pass := true }
    if write && writesAtOnce s t then serve s t else { s with mem := { s.mem with inflight := s.mem.inflight ++ [t] } }
  | (s, .serve t) =>
    let t := { t with tag := tag, data := data, be := be }
    if write && writesAtOnce s t then serve s t else { s with mem := { s.mem with inflight := s.mem.inflight ++ [t] } }

/-- The port is dead while the block is in reset or asleep (R53, R60, R527). DEDUCED (log entry 125). -/
def portDead (s : State) : Bool := s.boot.inReset || s.boot.asleep

/-- Data comes back from DRAM for the n-th transaction in flight; the oldest on its group is served (R230).
DEDUCED (log entry 137). DESIGN CHOICE (log entry 161). -/
def dramReturn (s : State) (n : Nat) (ret : DramReturn) : State :=
  if portDead s then s else
  let s := noteDram s ret
  match s.mem.inflight[n]? with
  | none => s
  | some t =>
    match s.mem.inflight.find? (fun x => decide (x.addr / 512 = t.addr / 512)) with
    | none => s
    | some t => if aheadFull s t then s else serveOldest s (t.addr / 512)

/-! ### The SX4's own DMA (R46): class 0xF through the port, line by line, older transactions on a group first -/

/-- What a DMA read gives. -/
inductive DmaRead where
  | ok (b : Bytes)
  | err
  | poison
  deriving DecidableEq, Repr

/-- Tag of DMA transactions at the upstream port; above the 8 bits of fabric tags. DEDUCED (log entry 55). -/
def dmaTag : Nat := 256

/-- Older transactions on a group are served before a DMA access to it. DEDUCED (log entry 55). -/
def settle (s : State) (grp : Nat) : State := settleWhere s (fun t => decide (t.addr / 512 = grp))

/-- One line of a DMA access: new state, status, data. DEDUCED (log entry 55). -/
def dmaLine (s : State) (addr : Nat) (write : Bool) (data : Bytes) (be : Nat) : State × Nat × Bytes :=
  let s := settle s (addr % 2 ^ 40 / 512)
  match accept s addr 15 write with
  | (s, .refused reason) => (denyCount s (addr / 2 ^ 40 % 256) 15 reason, 2, zeros 64)
  | (s, .pass) => serveCore s { write := write, addr := addr % 2 ^ 40 / 64 * 64, data := data, be := be, pass := true }
  | (s, .serve t) =>
    let t := { t with tag := dmaTag, data := data, be := be }
    serveCore (if aheadFull s t then freeAhead s else s) t

/-- The lines a byte range touches: line address, first byte offset and length in it, over f lines. -/
def linePieces : Nat → Nat → Nat → List (Nat × Nat × Nat)
  | 0, _, _ => []
  | f + 1, addr, n =>
    if n = 0 then [] else
      let o := addr % 64
      let m := min n (64 - o)
      (addr - o, o, m) :: linePieces f (addr + m) (n - m)

/-- What a read that stands at p comes to with one more piece of a line: an error response outranks poison (R188). -/
def DmaRead.next (p : DmaRead) (st : Nat) (b : Bytes) : DmaRead :=
  match p with
  | .err => .err
  | .poison => if st = 2 then .err else .poison
  | .ok a => if st = 0 then .ok (a ++ b) else if st = 2 then .err else .poison

/-- Read n bytes at a fabric address (R46). -/
def hostRead (s : State) (addr n : Nat) : State × DmaRead :=
  (linePieces (n / 64 + 2) addr n).foldl (fun p l =>
    let r := dmaLine p.1 l.1 false [] 0
    (r.1, p.2.next r.2.1 (sub r.2.2 l.2.1 l.2.2))) (s, .ok [])

/-- The byte enables of m bytes from offset o. -/
def lineBe (o m : Nat) : Nat := (2 ^ m - 1) * 2 ^ o

/-- Write bytes at a fabric address; false where a write received an error response. -/
def hostWrite (s : State) (addr : Nat) (b : Bytes) : State × Bool :=
  let r := (linePieces (b.length / 64 + 2) addr b.length).foldl (fun (p : (State × Bool) × Bytes) l =>
    let r := dmaLine p.1.1 l.1 true (zeros l.2.1 ++ p.2.take l.2.2) (lineBe l.2.1 l.2.2)
    ((r.1, p.1.2 && decide (r.2.1 = 0)), p.2.drop l.2.2)) ((s, true), b)
  r.1

/-- Run a transaction now, or hold it at the port while a Calends waits for its commit (R81, R84). -/
def atMemPort (s : State) (c : Instr) (f : State → State) : State :=
  if portDead s then s else if s.tick.due then { s with portHeld := s.portHeld ++ [c] } else f s

/-- MEMORY_READ. -/
def execMemoryRead (addr : BitVec 48) (cls : BitVec 4) (tag : BitVec 8) (s : State) : Host.Outcome State Fault Refusal :=
  .next (atMemPort s (.memoryRead addr cls tag) (fun s => memAccess s addr.toNat cls.toNat tag.toNat false [] 0))
/-- MEMORY_WRITE. -/
def execMemoryWrite (addr : BitVec 48) (cls : BitVec 4) (data : Line) (be : BitVec 64) (tag : BitVec 8) (s : State) :
    Host.Outcome State Fault Refusal :=
  .next (atMemPort s (.memoryWrite addr cls data be tag)
    (fun s => memAccess s addr.toNat cls.toNat tag.toNat true (lineBytes data) be.toNat))
/-- DRAM_DATA_RETURN. -/
def execDramDataReturn (n : Nat) (ret : DramReturn) (s : State) : Host.Outcome State Fault Refusal := .next (dramReturn s n ret)
/-- CACHE_EVICTION: the oldest victim in the write-back buffer reaches DRAM (R231, R232). -/
def execCacheEviction (ch : Fin 16) (s : State) : Host.Outcome State Fault Refusal :=
  .next (if portDead s || (s.chan ch).fenced then s else drainWbOne s ch)

/-- One marked tag line of a channel is written back where dirty and dropped (R223). -/
def markedOne (s : State) (ch : Nat) : State :=
  match ((s.mchan ch).cc.filter (·.marked)).getLast? with
  | some l => releaseMarked s ch l.grp
  | none => s

/-- MARKED_WRITEBACK. -/
def execMarkedWriteback (ch : Fin 16) (s : State) : Host.Outcome State Fault Refusal :=
  .next (if portDead s || (s.chan ch).fenced then s else markedOne s ch)

/-- REGION_INIT_PASS in its turn (R247). DEDUCED (log entry 156). -/
def initPass (s : State) (n : Nat) : State := if portDead s || s.halted || passWaits s n then s else passGroup s n

/-- REGION_INIT_PASS. -/
def execRegionInitPass (n : Fin 64) (s : State) : Host.Outcome State Fault Refusal := .next (initPass s n)

end Sys2Proof.Machine
end

