-- ==== Sys2Proof/Machine/Operands.lean ====
section
/-! DEFINITION. The operand forms of descriptors: common header, bodies, reserved bytes and length limits, worst-case costs
(R100, R103, R183 to R192, and the body tables of each chapter). -/

namespace Sys2Proof.Machine

/-- OPCODE, FLAGS, ROLE and TAG of a descriptor (R100). -/
def dOp (d : Bytes) : Nat := leAt d 0 1
def dFlags (d : Bytes) : Nat := leAt d 1 1
def dRole (d : Bytes) : Nat := leAt d 2 1
def dTag (d : Bytes) : Nat := leAt d 4 4
/-- FLAGS.ORDER and FLAGS.IRQ. -/
def dOrder (d : Bytes) : Bool := bit (dFlags d) 1
def dIrq (d : Bytes) : Bool := bit (dFlags d) 0

/-- Every listed byte range is zero and every listed byte has no bit of its mask set. -/
def rsvdZero (d : Bytes) (ranges masks : List (Nat × Nat)) : Bool :=
  ranges.all (fun r => decide (leAt d r.1 r.2 = 0)) && masks.all (fun m => decide (leAt d m.1 1 &&& m.2 = 0))

/-- Header of R100 with its reserved bits; ROLE is 0 in a ring of no channel (R101). -/
def headerOk (channelRing : Bool) (d : Bytes) : Bool :=
  rsvdZero d [(3, 1)] [(1, 0xFC)] && decide (dRole d ≤ (if channelRing then 3 else 0))

/-- The opcodes accepted in the rings of an owner (R103). -/
def ownerTakes (k op : Nat) : Bool :=
  decide (op = 0) ||
  (if k < 48 then decide (op < 0x40) else if k < 56 then decide (0x40 ≤ op) && decide (op < 0x60)
   else if k < 60 then decide (0x60 ≤ op) && decide (op < 0x70)
   else if k < 62 then decide (0x70 ≤ op) && decide (op < 0x78) else decide (0x78 ≤ op) && decide (op < 0x80))

/-- A fabric address field of 8 bytes whose bits [63:48] are reserved. -/
def addrAt (d : Bytes) (off : Nat) : Nat := leAt d off 6

/-! Bulk cipher bodies (R184 to R191). -/

def bTextLen (d : Bytes) : Nat := leAt d 0x20 4
def bAadLen (d : Bytes) : Nat := leAt d 0x24 4
def bIvLen (d : Bytes) : Nat := leAt d 0x38 1
def bTagLen (d : Bytes) : Nat := leAt d 0x39 1
def bCw (d : Bytes) : Nat := leAt d 0x3A 1 % 4
def bStar (d : Bytes) : Bool := bit (leAt d 0x3A 1) 2
def bIv (d : Bytes) : Bytes := sub d 0x28 (bIvLen d)
def bSrc (d : Bytes) : Nat := addrAt d 0x10
def bDst (d : Bytes) : Nat := addrAt d 0x18

/-- Counter width in bytes of CTR (R185). -/
def cwBytes (cw : Nat) : Nat := if cw = 0 then 4 else if cw = 1 then 8 else 16

/-- Reserved bytes of a bulk body (R185). -/
def bulkRsvd (op : Nat) (d : Bytes) : Bool :=
  rsvdZero d [(0x3B, 5), (0x16, 2), (0x1E, 2)]
    [(0x09, 0xF0), (0x3A, if op = 1 then 0xFC else if op = 6 ∨ op = 7 then 0xFB else 0xFF)]
  && ((decide (op ≠ 5) && decide (op ≠ 11)) || decide (leAt d 0x18 8 = 0))
  && (decide (bIvLen d ≥ 16) || decide (leAt d (0x28 + bIvLen d) (16 - bIvLen d) = 0))
  && (decide (op ≠ 1) || decide (bCw d ≠ 3))

/-- 16 MiB (R183). -/
def mib16 : Nat := 2 ^ 24

/-- Lengths of a bulk body (R183, R185, R188). -/
def bulkBody (op : Nat) (d : Bytes) : Bool :=
  let t := bTextLen d; let a := bAadLen d; let iv := bIvLen d; let tag := bTagLen d
  decide (t ≤ mib16) && decide (a ≤ mib16) &&
  (if op = 1 then
    decide (iv = 16) && decide (tag = 0) && decide (a = 0) &&
    decide (beN ((bIv d).drop (16 - cwBytes (bCw d))) + cdiv t 16 ≤ 2 ^ (8 * cwBytes (bCw d)))
  else if op = 2 ∨ op = 3 then decide (1 ≤ iv) && decide (iv ≤ 16) && [4, 8, 12, 13, 14, 15, 16].contains tag
  else if op = 4 ∨ op = 5 then
    decide (1 ≤ iv) && decide (iv ≤ 16) && [4, 8, 12, 13, 14, 15, 16].contains tag && decide (t = 0)
  else if op = 6 ∨ op = 7 then
    (if bStar d then decide (iv = 13) && [0, 4, 8, 16].contains tag && decide (t < 2 ^ 16)
     else decide (7 ≤ iv) && decide (iv ≤ 13) && [4, 6, 8, 10, 12, 14, 16].contains tag && decide (t < 2 ^ (8 * (15 - iv))))
  else if op = 8 ∨ op = 9 then decide (iv = 16) && decide (tag = 0) && decide (a = 0) && decide (16 ≤ t)
  else decide (iv = 0) && decide (4 ≤ tag) && decide (tag ≤ 16) && decide (a = 0))

/-- The attributes a bulk opcode asks of its key (R134, R188); a key for channels that holds DERIVE serves the node-key derivation
alone (R133). DEDUCED (log entry 124). -/
def bulkPermit (op : Nat) (d : Bytes) (x : Slot) : Bool :=
  let o := x.ops
  let xts := decide (x.alg = 3) || decide (x.alg = 4)
  !(decide (x.roles ≠ 0) && hasOp o 4) &&
  (if op = 1 then !xts && (hasOp o 0 || hasOp o 1)
  else if op = 8 then xts && hasOp o 0
  else if op = 9 then xts && hasOp o 1
  else if (op = 6 ∨ op = 7) ∧ bStar d = true ∧ bTagLen d = 0 then !xts && hasOp o (op - 6)
  else if op = 2 ∨ op = 6 then !xts && hasOp o 0 && hasOp o 2
  else if op = 3 ∨ op = 7 then !xts && hasOp o 1 && hasOp o 3
  else if op = 4 ∨ op = 10 then !xts && hasOp o 2
  else !xts && hasOp o 3)

/-- Worst-case lane costs of a bulk opcode (R191); alg is the ALG in force of the named slot, 0 where the item
binds no key of it. -/
def bulkCost (op : Nat) (d : Bytes) (alg : Nat) : Cost :=
  let n := cdiv (bTextLen d) 16
  let a := cdiv (bAadLen d) 16
  let j := if bIvLen d = 12 then 0 else 2
  let r := if alg = 1 then 11 else 15
  let e := if bAadLen d < 0xFF00 then 2 else 6
  let h := if bAadLen d = 0 then 0 else cdiv (bAadLen d + e) 16
  if op = 1 then { p := n }
  else if op = 2 ∨ op = 3 then { p := n + 2, g := a + n + 1 + j }
  else if op = 4 ∨ op = 5 then { p := 2, g := a + 1 + j }
  else if op = 6 ∨ op = 7 then
    if bStar d ∧ bTagLen d = 0 then { p := n } else { p := n + 1, i := (1 + h + n) * r }
  else if op = 8 ∨ op = 9 then { p := n + 1 }
  else { p := 1, i := max n 1 * r }

/-- Input bytes of a bulk opcode at SRC (R186). -/
def bulkIn (op : Nat) (d : Bytes) : Nat :=
  bAadLen d + bTextLen d + (if op = 3 ∨ op = 5 ∨ op = 7 ∨ op = 11 then bTagLen d else 0)

/-- Output bytes of a bulk opcode at DST (R186). -/
def bulkOut (op : Nat) (d : Bytes) : Nat :=
  if op = 5 ∨ op = 11 then 0
  else if op = 4 ∨ op = 10 then bTagLen d
  else bTextLen d + (if op = 2 ∨ op = 6 then bTagLen d else 0)

/-! Vault bodies (R156 to R175). -/

/-- Reserved bits and encodings of an attribute block at an offset (R157). -/
def attrOk (d : Bytes) (off : Nat) : Bool :=
  decide (1 ≤ leAt d off 1) && decide (leAt d off 1 ≤ 4)
  && rsvdZero d [(off + 6, 2), (off + 13, 3)] [(off + 1, 0xC0), (off + 2, 0xF8), (off + 3, 0xFC)]

/-- Reserved bytes of a vault body; the attribute block's encodings are a body error (R157, R159 to R175). -/
def vaultRsvd (op : Nat) (d : Bytes) : Bool :=
  let inst := [(0x09, 0xF0), (0x0A, 0xFE)]
  if op = 0x40 then rsvdZero d [(0x0B, 5), (0x28, 24)] ((0x11, 0xF0) :: inst)
  else if op = 0x41 then
    rsvdZero d [(0x38, 8)] ((0x11, 0xF0) :: inst)
    && (let c := leAt d 0x0B 1
        if c = 4 then decide (leAt d 0x0C 4 = 0)
        else decide (leAt d 0x28 16 = 0) &&
          (if c = 3 then decide (leAt d 0x0E 2 = 0) else decide (leAt d 0x0D 3 = 0)))
  else if op = 0x42 then rsvdZero d [(0x0C, 4), (0x1E, 2), (0x20, 32)] ((0x11, 0xF0) :: inst)
  else if op = 0x43 then
    rsvdZero d [(0x0B, 5)] inst && (decide (leAt d 0x10 1 ≠ 1) || decide (leAt d 0x30 16 = 0))
  else if op = 0x44 then rsvdZero d [(0x1E, 2), (0x20, 32)] [(0x09, 0xF0), (0x11, 0xF0)]
  else if op = 0x45 then rsvdZero d [(0x11, 47)] [(0x09, 0xF0), (0x10, 0xFE)]
  else if op = 0x46 ∨ op = 0x47 then rsvdZero d [(0x10, 48)] [(0x09, 0xF0)]
  else if op = 0x48 then rsvdZero d [(0x15, 43)] [(0x09, 0xF0)]
  else if op = 0x49 then rsvdZero d [(0x11, 47)] [(0x09, 0xF0), (0x10, 0xF0)]
  else if op = 0x4A then rsvdZero d [(0x0A, 6), (0x16, 2), (0x18, 40)] [(0x09, 0xF0)]
  else if op = 0x50 then rsvdZero d [(0x1E, 2), (0x20, 32)] []
  else if op = 0x58 then rsvdZero d [(0x09, 7), (0x30, 16)] []
  else if op = 0x59 then rsvdZero d [(0x0C, 52)] []
  else false

/-- Body values of a vault command (R157, R161, R162, R174, R175). -/
def vaultBody (op : Nat) (d : Bytes) : Bool :=
  if op = 0x40 then attrOk d 0x18
  else if op = 0x41 then attrOk d 0x18 && decide (1 ≤ leAt d 0x0B 1) && decide (leAt d 0x0B 1 ≤ 4)
  else if op = 0x42 then [40, 56, 88].contains (leAt d 0x0B 1)
  else if op = 0x43 then attrOk d 0x10
  else if op = 0x58 then decide (leAt d 8 1 = 1) || decide (leAt d 8 1 = 2)
  else if op = 0x59 then decide (sub d 8 4 = [0x44#8, 0x45#8, 0x50#8, 0x4C#8])
  else true

/-- Staging commands of the vault (R152). -/
def vaultStaging (op : Nat) : Bool := [0x40, 0x41, 0x42, 0x43, 0x45, 0x46, 0x47, 0x48, 0x59].contains op

/-- Immediate commands of the vault (R152). -/
def vaultImmediate (op : Nat) : Bool := [0x44, 0x49, 0x4A, 0x50].contains op

end Sys2Proof.Machine
end

