-- ==== Sys2Proof/Machine/Rings.lean ====
section
/-! DEFINITION. Descriptor rings: doorbells, completions, aborts, DMA errors (R89 to R119). -/

namespace Sys2Proof.Machine

/-- Entries of a ring in force (R92). -/
def Ring.size (r : Ring) : Nat := 2 ^ r.log2

/-- Free entries of a completion ring that nothing has reserved (R107). -/
def Ring.free (r : Ring) : Nat := r.size - 1 - ((r.tail + r.size - r.head) % r.size) - r.reserved

/-- Descriptors passed by doorbell and not yet taken. -/
def Ring.waiting (r : Ring) : Nat := (r.tail + r.size - r.head) % r.size

/-- Index i lies among the entries passed by doorbell and not yet taken. -/
def Ring.waits (r : Ring) (i : Nat) : Bool := decide (i < r.size) && decide ((i + r.size - r.head) % r.size < r.waiting)

/-- The entry that RING_PTR shows as the head: past the aborted entries in front (R108, R119). -/
def Ring.shownHead (r : Ring) : Nat :=
  (r.head + ((List.range r.waiting).takeWhile (fun n => r.aborted.contains ((r.head + n) % r.size))).length) % r.size

/-- The 32 bytes of a completion (R105). -/
def completionBytes (status : Nat) (phase zero irq : Bool) (sqHead tag cal source op : Nat) (result : Bytes) : Bytes :=
  toLe 1 status ++ toLe 1 (b2n phase + 2 * b2n zero + 4 * b2n irq) ++ toLe 2 sqHead ++ toLe 4 tag ++ toLe 6 cal
  ++ toLe 1 source ++ toLe 1 op ++ sub result 0 16

/-- Give back one reserved entry of CQk. -/
def unreserve (s : State) (k : Nat) : State := s.modRing (64 + k) (fun r => { r with reserved := r.reserved - 1 })

/-- Write one reserved completion to CQk (R95, R99, R115, R117): dropped where the ring is disabled or halted, both rings
halted where the write fails. DEDUCED (log entry 139). -/
def cqWrite (s : State) (k : Nat) (status : Nat) (zero irq : Bool) (sqHead tag cal source op : Nat) (result : Bytes) : State :=
  let cq := s.ring (64 + k)
  if s.wedged 5 || !cq.en || cq.halted then unreserve s k
  else
    let w := hostWrite s (cq.base + 32 * cq.tail) (completionBytes status cq.phase zero irq sqHead tag cal source op result)
    let s := unreserve w.1 k
    if w.2 then
      let t := (cq.tail + 1) % cq.size
      let s := s.modRing (64 + k) (fun r => { r with tail := t, phase := if t = 0 then !r.phase else r.phase })
      if irq || cq.irqAll then s.evt (if k < 32 then 0x180 else 0x184) (k % 32) else s
    else (s.modRing (64 + k) (fun r => { r with halted := true, err := 3 })).modRing k (fun r => { r with halted := true, err := 3 })

/-- The item of SQk at index i whose result is not final. -/
def findItem (s : State) (k i : Nat) : Option Item :=
  (s.ring k).items.find? (fun it => decide (it.idx = i) && decide (it.res = none))

/-- Change the open item of SQk at index i. -/
def modItem (s : State) (k i : Nat) (f : Item → Item) : State :=
  s.modRing k (fun r => { r with items := r.items.map (fun it => if it.idx = i ∧ it.res = none then f it else it) })

/-- Write zero bytes over output ranges (R109); errors of these writes are ignored (R115). DEDUCED (log entry 24). -/
def zeroOuts (s : State) (outs : List (Nat × Nat)) : State :=
  outs.foldl (fun s o => (hostWrite s o.1 (zeros o.2)).1) s

/-- Take an item's lane and DMA costs out of the backlogs (R76, R192). -/
def releaseCost (s : State) (it : Item) : State :=
  let s := if it.ch < 16 then s.modChan it.ch (fun c =>
      { c with backP := c.backP - it.cost.p, backG := c.backG - it.cost.g
               back0 := if it.core1 then c.back0 else c.back0 - it.cost.i
               back1 := if it.core1 then c.back1 - it.cost.i else c.back1 }) else s
  { s with part := { s.part with dmaRd := s.part.dmaRd - it.rd, dmaWr := s.part.dmaWr - it.wrd } }

/-- The result of an item becomes final (R112): its outputs are zeroized first where `zero` says so and it has any (R109).
DEDUCED (log entry 24). -/
def finish (s : State) (k i : Nat) (status : Nat) (result : Bytes) (zero : Bool) : State :=
  match findItem s k i with
  | none => s
  | some it =>
    let z := zero && decide (it.outs ≠ [])
    let s := if z then zeroOuts s it.outs else s
    modItem (releaseCost s it) k i (fun it => { it with
      res := some { status := status, zeroized := z, result := sub result 0 16 }, staged := false })

/-- The channel that an item was admitted by is fenced: its work is not resumed (R200). -/
def itemFenced (s : State) (it : Item) : Bool := decide (it.ch < 16) && (s.chan it.ch).fenced

/-- Run f on the open item of SQk at index i if it carries this opcode; without such an item the command finds no work. From the
Calends instant on, and once its channel is fenced, a work item of a channel is not finished any more (R81, R200). -/
def withItem (s : State) (k i op : Nat) (f : Item → State) : State :=
  match findItem s k i with
  | some it => if dOp it.desc = op ∧ ¬ (k < 48 ∧ (s.tick.due = true ∨ itemFenced s it = true)) then f it else s
  | none => s

/-- SQk has a head to take: both rings in force and the submission ring not halted (R94, R116). -/
def ringLive (s : State) (k : Nat) : Bool :=
  let q := s.ring k
  q.en && (s.ring (64 + k)).en && !q.halted && decide (0 < q.waiting)

/-- The head descriptor of SQk, read once (R97); none where the read fails and the ring halts (R115). -/
def fetchHead (s : State) (k : Nat) : State × Option Bytes :=
  let q := s.ring k
  match q.fetched with
  | some d => (s, some d)
  | none =>
    match hostRead s (q.base + 64 * q.head) 64 with
    | (s, .ok d) => (s.modRing k (fun q => { q with fetched := some d }), some d)
    | (s, _) => (s.modRing k (fun q => { q with halted := true, err := 2 }), none)

/-- The head of SQk leaves the ring as item `it`, with a completion entry reserved (R107). -/
def takeHead (s : State) (k : Nat) (it : Item) : State :=
  let it := { it with idx := (s.ring k).head, cal := s.count, seq := s.seq }
  (s.bump.modRing k (fun q => { q with
    head := (q.head + 1) % q.size, fetched := none, passed := false, stalled := false
    aborted := q.aborted.filter (fun i => decide (i ≠ q.head)), flush := q.flush - 1, items := q.items ++ [it] })).modRing (64 + k)
      (fun q => { q with reserved := q.reserved + 1 })

/-- NOP (R104). DESIGN CHOICE (log entry 31). -/
def nop (s : State) (k i : Nat) : State :=
  if s.halted then s else withItem s k i 0 (fun _ => finish s k i stOK [] false)

/-- Write the next completion of SQk in ring order (R106), once its result is final. -/
def completeNext (s : State) (k : Nat) : State :=
  if s.halted || s.wedged 5 then s else
  match (s.ring k).items with
  | [] => s
  | it :: rest =>
    match it.res with
    | none => s
    | some r =>
      let s := s.modRing k (fun q => { q with items := rest })
      if it.drop then unreserve s k
      else cqWrite s k r.status r.zeroized (dIrq it.desc) ((it.idx + 1) % (s.ring k).size) (dTag it.desc) it.cal k (dOp it.desc)
        r.result

/-- Events that wait take free entries, oldest first: the events, and how many entries they take (R107). -/
def grantList : Nat → List SrcEvt → List SrcEvt × Nat
  | _, [] => ([], 0)
  | n, e :: es =>
    if e.held then let r := grantList n es; (e :: r.1, r.2)
    else if n = 0 then (e :: es, 0)
    else let r := grantList (n - 1) es; ({ e with held := true } :: r.1, r.2 + 1)

/-- The events that wait on CQ number cq reserve the entries that are free (R107). -/
def grantEvents (s : State) (cq : Nat) : State :=
  s.modRing (64 + cq) (fun q =>
    let r := grantList q.free q.events
    { q with events := r.1, reserved := q.reserved + r.2 })

/-- An event waits for an entry: the flag of its source (R305, R412). -/
def noteWait (s : State) (source : Nat) : State :=
  if source = 0x80 ∨ source = 0x81 then s.evt 0x4080 10 else if source = 0x83 then s.evt 0x6008 2 else s

/-- Write the oldest event of CQ number cq once it holds an entry (R95, R106, R107). DEDUCED (log entry 139). -/
def writeEvent (s : State) (cq : Nat) : State :=
  if s.halted || s.wedged 5 then s else
  let s := grantEvents s cq
  match (s.ring (64 + cq)).events with
  | [] => s
  | e :: rest =>
    if e.held then
      cqWrite (s.modRing (64 + cq) (fun r => { r with events := rest })) cq e.status false false 0xFFFF e.tag e.cal e.source e.code
        e.result
    else noteWait s e.source

/-- Two events of one source, kind and subject. -/
def SrcEvt.same (a b : SrcEvt) : Bool := decide (a.source = b.source) && decide (a.code = b.code) && decide (a.key = b.key)

/-- An event of a source other than a ring falls due on CQ number cq: it reserves an entry, or waits for one; it is dropped where the
ring is disabled or halted (R90, R95, R106, R107, R115). DEDUCED (log entry 139). -/
def raiseEvent (s : State) (cq : Nat) (e : SrcEvt) : State :=
  let q := s.ring (64 + cq)
  if s.wedged 5 || !q.en || q.halted then (if e.held then unreserve s cq else s)
  else
    let s := grantEvents (s.modRing (64 + cq) (fun r => { r with events := r.events ++ [e] })) cq
    if (s.ring (64 + cq)).events.any (fun x => !x.held) then noteWait s e.source else s

/-- An event of which at most one may wait for an entry: a later one replaces it (R305, R412). -/
def raiseOnce (s : State) (cq : Nat) (e : SrcEvt) : State :=
  if (s.ring (64 + cq)).events.any (fun x => x.same e && !x.held) then
    s.modRing (64 + cq) (fun r => { r with events := r.events.map (fun x => if x.same e && !x.held then e else x) })
  else raiseEvent s cq e

/-- A write to the doorbell of ring r (R96, R98, R116, R537). -/
def doorbell (s : State) (r val : Nat) : State :=
  regWrite s (0x20000 + 64 * r) 15 false (fun s =>
  let q := s.ring r
  let i := val % 2 ^ 16
  if !q.en || q.halted then s
  else if i ≥ q.size then s.modRing r (fun q => { q with err := 1 })
  else if r < 64 then s.modRing r (fun q => { q with tail := i })
  else grantEvents (s.modRing r (fun q => { q with head := i })) (r - 64))

/-- A write to RING_CTL_r (R111, R113). DEDUCED (log entry 129). -/
def abortRequest (s : State) (r val : Nat) : State :=
  regWrite s (0x100C + 16 * r) 15 false (fun s =>
  let q := s.ring r
  if !bit val 31 || decide (r ≥ 64) || !q.en || q.halted || q.abortPend then s
  else s.modRing r (fun q => { q with abortPend := true, abortReq := some (bits val 15 0, bit val 16) }))

/-- Overwrite bytes of a descriptor in its ring entry with zeros (R164). -/
def scrubEntry (s : State) (k i off n : Nat) : State :=
  (hostWrite s ((s.ring k).base + 64 * i + off) (zeros n)).1

/-- The key or secret bytes of a vault descriptor that was read are overwritten in its ring entry (R164). -/
def scrubSecret (s : State) (k i : Nat) (d : Bytes) : State :=
  if k < 48 ∨ 56 ≤ k then s
  else if dOp d = 0x43 then scrubEntry s k i 0x20 32
  else if dOp d = 0x58 then scrubEntry s k i 0x10 32
  else s

/-- An immediate command ends (R153). -/
def endImmediate (s : State) : State := { s with vault := { s.vault with immediate := s.vault.immediate - 1 } }

/-- An item that a DMA error ends is no longer in progress in the vault (R153). -/
def leaveVault (s : State) (k : Nat) (it : Item) : State :=
  if 48 ≤ k ∧ k < 56 ∧ vaultImmediate (dOp it.desc) = true then endImmediate s else s

/-- The head of SQk completes without execution (R109, R110). DEDUCED (log entry 138). -/
def endHead (s : State) (k : Nat) (d : Bytes) (st : Nat) (result : Bytes) : State :=
  let i := (s.ring k).head
  finish (scrubSecret (takeHead s k { desc := d }) k i d) k i st result false

/-- The head waits for completion room: it is passed over until the next tick, and counted (R78, R107). DEDUCED (log entry 27). -/
def stallHead (s : State) (k : Nat) : State :=
  s.modRing k (fun q => { q with stalled := true, stall := satInc 16 q.stall })

/-- The ring is passed over until the next tick (R78). -/
def passRing (s : State) (k : Nat) : State := s.modRing k (fun q => { q with passed := true })

/-- The head was aborted before its admission (R112). DEDUCED (log entry 30). DEDUCED (log entry 138). -/
def headAborted (s : State) (k : Nat) : Bool := (s.ring k).aborted.contains (s.ring k).head

/-- ORDER holds the head back: an earlier descriptor of the ring is not complete (R102). DEDUCED (log entry 36). -/
def orderWaits (s : State) (k : Nat) (d : Bytes) : Bool := dOrder d && (s.ring k).items.any (fun it => decide (it.res = none))

/-- Run f on the head of SQk where it can be read and its completion ring has room; whether the turn is used.
DEDUCED (log entry 27). -/
def withHead (s : State) (k : Nat) (f : State → Bytes → State × Bool) : State × Bool :=
  if (s.ring k).stalled then (s, false)
  else match fetchHead s k with
  | (s, none) => (s, false)
  | (s, some d) => if (s.ring (64 + k)).free = 0 then (stallHead s k, false) else f s d

/-- Whether an admitted item of SQk can still be stopped: work items of channels, and in a vault ring everything that is neither
an immediate nor a fuse command (R112). -/
def stoppable (k : Nat) (it : Item) : Bool :=
  decide (k < 48) || (decide (k < 56) && !vaultImmediate (dOp it.desc) && decide (dOp it.desc ≠ 0x58))

/-- One index of an abort request decided (R112, R113): the new state and whether it was ABORTED. From the Calends instant on, a
staged change has its result and an incomplete item is ended by the commit. DEDUCED (log entry 121). -/
def abortOne (s : State) (k i : Nat) : State × Bool :=
  let q := s.ring k
  if q.waits i then
    (s.modRing k (fun q => { q with aborted := if q.aborted.contains i then q.aborted else q.aborted ++ [i] }), true)
  else match findItem s k i with
    | some it =>
      if stoppable k it && !s.tick.due then
        let s := scrubSecret s k i it.desc
        (finish s k i stAborted (plainResult s k it.desc stAborted) true, true)
      else (s, false)
    | none => (s, false)

/-- An index that is passed by doorbell and whose completion is not yet written (R113). -/
def outstanding (s : State) (k i : Nat) : Bool :=
  (s.ring k).waits i || (s.ring k).items.any (fun it => decide (it.idx = i))

/-- The commit arbiter of SQk decides the request that reached it (R112, R113); an alarm abandons it.
DEDUCED (log entry 129). -/
def abortDecide (s : State) (k : Nat) : State :=
  match (s.ring k).abortReq with
  | none => s
  | some (i, all) =>
    let done (s : State) (r : Nat) : State :=
      s.modRing k (fun q => { q with abortPend := false, abortReq := none, abortRes := r })
    if s.halted then s.modRing k (fun q => { q with abortPend := false, abortReq := none })
    else if !outstanding s k i then done s stAbortLate
    else
      let q := s.ring k
      let first := abortOne s k i
      let rest := if all then (List.range ((q.tail + q.size - i) % q.size)).drop 1 else []
      let s := rest.foldl (fun s n => (abortOne s k ((i + n) % q.size)).1) first.1
      done s (if first.2 then stAborted else stAbortLate)

/-- An error response to a descriptor read halts the ring (R115). -/
def descriptorError (s : State) (k : Nat) : State :=
  if (s.ring k).en then s.modRing k (fun q => { q with halted := true, err := 2 }) else s

/-- An error response to an item's input read, or poison (R115). -/
def inputError (s : State) (k i : Nat) (poison : Bool) : State :=
  match findItem s k i with
  | none => s
  | some it =>
    let st := if poison then stPoison else stMalformed
    finish (leaveVault s k it) k i st (plainResult s k it.desc st) true

/-- An error response to the next completion write of SQk halts both rings and discards the completion (R115). -/
def completionError (s : State) (k : Nat) : State :=
  match (s.ring k).items with
  | [] => s
  | it :: rest =>
    if it.res.isSome then
      let s := unreserve (s.modRing k (fun q => { q with items := rest, halted := true, err := 3 })) k
      s.modRing (64 + k) (fun q => { q with halted := true, err := 3 })
    else s

/-- SQ_DOORBELL. -/
def execSqDoorbell (k : Fin 64) (val : Word) (s : State) : Host.Outcome State Fault Refusal := .next (doorbell s k val.toNat)
/-- CQ_DOORBELL. -/
def execCqDoorbell (k : Fin 64) (val : Word) (s : State) : Host.Outcome State Fault Refusal :=
  .next (doorbell s (64 + k) val.toNat)
/-- RING_ABORT_REQUEST. -/
def execRingAbortRequest (k : Fin 128) (val : Word) (s : State) : Host.Outcome State Fault Refusal :=
  .next (abortRequest s k val.toNat)
/-- ABORT_DECISION. -/
def execAbortDecision (k : Fin 64) (s : State) : Host.Outcome State Fault Refusal := .next (abortDecide s k)
/-- COMPLETION_WRITE. -/
def execCompletionWrite (k : Fin 64) (s : State) : Host.Outcome State Fault Refusal := .next (completeNext s k)
/-- SOURCE_EVENT_WRITE. -/
def execSourceEventWrite (cq : Fin 64) (s : State) : Host.Outcome State Fault Refusal := .next (writeEvent s cq)
/-- NOP. -/
def execNop (k : Fin 64) (i : Nat) (s : State) : Host.Outcome State Fault Refusal := .next (nop s k i)

end Sys2Proof.Machine
end

