-- ==== Sys2Proof/Machine/Equinox.lean ====
section
/-! DEFINITION. The commits of KeyID, region and tree entries (R215 to R223, R246, R259, R265), and Equinox (R271 to R287). -/

namespace Sys2Proof.Machine

/-- The block is past the end of P1 (R216, R221). -/
def pastP1 (s : State) : Bool := decide (s.boot.phase ≥ 2)

/-- A reference names a LIVE or SPENT slot with a whole chain, at its generation where that is checked (R216). -/
def refUsable (s : State) (r : KeyRef) (gen : Bool) : Bool :=
  (decide ((s.slot r.slot).state = 1) || decide ((s.slot r.slot).state = 2)) && chainOk s r.slot
  && (!gen || decide ((s.slot r.slot).gen = r.gen))

/-- Domain, roles, ALG and OPS of a memory key (R216, R259). -/
def memKeyAttr (s : State) (r : KeyRef) (data : Bool) : Bool :=
  let x := s.slot r.slot
  decide (x.domain = 1) && bit x.roles 0 && (decide (x.alg = 1) || decide (x.alg = 2))
  && (if data then hasOp x.ops 0 && hasOp x.ops 1 else hasOp x.ops 2 && hasOp x.ops 3)

/-- Codes 3, 1 and 2 over a list of references: (reference, GEN checked, DATA key) (R216, R259, R272). -/
def refsCode (s : State) (l : List (KeyRef × Bool × Bool)) : Nat :=
  if l.any (fun x => x.2.1 && decide (x.1.gen = 0)) then 3
  else if l.any (fun x => !refUsable s x.1 x.2.1) then 1
  else if l.any (fun x => !memKeyAttr s x.1 x.2.2) then 2
  else 0

/-- The references of a KeyID entry that are checked. -/
def kidRefs (k : Nat) (e : KidEntry) : List (KeyRef × Bool × Bool) :=
  [(e.data, decide (k ≠ 0), true)] ++ (if e.tag.slot = 0 then [] else [(e.tag, true, false)])

/-- Commit one staged KeyID entry (R216). -/
def commitKid (s : State) (c : Nat × KidEntry) : State :=
  let (k, e) := c
  let code := if !e.en then 0
    else if !(if k = 0 then pastP1 s else s.vault.restored) then 4
    else refsCode s (kidRefs k e)
  if code = 0 then ({ s with mem := { s.mem with kids := tins s.mem.kids k e } }).putSt (0x3501C + 32 * k) 0
  else (s.putStf (0x3501C + 32 * k) 2 0 code).evt 0x13000 1

/-- Two half-open ranges overlap. -/
def overlaps (p q : Nat × Nat) : Bool := decide (p.1 < q.1 + q.2) && decide (q.1 < p.1 + p.2)

def Region.dataArea (r : Region) : Nat × Nat := (r.base * 2 ^ 20, r.size * 2 ^ 20)
def Region.tagArea (r : Region) : Nat × Nat := (r.tag * 2 ^ 17, r.size * 2 ^ 17)
def treeArea (s : State) (r : Region) : Nat × Nat := ((s.tree r.tree).base * 2 ^ 16, treeLen r.size * 65536)

/-- Enabled regions other than n. -/
def otherRegions (s : State) (n : Nat) : List Region :=
  ((tkeys s.mem.regions).filter (fun m => decide (m ≠ n) && (s.region m).en)).map s.region

/-- Tag, tree and Almanac areas other than those of region n. -/
def otherMeta (s : State) (n : Nat) : List (Nat × Nat) :=
  (otherRegions s n).flatMap (fun r => r.tagArea :: (if r.mode = 2 then [treeArea s r] else [])) ++ almAreas s ++ sleepArea s

/-- A change that initialises the region (R246). -/
def needsInit (old new : Region) : Bool :=
  new.en && (!old.en || decide (old.base ≠ new.base) || decide (old.size ≠ new.size) || decide (old.tag ≠ new.tag)
    || decide (old.mode ≠ new.mode) || decide (old.tree ≠ new.tree))

/-- The tree rules of a TREE-mode entry (R265). -/
def treeRefuses (s : State) (n : Nat) (r : Region) : Bool :=
  decide (r.mode = 2) &&
  (!(s.tree r.tree).en || (otherRegions s n).any (fun x => decide (x.mode = 2) && decide (x.tree = r.tree))
    || decide (r.size > 65536)
    || (let ta := treeArea s r
        (otherRegions s n).any (fun x => overlaps ta x.dataArea)
        || (otherMeta s n).any (overlaps ta)))

/-- The code of a staged region entry (R221); 0 where it commits. -/
def regionCode (s : State) (n : Nat) (r : Region) : Nat :=
  let old := s.region n
  let own := if r.mode = 2 ∧ (s.tree r.tree).en then [treeArea s r] else []
  let busy := ((jobOn s n).isSome && (needsInit old r || decide (old.en ≠ r.en)
      || decide (old.base ≠ r.base) || decide (old.size ≠ r.size) || decide (old.tag ≠ r.tag)
      || decide (old.mode ≠ r.mode) || decide (old.tree ≠ r.tree)))
  if !pastP1 s then 7
  else if !r.en then (if busy then 6 else 0)
  else if r.size = 0 ∨ r.size > 2 ^ 20 ∨ r.base + r.size > 2 ^ 20 ∨ r.tag + r.size > 2 ^ 23 then 1
  else if (otherRegions s n).any (fun x => overlaps r.dataArea x.dataArea) ∨ overlaps r.dataArea r.tagArea
      ∨ (own ++ otherMeta s n).any (overlaps r.dataArea) then 2
  else if (otherRegions s n).any (fun x => overlaps r.tagArea x.dataArea) ∨ (own ++ otherMeta s n).any (overlaps r.tagArea) then 3
  else if r.mode = 3 ∨ (r.mode ≠ 2 ∧ r.tree ≠ 0) ∨ (r.clsKid ≠ 0 ∧ (r.kidLo = 0 ∨ r.kidLo > r.kidHi)) then 4
  else if s.boot.eve ∧ (r.mode ≠ 0 ∨ r.clsKid ≠ 0) then 5
  else if busy ∨ treeRefuses s n r ∨ (needsInit old r ∧ s.mem.epoch ≥ 0xFFFFFF) then 6
  else 0

/-- The lines of an area that a channel's write-back buffer holds reach DRAM (R232). -/
def drainArea (s : State) (c : Nat) (q : Nat → Bool) : State :=
  let l := (s.mchan c).wb.filter (fun p => q p.1)
  let s := l.foldl (fun s p => dramPut s p.1 p.2) s
  s.modMchan c (fun m => { m with wb := m.wb.filter (fun p => !q p.1) })

/-- Mark every cached tag line of a region's old entry (R223); the dirty nodes of its tree, and what the write-back buffers hold of
both areas, reach DRAM and are dropped. -/
def markLines (s : State) (n : Nat) (old : Region) : State :=
  let ta := treeArea s old
  let tree : Option Nat := if old.mode = 2 then some old.tree else none
  (List.range 16).foldl (fun s c =>
    let m := s.mchan c
    let gone (x : TNode) : Bool := decide (tree = some x.tree)
    let s := drainArea s c (fun x => inArea x old.tagArea || (tree.isSome && inArea x ta))
    let s := (m.tc.filter (fun x => gone x && x.dirty)).foldl (fun s x => dramPut s x.addr x.data) s
    s.modMchan c (fun m => { m with tc := m.tc.filter (fun x => !gone x)
                                    cc := m.cc.map (fun l => if l.rgn = n then { l with marked := true, leaf := none } else l) })) s

/-- Set every root seal of a tree to 0 (R248, R262). -/
def clearRoots (s : State) (t : Nat) : State := (List.range 64).foldl (fun s h => setRoot s t h 0) s

/-- Initialise a region (R246 to R248). -/
def initRegion (s : State) (n : Nat) : State :=
  let e := s.mem.epoch
  let s := { s with mem := { s.mem with epoch := e + 1, ahead := s.mem.ahead.filter (fun p => decide (p.1 ≠ n))
                                        split := tdel s.mem.split n } }
  let s := s.modRegion n (fun r => { r with epoch := e, init := if r.mode = 2 then none else some 0, initCal := s.count
                                            locked := false, lost := false })
  if (s.region n).mode = 2 then clearRoots s (s.region n).tree else s

/-- Commit one staged region entry (R221 to R223). -/
def commitRegion (s : State) (c : Nat × Region) : State :=
  let (n, r) := c
  let code := regionCode s n r
  if code ≠ 0 then (s.putStf (0x34018 + 32 * n) 2 0 code).evt 0x13000 0
  else
    let old := s.region n
    let s := s.putStf (0x34018 + 32 * n) 2 0 0
    let moved := decide (old.base ≠ r.base) || decide (old.size ≠ r.size) || decide (old.tag ≠ r.tag) || decide (old.mode ≠ r.mode)
    let s := if old.en && (!r.en || moved || needsInit old r) then markLines s n old else s
    let s := s.modRegion n (fun x => { x with base := r.base, size := r.size, tag := r.tag, mode := r.mode, tree := r.tree
                                              kidLo := r.kidLo, kidHi := r.kidHi, clsBase := r.clsBase, clsKid := r.clsKid
                                              en := r.en, init := if r.en then x.init else none })
    if needsInit old r then initRegion s n else s

/-- Commit one staged tree entry (R259). -/
def commitTree (s : State) (c : Nat × TreeEntry) : State :=
  let (t, e) := c
  let used := decide (∃ n ∈ tkeys s.mem.regions, (s.region n).en = true ∧ (s.region n).mode = 2 ∧ (s.region n).tree = t)
  let code := if e.en ∧ (!s.vault.restored ∨ s.boot.eve) then 4
    else
      let k := if e.en then refsCode s [(e.key, true, false)] else 0
      if k ≠ 0 then k else if used then 5 else 0
  if code = 0 then ({ s with mem := { s.mem with trees := tins s.mem.trees t e } }).putStf (0x37214 + 32 * t) 2 0 0
  else s.putStf (0x37214 + 32 * t) 2 0 code

/-- Step 3 of R82: KeyID entries, then region entries, then tree entries, each in the order of their STAGE writes. Transactions in
flight first complete under the entries they bound (R222). DESIGN CHOICE (log entry 154). -/
def commitMemTables (s : State) : State :=
  let m := s.mem
  let s := if m.stRgn = [] ∧ m.stTree = [] then s else settleAll s
  let s := { s with mem := { s.mem with stKid := [], stRgn := [], stTree := [] } }
  m.stTree.foldl commitTree (m.stRgn.foldl commitRegion (m.stKid.foldl commitKid s))

/-! ### Equinox -/

/-- The references a job start checks (R272). -/
def jobRefs (h : Job) (refresh : Bool) (nt : KeyRef) : List (KeyRef × Bool × Bool) :=
  if h.kind = 0 then (if refresh then [] else [(h.nd, true, true)] ++ (if nt.slot = 0 then [] else [(nt, true, false)]))
  else if h.newTKey then [(h.nd, true, false)] else []

/-- The code of a job start (R272). The holding copy keeps REFRESH in `failNew`, the new TAG reference in `oldT`, and in
`state` whether a job ran in the slot when STAGE was written (R284). -/
def jobCode (s : State) (j : Nat) (h : Job) : Nat :=
  let r := s.region h.region
  let e := s.kid h.keyid
  if s.boot.eve ∨ !s.vault.restored then 4
  else if (s.job j).state = 1 ∨ h.state = 1 ∨ (jobOn s h.region).isSome ∨ r.init.isSome ∨ s.mem.epoch ≥ 0xFFFFFF
      ∨ (h.kind = 0 ∧ (tkeys s.mem.split).contains h.region) then 5
  else if !r.en ∨ h.kind ≥ 2
      ∨ (h.kind = 0 ∧ (if h.keyid = 0 then !h.failNew else decide (h.keyid < r.kidLo) || decide (r.kidHi < h.keyid)))
      ∨ (h.kind = 1 ∧ h.newTKey ∧ r.mode ≠ 2) then 6
  else if h.kind = 0 ∧ (!e.en ∨ (r.mode ≠ 0 ∧ e.tag.slot = 0)) then 7
  else refsCode s (jobRefs h h.failNew h.oldT)

/-- Commit one staged job start (R272, R273, R284). -/
def commitJob (s : State) (c : Nat × Job) : State :=
  let (j, h) := c
  let code := jobCode s j h
  if code ≠ 0 then (s.modJob j (fun x => { x with err := code })).evt 0x13010 2
  else if h.kind = 0 then
    let e := s.kid h.keyid
    let old := (s.region h.region).epoch
    let s := if h.failNew then s
             else { s with mem := { s.mem with kids := tins s.mem.kids h.keyid { e with data := h.nd, tag := h.oldT } } }
    let n := s.mem.epoch
    let s := { s with mem := { s.mem with epoch := n + 1 } }
    (s.modRegion h.region (fun r => { r with epoch := n })).modJob j (fun _ =>
      { state := 1, region := h.region, kind := 0, keyid := h.keyid, oldD := e.data, oldT := e.tag, oldEpoch := old })
  else
    s.modJob j (fun _ => { state := 1, region := h.region, kind := 1, keyid := h.keyid, scrub := h.scrub
                           newTKey := h.newTKey, nd := h.nd })

/-- Units of a job's running phase: groups of the region, or sets of eight tree lines (R282). -/
def jobTotal (s : State) (j : Nat) : Nat :=
  let r := s.region (s.job j).region
  if (s.job j).phase = 0 then r.size * 2 ^ 11 else treeLen r.size * 128

/-- The end of a REBUILD (R283). -/
def rebuildEnd (s : State) (j : Nat) : State :=
  let jb := s.job j
  let r := s.region jb.region
  let ta := treeArea s r
  let s := dropMeta s (fun x => inArea x r.tagArea || (decide (r.mode = 2) && inArea x ta))
  let s := if jb.newTKey then
      { s with mem := { s.mem with trees := tins s.mem.trees r.tree { s.tree r.tree with key := jb.nd } } } else s
  ((initRegion s jb.region).modJob j (fun x => { x with state := 2, conv := [], carry := 0 })).evt 0x13010 0

/-- The lowest unit at or above b that a job has not done, over f units. -/
def firstOpen (conv : List Nat) : Nat → Nat → Nat
  | 0, b => b
  | f + 1, b => if conv.contains b then firstOpen conv f (b + 1) else b

/-- A job at the Calends (R278, R281, R284): failure, an incomplete span, the boundary move, the end. -/
def jobCalends (s : State) (j : Nat) : State :=
  let jb := s.job j
  if jb.state ≠ 1 then s
  else match jb.failing with
  | some new =>
    let s := (s.modJob j (fun x => { x with state := 3, failNew := new, failing := none, tried := [] })).evt 0x13010 1
    { s with mem := { s.mem with split := tins s.mem.split jb.region (s.job j) } }
  | none =>
    let total := jobTotal s j
    let b := firstOpen jb.conv (jb.conv.length + 1) jb.bound
    let span := min jb.quota (total - jb.bound)
    let s := if b < jb.bound + span then
        (s.modJob j (fun x => { x with short := satInc 16 x.short })).evt 0x13010 3 else s
    let conv := jb.conv.filter (fun u => decide (u ≥ b))
    let s := s.modJob j (fun x => { x with bound := b, conv := conv, carry := conv.length, tried := [] })
    if b < total then s
    else if jb.kind = 0 then
      ((s.modJob j (fun x => { x with state := 2 })).modRegion jb.region (fun r => { r with locked := false })).evt 0x13010 0
    else if jb.phase = 0 ∧ (s.region jb.region).mode = 2 then
      s.modJob j (fun x => { x with phase := 1, bound := 0, conv := [], carry := 0 })
    else rebuildEnd s j

/-- Step 4 of R82: boundary moves and ends of running jobs, then staged starts. Transactions in flight first complete under what they
bound. DESIGN CHOICE (log entry 154). -/
def commitEquinox (s : State) : State :=
  let st := s.mem.stJob
  let s := if st = [] ∧ (List.range 4).all (fun j => decide ((s.job j).state ≠ 1)) then s else settleAll s
  let s := (List.range 4).foldl jobCalends { s with mem := { s.mem with stJob := [] } }
  st.foldl commitJob s

/-- EQX_RATE_j in force, clamped (R285). -/
def jobRate (s : State) (j : Nat) : Nat := min 8000 (s.fc (0x13404 + 32 * j))

/-- The quotas of the coming tick (R274). DEDUCED (log entry 64). -/
def setQuotas (s : State) : State :=
  let total := ((List.range 4).map (fun j => if (s.job j).state = 1 then jobRate s j else 0)).sum
  (List.range 4).foldl (fun s j => s.modJob j (fun x =>
    { x with quota := if x.state = 1 then jobRate s j * s.fcf 0x100 15 0 * 8000 / (8192 * max 8000 total) else 0 })) s

/-- A unit cannot be started now: for a REKEY, a transaction in flight on its group completes first (R277), or the channel it goes to
is not in service. DEDUCED (log entry 62). -/
def unitBlocked (s : State) (jb : Job) (u : Nat) : Bool :=
  let a := (s.region jb.region).base * 2 ^ 20 + 512 * u
  decide (jb.kind = 0) && (!memServed s (s.steerOf a) || s.mem.inflight.any (fun t => decide (t.addr / 512 = a / 512)))

/-- The next unit of a job's span to start, while admission is open: the lowest that is not done, not tried in vain in this tick and
not blocked (R275, R278). DEDUCED (log entry 62). -/
def nextUnit (s : State) (j : Nat) : Option Nat :=
  let jb := s.job j
  if jb.state = 1 ∧ jb.failing = none ∧ !s.tick.closed ∧ !s.halted then
    (List.range (min jb.quota (jobTotal s j - jb.bound))).map (jb.bound + ·) |>.find? (fun u =>
      !jb.conv.contains u && !jb.tried.contains u && !unitBlocked s jb u)
  else none

/-- A unit of a job is done. DEDUCED (log entry 62). -/
def unitDone (s : State) (j u : Nat) : State := s.modJob j (fun x => { x with conv := u :: x.conv, units := x.units + 1 })

/-- The DATA and TAG keys of one set of a job in a channel; none where a use is refused (R281). -/
def jobKeys (s : State) (ch kid mode : Nat) (d t : KeyRef) : State × Option (Bytes × Bytes) :=
  match memKey s ch d true with
  | (s, none) => (keyFailed s kid true none, none)
  | (s, some dk) =>
    if mode = 0 then (s, some (dk, [])) else
    match memKey s ch t false with
    | (s, none) => (keyFailed s kid false none, none)
    | (s, some tk) => (s, some (dk, tk))

/-- One line of a group under conversion: a WRITTEN line is verified and re-encrypted; one that fails, or whose read returns an
uncorrectable error, is not, and in NATIVE and TREE modes becomes POISONED (R276). DEDUCED (log entry 163). -/
def convertLine (old new : Txn) (mj a : Nat) (b : Bytes) (p : State × Bytes) (i : Nat) : State × Bytes :=
  let (s, nb) := p
  let la := a + 64 * i
  if lineState old.reg.mode b i ≠ .written then p
  else
    let o := openLine old b i la (dramGet s la 64)
    if s.dm la = 2 ∨ !o.2 then
      (if s.dm la = 2 then s else tagFailed s, if old.reg.mode = 0 then nb else overlay nb (9 + 7 * i) tagPoison)
    else
      let c := closeLine new mj 1 la o.1
      (dramPut s la c.1, tlSet nb i 1 c.2)

/-- Convert one group with both sets of keys at hand (R275 to R277). -/
def convertWith (s : State) (j u : Nat) (old new : Txn) : State :=
  match loadTag s old.fetch old.epoch with
  | (s, .sealFail _) => (tagFailed s).modJob j (fun x => { x with tried := u :: x.tried })
  | (s, .lostPath) => unitDone s j u
  | (s, .line b) =>
    if tlMajor b = majorLost then unitDone s j u
    else
      let mj := new.epoch * 2 ^ 40
      let p := (List.range 8).foldl (convertLine old new mj old.addr b) (s, tlSetMajor b mj)
      unitDone (storeTag p.1 old.ch (old.addr / 512) p.2) j u

/-- Convert one group under a REKEY (R275 to R278, R281). DEDUCED (log entry 62). -/
def convertGroup (s : State) (j : Nat) : State :=
  match nextUnit s j with
  | none => s
  | some u =>
    let jb := s.job j
    let r := s.region jb.region
    let a := r.base * 2 ^ 20 + 512 * u
    let ch := s.steerOf a
    if jb.kind ≠ 0 then s
    else
      let e := s.kid jb.keyid
      let failed (s : State) (new : Bool) : State := s.modJob j (fun x => { x with failing := some new })
      match jobKeys s ch jb.keyid r.mode jb.oldD jb.oldT with
      | (s, none) => failed s false
      | (s, some (od, ot)) =>
        match jobKeys s ch jb.keyid r.mode e.data e.tag with
        | (s, none) => failed s true
        | (s, some (nd, nt)) =>
          let old : Txn := { addr := a, kid := jb.keyid, rgn := jb.region, reg := r, ch := ch, epoch := jb.oldEpoch, dkey := od, tkey := ot }
          if r.mode ≠ 2 then convertWith s j u old { old with epoch := r.epoch, dkey := nd, tkey := nt }
          else match memKey s ch (s.tree r.tree).key false with
            | (s, none) => s.modJob j (fun x => { x with tried := u :: x.tried })
            | (s, some sk) =>
              let old := { old with skey := sk }
              convertWith s j u old { old with epoch := r.epoch, dkey := nd, tkey := nt }

/-- Write one unit of a REBUILD (R282). -/
def rebuildWrite (s : State) (j : Nat) : State :=
  match nextUnit s j with
  | none => s
  | some u =>
    let jb := s.job j
    let r := s.region jb.region
    if jb.kind ≠ 1 then s
    else if jb.phase = 0 then
      let a := r.tag * 2 ^ 17 + 64 * u
      let s := dramPut (dropMeta s (fun x => decide (x = a))) a (zeros 64)
      unitDone (if jb.scrub then dramPut s (r.base * 2 ^ 20 + 512 * u) (zeros 512) else s) j u
    else
      let a := (s.tree r.tree).base * 2 ^ 16 + 512 * u
      unitDone (dramPut (dropMeta s (fun x => inArea x (a, 512))) a (zeros 512)) j u

/-- EQX_GROUP_CONVERT. -/
def execEqxGroupConvert (j : Fin 4) (ret : DramReturn) (s : State) : Host.Outcome State Fault Refusal := .next (if portDead s then s else convertGroup (noteDram s ret) j)
/-- EQX_REBUILD_WRITE. -/
def execEqxRebuildWrite (j : Fin 4) (s : State) : Host.Outcome State Fault Refusal := .next (rebuildWrite s j)

/-! ### STAGE writes -/

/-- The region holding copy as the registers hold it (R222, R235). -/
def holdRegion (s : State) (n : Nat) : Region :=
  let w (o : Nat) : Nat := s.wr (0x10000 + 32 * n + o)
  { base := w 0, size := w 4, tag := w 8, mode := bits (w 12) 1 0, tree := bits (w 12) 7 4, kidLo := bits (w 12) 15 8
    kidHi := bits (w 12) 23 16, clsBase := bits (w 16) 15 0, clsKid := bits (w 16) 31 16, en := bit (w 20) 0 }

/-- The KeyID holding copy (R236). -/
def holdKid (s : State) (k : Nat) : KidEntry :=
  let w (o : Nat) : Nat := s.wr (0x11000 + 32 * k + o)
  { data := { slot := w 0, gen := w 4 + 2 ^ 32 * w 8 }, tag := { slot := w 12, gen := w 16 + 2 ^ 32 * w 20 }, en := bit (w 24) 0 }

/-- The tree holding copy (R269). -/
def holdTree (s : State) (t : Nat) : TreeEntry :=
  let w (o : Nat) : Nat := s.wr (0x13100 + 32 * t + o)
  { base := w 0, key := { slot := w 4, gen := w 8 + 2 ^ 32 * w 12 }, en := bit (w 16) 0 }

/-- The job holding copy (R285); REFRESH stands in `failNew`, the new TAG reference in `oldT`. -/
def holdJob (s : State) (j : Nat) : Job :=
  let w (o : Nat) : Nat := s.wr (0x13400 + 32 * j + o)
  { region := bits (w 0) 5 0, kind := bits (w 0) 7 6, failNew := bit (w 0) 8, scrub := bit (w 0) 9, newTKey := bit (w 0) 10
    keyid := bits (w 0) 23 16, nd := { slot := w 8, gen := w 12 + 2 ^ 32 * w 16 }, oldT := { slot := w 20, gen := w 24 + 2 ^ 32 * w 28 } }

/-- Stage an entry: a later STAGE of the same entry in one tick replaces the earlier (R222). -/
def restage {α : Type} (l : List (Nat × α)) (n : Nat) (x : α) : List (Nat × α) := l.filter (fun p => decide (p.1 ≠ n)) ++ [(n, x)]

/-- RGN_CTL_n written (R222); before the end of P1 its STAGE is refused (R233). -/
def rgnCtl (s : State) (n val : Nat) : State :=
  let s := s.putWr (0x10014 + 32 * n) (val % 2)
  if !bit val 31 then s
  else if !pastP1 s then (s.putStf (0x34018 + 32 * n) 2 0 7).evt 0x13000 0
  else { s with mem := { s.mem with stRgn := restage s.mem.stRgn n (holdRegion s n) } }

/-- KID_CTL_k written (R216, R222); EN of entry 0 reads 1. -/
def kidCtl (s : State) (k val : Nat) : State :=
  let s := if k = 0 then s else s.putWr (0x11018 + 32 * k) (val % 2)
  if !bit val 31 then s
  else if !pastP1 s then (s.putStf (0x3501C + 32 * k) 2 0 4).evt 0x13000 1
  else { s with mem := { s.mem with stKid := restage s.mem.stKid k (holdKid s k) } }

/-- TREE_CTL_t written (R259). -/
def treeCtl (s : State) (t val : Nat) : State :=
  let s := s.putWr (0x13110 + 32 * t) (val % 2)
  if !bit val 31 then s
  else if !pastP1 s then s.putStf (0x37214 + 32 * t) 2 0 4
  else { s with mem := { s.mem with stTree := restage s.mem.stTree t (holdTree s t) } }

/-- EQX_CTL_j written (R272). -/
def eqxCtl (s : State) (j val : Nat) : State :=
  let s := s.putWr (0x13400 + 32 * j) (val &&& 0xFF07FF)
  if !bit val 31 then s
  else if !pastP1 s then (s.modJob j (fun x => { x with err := 4 })).evt 0x13010 2
  else { s with mem := { s.mem with stJob := restage s.mem.stJob j { holdJob s j with state := (s.job j).state } } }

end Sys2Proof.Machine
end

