-- ==== Sys2Proof/Machine/Link.lean ====
section
/-! DEFINITION. Backhaul link security and path failover (R288 to R323): SA tables, MACsec frames, heartbeats, paths. -/

namespace Sys2Proof.Machine

/-- The block carries no frames: reset, sleep, alarm, power fail, stopped start-up (R537). -/
def linkDead (s : State) : Bool :=
  s.boot.inReset || s.boot.asleep || s.boot.alarm || s.boot.lockout || s.boot.stopped || s.boot.pfail || s.boot.entering

/-! ### Binding of channels to paths (R25, R310) -/

/-- The channel in service for a path direction. -/
def linkServer (s : State) (p : Nat) (tx : Bool) : Option Nat :=
  (linkChan s p tx).bind (fun n => if (s.chan n).fenced then s.serverOf n else some n)

/-- LINK channels in service cover both directions of the path (R310). -/
def pathServed (s : State) (p : Nat) : Bool := (linkServer s p true).isSome && (linkServer s p false).isSome

/-! ### Events (R305) -/

/-- Raise a link event as a completion to the third ring of the rings that serve a path direction. -/
def linkEvent (s : State) (p : Nat) (tx : Bool) (code status key : Nat) (result : Bytes) : State :=
  match linkChan s p tx with
  | none => s
  | some n => raiseOnce s (3 * n + 2)
      { source := 0x80 + p, code := code, status := status, key := key, cal := s.count, result := result }

/-- An event of an entry; key 0 to 767 a receive entry, 1024 on a transmit entry. -/
def saEvent (s : State) (p : Nat) (tx : Bool) (e code status flag : Nat) : State :=
  (linkEvent s p tx code status ((if tx then 1024 else 0) + e) (saResult (s.sae p tx e))).evt 0x4080 flag

/-- An event of a path: code, and the flag of path A. -/
def pathEvent (s : State) (p code flag : Nat) : State :=
  (linkEvent s p true code 0 0 (zeros 13 ++ [0xff#8, 0xff#8, 0#8])).evt 0x4080 (flag + p)

/-! ### SA entries (R294 to R302, R308) -/

/-- An XPN suite. -/
def xpn (suite : Nat) : Bool := decide (suite = 3) || decide (suite = 4)

/-- The key of an entry. -/
def SaEntry.key (e : SaEntry) : Bytes := bxor e.share1 e.share2

/-- Return an entry to FREE and unbind its AN (R302, R308). -/
def retireEntry (s : State) (p : Nat) (tx : Bool) (e : Nat) : State :=
  let b := (s.sae p tx e).bound
  let s := match b with
    | some (sc, an) =>
      if tx then s.modSecy p sc (fun y => { y with ans := y.ans.set an none, enc := if y.enc = some an then none else y.enc })
      else s.modRxsc p sc (fun y => { y with ans := y.ans.set an none })
    | none => s
  s.modSae p tx e (fun _ => {})

/-- Retire every entry bound to an SC. -/
def retireSc (s : State) (p : Nat) (tx : Bool) (ans : List (Option Nat)) : State :=
  ans.foldl (fun s a => match a with | some e => retireEntry s p tx e | none => s) s

/-- An entry becomes DEAD: its copy is zeroized, its AN stays bound, an OVERLAP that names it runs on (R295, R308). -/
def killEntry (s : State) (p : Nat) (tx : Bool) (e status : Nat) : State :=
  saEvent (s.modSae p tx e (fun x =>
    { state := 5, suite := x.suite, bound := x.bound, frames := x.frames, pn := x.pn, slot := x.slot, gen := x.gen, epoch := x.epoch
      retireAt := x.retireAt })) p tx e 3 status 8

/-- The attributes R295 asks of the key of an entry. -/
def saPermit (n suite : Nat) (tx : Bool) (x : Slot) : Bool :=
  decide (x.domain = 2) && decide (x.alg = if suite % 2 = 1 then 1 else 2)
  && (if tx then hasOp x.ops 0 && hasOp x.ops 2 else hasOp x.ops 1 && hasOp x.ops 3) && masksAdmit x 2 n

/-- One entry that is not FREE is revalidated where its epoch is stale: slot, GEN and ancestors (R139, R295). -/
def revalOne (p : Nat) (tx : Bool) (s : State) (e : Nat) : State :=
  let x := s.sae p tx e
  if x.state = 0 ∨ x.epoch = s.vault.epoch then s
  else
    let s := s.modSae p tx e (fun x => { x with epoch := s.vault.epoch })
    if keyCheck s [({ slot := x.slot, gen := x.gen }, fun _ => true)] = stOK then s
    else killEntry (s.inc 0x3200C 31 16) p tx e stOrphan

/-- Revalidate every entry of a path over the key bus, transmit entries first, in ascending order (R295). -/
def revalidate (s : State) (p : Nat) : State :=
  if linkDead s then s else
  let s := (tkeys (s.path p).txe).foldl (revalOne p true) s
  (tkeys (s.path p).rxe).foldl (revalOne p false) s

/-- At a takeover the entries of a direction that are not FREE are checked against the spare's number (R295). -/
def takeoverSas (s : State) (p : Nat) (tx : Bool) (n : Nat) : State :=
  (tkeys (if tx then (s.path p).txe else (s.path p).rxe)).foldl (fun s e =>
    let x := s.sae p tx e
    if x.state = 0 ∨ masksAdmit (s.slot x.slot) 2 n = true then s
    else killEntry s p tx e stAttr) s

/-- End of an OVERLAP: the entries it names that are not FREE retire (R301, R308). -/
def overlapEnd (s : State) (p : Nat) : State :=
  if linkDead s then s else
  (tkeys (s.path p).rxe).foldl (fun s e =>
    match (s.sae p false e).retireAt with
    | some c => if c ≤ s.count then retireEntry s p false e else s
    | none => s) s

/-! ### Descriptor bodies (R296 to R302) -/

/-- Reserved bytes of a LINK body; `tx` is the direction of the channel. -/
def linkRsvd (op : Nat) (tx : Bool) (d : Bytes) : Bool :=
  if op = 0x10 then rsvdZero d [(0x0E, 2), (0x18, 40)] [(0x08, 0xE0), (0x09, 0xC0), (0x0D, 0xF0)]
  else if op = 0x11 then rsvdZero d [(0x18, 40)] [(0x08, 0x80), (0x09, 0xF0)]
  else if op = 0x12 then
    rsvdZero d [(0x0B, 1), (0x2C, 20)] [(0x09, 0xFC), (0x11, 0xF0)]
    && (xpn (leAt d 0x0A 1) || rsvdZero d [(0x0C, 4), (0x1C, 4), (0x20, 12)] [])
  else if op = 0x13 then rsvdZero d [(0x0E, 50)] [(0x09, 0xFC)] && (!tx || rsvdZero d [(0x0C, 2)] [])
  else if op = 0x14 then rsvdZero d [(0x0A, 54)] [(0x09, 0xFC)]
  else if op = 0x15 then rsvdZero d [(0x0A, 6), (0x18, 40)] []
  else rsvdZero d [(0x0A, 54)] []

/-- Direction and values of a LINK body for a channel that serves one direction. DEDUCED (log entry 66). -/
def linkBody (op : Nat) (tx : Bool) (d : Bytes) : Bool :=
  let off := leAt d 0x0A 1
  let suite := leAt d 0x0B 1
  let offOk := decide (off = 0) || decide (off = 30) || decide (off = 50)
  let suiteOk (x : Nat) := decide (1 ≤ x) && decide (x ≤ 4)
  let entryOk (o : Nat) := decide (leAt d o 2 < if tx then 256 else 768)
  let scOk := decide (leAt d 8 1 < if tx then 32 else 128)
  let ctl := leAt d 9 1
  if op = 0x10 then tx && offOk && suiteOk suite && !(bit ctl 2 && (bit ctl 3 || bit ctl 4)) && (decide (off = 0) || bit ctl 5)
  else if op = 0x11 then !tx && offOk && suiteOk suite && decide (bits ctl 2 1 ≠ 3)
    && (!xpn suite || decide (leAt d 0x0C 4 ≤ 2 ^ 30))
  else if op = 0x12 then entryOk 8 && suiteOk off && decide (leAt d 0x18 8 ≠ 0)
  else if op = 0x13 then scOk && entryOk 0x0A
  else if op = 0x14 then scOk
  else if op = 0x15 then !tx && entryOk 8
  else if op = 0x16 then entryOk 8
  else false

/-! ### Commit of the staged descriptors (R82 step 5, R297 to R304) -/

/-- Stage a LINK descriptor for the coming commit, in its place by admission (R82). -/
def stageLink (s : State) (k i op : Nat) : State :=
  if s.halted then s else withItem s k i op (fun it =>
    match ringBinding s (ringChan k) with
    | none => s
    | some (p, tx) =>
      let s := modItem s k i (fun it => { it with staged := true })
      let l := s.link.staged.filter (fun c => !(decide (c.ring = k) && decide (c.idx = i)))
      { s with link := { s.link with staged := l.takeWhile (fun c => decide (c.seq < it.seq))
          ++ { ring := k, idx := i, seq := it.seq, path := p, tx := tx } :: l.dropWhile (fun c => decide (c.seq < it.seq)) } })

/-- TXSC_SET (R298). -/
def commitTxsc (s : State) (p : Nat) (d : Bytes) : State × Nat :=
  let n := leAt d 8 1
  let y := s.secy p n
  let ctl := leAt d 9 1
  if y.ans.any (·.isSome) ∧ y.suite ≠ leAt d 0x0B 1 then (s, stLocked)
  else
    let s := if bit ctl 0 then s else retireSc s p true y.ans
    (s.modSecy p n (fun y => { y with
      en := bit ctl 0, vmatch := bit ctl 1, sciTx := bit ctl 2, es := bit ctl 3, scb := bit ctl 4, encrypt := bit ctl 5
      offset := leAt d 0x0A 1, suite := leAt d 0x0B 1, vid := leAt d 0x0C 2, sci := sub d 0x10 8 }), stOK)

/-- RXSC_SET (R299). -/
def commitRxsc (s : State) (p : Nat) (d : Bytes) : State × Nat :=
  let n := leAt d 8 1
  let y := s.rxsc p n
  let ctl := leAt d 9 1
  if (tkeys (s.path p).rxscs).any (fun m => decide (m ≠ n) && (s.rxsc p m).en && decide ((s.rxsc p m).sci = sub d 0x10 8)) then
    (s, stLocked)
  else if y.ans.any (·.isSome) ∧ y.suite ≠ leAt d 0x0B 1 then (s, stLocked)
  else
    let s := if bit ctl 0 then s else retireSc s p false y.ans
    (s.modRxsc p n (fun y => { y with
      en := bit ctl 0, validate := bits ctl 2 1, replay := bit ctl 3, offset := leAt d 0x0A 1, suite := leAt d 0x0B 1
      window := leAt d 0x0C 4, sci := sub d 0x10 8 }), stOK)

/-- SA_INSTALL under the key reference bound at its admission: KEY_ORPHAN before ATTR_DENY (R136, R300, R304). DEDUCED (log entry 35). -/
def commitInstall (s : State) (p : Nat) (tx : Bool) (r : KeyRef) (d : Bytes) : State × Nat :=
  let e := leAt d 8 2
  let suite := leAt d 0x0A 1
  let st := keyCheck s [(r, fun _ => true)]
  if st ≠ stOK then (s, st)
  else if saPermit ((linkServer s p tx).getD 16) suite tx (s.slot r.slot) = false then (s, stAttr)
  else if (s.sae p tx e).state ≠ 0 then (s, stLocked)
  else
    let x := s.slot r.slot
    let m := s.draw x.share1.length
    ((s.modSae p tx e (fun _ =>
      { state := 1, suite := suite, ssci := if xpn suite then sub d 0x0C 4 else []
        salt := if xpn suite then sub d 0x20 12 else [], pn := leAt d 0x18 8, slot := r.slot, gen := r.gen
        epoch := s.vault.epoch, share1 := bxor x.share1 m, share2 := bxor x.share2 m, h := aesEnc x.key (zeros 16) })).drew
      x.share1.length, stOK)

/-- SA_ACTIVATE; an entry that an earlier OVERLAP retires sooner keeps that Calends (R301). DEDUCED (log entry 67). -/
def commitActivate (s : State) (p : Nat) (tx : Bool) (d : Bytes) : State × Nat :=
  let sc := leAt d 8 1
  let an := leAt d 9 1 % 4
  let e := leAt d 0x0A 2
  let x := s.sae p tx e
  let en := if tx then (s.secy p sc).en else (s.rxsc p sc).en
  let suite := if tx then (s.secy p sc).suite else (s.rxsc p sc).suite
  let ans := if tx then (s.secy p sc).ans else (s.rxsc p sc).ans
  let mine := decide (x.bound = some (sc, an)) && (decide (x.state = 2) || decide (x.state = 3))
  let other := match ans.getD an none with | some e' => decide (e' ≠ e) | none => false
  if !en || !(decide (x.state = 1) || mine) || decide (x.suite ≠ suite) || other then (s, stLocked)
  else
    let s := s.modSae p tx e (fun x => { x with state := 3, bound := some (sc, an), retireAt := none })
    if tx then
      let old := (s.secy p sc).enc
      let s := match old with
        | some a => if a = an then s else match ((s.secy p sc).ans.getD a none) with
          | some e' => s.modSae p true e' (fun x => { x with state := if x.state = 3 then 2 else x.state })
          | none => s
        | none => s
      (s.modSecy p sc (fun y => { y with ans := y.ans.set an (some e), enc := some an }), stOK)
    else
      let s := s.modRxsc p sc (fun y => { y with ans := y.ans.set an (some e) })
      let n := leAt d 0x0C 2
      if n = 0 then (s, stOK)
      else (((s.rxsc p sc).ans.foldl (fun s a => match a with
        | some e' => if e' ≠ e ∧ (s.sae p false e').state = 3 then
            s.modSae p false e' (fun x => { x with retireAt := some (min (s.count + 1 + n) (x.retireAt.getD (s.count + 1 + n))) }) else s
        | none => s) s), stOK)

/-- Commit one staged descriptor: its status, and the entry its RESULT describes. DEDUCED (log entry 67). -/
def commitLinkOne (s : State) (c : LinkChange) (r : KeyRef) (d : Bytes) : State × Nat × SaEntry :=
  let op := dOp d
  let p := c.path
  let tx := c.tx
  if op = 0x10 then let r := commitTxsc s p d; (r.1, r.2, {})
  else if op = 0x11 then let r := commitRxsc s p d; (r.1, r.2, {})
  else if op = 0x12 then let r := commitInstall s p tx r d; (r.1, r.2, r.1.sae p tx (leAt d 8 2))
  else if op = 0x13 then let r := commitActivate s p tx d; (r.1, r.2, r.1.sae p tx (leAt d 0x0A 2))
  else if op = 0x14 then
    match s.boundEntry p tx (leAt d 8 1) (leAt d 9 1 % 4) with
    | some e => let s := retireEntry s p tx e; (s, stOK, s.sae p tx e)
    | none => (s, stOK, {})
  else
    let e := leAt d 8 2
    let s := if (s.sae p tx e).state = 0 then s else s.modSae p tx e (fun x => { x with pn := max x.pn (leAt d 0x10 8) })
    (s, stOK, s.sae p tx e)

/-- The staged SA changes of a path, in order of admission (R82 step 5). -/
def commitLinkPath (s : State) (p : Nat) : State :=
  (s.link.staged.filter (fun c => decide (c.path = p))).foldl (fun s c =>
    match findItem s c.ring c.idx with
    | some it =>
      if it.seq = c.seq then
        let r := commitLinkOne s c (it.keys.headD {}) it.desc
        finish r.1 c.ring c.idx r.2.1 (linkResult (dOp it.desc) r.2.2) false
      else s
    | none => s) s

/-- SA_READ (R303). DEDUCED (log entry 66). -/
def saReadItem (s : State) (k i : Nat) : State :=
  if s.halted then s else withItem s k i 0x16 (fun it =>
    match ringBinding s (ringChan k) with
    | none => s
    | some (p, tx) => finish s k i stOK (saResult (s.sae p tx (leAt it.desc 8 2))) false)

/-! ### Securing and validating frames (R290 to R293, R306) -/

/-- EtherType of a frame. -/
def etherType (f : Bytes) : Nat := beAt f 12 2

/-- The SecY a client frame of path p goes to (R290). -/
def secyOf (s : State) (p : Nat) (f : Bytes) : Option Nat :=
  let tagged := decide (etherType f = 0x8100) || decide (etherType f = 0x88A8)
  let vid := beAt f 14 2 % 4096
  let m := (List.range 32).find? (fun n => tagged && (s.secy p n).en && (s.secy p n).vmatch && decide ((s.secy p n).vid = vid))
  match m with
  | some n => some n
  | none => (List.range 32).find? (fun n => (s.secy p n).en && !(s.secy p n).vmatch)

/-- The greatest PN of a suite (R306). -/
def pnMax (suite : Nat) : Nat := if xpn suite then 2 ^ 64 - 1 else 2 ^ 32 - 1

/-- The GCM nonce of a MACsec frame. PRESUMED: IEEE 802.1AE-2018 clause 14 (log entry 12). -/
def macsecIv (suite : Nat) (sci ssci salt : Bytes) (pn : Nat) : Bytes :=
  if xpn suite then bxor salt (ssci ++ toBe 8 pn) else sci ++ toBe 4 pn

/-- The secured frame of a client frame. PRESUMED: IEEE 802.1AE-2018 clauses 9 and 10 (log entry 12). -/
def secureFrame (y : SecY) (an : Nat) (e : SaEntry) (f : Bytes) : Bytes :=
  let data := f.drop 12
  let tci := b2n y.es * 0x40 + b2n y.sciTx * 0x20 + b2n y.scb * 0x10 + (if y.encrypt then 0x0C else 0) + an
  let tag := [0x88#8, 0xe5#8, BitVec.ofNat 8 tci, BitVec.ofNat 8 (if data.length < 48 then data.length else 0)]
    ++ toBe 4 (e.pn % 2 ^ 32) ++ (if y.sciTx then y.sci else [])
  let iv := macsecIv e.suite y.sci e.ssci e.salt e.pn
  let clear := if y.encrypt then data.take y.offset else data
  let hidden := if y.encrypt then data.drop y.offset else []
  let head := sub f 0 12 ++ tag
  let r := gcmEnc e.key iv (head ++ clear) hidden
  head ++ clear ++ r.1 ++ r.2

/-- Offer the frames of a transmit channel to the MAC (R50). -/
def drainTx (s : State) (q : Nat) : State :=
  let x := s.path q
  if x.lineReady && decide (x.state ≠ 4) then
    x.txq.foldl (fun s f => s.emit (.lineTx q f.2)) (s.modPath q (fun x => { x with txq := [] }))
  else s

/-- A frame enters the line side of a transmit channel. -/
def offerTx (s : State) (q x : Nat) (f : Bytes) : State := drainTx (s.modPath q (fun y => { y with txq := y.txq ++ [(x, f)] })) q

/-- Secure a frame of path x on path q with SecY n, taking the next PN of its encoding SA (R306). -/
def secureOn (s : State) (x q n : Nat) (f : Bytes) : State :=
  let y := s.secy q n
  let live := y.enc.bind (fun an => (y.ans.getD an none).bind (fun e => if (s.sae q true e).state = 3 then some (an, e) else none))
  match live with
  | none => s.inc (0x38014 + 0x40 * q) 31 16
  | some (an, e) =>
    let en := s.sae q true e
    let out := secureFrame y an en f
    let last := decide (en.pn ≥ pnMax en.suite)
    let w := let w := s.fcf (0x4014 + 0x40 * q) 21 16; if xpn en.suite then w else min w 31
    let s := s.modSae q true e (fun a => { a with
      pn := if last then a.pn else a.pn + 1, frames := satInc 32 a.frames, state := if last then 4 else 3 })
    let s := if pnMax en.suite - en.pn = 2 ^ w then saEvent s q true e 1 0 6 else s
    let s := if last then saEvent s q true e 2 stLocked 7 else s
    let s := s.putSt (0x38010 + 0x40 * q) ((s.stw (0x38010 + 0x40 * q) + 1) % 2 ^ 32)
    offerTx s q x out

/-- A client frame of path x enters the transmit channel of path q (R290, R315). -/
def sendOn (s : State) (x q : Nat) (f : Bytes) : State :=
  match secyOf s x f with
  | none => s.inc (0x38014 + 0x40 * x) 15 0
  | some n => if q ≠ x ∧ !(s.secy q n).en then s.inc (0x38014 + 0x40 * x) 15 0 else secureOn s x q n f

/-- 16-byte units of a hold buffer in use (R314). -/
def holdUnits (l : List Bytes) : Nat := (l.map (fun f => cdiv f.length 16)).sum

/-- Put a client frame into a path's transmit hold buffer, or drop it (R314). -/
def holdFrame (s : State) (x : Nat) (f : Bytes) : State :=
  if holdUnits (s.path x).holdTx + cdiv f.length 16 ≤ 16384 then s.modPath x (fun y => { y with holdTx := y.holdTx ++ [f] })
  else (s.inc (0x38008 + 0x40 * x) 15 0).evt 0x4080 9

/-- The path that may take the frames held for path x now (R313, R315, R317, R319). -/
def holdOutlet (s : State) (x : Nat) : Option Nat :=
  let a := s.path x
  let b := s.path (1 - x)
  if a.state = 0 then (if a.lineReady && !a.takeTx && (linkServer s x true).isSome then some x else none)
  else if (decide (a.state = 1) && a.conn || decide (a.state = 4)) && decide (b.state = 0) && b.lineReady && !b.takeTx
      && (linkServer s (1 - x) true).isSome then some (1 - x)
  else none

/-- The frames that a byte credit serves: those served, those left, the credit left. -/
def drrTake : Nat → List Bytes → List Bytes × List Bytes × Nat
  | c, [] => ([], [], c)
  | c, f :: fs =>
    if f.length ≤ c then let r := drrTake (c - f.length) fs; (f :: r.1, r.2)
    else ([], f :: fs, c)

/-- Deficit round-robin of two queues with equal byte quanta (R316): each frame with whether it is of the second queue. A side that
waits for nothing leaves its share to the other. DESIGN CHOICE (log entry 170). -/
def drrMerge (q : Nat) : Nat → List Bytes → List Bytes → Nat → Nat → List (Bool × Bytes)
  | 0, a, b, _, _ => a.map (false, ·) ++ b.map (true, ·)
  | n + 1, a, b, ca, cb =>
    if a = [] ∨ b = [] then a.map (false, ·) ++ b.map (true, ·)
    else
      let x := drrTake (ca + q) a
      let y := drrTake (cb + q) b
      x.1.map (false, ·) ++ y.1.map (true, ·) ++ drrMerge q n x.2.1 y.2.1 x.2.2 y.2.2

/-- The hold buffer of path x is empty again; the gap of its failover ends with its first frame (R315). -/
def takeHeld (s : State) (x : Nat) : State :=
  let l := (s.path x).holdTx
  let s := s.modPath x (fun y => { y with holdTx := [] })
  if (s.path x).gap ∧ l ≠ [] then
    (s.putSt (0x3800C + 0x40 * x) (min 20000 (Config.failoverGap s.seq).toNat)).modPath x (fun y => { y with gap := false })
  else s

/-- Transmit channel q takes the frames that wait for it: its own path's, and those it carries for the other path, in turn (R316).
DESIGN CHOICE (log entry 170). -/
def feed (s : State) (q : Nat) : State :=
  let a := if holdOutlet s q = some q then (s.path q).holdTx else []
  let b := if holdOutlet s (1 - q) = some q then (s.path (1 - q)).holdTx else []
  let l := drrMerge (Config.drrQuantum.toNat + 1) ((a ++ b).map List.length).sum a b 0 0
  let s := if a = [] then s else takeHeld s q
  let s := if b = [] then s else takeHeld s (1 - q)
  l.foldl (fun s f => sendOn s (if f.1 then 1 - q else q) q f.2) s

/-- Release held frames of path x: none between a Calends instant and its commit (R81, R307, R309). -/
def pump (s : State) (x : Nat) : State :=
  if s.tick.due then s
  else match holdOutlet s x with
    | none => s
    | some q => feed s q

/-- CLIENT_TX_FRAME (R289 to R291, R310, R313, R315). -/
def clientTx (s : State) (p : Nat) (f : Bytes) : State :=
  let x := s.path p
  if f.length > 9600 then s.inc (0x38018 + 0x40 * p) 15 0
  else if etherType f = 0x888E ∧ bit (s.fc (0x4018 + 0x40 * p)) 0 then
    (if x.state = 4 then s.inc (0x38018 + 0x40 * p) 31 16 else if x.phy then offerTx s p p f else s)
  else if x.state = 4 ∧ (s.path (1 - p)).state ≠ 0 then s.inc (0x38018 + 0x40 * p) 31 16
  else if x.state = 0 ∧ x.takeTx = false ∧ x.holdTx = [] ∧ (linkServer s p true).isSome then sendOn s p p f
  else pump (holdFrame s p f) p

/-- A received MACsec frame as read from its SecTAG. -/
structure RxTag where
  ok : Bool
  es : Bool
  sc : Bool
  e : Bool
  c : Bool
  an : Nat
  pn : Nat
  sci : Bytes
  /-- Length of addresses and SecTAG. -/
  head : Nat
  deriving DecidableEq, Repr

/-- Read and check a SecTAG. PRESUMED: IEEE 802.1AE-2018 clause 9.12 (log entry 12). -/
def rxTag (f : Bytes) : RxTag :=
  let t := leAt f 14 1
  let sl := leAt f 15 1
  let sc := bit t 5
  let head := if sc then 28 else 20
  let n := f.length - head - 16
  { ok := decide (f.length ≥ head + 16) && !bit t 7 && !(sc && (bit t 6 || bit t 4)) && decide (sl < 64)
      && decide (bit t 3 = bit t 2) && (if sl % 64 = 0 then decide (n ≥ 48) else decide (n = sl) && decide (sl < 48))
    es := bit t 6, sc := sc, e := bit t 3, c := bit t 2, an := t % 4, pn := beAt f 16 4
    sci := sub f 20 8, head := head }

/-- The receive SC of a frame and the SCI it carries (R292). DEDUCED (log entry 65). -/
def rxScOf (s : State) (p : Nat) (f : Bytes) (t : RxTag) : Option Nat :=
  let byScI (sci : Bytes) := (List.range 128).find? (fun n => (s.rxsc p n).en && decide ((s.rxsc p n).sci = sci))
  if t.sc then byScI t.sci
  else if t.es then byScI (sub f 6 6 ++ [0#8, 1#8])
  else
    let port := s.fc (0x4018 + 0x40 * p)
    if bit port 9 ∧ (s.rxsc p (bits port 8 2)).en then some (bits port 8 2) else none

/-- The full PN of a received frame; the upper half is recovered for the XPN suites. PRESUMED (log entry 12). -/
def rxPn (suite low pn : Nat) : Nat :=
  if xpn suite then
    let hi := low / 2 ^ 32
    (if bit low 31 ∧ pn < 2 ^ 31 then hi + 1 else hi) % 2 ^ 32 * 2 ^ 32 + pn
  else pn

/-- Deliver the content of a MACsec frame to client receive. -/
def deliverRx (s : State) (p : Nat) (g : Bytes) (heartbeat : Bool) : State :=
  if heartbeat && decide (etherType g = 0x88B5) && decide (beAt g 14 4 = 0x53584842) && bit (s.fc (0x4000 + 0x40 * p)) 16 then s
  else s.emit (.clientRx p g)

/-- Receive processing of a frame that carries a SecTAG. PRESUMED: IEEE 802.1AE-2018 clause 10.6 (log entry 12).
DEDUCED (log entry 65). -/
def macsecRx (s : State) (p : Nat) (f : Bytes) : State :=
  let t := rxTag f
  if !t.ok then s
  else
    let noSa (s : State) : State := s.inc (0x38024 + 0x40 * p) 15 0
    match rxScOf s p f t with
    | none => noSa s
    | some n =>
      let sc := s.rxsc p n
      let secured := (f.drop t.head).take (f.length - t.head - 16)
      match (sc.ans.getD t.an none).bind (fun e => if (s.sae p false e).state = 3 then some e else none) with
      | none =>
        let s := noSa s
        if sc.validate = 2 ∨ t.c = true then s else deliverRx s p (sub f 0 12 ++ secured) false
      | some e =>
        let en := s.sae p false e
        let pn := rxPn en.suite en.pn t.pn
        let s := s.modSae p false e (fun a => { a with frames := satInc 32 a.frames })
        if t.pn = 0 ∧ !xpn en.suite then s
        else if sc.replay ∧ pn < en.pn then s.inc (0x38020 + 0x40 * p) 31 16
        else if sc.validate = 0 ∧ t.c = false then deliverRx s p (sub f 0 12 ++ secured) false
        else
          let iv := macsecIv en.suite sc.sci en.ssci en.salt pn
          let clear := if t.c then secured.take sc.offset else secured
          let hidden := if t.c then secured.drop sc.offset else []
          let aad := sub f 0 t.head ++ clear
          let good := decide (gcmTag en.key iv aad hidden = f.drop (f.length - 16))
          if good then
            let s := s.putSt (0x3801C + 0x40 * p) ((s.stw (0x3801C + 0x40 * p) + 1) % 2 ^ 32)
            let s := s.modSae p false e (fun a => { a with pn := max a.pn (pn + 1 - sc.window) })
            let s := s.modPath p (fun x => { x with hbSeen := true })
            deliverRx s p (sub f 0 12 ++ clear ++ gcmText en.key iv hidden) true
          else
            let s := s.inc (0x38020 + 0x40 * p) 15 0
            if sc.validate = 2 ∨ t.c = true then s else deliverRx s p (sub f 0 12 ++ secured) false

/-- Put a line frame into a path's receive hold buffer, or drop it (R314, R319). -/
def holdRxFrame (s : State) (p : Nat) (f : Bytes) (err : Bool) : State :=
  if holdUnits ((s.path p).holdRx.map (·.1)) + cdiv f.length 16 ≤ 16384 then
    s.modPath p (fun x => { x with holdRx := x.holdRx ++ [(f, err)] })
  else (s.inc (0x38008 + 0x40 * p) 31 16).evt 0x4080 9

/-- LINE_RX_FRAME (R289, R291, R292, R310, R319). -/
def lineRx (s : State) (p : Nat) (f : Bytes) (err : Bool) : State :=
  let other (s : State) : State := s.inc (0x38024 + 0x40 * p) 31 16
  if (s.path p).state = 4 ∨ (linkServer s p false).isNone = true then other s
  else if (s.path p).takeRx then holdRxFrame s p f err
  else if err ∨ f.length > 9632 then other s
  else if etherType f = 0x888E then s.emit (.clientRx p f)
  else if etherType f = 0x88E5 then macsecRx s p f
  else if bit (s.fc (0x4018 + 0x40 * p)) 1 then s.emit (.clientRx p f)
  else other s

/-- Step 6 of a takeover for path p: the frames held for its spare are released to it in order (R201, R319).
DESIGN CHOICE (log entry 171). -/
def endTakeover (s : State) (p : Nat) : State :=
  let x := s.path p
  if !x.takeTx && !x.takeRx then s
  else
    let s := s.modPath p (fun x => { x with takeTx := false, takeRx := false, holdRx := [] })
    pump (pump (x.holdRx.foldl (fun s f => lineRx s p f.1 f.2) s) p) (1 - p)

/-- The takeovers under way reach their step 6. DESIGN CHOICE (log entry 171). -/
def endTakeovers (s : State) : State := endTakeover (endTakeover s 0) 1

/-! ### Paths (R310 to R320) -/

/-- The path is not in good service: its recovery count starts again (R313). DEDUCED (log entry 136). -/
def notGood (s : State) (p : Nat) : State := s.modPath p (fun x => { x with good := 0, fresh := true, ready := false })

/-- Path p enters DOWN with a failover sequence onto the other path (R315). -/
def toDown (s : State) (p : Nat) : State :=
  s.modPath p (fun x => { x with state := 1, flush := true, conn := false, gap := true })

/-- Path p fails (R311, R313). DEDUCED (log entry 69). -/
def failPath (s : State) (p : Nat) : State :=
  if (s.path p).state ≠ 0 then s
  else
    let y := 1 - p
    let s := (notGood s p).inc (0x38000 + 0x40 * p) 31 16
    let s := if (s.path y).state = 0 then toDown s p else s.modPath p (fun x => { x with state := 2, heldTicks := 0, heldNew := true, flush := true })
    let s := if (s.path y).state = 1 then s.modPath y (fun x => { x with state := 2, heldTicks := 0, heldNew := true, conn := false }) else s
    (pathEvent s p 4 0).logPut 0x50 1 [BitVec.ofNat 8 p]

/-- Path p becomes UP: its held frames go out in order, a HELD other path that is not recovered fails over onto it; a path
whose link input is low fails at once (R311, R313). -/
def becomeUp (s : State) (p : Nat) : State :=
  let s := s.modPath p (fun x => { x with state := 0, ready := false, failback := false })
  let s := pathEvent s p 6 4
  let s := pump s p
  let s := if (s.path (1 - p)).state = 2 ∧ !(s.path (1 - p)).ready then toDown s (1 - p) else s
  if (s.path p).phy then s else failPath s p

/-- PHY_DOWN (R51, R311). -/
def phyDown (s : State) (p : Nat) : State :=
  let s := s.modPath p (fun x => { x with phy := false })
  if linkDead s then s else failPath (notGood s p) p

/-- PHY_UP (R313). -/
def phyUp (s : State) (p : Nat) : State := s.modPath p (fun x => { x with phy := true, fresh := true, good := 0 })

/-- FAILOVER_FLUSH: steps 2 and 3 of R315. DESIGN CHOICE (log entry 13). DEDUCED (log entry 69). -/
def failoverFlush (s : State) (p : Nat) : State :=
  let x := s.path p
  if linkDead s || !x.flush then s
  else
    let s := s.incBy (0x38018 + 0x40 * p) 31 16 x.txq.length
    let s := s.modPath p (fun x => { x with txq := [], flush := false, conn := decide (x.state = 1), good := 0, fresh := true })
    pump s p

/-- HEARTBEAT_INTERVAL_END (R311). -/
def heartbeatEnd (s : State) (p : Nat) : State :=
  let x := s.path p
  if linkDead s || !bit (s.fc (0x4000 + 0x40 * p)) 15 then s
  else if x.hbSeen then s.modPath p (fun x => { x with hbSeen := false, hbOk := true, missed := 0 })
  else
    let m := min 3 (x.missed + 1)
    let s := (notGood s p).modPath p (fun x => { x with hbOk := false, missed := m })
    if m = 3 ∧ pathServed s p then failPath s p else s

/-- The heartbeat frame of a path (R312). -/
def heartbeatFrame (s : State) (p : Nat) : Bytes :=
  let b := 0x4000 + 0x40 * p
  toBe 2 (s.fc (b + 8)) ++ toBe 4 (s.fc (b + 4)) ++ toBe 2 (s.fc (b + 0x10)) ++ toBe 4 (s.fc (b + 0x0C))
  ++ [0x88#8, 0xb5#8] ++ toBe 4 0x53584842 ++ [BitVec.ofNat 8 p, 0#8] ++ toBe 4 (s.path p).hbSeq ++ toBe 6 s.count ++ zeros 30

/-- Whether SecY n of path p has an ACTIVE encoding SA. -/
def encodes (s : State) (p n : Nat) : Bool :=
  let y := s.secy p n
  y.en && (y.enc.bind (fun an => y.ans.getD an none)).any (fun e => decide ((s.sae p true e).state = 3))

/-- HEARTBEAT_SEND (R312): not during a takeover of the transmit channel; from a Calends instant on it waits for the commit
(R81, R293). -/
def heartbeatSend (s : State) (p : Fin 2) : State :=
  let hb := s.fc (0x4000 + 0x40 * p)
  let n := bits hb 14 10
  let x := s.path p
  if linkDead s || !bit hb 15 || !x.phy || decide (x.state = 4) || x.takeTx || (linkServer s p true).isNone || !encodes s p n then s
  else if s.tick.due then { s with portHeld := s.portHeld ++ [.heartbeatSend p] }
  else
    let f := heartbeatFrame s p
    secureOn (s.modPath p (fun x => { x with hbSeq := (x.hbSeq + 1) % 2 ^ 32 })) p p n f

/-- PATH_RECOVERED (R313). DEDUCED (log entry 136). -/
def pathRecovered (s : State) (p : Nat) : State :=
  let x := s.path p
  if linkDead s || !(decide (x.state = 1) || decide (x.state = 2)) || x.ready || decide (x.good < s.fcf (0x4014 + 0x40 * p) 7 0) then s
  else pathEvent (s.modPath p (fun x => { x with ready := true })) p 5 2

/-- PATH_RETURN_COMPLETE (R313, R317). -/
def pathReturn (s : State) (p : Nat) : State :=
  if linkDead s || decide ((s.path p).state ≠ 3) || (s.path (1 - p)).txq.any (fun f => decide (f.1 = p)) then s
  else becomeUp s p

/-- HOLD_FLUSH (R318). -/
def holdFlush (s : State) (p : Nat) : State :=
  let x := s.path p
  if linkDead s || decide (x.state ≠ 2) || decide (x.heldTicks < s.fcf (0x4014 + 0x40 * p) 31 24) then s
  else (s.incBy (0x38018 + 0x40 * p) 31 16 x.holdTx.length).modPath p (fun x => { x with holdTx := [] })

/-- LINE_TX_READY (R50): a change of line transmit READY; frames that waited for it leave, own frames before those the path
carries for the other. -/
def lineReady (s : State) (p : Nat) (ready : Bool) : State :=
  let s := s.modPath p (fun x => { x with lineReady := ready })
  if linkDead s then s else pump (pump (drainTx s p) p) (1 - p)

/-- Client transmit READY of a path (R50, R315). -/
def clientReady (s : State) (p : Nat) : Bool := decide ((s.path p).state ≠ 0) || (s.path p).lineReady

/-- Failback, and the return of a HELD path, at the Calends (R313, R317, R320): after the SA changes of the path, under the AUTO in
force; a path that a role change of this commit serves stays HELD for its first tick.
DEDUCED (log entry 136). -/
def linkReturn (s : State) (p : Nat) : State :=
  let x := s.path p
  let force := bit (s.wr (0x4014 + 0x40 * p)) 9 || bit (s.fc (0x4014 + 0x40 * p)) 9
  let auto := bit (s.fc (0x4014 + 0x40 * p)) 8
  let s := s.modPath p (fun x => { x with failback := false })
  if !x.ready || force || !pathServed s p then s
  else if x.state = 1 ∧ (auto || x.failback) then s.modPath p (fun x => { x with state := 3, conn := false })
  else if x.state = 2 ∧ x.heldNew = false then becomeUp s p
  else s

/-- Step 5 of R82: path A before path B. -/
def commitLink (s : State) : State :=
  let s := linkReturn (commitLinkPath s 0) 0
  let s := linkReturn (commitLinkPath s 1) 1
  { s with link := { s.link with staged := [] } }

/-- The effect of a role change on the paths (R310, R313), in step 2 of R82: the frames in the transmit channel of a path that is left
UNSERVED are discarded. DEDUCED (log entry 69). -/
def linkRoles (s : State) : State :=
  [0, 1].foldl (fun s p =>
    let bound := (linkChan s p true).isSome && (linkChan s p false).isSome
    let st := (s.path p).state
    if !bound ∧ st ≠ 4 then
      (s.incBy (0x38018 + 0x40 * p) 31 16 (s.path p).txq.length).modPath p (fun x => { x with
        state := 4, ready := false, conn := false, txq := [], takeTx := false, takeRx := false, holdRx := [] })
    else if bound ∧ st = 4 then
      s.modPath p (fun x => { x with state := 2, ready := true, heldTicks := 0, heldNew := true, good := s.fcf (0x4014 + 0x40 * p) 7 0 })
    else s) s

/-- What the paths do at every Calends, under the state that results from step 8 of R82 (R311, R313, R318). -/
def linkTick (s : State) : State :=
  [0, 1].foldl (fun s p =>
    let force := bit (s.fc (0x4014 + 0x40 * p)) 9
    let s := if force then failPath (notGood s p) p else s
    let x := s.path p
    let ok := pathServed s p && x.phy && !force && !x.flush && (decide (x.state = 1) || decide (x.state = 2))
    s.modPath p (fun x => { x with
      good := if !ok then 0 else if x.fresh then 0 else x.good + 1
      fresh := if ok then false else x.fresh
      heldTicks := if x.state = 2 ∧ x.heldNew = false then x.heldTicks + 1 else 0, heldNew := false })) s

/-- The heartbeat interval count restarts at the Calends at which EN takes effect (R311). -/
def linkHbRestart (s : State) (p : Nat) : State := s.modPath p (fun x => { x with hbSeen := false, missed := 0 })

/-- A fence takes a LINK channel out of service: frames inside it are lost (R319); with a usable spare the entries are checked against
its number and frames wait for the end of the takeover, without one the path fails (R32, R201, R311). -/
def linkFence (s : State) (p : Nat) (tx : Bool) (spare : Option Nat) : State :=
  let s := if tx then (s.incBy (0x38018 + 0x40 * p) 31 16 (s.path p).txq.length).modPath p (fun x => { x with txq := [] }) else s
  match spare with
  | some n => (takeoverSas s p tx n).modPath p (fun x => if tx then { x with takeTx := true } else { x with takeRx := true })
  | none => failPath (notGood s p) p

/-- LINK_PSTAT_p (R323). -/
def linkPstat (s : State) (p : Nat) : Nat :=
  let x := s.path p
  x.state + 8 * b2n x.phy + 16 * b2n x.hbOk + 32 * b2n x.ready + 64 * x.missed + 2 ^ 16 * s.stf (0x38000 + 0x40 * p) 31 16

/-- LINK_HOLD_p (R323). -/
def linkHold (s : State) (p : Nat) : Nat :=
  holdUnits (s.path p).holdTx + 2 ^ 16 * holdUnits ((s.path p).holdRx.map (·.1))

/-- A write of LINK_CMD_p (R317). -/
def linkCmd (s : State) (p val : Nat) : State := if bit val 0 then s.modPath p (fun x => { x with failback := true }) else s

/-- Whether a write keeps every field of a link register in its range (R321). -/
def linkRange (off v : Nat) : Bool :=
  let o := off % 0x40
  if o = 0 then decide (2 ≤ bits v 9 0) && decide (bits v 9 0 ≤ 1000)
  else if o = 0x14 then decide (1 ≤ bits v 7 0) && decide (16 ≤ bits v 21 16) && decide (bits v 21 16 ≤ 62) && decide (1 ≤ bits v 31 24)
  else true

/-- The alarm and the full reset zeroize every entry and hold buffer (R20, R60, R308, R314). -/
def linkZero (s : State) : State :=
  [0, 1].foldl (fun s p => s.modPath p (fun x => { x with txe := [], rxe := [], holdTx := [], holdRx := [], txq := [], takeTx := false, takeRx := false })) s

/-- Run a frame now, or hold it at the port while a Calends waits for its commit (R81, R84). -/
def atPort (s : State) (c : Instr) (f : State → State) : State :=
  if linkDead s then s else if s.tick.due then { s with portHeld := s.portHeld ++ [c] } else f s

/-- TXSC_SET. -/
def execTxscSet (k : Fin 64) (i : Nat) (s : State) : Host.Outcome State Fault Refusal := .next (stageLink s k i 0x10)
/-- RXSC_SET. -/
def execRxscSet (k : Fin 64) (i : Nat) (s : State) : Host.Outcome State Fault Refusal := .next (stageLink s k i 0x11)
/-- SA_INSTALL. -/
def execSaInstall (k : Fin 64) (i : Nat) (s : State) : Host.Outcome State Fault Refusal := .next (stageLink s k i 0x12)
/-- SA_ACTIVATE. -/
def execSaActivate (k : Fin 64) (i : Nat) (s : State) : Host.Outcome State Fault Refusal := .next (stageLink s k i 0x13)
/-- SA_RETIRE. -/
def execSaRetire (k : Fin 64) (i : Nat) (s : State) : Host.Outcome State Fault Refusal := .next (stageLink s k i 0x14)
/-- SA_UPDATE_PN. -/
def execSaUpdatePn (k : Fin 64) (i : Nat) (s : State) : Host.Outcome State Fault Refusal := .next (stageLink s k i 0x15)
/-- SA_READ. -/
def execSaRead (k : Fin 64) (i : Nat) (s : State) : Host.Outcome State Fault Refusal := .next (saReadItem s k i)
/-- SA_OVERLAP_END. -/
def execSaOverlapEnd (p : Fin 2) (s : State) : Host.Outcome State Fault Refusal := .next (overlapEnd s p)
/-- SA_REVALIDATE. -/
def execSaRevalidate (p : Fin 2) (s : State) : Host.Outcome State Fault Refusal := .next (revalidate s p)
/-- CLIENT_TX_FRAME. -/
def execClientTxFrame (p : Fin 2) (frame : Bytes) (s : State) : Host.Outcome State Fault Refusal :=
  .next (atPort s (.clientTxFrame p frame) (fun s => clientTx s p frame))
/-- LINE_RX_FRAME. -/
def execLineRxFrame (p : Fin 2) (frame : Bytes) (err : Bool) (s : State) : Host.Outcome State Fault Refusal :=
  .next (atPort s (.lineRxFrame p frame err) (fun s => lineRx s p frame err))
/-- HEARTBEAT_SEND. -/
def execHeartbeatSend (p : Fin 2) (s : State) : Host.Outcome State Fault Refusal := .next (heartbeatSend s p)
/-- HEARTBEAT_INTERVAL_END. -/
def execHeartbeatIntervalEnd (p : Fin 2) (s : State) : Host.Outcome State Fault Refusal := .next (heartbeatEnd s p)
/-- PHY_DOWN. -/
def execPhyDown (p : Fin 2) (s : State) : Host.Outcome State Fault Refusal := .next (phyDown s p)
/-- PHY_UP. -/
def execPhyUp (p : Fin 2) (s : State) : Host.Outcome State Fault Refusal := .next (phyUp s p)
/-- FAILOVER_FLUSH. -/
def execFailoverFlush (p : Fin 2) (s : State) : Host.Outcome State Fault Refusal := .next (failoverFlush s p)
/-- PATH_RECOVERED. -/
def execPathRecovered (p : Fin 2) (s : State) : Host.Outcome State Fault Refusal := .next (pathRecovered s p)
/-- PATH_RETURN_COMPLETE. -/
def execPathReturnComplete (p : Fin 2) (s : State) : Host.Outcome State Fault Refusal := .next (pathReturn s p)
/-- HOLD_FLUSH. -/
def execHoldFlush (p : Fin 2) (s : State) : Host.Outcome State Fault Refusal := .next (holdFlush s p)
/-- LINE_TX_READY. -/
def execLineTxReady (p : Fin 2) (ready : Bool) (s : State) : Host.Outcome State Fault Refusal := .next (lineReady s p ready)

end Sys2Proof.Machine
end

