-- ==== Sys2Proof/Machine/Budget.lean ====
section
/-! DEFINITION. The admission budget of a channel's lanes and of the DMA allowances (R75, R76, R78, R192). -/

namespace Sys2Proof.Machine

/-- Lane time between t and the close point that a lane with a reserved share leaves to admitted work (R76). -/
def laneRoom (s : State) (share t : Nat) : Nat := (256 - share) * (s.tClose - t) / 256

/-- Admission is open at t (R75). -/
def admitOpen (s : State) (t : Nat) : Bool := !s.halted && !s.tick.due && !s.tick.closed && decide (64 ≤ t) && decide (t < s.tClose)

/-- A cost fits the lanes of channel n at t (R76). -/
def costFits (s : State) (n t : Nat) (c : Cost) : Bool :=
  let x := s.chan n
  decide (c.p + x.backP ≤ laneRoom s x.shareP t) && decide (c.g + x.backG ≤ laneRoom s x.shareG t)
  && (decide (c.i + x.back0 ≤ laneRoom s 0 t) || decide (c.i + x.back1 ≤ laneRoom s 0 t))

/-- A cost that no empty tick can take (R78). DEDUCED (log entry 32). -/
def costNever (s : State) (n : Nat) (c : Cost) : Bool :=
  let x := s.chan n
  decide (c.p > laneRoom s x.shareP 64) || decide (c.g > laneRoom s x.shareG 64) || decide (c.i > laneRoom s 0 64)

/-- The core that takes an admitted item's iterated work (R76). -/
def pickCore (s : State) (n : Nat) : Bool := decide ((s.chan n).back1 < (s.chan n).back0)

/-- Add an admitted cost to the backlogs (R76). -/
def addCost (s : State) (n : Nat) (core1 : Bool) (c : Cost) : State :=
  s.modChan n (fun x => { x with
    backP := x.backP + c.p, backG := x.backG + c.g, admP := x.admP + c.p
    back0 := if core1 then x.back0 else x.back0 + c.i, back1 := if core1 then x.back1 + c.i else x.back1 })

/-- Take an executed cost out of the backlogs. -/
def dropCost (s : State) (n : Nat) (core1 : Bool) (c : Cost) : State :=
  s.modChan n (fun x => { x with
    backP := x.backP - c.p, backG := x.backG - c.g
    back0 := if core1 then x.back0 else x.back0 - c.i, back1 := if core1 then x.back1 - c.i else x.back1 })

/-- Units of 8 bytes fit the block's DMA allowances at t (R192). -/
def dmaFits (s : State) (t rd wr : Nat) : Bool :=
  decide (rd + s.part.dmaRd ≤ s.tClose - t) && decide (wr + s.part.dmaWr ≤ s.tClose - t)

/-- Units that no empty tick can move (R192). DEDUCED (log entry 32). -/
def dmaNever (s : State) (rd wr : Nat) : Bool := decide (rd > s.tClose - 64) || decide (wr > s.tClose - 64)

end Sys2Proof.Machine
end

