-- ==== Sys2Proof/Machine/Journal.lean ====
section
/-! DEFINITION. Counter leases and the journal flash (R422 to R447): records, pages, rotation, scrub, mount, commands. -/

namespace Sys2Proof.Machine

/-- Change the journal manager. -/
def State.modJf (s : State) (f : Journal → Journal) : State := { s with jf := f s.jf }

/-! ### Counter leases (R434 to R437, R458) -/

/-- KR_CFG.EN in force (R448). -/
def ringOn (s : State) : Bool := bit (s.fc 0x5800) 13

/-- FLOOR of R434. -/
def leaseFloor (s : State) : Nat := if ringOn s then s.krysa.floor else 0

/-- The RING byte of a LEASE record queued now (R427, R458). -/
def leaseRing (s : State) : Nat := if s.krysa.decided then b2n (ringOn s) else s.jf.ringRead

/-- The body of the LEASE record of lease n (R427). -/
def leaseBody (s : State) (n : Nat) : Bytes := toBe 4 n ++ toBe 4 (leaseFloor s) ++ toBe 1 (leaseRing s) ++ zeros 7

/-- Make the lowest durable lease current where none is (R436). -/
def promote (s : State) : State :=
  match s.jf.cur, s.jf.ahead with
  | none, a :: rest =>
    let m := rest.foldl min a
    s.modJf (fun j => { j with cur := some m, granted := 0, ahead := j.ahead.filter (· ≠ m) })
  | _, _ => s

/-- Take lease n: queue its record as urgent (R435, R436). -/
def takeLease (s : State) (n : Nat) : State :=
  let s := if n ≥ 0x0FF00000 then s.evt 0x5304 2 else s
  let s := s.modJf (fun j => { j with leaseTop := max j.leaseTop n, queuedLeases := j.queuedLeases ++ [n] })
  promote (s.jPut { kind := 2, id := n, data := leaseBody s n, urgent := true })

/-- The number a new lease takes (R434). -/
def nextLease (s : State) : Nat := max s.jf.leaseTop (leaseFloor s) + 1

/-- A lease is needed (R435): taken at once, or claimed on the ring first (R457). DESIGN CHOICE (log entry 132). -/
def requestLease (s : State) : State :=
  if nextLease s > 0x0FFFFFFF then s.evt 0x5304 3
  else if ringOn s then { s with krysa := { s.krysa with wanted := s.krysa.wanted + 1 } }
  else takeLease s (nextLease s)

/-- The next counter to grant (R447). -/
def nextGrant (s : State) : Nat :=
  match s.jf.cur, s.jf.ahead ++ s.jf.queuedLeases with
  | some l, _ => l * 2 ^ 20 + s.jf.granted
  | none, a :: rest => rest.foldl min a * 2 ^ 20
  | none, [] => 0

/-- Grant one controller counter (R342, R434, R435, R458). An S154 downlink gives the PAGE its counter must lie in. -/
def grant (s : State) (page : Option Nat) : State × Option Nat :=
  if !s.krysa.granting || s.wedged 2 then (s, none)
  else match s.jf.cur with
  | none => (s.evt 0x5304 1, none)
  | some l =>
    let c := l * 2 ^ 20 + s.jf.granted
    if page.isSome && decide (page ≠ some (c / 2 ^ 32)) then (s.evt 0x5004 2, none)
    else
      let s := if page.isSome && decide (c % 2 ^ 32 ≥ 0xFF000000) then s.evt 0x5004 1 else s
      if s.jf.granted + 1 < 2 ^ 20 then (s.modJf (fun j => { j with granted := j.granted + 1 }), some c)
      else
        let s := requestLease (promote (s.modJf (fun j => { j with cur := none, granted := 0 })))
        (if s.jf.cur = none then s.evt 0x5304 1 else s, some c)

/-! ### Records on pages (R425 to R427) -/

/-- The 12-byte IV of a record (R425). -/
def recIv (jcnt : Nat) : Bytes := [0x4a#8, 0x4e#8, 0x4c#8, 0x31#8] ++ toBe 8 jcnt

/-- A record as it lies on its page (R425). -/
def sealRec (key : Bytes) (r : JRec) : Bytes :=
  let h := [0x4a#8, 0x52#8] ++ toBe 1 r.kind ++ toBe 1 (b2n r.urgent) ++ toBe 2 r.data.length ++ zeros 2 ++ toBe 8 r.jcnt
  let g := gcmEnc key (recIv r.jcnt) h r.data
  h ++ g.1 ++ g.2

/-- Identity of a record within its TYPE, from its body. -/
def recId (kind : Nat) (b : Bytes) : Nat :=
  if kind = 4 then leAt b 0 2 else if kind = 2 then beAt b 0 4 else if kind = 6 then leAt b 0 1 * 256 + leAt b 1 1 else 0

/-- The records of a page from its first byte on, and whether every tag verified (R425). -/
def readRecs (key : Bytes) : Nat → Bytes → List JRec × Bool
  | 0, _ => ([], true)
  | f + 1, b =>
    if beAt b 0 2 ≠ 0x4A52 then ([], true)
    else
      let n := beAt b 4 2
      let h := sub b 0 16
      let ct := sub b 16 n
      let jc := beAt b 8 8
      if gcmTag key (recIv jc) h ct ≠ sub b (16 + n) 16 then ([], false)
      else
        let body := gcmText key (recIv jc) ct
        let kind := leAt b 2 1
        let r := readRecs key f (b.drop (32 + n))
        ({ kind := kind, id := recId kind body, data := body, urgent := bit (leAt b 3 1) 0, jcnt := jc } :: r.1, r.2)

/-- The journal record key, slot 0x007 (R425). -/
def jKey (s : State) : Bytes := (s.slot 0x007).key

/-- The page size in bytes (R52). -/
def pageSize (s : State) : Nat := 2 ^ s.flash.pageLog2

/-- What a read of a row gives: nothing where it is erased. -/
def readRow (s : State) (row : Nat) : List JRec × Bool :=
  match s.flash.pages.find? (fun p => decide (p.1 = row)) with
  | none => ([], true)
  | some p => if s.jf.unreadable.contains row then ([], false) else readRecs (jKey s) 128 p.2

/-- Row addresses programmed in a block. -/
def blockRows (s : State) (b : Nat) : List Nat := (tkeys s.flash.pages).filter (fun r => decide (r / 64 = b))

/-- The active ring: the lowest 64 good blocks among 1 to 80 (R424). -/
def activeRing (s : State) : List Nat := (((List.range 81).drop 1).filter (fun b => !s.jf.bad.contains b)).take 64

/-- The active block after b in ascending order, wrapping (R424). -/
def nextActive (s : State) (b : Nat) : Nat := ((activeRing s).find? (fun x => decide (x > b))).getD ((activeRing s).headD 0)

/-- First block of the snapshot area, and its good blocks (R423). -/
def snapFirst (s : State) : Nat := 81 + 2 * s.jf.img
def snapBlocks (s : State) : List Nat :=
  ((List.range s.jf.snap).map (· + snapFirst s)).filter (fun b => !s.jf.bad.contains b)

/-- Every readable record of the ring with its row. -/
def ringRecs (s : State) : List (Nat × JRec) :=
  ((tkeys s.flash.pages).filter (fun r => decide (64 ≤ r) && decide (r < 81 * 64))).flatMap
    (fun r => (readRow s r).1.map (fun x => (r, x)))

/-- VERSION and PARTS of a BLOB record (R427). -/
def blobVer (r : JRec) : Nat := beAt r.data 4 4
def blobParts (r : JRec) : Nat := leAt r.data 2 1

/-- The newest complete version of a BLOB_ID among records, if any. DEDUCED (log entry 71). -/
def blobNewest (all : List JRec) (bid : Nat) : Option Nat :=
  let mine := all.filter (fun r => decide (r.kind = 6) && decide (r.id / 256 = bid))
  ((mine.map blobVer).filter (fun v => (mine.filter (fun r => decide (blobVer r = v))).any (fun r =>
    (List.range (blobParts r)).all (fun p => mine.any (fun x => decide (blobVer x = v) && decide (x.id % 256 = p)))))).max?

/-- Whether a record is live among all the records of the ring (R427). DEDUCED (log entry 71). -/
def isLive (all : List JRec) (r : JRec) : Bool :=
  if r.kind = 5 ∨ r.kind = 7 ∨ r.kind = 8 then false
  else if r.kind = 6 then decide (blobVer r ≥ (blobNewest all (r.id / 256)).getD 0)
      && !all.any (fun x => decide (x.kind = 6) && decide (x.id = r.id) && decide (blobVer x = blobVer r) && decide (x.jcnt > r.jcnt))
  else !all.any (fun x => decide (x.kind = r.kind) && (decide (r.kind ≠ 4) || decide (x.id = r.id)) && decide (x.jcnt > r.jcnt))

/-- Blocks from a ring block forward to the write pointer, in active order. -/
def ringAge (s : State) (b : Nat) : Nat :=
  let l := activeRing s
  (l.idxOf s.jf.wblk + l.length - l.idxOf b) % max l.length 1

/-- KEY_LOW: the block of the oldest live KEY record (R427). -/
def keyLow (s : State) : Nat :=
  let all := ringRecs s
  let ks := all.filter (fun r => decide (r.2.kind = 4) && isLive (all.map (·.2)) r.2)
  let b := ks.foldl (fun (m : Nat × Nat) r => if ringAge s (r.1 / 64) ≥ m.1 then (ringAge s (r.1 / 64), r.1 / 64) else m) (0, s.jf.wblk)
  b.2

/-- The bad-block bitmap (R427). -/
def badMap (s : State) : Bytes :=
  (List.range 512).map (fun i => BitVec.ofNat 8 ((List.range 8).map (fun k => if s.jf.bad.contains (8 * i + k) then 2 ^ k else 0)).sum)

/-- The body of a CKPT record (R427). -/
def ckptBody (s : State) : Bytes := toBe 4 s.jf.leaseHi ++ toBe 6 s.jf.mark ++ toBe 2 (keyLow s) ++ zeros 4 ++ badMap s

/-! ### State of the journal, bad blocks (R424, R431) -/

/-- The journal state changed: event and log (R431, R488). -/
def setJState (s : State) (st : Nat) : State :=
  if s.jf.state = st then s
  else
    let s := s.modJf (fun j => { j with state := st })
    let s := if st = 2 ∨ st = 3 then s.evt 0x5304 5 else s
    s.logPut 0x70 1 (toLe 1 st ++ toLe 1 s.jf.result)

/-- DEGRADED and READ_ONLY by the good blocks left (R431). -/
def gradeRing (s : State) : State :=
  let good := ((List.range 81).drop 1).countP (fun b => !s.jf.bad.contains b)
  if s.jf.state = 1 ∨ s.jf.state = 2 then
    (if good < 32 ∨ (snapBlocks s).length < 8 then setJState s 3 else if good < 64 then setJState s 2 else s)
  else s

/-- A block turned bad (R424, R431). -/
def setBad (s : State) (b : Nat) : State :=
  let s := (s.modJf (fun j => { j with bad := if j.bad.contains b then j.bad else b :: j.bad })).evt 0x5304 4
  let s := gradeRing s
  s.jPut { kind := 1, data := ckptBody s, urgent := true }

/-! ### Page programs (R428) -/

/-- Records, in order, that fit into a number of bytes: those taken and those left. -/
def takeFit : Nat → List JRec → List JRec × List JRec
  | _, [] => ([], [])
  | n, r :: rs =>
    if r.size ≤ n then let q := takeFit (n - r.size) rs; (r :: q.1, q.2)
    else let q := takeFit n rs; (q.1, r :: q.2)

/-- Flush time of normal records in Almanac units: FLUSH is in units of 10 ms (R445). -/
def flushTime (s : State) : Nat := s.fcf 0x5300 17 8 * 160000

/-- Ring records and snapshot items that wait. -/
def waitRing (s : State) : List JRec := s.jf.queue.filter (fun r => decide (r.kind ≠ 7))
def waitSnap (s : State) : List JRec := s.jf.queue.filter (fun r => decide (r.kind = 7))

/-- A page program is due for these records (R428). -/
def pageDue (s : State) (l : List JRec) (bytes room : Nat) : Bool :=
  l.any (·.urgent) || (decide (l ≠ []) && decide (bytes ≥ room))
  || l.any (fun r => decide (r.since + flushTime s ≤ s.alm.time))

/-- Number records with fresh JCNTs (R426). -/
def number (j : Nat) : List JRec → List JRec
  | [] => []
  | r :: rs => { r with jcnt := j } :: number (j + 1) rs

/-- The write pointer of the ring at a block with room: the next active block once it is full, if it is erased (R429). -/
def ringSlot (s : State) : Option State :=
  if s.jf.wpage < 64 then some s
  else
    let b := nextActive s s.jf.wblk
    if s.jf.erased.contains b then
      some (s.modJf (fun j => { j with wblk := b, wpage := 0, erased := j.erased.filter (· ≠ b), rotDue := true }))
    else none

/-- Start a page program for ring records (R428): urgent records first, then normal ones as they fit; the first page of a
block begins with a CKPT record (R427). -/
def progRing (s : State) : State :=
  match ringSlot s with
  | none => s
  | some s =>
    let ck : List JRec := if s.jf.wpage = 0 then [{ kind := 1, data := ckptBody s, urgent := true }] else []
    let room := pageSize s - (ck.map JRec.size).sum
    let w := waitRing s
    let f := takeFit room (w.filter (·.urgent) ++ w.filter (fun r => !r.urgent))
    let recs := number s.jf.jcnt (ck ++ f.1)
    s.modJf (fun j => { j with
      queue := j.queue.filter (fun r => !f.1.any (fun x => decide (x.qn = r.qn)))
      jcnt := j.jcnt + recs.length
      prog := some { row := 64 * j.wblk + j.wpage, recs := recs } })

/-- Snapshot items that one page takes (R444). -/
def snapPerPage (s : State) : Nat := (pageSize s - 32) / 16

/-- The write pointer of the snapshot area at a block with room. -/
def snapSlot (s : State) : Option State :=
  if s.jf.sblk ≠ 0 ∧ s.jf.spage < 64 then some s
  else match (snapBlocks s).find? (fun b => s.jf.erased.contains b) with
    | some b => some (s.modJf (fun j => { j with sblk := b, spage := 0, erased := j.erased.filter (· ≠ b) }))
    | none => none

/-- Start a page program for snapshot items (R428, R430). -/
def progSnap (s : State) : State :=
  match snapSlot s with
  | none => s.evt 0x5304 6
  | some s =>
    let items := (waitSnap s).take (snapPerPage s)
    s.modJf (fun j => { j with
      queue := j.queue.filter (fun r => !items.any (fun x => decide (x.qn = r.qn)))
      jcnt := j.jcnt + 1
      prog := some { row := 64 * j.sblk + j.spage, recs := items.map (fun r => { r with jcnt := j.jcnt }), snap := true } })

/-- The journal writes (R431, R439, R441). -/
def jWrites (s : State) : Bool := (decide (s.jf.state = 1) || decide (s.jf.state = 2)) && s.flash.present

/-- PAGE_PROGRAM (R428). -/
def pageProgram (s : State) : State :=
  if s.boot.inReset || s.boot.alarm || s.boot.lockout || s.boot.pfail || !jWrites s || s.jf.prog.isSome || s.flash.erasing.isSome then s
  else if pageDue s (waitRing s) ((waitRing s).map JRec.size).sum (pageSize s) then progRing s
  else if pageDue s (waitSnap s) (waitSnap s).length (snapPerPage s) then progSnap s
  else s

/-- The bytes a page program puts on its page. -/
def pageBytes (s : State) (p : PageProg) : Bytes :=
  if p.snap then
    sealRec (jKey s) { kind := 7, data := p.recs.flatMap (fun r => sub r.data 0 16), jcnt := (p.recs.headD {}).jcnt }
  else p.recs.flatMap (sealRec (jKey s))

/-- Records queued before a JF_SYNC that are not durable yet. -/
def syncOpen (s : State) (w : SyncWait) : Bool :=
  s.jf.queue.any (fun r => decide (r.qn < w.qn))
  || (match s.jf.prog with | some p => p.recs.any (fun r => decide (r.qn < w.qn)) | none => false)

/-- RESULT of a journal command (R442). -/
def jResult (s : State) : Bytes := toLe 8 s.jf.lastJcnt ++ zeros 8

/-- Complete every JF_SYNC whose records are durable (R442). -/
def syncDone (s : State) : State :=
  let d := s.jf.syncs.filter (fun w => !syncOpen s w)
  let s := s.modJf (fun j => { j with syncs := j.syncs.filter (fun w => !d.any (fun x => decide (x = w))) })
  d.foldl (fun s w => finish s w.ring w.idx stOK (jResult s) false) s

/-- Copies of a block that are not durable yet. -/
def copiesOpen (s : State) (b : Nat) : Bool :=
  s.jf.queue.any (fun r => decide (r.src = some b))
  || (match s.jf.prog with | some p => p.recs.any (fun r => decide (r.src = some b)) | none => false)

/-- The erase of a prepared block is issued to the device once its copies are durable and no program runs (R57, R429). -/
def issueErase (s : State) : State :=
  match s.jf.rot with
  | none => s
  | some b =>
    if s.boot.inReset || s.boot.alarm || s.boot.lockout || s.boot.pfail || !jWrites s || s.jf.prog.isSome || s.flash.erasing.isSome
        || copiesOpen s b then s
    else { s with flash := { s.flash with erasing := some b } }

/-- A programmed page stands: its records are durable (R428). -/
def pageOk (s : State) (p : PageProg) : State :=
  let s := { s with flash := { s.flash with pages := tins s.flash.pages p.row (pageBytes s p) } }
  let s := (s.modJf (fun j => { j with
    prog := none
    lastJcnt := p.recs.foldl (fun m r => max m r.jcnt) j.lastJcnt
    wpage := if p.snap then j.wpage else j.wpage + 1
    spage := if p.snap then j.spage + 1 else j.spage })).inc 0x39328 31 0
  issueErase (syncDone (promote (p.recs.foldl recDurable s)))

/-- Queue forward copies of records of a block (R429). -/
def copyForward (s : State) (b : Nat) (l : List JRec) : State :=
  l.foldl (fun s r => s.jPut { r with src := some b }) s

/-- The live records of a ring block; tombstones and LOG records are left out (R429). -/
def liveOf (s : State) (b : Nat) (tombs : Bool) : List JRec :=
  let all := ringRecs s
  ((all.filter (fun r => decide (r.1 / 64 = b) && isLive (all.map (·.2)) r.2)).map (·.2)).filter
    (fun r => decide (r.kind ≠ 1) && (tombs || !(decide (r.kind = 4) && decide (leAt r.data 25 1 = 0))))

/-- A page program failed (R431): the block is bad, the records go to the next good block, live records are copied. -/
def pageFail (s : State) (p : PageProg) : State :=
  let b := p.row / 64
  let live := if p.snap then [] else liveOf s b true
  let s := s.modJf (fun j => { j with
    prog := none, queue := p.recs.filter (fun r => decide (r.kind ≠ 1)) ++ j.queue
    wpage := if p.snap then j.wpage else 64, spage := if p.snap then 64 else j.spage })
  copyForward (setBad s b) b live

/-- PAGE_PROGRAM_DONE (R428, R431). -/
def pageDone (s : State) (ok : Bool) : State :=
  match s.jf.prog with
  | none => s
  | some p => if s.boot.inReset || s.boot.alarm || s.boot.lockout then s else if ok then pageOk s p else pageFail s p

/-! ### Rotation, erase, scrub (R429 to R432) -/

/-- LOG records of a block, dropped at its rotation (R429). -/
def logsOf (s : State) (b : Nat) : Nat :=
  ((blockRows s b).flatMap (fun r => (readRow s r).1)).countP (fun r => decide (r.kind = 5))

/-- Prepare a ring block for erase (R429): its live records are copied, LOG records are dropped and counted. -/
def prepare (s : State) (b : Nat) : State :=
  let live := liveOf s b false
  let s := s.incBy 0x39320 31 0 (logsOf s b)
  issueErase (copyForward (s.modJf (fun j => { j with rot := some b })) b live)

/-- KEY records more than 15 blocks behind the write pointer move forward, tombstones included (R429). -/
def keySpan (s : State) : State :=
  let b := keyLow s
  if ringAge s b > 15 ∧ s.jf.rot ≠ some b then
    copyForward s b ((liveOf s b true).filter (fun r => decide (r.kind = 4)))
  else s

/-- BLOCK_ROTATION (R429). -/
def blockRotation (s : State) : State :=
  if s.halted || !jWrites s || s.jf.rot.isSome || !s.jf.rotDue then s
  else
    let s := keySpan (s.modJf (fun j => { j with rotDue := false }))
    let b := nextActive s s.jf.wblk
    if s.jf.erased.contains b then s else prepare s b

/-- An erase issued before goes on inside the device after the journal manager has stopped (R53). -/
def eraseInside (s : State) (ok : Bool) : State :=
  match s.flash.erasing with
  | none => s
  | some b => { s with flash := { s.flash with
      erasing := none, pages := if ok then s.flash.pages.filter (fun p => decide (p.1 / 64 ≠ b)) else s.flash.pages } }

/-- BLOCK_ERASE_DONE (R53, R57, R429 to R431). -/
def eraseDone (s : State) (ok : Bool) : State :=
  if s.boot.inReset || s.boot.alarm || s.boot.lockout || s.boot.pfail || !jWrites s then eraseInside s ok
  else match (issueErase s).flash.erasing with
    | none => s
    | some b =>
      let s := eraseInside (issueErase s) ok
      let s := s.modJf (fun j => { j with rot := if j.rot = some b then none else j.rot })
      if ok then
        (s.modJf (fun j => { j with erased := b :: j.erased, unreadable := j.unreadable.filter (fun r => decide (r / 64 ≠ b)) })).inc
          0x3932C 31 0
      else setBad s b

/-- JOURNAL_NO_ANSWER (R431). -/
def noAnswer (s : State) : State :=
  if s.boot.inReset ∨ ¬ (s.jf.state = 1 ∨ s.jf.state = 2) then s
  else setJState (s.modJf (fun j => { j with queue := match j.prog with | some p => p.recs ++ j.queue | none => j.queue, prog := none })) 3

/-- A day in Almanac units. -/
def dayUnits : Nat := 86400 * 16000000

/-- The scrub reads one programmed page (R432): ecc 0 none, 1 corrected below the refresh level, 2 at or above it,
3 uncorrectable (R52). `snap` prepares a snapshot block for erase. -/
def scrubRead (snap : State → Nat → State) (s : State) (ecc : Nat) : State :=
  if s.halted || !(jWrites s || (decide (s.jf.state = 3) && s.flash.present)) then s
  else
    let s := match s.jf.scrub with
      | some _ => s
      | none => if s.jf.scrubAt + s.fcf 0x5300 25 18 * dayUnits ≤ s.alm.time then
          s.modJf (fun j => { j with scrub := some 0, scrubAt := s.alm.time }) else s
    match s.jf.scrub with
    | none => s
    | some r0 =>
      match (tkeys s.flash.pages).find? (fun r => decide (r ≥ r0) && decide (r ≥ 64)) with
      | none => s.modJf (fun j => { j with scrub := none })
      | some row =>
        let s := s.modJf (fun j => { j with scrub := some (row + 1) })
        let bad (s : State) : State := (s.modJf (fun j => { j with unreadable := row :: j.unreadable })).evt 0x5304 7
        if ecc = 3 then bad (s.inc 0x39318 31 16)
        else if !(readRow s row).2 then bad (s.inc 0x3931C 31 0)
        else if ecc = 2 ∧ s.jf.rot = none ∧ row / 64 ≠ s.jf.wblk ∧ row / 64 ≠ s.jf.sblk then
          let s := s.inc 0x39318 15 0
          if row / 64 < 81 then prepare s (row / 64)
          else if row / 64 ≥ snapFirst s then snap s (row / 64) else s
        else s

/-! ### Commands (R442 to R444) -/

/-- Body ranges of a journal command (R442, R443). -/
def jBody (op : Nat) (d : Bytes) : Bool :=
  if op = 0x70 then
    decide (sub d 8 4 = [0x46#8, 0x52#8, 0x4d#8, 0x54#8]) && decide (leAt d 0x0C 2 ≤ 512) && decide (16 ≤ leAt d 0x0E 2)
    && decide (leAt d 0x0E 2 ≤ 448) && decide (leAt d 0x10 4 ≤ 0x0FFF0000)
  else decide (op = 0x71) || decide (op = 0x72)

/-- Reserved bytes of a journal command. -/
def jRsvd (op : Nat) (d : Bytes) : Bool := if op = 0x70 then rsvdZero d [(0x14, 44)] [] else rsvdZero d [(0x08, 56)] []

/-- Write records into one page at once, with fresh JCNTs: format and mount (R437, R443). DEDUCED (log entry 70). -/
def writeNow (s : State) (row : Nat) (recs : List JRec) : State :=
  let recs := number s.jf.jcnt recs
  let s := { s with flash := { s.flash with pages := tins s.flash.pages row (recs.flatMap (sealRec (jKey s))) } }
  let s := (s.modJf (fun j => { j with
    jcnt := j.jcnt + recs.length, lastJcnt := recs.foldl (fun m r => max m r.jcnt) j.lastJcnt })).inc 0x39328 31 0
  promote (recs.foldl recDurable s)

/-- Write records into the next page of the ring at once, behind a CKPT record where the page is the first of its block. -/
def writeRing (s : State) (recs : List JRec) : State :=
  match ringSlot s with
  | none => s
  | some s =>
    let ck : List JRec := if s.jf.wpage = 0 then [{ kind := 1, data := ckptBody s, urgent := true }] else []
    (writeNow s (64 * s.jf.wblk + s.jf.wpage) (ck ++ recs)).modJf (fun j => { j with wpage := j.wpage + 1 })

/-- The body of the LABEL record (R427). -/
def labelBody (s : State) : Bytes :=
  [1#8] ++ toBe 1 s.flash.pageLog2 ++ toBe 2 s.flash.blocks ++ toBe 2 s.jf.img ++ toBe 2 (snapFirst s) ++ toBe 2 s.jf.snap
  ++ sub s.flash.devId 0 4 ++ toBe 6 s.count

/-- The LEASE and MARK records of a page written at format or mount. -/
def leaseRecs (s : State) (n : Nat) : List JRec :=
  (List.range 3).map (fun i => { kind := 2, id := n + i, data := leaseBody s (n + i), urgent := true })
def markRec (m : Nat) : JRec := { kind := 3, data := toBe 6 m ++ zeros 2, urgent := true }

/-- Take three leases from n on, to be made durable by the page that follows. -/
def expectLeases (s : State) (n : Nat) : State :=
  s.modJf (fun j => { j with leaseTop := max j.leaseTop (n + 2), queuedLeases := j.queuedLeases ++ [n, n + 1, n + 2] })

/-- The format itself (R443): erase, labels, CKPT, leases, MARK. DEDUCED (log entry 70). -/
def format (s : State) (img snap floor : Nat) : State :=
  let s := s.modJf (fun j => { j with img := img, snap := snap, bad := s.flash.factory, unreadable := [] })
  let s := { s with flash := { s.flash with pages := [] } }
  let s := s.incBy 0x3932C 31 0 (idxs (81 + 2 * img + snap) (fun b => !s.flash.factory.contains b)).length
  let s := writeNow s 0 [{ kind := 8, data := labelBody s, urgent := true }]
  let s := writeNow s 1 [{ kind := 8, data := labelBody s, urgent := true }]
  let b := (activeRing s).headD 1
  let n := floor + 1
  let s := expectLeases s n
  let s := writeNow s (64 * b) ([{ kind := 1, data := ckptBody s, urgent := true }] ++ leaseRecs s n ++ [markRec (s.count + 2 ^ 24)])
  let s := s.modJf (fun j => { j with
    wblk := b, wpage := 1, sblk := 0, spage := 64, erased := (activeRing s).drop 1 ++ snapBlocks s
    rot := none, rotDue := false })
  (gradeRing (setJState s 1)).evt 0x5304 0

/-- JF_FORMAT (R441, R443). `rooted` says that the lifecycle is ROOTED or DEPLOYED. DEDUCED (log entry 72). -/
def jfFormat (rooted : Bool) (s : State) (k i : Nat) : State :=
  if s.halted then s else withItem s k i 0x70 (fun it =>
    let d := it.desc
    let img := leAt d 0x0C 2
    let snap := leAt d 0x0E 2
    if 81 + 2 * img + snap > s.flash.blocks then finish s k i stMalformed (jResult s) false
    else if !(decide (s.jf.result = 2) || decide (s.jf.result = 3)) || s.vault.carnival || !rooted then
      finish s k i stLocked (jResult s) false
    else
      let s := format s img snap (leAt d 0x10 4)
      finish s k i stOK (jResult s) false)

/-- JF_SYNC (R442, R444). -/
def jfSync (s : State) (k i : Nat) : State :=
  if s.halted then s else withItem s k i 0x71 (fun _ =>
    if s.jf.state = 0 ∨ s.jf.state = 3 then finish s k i stLocked (jResult s) false
    else if s.jf.syncs.any (fun w => decide (w.ring = k) && decide (w.idx = i)) then s
    else syncDone (s.modJf (fun j => { j with
      queue := j.queue.map (fun r => { r with urgent := true }), syncs := j.syncs ++ [{ ring := k, idx := i, qn := j.qn }] })))

/-- JF_SCRUB (R442). -/
def jfScrub (s : State) (k i : Nat) : State :=
  if s.halted then s else withItem s k i 0x72 (fun _ =>
    let s := if s.jf.scrub = none then s.modJf (fun j => { j with scrub := some 0, scrubAt := s.alm.time }) else s
    finish s k i stOK (jResult s) false)

/-! ### The Calends mark and the mount (R437 to R441) -/

/-- The coming count would pass the durable MARK (R438). DEDUCED (log entry 112). -/
def markPassed (s : State) : Bool := decide (s.jf.state ≠ 0) && decide (s.jf.state ≠ 4) && decide (s.count + 1 > s.jf.mark)

/-- MARK at every Calends (R438): a new one is queued in time. -/
def markTick (s : State) : State :=
  let c := s.count
  if s.jf.state = 0 ∨ s.jf.state = 4 then s
  else if c + 2 ^ 23 ≥ s.jf.mark ∧ s.jf.markQueued = none then
    (s.modJf (fun j => { j with markQueued := some (c + 2 ^ 24) })).jPut (markRec (c + 2 ^ 24))
  else s

/-- What the label read at mount gives (R439 step 2): none where no copy verifies. -/
def readLabel (s : State) : Option JRec :=
  let l := ((readRow s 0).1 ++ (readRow s 1).1).filter (fun r => decide (r.kind = 8))
  l.foldl (fun m r => match m with | none => some r | some x => if r.jcnt > x.jcnt then some r else some x) none

/-- The device is one that R52 supports: pages of 2 or 4 KiB, 64 to a block, 1 to 8 Gbit. DEDUCED (log entry 169). -/
def deviceFits (s : State) : Bool :=
  (decide (s.flash.pageLog2 = 11) || decide (s.flash.pageLog2 = 12))
  && decide (2 ^ 30 ≤ s.flash.blocks * 2 ^ (s.flash.pageLog2 + 9)) && decide (s.flash.blocks * 2 ^ (s.flash.pageLog2 + 9) ≤ 2 ^ 33)

/-- The mount result of R439, where the device answers or not. -/
def mountResult (s : State) (answers : Bool) : Nat :=
  if s.vault.carnival then 5
  else if !answers || !s.flash.present || !deviceFits s then 4
  else if (blockRows s 0).all (fun r => decide (r ≠ 0)) then 2
  else match readLabel s with
    | none => 3
    | some r => if sub r.data 14 4 = sub s.flash.devId 0 4 then 1 else 4

/-- Highest JCNT of a block's first record: the newest block holds the greatest (R439 step 3). -/
def newestBlock (s : State) : Nat :=
  (((List.range 81).drop 1).foldl (fun (m : Nat × Nat) b =>
    match (readRow s (64 * b)).1 with
    | r :: _ => if r.jcnt ≥ m.1 then (r.jcnt, b) else m
    | [] => m) (0, 0)).2

/-- Records in the order given, cut into runs that one page of the ring takes. -/
def pageRuns (room : Nat) : Nat → List JRec → List (List JRec)
  | 0, _ => []
  | f + 1, l => match takeFit room l with
    | ([], _) => []
    | (a, b) => a :: pageRuns room f b

/-- Step 5 of the mount (R439): where the next active block is not erased, its live records are copied and it is erased,
as in R429. The copies are taken before the erase and written at once after it. DEDUCED (log entry 70). -/
def mountErase (s : State) : State :=
  let b := nextActive s s.jf.wblk
  if s.jf.erased.contains b || (blockRows s b).isEmpty || decide (b = s.jf.wblk) then s
  else
    let live := (liveOf s b false).map (fun r => { r with src := some b })
    let s := s.incBy 0x39320 31 0 (logsOf s b)
    let s := { s with flash := { s.flash with pages := s.flash.pages.filter (fun p => decide (p.1 / 64 ≠ b)) } }
    let s := (s.modJf (fun j => { j with
      erased := b :: j.erased, unreadable := j.unreadable.filter (fun r => decide (r / 64 ≠ b)) })).inc 0x3932C 31 0
    (pageRuns (pageSize s - 560) live.length live).foldl writeRing s

/-- Steps 3 to 6 of the mount of a device whose label verifies (R437 to R439). `torn` names a page that power loss tore. -/
def mountRing (s : State) (label : JRec) (unreadable : List Nat) : State :=
  let s := s.modJf (fun j => { j with
    img := beAt label.data 4 2, snap := beAt label.data 8 2, unreadable := unreadable, bad := s.flash.factory })
  let nb := newestBlock s
  let recs : List JRec := (blockRows s nb).flatMap (fun r => (readRow s r).1)
  let ck := (recs.filter (fun (r : JRec) => decide (r.kind = 1))).getLast?
  let after : List JRec := match ck with | some c => recs.filter (fun (r : JRec) => decide (r.jcnt > c.jcnt)) | none => recs
  let leases := after.filter (fun (r : JRec) => decide (r.kind = 2))
  let hi := leases.foldl (fun (m : Nat) (r : JRec) => max m r.id) ((ck.map (fun c => beAt c.data 0 4)).getD 0)
  let mk := (after.filter (fun r => decide (r.kind = 3))).foldl (fun (m : Nat) (r : JRec) => max m (beAt r.data 0 6)) ((ck.map (fun c => beAt c.data 4 6)).getD 0)
  let map := (ck.map (fun c => sub c.data 16 512)).getD []
  let bad := (List.range 4096).filter (fun b => bit (leAt map (b / 8) 1) (b % 8))
  let allLease := ((ringRecs s).map (·.2)).filter (fun r => decide (r.kind = 2))
  let newest := allLease.foldl (fun (m : Option JRec) r => match m with | none => some r | some x => if r.jcnt > x.jcnt then some r else some x) none
  let top := ((tkeys s.flash.pages).flatMap (fun r => (readRow s r).1)).foldl (fun (m : Nat) (r : JRec) => max m r.jcnt) label.jcnt
  let s := s.modJf (fun j => { j with bad := bad ++ s.flash.factory.filter (fun b => !bad.contains b) })
  let act := activeRing s
  let prev := (act.getD ((act.idxOf nb + act.length - 1) % max act.length 1) 0)
  let last := (blockRows s nb).foldl max 0
  let wide := unreadable.any (fun r => decide (r ≠ last) && (decide (r / 64 = nb) || decide (r / 64 = prev)))
  let n := hi + (if wide then 256 else 1)
  let s := s.modJf (fun j => { j with
    jcnt := (top / 0x10000 + 1) * 0x10000, leaseHi := hi, mark := mk, wide := wide
    ringRead := (newest.map (fun r => leAt r.data 8 1)).getD 0, leaseRead := newest.isSome
    wblk := nb, wpage := last % 64 + 1, sblk := 0, spage := 64
    erased := act.filter (fun b => (blockRows s b).isEmpty) ++ (snapBlocks s).filter (fun b => (blockRows s b).isEmpty) })
  let s := expectLeases (mountErase s) n
  let m := max (mk + 1) (s.fuses.era * 2 ^ 44 + 1)
  gradeRing ((setJState (writeRing s (leaseRecs s n ++ [markRec (m + 2 ^ 24)])) 1).evt 0x5304 0)

/-- KEY records handed to the vault in P3: every readable one that is not withheld; and how many are (R433, R440). -/
def keyRecords (s : State) : List JRec × Nat :=
  let all := (ringRecs s).filter (fun r => decide (r.2.kind = 4))
  let last := (blockRows s s.jf.wblk).foldl max 0
  let cut := (s.jf.unreadable.filter (fun r => decide (64 ≤ r) && decide (r < 81 * 64) && decide (r ≠ last))).map (fun r =>
    (all.filter (fun x => decide (x.1 > r) && decide (x.1 / 64 = r / 64))).foldl (fun m x => min m x.2.jcnt)
      (((ringRecs s).filter (fun x => decide (ringAge s (x.1 / 64) < ringAge s (r / 64)))).foldl (fun m x => min m x.2.jcnt) (2 ^ 64)))
  let held (x : Nat × JRec) : Bool := cut.any (fun c => decide (x.2.jcnt < c)) && decide (ringAge s (x.1 / 64) ≤ 16)
  ((all.filter (fun x => !held x)).map (·.2), (all.filter held).length)

/-- JF_SYNC. -/
def execJfSync (k : Fin 64) (i : Nat) (s : State) : Host.Outcome State Fault Refusal := .next (jfSync s k i)
/-- JF_SCRUB. -/
def execJfScrub (k : Fin 64) (i : Nat) (s : State) : Host.Outcome State Fault Refusal := .next (jfScrub s k i)
/-- PAGE_PROGRAM. -/
def execPageProgram (s : State) : Host.Outcome State Fault Refusal := .next (pageProgram s)
/-- BLOCK_ROTATION. -/
def execBlockRotation (s : State) : Host.Outcome State Fault Refusal := .next (blockRotation s)
/-- BLOCK_ERASE_DONE. -/
def execBlockEraseDone (ok : Bool) (s : State) : Host.Outcome State Fault Refusal := .next (eraseDone s ok)
/-- JOURNAL_NO_ANSWER. -/
def execJournalNoAnswer (s : State) : Host.Outcome State Fault Refusal := .next (noAnswer s)

end Sys2Proof.Machine
end

