-- ==== Sys2Proof/Machine/AlmStore.lean ====
section
/-! DEFINITION. Where the Almanac keeps its entries: three protected DRAM areas with one tree, an entry cache and a node cache
(R352, R355, R356, R358, R359). -/

namespace Sys2Proof.Machine

/-- Change the Almanac. -/
def State.modAlm (s : State) (f : Almanac → Almanac) : State := { s with alm := f s.alm }

/-- The 32 bytes of an entry (R352). -/
def AlmEntry.bytes (e : AlmEntry) : Bytes :=
  toLe 4 e.node ++ toLe 8 e.refTime ++ toLe 4 e.refTs ++ toLe 4 (unsigned 32 e.drift) ++ toLe 2 e.jitter ++ toLe 4 e.last
  ++ toLe 1 e.epoch ++ toLe 1 e.bmiss ++ toLe 1 e.owner
  ++ toLe 1 (e.state + 4 * b2n e.present + 8 * b2n e.anchor + 16 * e.good)
  ++ toLe 1 (b2n e.s154 + 2 * b2n e.snapDirty) ++ [0#8]

/-- An entry read from its 32 bytes (R352). -/
def almOfBytes (b : Bytes) : AlmEntry :=
  { node := leAt b 0 4, refTime := leAt b 4 8, refTs := leAt b 0x0C 4, drift := signed 32 (leAt b 0x10 4)
    jitter := leAt b 0x14 2, last := leAt b 0x16 4, epoch := leAt b 0x1A 1, bmiss := leAt b 0x1B 1
    owner := leAt b 0x1C 1 % 64, state := leAt b 0x1D 1 % 4, present := bit (leAt b 0x1D 1) 2
    anchor := bit (leAt b 0x1D 1) 3, good := leAt b 0x1D 1 / 16, s154 := bit (leAt b 0x1E 1) 0
    snapDirty := bit (leAt b 0x1E 1) 1 }

/-- Address of a tag line (level 0) or tree node (R355). -/
def almAddr (s : State) (k i : Nat) : Nat :=
  if k = 0 then s.alm.tag * 2 ^ 17 + 64 * i else s.alm.tree * 2 ^ 16 + 64 * (almPrefix s.alm.log2 k + i)

/-- The node cache's line at a level and index. -/
def findAlm (s : State) (k i : Nat) : Option AlmNode :=
  s.alm.nodes.find? (fun n => decide (n.level = k) && decide (n.idx = i))

/-- Change a line of the node cache and make it the most recently used. -/
def touchAlm (s : State) (k i : Nat) (f : AlmNode → AlmNode) : State :=
  match findAlm s k i with
  | none => s
  | some n => s.modAlm (fun a => { a with
      nodes := f n :: a.nodes.filter (fun x => !(decide (x.level = k) && decide (x.idx = i))) })

/-- The seal of a tag line or node, as its parent or the root holds it (R261, R356). -/
def almSeal (s : State) (k i : Nat) : Nat :=
  if k ≥ almDepth s.alm.log2 then s.alm.root
  else match findAlm s (k + 1) (i / 8) with
    | some p => leAt p.data (8 * (i % 8)) 8
    | none => 0

/-- Write a seal into the resident parent or into both copies of the root (R262, R264). -/
def setAlmSeal (s : State) (k i v : Nat) : State :=
  if k ≥ almDepth s.alm.log2 then s.modAlm (fun a => { a with root := v, rootCopy := v })
  else touchAlm s (k + 1) (i / 8) (fun p => { p with data := overlay p.data (8 * (i % 8)) (toLe 8 v), dirty := true })

/-- Tree number of the Almanac's seals (R356). -/
def almTreeNo : Nat := 0x10

/-- Write a dirty line of the node cache back and drop it, after the resident lines below it (R264), over f levels. -/
def almEvict : Nat → State → AlmNode → State
  | 0, s, _ => s
  | f + 1, s, n =>
    let s := if n.level = 0 then s else
      (s.alm.nodes.filter (fun x => decide (x.level + 1 = n.level) && decide (x.idx / 8 = n.idx))).foldl (almEvict f) s
    match findAlm s n.level n.idx with
    | none => s
    | some n =>
      let s := s.modAlm (fun a => { a with nodes := a.nodes.filter (fun x => !(decide (x.level = n.level) && decide (x.idx = n.idx))) })
      if !n.dirty then s
      else
        let addr := almAddr s n.level n.idx
        dramPut (setAlmSeal s n.level n.idx (sealOf s.alm.ks n.data n.level almTreeNo addr)) addr n.data

/-- Put a line into the node cache of 2,048 lines; the path of tag line j is not evicted (R359). -/
def almInsert (s : State) (j : Nat) (n : AlmNode) : State :=
  let s := if s.alm.nodes.length ≥ 2048 then
      (match (s.alm.nodes.filter (fun x => decide (x.idx ≠ j / 8 ^ x.level))).getLast? with
       | some v => almEvict 10 s v | none => s) else s
  s.modAlm (fun a => { a with nodes := n :: a.nodes })

/-- Why an entry cannot be read (R358). -/
inductive AlmStop where
  /-- A seal or tag check failed: absent for this transaction. -/
  | fails
  /-- The group or its tree path is LOST. -/
  | lost
  deriving DecidableEq, Repr

/-- A corrected error in the areas (R373). -/
def almCe (s : State) : State := s.inc 0x39104 31 16

/-- Bring one level of the path of tag line j into the node cache (R248, R257, R263): an uncorrectable tag line makes its group LOST,
an uncorrectable node the part of the tree below it. DESIGN CHOICE (log entry 46). -/
def almLevel (s : State) (j k : Nat) : State × Option AlmStop :=
  let i := j / 8 ^ k
  match findAlm s k i with
  | some _ => (touchAlm s k i id, none)
  | none =>
    let sv := almSeal s k i
    if sv = 0 then (almInsert s j { level := k, idx := i, data := zeros 64 }, none)
    else if sv = sealLost then (s, some .lost)
    else
      let addr := almAddr s k i
      let ce := decide (s.dm addr = 1)
      let b := dramGet s addr 64
      if s.dm addr = 2 then
        (if k = 0 then (almInsert s j { level := 0, idx := i, data := tlLost 2, dirty := true }, none)
         else (setAlmSeal s k i sealLost, some .lost))
      else
        let s := if ce then almCe s else s
        if sealOf s.alm.ks b k almTreeNo addr ≠ sv then (s, some .fails)
        else (almInsert s j { level := k, idx := i, data := b, dirty := ce }, none)

/-- Make tag line j and its path resident: the tag line, or why it cannot be had. -/
def almTag (s : State) (j : Nat) : State × Except AlmStop Bytes :=
  let r := (List.range (almDepth s.alm.log2 + 1)).reverse.foldl (fun (p : State × Option AlmStop) k =>
    match p.2 with
    | some _ => p
    | none => almLevel p.1 j k) (s, none)
  match r.2 with
  | some e => (r.1, .error e)
  | none => match findAlm r.1 0 j with
    | some n => if tlMajor n.data = majorLost then (r.1, .error .lost) else (r.1, .ok n.data)
    | none => (r.1, .error .fails)

/-- Address of the line that holds entry e (R355). -/
def almLine (s : State) (e : Nat) : Nat := s.alm.base * 2 ^ 20 + 64 * (e / 2)

/-- The plaintext of a line of the entry area under its tag line: zeros where nothing was written (R242, R356).
DESIGN CHOICE (log entry 46). -/
def almOpen (s : State) (b : Bytes) (e : Nat) : Except AlmStop Bytes :=
  let i := e / 2 % 8
  let a := almLine s e
  match lineState 2 b i with
  | .unwritten => .ok (zeros 64)
  | .written =>
    let ct := dramGet s a 64
    if s.dm a ≠ 2 ∧ lineTag s.alm.kt 0 a (tlMajor b) (tlMinor b i) ct = tlTag b i then
      .ok (lineCrypt s.alm.kd 0 a (tlMajor b) (tlMinor b i) ct)
    else .error .fails
  | .lost => .error .lost
  | .poisoned => .error .fails
  | .corrupt => .error .fails

/-- Encrypt and tag one line of the entry area under a MAJOR and minor counter; the tag line with it. -/
def almClose (s : State) (b : Bytes) (e mj mn : Nat) (pt : Bytes) : State × Bytes :=
  let a := almLine s e
  let ct := lineCrypt s.alm.kd 0 a mj mn pt
  (dramPut s a ct, tlSet b (e / 2 % 8) mn (lineTag s.alm.kt 0 a mj mn ct))

/-- Store a resident tag line's new content. -/
def almSetTag (s : State) (j : Nat) (b : Bytes) : State := touchAlm s 0 j (fun n => { n with data := b, dirty := true })

/-- Entries made absent under R358: LOST of ALM_SWEEP, tombstones, ALM_EVT.GROUP_LOST. -/
def almDropGroup (s : State) (j : Nat) : State :=
  let gone := s.alm.present.filter (fun p => decide (p.1 / 16 = j))
  let s := s.modAlm (fun a => { a with
    present := a.present.filter (fun p => decide (p.1 / 16 ≠ j)), cache := a.cache.filter (fun c => decide (c.idx / 16 ≠ j))
    tombs := a.tombs ++ gone.map (fun p => p.2 / 4), dirty := a.dirty.filter (fun d => decide (d.1 / 16 ≠ j)) })
  (s.incBy 0x39128 31 16 gone.length).evt 0x510C 2

/-- Re-encrypt a group under the next MAJOR with minor counter 1 (R250), line e with its new content; at the limit of R252
the group is reinitialised instead (R358). -/
def almWrap (s : State) (j e : Nat) (b pt : Bytes) : State :=
  let mj := tlMajor b + 1
  if mj % 2 ^ 40 ≥ 0xFFFFFF0000 then almDropGroup (almSetTag s j (tlInitial 0)) j
  else
    let r := (List.range 8).foldl (fun (p : State × Bytes) i =>
      let x := 16 * j + 2 * i
      if i = e / 2 % 8 then almClose p.1 p.2 x mj 1 pt
      else if lineState 2 b i ≠ .written then p
      else match almOpen s b x with
        | .ok o => almClose p.1 p.2 x mj 1 o
        | .error _ => (p.1, overlay p.2 (9 + 7 * i) tagPoison)) (s, tlSetMajor b mj)
    almSetTag r.1 j r.2

/-- The line of entry e as it stands, for the write of one of its halves: where its check fails the other entry of the line is what the
entry cache holds of it, or absent (R358). DESIGN CHOICE (log entry 46). -/
def almOld (s : State) (b : Bytes) (e : Nat) : Bytes :=
  let l := match almOpen s b e with | .ok l => l | .error _ => zeros 64
  let o := if e % 2 = 0 then e + 1 else e - 1
  match s.alm.cache.find? (fun x => decide (x.idx = o)) with
  | some c => overlay l (32 * (o % 2)) c.data
  | none => l

/-- A dirty entry reaches its line (R359): whether it could be written. Where its group or path is LOST its group is absent; where a
seal check fails it stays in the cache (R358). DESIGN CHOICE (log entry 46). -/
def almFlush (s : State) (c : AlmCached) : State × Bool :=
  if !c.dirty then (s, true) else
  let j := c.idx / 16
  match almTag s j with
  | (s, .error .lost) => (almDropGroup s j, true)
  | (s, .error .fails) => (s, false)
  | (s, .ok b) =>
    let pt := overlay (almOld s b c.idx) (32 * (c.idx % 2)) c.data
    let i := c.idx / 2 % 8
    if tlMinor b i = 0xFF then (almWrap s j c.idx b pt, true)
    else
      let r := almClose s b c.idx (tlMajor b) (tlMinor b i + 1) pt
      (almSetTag r.1 j r.2, true)

/-- Every dirty line of the Almanac is written to DRAM, and its caches are empty (R359). DEDUCED (log entry 172). -/
def flushAlm (s : State) : State :=
  let s := s.alm.cache.foldl (fun s c => (almFlush s c).1) s
  let s := s.alm.nodes.foldl (almEvict 10) s
  s.modAlm (fun a => { a with cache := [], nodes := [] })

/-- Put an entry into the entry cache: 1,024 sets of 16 ways, least recently used replacement (R359). -/
def almCache (s : State) (c : AlmCached) : State :=
  let set := s.alm.cache.filter (fun x => decide (x.idx % 1024 = c.idx % 1024) && decide (x.idx ≠ c.idx))
  let s := if set.length ≥ 16 then
      match set.getLast? with
      | some v =>
        match almFlush s v with
        | (s, true) => s.modAlm (fun a => { a with cache := a.cache.filter (fun x => decide (x.idx ≠ v.idx)) })
        | (s, false) => s
      | none => s
    else s
  s.modAlm (fun a => { a with cache := c :: a.cache.filter (fun x => decide (x.idx ≠ c.idx)) })

/-- Fetch entry e: its bytes, or why it is absent (R358, R359). -/
def almFetch (s : State) (e : Nat) : State × Except AlmStop Bytes :=
  if s.wedged 0 then (s, .error .fails) else
  match s.alm.cache.find? (fun x => decide (x.idx = e)) with
  | some c => (almCache s c, .ok c.data)
  | none =>
    let s := s.modAlm (fun a => { a with miss := satInc 16 a.miss })
    match almTag s (e / 16) with
    | (s, .error .lost) => (almDropGroup s (e / 16), .error .lost)
    | (s, .error .fails) => (s, .error .fails)
    | (s, .ok b) =>
      let s := if s.dm (almLine s e) = 1 then almCe s else s
      match almOpen s b e with
      | .error .lost => (almDropGroup s (e / 16), .error .lost)
      | .error .fails => (s, .error .fails)
      | .ok l =>
        let d := sub l (32 * (e % 2)) 32
        (almCache s { idx := e, data := d }, .ok d)

/-- Read entry e: its bytes, or nothing where it is absent for this transaction (R358). -/
def almRead (s : State) (e : Nat) : State × Option Bytes :=
  match almFetch s e with
  | (s, .ok b) => (s, some b)
  | (s, .error _) => (s, none)

/-- Entry e cannot be had in this transaction: a tag or seal check of its read fails (R358). -/
def almUnread (s : State) (e : Nat) : Bool :=
  match (almFetch s e).2 with
  | .error .fails => true
  | _ => false

/-- Write entry e, which sets SNAP_DIRTY (R366); an entry that is not present any more yields a tombstone.
DEDUCED (log entry 47). -/
def almWrite (s : State) (e : Nat) (x : AlmEntry) : State :=
  if s.wedged 0 then s else
  let x := { x with snapDirty := x.present }
  let s := almCache s { idx := e, data := x.bytes, dirty := true }
  s.modAlm (fun a =>
    if x.present then { a with present := tins a.present e (4 * x.node + x.state), dirty := tins a.dirty e 1 }
    else { a with
      present := tdel a.present e, dirty := tdel a.dirty e
      tombs := match a.present.find? (fun p => decide (p.1 = e)) with
        | some p => a.tombs ++ [p.2 / 4]
        | none => a.tombs })

/-- Present entries in sync state st: ALM_CNT_s (R373). -/
def almCount (s : State) (st : Nat) : Nat := s.alm.present.countP (fun p => decide (p.2 % 4 = st))

end Sys2Proof.Machine
end

