-- ==== Sys2Proof/Machine/Vault.lean ====
section
/-! DEFINITION. The commands of the Key Vault: admission checks, staging, the commit of staged changes (R120 to R175). -/

namespace Sys2Proof.Machine

/-- The root antifuse bank is blank (R120). -/
def rootBlank (s : State) : Bool := decide (s.fuses.share1 = [])

/-- The lifecycle state (R123): 0 BLANK, 1 ROOTED, 2 DEPLOYED, 3 KILLED. -/
def lifecycle (s : State) : Nat :=
  if s.fuses.kill || (rootBlank s && s.fuses.lock) then 3
  else if rootBlank s then 0 else if s.fuses.bankLock then 2 else 1

/-- Whether a vault opcode is served in the present lifecycle and restore state (R156). -/
def vaultServed (s : State) (op : Nat) : Bool :=
  let l := lifecycle s
  if op = 0x4A then decide (l ≠ 3)
  else if op = 0x50 then (decide (l = 1) || decide (l = 2)) && !s.vault.carnival && decide ((s.slot 0x00A).state = 1)
  else if op = 0x58 ∨ op = 0x59 then decide (l = 1) && !s.vault.carnival
  else decide (l ≠ 3) && (decide (l = 1) || decide (l = 2) || s.vault.carnival) && s.vault.restored

/-- Slots INVALIDATE refuses (R167). -/
def invalidateRefused (n : Nat) : Bool :=
  [0x000, 0x004, 0x007, 0x008, 0x00A, 0x00B, 0x010].contains n || (decide (0x00C ≤ n) && decide (n ≤ 0x01F))

/-- Slots ERASE and SET_LIMIT refuse (R167). -/
def eraseRefused (n : Nat) : Bool := decide (n < 0x020) && decide (n ≠ 0x009)

/-- The lowest default limit among the modes a key permits (R158, R195). DESIGN CHOICE (log entry 10). -/
def defaultLimit (alg ops : Nat) : Nat :=
  if ops % 16 = 0 ∧ ops ≠ 0 then noLimit
  else if (alg = 1 ∨ alg = 2) ∧ ops % 16 ≠ 0 then 2 ^ 32
  else if (alg = 3 ∨ alg = 4) ∧ ops % 4 ≠ 0 then 2 ^ 24
  else (Config.noModeLimit alg ops).toNat

/-- The key references of a vault command that are checked at admission, with the attributes each needs, and the uses each
counts (R134, R155, R165). -/
def vaultKeys (d : Bytes) : List ((KeyRef × (Slot → Bool)) × Nat) :=
  let op := dOp d
  if op = 0x40 then [((keyRef d 0x10, fun x => hasOp x.ops 4), 0)]
  else if op = 0x41 then [((keyRef d 0x10, fun x => hasOp x.ops 4), 1)]
  else if op = 0x42 then [((keyRef d 0x10, fun x => hasOp x.ops 5), 1)]
  else if op = 0x43 then [(({ slot := 0x002 }, fun _ => true), 0)]
  else if op = 0x44 then
    [((keyRef d 8, fun x => !bit x.flags 0 && !([4, 5, 6].contains x.domain)), 0), ((keyRef d 0x10, fun x => hasOp x.ops 5), 1)]
  else if op = 0x50 then [(({ slot := 0x00A }, fun _ => true), 1)]
  else []

/-- Fixed-slot refusals known at admission (R128, R159, R165 to R168). -/
def vaultFixedDeny (d : Bytes) : Bool :=
  let op := dOp d
  let n := leAt d 8 2 % 4096
  if op ≤ 0x45 ∨ op = 0x49 then decide (n < 0x020)
  else if op = 0x46 then invalidateRefused n
  else if op = 0x47 ∨ op = 0x48 then eraseRefused n
  else false

/-- The checks of a vault command at admission after its header and body (R110, R156, R171); 0 where it is admitted.
DEDUCED (log entry 23). DEDUCED (log entry 141). -/
def vaultCheck (s : State) (d : Bytes) : Nat :=
  let op := dOp d
  if !vaultServed s op then stLocked
  else if op = 0x58 ∧ (s.fuses.bankLock ∨ (if leAt d 8 1 = 1 then s.fuses.att else s.fuses.du) ≠ []) then stLocked
  else if op ≤ 0x4A ∧ vaultFixedDeny d then stAttr
  else
    let ks := vaultKeys d
    let st := keyCheck s (ks.map (·.1))
    if st ≠ stOK then st
    else if op ≠ 0x44 ∧ ks.any (fun p => decide ((s.slot p.1.1.slot).state ≠ 1)) then stSpent
    else if ks.any (fun p => decide (p.2 ≠ 0) && decide ((s.slot p.1.1.slot).state = 2)) then stSpent
    else stOK

/-- The usage a vault command counts at admission (R155). -/
def vaultUse (s : State) (d : Bytes) : State :=
  (vaultKeys d).foldl (fun s p => if p.2 = 0 then s else addUses s p.1.1.slot p.2) s

/-- The attribute block of a slot (R157, R165). -/
def attrOf (x : Slot) : Bytes :=
  toLe 1 x.alg ++ toLe 1 x.ops ++ toLe 1 x.roles ++ toLe 1 x.flags ++ toLe 2 x.channels ++ zeros 2
  ++ toLe 5 x.useLimit ++ zeros 3

/-- What the vault holds for an immediate command from admission on (R154): for WRAP the wrapping key and the block to wrap,
for ATTEST the attestation secret, for DELIVER the record of its subject, whether its chain is whole, and the key. -/
def vaultHold (s : State) (d : Bytes) : Bytes :=
  if dOp d = 0x44 then
    (s.slot (keyRef d 0x10).slot).key ++ attrOf (s.slot (keyRef d 8).slot) ++ (s.slot (keyRef d 8).slot).key
  else if dOp d = 0x50 then (s.slot 0x00A).key
  else if dOp d = 0x49 then
    let n := (keyRef d 8).slot
    slotRecord n (s.slot n) 0 ++ toLe 1 (b2n (chainOk s n)) ++ (s.slot n).key
  else []

/-! ### Derivations (R131) -/

/-- Label of a derivation code. -/
def deriveLabel (code : Nat) : String :=
  if code = 1 then "SX4-MEM-KEYID" else if code = 2 then "SX4-MEM-TAG" else if code = 3 then "HUABRY-EPOCH" else "SX4-USER"

/-- The context of a derivation without the generation it may end in: the vault keeps it with the slot (R131, R140). -/
def deriveCtx (d : Bytes) : Bytes :=
  let code := leAt d 0x0B 1
  if code = 1 ∨ code = 2 then sub d 0x0C 1 else if code = 3 then sub d 0x0C 2 else sub d 0x28 16

/-- The material of a derived key of a code under a parent key, for the new generation of its slot (R131, R161). -/
def deriveMat (parent : Bytes) (code : Nat) (ctx : Bytes) (newGen alg : Nat) : Bytes :=
  kdf parent (deriveLabel code) (ctx ++ (if code = 1 ∨ code = 4 then toBe 6 newGen else [])) (algLen alg)

/-- The domain key of a code at a generation (R131). -/
def domainKey (root : Bytes) (code gen : Nat) : Bytes := kdf root "SX4-DOMAIN" (toBe 1 code ++ toBe 6 gen) 32

/-! ### Staging -/

/-- Stage the change of the admitted item (R152, R154). -/
def stageVault (s : State) (k : Nat) (it : Item) (c : VaultChange) : State :=
  let c := { c with ring := k, idx := it.idx, seq := it.seq }
  let l := s.vault.staged
  { modItem s k it.idx (fun x => { x with staged := true }) with
    vault := { s.vault with staged := l.takeWhile (fun x => decide (x.seq < c.seq)) ++ [c] ++ l.dropWhile (fun x => decide (x.seq < c.seq)) } }

/-- Run f on the admitted item unless it is staged already. -/
def stageWith (s : State) (k i op : Nat) (f : Item → State) : State :=
  if s.halted then s else withItem s k i op (fun it => if it.staged then s else f it)

/-- GENERATE (R160): the material is drawn at admission. -/
def generate (s : State) (k i : Nat) : State :=
  stageWith s k i 0x40 (fun it =>
    let n := algLen (leAt it.desc 0x18 1)
    (stageVault s k it { attr := sub it.desc 0x18 16, mat := s.draw n, pgen := (it.keys.headD {}).gen }).drew n)

/-- DERIVE (R161): its material is computed at the commit, from the parent and the generation in force there. -/
def derive (s : State) (k i : Nat) : State :=
  stageWith s k i 0x41 (fun it => stageVault s k it { attr := sub it.desc 0x18 16, pgen := (it.keys.headD {}).gen })

/-- IMPORT_WRAPPED (R162): read, unwrap, check the recovered block. -/
def importWrapped (s : State) (k i : Nat) : State :=
  stageWith s k i 0x42 (fun it =>
    let d := it.desc
    let r := it.keys.headD {}
    let len := leAt d 0x0B 1
    let kek := (s.slot r.slot).key
    match hostRead s (addrAt d 0x18) len with
    | (s, .err) => stageVault s k it { fail := stMalformed }
    | (s, .poison) => stageVault s k it { fail := stPoison }
    | (s, .ok b) =>
      match kwUnwrap kek b with
      | none => stageVault s k it { fail := stAuthFail }
      | some p =>
        if attrOk p 0 && decide (len = 24 + algLen (leAt p 0 1)) then
          stageVault s k it { attr := p.take 16, mat := p.drop 16, pgen := r.gen }
        else stageVault s k it { fail := stMalformed })

/-- IMPORT_CLEAR (R163, R164). -/
def importClear (s : State) (k i : Nat) : State :=
  stageWith s k i 0x43 (fun it =>
    let d := it.desc
    let s := stageVault s k it { attr := sub d 0x10 16, mat := sub d 0x20 (algLen (leAt d 0x10 1)), pgen := (it.keys.headD {}).gen }
    scrubEntry s k i 0x20 32)

/-- PERSIST, INVALIDATE, ERASE, SET_LIMIT and PROVISION_CLOSE stage what their body asks (R166, R167, R175). -/
def stagePlain (s : State) (k i op : Nat) : State := stageWith s k i op (fun it => stageVault s k it {})

/-! ### The commit of staged changes (R82 step 1, R137 to R142) -/

/-- Slots renewed by INVALIDATE, and slots rewritten or erased, earlier in the same commit (R142). -/
structure VaultShadow where
  renewed : List Nat := []
  replaced : List Nat := []
  deriving DecidableEq, Repr

/-- GEN can no longer change (R137). -/
def genMax : Nat := 0xFFFFFFFFFFFF

/-- The parent of an install as the commit sees it: whether the reference bound at admission still holds, or the parent was
renewed and the install is a GENERATE or DERIVE (R142, R171); a parent that became SPENT holds. DESIGN CHOICE (log entry 151). -/
def parentHolds (s : State) (v : VaultShadow) (op par pgen : Nat) : Bool :=
  let p := s.slot par
  decide (p.state ≠ 0) &&
  (decide (op = 0x43) || decide (p.gen = pgen) ||
    ((decide (op = 0x40) || decide (op = 0x41)) && v.renewed.contains par && !v.replaced.contains par))

/-- The limits on a derivation's parent and ALG (R161). -/
def deriveAllowed (s : State) (code par alg : Nat) : Bool :=
  let p := s.slot par
  if code = 1 then decide (par = 1) && (decide (alg = 1) || decide (alg = 2))
  else if code = 2 then decide (p.origin = 0x12) && hasOp p.ops 4 && decide (alg = p.alg)
  else if code = 3 then decide (p.domain = 3) && decide (p.level = 2) && hasOp p.ops 4 && decide (alg = 2)
  else hasOp p.ops 4 && decide (p.domain ≠ 4) && decide (p.domain ≠ 6)

/-- The record an install would write (R132, R159 to R163); its GEN and PGEN are those of the commit. -/
def newRecord (s : State) (d attr : Bytes) : Slot :=
  let op := dOp d
  let par := if op = 0x43 then 2 else leAt d 0x10 2 % 4096
  let p := s.slot par
  let lim := leAt attr 8 5
  let alg := leAt attr 0 1
  let ops := leAt attr 1 1
  { parent := par, pgen := p.gen, gen := (s.slot (vaultSlotOf d)).gen + 1, alg := alg, domain := p.domain
    level := p.level + 1
    origin := if op = 0x40 then 1 else if op = 0x41 then 2 + 16 * leAt d 0x0B 1 else if op = 0x42 then 3 else 4
    ops := ops, roles := leAt attr 2 1, channels := leAt attr 4 2, flags := leAt attr 3 1, state := 1
    useLimit := if lim = 0 then defaultLimit alg ops else lim, created := s.count + 1 }

/-- Validation of an install at the commit (R83, R133, R158, R159, R161, R163, R171). DESIGN CHOICE (log entry 150). -/
def installCheck (s : State) (v : VaultShadow) (d : Bytes) (c : VaultChange) : Nat :=
  let op := dOp d
  let n := vaultSlotOf d
  let x := newRecord s d c.attr
  if (s.slot n).gen ≥ genMax then stLocked
  else if !parentHolds s v op x.parent c.pgen then stOrphan
  else if ((s.slot n).state ≠ 0 ∧ !bit (leAt d 0x0A 1) 0)
      ∨ x.useLimit > defaultLimit x.alg x.ops
      ∨ (op = 0x43 ∧ x.alg ≠ 1 ∧ x.alg ≠ 2)
      ∨ (op = 0x41 ∧ !deriveAllowed s (leAt d 0x0B 1) x.parent x.alg)
      ∨ !recordOk (s.slot x.parent) x then stAttr
  else if !chainOk s x.parent then stOrphan
  else stOK

/-- Apply an install that passed (R140). -/
def install (s : State) (d : Bytes) (c : VaultChange) : State :=
  let op := dOp d
  let n := vaultSlotOf d
  let x := newRecord s d c.attr
  let ctx := if op = 0x41 then some (deriveCtx d) else none
  let mat := if op = 0x41 then deriveMat (s.slot x.parent).key (leAt d 0x0B 1) (deriveCtx d) x.gen x.alg else c.mat
  queueKey (setMaterial (s.modSlot n (fun _ => { x with ctx := ctx })) n mat) n false

/-- Renew a slot under INVALIDATE (R140): fresh draw, re-derivation, or FREE for an imported key.
DEDUCED (log entry 21). DEDUCED (log entry 22). DEDUCED (log entry 102). DESIGN CHOICE (log entry 147). -/
def renew (s : State) (n : Nat) : State :=
  let x := s.slot n
  let g := x.gen + 1
  let set (s : State) : State :=
    s.modSlot n (fun x => { x with gen := g, useCnt := 0, state := 1, created := s.count + 1 })
  let m := algLen x.alg
  if x.level = 1 then queueKey (setMaterial (set s) n (domainKey (s.vault.root.getD []) x.domain g)) n false
  else if x.origin % 16 = 1 then queueKey (setMaterial ((set s).drew m) n (s.draw m)) n false
  else if x.origin % 16 = 2 then
    let s := match x.ctx with
      | some ctx => setMaterial (set s) n (deriveMat (s.slot x.parent).key (x.origin / 16) ctx g x.alg)
      | none => if x.origin / 16 = 2 ∨ x.origin / 16 = 3 then set s else setMaterial ((set s).drew m) n (s.draw m)
    queueKey s n false
  else queueTomb (s.modSlot n (fun _ => { gen := g })) n x

/-- Erase a slot (R140): of its record GEN alone stays. DEDUCED (log entry 22). DESIGN CHOICE (log entry 147). -/
def eraseSlot (s : State) (n : Nat) : State :=
  queueTomb (s.modSlot n (fun x => { gen := x.gen + 1 })) n (s.slot n)

/-- The subject of INVALIDATE, ERASE, SET_LIMIT or PERSIST at the commit: the first condition that stops it (R167, R171).
DEDUCED (log entry 123). -/
def subjectCheck (s : State) (d : Bytes) : Nat :=
  let op := dOp d
  let r := keyRef d 8
  let x := s.slot r.slot
  if (op = 0x46 ∨ op = 0x47) ∧ x.gen ≥ genMax then stLocked
  else if !refLive s r then stOrphan
  else if op = 0x45 ∧ (r.slot < 0x020 ∨ x.domain = 4) then stAttr
  else if op = 0x48 ∧ leAt d 0x10 5 > defaultLimit x.alg x.ops then stAttr
  else if op ≠ 0x47 ∧ !chainOk s r.slot then stOrphan
  else stOK

/-- Apply SET_LIMIT (R140, R167). DEDUCED (log entry 22). -/
def setLimit (s : State) (d : Bytes) : State :=
  let n := vaultSlotOf d
  let l := leAt d 0x10 5
  let x := s.slot n
  let sp := decide (l ≠ noLimit) && decide (x.useCnt ≥ l)
  let s := s.modSlot n (fun x => { x with useLimit := l, state := if sp then 2 else 1 })
  queueKey (if sp && decide (x.state = 1) then s.evt 0x2000 0 else s) n false

/-- Apply PERSIST (R166). -/
def setPersist (s : State) (d : Bytes) : State :=
  let n := vaultSlotOf d
  let on := bit (leAt d 0x10 1) 0
  let x := s.slot n
  let s := s.modSlot n (fun x => { x with flags := setBits x.flags 1 1 (b2n on) })
  if on then queueKey s n false else queueTomb s n x

/-- The record of a fixed slot filled from the operator bank (R126, R128, R174). -/
def fixedSecret (s : State) (n : Nat) : Slot :=
  { parent := 6, pgen := (s.slot 6).gen, gen := (s.slot n).gen + 1, alg := 2, domain := 6, level := 2
    origin := (Config.fixedOrigin n).toNat, ops := (Config.fixedOps n).toNat, flags := (Config.fixedFlags n).toNat
    state := 1, useLimit := (Config.fixedLimit n).toNat, created := s.count + 1 }

/-- The record a KR_KEYLOAD writes into slot 0x009 (R467). -/
def ringKeyRecord (s : State) (attr : Bytes) : Slot :=
  let p := s.slot 0x005
  let lim := leAt attr 8 5
  { parent := 0x005, pgen := p.gen, gen := (s.slot 0x009).gen + 1, alg := leAt attr 0 1, domain := p.domain, level := p.level + 1
    origin := 3, ops := leAt attr 1 1, roles := leAt attr 2 1, channels := leAt attr 4 2, flags := leAt attr 3 1, state := 1
    useLimit := if lim = 0 then defaultLimit (leAt attr 0 1) (leAt attr 1 1) else lim, created := s.count + 1 }

/-- Validation of a KR_KEYLOAD at the commit (R133, R467); `unwrap` is the key that unwrapped it. -/
def ringKeyCheck (s : State) (unwrap : Nat) (c : VaultChange) : Nat :=
  let x := ringKeyRecord s c.attr
  if (s.slot 0x009).gen ≥ genMax then stLocked
  else if (s.slot unwrap).gen ≠ c.pgen ∨ (s.slot unwrap).state = 0 then stOrphan
  else if x.alg ≠ 2 ∨ x.ops ≠ 0x0F ∨ x.roles ≠ 0 ∨ x.channels ≠ 0 ∨ !bit x.flags 1 ∨ x.useLimit > defaultLimit x.alg x.ops
      ∨ !recordOk { s.slot 0x005 with ops := (s.slot unwrap).ops } x then stAttr
  else if !chainOk s 0x005 then stOrphan
  else stOK

/-- Install the ring key as a rewrite of slot 0x009, with its persistence (R147, R467). -/
def installRingKey (s : State) (c : VaultChange) : State :=
  let x := ringKeyRecord s c.attr
  queueKey (setMaterial (s.modSlot 0x009 (fun _ => x)) 0x009 c.mat) 0x009 false

/-- One staged change at its commit (R82, R83): validated, applied or refused, and its completion made final.
The changes of a tick commit in the order of admission, a parent's among them. DESIGN CHOICE (log entry 145). -/
def commitVaultOne (p : State × VaultShadow) (c : VaultChange) : State × VaultShadow :=
  let (s, v) := p
  if c.fixed ≠ 0 then (setMaterial (s.modSlot c.fixed (fun _ => fixedSecret s c.fixed)) c.fixed c.mat, v)
  else match findItem s c.ring c.idx with
  | none => (s, v)
  | some it =>
    if it.seq ≠ c.seq then (s, v) else
    let d := it.desc
    let op := dOp d
    let n := vaultSlotOf d
    let fin (s : State) (st created : Nat) : State := finish s c.ring c.idx st (vaultResult s n created 0) false
    if c.fail ≠ 0 then (fin s c.fail 0, v)
    else if op = 0x78 then
      let st := ringKeyCheck s (leAt d 8 2 % 4096) c
      if st = stOK then (fin (installRingKey s c) stOK (s.count + 1), { v with replaced := n :: v.replaced })
      else (fin s st 0, v)
    else if op ≤ 0x43 then
      let st := installCheck s v d c
      if st = stOK then (fin (install s d c) stOK (s.count + 1), { v with replaced := n :: v.replaced })
      else (fin s st 0, v)
    else if op = 0x59 then
      if s.fuses.attWritten && s.vault.fuseBusy.isNone then
        let s := { s with fuses := { s.fuses with bankLock := true } }.logPut 0x90 0 (toLe 1 1 ++ toLe 1 2)
        (finish s c.ring c.idx stOK (vaultResult s 0 0 0) false, v)
      else (finish s c.ring c.idx stLocked (vaultResult s 0 0 0) false, v)
    else
      let st := subjectCheck s d
      if st ≠ stOK then (fin s st 0, v)
      else if op = 0x46 then (fin (renew s n) stOK 0, { v with renewed := n :: v.renewed })
      else if op = 0x47 then (fin (eraseSlot s n) stOK 0, { v with replaced := n :: v.replaced })
      else if op = 0x48 then (fin (setLimit s d) stOK 0, v)
      else (fin (setPersist s d) stOK 0, v)

/-- Step 1 of R82: every staged vault change in order; then the revocation epoch, tombstones of persisted keys that this
commit orphaned, and the pins of entries whose slot changed (R139, R147, R181). -/
def commitVault (s0 : State) : State :=
  let l := s0.vault.staged
  let s := (l.foldl commitVaultOne ({ s0 with vault := { s0.vault with staged := [] } }, {})).1
  let changed := (tkeys s.vault.slots).filter (fun n => decide ((s.slot n).gen ≠ (s0.slot n).gen))
  if changed = [] then s
  else
    let s := { s with vault := { s.vault with epoch := s.vault.epoch + 1 } }
    let dead := (tkeys s.vault.slots).filter (fun n =>
      (s.slot n).persists && !changed.contains n && chainOk s0 n && !chainOk s n)
    let s := dead.foldl (fun s n => queueTomb s n (s.slot n)) s
    { s with ch := s.ch.map (fun c => (c.1, { c.2 with bank := c.2.bank.map (fun e =>
        if changed.contains e.slot then { e with pinned := false } else e) })) }

/-- PENDING of a slot's record: the staged changes that name it and whose items are open (R132, R142); the install that an
OPBANK_WRITE makes is none of them. DESIGN CHOICE (log entry 148). -/
def pendingOf (s : State) (n : Nat) : Nat :=
  s.vault.staged.foldl (fun a c =>
    match findItem s c.ring c.idx with
    | some it =>
      if it.seq = c.seq ∧ vaultSlotOf it.desc = n ∧ c.fixed = 0 then
        a ||| (let op := dOp it.desc
               if op ≤ 0x43 ∨ op = 0x78 then 1 else if op = 0x46 then 2 else if op = 0x47 then 4 else if op = 0x48 then 8 else 0)
      else a
    | none => a) 0

/-! ### Immediate and fuse commands -/

/-- Run f on the admitted immediate item and take it out of the commands in progress. -/
def immediateWith (s : State) (k i op : Nat) (f : State → Item → State) : State :=
  if s.halted then s else withItem s k i op (fun it => f (endImmediate s) it)

/-- WRAP (R165). -/
def wrapKey (s : State) (k i : Nat) : State :=
  immediateWith s k i 0x44 (fun s it =>
    let n := vaultSlotOf it.desc
    let out := kwWrap (it.hold.take 32) (it.hold.drop 32)
    match hostWrite s (addrAt it.desc 0x18) out with
    | (s, true) => finish s k i stOK (vaultResult s n 0 out.length) false
    | (s, false) => finish s k i stMalformed (vaultResult s n 0 0) true)

/-- QUERY (R169). -/
def queryKey (s : State) (k i : Nat) : State :=
  immediateWith s k i 0x4A (fun s it =>
    let n := vaultSlotOf it.desc
    match hostWrite s (addrAt it.desc 0x10) (slotRecord n (s.slot n) (pendingOf s n)) with
    | (s, true) => finish s k i stOK (vaultResult s n 0 0) false
    | (s, false) => finish s k i stMalformed (vaultResult s n 0 0) true)

/-- Room for one more pinned entry than those of other slots: of 96 the least recently used is unpinned (R181).
DEDUCED (log entry 157). -/
def unpinLru (slot : Nat) (b : List KeyEntry) : List KeyEntry :=
  let p := b.filter (fun e => e.pinned && decide (e.slot ≠ slot))
  let lru := (p.getLastD {}).slot
  if p.length ≥ 96 then b.map (fun (e : KeyEntry) => if e.pinned ∧ e.slot = lru then { e with pinned := false } else e) else b

/-- Pin the copy of a key and make it the most recently used (R181). DESIGN CHOICE (log entry 152). -/
def pinCopy (s : State) (n slot gen : Nat) : State :=
  s.modChan n (fun c => { c with bank := touchCopy c.bank slot gen (fun e => { e with pinned := true, epoch := s.vault.epoch }) })

/-- What stops a DELIVER of a subject held since admission (R154, R168, R171): the channel as it is at delivery, steps 1 to 3 of
R136 under the generations of the admission, R17 at delivery. -/
def deliverCheck (c : Chan) (n : Nat) (r : KeyRef) (x : Slot) (chain : Bool) : Nat :=
  if c.fenced ∨ c.role = 0 ∨ c.role = 4 then stAttr
  else if x.state = 0 ∨ (r.gen ≠ 0 ∧ r.gen ≠ x.gen) then stOrphan
  else if !masksAdmit x c.role n then stAttr
  else if x.state = 3 ∨ chain = false then stOrphan
  else stOK

/-- DELIVER (R154, R168, R171): the subject is the record and the key held since admission; a grant that R148 holds back makes the
command wait (R144); a copy that the bank holds is pinned and restamped, without a new grant. DEDUCED (log entry 141).
DESIGN CHOICE (log entry 152). DEDUCED (log entry 160). DEDUCED (log entry 157). -/
def deliverKey (s : State) (k i : Nat) : State :=
  if s.halted then s else withItem s k i 0x49 (fun it =>
    let r := keyRef it.desc 8
    let n := leAt it.desc 0x10 1 % 16
    let x := slotOfRecord (it.hold.take 48)
    let fin (s : State) (st : Nat) : State := finish (endImmediate s) k i st (vaultResult s r.slot 0 0) false
    let st := deliverCheck (s.chan n) n r x (decide (leAt it.hold 48 1 = 1))
    if st = stAttr then fin (dlvRefused s) stAttr
    else if st ≠ stOK then fin (revalFail s n r.slot) st
    else
      let s1 := s.modChan n (fun c => { c with bank := unpinLru r.slot c.bank })
      match findCopy (s.chan n).bank r.slot x.gen with
      | some _ => fin (pinCopy s1 n r.slot x.gen) stOK
      | none =>
        let now := s.slot r.slot
        let g := if now.gen = x.gen then grantSize now else 0
        if now.gen = x.gen ∧ g = 0 ∧ (now.useLimit = noLimit ∨ now.useCnt < now.useLimit) then s.evt 0x2000 3
        else match loadCopy s1 n r.slot x.gen (it.hold.drop 49) g with
          | none => fin s stLocked
          | some s => fin (pinCopy (if g = 0 then s else addUses s r.slot g) n r.slot x.gen) stOK)

/-- OPBANK_WRITE (R164, R174): burn, read back, and stage the install at the next Calends. -/
def opbankWrite (s : State) (k i : Nat) (readback : Bool) : State :=
  if s.halted then s else withItem s k i 0x58 (fun it =>
    let d := it.desc
    let id := leAt d 8 1
    let secret := sub d 0x10 32
    let n := if id = 1 then 0x00A else 0x00B
    let w := kwWrap (kdf (s.vault.root.getD []) "SX4-FUSE-WRAP" [1#8] 32) secret
    let s := scrubEntry { s with vault := { s.vault with fuseBusy := none } } k i 0x10 32
    let s := { s with fuses := if id = 1 then { s.fuses with att := w, attWritten := readback }
                               else { s.fuses with du := w, duWritten := readback } }
    if readback then
      let s := { s with vault := { s.vault with staged := s.vault.staged ++ [{ seq := it.seq, fixed := n, mat := secret }] } }
      finish s k i stOK (vaultResult s n 0 id) false
    else
      finish { s with vault := { s.vault with opbankErr := true } } k i stLocked (vaultResult s n 0 id) false)

/-- GENERATE. -/
def execGenerate (k : Fin 64) (i : Nat) (s : State) : Host.Outcome State Fault Refusal := .next (generate s k i)
/-- DERIVE. -/
def execDerive (k : Fin 64) (i : Nat) (s : State) : Host.Outcome State Fault Refusal := .next (derive s k i)
/-- IMPORT_WRAPPED. -/
def execImportWrapped (k : Fin 64) (i : Nat) (s : State) : Host.Outcome State Fault Refusal := .next (importWrapped s k i)
/-- IMPORT_CLEAR. -/
def execImportClear (k : Fin 64) (i : Nat) (s : State) : Host.Outcome State Fault Refusal := .next (importClear s k i)
/-- WRAP. -/
def execWrap (k : Fin 64) (i : Nat) (s : State) : Host.Outcome State Fault Refusal := .next (wrapKey s k i)
/-- PERSIST. -/
def execPersist (k : Fin 64) (i : Nat) (s : State) : Host.Outcome State Fault Refusal := .next (stagePlain s k i 0x45)
/-- INVALIDATE. -/
def execInvalidate (k : Fin 64) (i : Nat) (s : State) : Host.Outcome State Fault Refusal := .next (stagePlain s k i 0x46)
/-- ERASE. -/
def execErase (k : Fin 64) (i : Nat) (s : State) : Host.Outcome State Fault Refusal := .next (stagePlain s k i 0x47)
/-- SET_LIMIT. -/
def execSetLimit (k : Fin 64) (i : Nat) (s : State) : Host.Outcome State Fault Refusal := .next (stagePlain s k i 0x48)
/-- DELIVER. -/
def execDeliver (k : Fin 64) (i : Nat) (s : State) : Host.Outcome State Fault Refusal := .next (deliverKey s k i)
/-- QUERY. -/
def execQuery (k : Fin 64) (i : Nat) (s : State) : Host.Outcome State Fault Refusal := .next (queryKey s k i)
/-- OPBANK_WRITE. -/
def execOpbankWrite (k : Fin 64) (i : Nat) (readback : Bool) (s : State) : Host.Outcome State Fault Refusal :=
  .next (opbankWrite s k i readback)
/-- PROVISION_CLOSE. -/
def execProvisionClose (k : Fin 64) (i : Nat) (s : State) : Host.Outcome State Fault Refusal := .next (stagePlain s k i 0x59)

end Sys2Proof.Machine
end

