-- ==== Sys2Proof/Machine/Almanac.lean ====
section
/-! DEFINITION. The tier table (R324 to R328) and the Almanac: time, map, enable, commit, learning, prediction, snapshot and
restore (R350 to R370). -/

namespace Sys2Proof.Machine

/-! ### Tiers -/

/-- Tier t in force. -/
def State.tier (s : State) (t : Nat) : TierEntry := tget {} s.nodes.tiers t

/-- First STATUS offset of the block of tier t (R349, R547). -/
def tierBlock (t : Nat) : Nat := if 64 ≤ t ∧ t < 68 then 0x3E000 + 64 * (t - 64) else 0x3A000 + 64 * t

/-- An epoch field of the holding copy, whose first register lies at off (R348). -/
def holdField (s : State) (off : Nat) : EpochField :=
  let w := s.wr off
  { slot := bits w 11 0, epoch := bits w 23 16, valid := bit w 24, gen := s.wr (off + 4) + s.wr (off + 8) * 2 ^ 32 }

/-- The holding copy of tier t (R328). -/
def holdTier (s : State) (t : Nat) : TierEntry :=
  let o := 0x8000 + 64 * t
  let c := s.wr (o + 8)
  { lo := s.wr o, hi := s.wr (o + 4), en := bit c 0, ul := bit c 1, dl := bit c 2, hlf := bit c 3, s154 := bit c 4
    s154Min := bits c 7 5, a := holdField s (o + 0x0C), b := holdField s (o + 0x18) }

/-- TIER_CTL_t written (R328). -/
def tierCtl (s : State) (t val : Nat) : State :=
  let s := s.putWr (0x8008 + 64 * t) (val % 256)
  if bit val 31 then { s with nodes := { s.nodes with staged := restage s.nodes.staged t (holdTier s t) } } else s

/-- The VALID epoch fields of an entry. -/
def TierEntry.valid (e : TierEntry) : List EpochField := [e.a, e.b].filter (·.valid)

/-- The attributes of an epoch key (R328 code 2). -/
def epochKeyAttr (x : Slot) : Bool :=
  decide (x.domain = 3) && decide (x.level = 3) && decide (x.alg = 2) && hasOp x.ops 4 && bit x.roles 2

/-- The code that refuses a tier entry with EN = 1, 0 for none (R328). -/
def tierCode (s : State) (t : Nat) (e : TierEntry) : Nat :=
  let v := e.valid
  if !s.vault.restored then 4
  else if decide (e.lo > e.hi) || decide (e.lo = 0) || decide (e.hi = 0xFFFFFFFF) || v.isEmpty
      || (e.a.valid && e.b.valid && decide (e.a.epoch = e.b.epoch)) || !(e.hlf || e.s154) || (e.s154 && decide (e.s154Min = 0)) then 6
  else if (tkeys s.nodes.tiers).any (fun u => decide (u ≠ t) && (s.tier u).en && decide ((s.tier u).lo ≤ e.hi) && decide (e.lo ≤ (s.tier u).hi)) then 5
  else if v.any (fun f => decide (f.gen = 0)) then 3
  else if v.any (fun f => !refUsable s { slot := f.slot, gen := f.gen } true) then 1
  else if v.any (fun f => !epochKeyAttr (s.slot f.slot)) then 2
  else 0

/-- The PAGE of an epoch field after the commit (R342): latched where the commit makes it VALID or changes its SLOT, GEN or EPOCH. -/
def newPage (s : State) (old new : EpochField) : EpochField :=
  if (new.valid = true ∧ old.valid = false) ∨ ¬ (old.slot = new.slot ∧ old.gen = new.gen ∧ old.epoch = new.epoch) then
    { new with page := nextGrant s / 2 ^ 32 % 2 ^ 16 }
  else { new with page := old.page }

/-- Commit one staged tier entry (R328). -/
def commitTier (s : State) (c : Nat × TierEntry) : State :=
  let t := c.1
  let e := c.2
  let code := if e.en then tierCode s t e else 0
  let s := s.putSt (tierBlock t + 0x24) code
  if code ≠ 0 then s.evt 0x5004 0
  else
    let o := s.tier t
    { s with nodes := { s.nodes with tiers := tins s.nodes.tiers t { e with a := newPage s o.a e.a, b := newPage s o.b e.b } } }

/-- Commit every staged tier entry (R82 step 1, R328). -/
def commitTiers (s : State) : State :=
  let l := s.nodes.staged
  l.foldl commitTier { s with nodes := { s.nodes with staged := [] } }

/-- The enabled tier that contains a node (R324). -/
def tierOf (s : State) (node : Nat) : Option Nat :=
  (tkeys s.nodes.tiers).find? (fun t => (s.tier t).en && decide ((s.tier t).lo ≤ node) && decide (node ≤ (s.tier t).hi))

/-- The VALID field of a tier with an epoch number. -/
def TierEntry.field (e : TierEntry) (epoch : Nat) : Option EpochField := e.valid.find? (fun f => decide (f.epoch = epoch))

/-! ### Time (R350, R351) -/

/-- TICK_STATUS.PERIOD in force, in 62.5 ns units. -/
def period (s : State) : Nat := s.fcf 0x100 15 0

/-- A(c) (R350); a free value for a count that is not recorded. DESIGN CHOICE (log entry 15). -/
def almA (s : State) (c : Nat) : Nat :=
  match s.alm.times.find? (fun p => decide (p.1 = c)) with
  | some p => p.2
  | none => (Config.almTimeBefore c).toNat

/-- Reception time of an uplink (R351, R369). -/
def rxTime (s : State) (cal sub : Nat) : Nat := almA s cal + (if s.boot.eve then 0 else sub)

/-- Transmission time of a downlink (R351, R369). -/
def txTime (s : State) (cal sub : Nat) : Nat := s.alm.time + (cal - s.count) * period s + (if s.boot.eve then 0 else sub)

/-- This unit's number (R449). -/
def unitNo (s : State) : Nat := s.fcf 0x5800 5 0

/-! ### The map (R353) -/

/-- First and last entry index of tier t. -/
def almSpan (s : State) (t : Nat) : Nat × Nat := (s.fc (0x5400 + 4 * t), s.fc (0x5400 + 4 * t) + ((s.tier t).hi - (s.tier t).lo))

/-- The enabled tiers. -/
def enTiers (s : State) : List Nat := (tkeys s.nodes.tiers).filter (fun t => (s.tier t).en)

/-- The tiers that are unmapped with the tables in force (R353). -/
def unmappedNow (s : State) : List Nat :=
  if !s.alm.en then [] else
  (enTiers s).filter (fun t =>
    decide ((almSpan s t).2 ≥ 2 ^ s.alm.log2)
    || (enTiers s).any (fun u => decide (u ≠ t) && decide ((almSpan s t).1 ≤ (almSpan s u).2) && decide ((almSpan s u).1 ≤ (almSpan s t).2)))

/-- The index of a node under the map in force (R353). -/
def mapIndex (s : State) (node : Nat) : Option Nat :=
  match tierOf s node with
  | none => none
  | some t => if s.alm.unmapped.contains t then none else some ((almSpan s t).1 + (node - (s.tier t).lo))

/-- The index a node is served at: none while the Almanac is disabled or restoring (R367). -/
def almIndex (s : State) (node : Nat) : Option Nat :=
  if s.alm.en && !s.alm.restoring then mapIndex s node else none

/-- The entry of a node with its index, where it is present (R353). -/
def almGet (s : State) (node : Nat) : State × Option (Nat × AlmEntry) :=
  match almIndex s node with
  | none => (s, none)
  | some i =>
    match almRead s i with
    | (s, none) => (s, none)
    | (s, some b) =>
      let e := almOfBytes b
      (s, if e.present && decide (e.node = node) then some (i, e) else none)

/-- The check of every tier's span at a Calends (R353): MAP_ERR where a tier becomes unmapped; entries whose node has lost
its index become absent. DEDUCED (log entry 40). -/
def almRemap (s : State) : State :=
  if !s.alm.en then s else
  let u := unmappedNow s
  let s := if u.any (fun t => !s.alm.unmapped.contains t) then s.evt 0x510C 0 else s
  let s := s.modAlm (fun a => { a with unmapped := u })
  let s := match s.alm.rmap with
    | none => s.modAlm (fun a => { a with
        rmap := some (((enTiers s).filter (fun t => !u.contains t)).map (fun t => ((s.tier t).lo, (s.tier t).hi, (almSpan s t).1))) })
    | some _ => s
  (s.alm.present.filter (fun p => (tierOf s (p.2 / 4)).isSome && decide (mapIndex s (p.2 / 4) ≠ some p.1))).foldl
    (fun s p => almWrite s p.1 {}) s

/-! ### The enable (R357) -/

/-- ALM_CTL written (R357, R372). -/
def almCtl (s : State) (val : Nat) : State :=
  if s.alm.en then s
  else
    let s := s.putWr 0x1380C (val % 32 + (if bit val 31 || bit (s.wr 0x1380C) 31 then 2 ^ 31 else 0))
    if bit val 31 then s.modAlm (fun a => { a with enReq := true }) else s

/-- The code that refuses the enable, 0 for none (R357). -/
def almCode (s : State) : Nat :=
  let log2 := s.wr 0x1380C % 32
  let sp := almSpans (s.wr 0x13800) (s.wr 0x13804) (s.wr 0x13808) log2
  let inForce := metaAreas s ++ (((tkeys s.mem.regions).map s.region).filter (·.en)).map Region.dataArea
  if !s.vault.restored then 4
  else if log2 < 14 ∨ 22 < log2 then 6
  else if sp.any (fun a => decide (a.1 + a.2 > 2 ^ 40)) then 1
  else if (List.range 3).any (fun i => (List.range 3).any (fun j => decide (i < j) && overlaps (sp.getD i (0, 0)) (sp.getD j (0, 0))))
      || sp.any (fun a => inForce.any (overlaps a)) then 2
  else 0

/-- The enabling commit of the Almanac (R82 step 3, R356, R357). -/
def commitAlm (s : State) : State :=
  if !s.alm.enReq || s.alm.en || s.wedged 0 then s else
  let s := s.modAlm (fun a => { a with enReq := false })
  let code := almCode s
  if code ≠ 0 then (s.modAlm (fun a => { a with err := code })).evt 0x510C 1
  else
    let d := s.draw 48
    (s.modAlm (fun a => { a with
      en := true, err := 0, log2 := s.wr 0x1380C % 32, base := s.wr 0x13800, tag := s.wr 0x13804, tree := s.wr 0x13808
      restoring := true, kd := d.take 16, kt := sub d 16 16, ks := sub d 32 16, root := 0, rootCopy := 0
      cache := [], nodes := [], present := [], dirty := [], tombs := [], sweep := 0, sweepStart := a.time, rmap := none })).drew 48

/-- The sweep in progress has taken longer than MAX_AGE: said once for each sweep (R366). DEDUCED (log entry 48). -/
def sweepLate (s : State) : State := (s.evt 0x510C 3).modAlm (fun a => { a with late := true })

/-- Almanac time at a Calends, with the period of the tick that ends (R350), the per-tick counters and the age of the sweep
(R366, R373). DESIGN CHOICE (log entry 45). DEDUCED (log entry 48). -/
def almTick (s : State) (per : Nat) : State :=
  let a := s.alm
  let t := (a.time + per) % 2 ^ 64
  let lim := s.fcf 0x5108 15 0 * 16000000
  let s := if a.en && !a.restoring && !a.late && decide (t - a.sweepStart > lim) then sweepLate s else s
  s.modAlm (fun a => { a with time := t, times := (s.count, t) :: a.times.take 255, missLast := a.miss, miss := 0, handed := 0 })

/-! ### Prediction, window, learning (R360 to R362, R364) -/

/-- p of R360. DESIGN CHOICE (log entry 50). -/
def almP (e : AlmEntry) (t : Nat) : Int :=
  let d : Int := (t : Int) - (e.refTime : Int)
  d + Int.tdiv (d * e.drift) 1000000000

/-- eps of R360. DESIGN CHOICE (log entry 50). -/
def almEps (e : AlmEntry) (t ts : Nat) : Int :=
  let p := almP e t
  let m := p / 15625
  let r := p - 15625 * m
  let tsp := ((e.refTs : Int) + m) % (2 ^ 32 : Nat)
  signed 32 (unsigned 32 ((ts : Int) - tsp)) * 15625 - r

/-- The freshness window w of R361. DESIGN CHOICE (log entry 50). -/
def almW (s : State) (e : AlmEntry) (t : Nat) : Int :=
  let d : Int := (t : Int) - (e.refTime : Int)
  let guard := if s.boot.eve then s.fcf 0x5100 23 16 * 100 * 16000 else s.fcf 0x5100 13 0 * 16000
  min ((guard : Int) + Int.tdiv ((e.drift.natAbs : Int) * d) 1000000000 + ((16 * e.jitter + 15625 : Nat) : Int)) ((2 ^ 30 * 15625 : Nat) : Int)

/-- Learning (R362) with the transitions of R363. -/
def almLearn (s : State) (e : AlmEntry) (t ts : Nat) : AlmEntry :=
  let d : Int := (t : Int) - (e.refTime : Int)
  let eps := almEps e t ts
  let w := almW s e t
  let lim : Int := ((s.fcf 0x5104 31 24 * 1000 : Nat) : Int)
  let drift := if d ≥ ((s.fcf 0x5104 23 16 * 16000000 : Nat) : Int) then
      clampInt (-lim) lim (e.drift + Int.tdiv (Int.tdiv (eps * 1000000000) d) 16) else e.drift
  let jit := min 65535 (max (eps.natAbs / 16) (e.jitter - cdiv e.jitter 16))
  let within := decide (2 * (eps.natAbs : Int) ≤ w)
  let good := if within then min 15 (e.good + 1) else 0
  let st := if !within then 1 else if e.state = 1 ∧ good ≥ s.fcf 0x5100 27 24 then 0 else e.state
  { e with drift := drift, jitter := jit, good := good, state := st, refTime := t, refTs := ts }

/-- TS stamped on a downlink sent at t (R364). -/
def almPredict (e : AlmEntry) (t : Nat) : Nat :=
  if e.s154 || !e.anchor then 0
  else unsigned 32 ((e.refTs : Int) + (2 * almP e t + 15625) / 31250)

/-! ### The commit (R336, R354, R363, R369) -/

/-- The inputs of a commit. -/
structure AlmIn where
  node : Nat := 0
  hlf : Bool := true
  join : Bool := false
  resync : Bool := false
  fcnt : Nat := 0
  epoch : Nat := 0
  ts : Nat := 0
  bmiss : Nat := 0
  cal : Nat := 0
  sub : Nat := 0
  deriving DecidableEq, Repr

/-- The result of a commit: status, AUX, sync state after the item. -/
structure AlmAns where
  status : Nat := 0
  aux : Nat := 0
  sync : Nat := 2
  deriving DecidableEq, Repr

/-- Whether the frame passes the window check or the coarse check of R369; frames that take neither pass.
DEDUCED (log entry 42). -/
def windowOk (s : State) (e : AlmEntry) (x : AlmIn) (t : Nat) : Bool :=
  if !x.hlf || x.resync then true
  else if e.anchor then decide (((almEps e t x.ts).natAbs : Int) ≤ almW s e t)
  else
    let dt := (x.ts + 2 ^ 32 - e.refTs) % 2 ^ 32
    decide (1 ≤ dt) && decide (dt ≤ 2 ^ 31 - 1)

/-- The entry that a JOIN frame creates (R354). DEDUCED (log entry 43). DEDUCED (log entry 140). -/
def joinEntry (s : State) (x : AlmIn) (t : Nat) : AlmEntry :=
  { node := x.node, last := x.fcnt, epoch := x.epoch, bmiss := x.bmiss, drift := 0, jitter := s.fcf 0x5104 15 0
    owner := unitNo s, present := true, refTime := if x.hlf then t else 0, refTs := if x.hlf then x.ts else 0
    anchor := x.hlf, s154 := !x.hlf, good := 0, state := if x.bmiss ≥ 3 then 2 else if x.hlf then 1 else 0 }

/-- The commit of R336 on a present entry at index i. DEDUCED (log entry 140). -/
def commitEntry (s : State) (i : Nat) (e0 : AlmEntry) (x : AlmIn) : State × AlmAns :=
  let t := rxTime s x.cal x.sub
  let e := if x.bmiss ≥ 3 then { e0 with bmiss := x.bmiss, state := 2 } else e0
  let dif := (x.epoch + 256 - e.epoch) % 256
  if e.state = 2 ∧ !x.resync then (if e = e0 then s else almWrite s i e, { status := stStale, aux := 3, sync := 2 })
  else if dif ≥ 128 ∨ (dif = 0 ∧ x.fcnt ≤ e.last) then (s, { status := stReplay, sync := e0.state })
  else if !windowOk s e x t then
    (almWrite s i { e with last := x.fcnt, epoch := x.epoch, state := 3 }, { status := stStale, aux := 1, sync := 3 })
  else
    let e1 :=
      if !x.hlf ∨ x.resync ∨ e.state ≥ 2 then e
      else if e.anchor then almLearn s e t x.ts
      else { e with refTime := t, refTs := x.ts, anchor := true }
    let e2 := { e1 with last := x.fcnt, epoch := x.epoch, bmiss := x.bmiss }
    (almWrite s i e2, { status := stOK, sync := e2.state })

/-- The commit transaction (R336). DEDUCED (log entry 43). -/
def almCommit (s : State) (x : AlmIn) : State × AlmAns :=
  match almGet s x.node with
  | (s, r) =>
    if s.count - x.cal > s.fcf 0x5000 7 0 then (s, { status := stStale, aux := 4, sync := (r.map (·.2.state)).getD 2 })
    else match r with
    | some (i, e) => commitEntry s i e x
    | none =>
      match almIndex s x.node with
      | none => (s, { status := stStale, aux := 6 })
      | some i =>
        if !x.join || almUnread s i then (s, { status := stStale, aux := 6 })
        else
          let e := joinEntry s x (rxTime s x.cal x.sub)
          let s := almWrite s i e
          if e.state = 2 then (s, { status := stStale, aux := 3 }) else (s, { status := stOK, sync := e.state })

/-- Resync succeeded: the reference of the verified reply (R363). -/
def almResync (s : State) (node refTime refTs : Nat) : State :=
  match almGet s node with
  | (s, none) => s
  | (s, some (i, e)) =>
    if e.state < 2 then s
    else almWrite s i { e with refTime := refTime, refTs := refTs, bmiss := 0, good := 0, jitter := s.fcf 0x5104 15 0, anchor := true, state := 1 }

/-- A resync conversation gave up (R363). -/
def almGiveUp (s : State) (node : Nat) : State :=
  match almGet s node with
  | (s, none) => s
  | (s, some (i, e)) => if e.state = 3 then almWrite s i { e with state := 2 } else s

/-! ### Snapshot (R365, R366, R430) -/

/-- The snapshot item of an entry (R365). -/
def snapItem (e : AlmEntry) : Bytes :=
  toLe 4 e.node ++ toLe 4 e.last ++ toLe 4 (if e.anchor then e.refTs else 0) ++ toLe 2 (unsigned 16 (Int.tdiv e.drift 16))
  ++ toLe 1 e.epoch ++ toLe 1 (e.state + 4 + 8 * b2n e.s154)

/-- A tombstone (R365). -/
def snapTomb (node : Nat) : Bytes := toLe 4 node ++ zeros 12

/-- Hand one dirty entry to the journal (R366); one that cannot be read now stays dirty. DEDUCED (log entry 47). -/
def handItem (s : State) (i : Nat) : State :=
  match almRead s i with
  | (s, none) => s
  | (s, some b) =>
    (s.modAlm (fun a => { a with dirty := tins a.dirty i 2 })).jPut { kind := 7, id := i, data := snapItem (almOfBytes b) }

/-- SNAPSHOT_SWEEP (R366): tombstones first, then dirty entries in index order, within RATE of the tick; where none is left
above, the sweep ends and the next begins. DEDUCED (log entry 47). DEDUCED (log entry 48). -/
def snapSweep (s : State) : State :=
  if s.halted || s.wedged 0 || !s.alm.en || s.alm.restoring then s else
  let room := s.fcf 0x5108 23 16 - s.alm.handed
  let tombs := s.alm.tombs.take room
  let s := tombs.foldl (fun s n => s.jPut { kind := 7, id := 2 ^ 40 + n, data := snapTomb n }) (s.modAlm (fun a => { a with tombs := a.tombs.drop room }))
  let room := room - tombs.length
  let open_ := (s.alm.dirty.filter (fun d => decide (d.2 = 1) && decide (d.1 ≥ s.alm.sweep))).map (·.1)
  let now := open_.take room
  let s := now.foldl handItem s
  let s := s.modAlm (fun a => { a with handed := a.handed + tombs.length + now.length })
  if open_.length > now.length then s.modAlm (fun a => { a with sweep := (now.getLast?.map (· + 1)).getD a.sweep })
  else
    let s := if !s.alm.late && decide (s.alm.time - s.alm.sweepStart > s.fcf 0x5108 15 0 * 16000000) then sweepLate s else s
    (s.putStf 0x39128 15 0 (min 0xFFFF ((s.alm.time - s.alm.sweepStart) / 16000000))).modAlm (fun a =>
      { a with sweep := 0, sweepStart := a.time, late := false })

/-- The items of the snapshot pages of a block: row and item. -/
def snapRows (s : State) (b : Nat) : List (Nat × Nat × Bytes) :=
  (blockRows s b).flatMap (fun row => ((readRow s row).1.filter (fun r => decide (r.kind = 7))).flatMap (fun r =>
    (chunks 16 r.data).map (fun x => (row, r.jcnt, x))))

/-- Queue the current item of every node named in a snapshot block, which is erased once they are durable (R430). -/
def resnap (s : State) (b : Nat) : State :=
  if !s.alm.en || s.alm.restoring || s.wedged 0 then s else
  let nodes := ((snapRows s b).map (fun x => leAt x.2.2 0 4)).eraseDups
  issueErase (nodes.foldl (fun s n =>
    match almGet s n with
    | (s, some (i, e)) => s.jPut { kind := 7, id := i, data := snapItem e, src := some b }
    | (s, none) => s) (s.modJf (fun j => { j with rot := some b })))

/-- The lowest JCNT of a block's readable records: its age. DEDUCED (log entry 49). -/
def blockAge (s : State) (b : Nat) : Nat :=
  (((blockRows s b).flatMap (fun r => (readRow s r).1)).map (·.jcnt)).foldl min (2 ^ 64)

/-- SNAPSHOT_RESNAPSHOT (R430). -/
def resnapshot (s : State) : State :=
  if s.halted || !jWrites s || s.jf.rot.isSome then s
  else if ((snapBlocks s).filter (fun b => s.jf.erased.contains b)).length ≥ 4 then s
  else
    let used := (snapBlocks s).filter (fun b => !s.jf.erased.contains b && decide (b ≠ s.jf.sblk))
    match used with
    | [] => s
    | b :: rest => resnap s (rest.foldl (fun m x => if blockAge s x < blockAge s m then x else m) b)

/-! ### Restore (R367, R368, R433, R440) -/

/-- Rows of the snapshot area that are unreadable and not torn (R433). DEDUCED (log entry 49). -/
def snapBad (s : State) : List Nat :=
  let first := snapFirst s
  let last := (snapBlocks s).foldl (fun (m : Nat × Nat) b =>
    if (blockRows s b).isEmpty then m else if blockAge s b ≥ m.1 ∧ blockAge s b < 2 ^ 64 then (blockAge s b, (blockRows s b).foldl max 0) else m) (0, 0)
  s.jf.unreadable.filter (fun r => decide (r / 64 ≥ first) && decide (r / 64 < first + s.jf.snap) && decide (r ≠ last.2))

/-- An item at a row with a JCNT is older than an unreadable page (R433): earlier in its block, or in an older block; where no
page of that block tells its age, every item counts as older. DEDUCED (log entry 49). -/
def olderThan (s : State) (bad row jcnt : Nat) : Bool :=
  if row / 64 = bad / 64 then decide (row < bad) else decide (jcnt < blockAge s (bad / 64))

/-- Every snapshot item in JCNT order: JCNT, whether its state counts as LOST, and the 16 bytes. -/
def snapItems (s : State) : List (Nat × Bool × Bytes) :=
  let bad := snapBad s
  let l := (snapBlocks s).flatMap (snapRows s)
  (l.mergeSort (fun a b => decide (a.2.1 ≤ b.2.1))).map (fun x => (x.2.1, bad.any (fun r => olderThan s r x.1 x.2.1), x.2.2))

/-- The entry restored from an item (R368). -/
def restored (s : State) (lost : Bool) (x : Bytes) : AlmEntry :=
  let f := leAt x 0x0F 1
  let s154 := bit f 3
  { node := leAt x 0 4, last := leAt x 4 4, refTs := leAt x 8 4, drift := signed 16 (leAt x 0x0C 2) * 16, epoch := leAt x 0x0E 1
    jitter := s.fcf 0x5104 15 0, owner := unitNo s, present := true, s154 := s154
    state := if lost || decide (f % 4 = 2) || bit (s.fc 0x5108) 24 then 2 else if s154 then 0 else 1 }

/-- The index of a node under the map of the enabling Calends (R367). -/
def restoreIndex (s : State) (node : Nat) : Option Nat :=
  ((s.alm.rmap.getD []).find? (fun m => decide (m.1 ≤ node) && decide (node ≤ m.2.1))).map (fun m => m.2.2 + (node - m.1))

/-- Restore every node's latest item (R367, R440); the journal has none to give unless it is mounted. -/
def almRestore (s : State) : State :=
  if !s.alm.en || !s.alm.restoring || s.wedged 0 then s else
  let items := if s.jf.state = 1 ∨ s.jf.state = 2 ∨ s.jf.state = 3 then snapItems s else []
  let latest : Tab (Bool × Bytes) := items.foldl (fun t x => tins t (leAt x.2.2 0 4) (x.2.1, x.2.2)) []
  let r := latest.foldl (fun (p : State × Nat × Nat) x =>
    let (s, n, d) := p
    match restoreIndex s x.1 with
    | some i => if bit (leAt x.2.2 0x0F 1) 2 then (almWrite s i (restored s x.2.1 x.2.2), n + 1, d) else (s, n, d + 1)
    | none => (s, n, d + 1)) (s, 0, 0)
  (((r.1.putSt 0x39120 (min (2 ^ 23 - 1) r.2.1)).putSt 0x39124 (min (2 ^ 23 - 1) r.2.2)).modAlm (fun a =>
    { a with restoring := false, sweep := 0, sweepStart := a.time, late := false })).evt 0x510C 4

/-- A write that the ranges of R371 refuse. -/
def almRange (off v : Nat) : Bool :=
  if off = 0x5100 then decide (2 ≤ bits v 13 0) && decide (bits v 13 0 ≤ 10000) && decide (1 ≤ bits v 23 16) && decide (1 ≤ bits v 27 24)
  else if off = 0x5104 then decide (1 ≤ bits v 23 16) && decide (1 ≤ bits v 31 24)
  else if off = 0x5108 then decide (60 ≤ bits v 15 0) && decide (1 ≤ bits v 23 16)
  else true

/-- The area keys and both caches of the Almanac are zeroized (R57, R501). -/
def almZero (s : State) : State := s.modAlm (fun a => { a with kd := [], kt := [], ks := [], cache := [], nodes := [] })

/-- SNAPSHOT_SWEEP. -/
def execSnapshotSweep (s : State) : Host.Outcome State Fault Refusal := .next (snapSweep s)
/-- SNAPSHOT_RESNAPSHOT. -/
def execSnapshotResnapshot (s : State) : Host.Outcome State Fault Refusal := .next (resnapshot s)
/-- SCRUB_READ. -/
def execScrubRead (ecc : Nat) (s : State) : Host.Outcome State Fault Refusal := .next (scrubRead resnap s ecc)
/-- JF_FORMAT. -/
def execJfFormat (k : Fin 64) (i : Nat) (s : State) : Host.Outcome State Fault Refusal :=
  .next (jfFormat (decide (lifecycle s = 1) || decide (lifecycle s = 2)) s k i)

end Sys2Proof.Machine
end

