-- ==== Sys2Proof/Machine/Krysa.lean ====
section
/-! DEFINITION. The Krysa ring agent (R448 to R471): messages, ring state, lease claims, ownership, hand-over, commands. -/

namespace Sys2Proof.Machine

/-- Change the agent. -/
def State.modKr (s : State) (f : Krysa → Krysa) : State := { s with krysa := f s.krysa }
/-- Unit u as this one knows it. -/
def State.peer (s : State) (u : Nat) : Peer := tget {} s.krysa.peers u
/-- Unit u changed by f. -/
def State.modPeer (s : State) (u : Nat) (f : Peer → Peer) : State := s.modKr (fun k => { k with peers := tins k.peers u (f (s.peer u)) })

/-- COUNT and SILENT in force (R469). -/
def krCount (s : State) : Nat := s.fcf 0x5800 12 6
def krSilent (s : State) : Nat := s.fcf 0x5800 21 14

/-- Almanac time now, within the tick (R460). -/
def almNow (s : State) : Nat := s.alm.time + s.tick.t * 16 / s.mhz

/-- 30 s in Almanac units (R460). -/
def lease30 : Nat := 480000000

/-- Heard within SILENT ticks (R455). -/
def recent (s : State) (h : Option Nat) : Bool := match h with | some c => decide (s.count - c < krSilent s) | none => false

/-- Port up (R450); true is east. -/
def portUp (s : State) (east : Bool) : Bool :=
  if east then !s.krysa.eastLow && recent s s.krysa.eastHeard else !s.krysa.westLow && recent s s.krysa.westHeard

/-- LINKS of this unit's beacon (R454). -/
def krLinks (s : State) : Nat := b2n (portUp s true) + 2 * b2n (portUp s false)

/-- The other configured units. -/
def others (s : State) : List Nat := idxs (krCount s) (fun u => decide (u ≠ unitNo s))

/-- The other units of the live set (R455). -/
def liveOthers (s : State) : List Nat := (others s).filter (fun u => !(s.peer u).lost)

/-- The last LINKS known of a unit: none where it was never heard. -/
def linksOf (s : State) (u : Nat) : Option Nat :=
  if u = unitNo s then some (krLinks s) else ((s.peer u).heard).map (fun _ => (s.peer u).links)

/-- Unit u is confirmed lost (R455). -/
def confirmedLost (s : State) (u : Nat) : Bool :=
  let n := krCount s
  !recent s (s.peer u).heard
  && (match linksOf s ((u + n - 1) % n) with | some l => !bit l 0 | none => false)
  && (match linksOf s ((u + 1) % n) with | some l => !bit l 1 | none => false)

/-! ### Ownership (R459, R460) -/

/-- What the agent answers a lookup (R459). -/
inductive Serves where
  | own
  | other (u : Nat)
  | nobody
  deriving DecidableEq, Repr

/-- This unit's own lease holds (R460). -/
def ownLease (s : State) : Bool := match s.krysa.leaseFrom with | some t => decide (almNow s < t + lease30) | none => false

/-- The lease of unit u has ended as this unit holds it (R460). -/
def leaseOut (s : State) (u : Nat) : Bool := !(s.peer u).lease || decide (almNow s ≥ (s.peer u).beaconAt + lease30)

/-- The owner of a node (R345, R448, R459). -/
def ownerOf (s : State) (node : Nat) : Serves :=
  if !ringOn s then .own
  else if s.wedged 3 then .nobody
  else match s.krysa.map.find? (fun r => decide (r.lo ≤ node) && decide (node ≤ r.hi)) with
  | none => .nobody
  | some r =>
    if r.owner = unitNo s then
      (if ownLease s && !(s.krysa.movesIn.any (fun m => decide (m.lo ≤ node) && decide (node ≤ m.hi))) then .own else .nobody)
    else if recent s (s.peer r.owner).heard then .other r.owner else .nobody

/-- The ownership map with a range given to a new owner (R461). -/
def assignRange (m : List KRange) (lo hi owner : Nat) : List KRange :=
  m.flatMap (fun r =>
    if r.hi < lo ∨ hi < r.lo then [r]
    else (if r.lo < lo then [{ r with hi := lo - 1 }] else []) ++ (if hi < r.hi then [{ r with lo := hi + 1 }] else []))
  ++ [{ lo := lo, hi := hi, owner := owner }]

/-- Node IDs of a range that lie in ranges p selects. -/
def covered (m : List KRange) (lo hi : Nat) (p : KRange → Bool) : Nat :=
  ((m.filter p).map (fun r => min r.hi hi + 1 - max r.lo lo)).sum

/-! ### Messages (R451 to R454) -/

/-- The GCM IV of a message (R452). -/
def krIv (origin cal seq : Nat) : Bytes := [0x4b#8, 0x52#8] ++ toBe 1 origin ++ [0#8] ++ toBe 6 cal ++ toBe 2 seq

/-- Send a message out of both ports (R451 to R453); at most 65,536 a tick. -/
def krSend (s : State) (type : Nat) (body : Bytes) : State :=
  let k := s.krysa
  if k.key = [] ∨ k.seq ≥ 65536 ∨ s.wedged 3 then s
  else
    let h := toBe 1 type ++ toBe 1 (unitNo s) ++ [0#8, 0#8] ++ toBe 2 body.length ++ toBe 6 s.count ++ toBe 2 k.seq
    let g := gcmEnc k.key (krIv (unitNo s) s.count k.seq) h body
    let m := h ++ g.1 ++ g.2
    ((s.modKr (fun k => { k with seq := k.seq + 1 })).emit (.krysa true m)).emit (.krysa false m)

/-- The map version this unit reports: that of the proposal it holds, else of the change last applied (R454, R461). -/
def reported (s : State) : Nat × Nat :=
  match s.krysa.prop with
  | some p => (p.ver, p.origin)
  | none => (s.krysa.mapver, s.krysa.maporg)

/-- The body of a BEACON (R454). -/
def beaconBody (s : State) : Bytes :=
  let r := reported s
  toBe 1 (krLinks s) ++ toBe 1 s.krysa.state ++ toBe 4 s.krysa.floor ++ toBe 4 r.1 ++ toBe 1 r.2 ++ [0#8]
  ++ toBe 8 (((others s).filter (fun u => (s.peer u).lost)).map (2 ^ ·)).sum

/-- Send the map in messages of at most 64 ranges (R454). -/
def sendMap (s : State) : State :=
  (idxs (cdiv s.krysa.map.length 64) (fun _ => true)).foldl (fun s i =>
    let part := (s.krysa.map.drop (64 * i)).take 64
    krSend s 6 (toBe 1 (64 * i) ++ toBe 1 part.length ++ toBe 4 s.krysa.mapver
      ++ part.flatMap (fun r => toBe 4 r.lo ++ toBe 4 r.hi ++ toBe 1 r.owner))) s

/-- Open a message under a key: its body where the tag verifies (R452). -/
def krOpen (key m : Bytes) : Option Bytes :=
  if key = [] then none
  else
    let n := beAt m 4 2
    let h := overlay (sub m 0 14) 2 [0#8]
    let iv := krIv (beAt m 1 1) (beAt m 6 6) (beAt m 12 2)
    let ct := sub m 14 n
    if m.length = 30 + n ∧ 1 ≤ n ∧ n ≤ 1024 ∧ gcmTag key iv h ct = sub m (14 + n) 16 then some (gcmText key iv ct) else none

/-- Forward a message out of the opposite port (R453). -/
def krForward (s : State) (east : Bool) (m : Bytes) : State :=
  let hops := beAt m 2 1
  if beAt m 1 1 = unitNo s ∨ hops ≥ krCount s - 1 ∨ !portUp s (!east) then s
  else s.emit (.krysa (!east) (overlay m 2 (toBe 1 (hops + 1))))

/-- The own BEACON came back (R455, R460). DEDUCED (log entry 75). -/
def beaconReturned (s : State) (cal : Nat) : State :=
  let k := s.krysa
  let s := if cal > k.backCal then
      s.modKr (fun k => { k with backCal := cal, rtt := (s.count - cal) * s.perEc + s.tick.t }) else s
  match (s.alm.times.find? (fun p => decide (p.1 = cal))) with
  | some p => s.modKr (fun k => { k with leaseFrom := some (max (k.leaseFrom.getD 0) p.2) })
  | none => s

/-- RING_MESSAGE_FORWARD (R451 to R453): forwarded first, then authenticated, then queued once for processing; a message of a
TYPE that R454 does not define has no effect (DESIGN CHOICE, log entry 85). `east` names the port it arrives on.
DESIGN CHOICE (log entry 74). -/
def ringMessage (s : State) (east : Bool) (m : Bytes) (crcOk : Bool) : State :=
  if s.halted || !ringOn s || s.wedged 3 then s
  else if !crcOk then s.inc 0x3981C 31 16
  else
    let s := krForward s east m
    match (krOpen s.krysa.key m).orElse (fun _ => krOpen s.krysa.oldKey m) with
    | none => (s.inc 0x3981C 15 0).evt 0x5804 7
    | some body =>
      let u := beAt m 1 1
      let cal := beAt m 6 6
      let q := beAt m 12 2
      let s := s.modKr (fun k => if east then { k with eastHeard := some s.count } else { k with westHeard := some s.count })
      if u = unitNo s then (if beAt m 0 1 = 1 then beaconReturned s cal else s)
      else if u ≥ krCount s then s
      else
        let dup := match (s.peer u).last with | some l => decide (cal < l.1) || (decide (cal = l.1) && decide (q ≤ l.2)) | none => false
        if dup then s
        else
          (s.modPeer u (fun p => { p with last := some (cal, q) })).modKr (fun k =>
            { k with inbox := if 1 ≤ beAt m 0 1 ∧ beAt m 0 1 ≤ 6 then
                k.inbox ++ [{ type := beAt m 0 1, origin := u, cal := cal, body := body }] else k.inbox })

/-! ### Lease claims (R457) -/

/-- Send the CLAIM of a wanted lease where the state allows it. -/
def krClaim (s : State) : State :=
  let k := s.krysa
  if k.claim.isSome ∨ k.wanted = 0 ∨ ¬ (k.state = 2 ∨ k.state = 3) then s
  else
    let n := nextLease s
    if n > 0x0FFFFFFF then (s.modKr (fun k => { k with wanted := 0 })).evt 0x5304 3
    else krSend (s.modKr (fun k => { k with claim := some (n, s.count), claimAck := [], floor := max k.floor n })) 2 (toBe 4 n)

/-- A claim that every live unit confirmed is taken (R457). -/
def claimConfirm (s : State) : State :=
  match s.krysa.claim with
  | none => s
  | some (n, _) =>
    if (liveOthers s).all (fun u => s.krysa.claimAck.contains u) then
      takeLease (s.modKr (fun k => { k with claim := none, claimAck := [], wanted := k.wanted - 1 })) n
    else s

/-- CLAIM_TIMEOUT (R457). -/
def claimTimeout (s : State) : State :=
  match s.krysa.claim with
  | none => s
  | some (_, c) =>
    if s.halted || s.wedged 3 || decide (s.count - c < 64) then s
    else krClaim ((s.modKr (fun k => { k with claim := none, claimAck := [] })).evt 0x5804 6)

/-- Ask for leases until two lie ahead of the current one (R435). DESIGN CHOICE (log entry 132). -/
def refillLeases (s : State) : State :=
  let have_ := b2n s.jf.cur.isSome + s.jf.ahead.length + s.jf.queuedLeases.length + s.krysa.wanted
  (List.range (3 - have_)).foldl (fun s _ => requestLease s) s

/-! ### Processing of messages (R454, R457, R461, R463) -/

/-- In WRAPPED, the latest sending that beacons of every live unit followed (R460). -/
def wrapLease (s : State) : State :=
  if s.krysa.state ≠ 3 then s
  else
    let m := (liveOthers s).foldl (fun m u => min m (s.peer u).beaconAt) (almNow s)
    match s.krysa.sendFrom with
    | none => s
    | some f =>
      match (s.alm.times.filter (fun p => decide (f ≤ p.2) && decide (p.2 ≤ m))).head? with
      | some p => s.modKr (fun k => { k with leaseFrom := some (max (k.leaseFrom.getD 0) p.2) })
      | none => s

/-- A BEACON (R454, R455, R457, R460). -/
def onBeacon (s : State) (x : KMsg) : State :=
  let b := x.body
  let old := s.peer x.origin
  let floor := beAt b 2 4
  let s := s.modPeer x.origin (fun p => { p with
    heard := some s.count, beaconAt := almNow s, lease := true, links := beAt b 0 1 % 4, floor := floor
    mapver := beAt b 6 4, maporg := beAt b 10 1 })
  let first := !recent s old.heard
  let s := s.modKr (fun k => { k with
    floor := max k.floor floor, sendMap := k.sendMap || (first && decide (beAt b 6 4 < k.mapver))
    claimAck := match k.claim with
      | some (n, _) => if floor ≥ n ∧ !k.claimAck.contains x.origin then x.origin :: k.claimAck else k.claimAck
      | none => k.claimAck })
  krClaim (claimConfirm (wrapLease s))

/-- A CLAIM (R457). -/
def onClaim (s : State) (x : KMsg) : State :=
  let m := beAt x.body 0 4
  let s := s.modKr (fun k => { k with floor := max k.floor m })
  match s.krysa.claim with
  | some (n, _) =>
    if m > n ∨ (m = n ∧ x.origin < unitNo s) then krClaim (s.modKr (fun k => { k with claim := none, claimAck := [] })) else s
  | none => s

/-- RESULT of a ring command: MAPVER, and the reason in the last byte (R462). -/
def krResult (s : State) (aux : Nat) : Bytes := toLe 4 s.krysa.mapver ++ zeros 11 ++ toLe 1 aux

/-- The KR_ASSIGN behind the proposal completes. -/
def assignDone (s : State) (st aux : Nat) : State :=
  match s.krysa.assign with
  | none => s
  | some (k, i, _) => finish (s.modKr (fun k => { k with assign := none })) k i st (krResult s aux) false

/-- A proposal arrives or is made (R461): the lower ORIGIN holds. DEDUCED (log entry 77). -/
def holdProp (s : State) (p : KChange) : State :=
  if p.ver ≠ s.krysa.mapver + 1 then s
  else match s.krysa.prop with
  | none => s.modKr (fun k => { k with prop := some p })
  | some q =>
    if p.origin < q.origin then
      let s := s.modKr (fun k => { k with prop := some p })
      if q.origin = unitNo s ∧ q.kind = 1 then assignDone s stLocked 3 else s
    else s

/-- A CHANGE (R454, R461). -/
def onChange (s : State) (x : KMsg) : State :=
  let b := x.body
  holdProp s { ver := beAt b 0 4, origin := x.origin, kind := beAt b 4 1, dst := beAt b 5 1, src := beAt b 6 1, lo := beAt b 8 4, hi := beAt b 12 4 }

/-- T / 2 in us, rounded up: the ring transit bound (R455, R370). -/
def transitUs (s : State) : Nat := cdiv (period s) 32

/-- Place one moved entry (R370, R464). -/
def placeEntry (s : State) (src : Nat) (b : Bytes) : State :=
  let e := almOfBytes b
  match s.krysa.movesIn.find? (fun m => decide (m.src = src) && !m.ended && decide (m.lo ≤ e.node) && decide (e.node ≤ m.hi)) with
  | none => s
  | some m =>
    match almIndex s e.node with
    | none => s
    | some i =>
      (almWrite s i { e with
        refTime := (m.since + 2 ^ 64 - e.refTime) % 2 ^ 64, owner := src, present := true
        jitter := min 65535 (e.jitter + transitUs s) }).modKr (fun k => { k with hoRecv := k.hoRecv + 1 })

/-- An ENTRY (R463). -/
def onEntry (s : State) (x : KMsg) : State :=
  ((chunks 32 (x.body.drop 2)).take (min 31 (beAt x.body 0 1))).foldl (fun s b => placeEntry s x.origin b) s

/-- A MOVE_END (R463). -/
def onMoveEnd (s : State) (x : KMsg) : State :=
  s.modKr (fun k => { k with movesIn := k.movesIn.map (fun m =>
    if m.src = x.origin ∧ m.ver = beAt x.body 0 4 then { m with ended := true } else m) })

/-- A MAP (R454): taken by a unit that lacks it. -/
def onMap (s : State) (x : KMsg) : State :=
  let b := x.body
  let first := beAt b 0 1
  let ver := beAt b 2 4
  let l := (chunks 9 (b.drop 6)).take (beAt b 1 1)
  let rs := l.map (fun r => ({ lo := beAt r 0 4, hi := beAt r 4 4, owner := beAt r 8 1 } : KRange))
  let k := s.krysa
  if first = 0 ∧ ver > k.mapver ∧ !(match k.prop with | some p => decide (p.ver = ver) | none => false) then
    s.modKr (fun k => { k with map := rs, mapver := ver, maporg := x.origin, prop := none, sendMap := true })
  else if first ≠ 0 ∧ ver = k.mapver ∧ first = k.map.length then
    s.modKr (fun k => { k with map := k.map ++ rs, sendMap := true })
  else s

/-- Process the oldest message that waits, if it is of this type (R453). DESIGN CHOICE (log entry 85). -/
def processMsg (s : State) (type : Nat) (f : State → KMsg → State) : State :=
  if s.halted || !ringOn s || s.wedged 3 then s
  else match s.krysa.inbox with
  | [] => s
  | x :: rest => if x.type = type then f (s.modKr (fun k => { k with inbox := rest })) x else s

/-! ### The Calends -/

/-- Every live unit's latest beacon, this unit's own among them, reports the proposal (R461).
DEDUCED (log entry 77). -/
def allReport (s : State) (p : KChange) : Bool :=
  decide (s.krysa.told = (p.ver, p.origin))
  && (liveOthers s).all (fun u => decide ((s.peer u).mapver = p.ver) && decide ((s.peer u).maporg = p.origin))

/-- The ring state allows the change: an ASSIGN waits until JOINED, a TAKE until JOINED or WRAPPED (R456).
DEDUCED (log entry 77). -/
def changeAllowed (s : State) (p : KChange) : Bool :=
  decide (s.krysa.state = 2) || (decide (p.kind = 2) && decide (s.krysa.state = 3))

/-- The Almanac holds no entries for the nodes of a range that comes to this unit, before a move sends any
(R462, R464, R465). -/
def dropEntries (s : State) (lo hi : Nat) : State :=
  (s.alm.present.filter (fun p => decide (lo ≤ p.2 / 4) && decide (p.2 / 4 ≤ hi))).foldl (fun s p => almWrite s p.1 {}) s

/-- Step 7 of R82: the proposal that every live beacon reports is applied (R461, R463, R465); `now` is Almanac time at this
Calends. DEDUCED (log entry 77). -/
def krApply (s : State) (now : Nat) : State :=
  match s.krysa.prop with
  | none => s
  | some p =>
    if s.halted || !ringOn s || s.wedged 3 || !allReport s p || !changeAllowed s p then s
    else
      let me := unitNo s
      let s := if p.dst = me ∧ p.src ≠ me then dropEntries s p.lo p.hi else s
      let s := s.modKr (fun k => { k with
        map := assignRange k.map p.lo p.hi p.dst, mapver := p.ver, maporg := p.origin, prop := none, sendMap := true
        moveOut := if p.kind = 1 ∧ p.src = me ∧ p.dst ≠ me then some p else k.moveOut
        moveAt := if p.kind = 1 ∧ p.src = me ∧ p.dst ≠ me then now else k.moveAt
        moveSent := if p.kind = 1 ∧ p.src = me ∧ p.dst ≠ me then 0 else k.moveSent
        movesIn := if p.kind = 1 ∧ p.dst = me ∧ p.src ≠ me ∧ p.src ≠ 0xFF then
          k.movesIn ++ [{ lo := p.lo, hi := p.hi, src := p.src, ver := p.ver, since := now }] else k.movesIn })
      let s := if p.kind = 2 then (((s.putStf 0x39824 5 0 p.src).inc 0x39824 15 8).evt 0x5804 5).logPut 0x80 1
        (toLe 1 s.krysa.state ++ toLe 1 p.src) else s
      if p.origin = me ∧ p.kind = 1 then assignDone s stOK 0 else s

/-- The ring decision (R458). -/
def ringDecide (s : State) : State :=
  let direct (s : State) : State :=
    (List.range s.krysa.wanted).foldl (fun s _ => requestLease s) (s.modKr (fun k => { k with wanted := 0, claim := none }))
  let s := s.modKr (fun k => { k with decided := true, cfgWritten := false })
  if ringOn s then s.modKr (fun k => { k with granting := k.joined, waitJoin := !k.joined })
  else if bit (s.fc 0x5800) 22 then direct (s.modKr (fun k => { k with granting := true, waitJoin := false, released := true }))
  else if s.jf.ringRead = 0 ∨ !s.jf.leaseRead ∨ s.krysa.released then
    direct (s.modKr (fun k => { k with granting := true, waitJoin := false }))
  else (s.modKr (fun k => { k with granting := false, waitJoin := false })).evt 0x5804 8

/-- The agent's copies of the ring key at a Calends (R466). -/
def ringKeys (s : State) : State :=
  let x := s.slot 0x009
  let s := if s.krysa.oldTicks = 0 then s.modKr (fun k => { k with oldKey := [] }) else s.modKr (fun k => { k with oldTicks := k.oldTicks - 1 })
  if x.state ≠ 1 then s.modKr (fun k => { k with key := [], keyGen := 0 })
  else if x.gen = s.krysa.keyGen then s
  else s.modKr (fun k => { k with
    oldKey := k.key, oldTicks := if k.key = [] then 0 else 256, key := x.key, keyGen := x.gen })

/-- Units newly confirmed lost (R455), and what it ends (R464). -/
def markLost (s : State) : State :=
  (others s).foldl (fun s u =>
    let l := confirmedLost s u
    let s := if l && !(s.peer u).lost then
        ((s.modKr (fun k => { k with movesIn := k.movesIn.filter (fun m => decide (m.src ≠ u)) })).evt 0x5804 4).logPut 0x80 1
          (toLe 1 s.krysa.state ++ toLe 1 u) else s
    if l = (s.peer u).lost then s else s.modPeer u (fun p => { p with lost := l })) s

/-- The ring state of R455 at this Calends. DEDUCED (log entry 75). -/
def ringState (s : State) : Nat :=
  let k := s.krysa
  let heard := (liveOthers s).all (fun u => recent s (s.peer u).heard)
  let ports := portUp s true && portUp s false && (liveOthers s).all (fun u => decide ((s.peer u).links = 3))
  let fast := decide (2 * k.rtt ≤ s.perEc)
  if s.fcf 0x5800 13 13 = 0 ∨ (s.slot 0x009).state ≠ 1 then 0
  else if !k.joined then (if heard && ports && fast then 2 else 1)
  else if !heard then 4
  else if !ports then 3
  else if fast then 2
  else if k.slow ≥ 4 then 5
  else if k.state = 5 then 5
  else 2

/-- Evaluate the ring state (R455) with its events. DEDUCED (log entry 75). -/
def evalRing (s : State) : State :=
  let s := s.modKr (fun k => { k with slow := if 2 * k.rtt > s.perEc then k.slow + 1 else 0 })
  let st := ringState s
  if st = s.krysa.state then s
  else
    let s := s.modKr (fun k => { k with state := st, joined := k.joined || decide (st = 2) })
    if st ≥ 2 then s.evt 0x5804 (st - 2) else s

/-- The first JOINED Calends after the decision: grants begin, leases up to FLOOR are spent (R458). -/
def firstJoin (s : State) : State :=
  if !s.krysa.waitJoin || decide (s.krysa.state ≠ 2) then s
  else
    let f := s.krysa.floor
    let s := s.modKr (fun k => { k with waitJoin := false, granting := true })
    let s := s.modJf (fun j => { j with
      cur := j.cur.filter (fun l => decide (l > f)), granted := if j.cur.any (fun l => decide (l > f)) then j.granted else 0
      ahead := j.ahead.filter (fun l => decide (l > f)), queuedLeases := j.queuedLeases.filter (fun l => decide (l > f)) })
    refillLeases (promote s)

/-- This unit proposes a change (R461). -/
def propose (s : State) (p : KChange) : State :=
  let s := krSend s 3 (toBe 4 p.ver ++ toBe 1 p.kind ++ toBe 1 p.dst ++ toBe 1 p.src ++ [0#8] ++ toBe 4 p.lo ++ toBe 4 p.hi)
  holdProp s p

/-- Takeover of a failed unit (R465): one range at a time, as versions allow. -/
def takeover (s : State) : State :=
  let n := krCount s
  let me := unitNo s
  if ¬ (s.krysa.state = 2 ∨ s.krysa.state = 3) ∨ s.krysa.prop.isSome then s
  else
    let mine (d : Nat) : Bool :=
      (s.peer d).lost && leaseOut s d &&
      decide (((List.range n).drop 1).find? (fun i => decide ((d + i) % n = me) || !(s.peer ((d + i) % n)).lost) = some ((me + n - d) % n))
    match s.krysa.map.find? (fun r => (others s).contains r.owner && mine r.owner) with
    | none => s
    | some r => propose s { ver := s.krysa.mapver + 1, origin := me, kind := 2, dst := me, src := r.owner, lo := r.lo, hi := r.hi }

/-- Send the entries of a move, at most 31 a message, and its end (R463, R370). -/
def sendMove (s : State) : State :=
  match s.krysa.moveOut with
  | none => s
  | some c =>
    let all := (s.alm.present.filter (fun p => decide (c.lo ≤ p.2 / 4) && decide (p.2 / 4 ≤ c.hi))).map (·.1)
    let now := all.take (31 * 60000)
    let r := now.foldl (fun (p : State × List Bytes) i =>
      match almRead p.1 i with
      | (s, none) => (s, p.2)
      | (s, some b) =>
        let e := almOfBytes b
        (almWrite s i {}, { e with refTime := (s.krysa.moveAt + 2 ^ 64 - e.refTime) % 2 ^ 64 }.bytes :: p.2)) (s, [])
    let items := r.2.reverse
    let s := (chunks 992 items.flatten).foldl (fun s b => krSend s 4 (toBe 1 (b.length / 32) ++ [0#8] ++ b)) r.1
    let s := s.modKr (fun k => { k with moveSent := k.moveSent + items.length, hoSent := k.hoSent + items.length })
    if all.length > now.length then s
    else (krSend s 5 (toBe 4 c.ver ++ toBe 4 s.krysa.moveSent)).modKr (fun k => { k with moveOut := none })

/-- Send the BEACON of this Calends (R454). -/
def sendBeacon (s : State) : State :=
  (krSend s 1 (beaconBody s)).modKr (fun k => { k with
    told := reported s, sendFrom := some (k.sendFrom.getD s.alm.time) })

/-- A KR_ASSIGN whose change was not applied within 64 ticks (R462). -/
def assignTimeout (s : State) : State :=
  match s.krysa.assign with
  | some a => if s.count - a.2.2 ≥ 64 then assignDone s stLocked 1 else s
  | none => s

/-- What the agent does at every Calends, after the count and Almanac time have advanced (R454 to R466). -/
def krTick (s : State) : State :=
  if s.wedged 3 then s else
  let s := ringKeys (s.modKr (fun k => { k with seq := 0 }))
  let s := if s.krysa.cfgWritten then ringDecide s else s
  if !ringOn s then s.modKr (fun k => { k with state := 0, sendFrom := none, inbox := [] })
  else
    let s := markLost s
    let s := s.modKr (fun k => { k with movesIn := k.movesIn.filter (fun m => !m.ended) })
    let s := firstJoin (evalRing s)
    let s := assignTimeout s
    if s.krysa.state = 0 then s.modKr (fun k => { k with sendFrom := none })
    else
      let s := takeover (sendBeacon s)
      let s := if s.krysa.sendMap then sendMap (s.modKr (fun k => { k with sendMap := false })) else s
      sendMove (krClaim (claimConfirm s))

/-- OWNERSHIP_LEASE_EXPIRY (R460): leases that have run out end. -/
def leaseExpiry (s : State) : State :=
  if s.boot.inReset || s.boot.asleep then s
  else
    let s := if ownLease s then s else s.modKr (fun k => { k with leaseFrom := none })
    (others s).foldl (fun s u => if (s.peer u).lease && leaseOut s u then s.modPeer u (fun p => { p with lease := false }) else s) s

/-! ### Commands (R462, R467, R468) -/

/-- Body ranges of a ring command. -/
def krBody (s : State) (op : Nat) (d : Bytes) : Bool :=
  if op = 0x78 then decide (leAt d 0x18 1 = 56)
  else if op = 0x79 then
    let lo := leAt d 8 4
    let hi := leAt d 0x0C 4
    decide (lo ≤ hi) && decide (lo ≠ 0) && decide (hi ≠ 0xFFFFFFFF) && decide (leAt d 0x10 1 % 64 < krCount s)
  else decide (op = 0x7A)

/-- Reserved bytes of a ring command. -/
def krRsvd (op : Nat) (d : Bytes) : Bool :=
  if op = 0x78 then rsvdZero d [(0x16, 2), (0x19, 39)] [(0x09, 0xF0)]
  else if op = 0x79 then rsvdZero d [(0x11, 47)] [(0x10, 0xC0)]
  else rsvdZero d [(0x0E, 2), (0x10, 48)] []

/-- KR_KEYLOAD (R467): unwrapped now, installed in step 1 of R82. -/
def krKeyload (s : State) (k i : Nat) : State :=
  if s.halted then s else withItem s k i 0x78 (fun it =>
    if it.staged then s else
    let d := it.desc
    let r := it.keys.headD {}
    if !(decide (lifecycle s = 1) || decide (lifecycle s = 2)) || s.vault.carnival then finish s k i stLocked (vaultResult s 0x009 0 0) false
    else match hostRead s (addrAt d 0x10) 56 with
    | (s, .err) => finish s k i stMalformed (vaultResult s 0x009 0 0) false
    | (s, .poison) => finish s k i stPoison (vaultResult s 0x009 0 0) false
    | (s, .ok b) =>
      match kwUnwrap it.hold b with
      | none => finish s k i stAuthFail (vaultResult s 0x009 0 0) false
      | some p =>
        if attrOk p 0 && decide (leAt p 0 1 = 2) then stageVault s k it { attr := p.take 16, mat := p.drop 16, pgen := r.gen }
        else finish s k i stAttr (vaultResult s 0x009 0 0) false)

/-- The reason a KR_ASSIGN is LOCKED, 0 for none (R462); where this unit already holds a proposal of its own for the version,
that one ranks first (DESIGN CHOICE, log entry 85). DEDUCED (log entry 77). -/
def assignWhy (s : State) (lo hi dst : Nat) : Nat :=
  let k := s.krysa
  let me := unitNo s
  let any := covered k.map lo hi (fun _ => true)
  if k.state ≠ 2 then 1
  else if any ≠ 0 ∧ covered k.map lo hi (fun r => decide (r.owner = me)) ≠ hi + 1 - lo then 2
  else if (match k.prop with | some p => decide (p.origin ≤ me) | none => false) then 3
  else if (assignRange k.map lo hi dst).length > 256 then 4
  else if k.moveOut.isSome then 5
  else 0

/-- KR_ASSIGN (R462). -/
def krAssign (s : State) (k i : Nat) : State :=
  if s.halted then s else withItem s k i 0x79 (fun it =>
    if s.krysa.assign.isSome then s else
    let d := it.desc
    let lo := leAt d 8 4
    let hi := leAt d 0x0C 4
    let dst := leAt d 0x10 1 % 64
    let why := assignWhy s lo hi dst
    if why ≠ 0 then finish s k i stLocked (krResult s why) false
    else
      let src := if covered s.krysa.map lo hi (fun _ => true) = 0 then 0xFF else unitNo s
      propose (s.modKr (fun x => { x with assign := some (k, i, it.cal) }))
        { ver := s.krysa.mapver + 1, origin := unitNo s, kind := 1, dst := dst, src := src, lo := lo, hi := hi })

/-- KR_QUERY (R468). -/
def krQuery (s : State) (k i : Nat) : State :=
  if s.halted then s else withItem s k i 0x7A (fun it =>
    let recs := s.krysa.map.flatMap (fun r => toLe 4 r.lo ++ toLe 4 r.hi ++ toLe 1 r.owner ++ zeros 3)
    let w := hostWrite s (addrAt it.desc 8) (sub recs 0 3072)
    if w.2 then finish w.1 k i stOK (krResult w.1 0) false else finish w.1 k i stMalformed (krResult w.1 0) true)

/-- A write to KR_CFG that R469 refuses. -/
def krRange (s : State) (v : Nat) : Bool :=
  decide (bits v 5 0 < bits v 12 6) && decide (2 ≤ bits v 12 6) && decide (bits v 12 6 ≤ 64) && decide (2 ≤ bits v 21 14)
  && (!ringOn s || decide (bits v 12 0 = s.fcf 0x5800 12 0))

/-- The alarm zeroizes the agent's keys, claims and changes (R466). -/
def krZero (s : State) : State :=
  s.modKr (fun k => { k with key := [], oldKey := [], keyGen := 0, claim := none, claimAck := [], wanted := 0, prop := none, assign := none, inbox := [], moveOut := none })

/-- BEACON. -/
def execBeacon (s : State) : Host.Outcome State Fault Refusal := .next (processMsg s 1 onBeacon)
/-- CLAIM. -/
def execClaim (s : State) : Host.Outcome State Fault Refusal := .next (processMsg s 2 onClaim)
/-- CHANGE. -/
def execChange (s : State) : Host.Outcome State Fault Refusal := .next (processMsg s 3 onChange)
/-- ENTRY. -/
def execEntry (s : State) : Host.Outcome State Fault Refusal := .next (processMsg s 4 onEntry)
/-- MOVE_END. -/
def execMoveEnd (s : State) : Host.Outcome State Fault Refusal := .next (processMsg s 5 onMoveEnd)
/-- MAP. -/
def execMap (s : State) : Host.Outcome State Fault Refusal := .next (processMsg s 6 onMap)
/-- RING_MESSAGE_FORWARD. -/
def execRingMessageForward (port : Bool) (msg : Bytes) (crcOk : Bool) (s : State) : Host.Outcome State Fault Refusal :=
  .next (ringMessage s port msg crcOk)
/-- KRYSA_PORT_DOWN. -/
def execKrysaPortDown (port : Bool) (s : State) : Host.Outcome State Fault Refusal :=
  .next (s.modKr (fun k => if port then { k with eastLow := true } else { k with westLow := true }))
/-- KRYSA_PORT_UP. -/
def execKrysaPortUp (port : Bool) (s : State) : Host.Outcome State Fault Refusal :=
  .next (s.modKr (fun k => if port then { k with eastLow := false } else { k with westLow := false }))
/-- CLAIM_TIMEOUT. -/
def execClaimTimeout (s : State) : Host.Outcome State Fault Refusal := .next (claimTimeout s)
/-- OWNERSHIP_LEASE_EXPIRY. -/
def execOwnershipLeaseExpiry (s : State) : Host.Outcome State Fault Refusal := .next (leaseExpiry s)
/-- KR_KEYLOAD. -/
def execKrKeyload (k : Fin 64) (i : Nat) (s : State) : Host.Outcome State Fault Refusal := .next (krKeyload s k i)
/-- KR_ASSIGN. -/
def execKrAssign (k : Fin 64) (i : Nat) (s : State) : Host.Outcome State Fault Refusal := .next (krAssign s k i)
/-- KR_QUERY. -/
def execKrQuery (k : Fin 64) (i : Nat) (s : State) : Host.Outcome State Fault Refusal := .next (krQuery s k i)

end Sys2Proof.Machine
end

