-- ==== Sys2Proof/Machine/Ledger.lean ====
section
/-! DEFINITION. The duty-cycle ledger (R374 to R385): profile, air-time, buckets, release rule, held store, events. -/

namespace Sys2Proof.Machine

/-- Change the ledger. -/
def State.modLg (s : State) (f : Ledger → Ledger) : State := { s with ledger := f s.ledger }

/-! ### The profile (R374 to R377) -/

/-- Length of a profile body and of a whole image (R374). -/
def profileBody : Nat := 2240
def profileLen : Nat := 2336

/-- Rate entry r of band b of a profile body (R376). -/
def rateOf (p : Bytes) (b r : Nat) : Rate :=
  let x := sub p (64 + 272 * b + 16 + 16 * r) 16
  { pre := beAt x 0 4, bitNs := beAt x 4 4, ovh := beAt x 8 2, cnum := beAt x 10 1, cden := beAt x 11 1, blk := beAt x 12 2
    valid := bit (beAt x 14 1) 0 }

/-- Band entry b of a profile body (R375). -/
def bandOf (p : Bytes) (b : Nat) : Band :=
  let x := sub p (64 + 272 * b) 16
  { en := bit (beAt x 0 1) 0, ppm := beAt x 4 4, maxTx := beAt x 8 4, resetPpm := beAt x 12 4, rates := (List.range 16).map (rateOf p b) }

/-- The eight band entries of a profile body. -/
def bandsOf (p : Bytes) : List Band := (List.range 8).map (bandOf p)

/-- VERSION of a profile body. -/
def profileVersion (p : Bytes) : Nat := beAt p 8 4

/-- A rate entry within the ranges of R376. -/
def Rate.ok (r : Rate) : Bool :=
  decide (1 ≤ r.bitNs) && decide (1 ≤ r.cden) && decide (r.cden ≤ r.cnum) && decide (1 ≤ r.blk) && decide (r.blk ≤ 4096)

/-- A band entry that R377 accepts. -/
def Band.ok (b : Band) : Bool :=
  (b.rates.filter (·.valid)).all Rate.ok
  && (!b.en || (decide (1 ≤ b.ppm) && decide (b.ppm ≤ 1000000) && decide (1 ≤ b.maxTx) && decide (b.resetPpm ≤ b.ppm) && b.rates.any (·.valid)))

/-- MAGIC and Rsvd bytes of a profile body (R374 to R377). DEDUCED (log entry 52). -/
def profileForm (p : Bytes) : Bool :=
  decide (p.take 8 = asc "SX4-REGP") && decide (sub p 28 36 = zeros 36)
  && (List.range 8).all (fun b => decide (sub p (64 + 272 * b + 1) 3 = zeros 3)
    && (List.range 16).all (fun r => decide (byteAt p (64 + 272 * b + 16 + 16 * r + 15) = 0)))

/-- The conditions of R377 that do not concern the signature; `reload` is the reload of the stored profile at start. -/
def profileOk (s : State) (p : Bytes) (reload : Bool) : Bool :=
  profileForm p && decide (1 ≤ profileVersion p)
  && (if reload then decide (s.ledger.version ≤ profileVersion p) else decide (s.ledger.version < profileVersion p))
  && (bandsOf p).all Band.ok

/-- Stage an accepted profile (R377). DEDUCED (log entry 52). -/
def stageProfile (s : State) (p : Bytes) : State := s.modLg (fun l => { l with staged := some p })

/-- A profile was refused (R377). -/
def profileRefused (s : State) : State := s.evt 0x5200 1

/-- Step 6 of R82: the staged profile commits (R377, R379). DEDUCED (log entry 51). -/
def commitProfile (s : State) : State :=
  match s.ledger.staged with
  | none => s
  | some p =>
    let bands := bandsOf p
    (s.modLg (fun l => { l with
      staged := none, loaded := true, version := profileVersion p, bands := bands, digest := sha384 p
      buckets := if l.loaded then l.buckets else bands.map (fun b => List.replicate 60 (if b.en then min 0xFFFFFFFF (b.resetPpm * 60) else 0))
      bucket := if l.loaded then l.bucket else s.alm.time / 960000000 })).evt 0x5200 0

/-! ### Air-time and window (R378, R379) -/

/-- Air-time of a frame of len bytes at a rate (R378). -/
def airtime (r : Rate) (len : Nat) : Nat :=
  let coded := cdiv ((len + r.ovh) * 8 * r.cnum) r.cden
  let coded := cdiv coded r.blk * r.blk
  r.pre + cdiv (coded * r.bitNs) 1000

/-- Band b in force, where it is enabled. -/
def State.band (s : State) (b : Nat) : Option Band := (s.ledger.bands[b]?).filter (·.en)

/-- Budget of a band in µs (R379). -/
def Band.budget (b : Band) : Nat := b.ppm * 3600

/-- Used air-time U of band b (R379). -/
def usedAir (s : State) (b : Nat) : Nat := (s.ledger.buckets.getD b []).sum

/-- Charge the current bucket of a band (R379). -/
def charge (s : State) (b a : Nat) : State :=
  s.modLg (fun l => { l with buckets := l.buckets.modify b (fun x =>
    match x with | c :: rest => min 0xFFFFFFFF (c + a) :: rest | [] => []) })

/-- Roll the buckets of every band to Almanac time (R379). DEDUCED (log entry 51). -/
def rollBuckets (s : State) : State :=
  let idx := s.alm.time / 960000000
  let k := min 60 (idx - s.ledger.bucket)
  s.modLg (fun l => { l with bucket := idx, buckets := l.buckets.map (fun x => List.replicate k 0 ++ x.take (60 - k)) })

/-! ### The release rule (R380, R381) -/

/-- A request of step 7 of R341. -/
structure TxReq where
  frame : Bytes := []
  dst : Nat := 0
  tag : Nat := 0
  ring : Nat := 0
  irq : Bool := false
  node : Nat := 0
  dcnt : Nat := 0
  ts : Nat := 0
  info : Nat := 0
  band : Nat := 0
  rate : Nat := 0
  hold : Nat := 0
  deriving DecidableEq, Repr

/-- Bytes a frame occupies in the held store (R381). -/
def storeBytes (f : Bytes) : Nat := cdiv f.length 64 * 64

/-- Count a rejection in field hi..lo of a register (R380, R384). -/
def lgReject (s : State) (off hi lo : Nat) (full : Bool) : State :=
  let s := (s.inc off hi lo).evt 0x5200 2
  if full then s.evt 0x5200 4 else s

/-- The decision (R380): status and air-time. A frame decided OK is charged; writing it is the caller's. -/
def ledgerDecide (s : State) (q : TxReq) : State × Nat × Nat :=
  if s.wedged 1 then (s, stLocked, 0) else
  match s.band q.band with
  | none => (lgReject s 0x3920C 31 16 false, stReject, 0)
  | some b =>
    let r := b.rates.getD q.rate {}
    if !r.valid then (lgReject s 0x3920C 31 16 false, stReject, 0)
    else
      let a := airtime r q.frame.length
      let l := s.ledger
      if a > b.maxTx ∨ a > b.budget then (lgReject s 0x39208 15 0 false, stReject, a)
      else if l.held.all (fun h => decide (h.band ≠ q.band)) ∧ usedAir s q.band + a ≤ b.budget then (charge s q.band a, stOK, a)
      else if q.hold = 0 then (lgReject s 0x39208 31 16 false, stReject, a)
      else if l.held.length ≥ 2048 ∨ (l.held.map (fun h => storeBytes h.frame)).sum + storeBytes q.frame > 262144
          ∨ (s.ring (64 + q.ring)).free = 0 then (lgReject s 0x3920C 15 0 true, stReject, a)
      else
        let s := s.modRing (64 + q.ring) (fun r => { r with reserved := r.reserved + 1 })
        (s.modLg (fun l => { l with held := l.held ++ [{
          frame := q.frame, dst := q.dst, tag := q.tag, ring := q.ring, irq := q.irq, node := q.node, dcnt := q.dcnt, ts := q.ts
          airtime := a, band := q.band, rate := q.rate, info := q.info, expiry := s.count + q.hold }] }), stHeld, a)

/-! ### Release and expiry (R382, R383) -/

/-- RESULT of R343. -/
def dlResult (dcnt ts air info aux : Nat) : Bytes := toLe 6 dcnt ++ toLe 4 ts ++ toLe 4 air ++ toLe 1 info ++ toLe 1 aux

/-- Write the event of a held frame that leaves the store; it is dropped where the ring was disabled before (R383). -/
def heldEvent (s : State) (h : HeldFrame) (st op aux : Nat) : State :=
  if h.mute then unreserve s h.ring
  else cqWrite s h.ring st false h.irq 0xFFFF h.tag s.count 0x82 op (dlResult h.dcnt h.ts h.airtime h.info aux)

/-- Discard a held frame (R383). -/
def discardHeld (s : State) (h : HeldFrame) (why : Nat) : State :=
  let s := s.modLg (fun l => { l with held := l.held.erase h })
  let s := (if why = 1 then s.inc 0x39210 15 0 else s.inc 0x39210 31 16).evt 0x5200 3
  heldEvent s h stReject 2 why

/-- Release a held frame (R382): charged, written to DST, reported. -/
def releaseHeld (s : State) (h : HeldFrame) : State :=
  let s := (charge s h.band h.airtime).modLg (fun l => { l with held := l.held.erase h })
  heldEvent (hostWrite s h.dst h.frame).1 h stOK 1 0

/-- Release the held frames of band b in order while they fit (R382 step 3), over a list of its frames. -/
def releaseBand (b : Nat) : List HeldFrame → State → State
  | [], s => s
  | h :: rest, s =>
    match s.band b with
    | none => s
    | some x => if usedAir s b + h.airtime ≤ x.budget then releaseBand b rest (releaseHeld s h) else s

/-- The band or rate entry of a held frame that the new profile took away (R382 step 1). -/
def profileTook (s : State) (old : List Band) (h : HeldFrame) : Bool :=
  match s.band h.band with
  | none => true
  | some x => decide (x.rates.getD h.rate {} ≠ ((old.getD h.band {}).rates.getD h.rate {}))

/-- Steps 1 to 3 of R382; `old` is the bands in force before a profile that committed at this Calends.
DEDUCED (log entry 53). -/
def ledgerRelease (s : State) (old : Option (List Band)) : State :=
  let lost := s.ledger.held.filter (fun h => decide (ownerOf s h.node ≠ .own))
  let s := lost.foldl (fun s h => discardHeld s h 2) s
  let s := match old with
    | some o => (s.ledger.held.filter (profileTook s o)).foldl (fun s h => discardHeld s h 3) s
    | none => s
  let s := rollBuckets s
  let s := (List.range 8).foldl (fun s b => 
    releaseBand b (s.ledger.held.filter (fun h => decide (h.band = b) && decide (s.count ≤ h.expiry + 1))) s) s
  s.modLg (fun l => { l with used := (List.range 8).map (usedAir s) })

/-- Step 4 of R382: frames whose expiry tick has ended. DEDUCED (log entry 53). -/
def holdExpiry (s : State) : State :=
  if s.halted then s
  else (s.ledger.held.filter (fun h => decide (h.expiry < s.count))).foldl (fun s h => discardHeld s h 1) s

/-- The held store is cleared without events: alarm and power fail (R383). -/
def ledgerClear (s : State) : State :=
  let s := s.ledger.held.foldl (fun s h => unreserve s h.ring) s
  s.modLg (fun l => { l with held := [] })

/-- LEDGER_HOLD_EXPIRY. -/
def execLedgerHoldExpiry (s : State) : Host.Outcome State Fault Refusal := .next (holdExpiry s)

end Sys2Proof.Machine
end

