-- ==== Sys2Proof/Machine/Down.lean ====
section
/-! DEFINITION. Node frames: formats, nonces, node keys and the downlink steps 2 to 7 (R326 to R332, R341 to R346), shared by
DOWNLINK and by the sends of conversations. -/

namespace Sys2Proof.Machine

/-- MIC bytes of an HLF MICL code (R329). -/
def miclLen (m : Nat) : Nat := if m = 0 then 4 else if m = 1 then 8 else 16

/-- FCTL of an HLF frame (R329). -/
def hlfCtl (dir type micl : Nat) : Nat := 1 + 4 * dir + 8 * type + 64 * micl

/-- The HLF nonce (R330). -/
def hlfNonce (node epoch dir cnt fctl : Nat) : Bytes := toBe 4 node ++ toBe 1 epoch ++ toBe 1 dir ++ toBe 6 cnt ++ toBe 1 fctl

/-! ### IEEE 802.15.4 security (R331; PRESUMED where the standard is named, log entry 41) -/

/-- The auxiliary security header of a frame. -/
structure AuxHdr where
  level : Nat := 0
  counter : Nat := 0
  node : Nat := 0
  epoch : Nat := 0
  deriving DecidableEq, Repr

/-- MIC bytes of a security level (R331). -/
def s154Mic (level : Nat) : Nat := if level % 4 = 0 then 0 else 2 ^ (level % 4 + 1)

/-- Bytes of an address of a mode of the frame control field: none, short, extended. -/
def s154AddrLen (m : Nat) : Nat := if m = 2 then 2 else if m = 3 then 8 else 0

/-- Bytes of the MAC header before its auxiliary security header, of frame version 0b10: frame control, sequence number, PAN IDs and
addresses as the frame control field says. PRESUMED (log entry 41). -/
def s154AuxAt (fcf : Nat) : Nat :=
  let dst := bits fcf 11 10
  let src := bits fcf 15 14
  let comp := bit fcf 6
  let ext := decide (dst = 3) && decide (src = 3)
  let dstPan :=
    if dst = 0 then decide (src = 0) && comp else if src = 0 then !comp else if ext then !comp else true
  let srcPan := decide (src ≠ 0) && !comp && (decide (dst = 0) || !ext)
  2 + (if bit fcf 8 then 0 else 1) + 2 * b2n dstPan + s154AddrLen dst + 2 * b2n srcPan + s154AddrLen src

/-- Header information elements from pos reach exactly byte hdr: a terminator is the last. PRESUMED (log entry 41). -/
def s154Ies (f : Bytes) (hdr : Nat) : Nat → Nat → Bool
  | 0, _ => false
  | n + 1, pos =>
    let w := leAt f pos 2
    let next := pos + 2 + bits w 6 0
    if hdr < next then false
    else if next = hdr then true
    else if bits w 14 7 = 0x7E ∨ bits w 14 7 = 0x7F then false
    else s154Ies f hdr n next

/-- Parse the MAC header of hdr bytes with its auxiliary header at off (R331, R335): nothing where an option is not supported, or
where the header that the frame itself gives does not end there. PRESUMED (log entry 41). -/
def s154Parse (f : Bytes) (hdr off : Nat) : Option AuxHdr :=
  let fcf := leAt f 0 2
  let sc := leAt f off 1
  let ends := if bit fcf 9 then s154Ies f hdr 128 (off + 10) else decide (off + 10 = hdr)
  if (bits fcf 2 0 = 1 ∨ bits fcf 2 0 = 3) ∧ bit fcf 3 ∧ bits fcf 13 12 = 2 ∧ bits fcf 11 10 ≠ 1 ∧ bits fcf 15 14 ≠ 1
      ∧ bits sc 2 0 ≠ 0 ∧ bits sc 4 3 = 2 ∧ bits sc 7 5 = 0 ∧ off = s154AuxAt fcf ∧ ends = true ∧ hdr ≤ f.length then
    some { level := bits sc 2 0, counter := leAt f (off + 1) 4, node := leAt f (off + 5) 4, epoch := leAt f (off + 9) 1 }
  else none

/-- The CCM* nonce: extended address, frame counter, level. PRESUMED (log entry 41). -/
def s154Nonce (ext : Bytes) (counter level : Nat) : Bytes := ext ++ toBe 4 counter ++ toBe 1 level

/-- Secure a frame: ciphertext or payload, then MIC. -/
def s154Protect (key nonce hdr pl : Bytes) (level : Nat) : Bytes :=
  let m := s154Mic level
  if level < 4 then pl ++ ccmTag key nonce (hdr ++ pl) [] m
  else if level = 4 then ccmText key nonce pl
  else ccmText key nonce pl ++ ccmTag key nonce hdr pl m

/-- Open a frame body: the payload, and whether its MIC verified; level 4 has none. -/
def s154Open (key nonce hdr body : Bytes) (level : Nat) : Option (Bytes × Bool) :=
  let m := s154Mic level
  let n := body.length - m
  let ct := body.take n
  let mic := body.drop n
  if level < 4 then (if ccmTag key nonce (hdr ++ ct) [] m = mic then some (ct, true) else none)
  else
    let pt := ccmText key nonce ct
    if level = 4 then some (pt, false)
    else if ccmTag key nonce hdr pt m = mic then some (pt, true) else none

/-! ### Node keys (R327) -/

/-- The derived node key of a node in a channel's bank. -/
def findNodeKey (s : State) (n slot gen node : Nat) : Option KeyEntry :=
  (s.chan n).bank.find? (fun e => decide (e.slot = slot) && decide (e.gen = gen) && decide (e.node = some node))

/-- The node key an admitted frame bound: the bank's derived key (R327). -/
def nodeKey (s : State) (n : Nat) (r : KeyRef) (node : Nat) : Bytes :=
  ((findNodeKey s n r.slot r.gen node).map (fun e => bxor e.share1 e.share2)).getD []

/-- A hit makes a derived node key the most recently used entry (R181). -/
def touchNodeKey (s : State) (n slot gen node : Nat) : State :=
  match findNodeKey s n slot gen node with
  | none => s
  | some e =>
    let rest := (s.chan n).bank.filter (fun x => !(decide (x.slot = slot) && decide (x.gen = gen) && decide (x.node = some node)))
    s.modChan n (fun c => { c with bank := { e with epoch := s.vault.epoch } :: rest })

/-- The key of a frame of a node in a channel at admission (R136, R327): a hit uses the cached node key; a miss counts one use of the
epoch key and derives the node key into the bank, which waits where every entry is bound (R181). -/
def frameKey (s : State) (n : Nat) (f : EpochField) (node epoch : Nat) : State × KeyAns × KeyRef :=
  let r : KeyRef := { slot := f.slot, gen := f.gen }
  let st := keyCheck s [(r, fun x => masksAdmit x 3 n && hasOp x.ops 4)]
  if st ≠ stOK then (keyDenied s st 3 n r.slot, .fail st, r)
  else if (findNodeKey s n r.slot r.gen node).isSome then
    let a := useCopy s n r.slot 0
    (touchNodeKey a.1 n r.slot r.gen node, a.2, r)
  else
    match useCopy s n r.slot 1 with
    | (t, .ok) =>
      (match cacheNodeKey (t.inc 0x3901C 31 0) n r.slot r.gen node (nodeKeyOf (copyKey t n r.slot r.gen) node epoch) with
       | none => (s, .wait, r)
       | some t => (t, .ok, r))
    | (t, a) => (t, a, r)

/-! ### The downlink (R341) -/

/-- What steps 2 to 7 of R341 work on. -/
structure DownReq where
  ch : Nat := 0
  hlf : Bool := true
  node : Nat := 0
  epoch : Nat := 0
  type : Nat := 0
  micl : Nat := 0
  /-- HLF: the payload. S154: the MAC header with its auxiliary header, then the payload. -/
  src : Bytes := []
  hdr : Nat := 0
  aux : Nat := 0
  ext : Bytes := []
  cal : Nat := 0
  sub : Nat := 0
  key : KeyRef := {}
  page : Nat := 0
  tx : TxReq := {}
  deriving DecidableEq, Repr

/-- What a downlink comes to: status, AUX, counter, TS, air-time, sync state, and the finished frame. -/
structure DownAns where
  status : Nat := 0
  aux : Nat := 0
  dcnt : Nat := 0
  ts : Nat := 0
  air : Nat := 0
  sync : Nat := 2
  frame : Bytes := []
  deriving DecidableEq, Repr

/-- RESULT of a downlink (R343). -/
def DownAns.result (a : DownAns) : Bytes := dlResult a.dcnt a.ts a.air a.sync a.aux

/-- The finished HLF frame (R329, R330). -/
def hlfDown (key : Bytes) (q : DownReq) (dcnt ts : Nat) : Bytes :=
  let fctl := hlfCtl 1 q.type q.micl
  let h := toBe 1 fctl ++ toBe 4 q.node ++ toBe 1 q.epoch ++ toBe 6 dcnt ++ toBe 4 ts
  let nonce := hlfNonce q.node q.epoch 1 dcnt fctl
  h ++ ccmText key nonce q.src ++ ccmTag key nonce h q.src (miclLen q.micl)

/-- The finished S154 frame (R331, R341 step 5). -/
def s154Down (key : Bytes) (q : DownReq) (dcnt level : Nat) : Bytes :=
  let h := overlay (q.src.take q.hdr) (q.aux + 1) (toLe 4 dcnt ++ toLe 4 q.node ++ toLe 1 q.epoch)
  h ++ s154Protect key (s154Nonce q.ext (dcnt % 2 ^ 32) level) h (q.src.drop q.hdr) level

/-- Steps 4 to 7 of R341, for a node in sync state `sync` with its entry. -/
def downSend (s : State) (q : DownReq) (level : Nat) (e : Option AlmEntry) : State × DownAns :=
  let sync := (e.map (·.state)).getD 2
  match grant s (if q.hlf then none else some q.page) with
  | (s, none) => (s, { status := stLocked, sync := sync })
  | (s, some dcnt) =>
    let ts := if q.hlf then (e.map (fun x => almPredict x (txTime s q.cal q.sub))).getD 0 else 0
    let k := nodeKey s q.ch q.key q.node
    let frame := if q.hlf then hlfDown k q dcnt ts else s154Down k q dcnt level
    let d := ledgerDecide s { q.tx with frame := frame, node := q.node, dcnt := dcnt, ts := ts, info := sync }
    (d.1, { status := d.2.1, dcnt := dcnt, ts := ts, air := d.2.2, sync := sync, frame := frame })

/-- Steps 1 (parse) to 7 of R341. -/
def downlinkCore (s : State) (q : DownReq) : State × DownAns :=
  let p := if q.hlf then some {} else s154Parse q.src q.hdr q.aux
  match p with
  | none => (s, { status := stMalformed })
  | some h =>
    if !q.hlf && decide (q.src.length + s154Mic h.level > 2047) then (s, { status := stMalformed })
    else if s.wedged 0 then (s, { status := stLocked })
    else match ownerOf s q.node with
    | .other u => (s.inc 0x39010 15 0, { status := stRedirect, aux := u })
    | .nobody => (s.inc 0x39010 31 16, { status := stNotOwner, aux := 7 })
    | .own =>
      if (tierOf s q.node).isNone then (s.inc 0x39010 31 16, { status := stNotOwner, aux := 5 })
      else
        let g := almGet s q.node
        let e := g.2.map (·.2)
        let lost := match e with | some x => decide (x.state = 2) | none => !(q.hlf && decide (q.type = 2))
        if (lost || g.1.boot.eve) && decide (q.type ≠ 1) then (g.1, { status := stLocked, sync := (e.map (·.state)).getD 2 })
        else downSend g.1 q h.level e

/-- Count a downlink's status (R349). -/
def countDown (s : State) (st : Nat) : State :=
  if st = stOK then s.inc 0x39014 31 0 else if st = stHeld then s.inc 0x39018 15 0
  else if st = stReject then s.inc 0x39018 31 16 else s

end Sys2Proof.Machine
end

