-- ==== Sys2Proof/Machine/Conv.lean ====
section
/-! DEFINITION. Conversations (R386 to R412): the table, messages, sends, the four built-in protocols, and what an uplink does
to a conversation. The engines that run operator programs are in Engine.lean. -/

namespace Sys2Proof.Machine

/-- Change the conversation unit. -/
def State.modConvs (s : State) (f : Convs → Convs) : State := { s with conv := f s.conv }
/-- The entry of a CV_ID (R386). -/
def State.convAt (s : State) (id : Nat) : Conv := tget {} s.conv.table id
/-- Change the entry of a CV_ID. -/
def State.modConv (s : State) (id : Nat) (f : Conv → Conv) : State :=
  s.modConvs (fun c => { c with table := tins c.table id (f (s.convAt id)) })

/-- The directory: the CV_ID of a node's conversation (R386). -/
def nodeConv (s : State) (node : Nat) : Option Nat :=
  (s.conv.table.find? (fun c => decide (c.2.state ≠ 0) && decide (c.2.node = node))).map (·.1)

/-- The lowest free entry of a channel's table (R398). -/
def freeConv (s : State) (ch : Nat) : Option Nat :=
  ((List.range 256).map (256 * ch + ·)).find? (fun id => decide ((s.convAt id).state = 0))

/-- The TYPE of a protocol's messages (R391). -/
def protoType (p : Nat) : Nat := if p = 1 then 2 else if p = 2 then 1 else p

/-- The 64 bytes of an entry; KEY reads zero (R388). -/
def Conv.bytes (c : Conv) : Bytes :=
  toLe 4 c.node ++ toLe 1 c.proto ++ toLe 1 c.state ++ toLe 1 c.seq ++ toLe 1 c.retry ++ toLe 3 c.timer ++ toLe 3 c.life
  ++ toLe 1 c.missed ++ [0#8] ++ toLe 4 c.tag ++ sub c.arg 0 12 ++ sub c.chal 0 8 ++ zeros 16 ++ toLe 6 c.oppCal
  ++ toLe 2 c.oppSub

/-- The completion ring of a channel's conversation events (R410). -/
def convCq (s : State) (ch : Nat) : Nat := 3 * (s.chan ch).ringsOf + 2

/-- Raise an event of a conversation (R411), on an entry that its step reserved where there is one (R400). -/
def convEvent (s : State) (cq tag code key : Nat) (result : Bytes) : State :=
  let e : SrcEvt := { source := 0x83, code := code, tag := tag, key := key, cal := s.count, result := result }
  if code = 3 then raiseOnce s cq e
  else if s.conv.reserve > 0 then
    raiseEvent (s.modConvs (fun c => { c with reserve := c.reserve - 1 })) cq { e with held := true }
  else raiseEvent s cq e

/-- Open a conversation in an entry (R398, R402): SEQ and CHAL drawn, RETRY and LIFE given, START step queued. -/
def openConv (s : State) (id node proto tag : Nat) (arg : Bytes) (s154 byUplink : Bool) (cal rxSub : Nat) (key : Option KeyRef) : State :=
  let retry := s.fcf (0x6020 + 8 * (proto - 1)) 27 24
  let c : Conv :=
    { node := node, proto := proto, state := 1, seq := s.conv.seq, retry := retry, retry0 := retry
      life := s.fcf (0x6024 + 8 * (proto - 1)) 23 0, tag := tag, arg := sub arg 0 12, chal := s.draw 8
      oppCal := cal, oppSub := rxSub, cq := convCq s (id / 256), s154 := s154, byUplink := byUplink, keyRef := key }
  ((s.drew 8).modConv id (fun _ => c)).modConvs (fun v => { v with
    seq := v.seq % 255 + 1, steps := tins v.steps (id / 256) (tget [] v.steps (id / 256) ++ [{ id := id, kind := 0 }]) })

/-- Queue a step of a conversation that is not queued already. -/
def queueStep (s : State) (id kind : Nat) : State :=
  let q := tget [] s.conv.steps (id / 256)
  if q.any (fun x => decide (x.id = id) && decide (x.kind = kind)) then s
  else s.modConvs (fun v => { v with steps := tins v.steps (id / 256) (q ++ [{ id := id, kind := kind }]) })

/-- Clear an entry with its queued steps: KEY and CHAL are zeroized (R398). -/
def clearConv (s : State) (id : Nat) : State :=
  (s.modConv id (fun _ => {})).modConvs (fun v => { v with
    steps := tins v.steps (id / 256) ((tget [] v.steps (id / 256)).filter (fun x => decide (x.id ≠ id))) })

/-- End a conversation with an outcome (R398, R401, R411, R421). -/
def endConv (s : State) (id outcome detail : Nat) (implicit : Bool) : State :=
  let c := s.convAt id
  if c.state = 0 then s else
  let s := convEvent s c.cq c.tag 2 id
    (toLe 2 id ++ toLe 1 outcome ++ toLe 1 c.proto ++ toLe 4 c.node ++ toLe 4 detail ++ toLe 1 (c.retry0 - c.retry)
      ++ toLe 1 (b2n implicit) ++ zeros 2)
  let s := if outcome = 0 then s.inc 0x3B040 31 0 else if outcome ≤ 2 then s.inc 0x3B044 15 0 else s.inc 0x3B044 31 16
  let s := if outcome = 0 then s else s.evt 0x6008 0
  let s := if c.proto = 2 ∧ (outcome = 1 ∨ outcome = 2) then almGiveUp s c.node else s
  clearConv s id

/-! ### Sends (R391 to R397) -/

/-- The base of the output buffer in force. -/
def convBuf (s : State) : Nat := s.fcf 0x6014 15 0 * 2 ^ 32 + s.fcf 0x6010 31 20 * 2 ^ 20

/-- The marker byte of an S154 message (R391). -/
def convMarker (s : State) (proto : Nat) : Byte := BitVec.ofNat 8 (if proto = 2 then s.fcf 0x5000 15 8 else s.fcf 0x6004 7 0)

/-- The downlink request of a send (R395). -/
def convReq (s : State) (id epoch : Nat) (f : EpochField) (payload : Bytes) : DownReq :=
  let c := s.convAt id
  let t := c.oppSub + s.fcf 0x6000 11 0 * 16000
  let h := Config.convHeader c.node
  { ch := id / 256, hlf := !c.s154, node := c.node, epoch := epoch, type := protoType c.proto, micl := s.fcf 0x6000 21 20
    src := if c.s154 then h ++ convMarker s c.proto :: payload else payload
    hdr := if c.s154 then h.length else 0, aux := if c.s154 then (Config.convAuxOff c.node).toNat else 0
    ext := if c.s154 then toBe 8 (Config.convExtAddr c.node).toNat else []
    cal := c.oppCal + t / period s, sub := t % period s, key := { slot := f.slot, gen := f.gen }, page := f.page
    tx := { ring := c.cq, tag := c.tag, band := s.fcf 0x6000 14 12, rate := s.fcf 0x6000 19 16, hold := 0 } }

/-- The epoch field under which a conversation sends: that of its node's entry (R395). -/
def sendField (s : State) (id : Nat) : State × Option (Nat × EpochField) :=
  let c := s.convAt id
  match almGet s c.node with
  | (s, none) => (s, none)
  | (s, some (_, e)) => (s, ((tierOf s c.node).bind (fun t => (s.tier t).field e.epoch)).map (fun f => (e.epoch, f)))

/-- A key use that has to wait (R144, R181): the state in which it waits; none where it does not. -/
def keyWait (s : State) (ch node : Nat) (x : Option (Nat × EpochField)) : Option State :=
  match x with
  | none => none
  | some (epoch, f) =>
    match frameKey s ch f node epoch with
    | (s, .wait, _) => some s
    | _ => none

/-- A send has to wait for its node key (R144, R181). -/
def sendWait (s : State) (id : Nat) : Option State :=
  keyWait s (id / 256) (s.convAt id).node (sendField s id).2

/-- Try a send: the request made and what its downlink comes to (R395, R396). -/
def convTry (s : State) (id : Nat) (payload : Bytes) : State × DownReq × DownAns :=
  let c := s.convAt id
  match almGet s c.node with
  | (s, none) => (s, {}, { status := stLocked })
  | (s, some (_, e)) =>
    match tierOf s c.node with
    | none => (s, {}, { status := stNotOwner })
    | some t =>
      let tr := s.tier t
      if !tr.dl || !(if c.s154 then tr.s154 else tr.hlf) then (s, {}, { status := stLocked })
      else match tr.field e.epoch with
        | none => (s, {}, { status := stLocked })
        | some f =>
          let q := convReq s id e.epoch f payload
          if q.cal < s.count then (s, q, { status := stMalformed })
          else match frameKey s q.ch f c.node e.epoch with
            | (s, .fail st, _) => (s, q, { status := st })
            | (s, .wait, _) => (s, q, { status := stLocked })
            | (s, .ok, r) =>
              let d := downlinkCore s { q with key := r }
              (d.1, q, d.2)

/-- A send that does not complete OK is a missed opportunity (R396). -/
def missSend (s : State) (id : Nat) : State := (s.modConv id (fun c => { c with missed := satInc 8 c.missed })).inc 0x3B048 31 16

/-- A send: on OK the frame goes to the output buffer, the state is SENT and CONV_TX follows; otherwise, and where the buffer cannot
be written, the opportunity is missed (R395, R396, R398, R399). -/
def convSend (s : State) (id : Nat) (payload : Bytes) : State × Bool :=
  match convTry s id payload with
  | (s, q, a) =>
    let c := s.convAt id
    if a.status = stOK then
      match hostWrite s (convBuf s + 256 * id) a.frame with
      | (s, false) => (missSend s id, false)
      | (s, true) =>
        let s := (countDown s stOK).modConv id (fun c => { c with state := 2, timer := s.fcf (0x6020 + 8 * (c.proto - 1)) 23 0 })
        (convEvent s c.cq c.tag 1 id (toLe 2 id ++ toLe 1 a.frame.length ++ toLe 1 c.proto ++ toLe 4 c.node ++ toLe 6 q.cal ++ toLe 2 q.sub),
          true)
    else (missSend (countDown s a.status) id, false)

/-- The 32 bytes of CV_JPARAM in force. -/
def joinParam (s : State) : Bytes := (List.range 8).flatMap (fun w => toLe 4 (s.fc (0x6080 + 4 * w)))

/-- The message a built-in protocol sends (R392). -/
def convMsg (c : Conv) (param : Bytes) (lastCnt : Nat) : Bytes :=
  let seq := BitVec.ofNat 8 c.seq
  if c.proto = 1 then 2#8 :: seq :: (c.chal ++ param)
  else if c.proto = 2 then 2#8 :: seq :: (c.chal ++ toBe 4 lastCnt)
  else if c.proto = 3 then 1#8 :: seq :: byteAt c.arg 0 :: (c.key ++ c.chal)
  else 1#8 :: seq :: byteAt c.arg 0 :: (sub c.arg 4 8 ++ c.chal)

/-! ### REKEY (R404) -/

/-- The epoch field that NEW_EPOCH names. -/
def epochField (s : State) (node epoch : Nat) : Option EpochField := (tierOf s node).bind (fun t => (s.tier t).field epoch)

/-- The field that the KEY field is bound to, while it still names that key. -/
def boundField (s : State) (c : Conv) : Option EpochField :=
  (epochField s c.node (leAt c.arg 0 1)).filter (fun f => decide (c.keyRef = some { slot := f.slot, gen := f.gen }))

/-- Derive the node key of the bound epoch key into KEY (R401, R404, R414 NKEY). -/
def deriveKey (s : State) (id epoch : Nat) (f : EpochField) : State × KeyAns :=
  let c := s.convAt id
  match frameKey s (id / 256) f c.node epoch with
  | (s, .ok, r) => (s.modConv id (fun c => { c with key := nodeKey s (id / 256) r c.node, keyRef := some r }), .ok)
  | (s, a, _) => (s, a)

/-- The revalidation before a send of a REKEY. -/
def rekeyOk (s : State) (id : Nat) : State × Bool :=
  let n := id / 256
  match boundField s (s.convAt id) with
  | none => (s, false)
  | some f =>
    if keyCheck s [({ slot := f.slot, gen := f.gen }, fun x => masksAdmit x 3 n && hasOp x.ops 4)] ≠ stOK then (revalFail s n f.slot, false)
    else match useCopy s n f.slot 0 with
      | (s, .ok) => (s, true)
      | (s, _) => (s, false)

/-- A built-in send; a send that consumes a retry ends the conversation where none is left (R398, R401).
DEDUCED (log entry 166). -/
def builtinSend (s : State) (id : Nat) (retry : Bool) : State :=
  let c := s.convAt id
  if retry ∧ c.retry = 0 then endConv s id 1 0 false
  else
    match (if c.proto = 3 then rekeyOk s id else (s, true)) with
    | (s, false) => endConv s id 7 0 false
    | (s, true) =>
      match almGet s c.node with
      | (s, e) =>
        let r := convSend s id (convMsg c (joinParam s) ((e.map (·.2.last)).getD 0))
        if retry ∧ r.2 = true then r.1.modConv id (fun c => { c with retry := c.retry - 1 }) else r.1

/-! ### Steps of the built-in protocols (R401) -/

/-- The START step. -/
def builtinStart (s : State) (id : Nat) : State :=
  let c := s.convAt id
  if c.proto = 1 ∨ (c.proto = 2 ∧ c.byUplink = true) then builtinSend s id false
  else if c.proto = 3 then
    match boundField s c with
    | none => endConv s id 7 0 false
    | some f =>
      match deriveKey s id (leAt c.arg 0 1) f with
      | (s, .ok) => s
      | (s, .wait) => queueStep s id 0
      | (s, .fail _) => endConv s id 7 0 false
  else s

/-- A built-in step has to wait for a key that it uses (R144, R181, R401): the state in which it waits. -/
def builtinWait (s : State) (x : ConvStep) : Option State :=
  let c := s.convAt x.id
  if x.kind = 0 ∧ c.proto = 3 then keyWait s (x.id / 256) c.node ((boundField s c).map (fun f => (leAt c.arg 0 1, f)))
  else if (x.kind = 0 ∧ (c.proto = 1 ∨ (c.proto = 2 ∧ c.byUplink = true))) ∨ (x.kind = 1 ∧ c.input.any (·.opp) = true) then sendWait s x.id
  else none

/-- MSG of the awaited reply. -/
def awaited (p : Nat) : Nat := if p ≤ 2 then 3 else 2

/-- Whether an input is a reply (R393). -/
def isReply (c : Conv) (x : ConvInput) : Bool :=
  decide (x.status = stOK) && decide (x.type = protoType c.proto) && decide (3 ≤ x.payload.length)
  && decide (leAt x.payload 1 1 = c.seq)
  && (decide (leAt x.payload 0 1 = 0x7F)
    || (decide (leAt x.payload 0 1 = awaited c.proto) && decide (10 ≤ x.payload.length) && decide (sub x.payload 2 8 = c.chal)
      && (decide (c.proto ≠ 3) || decide (x.epoch = leAt c.arg 0 1))))

/-- An unprompted request of TYPE t (R392). -/
def isRequest (t : Nat) (x : ConvInput) : Bool :=
  decide (x.type = t) && decide (2 ≤ x.payload.length) && decide (leAt x.payload 0 1 = 1) && decide (leAt x.payload 1 1 = 0)

/-- The implicit success of a protocol (R401). -/
def implicitOk (c : Conv) (x : ConvInput) : Bool :=
  decide (c.state = 2) && decide (x.status = stOK)
  && ((decide (c.proto = 1) && decide (x.type = 0)) || (decide (c.proto = 3) && decide (x.epoch = leAt c.arg 0 1)))

/-- DETAIL of a success. -/
def okDetail (c : Conv) : Nat := if c.proto = 3 ∨ c.proto = 4 then leAt c.arg 0 1 else 0

/-- Report resync success from an input (R403). -/
def reportSync (s : State) (node : Nat) (x : ConvInput) : State := almResync s node (rxTime s x.cal x.sub) x.ts

/-- The RX step on an input already taken: in SENT an opportunity that is no reply has the message sent again, and a repeated request
consumes a retry (R393, R398, R401). DEDUCED (log entry 166). -/
def builtinRx (s : State) (id : Nat) (x : ConvInput) : State :=
  let c := s.convAt id
  if isReply c x then
    if leAt x.payload 0 1 = 0x7F then endConv s id 3 (leAt x.payload 2 1) false
    else endConv (if c.proto = 2 then reportSync s c.node x else s) id 0 (okDetail c) false
  else if implicitOk c x then endConv s id 0 (okDetail c) true
  else
    let again := decide (c.proto ≤ 2) && isRequest (protoType c.proto) x
    let s := if again then s else s.inc 0x3B04C 31 0
    if x.opp then builtinSend s id (again && decide (c.state = 2)) else s

/-- The TIMEOUT step: it consumes a retry, or the conversation gives up. -/
def builtinTimeout (s : State) (id : Nat) : State :=
  let c := s.convAt id
  if c.retry = 0 then endConv s id 1 0 false else s.modConv id (fun c => { c with retry := c.retry - 1 })

/-- An engine is freed: the completion entries it holds are given back. -/
def freeEngine (s : State) (i : Nat) : State :=
  let g := tget {} s.conv.engines i
  if !g.on then s
  else
    let s := s.modRing (64 + (s.convAt g.id).cq) (fun r => { r with reserved := r.reserved - g.reserved })
    s.modConvs (fun v => { v with engines := tdel v.engines i })

/-- The step that runs on an engine is over: what it holds is given back (R400). -/
def stopEngine (s : State) (i : Nat) : State :=
  let g := tget {} s.conv.engines i
  freeEngine (dropCost s (i / 2) g.core1 g.cost) i

/-- The step of a conversation that an engine runs is over. -/
def stopEngines (s : State) (id : Nat) : State :=
  (tkeys s.conv.engines).foldl (fun s i => let g := tget {} s.conv.engines i; if g.on ∧ g.id = id then stopEngine s i else s) s

/-! ### Uplinks (R389, R390, R394, R401, R406) -/

/-- The input of an uplink, with its payload after the marker of an S154 message. -/
def uplinkInput (s : State) (hlf : Bool) (type : Nat) (payload : Bytes) (x : ConvInput) : ConvInput :=
  let m := leAt payload 0 1
  let marked := !hlf && decide (payload ≠ [])
  if hlf then { x with type := type, len := payload.length, payload := payload.take 64 }
  else if marked && decide (m = s.fcf 0x5000 15 8) then { x with type := 1, len := payload.length - 1, payload := (payload.drop 1).take 64 }
  else if marked && decide (m = s.fcf 0x6004 7 0) then { x with type := 2, len := payload.length - 1, payload := (payload.drop 1).take 64 }
  else { x with type := 0, len := payload.length, payload := payload.take 64 }

/-- Give an existing conversation its input and opportunity. -/
def postInput (s : State) (id : Nat) (x : ConvInput) : State :=
  let s := if (s.convAt id).input.isSome then s.inc 0x3B04C 31 0 else s
  queueStep (s.modConv id (fun c => { c with
    input := some x, oppCal := if x.opp then x.cal else c.oppCal, oppSub := if x.opp then x.sub else c.oppSub })) id 1

/-- An opening by an uplink in a channel: refused where the table is full. -/
def openByUplink (s : State) (ch node proto : Nat) (x : ConvInput) : State × Bool :=
  match freeConv s ch with
  | none => ((s.inc 0x3B048 15 0).evt 0x6008 1, false)
  | some id => (openConv s id node proto 0 [] x.s154 true x.cal x.sub none, true)

/-- What an uplink whose commit has taken place does to conversations, in channel ch: whether an engine took the frame.
`sync` and `aux` are those of the commit, `entry` whether the node has an Almanac entry. DEDUCED (log entry 78). -/
def convUplink (s : State) (ch node aux sync : Nat) (entry : Bool) (x : ConvInput) : State × Bool :=
  let ok := decide (x.status = stOK)
  let heard := x.opp || ok
  let resync := (decide (x.status = stStale) && (decide (aux = 1) || decide (aux = 3)) && bit (s.fc 0x6004) 9)
    || (ok && decide (2 ≤ sync) && isRequest 1 x)
  let msg := ok && decide (x.type ≠ 0)
  match nodeConv s node with
  | some id =>
    if resync && decide ((s.convAt id).proto ≠ 2) then
      (openConv (endConv (stopEngines s id) id 4 0 false) id node 2 0 [] x.s154 true x.cal x.sub none, msg)
    else if heard then (postInput s id x, msg)
    else (s, false)
  | none =>
    if resync then (let r := openByUplink s ch node 2 x; (r.1, r.2 && msg))
    else if ok && isRequest 2 x && bit (s.fc 0x6004) 8 then (let r := openByUplink s ch node 1 x; (r.1, r.2 && msg))
    else if heard && decide (x.status = stReplay) && entry && isRequest 2 x then
      (convEvent s (convCq s ch) 0 3 node (toLe 2 0xFFFF ++ zeros 2 ++ toLe 4 node ++ toLe 4 x.counter ++ toLe 1 x.epoch ++ zeros 3), false)
    else ((if msg then s.inc 0x3B04C 31 0 else s), false)

/-! ### Timers, losses (R398, R399, R412) -/

/-- A Calends that advances the count by `ticks` (R399). -/
def convTick (s : State) (ticks : Nat) : State :=
  s.modConvs (fun v => { v with
    ranLast := v.ran, ran := []
    table := v.table.map (fun p =>
      let c := p.2
      (p.1, if c.state = 0 then c else { c with
        timer := if c.state = 2 then c.timer - ticks else c.timer
        lifeSub := (c.lifeSub + ticks) % 65536, life := c.life - (c.lifeSub + ticks) / 65536 })) })

/-- The timeout of a SENT conversation (R398). -/
def convTimeout (s : State) (id : Nat) : State :=
  let c := s.convAt id
  if s.halted || decide (c.state ≠ 2) || decide (c.timer ≠ 0) then s
  else if c.retry = 0 then endConv (stopEngines s id) id 1 0 false
  else queueStep (s.modConv id (fun c => { c with state := 1 })) id 2

/-- The end of a conversation's life (R398). -/
def convExpire (s : State) (id : Nat) : State :=
  let c := s.convAt id
  if s.halted || decide (c.state = 0) || decide (c.life ≠ 0) then s else endConv (stopEngines s id) id 2 0 false

/-- A channel loses its conversations: it is fenced or leaves AIR (R398, R412). -/
def loseConvs (s : State) (ch : Nat) : State :=
  let s := stopEngine (stopEngine s (2 * ch)) (2 * ch + 1)
  let s := ((tkeys s.conv.table).filter (fun id => decide (id / 256 = ch))).foldl (fun s id => endConv s id 6 0 false) s
  s.modConvs (fun v => { v with steps := tdel v.steps ch })

/-- The ownership map gives a node to another unit. -/
def movedAway (s : State) (node : Nat) : Bool :=
  ringOn s && s.krysa.map.any (fun r => decide (r.lo ≤ node) && decide (node ≤ r.hi) && decide (r.owner ≠ unitNo s))

/-- Conversations of nodes that the map has moved away end in step 7 of R82 (R398). -/
def ownedConvs (s : State) : State :=
  (tkeys s.conv.table).foldl (fun s id =>
    let c := s.convAt id
    if c.state ≠ 0 ∧ movedAway s c.node = true then endConv (stopEngines s id) id 8 0 false else s) s

/-- The table is zeroized without events (R398). -/
def convZero (s : State) : State :=
  s.modConvs (fun v => { v with table := [], steps := [], engines := [], reserve := 0 })

/-! ### Descriptors (R407 to R409) -/

/-- Reserved bytes of a conversation descriptor. -/
def convRsvd (op : Nat) (d : Bytes) : Bool :=
  if op = 0x30 then rsvdZero d [(0x0D, 3), (0x1C, 36)] []
  else if op = 0x31 then rsvdZero d [(0x0A, 54)] []
  else rsvdZero d [(0x0A, 6), (0x16, 2), (0x18, 40)] []

/-- Body values of CONV_START; the other two have none (R408). -/
def convBody (op : Nat) (d : Bytes) : Bool :=
  let p := leAt d 0x0C 1
  if op = 0x30 then
    decide (2 ≤ p) && decide (p ≤ 6)
    && (if p = 2 then decide (leAt d 0x10 12 = 0) else if p = 3 then decide (leAt d 0x11 11 = 0)
        else if p = 4 then decide (leAt d 0x11 3 = 0) else true)
  else true

/-- The LOCKED reason of a CONV_START; 0 for none (R408). -/
def startWhy (s : State) (ch node p : Nat) (arg : Bytes) (e : Option AlmEntry) : Nat :=
  let newEp := leAt arg 0 1
  let newer := match e with | some x => (let d := (newEp + 256 - x.epoch) % 256; decide (1 ≤ d) && decide (d ≤ 127)) | none => true
  if (freeConv s ch).isNone then 1
  else if (nodeConv s node).isSome then 2
  else if s.boot.eve ∧ p ≠ 2 then 3
  else if e.any (fun x => decide (2 ≤ x.state)) && decide (p ≠ 2) then 4
  else if p = 3 ∧ ((epochField s node newEp).isNone ∨ newer = false) then 5
  else if e.any (·.s154) && decide (p ≠ 2) then 6
  else if (p = 5 ∨ p = 6) ∧ (tget {} s.conv.programs p).code = [] then 7
  else if e.isNone then 8
  else 0

/-- CONV_START (R408). -/
def convStart (s : State) (k i : Nat) : State :=
  if s.halted then s else withItem s k i 0x30 (fun it =>
    let d := it.desc
    let node := leAt d 8 4
    let p := leAt d 0x0C 1
    let arg := sub d 0x10 12
    match ownerOf s node with
    | .other u => finish s k i stRedirect (zeros 15 ++ toLe 1 u) false
    | .nobody => finish s k i stNotOwner (zeros 15 ++ [7#8]) false
    | .own =>
      match almGet s node with
      | (s, g) =>
        let e := g.map (·.2)
        let why := startWhy s it.ch node p arg e
        match why, freeConv s it.ch with
        | 0, some id =>
          let key := if p = 3 then (epochField s node (leAt arg 0 1)).map (fun f => ({ slot := f.slot, gen := f.gen } : KeyRef)) else none
          let seq := s.conv.seq
          finish (openConv s id node p (dTag d) arg (e.any (·.s154)) false 0 0 key) k i stOK (toLe 2 id ++ toLe 1 seq) false
        | _, _ => finish s k i stLocked (zeros 15 ++ toLe 1 why) false)

/-- Whether an engine runs a step of an entry. -/
def onEngine (s : State) (id : Nat) : Bool := s.conv.engines.any (fun g => g.2.on && decide (g.2.id = id))

/-- CONV_END (R409): after a step in flight. -/
def convEnd (s : State) (k i : Nat) : State :=
  if s.halted then s else withItem s k i 0x31 (fun it =>
    let id := leAt it.desc 8 2
    if id / 256 ≠ it.ch then finish s k i stMalformed [] false
    else if onEngine s id then s
    else finish (endConv s id 5 0 false) k i stOK [] false)

/-- CONV_QUERY (R409). -/
def convQuery (s : State) (k i : Nat) : State :=
  if s.halted then s else withItem s k i 0x32 (fun it =>
    let id := leAt it.desc 8 2
    if id / 256 ≠ it.ch then finish s k i stMalformed [] false
    else match hostWrite s (addrAt it.desc 0x10) (s.convAt id).bytes with
      | (s, true) => finish s k i stOK [] false
      | (s, false) => finish s k i stMalformed [] true)

/-- Whether a write keeps the ranges of R419. -/
def convRange (s : State) (off v : Nat) : Bool :=
  if off = 0x6000 then decide (1 ≤ bits v 11 0) && decide (bits v 11 0 ≤ 4000) && decide (bits v 21 20 ≤ 2)
  else if off = 0x6004 then decide (bits v 7 0 ≠ bits (s.wr 0x5000) 15 8)
  else if 0x6020 ≤ off ∧ off < 0x6050 then decide (1 ≤ bits v 23 0)
  else true

/-- CONV_START. -/
def execConvStart (k : Fin 64) (i : Nat) (s : State) : Host.Outcome State Fault Refusal := .next (convStart s k i)
/-- CONV_END. -/
def execConvEnd (k : Fin 64) (i : Nat) (s : State) : Host.Outcome State Fault Refusal := .next (convEnd s k i)
/-- CONV_QUERY. -/
def execConvQuery (k : Fin 64) (i : Nat) (s : State) : Host.Outcome State Fault Refusal := .next (convQuery s k i)
/-- CONV_TIMEOUT. -/
def execConvTimeout (ch : Fin 16) (id : Fin 256) (s : State) : Host.Outcome State Fault Refusal :=
  .next (convTimeout s (256 * ch + id))
/-- CONV_EXPIRE. -/
def execConvExpire (ch : Fin 16) (id : Fin 256) (s : State) : Host.Outcome State Fault Refusal :=
  .next (convExpire s (256 * ch + id))

end Sys2Proof.Machine
end

