-- ==== Sys2Proof/Machine/Nodes.lean ====
section
/-! DEFINITION. UPLINK and DOWNLINK (R333 to R346). -/

namespace Sys2Proof.Machine

/-! ### Bodies and costs (R333, R334, R339, R340, R344) -/

/-- FMT names HLF. -/
def fmtHlf (d : Bytes) : Bool := decide (leAt d 0x1D 1 % 4 = 1)
/-- FMT.MICL. -/
def fmtMicl (d : Bytes) : Nat := bits (leAt d 0x1D 1) 6 5
/-- FMT.TYPE of a downlink. -/
def fmtType (d : Bytes) : Nat := bits (leAt d 0x1D 1) 4 2

/-- Reserved bytes of UPLINK and DOWNLINK. -/
def nodeRsvd (op : Nat) (d : Bytes) : Bool :=
  let h := fmtHlf d
  if op = 0x20 then
    rsvdZero d [(0x0E, 2), (0x16, 2), (0x2A, 6), (0x38, 8)] [(0x1D, if h then 0x9C else 0xFC)]
    && (!h || rsvdZero d [(0x20, 2), (0x30, 8)] [])
  else
    rsvdZero d [(0x0E, 2), (0x16, 2), (0x2D, 3), (0x38, 8)] [(0x1D, if h then 0x80 else 0xE0), (0x28, 0xF8), (0x29, 0xF0)]
    && (!h || rsvdZero d [(0x2A, 2), (0x30, 8)] [])

/-- Body values of UPLINK and DOWNLINK. DEDUCED (log entry 44). -/
def nodeBody (s : State) (op : Nat) (d : Bytes) : Bool :=
  let f := leAt d 0x1D 1 % 4
  let len := leAt d 0x1E 2
  let m := miclLen (fmtMicl d)
  if op = 0x20 then
    if f = 1 then
      decide (fmtMicl d ≠ 3) && decide (15 ≤ len) && decide (len ≤ 255) && decide (14 + m ≤ len)
      && decide (leAt d 0x28 2 < period s) && decide (leAt d 0x22 6 ≤ s.count)
    else decide (f = 2) && decide (1 ≤ len) && decide (len ≤ 2047) && decide (leAt d 0x28 2 < period s) && decide (leAt d 0x22 6 ≤ s.count)
  else
    (if f = 1 then decide (fmtMicl d ≠ 3) && decide (16 + len + m ≤ 255) else decide (f = 2) && decide (leAt d 0x2A 1 + len ≤ 2047))
    && decide (fmtType d ≠ 7) && decide (leAt d 0x26 2 < period s)
    && decide (s.count ≤ leAt d 0x20 6) && decide (leAt d 0x20 6 ≤ s.count + 65535)

/-- The costs of a frame of payload pl and header hdr; `s154` takes the largest of the S154 rows (R339). -/
def nodeCost (s154 : Bool) (hdr pl : Nat) : Cost :=
  let n := cdiv pl 16
  let h := cdiv (hdr + 2) 16
  let a : Cost := { p := 4 + n, i := (1 + h + n) * 11 }
  let b : Cost := { p := 4, i := (1 + cdiv (hdr + pl + 2) 16) * 11 }
  if s154 then { p := max a.p b.p, i := max a.i b.i } else a

/-- The costs of an UPLINK or DOWNLINK as charged at admission. -/
def frameCost (op : Nat) (d : Bytes) : Cost :=
  let len := leAt d 0x1E 2
  if op = 0x20 then
    if fmtHlf d then nodeCost false 14 (len - 14 - miclLen (fmtMicl d)) else nodeCost true (leAt d 0x20 1) (len - leAt d 0x20 1)
  else if fmtHlf d then nodeCost false 16 len else nodeCost true (leAt d 0x2A 1) len

/-- Output bytes at DST as known at admission. -/
def frameOut (op : Nat) (d : Bytes) : Nat :=
  let len := leAt d 0x1E 2
  if op = 0x20 then
    if fmtHlf d then len - 14 - miclLen (fmtMicl d) else len - leAt d 0x20 1
  else if fmtHlf d then 16 + len + miclLen (fmtMicl d) else leAt d 0x2A 1 + len

/-- Input bytes at SRC. -/
def frameIn (op : Nat) (d : Bytes) : Nat :=
  if op = 0x20 ∨ fmtHlf d = true then leAt d 0x1E 2 else leAt d 0x2A 1 + leAt d 0x1E 2

/-! ### UPLINK (R335) -/

/-- A parsed uplink frame. -/
structure UpFrame where
  hlf : Bool := true
  type : Nat := 0
  counter : Nat := 0
  ts : Nat := 0
  bmiss : Nat := 0
  level : Nat := 7
  hdr : Nat := 14
  mic : Nat := 0
  nonce : Bytes := []
  deriving DecidableEq, Repr

/-- Step 1: the frame parsed and held against the descriptor. DEDUCED (log entry 44). -/
def parseUp (d f : Bytes) : Option UpFrame :=
  let node := leAt d 0x18 4
  let epoch := leAt d 0x1C 1
  if fmtHlf d then
    let c := leAt f 0 1
    let type := bits c 5 3
    if bits c 1 0 = 1 ∧ !bit c 2 ∧ bits c 7 6 = fmtMicl d ∧ type ≠ 7 ∧ beAt f 1 4 = node ∧ beAt f 5 1 = epoch then
      some { type := type, counter := beAt f 6 3, ts := beAt f 9 4, bmiss := beAt f 13 1, mic := miclLen (fmtMicl d)
             nonce := hlfNonce node epoch 0 (beAt f 6 3) c }
    else none
  else
    let hdr := leAt d 0x20 1
    match s154Parse f hdr (leAt d 0x21 1) with
    | none => none
    | some a =>
      if a.node = node ∧ a.epoch = epoch ∧ hdr + s154Mic a.level ≤ f.length then
        some { hlf := false, counter := a.counter, level := a.level, hdr := hdr, mic := s154Mic a.level
               nonce := s154Nonce (sub d 0x30 8) a.counter a.level }
      else none

/-- Step 6: verify and decrypt: the payload and whether a MIC verified. -/
def openUp (key f : Bytes) (u : UpFrame) : Option (Bytes × Bool) :=
  let hdr := f.take u.hdr
  let body := f.drop u.hdr
  if u.hlf then
    let n := body.length - u.mic
    let pt := ccmText key u.nonce (body.take n)
    if ccmTag key u.nonce hdr pt u.mic = body.drop n then some (pt, true) else none
  else s154Open key u.nonce hdr body u.level

/-- RESULT of an uplink (R337). -/
def upResult (d : Bytes) (u : UpFrame) (sync : Nat) (auth conv : Bool) (aux : Nat) : Bytes :=
  sub d 0x18 4 ++ toLe 4 u.counter ++ toLe 4 u.ts ++ sub d 0x1C 1 ++ toLe 1 u.bmiss
  ++ toLe 1 (sync + 4 * b2n auth + 8 * b2n conv + 16 * u.type) ++ toLe 1 aux

/-- Count an uplink's status (R349). -/
def countUp (s : State) (st : Nat) : State :=
  if st = stOK then s.inc 0x39000 31 0 else if st = stAuthFail then s.inc 0x39004 31 0
  else if st = stStale then s.inc 0x39008 31 0 else if st = stReplay then s.inc 0x3900C 31 0
  else if st = stRedirect then s.inc 0x39010 15 0 else if st = stNotOwner then s.inc 0x39010 31 16 else s

/-- End an uplink with a status. -/
def endUp (s : State) (k i : Nat) (st : Nat) (result : Bytes) : State := finish (countUp s st) k i st result true

/-- The output write of an item: `bad` where the fabric answers it with an error (R115). -/
def outWrite (s : State) (bad : Bool) (addr : Nat) (b : Bytes) : State × Bool :=
  if bad then (s, false) else hostWrite s addr b

/-- Steps 7 and 8: commit, the payload written, then the conversations: a frame whose payload could not be written is an opportunity
and no message (R338, R394). DEDUCED (log entry 54). DEDUCED (log entry 78). -/
def commitUp (s : State) (bad : Bool) (k i : Nat) (it : Item) (u : UpFrame) (pl : Bytes) (auth : Bool) : State :=
  let d := it.desc
  let node := leAt d 0x18 4
  let base : ConvInput := { s154 := !u.hlf, epoch := leAt d 0x1C 1, counter := u.counter, ts := u.ts, bmiss := u.bmiss, opp := auth
                            cal := leAt d 0x22 6, sub := leAt d 0x28 2 }
  let x := uplinkInput s u.hlf u.type pl base
  let a := almCommit s { node := node, hlf := u.hlf, join := decide (x.type = 2), resync := decide (x.type = 1), fcnt := u.counter
                         epoch := x.epoch, ts := u.ts, bmiss := u.bmiss, cal := x.cal, sub := x.sub }
  let conv (s : State) (st : Nat) : State × Bool :=
    convUplink s it.ch node a.2.aux a.2.sync (decide (a.2.status = stOK) || decide (a.2.status = stReplay)) { x with status := st }
  let res (took : Bool) : Bytes := upResult d u a.2.sync auth took a.2.aux
  if a.2.status ≠ stOK then
    let c := conv a.1 a.2.status
    endUp c.1 k i a.2.status (res c.2)
  else match (if pl = [] then (a.1, true) else outWrite a.1 bad (addrAt d 0x10) pl) with
    | (s, true) => let c := conv s stOK; finish (countUp c.1 stOK) k i stOK (res c.2) false
    | (s, false) => finish (conv s stMalformed).1 k i stMalformed [] true

/-- Steps 2 to 6. -/
def checkUp (s : State) (bad : Bool) (k i : Nat) (it : Item) (u : UpFrame) (f : Bytes) : State :=
  let d := it.desc
  let node := leAt d 0x18 4
  let epoch := leAt d 0x1C 1
  if s.wedged 0 then endUp s k i stLocked (upResult d u 2 false false 0) else
  match almGet s node with
  | (s, g) =>
    let sync := (g.map (·.2.state)).getD 2
    let res := fun (aux : Nat) => upResult d u sync false false aux
    match ownerOf s node with
    | .other n => endUp s k i stRedirect (res n)
    | .nobody => endUp s k i stNotOwner (res 7)
    | .own =>
      match tierOf s node with
      | none => endUp s k i stNotOwner (res 5)
      | some t =>
        if ((s.tier t).field epoch).isNone || decide (it.keys = []) then endUp s k i stStale (res 2)
        else if !u.hlf ∧ u.level < (s.tier t).s154Min then endUp s k i stAuthFail (res 0)
        else match openUp (nodeKey s it.ch (it.keys.headD {}) node) f u with
          | none => endUp s k i stAuthFail (res 0)
          | some (pl, auth) => commitUp s bad k i it u pl auth

/-- UPLINK; `bad` where its payload write gets an error response. -/
def uplink (s : State) (bad : Bool) (k i : Nat) : State :=
  if s.halted then s else withItem s k i 0x20 (fun it =>
    if (s.chan it.ch).fenced then s else
    let d := it.desc
    match hostRead s (addrAt d 8) (leAt d 0x1E 2) with
    | (s, .err) => finish s k i stMalformed [] true
    | (s, .poison) => finish s k i stPoison [] true
    | (s, .ok f) =>
      match parseUp d f with
      | none => finish s k i stMalformed [] true
      | some u =>
        let n := f.length - u.hdr - u.mic
        checkUp (modItem s k i (fun it => { it with outs := if n = 0 then [] else [(addrAt d 0x10, n)] })) bad k i it u f)

/-! ### DOWNLINK (R341) -/

/-- The request of a DOWNLINK descriptor. -/
def downReq (s : State) (k : Nat) (it : Item) (src : Bytes) : DownReq :=
  let d := it.desc
  let node := leAt d 0x18 4
  let key := it.keys.headD {}
  { ch := it.ch, hlf := fmtHlf d, node := node, epoch := leAt d 0x1C 1, type := fmtType d, micl := fmtMicl d, src := src
    hdr := leAt d 0x2A 1, aux := leAt d 0x2B 1, ext := sub d 0x30 8, cal := leAt d 0x20 6, sub := leAt d 0x26 2, key := key
    page := ((epochField s node (leAt d 0x1C 1)).map (·.page)).getD 0
    tx := { dst := addrAt d 0x10, tag := dTag d, ring := k, irq := dIrq d, band := leAt d 0x28 1, rate := leAt d 0x29 1
            hold := leAt d 0x2C 1 } }

/-- DOWNLINK; `bad` where its frame write gets an error response. DEDUCED (log entry 54). -/
def downlink (s : State) (bad : Bool) (k i : Nat) : State :=
  if s.halted then s else withItem s k i 0x21 (fun it =>
    if (s.chan it.ch).fenced then s else
    let d := it.desc
    match hostRead s (addrAt d 8) (frameIn 0x21 d) with
    | (s, .err) => finish s k i stMalformed (plainResult s k d stMalformed) true
    | (s, .poison) => finish s k i stPoison (plainResult s k d stPoison) true
    | (s, .ok src) =>
      let q := downReq s k it src
      let m := if q.hlf then 0 else ((s154Parse src q.hdr q.aux).map (fun a => s154Mic a.level)).getD 0
      let s := if m = 0 then s else modItem s k i (fun it => { it with outs := [(addrAt d 0x10, frameOut 0x21 d + m)] })
      match downlinkCore s q with
      | (s, a) =>
        if a.status = stOK then
          match outWrite s bad (addrAt d 0x10) a.frame with
          | (s, true) => finish (countDown s stOK) k i stOK a.result false
          | (s, false) => finish s k i stMalformed a.result true
        else finish (countDown s a.status) k i a.status a.result (decide (a.status ≠ stHeld)))

/-- UPLINK. -/
def execUplink (k : Fin 64) (i : Nat) (s : State) : Host.Outcome State Fault Refusal := .next (uplink s false k i)
/-- DOWNLINK. -/
def execDownlink (k : Fin 64) (i : Nat) (s : State) : Host.Outcome State Fault Refusal := .next (downlink s false k i)

/-- An error response to an item's output write (R115). An uplink and a downlink have by then done all that comes before
their write: the counter taken stays taken (R341), the Almanac keeps the commit (R335). DEDUCED (log entry 54). -/
def outputError (s : State) (k i : Nat) : State :=
  match findItem s k i with
  | none => s
  | some it =>
    if dOp it.desc = 0x20 then uplink s true k i
    else if dOp it.desc = 0x21 then downlink s true k i
    else finish (leaveVault s k it) k i stMalformed (plainResult s k it.desc stMalformed) true

/-- DMA_ERROR_RESPONSE. -/
def execDmaErrorResponse (k : Fin 64) (i : Nat) (kind : DmaKind) (poison : Bool) (s : State) :
    Host.Outcome State Fault Refusal :=
  .next (if s.halted then s else match kind with
    | .outputWrite => outputError s k i
    | .descriptorRead => descriptorError s k
    | .inputRead => inputError s k i poison
    | .completionWrite => completionError s k)

end Sys2Proof.Machine
end

