-- ==== Sys2Proof/Machine/Channels.lean ====
section
/-! DEFINITION. Channels: fences and takeovers, self-tests, the role changes of a Calends (R22 to R40, R80, R182, R196 to R207,
R266, R267). -/

namespace Sys2Proof.Machine

/-- The channels the steering table is filled from in Eve mode (R37). -/
def eveChans (s : State) : List Nat :=
  idxs 16 (fun n => !(s.chan n).fenced && (decide (n < 2) || ((s.chan n).replacing && decide ((s.chan n).ringsOf < 2))))

/-- The MEM channels in service (R34, R37): a channel that left IDLE and waits for its power token is one of them.
DESIGN CHOICE (log entry 143). -/
def memChans (s : State) : List Nat :=
  if s.boot.eve then eveChans s else idxs 16 (fun n => decide ((s.chan n).role = 1) && !(s.chan n).fenced)

/-- The steering table filled from a list of channels (R34). -/
def fillSteer (s : State) (l : List Nat) : List Nat :=
  if l = [] then s.part.steer else (List.range 64).map (fun e => l.getD (e % l.length) 0)

/-- Put a steering table in force: on the old channel of a moved entry the transactions in flight complete and the dirty lines are
written back first (R36). DESIGN CHOICE (log entry 154). -/
def moveSteer (s : State) (t : List Nat) : State :=
  let old := s.part.steer
  let moved := idxs 64 (fun e => decide (old.getD e 0 ≠ t.getD e 0))
  let from1 := (List.range 16).filter (fun n => moved.any (fun e => decide (old.getD e 0 = n)))
  let s := settleWhere s (fun x => !x.pass && moved.contains (steerHash x.addr))
  let s := from1.foldl (fun s n => flushChan s n (fun a => moved.contains (steerHash a))) s
  { s with part := { s.part with steer := t } }

/-! ### Fences (R199, R200, R266, R267) -/

/-- The region whose tag area holds an address. -/
def tagRegion (s : State) (a : Nat) : Option Nat :=
  (tkeys s.mem.regions).find? (fun n =>
    let r := s.region n
    r.en && decide (r.tagArea.1 ≤ a) && decide (a < r.tagArea.1 + r.tagArea.2))

/-- The tree whose area holds an address, with the region that uses it. -/
def areaTree (s : State) (a : Nat) : Option (Nat × Nat) :=
  ((tkeys s.mem.regions).find? (fun n =>
    let r := s.region n
    r.en && decide (r.mode = 2) && decide ((treeArea s r).1 ≤ a) && decide (a < (treeArea s r).1 + (treeArea s r).2))).map
      (fun n => (n, (s.region n).tree))

/-- The group of a tag-line address in a region. -/
def tagGroup (r : Region) (a : Nat) : Nat := r.base * 2 ^ 11 + (a - r.tag * 2 ^ 17) / 64

/-- Groups of ENC and NATIVE regions that a channel holds dirty: region, group, address (R266). -/
def dirtyGroups (s : State) (ch : Nat) : List (Nat × Nat × Nat) :=
  let m := s.mchan ch
  let c := (m.cc.filter (fun l => l.dirty && l.leaf.isNone && !l.marked)).map (fun l => (l.rgn, l.grp, l.addr))
  let w := m.wb.filterMap (fun p =>
    match tagRegion s p.1 with
    | some n => if (s.region n).mode = 2 then none else some (n, tagGroup (s.region n) p.1, p.1)
    | none => none)
  (c ++ w.filter (fun x => !c.contains x)).eraseDups

/-- Subtrees that a channel holds dirty: region, tree, subtree (R267). -/
def dirtySubtrees (s : State) (ch : Nat) : List (Nat × Nat × Nat) :=
  let m := s.mchan ch
  let c := m.cc.filterMap (fun l => match l.leaf with
    | some (t, _) => if l.dirty then some (l.rgn, t, steerHash (l.grp * 512)) else none
    | none => none)
  let n := m.tc.filterMap (fun x => if x.dirty then (areaTree s x.addr).map (fun y => (y.1, x.tree, x.sub)) else none)
  let w := m.wb.filterMap (fun p =>
    match tagRegion s p.1 with
    | some n => if (s.region n).mode = 2 then some (n, (s.region n).tree, steerHash (tagGroup (s.region n) p.1 * 512)) else none
    | none => (areaTree s p.1).map (fun y => (y.1, y.2, p.1 / 64 % 64)))
  (c ++ n ++ w).eraseDups

/-- The caches of a fenced channel go: what it held dirty is LOST. DESIGN CHOICE (log entry 14). -/
def memFence (s : State) (ch : Nat) : State :=
  let gs := dirtyGroups s ch
  let ts := dirtySubtrees s ch
  let s := s.modMchan ch (fun m => { m with cc := [], tc := [], wb := [] })
  let s := gs.foldl (fun s g => countLost (dramPut s g.2.2 (tlLost (s.region g.1).mode)) g.1 g.2.1) s
  ts.foldl (fun s g => countSubtree (setRoot s g.2.1 g.2.2 sealLost) g.1 (Config.subtreeAddr g.1 g.2.2).toNat) s

/-- A transaction that cannot be issued again is refused like one that arrives (R35, R217, R220). -/
def dropTxn (s : State) (t : Txn) (reason : Nat) : State :=
  let s := { s with mem := { s.mem with inflight := s.mem.inflight.erase t } }
  answer (denyCount s t.kid t.cls reason) t 2 (zeros 64)

/-- One transaction of a fenced channel passes to the holder of its steering entry, which has its keys delivered anew (R202, R217);
it is refused where no MEM channel holds the entry, or where a delivery is (R35, R217). DEDUCED (log entry 164). -/
def reissueOne (ch : Nat) (s : State) (t : Txn) : State :=
  if t.pass || decide (t.ch ≠ ch) then s
  else
    let c := s.steerOf t.addr
    if !memServed s c then dropTxn s t 7
    else match memKey s c t.dref true with
    | (s, none) => dropTxn (keyFailed s t.kid true none) t 9
    | (s, some dk) =>
      let put (s : State) (n : Txn) : State :=
        { s with mem := { s.mem with inflight := s.mem.inflight.map (fun x => if x = t then n else x) } }
      if t.reg.mode = 0 then put s { t with ch := c, dkey := dk }
      else match memKey s c t.tref false with
      | (s, none) => dropTxn (keyFailed s t.kid false none) t 9
      | (s, some tk) =>
        if t.reg.mode ≠ 2 then put s { t with ch := c, dkey := dk, tkey := tk }
        else match memKey s c (s.tree t.reg.tree).key false with
        | (s, none) => dropTxn (keyFailed s t.kid false none) t 9
        | (s, some sk) => put s { t with ch := c, dkey := dk, tkey := tk, skey := sk }

/-- Transactions of a fenced channel are issued again in their order (R202). DEDUCED (log entry 164). -/
def reissue (s : State) (ch : Nat) : State := s.mem.inflight.foldl (reissueOne ch) s

/-- A usable spare (R197, R201). DEDUCED (log entry 131). -/
def spareChan (s : State) : Option Nat :=
  (List.range 16).find? (fun m => let x := s.chan m; decide (x.role = 4) && !x.fenced && x.powered && x.testOk)

/-- The spare takes the role, rings, shares, LINK binding and steering entries of a fenced channel (R201, R207).
DEDUCED (log entry 68). -/
def takeOver (s : State) (n m : Nat) : State :=
  let x := s.chan n
  let s := s.modChan m (fun y => { y with
    role := x.role, replacing := true, ringsOf := x.ringsOf, shareP := x.shareP, shareG := x.shareG, backP := 0, backG := 0
    back0 := 0, back1 := 0, rr := 0, stepPassed := false, bank := [] })
  let s := { s with part := { s.part with
    steer := s.part.steer.map (fun c => if c = n then m else c), spareFor := n, spareUsed := true
    voided := s.part.voided ++ [n, m], taken := s.part.taken ++ [n, m] } }
  (((s.putWr (0x3000 + 4 * m) x.role).putWr (0x3000 + 4 * n) 0).evt 0x3044 1).logPut 0x31 0 (toLe 1 m ++ toLe 1 n)

/-- No spare: the entries of the fenced channel go round the remaining MEM channels (R35). -/
def redistribute (s : State) (n : Nat) : State :=
  let r := memChans s
  if r = [] then s
  else
    let go := (List.range 64).foldl (fun (a : List Nat × Nat) e =>
      let c := s.part.steer.getD e 0
      if c = n then (a.1 ++ [r.getD (a.2 % r.length) 0], a.2 + 1) else (a.1 ++ [c], a.2)) ([], 0)
    { s with part := { s.part with steer := go.1 } }

/-- A channel is fenced, and a spare takes its place or R32 applies (R199 to R202). DEDUCED (log entry 68).
DEDUCED (log entry 153). -/
def fence (s : State) (n cause : Nat) : State :=
  let x := s.chan n
  if x.fenced || decide (x.role = 0) then s
  else
    let spare := if x.role = 4 then none else spareChan s
    let bind1 := if x.role = 2 then (linkBinding s n).orElse (fun _ => linkBinding s x.ringsOf) else none
    let s := s.modChan n (fun y => { y with
      fenced := true, cause := cause, faultCal := s.count % 2 ^ 24, powered := false, needKat := false, bank := [] })
    let s := if x.role = 4 ∧ cause = 7 then s.evt 0x3044 3 else s
    let s := (s.evt 0x3044 0).logPut 0x30 1 (toLe 1 n ++ toLe 1 cause ++ toLe 1 x.role)
    let s := { s with boot := { s.boot with tokens := s.boot.tokens.filter (fun c => decide (c ≠ n)) } }
    let s := loseConvs s n
    let s := memFence s n
    let s := match spare with
      | some m => takeOver s n m
      | none =>
        let s := { s with part := { s.part with voided := s.part.voided ++ [n] } }
        let s := if x.role = 4 then s else s.evt 0x3044 2
        if x.role = 1 ∨ s.part.steer.contains n then redistribute s n else s
    let s := reissue s n
    match bind1 with
    | some (p, tx) => linkFence s p tx spare
    | none => s

/-- Channels fenced at one moment, in the order in which they claim the spare (R31): LINK, MEM, AIR, and by number; a SPARE last.
DEDUCED (log entry 68). DEDUCED (log entry 122). -/
def fenceOrder (s : State) (l : List Nat) : List Nat :=
  let of (r : Nat) : List Nat := l.filter (fun n => decide ((s.chan n).role = r))
  of 2 ++ of 1 ++ of 3 ++ of 0 ++ of 4

/-- DATAPATH_FAULT: a check of R198 fails in a powered channel. DEDUCED (log entry 79). -/
def datapathFault (s : State) (n cause : Nat) : State :=
  if s.halted || !(s.chan n).powered || decide (cause = 0) || decide (9 < cause) then s else fence s n cause

/-- OVERRUN_SELF_TEST (R85, R197). DEDUCED (log entry 79). -/
def overrunTest (s : State) (n : Nat) (pass : Bool) : State :=
  let x := s.chan n
  if s.halted || !x.needKat || x.fenced then s
  else if pass then s.modChan n (fun x => { x with needKat := false }) else fence s n 7

/-- SPARE_SELF_TEST (R29, R197). -/
def spareTest (s : State) (pass : Bool) : State :=
  match (List.range 16).find? (fun m => decide ((s.chan m).role = 4) && !(s.chan m).fenced && (s.chan m).powered) with
  | none => s
  | some m =>
    if s.halted then s
    else if pass then s.modChan m (fun x => { x with testOk := true })
    else fence s m 7

/-! ### Role changes (R24, R27, R80, R182, R203 to R205; step 2 of R82) -/

/-- A partition that R24 allows: the roles by channel, a fenced channel as IDLE. -/
def partitionOk (r : List Nat) : Bool :=
  let c (k : Nat) : Nat := r.countP (· = k)
  decide (2 ≤ c 1) && decide (c 1 ≤ 8) && (decide (c 2 = 0) || decide (c 2 = 2) || decide (c 2 = 4)) && decide (c 3 ≤ 12)
  && decide (c 4 ≤ 1) && r.all (· ≤ 4)

/-- The roles that a role change asks for, by channel. -/
def rolesAsked (s : State) (wr : List (Nat × Nat)) : List Nat :=
  (List.range 16).map (fun n =>
    if (s.chan n).fenced then 0
    else ((wr.filter (fun w => decide (w.1 = n))).getLast?.map (·.2)).getD (s.chan n).role)

/-- The default share of a role (R80). -/
def defaultShare (s : State) (role : Nat) : Nat := if role = 1 then 224 else if role = 2 then s.floorLink else 0

/-- Apply R182 to a bank at a change to a role. -/
def rebank (s : State) (old new : Nat) (bank : List KeyEntry) : List KeyEntry :=
  (bank.filter (fun e =>
    if e.node.isSome then decide (old ≠ 3) || decide (new = 3)
    else decide (1 ≤ new) && decide (new ≤ 3) && bit (s.slot e.slot).roles (new - 1))).map (fun e => { e with pinned := false })

/-- The opcodes that R103 defines for channel rings. DEDUCED (log entry 28). -/
def chanDefined (op : Nat) : Bool :=
  decide (op ≤ 0x0B) || (decide (0x10 ≤ op) && decide (op ≤ 0x16)) || decide (op = 0x20) || decide (op = 0x21)
  || (decide (0x30 ≤ op) && decide (op ≤ 0x32))

/-- Reserved bytes of a channel descriptor; `tx` is the direction of the ring's path. -/
def chanRsvd (op : Nat) (tx : Bool) (d : Bytes) : Bool :=
  if op = 0 then rsvdZero d [(8, 56)] []
  else if op < 0x10 then bulkRsvd op d
  else if op < 0x20 then linkRsvd op tx d
  else if op < 0x30 then nodeRsvd op d
  else convRsvd op d

/-- Step 1 of R110 on a channel descriptor: header, opcode of the owner and reserved bytes. -/
def chanHeader (s : State) (k : Nat) (d : Bytes) : Bool :=
  headerOk true d && chanDefined (dOp d) && chanRsvd (dOp d) (((ringBinding s (ringChan k)).map (·.2)).getD false) d

/-- A head that is not executed completes ROLE_CHANGED, or MALFORMED under step 1 of R110 (R27, R28, R101).
DEDUCED (log entry 29). -/
def flushHead (s : State) (k : Nat) (d : Bytes) : State :=
  let st := if headAborted s k then stAborted else if chanHeader s k d then stRole else stMalformed
  endHead s k d st (plainResult s k d st)

/-- The marked heads of SQk complete while they can be read and find completion room (R27, R82, R107).
DEDUCED (log entry 29). -/
def flushMarked (k : Nat) : Nat → State → State
  | 0, s => s
  | n + 1, s =>
    if (s.ring k).flush = 0 ∨ ringLive s k = false then s
    else match withHead s k (fun s d => (flushHead s k d, true)) with
      | (s, true) => flushMarked k n s
      | (s, false) => s

/-- Every descriptor still in the rings of a channel completes ROLE_CHANGED at the Calends; those without completion room follow in
their turns (R27, R82 step 2, R107). DEDUCED (log entry 29). -/
def flushRings (s : State) (n : Nat) : State :=
  [3 * n, 3 * n + 1, 3 * n + 2].foldl (fun s k =>
    let w := (s.ring k).waiting
    flushMarked k w (s.modRing k (fun r => { r with flush := w }))) s

/-- One channel takes a new role at the Calends (R36, R38, R182, R205); what is left of its test follows the Calends, and admission in
the new role waits for it (R196). DEDUCED (log entry 79). -/
def changeRole (s : State) (n new : Nat) : State :=
  let old := (s.chan n).role
  if old = new then s
  else
    let s := if old = 3 then loseConvs s n else s
    let s := if old = 1 then
        (flushChan (settleWhere s (fun t => !t.pass && decide (t.ch = n))) n (fun _ => true)).modMchan n (fun m => { m with cc := [], tc := [] })
      else s
    let sh := defaultShare s new
    let wait := s.boot.tokens.filter (fun c => decide (c ≠ n))
    let s := { s with boot := { s.boot with tokens := if old = 0 then wait ++ [n] else wait } }
    let s := s.modChan n (fun x => { x with
      role := new, bank := rebank s old new x.bank, shareP := sh, shareG := sh, rr := 0, stepPassed := false
      needKat := x.needKat || (x.powered && decide (old ≠ 0) && decide (new ≠ 0))
      powered := x.powered && decide (old ≠ 0) && decide (new ≠ 0), testOk := true })
    if s.part.shareWr.any (fun w => decide (w.1 = n)) then s else s.putWr (0x140 + 4 * n) (sh + sh * 2 ^ 16)

/-- A share brought within the limits of a role; a role without reserved traffic keeps 0 (R80).
DEDUCED (log entry 81). DESIGN CHOICE (log entry 144). -/
def clampShare (s : State) (role v : Nat) : Nat :=
  if role = 1 then max 64 (min 256 v) else if role = 2 then max s.floorLink (min 256 v) else 0

/-- One CH_SHARE_n write takes effect (R80). Shares in force are left as they are where the floor of the LINK share rises.
DEDUCED (log entry 81). DESIGN CHOICE (log entry 144). -/
def applyShare (s : State) (w : Nat × Nat) : State :=
  let r := (s.chan w.1).role
  if (r = 1 ∨ r = 2) ∧ !(s.chan w.1).fenced then
    let p := clampShare s r (bits w.2 8 0)
    let g := clampShare s r (bits w.2 24 16)
    let s := s.modChan w.1 (fun x => { x with shareP := p, shareG := g })
    if p ≠ bits w.2 8 0 ∨ g ≠ bits w.2 24 16 then s.evt 0x108 4 else s
  else s

/-- Fenced channels whose role no replacement holds after a role change count as IDLE from then on (R203).
DEDUCED (log entry 80). -/
def unbindFenced (s : State) : State :=
  (List.range 16).foldl (fun s n =>
    let x := s.chan n
    if x.fenced && !(List.range 16).any (fun m => let y := s.chan m
        y.replacing && !y.fenced && decide (y.ringsOf = n) && decide (y.role = x.role)) then
      s.modChan n (fun x => { x with unbound := true })
    else s) s

/-- The roles of a valid change take effect: what still waits in the rings of a changed channel completes (R27), then the steering table is refilled where the MEM channels change (R34). -/
def applyRoles (s : State) (roles : List Nat) : State :=
  let before := memChans s
  let moved := idxs 16 (fun n => !(s.chan n).fenced && decide ((s.chan n).role ≠ roles.getD n 0))
  let s := moved.foldl (fun s n => flushRings s (s.chan n).ringsOf) s
  let s := (List.range 16).foldl (fun s n => if (s.chan n).fenced then s else changeRole s n (roles.getD n 0)) s
  let s := unbindFenced s
  if memChans s = before then s else moveSteer s (fillSteer s (memChans s))

/-- One role change: validated whole against the partition in force and applied, or refused whole (R24, R203). -/
def tryRoles (s : State) (wr : List (Nat × Nat)) : State :=
  if wr = [] then s
  else if wr.any (fun w => (s.chan w.1).fenced) || !partitionOk (rolesAsked s wr) then s.evt 0x3044 4
  else applyRoles s (rolesAsked s wr)

/-- A role change that names a channel fenced or taken over in the tick can only be refused: role 5 stands for that (R203).
DEDUCED (log entry 98). -/
def voidRoles (s : State) (wr : List (Nat × Nat)) : List (Nat × Nat) :=
  if wr.any (fun w => s.part.voided.contains w.1) then wr ++ [((wr.headD (0, 0)).1, 5)] else wr

/-- The role change of the tick in Eve mode is held back: it touches an Eve channel, or an earlier change is held (R521). -/
def roleHeld (s : State) : Bool :=
  s.boot.eve && (decide (s.part.heldRoles ≠ [])
    || (eveChans s).any (fun n => decide ((rolesAsked s s.part.roleWr).getD n 0 ≠ 1)))

/-- Step 2 of R82: roles, CH_PART, shares, steering. `ends` says that Eve mode ends at this Calends, where the changes held
back are validated in order (R521). -/
def commitRoles (s : State) (ends : Bool) : State :=
  let now := voidRoles s s.part.roleWr
  let held := s.part.heldRoles.map (voidRoles s)
  let s := { s with part := { s.part with heldRoles := held } }
  let s := if now = [] ∧ !ends then s
    else if ends then
      (held ++ [now]).foldl tryRoles { s with part := { s.part with heldRoles := [] } }
    else if roleHeld s then { s with part := { s.part with heldRoles := held ++ [now] } }
    else tryRoles s now
  let s := { s with part := { s.part with link2 := s.wr 0x3040 % 2 } }
  let s := s.part.shareWr.foldl applyShare s
  linkRoles { s with part := { s.part with roleWr := [], shareWr := [], voided := [], taken := [] } }

/-- DATAPATH_FAULT. -/
def execDatapathFault (ch : Fin 16) (cause : BitVec 4) (s : State) : Host.Outcome State Fault Refusal :=
  .next (datapathFault s ch cause.toNat)
/-- OVERRUN_SELF_TEST. -/
def execOverrunSelfTest (ch : Fin 16) (pass : Bool) (s : State) : Host.Outcome State Fault Refusal := .next (overrunTest s ch pass)
/-- SPARE_SELF_TEST. -/
def execSpareSelfTest (pass : Bool) (s : State) : Host.Outcome State Fault Refusal := .next (spareTest s pass)

end Sys2Proof.Machine
end

