-- ==== Sys2Proof/Machine/Engine.lean ====
section
/-! DEFINITION. The conversation engines (R400, R413 to R418): steps admitted, and the instructions of operator programs. -/

namespace Sys2Proof.Machine

/-- Engine e of channel ch. -/
def State.engine (s : State) (ch e : Nat) : Engine := tget {} s.conv.engines (2 * ch + e)
/-- Change an engine. -/
def State.modEngine (s : State) (ch e : Nat) (f : Engine → Engine) : State :=
  s.modConvs (fun v => { v with engines := tins v.engines (2 * ch + e) (f (s.engine ch e)) })
/-- The program of a protocol. -/
def State.program (s : State) (p : Nat) : Program := tget {} s.conv.programs p

/-- The instruction at an engine's pc; none outside its program. -/
def Engine.fetch (s : State) (g : Engine) : Option Nat := (s.program (s.convAt g.id).proto).code[g.pc]?

/-- Fields of an instruction (R414). -/
def iOp (w : Nat) : Nat := bits w 31 26
def iRd (w : Nat) : Nat := bits w 25 22
def iRa (w : Nat) : Nat := bits w 21 18
def iRb (w : Nat) : Nat := bits w 17 14
def iImm (w : Nat) : Nat := bits w 13 0
/-- IMM as a signed number. -/
def iSimm (w : Nat) : Int := signed 14 (iImm w)

/-- Register n of an engine. -/
def Engine.reg (g : Engine) (n : Nat) : Nat := g.g.getD n 0
/-- An engine with register n set, modulo 2^32. -/
def Engine.setReg (g : Engine) (n v : Nat) : Engine := { g with g := g.g.set n (v % 2 ^ 32) }

/-- End the step that runs on an engine: it frees the completion entries it did not use (R400). -/
def endStep (s : State) (ch e : Nat) : State := stopEngine s (2 * ch + e)

/-- Run f with the step's reserved completion entries at hand (R400). -/
def withReserve (s : State) (ch e : Nat) (f : State → State) : State :=
  let s := f (s.modConvs (fun v => { v with reserve := (s.engine ch e).reserved }))
  let left := s.conv.reserve
  (s.modEngine ch e (fun g => { g with reserved := left })).modConvs (fun v => { v with reserve := 0 })

/-- End the conversation of an engine's step, and the step. -/
def endFrom (s : State) (ch e outcome detail : Nat) : State :=
  let id := (s.engine ch e).id
  let cq := (s.convAt id).cq
  let s := withReserve s ch e (fun s => endConv s id outcome detail false)
  let g := s.engine ch e
  let s := dropCost (s.modRing (64 + cq) (fun r => { r with reserved := r.reserved - g.reserved })) ch g.core1 g.cost
  s.modConvs (fun v => { v with engines := tdel v.engines (2 * ch + e) })

/-- A step faults (R415). -/
def engineFault (s : State) (ch e : Nat) : State := endFrom (s.evt 0x6008 5) ch e 9 0

/-- After an instruction the next one must be there, defined and within the 256 of a step (R400, R415). -/
def settleEngine (s : State) (ch e : Nat) : State :=
  let g := s.engine ch e
  if !g.on then s
  else match g.fetch s with
    | none => engineFault s ch e
    | some w => if iOp w > 0x1E ∨ g.count ≥ 256 then engineFault s ch e else s

/-- Count an instruction and go to the next pc. -/
def advance (s : State) (ch e : Nat) (pc : Int) : State :=
  if pc < 0 then engineFault (s.modEngine ch e (fun g => { g with count := g.count + 1 })) ch e
  else settleEngine (s.modEngine ch e (fun g => { g with pc := pc.toNat, count := g.count + 1 })) ch e

/-- Run the instruction at the pc of engine e of channel ch where its OP is this one; from the Calends instant on the step is cut
(R81, R400). -/
def engineOp (op : Nat) (f : State → Nat → Nat → Engine → Nat → State) (ch e : Nat) (s : State) : State :=
  let g := s.engine ch e
  if s.halted || s.tick.due || !g.on || (s.chan ch).fenced then s
  else match g.fetch s with
    | none => s
    | some w => if iOp w = op then f s ch e g w else s

/-- An instruction that writes RD. -/
def aluOp (f : Engine → Nat → Nat) (s : State) (ch e : Nat) (g : Engine) (w : Nat) : State :=
  advance (s.modEngine ch e (fun x => x.setReg (iRd w) (f g w))) ch e (g.pc + 1)

/-- A branch. -/
def branchOp (f : Nat → Nat → Bool) (s : State) (ch e : Nat) (g : Engine) (w : Nat) : State :=
  advance s ch e (if f (g.reg (iRa w)) (g.reg (iRb w)) then (g.pc : Int) + 1 + iSimm w else g.pc + 1)

/-- The address RA + IMM of the byte windows, IMM unsigned (R414). DEDUCED (log entry 167). -/
def effAddr (g : Engine) (w : Nat) : Nat := g.reg (iRa w) + iImm w

/-- LDE: an entry word; KEY reads 0. -/
def ldeOp (s : State) (ch e : Nat) (g : Engine) (w : Nat) : State :=
  let a := iImm w
  if a % 4 ≠ 0 ∨ a > 0x3C then engineFault s ch e
  else aluOp (fun _ _ => leAt (s.convAt g.id).bytes a 4) s ch e g w

/-- STE: ARG and CHAL only. -/
def steOp (s : State) (ch e : Nat) (g : Engine) (w : Nat) : State :=
  let a := iImm w
  let v := toLe 4 (g.reg (iRa w))
  if [0x14, 0x18, 0x1C].contains a then
    advance (s.modConv g.id (fun c => { c with arg := overlay (sub c.arg 0 12) (a - 0x14) v })) ch e (g.pc + 1)
  else if [0x20, 0x24].contains a then
    advance (s.modConv g.id (fun c => { c with chal := overlay (sub c.chal 0 8) (a - 0x20) v })) ch e (g.pc + 1)
  else engineFault s ch e

/-- LDI: a payload byte of the input. -/
def ldiOp (s : State) (ch e : Nat) (g : Engine) (w : Nat) : State :=
  let a := effAddr g w
  if a ≥ g.input.payload.length then engineFault s ch e
  else aluOp (fun _ _ => leAt g.input.payload a 1) s ch e g w

/-- STO: an output byte. -/
def stoOp (s : State) (ch e : Nat) (g : Engine) (w : Nat) : State :=
  let a := effAddr g w
  if a ≥ 64 then engineFault s ch e
  else advance (s.modEngine ch e (fun x => { x with output := overlay x.output a [BitVec.ofNat 8 (g.reg (iRb w))] })) ch e (g.pc + 1)

/-- The fields that HDR reads. -/
def hdrField (x : ConvInput) (n : Nat) : Nat :=
  if n = 0 then x.len else if n = 1 then x.type else if n = 2 then x.epoch else if n = 3 then x.counter else if n = 4 then x.ts
  else if n = 5 then x.bmiss else if n = 6 then x.status else b2n x.opp

/-- HDR. -/
def hdrOp (s : State) (ch e : Nat) (g : Engine) (w : Nat) : State :=
  if iImm w > 7 then engineFault s ch e else aluOp (fun _ _ => hdrField g.input (iImm w)) s ch e g w

/-- RAND: 32 bits of the DRBG. -/
def randOp (s : State) (ch e : Nat) (g : Engine) (w : Nat) : State :=
  aluOp (fun _ _ => leN (s.draw 4)) (s.drew 4) ch e g w

/-- CHK: 8 input bytes against CHAL. -/
def chkOp (s : State) (ch e : Nat) (g : Engine) (w : Nat) : State :=
  let a := effAddr g w
  if a + 8 > 64 then engineFault s ch e
  else aluOp (fun _ _ => b2n (decide (sub g.input.payload a 8 = sub (s.convAt g.id).chal 0 8))) s ch e g w

/-- NKEY: the node key of an epoch of the node's tier; the instruction waits while the key use does (R144). Derivations above the
declared cost trip the watchdog (R198, R418). -/
def nkeyOp (s : State) (ch e : Nat) (g : Engine) (w : Nat) : State :=
  let ep := g.reg (iRa w) % 256
  match epochField s (s.convAt g.id).node ep with
  | none => engineFault s ch e
  | some f =>
    match deriveKey s g.id ep f with
    | (t, .ok) =>
      let w := g.work + 3 * (t.stw 0x3901C - s.stw 0x3901C)
      let t := t.modEngine ch e (fun x => { x with work := w })
      if w > g.cost.p + 64 then fence t ch 9 else advance t ch e (g.pc + 1)
    | (s, .wait) => s
    | (s, .fail _) => endFrom s ch e 7 0

/-- KOUT: KEY into the output. -/
def koutOp (s : State) (ch e : Nat) (g : Engine) (w : Nat) : State :=
  let a := effAddr g w
  if a + 16 > 64 then engineFault s ch e
  else advance (s.modEngine ch e (fun x => { x with output := overlay x.output a (sub (s.convAt g.id).key 0 16) })) ch e (g.pc + 1)

/-- The bound key of a conversation still stands, where it has one (R404). -/
def boundKeyOk (s : State) (id : Nat) : State × Bool :=
  let c := s.convAt id
  match c.keyRef with
  | none => (s, true)
  | some r =>
    let n := id / 256
    let named := ((tierOf s c.node).map (fun t => (s.tier t).valid.any (fun f => decide (f.slot = r.slot) && decide (f.gen = r.gen)))).getD false
    if !named then (s, false)
    else if keyCheck s [(r, fun x => masksAdmit x 3 n && hasOp x.ops 4)] ≠ stOK then (revalFail s n r.slot, false)
    else match useCopy s n r.slot 0 with
      | (s, .ok) => (s, true)
      | (s, _) => (s, false)

/-- Lane work of a sent frame of n payload bytes, with the node-key derivations it needed (R339, R344). -/
def sendWork (n derived : Nat) : Cost := { p := 1 + cdiv n 16 + 3 * derived, i := (1 + 2 + cdiv n 16) * 11 }

/-- The sends of R395: an opportunity started the step. -/
def mayStepSend (g : Engine) : Bool := decide (g.kind = 1) && g.input.opp

/-- SEND: RB payload bytes of the output; the step ends. It waits while its key use does (R144). Lane work above the declared cost trips the watchdog (R198, R418). -/
def sendOp (s : State) (ch e : Nat) (g : Engine) (w : Nat) : State :=
  let n := g.reg (iRb w)
  if 16 + n + miclLen (s.fcf 0x6000 21 20) > 255 ∨ n > 64 then engineFault s ch e
  else if !mayStepSend g then endStep (missSend s g.id) ch e
  else
    match boundKeyOk s g.id with
    | (s, false) => endFrom s ch e 7 0
    | (s, true) =>
      match sendWait s g.id with
      | some s => s
      | none =>
      let keys := s.stw 0x3901C
      let sent := (s.convAt g.id).state
      let s := withReserve s ch e (fun s => (convSend s g.id (g.output.take n)).1)
      let k := sendWork n (s.stw 0x3901C - keys)
      let tooMuch := decide (sent = 1) && decide ((s.convAt g.id).state = 2)
        && (decide (g.work + k.p > g.cost.p + 64) || decide (k.i > g.cost.i + 64))
      let s := endStep s ch e
      if tooMuch then fence s ch 9 else s

/-- SYNC: program 2 only (R403, R415). -/
def syncOp (s : State) (ch e : Nat) (g : Engine) (_w : Nat) : State :=
  let c := s.convAt g.id
  if c.proto ≠ 2 then engineFault s ch e else advance (reportSync s c.node g.input) ch e (g.pc + 1)

/-- POST. -/
def postOp (s : State) (ch e : Nat) (g : Engine) (w : Nat) : State :=
  let c := s.convAt g.id
  let s := withReserve s ch e (fun s => convEvent s c.cq c.tag 4 g.id
    (toLe 2 g.id ++ toLe 1 (iImm w) ++ toLe 1 c.proto ++ toLe 4 c.node ++ toLe 4 (g.reg (iRa w)) ++ toLe 4 (g.reg (iRb w))))
  advance s ch e (g.pc + 1)

/-- END. -/
def endOp (s : State) (ch e : Nat) (g : Engine) (w : Nat) : State := endFrom s ch e (iImm w % 16) (g.reg (iRa w))

/-- RTRY. -/
def rtryOp (s : State) (ch e : Nat) (g : Engine) (w : Nat) : State :=
  let c := s.convAt g.id
  if c.retry = 0 then endFrom s ch e 1 0
  else aluOp (fun _ _ => c.retry - 1) (s.modConv g.id (fun c => { c with retry := c.retry - 1 })) ch e g w

/-! ### Steps (R400) -/

/-- The cost of a step: built-in or as the image declares. -/
def stepCost (s : State) (id : Nat) : Cost :=
  let p := (s.convAt id).proto
  if p ≤ 4 then { p := 10, i := 66 } else { p := (s.program p).costP, i := (s.program p).costI }

/-- Run a built-in step whole. -/
def builtinStep (s : State) (x : ConvStep) : State :=
  let c := s.convAt x.id
  let cq := c.cq
  let s := s.modConvs (fun v => { v with reserve := 2 })
  let s :=
    if x.kind = 0 then builtinStart s x.id
    else if x.kind = 1 then
      match c.input with
      | none => s
      | some i => builtinRx (s.modConv x.id (fun c => { c with input := none })) x.id i
    else if c.state = 1 then builtinTimeout s x.id
    else s
  let left := s.conv.reserve
  (s.modRing (64 + cq) (fun r => { r with reserved := r.reserved - left })).modConvs (fun v => { v with reserve := 0 })

/-- Start an operator step on an engine (R413). -/
def startEngine (s : State) (ch e : Nat) (x : ConvStep) (cost : Cost) (core1 : Bool) : State :=
  let c := s.convAt x.id
  let p := s.program c.proto
  let idle := decide (x.kind = 1) && c.input.isNone || decide (x.kind = 2) && decide (c.state ≠ 1)
  if idle then s.modRing (64 + c.cq) (fun r => { r with reserved := r.reserved - 2 })
  else
    let g : Engine :=
      { on := true, id := x.id, kind := x.kind, g := List.replicate 16 0, cost := cost, core1 := core1, reserved := 2
        pc := if x.kind = 0 then p.start else if x.kind = 1 then p.rx else p.timeout
        input := if x.kind = 1 then c.input.getD {} else {}, output := zeros 64 }
    let s := if x.kind = 1 then s.modConv x.id (fun c => { c with input := none }) else s
    settleEngine (addCost (s.modEngine ch e (fun _ => g)) ch core1 cost) ch e

/-- A Calends finds operator steps unfinished: they end there (R81). -/
def cutEngines (s : State) : State :=
  (tkeys s.conv.engines).foldl (fun s i => endStep s (i / 2) (i % 2)) s

/-! ### Operator images (R416, R417) -/

/-- Length of an image of n instructions with its signature. -/
def ucodeLen (n : Nat) : Nat := 64 + 4 * n + 96

/-- An image as a program. DEDUCED (log entry 87). -/
def programOf (b : Bytes) : Program :=
  let n := leAt b 0x0E 2
  { version := leAt b 8 4, start := leAt b 0x10 2, rx := leAt b 0x12 2, timeout := leAt b 0x14 2, costP := leAt b 0x16 2
    costI := leAt b 0x18 2, code := (List.range n).map (fun i => leAt b (0x40 + 4 * i) 4), image := b.take (64 + 4 * n) }

/-- The fields of an image are within R416 and every OP is defined. -/
def ucodeForm (b : Bytes) : Bool :=
  let n := leAt b 0x0E 2
  let p := programOf b
  decide (b.take 8 = asc "SX4-CVUC") && decide (1 ≤ p.version) && (decide (leAt b 0x0C 1 = 5) || decide (leAt b 0x0C 1 = 6))
  && decide (leAt b 0x0D 1 = 0) && decide (1 ≤ n) && decide (n ≤ 1024) && decide (b.length = ucodeLen n)
  && decide (p.start < n) && decide (p.rx < n) && decide (p.timeout < n) && decide (p.costP ≤ 64) && decide (p.costI ≤ 1024)
  && decide (sub b 0x1A 38 = zeros 38) && p.code.all (fun w => decide (iOp w ≤ 0x1E))

/-- VERSION of the program in force for a protocol, 0 for none. -/
def ucodeVersion (s : State) (p : Nat) : Nat := (s.program p).version

/-- Stage an accepted image. -/
def stageUcode (s : State) (b : Bytes) : State :=
  s.modConvs (fun v => { v with staged := tins v.staged (leAt b 0x0C 1) (programOf b) })

/-- Step 2 of R82, after the roles: staged images commit (R417). -/
def commitUcode (s : State) : State :=
  s.conv.staged.foldl (fun s p =>
    let open1 := s.conv.table.any (fun c => decide (c.2.state ≠ 0) && decide (c.2.proto = p.1))
    let s := s.modConvs (fun v => { v with staged := tdel v.staged p.1 })
    if open1 then s else (s.modConvs (fun v => { v with
      programs := tins v.programs p.1 { p.2 with order := v.loads }, loads := v.loads + 1 })).evt 0x6008 3) s

/-- NOP (R414). -/
def execEngineNop (ch : Fin 16) (e : Fin 2) (s : State) : Host.Outcome State Fault Refusal :=
  .next (engineOp 0x00 (fun s ch e g _ => advance s ch e (g.pc + 1)) ch e s)
/-- ADD (R414). -/
def execEngineAdd (ch : Fin 16) (e : Fin 2) (s : State) : Host.Outcome State Fault Refusal :=
  .next (engineOp 0x01 (aluOp fun g w => g.reg (iRa w) + g.reg (iRb w)) ch e s)
/-- SUB (R414). -/
def execEngineSub (ch : Fin 16) (e : Fin 2) (s : State) : Host.Outcome State Fault Refusal :=
  .next (engineOp 0x02 (aluOp fun g w => g.reg (iRa w) + 2 ^ 32 - g.reg (iRb w)) ch e s)
/-- AND (R414). -/
def execEngineAnd (ch : Fin 16) (e : Fin 2) (s : State) : Host.Outcome State Fault Refusal :=
  .next (engineOp 0x03 (aluOp fun g w => g.reg (iRa w) &&& g.reg (iRb w)) ch e s)
/-- OR (R414). -/
def execEngineOr (ch : Fin 16) (e : Fin 2) (s : State) : Host.Outcome State Fault Refusal :=
  .next (engineOp 0x04 (aluOp fun g w => g.reg (iRa w) ||| g.reg (iRb w)) ch e s)
/-- XOR (R414). -/
def execEngineXor (ch : Fin 16) (e : Fin 2) (s : State) : Host.Outcome State Fault Refusal :=
  .next (engineOp 0x05 (aluOp fun g w => g.reg (iRa w) ^^^ g.reg (iRb w)) ch e s)
/-- SHL (R414). -/
def execEngineShl (ch : Fin 16) (e : Fin 2) (s : State) : Host.Outcome State Fault Refusal :=
  .next (engineOp 0x06 (aluOp fun g w => g.reg (iRa w) * 2 ^ (g.reg (iRb w) % 32)) ch e s)
/-- SHR (R414). -/
def execEngineShr (ch : Fin 16) (e : Fin 2) (s : State) : Host.Outcome State Fault Refusal :=
  .next (engineOp 0x07 (aluOp fun g w => g.reg (iRa w) / 2 ^ (g.reg (iRb w) % 32)) ch e s)
/-- ADDI (R414). -/
def execEngineAddi (ch : Fin 16) (e : Fin 2) (s : State) : Host.Outcome State Fault Refusal :=
  .next (engineOp 0x08 (aluOp fun g w => unsigned 32 (g.reg (iRa w) + iSimm w)) ch e s)
/-- LUI (R414). -/
def execEngineLui (ch : Fin 16) (e : Fin 2) (s : State) : Host.Outcome State Fault Refusal :=
  .next (engineOp 0x09 (aluOp fun _ w => iImm w * 2 ^ 18) ch e s)
/-- ORI (R414). -/
def execEngineOri (ch : Fin 16) (e : Fin 2) (s : State) : Host.Outcome State Fault Refusal :=
  .next (engineOp 0x0A (aluOp fun g w => g.reg (iRa w) ||| iImm w) ch e s)
/-- BEQ (R414). -/
def execEngineBeq (ch : Fin 16) (e : Fin 2) (s : State) : Host.Outcome State Fault Refusal :=
  .next (engineOp 0x0B (branchOp fun a b => decide (a = b)) ch e s)
/-- BNE (R414). -/
def execEngineBne (ch : Fin 16) (e : Fin 2) (s : State) : Host.Outcome State Fault Refusal :=
  .next (engineOp 0x0C (branchOp fun a b => decide (a ≠ b)) ch e s)
/-- BLTU (R414). -/
def execEngineBltu (ch : Fin 16) (e : Fin 2) (s : State) : Host.Outcome State Fault Refusal :=
  .next (engineOp 0x0D (branchOp fun a b => decide (a < b)) ch e s)
/-- BGEU (R414). -/
def execEngineBgeu (ch : Fin 16) (e : Fin 2) (s : State) : Host.Outcome State Fault Refusal :=
  .next (engineOp 0x0E (branchOp fun a b => decide (b ≤ a)) ch e s)
/-- JMP (R414). -/
def execEngineJmp (ch : Fin 16) (e : Fin 2) (s : State) : Host.Outcome State Fault Refusal :=
  .next (engineOp 0x0F (branchOp fun _ _ => true) ch e s)
/-- LDE (R414). -/
def execEngineLde (ch : Fin 16) (e : Fin 2) (s : State) : Host.Outcome State Fault Refusal :=
  .next (engineOp 0x10 ldeOp ch e s)
/-- STE (R414). -/
def execEngineSte (ch : Fin 16) (e : Fin 2) (s : State) : Host.Outcome State Fault Refusal :=
  .next (engineOp 0x11 steOp ch e s)
/-- LDI (R414). -/
def execEngineLdi (ch : Fin 16) (e : Fin 2) (s : State) : Host.Outcome State Fault Refusal :=
  .next (engineOp 0x12 ldiOp ch e s)
/-- STO (R414). -/
def execEngineSto (ch : Fin 16) (e : Fin 2) (s : State) : Host.Outcome State Fault Refusal :=
  .next (engineOp 0x13 stoOp ch e s)
/-- HDR (R414). -/
def execEngineHdr (ch : Fin 16) (e : Fin 2) (s : State) : Host.Outcome State Fault Refusal :=
  .next (engineOp 0x14 hdrOp ch e s)
/-- RAND (R414). -/
def execEngineRand (ch : Fin 16) (e : Fin 2) (s : State) : Host.Outcome State Fault Refusal :=
  .next (engineOp 0x15 randOp ch e s)
/-- CHK (R414). -/
def execEngineChk (ch : Fin 16) (e : Fin 2) (s : State) : Host.Outcome State Fault Refusal :=
  .next (engineOp 0x16 chkOp ch e s)
/-- NKEY (R414). -/
def execEngineNkey (ch : Fin 16) (e : Fin 2) (s : State) : Host.Outcome State Fault Refusal :=
  .next (engineOp 0x17 nkeyOp ch e s)
/-- KOUT (R414). -/
def execEngineKout (ch : Fin 16) (e : Fin 2) (s : State) : Host.Outcome State Fault Refusal :=
  .next (engineOp 0x18 koutOp ch e s)
/-- SEND (R414). -/
def execEngineSend (ch : Fin 16) (e : Fin 2) (s : State) : Host.Outcome State Fault Refusal :=
  .next (engineOp 0x19 sendOp ch e s)
/-- WAIT (R414). -/
def execEngineWait (ch : Fin 16) (e : Fin 2) (s : State) : Host.Outcome State Fault Refusal :=
  .next (engineOp 0x1A (fun s ch e _ _ => endStep s ch e) ch e s)
/-- SYNC (R414). -/
def execEngineSync (ch : Fin 16) (e : Fin 2) (s : State) : Host.Outcome State Fault Refusal :=
  .next (engineOp 0x1B syncOp ch e s)
/-- POST (R414). -/
def execEnginePost (ch : Fin 16) (e : Fin 2) (s : State) : Host.Outcome State Fault Refusal :=
  .next (engineOp 0x1C postOp ch e s)
/-- END (R414). -/
def execEngineEnd (ch : Fin 16) (e : Fin 2) (s : State) : Host.Outcome State Fault Refusal :=
  .next (engineOp 0x1D endOp ch e s)
/-- RTRY (R414). -/
def execEngineRtry (ch : Fin 16) (e : Fin 2) (s : State) : Host.Outcome State Fault Refusal :=
  .next (engineOp 0x1E rtryOp ch e s)

end Sys2Proof.Machine
end

