-- ==== Sys2Proof/Machine/Nms.lean ====
section
/-! DEFINITION. The Nirza Management Subsystem (R472 to R493): operator objects, images, boot selection, key bank, log, statistics,
Vigil warnings. -/

namespace Sys2Proof.Machine

/-- Change the NMS. -/
def State.modNms (s : State) (f : Nms → Nms) : State := { s with nms := f s.nms }

/-- The NMS serves no command: the block takes no work, the NMS is wedged, or it is not ready (R473, R498). -/
def nmsStill (s : State) : Bool := s.halted || s.wedged 4 || !s.nms.ready

/-- The public key of a KEY_ID, where its written fuse is blown (R475). -/
def nmsPub (s : State) (id : Nat) : Option Bytes :=
  if s.fuses.nmsWritten.contains id then some (tget [] s.fuses.nmsKey id) else none

/-- An object whose last 96 bytes are its signature verifies under the key of a KEY_ID (R472, R475).
DEDUCED (log entry 83). -/
def nmsVerify (s : State) (id : Nat) (b : Bytes) : Bool :=
  match nmsPub s id with
  | some pub => decide (96 ≤ b.length) && ecdsaVerify pub (b.take (b.length - 96)) (b.drop (b.length - 96))
  | none => false

/-! ### Bodies and results (R476, R477) -/

/-- Reserved bytes of an NMS command. -/
def nmsRsvd (op : Nat) (d : Bytes) : Bool :=
  if op = 0x60 ∨ op = 0x61 ∨ op = 0x62 then rsvdZero d [(0x0E, 2), (0x14, 44)] []
  else if op = 0x63 ∨ op = 0x64 then rsvdZero d [(0x08, 56)] []
  else if op = 0x65 then rsvdZero d [(0x09, 55)] []
  else if op = 0x66 then rsvdZero d [(0x09, 7), (0x16, 42)] []
  else if op = 0x67 then rsvdZero d [(0x09, 1), (0x0C, 4), (0x1E, 34)] []
  else if op = 0x68 then rsvdZero d [(0x08, 8), (0x20, 32)] []
  else rsvdZero d [(0x0E, 50)] []

/-- Opcode and body values of an NMS command; the smallest and largest lengths of an object are those of its layout. -/
def nmsBody (op : Nat) (d : Bytes) : Bool :=
  if op = 0x60 then decide (leAt d 0x10 4 = profileLen)
  else if op = 0x61 then decide (ucodeLen 1 ≤ leAt d 0x10 4) && decide (leAt d 0x10 4 ≤ ucodeLen 1024) && decide (leAt d 0x10 4 % 4 = 0)
  else if op = 0x62 then decide (164 ≤ leAt d 0x10 4) && decide (leAt d 0x10 4 ≤ 1048736) && decide (leAt d 0x10 4 % 4 = 0)
  else if op = 0x65 then decide (1 ≤ leAt d 8 1) && decide (leAt d 8 1 ≤ 64)
  else if op = 0x66 then decide (1 ≤ leAt d 8 1) && decide (leAt d 8 1 ≤ 3)
  else if op = 0x67 then decide (leAt d 8 1 ≤ 1) && decide (1 ≤ leAt d 0x0A 2) && decide (leAt d 0x0A 2 ≤ 4096)
  else decide (0x60 ≤ op) && decide (op ≤ 0x69)

/-- RESULT of an NMS completion (R477). -/
def nmsResult (value reason area next : Nat) : Bytes := toLe 4 value ++ toLe 1 reason ++ toLe 1 area ++ zeros 2 ++ toLe 8 next

/-- Finish an NMS command. -/
def nmsEnd (s : State) (k i st value reason area next : Nat) : State := finish s k i st (nmsResult value reason area next) false

/-- Finish a load, with its log entry and the ledger's refusal event (R377, R488). -/
def loadEnd (s : State) (k i op st reason : Nat) (b : Bytes) (refused : Bool) : State :=
  let v := if op = 0x60 then profileVersion b else leAt b 8 4
  let s := if op = 0x60 ∧ refused then profileRefused s else s
  let s := if op = 0x60 then s.logPut 0x60 0 (toLe 4 v ++ toLe 1 st ++ toLe 1 reason)
    else s.logPut 0x61 0 (toLe 1 (leAt b 0x0C 1) ++ toLe 4 v ++ toLe 1 st ++ toLe 1 reason)
  nmsEnd s k i st (if st = stOK then v else 0) reason 0 0

/-- Finish an update command, with its log entry (R488). -/
def updEnd (s : State) (k i op st reason area ver svn : Nat) : State :=
  let s := s.logPut 0x62 0 (toLe 1 op ++ toLe 1 area ++ toLe 4 ver ++ toLe 1 svn ++ toLe 1 st)
  nmsEnd s k i st (if op = 0x62 ∧ st = stOK then ver else 0) reason area 0

/-- Run an NMS command on its input of n bytes at an address (R115, R477). -/
def withInput (s : State) (k i addr n : Nat) (f : State → Bytes → State) : State :=
  match hostRead s addr n with
  | (s, .ok b) => f s b
  | (s, .err) => nmsEnd s k i stMalformed 0 0 0 0
  | (s, .poison) => nmsEnd s k i stPoison 0 0 0 0

/-! ### Objects in the journal (R427, R478, R482) -/

/-- The BLOB records of an object, in parts of 1,024 bytes. -/
def blobRecs (bid ver : Nat) (b : Bytes) : List JRec :=
  let l := chunks 1024 b
  (List.range l.length).map (fun p =>
    { kind := 6, id := bid * 256 + p
      data := toBe 1 bid ++ toBe 1 p ++ toBe 1 l.length ++ zeros 1 ++ toBe 4 ver ++ toBe 4 b.length ++ l.getD p [] })

/-- The newest complete stored version of a BLOB_ID: its VERSION and its bytes. -/
def blobRead (s : State) (bid : Nat) : Option (Nat × Bytes) :=
  if s.jf.state = 0 ∨ s.jf.state = 4 then none
  else
    let all := (ringRecs s).map (·.2)
    (blobNewest all bid).map (fun v =>
      let mine := all.filter (fun r => decide (r.kind = 6) && decide (r.id / 256 = bid) && decide (blobVer r = v))
      (v, (List.range (mine.foldl (fun m r => max m (blobParts r)) 0)).flatMap (fun p =>
        ((mine.find? (fun r => decide (r.id % 256 = p))).map (fun r => r.data.drop 12)).getD [])))

/-- CONF and TRIAL of the boot selection (R482); 0xFF for none. DESIGN CHOICE (log entry 60). -/
def bootSel (s : State) : Nat × Nat :=
  match blobRead s 2 with
  | some (_, b) => (leAt b 0 1, leAt b 1 1)
  | none => (0xFF, 0xFF)

/-- The record of a new boot selection; its VERSION is one above the stored one. DESIGN CHOICE (log entry 60). -/
def selRec (s : State) (conf trial : Nat) : List JRec :=
  blobRecs 2 (((blobRead s 2).map (·.1)).getD 0 + 1) (toBe 1 conf ++ toBe 1 trial ++ zeros 2)

/-- Records queued for the journal, each as urgent: the command waits for them. -/
def jPutAll (s : State) (l : List JRec) : State := l.foldl (fun s r => s.jPut { r with urgent := true }) s

/-- The command that waits goes on once its records are durable: an object is staged, a boot selection completes (R478, R482). -/
def nmsDurable (s : State) : State :=
  match s.nms.wait with
  | none => s
  | some w =>
    if s.halted || w.staged || syncOpen s { qn := w.qn } then s
    else if w.op = 0x60 then
      (stageProfile s (w.object.take profileBody)).modNms (fun n => { n with wait := some { w with staged := true } })
    else if w.op = 0x61 then (stageUcode s w.object).modNms (fun n => { n with wait := some { w with staged := true } })
    else
      let s := s.modNms (fun n => { n with wait := none, trial := if w.op = 0x64 then false else n.trial })
      let area := if w.op = 0x64 then s.nms.service - 1 else s.nms.written.getD 0xFF
      updEnd s w.ring w.idx w.op stOK 0 area (leAt w.object 8 4) (leAt w.object 0x0C 1)

/-- Queue records for a command and let it wait for them. DESIGN CHOICE (log entry 142). -/
def nmsStore (s : State) (k i op : Nat) (recs : List JRec) (b : Bytes) : State :=
  let s := jPutAll s recs
  nmsDurable (s.modNms (fun n => { n with wait := some { ring := k, idx := i, op := op, qn := s.jf.qn, object := b } }))

/-- The VERSION a new profile must pass: in force, or staged by the reload at start (R377). -/
def profileFloor (s : State) : Nat := max s.ledger.version ((s.ledger.staged.map profileVersion).getD 0)

/-- Why a load is refused (R377, R417, R478): status and reason, OK where it is accepted. DEDUCED (log entry 83). -/
def loadWhy (s : State) (op : Nat) (b : Bytes) : Nat × Nat :=
  if op = 0x60 then
    if !nmsVerify s 2 b then (stAuthFail, 0)
    else if !profileForm b then (stMalformed, 0)
    else if profileVersion b ≤ profileFloor s then (stLocked, 1)
    else if !((bandsOf b).all Band.ok) then (stMalformed, 0)
    else (stOK, 0)
  else
    if !nmsVerify s 3 b then (stAuthFail, 0)
    else if !ucodeForm b then (stMalformed, 0)
    else if leAt b 8 4 ≤ ucodeVersion s (leAt b 0x0C 1) then (stLocked, 1)
    else if s.conv.table.any (fun c => decide (c.2.state ≠ 0) && decide (c.2.proto = leAt b 0x0C 1)) then (stLocked, 5)
    else (stOK, 0)

/-- NMS_PROFILE_LOAD and NMS_UCODE_LOAD (R478). -/
def nmsLoad (s : State) (k i op : Nat) : State :=
  if nmsStill s || s.nms.wait.isSome then s else withItem s k i op (fun it =>
    let d := it.desc
    if s.jf.state = 0 ∨ s.jf.state = 3 then loadEnd s k i op stLocked 4 [] false
    else withInput s k i (addrAt d 8) (leAt d 0x10 4) (fun s b =>
      let w := loadWhy s op b
      if w.1 ≠ stOK then loadEnd s k i op w.1 w.2 b true
      else if op = 0x60 then nmsStore s k i op (blobRecs 1 (profileVersion b) b) b
      else nmsStore s k i op (blobRecs (leAt b 0x0C 1) (leAt b 8 4) b) b))

/-- After step 2 (`op` 0x61) or step 6 (`op` 0x60) of R82: a load that was staged completes (R417, R478). -/
def nmsCommitted (s : State) (op : Nat) : State :=
  match s.nms.wait with
  | none => s
  | some w =>
    if !w.staged ∨ w.op ≠ op then s
    else
      let s := s.modNms (fun n => { n with wait := none })
      if op = 0x61 ∧ ucodeVersion s (leAt w.object 0x0C 1) ≠ leAt w.object 8 4 then loadEnd s w.ring w.idx op stLocked 5 w.object true
      else loadEnd s w.ring w.idx op stOK 0 w.object false

/-- The reload of the stored objects after P3 (R479): each is verified again and staged, or logged. -/
def nmsReload (s : State) : State :=
  let s := match blobRead s 1 with
    | none => s
    | some (_, b) =>
      if !nmsVerify s 2 b then (profileRefused s).logPut 0x60 0 (toLe 4 (profileVersion b) ++ toLe 1 stAuthFail ++ toLe 1 0)
      else if !profileOk s b true then (profileRefused s).logPut 0x60 0 (toLe 4 (profileVersion b) ++ toLe 1 stMalformed ++ toLe 1 0)
      else stageProfile s (b.take profileBody)
  [5, 6].foldl (fun s p => match blobRead s p with
    | none => s
    | some (_, b) =>
      if nmsVerify s 3 b && ucodeForm b then stageUcode s b
      else s.logPut 0x61 0 (toLe 1 p ++ toLe 4 (leAt b 8 4) ++ toLe 1 (if nmsVerify s 3 b then stMalformed else stAuthFail) ++ toLe 1 0)) s

/-! ### Images and the boot selection (R480 to R484) -/

/-- The layout of an image (R480). -/
def imageForm (b : Bytes) : Bool :=
  let n := leAt b 0x10 4
  decide (b.take 8 = asc "SX4-NMSI") && decide (1 ≤ leAt b 8 4) && decide (leAt b 0x0C 1 ≤ 64) && decide (sub b 0x0D 3 = zeros 3)
  && decide (4 ≤ n) && decide (n ≤ 1048576) && decide (n % 4 = 0) && decide (leAt b 0x14 4 < n) && decide (sub b 0x18 40 = zeros 40)
  && decide (b.length = 0x40 + n + 96)

/-- The rows of the good blocks of image area a (R423, R424, R481). -/
def areaBlocks (s : State) (a : Nat) : List Nat :=
  ((List.range s.jf.img).map (fun n => 81 + a * s.jf.img + n)).filter (fun b => !s.jf.bad.contains b)
def areaRows (s : State) (a : Nat) : List Nat := (areaBlocks s a).flatMap (fun b => (List.range 64).map (fun p => 64 * b + p))

/-- The bytes of the first n pages of an area. -/
def areaBytes (s : State) (a n : Nat) : Bytes :=
  ((areaRows s a).take n).flatMap (fun r => (s.flash.pages.find? (fun p => decide (p.1 = r))).elim (List.replicate (pageSize s) 0xff#8) (·.2))

/-- The image an area holds, where it verifies (R475, R483). -/
def areaImage (s : State) (a : Nat) : Option Bytes :=
  let h := areaBytes s a 1
  let n := 0x40 + leAt h 0x10 4 + 96
  if leAt h 0x10 4 > 1048576 then none
  else
    let b := (areaBytes s a (cdiv n (pageSize s))).take n
    if imageForm b && nmsVerify s 1 b then some b else none

/-- The area NMS_UPD_WRITE targets (R481). -/
def updTarget (s : State) : Nat :=
  if s.nms.service = 1 then 1 else if s.nms.service = 2 then 0 else if (bootSel s).1 = 0 then 1 else 0

/-- NMS_UPD_WRITE (R481). `fail` names a block in which an erase or a program of the write fails.
DEDUCED (log entry 83). -/
def updWrite (s : State) (k i : Nat) (fail : Option Nat) : State :=
  if nmsStill s || s.nms.wait.isSome then s else withItem s k i 0x62 (fun it =>
    let d := it.desc
    let n := leAt d 0x10 4
    let a := updTarget s
    let locked (s : State) (r : Nat) : State := updEnd s k i 0x62 stLocked r a 0 0
    if nmsPub s 1 = none then locked s 2
    else if !(decide (s.jf.state = 1) || decide (s.jf.state = 2)) then locked s 4
    else if s.jf.img = 0 ∨ (areaRows s a).length * pageSize s < n then locked s 6
    else withInput s k i (addrAt d 8) n (fun s b =>
      let ver := leAt b 8 4
      let svn := leAt b 0x0C 1
      if !nmsVerify s 1 b then updEnd s k i 0x62 stAuthFail 0 a ver svn
      else if !imageForm b then updEnd s k i 0x62 stMalformed 0 a ver svn
      else if svn < s.fuses.rollback then updEnd s k i 0x62 stLocked 7 a ver svn
      else
        let blocks := areaBlocks s a
        let s := { s with flash := { s.flash with pages := s.flash.pages.filter (fun p => !blocks.contains (p.1 / 64)) } }
        let s := s.incBy 0x3932C 31 0 blocks.length
        match fail with
        | some x =>
          let s := s.modNms (fun m => { m with written := if m.written = some a then none else m.written })
          let s := if blocks.contains x then setBad s x else s
          updEnd s k i 0x62 stAuthFail 0 a ver svn
        | none =>
          let sz := pageSize s
          let pages := (chunks sz b).map (fun p => p ++ List.replicate (sz - p.length) 0xff#8)
          let flash := ((areaRows s a).zip pages).foldl (fun (m : Tab Bytes) p => tins m p.1 p.2) s.flash.pages
          let s := { s with flash := { s.flash with pages := flash } }
          let s := s.incBy 0x39328 31 0 pages.length
          updEnd (s.modNms (fun m => { m with written := some a })) k i 0x62 stOK 0 a ver svn))

/-- NMS_UPD_ACTIVATE (R482). `ok` says that the area could be read. DEDUCED (log entry 84). -/
def updActivate (s : State) (k i : Nat) (ok : Bool) : State :=
  if nmsStill s || s.nms.wait.isSome then s else withItem s k i 0x63 (fun _ =>
    match s.nms.written with
    | none => updEnd s k i 0x63 stLocked 8 0xFF 0 0
    | some a =>
      if s.jf.state = 0 ∨ s.jf.state = 3 then updEnd s k i 0x63 stLocked 4 a 0 0
      else match (if ok then areaImage s a else none) with
        | none => updEnd s k i 0x63 stAuthFail 0 a 0 0
        | some b => nmsStore s k i 0x63 (selRec s (bootSel s).1 a) b)

/-- NMS_UPD_CONFIRM (R482). DEDUCED (log entry 84). -/
def updConfirm (s : State) (k i : Nat) : State :=
  if nmsStill s || s.nms.wait.isSome then s else withItem s k i 0x64 (fun _ =>
    if !s.nms.trial then updEnd s k i 0x64 stLocked 8 (if s.nms.service = 0 then 0xFF else s.nms.service - 1) s.nms.version s.nms.svn
    else if s.jf.state = 0 ∨ s.jf.state = 3 then updEnd s k i 0x64 stLocked 4 (s.nms.service - 1) s.nms.version s.nms.svn
    else nmsStore s k i 0x64 (selRec s (s.nms.service - 1) 0xFF) (zeros 8 ++ toLe 4 s.nms.version ++ toLe 1 s.nms.svn))

/-- NMS_ROLLBACK (R484). -/
def nmsRollback (s : State) (k i : Nat) : State :=
  if nmsStill s || s.nms.wait.isSome then s else withItem s k i 0x65 (fun it =>
    let t := leAt it.desc 8 1
    let old := s.fuses.rollback
    if s.vault.carnival then nmsEnd s k i stLocked 0 3 0 0
    else if s.nms.service = 0 ∨ s.nms.trial ∨ t ≤ old ∨ t > s.nms.svn then nmsEnd s k i stLocked 0 8 0 0
    else
      let s := { s with fuses := { s.fuses with rollback := t } }
      nmsEnd (s.logPut 0x63 0 (toLe 1 old ++ toLe 1 t)) k i stOK t 0 0 0)

/-- NMS_KEYFUSE (R475). A read-back that differs leaves the field damaged. DEDUCED (log entry 84). -/
def nmsKeyfuse (s : State) (k i : Nat) (readback : Bool) : State :=
  if nmsStill s || s.nms.wait.isSome then s else withItem s k i 0x66 (fun it =>
    let d := it.desc
    let id := leAt d 8 1
    let done (s : State) (st reason : Nat) : State :=
      nmsEnd (s.logPut 0x64 0 (toLe 1 id ++ toLe 1 st)) k i st (if st = stOK then id else 0) reason 0 0
    withInput s k i (addrAt d 0x10) 96 (fun s b =>
      if !p384OnCurve (beAt b 0 48) (beAt b 48 48) then done s stMalformed 0
      else if lifecycle s ≠ 1 ∨ s.vault.carnival then done s stLocked 3
      else if (tkeys s.fuses.nmsKey).contains id then done s stLocked 9
      else
        let s := { s with fuses := { s.fuses with nmsKey := tins s.fuses.nmsKey id b } }
        if readback then done { s with fuses := { s.fuses with nmsWritten := id :: s.fuses.nmsWritten } } stOK 0
        else done s stLocked 9))

/-- Run an image of an area. -/
def runImage (s : State) (a : Nat) (b : Bytes) (trial fallback : Bool) : State :=
  s.modNms (fun n => { n with
    service := a + 1, trial := trial, fallback := fallback, version := leAt b 8 4, svn := leAt b 0x0C 1, digest := sha384 b })

/-- The boot loader's choice at a start (R473, R483), and the NMS is ready. -/
def nmsBoot (s : State) : State :=
  let sel := bootSel s
  let can := decide (s.jf.state = 1) || decide (s.jf.state = 2)
  let s1 := if sel.2 ≤ 1 ∧ can then writeRing s (selRec s sel.1 0xFF) else s
  let trial := if sel.2 ≤ 1 ∧ can then (areaImage s1 sel.2).filter (fun b => decide (leAt b 0x0C 1 ≥ s1.fuses.rollback)) else none
  let rom := s1.jf.state = 0
  let s2 := match trial with
    | some b => runImage s1 sel.2 b true false
    | none =>
      match (if rom ∨ sel.1 > 1 then none else (areaImage s1 sel.1).map (fun b => (sel.1, b))) with
      | some (a, b) => runImage s1 a b false false
      | none =>
        match (if rom then none else ([0, 1].filter (fun a => decide (a ≠ sel.1))).findSome? (fun a => (areaImage s1 a).map (fun b => (a, b)))) with
        | some (a, b) => (runImage s1 a b false true).evt 0x5A00 5
        | none => s1.evt 0x5A00 5
  (s2.modNms (fun n => { n with ready := true })).evt 0x5A00 0

/-! ### The log and the statistics (R487 to R491) -/

/-- LOG_FLUSH (R489): up to 64 entries, as many as a page takes, go to the journal as one LOG record.
DEDUCED (log entry 86). -/
def logHand (s : State) : State :=
  let w : List LogEntry := (s.log.buf.filter (fun (e : LogEntry) => !e.handed)).take (min 64 ((pageSize s - 32) / 32))
  if w = [] then s
  else
    let r : JRec := { kind := 5, data := w.flatMap (fun (e : LogEntry) => e.data) }
    if s.jf.state = 4 then
      { s with log := { s.log with buf := s.log.buf.filter (fun (e : LogEntry) => !w.any (fun (x : LogEntry) => decide (x.seq = e.seq))) } }
    else if queueBytes s + r.size > 65536 then s.jPut r
    else
      let mark (e : LogEntry) : LogEntry := if w.any (fun (x : LogEntry) => decide (x.seq = e.seq)) then { e with handed := true } else e
      let s := { s with log := { s.log with buf := s.log.buf.map mark } }
      s.jPut r

/-- A flush is due: 64 entries wait, or the oldest has waited JF_CFG.FLUSH (R489). -/
def logDue (s : State) : Bool :=
  let w := s.log.buf.filter (fun e => !e.handed)
  decide (64 ≤ w.length) || w.any (fun e => decide (e.since + flushTime s ≤ s.alm.time))

/-- LOG_FLUSH. DEDUCED (log entry 86). -/
def logFlush (s : State) : State :=
  if nmsStill s || !logDue s then s else logHand s

/-- Whole LOG records from a JCNT on, in JCNT order, while their entries fit; the first one is cut where it alone is too long:
the entries and the JCNT after the last record read. DEDUCED (log entry 86). -/
def logRecords (s : State) (from_ max : Nat) : Bytes × Nat :=
  let l := (((ringRecs s).map (·.2)).filter (fun r => decide (r.kind = 5) && decide (r.jcnt ≥ from_))).mergeSort
    (fun a b => decide (a.jcnt ≤ b.jcnt))
  let r := l.foldl (fun (p : Bytes × Nat × Bool) (x : JRec) =>
    if p.2.2 then p
    else if p.1.length + x.data.length ≤ 32 * max then (p.1 ++ x.data, x.jcnt + 1, false)
    else if p.1 = [] then (x.data.take (32 * max), x.jcnt + 1, true)
    else (p.1, p.2.1, true)) ([], from_, false)
  (r.1, r.2.1)

/-- Write bytes to ADDR for an NMS command and complete it: MALFORMED and zeroized where the write fails (R109, R115). -/
def nmsWrite (s : State) (k i addr : Nat) (b : Bytes) (value next : Nat) : State :=
  let s := modItem s k i (fun it => { it with outs := if b = [] then [] else [(addr, b.length)] })
  match hostWrite s addr b with
  | (s, true) => nmsEnd s k i stOK value 0 0 next
  | (s, false) => finish s k i stMalformed (nmsResult 0 0 0 0) true

/-- NMS_LOG_READ (R490). -/
def nmsLogRead (s : State) (k i : Nat) : State :=
  if nmsStill s || s.nms.wait.isSome then s else withItem s k i 0x67 (fun it =>
    let d := it.desc
    let n := leAt d 0x0A 2
    let f := leAt d 0x10 8
    if leAt d 8 1 = 0 then
      let l : List LogEntry := (s.log.buf.filter (fun (e : LogEntry) => decide (e.seq ≥ f))).take n
      let b : Bytes := l.flatMap (fun (e : LogEntry) => e.data)
      nmsWrite s k i (addrAt d 0x18) b l.length (((l.getLast?).map (fun (e : LogEntry) => e.seq + 1)).getD f)
    else if s.jf.state = 0 then nmsEnd s k i stLocked 0 4 0 0
    else
      let r := if s.jf.state = 4 then ([], f) else logRecords s f n
      nmsWrite s k i (addrAt d 0x18) r.1 (r.1.length / 32) r.2)

/-- NMS_LOG_NOTE (R488). -/
def nmsLogNote (s : State) (k i : Nat) : State :=
  if nmsStill s || s.nms.wait.isSome then s else withItem s k i 0x68 (fun it =>
    nmsEnd (s.logPut 3 0 (sub it.desc 0x10 16)) k i stOK 0 0 0 0)

/-- NMS_STATS (R491): it waits for the copy that the first Calends after its admission takes. -/
def nmsStats (s : State) (k i : Nat) : State :=
  if nmsStill s || s.nms.wait.isSome then s else withItem s k i 0x69 (fun it =>
    match s.nms.stats with
    | none => s
    | some b => nmsWrite (s.modNms (fun n => { n with stats := none })) k i (addrAt it.desc 8) b 0 0)

/-- An NMS_STATS command waits (R491). DESIGN CHOICE (log entry 142). -/
def statsWait (s : State) : Bool := [56, 57, 58, 59].any (fun k => (s.ring k).items.any (fun it =>
  decide (it.res = none) && decide (dOp it.desc = 0x69)))

/-! ### Vigil's warnings (R485) -/

/-- A reading as a signed number: temperatures are two's complement. -/
def sensorVal (n r : Nat) : Int := if 4 ≤ n ∧ n ≤ 7 then signed 16 r else (r : Int)

/-- Operating range of a sensor. -/
def sensorRange (n : Nat) : Int × Int :=
  if n = 0 then (4500, 18000) else if n = 1 then (700, 800) else if n = 2 then (760, 840) else if n = 3 then (1710, 1890)
  else if n ≤ 7 then (-40, 105) else if n = 8 then (800, 1000) else (800, 1200)

/-- Alarm limits of a sensor. -/
def sensorAlarm (n : Nat) : Int × Int :=
  if n = 0 then (4000, 20000) else if n = 1 then (650, 850) else if n = 2 then (700, 900) else if n = 3 then (1600, 2000)
  else if n ≤ 7 then (-45, 125) else if n = 8 then (700, 1100) else (700, 1300)

/-- The VG_CAUSE code of a sensor's reading (R486). -/
def sensorCode (n : Nat) (v : Int) : Nat :=
  if n = 0 then (if v < 4500 then 1 else 2) else if n = 1 then 4 else if n = 2 then 5 else if n = 3 then 6
  else if n ≤ 7 then 8 else if n = 8 then 9 else 0x0A

/-- Outside the range that warns: a temperature warns above its range only (R485). -/
def warns (n : Nat) (v : Int) : Bool :=
  (decide (v < (sensorRange n).1) && !(decide (4 ≤ n) && decide (n ≤ 7))) || decide (v > (sensorRange n).2)

/-- Inside the alarm limits. -/
def noAlarm (n : Nat) (v : Int) : Bool := decide ((sensorAlarm n).1 ≤ v) && decide (v ≤ (sensorAlarm n).2)

/-- In sleep Vigil checks the board input, VDD_AON and the temperatures (R485). -/
def sensorChecked (s : State) (n : Nat) : Bool := !s.boot.asleep || [0, 2, 4, 5, 6, 7].contains n

/-- VIGIL_WARN (R485): the reading is taken; where it lies outside the operating range a warning begins.
DEDUCED (log entry 89). -/
def vigilWarn (s : State) (n r : Nat) : State :=
  let v := sensorVal n r
  if !sensorChecked s n then s
  else
    let s := { s with vigil := { s.vigil with readings := tins s.vigil.readings n r } }
    if !warns n v ∨ s.vigil.warn.contains n then s
    else
      let s := { s with vigil := { s.vigil with warn := n :: s.vigil.warn } }
      if s.boot.inReset || s.boot.asleep then s
      else
        let s := s.evt 0x5A00 1
        if noAlarm n v then s.logPut 0x20 1 (toLe 1 (sensorCode n v) ++ toLe 4 (unsigned 32 v)) else s

/-- VIGIL_WARN_CLEAR (R485): the reading has stayed within the operating range for 1 s. -/
def vigilClear (s : State) (n r : Nat) : State :=
  let v := sensorVal n r
  if !sensorChecked s n then s
  else
    let s := { s with vigil := { s.vigil with readings := tins s.vigil.readings n r } }
    if (sensorRange n).1 ≤ v ∧ v ≤ (sensorRange n).2 then
      { s with vigil := { s.vigil with warn := s.vigil.warn.filter (fun x => decide (x ≠ n)) } }
    else s

/-- NMS_PROFILE_LOAD. -/
def execNmsProfileLoad (k : Fin 64) (i : Nat) (s : State) : Host.Outcome State Fault Refusal := .next (nmsLoad s k i 0x60)
/-- NMS_UCODE_LOAD. -/
def execNmsUcodeLoad (k : Fin 64) (i : Nat) (s : State) : Host.Outcome State Fault Refusal := .next (nmsLoad s k i 0x61)
/-- NMS_UPD_WRITE. -/
def execNmsUpdWrite (k : Fin 64) (i : Nat) (fail : Option Nat) (s : State) : Host.Outcome State Fault Refusal :=
  .next (updWrite s k i fail)
/-- NMS_UPD_ACTIVATE. -/
def execNmsUpdActivate (k : Fin 64) (i : Nat) (ok : Bool) (s : State) : Host.Outcome State Fault Refusal :=
  .next (updActivate s k i ok)
/-- NMS_UPD_CONFIRM. -/
def execNmsUpdConfirm (k : Fin 64) (i : Nat) (s : State) : Host.Outcome State Fault Refusal := .next (updConfirm s k i)
/-- NMS_ROLLBACK. -/
def execNmsRollback (k : Fin 64) (i : Nat) (s : State) : Host.Outcome State Fault Refusal := .next (nmsRollback s k i)
/-- NMS_KEYFUSE. -/
def execNmsKeyfuse (k : Fin 64) (i : Nat) (readback : Bool) (s : State) : Host.Outcome State Fault Refusal :=
  .next (nmsKeyfuse s k i readback)
/-- NMS_LOG_READ. -/
def execNmsLogRead (k : Fin 64) (i : Nat) (s : State) : Host.Outcome State Fault Refusal := .next (nmsLogRead s k i)
/-- NMS_LOG_NOTE. -/
def execNmsLogNote (k : Fin 64) (i : Nat) (s : State) : Host.Outcome State Fault Refusal := .next (nmsLogNote s k i)
/-- NMS_STATS. -/
def execNmsStats (k : Fin 64) (i : Nat) (s : State) : Host.Outcome State Fault Refusal := .next (nmsStats s k i)
/-- LOG_FLUSH. -/
def execLogFlush (s : State) : Host.Outcome State Fault Refusal := .next (logFlush s)
/-- VIGIL_WARN. -/
def execVigilWarn (sensor : Fin 10) (reading : BitVec 16) (s : State) : Host.Outcome State Fault Refusal :=
  .next (vigilWarn s sensor reading.toNat)
/-- VIGIL_WARN_CLEAR. -/
def execVigilWarnClear (sensor : Fin 10) (reading : BitVec 16) (s : State) : Host.Outcome State Fault Refusal :=
  .next (vigilClear s sensor reading.toNat)
/-- PAGE_PROGRAM_DONE. -/
def execPageProgramDone (ok : Bool) (s : State) : Host.Outcome State Fault Refusal := .next (nmsDurable (pageDone s ok))

end Sys2Proof.Machine
end

