-- ==== Sys2Proof/Machine/Attest.lean ====
section
/-! DEFINITION. ATTEST (R172, R173): the attestation message and its CMAC. -/

namespace Sys2Proof.Machine

/-- IDCODE as the messages of R125 and R172 carry it. -/
def idcodeBytes : Bytes := [0x05#8, 0xa4#8, 0x10#8, 0xc3#8]

/-- A measurement, 48 zero bytes where there is none (R172). -/
def measure (b : Bytes) : Bytes := sub b 0 48

/-- M_CONV: SHA-384 over the loaded operator images in load order (R172, R417). DEDUCED (log entry 87). -/
def mConv (s : State) : Bytes :=
  let l := (s.conv.programs.map (·.2)).mergeSort (fun a b => decide (a.order ≤ b.order))
  if l = [] then zeros 48 else sha384 (l.flatMap (·.image))

/-- The STATE byte of an attestation (R172). -/
def attestState (s : State) : Nat :=
  b2n s.boot.eve + 2 * b2n (s.tick.keeper || s.src1) + 4 * b2n ((List.range 16).any (fun n => (s.chan n).fenced))

/-- The 184 bytes of an attestation (R172): `cal` is the Calends count at admission. -/
def attestMessage (s : State) (challenge : Bytes) (cal : Nat) : Bytes :=
  asc "SX4-ATTEST" ++ [0#8] ++ challenge ++ idcodeBytes ++ toBe 1 (lifecycle s) ++ toBe 1 (attestState s) ++ toBe 1 s.fuses.rollback
  ++ toBe 6 cal ++ measure s.nms.digest ++ mConv s ++ measure s.ledger.digest

/-- ATTEST: the message goes to ADDR, its CMAC under the attestation secret is the RESULT (R172, R173). -/
def attest (s : State) (k i : Nat) : State :=
  immediateWith s k i 0x50 (fun s it =>
    let m := attestMessage s (sub it.desc 8 16) it.cal
    match hostWrite s (addrAt it.desc 0x18) m with
    | (s, true) => finish s k i stOK (cmac it.hold m) false
    | (s, false) => finish s k i stMalformed (zeros 16) true)

/-- ATTEST. -/
def execAttest (k : Fin 64) (i : Nat) (s : State) : Host.Outcome State Fault Refusal := .next (attest s k i)

end Sys2Proof.Machine
end

