-- ==== Sys2Proof/Machine/Faults.lean ====
section
/-! DEFINITION. Zeroization, the alarm erase, wedges, kill, power fail, reset, the Octave sweep (R20, R57, R60, R145, R146,
R494 to R515). -/

namespace Sys2Proof.Machine

/-- Change the fault unit. -/
def State.modFlt (s : State) (f : Flt → Flt) : State := { s with flt := f s.flt }

/-! ### What waits at the ports for a commit (R81, R84) -/

/-- One transaction or frame held at a port is taken. -/
def releaseOne (s : State) (c : Instr) : State :=
  match c with
  | .memoryRead addr cls tag => memAccess s addr.toNat cls.toNat tag.toNat false [] 0
  | .memoryWrite addr cls data be tag => memAccess s addr.toNat cls.toNat tag.toNat true (lineBytes data) be.toNat
  | .clientTxFrame p frame => if linkDead s then s else clientTx s p frame
  | .lineRxFrame p frame err => if linkDead s then s else lineRx s p frame err
  | .heartbeatSend p => heartbeatSend s p
  | _ => s

/-- Step 4 of R81: held frames that waited for the commit leave, then what is held at the ports is taken, in order of arrival.
DEDUCED (log entry 91). -/
def releasePorts (s : State) : State :=
  let s := if linkDead s then s else pump (pump (endTakeovers s) 0) 1
  s.portHeld.foldl releaseOne { s with portHeld := [] }

/-- A commit that waits is given up: no staged change is applied (R84). -/
def dropCommit (s : State) : State :=
  releasePorts { s with tick := { s.tick with due := false, fixed := false, early := none, closed := true }, lateWr := [] }

/-! ### Zeroization (R20, R57, R501) -/

/-- The journal flash finishes a page program that was issued: it stands on its page, and nothing else follows here (R53, R57). -/
def finishProgram (s : State) : State :=
  match s.jf.prog with
  | none => s
  | some p => { s with flash := { s.flash with pages := tins s.flash.pages p.row (pageBytes s p) } }.modJf (fun j => { j with prog := none })

/-- Transactions in flight on protected regions are answered with the error status; those outside go on.
DEDUCED (log entry 91). -/
def closeMemory (s : State) : State :=
  let l := s.mem.inflight
  let s := { s with mem := { s.mem with inflight := l.filter (·.pass) } }
  (l.filter (fun t => !t.pass)).foldl (fun s t => if t.tag < 256 then answer s t 2 (zeros 64) else s) s

/-- A burn of an operator secret that is cut off leaves its field without the written fuse and not blank (R171, R174).
DESIGN CHOICE (log entry 158). -/
def cutBurn (s : State) : State :=
  match s.vault.fuseBusy with
  | none => s
  | some (k, i) =>
    let id := ((findItem s k i).map (fun it => leAt it.desc 8 1)).getD 0
    let w := (List.range 40).map (Config.cutField id)
    { s with fuses := if id = 1 then { s.fuses with att := w } else { s.fuses with du := w } }

/-- The stores of R20: vault slots, the root, key copies in banks and in flight, SA tables and hold buffers, conversation keys and
engine registers, the key registers of the NMS. -/
def zeroKeys (s : State) : State :=
  let s := linkZero (cutBurn s)
  let s := { s with
    vault := { s.vault with slots := tmap {} s.vault.slots (fun _ x => { gen := x.gen }), root := none, staged := [], immediate := 0, fuseBusy := none }
    ch := s.ch.map (fun (c : Nat × Chan) => (c.1, { c.2 with bank := [] }))
    rings := s.rings.map (fun (r : Nat × Ring) =>
      (r.1, { r.2 with items := r.2.items.map (fun (it : Item) => { it with hold := [], keys := [] }) })) }
  let s := s.modKr (fun k => { k with key := [], oldKey := [], keyGen := 0 })
  let s := s.modConvs (fun v => { v with
    table := v.table.map (fun (c : Nat × Conv) => (c.1, { c.2 with key := [], keyRef := none }))
    engines := v.engines.map (fun (g : Nat × Engine) => (g.1, { g.2 with g := List.replicate 16 0 })) })
  s.modNms (fun n => { n with wait := n.wait.map (fun (w : NmsWait) => { w with object := [] }) })

/-- Equinox stops: a running job ends FAILED, the other slots stay as they are (R57, R284, R286). -/
def stopJobs (s : State) : State :=
  let run := s.mem.jobs.any (fun j => decide (j.2.state = 1))
  let s := { s with mem := { s.mem with
    jobs := s.mem.jobs.map (fun (j : Nat × Job) => (j.1, if j.2.state = 1 then { j.2 with state := 3 } else j.2)), stJob := [] } }
  if run then s.evt 0x13010 1 else s

/-- Equinox stops and its job state is zeroized: of a job slot its state alone stays (R284, R501). DEDUCED (log entry 168). -/
def zeroJobs (s : State) : State :=
  let s := stopJobs s
  { s with mem := { s.mem with jobs := s.mem.jobs.map (fun (j : Nat × Job) => (j.1, { state := j.2.state })), split := [] } }

/-- The log buffer is cleared (R489). DEDUCED (log entry 88). -/
def clearLog (s : State) : State := { s with log := { s.log with buf := [], lost := 0 } }

/-- Step 3 of R501: the stores of R20 and those the step adds. DESIGN CHOICE (log entry 17).
DEDUCED (log entry 172). -/
def eraseAll (s : State) : State :=
  let s := closeMemory (flushAlm (finishProgram s))
  let s := krZero (ledgerClear (convZero (almZero s)))
  let s := s.modJf (fun j => { j with queue := [], syncs := [], cur := none, granted := 0, ahead := [], queuedLeases := [] })
  clearLog (zeroJobs (zeroKeys s))

/-! ### The alarm (R500 to R507) -/

/-- KILL_N in use (R508, R510). -/
def killNUsed (s : State) : Nat := if s.fuses.killNDamaged then 1 else if s.fuses.killNWritten then s.fuses.killN else 3

/-- The root-kill fuse is blown (R123, R511). DEDUCED (log entry 94). -/
def blowKill (s : State) : State := { s with fuses := { s.fuses with kill := true } }

/-- One step of the alarm count is blown, and the root-kill fuse where the count reaches KILL_N in use (R509, R511).
DEDUCED (log entry 90). -/
def burnStep (s : State) : State :=
  let s := { s with fuses := { s.fuses with alarmCount := min 16 (s.fuses.alarmCount + 1) } }
  if s.fuses.alarmCount ≥ killNUsed s then blowKill s else s

/-- A rising in this boot counts (R509). -/
def alarmCounts (s : State) : Bool :=
  (decide (lifecycle s = 1) || decide (lifecycle s = 2)) && !s.boot.debug && !s.vault.carnival && !s.boot.pfail

/-- Ranges of items with output issued and no completion written (R503). -/
def scrubRanges (s : State) : List (Nat × Nat) :=
  (s.rings.flatMap (fun r => (r.2.items.filter (fun it => it.res.isSome)).flatMap (·.outs)))

/-- The alarm line rises in an awake block out of reset, for the first time in this boot (R500 to R502, R505): source 1 Vigil,
2 vault, 3 command kill; vg the VG_CAUSE code. DESIGN CHOICE (log entry 17). -/
def alarmRise (s : State) (source vg : Nat) (eraseOk : Bool) : State :=
  let start := decide (s.boot.phase < 6)
  let due := alarmCounts s && decide (source ≠ 3) && !s.boot.riseDone
  let ranges := scrubRanges s
  let s := { s with vigil := { s.vigil with cause := if s.vigil.cause = 0 then vg else s.vigil.cause } }
  let s := s.modFlt (fun f => { f with
    source := source, acal := s.count % 2 ^ 32, phase := s.boot.phase, stepDue := due, killDue := !eraseOk, eraseFail := !eraseOk
    state := if start then 2 else 1, eraseNs := (Config.eraseNs s.count).toNat % 2001
    scrub := if s.boot.pfail then [] else ranges, scrubBusy := !s.boot.pfail, armed := none })
  let s := dropCommit { s with boot := { s.boot with alarm := true, lockout := start, entering := false } }
  ((eraseAll s).evt 0x5B00 1).modJf (fun j => { j with prog := none })

/-- A rising of the alarm line: in reset Vigil latches and pends the step (R60); in sleep the retention store goes (R506); a second
rising in one boot changes nothing (R504). -/
def raiseAlarm (s : State) (source vg : Nat) (eraseOk : Bool) : State :=
  let latch (s : State) : State :=
    { s with vigil := { s.vigil with cause := if s.vigil.cause = 0 then vg else s.vigil.cause } }
  if s.boot.inReset then
    (if source = 1 then { latch s with vigil := { (latch s).vigil with heldRise := true } } else s)
  else if s.boot.asleep then
    if source ≠ 1 then s
    else
      let due := s.vigil.pending || (alarmCounts s && !s.boot.riseDone)
      let s := latch { s with sleep := { s.sleep with ret := none }, vigil := { s.vigil with pending := due } }
      if s.flt.source ≠ 0 then s else s.modFlt (fun f => { f with source := 1, phase := 7, acal := s.count % 2 ^ 32 })
  else if s.boot.alarm then s
  else alarmRise s source vg eraseOk

/-- Vigil codes that are not checked in sleep (R485). -/
def vigilAwake (code : Nat) : Bool := [4, 6, 7, 9, 0x0A, 0x0B].contains code

/-- ALARM: a condition of R485 or of the vault (R500). VIN_LOW raises nothing once power-fail shutdown has completed, nor does a
slew in the power-fail state (R57, R485). DEDUCED (log entry 89). -/
def alarmEvent (s : State) (cause : AlarmCause) (eraseOk : Bool) : State :=
  match cause with
  | .vigil code =>
    if code.val = 0 ∨ 0x0C < code.val ∨ (s.boot.asleep ∧ vigilAwake code) ∨ (s.boot.pfail ∧ (code.val = 1 ∨ code.val = 3)) then s
    else raiseAlarm s 1 code eraseOk
  | .parity => if s.vault.drbgUp then raiseAlarm s 2 0x10 eraseOk else s
  | .stall => if s.vault.drbgUp then raiseAlarm s 2 0x10 eraseOk else s

/-- ALARM_COUNT_STEP: step 5 of R501; `ok` says that VDD_FUSE is in range (R509, R511, R502).
DEDUCED (log entry 93). DEDUCED (log entry 134). -/
def alarmStep (s : State) (ok : Bool) : State :=
  if !s.boot.alarm || s.boot.inReset then s
  else
    let f := s.flt
    let s := if !f.stepDue then s
      else if ok then burnStep (s.modFlt (fun f => { f with stepDue := false }))
      else { s with vigil := { s.vigil with pending := true } }.modFlt (fun f => { f with stepDue := false })
    if f.killDue && ok then blowKill (s.modFlt (fun f => { f with killDue := false })) else s

/-- OUTPUT_SCRUB: raw zeros go to DRAM over every range (R503). -/
def outputScrub (s : State) : State :=
  if !s.boot.alarm || s.boot.inReset || s.boot.pfail || !s.flt.scrubBusy then s
  else
    let n := s.flt.scrub.length
    let s := s.flt.scrub.foldl (fun s r => dramPut s (r.1 % 2 ^ 40) (zeros r.2)) s
    (s.modFlt (fun f => { f with scrub := [], scrubBusy := false, scrubbed := satAdd 16 f.scrubbed n })).evt 0x5B00 2

/-! ### The kill (R510 to R512) -/

/-- KILL_N_BURN: a write to FLT_KILLCFG (R510). DEDUCED (log entry 90). -/
def killCfg (s : State) (val : Nat) (readback : Bool) : State :=
  let n := val % 16
  if !bit val 31 then s
  else if lifecycle s ≠ 1 ∨ s.vault.carnival ∨ s.boot.debug ∨ s.fuses.killNWritten ∨ s.fuses.killNDamaged ∨ n = 0 then s.evt 0x5B00 4
  else if readback then { s with fuses := { s.fuses with killN := n, killNWritten := true } }
  else { s with fuses := { s.fuses with killN := n, killNDamaged := true } }

/-- "ARMD" and "KILL". -/
def armCode : Nat := 0x41524D44
def killCode : Nat := 0x4B494C4C

/-- The Calends count of the tick in progress: from a Calends instant on the tick that begins (R81). -/
def tickNow (s : State) : Nat := if s.tick.due then (s.count + 1) % 2 ^ 48 else s.count

/-- A command kill is armed in this tick (R512). -/
def killArmed (s : State) : Bool := decide (s.flt.armed = some (tickNow s))

/-- A write to FLT_KILL (R512). DEDUCED (log entry 94). -/
def fltKill (s : State) (val : Nat) : State :=
  if val = armCode then (s.modFlt (fun f => { f with armed := some (tickNow s) })).evt 0x5B00 3
  else if val = killCode then
    if killArmed s && (decide (lifecycle s = 1) || decide (lifecycle s = 2)) && !s.vault.carnival && !s.boot.debug then
      blowKill (raiseAlarm s 3 0 true)
    else s
  else s.modFlt (fun f => { f with armed := none })

/-- KILL_ARM_LAPSE (R512). -/
def armLapse (s : State) : State := if killArmed s then s else s.modFlt (fun f => { f with armed := none })

/-! ### Wedges (R497 to R499) -/

/-- The rings of a unit that owns rings (R89). -/
def unitRings (u : Nat) : List Nat := if u = 4 then [56, 57, 58, 59] else if u = 2 then [60, 61] else if u = 3 then [62, 63] else []

/-- RESULT of a descriptor of a wedged unit (R498). -/
def wedgedResult (s : State) (u k : Nat) (d : Bytes) : Bytes :=
  if u = 4 then nmsResult 0 5 0 0 else if u = 2 then jResult s else plainResult s k d stLocked

/-- Every open descriptor of a wedged unit completes LOCKED (R498). DEDUCED (log entry 38). -/
def wedgeRing (u : Nat) (s : State) (k : Nat) : State :=
  ((s.ring k).items.filter (fun it => decide (it.res = none))).foldl (fun s it =>
    finish s k it.idx stLocked (wedgedResult s u k it.desc) false) s

/-- UNIT_WEDGE (R498). DEDUCED (log entry 95). -/
def unitWedge (s : State) (u : Nat) : State :=
  if hostDead s || s.wedged u then s
  else
    let s := s.modFlt (fun f => { f with units := u :: f.units })
    if s.boot.alarm || s.boot.lockout then s
    else
      let s := if u = 0 then almZero s
        else if u = 1 then ledgerClear s
        else if u = 2 then
          (setJState s 3).modJf (fun j => { j with queue := [], syncs := [], cur := none, granted := 0, ahead := [], queuedLeases := [] })
        else if u = 3 then s.modKr (fun k => { k with key := [], oldKey := [], keyGen := 0 })
        else if u = 4 then s.modNms (fun n => { n with wait := none, stats := none })
        else s
      let s := (unitRings u).foldl (wedgeRing u) s
      (s.evt 0x5B00 0).logPut Config.wedgeEvent.toNat Config.wedgeClass.toNat (Config.wedgeData u)

/-! ### Power fail and reset (R57, R60) -/

/-- Power-fail shutdown to its end (R57): no new work, keys zeroized, the held store and the conversations gone.
DEDUCED (log entry 88). DEDUCED (log entry 172). -/
def powerFail (s : State) : State :=
  if s.boot.inReset || s.boot.pfail then s
  else if s.boot.asleep then { s with sleep := { s.sleep with ret := none } }
  else
    let s := s.logPut 0x22 1 (toLe 4 (tget 0 s.vigil.readings 0))
    let s := closeMemory (flushAlm (finishProgram s))
    let s := clearLog (stopJobs (zeroKeys (ledgerClear (convZero s))))
    dropCommit { s with boot := { s.boot with pfail := true, entering := false }, sleep := { s.sleep with ret := none } }

/-- SX_RST_N_ASSERT: the full reset (R60). `por` says that VDD_AON has only now risen, which resets Vigil and the TAP as well.
The antifuses, the flash device, the DRAM and what left the block stay; an unlock latched before governs the boot that follows
(R64); an alarm step not yet burned pends (R60, R509). DEDUCED (log entry 92). DEDUCED (log entry 93).
DEDUCED (log entry 99). -/
def fullReset (s : State) (por : Bool) : State :=
  let s := cutBurn (finishProgram s)
  { State.reset with
    pending := s.pending, fuses := s.fuses, flash := s.flash, dram := s.dram, dmErr := s.dmErr, outs := s.outs, drbg := s.drbg
    vigil := if por then {} else { s.vigil with pending := s.vigil.pending || s.flt.stepDue }
    tap := if por then {} else { s.tap with unlock := false, resp := none }
    boot := { inReset := true, por := por,
              debug := s.fuses.debug || ((s.tap.unlock || (s.boot.inReset && s.boot.debug)) && !por) } }

/-! ### The Octave sweep (R145, R146) -/

/-- OCTAVE_SWEEP_VISIT: the next slot gets a fresh mask, its parity and its chain are checked. `lastUs` is the duration of the pass
that this visit ends. -/
def sweepVisit (s : State) (parityOk : Bool) (lastUs : Nat) : State :=
  if s.halted || !s.vault.drbgUp then s
  else
    let n := s.vault.sweep
    let x := s.slot n
    let m := s.draw x.share1.length
    let s := if x.share1 = [] then s
      else (s.modSlot n (fun x => { x with share1 := bxor x.share1 m, share2 := bxor x.share2 m })).drew x.share1.length
    let s := { s with vault := { s.vault with sweep := (n + 1) % 4096 } }
    let s := if n ≠ 4095 then s
      else
        let s := s.putSt 0x32010 ((s.stf 0x32010 23 0 + 1) % 2 ^ 24 + min 255 (lastUs / 10) * 2 ^ 24)
        if lastUs > 2020 then s.evt 0x2000 2 else s
    if !parityOk && decide (x.state ≠ 0) then raiseAlarm s 2 0x10 true
    else if (x.state = 1 ∨ x.state = 2) ∧ !chainOk s n then
      (s.modSlot n (fun x => { x with state := 3, share1 := [], share2 := [] })).evt 0x2000 1
    else s

/-- ALARM. -/
def execAlarm (cause : AlarmCause) (eraseOk : Bool) (s : State) : Host.Outcome State Fault Refusal := .next (alarmEvent s cause eraseOk)
/-- ALARM_COUNT_STEP. -/
def execAlarmCountStep (ok : Bool) (s : State) : Host.Outcome State Fault Refusal := .next (alarmStep s ok)
/-- OUTPUT_SCRUB. -/
def execOutputScrub (s : State) : Host.Outcome State Fault Refusal := .next (outputScrub s)
/-- KILL_N_BURN. -/
def execKillNBurn (val : Word) (readback priv : Bool) (s : State) : Host.Outcome State Fault Refusal :=
  .next (regWrite s 0x13C00 15 priv (fun s => killCfg s val.toNat readback))
/-- KILL_ARM. -/
def execKillArm (priv : Bool) (s : State) : Host.Outcome State Fault Refusal :=
  .next (regWrite s 0x13C04 15 priv (fun s => fltKill s armCode))
/-- KILL. -/
def execKill (priv : Bool) (s : State) : Host.Outcome State Fault Refusal :=
  .next (regWrite s 0x13C04 15 priv (fun s => fltKill s killCode))
/-- KILL_DISARM. -/
def execKillDisarm (val : Word) (priv : Bool) (s : State) : Host.Outcome State Fault Refusal :=
  .next (regWrite s 0x13C04 15 priv (fun s => fltKill s val.toNat))
/-- KILL_ARM_LAPSE. -/
def execKillArmLapse (s : State) : Host.Outcome State Fault Refusal := .next (armLapse s)
/-- UNIT_WEDGE. -/
def execUnitWedge (unit : Fin 6) (s : State) : Host.Outcome State Fault Refusal := .next (unitWedge s unit)
/-- POWER_FAIL_SHUTDOWN. -/
def execPowerFailShutdown (s : State) : Host.Outcome State Fault Refusal := .next (powerFail s)
/-- SX_RST_N_ASSERT. -/
def execSxRstNAssert (por : Bool) (s : State) : Host.Outcome State Fault Refusal := .next (fullReset s por)
/-- OCTAVE_SWEEP_VISIT. -/
def execOctaveSweepVisit (parityOk : Bool) (lastUs : Nat) (s : State) : Host.Outcome State Fault Refusal :=
  .next (sweepVisit s parityOk lastUs)

end Sys2Proof.Machine
end

