-- ==== Sys2Proof/Machine/Debug.lean ====
section
/-! DEFINITION. The debug TAP (R63 to R65, R124, R125). -/

namespace Sys2Proof.Machine

/-- Change the TAP. -/
def State.modTap (s : State) (f : TapPort → TapPort) : State := { s with tap := f s.tap }

/-- In sleep the TAP is without power. DEDUCED (log entry 99). -/
def tapDead (s : State) : Bool := s.boot.asleep

/-- An instruction is selected: the scan chains close unless it is SCAN. -/
def tapSelect (s : State) (ir : Nat) : State := s.modTap (fun t => { t with ir := ir, scanOpen := false })

/-- Selecting what is not permitted selects BYPASS and is logged (R65). -/
def tapDeny (s : State) (code : Nat) : State := (tapSelect s 0xFF).logPut 0x11 3 (toLe 1 code)

/-- IDCODE: 0x05A4_10C3 is shifted out, least significant bit first (R63). -/
def tapIdcode (s : State) : State :=
  if tapDead s then s else (tapSelect s 1).emit (.tdo (toLe 4 0x05A410C3))

/-- The bits of DBG_STATUS (R63). -/
def dbgStatusBits (s : State) : Nat :=
  b2n s.fuses.debug + 2 * b2n s.tap.unlock + 4 * b2n s.vault.carnival + 8 * b2n s.boot.lockout

/-- DBG_STATUS. -/
def tapStatus (s : State) : State :=
  if tapDead s then s else (tapSelect s 0x10).emit (.tdo (toLe 1 (dbgStatusBits s)))

/-- DBG_CHALLENGE: 16 fresh bytes; zeros before the DRBG is instantiated and in LOCKOUT (R125, R505).
DEDUCED (log entry 101). -/
def tapChallenge (s : State) : State :=
  if tapDead s then s
  else if !s.vault.drbgUp || s.boot.lockout then
    ((tapSelect s 0x11).modTap (fun t => { t with chal := none })).emit (.tdo (zeros 16))
  else
    let c := s.draw 16
    (((tapSelect s 0x11).drew 16).modTap (fun t => { t with chal := some c })).emit (.tdo c)

/-- The response that is valid for a challenge under a debug-unlock secret (R125). -/
def dbgAnswer (du chal : Bytes) : Bytes := cmac du (asc "SX4-DEBUG-UNLOCK" ++ [0#8] ++ chal ++ idcodeBytes)

/-- The vault checks a response (R125, R505). -/
def dbgCheck (s : State) (resp : Bytes) : State :=
  match s.tap.chal with
  | none => s
  | some c =>
    if s.boot.lockout || decide ((s.slot 0x00B).state ≠ 1) || !chainOk s 0x00B || decide (resp ≠ dbgAnswer (s.slot 0x00B).key c) then s
    else (s.modTap (fun t => { t with unlock := true })).logPut 0x12 0 []

/-- DBG_RESPONSE: before the end of P1 the response waits for it (R125). -/
def tapResponse (s : State) (resp : Bytes) : State :=
  if tapDead s then s
  else
    let s := tapSelect s 0x12
    let r := sub resp 0 16
    if s.boot.phase ≤ 1 && !s.boot.lockout && !s.boot.stopped then s.modTap (fun t => { t with resp := some r }) else dbgCheck s r

/-- NMS_DAP is selectable under the Carnival root only (R63). -/
def tapDap (s : State) : State :=
  if tapDead s then s else if s.vault.carnival then tapSelect s 0x20 else tapDeny s 0x20

/-- SCAN: with the debug fuse blown, every store of R20 is zeroized and then the chains open (R65). -/
def tapScan (s : State) : State :=
  if tapDead s then s
  else if !s.fuses.debug then tapDeny s 0x30
  else ((tapSelect (closeMemory (zeroKeys s)) 0x30).modTap (fun t => { t with scanOpen := true })).logPut 0x13 0 []

/-- The codes that select an instruction other than BYPASS (R63). PRESUMED (log entry 130). -/
def tapCodes : List Nat := [0x01, 0x10, 0x11, 0x12, 0x20, 0x30]

/-- BYPASS, which every code that is not listed selects (R63): its one-bit register captures 0, and each bit shifted in leaves one
shift later. PRESUMED (log entry 130). -/
def tapBypass (s : State) (code : Nat) (tdi : List Bool) : State :=
  if tapDead s || tapCodes.contains code then s
  else ((tapSelect s 0xFF).modTap (fun t => { t with bypass := tdi.getLastD false })).emit (.tdoBits ((false :: tdi).take tdi.length))

/-- IDCODE. -/
def execIdcode (s : State) : Host.Outcome State Fault Refusal := .next (tapIdcode s)
/-- DBG_STATUS. -/
def execDbgStatus (s : State) : Host.Outcome State Fault Refusal := .next (tapStatus s)
/-- DBG_CHALLENGE. -/
def execDbgChallenge (s : State) : Host.Outcome State Fault Refusal := .next (tapChallenge s)
/-- DBG_RESPONSE. -/
def execDbgResponse (resp : Bytes) (s : State) : Host.Outcome State Fault Refusal := .next (tapResponse s resp)
/-- NMS_DAP. -/
def execNmsDap (s : State) : Host.Outcome State Fault Refusal := .next (tapDap s)
/-- SCAN. -/
def execScan (s : State) : Host.Outcome State Fault Refusal := .next (tapScan s)
/-- BYPASS. -/
def execBypass (s : State) (code : BitVec 8 := 0xFF) (tdi : List Bool := []) : Host.Outcome State Fault Refusal :=
  .next (tapBypass s code.toNat tdi)

end Sys2Proof.Machine
end

