-- ==== Sys2Proof/Machine/Startup.lean ====
section
/-! DEFINITION. Start-up: the phases P0 to P5, and the power-token arbiter (R120 to R129, R149, R439, R516 to R523). -/

namespace Sys2Proof.Machine

/-- Change the start-up unit. -/
def State.modBoot (s : State) (f : Boot → Boot) : State := { s with boot := f s.boot }

/-- Start-up has ended in an alarm, stopped or lost its supply. -/
def bootShut (s : State) : Bool :=
  s.boot.asleep || s.boot.alarm || s.boot.lockout || s.boot.stopped || s.boot.pfail || s.boot.entering

/-- Phase n has ended after `us` microseconds; phase m is next (R516, R533). -/
def phaseEnd (s : State) (n m us : Nat) : State :=
  s.modBoot (fun b => { b with phase := m, times := tins b.times n (min us (2 ^ 32 - 1)) })

/-- Start-up stops (R519). -/
def bootStop (s : State) : State := s.modBoot (fun b => { b with stopped := true })

/-! ### P0 -/

/-- A step that pends is burned (R509): one that rose in reset pends where this boot is one that counts.
DEDUCED (log entry 93). DEDUCED (log entry 134). -/
def p0Burn (s : State) (fuse : Bool) : State :=
  let due := s.vigil.pending || (s.vigil.heldRise && alarmCounts s)
  let s := { s with vigil := { s.vigil with pending := due, heldRise := false } }
  if due && fuse then burnStep { s with vigil := { s.vigil with pending := false } } else s

/-- P0 (R62, R505, R509, R516): the block leaves reset, Vigil checks its sensors and VDD_FUSE.
DEDUCED (log entry 106). -/
def p0 (s : State) (r : BootReport) : State :=
  if bootShut s || decide (s.boot.phase ≠ 0) then s
  else
    let held := s.vigil.heldRise
    let s := p0Burn (s.modBoot (fun b => { b with inReset := false, riseDone := b.riseDone || held })) r.fuse
    if 0 < r.cause.val ∧ r.cause.val ≤ 0x0C then alarmEvent s (.vigil r.cause) true
    else if r.ok && r.fuse then phaseEnd s 0 1 r.us
    else s

/-! ### P1 (R120 to R129) -/

/-- The Carnival root (R124). -/
def carnivalRoot : Bytes := (List.range 32).map (fun i => BitVec.ofNat 8 (0xA5 ^^^ i))

/-- The first 4 bytes of the root check value (R121, R131). -/
def rootCheck (root : Bytes) : Bytes := (kdf root "SX4-ROOT-CHECK" [] 16).take 4

/-- The production root is generated and burned (R120, R123); `burn` says that the read-back matches. -/
def makeRoot (s : State) (burn : Bool) : State :=
  let root := s.draw 32
  let s := s.drew 32
  let mask := s.draw 32
  let s := s.drew 32
  let s := { s with fuses := { s.fuses with
    share1 := mask, share2 := bxor root mask, check := rootCheck root, lock := true
    kill := s.fuses.kill || !burn } }
  (s.modBoot (fun b => { b with first := true })).logPut 0x90 0 (toLe 1 0 ++ toLe 1 (if burn then 1 else 3))

/-- The record of a domain key (R132, R548). -/
def domainRecord (code gen created : Nat) : Slot :=
  { parent := 0xFFFF, pgen := 1, gen := gen, alg := 2, domain := code, level := 1, origin := 2, ops := 16, flags := 2, state := 1
    useLimit := noLimit, created := created }

/-- The record of a journal key (R128). -/
def journalRecord (n created : Nat) : Slot :=
  { parent := 0x004, pgen := 1, gen := 1, alg := 2, domain := 4, level := 2
    origin := (Config.fixedOrigin n).toNat, ops := (Config.fixedOps n).toNat, flags := (Config.fixedFlags n).toNat
    state := 1, useLimit := (Config.fixedLimit n).toNat, created := created }

/-- The record of the memory base key (R548). -/
def baseRecord (created : Nat) : Slot :=
  { parent := 0x001, gen := 1, alg := 1, domain := 1, level := 2, origin := 1, ops := 3, roles := 1, channels := 0xFFFF, flags := 1
    state := 1, useLimit := noLimit, created := created }

/-- A slot filled with a record and its material. DEDUCED (log entry 102). -/
def fillSlot (s : State) (n : Nat) (x : Slot) (key : Bytes) : State := setMaterial (s.modSlot n (fun _ => x)) n key

/-- An operator secret is unwrapped into its slot (R126). -/
def opSecret (s : State) (root : Bytes) (n : Nat) (written : Bool) (w : Bytes) : State :=
  if !written then s
  else match kwUnwrap (kdf root "SX4-FUSE-WRAP" [1#8] 32) w with
    | none => { s with vault := { s.vault with opbankErr := true } }
    | some k => fillSlot s n { fixedSecret s n with created := s.count } k

/-- The slots created in P1 (R128, R129). DEDUCED (log entry 102). DEDUCED (log entry 103). -/
def p1Slots (s : State) (root : Bytes) : State :=
  let jd := domainKey root 4 1
  let s := fillSlot s 0x004 (domainRecord 4 1 s.count) jd
  let s := fillSlot s 0x007 (journalRecord 0x007 s.count) (kdf jd "SX4-JOURNAL-RECORD" [1#8] 32)
  let s := fillSlot s 0x008 (journalRecord 0x008 s.count) (kdf jd "SX4-JOURNAL-WRAP" [1#8] 32)
  let m := s.draw 16
  let s := fillSlot (s.drew 16) 0x010 (baseRecord s.count) m
  let s := opSecret s root 0x00A s.fuses.attWritten s.fuses.att
  opSecret s root 0x00B s.fuses.duWritten s.fuses.du

/-- A channel is powered and its known-answer tests are run (R196, R522). -/
def powerOn (s : State) (n : Nat) (pass : Bool) : State :=
  let s := s.modBoot (fun b => { b with tokens := b.tokens.filter (fun c => decide (c ≠ n)) })
  s.modChan n (fun x => { x with powered := true, testOk := pass, needKat := false })

/-- Channels whose tests failed are fenced with cause KAT (R197), those of one moment in the order of R31.
DEDUCED (log entry 122). DEDUCED (log entry 79). -/
def katFence (s : State) (bad : List Nat) : State := (fenceOrder s bad).foldl (fun s n => fence s n 7) s

/-- P1 powers CH0 and CH1, and the spare where one of them fails (R519). -/
def p1Chans (s : State) (bad : List Nat) : State :=
  let on := [0, 1].filter (fun n => decide ((s.chan n).role ≠ 0) && !(s.chan n).fenced)
  let fails := on.filter (fun n => bad.contains n)
  let sp := if fails = [] then [] else idxs 16 (fun n => decide ((s.chan n).role = 4) && !(s.chan n).fenced)
  let s := (on ++ sp).foldl (fun s n => powerOn s n (!bad.contains n)) s
  katFence s (fails ++ sp.filter (fun n => bad.contains n))

/-- The end of P1: Eve mode begins (R34, R37, R520), a response that waited is checked (R125). -/
def p1End (s : State) (us : Nat) : State :=
  let s := (phaseEnd s 1 2 us).modBoot (fun b => { b with eve := true })
  let s := { s with part := { s.part with steer := fillSteer s (eveChans s) } }
  match s.tap.resp with
  | none => s
  | some r => dbgCheck (s.modTap (fun t => { t with resp := none })) r

/-- The vault's part of P1 with the root it unseals: the known-answer tests, then the slots (R122, R128).
DEDUCED (log entry 101). DEDUCED (log entry 149). -/
def p1Vault (s : State) (root : Bytes) (debug kat : Bool) : State :=
  if !kat then bootStop { s with vault := { s.vault with katFail := true, carnival := debug } }
  else p1Slots { s with vault := { s.vault with root := some root, carnival := debug, drbgUp := true } } root

/-- The vault unseals, or tells that it cannot: the state and whether P1 goes on. Where the start-up health tests of the noise source
fail at the first start no root is drawn and start-up stops. DEDUCED (log entry 100). DESIGN CHOICE (log entry 159). -/
def unsealRoot (s : State) (r : BootReport) : State × Bool :=
  let debug := s.boot.debug || s.fuses.debug
  if lifecycle s = 3 then (bootStop s, false)
  else if debug then (p1Vault s carnivalRoot true r.ok, r.ok)
  else if rootBlank s && !r.health then (bootStop s, false)
  else
    let s := if rootBlank s then makeRoot s r.burn else s
    if lifecycle s = 3 then (bootStop s, false)
    else
      let root := bxor s.fuses.share1 s.fuses.share2
      if rootCheck root ≠ s.fuses.check then (raiseAlarm s 2 0x10 true, false)
      else (p1Vault s root false r.ok, r.ok)

/-- P1 (R122, R519). DEDUCED (log entry 100). -/
def p1 (s : State) (r : BootReport) : State :=
  if s.halted || decide (s.boot.phase ≠ 1) then s
  else match unsealRoot s r with
    | (s, false) => s
    | (s, true) => p1End (p1Chans s (r.badChans.map (·.val))) r.us

/-! ### P2 (R71, R72, R437 to R441) -/

/-- Ring and snapshot pages that read as unreadable: uncorrectable ones and those with a failing tag (R433). -/
def badPages (s : State) (unc : List Nat) : State × List Nat :=
  let s := s.modJf (fun j => { j with unreadable := unc.filter (fun r => (tkeys s.flash.pages).contains r) })
  let bad := (tkeys s.flash.pages).filter (fun r => !(readRow s r).2)
  let n := s.jf.unreadable.length
  let s := (s.incBy 0x39318 31 16 n).incBy 0x3931C 31 0 (bad.length - n)
  (if bad = [] then s else s.evt 0x5304 7, bad)

/-- The count in force from the end of P2 on. -/
def setCount (s : State) (c : Nat) : State :=
  { s with tick := { s.tick with count := c, countSet := true, t := 0, due := false, fixed := false, early := none, closed := true } }

/-- The start of the journal of a Carnival boot: leases from lease 1 (R441). -/
def mountVolatile (s : State) : State :=
  let s := expectLeases (setJState s 4) 1
  promote ((leaseRecs s 1).foldl (fun s x => s.jPut x) s)

/-- P2 where the journal is lost, replaced or unreadable (R72); none where no step of the era is left. -/
def mountNone (s : State) : Option State :=
  if s.boot.first then some (setCount s (s.fuses.era * 2 ^ 44 + 1))
  else if s.fuses.era ≥ 15 then none
  else
    let s := { s with fuses := { s.fuses with era := s.fuses.era + 1 } }
    some (setCount s (s.fuses.era * 2 ^ 44 + 1))

/-- P2 (R439). -/
def p2 (s : State) (r : BootReport) : State :=
  if s.halted || decide (s.boot.phase ≠ 2) then s
  else
    let s := s.modJf (fun j => { j with unreadable := r.unreadable })
    let res := mountResult s r.ok
    let s := s.modJf (fun j => { j with result := res })
    if res = 5 then phaseEnd (setCount (mountVolatile (s.modJf (fun j => { j with unreadable := [] }))) 1) 2 3 r.us
    else if res = 1 then
      match readLabel s with
      | none => s
      | some l =>
        match badPages s r.unreadable with
        | (s, bad) =>
          let s := mountRing s l bad
          phaseEnd (setCount s (s.jf.mark - 2 ^ 24)) 2 3 r.us
    else match mountNone s with
      | none => bootStop s
      | some s => phaseEnd s 2 3 r.us

/-! ### P3 (R129, R149, R440, R483) -/

/-- The latest record of each slot. DEDUCED (log entry 104). -/
def latestKeys (l : List JRec) : Tab JRec :=
  l.foldl (fun (t : Tab JRec) (r : JRec) =>
    match t.find? (fun p => decide (p.1 = r.id)) with
    | some p => if p.2.jcnt ≥ r.jcnt then t else tins t r.id r
    | none => tins t r.id r) []

/-- A domain key is re-derived at its persisted GEN, or at 1 (R149). DEDUCED (log entry 103). -/
def restoreDomain (t : Tab JRec) (s : State) (code : Nat) : State :=
  let root := s.vault.root.getD []
  match t.find? (fun p => decide (p.1 = code)) with
  | none => fillSlot s code (domainRecord code 1 s.count) (domainKey root code 1)
  | some p =>
    let x := slotOfRecord p.2.data
    fillSlot s code (domainRecord code x.gen x.created) (domainKey root code x.gen)

/-- One record is restored or discarded: the state, and how many are restored and discarded (R149). -/
def restoreOne (p : State × Nat × Nat) (r : Nat × JRec) : State × Nat × Nat :=
  let (s, n, d) := p
  let x := slotOfRecord r.2.data
  let par := s.slot x.parent
  if x.state = 0 ∨ par.state = 0 ∨ par.gen ≠ x.pgen ∨ !chainOk s x.parent then (s, n, d + 1)
  else match kwUnwrap (s.slot 0x008).key (r.2.data.drop 48) with
    | none => (s, n, d + 1)
    | some m =>
      let st := if x.useLimit ≠ noLimit ∧ x.useCnt ≥ x.useLimit then 2 else 1
      (persistAhead (fillSlot s r.1 { x with state := st, persCnt := x.useCnt } m) r.1, n + 1, d)

/-- The key tree is restored in level order; then the three slots of P1 take the GEN of their parents (R129, R149).
DEDUCED (log entry 21). DEDUCED (log entry 104). DEDUCED (log entry 105). -/
def restoreTree (s : State) : State :=
  let recs := if s.jf.state = 0 ∨ s.jf.state = 4 then ([], 0) else keyRecords s
  let t := latestKeys recs.1
  let s := s.putSt 0x39324 (min recs.2 65535)
  let s := [1, 2, 3, 5, 6].foldl (restoreDomain t) s
  let n0 := ([1, 2, 3, 5, 6].filter (fun c => t.any (fun p => decide (p.1 = c)))).length
  let own := t.filter (fun p => decide (p.1 = 0x009) || (decide (0x020 ≤ p.1) && decide (p.1 < 4096)))
  let r := [2, 3, 4, 5, 6].foldl (fun p lv => (own.filter (fun x => decide (leAt x.2.data 18 1 = lv))).foldl restoreOne p) (s, n0, 0)
  let s := r.1.putSt 0x32014 (min r.2.1 0x1FFF + min r.2.2 0x1FFF * 2 ^ 16)
  let pg (s : State) (n : Nat) : State :=
    if (s.slot n).state = 0 then s else s.modSlot n (fun x => { x with pgen := (s.slot x.parent).gen })
  let s := [0x010, 0x00A, 0x00B].foldl pg s
  { s with vault := { s.vault with restored := true } }

/-- The BOOT and ALARM entries of a start; the latch of Vigil is then cleared (R486, R488).
DEDUCED (log entry 107). -/
def bootLog (s : State) : State :=
  let c := s.vigil.cause
  let s := s.logPut 1 0 (toLe 1 (b2n (!s.boot.por)) ++ toLe 1 (b2n s.vault.carnival) ++ toLe 1 (lifecycle s) ++ toLe 1 c
    ++ toLe 1 s.jf.result ++ toLe 1 s.nms.service)
  if c = 0 then s
  else
    let s := (s.logPut 0x21 2 (toLe 1 c)).evt 0x5A00 2
    { s with vigil := { s.vigil with cause := 0 } }

/-- Channels that ask for a token at the start of P4 (R516, R522). -/
def p4Wants (s : State) : List Nat :=
  idxs 16 (fun n => decide ((s.chan n).role ≠ 0) && !(s.chan n).fenced && !(s.chan n).powered && !s.boot.tokens.contains n)

/-- P3 (R149, R479, R483, R516). -/
def p3 (s : State) (r : BootReport) : State :=
  if s.halted || decide (s.boot.phase ≠ 3) then s
  else
    let s := bootLog (nmsBoot (restoreTree s))
    let s := phaseEnd (nmsReload s) 3 4 r.us
    s.modBoot (fun b => { b with tokens := b.tokens ++ p4Wants s })

/-! ### P4, P5 and power tokens (R516, R517, R522) -/

/-- P4: every channel that waits is powered and tested. -/
def p4 (s : State) (r : BootReport) : State :=
  if s.halted || decide (s.boot.phase ≠ 4) || s.boot.p4Done then s
  else
    let bad := r.badChans.map (·.val)
    let w := s.boot.tokens
    let s := w.foldl (fun s n => powerOn s n (!bad.contains n)) s
    let s := katFence s (w.filter (fun n => bad.contains n))
    (phaseEnd s 4 5 r.us).modBoot (fun b => { b with p4Done := true })

/-- POWER_TOKEN_GRANT: the first channel in the order of R522 is powered and tested. DEDUCED (log entry 82). -/
def tokenGrant (s : State) (pass : Bool) : State :=
  match s.boot.tokens with
  | [] => s
  | n :: _ =>
    if s.halted then s
    else
      let s := powerOn s n pass
      if pass then s else katFence s [n]

/-- P5: the Almanac's restore ends (R367, R517). -/
def p5 (s : State) (r : BootReport) : State :=
  if s.halted || !s.alm.en || !s.alm.restoring || s.wedged 0 then s
  else
    let s := s.modJf (fun j => { j with
      unreadable := j.unreadable ++ r.unreadable.filter (fun x => (tkeys s.flash.pages).contains x && !j.unreadable.contains x) })
    let s := almRestore s
    s.modBoot (fun b => { b with p5Done := true, times := tins b.times 5 (min r.us (2 ^ 32 - 1)) })

/-- P0. -/
def execP0 (report : BootReport) (s : State) : Host.Outcome State Fault Refusal := .next (p0 s report)
/-- P1. -/
def execP1 (report : BootReport) (s : State) : Host.Outcome State Fault Refusal := .next (p1 s report)
/-- P2. -/
def execP2 (report : BootReport) (s : State) : Host.Outcome State Fault Refusal := .next (p2 s report)
/-- P3. -/
def execP3 (report : BootReport) (s : State) : Host.Outcome State Fault Refusal := .next (p3 s report)
/-- P4. -/
def execP4 (report : BootReport) (s : State) : Host.Outcome State Fault Refusal := .next (p4 s report)
/-- P5. -/
def execP5 (report : BootReport) (s : State) : Host.Outcome State Fault Refusal := .next (p5 s report)
/-- POWER_TOKEN_GRANT. -/
def execPowerTokenGrant (pass : Bool) (s : State) : Host.Outcome State Fault Refusal := .next (tokenGrant s pass)

end Sys2Proof.Machine
end

