-- ==== Sys2Proof/Machine/Sleep.lean ====
section
/-! DEFINITION. Sleep and wake (R73, R524 to R529). -/

namespace Sys2Proof.Machine

/-- Change the sleep unit. -/
def State.modSleep (s : State) (f : Sleep → Sleep) : State := { s with sleep := f s.sleep }

/-- "SLEP". -/
def sleepCode : Nat := 0x534C4550

/-- A write to SLP_CTL (R526). -/
def sleepCtl (s : State) (val : Nat) : State := if val = sleepCode then s.modSleep (fun x => { x with req := true }) else s

/-- A refusal (R525, R526). -/
def sleepRefuse (s : State) (err : Nat) : State := (s.modSleep (fun x => { x with err := err })).evt 0x5C0C 1

/-- Why a sleep request is refused; 0 where it is accepted (R526). DEDUCED (log entry 97). -/
def sleepWhy (s : State) : Nat :=
  if s.boot.eve || decide (s.boot.phase < 6) then 1
  else if [0, 1, 2, 3].any (fun j => decide ((s.job j).state = 1)) then 2
  else if ¬ (s.jf.state = 1 ∨ s.jf.state = 2) then 3
  else if sleepArea s = [] then 4
  else if s.flt.state ≠ 0 ∨ s.flt.units ≠ [] then 5
  else 0

/-- The sleep request at its Calends (R526); an accepted one begins step 1 of R527. -/
def sleepCalends (s : State) : State :=
  if !s.sleep.req then s
  else
    let s := s.modSleep (fun x => { x with req := false })
    let why := sleepWhy s
    if why ≠ 0 then sleepRefuse s why
    else (linkZero { s with boot := { s.boot with entering := true }, tick := { s.tick with closed := true } }).modSleep
      (fun x => { x with edges := 0 })

/-! ### Entry (R527) -/

/-- Every dirty line of a channel is written to DRAM, and its stores are empty. -/
def flushStore (s : State) (n : Nat) : State :=
  (flushChan s n (fun _ => true)).modMchan n (fun m => { m with cc := [], tc := [], wb := [] })

/-- One step toward an empty write queue: a page program, its end, or room in the ring (R428, R429). -/
def durableStep (s : State) : State :=
  match s.jf.prog with
  | some _ => nmsDurable (pageDone s true)
  | none =>
    let s1 := pageProgram (s.modJf (fun j => { j with queue := j.queue.map (fun r => { r with urgent := true }) }))
    if s1.jf.prog.isSome then s1 else eraseDone (blockRotation s) true

/-- Queued records are made durable, over at most f steps. -/
def allDurable : Nat → State → State
  | 0, s => s
  | f + 1, s => if s.jf.queue = [] ∧ s.jf.prog = none then s else allDurable f (durableStep s)

/-- Every entry of the log buffer is handed to the journal. -/
def handLog (s : State) : State := (List.range (s.log.buf.length + 1)).foldl (fun s _ => logHand s) s

/-- Step 3: queued records, the log buffer included, become durable. -/
def makeDurable (s : State) : State :=
  let s := handLog { s with boot := { s.boot with entering := false } }
  allDurable (8 * (s.jf.queue.length + 64)) s

/-- Where the image lies. -/
def imageBase (s : State) : Nat := ((sleepArea s).headD (0, 0)).1

/-- Step 4: the retention store and the image (R524, R525). -/
def writeImage (s : State) : State :=
  let key := s.draw 32
  let s := s.drew 32
  let c := (s.sleep.counter + 1) % 2 ^ 64
  let len := (Config.sleepLen c).toNat
  let bytes := (List.range len).map (Config.sleepImage c)
  let a := imageBase s
  let saved : SleepSaved := {
    bytes := bytes, addr := a, slots := s.vault.slots, epoch := s.vault.epoch, regions := s.mem.regions, kids := s.mem.kids
    trees := s.mem.trees, roots := s.mem.roots, rootsCopy := s.mem.rootsCopy, memEpoch := s.mem.epoch, alm := s.alm
    table := s.conv.table, ledger := s.ledger, jf := s.jf, regs := s.regs }
  let ret : Retention := {
    key := key, counter := c, count := s.count, almTime := s.alm.time, length := len, wakeTicks := s.fcf 0x5C04 23 0 }
  (dramPut s a bytes).modSleep (fun x => { x with counter := c, saved := some saved, ret := some ret })

/-- Step 5: the stores of R20 are zeroized, CORE and every channel are gated. DEDUCED (log entry 96). -/
def gateCore (s : State) : State :=
  let s := zeroKeys s
  let s := { s with
    ch := s.ch.map (fun (c : Nat × Chan) => (c.1, { c.2 with powered := false }))
    vault := { s.vault with drbgUp := false }
    alm := { s.alm with kd := [], kt := [], ks := [] } }
  s.modBoot (fun b => { b with entering := false, asleep := true, tokens := [] })

/-- SLEEP_ENTRY: steps 2 to 5 of an accepted request (R527). -/
def sleepEntry (s : State) : State :=
  if !s.boot.entering then s
  else
    let s := settleWhere s (fun _ => true)
    let s := (List.range 16).foldl flushStore s
    let s := if s.alm.en then flushAlm s else s
    gateCore (writeImage (makeDurable s))

/-! ### Wake (R528, R529) -/

/-- Vigil wakes the block: enough edges, or enough time without one (R528). DEDUCED (log entry 109). -/
def wakeDue (s : State) (elapsed : Nat) : Bool :=
  match s.sleep.ret with
  | none => true
  | some r => decide (s.sleep.edges ≥ r.wakeTicks)
      || (decide (s.sleep.edges = 0) && decide (elapsed ≥ r.wakeTicks * s.fcf 0x100 15 0))

/-- Ticks slept: the edges counted, or the time measured divided by T (R73). DEDUCED (log entry 109).
DEDUCED (log entry 111). -/
def ticksSlept (s : State) (elapsed : Nat) : Nat := if s.sleep.edges > 0 then s.sleep.edges else elapsed / s.fcf 0x100 15 0

/-- The root as the vault unseals it again; none where it does not (R122, R124). -/
def wakeRoot (s : State) (kat : Bool) : Option Bytes :=
  if lifecycle s = 3 ∨ !kat then none
  else if s.vault.carnival then some carnivalRoot
  else
    let root := bxor s.fuses.share1 s.fuses.share2
    if s.fuses.share1 = [] ∨ rootCheck root ≠ s.fuses.check then none else some root

/-- The image is there and its tag verifies: DRAM kept its bytes (R525, R528). -/
def imageWhole (s : State) : Option (Retention × SleepSaved) :=
  match s.sleep.ret, s.sleep.saved with
  | some r, some v => if dramGet s v.addr v.bytes.length = v.bytes then some (r, v) else none
  | _, _ => none

/-- A cold wake: a full start from P0, as after a full reset (R506, R528). DEDUCED (log entry 108). -/
def coldWake (s : State) : State :=
  let t : State := { State.reset with
    pending := s.pending, fuses := s.fuses, flash := s.flash, dram := s.dram, dmErr := s.dmErr, outs := s.outs, drbg := s.drbg, seq := s.seq
    vigil := s.vigil, tap := s.tap
    flt := { source := s.flt.source, phase := s.flt.phase, acal := s.flt.acal }
    log := { seq := s.log.seq, lostAll := s.log.lostAll }
    sleep := { wakes := satInc 16 s.sleep.wakes, last := s.sleep.last, counter := s.sleep.counter }
    boot := { inReset := false, por := s.boot.por, debug := s.boot.debug, cold := true } }
  t.evt 0x5C0C 3

/-- The ring agent restarts: it takes the map from its peers, and grants wait until the unit has joined again (R458, R466).
DEDUCED (log entry 110). -/
def wakeRing (s : State) : State :=
  let k := s.krysa
  { s with krysa := {
    decided := k.decided, released := k.released, hoSent := k.hoSent, hoRecv := k.hoRecv
    granting := k.granting && !ringOn s, waitJoin := k.waitJoin || (k.granting && ringOn s) } }

/-- The paths of the backhaul are HELD with no SAs (R529). DEDUCED (log entry 110). -/
def wakePaths (s : State) : State :=
  [0, 1].foldl (fun s p => s.modPath p (fun x =>
    if x.state = 4 then x else { x with
      state := 2, ready := false, missed := 0, hbSeen := false, good := 0, fresh := false, heldTicks := 0, heldNew := false, flush := false
      takeTx := false, takeRx := false, holdRx := [], conn := false, gap := false, failback := false, secys := [], rxscs := [] })) s

/-- Step 3: state is restored, count and Almanac time advance (R73, R350). DEDUCED (log entry 96). -/
def restoreImage (s : State) (root : Bytes) (v : SleepSaved) (ticks : Nat) : State :=
  let per := bits (tget (regReset 0x100) v.regs.fc 0x100) 15 0
  let s := { s with
    vault := { s.vault with root := some root, drbgUp := true, slots := v.slots, epoch := v.epoch }
    mem := { s.mem with
      regions := v.regions, kids := v.kids, trees := v.trees, roots := v.roots, rootsCopy := v.rootsCopy, epoch := v.memEpoch }
    alm := { v.alm with time := (v.alm.time + ticks * per) % 2 ^ 64 }
    conv := { s.conv with table := v.table, engines := [], steps := [] }
    ledger := v.ledger, jf := v.jf, regs := v.regs
    tick := { s.tick with
      count := (s.tick.count + ticks) % 2 ^ 48, t := 0, due := false, fixed := false, early := none, closed := true } }
  s.modSleep (fun x => { x with ret := none, saved := none, slept := some ticks, edges := 0, wakes := satInc 16 x.wakes })

/-- Step 4: the arbiter powers every channel that is not IDLE; one that fails its tests is fenced (R522, R529). -/
def wakeChans (s : State) (bad : List Nat) : State :=
  let w := idxs 16 (fun n => decide ((s.chan n).role ≠ 0) && !(s.chan n).fenced)
  let s := w.foldl (fun s n => powerOn s n (!bad.contains n)) s
  katFence s (w.filter (fun n => bad.contains n))

/-- WAKE (R528). -/
def wake (s : State) (r : BootReport) : State :=
  if !s.boot.asleep || s.boot.inReset || !wakeDue s r.elapsed then s
  else match wakeRoot s r.ok, imageWhole s with
    | some root, some (_, v) =>
      let s := (restoreImage s root v (ticksSlept s r.elapsed)).modBoot (fun b => { b with asleep := false })
      wakeChans (wakePaths (wakeRing s)) (r.badChans.map (·.val))
    | _, _ => coldWake s

/-- The first Calends after a wake (R528, R529): SLP_LAST and WOKE. -/
def wokenCalends (s : State) : State :=
  match s.sleep.slept with
  | none => s
  | some n => (s.modSleep (fun x => { x with slept := none, last := min n (2 ^ 32 - 1) })).evt 0x5C0C 2

/-- SLEEP_REQUEST. -/
def execSleepRequest (val : Word) (priv : Bool) (s : State) : Host.Outcome State Fault Refusal :=
  .next (regWrite s 0x5C08 15 priv (fun s => later s 0x5C08 val.toNat (fun s => sleepCtl s val.toNat)))
/-- SLEEP_ENTRY. -/
def execSleepEntry (s : State) : Host.Outcome State Fault Refusal := .next (sleepEntry s)
/-- WAKE. -/
def execWake (report : BootReport) (s : State) : Host.Outcome State Fault Refusal := .next (wake s report)

end Sys2Proof.Machine
end

