-- ==== Sys2Proof/Machine/Status.lean ====
section
/-! DEFINITION. What a read of the register windows gives (R534 to R547 and the status register maps of each chapter). -/

namespace Sys2Proof.Machine

/-- Bits of a list of Bools, the first one lowest. -/
def flagBits (l : List Bool) : Nat := (l.zipIdx.map (fun p => b2n p.1 * 2 ^ p.2)).sum

/-- TICK_STATUS (R88). -/
def tickStatus (s : State) : Nat :=
  let c := s.fc 0x100
  bits c 15 0 + b2n (s.tick.keeper || s.src1) * 2 ^ 16 + bits c 19 16 * 2 ^ 17 + bits c 27 20 * 2 ^ 21 + b2n (s.src1) * 2 ^ 29
  + b2n (decide (s.wr 0x104 = s.fc 0x104)) * 2 ^ 30

/-- Tick, share and steering registers (R88, R545). -/
def statTick (s : State) (off : Nat) : Nat :=
  if off = 0x30100 then tickStatus s
  else if off = 0x30104 then s.count % 2 ^ 32
  else if 0x30180 ≤ off ∧ off < 0x301C0 then
    let c := s.chan ((off - 0x30180) / 4)
    c.shareP + c.shareG * 2 ^ 16
  else if 0x30200 ≤ off ∧ off < 0x30220 then
    ((List.range 8).map (fun i => s.part.steer.getD (2 * (off - 0x30200) + i) 0 * 16 ^ i)).sum
  else if off = 0x30000 then s.irqPend
  else s.stw off

/-- Ring registers (R119). -/
def statRing (s : State) (off : Nat) : Nat :=
  let r := s.ring ((off - 0x31000) / 16)
  let o := off % 16
  if o = 0 then r.shownHead + r.tail * 2 ^ 16
  else if o = 4 then r.log2 + b2n r.en * 2 ^ 5 + b2n r.irqAll * 2 ^ 6 + b2n r.halted * 2 ^ 7 + b2n r.phase * 2 ^ 8 + r.err * 2 ^ 9
    + b2n r.abortPend * 2 ^ 12 + r.abortRes * 2 ^ 16
  else if o = 8 then r.base % 2 ^ 32
  else r.base / 2 ^ 32 + r.stall * 2 ^ 16

/-- An OPBANK_WRITE is burning (R176). DEDUCED (log entry 90). -/
def opbankBurns (s : State) : Bool :=
  match s.vault.fuseBusy with
  | some p => (findItem s p.1 p.2).any (fun it => decide (dOp it.desc = 0x58))
  | none => false

/-- Vault registers (R151, R176). DEDUCED (log entry 113). -/
def statVault (s : State) (off : Nat) : Nat :=
  let v := s.vault
  let f := s.fuses
  if off = 0x32000 then lifecycle s + 8 * flagBits [v.root.isSome, v.carnival, v.katFail, v.opbankErr, v.restored]
  else if off = 0x32004 then
    (if v.drbgUp then (List.range 4096).countP (fun n => decide (0x20 ≤ n) && decide ((s.slot n).state = 0)) else 0)
    + (List.range 4096).countP (fun n => decide ((s.slot n).state = 3)) * 2 ^ 16
  else if off = 0x32008 then v.epoch % 2 ^ 32
  else if off = 0x3201C then flagBits [f.attWritten, decide ((s.slot 0x00A).state = 1), f.duWritten, decide ((s.slot 0x00B).state = 1),
    f.bankLock, opbankBurns s, !f.attWritten && decide (f.att ≠ []), !f.duWritten && decide (f.du ≠ [])]
  else s.stw off

/-- Channel registers (R208). -/
def statChan (s : State) (off : Nat) : Nat :=
  let c := s.chan (off % 64 / 4)
  if off < 0x33040 then
    c.role + b2n c.fenced * 8 + b2n c.powered * 16 + b2n c.needKat * 32 + b2n c.replacing * 64 + c.ringsOf * 2 ^ 8
    + c.bank.length * 2 ^ 16 + c.bank.countP (·.pinned) * 2 ^ 24
  else if off < 0x33080 then (if c.fenced then c.cause + c.faultCal * 2 ^ 8 else 0)
  else if off = 0x33080 then
    flagBits ((List.range 16).map (fun n => (s.chan n).fenced)) + s.part.link2 * 2 ^ 16 + s.part.spareFor * 2 ^ 17
    + b2n s.part.spareUsed * 2 ^ 21
  else 0

/-- Region registers (R238, R270). -/
def statRegion (s : State) (off : Nat) : Nat :=
  let n := (off - 0x34000) / 32
  let r := s.region n
  let o := off % 32
  if o = 0 then r.base else if o = 4 then r.size else if o = 8 then r.tag
  else if o = 0x0C then r.mode + r.tree * 16 + r.kidLo * 2 ^ 8 + r.kidHi * 2 ^ 16
  else if o = 0x10 then r.clsBase + r.clsKid * 2 ^ 16
  else if o = 0x14 then b2n r.en
  else if o = 0x18 then s.stf off 2 0
    + 8 * b2n ((List.range 16).any (fun c => (s.mchan c).cc.any (fun l => l.marked && decide (l.rgn = n))))
  else r.epoch + b2n r.init.isSome * 2 ^ 24 + b2n r.locked * 2 ^ 25 + b2n r.lost * 2 ^ 26

/-- The six registers of a key reference pair, by word. -/
def refWord (r : KeyRef) (w : Nat) : Nat := if w = 0 then r.slot else if w = 1 then r.gen % 2 ^ 32 else r.gen / 2 ^ 32

/-- KeyID registers (R238). -/
def statKid (s : State) (off : Nat) : Nat :=
  let e := s.kid ((off - 0x35000) / 32)
  let w := off % 32 / 4
  if w < 3 then refWord e.data w else if w < 6 then refWord e.tag (w - 3) else if w = 6 then b2n e.en else s.stw off

/-- Tree registers (R270). -/
def statTree (s : State) (off : Nat) : Nat :=
  let t := (off - 0x37200) / 32
  let e := s.tree t
  let w := off % 32 / 4
  if w = 0 then e.base else if w < 4 then refWord e.key (w - 1) else if w = 4 then b2n e.en
  else if w = 5 then s.stf off 2 0 + 8 * b2n (treeRegion s t).isSome
    + 16 * (List.range 64).countP (fun h => decide (rootOf s t h = sealLost)) + 2 ^ 11 * b2n (s.mem.rootCe.contains t)
  else if w = 6 then
    (match treeRegion s t with
     | some n => treeLen (s.region n).size + treeDepth (s.region n).size * 2 ^ 16
     | none => 0)
  else 0

/-- The boundary in force of a job as an address; 0 for an idle slot (R278, R282). DEDUCED (log entry 113). -/
def jobBoundary (s : State) (j : Nat) : Nat :=
  let b := s.job j
  let r := s.region b.region
  if b.state = 0 then 0
  else if b.phase = 0 then r.base * 2 ^ 20 + 512 * b.bound
  else (s.tree r.tree).base * 2 ^ 16 + 512 * b.bound

/-- Equinox job registers (R287). -/
def statJob (s : State) (off : Nat) : Nat :=
  let j := (off - 0x37400) / 32
  let b := s.job j
  let w := off % 32 / 4
  if w = 0 then b.state + 8 * b.phase + 16 * b.err + b2n b.failNew * 2 ^ 7 + b.region * 2 ^ 8 + b.kind * 2 ^ 14 + b.keyid * 2 ^ 16
  else if w = 1 then jobBoundary s j % 2 ^ 32
  else if w = 2 then jobBoundary s j / 2 ^ 32
  else if w = 3 then b.quota
  else if w = 4 then b.units % 2 ^ 32
  else if w = 5 then b.short + b.carry * 2 ^ 16
  else if w = 6 then b.oldEpoch
  else 0

/-- Link registers (R323). -/
def statLink (s : State) (off : Nat) : Nat :=
  let p := (off - 0x38000) / 64
  let o := off % 64
  if o = 0 then linkPstat s p else if o = 4 then linkHold s p
  else if o = 0x30 then s.fc (0x4000 + 64 * p) else if o = 0x34 then s.fc (0x4014 + 64 * p) else if o = 0x38 then s.fc (0x4018 + 64 * p)
  else s.stw off

/-- Node-frame and Almanac registers (R349, R373). -/
def statAlm (s : State) (off : Nat) : Nat :=
  let a := s.alm
  if off = 0x39020 then s.fc 0x5000
  else if off = 0x39100 then b2n a.en + 2 * b2n a.restoring + 4 * b2n s.boot.eve + 8 * a.err + a.log2 * 2 ^ 6
    + (if a.en then almTreeLen a.log2 else 0) * 2 ^ 11
  else if off = 0x39104 then a.missLast + 2 ^ 16 * s.stf off 31 16
  else if off = 0x39108 then a.time % 2 ^ 32
  else if 0x39110 ≤ off ∧ off < 0x39120 then almCount s ((off - 0x39110) / 4)
  else if off = 0x39140 then s.fc 0x5100 else if off = 0x39144 then s.fc 0x5104 else if off = 0x39148 then s.fc 0x5108
  else if off = 0x3914C then a.base else if off = 0x39150 then a.tag else if off = 0x39154 then a.tree
  else if 0x39400 ≤ off ∧ off < 0x39800 then s.fc (off - 0x39400 + 0x5400)
  else s.stw off

/-- Ledger registers (R385). -/
def statLedger (s : State) (off : Nat) : Nat :=
  let l := s.ledger
  if off = 0x39200 then b2n l.loaded + 4 * l.held.length
  else if off = 0x39204 then l.version
  else if 0x39240 ≤ off ∧ off < 0x392C0 then
    let b := (off - 0x39240) / 16
    let x := l.bands.getD b {}
    let o := off % 16
    if o = 0 then l.used.getD b 0
    else if o = 4 then (if x.en then x.budget else 0)
    else if o = 8 then x.maxTx
    else b2n x.en + 2 * l.held.countP (fun h => decide (h.band = b))
  else s.stw off

/-- Good blocks of the ring (R424). -/
def goodRing (s : State) : Nat := ((List.range 81).drop 1).countP (fun b => !s.jf.bad.contains b)

/-- Journal registers (R447). -/
def statJf (s : State) (off : Nat) : Nat :=
  let j := s.jf
  let mounted := decide (1 ≤ j.state) && decide (j.state ≤ 3)
  if off = 0x39300 then
    j.state + 8 * j.result + b2n j.wide * 2 ^ 6 + b2n j.markHalt * 2 ^ 7 + (if mounted then (activeRing s).length else 0) * 2 ^ 8
    + (if mounted then goodRing s - 64 else 0) * 2 ^ 15 + min 2 j.ahead.length * 2 ^ 20 + s.fuses.era * 2 ^ 22
  else if off = 0x39304 then j.cur.getD 0
  else if off = 0x39308 then nextGrant s % 2 ^ 32
  else if off = 0x39310 then j.mark % 2 ^ 32
  else if off = 0x39314 then j.bad.length
  else if off = 0x39340 then s.fc 0x5300
  else s.stw off

/-- Krysa registers (R471). DEDUCED (log entry 76). -/
def statKr (s : State) (off : Nat) : Nat :=
  let k := s.krysa
  let c := s.fc 0x5800
  let heard (lo : Nat) : Nat := flagBits ((List.range 32).map (fun i => (others s).contains (lo + i) && recent s (s.peer (lo + i)).heard))
  if off = 0x39800 then k.state + 8 * b2n (portUp s true) + 16 * b2n (portUp s false) + bits c 5 0 * 2 ^ 5 + bits c 12 6 * 2 ^ 11
    + bits c 21 14 * 2 ^ 18 + b2n (bit c 22) * 2 ^ 26 + b2n k.decided * 2 ^ 27
  else if off = 0x39804 then min (2 ^ 16 - 1) (k.rtt * 10 / s.mhz)
  else if off = 0x39808 then heard 0 else if off = 0x3980C then heard 32
  else if off = 0x39810 then k.floor else if off = 0x39814 then k.mapver
  else if off = 0x39818 then k.map.length + k.map.countP (fun r => decide (r.owner = unitNo s)) * 2 ^ 9
  else if off = 0x39820 then min 0xFFFF (k.hoSent / 256) + min 0xFFFF (k.hoRecv / 256) * 2 ^ 16
  else s.stw off

/-- NMS and Vigil registers (R493). -/
def statNms (s : State) (off : Nat) : Nat :=
  let n := s.nms
  let rd (i : Nat) : Nat := tget 0 s.vigil.readings i
  let key (p : Nat → Bool) : Nat := flagBits ([1, 2, 3].map p)
  if off = 0x39A00 then b2n (n.ready && !s.wedged 4) + 2 * n.service + 8 * b2n n.trial + 16 * b2n n.fallback + s.fuses.rollback * 2 ^ 5
    + key (fun k => s.fuses.nmsWritten.contains k) * 2 ^ 12
    + key (fun k => !s.fuses.nmsWritten.contains k && (tkeys s.fuses.nmsKey).contains k) * 2 ^ 15
  else if off = 0x39A04 then n.version
  else if off = 0x39A08 then rd 0 % 2 ^ 16
  else if off = 0x39A0C then rd 1 % 2 ^ 12 + rd 2 % 2 ^ 12 * 2 ^ 16
  else if off = 0x39A10 then rd 3 % 2 ^ 12
  else if off = 0x39A14 then ((List.range 4).map (fun i => rd (4 + i) % 256 * 256 ^ i)).sum
  else if off = 0x39A18 then rd 8 % 2 ^ 11 + rd 9 % 2 ^ 11 * 2 ^ 16
  else if off = 0x39A1C then s.vigil.cause + b2n (decide (s.vigil.warn ≠ [])) * 2 ^ 8
  else if off = 0x39A20 then s.log.seq % 2 ^ 32
  else if off = 0x39A24 then s.log.buf.countP (fun e => !e.handed)
  else if off = 0x39A28 then s.log.lostAll
  else s.stw off

/-- The phase that SU_STATUS shows: 4 until P4 has ended, then 5, and 6 in service (R516, R533). -/
def suPhase (s : State) : Nat := if s.boot.phase < 4 then s.boot.phase else if !s.boot.p4Done then 4 else if s.boot.phase < 6 then 5 else 6

/-- Fault, start-up, power and sleep registers (R515, R533). -/
def statFault (s : State) (off : Nat) : Nat :=
  let f := s.flt
  if off = 0x39B00 then f.state + 4 * b2n f.eraseFail + 8 * b2n f.scrubBusy + 16 * f.source + f.phase * 2 ^ 6
  else if off = 0x39B04 then f.acal
  else if off = 0x39B08 then s.fuses.alarmCount + killNUsed s * 2 ^ 5 + b2n (s.fuses.killNWritten || s.fuses.killNDamaged) * 2 ^ 9
    + b2n s.fuses.killNDamaged * 2 ^ 10 + b2n (s.vigil.pending || s.vigil.heldRise) * 2 ^ 12
  else if off = 0x39B0C then flagBits ((List.range 6).map s.wedged)
  else if off = 0x39B10 then f.eraseNs + f.scrubbed * 2 ^ 16
  else if off = 0x39C00 then suPhase s + 8 * b2n s.boot.eve + 16 * b2n s.boot.stopped + 32 * (s.fc 0x5C00 % 2)
  else if 0x39C04 ≤ off ∧ off < 0x39C1C then tget 0 s.boot.times ((off - 0x39C04) / 4)
  else if off = 0x39C20 then flagBits ((List.range 16).map (fun n => (s.chan n).powered)) + s.boot.tokens.length * 2 ^ 16
  else if off = 0x39C24 then (if s.boot.entering then 1 else if s.boot.asleep then 2 else 0) + 4 * s.sleep.err
    + b2n (bit (s.fc 0x13D00) 31) * 2 ^ 5 + s.sleep.wakes * 2 ^ 16
  else if off = 0x39C28 then s.sleep.last
  else if off = 0x39C2C then s.fc 0x13D00
  else s.stw off

/-- An epoch field as its three status registers show it (R348, R349). -/
def fieldWord (f : EpochField) (w : Nat) : Nat :=
  if w = 0 then f.slot + f.epoch * 2 ^ 16 + b2n f.valid * 2 ^ 24 else if w = 1 then f.gen % 2 ^ 32 else f.gen / 2 ^ 32

/-- Tier registers (R349). -/
def statTier (s : State) (t w off : Nat) : Nat :=
  let e := s.tier t
  if w = 0 then e.lo else if w = 1 then e.hi
  else if w = 2 then flagBits [e.en, e.ul, e.dl, e.hlf, e.s154] + e.s154Min * 2 ^ 5
  else if w < 6 then fieldWord e.a (w - 3) else if w < 9 then fieldWord e.b (w - 6)
  else if w = 10 then e.a.page + e.b.page * 2 ^ 16
  else s.stw off

/-- Conversation registers (R421). -/
def statConv (s : State) (off : Nat) : Nat :=
  if off < 0x3B040 then
    let n := (off - 0x3B000) / 4
    s.conv.table.countP (fun c => decide (c.1 / 256 = n) && decide (c.2.state ≠ 0)) + min 0xFFFF (tget 0 s.conv.ranLast n) * 2 ^ 16
  else if off = 0x3B050 then b2n (decide (ucodeVersion s 5 ≠ 0)) + 2 * b2n (decide (ucodeVersion s 6 ≠ 0))
  else if off = 0x3B054 then ucodeVersion s 5 else if off = 0x3B058 then ucodeVersion s 6
  else if off = 0x3B080 then s.fc 0x6000 else if off = 0x3B084 then s.fc 0x6004
  else if off = 0x3B088 then s.fc 0x6010 else if off = 0x3B08C then s.fc 0x6014
  else if 0x3B0A0 ≤ off ∧ off < 0x3B0D0 then s.fc (off - 0x3B0A0 + 0x6020)
  else s.stw off

/-- A register of the STATUS window (R534, R545 to R547); an unassigned offset reads 0. The high halves of the latched pairs read
as a host without FH_T_PRIV sees them. -/
def statusRead (s : State) (off : Nat) : Nat :=
  if off < 0x31000 then (if off = 0x30108 then tget 0 s.host.latch off else statTick s off)
  else if off < 0x31800 then statRing s off
  else if off < 0x32000 then 0
  else if off < 0x33000 then statVault s off
  else if off < 0x34000 then statChan s off
  else if off < 0x34800 then statRegion s off
  else if off < 0x35000 then 0
  else if off < 0x37000 then statKid s off
  else if off = 0x37000 then b2n s.boot.eve
  else if off < 0x37200 then (if off = 0x37120 then tget 0 s.host.latch off else s.stw off)
  else if off < 0x37400 then statTree s off
  else if off < 0x37480 then statJob s off
  else if off < 0x38000 then 0
  else if off < 0x38080 then statLink s off
  else if off < 0x39000 then 0
  else if off < 0x39200 then (if off = 0x3910C then tget 0 s.host.latch off else statAlm s off)
  else if off < 0x39300 then statLedger s off
  else if off < 0x39400 then (if off = 0x3930C then tget 0 s.host.latch off else statJf s off)
  else if off < 0x39800 then statAlm s off
  else if off < 0x39A00 then statKr s off
  else if off < 0x39B00 then statNms s off
  else if off < 0x39D00 then statFault s off
  else if off < 0x3A000 then 0
  else if 0x3B000 ≤ off ∧ off < 0x3B100 then statConv s off
  else if off < 0x3E000 then statTier s ((off - 0x3A000) / 64) (off % 64 / 4) off
  else if off < 0x3E100 then statTier s (64 + (off - 0x3E000) / 64) (off % 64 / 4) off
  else 0

/-- SX_ID and the capability registers (R538). DESIGN CHOICE (log entry 20). -/
def idRead (off : Nat) : Nat :=
  if off = 0 then 0x05A421D0 + b2n Config.stepD1
  else if off = 4 then 0x00104010
  else if off = 8 then 0x48401000
  else if off = 0x0C then 0x205A0100
  else 0x0000008F

/-- The high halves of the latched pairs (R536). -/
def latchedHigh : List Nat := [0x30108, 0x37120, 0x3910C, 0x3930C]

/-- What an accepted read returns (R534): the value last written for a HOST or PRIV register, the field values of a status
register, the latch of the reader's kind for the high half of a pair, and 0 elsewhere. -/
def regRead (s : State) (off : Nat) (priv : Bool) : Nat :=
  if off ≤ 0x10 then idRead off
  else if off < 0x20000 then (if (regRow off).isSome then s.wr off else 0)
  else if off < 0x30000 then 0
  else if latchedHigh.contains off then tget 0 (if priv then s.host.latchPriv else s.host.latch) off
  else statusRead s off

/-- The STATUS window as NMS_STATS copies it: a read through the taps loads and shows no latch of a host read, so the high halves
show the values of the moment (R491, R536). DEDUCED (log entry 114). -/
def statusWindow (s : State) : Bytes :=
  (List.range 16384).flatMap (fun w =>
    let off := 0x30000 + 4 * w
    toLe 4 (if off = 0x30108 then s.count / 2 ^ 32
            else if off = 0x37120 then s.stw 0x37120
            else if off = 0x3910C then s.alm.time / 2 ^ 32
            else if off = 0x3930C then nextGrant s / 2 ^ 32
            else statusRead s off))

end Sys2Proof.Machine
end

