-- ==== Sys2Proof/Machine/HostWrite.lean ====
section
/-! DEFINITION. What an accepted register write does (R12, R86, R118, R203, R207, R321, R347, R371, R419, R445, R469, R531). -/

namespace Sys2Proof.Machine

/-- TICK_CFG and ECLK_CFG within their ranges (R86, R87). -/
def tickRange (off v : Nat) : Bool :=
  if off = 0x100 then
    decide (1000 ≤ bits v 15 0) && decide (bits v 15 0 ≤ 32000) && decide (4 ≤ bits v 19 16) && decide (bits v 19 16 ≤ 8)
    && decide (4 ≤ bits v 27 20) && decide (bits v 27 20 ≤ 64)
  else decide (800 ≤ bits v 9 0) && decide (bits v 9 0 ≤ 1000)

/-- JF_CFG within its ranges (R445). -/
def jfRange (v : Nat) : Bool :=
  decide (10 ≤ bits v 6 0) && decide (bits v 6 0 ≤ 64) && decide (1 ≤ bits v 17 8) && decide (bits v 17 8 ≤ 1000)
  && decide (1 ≤ bits v 25 18)

/-- A ring size within its range (R118). -/
def ringRange (v : Nat) : Bool := decide (6 ≤ bits v 4 0) && decide (bits v 4 0 ≤ 16)

/-- What a write of v to a register of Calends timing leaves where v is outside its range: no field changes, and the chapter's error
shows (R86, R118, R321, R347, R371, R419, R445, R469, R531); none where the write is accepted.
DEDUCED (log entry 120). -/
def refuseWrite (s : State) (off v : Nat) : Option State :=
  if off = 0x100 ∨ off = 0x104 then (if tickRange off v then none else some (s.evt 0x108 4))
  else if 0x1000 ≤ off ∧ off < 0x1800 ∧ off % 16 = 8 then
    (if ringRange v then none else some (s.modRing ((off - 0x1008) / 16) (fun q => { q with err := 4 })))
  else if 0x4000 ≤ off ∧ off < 0x4080 then (if linkRange off v then none else some (s.evt 0x4080 11))
  else if off = 0x5000 then (if bits v 7 0 = 0 then some (s.evt 0x5004 3) else none)
  else if 0x5100 ≤ off ∧ off < 0x510C then (if almRange off v then none else some (s.evt 0x510C 5))
  else if off = 0x5300 then (if jfRange v then none else some (s.evt 0x5304 8))
  else if off = 0x5800 then (if krRange s v then none else some (s.evt 0x5804 8))
  else if off = 0x5C04 then (if v = 0 then some s else none)
  else if 0x6000 ≤ off ∧ off < 0x60A0 then (if convRange s off v then none else some (s.evt 0x6008 4))
  else none

/-- A write to a register of Calends timing (R12, R86). -/
def calWrite (s : State) (off v : Nat) : State :=
  match refuseWrite s off v with
  | some s => s
  | none =>
    let s := s.putWr off v
    if off = 0x5800 then s.modKr (fun k => { k with cfgWritten := true }) else s

/-- A CH_ROLE_n write joins those of the tick (R203); after a takeover of the tick that concerns the channel its value is discarded
(R207). -/
def roleWrite (s : State) (n v : Nat) : State :=
  let s := if s.part.taken.contains n then s else s.putWr (0x3000 + 4 * n) v
  { s with part := { s.part with roleWr := s.part.roleWr ++ [(n, v)] } }
/-- A CH_SHARE_n write joins those of the tick (R80). -/
def shareWrite (s : State) (n v : Nat) : State :=
  { s.putWr (0x140 + 4 * n) v with part := { s.part with shareWr := s.part.shareWr ++ [(n, v)] } }

/-- SLP_IMG written (R525, R532). -/
def imgWrite (s : State) (v : Nat) : State := (s.putWr 0x13D00 v).modSleep (fun x => { x with imgReq := true })

/-- A write to a register with a rule of its own; v keeps the bits that its field map makes writable. -/
def actWrite (s : State) (off val v : Nat) : State :=
  if 0x20000 ≤ off then doorbell s ((off - 0x20000) / 64) val
  else if 0x140 ≤ off ∧ off < 0x180 then shareWrite s ((off - 0x140) / 4) v
  else if 0x1000 ≤ off ∧ off < 0x1800 then abortRequest s ((off - 0x1000) / 16) val
  else if 0x3000 ≤ off ∧ off < 0x3040 then roleWrite s ((off - 0x3000) / 4) v
  else if 0x4000 ≤ off ∧ off < 0x4080 then linkCmd s ((off - 0x4000) / 64) val
  else if off = 0x5C08 then sleepCtl s val
  else if 0x8000 ≤ off ∧ off < 0xC000 then tierCtl s ((off - 0x8000) / 64) val
  else if 0x10000 ≤ off ∧ off < 0x10800 then rgnCtl s ((off - 0x10000) / 32) val
  else if 0x11000 ≤ off ∧ off < 0x13000 then kidCtl s ((off - 0x11000) / 32) val
  else if 0x13100 ≤ off ∧ off < 0x13300 then treeCtl s ((off - 0x13100) / 32) val
  else if 0x13400 ≤ off ∧ off < 0x13480 then eqxCtl s ((off - 0x13400) / 32) val
  else if off = 0x1380C then almCtl s val
  else if off = 0x13C00 then killCfg s val true
  else if off = 0x13C04 then fltKill s val
  else if off = 0x13D00 then imgWrite s v
  else s

/-- A write to a register that exists, in a state that accepts it (R10, R12, R537); the Almanac's holding copy takes none once the
Almanac is enabled (R357). -/
def putReg (s : State) (r : RegRow) (off val : Nat) : State :=
  let v := val &&& r.mask
  match r.kind with
  | .ro => s
  | .imm => s.putWr off v
  | .hold => if s.alm.en ∧ 0x13800 ≤ off ∧ off < 0x1380C then s else s.putWr off v
  | .cal => calWrite s off v
  | .act => actWrite s off val v
  | .evt => s
  | .irqEn => s

end Sys2Proof.Machine
end

