-- ==== Sys2Proof/Machine/Commit.lean ====
section
/-! DEFINITION. The commit of a Calends (R81 to R85, R93, R94, R520) and the Calends instants that lead to it. -/

namespace Sys2Proof.Machine

/-- Change the tick. -/
def State.modTick (s : State) (f : Tick → Tick) : State := { s with tick := f s.tick }

/-! ### Step 1: what is still open (R81, R85) -/

/-- A LINK descriptor that asks for a staged change (R297). -/
def linkStages (k : Nat) (it : Item) : Bool := decide (k < 48) && decide (0x10 ≤ dOp it.desc) && decide (dOp it.desc ≤ 0x15)

/-- Commands admitted in this tick whose request is staged by the time of the commit (R81): the LINK, vault and ring-key
descriptors that have not been staged yet. DEDUCED (log entry 56). -/
def stageOne (s : State) (k : Nat) (it : Item) : State :=
  let op := dOp it.desc
  let i := it.idx
  if linkStages k it then stageLink s k i op
  else if 48 ≤ k ∧ k < 56 then
    (if op = 0x40 then generate s k i else if op = 0x41 then derive s k i else if op = 0x42 then importWrapped s k i
     else if op = 0x43 then importClear s k i else if vaultStaging op then stagePlain s k i op else s)
  else if 62 ≤ k ∧ op = 0x78 then krKeyload s k i
  else s

/-- Items of a ring that are open and not staged. -/
def openItems (s : State) (k : Nat) : List Item := (s.ring k).items.filter (fun it => decide (it.res = none) && !it.staged)

/-- Every admitted request is staged. DEDUCED (log entry 56). -/
def stageAll (s : State) : State :=
  (List.range 64).foldl (fun s k => (openItems s k).foldl (fun s it => stageOne s k it) s) s

/-- The work items of every channel that are incomplete: ring and item (R66, R81). -/
def openWork (s : State) : List (Nat × Item) := (List.range 48).flatMap (fun k => (openItems s k).map (fun it => (k, it)))

/-- A key of an item fails its generation check (R81, R138). -/
def keyStale (s : State) (it : Item) : Bool :=
  it.keys.any (fun r => decide ((s.slot r.slot).gen ≠ r.gen) || decide ((s.slot r.slot).state = 0) || !chainOk s r.slot)

/-- A channel ended a work item: it is counted (R85). -/
def countCut (s : State) (n : Nat) : State := if n < 16 then (s.inc (0x30140 + 4 * n) 31 24).evt 0x108 3 else s

/-- One incomplete item is ended (R81 step 1). -/
def endItem (s : State) (x : Nat × Item) : State :=
  let st := if keyStale s x.2 then stOrphan else stOverrun
  countCut (finish s x.1 x.2.idx st (plainResult s x.1 x.2.desc st) true) x.2.ch

/-- Channels whose conversation engines have a step unfinished. DEDUCED (log entry 115). -/
def busyEngines (s : State) : List Nat := (tkeys s.conv.engines).map (· / 2)

/-- The record of a channel's cut ticks: the latest 64, nothing where none of them cut (R85).
DEDUCED (log entry 115). -/
def pushCut (l : List Bool) (cut : Bool) : List Bool := if cut || l.contains true then (cut :: l).take 64 else []

/-- What an overrun asks of a channel: tests before it admits again (R85). DEDUCED (log entry 115). -/
def noteCut (cuts : List Nat) (s : State) (n : Nat) : State :=
  let cut := cuts.contains n
  s.modChan n (fun x => { x with overruns := pushCut x.overruns cut, needKat := x.needKat || (cut && !x.fenced) })

/-- The channels that ended items in a third of 64 ticks are fenced (R85), in the order of R31. -/
def fenceCuts (s : State) (cuts : List Nat) : State :=
  (fenceOrder s (idxs 16 (fun n => cuts.contains n && decide ((s.chan n).overruns.countP id ≥ 3)))).foldl (fun s n => fence s n 8) s

/-- Steps 1 of R81 and 1 of R82: the vault's and the tiers' changes commit, then the incomplete items end under the state that
results. -/
def commitKeys (s : State) : State :=
  let busy := busyEngines s
  let s := stageAll s
  let work := openWork s
  let s := cutEngines s
  let s := commitTiers (commitVault s)
  let s := work.foldl endItem s
  let s := busy.foldl countCut s
  let cuts := work.map (·.2.ch) ++ busy
  fenceCuts ((List.range 16).foldl (noteCut cuts) s) cuts

/-! ### Budgets of the tick that ends (R88, R176, R239) -/

/-- Descriptors that waited for budget in the rings a channel serves (R78, R88). DESIGN CHOICE (log entry 39). -/
def deferredOf (s : State) (n : Nat) : Nat :=
  let c := (s.chan n).ringsOf
  if s.serverOf c = some n then
    ([3 * c, 3 * c + 1, 3 * c + 2].map (fun k =>
      if (s.ring k).passed && !(s.ring k).stalled then (s.ring k).waiting - (s.ring k).aborted.length else 0)).sum
  else 0

/-- PEAK of a channel (R88). DEDUCED (log entry 135). -/
def peakOf (s : State) (n : Nat) : Nat :=
  let room := laneRoom s (s.chan n).shareP 64
  if room = 0 then 0 else min 255 ((s.chan n).admP * 256 / room)

/-- CH_BUDGET_n and the counts of the vault and of the counter caches take the values of the tick that ends. -/
def closeBudgets (s : State) : State :=
  let s := (List.range 16).foldl (fun s n =>
    ((s.putStf (0x30140 + 4 * n) 15 0 (min 0xFFFF (deferredOf s n))).putStf (0x30140 + 4 * n) 23 16 (peakOf s n)).putStf
      (0x37040 + 4 * n) 15 0 (s.mchan n).miss) s
  s.putSt 0x32018 (min 0xFFFF s.vault.deferredNow + min 32 s.vault.stagedNow * 2 ^ 16)

/-- Budgets are reset (R81 step 4). -/
def openBudgets (s : State) : State :=
  { s with
    ch := s.ch.map (fun (c : Nat × Chan) => (c.1, { c.2 with stepPassed := false, admP := 0, backP := 0, backG := 0, back0 := 0, back1 := 0 }))
    rings := s.rings.map (fun (r : Nat × Ring) => (r.1, { r.2 with passed := false, stalled := false }))
    vault := { s.vault with stagedNow := 0, deferredNow := 0 }
    part := { s.part with dmaRd := 0, dmaWr := 0 }
    mem := { s.mem with chan := s.mem.chan.map (fun (m : Nat × MemChan) => (m.1, { m.2 with miss := 0 })) } }

/-! ### Steps 3 and 8 of R82 -/

/-- The sleep image area commits after the region and tree entries (R525). -/
def commitImage (s : State) : State :=
  if !s.sleep.imgReq then s
  else
    let s := s.modSleep (fun x => { x with imgReq := false })
    let v := s.wr 0x13D00
    let area := (bits v 18 0 * 2 ^ 21, 2 ^ 21)
    let t := s.putFc 0x13D00 0
    let taken := metaAreas t ++ (otherRegions t 64).map Region.dataArea
    if !bit v 31 then (s.putFc 0x13D00 v).modSleep (fun x => { x with err := 0 })
    else if taken.any (overlaps area) then sleepRefuse s 6
    else s.putFc 0x13D00 v

/-- Every field marked Calends that no other step places takes the value last written (R12, R82 step 8). -/
def commitFields (s : State) : State :=
  s.regs.wr.foldl (fun s (e : Nat × Nat) =>
    match regRow e.1 with
    | some r => if r.kind = .cal then s.putFc e.1 e.2 else s
    | none => s) s

/-- CQk is disabled: the completions of items admitted before, the events that wait and those of frames held are dropped
(R95, R383). DEDUCED (log entry 139). -/
def muteRing (s : State) (k : Nat) : State :=
  let s := (s.modRing k (fun q => { q with items := q.items.map (fun it => { it with drop := true }) })).modRing (64 + k)
    (fun q => { q with reserved := q.reserved - q.events.countP (·.held), events := [] })
  s.modLg (fun l => { l with held := l.held.map (fun h => if h.ring = k then { h with mute := true } else h) })

/-- RING_CFG_r at a Calends (R93, R94, R118). DEDUCED (log entry 25). -/
def commitRing (s : State) (r : Nat) : State :=
  let cfg := s.wr (0x1008 + 16 * r)
  let base := s.wr (0x1004 + 16 * r) * 2 ^ 32 + s.wr (0x1000 + 16 * r)
  let q := s.ring r
  let on := bit cfg 5
  if on && !q.en then
    s.modRing r (fun q => { q with
      en := true, base := base, log2 := bits cfg 4 0, irqAll := bit cfg 6, head := 0, tail := 0, phase := decide (r ≥ 64)
      halted := false, err := 0, stall := 0, aborted := [], flush := 0, passed := false, stalled := false
      fetched := none })
  else if !on && q.en then
    (if r < 64 then s else muteRing s (r - 64)).modRing r (fun q => { q with
      en := false, irqAll := bit cfg 6, aborted := [], flush := 0, fetched := none, head := if r < 64 then q.tail else q.head })
  else if q.irqAll = bit cfg 6 then s
  else s.modRing r (fun q => { q with irqAll := bit cfg 6 })

/-- Step 8 of R82: the fields, the rings, and the heartbeat counts of a path whose EN changes (R311). -/
def commitRegs (s : State) : State :=
  let en (s : State) (p : Nat) : Bool := bit (s.fc (0x4000 + 64 * p)) 15
  let a := en s 0
  let b := en s 1
  let s := (List.range 128).foldl commitRing (commitFields s)
  let s := if en s 0 = a then s else linkHbRestart s 0
  if en s 1 = b then s else linkHbRestart s 1

/-! ### The end of Eve mode (R234, R520, R521) -/

/-- Eve mode ends at this Calends (R517, R520). -/
def eveEnds (s : State) : Bool := s.boot.eve && s.boot.p4Done && (s.boot.p5Done || bit (s.wr 0x5C00) 0)

/-- What happens at the Calends that ends Eve mode. DEDUCED (log entry 98). -/
def eveEnd (s : State) : State :=
  let s := s.modBoot (fun b => { b with
    eve := false, phase := 6, p5Done := true, times := if b.p5Done then b.times else tins b.times 5 0 })
  let s := moveSteer s (fillSteer s (memChans s))
  (s.evt 0x5C0C 0).evt 0x13000 5

/-! ### The commit -/

/-- Steps 1 to 7 of R82. -/
def commitStaged (s : State) (ends : Bool) : State :=
  let s := commitRoles (commitKeys s) ends
  let s := nmsCommitted (commitUcode s) 0x61
  let s := commitImage (commitAlm (commitMemTables s))
  let s := commitLink (commitEquinox s)
  let s := nmsCommitted (commitProfile s) 0x60
  ownedConvs (krApply s ((s.alm.time + period s) % 2 ^ 64))

/-- What every unit does at a Calends under the state that results from step 8 (R82): the count, Almanac time, the checks of
R353, R455, R311, R438, the ledger and the conversations. DEDUCED (log entry 64). -/
def afterCommit (s : State) (per : Nat) (old : Option (List Band)) (slept : Nat) : State :=
  let s := s.modTick (fun t => { t with count := (t.count + 1) % 2 ^ 48 })
  let s := almRemap (almTick s per)
  let s := markTick (linkTick (krTick s))
  let s := ledgerRelease s old
  convTick s (1 + slept)

/-- The first Calends after a wake: conversations and held frames that ran out in sleep end (R529). -/
def afterWake (s : State) : State :=
  if s.sleep.slept.isNone then s
  else wokenCalends (holdExpiry ((tkeys s.conv.table).foldl convExpire s))

/-- The masks of every key-bank entry are renewed (R145). -/
def remaskAll (s : State) : State :=
  (List.range 16).foldl (fun s n =>
    let d := s.drbg
    let b := (s.chan n).bank
    (s.modChan n (fun c => { c with bank := remaskBank d b })).drew (b.map (fun e => e.share1.length)).sum) s

/-- Host writes held since the Calends instant take effect in the tick that begins (R12, R81). -/
def releaseWrites (s : State) : State :=
  s.lateWr.foldl (fun s w =>
    match regRow w.1 with
    | some r => putReg s r w.1 w.2
    | none => s) { s with lateWr := [] }

/-- Steps 3 and 4 of R81: admission opens unless sleep entry begins, and what the ports hold is taken. -/
def commitEnds (s : State) : State :=
  let s := s.modTick (fun t => { t with due := false, closed := false, fixed := false, early := none })
  let s := sleepCalends s
  let s := releaseWrites s
  let s := if statsWait s then (if s.nms.stats = none then s.modNms (fun n => { n with stats := some (statusWindow s) }) else s)
    else s.modNms (fun n => { n with stats := none })
  releasePorts s

/-- The whole commit of a Calends that is due (R81). -/
def commitRun (s : State) : State :=
  let s := s.modTick (fun t => { t with due := false })
  let per := period s
  let old := if s.ledger.staged.isSome then some s.ledger.bands else none
  let slept := s.sleep.slept.getD 0
  let ends := eveEnds s
  let s := commitRegs (commitStaged (closeBudgets s) ends)
  let s := afterCommit s per old slept
  let s := if ends then eveEnd s else s
  commitEnds (openBudgets (setQuotas (remaskAll (afterWake s))))

/-- CALENDS_COMMIT: where the count would pass MARK the block shuts down instead (R438). DEDUCED (log entry 112). -/
def calendsCommit (s : State) : State :=
  if !s.tick.due || s.halted then s
  else if markPassed s then powerFail (s.modJf (fun j => { j with markHalt := true }))
  else commitRun s

/-- CALENDS_COMMIT. -/
def execCalendsCommit (s : State) : Host.Outcome State Fault Refusal := .next (calendsCommit s)

end Sys2Proof.Machine
end

