-- ==== Sys2Proof/Machine/Ticks.lean ====
section
/-! DEFINITION. The tick: edges, the keeper, the close point and the first Calends (R58, R66 to R75, R518). -/

namespace Sys2Proof.Machine

/-- The SX4 acts on tick instants as Calends: the count is set and no state of R58 holds (R58, R518). -/
def ticksAct (s : State) : Bool := !s.halted && s.tick.countSet

/-- A tick instant C: where the block acts, its commit is due and admission is closed; else the instant only starts a new
measure of time (R58, R68, R81). -/
def reachC (s : State) : State :=
  s.modTick (fun x => { x with
    t := 0, fixed := false, early := none, due := ticksAct s, closed := true, started := x.started || ticksAct s })

/-- The first Calends after P2, by an edge or by the keeper (R518). DEDUCED (log entry 116). -/
def firstCalends (s : State) : State := if !ticksAct s || s.tick.started || s.tick.due then s else reachC s

/-- An ignored edge (R68). DEDUCED (log entry 26). -/
def edgeIgnored (s : State) : State := ((s.inc 0x30110 15 0).evt 0x108 2).modTick (fun x => { x with onTime := 0 })

/-- An early edge (R68): admission closes, and C comes no later than DRAIN after it. DEDUCED (log entry 26). -/
def edgeEarly (s : State) (t : Nat) : State :=
  ((s.inc 0x30110 31 16).evt 0x108 1).modTick (fun x => { x with
    onTime := 0, closed := true, fixed := true, early := some (t + s.drainEc) })

/-- An edge on time (R68, R69): four in a row end the keeper's turn. DEDUCED (log entry 26). -/
def edgeOnTime (s : State) : State :=
  reachC (s.modTick (fun x => { x with
    keeper := x.keeper && decide (x.onTime + 1 < 4), onTime := if x.onTime + 1 < 4 then x.onTime + 1 else 0 }))

/-- The internal tick keeper issues C: a lost tick under SRC = 0 (R68, R69). -/
def keeperIssues (s : State) : State :=
  let s := if s.src1 then s
    else ((s.inc 0x3010C 31 0).evt 0x108 0).modTick (fun x => { x with keeper := true, onTime := 0 })
  reachC s

/-- The latest time at which an edge is on time: T + TOL, or T while the keeper issues the Calends (R68, R69). -/
def edgeLimit (s : State) : Nat := if s.tick.keeper then s.perEc else s.perEc + s.tolEc

/-- An edge that arrives t engine clocks after C, classed (R68). DEDUCED (log entry 117). -/
def classEdge (s : State) (t : Nat) : State :=
  let s := s.at t
  if s.tick.due || s.tick.fixed || decide (2 * t < s.perEc) then edgeIgnored s
  else if t < s.perEc - s.tolEc then edgeEarly s t
  else if t ≤ edgeLimit s then edgeOnTime s
  else edgeIgnored (keeperIssues s)

/-- TICK_EDGE (R58, R68, R73): in sleep Vigil counts the edge; under SRC = 1 it is ignored and raises no event.
DESIGN CHOICE (log entry 1). DEDUCED (log entry 109). DEDUCED (log entry 116). DEDUCED (log entry 118). -/
def tickEdge (s : State) (t : Nat) : State :=
  if s.boot.inReset then s
  else if s.boot.asleep || s.boot.entering then s.modSleep (fun x => { x with edges := x.edges + 1 })
  else if !s.tick.started then firstCalends s
  else if s.src1 then s
  else classEdge s t

/-- Every admitted work item of every channel is complete (R66, R68). -/
def workDone (s : State) : Bool := (openWork s).all (fun x => linkStages x.1 x.2) && (busyEngines s).isEmpty

/-- EARLY_EDGE_DRAIN_END (R68). DEDUCED (log entry 117). -/
def earlyDrain (s : State) (t : Nat) : State :=
  match s.tick.early with
  | none => s
  | some lim => if workDone s || decide (lim ≤ t) then reachC s else s.at t

/-- TICK_KEEPER_CALENDS (R69): not where an edge has fixed the coming Calends or its commit is due.
DESIGN CHOICE (log entry 1). -/
def keeperCalends (s : State) : State :=
  if hostDead s || s.boot.entering || s.tick.due || s.tick.fixed then s
  else if !s.tick.started then firstCalends s
  else keeperIssues s

/-- ADMISSION_CLOSE (R75). -/
def admissionClose (s : State) : State :=
  if s.halted then s else (s.at s.tClose).modTick (fun x => { x with closed := true })

/-- TICK_EDGE. -/
def execTickEdge (t : Nat) (s : State) : Host.Outcome State Fault Refusal := .next (tickEdge s t)
/-- EARLY_EDGE_DRAIN_END. -/
def execEarlyEdgeDrainEnd (t : Nat) (s : State) : Host.Outcome State Fault Refusal := .next (earlyDrain s t)
/-- TICK_KEEPER_CALENDS. -/
def execTickKeeperCalends (s : State) : Host.Outcome State Fault Refusal := .next (keeperCalends s)
/-- FIRST_CALENDS_AFTER_P2: `byEdge` tells whether an edge or the keeper gives it; the two do not differ (R518). -/
def execFirstCalendsAfterP2 (byEdge : Bool) (s : State) : Host.Outcome State Fault Refusal :=
  .next (match byEdge with | true => firstCalends s | false => firstCalends s)
/-- ADMISSION_CLOSE. -/
def execAdmissionClose (s : State) : Host.Outcome State Fault Refusal := .next (admissionClose s)

end Sys2Proof.Machine
end

