-- ==== Sys2Proof/Machine/Admit.lean ====
section
/-! DEFINITION. Admission: how channels, the vault, the NMS, the journal manager and the ring agent take descriptors from their
rings (R75 to R78, R91, R97, R100 to R112, R136, R153, R192, R297, R334, R340, R442, R468, R473). -/

namespace Sys2Proof.Machine

/-! ### Heads of rings -/

/-- RESULT of a descriptor that completes at its admission: the layout of its unit with the fields that apply
(R105, R170, R442, R462, R477). DEDUCED (log entry 37). -/
def admitResult (s : State) (k : Nat) (d : Bytes) (st : Nat) : Bytes :=
  if 60 ≤ k ∧ k < 62 then jResult s
  else if 62 ≤ k ∧ dOp d = 0x78 then vaultResult s 0x009 0 0
  else if 62 ≤ k then krResult s 0
  else plainResult s k d st

/-- The head completes with a status in its turn. -/
def endTurn (s : State) (k : Nat) (d : Bytes) (st : Nat) : State × Bool := (endHead s k d st (admitResult s k d st), true)

/-! ### Channel rings -/

/-- Whether a role serves an opcode (R23, R103). -/
def roleServes (role op : Nat) : Bool :=
  if op < 0x10 then true else if op < 0x20 then decide (role = 2) else decide (role = 3)

/-- Body values of a channel descriptor. -/
def chanBody (s : State) (op : Nat) (dir : Option (Nat × Bool)) (d : Bytes) : Bool :=
  if op = 0 then true
  else if op < 0x10 then bulkBody op d
  else if op < 0x20 then (match dir with | some (_, tx) => linkBody op tx d | none => false)
  else if op < 0x30 then nodeBody s op d
  else convBody op d

/-- What an item draws on: lane costs, DMA units, and the output ranges known before it runs. -/
structure Plan where
  cost : Cost := {}
  rd : Nat := 0
  wr : Nat := 0
  outs : List (Nat × Nat) := []
  deriving DecidableEq, Repr

/-- An output range of n bytes; none where n is 0. -/
def outRange (addr n : Nat) : List (Nat × Nat) := if n = 0 then [] else [(addr, n)]

/-- The key of a bulk item: checked, bound, delivered and debited (R136, R180, R188, R194). -/
def bulkKey (s : State) (m op : Nat) (d : Bytes) : State × KeyAns × List KeyRef :=
  let r := keyRef d 8
  let role := (s.chan m).role
  let st := keyCheck s [(r, fun x => bulkPermit op d x && masksAdmit x role m)]
  if st ≠ stOK then (keyDenied s st role m r.slot, .fail st, [])
  else
    let a := useCopy s m r.slot 1
    (a.1, a.2, [bindRef s r])

/-- The ALG that the cost of a bulk item is taken from: 0 where the item fails to bind its key (R191). -/
def bulkAlg (s : State) (m op : Nat) (d : Bytes) : Nat :=
  match (bulkKey s m op d).2.1 with
  | .fail _ => 0
  | _ => (s.slot (keyRef d 8).slot).alg

/-- The draws of a channel descriptor (R76, R191, R192, R296, R339, R344, R407). -/
def planOf (s : State) (m op : Nat) (d : Bytes) : Plan :=
  if op = 0 then {}
  else if op < 0x10 then
    { cost := bulkCost op d (bulkAlg s m op d), rd := cdiv (bulkIn op d) 8, wr := cdiv (bulkOut op d) 8
      outs := outRange (bDst d) (bulkOut op d) }
  else if op = 0x12 then { cost := { p := 1 } }
  else if op = 0x20 ∨ op = 0x21 then { cost := frameCost op d, outs := outRange (addrAt d 0x10) (frameOut op d) }
  else if op = 0x32 then { outs := outRange (addrAt d 0x10) 64 }
  else {}

/-- The LOCKED conditions of a node frame known at admission (R334, R340). -/
def frameLocked (s : State) (op : Nat) (d : Bytes) : Bool :=
  match tierOf s (leAt d 0x18 4) with
  | none => false
  | some n =>
    let e := s.tier n
    let fmt := if fmtHlf d then e.hlf else e.s154
    if op = 0x20 then !e.ul || !fmt else !e.dl || !fmt || (e.field (leAt d 0x1C 1)).isNone

/-- The checks of R110 on a channel descriptor before its keys, in their order; OK where they pass.
DEDUCED (log entry 32). -/
def chanForm (s : State) (k m : Nat) (d : Bytes) (p : Plan) : Nat :=
  let op := dOp d
  let role := (s.chan m).role
  let dir := ringBinding s (ringChan k)
  if !chanHeader s k d then stMalformed
  else if dRole d ≠ 0 ∧ dRole d ≠ role then stRole
  else if !roleServes role op || !chanBody s op dir d || costNever s m p.cost || dmaNever s p.rd p.wr then stMalformed
  else if (op = 0x20 ∨ op = 0x21) ∧ frameLocked s op d = true then stLocked
  else stOK

/-- One use of a slot's key that is counted in the vault itself (R143, R148). DEDUCED (log entry 34). -/
def useOne (s : State) (n : Nat) : State × KeyAns :=
  let x := s.slot n
  if x.state = 2 ∨ (x.useLimit ≠ noLimit ∧ x.useCnt ≥ x.useLimit) then (s, .fail stSpent)
  else if x.useLimit ≠ noLimit ∧ x.useCnt + 1 > useCap x then (s.evt 0x2000 3, .wait)
  else (addUses s n 1, .ok)

/-- The key of an SA_INSTALL: checked and bound, one use counted (R296, R300). DEDUCED (log entry 35). -/
def saKey (s : State) (m : Nat) (tx : Bool) (d : Bytes) : State × KeyAns × List KeyRef :=
  let r := keyRef d 0x10
  let st := keyCheck s [(r, saPermit m (leAt d 0x0A 1) tx)]
  if st ≠ stOK then ((if st = stAttr ∧ masksAdmit (s.slot r.slot) 2 m = false then dlvRefused s else s), .fail st, [])
  else
    let a := useOne s r.slot
    (a.1, a.2, [bindRef s r])

/-- The epoch key of a node frame; none is bound where no tier or no VALID field names it (R327, R334). -/
def epochKey (s : State) (m : Nat) (d : Bytes) : State × KeyAns × List KeyRef :=
  let node := leAt d 0x18 4
  match epochField s node (leAt d 0x1C 1) with
  | none => (s, .ok, [])
  | some f =>
    let a := frameKey s m f node (leAt d 0x1C 1)
    (a.1, a.2.1, [a.2.2])

/-- The keys of a channel descriptor. -/
def chanKeys (s : State) (k m : Nat) (d : Bytes) : State × KeyAns × List KeyRef :=
  let op := dOp d
  if 1 ≤ op ∧ op < 0x10 then bulkKey s m op d
  else if op = 0x12 then saKey s m (((ringBinding s (ringChan k)).map (·.2)).getD false) d
  else if op = 0x20 ∨ op = 0x21 then epochKey s m d
  else (s, .ok, [])

/-- The head is admitted: its costs join the backlogs (R76, R192). DESIGN CHOICE (log entry 31). -/
def startItem (s : State) (k m : Nat) (d : Bytes) (p : Plan) (keys : List KeyRef) : State :=
  let c1 := pickCore s m
  let s := addCost s m c1 p.cost
  let s := { s with part := { s.part with dmaRd := s.part.dmaRd + p.rd, dmaWr := s.part.dmaWr + p.wr } }
  takeHead s k { desc := d, ch := m, keys := keys, cost := p.cost, core1 := c1, rd := p.rd, wrd := p.wr, outs := p.outs }

/-- A channel considers a head that it has read (R76 to R78, R110). -/
def chanHead (s : State) (k m : Nat) (d : Bytes) : State × Bool :=
  let p := planOf s m (dOp d) d
  let st := chanForm s k m d p
  if st ≠ stOK then endTurn s k d st
  else if !costFits s m s.tick.t p.cost || !dmaFits s s.tick.t p.rd p.wr then (passRing s k, false)
  else match chanKeys s k m d with
    | (s, .fail st, _) => endTurn s k d st
    | (s, .wait, _) => (passRing s k, false)
    | (s, .ok, keys) => (startItem s k m d p keys, true)

/-- The channel that serves a ring and holds a role that executes work (R28, R91). -/
def workServer (s : State) (k : Nat) : Option Nat :=
  (s.serverOf (ringChan k)).filter (fun m => decide (1 ≤ (s.chan m).role) && decide ((s.chan m).role ≤ 3))

/-- The turn of a channel ring (R27, R28, R78, R85, R112). DEDUCED (log entry 29). DEDUCED (log entry 30). -/
def chanTurn (s : State) (k : Nat) : State × Bool :=
  if !ringLive s k then (s, false)
  else if headAborted s k then withHead s k (fun s d => (endHead s k d stAborted (plainResult s k d stAborted), true))
  else if decide (0 < (s.ring k).flush) || (workServer s k).isNone then withHead s k (fun s d => (flushHead s k d, true))
  else match workServer s k with
    | none => (s, false)
    | some m =>
      if !admitOpen s s.tick.t || !(s.chan m).powered || (s.chan m).needKat || (s.ring k).passed then (s, false)
      else match fetchHead s k with
        | (s, some d) => if orderWaits s k d then (s, false) else withHead s k (fun s d => chanHead s k m d)
        | (s, none) => (s, false)

/-- Give turns to rings in order until one is used: the state and that ring. -/
def scanRings (turn : State → Nat → State × Bool) : List Nat → State → State × Option Nat
  | [], s => (s, none)
  | k :: ks, s =>
    match turn s k with
    | (s, true) => (s, some k)
    | (s, false) => scanRings turn ks s

/-- The rings lo to lo + n - 1 from the round-robin position on. -/
def rrOrder (lo n rr : Nat) : List Nat := (List.range n).map (fun i => lo + (rr - lo + i) % n)

/-- The next ring after k in a group of n from lo. -/
def rrNext (lo n k : Nat) : Nat := lo + (k + 1 - lo) % n

/-- A step does not fit: it waits for the next tick (R78, R400). -/
def passStep (s : State) (ch : Nat) : State := s.modChan ch (fun x => { x with stepPassed := true })

/-- A conversation step is admitted on engine e: a built-in step runs whole, an operator step begins (R400, R413). -/
def startStep (s : State) (ch e : Nat) (y : ConvStep) : State :=
  let cost := stepCost s y.id
  let cq := (s.convAt y.id).cq
  let core1 := pickCore s ch
  let s := s.modConvs (fun v => { v with
    steps := tins v.steps ch ((tget [] v.steps ch).erase y), ran := tins v.ran ch (tget 0 v.ran ch + 1) })
  let s := s.modRing (64 + cq) (fun r => { r with reserved := r.reserved + 2 })
  if (s.convAt y.id).proto ≤ 4 then builtinStep (s.modChan ch (fun x => { x with admP := x.admP + cost.p })) y
  else startEngine s ch e y cost core1

/-- The turn of a channel's conversation engines (R78, R400): the oldest step of a conversation that no engine runs is admitted on a
free engine; one that does not fit, or whose key has to wait, waits for the next tick. -/
def stepTurn (s : State) (ch : Nat) : State × Bool :=
  let x := s.chan ch
  if !admitOpen s s.tick.t || x.fenced || !x.powered || x.needKat || decide (x.role ≠ 3) || x.stepPassed then (s, false)
  else match [0, 1].find? (fun e => !(s.engine ch e).on), (tget [] s.conv.steps ch).find? (fun y => !onEngine s y.id) with
    | some e, some y =>
      let c := s.convAt y.id
      if !costFits s ch s.tick.t (stepCost s y.id) || decide ((s.ring (64 + c.cq)).free < 2) then (passStep s ch, false)
      else match (if c.proto ≤ 4 then builtinWait s y else none) with
        | some w => (passStep w ch, false)
        | none => (startStep s ch e y, true)
    | _, _ => (s, false)

/-- The turn of source j of channel m (R78): one of the three rings it serves, or its conversation engines. -/
def sourceTurn (m : Nat) (s : State) (j : Nat) : State × Bool :=
  if j = 3 then stepTurn s m else chanTurn s (3 * (s.chan m).ringsOf + j)

/-- A channel takes the next item of its four sources in turn (R78): the state, and the source that gave it.
DESIGN CHOICE (log entry 33). -/
def channelTurn (s : State) (m : Nat) : State × Option Nat :=
  match scanRings (sourceTurn m) (rrOrder 0 4 (s.chan m).rr) s with
  | (s, none) => (s, none)
  | (s, some j) => (s.modChan m (fun c => { c with rr := (j + 1) % 4 }), some j)

/-- The rings of channel number n take a turn (R78, R91): where the turn is that of the engines, it is taken by CONVERSATION_STEP and
nothing happens here. Without a channel in service their heads complete. DESIGN CHOICE (log entry 33). -/
def admitChannel (s : State) (n : Nat) : State :=
  match s.serverOf n with
  | none => (scanRings chanTurn [3 * n, 3 * n + 1, 3 * n + 2] s).1
  | some m =>
    let r := channelTurn s m
    if r.2 = some 3 then s else r.1

/-- CONVERSATION_STEP (R78, R400): the engines of a channel take their turn where it is theirs. DESIGN CHOICE (log entry 33). -/
def convStep (s : State) (ch t : Nat) : State :=
  if s.halted then s
  else
    let s := endTakeovers (s.at t)
    let r := channelTurn s ch
    if r.2 = some 3 ∨ r.2 = none then r.1 else s

/-! ### The vault -/

/-- The opcodes of R156. DEDUCED (log entry 28). -/
def vaultDefined (op : Nat) : Bool := vaultStaging op || vaultImmediate op || decide (op = 0x58)

/-- The checks of a vault descriptor in the order of R110; OK where it is admitted. -/
def vaultForm (s : State) (d : Bytes) : Nat :=
  let op := dOp d
  if !headerOk false d || !(decide (op = 0) || vaultDefined op) then stMalformed
  else if op = 0 then (if rsvdZero d [(8, 56)] [] then stOK else stMalformed)
  else if !vaultRsvd op d || !vaultBody op d then stMalformed
  else vaultCheck s d

/-- A use that the persisted count holds back (R148). DEDUCED (log entry 34). -/
def vaultWaits (s : State) (d : Bytes) : Bool :=
  (vaultKeys d).any (fun p => let x := s.slot p.1.1.slot
    decide (p.2 ≠ 0) && decide (x.useLimit ≠ noLimit) && decide (x.useCnt + p.2 > useCap x))

/-- A vault command exceeds a limit of R153 or waits for a grant. -/
def vaultFull (s : State) (d : Bytes) : Bool :=
  let op := dOp d
  (vaultStaging op && decide (s.vault.stagedNow ≥ 32)) || (vaultImmediate op && decide (s.vault.immediate ≥ 4))
  || (decide (op = 0x58) && s.vault.fuseBusy.isSome) || vaultWaits s d

/-- Output ranges of an immediate command (R165, R169, R172). -/
def vaultOuts (s : State) (d : Bytes) : List (Nat × Nat) :=
  let op := dOp d
  if op = 0x44 then [(addrAt d 0x18, 24 + algLen (s.slot (keyRef d 8).slot).alg)]
  else if op = 0x4A then [(addrAt d 0x10, 48)] else if op = 0x50 then [(addrAt d 0x18, 184)] else []

/-- The vault admits the head (R153 to R155). -/
def startVault (s : State) (k : Nat) (d : Bytes) : State :=
  let op := dOp d
  let ks := if op = 0x49 then [bindRef s (keyRef d 8)] else (vaultKeys d).map (fun p => bindRef s p.1.1)
  let it : Item := { desc := d, keys := ks, hold := vaultHold s d, outs := vaultOuts s d }
  let i := (s.ring k).head
  let s := takeHead (vaultUse s d) k it
  { s with vault := { s.vault with
    stagedNow := if vaultStaging op then s.vault.stagedNow + 1 else s.vault.stagedNow
    immediate := if vaultImmediate op then s.vault.immediate + 1 else s.vault.immediate
    fuseBusy := if op = 0x58 then some (k, i) else s.vault.fuseBusy } }

/-- The head of a vault ring waits, counted once in each tick (R153). DESIGN CHOICE (log entry 39). -/
def deferVault (s : State) (k : Nat) : State :=
  if (s.ring k).passed then s else passRing { s with vault := { s.vault with deferredNow := s.vault.deferredNow + 1 } } k

/-- The turn of a vault ring (R153, R171). -/
def vaultTurn (s : State) (k : Nat) : State × Bool :=
  if !ringLive s k then (s, false)
  else if headAborted s k then withHead s k (fun s d => (endHead s k d stAborted (plainResult s k d stAborted), true))
  else if !admitOpen s s.tick.t then (s, false)
  else match fetchHead s k with
    | (s, none) => (s, false)
    | (s, some d) =>
      let st := vaultForm s d
      if orderWaits s k d then (s, false)
      else if st = stOK ∧ dOp d ≠ 0 ∧ vaultFull s d = true then
        (deferVault (if vaultWaits s d then s.evt 0x2000 3 else s) k, false)
      else withHead s k (fun s d =>
        if st ≠ stOK then endTurn s k d st
        else if dOp d = 0 then (takeHead s k { desc := d }, true)
        else (startVault s k d, true))

/-- The vault's rings take a turn. -/
def admitVault (s : State) : State :=
  match scanRings vaultTurn (rrOrder 48 8 s.vault.rr) s with
  | (s, none) => s
  | (s, some k) => { s with vault := { s.vault with rr := rrNext 48 8 k } }

/-! ### NMS, journal manager and ring agent -/

/-- Reserved bytes of a unit's command. -/
def unitRsvd (k op : Nat) (d : Bytes) : Bool :=
  if op = 0 then rsvdZero d [(8, 56)] [] else if k < 60 then nmsRsvd op d else if k < 62 then jRsvd op d else krRsvd op d

/-- Opcode and body values of a unit's command. -/
def unitBody (s : State) (k op : Nat) (d : Bytes) : Bool :=
  if op = 0 then true else if k < 60 then nmsBody op d else if k < 62 then jBody op d else krBody s op d

/-- The opcodes that R442, R468 and R476 define. DEDUCED (log entry 28). -/
def unitDefined (k op : Nat) : Bool :=
  decide (op = 0) ||
  (if k < 60 then decide (0x60 ≤ op) && decide (op ≤ 0x69)
   else if k < 62 then decide (0x70 ≤ op) && decide (op ≤ 0x72) else decide (0x78 ≤ op) && decide (op ≤ 0x7A))

/-- The key checks of a KR_KEYLOAD after its LOCKED conditions (R110, R467): the key that unwraps holds WRAP outside the
JOURNAL domain, and one use of it is counted. -/
def krKey (s : State) (d : Bytes) : State × KeyAns × List KeyRef :=
  if !(decide (lifecycle s = 1) || decide (lifecycle s = 2)) || s.vault.carnival then (s, .fail stLocked, [])
  else
    let r := keyRef d 8
    let st := keyCheck s [(r, fun x => hasOp x.ops 5 && decide (x.domain ≠ 4))]
    if st ≠ stOK then (s, .fail st, [])
    else
      let a := useOne s r.slot
      (a.1, a.2, [bindRef s r])

/-- Output ranges of a unit's command. -/
def unitOuts (d : Bytes) : List (Nat × Nat) := if dOp d = 0x7A then [(addrAt d 8, 3072)] else []

/-- A unit considers a head that it has read. -/
def unitHead (s : State) (k : Nat) (d : Bytes) : State × Bool :=
  let op := dOp d
  if !headerOk false d || !unitDefined k op || !unitRsvd k op d || !unitBody s k op d then endTurn s k d stMalformed
  else if op = 0x78 then
    match krKey s d with
    | (s, .fail st, _) => endTurn s k d st
    | (s, .wait, _) => (s, false)
    | (s, .ok, keys) => (takeHead s k { desc := d, keys := keys, hold := (s.slot (keyRef d 8).slot).key }, true)
  else (takeHead s k { desc := d, outs := unitOuts d }, true)

/-- A command of the unit is in progress: it takes one at a time (R442, R468, R473). A NOP is no such command (R104).
DESIGN CHOICE (log entry 142). -/
def unitBusy (s : State) (u : Nat) : Bool :=
  (unitRings u).any (fun k => (s.ring k).items.any (fun it => decide (it.res = none) && decide (dOp it.desc ≠ 0)))

/-- The turn of a ring of unit u: 2 journal, 3 ring agent, 4 NMS. A wedged unit completes every descriptor LOCKED (R498).
DEDUCED (log entry 38). -/
def unitTurn (u : Nat) (s : State) (k : Nat) : State × Bool :=
  if !ringLive s k then (s, false)
  else if s.wedged u then withHead s k (fun s d => (endHead s k d stLocked (wedgedResult s u k d), true))
  else if headAborted s k then withHead s k (fun s d => (endHead s k d stAborted (admitResult s k d stAborted), true))
  else if u = 4 ∧ s.nms.ready = false then (s, false)
  else match fetchHead s k with
    | (s, none) => (s, false)
    | (s, some d) =>
      if orderWaits s k d || (unitBusy s u && decide (dOp d ≠ 0)) then (s, false)
      else withHead s k (fun s d => unitHead s k d)

/-- The rings of a unit take a turn. -/
def admitUnit (s : State) (u lo n rr : Nat) (put : State → Nat → State) : State :=
  match scanRings (unitTurn u) (rrOrder lo n rr) s with
  | (s, none) => s
  | (s, some k) => put s (rrNext lo n k)

/-- ADMIT_DESCRIPTOR: an owner takes at most one descriptor, t engine clocks after C. -/
def admitTurn (s : State) (owner : Owner) (t : Nat) : State :=
  if s.halted || s.wedged 5 then s
  else
    let s := endTakeovers (s.at t)
    match owner with
    | .channel n => admitChannel s n
    | .vault => admitVault s
    | .nms => admitUnit s 4 56 4 s.nms.rr (fun s r => s.modNms (fun n => { n with rr := r }))
    | .journal => admitUnit s 2 60 2 s.jf.rr (fun s r => s.modJf (fun j => { j with rr := r }))
    | .krysa => admitUnit s 3 62 2 s.krysa.rr (fun s r => s.modKr (fun k => { k with rr := r }))

/-- CONVERSATION_STEP. -/
def execConversationStep (ch : Fin 16) (t : Nat) (s : State) : Host.Outcome State Fault Refusal := .next (convStep s ch t)

/-- ADMIT_DESCRIPTOR. -/
def execAdmitDescriptor (owner : Owner) (t : Nat) (s : State) : Host.Outcome State Fault Refusal := .next (admitTurn s owner t)

end Sys2Proof.Machine
end

