-- ==== Sys2Proof/Machine/Bulk.lean ====
section
/-! DEFINITION. The bulk cipher operations of the channels (R183 to R195). -/

namespace Sys2Proof.Machine

/-- What a bulk operation computes from its key and input bytes: the output bytes and RESULT, or nothing where a tag fails. -/
abbrev BulkFn := Bytes → Bytes → Bytes → Option (Bytes × Bytes)

/-- Run a bulk item: read its input, compute, write its output, report (R186 to R190). -/
def bulkRun (s : State) (k i op : Nat) (f : BulkFn) : State :=
  if s.halted then s else withItem s k i op (fun it =>
    if (s.chan it.ch).fenced then s else
    let d := it.desc
    let r := it.keys.headD {}
    let key := copyKey s it.ch r.slot r.gen
    match hostRead s (bSrc d) (bulkIn op d) with
    | (s, .err) => finish s k i stMalformed [] true
    | (s, .poison) => finish s k i stPoison [] true
    | (s, .ok inp) =>
      match f key d inp with
      | none => finish s k i stAuthFail [] true
      | some (out, res) =>
        if out = [] then finish s k i stOK res false
        else match hostWrite s (bDst d) out with
          | (s, true) => finish s k i stOK res false
          | (s, false) => finish s k i stMalformed [] true)

/-- CTR (R189, R190): the text transformed and the counter block after the last one used. -/
def ctrFn : BulkFn := fun key d inp =>
  let w := cwBytes (bCw d)
  let iv := bIv d
  some (ctr w key iv inp, iv.take (16 - w) ++ toBe w (beN (iv.drop (16 - w)) + cdiv (bTextLen d) 16))

/-- GCM encryption: ciphertext then tag. -/
def gcmEncFn : BulkFn := fun key d inp =>
  let r := gcmEnc key (bIv d) (inp.take (bAadLen d)) (inp.drop (bAadLen d))
  let t := r.2.take (bTagLen d)
  some (r.1 ++ t, t)

/-- GCM decryption: the plaintext where the tag verifies. -/
def gcmDecFn : BulkFn := fun key d inp =>
  let aad := inp.take (bAadLen d)
  let ct := sub inp (bAadLen d) (bTextLen d)
  let tag := sub inp (bAadLen d + bTextLen d) (bTagLen d)
  if (gcmTag key (bIv d) aad ct).take (bTagLen d) = tag then some (gcmText key (bIv d) ct, []) else none

/-- GMAC generation. -/
def gmacGenFn : BulkFn := fun key d inp =>
  let t := (gcmTag key (bIv d) inp []).take (bTagLen d)
  some (t, t)

/-- GMAC verification. -/
def gmacVerFn : BulkFn := fun key d inp =>
  if (gcmTag key (bIv d) (inp.take (bAadLen d)) []).take (bTagLen d) = sub inp (bAadLen d) (bTagLen d) then some ([], []) else none

/-- CCM and CCM* encryption: ciphertext then tag. -/
def ccmEncFn : BulkFn := fun key d inp =>
  let aad := inp.take (bAadLen d)
  let pt := inp.drop (bAadLen d)
  let t := ccmTag key (bIv d) aad pt (bTagLen d)
  some (ccmText key (bIv d) pt ++ t, t)

/-- CCM and CCM* decryption: the plaintext where the tag verifies. -/
def ccmDecFn : BulkFn := fun key d inp =>
  let aad := inp.take (bAadLen d)
  let pt := ccmText key (bIv d) (sub inp (bAadLen d) (bTextLen d))
  if ccmTag key (bIv d) aad pt (bTagLen d) = sub inp (bAadLen d + bTextLen d) (bTagLen d) then some (pt, []) else none

/-- XTS encryption of one data unit; the key's first half is the data key. -/
def xtsEncFn : BulkFn := fun key d inp =>
  some (xtsEnc (key.take (key.length / 2)) (key.drop (key.length / 2)) (bIv d) inp, [])

/-- XTS decryption of one data unit. -/
def xtsDecFn : BulkFn := fun key d inp =>
  some (xtsDec (key.take (key.length / 2)) (key.drop (key.length / 2)) (bIv d) inp, [])

/-- CMAC generation. -/
def cmacGenFn : BulkFn := fun key d inp =>
  let t := (cmac key inp).take (bTagLen d)
  some (t, t)

/-- CMAC verification. -/
def cmacVerFn : BulkFn := fun key d inp =>
  if (cmac key (inp.take (bTextLen d))).take (bTagLen d) = sub inp (bTextLen d) (bTagLen d) then some ([], []) else none

/-- CTR_XCRYPT. -/
def execCtrXcrypt (k : Fin 64) (i : Nat) (s : State) : Host.Outcome State Fault Refusal := .next (bulkRun s k i 0x01 ctrFn)
/-- GCM_ENC. -/
def execGcmEnc (k : Fin 64) (i : Nat) (s : State) : Host.Outcome State Fault Refusal := .next (bulkRun s k i 0x02 gcmEncFn)
/-- GCM_DEC. -/
def execGcmDec (k : Fin 64) (i : Nat) (s : State) : Host.Outcome State Fault Refusal := .next (bulkRun s k i 0x03 gcmDecFn)
/-- GMAC_GEN. -/
def execGmacGen (k : Fin 64) (i : Nat) (s : State) : Host.Outcome State Fault Refusal := .next (bulkRun s k i 0x04 gmacGenFn)
/-- GMAC_VER. -/
def execGmacVer (k : Fin 64) (i : Nat) (s : State) : Host.Outcome State Fault Refusal := .next (bulkRun s k i 0x05 gmacVerFn)
/-- CCM_ENC. -/
def execCcmEnc (k : Fin 64) (i : Nat) (s : State) : Host.Outcome State Fault Refusal := .next (bulkRun s k i 0x06 ccmEncFn)
/-- CCM_DEC. -/
def execCcmDec (k : Fin 64) (i : Nat) (s : State) : Host.Outcome State Fault Refusal := .next (bulkRun s k i 0x07 ccmDecFn)
/-- XTS_ENC. -/
def execXtsEnc (k : Fin 64) (i : Nat) (s : State) : Host.Outcome State Fault Refusal := .next (bulkRun s k i 0x08 xtsEncFn)
/-- XTS_DEC. -/
def execXtsDec (k : Fin 64) (i : Nat) (s : State) : Host.Outcome State Fault Refusal := .next (bulkRun s k i 0x09 xtsDecFn)
/-- CMAC_GEN. -/
def execCmacGen (k : Fin 64) (i : Nat) (s : State) : Host.Outcome State Fault Refusal := .next (bulkRun s k i 0x0A cmacGenFn)
/-- CMAC_VER. -/
def execCmacVer (k : Fin 64) (i : Nat) (s : State) : Host.Outcome State Fault Refusal := .next (bulkRun s k i 0x0B cmacVerFn)

end Sys2Proof.Machine
end

