-- ==== Sys2Proof/Machine/HostPort.lean ====
section
/-! DEFINITION. The host port: register reads and writes, error responses, latched pairs (R44, R45, R86, R534 to R537, R541, R542). -/

namespace Sys2Proof.Machine

/-- Writes whose effect a Calends places: in the time from a Calends instant to the end of its commit they belong to the tick that
begins (R12, R81). The doorbells, the aborts and the kill registers act at once. -/
def landsLate (k : RegKind) (off : Nat) : Bool :=
  match k with
  | .cal => true
  | .hold => true
  | .act => decide (off < 0x20000) && !(decide (0x1000 ≤ off) && decide (off < 0x1800)) && decide (off ≠ 0x13C00) && decide (off ≠ 0x13C04)
  | _ => false

/-- A write to a register that exists, in a state that accepts it: put now, refused now, or held while a commit is due.
DESIGN CHOICE (log entry 165). -/
def takeWrite (s : State) (r : RegRow) (off val : Nat) : State :=
  if s.tick.due && landsLate r.kind off then
    match (if r.kind = .cal then refuseWrite s off (val &&& r.mask) else none) with
    | some t => t
    | none => { s with lateWr := s.lateWr ++ [(off, val)] }
  else putReg s r off val

/-- A register write at the host port (R534, R535, R537): events clear and interrupt enables are written in every state that reads
current values; `same` are event bits that set at the same engine clock (R542). -/
def writeReg (s : State) (off val be : Nat) (priv : Bool) (same : Nat) : State :=
  regAccess s true off be priv (fun s =>
    let s := hostOk s 0
    match regRow off with
    | none => s
    | some r =>
      if r.kind = .evt then s.w1c off (val &&& r.mask) same
      else if r.kind = .irqEn then s.putWr off (val &&& r.mask)
      else if hostShut s then s
      else takeWrite s r off val)

/-! ### Reads -/

/-- The low registers of the latched pairs with their high ones (R536). -/
def latchPairs : List (Nat × Nat) := [(0x30104, 0x30108), (0x3711C, 0x37120), (0x39108, 0x3910C), (0x39308, 0x3930C)]

/-- The high half of a latched pair now (R74, R270, R373, R447). -/
def liveHigh (s : State) (hi : Nat) : Nat :=
  if hi = 0x30108 then s.count / 2 ^ 32
  else if hi = 0x37120 then s.stw 0x37120
  else if hi = 0x3910C then s.alm.time / 2 ^ 32
  else nextGrant s / 2 ^ 32

/-- Load the latch that belongs to the reader's kind of access (R536). -/
def loadLatch (s : State) (hi : Nat) (priv : Bool) : State :=
  let v := liveHigh s hi
  { s with host := if priv then { s.host with latchPriv := tins s.host.latchPriv hi v }
                   else { s.host with latch := tins s.host.latch hi v } }

/-- The registers with a rule of their own that read what was written: CH_SHARE_n, CH_ROLE_n, SLP_IMG (R87, R206, R532). -/
def actReads (off : Nat) : Bool :=
  (decide (0x140 ≤ off) && decide (off < 0x180)) || (decide (0x3000 ≤ off) && decide (off < 0x3040)) || decide (off = 0x13D00)

/-- What a read returns: a register with a write held since the Calends instant reads what was written (R12, R81). -/
def lateRead (s : State) (off : Nat) (priv : Bool) : Nat :=
  match (s.lateWr.filter (fun w => decide (w.1 = off))).getLast?, regRow off with
  | some w, some r =>
    if landsLate r.kind off = false ∨ (r.kind = .act ∧ actReads off = false) then regRead s off priv else w.2 &&& r.mask
  | _, _ => regRead s off priv

/-- A register read at the host port (R534, R536, R537). -/
def readReg (s : State) (off be : Nat) (priv : Bool) : State :=
  regAccess s false off be priv (fun s =>
    let s1 := hostOk s (lateRead s off priv)
    match latchPairs.find? (fun p => decide (p.1 = off)) with
    | some p => loadLatch s1 p.2 priv
    | none => s1)

/-! ### Commands -/

/-- REGISTER_WRITE. -/
def execRegisterWrite (off : BitVec 18) (val : Word) (be : BitVec 4) (priv : Bool) (s : State) : Host.Outcome State Fault Refusal :=
  .next (writeReg s off.toNat val.toNat be.toNat priv 0)
/-- EVENT_REGISTER_CLEAR. -/
def execEventRegisterClear (off : BitVec 18) (val : Word) (be : BitVec 4) (priv : Bool) (same : Word) (s : State) :
    Host.Outcome State Fault Refusal :=
  .next (writeReg s off.toNat val.toNat be.toNat priv same.toNat)
/-- HOST_ACCESS_ERROR: an access, answered with the error response where R44, R45, R534 or R537 says so. -/
def execHostAccessError (write : Bool) (off : BitVec 18) (val : Word) (be : BitVec 4) (priv : Bool) (s : State) :
    Host.Outcome State Fault Refusal :=
  .next (if write then writeReg s off.toNat val.toNat be.toNat priv 0 else readReg s off.toNat be.toNat priv)
/-- CALENDS_LO_READ. -/
def execCalendsLoRead (priv : Bool) (s : State) : Host.Outcome State Fault Refusal := .next (readReg s 0x30104 15 priv)
/-- INTEG_LAST_LO_READ. -/
def execIntegLastLoRead (priv : Bool) (s : State) : Host.Outcome State Fault Refusal := .next (readReg s 0x3711C 15 priv)
/-- ALM_TIME_LO_READ. -/
def execAlmTimeLoRead (priv : Bool) (s : State) : Host.Outcome State Fault Refusal := .next (readReg s 0x39108 15 priv)
/-- JF_GRANT_LO_READ. -/
def execJfGrantLoRead (priv : Bool) (s : State) : Host.Outcome State Fault Refusal := .next (readReg s 0x39308 15 priv)
/-- RGN_STAGE: a write to RGN_CTL_n. -/
def execRgnStage (n : Fin 64) (val : Word) (priv : Bool) (s : State) : Host.Outcome State Fault Refusal :=
  .next (writeReg s (0x10014 + 32 * n) val.toNat 15 priv 0)
/-- KID_STAGE: a write to KID_CTL_k. -/
def execKidStage (k : Fin 256) (val : Word) (priv : Bool) (s : State) : Host.Outcome State Fault Refusal :=
  .next (writeReg s (0x11018 + 32 * k) val.toNat 15 priv 0)
/-- TREE_STAGE: a write to TREE_CTL_t. -/
def execTreeStage (n : Fin 16) (val : Word) (priv : Bool) (s : State) : Host.Outcome State Fault Refusal :=
  .next (writeReg s (0x13110 + 32 * n) val.toNat 15 priv 0)
/-- EQX_STAGE: a write to EQX_CTL_j. -/
def execEqxStage (j : Fin 4) (val : Word) (priv : Bool) (s : State) : Host.Outcome State Fault Refusal :=
  .next (writeReg s (0x13400 + 32 * j) val.toNat 15 priv 0)
/-- TIER_STAGE: a write to TIER_CTL_t. -/
def execTierStage (n : Fin 256) (val : Word) (priv : Bool) (s : State) : Host.Outcome State Fault Refusal :=
  .next (writeReg s (0x8008 + 64 * n) val.toNat 15 priv 0)
/-- ALMANAC_ENABLE: a write to ALM_CTL. -/
def execAlmanacEnable (val : Word) (priv : Bool) (s : State) : Host.Outcome State Fault Refusal :=
  .next (writeReg s 0x1380C val.toNat 15 priv 0)
/-- FAILBACK: a write to LINK_CMD_p. -/
def execFailback (p : Fin 2) (val : Word) (priv : Bool) (s : State) : Host.Outcome State Fault Refusal :=
  .next (writeReg s (0x401C + 64 * p) val.toNat 15 priv 0)

end Sys2Proof.Machine
end

