-- ==== Sys2Proof/Machine/Dispatch.lean ====
section
/-! DEFINITION. The dispatch: one arm per command, each one direct call of that command's meaning. -/

namespace Sys2Proof.Machine

/-- The effect of a command on everything but the queue of waiting commands. -/
def exec (i : Instr) (s : State) : Host.Outcome State Fault Refusal :=
  match i with
  | .tickEdge t => Sys2Proof.Machine.execTickEdge t s
  | .earlyEdgeDrainEnd t => Sys2Proof.Machine.execEarlyEdgeDrainEnd t s
  | .tickKeeperCalends => Sys2Proof.Machine.execTickKeeperCalends s
  | .firstCalendsAfterP2 byEdge => Sys2Proof.Machine.execFirstCalendsAfterP2 byEdge s
  | .calendsCommit => Sys2Proof.Machine.execCalendsCommit s
  | .ledgerHoldExpiry => Sys2Proof.Machine.execLedgerHoldExpiry s
  | .admissionClose => Sys2Proof.Machine.execAdmissionClose s
  | .admitDescriptor owner t => Sys2Proof.Machine.execAdmitDescriptor owner t s
  | .overrunSelfTest ch pass => Sys2Proof.Machine.execOverrunSelfTest ch pass s
  | .spareSelfTest pass => Sys2Proof.Machine.execSpareSelfTest pass s
  | .sqDoorbell k val => Sys2Proof.Machine.execSqDoorbell k val s
  | .cqDoorbell k val => Sys2Proof.Machine.execCqDoorbell k val s
  | .ringAbortRequest k val => Sys2Proof.Machine.execRingAbortRequest k val s
  | .abortDecision k => Sys2Proof.Machine.execAbortDecision k s
  | .completionWrite k => Sys2Proof.Machine.execCompletionWrite k s
  | .sourceEventWrite cq => Sys2Proof.Machine.execSourceEventWrite cq s
  | .dmaErrorResponse k ix kind poison => Sys2Proof.Machine.execDmaErrorResponse k ix kind poison s
  | .registerWrite off val be priv => Sys2Proof.Machine.execRegisterWrite off val be priv s
  | .hostAccessError write off val be priv => Sys2Proof.Machine.execHostAccessError write off val be priv s
  | .eventRegisterClear off val be priv same => Sys2Proof.Machine.execEventRegisterClear off val be priv same s
  | .calendsLoRead priv => Sys2Proof.Machine.execCalendsLoRead priv s
  | .integLastLoRead priv => Sys2Proof.Machine.execIntegLastLoRead priv s
  | .almTimeLoRead priv => Sys2Proof.Machine.execAlmTimeLoRead priv s
  | .jfGrantLoRead priv => Sys2Proof.Machine.execJfGrantLoRead priv s
  | .rgnStage n val priv => Sys2Proof.Machine.execRgnStage n val priv s
  | .kidStage k val priv => Sys2Proof.Machine.execKidStage k val priv s
  | .treeStage n val priv => Sys2Proof.Machine.execTreeStage n val priv s
  | .eqxStage j val priv => Sys2Proof.Machine.execEqxStage j val priv s
  | .tierStage n val priv => Sys2Proof.Machine.execTierStage n val priv s
  | .almanacEnable val priv => Sys2Proof.Machine.execAlmanacEnable val priv s
  | .failback p val priv => Sys2Proof.Machine.execFailback p val priv s
  | .killNBurn val readback priv => Sys2Proof.Machine.execKillNBurn val readback priv s
  | .killArm priv => Sys2Proof.Machine.execKillArm priv s
  | .kill priv => Sys2Proof.Machine.execKill priv s
  | .killDisarm val priv => Sys2Proof.Machine.execKillDisarm val priv s
  | .killArmLapse => Sys2Proof.Machine.execKillArmLapse s
  | .sleepRequest val priv => Sys2Proof.Machine.execSleepRequest val priv s
  | .sleepEntry => Sys2Proof.Machine.execSleepEntry s
  | .wake report => Sys2Proof.Machine.execWake report s
  | .nop k ix => Sys2Proof.Machine.execNop k ix s
  | .ctrXcrypt k ix => Sys2Proof.Machine.execCtrXcrypt k ix s
  | .gcmEnc k ix => Sys2Proof.Machine.execGcmEnc k ix s
  | .gcmDec k ix => Sys2Proof.Machine.execGcmDec k ix s
  | .gmacGen k ix => Sys2Proof.Machine.execGmacGen k ix s
  | .gmacVer k ix => Sys2Proof.Machine.execGmacVer k ix s
  | .ccmEnc k ix => Sys2Proof.Machine.execCcmEnc k ix s
  | .ccmDec k ix => Sys2Proof.Machine.execCcmDec k ix s
  | .xtsEnc k ix => Sys2Proof.Machine.execXtsEnc k ix s
  | .xtsDec k ix => Sys2Proof.Machine.execXtsDec k ix s
  | .cmacGen k ix => Sys2Proof.Machine.execCmacGen k ix s
  | .cmacVer k ix => Sys2Proof.Machine.execCmacVer k ix s
  | .txscSet k ix => Sys2Proof.Machine.execTxscSet k ix s
  | .rxscSet k ix => Sys2Proof.Machine.execRxscSet k ix s
  | .saInstall k ix => Sys2Proof.Machine.execSaInstall k ix s
  | .saActivate k ix => Sys2Proof.Machine.execSaActivate k ix s
  | .saRetire k ix => Sys2Proof.Machine.execSaRetire k ix s
  | .saUpdatePn k ix => Sys2Proof.Machine.execSaUpdatePn k ix s
  | .saRead k ix => Sys2Proof.Machine.execSaRead k ix s
  | .saOverlapEnd p => Sys2Proof.Machine.execSaOverlapEnd p s
  | .saRevalidate p => Sys2Proof.Machine.execSaRevalidate p s
  | .clientTxFrame p frame => Sys2Proof.Machine.execClientTxFrame p frame s
  | .lineRxFrame p frame err => Sys2Proof.Machine.execLineRxFrame p frame err s
  | .heartbeatSend p => Sys2Proof.Machine.execHeartbeatSend p s
  | .heartbeatIntervalEnd p => Sys2Proof.Machine.execHeartbeatIntervalEnd p s
  | .phyDown p => Sys2Proof.Machine.execPhyDown p s
  | .phyUp p => Sys2Proof.Machine.execPhyUp p s
  | .failoverFlush p => Sys2Proof.Machine.execFailoverFlush p s
  | .pathRecovered p => Sys2Proof.Machine.execPathRecovered p s
  | .pathReturnComplete p => Sys2Proof.Machine.execPathReturnComplete p s
  | .holdFlush p => Sys2Proof.Machine.execHoldFlush p s
  | .uplink k ix => Sys2Proof.Machine.execUplink k ix s
  | .downlink k ix => Sys2Proof.Machine.execDownlink k ix s
  | .convStart k ix => Sys2Proof.Machine.execConvStart k ix s
  | .convEnd k ix => Sys2Proof.Machine.execConvEnd k ix s
  | .convQuery k ix => Sys2Proof.Machine.execConvQuery k ix s
  | .conversationStep ch t => Sys2Proof.Machine.execConversationStep ch t s
  | .convTimeout ch id => Sys2Proof.Machine.execConvTimeout ch id s
  | .convExpire ch id => Sys2Proof.Machine.execConvExpire ch id s
  | .engineNop ch e => Sys2Proof.Machine.execEngineNop ch e s
  | .engineAdd ch e => Sys2Proof.Machine.execEngineAdd ch e s
  | .engineSub ch e => Sys2Proof.Machine.execEngineSub ch e s
  | .engineAnd ch e => Sys2Proof.Machine.execEngineAnd ch e s
  | .engineOr ch e => Sys2Proof.Machine.execEngineOr ch e s
  | .engineXor ch e => Sys2Proof.Machine.execEngineXor ch e s
  | .engineShl ch e => Sys2Proof.Machine.execEngineShl ch e s
  | .engineShr ch e => Sys2Proof.Machine.execEngineShr ch e s
  | .engineAddi ch e => Sys2Proof.Machine.execEngineAddi ch e s
  | .engineLui ch e => Sys2Proof.Machine.execEngineLui ch e s
  | .engineOri ch e => Sys2Proof.Machine.execEngineOri ch e s
  | .engineBeq ch e => Sys2Proof.Machine.execEngineBeq ch e s
  | .engineBne ch e => Sys2Proof.Machine.execEngineBne ch e s
  | .engineBltu ch e => Sys2Proof.Machine.execEngineBltu ch e s
  | .engineBgeu ch e => Sys2Proof.Machine.execEngineBgeu ch e s
  | .engineJmp ch e => Sys2Proof.Machine.execEngineJmp ch e s
  | .engineLde ch e => Sys2Proof.Machine.execEngineLde ch e s
  | .engineSte ch e => Sys2Proof.Machine.execEngineSte ch e s
  | .engineLdi ch e => Sys2Proof.Machine.execEngineLdi ch e s
  | .engineSto ch e => Sys2Proof.Machine.execEngineSto ch e s
  | .engineHdr ch e => Sys2Proof.Machine.execEngineHdr ch e s
  | .engineRand ch e => Sys2Proof.Machine.execEngineRand ch e s
  | .engineChk ch e => Sys2Proof.Machine.execEngineChk ch e s
  | .engineNkey ch e => Sys2Proof.Machine.execEngineNkey ch e s
  | .engineKout ch e => Sys2Proof.Machine.execEngineKout ch e s
  | .engineSend ch e => Sys2Proof.Machine.execEngineSend ch e s
  | .engineWait ch e => Sys2Proof.Machine.execEngineWait ch e s
  | .engineSync ch e => Sys2Proof.Machine.execEngineSync ch e s
  | .enginePost ch e => Sys2Proof.Machine.execEnginePost ch e s
  | .engineEnd ch e => Sys2Proof.Machine.execEngineEnd ch e s
  | .engineRtry ch e => Sys2Proof.Machine.execEngineRtry ch e s
  | .generate k ix => Sys2Proof.Machine.execGenerate k ix s
  | .derive k ix => Sys2Proof.Machine.execDerive k ix s
  | .importWrapped k ix => Sys2Proof.Machine.execImportWrapped k ix s
  | .importClear k ix => Sys2Proof.Machine.execImportClear k ix s
  | .wrap k ix => Sys2Proof.Machine.execWrap k ix s
  | .persist k ix => Sys2Proof.Machine.execPersist k ix s
  | .invalidate k ix => Sys2Proof.Machine.execInvalidate k ix s
  | .erase k ix => Sys2Proof.Machine.execErase k ix s
  | .setLimit k ix => Sys2Proof.Machine.execSetLimit k ix s
  | .deliver k ix => Sys2Proof.Machine.execDeliver k ix s
  | .query k ix => Sys2Proof.Machine.execQuery k ix s
  | .attest k ix => Sys2Proof.Machine.execAttest k ix s
  | .opbankWrite k ix readback => Sys2Proof.Machine.execOpbankWrite k ix readback s
  | .provisionClose k ix => Sys2Proof.Machine.execProvisionClose k ix s
  | .octaveSweepVisit parityOk lastUs => Sys2Proof.Machine.execOctaveSweepVisit parityOk lastUs s
  | .nmsProfileLoad k ix => Sys2Proof.Machine.execNmsProfileLoad k ix s
  | .nmsUcodeLoad k ix => Sys2Proof.Machine.execNmsUcodeLoad k ix s
  | .nmsUpdWrite k ix fail => Sys2Proof.Machine.execNmsUpdWrite k ix fail s
  | .nmsUpdActivate k ix ok => Sys2Proof.Machine.execNmsUpdActivate k ix ok s
  | .nmsUpdConfirm k ix => Sys2Proof.Machine.execNmsUpdConfirm k ix s
  | .nmsRollback k ix => Sys2Proof.Machine.execNmsRollback k ix s
  | .nmsKeyfuse k ix readback => Sys2Proof.Machine.execNmsKeyfuse k ix readback s
  | .nmsLogRead k ix => Sys2Proof.Machine.execNmsLogRead k ix s
  | .nmsLogNote k ix => Sys2Proof.Machine.execNmsLogNote k ix s
  | .nmsStats k ix => Sys2Proof.Machine.execNmsStats k ix s
  | .logFlush => Sys2Proof.Machine.execLogFlush s
  | .vigilWarn sensor reading => Sys2Proof.Machine.execVigilWarn sensor reading s
  | .jfFormat k ix => Sys2Proof.Machine.execJfFormat k ix s
  | .jfSync k ix => Sys2Proof.Machine.execJfSync k ix s
  | .jfScrub k ix => Sys2Proof.Machine.execJfScrub k ix s
  | .pageProgram => Sys2Proof.Machine.execPageProgram s
  | .pageProgramDone ok => Sys2Proof.Machine.execPageProgramDone ok s
  | .blockRotation => Sys2Proof.Machine.execBlockRotation s
  | .snapshotResnapshot => Sys2Proof.Machine.execSnapshotResnapshot s
  | .scrubRead ecc => Sys2Proof.Machine.execScrubRead ecc s
  | .journalNoAnswer => Sys2Proof.Machine.execJournalNoAnswer s
  | .snapshotSweep => Sys2Proof.Machine.execSnapshotSweep s
  | .krKeyload k ix => Sys2Proof.Machine.execKrKeyload k ix s
  | .krAssign k ix => Sys2Proof.Machine.execKrAssign k ix s
  | .krQuery k ix => Sys2Proof.Machine.execKrQuery k ix s
  | .beacon => Sys2Proof.Machine.execBeacon s
  | .claim => Sys2Proof.Machine.execClaim s
  | .change => Sys2Proof.Machine.execChange s
  | .entry => Sys2Proof.Machine.execEntry s
  | .moveEnd => Sys2Proof.Machine.execMoveEnd s
  | .map => Sys2Proof.Machine.execMap s
  | .ringMessageForward port msg crcOk => Sys2Proof.Machine.execRingMessageForward port msg crcOk s
  | .krysaPortDown port => Sys2Proof.Machine.execKrysaPortDown port s
  | .claimTimeout => Sys2Proof.Machine.execClaimTimeout s
  | .ownershipLeaseExpiry => Sys2Proof.Machine.execOwnershipLeaseExpiry s
  | .memoryRead addr cls tag => Sys2Proof.Machine.execMemoryRead addr cls tag s
  | .memoryWrite addr cls data be tag => Sys2Proof.Machine.execMemoryWrite addr cls data be tag s
  | .dramDataReturn n ret => Sys2Proof.Machine.execDramDataReturn n ret s
  | .cacheEviction ch => Sys2Proof.Machine.execCacheEviction ch s
  | .regionInitPass n => Sys2Proof.Machine.execRegionInitPass n s
  | .markedWriteback ch => Sys2Proof.Machine.execMarkedWriteback ch s
  | .eqxGroupConvert j ret => Sys2Proof.Machine.execEqxGroupConvert j ret s
  | .eqxRebuildWrite j => Sys2Proof.Machine.execEqxRebuildWrite j s
  | .datapathFault ch cause => Sys2Proof.Machine.execDatapathFault ch cause s
  | .powerTokenGrant pass => Sys2Proof.Machine.execPowerTokenGrant pass s
  | .unitWedge unit => Sys2Proof.Machine.execUnitWedge unit s
  | .alarm cause eraseOk => Sys2Proof.Machine.execAlarm cause eraseOk s
  | .alarmCountStep ok => Sys2Proof.Machine.execAlarmCountStep ok s
  | .outputScrub => Sys2Proof.Machine.execOutputScrub s
  | .powerFailShutdown => Sys2Proof.Machine.execPowerFailShutdown s
  | .sxRstNAssert por => Sys2Proof.Machine.execSxRstNAssert por s
  | .p0 report => Sys2Proof.Machine.execP0 report s
  | .p1 report => Sys2Proof.Machine.execP1 report s
  | .p2 report => Sys2Proof.Machine.execP2 report s
  | .p3 report => Sys2Proof.Machine.execP3 report s
  | .p4 report => Sys2Proof.Machine.execP4 report s
  | .p5 report => Sys2Proof.Machine.execP5 report s
  | .idcode => Sys2Proof.Machine.execIdcode s
  | .dbgStatus => Sys2Proof.Machine.execDbgStatus s
  | .dbgChallenge => Sys2Proof.Machine.execDbgChallenge s
  | .dbgResponse resp => Sys2Proof.Machine.execDbgResponse resp s
  | .nmsDap => Sys2Proof.Machine.execNmsDap s
  | .scan => Sys2Proof.Machine.execScan s
  | .bypass code tdi => Sys2Proof.Machine.execBypass s code tdi
  | .vigilWarnClear sensor reading => Sys2Proof.Machine.execVigilWarnClear sensor reading s
  | .krysaPortUp port => Sys2Proof.Machine.execKrysaPortUp port s
  | .blockEraseDone ok => Sys2Proof.Machine.execBlockEraseDone ok s
  | .lineTxReady p ready => Sys2Proof.Machine.execLineTxReady p ready s

end Sys2Proof.Machine
end

