-- ==== Sys2Proof/Machine/Step.lean ====
section
/-! DEFINITION. One step of the block: the command at the front of the queue, or none. -/

namespace Sys2Proof.Machine

/-- Take the command at the front of the queue and run its meaning on the rest. On an empty queue the block idles: time passes
only as commands carry it. DESIGN CHOICE (log entry 1). DESIGN CHOICE (log entry 127). -/
def step (s : State) : Host.Outcome State Fault Refusal :=
  match s.pending with
  | [] => .next s
  | c :: rest => exec c { s with pending := rest }

/-- s with the command that a table word spells put at the front of its queue. No row of the table has bits, so no word
spells a command and s is unchanged. -/
def State.withFetchWord (s : State) (nbits w : Nat) : State :=
  match Sys2Proof.decodeTableWord nbits w with
  | some c => { s with pending := c :: s.pending }
  | none => s

end Sys2Proof.Machine
end

