-- ==== Sys2Proof/WellFormed.lean ====
section
/-! DEFINITION. Which commands can occur at the block's interfaces: the ring of a descriptor's opcode and the widths that the
operand types leave open. The machine gives every command an effect, ill-formed or not. -/

namespace Sys2Proof

/-- An index of a ring of a group of submission rings (R89, R92, R103). -/
def itemAt (lo hi : Nat) (k : Fin 64) (i : Nat) : Bool := decide (lo ≤ k.val) && decide (k.val < hi) && decide (i < 65536)

/-- A Vigil alarm carries a code of R486. -/
def alarmWf : AlarmCause → Bool
  | .vigil code => decide (code.val ≠ 0)
  | .parity => true
  | .stall => true

/-- DRAM errors are reported for whole lines of the 40-bit address space (R49). -/
def DramReturn.wf (r : DramReturn) : Bool := r.errs.all (fun e => decide (e.1 % 64 = 0) && decide (e.1 < 2 ^ 40))

/-- The command can occur. -/
def Instr.wf : Instr → Bool
  | .tickEdge _ => true
  | .earlyEdgeDrainEnd _ => true
  | .tickKeeperCalends => true
  | .firstCalendsAfterP2 _ => true
  | .calendsCommit => true
  | .ledgerHoldExpiry => true
  | .admissionClose => true
  | .admitDescriptor _ _ => true
  | .overrunSelfTest _ _ => true
  | .spareSelfTest _ => true
  | .sqDoorbell _ _ => true
  | .cqDoorbell _ _ => true
  | .ringAbortRequest _ _ => true
  | .abortDecision _ => true
  | .completionWrite _ => true
  | .sourceEventWrite _ => true
  | .dmaErrorResponse k ix _ _ => itemAt 0 64 k ix
  | .registerWrite _ _ _ _ => true
  | .hostAccessError _ _ _ _ _ => true
  | .eventRegisterClear _ _ _ _ _ => true
  | .calendsLoRead _ => true
  | .integLastLoRead _ => true
  | .almTimeLoRead _ => true
  | .jfGrantLoRead _ => true
  | .rgnStage _ _ _ => true
  | .kidStage _ _ _ => true
  | .treeStage _ _ _ => true
  | .eqxStage _ _ _ => true
  | .tierStage _ _ _ => true
  | .almanacEnable _ _ => true
  | .failback _ _ _ => true
  | .killNBurn _ _ _ => true
  | .killArm _ => true
  | .kill _ => true
  | .killDisarm _ _ => true
  | .killArmLapse => true
  | .sleepRequest _ _ => true
  | .sleepEntry => true
  | .wake _ => true
  | .nop k ix => itemAt 0 64 k ix
  | .ctrXcrypt k ix => itemAt 0 48 k ix
  | .gcmEnc k ix => itemAt 0 48 k ix
  | .gcmDec k ix => itemAt 0 48 k ix
  | .gmacGen k ix => itemAt 0 48 k ix
  | .gmacVer k ix => itemAt 0 48 k ix
  | .ccmEnc k ix => itemAt 0 48 k ix
  | .ccmDec k ix => itemAt 0 48 k ix
  | .xtsEnc k ix => itemAt 0 48 k ix
  | .xtsDec k ix => itemAt 0 48 k ix
  | .cmacGen k ix => itemAt 0 48 k ix
  | .cmacVer k ix => itemAt 0 48 k ix
  | .txscSet k ix => itemAt 0 48 k ix
  | .rxscSet k ix => itemAt 0 48 k ix
  | .saInstall k ix => itemAt 0 48 k ix
  | .saActivate k ix => itemAt 0 48 k ix
  | .saRetire k ix => itemAt 0 48 k ix
  | .saUpdatePn k ix => itemAt 0 48 k ix
  | .saRead k ix => itemAt 0 48 k ix
  | .saOverlapEnd _ => true
  | .saRevalidate _ => true
  | .clientTxFrame _ frame => decide (14 ≤ frame.length)
  | .lineRxFrame _ frame _ => decide (14 ≤ frame.length)
  | .heartbeatSend _ => true
  | .heartbeatIntervalEnd _ => true
  | .phyDown _ => true
  | .phyUp _ => true
  | .failoverFlush _ => true
  | .pathRecovered _ => true
  | .pathReturnComplete _ => true
  | .holdFlush _ => true
  | .uplink k ix => itemAt 0 48 k ix
  | .downlink k ix => itemAt 0 48 k ix
  | .convStart k ix => itemAt 0 48 k ix
  | .convEnd k ix => itemAt 0 48 k ix
  | .convQuery k ix => itemAt 0 48 k ix
  | .conversationStep _ _ => true
  | .convTimeout _ _ => true
  | .convExpire _ _ => true
  | .engineNop _ _ => true
  | .engineAdd _ _ => true
  | .engineSub _ _ => true
  | .engineAnd _ _ => true
  | .engineOr _ _ => true
  | .engineXor _ _ => true
  | .engineShl _ _ => true
  | .engineShr _ _ => true
  | .engineAddi _ _ => true
  | .engineLui _ _ => true
  | .engineOri _ _ => true
  | .engineBeq _ _ => true
  | .engineBne _ _ => true
  | .engineBltu _ _ => true
  | .engineBgeu _ _ => true
  | .engineJmp _ _ => true
  | .engineLde _ _ => true
  | .engineSte _ _ => true
  | .engineLdi _ _ => true
  | .engineSto _ _ => true
  | .engineHdr _ _ => true
  | .engineRand _ _ => true
  | .engineChk _ _ => true
  | .engineNkey _ _ => true
  | .engineKout _ _ => true
  | .engineSend _ _ => true
  | .engineWait _ _ => true
  | .engineSync _ _ => true
  | .enginePost _ _ => true
  | .engineEnd _ _ => true
  | .engineRtry _ _ => true
  | .generate k ix => itemAt 48 56 k ix
  | .derive k ix => itemAt 48 56 k ix
  | .importWrapped k ix => itemAt 48 56 k ix
  | .importClear k ix => itemAt 48 56 k ix
  | .wrap k ix => itemAt 48 56 k ix
  | .persist k ix => itemAt 48 56 k ix
  | .invalidate k ix => itemAt 48 56 k ix
  | .erase k ix => itemAt 48 56 k ix
  | .setLimit k ix => itemAt 48 56 k ix
  | .deliver k ix => itemAt 48 56 k ix
  | .query k ix => itemAt 48 56 k ix
  | .attest k ix => itemAt 48 56 k ix
  | .opbankWrite k ix _ => itemAt 48 56 k ix
  | .provisionClose k ix => itemAt 48 56 k ix
  | .octaveSweepVisit _ _ => true
  | .nmsProfileLoad k ix => itemAt 56 60 k ix
  | .nmsUcodeLoad k ix => itemAt 56 60 k ix
  | .nmsUpdWrite k ix _ => itemAt 56 60 k ix
  | .nmsUpdActivate k ix _ => itemAt 56 60 k ix
  | .nmsUpdConfirm k ix => itemAt 56 60 k ix
  | .nmsRollback k ix => itemAt 56 60 k ix
  | .nmsKeyfuse k ix _ => itemAt 56 60 k ix
  | .nmsLogRead k ix => itemAt 56 60 k ix
  | .nmsLogNote k ix => itemAt 56 60 k ix
  | .nmsStats k ix => itemAt 56 60 k ix
  | .logFlush => true
  | .vigilWarn _ _ => true
  | .jfFormat k ix => itemAt 60 62 k ix
  | .jfSync k ix => itemAt 60 62 k ix
  | .jfScrub k ix => itemAt 60 62 k ix
  | .pageProgram => true
  | .pageProgramDone _ => true
  | .blockRotation => true
  | .snapshotResnapshot => true
  | .scrubRead ecc => decide (ecc ≤ 3)
  | .journalNoAnswer => true
  | .snapshotSweep => true
  | .krKeyload k ix => itemAt 62 64 k ix
  | .krAssign k ix => itemAt 62 64 k ix
  | .krQuery k ix => itemAt 62 64 k ix
  | .beacon => true
  | .claim => true
  | .change => true
  | .entry => true
  | .moveEnd => true
  | .map => true
  | .ringMessageForward _ msg _ => decide (31 ≤ msg.length) && decide (msg.length ≤ 1054)
  | .krysaPortDown _ => true
  | .claimTimeout => true
  | .ownershipLeaseExpiry => true
  | .memoryRead _ _ _ => true
  | .memoryWrite _ _ _ _ _ => true
  | .dramDataReturn _ ret => ret.wf
  | .cacheEviction _ => true
  | .regionInitPass _ => true
  | .markedWriteback _ => true
  | .eqxGroupConvert _ ret => ret.wf
  | .eqxRebuildWrite _ => true
  | .datapathFault _ cause => decide (cause ≠ 0)
  | .powerTokenGrant _ => true
  | .unitWedge _ => true
  | .alarm cause _ => alarmWf cause
  | .alarmCountStep _ => true
  | .outputScrub => true
  | .powerFailShutdown => true
  | .sxRstNAssert _ => true
  | .p0 _ => true
  | .p1 _ => true
  | .p2 _ => true
  | .p3 _ => true
  | .p4 _ => true
  | .p5 _ => true
  | .idcode => true
  | .dbgStatus => true
  | .dbgChallenge => true
  | .dbgResponse resp => decide (resp.length = 16)
  | .nmsDap => true
  | .scan => true
  | .bypass code _ => !([0x01, 0x10, 0x11, 0x12, 0x20, 0x30].contains code.toNat)
  | .vigilWarnClear _ _ => true
  | .krysaPortUp _ => true
  | .blockEraseDone _ => true
  | .lineTxReady _ _ => true

end Sys2Proof
end

