-- ==== Sys2Proof/Safety.lean ====
section
/-! DEFINITION. What counts as a safe run: every step answers a next state. -/

namespace Sys2Proof.Machine

/-- Memory is in its canonical form: addresses strictly rising and no byte listed that reads as an unlisted one. -/
abbrev Memory.wf (s : State) : Prop := twf dramInit s.dram = true

/-- What is burned in `a` is burned in `b`: no fuse and no count of fuses goes back, and the debug fuse, which no command of the
table burns, is as it was. -/
structure FusesKept (a b : Fuses) : Prop where
  kill : a.kill = true → b.kill = true
  lock : a.lock = true → b.lock = true
  debug : b.debug = a.debug
  bankLock : a.bankLock = true → b.bankLock = true
  era : a.era ≤ b.era
  alarmCount : a.alarmCount ≤ 16 → a.alarmCount ≤ b.alarmCount ∧ b.alarmCount ≤ 16
  rollback : a.rollback ≤ b.rollback
  nms : ∀ x ∈ a.nmsWritten, x ∈ b.nmsWritten
  /-- A root bank that was written stays written, and a locked blank one stays blank. -/
  root : a.share1 ≠ [] → b.share1 ≠ []
  dead : a.share1 = [] → a.lock = true → b.share1 = []

end Sys2Proof.Machine

namespace Sys2Proof

/-- The step from s goes on. -/
def Safe (s : Machine.State) : Prop := ∃ t, Machine.step s = .next t

/-- The state after n steps, where each of them goes on. -/
def runs : Nat → Machine.State → Machine.State → Prop
  | 0, s, t => s = t
  | n + 1, s, t => ∃ u, Machine.step s = .next u ∧ runs n u t

/-- Every command that waits can occur at the block's interfaces. -/
def Machine.State.queueWf (s : Machine.State) : Bool := s.pending.all Instr.wf

end Sys2Proof
end

