-- ==== Sys2Proof/Certificates/Slice0/Obligations.lean ====
section
/-! DEFINITION. The statements for the provers, from the numbered rules of the spec. -/

open Sys2Proof Sys2Proof.Machine

namespace Sys2Proof.Claims

/-- The invariant of every step: memory in its canonical form, and an alarm count that its 16 fuses can hold (R508). -/
def Inv (s : State) : Prop := Memory.wf s ∧ s.fuses.alarmCount ≤ 16

/-- The block classes edges on TICK_IN (R68): in service, SRC = 0, no Calends due or fixed. -/
abbrev Classing (s : State) : Prop :=
  s.halted = false ∧ s.tick.countSet = true ∧ s.tick.started = true ∧ s.src1 = false ∧ s.tick.due = false ∧ s.tick.fixed = false

/-- A Calends instant is reached: its commit is due, admission is closed and a new measure of time starts. -/
def AtC (k : Tick) : Prop := k.due = true ∧ k.closed = true ∧ k.started = true ∧ k.t = 0 ∧ k.fixed = false ∧ k.early = none

end Sys2Proof.Claims

open Sys2Proof.Claims

namespace Sys2Proof.Claims

/-- The host port answers accesses, and writes take effect (R537). -/
abbrev HostUp (s : State) : Prop := hostDead s = false ∧ hostShut s = false

/-- From s to u only the rings and the answer of the host port change, and of the rings ring k alone. -/
def OnlyRing (s u : State) (k : Nat) : Prop :=
  u = { s with host := u.host, rings := u.rings } ∧ ∀ q, q ≠ k → u.ring q = s.ring q

/-- The item of SQk at index i has this final result (R109, R112). -/
def Ended (t : State) (k i status : Nat) (zero : Bool) (result : Bytes) : Prop :=
  ∃ it ∈ (t.ring k).items, it.idx = i ∧ it.res = some { status := status, zeroized := zero, result := sub result 0 16 }

/-- What the end of an item may change: rings, channel backlogs and DMA backlogs, memory with its channels, keys and counters. -/
def ItemFrame (s t : State) : Prop :=
  t = { s with rings := t.rings, part := t.part, ch := t.ch, mem := t.mem, regs := t.regs, vault := t.vault, jf := t.jf
               alm := t.alm, log := t.log, dram := t.dram, dmErr := t.dmErr, drbg := t.drbg, seq := t.seq, outs := t.outs }

/-- The item of SQk at index i gets this result from s to t, no other ring changes. -/
def ItemEnds (s t : State) (k i status : Nat) (zero : Bool) (result : Bytes) : Prop :=
  Ended t k i status zero result ∧ (∀ q, q ≠ k → t.ring q = s.ring q) ∧ ItemFrame s t

/-- An item with this opcode is open in SQk at index i; one of a channel, which no fence and no Calends instant has cut (R81, R200). -/
abbrev Open (s : State) (k i op : Nat) (it : Item) : Prop :=
  s.halted = false ∧ findItem s k i = some it ∧ dOp it.desc = op ∧ (k < 48 → s.tick.due = false ∧ itemFenced s it = false)

/-- A channel holds an open item with this opcode in SQk at index i, and may work on it. -/
abbrev Works (s : State) (k i op : Nat) (it : Item) : Prop := Open s k i op it ∧ (s.chan it.ch).fenced = false

/-- The bytes the first key of an item stands for: the copy that its channel holds (R180). -/
abbrev itemKey (s : State) (it : Item) : Bytes := copyKey s it.ch (it.keys.headD {}).slot (it.keys.headD {}).gen

/-- How a bulk item ends from s to u, whose input read left s1 and gave r, where f computes output and RESULT from the input
(R109, R115, R189, R190). -/
def BulkEnds (s s1 u : State) (k i : Nat) (it : Item) (r : DmaRead) (f : Bytes → Option (Bytes × Bytes)) : Prop :=
  match r with
  | .err => ItemEnds s u k i stMalformed (decide (it.outs ≠ [])) []
  | .poison => ItemEnds s u k i stPoison (decide (it.outs ≠ [])) []
  | .ok inp =>
    (f inp = none → ItemEnds s u k i stAuthFail (decide (it.outs ≠ [])) []) ∧
    ∀ out res s2 ok, f inp = some (out, res) → (if out = [] then s2 = s1 ∧ ok = true else hostWrite s1 (bDst it.desc) out = (s2, ok)) →
      (ok = true → ItemEnds s u k i stOK false res ∧ u.dram = s2.dram) ∧
      (ok = false → ItemEnds s u k i stMalformed (decide (it.outs ≠ [])) [])

end Sys2Proof.Claims

namespace Sys2Proof.Claims

/-- A write access of full width to this offset gets no error response (R44, R45, R534). -/
abbrev WriteTaken (off : Nat) (priv : Bool) : Prop := accessError true off 15 priv = 0

/-- Of the registers the write changed the control register alone, which keeps its writable bits, and the port answers OK. -/
def StagedAt (s u : State) (off keep : Nat) : Prop :=
  u.wr off = keep ∧ (∀ o, o ≠ off → u.wr o = s.wr o) ∧ u.regs.fc = s.regs.fc ∧ u.regs.st = s.regs.st ∧ u.host.err = false

/-- A write of Calends effect between a Calends instant and the end of its commit waits for that end (R12, R81). -/
def HeldWrite (s u : State) (off val : Nat) : Prop := u = { hostOk s 0 with lateWr := s.lateWr ++ [(off, val)] }

/-- The entry's last two bits of error code read this, and no table changed: its STAGE was refused (R233). -/
def NotStaged (s u : State) (off code : Nat) : Prop := u.stf off 2 0 = code ∧ u.mem = s.mem ∧ u.host.err = false

end Sys2Proof.Claims

namespace Sys2Proof.Claims

/-- The head of SQk is taken as this item, with an entry of its completion ring reserved (R106, R107); no other ring changes. -/
def Took (s u : State) (k : Nat) (it : Item) : Prop :=
  u.ring k = { s.ring k with
    head := ((s.ring k).head + 1) % (s.ring k).size, fetched := none, passed := false, stalled := false, flush := (s.ring k).flush - 1
    aborted := (s.ring k).aborted.filter (fun i => decide (i ≠ (s.ring k).head))
    items := (s.ring k).items ++ [{ it with idx := (s.ring k).head, cal := s.tick.count, seq := s.seq }] } ∧
  u.ring (64 + k) = { s.ring (64 + k) with reserved := (s.ring (64 + k)).reserved + 1 } ∧
  (∀ q, q ≠ k → q ≠ 64 + k → u.ring q = s.ring q) ∧ u.seq = s.seq + 1

/-- The head of SQk, which was read already, is descriptor d, and can be considered: not aborted, nothing to flush, no ORDER to
wait for, and a free completion entry. -/
abbrev HeadReady (s : State) (k : Nat) (d : Bytes) : Prop :=
  s.wedged 5 = false ∧ ringLive s k = true ∧ headAborted s k = false ∧ (s.ring k).flush = 0 ∧ (s.ring k).fetched = some d ∧
    orderWaits s k d = false ∧ (s.ring k).stalled = false ∧ 0 < (s.ring (64 + k)).free

/-- The owner of unit u's rings whose turn is ring k. -/
inductive UnitTurn (s : State) : Owner → Nat → Nat → Prop
  | nms : s.nms.ready = true → 56 ≤ s.nms.rr → s.nms.rr < 60 → UnitTurn s .nms 4 s.nms.rr
  | journal : 60 ≤ s.jf.rr → s.jf.rr < 62 → UnitTurn s .journal 2 s.jf.rr
  | krysa : 62 ≤ s.krysa.rr → s.krysa.rr < 64 → UnitTurn s .krysa 3 s.krysa.rr

/-- The form of a unit's command passes (R110, R442, R468, R473). -/
abbrev UnitForm (s : State) (v k : Nat) (d : Bytes) : Prop :=
  s.wedged v = false ∧ unitBusy s v = false ∧ headerOk false d = true ∧ unitDefined k (dOp d) = true ∧ unitRsvd k (dOp d) d = true ∧
    unitBody s k (dOp d) d = true

/-- What changed from s to u beyond the rings is the turn of a unit's rings. -/
abbrev TurnPassed (s u : State) : Prop :=
  u = { s with rings := u.rings, seq := u.seq, nms := { s.nms with rr := u.nms.rr }
               jf := { s.jf with rr := u.jf.rr }, krysa := { s.krysa with rr := u.krysa.rr } }

end Sys2Proof.Claims

namespace Sys2Proof.Claims

/-- What a fence does to channel n and what it may change (R199 to R202, R266, R267). -/
def FencedNow (s u : State) (n cause : Nat) : Prop :=
  (u.chan n).fenced = true ∧ (u.chan n).cause = cause ∧ (u.chan n).faultCal = s.tick.count % 2 ^ 24 ∧ (u.chan n).powered = false ∧
  (u.chan n).bank = [] ∧ n ∉ u.boot.tokens ∧ bit (u.wr 0x3044) 0 = true ∧
  ((s.chan n).role = 4 → cause = 7 → bit (u.wr 0x3044) 3 = true) ∧
  (∀ m, spareChan s = some m → (s.chan n).role ≠ 4 → (u.chan m).role = (s.chan n).role ∧ (u.chan m).ringsOf = (s.chan n).ringsOf ∧
    (u.chan m).replacing = true ∧ u.part.spareUsed = true ∧ u.part.spareFor = n ∧
    u.part.steer = s.part.steer.map (fun c => if c = n then m else c)) ∧
  (spareChan s = none → (s.chan n).role ≠ 4 → bit (u.wr 0x3044) 2 = true) ∧
  (∀ j, j ≠ n → spareChan s ≠ some j → (u.chan j).role = (s.chan j).role ∧ (u.chan j).fenced = (s.chan j).fenced) ∧
  u = { s with regs := u.regs, rings := u.rings, vault := u.vault, ch := u.ch, part := u.part, boot := u.boot, jf := u.jf, mem := u.mem
               link := u.link, log := u.log, alm := u.alm, conv := u.conv, dram := u.dram, dmErr := u.dmErr, drbg := u.drbg
               outs := u.outs }

end Sys2Proof.Claims

namespace Sys2Proof.Claims

/-- The stores of R20 hold nothing: root, slots, key banks, ring keys and conversation keys. -/
def KeysGone (u : State) : Prop :=
  u.vault.root = none ∧ (∀ n, (u.slot n).share1 = [] ∧ (u.slot n).share2 = [] ∧ (u.slot n).state = 0) ∧ (∀ n, (u.chan n).bank = []) ∧
  u.krysa.key = [] ∧ u.krysa.oldKey = [] ∧ ∀ id, (tget {} u.conv.table id).key = []

/-- The alarm has risen from source with this VG_CAUSE code: block state, fault record and erase (R500, R501). -/
def AlarmRaised (s u : State) (source vg : Nat) (eraseOk : Bool) : Prop :=
  u.boot = { s.boot with alarm := true, lockout := decide (s.boot.phase < 6), entering := false } ∧
  u.vigil = { s.vigil with cause := if s.vigil.cause = 0 then vg else s.vigil.cause } ∧
  u.flt = { s.flt with
    source := source, acal := s.tick.count % 2 ^ 32, phase := s.boot.phase
    stepDue := alarmCounts s && decide (source ≠ 3) && !s.boot.riseDone, killDue := !eraseOk, eraseFail := !eraseOk
    state := if s.boot.phase < 6 then 2 else 1, eraseNs := u.flt.eraseNs
    scrub := if s.boot.pfail then [] else scrubRanges s, scrubBusy := !s.boot.pfail, armed := none } ∧ u.flt.eraseNs ≤ 2000 ∧
  KeysGone u ∧ u.conv.table = [] ∧ u.ledger.held = [] ∧ u.jf.queue = [] ∧ u.log.buf = [] ∧ u.tick.due = false ∧ u.tick.closed = true ∧
  bit (u.wr 0x5B00) 1 = true ∧ u.host = s.host ∧ u.part = s.part ∧ u.nodes = s.nodes ∧ u.tap = s.tap ∧ u.seq = s.seq ∧ u.pending = s.pending

end Sys2Proof.Claims

namespace Sys2Proof.Claims

/-- The item of SQk at index i is marked staged, and no other ring changes. -/
def Staged (s u : State) (k i : Nat) : Prop :=
  u.ring k = { s.ring k with items := (s.ring k).items.map (fun x => if x.idx = i ∧ x.res = none then { x with staged := true } else x) } ∧
  ∀ q, q ≠ k → u.ring q = s.ring q

/-- A LINK item joins the staged changes of the path and direction of its ring, in its place by admission (R82, R297). -/
def LinkStages (s u : State) (k i p : Nat) (tx : Bool) (it : Item) : Prop :=
  (∃ l r, s.link.staged.filter (fun c => !(decide (c.ring = k) && decide (c.idx = i))) = l ++ r ∧
    (∀ c ∈ l, c.seq < it.seq) ∧ (∀ c ∈ r.head?, it.seq ≤ c.seq) ∧
    u.link = { s.link with staged := l ++ { ring := k, idx := i, seq := it.seq, path := p, tx := tx } :: r }) ∧
  Staged s u k i ∧ u = { s with link := u.link, rings := u.rings }

/-- Entry e of path p transmits for SecY n with encoding SA an: ACTIVE, below its last PN and off the warning PN (R290, R306). -/
abbrev Sends (s : State) (p n an e : Nat) : Prop :=
  (s.secy p n).enc = some an ∧ (s.secy p n).ans.getD an none = some e ∧ (s.sae p true e).state = 3 ∧
  (s.sae p true e).pn < pnMax (s.sae p true e).suite ∧
  ∀ w, 16 ≤ w → w ≤ 62 → pnMax (s.sae p true e).suite - (s.sae p true e).pn ≠ 2 ^ (if xpn (s.sae p true e).suite then w else min w 31)

/-- One frame went out on line transmit of path p, secured by SecY n and entry e; of the link nothing but the entry's PN and frame
count changed, and x may have changed of path p. -/
def SentOn (s u : State) (p n an e : Nat) (frame : Bytes) : Prop :=
  u.outs = .lineTx p (secureFrame (s.secy p n) an (s.sae p true e) frame) :: s.outs ∧
  u.sae p true e = { s.sae p true e with pn := (s.sae p true e).pn + 1, frames := satInc 32 (s.sae p true e).frames } ∧
  (∀ q tx j, q ≠ p ∨ tx = false ∨ j ≠ e → u.sae q tx j = s.sae q tx j) ∧
  u.path p = { s.path p with txe := (u.path p).txe, hbSeq := (u.path p).hbSeq } ∧ (∀ q, q ≠ p → u.path q = s.path q) ∧
  u.stw (0x38010 + 0x40 * p) = (s.stw (0x38010 + 0x40 * p) + 1) % 2 ^ 32 ∧ u.link.staged = s.link.staged ∧
  u = { s with link := u.link, regs := u.regs, outs := u.outs }

end Sys2Proof.Claims

namespace Sys2Proof.Claims

/-- The item of SQk at index i gets this result from s to t, and no other item of SQk gets one. -/
def ItemEndsOf (s t : State) (k i status : Nat) (zero : Bool) (result : Bytes) : Prop :=
  Ended t k i status zero result ∧ ∀ it ∈ (s.ring k).items, it.idx ≠ i → it ∈ (t.ring k).items

/-- What a node frame may change (R335, R341): rings and budgets, memory with its channels, keys and counters, Almanac, ledger,
conversations and the leases of the ring. -/
def NodeFrame (s t : State) : Prop :=
  t = { s with rings := t.rings, part := t.part, ch := t.ch, mem := t.mem, regs := t.regs, vault := t.vault, jf := t.jf, alm := t.alm
               log := t.log, dram := t.dram, dmErr := t.dmErr, drbg := t.drbg, outs := t.outs, ledger := t.ledger, conv := t.conv, krysa := t.krysa }

/-- The input that an uplink gives to conversations (R390, R394). -/
def upInput (s : State) (d : Bytes) (f : UpFrame) (pl : Bytes) (auth : Bool) : ConvInput :=
  uplinkInput s f.hlf f.type pl
    { s154 := !f.hlf, epoch := leAt d 0x1C 1, counter := f.counter, ts := f.ts, bmiss := f.bmiss, opp := auth
      cal := leAt d 0x22 6, sub := leAt d 0x28 2 }

/-- The commit that an uplink asks of the Almanac (R335 step 7). -/
def upCommit (d : Bytes) (f : UpFrame) (x : ConvInput) : AlmIn :=
  { node := leAt d 0x18 4, hlf := f.hlf, join := decide (x.type = 2), resync := decide (x.type = 1), fcnt := f.counter
    epoch := x.epoch, ts := f.ts, bmiss := f.bmiss, cal := x.cal, sub := x.sub }

end Sys2Proof.Claims

namespace Sys2Proof.Claims

/-- Engine e of channel ch stands at instruction w, whose OP is op (R413, R414). -/
abbrev AtInstr (s : State) (ch e op w : Nat) : Prop :=
  s.halted = false ∧ s.tick.due = false ∧ (s.engine ch e).on = true ∧ (s.chan ch).fenced = false ∧ Engine.fetch s (s.engine ch e) = some w ∧
      iOp w = op

/-- A defined instruction stands at pc, and the step has not run its 256 instructions (R400, R415). -/
abbrev NextOk (s : State) (ch e pc : Nat) : Prop :=
  (s.engine ch e).count + 1 < 256 ∧ ∃ w, Engine.fetch s { s.engine ch e with pc := pc } = some w ∧ iOp w ≤ 0x1E

/-- Of u, engine e of channel ch becomes g, every other engine and the rest of the block are as in s. -/
def EngineIs (s u : State) (ch e : Nat) (g : Engine) : Prop :=
  u.engine ch e = g ∧ (∀ n, n ≠ 2 * ch + e → tget {} u.conv.engines n = tget {} s.conv.engines n) ∧
  u = { s with conv := { s.conv with engines := u.conv.engines } }

/-- Engine e of channel ch wrote register RD and went to the next instruction. -/
def Wrote (s u : State) (ch e w v : Nat) : Prop :=
  EngineIs s u ch e { s.engine ch e with
    g := (s.engine ch e).g.set (iRd w) (v % 2 ^ 32), pc := (s.engine ch e).pc + 1, count := (s.engine ch e).count + 1 }

/-- Engine e of channel ch went on at pc, with nothing else changed. -/
def Went (s u : State) (ch e pc : Nat) : Prop :=
  EngineIs s u ch e { s.engine ch e with pc := pc, count := (s.engine ch e).count + 1 }

/-- Where a branch with this condition goes: to pc + 1 + IMM, signed, or to the next instruction (R414). -/
def Lands (s : State) (ch e w : Nat) (c : Prop) (pc : Nat) : Prop :=
  (c ∧ (pc : Int) = (s.engine ch e).pc + 1 + (if iImm w < 2 ^ 13 then (iImm w : Int) else (iImm w : Int) - 2 ^ 14)) ∨
  (¬ c ∧ pc = (s.engine ch e).pc + 1)

end Sys2Proof.Claims

namespace Sys2Proof.Claims

/-- Change c of the open item it is staged in order of admission; its item is marked (R82, R152). -/
def VaultStaged (s u : State) (k i : Nat) (it : Item) (c : VaultChange) : Prop :=
  u.vault.staged = s.vault.staged.takeWhile (fun x => decide (x.seq < it.seq)) ++ [{ c with ring := k, idx := i, seq := it.seq }]
    ++ s.vault.staged.dropWhile (fun x => decide (x.seq < it.seq)) ∧ Staged s u k i

/-- A staging that changes nothing but the list of staged changes and the mark of its item (R152). -/
def OnlyStaged (s u : State) (k i : Nat) (it : Item) (c : VaultChange) : Prop :=
  VaultStaged s u k i it c ∧ u = { s with rings := u.rings, vault := { s.vault with staged := u.vault.staged } }

/-- A usable copy of a key of generation gen lies pinned in the bank of channel n, confirmed under the present epoch (R139, R181). -/
def PinnedCopy (s u : State) (n slot gen : Nat) : Prop :=
  (∃ e ∈ (u.chan n).bank, e.slot = slot ∧ e.gen = gen ∧ e.node = none ∧ e.pinned = true ∧ e.epoch = s.vault.epoch) ∧
  (u.chan n).role = (s.chan n).role

/-- The staged change c of an open item it, ready to commit. -/
abbrev Commits (s : State) (c : VaultChange) (it : Item) : Prop :=
  c.fixed = 0 ∧ c.fail = 0 ∧ findItem s c.ring c.idx = some it ∧ it.seq = c.seq

end Sys2Proof.Claims

namespace Sys2Proof.Claims

/-- The NMS serves commands, none is in progress, and an open item with this opcode waits for it (R473). -/
abbrev NmsOpen (s : State) (k i op : Nat) (it : Item) : Prop := nmsStill s = false ∧ s.nms.wait = none ∧ findItem s k i = some it ∧ dOp it.desc = op

/-- The command queued these records as urgent, waits for them with its object b, and nothing but the journal queue changed (R478, R482). -/
def StoresAndWaits (s1 u : State) (k i op : Nat) (recs : List JRec) (b : Bytes) : Prop :=
  u = { s1 with nms := u.nms, jf := { s1.jf with queue := u.jf.queue, qn := u.jf.qn } } ∧
  u.nms = { s1.nms with wait := some { ring := k, idx := i, op := op, qn := u.jf.qn, object := b } } ∧
  u.jf.queue.take s1.jf.queue.length = s1.jf.queue ∧
  (u.jf.queue.drop s1.jf.queue.length).map (fun r => (r.kind, r.id, r.data, r.urgent)) = recs.map (fun r => (r.kind, r.id, r.data, true)) ∧
  u.jf.qn = s1.jf.qn + recs.length

/-- What a load answers for an object b that it could read, in the state s1 after the read: it is stored, or refused (R478). -/
def LoadAnswers (s s1 u : State) (k i op : Nat) (b : Bytes) (recs : List JRec) : Prop :=
  (loadWhy s1 op b = (stOK, 0) → StoresAndWaits s1 u k i op recs b) ∧
  ∀ st reason, loadWhy s1 op b = (st, reason) → st ≠ stOK →
    ItemEnds s u k i st false (nmsResult 0 reason 0 0) ∧ u.dram = s1.dram ∧ u.jf = s1.jf

/-- The command completes LOCKED for this reason, and neither journal nor memory is touched (R477). -/
def LockedFor (s u : State) (k i reason : Nat) : Prop :=
  ItemEnds s u k i stLocked false (nmsResult 0 reason 0 0) ∧ u.dram = s.dram ∧ u.jf = s.jf

/-- One more entry is in the log, with the next sequence number (R487). -/
def Logged (s u : State) (ev cls : Nat) (data : Bytes) : Prop :=
  u.log = { s.log with buf := s.log.buf ++ [{ seq := s.log.seq, data := logEntry s s.log.seq ev cls data, since := s.alm.time }], seq := s.log.seq + 1 }

end Sys2Proof.Claims

namespace Sys2Proof.Claims

/-- Records queued behind those that waited, as copies of block b where b is given (R429, R430). -/
def QueuedBehind (s u : State) (l : List JRec) (b : Option Nat) : Prop :=
  s.jf.queue <+: u.jf.queue ∧ ∀ r ∈ l, ∃ x ∈ u.jf.queue, x.kind = r.kind ∧ x.id = r.id ∧ x.data = r.data ∧ x.src = b

/-- The erase of block b is issued to the device where no copy of it is open and no program runs, and not otherwise (R57, R429). -/
def ErasesWhenDurable (s u : State) (b : Nat) : Prop :=
  u.flash = { s.flash with erasing :=
      (if copiesOpen u b = false ∧ s.jf.prog = none ∧ s.flash.erasing = none then some b else s.flash.erasing) }

/-- An erase of block b is under way, or comes to be issued now (R53, R429). -/
abbrev Erasing (s : State) (b : Nat) : Prop :=
  s.flash.erasing = some b ∨ (s.flash.erasing = none ∧ s.jf.rot = some b ∧ s.jf.prog = none ∧ copiesOpen s b = false)

end Sys2Proof.Claims

namespace Sys2Proof.Claims

/-- The agent takes part in the ring: EN in force, the block works, the agent is not wedged (R448, R498). -/
abbrev Agent (s : State) : Prop := s.halted = false ∧ ringOn s = true ∧ s.wedged 3 = false

/-- The oldest message that waits is x, of this type, with rest behind it. -/
abbrev NextMsg (s : State) (type : Nat) (x : KMsg) (rest : List KMsg) : Prop := Agent s ∧ s.krysa.inbox = x :: rest ∧ x.type = type

end Sys2Proof.Claims

namespace Sys2Proof.Claims

/-- These bytes stand in DRAM at an address, and every other byte of DRAM reads as before; a line that was written holds no error any
more (log entry 161), and every other line the one it held. -/
def DramWritten (s u : State) (a : Nat) (b : Bytes) : Prop :=
  dramGet u a b.length = b ∧ (∀ x, x < a ∨ a + b.length ≤ x → tget dramInit u.dram x = tget dramInit s.dram x) ∧
  ∀ x, u.dm x = if b ≠ [] ∧ a < x / 64 * 64 + 64 ∧ x / 64 * 64 < a + b.length then 0 else s.dm x

/-- No cache and no write-back buffer holds a line at this address any more; everything else of a channel's caches stays (R223). -/
def Dropped (s u : State) (a : Nat) : Prop :=
  ∀ c, c < 16 → u.mchan c = { s.mchan c with
    cc := (s.mchan c).cc.filter (fun l => decide (l.addr ≠ a)), tc := (s.mchan c).tc.filter (fun n => decide (n.addr ≠ a))
    wb := (s.mchan c).wb.filter (fun p => decide (p.1 ≠ a)) }

/-- The first check of R219 that refuses an access to a line in region n, before any key is used: 0 where none does. -/
def refusal (s : State) (n a kid cls : Nat) (write : Bool) : Nat :=
  if memClosed s then 9
  else if kid = 0 ∧ bit (s.region n).clsBase cls = false then 2
  else if kid ≠ 0 ∧ s.boot.eve = true then 3
  else if kid ≠ 0 ∧ (kid < (s.region n).kidLo ∨ (s.region n).kidHi < kid) then 4
  else if kid ≠ 0 ∧ bit (s.region n).clsKid cls = false then 5
  else if (s.kid kid).en = false then 6
  else if regionRefuses s n kid cls write a then 7
  else if (s.region n).mode ≠ 0 ∧ (s.kid kid).tag.slot = 0 then 8 else 0

/-- A memory access completes with an error and is counted with its class, reason and KeyID; nothing is stored (R220). -/
def Refused (s u : State) (write : Bool) (tag kid cls reason : Nat) : Prop :=
  u.outs = (if write then .memWrite tag 2 else .memRead tag 2 (zeros 64)) :: s.outs ∧ u.dram = s.dram ∧
  u.stw 0x37004 = satInc 16 (s.stf 0x37004 15 0) + cls % 16 * 2 ^ 16 + reason * 2 ^ 20 + kid * 2 ^ 24 ∧ bit (u.wr 0x13000) 2 = true

/-- A transaction in flight in region t.rgn, the oldest on its group, whose tag line l is resident and none of the group is marked. -/
abbrev Served (s : State) (j : Nat) (t : Txn) (l : CLine) : Prop :=
  portDead s = false ∧ (∃ t0, s.mem.inflight[j]? = some t0 ∧ s.mem.inflight.find? (fun x => decide (x.addr / 512 = t0.addr / 512)) = some t) ∧
  t.pass = false ∧ findLine s t.ch (t.addr / 512) = some l ∧ ∀ x ∈ (s.mchan t.ch).cc, x.grp = t.addr / 512 → x.marked = false

end Sys2Proof.Claims

namespace Sys2Proof.Claims

/-- A REKEY job of region r may use its old and its new keys in channel ch, DATA then TAG, and in TREE mode the key of the tree; s5 is the state after these uses (R217, R276). -/
def JobKeys (s : State) (jb : Job) (r : Region) (ch : Nat) (od ot nd nt sk : Bytes) (s5 : State) : Prop :=
  ∃ s1 s2 s3 s4, memKey s ch jb.oldD true = (s1, some od) ∧ (if r.mode = 0 then s2 = s1 ∧ ot = [] else memKey s1 ch jb.oldT false = (s2, some ot)) ∧
    memKey s2 ch (s.kid jb.keyid).data true = (s3, some nd) ∧
    (if r.mode = 0 then s4 = s3 ∧ nt = [] else memKey s3 ch (s.kid jb.keyid).tag false = (s4, some nt)) ∧
    if r.mode = 2 then memKey s4 ch (s.tree r.tree).key false = (s5, some sk) else s5 = s4 ∧ sk = []

/-- What a conversion makes of line i: the data in DRAM, its minor counter and its tag (R276). -/
def convertedLine (s : State) (old new : Txn) (l : CLine) (a i : Nat) : Bytes × Nat × Bytes :=
  let raw := dramGet s (a + 64 * i) 64
  let o := openLine old l.data i (a + 64 * i) raw
  if lineState old.reg.mode l.data i ≠ .written then (raw, tlMinor l.data i, tlTag l.data i)
  else if s.dm (a + 64 * i) = 2 ∨ o.2 = false then
    (raw, tlMinor l.data i, if old.reg.mode = 0 then tlTag l.data i else tagPoison)
  else
    let c := closeLine new (old.reg.epoch * 2 ^ 40) 1 (a + 64 * i) o.1
    (c.1, 1, c.2)

end Sys2Proof.Claims

/-- With command c at the front of the queue, a step is exec of c on the state with the rest of the queue; on an empty
queue the block idles (the model's choice, log entry 1) (02_block_boundary). -/
def Obligations.StepRunsFrontCommand : Prop :=
  (∀ (s : State) (c : Instr) (rest : List Instr), s.pending = c :: rest → step s = exec c { s with pending := rest }) ∧
  ∀ s : State, s.pending = [] → step s = .next s

/-- From every state a step answers a next state (no command is refused and none faults), whose queue is the queue without
its front (02_block_boundary, R537). -/
def Obligations.EveryStepGoesOnAndTakesOneCommand : Prop :=
  ∀ s : State, ∃ t, step s = .next t ∧ t.pending = s.pending.tail

/-- From every state whose memory is in canonical form and whose alarm count is at most its 16 steps, every step leads to
such a state (R508, 16_journal, 08_memory_keystream). -/
def Obligations.MemoryStaysCanonical : Prop :=
  ∀ s t : State, Inv s → step s = .next t → Inv t

/-- After reset memory is canonical, the alarm count is in range, the Calends count reads 0, channels 0 to 7 are MEM, 8 to
11 LINK, 12 to 14 AIR and 15 SPARE, and the queue is empty (R26, R71). -/
def Obligations.ResetHasInvariant : Prop :=
  Inv State.reset ∧ State.reset.tick.count = 0 ∧ State.reset.pending = [] ∧
  ∀ n : Fin 16, (State.reset.chan n).role = if n.val < 8 then 1 else if n.val < 12 then 2 else if n.val < 15 then 3 else 4

/-- No step moves the lifecycle back: BLANK (0), ROOTED (1), DEPLOYED (2), KILLED (3) are passed in this order only, from
every state and whatever the command, reset and sleep included (R123). -/
def Obligations.LifecycleOnlyMovesForward : Prop :=
  ∀ s t : State, step s = .next t → lifecycle s ≤ lifecycle t

/-- Over every step a blown root-kill, LOCK, bank-lock or NMS-key fuse stays blown, the count era, the rollback counter and
the alarm count never go back, and no command of the table burns the debug fuse (R72, R121, R484, R508, R475). -/
def Obligations.FusesOnlyBurn : Prop :=
  ∀ s t : State, s.fuses.alarmCount ≤ 16 → step s = .next t →
    (s.fuses.kill = true → t.fuses.kill = true) ∧ (s.fuses.lock = true → t.fuses.lock = true) ∧
    (s.fuses.bankLock = true → t.fuses.bankLock = true) ∧ t.fuses.debug = s.fuses.debug ∧
    (∀ x ∈ s.fuses.nmsWritten, x ∈ t.fuses.nmsWritten) ∧ s.fuses.era ≤ t.fuses.era ∧
    s.fuses.rollback ≤ t.fuses.rollback ∧ s.fuses.alarmCount ≤ t.fuses.alarmCount

/-- In service with SRC = 0 and no Calends due or fixed, an edge t engine clocks after C with t < T/2 is ignored: counted
in IGNORED and flagged; one with T/2 <= t < T - TOL is early: counted, flagged, admission closes and C is fixed for no
later than t + DRAIN; one with T - TOL <= t <= T + TOL, while the keeper does not drive the tick, takes C. All else of the
state is unchanged (R68, R549). -/
def Obligations.EdgesAreClassed : Prop :=
  ∀ (s : State) (t : Nat), Classing s → s.tick.t ≤ t →
    (2 * t < s.perEc → (∃ u, exec (.tickEdge t) s = .next u ∧ u = { s with tick := u.tick, regs := u.regs } ∧ u.tick.t = t ∧
        u.tick.due = false ∧ u.tick.closed = s.tick.closed ∧ u.wr 0x108 = s.wr 0x108 ||| 2 ^ 2 ∧
      u.stw 0x30110 = setBits (s.stw 0x30110) 15 0 (satInc 16 (s.stf 0x30110 15 0)))) ∧
    (s.perEc ≤ 2 * t → t < s.perEc - s.tolEc → (∃ u, exec (.tickEdge t) s = .next u ∧ u = { s with tick := u.tick, regs := u.regs } ∧
        u.tick.due = false ∧ u.tick.closed = true ∧ u.tick.fixed = true ∧ u.tick.early = some (t + s.drainEc) ∧ u.wr 0x108 = s.wr 0x108 ||| 2 ^ 1 ∧
      u.stw 0x30110 = setBits (s.stw 0x30110) 31 16 (satInc 16 (s.stf 0x30110 31 16)))) ∧
    (s.perEc ≤ 2 * t → s.perEc - s.tolEc ≤ t → t ≤ s.perEc + s.tolEc → s.tick.keeper = false →
      (∃ u, exec (.tickEdge t) s = .next u ∧ u = { s with tick := u.tick, regs := u.regs } ∧ AtC u.tick ∧ u.tick.keeper = false ∧ u.regs = s.regs))

/-- The Calends of an early edge is reached when all admitted work is complete or its limit has come; the keeper issues a
lost tick with SRC = 0, flagged and counted, and KEEPER reads 1; the first Calends after P2 is reached by an edge or the
keeper; the close point closes admission. All else is unchanged (R68, R69, R75, R518). -/
def Obligations.CalendsInstants : Prop :=
  (∀ (s : State) (t lim : Nat), s.halted = false → s.tick.countSet = true → s.tick.early = some lim →
    (workDone s = true ∨ lim ≤ t) → (∃ u, exec (.earlyEdgeDrainEnd t) s = .next u ∧ u = { s with tick := u.tick, regs := u.regs } ∧
        AtC u.tick ∧ u.regs = s.regs)) ∧
  (∀ s : State, Classing s → (∃ u, exec .tickKeeperCalends s = .next u ∧ u = { s with tick := u.tick, regs := u.regs } ∧ AtC u.tick ∧
      u.tick.keeper = true ∧ u.tick.onTime = 0 ∧ u.wr 0x108 = s.wr 0x108 ||| 2 ^ 0 ∧
    u.stw 0x3010C = setBits (s.stw 0x3010C) 31 0 (satInc 32 (s.stf 0x3010C 31 0)))) ∧
  (∀ (s : State) (byEdge : Bool), s.halted = false → s.tick.countSet = true → s.tick.started = false → s.tick.due = false →
    (∃ u, exec (.firstCalendsAfterP2 byEdge) s = .next u ∧ u = { s with tick := u.tick, regs := u.regs } ∧ AtC u.tick ∧ u.regs = s.regs)) ∧
  ∀ s : State, s.halted = false →
    (∃ u, exec .admissionClose s = .next u ∧ u = { s with tick := u.tick, regs := u.regs } ∧
        u.tick = { s.tick with closed := true, t := max s.tick.t s.tClose } ∧ u.regs = s.regs)

/-- While the port takes writes, a doorbell of an enabled, not halted ring sets the tail of a submission ring or the head
of a completion ring to VAL[15:0], and waiting events reserve what the head frees; an index not below the ring size moves
nothing and sets ERR = INDEX; a disabled or halted ring ignores it. No other ring and nothing else changes (R96, R98, R107,
R116). -/
def Obligations.DoorbellsMoveTheIndex : Prop :=
  ∀ (s : State) (k : Fin 64) (val : Word), HostUp s →
    ((s.ring k).en = true → (s.ring k).halted = false → val.toNat % 2 ^ 16 < (s.ring k).size →
      (∃ u, exec (.sqDoorbell k val) s = .next u ∧ OnlyRing s u k ∧ u.ring k = { s.ring k with tail := val.toNat % 2 ^ 16 })) ∧
    ((s.ring k).en = true → (s.ring k).halted = false → (s.ring k).size ≤ val.toNat % 2 ^ 16 →
      (∃ u, exec (.sqDoorbell k val) s = .next u ∧ OnlyRing s u k ∧ u.ring k = { s.ring k with err := 1 })) ∧
    ((s.ring k).en = false ∨ (s.ring k).halted = true →
      (∃ u, exec (.sqDoorbell k val) s = .next u ∧ OnlyRing s u k ∧ u.rings = s.rings)) ∧
    ((s.ring (64 + k)).en = true → (s.ring (64 + k)).halted = false → val.toNat % 2 ^ 16 < (s.ring (64 + k)).size →
      (∃ u, exec (.cqDoorbell k val) s = .next u ∧ OnlyRing s u (64 + k) ∧
        u.ring (64 + k) = { s.ring (64 + k) with
          head := val.toNat % 2 ^ 16, events := (u.ring (64 + k)).events, reserved := (u.ring (64 + k)).reserved } ∧
        ((s.ring (64 + k)).events = [] → u.ring (64 + k) = { s.ring (64 + k) with head := val.toNat % 2 ^ 16 }))) ∧
    ((s.ring (64 + k)).en = true → (s.ring (64 + k)).halted = false → (s.ring (64 + k)).size ≤ val.toNat % 2 ^ 16 →
      (∃ u, exec (.cqDoorbell k val) s = .next u ∧ OnlyRing s u (64 + k) ∧ u.ring (64 + k) = { s.ring (64 + k) with err := 1 })) ∧
    ((s.ring (64 + k)).en = false ∨ (s.ring (64 + k)).halted = true →
      (∃ u, exec (.cqDoorbell k val) s = .next u ∧ OnlyRing s u (64 + k) ∧ u.rings = s.rings))

/-- A write of RING_CTL with ABORT to an enabled submission ring without a request in progress sets ABORT_PEND and hands
index and ALL to the arbiter; the arbiter marks an index not yet admitted ABORTED, ends an item of a channel that can still
be stopped ABORTED with its outputs zeroized, and answers ABORT_LATE where the item can not be stopped or the index is not
outstanding. Nothing else changes (R111, R112, R113). -/
def Obligations.AbortRequestsAreDecided : Prop :=
  (∀ (s : State) (k : Fin 128) (val : Word), HostUp s → k.val < 64 → bit val.toNat 31 = true → (s.ring k).en = true →
    (s.ring k).halted = false → (s.ring k).abortPend = false →
    (∃ u, exec (.ringAbortRequest k val) s = .next u ∧ OnlyRing s u k ∧
      u.ring k = { s.ring k with abortPend := true, abortReq := some (bits val.toNat 15 0, bit val.toNat 16) })) ∧
  ∀ (s : State) (k : Fin 64) (i : Nat), s.halted = false → (s.ring k).abortReq = some (i, false) →
    ((s.ring k).waits i = true →
      (∃ u, exec (.abortDecision k) s = .next u ∧ OnlyRing s u k ∧ i ∈ (u.ring k).aborted ∧ (u.ring k).abortPend = false ∧
        (u.ring k).abortReq = none ∧ (u.ring k).abortRes = stAborted ∧ (u.ring k).items = (s.ring k).items)) ∧
    (outstanding s k i = false →
      (∃ u, exec (.abortDecision k) s = .next u ∧ OnlyRing s u k ∧
        u.ring k = { s.ring k with abortPend := false, abortReq := none, abortRes := stAbortLate })) ∧
    ∀ it, (s.ring k).waits i = false → findItem s k i = some it →
      (k.val < 48 → s.tick.due = false →
        (∃ u, exec (.abortDecision k) s = .next u ∧ (u.ring k).abortPend = false ∧ (u.ring k).abortRes = stAborted ∧
          ItemEnds s u k i stAborted (decide (it.outs ≠ [])) (plainResult s k it.desc stAborted))) ∧
      (stoppable k it = false ∨ s.tick.due = true →
        (∃ u, exec (.abortDecision k) s = .next u ∧ OnlyRing s u k ∧
          u.ring k = { s.ring k with abortPend := false, abortReq := none, abortRes := stAbortLate }))

/-- Where the oldest item of SQk has its result, its 32-byte completion is written at the tail of CQk, the tail moves on
and the phase turns at the wrap, the entry reserved for it is given back, and the item leaves the ring; a completion whose
ring was disabled or is halted is not written; an event of another source that holds an entry is written in the same way
with SQ_HEAD 0xFFFF. All else but the channels of memory, its counters, the log and the interrupt flags is unchanged (R95,
R99, R105, R106, R107, R117). -/
def Obligations.CompletionsAreWrittenInRingOrder : Prop :=
  (∀ (s : State) (k : Fin 64) (it : Item) (rest : List Item) (r : Res),
    s.halted = false → s.wedged 5 = false → (s.ring k).items = it :: rest → it.res = some r →
    (∀ s2, it.drop = false → (s.ring (64 + k)).en = true → (s.ring (64 + k)).halted = false →
      hostWrite (s.modRing k (fun q => { q with items := rest })) ((s.ring (64 + k)).base + 32 * (s.ring (64 + k)).tail)
        (completionBytes r.status (s.ring (64 + k)).phase r.zeroized (dIrq it.desc) ((it.idx + 1) % (s.ring k).size) (dTag it.desc)
          it.cal k (dOp it.desc) r.result) = (s2, true) →
      (∃ t, exec (.completionWrite k) s = .next t ∧ t.ring k = { s.ring k with items := rest } ∧
        (t.ring (64 + k)).tail = ((s.ring (64 + k)).tail + 1) % (s.ring (64 + k)).size ∧
        (t.ring (64 + k)).phase = (if (t.ring (64 + k)).tail = 0 then !(s.ring (64 + k)).phase else (s.ring (64 + k)).phase) ∧
        (t.ring (64 + k)).reserved = (s.ring (64 + k)).reserved - 1 ∧
        (∀ q, q ≠ k.val → q ≠ 64 + k.val → t.ring q = s.ring q) ∧ t.dram = s2.dram ∧ ItemFrame s t)) ∧
    (it.drop = true ∨ (s.ring (64 + k)).en = false ∨ (s.ring (64 + k)).halted = true →
      (∃ t, exec (.completionWrite k) s = .next t ∧ t.ring k = { s.ring k with items := rest } ∧
        t.ring (64 + k) = { s.ring (64 + k) with reserved := (s.ring (64 + k)).reserved - 1 } ∧
        (∀ q, q ≠ k.val → q ≠ 64 + k.val → t.ring q = s.ring q) ∧ t = { s with rings := t.rings }))) ∧
  ∀ (s s1 s2 : State) (k : Fin 64) (e : SrcEvt) (es rest : List SrcEvt),
    s.halted = false → s.wedged 5 = false → (s.ring (64 + k)).en = true → (s.ring (64 + k)).halted = false →
    (s.ring (64 + k)).events = e :: es → e.held = true ∨ 0 < (s.ring (64 + k)).free → s1 = grantEvents s k →
    (s1.ring (64 + k)).events = { e with held := true } :: rest →
    hostWrite (s1.modRing (64 + k) (fun q => { q with events := rest })) ((s.ring (64 + k)).base + 32 * (s.ring (64 + k)).tail)
      (completionBytes e.status (s.ring (64 + k)).phase false false 0xFFFF e.tag e.cal e.source e.code e.result) = (s2, true) →
    (∃ t, exec (.sourceEventWrite k) s = .next t ∧ (t.ring (64 + k)).events = rest ∧
      (t.ring (64 + k)).tail = ((s.ring (64 + k)).tail + 1) % (s.ring (64 + k)).size ∧
      (t.ring (64 + k)).reserved = (s1.ring (64 + k)).reserved - 1 ∧
      (∀ q, q ≠ 64 + k.val → t.ring q = s.ring q) ∧ t.dram = s2.dram ∧ ItemFrame s t)

/-- A failed descriptor read halts SQk with ERR = DMA_RD; a failed input read ends the item MALFORMED, a poisoned one
POISONED; a failed output write of an item other than a node frame ends it MALFORMED; a failed completion write halts CQk
and SQk with ERR = DMA_WR and drops that completion (R115, R109). -/
def Obligations.DmaErrorsEndItemsOrHaltRings : Prop :=
  (∀ (s : State) (k : Fin 64) (i : Nat) (p : Bool), s.halted = false → (s.ring k).en = true →
    (∃ t, exec (.dmaErrorResponse k i .descriptorRead p) s = .next t ∧ t.ring k = { s.ring k with halted := true, err := 2 } ∧
      (∀ q, q ≠ k.val → t.ring q = s.ring q) ∧ t = { s with rings := t.rings })) ∧
  (∀ (s : State) (k : Fin 64) (i : Nat) (p : Bool) (it : Item), s.halted = false → findItem s k i = some it →
    (∃ t, exec (.dmaErrorResponse k i .inputRead p) s = .next t ∧
      ItemEnds s t k i (if p then stPoison else stMalformed) (decide (it.outs ≠ []))
        (plainResult s k it.desc (if p then stPoison else stMalformed)))) ∧
  (∀ (s : State) (k : Fin 64) (i : Nat) (p : Bool) (it : Item), s.halted = false → findItem s k i = some it →
    dOp it.desc ≠ 0x20 → dOp it.desc ≠ 0x21 →
    (∃ t, exec (.dmaErrorResponse k i .outputWrite p) s = .next t ∧
      ItemEnds s t k i stMalformed (decide (it.outs ≠ [])) (plainResult s k it.desc stMalformed))) ∧
  ∀ (s : State) (k : Fin 64) (i : Nat) (p : Bool) (it : Item) (rest : List Item), s.halted = false →
    (s.ring k).items = it :: rest → it.res.isSome = true →
    (∃ t, exec (.dmaErrorResponse k i .completionWrite p) s = .next t ∧
      t.ring k = { s.ring k with items := rest, halted := true, err := 3 } ∧
      t.ring (64 + k) = { s.ring (64 + k) with reserved := (s.ring (64 + k)).reserved - 1, halted := true, err := 3 } ∧
      (∀ q, q ≠ k.val → q ≠ 64 + k.val → t.ring q = s.ring q) ∧ t = { s with rings := t.rings })

/-- An open bulk item whose input can be read and, where it has output, whose output can be written completes OK with the
RESULT its mode gives, and memory holds what the write of its output left; one whose tag does not verify completes
AUTH_FAIL with zero RESULT, one whose input is poisoned POISONED, one whose DMA fails MALFORMED, its outputs zeroized where
it has any. No other ring changes (R186, R187, R189, R190, R109, R115). -/
def Obligations.BulkOperationsComplete : Prop :=
  ∀ (s s1 : State) (k : Fin 64) (i : Nat) (it : Item) (r : DmaRead),
    (Works s k i 0x01 it → hostRead s (bSrc it.desc) (bulkIn 0x01 it.desc) = (s1, r) →
      (∃ u, exec (.ctrXcrypt k i) s = .next u ∧ BulkEnds s s1 u k i it r (ctrFn (itemKey s it) it.desc))) ∧
    (Works s k i 0x02 it → hostRead s (bSrc it.desc) (bulkIn 0x02 it.desc) = (s1, r) →
      (∃ u, exec (.gcmEnc k i) s = .next u ∧ BulkEnds s s1 u k i it r (gcmEncFn (itemKey s it) it.desc))) ∧
    (Works s k i 0x03 it → hostRead s (bSrc it.desc) (bulkIn 0x03 it.desc) = (s1, r) →
      (∃ u, exec (.gcmDec k i) s = .next u ∧ BulkEnds s s1 u k i it r (gcmDecFn (itemKey s it) it.desc))) ∧
    (Works s k i 0x04 it → hostRead s (bSrc it.desc) (bulkIn 0x04 it.desc) = (s1, r) →
      (∃ u, exec (.gmacGen k i) s = .next u ∧ BulkEnds s s1 u k i it r (gmacGenFn (itemKey s it) it.desc))) ∧
    (Works s k i 0x05 it → hostRead s (bSrc it.desc) (bulkIn 0x05 it.desc) = (s1, r) →
      (∃ u, exec (.gmacVer k i) s = .next u ∧ BulkEnds s s1 u k i it r (gmacVerFn (itemKey s it) it.desc))) ∧
    (Works s k i 0x06 it → hostRead s (bSrc it.desc) (bulkIn 0x06 it.desc) = (s1, r) →
      (∃ u, exec (.ccmEnc k i) s = .next u ∧ BulkEnds s s1 u k i it r (ccmEncFn (itemKey s it) it.desc))) ∧
    (Works s k i 0x07 it → hostRead s (bSrc it.desc) (bulkIn 0x07 it.desc) = (s1, r) →
      (∃ u, exec (.ccmDec k i) s = .next u ∧ BulkEnds s s1 u k i it r (ccmDecFn (itemKey s it) it.desc))) ∧
    (Works s k i 0x08 it → hostRead s (bSrc it.desc) (bulkIn 0x08 it.desc) = (s1, r) →
      (∃ u, exec (.xtsEnc k i) s = .next u ∧ BulkEnds s s1 u k i it r (xtsEncFn (itemKey s it) it.desc))) ∧
    (Works s k i 0x09 it → hostRead s (bSrc it.desc) (bulkIn 0x09 it.desc) = (s1, r) →
      (∃ u, exec (.xtsDec k i) s = .next u ∧ BulkEnds s s1 u k i it r (xtsDecFn (itemKey s it) it.desc))) ∧
    (Works s k i 0x0A it → hostRead s (bSrc it.desc) (bulkIn 0x0A it.desc) = (s1, r) →
      (∃ u, exec (.cmacGen k i) s = .next u ∧ BulkEnds s s1 u k i it r (cmacGenFn (itemKey s it) it.desc))) ∧
    (Works s k i 0x0B it → hostRead s (bSrc it.desc) (bulkIn 0x0B it.desc) = (s1, r) →
      (∃ u, exec (.cmacVer k i) s = .next u ∧ BulkEnds s s1 u k i it r (cmacVerFn (itemKey s it) it.desc)))

/-- An open NOP item completes OK with zero RESULT; memory and all else but the ring and the item's budget are unchanged
(R104). -/
def Obligations.NopCompletesOk : Prop :=
  ∀ (s : State) (k : Fin 64) (i : Nat) (it : Item), Open s k i 0 it →
    (∃ t, exec (.nop k i) s = .next t ∧ ItemEnds s t k i stOK false [] ∧ t = { s with rings := t.rings, part := t.part, ch := t.ch })

/-- While the port takes writes: a write of full width to an immediate or holding register leaves VAL masked by its
writable bits there; to a register of Calends timing that accepts it, the value last written changes and the value in force
does not, and a refused one does what its chapter says; writes of Calends effect between a Calends instant and the end of
its commit wait for that end; to a read-only or unassigned offset nothing changes. Nothing but the port's answer, OK, and
that register changes (R12, R81, R357, R534, R535). -/
def Obligations.RegisterWritesReachTheirRegister : Prop :=
  ∀ (s : State) (off : BitVec 18) (val : Word) (priv : Bool), HostUp s → WriteTaken off.toNat priv →
    (∀ r, regRow off.toNat = some r → r.kind = .imm →
      (∃ u, exec (.registerWrite off val 15 priv) s = .next u ∧ u = (hostOk s 0).putWr off.toNat (val.toNat &&& r.mask))) ∧
    (∀ r, regRow off.toNat = some r → r.kind = .hold → s.tick.due = false →
      (∃ u, exec (.registerWrite off val 15 priv) s = .next u ∧
        u = (if s.alm.en = true ∧ 0x13800 ≤ off.toNat ∧ off.toNat < 0x1380C then hostOk s 0
             else (hostOk s 0).putWr off.toNat (val.toNat &&& r.mask)))) ∧
    (∀ r, regRow off.toNat = some r → r.kind = .cal → s.tick.due = false → off.toNat ≠ 0x5800 →
      refuseWrite (hostOk s 0) off.toNat (val.toNat &&& r.mask) = none →
      (∃ u, exec (.registerWrite off val 15 priv) s = .next u ∧ u = { s with host := u.host, regs := u.regs } ∧
        u.wr off.toNat = val.toNat &&& r.mask ∧ (∀ o, o ≠ off.toNat → u.wr o = s.wr o) ∧ u.regs.fc = s.regs.fc ∧ u.host.err = false)) ∧
    (∀ r t, regRow off.toNat = some r → r.kind = .cal → refuseWrite (hostOk s 0) off.toNat (val.toNat &&& r.mask) = some t →
      (∃ u, exec (.registerWrite off val 15 priv) s = .next u ∧ u = t ∧ u.regs.fc = s.regs.fc)) ∧
    (∀ r, regRow off.toNat = some r → s.tick.due = true →
      r.kind = .hold ∨ (r.kind = .cal ∧ refuseWrite (hostOk s 0) off.toNat (val.toNat &&& r.mask) = none) →
      (∃ u, exec (.registerWrite off val 15 priv) s = .next u ∧ HeldWrite s u off.toNat val.toNat)) ∧
    ((regRow off.toNat = none ∨ ∃ r, regRow off.toNat = some r ∧ r.kind = .ro) →
      (∃ u, exec (.registerWrite off val 15 priv) s = .next u ∧ u = hostOk s 0))

/-- An access that R44, R45 or R534 puts in error, or that meets the block in reset or sleep, is answered with the error
response and no data; outside reset and sleep it counts in HOST_ERR_CNT and its offset, direction and REASON are recorded,
and an access to the PRIV window without FH_T_PRIV goes to the security log as well. Nothing else changes (R44, R45, R534,
R537, R545). -/
def Obligations.RefusedAccessesAnswerError : Prop :=
  ∀ (s : State) (write : Bool) (off : BitVec 18) (val : Word) (be : BitVec 4) (priv : Bool),
    (hostDead s = true →
      (∃ u, exec (.hostAccessError write off val be priv) s = .next u ∧ u = { s with host := { s.host with err := true, rdata := 0 } })) ∧
    (hostDead s = false → accessError write off.toNat be.toNat priv ≠ 0 →
      (∃ u, exec (.hostAccessError write off val be priv) s = .next u ∧ u.host.err = true ∧ u.host.rdata = 0 ∧
        u.stw 0x30008 = off.toNat + b2n write * 2 ^ 18 + accessError write off.toNat be.toNat priv * 2 ^ 19 ∧
        u.stw 0x30004 = setBits (s.stw 0x30004) 15 0 (satInc 16 (s.stf 0x30004 15 0)) ∧
        u = { s with host := u.host, regs := u.regs, log := u.log } ∧
        (privDenied off.toNat priv = false → u.log = s.log) ∧
        (privDenied off.toNat priv = true → s.halted = false → s.log.buf.length < 16384 → s.log.lost = 0 →
          u.log.buf = s.log.buf ++ [{ seq := s.log.seq, data := logEntry s s.log.seq 0x10 3 (toLe 4 off.toNat), since := s.alm.time }])))

/-- A write to an event register clears exactly the written 1 bits that belong to it, except those set by an event at the
same engine clock, in every state that answers accesses; nothing else changes (R541, R542, R537). -/
def Obligations.EventBitsClearByOne : Prop :=
  ∀ (s : State) (off : BitVec 18) (val : Word) (priv : Bool) (same : Word) (r : RegRow), hostDead s = false →
    WriteTaken off.toNat priv → regRow off.toNat = some r → r.kind = .evt →
    (∃ u, exec (.eventRegisterClear off val 15 priv same) s = .next u ∧ u = { s with host := u.host, regs := u.regs } ∧
      u.wr off.toNat = ((s.wr off.toNat &&& (0xFFFFFFFF ^^^ ((val.toNat &&& r.mask) % 2 ^ 32))) ||| (s.wr off.toNat &&& same.toNat)) ∧
      (∀ o, o ≠ off.toNat → u.wr o = s.wr o) ∧ u.regs.fc = s.regs.fc ∧ u.regs.st = s.regs.st ∧ u.host.err = false)

/-- A read of CALENDS_LO, INTEG_LAST_LO, ALM_TIME_LO or JF_GRANT_LO latches the high half of the same value into the latch
of the reader's kind of access, which the read of the high register then gives; the other kind's latch and all else is
unchanged. CALENDS_LO gives bits [31:0] of the Calends count and CALENDS_HI then bits [47:32] (R74). -/
def Obligations.LowReadsLatchTheirHighHalf : Prop :=
  ∀ (s : State) (priv : Bool), hostDead s = false →
    (∃ u, exec (.calendsLoRead priv) s = .next u ∧ u.host.rdata = s.tick.count % 2 ^ 32 ∧
      regRead u 0x30108 priv = s.tick.count / 2 ^ 32 ∧ regRead u 0x30108 (!priv) = regRead s 0x30108 (!priv) ∧
      u = { s with host := u.host }) ∧
    (∃ u, exec (.integLastLoRead priv) s = .next u ∧ u.host.rdata = regRead s 0x3711C priv ∧ regRead u 0x37120 priv = s.stw 0x37120 ∧
      u = { s with host := u.host }) ∧
    (∃ u, exec (.almTimeLoRead priv) s = .next u ∧ u.host.rdata = regRead s 0x39108 priv ∧
      regRead u 0x3910C priv = s.alm.time / 2 ^ 32 ∧ u = { s with host := u.host }) ∧
    (∃ u, exec (.jfGrantLoRead priv) s = .next u ∧ u.host.rdata = regRead s 0x39308 priv ∧
      regRead u 0x3930C priv = nextGrant s / 2 ^ 32 ∧ u = { s with host := u.host })

/-- While the port takes writes, a write with STAGE to RGN_CTL, KID_CTL, TREE_CTL, EQX_CTL (with PRIV) or TIER_CTL stages
what the holding registers of that entry hold, in place of an earlier staging of the same entry, and changes nothing in
force; before the end of P1 those of the memory chapters are refused NOT_READY; ALM_CTL with STAGE asks for the enable
while the Almanac is not enabled; LINK_CMD bit 0 asks for the failback of its path; between a Calends instant and the end
of its commit each waits (R81, R222, R233, R259, R272, R328, R357, R318). -/
def Obligations.StageWritesStageTheHoldingCopy : Prop :=
  ∀ (s : State) (val : Word), HostUp s → bit val.toNat 31 = true →
    (s.tick.due = false → pastP1 s = true →
      (∀ n : Fin 64, (∃ u, exec (.rgnStage n val true) s = .next u ∧ StagedAt s u (0x10014 + 32 * n) (val.toNat % 2) ∧
        u = { s with host := u.host, regs := u.regs, mem := { s.mem with stRgn := restage s.mem.stRgn n (holdRegion u n) } })) ∧
      (∀ n : Fin 256, n.val ≠ 0 → (∃ u, exec (.kidStage n val true) s = .next u ∧ StagedAt s u (0x11018 + 32 * n) (val.toNat % 2) ∧
        u = { s with host := u.host, regs := u.regs, mem := { s.mem with stKid := restage s.mem.stKid n (holdKid u n) } })) ∧
      (∃ u, exec (.kidStage 0 val true) s = .next u ∧
        u = { s with host := u.host, mem := { s.mem with stKid := restage s.mem.stKid 0 (holdKid s 0) } }) ∧
      (∀ n : Fin 16, (∃ u, exec (.treeStage n val true) s = .next u ∧ StagedAt s u (0x13110 + 32 * n) (val.toNat % 2) ∧
        u = { s with host := u.host, regs := u.regs, mem := { s.mem with stTree := restage s.mem.stTree n (holdTree u n) } })) ∧
      (∀ n : Fin 4, (∃ u, exec (.eqxStage n val true) s = .next u ∧ StagedAt s u (0x13400 + 32 * n) (val.toNat &&& 0xFF07FF) ∧
        u = { s with host := u.host, regs := u.regs
                     mem := { s.mem with stJob := restage s.mem.stJob n { holdJob u n with state := (s.job n).state } } }))) ∧
    (s.tick.due = false → pastP1 s = false →
      (∀ n : Fin 64, (∃ u, exec (.rgnStage n val true) s = .next u ∧ NotStaged s u (0x34018 + 32 * n) 7 ∧ bit (u.wr 0x13000) 0 = true)) ∧
      (∀ n : Fin 256, (∃ u, exec (.kidStage n val true) s = .next u ∧ NotStaged s u (0x3501C + 32 * n) 4 ∧ bit (u.wr 0x13000) 1 = true)) ∧
      (∀ n : Fin 16, (∃ u, exec (.treeStage n val true) s = .next u ∧ NotStaged s u (0x37214 + 32 * n) 4)) ∧
      (∀ n : Fin 4, (∃ u, exec (.eqxStage n val true) s = .next u ∧ (u.job n).err = 4 ∧ u.mem.stJob = s.mem.stJob ∧
        bit (u.wr 0x13010) 2 = true))) ∧
    (s.tick.due = false →
      (∀ (n : Fin 256) (priv : Bool), (∃ u, exec (.tierStage n val priv) s = .next u ∧ StagedAt s u (0x8008 + 64 * n) (val.toNat % 256) ∧
        u = { s with host := u.host, regs := u.regs, nodes := { s.nodes with staged := restage s.nodes.staged n (holdTier u n) } })) ∧
      (s.alm.en = false → (∃ u, exec (.almanacEnable val true) s = .next u ∧ StagedAt s u 0x1380C (val.toNat % 32 + 2 ^ 31) ∧
        u = { s with host := u.host, regs := u.regs, alm := { s.alm with enReq := true } })) ∧
      (s.alm.en = true → (∃ u, exec (.almanacEnable val true) s = .next u ∧ u = hostOk s 0)) ∧
      (∀ (p : Fin 2) (priv : Bool), bit val.toNat 0 = true → (∃ u, exec (.failback p val priv) s = .next u ∧ (u.path p).failback = true ∧
        u = { s with host := u.host, link := u.link } ∧ ∀ q, q ≠ p.val → u.path q = s.path q))) ∧
    (s.tick.due = true →
      (∀ n : Fin 64, (∃ u, exec (.rgnStage n val true) s = .next u ∧ HeldWrite s u (0x10014 + 32 * n) val.toNat)) ∧
      (∀ n : Fin 256, (∃ u, exec (.kidStage n val true) s = .next u ∧ HeldWrite s u (0x11018 + 32 * n) val.toNat)) ∧
      (∀ n : Fin 16, (∃ u, exec (.treeStage n val true) s = .next u ∧ HeldWrite s u (0x13110 + 32 * n) val.toNat)) ∧
      (∀ n : Fin 4, (∃ u, exec (.eqxStage n val true) s = .next u ∧ HeldWrite s u (0x13400 + 32 * n) val.toNat)) ∧
      (∀ (n : Fin 256) (priv : Bool), (∃ u, exec (.tierStage n val priv) s = .next u ∧ HeldWrite s u (0x8008 + 64 * n) val.toNat)) ∧
      (∃ u, exec (.almanacEnable val true) s = .next u ∧ HeldWrite s u 0x1380C val.toNat) ∧
      ∀ (p : Fin 2) (priv : Bool), (∃ u, exec (.failback p val priv) s = .next u ∧ HeldWrite s u (0x401C + 0x40 * p) val.toNat))

/-- In service with a Calends due and the durable mark not passed, the commit leaves the count one higher modulo 2^48 and
no Calends due, and the debug port and the waiting commands unchanged; where no write waits for its end, no Calends is
fixed or early either, admission is open unless sleep entry begins at it, and the host port's answer, the flash, Vigil and
the alarm state are unchanged. Not due, nothing happens (R71, R81, R438, R526). -/
def Obligations.CalendsCommits : Prop :=
  (∀ s : State, s.halted = false → s.tick.due = true → markPassed s = false →
    (∃ u, exec .calendsCommit s = .next u ∧ u.tick.count = (s.tick.count + 1) % 2 ^ 48 ∧ u.tick.due = false ∧ u.tap = s.tap ∧
      u.pending = s.pending ∧
      (s.lateWr = [] →
        u.tick = { s.tick with
          count := (s.tick.count + 1) % 2 ^ 48, due := false, fixed := false, early := none, closed := u.boot.entering } ∧
        u.host = s.host ∧ u.flash = s.flash ∧ u.vigil = s.vigil ∧ u.flt = s.flt ∧ u.lateWr = []))) ∧
  ∀ s : State, s.tick.due = false → (∃ u, exec .calendsCommit s = .next u ∧ u = s)

/-- At a Calends the frames whose expiry tick has ended leave the held store, and no other; buckets, bands and profile are
unchanged, and beyond the ledger only the completion rings that report them, memory with its channels, keys and counters
change (R382, R383). -/
def Obligations.HeldFramesExpire : Prop :=
  ∀ s : State, s.halted = false → (∃ u, exec .ledgerHoldExpiry s = .next u ∧
    u.ledger = { s.ledger with held := s.ledger.held.filter (fun h => decide (s.tick.count ≤ h.expiry)) } ∧
    (∀ k, k < 64 → (u.ring k).items = (s.ring k).items) ∧
    u = { s with rings := u.rings, ledger := u.ledger, regs := u.regs, vault := u.vault, ch := u.ch, jf := u.jf, mem := u.mem
                 log := u.log, alm := u.alm, dram := u.dram, dmErr := u.dmErr, drbg := u.drbg, outs := u.outs })

/-- A channel takes the head of the ring whose turn it is where its form and keys pass and its costs and DMA draws fit: the
item joins the ring, its costs the backlogs, and the turn passes on. A unit takes the head of its ring where no command of
it is in progress; the vault one within its limits. Nothing else changes but what the key checks and the end of a takeover
change (R76, R77, R78, R97, R107, R110, R153, R192). -/
def Obligations.DescriptorsAreAdmitted : Prop :=
  (∀ (s a s1 : State) (n : Fin 16) (t k m : Nat) (d : Bytes) (keys : List KeyRef) (p : Plan), s.halted = false →
    a = endTakeovers (s.at t) → HeadReady a k d → a.serverOf n = some m → (a.chan m).rr < 3 → k = 3 * n + (a.chan m).rr →
    1 ≤ (a.chan m).role → (a.chan m).role ≤ 3 → admitOpen a a.tick.t = true → (a.chan m).powered = true → (a.chan m).needKat = false →
    (a.ring k).passed = false → p = planOf a m (dOp d) d → chanForm a k m d p = stOK → costFits a m a.tick.t p.cost = true →
    dmaFits a a.tick.t p.rd p.wr = true → chanKeys a k m d = (s1, .ok, keys) →
    (∃ u, exec (.admitDescriptor (.channel n) t) s = .next u ∧
      Took s1 u k { desc := d, ch := m, keys := keys, cost := p.cost, core1 := pickCore s1 m, rd := p.rd, wrd := p.wr, outs := p.outs } ∧
      u.part = { s1.part with dmaRd := s1.part.dmaRd + p.rd, dmaWr := s1.part.dmaWr + p.wr } ∧
      (u.chan m).backP = (s1.chan m).backP + p.cost.p ∧ (u.chan m).backG = (s1.chan m).backG + p.cost.g ∧
      (u.chan m).back0 + (u.chan m).back1 = (s1.chan m).back0 + (s1.chan m).back1 + p.cost.i ∧
      (u.chan m).rr = ((a.chan m).rr + 1) % 4 ∧ (∀ j, j ≠ m → u.chan j = s1.chan j) ∧
      u = { s1 with rings := u.rings, part := u.part, ch := u.ch, seq := u.seq })) ∧
  (∀ (s a : State) (o : Owner) (v t k : Nat) (d : Bytes), s.halted = false → a = endTakeovers (s.at t) → UnitTurn a o v k →
    HeadReady a k d → UnitForm a v k d →
    (dOp d ≠ 0x78 →
      (∃ u, exec (.admitDescriptor o t) s = .next u ∧ Took a u k { desc := d, outs := unitOuts d } ∧ TurnPassed a u)) ∧
    ∀ s1 keys, dOp d = 0x78 → krKey a d = (s1, .ok, keys) →
      (∃ u, exec (.admitDescriptor o t) s = .next u ∧
        Took s1 u k { desc := d, keys := keys, hold := (s1.slot (keyRef d 8).slot).key } ∧ TurnPassed s1 u)) ∧
  ∀ (s a b : State) (t : Nat) (d : Bytes), s.halted = false → a = endTakeovers (s.at t) → b = vaultUse a d →
    48 ≤ a.vault.rr → a.vault.rr < 56 → HeadReady a a.vault.rr d →
    admitOpen a a.tick.t = true → vaultForm a d = stOK → dOp d ≠ 0 → vaultFull a d = false →
    (∃ u, exec (.admitDescriptor .vault t) s = .next u ∧
      Took b u a.vault.rr { desc := d, hold := vaultHold a d, outs := vaultOuts a d
                            keys := if dOp d = 0x49 then [bindRef a (keyRef d 8)] else (vaultKeys d).map (fun p => bindRef a p.1.1) } ∧
      u.vault = { b.vault with
        rr := 48 + (a.vault.rr - 47) % 8, stagedNow := b.vault.stagedNow + b2n (vaultStaging (dOp d))
        immediate := b.vault.immediate + b2n (vaultImmediate (dOp d))
        fuseBusy := if dOp d = 0x58 then some (a.vault.rr, (a.ring a.vault.rr).head) else b.vault.fuseBusy } ∧
      u = { b with rings := u.rings, vault := u.vault, seq := u.seq })

/-- A powered channel in which a check fails, a channel that fails its tests after an overrun and a SPARE channel that
fails its test are fenced with their cause and the Calends count, lose power, keys and caches, and a usable spare takes
role, rings and steering entries, or NO_SPARE is set; a SPARE that fails its test sets SPARE_BAD; one that passes its tests
admits again, with nothing else changed (R29, R85, R197, R198, R199, R201). -/
def Obligations.FailedChannelsAreFenced : Prop :=
  (∀ (s : State) (n : Fin 16) (cause : BitVec 4), s.halted = false → (s.chan n).powered = true → (s.chan n).fenced = false →
    (s.chan n).role ≠ 0 → 1 ≤ cause.toNat → cause.toNat ≤ 9 →
    (∃ u, exec (.datapathFault n cause) s = .next u ∧ FencedNow s u n cause.toNat)) ∧
  (∀ (s : State) (n : Fin 16), s.halted = false → (s.chan n).needKat = true → (s.chan n).fenced = false → (s.chan n).role ≠ 0 →
    (∃ u, exec (.overrunSelfTest n false) s = .next u ∧ FencedNow s u n 7) ∧
    (∃ u, exec (.overrunSelfTest n true) s = .next u ∧ u.chan n = { s.chan n with needKat := false } ∧
      (∀ j, j ≠ n.val → u.chan j = s.chan j) ∧ u = { s with ch := u.ch })) ∧
  ∀ (s : State) (m : Nat), s.halted = false → m < 16 → (s.chan m).role = 4 → (s.chan m).fenced = false → (s.chan m).powered = true →
    (∀ j, j < m → (s.chan j).role = 4 → (s.chan j).fenced = false → (s.chan j).powered = false) →
    (∃ u, exec (.spareSelfTest true) s = .next u ∧ u.chan m = { s.chan m with testOk := true } ∧
      (∀ j, j ≠ m → u.chan j = s.chan j) ∧ u = { s with ch := u.ch }) ∧
    (∃ u, exec (.spareSelfTest false) s = .next u ∧ FencedNow s u m 7)

/-- A privileged write burns KILL_N once, in lifecycle ROOTED only: a matching read-back writes it, a failing one leaves it
damaged. ARMD arms the command kill for the tick, any other word but KILL disarms it, an arming of an earlier tick lapses;
KILL while armed raises the alarm from source 3 and blows the root-kill fuse. Nothing else changes (R508, R510, R511, R512,
R500). -/
def Obligations.KillIsArmedAndFired : Prop :=
  (∀ (s : State) (val : Word) (ok : Bool), HostUp s → bit val.toNat 31 = true → lifecycle s = 1 → s.vault.carnival = false →
    s.boot.debug = false → s.fuses.killNWritten = false → s.fuses.killNDamaged = false → val.toNat % 16 ≠ 0 →
    (∃ u, exec (.killNBurn val ok true) s = .next u ∧ u = { hostOk s 0 with fuses :=
      { s.fuses with killN := val.toNat % 16, killNWritten := ok, killNDamaged := !ok } } ∧
      killNUsed u = (if ok then val.toNat % 16 else 1))) ∧
  (∀ (s : State) (val : Word) (ok : Bool), HostUp s → bit val.toNat 31 = true →
    (lifecycle s ≠ 1 ∨ s.fuses.killNWritten = true ∨ s.fuses.killNDamaged = true ∨ val.toNat % 16 = 0) →
    (∃ u, exec (.killNBurn val ok true) s = .next u ∧ u = (hostOk s 0).evt 0x5B00 4)) ∧
  (∀ s : State, HostUp s → (∃ u, exec (.killArm true) s = .next u ∧ killArmed u = true ∧ u.wr 0x5B00 = s.wr 0x5B00 ||| 2 ^ 3 ∧
    u = { s with host := (hostOk s 0).host, regs := u.regs, flt := { s.flt with armed := some (tickNow s) } })) ∧
  (∀ (s : State) (val : Word), HostUp s → val.toNat ≠ 0x41524D44 → val.toNat ≠ 0x4B494C4C →
    (∃ u, exec (.killDisarm val true) s = .next u ∧ u = { hostOk s 0 with flt := { s.flt with armed := none } })) ∧
  (∀ s : State, killArmed s = false → (∃ u, exec .killArmLapse s = .next u ∧ u = { s with flt := { s.flt with armed := none } })) ∧
  ∀ s : State, HostUp s → killArmed s = true → (lifecycle s = 1 ∨ lifecycle s = 2) → s.vault.carnival = false → s.boot.debug = false →
    (∃ u, exec (.kill true) s = .next u ∧ AlarmRaised (hostOk s 0) u 3 0 true ∧ u.fuses.kill = true ∧
      (s.vault.fuseBusy = none → u.fuses = { s.fuses with kill := true }))

/-- In an awake block out of reset the first alarm of a boot ends the tick, erases the stores of R20, the held store,
conversations, journal queue and log buffer, and records source and cause; its step adds one to the alarm count, up to 16,
and blows the root-kill fuse at KILL_N, or pends without VDD_FUSE; the scrub writes zeros over every range with issued
output (R485, R497, R500, R501, R502, R503, R508, R509, R511). -/
def Obligations.AlarmErasesAndBurns : Prop :=
  (∀ (s : State) (code : Fin 16) (ok : Bool), 1 ≤ code.val → code.val ≤ 12 → s.boot.inReset = false → s.boot.asleep = false →
    s.boot.alarm = false → s.boot.pfail = false →
    (∃ u, exec (.alarm (.vigil code) ok) s = .next u ∧ AlarmRaised s u 1 code ok ∧ (s.vault.fuseBusy = none → u.fuses = s.fuses))) ∧
  (∀ (s : State) (cause : AlarmCause) (ok : Bool), cause = .parity ∨ cause = .stall → s.boot.inReset = false → s.boot.asleep = false →
    s.boot.alarm = false → s.vault.drbgUp = true →
    (∃ u, exec (.alarm cause ok) s = .next u ∧ AlarmRaised s u 2 0x10 ok ∧ (s.vault.fuseBusy = none → u.fuses = s.fuses))) ∧
  (∀ s : State, s.boot.alarm = true → s.boot.inReset = false → s.flt.stepDue = true → s.flt.killDue = false →
    (∃ u, exec (.alarmCountStep true) s = .next u ∧ u.fuses = { s.fuses with
        alarmCount := min 16 (s.fuses.alarmCount + 1)
        kill := s.fuses.kill || decide (killNUsed s ≤ min 16 (s.fuses.alarmCount + 1)) } ∧
      u = { s with fuses := u.fuses, flt := { s.flt with stepDue := false } }) ∧
    (∃ u, exec (.alarmCountStep false) s = .next u ∧
        u = { s with vigil := { s.vigil with pending := true }, flt := { s.flt with stepDue := false } })) ∧
  (∀ s : State, s.boot.alarm = true → s.boot.inReset = false → s.flt.stepDue = false → s.flt.killDue = true →
    (∃ u, exec (.alarmCountStep true) s = .next u ∧
        u = { s with fuses := { s.fuses with kill := true }, flt := { s.flt with killDue := false } })) ∧
  ∀ s : State, s.boot.alarm = true → s.boot.inReset = false → s.boot.pfail = false → s.flt.scrubBusy = true →
    (∃ u, exec .outputScrub s = .next u ∧ (∀ a, tget dramInit u.dram a =
        if s.flt.scrub.any (fun r => decide (r.1 % 2 ^ 40 ≤ a) && decide (a < r.1 % 2 ^ 40 + r.2)) then 0 else tget dramInit s.dram a) ∧
      bit (u.wr 0x5B00) 2 = true ∧ u = { s with dram := u.dram, dmErr := u.dmErr, regs := u.regs, flt :=
        { s.flt with scrub := [], scrubBusy := false, scrubbed := satAdd 16 s.flt.scrubbed s.flt.scrub.length } })

/-- SLEP written to SLP_CTL requests sleep, another word does not; entry writes the image, keeps key, counter and count in
the retention store, zeroizes the stores of R20 and gates every channel; a wake that is due restores slots, ledger and
journal from a whole image under the unsealed root and advances the count by the ticks slept, and starts cold where there
is none (R20, R524, R525, R526, R527, R528, R529, R73). -/
def Obligations.SleepAndWake : Prop :=
  (∀ (s : State) (val : Word) (priv : Bool), HostUp s →
    (s.tick.due = false → (∃ u, exec (.sleepRequest val priv) s = .next u ∧
      u = { hostOk s 0 with sleep := { s.sleep with req := s.sleep.req || decide (val.toNat = 0x534C4550) } })) ∧
    (s.tick.due = true → (∃ u, exec (.sleepRequest val priv) s = .next u ∧ HeldWrite s u 0x5C08 val.toNat))) ∧
  (∀ s : State, s.boot.entering = true → (∃ u, exec .sleepEntry s = .next u ∧
    u.boot.asleep = true ∧ u.boot.entering = false ∧ u.boot.tokens = [] ∧ KeysGone u ∧ u.vault.drbgUp = false ∧
    (∀ n, (u.chan n).powered = false) ∧ u.sleep.counter = (s.sleep.counter + 1) % 2 ^ 64 ∧
    (∃ r, u.sleep.ret = some r ∧ r.counter = u.sleep.counter ∧ r.count = s.tick.count ∧ r.wakeTicks = s.fcf 0x5C04 23 0) ∧
    u.tick = s.tick ∧ (s.vault.fuseBusy = none → u.fuses = s.fuses) ∧ u.host = s.host ∧ u.nodes = s.nodes ∧
    u.portHeld = s.portHeld ∧ u.lateWr = s.lateWr ∧ u.vigil = s.vigil ∧ u.flt = s.flt ∧ u.tap = s.tap ∧ u.seq = s.seq ∧ u.pending = s.pending)) ∧
  (∀ (s : State) (r : BootReport) (root : Bytes) (k : Retention) (v : SleepSaved), s.boot.asleep = true → s.boot.inReset = false →
    wakeDue s r.elapsed = true → wakeRoot s r.ok = some root → imageWhole s = some (k, v) → (∃ u, exec (.wake r) s = .next u ∧
        u.boot.asleep = false ∧ u.vault.root = some root ∧ u.vault.drbgUp = true ∧
      (r.badChans = [] → u.jf = v.jf ∧
        u.vault = { s.vault with root := some root, drbgUp := true, slots := v.slots, epoch := v.epoch }) ∧
      (∀ n, n < 16 → (s.chan n).role ≠ 0 → (s.chan n).role ≤ 4 → (s.chan n).fenced = false →
        if n ∈ r.badChans.map (·.val) then (u.chan n).fenced = true else (u.chan n).powered = true) ∧
      u.tick.count = (s.tick.count + ticksSlept s r.elapsed) % 2 ^ 48 ∧ u.ledger = v.ledger ∧
      u.sleep = { s.sleep with ret := none, saved := none, slept := some (ticksSlept s r.elapsed), edges := 0, wakes := satInc 16 s.sleep.wakes } ∧
      u = { s with boot := u.boot, vault := u.vault, tick := u.tick, ledger := u.ledger, jf := u.jf, sleep := u.sleep, regs := u.regs
                   rings := u.rings, ch := u.ch, part := u.part, mem := u.mem, link := u.link, log := u.log, alm := u.alm
                   conv := u.conv, krysa := u.krysa, dram := u.dram, dmErr := u.dmErr, drbg := u.drbg, outs := u.outs })) ∧
  ∀ (s : State) (r : BootReport), s.boot.asleep = true → s.boot.inReset = false → wakeDue s r.elapsed = true →
    (wakeRoot s r.ok = none ∨ imageWhole s = none) → (∃ u, exec (.wake r) s = .next u ∧
      u.boot = { por := s.boot.por, debug := s.boot.debug, inReset := false, cold := true } ∧ bit (u.wr 0x5C0C) 3 = true ∧
      u.vault = {} ∧ u.tick = {} ∧ u.rings = [] ∧ u.fuses = s.fuses ∧ u.flash = s.flash ∧ u.dram = s.dram ∧ u.dmErr = s.dmErr ∧
      u.vigil = s.vigil ∧ u.tap = s.tap ∧ u.pending = s.pending)

/-- Power fail ends work, erases the root, ring keys, conversations and held frames, and with nothing held at the ports
every key; a full reset leaves every register, ring, channel and unit at its reset value, and keeps fuses, flash, DRAM,
Vigil and the debug port but for its unlock; Vigil and the debug port reset too where VDD_AON has only now risen (R26, R57,
R60, R64, R509). -/
def Obligations.PowerFailAndReset : Prop :=
  (∀ s : State, s.boot.inReset = false → s.boot.pfail = false → s.boot.asleep = false → (∃ u, exec .powerFailShutdown s = .next u ∧
    u.boot = { s.boot with pfail := true, entering := false } ∧ u.vault.root = none ∧ u.conv.table = [] ∧ u.ledger.held = [] ∧
    u.krysa.key = [] ∧ u.sleep = { s.sleep with ret := none } ∧ u.tick.due = false ∧ u.tick.closed = true ∧
    (s.portHeld = [] → KeysGone u) ∧ (s.vault.fuseBusy = none → u.fuses = s.fuses) ∧ u.part = s.part ∧ u.nodes = s.nodes ∧ u.vigil = s.vigil ∧
        u.flt = s.flt ∧
    u.tap = s.tap ∧ u.host = s.host ∧ u.seq = s.seq ∧ u.pending = s.pending)) ∧
  ∀ (s : State) (por : Bool), (∃ u, exec (.sxRstNAssert por) s = .next u ∧ u = { State.reset with
      pending := s.pending, fuses := u.fuses, flash := u.flash, dram := s.dram, dmErr := s.dmErr, outs := s.outs, drbg := s.drbg
      vigil := u.vigil, tap := u.tap, boot := u.boot } ∧
    (s.vault.fuseBusy = none → u.fuses = s.fuses) ∧ u.fuses.alarmCount = s.fuses.alarmCount ∧ (s.jf.prog = none → u.flash = s.flash) ∧
        u.boot = { ({} : Boot) with inReset := true, por := por, debug := u.boot.debug } ∧
    (s.fuses.debug = true → u.boot.debug = true) ∧ (s.tap.unlock = true → por = false → u.boot.debug = true) ∧
    (por = false → u.vigil = { s.vigil with pending := s.vigil.pending || s.flt.stepDue } ∧
      u.tap = { s.tap with unlock := false, resp := none }) ∧
    (por = true → u.vigil = {} ∧ u.tap = {} ∧ u.boot.debug = s.fuses.debug))

/-- A unit that wedges in a block out of reset and sleep is added to the wedged units; outside the alarm every open command
of its rings gets a result, and what it worked on goes: held frames, the journal queue, the ring keys, a waiting NMS
command. Nothing else changes (R497, R498). -/
def Obligations.WedgedUnitsGiveUp : Prop :=
  ∀ (s : State) (v : Fin 6), hostDead s = false → s.wedged v = false →
    (∃ u, exec (.unitWedge v) s = .next u ∧ u.flt = { s.flt with units := v.val :: s.flt.units } ∧
      (s.boot.alarm = true ∨ s.boot.lockout = true → u = { s with flt := u.flt }) ∧
      (s.boot.alarm = false → s.boot.lockout = false →
        (∀ k ∈ unitRings v, ∀ it ∈ (u.ring k).items, it.res.isSome = true) ∧ (v.val = 1 → u.ledger.held = []) ∧
        (v.val = 2 → (∀ k ∈ [60, 61], ∀ it ∈ (s.ring k).items, it.outs = []) → u.jf.queue = []) ∧ (v.val = 3 → u.krysa.key = []) ∧ (v.val = 4 →
            u.nms.wait = none) ∧ bit (u.wr 0x5B00) 0 = true) ∧
      u = { s with flt := u.flt, regs := u.regs, rings := u.rings, vault := u.vault, ch := u.ch, part := u.part, jf := u.jf, mem := u.mem
                   log := u.log, alm := u.alm, ledger := u.ledger, krysa := u.krysa, nms := u.nms, dram := u.dram, dmErr := u.dmErr, drbg := u.drbg
                   outs := u.outs })

/-- P0 leaves reset and burns a pending step; P1 unseals or first generates the root, instantiates the DRBG, creates its
slots and begins Eve mode, and a killed block stops; P2 sets the count from the journal's mark, the era or 1, and stops
where no step of the era is left; P3 restores the key tree, clears the latch of Vigil and asks power tokens for the
channels (R72, R120, R122, R128, R149, R439, R509, R516, R519, R520). -/
def Obligations.StartUpPhasesEnd : Prop :=
  (∀ (s : State) (r : BootReport), bootShut s = false → s.boot.phase = 0 → r.cause.val = 0 → r.ok = true → r.fuse = true →
    (∃ u, exec (.p0 r) s = .next u ∧ u.boot = { s.boot with
        inReset := false, riseDone := s.boot.riseDone || s.vigil.heldRise, phase := 1, times := tins s.boot.times 0 (min r.us (2 ^ 32 - 1)) } ∧
      u.vigil = { s.vigil with pending := false, heldRise := false } ∧
      u.fuses.alarmCount = (if s.vigil.pending || (s.vigil.heldRise && alarmCounts s) then min 16 (s.fuses.alarmCount + 1) else s.fuses.alarmCount) ∧
      u = { s with boot := u.boot, vigil := u.vigil, fuses := { s.fuses with alarmCount := u.fuses.alarmCount, kill := u.fuses.kill } })) ∧
  (∀ (s : State) (r : BootReport), s.halted = false → s.boot.phase = 1 → lifecycle s ≠ 3 → s.boot.debug = false → s.fuses.debug = false →
    r.ok = true → (rootBlank s = true → r.burn = true ∧ r.health = true) →
    (rootBlank s = false → rootCheck (bxor s.fuses.share1 s.fuses.share2) = s.fuses.check) →
    (∃ u, exec (.p1 r) s = .next u ∧ u.boot.phase = 2 ∧ u.boot.eve = true ∧ u.vault.drbgUp = true ∧ u.vault.carnival = false ∧
      u.vault.root = some (if rootBlank s then s.draw 32 else bxor s.fuses.share1 s.fuses.share2) ∧
      (rootBlank s = true → u.fuses.lock = true ∧ bxor u.fuses.share1 u.fuses.share2 = s.draw 32) ∧
      (rootBlank s = false → u.fuses = s.fuses) ∧ ∀ n ∈ [0x004, 0x007, 0x008, 0x010], (u.slot n).state = 1)) ∧
  (∀ (s : State) (r : BootReport), s.halted = false → s.boot.phase = 1 →
    (lifecycle s = 3 ∨ (s.boot.debug = false ∧ s.fuses.debug = false ∧ rootBlank s = true ∧ r.health = false) →
      (∃ u, exec (.p1 r) s = .next u ∧ u = { s with boot := { s.boot with stopped := true } })) ∧
    (lifecycle s ≠ 3 → s.boot.debug = false → s.fuses.debug = false → rootBlank s = true → r.health = true → r.burn = false →
      (∃ u, exec (.p1 r) s = .next u ∧ u.boot.stopped = true ∧ u.fuses.kill = true ∧ u.fuses.lock = true ∧ u.vault = s.vault)) ∧
    (lifecycle s ≠ 3 → s.boot.debug = true → r.ok = false →
      (∃ u, exec (.p1 r) s = .next u ∧
        u = { s with boot := { s.boot with stopped := true }, vault := { s.vault with katFail := true, carnival := true } }))) ∧
  (∀ (s a : State) (r : BootReport), s.halted = false → s.boot.phase = 2 → a = { s with jf := { s.jf with unreadable := r.unreadable } } →
    (mountResult a r.ok = 1 → (readLabel { a with jf := { a.jf with result := 1 } }).isSome = true →
      (∃ u, exec (.p2 r) s = .next u ∧ u.tick.count = u.jf.mark - 2 ^ 24 ∧ u.tick.countSet = true ∧ u.boot.phase = 3 ∧ u.fuses = s.fuses)) ∧
    (mountResult a r.ok = 5 →
      (∃ u, exec (.p2 r) s = .next u ∧ u.tick.count = 1 ∧ u.tick.countSet = true ∧ u.boot.phase = 3 ∧ u.fuses = s.fuses)) ∧
    (mountResult a r.ok ≠ 1 → mountResult a r.ok ≠ 5 → s.boot.first = true →
      (∃ u, exec (.p2 r) s = .next u ∧ u.tick.count = s.fuses.era * 2 ^ 44 + 1 ∧ u.tick.countSet = true ∧ u.boot.phase = 3 ∧
        u.fuses = s.fuses)) ∧
    (mountResult a r.ok ≠ 1 → mountResult a r.ok ≠ 5 → s.boot.first = false →
      (∃ u, exec (.p2 r) s = .next u ∧ if s.fuses.era < 15 then u.fuses = { s.fuses with era := s.fuses.era + 1 } ∧
          u.tick.count = (s.fuses.era + 1) * 2 ^ 44 + 1 ∧
        u.tick.countSet = true ∧ u.boot.phase = 3 else u.boot.stopped = true ∧ u.fuses = s.fuses ∧ u.tick = s.tick))) ∧
  ∀ (s : State) (r : BootReport), s.halted = false → s.boot.phase = 3 →
    (∃ u, exec (.p3 r) s = .next u ∧ u.boot = { s.boot with phase := 4, tokens := s.boot.tokens ++ p4Wants s, times := tins s.boot.times 3 (min r.us (2 ^ 32 - 1)) } ∧
    u.vault.restored = true ∧ u.vigil = { s.vigil with cause := 0 } ∧
    u = { s with boot := u.boot, vault := u.vault, vigil := u.vigil, jf := u.jf, flash := u.flash, log := u.log, alm := u.alm
                 ledger := u.ledger, conv := u.conv, nms := u.nms, drbg := u.drbg, regs := u.regs })

/-- A token powers the first waiting channel, which is fenced with cause KAT where its tests fail; P4 powers all that wait,
and ends; P5 ends the restore of the Almanac. Beyond the fence nothing but the channel, the tokens and the phase changes
(R196, R197, R367, R516, R517, R522). -/
def Obligations.ChannelsArePoweredAndTested : Prop :=
  (∀ (s : State) (n : Nat) (rest : List Nat), s.halted = false → s.boot.tokens = n :: rest → (s.chan n).role ≠ 0 →
    (s.chan n).role ≤ 4 →
    (∃ u, exec (.powerTokenGrant true) s = .next u ∧ u.chan n = { s.chan n with powered := true, testOk := true, needKat := false } ∧
      (∀ j, j ≠ n → u.chan j = s.chan j) ∧ u.boot = { s.boot with tokens := rest.filter (fun c => decide (c ≠ n)) } ∧
      u = { s with ch := u.ch, boot := u.boot }) ∧
    ((s.chan n).fenced = false → n < 16 → (∃ u, exec (.powerTokenGrant false) s = .next u ∧ FencedNow (powerOn s n false) u n 7))) ∧
  (∀ (s : State) (r : BootReport), s.halted = false → s.boot.phase = 4 → s.boot.p4Done = false →
    (∃ u, exec (.p4 r) s = .next u ∧ u.boot.phase = 5 ∧ u.boot.p4Done = true ∧ u.boot.tokens = [] ∧
      (∀ n ∈ s.boot.tokens, (s.chan n).role ≠ 0 → (s.chan n).role ≤ 4 → (s.chan n).fenced = false →
        if n ∈ r.badChans.map (·.val) then (u.chan n).fenced = true else (u.chan n).powered = true))) ∧
  ∀ (s : State) (r : BootReport), s.halted = false → s.alm.en = true → s.alm.restoring = true → s.wedged 0 = false →
    (∃ u, exec (.p5 r) s = .next u ∧ u.boot = { s.boot with p5Done := true, times := tins s.boot.times 5 (min r.us (2 ^ 32 - 1)) } ∧
        u.alm.restoring = false ∧
      u = { s with boot := u.boot, alm := u.alm, jf := u.jf, dram := u.dram, dmErr := u.dmErr, regs := u.regs })

/-- Outside sleep: IDCODE and DBG_STATUS shift out their words, DBG_CHALLENGE 16 fresh bytes, DBG_RESPONSE latches the
unlock where the answer is the CMAC under the debug-unlock secret, NMS_DAP is selected under the Carnival root only, SCAN
zeroizes every store of R20 and opens the chains with the debug fuse blown only, and BYPASS is selected in place of both
otherwise; a code that selects no other instruction selects BYPASS, which shifts its input out one bit later (R63, R64,
R65, R125). -/
def Obligations.DebugPort : Prop :=
  ∀ s : State, s.boot.asleep = false →
    (∃ u, exec .idcode s = .next u ∧ u = { s with tap := { s.tap with ir := 1, scanOpen := false }, outs := .tdo [0xC3, 0x10, 0xA4, 0x05] :: s.outs }) ∧
    (∃ u, exec .dbgStatus s = .next u ∧ u = { s with
      tap := { s.tap with ir := 0x10, scanOpen := false }
      outs := .tdo [BitVec.ofNat 8 (b2n s.fuses.debug + 2 * b2n s.tap.unlock + 4 * b2n s.vault.carnival + 8 * b2n s.boot.lockout)] :: s.outs }) ∧
    (s.vault.drbgUp = true → s.boot.lockout = false → (∃ u, exec .dbgChallenge s = .next u ∧ u = { s with
      tap := { s.tap with ir := 0x11, scanOpen := false, chal := some (s.draw 16) }, drbg := s.drbg + 16, outs := .tdo (s.draw 16) :: s.outs })) ∧
    (s.vault.drbgUp = false ∨ s.boot.lockout = true → (∃ u, exec .dbgChallenge s = .next u ∧ u = { s with
      tap := { s.tap with ir := 0x11, scanOpen := false, chal := none }, outs := .tdo (zeros 16) :: s.outs })) ∧
    (∀ (resp c : Bytes), 2 ≤ s.boot.phase → s.tap.chal = some c →
      (s.boot.lockout = false → (s.slot 0x00B).state = 1 → chainOk s 0x00B = true → sub resp 0 16 = dbgAnswer (s.slot 0x00B).key c →
        (∃ u, exec (.dbgResponse resp) s = .next u ∧ u = { s with
          tap := { s.tap with ir := 0x12, scanOpen := false, unlock := true }, regs := u.regs, log := u.log })) ∧
      (sub resp 0 16 ≠ dbgAnswer (s.slot 0x00B).key c →
        (∃ u, exec (.dbgResponse resp) s = .next u ∧ u = { s with tap := { s.tap with ir := 0x12, scanOpen := false } }))) ∧
    (s.vault.carnival = true → (∃ u, exec .nmsDap s = .next u ∧ u = { s with tap := { s.tap with ir := 0x20, scanOpen := false } })) ∧
    (s.vault.carnival = false → (∃ u, exec .nmsDap s = .next u ∧
      u = { s with tap := { s.tap with ir := 0xFF, scanOpen := false }, regs := u.regs, log := u.log })) ∧
    (s.fuses.debug = true → (∃ u, exec .scan s = .next u ∧ u.tap = { s.tap with ir := 0x30, scanOpen := true } ∧ KeysGone u ∧
      (s.vault.fuseBusy = none → u.fuses = s.fuses) ∧
      u = { s with fuses := u.fuses, tap := u.tap, regs := u.regs, rings := u.rings, vault := u.vault, ch := u.ch, mem := u.mem, link := u.link
                   log := u.log
                   conv := u.conv, krysa := u.krysa, nms := u.nms, outs := u.outs })) ∧
    (s.fuses.debug = false → (∃ u, exec .scan s = .next u ∧
      u = { s with tap := { s.tap with ir := 0xFF, scanOpen := false }, regs := u.regs, log := u.log })) ∧
    ∀ (code : BitVec 8) (tdi : List Bool),
      (code.toNat ∉ [0x01, 0x10, 0x11, 0x12, 0x20, 0x30] → (∃ u, exec (.bypass code tdi) s = .next u ∧ u = { s with
        tap := { s.tap with ir := 0xFF, scanOpen := false, bypass := tdi.getLastD false }
        outs := .tdoBits ((false :: tdi).take tdi.length) :: s.outs })) ∧
      (code.toNat ∈ [0x01, 0x10, 0x11, 0x12, 0x20, 0x30] → (∃ u, exec (.bypass code tdi) s = .next u ∧ u = s))

/-- An open item of the first six joins the staged changes of the path and direction its ring is bound to, in order of
admission and in place of an earlier staging of itself, and nothing of the SA tables changes before the Calends; SA_READ
completes OK with the PN, state, binding and suite of its entry. No other ring and nothing else changes (R82, R297, R298,
R303). -/
def Obligations.LinkChangesAreStaged : Prop :=
  ∀ (s : State) (k : Fin 64) (i p : Nat) (tx : Bool) (it : Item), ringBinding s (ringChan k) = some (p, tx) →
    (Open s k i 0x10 it → (∃ u, exec (.txscSet k i) s = .next u ∧ LinkStages s u k i p tx it)) ∧
    (Open s k i 0x11 it → (∃ u, exec (.rxscSet k i) s = .next u ∧ LinkStages s u k i p tx it)) ∧
    (Open s k i 0x12 it → (∃ u, exec (.saInstall k i) s = .next u ∧ LinkStages s u k i p tx it)) ∧
    (Open s k i 0x13 it → (∃ u, exec (.saActivate k i) s = .next u ∧ LinkStages s u k i p tx it)) ∧
    (Open s k i 0x14 it → (∃ u, exec (.saRetire k i) s = .next u ∧ LinkStages s u k i p tx it)) ∧
    (Open s k i 0x15 it → (∃ u, exec (.saUpdatePn k i) s = .next u ∧ LinkStages s u k i p tx it)) ∧
    (Open s k i 0x16 it → (∃ u, exec (.saRead k i) s = .next u ∧
      ItemEnds s u k i stOK false (saResult (s.sae p tx (leAt it.desc 8 2))) ∧ u = { s with rings := u.rings, part := u.part, ch := u.ch }))

/-- At the commit TXSC_SET with EN sets the SecY from its descriptor; SA_INSTALL makes a FREE entry READY with the key of
its slot, PN, suite and revocation epoch; SA_ACTIVATE makes a READY transmit entry ACTIVE, binds it and makes it the
encoding SA in place of the last, which goes back to BOUND; SA_RETIRE frees the entry; SA_UPDATE_PN only raises the PN
(R298, R299, R300, R301, R302, R304). -/
def Obligations.StagedLinkChangesCommit : Prop :=
  ∀ (s : State) (c : LinkChange) (r : KeyRef) (d : Bytes),
    (dOp d = 0x10 → bit (leAt d 9 1) 0 = true → (∀ a ∈ (s.secy c.path (leAt d 8 1)).ans, a = none) →
      (commitLinkOne s c r d).2.1 = stOK ∧ (commitLinkOne s c r d).1.secy c.path (leAt d 8 1) = { s.secy c.path (leAt d 8 1) with
        en := true, vmatch := bit (leAt d 9 1) 1, sciTx := bit (leAt d 9 1) 2, es := bit (leAt d 9 1) 3, scb := bit (leAt d 9 1) 4
        encrypt := bit (leAt d 9 1) 5, offset := leAt d 0x0A 1, suite := leAt d 0x0B 1, vid := leAt d 0x0C 2, sci := sub d 0x10 8 }) ∧
    (dOp d = 0x12 → keyCheck s [(r, fun _ => true)] = stOK →
      saPermit ((linkServer s c.path c.tx).getD 16) (leAt d 0x0A 1) c.tx (s.slot r.slot) = true →
      (s.sae c.path c.tx (leAt d 8 2)).state = 0 → (commitLinkOne s c r d).2.1 = stOK ∧
      ∃ y, (commitLinkOne s c r d).1.sae c.path c.tx (leAt d 8 2) = y ∧ y.state = 1 ∧ y.suite = leAt d 0x0A 1 ∧ y.pn = leAt d 0x18 8 ∧
        y.slot = r.slot ∧ y.gen = r.gen ∧ y.epoch = s.vault.epoch ∧ y.bound = none ∧
        ((s.slot r.slot).share1.length = (s.slot r.slot).share2.length → y.key = (s.slot r.slot).key)) ∧
    (dOp d = 0x13 → c.tx = true → (s.secy c.path (leAt d 8 1)).en = true → (s.sae c.path true (leAt d 0x0A 2)).state = 1 →
      (s.sae c.path true (leAt d 0x0A 2)).suite = (s.secy c.path (leAt d 8 1)).suite →
      (s.secy c.path (leAt d 8 1)).ans.getD (leAt d 9 1 % 4) none = none →
      (∀ a, (s.secy c.path (leAt d 8 1)).ans.getD a none ≠ some (leAt d 0x0A 2)) → (commitLinkOne s c r d).2.1 = stOK ∧
      (commitLinkOne s c r d).1.sae c.path true (leAt d 0x0A 2) = { s.sae c.path true (leAt d 0x0A 2) with
        state := 3, bound := some (leAt d 8 1, leAt d 9 1 % 4), retireAt := none } ∧
      (commitLinkOne s c r d).1.secy c.path (leAt d 8 1) = { s.secy c.path (leAt d 8 1) with
        ans := (s.secy c.path (leAt d 8 1)).ans.set (leAt d 9 1 % 4) (some (leAt d 0x0A 2)), enc := some (leAt d 9 1 % 4) } ∧
      ∀ a e, (s.secy c.path (leAt d 8 1)).enc = some a → (s.secy c.path (leAt d 8 1)).ans.getD a none = some e → e ≠ leAt d 0x0A 2 →
        (s.sae c.path true e).state = 3 → ((commitLinkOne s c r d).1.sae c.path true e).state = 2) ∧
    (dOp d = 0x14 → ∀ e, s.boundEntry c.path c.tx (leAt d 8 1) (leAt d 9 1 % 4) = some e →
      (commitLinkOne s c r d).2.1 = stOK ∧ (commitLinkOne s c r d).1.sae c.path c.tx e = {}) ∧
    (dOp d = 0x15 → (s.sae c.path c.tx (leAt d 8 2)).state ≠ 0 → (commitLinkOne s c r d).2.1 = stOK ∧
      (commitLinkOne s c r d).1.sae c.path c.tx (leAt d 8 2) = { s.sae c.path c.tx (leAt d 8 2) with
        pn := max (s.sae c.path c.tx (leAt d 8 2)).pn (leAt d 0x10 8) })

/-- A client frame and a heartbeat on a ready UP path leave secured under the encoding SA of their SecY, whose PN and frame
count go up by one; a received MACsec frame whose tag verifies goes to client receive, a false one under strict validation
is counted and goes nowhere; EAPOL frames leave in the clear; frames of a HELD path are held, and frames between a Calends
instant and its commit wait at the port; READY lets waiting frames leave in order; a path HELD long enough discards what it
holds (R50, R289, R290, R292, R306, R312, R318). -/
def Obligations.FramesAreSecuredAndValidated : Prop :=
  ∀ (s : State) (p : Fin 2), linkDead s = false →
    (s.tick.due = true → ∀ (f : Bytes) (err : Bool),
      (∃ u, exec (.clientTxFrame p f) s = .next u ∧ u = { s with portHeld := s.portHeld ++ [.clientTxFrame p f] }) ∧
      (∃ u, exec (.lineRxFrame p f err) s = .next u ∧ u = { s with portHeld := s.portHeld ++ [.lineRxFrame p f err] })) ∧
    (∀ f : Bytes, s.tick.due = false → f.length ≤ 9600 → etherType f = 0x888E → bit (s.fc (0x4018 + 0x40 * p)) 0 = true →
      (s.path p).state ≠ 4 → (s.path p).phy = true → (s.path p).lineReady = true → (s.path p).txq = [] →
      (∃ u, exec (.clientTxFrame p f) s = .next u ∧ (∀ q, u.path q = s.path q) ∧
        u = { s with link := u.link, outs := .lineTx p f :: s.outs })) ∧
    (∀ f : Bytes, s.tick.due = false → f.length ≤ 9600 → (etherType f = 0x888E → bit (s.fc (0x4018 + 0x40 * p)) 0 = false) →
      (s.path p).state = 2 → holdUnits (s.path p).holdTx + cdiv f.length 16 ≤ 16384 →
      (∃ u, exec (.clientTxFrame p f) s = .next u ∧ u.path p = { s.path p with holdTx := (s.path p).holdTx ++ [f] } ∧
        (∀ q, q ≠ p.val → u.path q = s.path q) ∧ u = { s with link := u.link })) ∧
    (∀ (f : Bytes) (n an e : Nat), s.tick.due = false → f.length ≤ 9600 →
      (etherType f = 0x888E → bit (s.fc (0x4018 + 0x40 * p)) 0 = false) → (s.path p).state = 0 → (s.path p).takeTx = false →
      (s.path p).holdTx = [] →
      (linkServer s p true).isSome = true → secyOf s p f = some n → Sends s p n an e → (s.path p).lineReady = true → (s.path p).txq = [] →
      16 ≤ s.fcf (0x4014 + 0x40 * p) 21 16 → s.fcf (0x4014 + 0x40 * p) 21 16 ≤ 62 →
      (∃ u, exec (.clientTxFrame p f) s = .next u ∧ SentOn s u p n an e f ∧ (u.path p).hbSeq = (s.path p).hbSeq)) ∧
    (∀ n an e : Nat, n = bits (s.fc (0x4000 + 0x40 * p)) 14 10 → bit (s.fc (0x4000 + 0x40 * p)) 15 = true → (s.path p).phy = true →
      (s.path p).state ≠ 4 → (s.path p).takeTx = false → s.tick.due = false → (linkServer s p true).isSome = true → (s.secy p n).en = true →
          Sends s p n an e →
      (s.path p).lineReady = true → (s.path p).txq = [] →
      16 ≤ s.fcf (0x4014 + 0x40 * p) 21 16 → s.fcf (0x4014 + 0x40 * p) 21 16 ≤ 62 →
      (∃ u, exec (.heartbeatSend p) s = .next u ∧ SentOn s u p n an e (heartbeatFrame s p) ∧
        (u.path p).hbSeq = ((s.path p).hbSeq + 1) % 2 ^ 32)) ∧
    (∀ (f g : Bytes) (n e : Nat) (x : SaEntry) (sc : RxSc) (t : RxTag) (sec iv clear hidden : Bytes), s.tick.due = false → (s.path p).state ≠ 4 →
      (s.path p).takeRx = false →
      (linkServer s p false).isSome = true → f.length ≤ 9632 → etherType f = 0x88E5 → t = rxTag f → t.ok = true → rxScOf s p f t = some n →
      sc = s.rxsc p n → sc.ans.getD t.an none = some e → x = s.sae p false e → x.state = 3 → (t.pn ≠ 0 ∨ xpn x.suite = true) →
      (sc.replay = true → x.pn ≤ rxPn x.suite x.pn t.pn) → t.c = true →
      sec = (f.drop t.head).take (f.length - t.head - 16) → clear = sec.take sc.offset → hidden = sec.drop sc.offset →
      iv = macsecIv x.suite sc.sci x.ssci x.salt (rxPn x.suite x.pn t.pn) → g = sub f 0 12 ++ clear ++ gcmText x.key iv hidden →
      (gcmTag x.key iv (sub f 0 t.head ++ clear) hidden = f.drop (f.length - 16) → etherType g ≠ 0x88B5 →
        (∃ u, exec (.lineRxFrame p f false) s = .next u ∧ u.outs = .clientRx p g :: s.outs ∧ (u.path p).hbSeen = true ∧
          u.sae p false e = { x with frames := satInc 32 x.frames, pn := max x.pn (rxPn x.suite x.pn t.pn + 1 - sc.window) } ∧
          u.stw (0x3801C + 0x40 * p) = (s.stw (0x3801C + 0x40 * p) + 1) % 2 ^ 32 ∧ u = { s with link := u.link, regs := u.regs, outs := u.outs })) ∧
      (gcmTag x.key iv (sub f 0 t.head ++ clear) hidden ≠ f.drop (f.length - 16) →
        (∃ u, exec (.lineRxFrame p f false) s = .next u ∧ u.outs = s.outs ∧ u.sae p false e = { x with frames := satInc 32 x.frames } ∧
          u.stf (0x38020 + 0x40 * p) 15 0 = satInc 16 (s.stf (0x38020 + 0x40 * p) 15 0) ∧ u = { s with link := u.link, regs := u.regs }))) ∧
    ((s.path p).holdTx = [] → (s.path (1 - p)).holdTx = [] → (s.path p).state ≠ 4 →
      (∃ u, exec (.lineTxReady p true) s = .next u ∧ u.outs = ((s.path p).txq.map (fun f => Out.lineTx p f.2)).reverse ++ s.outs ∧
        u.path p = { s.path p with lineReady := true, txq := [] } ∧ (∀ q, q ≠ p.val → u.path q = s.path q) ∧
            u = { s with link := u.link, outs := u.outs }) ∧
      (∃ u, exec (.lineTxReady p false) s = .next u ∧ u.path p = { s.path p with lineReady := false } ∧ (∀ q, q ≠ p.val → u.path q = s.path q) ∧
        u = { s with link := u.link })) ∧
    ((s.path p).state = 2 → s.fcf (0x4014 + 0x40 * p) 31 24 ≤ (s.path p).heldTicks →
      (∃ u, exec (.holdFlush p) s = .next u ∧ u.path p = { s.path p with holdTx := [] } ∧ (∀ q, q ≠ p.val → u.path q = s.path q) ∧
        u.stf (0x38018 + 0x40 * p) 31 16 = satAdd 16 (s.stf (0x38018 + 0x40 * p) 31 16) (s.path p).holdTx.length ∧
        u = { s with link := u.link, regs := u.regs }))

/-- A low link input and the third missed heartbeat interval in a row fail an UP path: DOWN where the other is UP, else
HELD; a valid frame in the interval clears the count; the flush discards the frames of the failed path and connects its
hold buffer; good service for long enough makes a path READY; a return that is complete makes it UP (R311, R313, R315,
R317). -/
def Obligations.PathsFailOverAndReturn : Prop :=
  ∀ (s : State) (p : Fin 2), linkDead s = false →
    ((s.path p).state = 0 → (∃ u, exec (.phyDown p) s = .next u ∧ (u.path p).phy = false ∧ (u.path p).good = 0 ∧ (u.path p).flush = true ∧
      (u.path p).state = (if (s.path (1 - p)).state = 0 then 1 else 2) ∧
      (u.path (1 - p)).state = (if (s.path (1 - p)).state = 1 then 2 else (s.path (1 - p)).state) ∧
      u.stf (0x38000 + 0x40 * p) 31 16 = satInc 16 (s.stf (0x38000 + 0x40 * p) 31 16) ∧
      u = { s with link := u.link, regs := u.regs, rings := u.rings, log := u.log })) ∧
    (∃ u, exec (.phyUp p) s = .next u ∧ u.path p = { s.path p with phy := true, fresh := true, good := 0 } ∧ (∀ q, q ≠ p.val →
        u.path q = s.path q) ∧
      u = { s with link := u.link }) ∧
    (bit (s.fc (0x4000 + 0x40 * p)) 15 = true →
      ((s.path p).hbSeen = true → (∃ u, exec (.heartbeatIntervalEnd p) s = .next u ∧
          u.path p = { s.path p with hbSeen := false, hbOk := true, missed := 0 } ∧ (∀ q, q ≠ p.val → u.path q = s.path q) ∧
          u = { s with link := u.link })) ∧
      ((s.path p).hbSeen = false → (s.path p).missed < 2 → (∃ u, exec (.heartbeatIntervalEnd p) s = .next u ∧
          u.path p = { s.path p with hbOk := false, missed := (s.path p).missed + 1, good := 0, fresh := true, ready := false } ∧
        (∀ q, q ≠ p.val → u.path q = s.path q) ∧ u = { s with link := u.link })) ∧
      ((s.path p).hbSeen = false → 2 ≤ (s.path p).missed → (s.path p).state = 0 → pathServed s p = true →
        (∃ u, exec (.heartbeatIntervalEnd p) s = .next u ∧ (u.path p).missed = 3 ∧ (u.path p).hbOk = false ∧ (u.path p).flush = true ∧
          (u.path p).state = (if (s.path (1 - p)).state = 0 then 1 else 2) ∧
          u = { s with link := u.link, regs := u.regs, rings := u.rings, log := u.log }))) ∧
    ((s.path p).flush = true → (s.path p).state ≠ 0 → (∃ u, exec (.failoverFlush p) s = .next u ∧ (u.path p).txq = [] ∧
        (u.path p).flush = false ∧ (u.path p).conn = decide ((s.path p).state = 1) ∧ (u.path p).state = (s.path p).state ∧
      u = { s with link := u.link, regs := u.regs, rings := u.rings, outs := u.outs })) ∧
    ((s.path p).state = 1 ∨ (s.path p).state = 2 → (s.path p).ready = false → s.fcf (0x4014 + 0x40 * p) 7 0 ≤ (s.path p).good →
      (∃ u, exec (.pathRecovered p) s = .next u ∧ u.path p = { s.path p with ready := true } ∧ (∀ q, q ≠ p.val → u.path q = s.path q) ∧
        bit (u.wr 0x4080) (2 + p) = true ∧ u = { s with link := u.link, regs := u.regs, rings := u.rings })) ∧
    ((s.path p).state = 3 → (s.path (1 - p)).txq.any (fun f => decide (f.1 = p.val)) = false → (s.path p).phy = true →
      (∃ u, exec (.pathReturnComplete p) s = .next u ∧ (u.path p).state = 0 ∧ (u.path p).ready = false ∧
        (u.path (1 - p)).state = (if (s.path (1 - p)).state = 2 ∧ (s.path (1 - p)).ready = false then 1 else (s.path (1 - p)).state) ∧
        u = { s with link := u.link, regs := u.regs, rings := u.rings, outs := u.outs }))

/-- Where an overlap has run out, the receive entries it names become FREE; where the revocation epoch has changed, every
entry that is not FREE is checked: with a key still good it takes the new epoch, else it becomes DEAD and its key goes.
Nothing else but events and counters changes (R295, R301, R302, R308). -/
def Obligations.EntriesRetireAndRevalidate : Prop :=
  (∀ (s : State) (p : Fin 2), linkDead s = false → (∃ u, exec (.saOverlapEnd p) s = .next u ∧
    (∀ e c, (s.sae p false e).retireAt = some c → c ≤ s.tick.count → u.sae p false e = {}) ∧
    (∀ e, (∀ c, (s.sae p false e).retireAt = some c → s.tick.count < c) → u.sae p false e = s.sae p false e) ∧
    (∀ e, u.sae p true e = s.sae p true e) ∧ (∀ q, q ≠ p.val → u.path q = s.path q) ∧ u = { s with link := u.link })) ∧
  ∀ (s : State) (p : Fin 2), linkDead s = false → (∃ u, exec (.saRevalidate p) s = .next u ∧
    (∀ tx e, (s.sae p tx e).state ≠ 0 → (s.sae p tx e).epoch ≠ s.vault.epoch →
      if keyCheck s [({ slot := (s.sae p tx e).slot, gen := (s.sae p tx e).gen }, fun _ => true)] = stOK
      then u.sae p tx e = { s.sae p tx e with epoch := s.vault.epoch }
      else (u.sae p tx e).state = 5 ∧ (u.sae p tx e).share1 = [] ∧ (u.sae p tx e).share2 = []) ∧
    (∀ tx e, (s.sae p tx e).state = 0 ∨ (s.sae p tx e).epoch = s.vault.epoch → u.sae p tx e = s.sae p tx e) ∧
    (∀ q, q ≠ p.val → u.path q = s.path q) ∧ u = { s with link := u.link, regs := u.regs, rings := u.rings })

/-- An open uplink whose frame can be read and parses, of a node this unit owns in a tier with the epoch key bound, whose
MIC verifies under the node key and whose commit answers OK completes OK with its RESULT, its payload written before the
conversations take it; where the payload can not be written it ends MALFORMED; a frame that does not parse ends MALFORMED,
one whose MIC fails AUTH_FAIL with no commit, one of a node of another unit REDIRECT (R333, R335, R337, R338, R346, R327). -/
def Obligations.UplinksAreCheckedAndCommitted : Prop :=
  ∀ (s s1 : State) (k : Fin 64) (i : Nat) (it : Item) (f : Bytes), Works s k i 0x20 it →
    hostRead s (addrAt it.desc 8) (leAt it.desc 0x1E 2) = (s1, .ok f) →
    (parseUp it.desc f = none → (∃ t, exec (.uplink k i) s = .next t ∧ ItemEnds s t k i stMalformed (decide (it.outs ≠ [])) [])) ∧
    ∀ (p : UpFrame) (n : Nat) (s2 s3 : State) (g : Option (Nat × AlmEntry)), parseUp it.desc f = some p → s1.wedged 0 = false →
      n = f.length - p.hdr - p.mic →
      s2 = modItem s1 k i (fun x => { x with outs := if n = 0 then [] else [(addrAt it.desc 0x10, n)] }) →
      almGet s2 (leAt it.desc 0x18 4) = (s3, g) →
      (∀ m, ownerOf s3 (leAt it.desc 0x18 4) = .other m →
        (∃ t, exec (.uplink k i) s = .next t ∧ NodeFrame s t ∧ ItemEndsOf s t k i stRedirect (decide (n ≠ 0))
          (upResult it.desc p ((g.map (·.2.state)).getD 2) false false m))) ∧
      ∀ (tier : Nat) (key : Bytes) (r : KeyRef) (rest : List KeyRef), ownerOf s3 (leAt it.desc 0x18 4) = .own →
        tierOf s3 (leAt it.desc 0x18 4) = some tier → ((s3.tier tier).field (leAt it.desc 0x1C 1)).isSome = true → it.keys = r :: rest →
        (p.hlf = true ∨ (s3.tier tier).s154Min ≤ p.level) → nodeKey s3 it.ch r (leAt it.desc 0x18 4) = key →
        (openUp key f p = none →
          (∃ t, exec (.uplink k i) s = .next t ∧ NodeFrame s t ∧ ItemEndsOf s t k i stAuthFail (decide (n ≠ 0))
            (upResult it.desc p ((g.map (·.2.state)).getD 2) false false 0))) ∧
        ∀ (pl : Bytes) (auth : Bool) (x : ConvInput) (s5 s6 : State) (a : AlmAns), openUp key f p = some (pl, auth) →
          x = upInput s3 it.desc p pl auth → almCommit s3 (upCommit it.desc p x) = (s5, a) → a.status = stOK →
          (∀ s7 c, (if pl = [] then s6 = s5 else hostWrite s5 (addrAt it.desc 0x10) pl = (s6, true)) →
            convUplink s6 it.ch (leAt it.desc 0x18 4) a.aux a.sync true { x with status := stOK } = (s7, c) →
            (∃ t, exec (.uplink k i) s = .next t ∧ ItemEndsOf s t k i stOK false (upResult it.desc p a.sync auth c a.aux) ∧
              t.dram = s7.dram ∧ t.alm = s7.alm ∧ t.conv = s7.conv ∧ NodeFrame s t)) ∧
          (pl ≠ [] → hostWrite s5 (addrAt it.desc 0x10) pl = (s6, false) →
            (∃ t, exec (.uplink k i) s = .next t ∧ ItemEndsOf s t k i stMalformed (decide (n ≠ 0)) [] ∧ NodeFrame s t))

/-- An open downlink whose input can be read ends with the status, counter, TS and air-time its steps come to: OK with the
frame in memory, HELD with the frame in the held store, else its rejection, and MALFORMED where the frame can not be
written. A frame that fits its band with nothing held for the band is charged to the current bucket; a request with HOLD 0
that does not fit is REJECTED uncharged (R341, R343, R344, R379, R380, R381). -/
def Obligations.DownlinksAreSecuredAndCharged : Prop :=
  (∀ (s s1 s2 s3 : State) (k : Fin 64) (i m : Nat) (it : Item) (src : Bytes) (q : DownReq) (a : DownAns), Works s k i 0x21 it →
    hostRead s (addrAt it.desc 8) (frameIn 0x21 it.desc) = (s1, .ok src) → q = downReq s1 k it src →
    m = (if q.hlf then 0 else ((s154Parse src q.hdr q.aux).map (fun a => s154Mic a.level)).getD 0) →
    s2 = (if m = 0 then s1 else modItem s1 k i (fun x => { x with outs := [(addrAt it.desc 0x10, frameOut 0x21 it.desc + m)] })) →
    downlinkCore s2 q = (s3, a) →
    (∀ s4, a.status = stOK → hostWrite s3 (addrAt it.desc 0x10) a.frame = (s4, true) →
      (∃ t, exec (.downlink k i) s = .next t ∧ ItemEndsOf s t k i stOK false a.result ∧ t.dram = s4.dram ∧ t.ledger = s3.ledger ∧
        NodeFrame s t)) ∧
    (∀ s4, a.status = stOK → hostWrite s3 (addrAt it.desc 0x10) a.frame = (s4, false) →
      (∃ t, exec (.downlink k i) s = .next t ∧ ItemEndsOf s t k i stMalformed (decide (m ≠ 0 ∨ it.outs ≠ [])) a.result ∧ NodeFrame s t)) ∧
    (a.status = stHeld → (∃ t, exec (.downlink k i) s = .next t ∧ ItemEndsOf s t k i stHeld false a.result ∧ t.dram = s3.dram ∧
      t.ledger = s3.ledger ∧ NodeFrame s t)) ∧
    (a.status ≠ stOK → a.status ≠ stHeld →
      (∃ t, exec (.downlink k i) s = .next t ∧ ItemEndsOf s t k i a.status (decide (m ≠ 0 ∨ it.outs ≠ [])) a.result ∧ NodeFrame s t))) ∧
  ∀ (s : State) (q : TxReq) (b : Band) (r : Rate), s.wedged 1 = false → s.band q.band = some b → r = b.rates.getD q.rate {} →
    r.valid = true → airtime r q.frame.length ≤ b.maxTx → airtime r q.frame.length ≤ b.budget →
    (∀ (c : Nat) (rest : List Nat), (∀ h ∈ s.ledger.held, h.band ≠ q.band) → s.ledger.buckets[q.band]? = some (c :: rest) →
      usedAir s q.band + airtime r q.frame.length ≤ b.budget →
      (ledgerDecide s q).2 = (stOK, airtime r q.frame.length) ∧
      (ledgerDecide s q).1 = { s with ledger := { s.ledger with
        buckets := s.ledger.buckets.set q.band (min 0xFFFFFFFF (c + airtime r q.frame.length) :: rest) } }) ∧
    (b.budget < usedAir s q.band + airtime r q.frame.length → q.hold = 0 →
      (ledgerDecide s q).2 = (stReject, airtime r q.frame.length) ∧ (ledgerDecide s q).1 = { s with regs := (ledgerDecide s q).1.regs })

/-- CONV_START opens the lowest free entry of its channel with fresh SEQ and CHAL and queues the START step; CONV_END and
the end of LIFE free the entry, CONV_QUERY writes its 64 bytes; a timeout of a SENT entry reopens it with a TIMEOUT step,
or frees it without retries; in the turn of a channel's engines the oldest step that fits starts its program on a free
engine, a built-in TIMEOUT takes a retry, and one that does not fit waits for the next tick (R398, R399, R400, R401, R408,
R409, R413). -/
def Obligations.ConversationsOpenAndEnd : Prop :=
  (∀ (s s1 : State) (k : Fin 64) (i id : Nat) (it : Item) (g : Option (Nat × AlmEntry)), Open s k i 0x30 it →
    ownerOf s (leAt it.desc 8 4) = .own → almGet s (leAt it.desc 8 4) = (s1, g) →
    startWhy s1 it.ch (leAt it.desc 8 4) (leAt it.desc 0x0C 1) (sub it.desc 0x10 12) (g.map (·.2)) = 0 → freeConv s1 it.ch = some id →
    (∃ t, exec (.convStart k i) s = .next t ∧ ItemEndsOf s t k i stOK false (toLe 2 id ++ toLe 1 s.conv.seq) ∧ (t.convAt id).state = 1 ∧
        (t.convAt id).node = leAt it.desc 8 4 ∧ (t.convAt id).proto = leAt it.desc 0x0C 1 ∧
      (t.convAt id).seq = s.conv.seq ∧ (t.convAt id).chal = s1.draw 8 ∧ t.drbg = s1.drbg + 8 ∧ (t.convAt id).tag = dTag it.desc ∧
      (∀ j, j ≠ id → t.convAt j = s.convAt j) ∧ t.conv.seq = s.conv.seq % 255 + 1 ∧
      tget [] t.conv.steps (id / 256) = tget [] s.conv.steps (id / 256) ++ [{ id := id, kind := 0 }] ∧ NodeFrame s t)) ∧
  (∀ (s : State) (k : Fin 64) (i id : Nat) (it : Item), Open s k i 0x31 it → id = leAt it.desc 8 2 → id / 256 = it.ch → onEngine s id = false →
    (∃ t, exec (.convEnd k i) s = .next t ∧ ItemEndsOf s t k i stOK false [] ∧ (t.convAt id).state = 0 ∧ (∀ j, j ≠ id →
        t.convAt j = s.convAt j) ∧ NodeFrame s t)) ∧
  (∀ (s s1 : State) (k : Fin 64) (i id : Nat) (it : Item), Open s k i 0x32 it → id = leAt it.desc 8 2 → id / 256 = it.ch →
    hostWrite s (addrAt it.desc 0x10) (s.convAt id).bytes = (s1, true) →
    (∃ t, exec (.convQuery k i) s = .next t ∧ ItemEnds s t k i stOK false [] ∧ t.dram = s1.dram)) ∧
  (∀ (s : State) (ch : Fin 16) (n : Fin 256) (id : Nat), id = 256 * ch + n → s.halted = false →
    ((s.convAt id).state = 2 → (s.convAt id).timer = 0 → (s.convAt id).retry ≠ 0 → (∃ t, exec (.convTimeout ch n) s = .next t ∧
        t.convAt id = { s.convAt id with state := 1 } ∧ (∀ j, j ≠ id → t.convAt j = s.convAt j) ∧
      ({ id := id, kind := 2 } : ConvStep) ∈ tget [] t.conv.steps (id / 256) ∧ t = { s with conv := t.conv })) ∧
    ((s.convAt id).state = 2 → (s.convAt id).timer = 0 → (s.convAt id).retry = 0 → (∃ t, exec (.convTimeout ch n) s = .next t ∧
        t.convAt id = {} ∧ (∀ j, j ≠ id → t.convAt j = s.convAt j) ∧
      t = { s with conv := t.conv, regs := t.regs, rings := t.rings, ch := t.ch, alm := t.alm, dram := t.dram, dmErr := t.dmErr })) ∧
    ((s.convAt id).state ≠ 0 → (s.convAt id).life = 0 → (∃ t, exec (.convExpire ch n) s = .next t ∧ t.convAt id = {} ∧ (∀ j, j ≠ id →
        t.convAt j = s.convAt j) ∧
      t = { s with conv := t.conv, regs := t.regs, rings := t.rings, ch := t.ch, alm := t.alm, dram := t.dram, dmErr := t.dmErr }))) ∧
  ∀ (s a : State) (ch : Fin 16) (tm id cq : Nat) (kind : Nat) (rest : List ConvStep) (c : Conv), a = s.at tm → c = s.convAt id → cq = c.cq →
    admitOpen a a.tick.t = true → (s.chan ch).fenced = false → (s.chan ch).powered = true → (s.chan ch).needKat = false →
    (s.chan ch).role = 3 → (s.chan ch).stepPassed = false → (s.chan ch).rr = 3 →
    (∀ p, (s.path p).takeTx = false ∧ (s.path p).takeRx = false) → s.conv.engines = [] →
        tget [] s.conv.steps ch = { id := id, kind := kind } :: rest →
    (costFits a ch a.tick.t (stepCost a id) = false ∨ (s.ring (64 + cq)).free < 2 → (∀ j, j < 3 →
        (s.ring (3 * (s.chan ch).ringsOf + j)).en = false) →
      (∃ t, exec (.conversationStep ch tm) s = .next t ∧ t.chan ch = { s.chan ch with stepPassed := true } ∧ (∀ j, j ≠ ch.val →
          t.chan j = s.chan j) ∧ t = { a with ch := t.ch })) ∧
    (∀ w, costFits a ch a.tick.t (stepCost a id) = true → 2 ≤ (s.ring (64 + cq)).free → kind = 0 → 5 ≤ c.proto →
        (s.program c.proto).code[(s.program c.proto).start]? = some w → iOp w ≤ 0x1E →
      (∃ t, exec (.conversationStep ch tm) s = .next t ∧ (t.engine ch 0).on = true ∧ (t.engine ch 0).id = id ∧
          (t.engine ch 0).pc = (s.program c.proto).start ∧
        (t.engine ch 0).g = List.replicate 16 0 ∧ (t.engine ch 0).output = zeros 64 ∧
            (t.ring (64 + cq)).reserved = (s.ring (64 + cq)).reserved + 2 ∧
        tget [] t.conv.steps ch = rest ∧ t.conv.table = s.conv.table ∧ t = { a with conv := t.conv, rings := t.rings, ch := t.ch })) ∧
    (costFits a ch a.tick.t (stepCost a id) = true → 2 ≤ (s.ring (64 + cq)).free → kind = 2 → c.proto ≤ 4 → c.state = 1 → c.retry ≠ 0 →
        (∃ t, exec (.conversationStep ch tm) s = .next t ∧ t.convAt id = { c with retry := c.retry - 1 } ∧ (∀ j, j ≠ id →
        t.convAt j = s.convAt j) ∧ tget [] t.conv.steps ch = rest ∧
      t.conv.engines = [] ∧ t = { a with conv := t.conv, rings := t.rings, ch := t.ch }))

/-- An instruction of an engine writes RD modulo 2^32 with what its OP computes from RA, RB and IMM, shifts taking RB
modulo 32 and ADDI a signed IMM, and goes to the next instruction; a branch goes to pc + 1 + IMM where its condition holds
and to pc + 1 otherwise; each counts one instruction and changes nothing else (R400, R413, R414). -/
def Obligations.EngineArithmetic : Prop :=
  ∀ (s : State) (ch : Fin 16) (e : Fin 2) (w a b : Nat), a = (s.engine ch e).g.getD (iRa w) 0 → b = (s.engine ch e).g.getD (iRb w) 0 →
    (∀ v ∈ (s.engine ch e).g, v < 2 ^ 32) →
    (NextOk s ch e ((s.engine ch e).pc + 1) →
      (AtInstr s ch e 0x00 w → (∃ u, exec (.engineNop ch e) s = .next u ∧ Went s u ch e ((s.engine ch e).pc + 1))) ∧
      (AtInstr s ch e 0x01 w → (∃ u, exec (.engineAdd ch e) s = .next u ∧ Wrote s u ch e w (a + b))) ∧
      (AtInstr s ch e 0x02 w → (∃ u, exec (.engineSub ch e) s = .next u ∧ Wrote s u ch e w (a + 2 ^ 32 - b))) ∧
      (AtInstr s ch e 0x03 w → (∃ u, exec (.engineAnd ch e) s = .next u ∧ Wrote s u ch e w (a &&& b))) ∧
      (AtInstr s ch e 0x04 w → (∃ u, exec (.engineOr ch e) s = .next u ∧ Wrote s u ch e w (a ||| b))) ∧
      (AtInstr s ch e 0x05 w → (∃ u, exec (.engineXor ch e) s = .next u ∧ Wrote s u ch e w (a ^^^ b))) ∧
      (AtInstr s ch e 0x06 w → (∃ u, exec (.engineShl ch e) s = .next u ∧ Wrote s u ch e w (a * 2 ^ (b % 32)))) ∧
      (AtInstr s ch e 0x07 w → (∃ u, exec (.engineShr ch e) s = .next u ∧ Wrote s u ch e w (a / 2 ^ (b % 32)))) ∧
      (AtInstr s ch e 0x08 w → (∃ u, exec (.engineAddi ch e) s = .next u ∧
          Wrote s u ch e w (if iImm w < 2 ^ 13 then a + iImm w else a + 2 ^ 32 - (2 ^ 14 - iImm w)))) ∧
      (AtInstr s ch e 0x09 w → (∃ u, exec (.engineLui ch e) s = .next u ∧ Wrote s u ch e w (iImm w * 2 ^ 18))) ∧
      (AtInstr s ch e 0x0A w → (∃ u, exec (.engineOri ch e) s = .next u ∧ Wrote s u ch e w (a ||| iImm w)))) ∧
    ∀ pc : Nat, NextOk s ch e pc →
      (AtInstr s ch e 0x0B w → Lands s ch e w (a = b) pc → (∃ u, exec (.engineBeq ch e) s = .next u ∧ Went s u ch e pc)) ∧
      (AtInstr s ch e 0x0C w → Lands s ch e w (a ≠ b) pc → (∃ u, exec (.engineBne ch e) s = .next u ∧ Went s u ch e pc)) ∧
      (AtInstr s ch e 0x0D w → Lands s ch e w (a < b) pc → (∃ u, exec (.engineBltu ch e) s = .next u ∧ Went s u ch e pc)) ∧
      (AtInstr s ch e 0x0E w → Lands s ch e w (b ≤ a) pc → (∃ u, exec (.engineBgeu ch e) s = .next u ∧ Went s u ch e pc)) ∧
      (AtInstr s ch e 0x0F w → Lands s ch e w (True) pc → (∃ u, exec (.engineJmp ch e) s = .next u ∧ Went s u ch e pc))

/-- The loads write RD with a word of the entry, a payload byte, a field of the input, 32 random bits (free values, log
entry 2) or the comparison of 8 input bytes with CHAL; STE writes ARG or CHAL of the entry, STO and KOUT the output, NKEY
derives the node key into KEY, RTRY takes a retry into RD. Nothing else changes (R388, R404, R414, R415, R125). -/
def Obligations.EngineLoadsAndStores : Prop :=
  ∀ (s : State) (ch : Fin 16) (e : Fin 2) (w : Nat), NextOk s ch e ((s.engine ch e).pc + 1) → ∀ g : Engine, g = s.engine ch e →
    (AtInstr s ch e 0x10 w → iImm w % 4 = 0 → iImm w ≤ 0x3C →
      (∃ u, exec (.engineLde ch e) s = .next u ∧ Wrote s u ch e w (leAt (s.convAt g.id).bytes (iImm w) 4))) ∧
    (AtInstr s ch e 0x12 w → g.reg (iRa w) + iImm w < g.input.payload.length →
      (∃ u, exec (.engineLdi ch e) s = .next u ∧ Wrote s u ch e w (leAt g.input.payload (g.reg (iRa w) + iImm w) 1))) ∧
    (AtInstr s ch e 0x14 w → iImm w ≤ 7 → (∃ u, exec (.engineHdr ch e) s = .next u ∧ Wrote s u ch e w (hdrField g.input (iImm w)))) ∧
    (AtInstr s ch e 0x16 w → g.reg (iRa w) + iImm w + 8 ≤ 64 →
      (∃ u, exec (.engineChk ch e) s = .next u ∧
        Wrote s u ch e w (if sub g.input.payload (g.reg (iRa w) + iImm w) 8 = sub (s.convAt g.id).chal 0 8 then 1 else 0))) ∧
    (AtInstr s ch e 0x15 w → (∃ u, exec (.engineRand ch e) s = .next u ∧ Wrote { s with drbg := s.drbg + 4 } u ch e w (leN (s.draw 4)))) ∧
    (AtInstr s ch e 0x11 w → (iImm w = 0x14 ∨ iImm w = 0x18 ∨ iImm w = 0x1C) → (∃ u, exec (.engineSte ch e) s = .next u ∧
        u.convAt g.id = { s.convAt g.id with arg := overlay (sub (s.convAt g.id).arg 0 12) (iImm w - 0x14) (toLe 4 (g.reg (iRa w))) } ∧
      (∀ j, j ≠ g.id → u.convAt j = s.convAt j) ∧
      EngineIs { s with conv := { s.conv with table := u.conv.table } } u ch e { g with pc := g.pc + 1, count := g.count + 1 })) ∧
    (AtInstr s ch e 0x11 w → (iImm w = 0x20 ∨ iImm w = 0x24) → (∃ u, exec (.engineSte ch e) s = .next u ∧
        u.convAt g.id = { s.convAt g.id with chal := overlay (sub (s.convAt g.id).chal 0 8) (iImm w - 0x20) (toLe 4 (g.reg (iRa w))) } ∧
      (∀ j, j ≠ g.id → u.convAt j = s.convAt j) ∧
      EngineIs { s with conv := { s.conv with table := u.conv.table } } u ch e { g with pc := g.pc + 1, count := g.count + 1 })) ∧
    (AtInstr s ch e 0x13 w → g.reg (iRa w) + iImm w < 64 → (∃ u, exec (.engineSto ch e) s = .next u ∧
        EngineIs s u ch e { g with pc := g.pc + 1, count := g.count + 1, output := overlay g.output (g.reg (iRa w) + iImm w) [BitVec.ofNat 8 (g.reg (iRb w))] })) ∧
    (AtInstr s ch e 0x18 w → g.reg (iRa w) + iImm w + 16 ≤ 64 → (∃ u, exec (.engineKout ch e) s = .next u ∧
        EngineIs s u ch e { g with pc := g.pc + 1, count := g.count + 1, output := overlay g.output (g.reg (iRa w) + iImm w) (sub (s.convAt g.id).key 0 16) })) ∧
    (∀ (f : EpochField) (s1 : State) (r : KeyRef) (work : Nat), AtInstr s ch e 0x17 w →
      epochField s (s.convAt g.id).node (g.reg (iRa w) % 256) = some f →
      frameKey s (g.id / 256) f (s.convAt g.id).node (g.reg (iRa w) % 256) = (s1, .ok, r) → s1.conv = s.conv →
      work = g.work + 3 * (s1.stw 0x3901C - s.stw 0x3901C) → work ≤ g.cost.p + 64 →
      (∃ u, exec (.engineNkey ch e) s = .next u ∧ (∀ j, j ≠ g.id → u.convAt j = s.convAt j) ∧
        u.convAt g.id = { s.convAt g.id with key := nodeKey s1 (g.id / 256) r (s.convAt g.id).node, keyRef := some r } ∧
        EngineIs { s1 with conv := { s.conv with table := u.conv.table } } u ch e
          { g with pc := g.pc + 1, count := g.count + 1, work := work })) ∧
    (AtInstr s ch e 0x1E w → (s.convAt g.id).retry ≠ 0 → (∃ u, exec (.engineRtry ch e) s = .next u ∧
        u.convAt g.id = { s.convAt g.id with retry := (s.convAt g.id).retry - 1 } ∧ (∀ j, j ≠ g.id → u.convAt j = s.convAt j) ∧
      Wrote { s with conv := { s.conv with table := u.conv.table } } u ch e w ((s.convAt g.id).retry - 1)))

/-- WAIT ends the step, SEND tries the send of RB output bytes and ends it, the conversation then SENT with its timer set;
SYNC reports resync success to the Almanac, POST queues an event on an entry the step reserved, END frees the conversation
and the engine, and an instruction that is not followed by a defined one faults: the conversation ends and the engine is
freed (R395, R396, R398, R400, R403, R411, R414, R415). -/
def Obligations.EngineStepsEnd : Prop :=
  ∀ (s : State) (ch : Fin 16) (e : Fin 2) (w : Nat) (g : Engine), g = s.engine ch e →
    (AtInstr s ch e 0x1A w → (∃ u, exec (.engineWait ch e) s = .next u ∧ u.conv = { s.conv with engines := tdel s.conv.engines (2 * ch + e) } ∧
        u = { s with conv := u.conv, rings := u.rings, ch := u.ch })) ∧
    (∀ (s1 s3 s4 : State) (q : DownReq) (a : DownAns) (n : Nat), AtInstr s ch e 0x19 w → n = g.reg (iRb w) →
      16 + n + miclLen (s.fcf 0x6000 21 20) ≤ 255 → n ≤ 64 → mayStepSend g = true → boundKeyOk s g.id = (s1, true) → sendWait s1 g.id = none →
      convTry { s1 with conv := { s1.conv with reserve := (s1.engine ch e).reserved } } g.id (g.output.take n) = (s3, q, a) →
      a.status = stOK → hostWrite s3 (convBuf s3 + 256 * g.id) a.frame = (s4, true) → s4.conv.table = s.conv.table →
      s4.conv.engines = s.conv.engines → g.work + (1 + cdiv n 16 + 3 * (s4.stw 0x3901C - s1.stw 0x3901C)) ≤ g.cost.p + 64 →
      (3 + cdiv n 16) * 11 ≤ g.cost.i + 64 →
      (∃ u, exec (.engineSend ch e) s = .next u ∧ u.dram = s4.dram ∧
        u.convAt g.id = { s.convAt g.id with state := 2, timer := s4.fcf (0x6020 + 8 * ((s.convAt g.id).proto - 1)) 23 0 } ∧
        (∀ j, j ≠ g.id → u.convAt j = s.convAt j) ∧ u.conv.engines = tdel s.conv.engines (2 * ch + e))) ∧
    (AtInstr s ch e 0x1B w → (s.convAt g.id).proto = 2 → NextOk s ch e (g.pc + 1) → (∃ u, exec (.engineSync ch e) s = .next u ∧
        u.alm = (reportSync s (s.convAt g.id).node g.input).alm ∧ u.engine ch e = { g with pc := g.pc + 1, count := g.count + 1 } ∧
      u = { s with conv := { s.conv with engines := u.conv.engines }, alm := u.alm, dram := u.dram, dmErr := u.dmErr, regs := u.regs })) ∧
    (∀ cq, cq = (s.convAt g.id).cq → AtInstr s ch e 0x1C w → 0 < g.reserved → s.wedged 5 = false → (s.ring (64 + cq)).en = true →
      (s.ring (64 + cq)).halted = false → NextOk s ch e (g.pc + 1) →
      (∃ u, exec (.enginePost ch e) s = .next u ∧
        u.engine ch e = { g with pc := g.pc + 1, count := g.count + 1, reserved := g.reserved - 1 } ∧
        ({ source := 0x83, code := 4, tag := (s.convAt g.id).tag, key := g.id, cal := s.tick.count, held := true
           result := toLe 2 g.id ++ toLe 1 (iImm w) ++ toLe 1 (s.convAt g.id).proto ++ toLe 4 (s.convAt g.id).node ++
             toLe 4 (g.reg (iRa w)) ++ toLe 4 (g.reg (iRb w)) } : SrcEvt) ∈ (u.ring (64 + cq)).events ∧
        u.conv.table = s.conv.table ∧ u = { s with conv := u.conv, rings := u.rings, regs := u.regs })) ∧
    (AtInstr s ch e 0x1D w → (s.convAt g.id).state ≠ 0 → (∃ u, exec (.engineEnd ch e) s = .next u ∧ u.convAt g.id = {} ∧ (∀ j, j ≠ g.id →
        u.convAt j = s.convAt j) ∧
      u = { s with conv := u.conv, rings := u.rings, ch := u.ch, alm := u.alm, dram := u.dram, dmErr := u.dmErr, regs := u.regs })) ∧
    (AtInstr s ch e 0x00 w → Engine.fetch s { g with pc := g.pc + 1 } = none → (s.convAt g.id).state ≠ 0 →
        (∃ u, exec (.engineNop ch e) s = .next u ∧ u.convAt g.id = {} ∧ (∀ j, j ≠ g.id → u.convAt j = s.convAt j) ∧ bit (u.wr 0x6008) 5 = true ∧
      u = { s with conv := u.conv, rings := u.rings, ch := u.ch, alm := u.alm, dram := u.dram, dmErr := u.dmErr, regs := u.regs }))

/-- An open item of these joins the staged changes of the vault in order of admission and no slot changes: GENERATE with
material drawn from the DRBG (free values, log entry 2), IMPORT_WRAPPED with what it unwrapped, IMPORT_CLEAR with the key
of its body, which is then overwritten in its ring entry; a wrapped block that does not unwrap is staged to fail AUTH_FAIL,
one that can not be read or holds no valid block to fail MALFORMED or POISONED. Nothing else changes (R82, R152, R154,
R160, R161, R162, R163, R164, R166, R167, R175). -/
def Obligations.VaultChangesAreStaged : Prop :=
  ∀ (s : State) (k : Fin 64) (i : Nat) (it : Item), it.staged = false →
    (Open s k i 0x40 it → (∃ u, exec (.generate k i) s = .next u ∧
        VaultStaged s u k i it { attr := sub it.desc 0x18 16, mat := s.draw (algLen (leAt it.desc 0x18 1)), pgen := (it.keys.headD {}).gen } ∧
      u = { s with rings := u.rings, vault := { s.vault with staged := u.vault.staged }, drbg := s.drbg + algLen (leAt it.desc 0x18 1) })) ∧
    (Open s k i 0x41 it → (∃ u, exec (.derive k i) s = .next u ∧
      OnlyStaged s u k i it { attr := sub it.desc 0x18 16, pgen := (it.keys.headD {}).gen })) ∧
    (Open s k i 0x45 it → (∃ u, exec (.persist k i) s = .next u ∧ OnlyStaged s u k i it {})) ∧
    (Open s k i 0x46 it → (∃ u, exec (.invalidate k i) s = .next u ∧ OnlyStaged s u k i it {})) ∧
    (Open s k i 0x47 it → (∃ u, exec (.erase k i) s = .next u ∧ OnlyStaged s u k i it {})) ∧
    (Open s k i 0x48 it → (∃ u, exec (.setLimit k i) s = .next u ∧ OnlyStaged s u k i it {})) ∧
    (Open s k i 0x59 it → (∃ u, exec (.provisionClose k i) s = .next u ∧ OnlyStaged s u k i it {})) ∧
    (∀ (s1 : State) (r : DmaRead), Open s k i 0x42 it → hostRead s (addrAt it.desc 0x18) (leAt it.desc 0x0B 1) = (s1, r) →
      (∃ u, exec (.importWrapped k i) s = .next u ∧
        (r = .err → OnlyStaged s1 u k i it { fail := stMalformed }) ∧ (r = .poison → OnlyStaged s1 u k i it { fail := stPoison }) ∧
        ∀ b, r = .ok b →
          (kwUnwrap (s.slot (it.keys.headD {}).slot).key b = none → OnlyStaged s1 u k i it { fail := stAuthFail }) ∧
          ∀ p, kwUnwrap (s.slot (it.keys.headD {}).slot).key b = some p →
            (attrOk p 0 = true → leAt it.desc 0x0B 1 = 24 + algLen (leAt p 0 1) →
              OnlyStaged s1 u k i it { attr := p.take 16, mat := p.drop 16, pgen := (it.keys.headD {}).gen }) ∧
            (attrOk p 0 = false ∨ leAt it.desc 0x0B 1 ≠ 24 + algLen (leAt p 0 1) →
              OnlyStaged s1 u k i it { fail := stMalformed }))) ∧
    (Open s k i 0x43 it → (∃ u w ok, exec (.importClear k i) s = .next u ∧
      OnlyStaged s w k i it
        { attr := sub it.desc 0x10 16, mat := sub it.desc 0x20 (algLen (leAt it.desc 0x10 1)), pgen := (it.keys.headD {}).gen } ∧
      hostWrite w ((s.ring k).base + 64 * i + 0x20) (zeros 32) = (u, ok)))

/-- An install that passes its checks fills its slot LIVE at the next generation with the record of R132 and its material,
a DERIVE with what it derives from its parent as it then is; INVALIDATE renews a generated key under the next generation
with a count of 0; ERASE frees the slot at the next generation and drops its material; SET_LIMIT and PERSIST set limit and
flag; PROVISION_CLOSE blows the LOCK of the operator bank once its attestation secret is written (R132, R137, R140, R145,
R166, R167, R175). -/
def Obligations.StagedVaultChangesCommit : Prop :=
  ∀ (s : State) (v : VaultShadow) (c : VaultChange) (it : Item) (n : Nat), Commits s c it → n = vaultSlotOf it.desc →
    (0x40 ≤ dOp it.desc → dOp it.desc ≤ 0x43 → dOp it.desc ≠ 0x41 → installCheck s v it.desc c = stOK → ∀ u, u = (commitVaultOne (s, v) c).1 →
      (u.slot n).state = 1 ∧ (u.slot n).gen = (s.slot n).gen + 1 ∧ (u.slot n).key = c.mat ∧ (u.slot n).alg = leAt c.attr 0 1 ∧
      (u.slot n).parent = (newRecord s it.desc c.attr).parent ∧ (u.slot n).useCnt = 0 ∧ (u.slot n).created = s.tick.count + 1 ∧
      (∀ m, m ≠ n → u.slot m = s.slot m) ∧ u.drbg = s.drbg + c.mat.length) ∧
    (dOp it.desc = 0x41 → installCheck s v it.desc c = stOK → ∀ u, u = (commitVaultOne (s, v) c).1 →
      (u.slot n).state = 1 ∧ (u.slot n).gen = (s.slot n).gen + 1 ∧ (u.slot n).alg = leAt c.attr 0 1 ∧ (u.slot n).useCnt = 0 ∧
      (u.slot n).key = deriveMat (s.slot (newRecord s it.desc c.attr).parent).key (leAt it.desc 0x0B 1) (deriveCtx it.desc)
        ((s.slot n).gen + 1) (leAt c.attr 0 1) ∧ (∀ m, m ≠ n → u.slot m = s.slot m)) ∧
    (dOp it.desc = 0x46 → subjectCheck s it.desc = stOK → (s.slot n).level ≠ 1 → (s.slot n).origin % 16 = 1 → ∀ u, u = (commitVaultOne (s, v) c).1 →
      (u.slot n).state = 1 ∧ (u.slot n).gen = (s.slot n).gen + 1 ∧ (u.slot n).useCnt = 0 ∧ (u.slot n).created = s.tick.count + 1 ∧
      (u.slot n).key = s.draw (algLen (s.slot n).alg) ∧ ∀ m, m ≠ n → u.slot m = s.slot m) ∧
    (dOp it.desc = 0x47 → subjectCheck s it.desc = stOK → ∀ u, u = (commitVaultOne (s, v) c).1 →
      (u.slot n).state = 0 ∧ (u.slot n).gen = (s.slot n).gen + 1 ∧ (u.slot n).share1 = [] ∧ (u.slot n).share2 = [] ∧
      ∀ m, m ≠ n → u.slot m = s.slot m) ∧
    (dOp it.desc = 0x48 → subjectCheck s it.desc = stOK → leAt it.desc 0x10 5 = noLimit ∨ (s.slot n).useCnt < leAt it.desc 0x10 5 →
      ∀ u, u = (commitVaultOne (s, v) c).1 →
      (u.slot n).useLimit = leAt it.desc 0x10 5 ∧ (u.slot n).state = 1 ∧ (u.slot n).gen = (s.slot n).gen ∧ (u.slot n).key = (s.slot n).key ∧
      ∀ m, m ≠ n → u.slot m = s.slot m) ∧
    (dOp it.desc = 0x45 → subjectCheck s it.desc = stOK → ∀ u, u = (commitVaultOne (s, v) c).1 →
      bit (u.slot n).flags 1 = bit (leAt it.desc 0x10 1) 0 ∧ (u.slot n).gen = (s.slot n).gen ∧ (u.slot n).key = (s.slot n).key ∧
      ∀ m, m ≠ n → u.slot m = s.slot m) ∧
    (dOp it.desc = 0x59 → s.fuses.attWritten = true → s.vault.fuseBusy = none → ∀ u, u = (commitVaultOne (s, v) c).1 →
      u.fuses = { s.fuses with bankLock := true } ∧ u.vault = s.vault ∧ Ended u c.ring c.idx stOK false (vaultResult s 0 0 0))

/-- WRAP writes the wrapped block, QUERY the slot record and ATTEST its message, each ending OK, ATTEST with the CMAC under
the attestation secret; DELIVER leaves a pinned copy of the key, as it was at admission, in the channel's bank, or waits
while its grant is held back; OPBANK_WRITE burns the wrapped secret and stages its slot where the read-back matches, and
ends LOCKED with OPBANK_ERR where it does not; a sweep visit remasks a slot without changing its key, orphans a broken
chain, and raises the alarm on bad parity (R126, R145, R146, R165, R168, R169, R170, R172, R174, R181). -/
def Obligations.VaultAnswersAtOnce : Prop :=
  ∀ (s : State) (k : Fin 64) (i : Nat) (it : Item),
    (∀ s0, s0 = { s with vault := { s.vault with immediate := s.vault.immediate - 1 } } →
      (∀ s1 out, Open s k i 0x44 it → out = kwWrap (it.hold.take 32) (it.hold.drop 32) →
        hostWrite s0 (addrAt it.desc 0x18) out = (s1, true) →
        (∃ u, exec (.wrap k i) s = .next u ∧ ItemEnds s u k i stOK false (vaultResult s1 (vaultSlotOf it.desc) 0 out.length) ∧
          u.dram = s1.dram ∧ u.vault = s1.vault)) ∧
      (∀ s1, Open s k i 0x4A it → hostWrite s0 (addrAt it.desc 0x10)
          (slotRecord (vaultSlotOf it.desc) (s.slot (vaultSlotOf it.desc)) (pendingOf s (vaultSlotOf it.desc))) = (s1, true) →
        (∃ u, exec (.query k i) s = .next u ∧ ItemEnds s u k i stOK false (vaultResult s1 (vaultSlotOf it.desc) 0 0) ∧
          u.dram = s1.dram ∧ u.vault = s1.vault)) ∧
      (∀ s1 m, Open s k i 0x50 it → m = attestMessage s (sub it.desc 8 16) it.cal → hostWrite s0 (addrAt it.desc 0x18) m = (s1, true) →
        (∃ u, exec (.attest k i) s = .next u ∧ ItemEnds s u k i stOK false (cmac it.hold m) ∧ u.dram = s1.dram ∧ u.vault = s1.vault))) ∧
    (∀ (n : Nat) (r : KeyRef) (x now : Slot), Open s k i 0x49 it → r = keyRef it.desc 8 → n = leAt it.desc 0x10 1 % 16 →
      x = slotOfRecord (it.hold.take 48) → now = s.slot r.slot → (s.chan n).fenced = false → 1 ≤ (s.chan n).role → (s.chan n).role ≤ 3 →
      x.state ≠ 0 → x.state ≠ 3 → r.gen = 0 ∨ r.gen = x.gen → leAt it.hold 48 1 = 1 → masksAdmit x (s.chan n).role n = true →
      ((findCopy (s.chan n).bank r.slot x.gen).isSome = true ∨
        ((loadCopy (s.modChan n (fun c => { c with bank := unpinLru r.slot c.bank })) n r.slot x.gen (it.hold.drop 49)
          (if now.gen = x.gen then grantSize now else 0)).isSome = true ∧
         (now.gen ≠ x.gen ∨ grantSize now ≠ 0 ∨ (now.useLimit ≠ noLimit ∧ now.useLimit ≤ now.useCnt))) →
        (∃ u, exec (.deliver k i) s = .next u ∧ Ended u k i stOK false (vaultResult u r.slot 0 0) ∧
          (∀ q, q ≠ k.val → u.ring q = s.ring q) ∧ ItemFrame s u ∧ PinnedCopy s u n r.slot x.gen)) ∧
      (findCopy (s.chan n).bank r.slot x.gen = none → now.gen = x.gen → grantSize now = 0 →
        now.useLimit = noLimit ∨ now.useCnt < now.useLimit →
        (∃ u, exec (.deliver k i) s = .next u ∧ u = s.evt 0x2000 3))) ∧
    (∀ (s1 : State) (w : Bytes) (n : Nat) (ok back : Bool), Open s k i 0x58 it → n = (if leAt it.desc 8 1 = 1 then 0x00A else 0x00B) →
      w = kwWrap (kdf (s.vault.root.getD []) "SX4-FUSE-WRAP" [1#8] 32) (sub it.desc 0x10 32) →
      hostWrite { s with vault := { s.vault with fuseBusy := none } } ((s.ring k).base + 64 * i + 0x10) (zeros 32) = (s1, ok) →
      (∃ u, exec (.opbankWrite k i back) s = .next u ∧
        Ended u k i (if back then stOK else stLocked) false (vaultResult s1 n 0 (leAt it.desc 8 1)) ∧
        (∀ q, q ≠ k.val → u.ring q = s.ring q) ∧ u.dram = s1.dram ∧
        u.fuses = (if leAt it.desc 8 1 = 1 then { s.fuses with att := w, attWritten := back }
          else { s.fuses with du := w, duWritten := back }) ∧
        u.vault = (if back then { s1.vault with staged := s1.vault.staged ++ [{ seq := it.seq, fixed := n, mat := sub it.desc 0x10 32 }] }
          else { s1.vault with opbankErr := true }) ∧ ItemFrame { s with fuses := u.fuses } u)) ∧
    (∀ n x lastUs, n = s.vault.sweep → x = s.slot n → s.halted = false → s.vault.drbgUp = true → n < 4095 → x.share1.length = x.share2.length →
      (x.state = 1 → chainOk s n = true → (∃ u, exec (.octaveSweepVisit true lastUs) s = .next u ∧ (u.slot n).key = x.key ∧
        u.slot n = { x with share1 := (u.slot n).share1, share2 := (u.slot n).share2 } ∧ (∀ m, m ≠ n → u.slot m = s.slot m) ∧
        u = { s with vault := { s.vault with slots := u.vault.slots, sweep := n + 1 }, drbg := s.drbg + x.share1.length })) ∧
      (x.state = 1 → chainOk s n = false → (∃ u, exec (.octaveSweepVisit true lastUs) s = .next u ∧
          u.slot n = { x with state := 3, share1 := [], share2 := [] } ∧ (∀ m, m ≠ n → u.slot m = s.slot m) ∧ bit (u.wr 0x2000) 1 = true ∧
        u = { s with regs := u.regs, vault := { s.vault with slots := u.vault.slots, sweep := n + 1 }, drbg := u.drbg })) ∧
      (x.state ≠ 0 → (∃ u, exec (.octaveSweepVisit false lastUs) s = .next u ∧ AlarmRaised s u 2 0x10 true ∧ (s.vault.fuseBusy = none →
          u.fuses = s.fuses))))

/-- With the ring mounted, an object that can be read and passes its checks is queued as urgent BLOB records and the
command waits for them; one that fails ends with the status and reason of its first failed check. With the journal
UNMOUNTED or READ_ONLY the command ends LOCKED with reason 4. The records durable, the object is staged (R478, R377, R417,
R477). -/
def Obligations.NmsLoadsAreVerifiedAndStored : Prop :=
  ∀ (s : State) (k : Fin 64) (i : Nat) (it : Item),
    (s.jf.state = 0 ∨ s.jf.state = 3 →
      (NmsOpen s k i 0x60 it → (∃ u, exec (.nmsProfileLoad k i) s = .next u ∧ LockedFor s u k i 4)) ∧
      (NmsOpen s k i 0x61 it → (∃ u, exec (.nmsUcodeLoad k i) s = .next u ∧ LockedFor s u k i 4))) ∧
    (∀ (s1 : State) (b : Bytes), s.jf.state = 1 ∨ s.jf.state = 2 → s1.jf.state = s.jf.state → 0 < b.length →
      hostRead s (addrAt it.desc 8) (leAt it.desc 0x10 4) = (s1, .ok b) →
      (NmsOpen s k i 0x60 it → (∃ u, exec (.nmsProfileLoad k i) s = .next u ∧
        LoadAnswers s s1 u k i 0x60 b (blobRecs 1 (profileVersion b) b))) ∧
      (NmsOpen s k i 0x61 it → (∃ u, exec (.nmsUcodeLoad k i) s = .next u ∧
        LoadAnswers s s1 u k i 0x61 b (blobRecs (leAt b 0x0C 1) (leAt b 8 4) b)))) ∧
    ∀ (t : State) (w : NmsWait), t.halted = false → t.nms.wait = some w → w.staged = false → w.op = 0x60 ∨ w.op = 0x61 →
      syncOpen t { qn := w.qn } = false →
      (nmsDurable t).nms = { t.nms with wait := some { w with staged := true } } ∧
      (w.op = 0x60 → (nmsDurable t).ledger.staged = some (w.object.take profileBody)) ∧
      (w.op = 0x61 → (nmsDurable t).conv.staged = tins t.conv.staged (leAt w.object 0x0C 1) (programOf w.object))

/-- UPD_WRITE puts a verified image into consecutive good pages of the area that does not run, the last page filled with
0xFF, and ends AUTH_FAIL where the device fails; ACTIVATE queues a boot selection whose TRIAL is that area, CONFIRM one
whose CONF is the running trial; ROLLBACK blows the counter to TARGET; KEYFUSE burns the key and its written fuse. In a
wrong state each completes LOCKED with its reason and burns nothing, and a key that reads back false is left without its
written fuse (R475, R477, R480, R481, R482, R484). -/
def Obligations.NmsUpdatesAndFuses : Prop :=
  ∀ (s : State) (k : Fin 64) (i : Nat) (it : Item),
    (∀ (s1 : State) (a : Nat) (b : Bytes), NmsOpen s k i 0x62 it → a = updTarget s → (nmsPub s 1).isSome = true → s.jf.state = 1 ∨ s.jf.state = 2 →
      s.jf.img ≠ 0 → leAt it.desc 0x10 4 ≤ (areaRows s a).length * pageSize s →
      hostRead s (addrAt it.desc 8) (leAt it.desc 0x10 4) = (s1, .ok b) → nmsVerify s1 1 b = true → imageForm b = true →
      s1.fuses.rollback ≤ leAt b 0x0C 1 → areaBlocks s1 a = areaBlocks s a →
      (∀ x, (∃ u, exec (.nmsUpdWrite k i (some x)) s = .next u ∧ Ended u k i stAuthFail false (nmsResult 0 0 a 0) ∧
        u.nms = { s.nms with written := if s.nms.written = some a then none else s.nms.written })) ∧
      ∃ u, exec (.nmsUpdWrite k i none) s = .next u ∧
        Ended u k i stOK false (nmsResult (leAt b 8 4) 0 a 0) ∧ (∀ q, q ≠ k.val → u.ring q = s.ring q) ∧ u.nms = { s.nms with written := some a } ∧
        (∀ (j : Nat) (c : Bytes) (row : Nat), (chunks (pageSize s) b)[j]? = some c → (areaRows s a)[j]? = some row →
          tget [] u.flash.pages row = c ++ List.replicate (pageSize s - c.length) 0xff#8) ∧
        (∀ p ∈ u.flash.pages, (areaBlocks s a).contains (p.1 / 64) = false → p ∈ s.flash.pages) ∧
        (∀ p ∈ s.flash.pages, (areaBlocks s a).contains (p.1 / 64) = false → p ∈ u.flash.pages) ∧ u.jf = s1.jf ∧ u.dram = s1.dram ∧
        ItemFrame { s with flash := u.flash, nms := u.nms } u) ∧
    (∀ (a : Nat) (b : Bytes), NmsOpen s k i 0x63 it → s.nms.written = some a → s.jf.state = 1 ∨ s.jf.state = 2 → areaImage s a = some b →
      (∃ u, exec (.nmsUpdActivate k i true) s = .next u ∧ StoresAndWaits s u k i 0x63 (selRec s (bootSel s).1 a) b)) ∧
    (NmsOpen s k i 0x63 it → s.nms.written = none →
      ∀ ok, (∃ u, exec (.nmsUpdActivate k i ok) s = .next u ∧ ItemEnds s u k i stLocked false (nmsResult 0 8 0xFF 0) ∧ u.jf = s.jf ∧
          u.dram = s.dram)) ∧
    (NmsOpen s k i 0x64 it → s.nms.trial = true → s.jf.state = 1 ∨ s.jf.state = 2 → (∃ u, exec (.nmsUpdConfirm k i) s = .next u ∧
      StoresAndWaits s u k i 0x64 (selRec s (s.nms.service - 1) 0xFF) (zeros 8 ++ toLe 4 s.nms.version ++ toLe 1 s.nms.svn))) ∧
    (∀ n : Nat, NmsOpen s k i 0x65 it → n = leAt it.desc 8 1 →
      (s.vault.carnival = false → s.nms.service ≠ 0 → s.nms.trial = false → s.fuses.rollback < n → n ≤ s.nms.svn →
        ∃ u, exec (.nmsRollback k i) s = .next u ∧ Ended u k i stOK false (nmsResult n 0 0 0) ∧ (∀ q, q ≠ k.val → u.ring q = s.ring q) ∧
          u.fuses = { s.fuses with rollback := n } ∧
          u = { s with rings := u.rings, part := u.part, ch := u.ch, log := u.log, regs := u.regs, fuses := u.fuses }) ∧
      (s.vault.carnival = true → (∃ u, exec (.nmsRollback k i) s = .next u ∧ ItemEnds s u k i stLocked false (nmsResult 0 3 0 0) ∧
          u.dram = s.dram)) ∧
      (s.vault.carnival = false → s.nms.service = 0 ∨ s.nms.trial = true ∨ n ≤ s.fuses.rollback ∨ s.nms.svn < n →
        (∃ u, exec (.nmsRollback k i) s = .next u ∧ ItemEnds s u k i stLocked false (nmsResult 0 8 0 0) ∧ u.dram = s.dram))) ∧
    ∀ (id : Nat) (s1 : State) (b : Bytes), NmsOpen s k i 0x66 it → id = leAt it.desc 8 1 →
      hostRead s (addrAt it.desc 0x10) 96 = (s1, .ok b) → p384OnCurve (beAt b 0 48) (beAt b 48 48) = true →
      lifecycle s1 = 1 → s1.vault.carnival = false → (tkeys s1.fuses.nmsKey).contains id = false →
        (∃ u, exec (.nmsKeyfuse k i false) s = .next u ∧ Ended u k i stLocked false (nmsResult 0 9 0 0) ∧
          u.fuses = { s.fuses with nmsKey := tins s.fuses.nmsKey id b }) ∧
        ∃ u, exec (.nmsKeyfuse k i true) s = .next u ∧ Ended u k i stOK false (nmsResult id 0 0 0) ∧ (∀ q, q ≠ k.val → u.ring q = s.ring q) ∧
          u.fuses = { s.fuses with nmsKey := tins s.fuses.nmsKey id b, nmsWritten := id :: s.fuses.nmsWritten } ∧ u.dram = s1.dram ∧
          ItemFrame { s with fuses := u.fuses } u

/-- LOG_READ writes entries of the buffer, or LOG records of the journal, from FROM on, oldest first, and answers the next
FROM, and zeroizes what it wrote where its write fails; NOTE stores its DATA as an entry; STATS writes the copy taken at
its Calends; a due flush hands at most 64 entries to the journal as one record, which counts as durable at once under the
Carnival root and is dropped and counted while the queue is full; a reading outside the operating range begins one warning,
with NMS_EVT.VG_WARN and a log entry, and one within it ends the warning (R477, R485, R487, R488, R489, R490, R491). -/
def Obligations.LogStatisticsAndWarnings : Prop :=
  (∀ (s : State) (k : Fin 64) (i : Nat) (it : Item),
    (∀ (l : List LogEntry) (p : Bytes × Nat) (b : Bytes) (s1 : State) (ok : Bool), NmsOpen s k i 0x67 it →
      leAt it.desc 8 1 = 0 ∨ s.jf.state ≠ 0 →
      l = (s.log.buf.filter (fun e => decide (leAt it.desc 0x10 8 ≤ e.seq))).take (leAt it.desc 0x0A 2) →
      p = (if leAt it.desc 8 1 = 0 then (l.flatMap (·.data), ((l.getLast?).map (fun e => e.seq + 1)).getD (leAt it.desc 0x10 8))
        else if s.jf.state = 4 then ([], leAt it.desc 0x10 8) else logRecords s (leAt it.desc 0x10 8) (leAt it.desc 0x0A 2)) → b = p.1 →
      hostWrite (modItem s k i (fun x => { x with outs := if b = [] then [] else [(addrAt it.desc 0x18, b.length)] }))
        (addrAt it.desc 0x18) b = (s1, ok) →
      (ok = true → (∃ u, exec (.nmsLogRead k i) s = .next u ∧ u.dram = s1.dram ∧ u.log = s1.log ∧
        ItemEnds s u k i stOK false (nmsResult (if leAt it.desc 8 1 = 0 then l.length else b.length / 32) 0 0 p.2))) ∧
      (ok = false → (∃ u, exec (.nmsLogRead k i) s = .next u ∧
        ItemEnds s u k i stMalformed (decide (b ≠ [])) (nmsResult 0 0 0 0)))) ∧
    (NmsOpen s k i 0x67 it → leAt it.desc 8 1 ≠ 0 → s.jf.state = 0 →
      (∃ u, exec (.nmsLogRead k i) s = .next u ∧ LockedFor s u k i 4 ∧ u.log = s.log)) ∧
    (NmsOpen s k i 0x68 it → s.log.buf.length < 16384 → s.log.lost = 0 →
      (∃ u, exec (.nmsLogNote k i) s = .next u ∧ ItemEnds s u k i stOK false (nmsResult 0 0 0 0) ∧ Logged s u 3 0 (sub it.desc 0x10 16) ∧
          u.dram = s.dram)) ∧
    ∀ (b : Bytes) (s1 : State), NmsOpen s k i 0x69 it → s.nms.stats = some b →
      hostWrite (modItem (s.modNms (fun n => { n with stats := none })) k i
        (fun x => { x with outs := if b = [] then [] else [(addrAt it.desc 8, b.length)] })) (addrAt it.desc 8) b = (s1, true) →
      ∃ u, exec (.nmsStats k i) s = .next u ∧ Ended u k i stOK false (nmsResult 0 0 0 0) ∧ (∀ q, q ≠ k.val → u.ring q = s.ring q) ∧
        u.dram = s1.dram ∧ ItemFrame { s with nms := { s.nms with stats := none } } u) ∧
  (∀ (s : State) (w : List LogEntry) (r : JRec), nmsStill s = false → logDue s = true →
    w = (s.log.buf.filter (fun e => !e.handed)).take (min 64 ((pageSize s - 32) / 32)) → w ≠ [] → r = { kind := 5, data := w.flatMap (·.data) } →
    (s.jf.state ≠ 4 → queueBytes s + r.size ≤ 65536 → (∃ u, exec .logFlush s = .next u ∧
      u.jf = { s.jf with queue := s.jf.queue ++ [{ r with qn := s.jf.qn, since := s.alm.time }], qn := s.jf.qn + 1 } ∧
      u.log.buf.map (·.data) = s.log.buf.map (·.data) ∧ (∀ e ∈ u.log.buf, ∀ x ∈ w, x.seq = e.seq → e.handed = true) ∧
      u = { s with jf := u.jf, log := { s.log with buf := u.log.buf } })) ∧
    (s.jf.state ≠ 4 → 65536 < queueBytes s + r.size → (∃ u, exec .logFlush s = .next u ∧ u = s.inc 0x39320 31 0)) ∧
    (s.jf.state = 4 → (∃ u, exec .logFlush s = .next u ∧ u = { s with log := { s.log with
      buf := s.log.buf.filter (fun e => !w.any (fun x => decide (x.seq = e.seq))) } }))) ∧
  ∀ (s : State) (n : Fin 10) (r : BitVec 16), sensorChecked s n = true →
    (warns n (sensorVal n r.toNat) = true → n.val ∉ s.vigil.warn → s.halted = false → s.log.buf.length < 16384 → s.log.lost = 0 →
      noAlarm n (sensorVal n r.toNat) = true → (∃ u, exec (.vigilWarn n r) s = .next u ∧
          u.vigil = { s.vigil with readings := tins s.vigil.readings n r.toNat, warn := n.val :: s.vigil.warn } ∧ bit (u.wr 0x5A00) 1 = true ∧
        Logged s u 0x20 1 (toLe 1 (sensorCode n (sensorVal n r.toNat)) ++ toLe 4 (unsigned 32 (sensorVal n r.toNat))) ∧
        u = { s with vigil := u.vigil, regs := u.regs, log := u.log })) ∧
    (warns n (sensorVal n r.toNat) = false ∨ n.val ∈ s.vigil.warn → (∃ u, exec (.vigilWarn n r) s = .next u ∧
        u = { s with vigil := { s.vigil with readings := tins s.vigil.readings n r.toNat } })) ∧
    ((sensorRange n).1 ≤ sensorVal n r.toNat → sensorVal n r.toNat ≤ (sensorRange n).2 → (∃ u, exec (.vigilWarnClear n r) s = .next u ∧ u = { s with vigil := { s.vigil with
        readings := tins s.vigil.readings n r.toNat, warn := s.vigil.warn.filter (fun x => decide (x ≠ n.val)) } }))

/-- JF_FORMAT of a blank or unlabelled device lays down two labels and the first ring page with a CKPT, three leases above
FLOOR and a MARK 2^24 above the count, and answers OK; a device already labelled, or the Carnival root, answers LOCKED, a
layout beyond the device MALFORMED. JF_SYNC makes every queued record urgent and answers OK once they are durable; JF_SCRUB
starts a pass (R423, R427, R432, R438, R441, R442, R443, R444). -/
def Obligations.JournalCommandsComplete : Prop :=
  ∀ (s : State) (k : Fin 64) (i : Nat) (it : Item),
    (Open s k i 0x70 it →
      (s.flash.blocks < 81 + 2 * leAt it.desc 0x0C 2 + leAt it.desc 0x0E 2 →
        (∃ u, exec (.jfFormat k i) s = .next u ∧ ItemEnds s u k i stMalformed false (jResult s) ∧ u.jf = s.jf ∧ u.flash = s.flash)) ∧
      (81 + 2 * leAt it.desc 0x0C 2 + leAt it.desc 0x0E 2 ≤ s.flash.blocks →
        (s.jf.result ≠ 2 ∧ s.jf.result ≠ 3) ∨ s.vault.carnival = true ∨ (lifecycle s ≠ 1 ∧ lifecycle s ≠ 2) →
        (∃ u, exec (.jfFormat k i) s = .next u ∧ ItemEnds s u k i stLocked false (jResult s) ∧ u.jf = s.jf ∧ u.flash = s.flash)) ∧
      (81 + 2 * leAt it.desc 0x0C 2 + leAt it.desc 0x0E 2 ≤ s.flash.blocks → s.jf.result = 2 ∨ s.jf.result = 3 → s.vault.carnival = false →
        lifecycle s = 1 ∨ lifecycle s = 2 → ∃ u, exec (.jfFormat k i) s = .next u ∧ Ended u k i stOK false (jResult u) ∧
          (∀ q, q ≠ k.val → u.ring q = s.ring q) ∧ u.jf.img = leAt it.desc 0x0C 2 ∧ u.jf.snap = leAt it.desc 0x0E 2 ∧
          u.jf.bad = s.flash.factory ∧ u.jf.unreadable = [] ∧ tkeys u.flash.pages = [0, 1, 64 * (activeRing u).headD 1] ∧
          u.jf.mark = max s.jf.mark ((s.count + 2 ^ 24) % 2 ^ 48) ∧ u.jf.leaseHi = max s.jf.leaseHi (leAt it.desc 0x10 4 + 3) ∧
          u.jf.wblk = (activeRing u).headD 1 ∧ u.jf.wpage = 1 ∧ u.jf.erased = (activeRing u).drop 1 ++ snapBlocks u ∧
          (64 ≤ ((List.range 81).drop 1).countP (fun b => !s.flash.factory.contains b) → 8 ≤ (snapBlocks u).length → u.jf.state = 1) ∧
          bit (u.wr 0x5304) 0 = true ∧
          u = { s with rings := u.rings, part := u.part, ch := u.ch, jf := u.jf, flash := { s.flash with pages := u.flash.pages }, regs := u.regs
                       log := u.log, vault := u.vault, alm := u.alm })) ∧
    (Open s k i 0x71 it →
      (s.jf.state = 0 ∨ s.jf.state = 3 → (∃ u, exec (.jfSync k i) s = .next u ∧ ItemEnds s u k i stLocked false (jResult s) ∧ u.jf = s.jf)) ∧
      (s.jf.state ≠ 0 → s.jf.state ≠ 3 → s.jf.queue = [] → s.jf.prog = none → s.jf.syncs = [] →
        (∃ u, exec (.jfSync k i) s = .next u ∧ ItemEnds s u k i stOK false (jResult s) ∧ u.jf = s.jf)) ∧
      (s.jf.state ≠ 0 → s.jf.state ≠ 3 → (∃ r ∈ s.jf.queue, r.qn < s.jf.qn) → (∀ w ∈ s.jf.syncs, syncOpen s w = true) →
        (∀ w ∈ s.jf.syncs, w.ring = k.val → w.idx ≠ i) → (∃ u, exec (.jfSync k i) s = .next u ∧
            u = { s with jf := { s.jf with queue := s.jf.queue.map (fun r => { r with urgent := true }), syncs := s.jf.syncs ++ [{ ring := k, idx := i, qn := s.jf.qn }] } }))) ∧
    (Open s k i 0x72 it → (∃ u, exec (.jfScrub k i) s = .next u ∧ ItemEnds s u k i stOK false (jResult s) ∧
        u.jf = if s.jf.scrub = none then { s.jf with scrub := some 0, scrubAt := s.alm.time } else s.jf))

/-- A due page takes the urgent records first and then the normal ones that fit, with fresh JCNTs, behind a CKPT on the
first page of a block; once it is programmed, the page holds them and each JF_SYNC whose records are all durable completes
OK; a failed program makes the block bad and puts its records back; a device that does not answer leaves the journal
READ_ONLY (R425, R426, R427, R428, R431, R442). -/
def Obligations.PagesAreProgrammed : Prop :=
  ∀ s : State, s.halted = false →
    (∀ (ck : List JRec) (f : List JRec × List JRec), jWrites s = true → s.jf.prog = none → s.flash.erasing = none →
      pageDue s (waitRing s) ((waitRing s).map JRec.size).sum (pageSize s) = true → s.jf.wpage < 64 →
      ck = (if s.jf.wpage = 0 then [{ kind := 1, data := ckptBody s, urgent := true }] else []) →
      f = takeFit (pageSize s - (ck.map JRec.size).sum) ((waitRing s).filter (·.urgent) ++ (waitRing s).filter (fun r => !r.urgent)) →
      (∃ u, exec .pageProgram s = .next u ∧ u = { s with jf := { s.jf with
        queue := s.jf.queue.filter (fun r => !f.1.any (fun x => decide (x.qn = r.qn))), jcnt := s.jf.jcnt + (ck ++ f.1).length
        prog := some { row := 64 * s.jf.wblk + s.jf.wpage, recs := number s.jf.jcnt (ck ++ f.1) } } })) ∧
    (∀ b, jWrites s = true → s.jf.prog = none → s.flash.erasing = none →
        pageDue s (waitRing s) ((waitRing s).map JRec.size).sum (pageSize s) = true →
      64 ≤ s.jf.wpage → b = nextActive s s.jf.wblk → b ∈ s.jf.erased → (∃ u, exec .pageProgram s = .next u ∧ u.jf.wblk = b ∧ u.jf.wpage = 0 ∧
          u.jf.rotDue = true ∧ b ∉ u.jf.erased ∧
        (∃ p, u.jf.prog = some p ∧ p.row = 64 * b ∧ p.snap = false ∧ (p.recs.headD {}).kind = 1) ∧ u = { s with jf := u.jf })) ∧
    (jWrites s = false ∨ s.jf.prog.isSome = true ∨ s.flash.erasing.isSome = true ∨ s.jf.queue = [] → (∃ u, exec .pageProgram s = .next u ∧ u = s)) ∧
    (∀ p, s.jf.prog = some p → s.nms.wait = none → (∃ u, exec (.pageProgramDone true) s = .next u ∧
        tget [] u.flash.pages p.row = pageBytes s p ∧ (∀ r, r ≠ p.row → tget [] u.flash.pages r = tget [] s.flash.pages r) ∧
      u.jf.prog = none ∧ u.jf.wpage = (if p.snap then s.jf.wpage else s.jf.wpage + 1) ∧ u.jf.queue = s.jf.queue ∧
      u.jf.lastJcnt = p.recs.foldl (fun m r => max m r.jcnt) s.jf.lastJcnt ∧
      ∀ w ∈ s.jf.syncs, (∀ r ∈ s.jf.queue, w.qn ≤ r.qn) → (findItem s w.ring w.idx).isSome = true → Ended u w.ring w.idx stOK false (jResult u))) ∧
    (∀ p, s.jf.prog = some p → s.nms.wait = none → (∃ u, exec (.pageProgramDone false) s = .next u ∧ u.flash = s.flash ∧ u.jf.prog = none ∧
        p.row / 64 ∈ u.jf.bad ∧ (p.snap = false → 64 = u.jf.wpage) ∧
      (p.recs.filter (fun r => decide (r.kind ≠ 1)) ++ s.jf.queue) <+: u.jf.queue ∧ bit (u.wr 0x5304) 4 = true ∧ u.rings = s.rings)) ∧
    (s.jf.state = 1 ∨ s.jf.state = 2 → (∃ u, exec .journalNoAnswer s = .next u ∧
        u.jf = { s.jf with state := 3, prog := none, queue := (match s.jf.prog with | some p => p.recs | none => []) ++ s.jf.queue } ∧
      bit (u.wr 0x5304) 5 = true ∧ u = { s with jf := u.jf, regs := u.regs, log := u.log }))

/-- A rotation copies the live records of the oldest block forward; once no copy is open its erase is issued, the block is
then erased, or bad where the erase fails, and an erase already issued goes on through power fail, alarm and reset; a scrub
step reads one page and marks an unreadable one; with fewer than 4 erased snapshot blocks the oldest is re-snapshotted; the
sweep hands tombstones first, then dirty entries in index order, within RATE (R53, R57, R365, R366, R429, R430, R431, R432,
R433). -/
def Obligations.BlocksAreRotatedAndScrubbed : Prop :=
  (∀ (s : State) (b : Nat) (ok : Bool), s.boot.inReset = true ∨ s.boot.alarm = true ∨ s.boot.pfail = true → s.flash.erasing = some b →
    (∃ u, exec (.blockEraseDone ok) s = .next u ∧ u = { s with flash := { s.flash with
      erasing := none, pages := if ok then s.flash.pages.filter (fun p => decide (p.1 / 64 ≠ b)) else s.flash.pages } })) ∧
  ∀ s : State, s.halted = false → jWrites s = true →
    (∀ b, s.jf.rot = none → s.jf.rotDue = true → b = nextActive s s.jf.wblk →
      (b ∉ s.jf.erased → (∃ u, exec .blockRotation s = .next u ∧ u.jf.rot = some b ∧ u.jf.rotDue = false ∧
        QueuedBehind s u (liveOf s b false) (some b) ∧ ErasesWhenDurable s u b ∧ u = { s with jf := u.jf, flash := u.flash, regs := u.regs })) ∧
      (b ∈ s.jf.erased → ringAge s (keyLow s) ≤ 15 → (∃ u, exec .blockRotation s = .next u ∧ u = { s with jf := { s.jf with rotDue := false } })) ∧
      (15 < ringAge s (keyLow s) → (∃ u, exec .blockRotation s = .next u ∧
          QueuedBehind s u ((liveOf s (keyLow s) true).filter (fun r => decide (r.kind = 4))) (some (keyLow s))))) ∧
    (∀ b, Erasing s b →
      (∃ u, exec (.blockEraseDone true) s = .next u ∧
        u.flash = { s.flash with erasing := none, pages := s.flash.pages.filter (fun p => decide (p.1 / 64 ≠ b)) } ∧
        u.jf = { s.jf with rot := (if s.jf.rot = some b then none else s.jf.rot), erased := b :: s.jf.erased, unreadable := s.jf.unreadable.filter (fun r => decide (r / 64 ≠ b)) } ∧
        u = { s with flash := u.flash, jf := u.jf, regs := u.regs }) ∧
      (∃ u, exec (.blockEraseDone false) s = .next u ∧ u.flash = { s.flash with erasing := none } ∧
        u.jf.rot = (if s.jf.rot = some b then none else s.jf.rot) ∧ b ∈ u.jf.bad ∧ bit (u.wr 0x5304) 4 = true ∧
        u = { s with flash := u.flash, jf := u.jf, regs := u.regs, log := u.log })) ∧
    (s.flash.erasing = none → (∀ b, s.jf.rot = some b → s.jf.prog.isSome = true ∨ copiesOpen s b = true) →
      ∀ ok, (∃ u, exec (.blockEraseDone ok) s = .next u ∧ u = s)) ∧
    (∀ r0 row, s.jf.scrub = some r0 → (tkeys s.flash.pages).find? (fun r => decide (r ≥ r0) && decide (r ≥ 64)) = some row →
      (∃ u, exec (.scrubRead 3) s = .next u ∧ u.jf = { s.jf with scrub := some (row + 1), unreadable := row :: s.jf.unreadable } ∧
        bit (u.wr 0x5304) 7 = true ∧ u = { s with jf := u.jf, regs := u.regs }) ∧
      ((readRow s row).2 = true → ∀ e, e < 2 → (∃ u, exec (.scrubRead e) s = .next u ∧
          u = { s with jf := { s.jf with scrub := some (row + 1) } })) ∧
      ((readRow s row).2 = true → s.jf.rot = none → row / 64 ≠ s.jf.wblk → row / 64 ≠ s.jf.sblk → row / 64 < 81 →
        (∃ u, exec (.scrubRead 2) s = .next u ∧ u.jf.rot = some (row / 64) ∧ u.jf.scrub = some (row + 1) ∧
          QueuedBehind s u (liveOf s (row / 64) false) (some (row / 64)) ∧ ErasesWhenDurable s u (row / 64) ∧
              u = { s with jf := u.jf, flash := u.flash, regs := u.regs }))) ∧
    (∀ l, s.jf.rot = none → ((snapBlocks s).filter (fun b => s.jf.erased.contains b)).length < 4 → s.alm.en = true → s.alm.restoring = false →
      s.wedged 0 = false → l = (snapBlocks s).filter (fun b => !s.jf.erased.contains b && decide (b ≠ s.jf.sblk)) → l ≠ [] →
      (∃ u, exec .snapshotResnapshot s = .next u ∧ ∃ b ∈ l, (∀ x ∈ l, blockAge s b ≤ blockAge s x) ∧ u.jf.rot = some b ∧ s.jf.queue <+: u.jf.queue ∧
        (∀ r ∈ u.jf.queue, r ∈ s.jf.queue ∨ (r.kind = 7 ∧ r.src = some b)) ∧
        ∀ n i e s2, ((snapRows s b).map (fun x => leAt x.2.2 0 4)).eraseDups = [n] →
          almGet (s.modJf (fun j => { j with rot := some b })) n = (s2, some (i, e)) → ∃ r ∈ u.jf.queue, r.id = i ∧ r.data = snapItem e ∧
              r.src = some b)) ∧
    (s.alm.en = true → s.alm.restoring = false → s.wedged 0 = false →
      (s.alm.dirty.filter (fun d => decide (d.2 = 1) && decide (d.1 ≥ s.alm.sweep)) = [] → s.alm.tombs.length ≤ s.fcf 0x5108 23 16 - s.alm.handed →
        (∃ u, exec .snapshotSweep s = .next u ∧ (u.jf.queue.drop s.jf.queue.length).map (fun r => (r.kind, r.data)) = s.alm.tombs.map (fun n => (7, snapTomb n)) ∧
          s.jf.queue <+: u.jf.queue ∧
          u.alm = { s.alm with tombs := [], handed := s.alm.handed + s.alm.tombs.length, sweep := 0, sweepStart := s.alm.time, late := false } ∧
          u = { s with jf := u.jf, alm := u.alm, regs := u.regs })) ∧
      ∀ i s1 b, s.alm.dirty.filter (fun d => decide (d.2 = 1) && decide (d.1 ≥ s.alm.sweep)) = [(i, 1)] → s.alm.tombs = [] →
        s.alm.handed < s.fcf 0x5108 23 16 → almRead s i = (s1, some b) → (∃ u, exec .snapshotSweep s = .next u ∧
            u.jf.queue = s.jf.queue ++ [{ kind := 7, id := i, data := snapItem (almOfBytes b), qn := s.jf.qn, since := s1.alm.time }] ∧
          u.alm.dirty = tins s1.alm.dirty i 2 ∧ u.dram = s1.dram))

/-- KR_KEYLOAD stages the ring key unwrapped with the key bound at its admission, or ends LOCKED outside ROOTED and
DEPLOYED, AUTH_FAIL where the block does not unwrap; KR_ASSIGN with nothing in its way proposes the next map version and
waits, and otherwise ends LOCKED with its reason and the agent unchanged; KR_QUERY writes 12 bytes for each range and ends
OK (R461, R462, R466, R467, R468). -/
def Obligations.RingCommandsComplete : Prop :=
  ∀ (s : State) (k : Fin 64) (i : Nat) (it : Item),
    (Open s k i 0x78 it → it.staged = false →
      ((lifecycle s ≠ 1 ∧ lifecycle s ≠ 2) ∨ s.vault.carnival = true →
        (∃ u, exec (.krKeyload k i) s = .next u ∧ ItemEnds s u k i stLocked false (vaultResult s 0x009 0 0) ∧ u.vault = s.vault ∧
            u.krysa = s.krysa)) ∧
      ∀ (s1 : State) (b : Bytes), lifecycle s = 1 ∨ lifecycle s = 2 → s.vault.carnival = false → hostRead s (addrAt it.desc 0x10) 56 = (s1, .ok b) →
        (kwUnwrap it.hold b = none →
          (∃ u, exec (.krKeyload k i) s = .next u ∧ ItemEnds s u k i stAuthFail false (vaultResult s1 0x009 0 0) ∧ u.vault = s1.vault ∧
              u.krysa = s.krysa)) ∧
        ∀ p, kwUnwrap it.hold b = some p → attrOk p 0 = true → leAt p 0 1 = 2 →
          (∃ u, exec (.krKeyload k i) s = .next u ∧ VaultStaged s1 u k i it { attr := p.take 16, mat := p.drop 16, pgen := (it.keys.headD {}).gen } ∧
            u = { s1 with rings := u.rings, vault := { s1.vault with staged := u.vault.staged } })) ∧
    (∀ lo hi dst : Nat, Open s k i 0x79 it → s.krysa.assign = none → lo = leAt it.desc 8 4 → hi = leAt it.desc 0x0C 4 →
        dst = leAt it.desc 0x10 1 % 64 →
      (∀ n, assignWhy s lo hi dst = n → n ≠ 0 → (∃ u, exec (.krAssign k i) s = .next u ∧ ItemEnds s u k i stLocked false (krResult s n) ∧
          u.krysa = s.krysa)) ∧
      (∀ ch : KChange, ch = { ver := s.krysa.mapver + 1, origin := unitNo s, kind := 1, dst := dst, lo := lo, hi := hi
                              src := if covered s.krysa.map lo hi (fun _ => true) = 0 then 0xFF else unitNo s } →
        assignWhy s lo hi dst = 0 → (∃ u, exec (.krAssign k i) s = .next u ∧
        u.krysa = { s.krysa with assign := some (k.val, i, it.cal), seq := u.krysa.seq, prop := some ch } ∧
        (s.krysa.key.length = 32 → s.krysa.seq < 65536 → s.wedged 3 = false → ∃ m, u.outs = .krysa false m :: .krysa true m :: s.outs ∧
            beAt m 0 1 = 3 ∧
          krOpen s.krysa.key m = some (toBe 4 (s.krysa.mapver + 1) ++ toBe 1 1 ++ toBe 1 dst ++
            toBe 1 (if covered s.krysa.map lo hi (fun _ => true) = 0 then 0xFF else unitNo s) ++ [0#8] ++ toBe 4 lo ++ toBe 4 hi)) ∧
        u = { s with krysa := u.krysa, outs := u.outs }))) ∧
    ∀ s1, Open s k i 0x7A it → hostWrite s (addrAt it.desc 8)
        (sub (s.krysa.map.flatMap (fun r => toLe 4 r.lo ++ toLe 4 r.hi ++ toLe 1 r.owner ++ zeros 3)) 0 3072) = (s1, true) →
      (∃ u, exec (.krQuery k i) s = .next u ∧ ItemEnds s u k i stOK false (krResult s 0) ∧ u.dram = s1.dram ∧ u.krysa = s.krysa)

/-- A BEACON renews what is known of its sender and raises FLOOR, and the last confirmation a claim waits for takes its
lease; a CLAIM raises FLOOR and voids a pending claim that ranks behind it; a CHANGE of the next version is held by rank of
ORIGIN; an ENTRY of a move in progress is placed; MOVE_END ends the move; a newer MAP is taken and sent on, and a later
part of it appended (R436, R454, R455, R457, R460, R461, R463, R464, R370). -/
def Obligations.RingMessagesAreProcessed : Prop :=
  ∀ (s : State) (x : KMsg) (rest : List KMsg) (me : Peer), me = s.peer x.origin →
    (NextMsg s 1 x rest →
      (∀ l : List (Nat × Nat), s.krysa.claim = none → s.krysa.wanted = 0 →
          l = (if s.krysa.state ≠ 3 then [] else match s.krysa.sendFrom with
            | none => []
            | some f => s.alm.times.filter (fun p => decide (f ≤ p.2) && decide (p.2 ≤ almNow s) &&
                (liveOthers s).all (fun v => decide (p.2 ≤ if v = x.origin then almNow s else (s.peer v).beaconAt)))) → exec .beacon s = .next { s with krysa := { s.krysa with
        leaseFrom := match l.head? with | none => s.krysa.leaseFrom | some p => some (max (s.krysa.leaseFrom.getD 0) p.2)
        inbox := rest, floor := max s.krysa.floor (beAt x.body 2 4)
        sendMap := s.krysa.sendMap || (!recent s me.heard && decide (beAt x.body 6 4 < s.krysa.mapver))
        peers := tins s.krysa.peers x.origin { me with
          heard := some s.count, beaconAt := almNow s, lease := true, links := beAt x.body 0 1 % 4, floor := beAt x.body 2 4
          mapver := beAt x.body 6 4, maporg := beAt x.body 10 1 } } }) ∧
      (∀ n c, s.krysa.claim = some (n, c) → s.krysa.wanted = 1 → n ≤ beAt x.body 2 4 → s.jf.state = 1 ∨ s.jf.state = 2 →
        (∀ v ∈ liveOthers s, v = x.origin ∨ v ∈ s.krysa.claimAck) → (∃ u, exec .beacon s = .next u ∧ u.krysa.claim = none ∧
            u.krysa.wanted = 0 ∧ (u.peer x.origin).heard = some s.count ∧ n ∈ u.jf.queuedLeases ∧
          (∃ r ∈ u.jf.queue, r.kind = 2 ∧ r.id = n ∧ r.urgent = true) ∧ u = { s with krysa := u.krysa, jf := u.jf, regs := u.regs }))) ∧
    (∀ m, NextMsg s 2 x rest → m = beAt x.body 0 4 →
      (s.krysa.claim = none → exec .claim s = .next { s with krysa := { s.krysa with inbox := rest, floor := max s.krysa.floor m } }) ∧
      ∀ n c, s.krysa.claim = some (n, c) →
        (m < n ∨ (m = n ∧ unitNo s ≤ x.origin) → exec .claim s = .next { s with krysa := { s.krysa with inbox := rest, floor := max s.krysa.floor m } }) ∧
        (n < m ∨ (m = n ∧ x.origin < unitNo s) → (∃ u, exec .claim s = .next u ∧ m ≤ u.krysa.floor ∧ u.krysa.inbox = rest ∧
          (∀ n' c', u.krysa.claim = some (n', c') → m < n' ∧ c' = s.count) ∧ u = { s with krysa := u.krysa, regs := u.regs, outs := u.outs }))) ∧
    (∀ p : KChange, NextMsg s 3 x rest → p = { ver := beAt x.body 0 4, origin := x.origin, kind := beAt x.body 4 1, dst := beAt x.body 5 1
                                               src := beAt x.body 6 1, lo := beAt x.body 8 4, hi := beAt x.body 12 4 } →
      (p.ver ≠ s.krysa.mapver + 1 → exec .change s = .next { s with krysa := { s.krysa with inbox := rest } }) ∧
      (p.ver = s.krysa.mapver + 1 → s.krysa.prop = none →
          exec .change s = .next { s with krysa := { s.krysa with inbox := rest, prop := some p } }) ∧
      ∀ q, p.ver = s.krysa.mapver + 1 → s.krysa.prop = some q →
        (q.origin ≤ p.origin → exec .change s = .next { s with krysa := { s.krysa with inbox := rest } }) ∧
        (p.origin < q.origin → s.krysa.assign = none → exec .change s = .next { s with krysa := { s.krysa with inbox := rest, prop := some p } }) ∧
        ∀ k i cal, p.origin < q.origin → q.origin = unitNo s → q.kind = 1 → s.krysa.assign = some (k, i, cal) → (findItem s k i).isSome = true →
          (∃ u, exec .change s = .next u ∧ u.krysa = { s.krysa with inbox := rest, prop := some p, assign := none } ∧
            Ended u k i stLocked false (krResult s 3))) ∧
    (NextMsg s 4 x rest → beAt x.body 0 1 = 1 → x.body.length = 34 → ∀ e, e = almOfBytes (x.body.drop 2) → ∀ f : KMove → Bool,
      f = (fun m => decide (m.src = x.origin) && !m.ended && decide (m.lo ≤ e.node) && decide (e.node ≤ m.hi)) →
      (s.krysa.movesIn.find? f = none → exec .entry s = .next { s with krysa := { s.krysa with inbox := rest } }) ∧
      ∀ m j, s.krysa.movesIn.find? f = some m → almIndex s e.node = some j → s.wedged 0 = false → (∃ u, exec .entry s = .next u ∧
          u.krysa = { s.krysa with inbox := rest, hoRecv := s.krysa.hoRecv + 1 } ∧ ∃ c ∈ u.alm.cache, c.idx = j ∧ c.dirty = true ∧
          c.data = ({ e with refTime := (m.since + 2 ^ 64 - e.refTime) % 2 ^ 64, owner := x.origin, present := true, snapDirty := true
                             jitter := min 65535 (e.jitter + transitUs s) } : AlmEntry).bytes)) ∧
    (NextMsg s 5 x rest → exec .moveEnd s = .next { s with krysa := { s.krysa with inbox := rest, movesIn := s.krysa.movesIn.map (fun m =>
      if m.src = x.origin ∧ m.ver = beAt x.body 0 4 then { m with ended := true } else m) } }) ∧
    (∀ rs : List KRange, NextMsg s 6 x rest → rs = ((chunks 9 (x.body.drop 6)).take (beAt x.body 1 1)).map (fun r => { lo := beAt r 0 4, hi := beAt r 4 4, owner := beAt r 8 1 }) →
      (beAt x.body 0 1 = 0 → s.krysa.mapver < beAt x.body 2 4 → (∀ p, s.krysa.prop = some p → p.ver ≠ beAt x.body 2 4) → exec .map s = .next { s with krysa := { s.krysa with
        inbox := rest, mapver := beAt x.body 2 4, maporg := x.origin, map := rs, prop := none, sendMap := true } }) ∧
      (beAt x.body 0 1 ≠ 0 → beAt x.body 2 4 = s.krysa.mapver → beAt x.body 0 1 = s.krysa.map.length →
        exec .map s = .next { s with krysa := { s.krysa with inbox := rest, map := s.krysa.map ++ rs, sendMap := true } }) ∧
      (beAt x.body 2 4 ≤ s.krysa.mapver → (beAt x.body 0 1 = 0 ∨ beAt x.body 2 4 ≠ s.krysa.mapver ∨ beAt x.body 0 1 ≠ s.krysa.map.length) →
        exec .map s = .next { s with krysa := { s.krysa with inbox := rest } }))

/-- A message goes on out of the other port with HOPS + 1 unless it has returned, has taken COUNT - 1 hops or that port is
down; then one that does not authenticate is counted, the own BEACON back gives the round trip and renews the own lease, a
duplicate is dropped, a new one waits for processing; a frame with a bad CRC is dropped; a claim of 64 ticks is voided;
leases end 30 s after their beacon (R450, R451, R452, R453, R455, R457, R460). -/
def Obligations.RingTransportAndTimeouts : Prop :=
  ∀ (s : State) (east : Bool),
    (∃ u, exec (.krysaPortDown east) s = .next u ∧ portUp u east = false ∧
      u = { s with krysa := { s.krysa with eastLow := east || s.krysa.eastLow, westLow := !east || s.krysa.westLow } }) ∧
    (∃ u, exec (.krysaPortUp east) s = .next u ∧
        u = { s with krysa := { s.krysa with eastLow := !east && s.krysa.eastLow, westLow := east && s.krysa.westLow } }) ∧
    (∀ m : Bytes, Agent s →
      (∃ u, exec (.ringMessageForward east m false) s = .next u ∧ u = { s with regs := u.regs } ∧
          u.stf 0x3981C 31 16 = satInc 16 (s.stf 0x3981C 31 16)) ∧
      ∀ l, l = (if beAt m 1 1 = unitNo s ∨ krCount s - 1 ≤ beAt m 2 1 ∨ portUp s (!east) = false then s.outs
          else .krysa (!east) (overlay m 2 (toBe 1 (beAt m 2 1 + 1))) :: s.outs) →
        (krOpen s.krysa.key m = none → krOpen s.krysa.oldKey m = none → (∃ u, exec (.ringMessageForward east m true) s = .next u ∧ u.outs = l ∧
            bit (u.wr 0x5804) 7 = true ∧ u = { s with regs := u.regs, outs := u.outs })) ∧
        (∀ b : Bytes, (krOpen s.krysa.key m).orElse (fun _ => krOpen s.krysa.oldKey m) = some b → beAt m 1 1 = unitNo s →
            (∃ u, exec (.ringMessageForward east m true) s = .next u ∧ u.outs = l ∧
          u = { s with outs := u.outs, krysa := { s.krysa with
            eastHeard := if east then some s.count else s.krysa.eastHeard, westHeard := if east then s.krysa.westHeard else some s.count
            backCal := u.krysa.backCal, rtt := u.krysa.rtt, leaseFrom := u.krysa.leaseFrom } } ∧
          (beAt m 0 1 ≠ 1 → u.krysa.backCal = s.krysa.backCal ∧ u.krysa.rtt = s.krysa.rtt ∧ u.krysa.leaseFrom = s.krysa.leaseFrom) ∧
          (beAt m 0 1 = 1 → (s.krysa.backCal < beAt m 6 6 → u.krysa.rtt = (s.count - beAt m 6 6) * s.perEc + s.tick.t) ∧
            (∀ a, s.alm.times.find? (fun p => decide (p.1 = beAt m 6 6)) = some (beAt m 6 6, a) →
                u.krysa.leaseFrom = some (max (s.krysa.leaseFrom.getD 0) a))))) ∧
        ∀ b : Bytes, (krOpen s.krysa.key m).orElse (fun _ => krOpen s.krysa.oldKey m) = some b → beAt m 1 1 ≠ unitNo s → beAt m 1 1 < krCount s →
          (∀ c q, (s.peer (beAt m 1 1)).last = some (c, q) → (beAt m 6 6 < c ∨ (beAt m 6 6 = c ∧ beAt m 12 2 ≤ q)) →
            (∃ u, exec (.ringMessageForward east m true) s = .next u ∧ u.outs = l ∧ u = { s with outs := u.outs, krysa := { s.krysa with
              eastHeard := if east then some s.count else s.krysa.eastHeard, westHeard := if east then s.krysa.westHeard else some s.count } })) ∧
          ((s.peer (beAt m 1 1)).last = none → 1 ≤ beAt m 0 1 → beAt m 0 1 ≤ 6 → (∃ u, exec (.ringMessageForward east m true) s = .next u ∧
              u.outs = l ∧
            u = { s with outs := u.outs, krysa := { s.krysa with
              eastHeard := if east then some s.count else s.krysa.eastHeard, westHeard := if east then s.krysa.westHeard else some s.count
              peers := tins s.krysa.peers (beAt m 1 1) { s.peer (beAt m 1 1) with last := some (beAt m 6 6, beAt m 12 2) }
              inbox := s.krysa.inbox ++ [{ type := beAt m 0 1, origin := beAt m 1 1, cal := beAt m 6 6, body := b }] } }))) ∧
    (∀ n c, s.halted = false → s.wedged 3 = false → s.krysa.claim = some (n, c) →
      (64 ≤ s.count - c → (∃ u, exec .claimTimeout s = .next u ∧ bit (u.wr 0x5804) 6 = true ∧
        (∀ n' c', u.krysa.claim = some (n', c') → c' = s.count) ∧ (s.krysa.wanted = 0 → u.krysa.claim = none) ∧
        u = { s with krysa := u.krysa, regs := u.regs, outs := u.outs })) ∧
      (s.count - c < 64 → (∃ u, exec .claimTimeout s = .next u ∧ u = s))) ∧
    (s.boot.inReset = false → s.boot.asleep = false → (∃ u, exec .ownershipLeaseExpiry s = .next u ∧
        u.krysa.leaseFrom = (if ownLease s then s.krysa.leaseFrom else none) ∧
      (∀ v ∈ others s, leaseOut s v = true → (u.peer v).lease = false) ∧ (∀ v, leaseOut s v = false → u.peer v = s.peer v) ∧
      u = { s with krysa := { s.krysa with leaseFrom := u.krysa.leaseFrom, peers := u.krysa.peers } }))

/-- While a Calends waits for its commit an access is held. Otherwise one that falls into a metadata area or fails a check
of R219 is answered with an error, counted with its class, reason and KeyID, and stores nothing; a key that may not be used
refuses it with reason 9; outside every region a full-line write with nothing older on its group reaches DRAM at once, as
does one whose tag line is resident with its minor counter below 0xFF, and any other access joins the transactions in
flight (R47, R48, R81, R217, R219, R220, R224, R229). -/
def Obligations.MemoryAccessesAreChecked : Prop :=
  ∀ (s : State) (addr : BitVec 48) (cls : BitVec 4) (data : Line) (be : BitVec 64) (tag : BitVec 8) (write : Bool) (c : Instr) (a kid : Nat),
    portDead s = false → c = (if write then .memoryWrite addr cls data be tag else .memoryRead addr cls tag) →
    a = addr.toNat % 2 ^ 40 / 64 * 64 → kid = addr.toNat / 2 ^ 40 % 256 →
    (s.tick.due = true →
      (∃ u, exec (.memoryRead addr cls tag) s = .next u ∧ u = { s with portHeld := s.portHeld ++ [.memoryRead addr cls tag] }) ∧
      (∃ u, exec (.memoryWrite addr cls data be tag) s = .next u ∧ u = { s with portHeld := s.portHeld ++ [.memoryWrite addr cls data be tag] })) ∧
    (s.tick.due = false →
      ((metaAreas s).any (inArea a) = true → (∃ u, exec c s = .next u ∧ Refused s u write tag.toNat kid cls.toNat 1 ∧
        u = { s with regs := u.regs, outs := u.outs })) ∧
      ((metaAreas s).any (inArea a) = false →
        (∀ n, regionOf s a = some n →
          (refusal s n a kid cls.toNat write ≠ 0 → (∃ u, exec c s = .next u ∧
              Refused s u write tag.toNat kid cls.toNat (refusal s n a kid cls.toNat write) ∧ u = { s with regs := u.regs, outs := u.outs })) ∧
          (refusal s n a kid cls.toNat write = 0 → keyCheck s [((groupKeys s n kid (a / 512 - (s.region n).base * 2 ^ 11)).1, memPermit (s.steerOf a) true)] ≠ stOK →
            (∃ u, exec c s = .next u ∧ Refused s u write tag.toNat kid cls.toNat 9 ∧ bit (u.stw (0x3501C + 32 * kid)) 3 = true)) ∧
          ∀ s1 t, accept s addr.toNat cls.toNat write = (s1, .serve t) →
            t.addr = a ∧ t.kid = kid ∧ t.rgn = n ∧ t.reg = s.region n ∧ t.ch = s.steerOf a ∧ t.pass = false ∧
              t.epoch = (groupKeys s n kid (a / 512 - (s.region n).base * 2 ^ 11)).2.2.1 ∧
            (write = false → (∃ u, exec (.memoryRead addr cls tag) s = .next u ∧
              u = { s1 with mem := { s1.mem with inflight := s1.mem.inflight ++ [{ t with tag := tag.toNat, data := [], be := 0 }] } })) ∧
            (write = true → be ≠ BitVec.allOnes 64 ∨ (∃ x ∈ s1.mem.inflight, x.addr / 512 = a / 512) ∨ findLine s1 t.ch (a / 512) = none →
              (∃ u, exec (.memoryWrite addr cls data be tag) s = .next u ∧ u = { s1 with mem := { s1.mem with inflight := s1.mem.inflight ++
                [{ t with tag := tag.toNat, data := lineBytes data, be := be.toNat }] } })) ∧
            ∀ l : CLine, ∀ i, write = true → be = BitVec.allOnes 64 → (∀ x ∈ s1.mem.inflight, x.addr / 512 ≠ a / 512) →
                findLine s1 t.ch (a / 512) = some l →
              (∀ x ∈ (s1.mchan t.ch).cc, x.grp = a / 512 → x.marked = false) → i = a / 64 % 8 → tlMinor l.data i < 255 →
              lineState t.reg.mode l.data i ≠ .lost → lineState t.reg.mode l.data i ≠ .poisoned →
                  (∃ u, exec (.memoryWrite addr cls data be tag) s = .next u ∧
                DramWritten s1 u a (closeLine t (tlMajor l.data) (tlMinor l.data i + 1) a (lineBytes data)).1 ∧
                    u.outs = .memWrite tag.toNat 0 :: s1.outs ∧
                u = { s1 with mem := u.mem, dram := u.dram, dmErr := u.dmErr, outs := u.outs })) ∧
        (regionOf s a = none →
          (∃ u, exec (.memoryRead addr cls tag) s = .next u ∧ u = { s with mem := { s.mem with inflight := s.mem.inflight ++
            [{ tag := tag.toNat, write := false, addr := a, cls := cls.toNat, pass := true, data := [], be := 0 }] } }) ∧
          (be ≠ BitVec.allOnes 64 ∨ (∃ x ∈ s.mem.inflight, x.addr / 512 = a / 512) →
            (∃ u, exec (.memoryWrite addr cls data be tag) s = .next u ∧ u = { s with mem := { s.mem with inflight := s.mem.inflight ++
              [{ tag := tag.toNat, write := true, addr := a, cls := cls.toNat, pass := true, data := lineBytes data, be := be.toNat }] } })) ∧
          (be = BitVec.allOnes 64 → (∀ x ∈ s.mem.inflight, x.addr / 512 ≠ a / 512) →
              (∃ u, exec (.memoryWrite addr cls data be tag) s = .next u ∧ DramWritten s u a (lineBytes data) ∧
            u.outs = .memWrite tag.toNat 0 :: s.outs ∧ u = { s with dram := u.dram, dmErr := u.dmErr, outs := u.outs })))))

/-- With its tag line resident, a read of a WRITTEN line whose tag verifies answers the plaintext, one of an UNWRITTEN line
zeros, and one of a LOST, POISONED or CORRUPT line or with a wrong tag poison; a write stores the line under the raised
minor counter with its tag. DM_ERR 0b10 makes a NATIVE or TREE line POISONED; corrected errors of caches and roots are
counted. Evictions and marked lines are written to DRAM in order; the initialisation pass writes one initial tag line (R49,
R213, R223, R229, R230, R231, R242, R247, R253, R255, R256, R262). -/
def Obligations.MemoryIsServedAndCached : Prop :=
  (∀ (s0 s : State) (j : Nat) (ret : DramReturn) (t : Txn) (l : CLine) (i : Nat) (o : Bytes × Bool), s = noteDram s0 ret → Served s j t l →
      i = t.addr / 64 % 8 →
    o = openLine t l.data i t.addr (dramGet s t.addr 64) →
    (t.write = false →
      (s.dm t.addr ≠ 2 → lineState t.reg.mode l.data i = .unwritten → (∃ u, exec (.dramDataReturn j ret) s0 = .next u ∧
          u.outs = .memRead t.tag 0 (zeros 64) :: s.outs ∧ u.mem.inflight = s.mem.inflight.erase t ∧ u = { s with mem := u.mem, outs := u.outs })) ∧
      (s.dm t.addr ≠ 2 → lineState t.reg.mode l.data i = .written → o.2 = true → (∃ u, exec (.dramDataReturn j ret) s0 = .next u ∧
          u.outs = .memRead t.tag 0 (lineCrypt t.dkey t.kid t.addr (tlMajor l.data) (tlMinor l.data i) (dramGet s t.addr 64)) :: s.outs ∧
        u.mem.inflight = s.mem.inflight.erase t ∧ u = { s with mem := u.mem, outs := u.outs })) ∧
      (s.dm t.addr ≠ 2 → lineState t.reg.mode l.data i = .written → o.2 = false → (∃ u, exec (.dramDataReturn j ret) s0 = .next u ∧
          u.outs = .memRead t.tag 3 o.1 :: s.outs ∧ bit (u.wr 0x13008) 0 = true ∧ u.stf 0x37100 31 0 = satInc 32 (s.stf 0x37100 31 0) ∧
        u = { s with mem := u.mem, regs := u.regs, outs := u.outs })) ∧
      (lineState t.reg.mode l.data i = .lost ∨ lineState t.reg.mode l.data i = .poisoned ∨ lineState t.reg.mode l.data i = .corrupt ∨ s.dm t.addr = 2 →
        (∃ u, exec (.dramDataReturn j ret) s0 = .next u ∧ u.outs = .memRead t.tag 3 (zeros 64) :: s.outs ∧
          u.stf 0x37104 31 0 = satInc 32 (s.stf 0x37104 31 0) ∧ u = { s with mem := u.mem, regs := u.regs, outs := u.outs } ∧
          (s.dm t.addr = 2 → t.reg.mode ≠ 0 → lineState t.reg.mode l.data i ≠ .lost →
            findLine u t.ch (t.addr / 512) = some { l with data := overlay l.data (9 + 7 * i) tagPoison, dirty := true })))) ∧
    (t.write = true → t.be ≠ 2 ^ 64 - 1 →
      lineState t.reg.mode l.data i = .lost ∨ lineState t.reg.mode l.data i = .poisoned ∨ lineState t.reg.mode l.data i = .corrupt ∨ s.dm t.addr = 2 ∨
        (lineState t.reg.mode l.data i = .written ∧ o.2 = false) → (∃ u, exec (.dramDataReturn j ret) s0 = .next u ∧
            u.outs = .memWrite t.tag 2 :: s.outs ∧ u.dram = s.dram ∧
        u.stf 0x37108 31 0 = satInc 32 (s.stf 0x37108 31 0) ∧ bit (u.wr 0x13008) 1 = true)) ∧
    (t.write = true → t.be = 2 ^ 64 - 1 → lineState t.reg.mode l.data i = .lost → (∃ u, exec (.dramDataReturn j ret) s0 = .next u ∧
      u.outs = .memWrite t.tag 2 :: s.outs ∧ u.stf 0x37108 31 0 = satInc 32 (s.stf 0x37108 31 0) ∧
          u = { s with mem := u.mem, regs := u.regs, outs := u.outs })) ∧
    ∀ (pt : Bytes) (x : Bytes × Bytes), t.write = true → tlMinor l.data i < 255 → t.be = 2 ^ 64 - 1 ∨ s.dm t.addr ≠ 2 →
      lineState t.reg.mode l.data i = .unwritten ∨ (lineState t.reg.mode l.data i = .written ∧ (t.be = 2 ^ 64 - 1 ∨ o.2 = true)) ∨
        (t.be = 2 ^ 64 - 1 ∧ (lineState t.reg.mode l.data i = .poisoned ∨ lineState t.reg.mode l.data i = .corrupt)) →
      pt = (if t.be = 2 ^ 64 - 1 then t.data
            else mergeBytes t.be (if lineState t.reg.mode l.data i = .unwritten then zeros 64 else o.1) t.data) →
      x = closeLine t (tlMajor l.data) (tlMinor l.data i + 1) t.addr pt → (∃ u, exec (.dramDataReturn j ret) s0 = .next u ∧
          DramWritten s u t.addr x.1 ∧ u.outs = .memWrite t.tag 0 :: s.outs ∧ u.mem.inflight = s.mem.inflight.erase t ∧
        findLine u t.ch (t.addr / 512) = some { l with data := tlSet l.data i (tlMinor l.data i + 1) x.2, dirty := true } ∧
        (lineState t.reg.mode l.data i = .poisoned → u.stf 0x3710C 31 0 = satInc 32 (s.stf 0x3710C 31 0) ∧ bit (u.wr 0x13008) 2 = true) ∧
        (lineState t.reg.mode l.data i ≠ .poisoned → u = { s with mem := u.mem, dram := u.dram, dmErr := u.dmErr, outs := u.outs }))) ∧
  (∀ (s : State) (j : Nat), portDead s = false → s.mem.inflight = [] →
    (∀ a (e : Fin 3), a % 64 = 0 → (∃ u, exec (.dramDataReturn j { errs := [(a, e)] }) s = .next u ∧ u.dm a = e.val ∧
      (∀ x, x / 64 * 64 ≠ a → u.dm x = s.dm x) ∧ u = { s with dmErr := u.dmErr })) ∧
    (∀ c : Fin 16, (∃ u, exec (.dramDataReturn j { caches := [c] }) s = .next u ∧ bit (u.wr 0x13000) 4 = true ∧
      u.stf (0x37040 + 4 * c.val) 31 16 = satInc 16 (s.stf (0x37040 + 4 * c.val) 31 16) ∧ u = { s with regs := u.regs })) ∧
    (∀ (tr : Fin 17) (h : Fin 64), tr.val < 16 →
      (∃ u, exec (.dramDataReturn j { roots := [(tr, h, 1)] }) s = .next u ∧ rootOf u tr h = tget 0 s.mem.rootsCopy (64 * tr + h) ∧
          tr.val ∈ u.mem.rootCe ∧ u = { s with mem := u.mem }) ∧
      (∃ u, exec (.dramDataReturn j { roots := [(tr, h, 2)] }) s = .next u ∧ tget 0 u.mem.rootsCopy (64 * tr + h) = rootOf s tr h ∧
          tr.val ∈ u.mem.rootCe ∧ u = { s with mem := u.mem }) ∧
      (∃ u, exec (.dramDataReturn j { roots := [(tr, h, 3)] }) s = .next u ∧ rootOf u tr h = sealLost ∧
        ∀ n, treeRegion s tr = some n → (u.region n).lost = true ∧ bit (u.wr 0x13008) 4 = true))) ∧
  (∀ (s : State) (ch : Fin 16) (a : Nat) (b : Bytes) (rest : List (Nat × Bytes)), portDead s = false → (s.chan ch).fenced = false →
    (s.mchan ch).wb = (a, b) :: rest → (∃ u, exec (.cacheEviction ch) s = .next u ∧ DramWritten s u a b ∧
      u = { s with dram := u.dram, dmErr := u.dmErr, mem := { s.mem with chan := tput {} s.mem.chan ch { s.mchan ch with wb := rest } } })) ∧
  (∀ (s : State) (ch : Fin 16) (l : CLine), portDead s = false → (s.chan ch).fenced = false →
      ((s.mchan ch).cc.filter (·.marked)).getLast? = some l →
    (∀ x ∈ (s.mchan ch).cc, x.grp = l.grp → x.marked = true → x = l) → (∃ u, exec (.markedWriteback ch) s = .next u ∧ (if l.dirty then DramWritten s u l.addr l.data else u.dram = s.dram ∧ u.dmErr = s.dmErr) ∧ u = { s with dram := u.dram, dmErr := u.dmErr, mem := { s.mem with
        chan := tput {} s.mem.chan ch { s.mchan ch with cc := (s.mchan ch).cc.filter (fun x => !(decide (x.grp = l.grp) && x.marked)) } } })) ∧
  ∀ (s : State) (n : Fin 64) (p : Nat) (r : Region), r = s.region n → r.init = some p → portDead s = false → s.halted = false →
    (∀ m ∈ tkeys s.mem.regions, m < n.val → (s.region m).init.isSome = true → (s.region m).initCal ≠ r.initCal) →
    (∃ u, exec (.regionInitPass n) s = .next u ∧
      (if s.mem.ahead.contains (n.val, p) then u.dram = s.dram ∧ u.dmErr = s.dmErr ∧ u.mem.chan = s.mem.chan
       else DramWritten s u (r.tag * 2 ^ 17 + 64 * p) (tlInitial r.epoch) ∧ Dropped s u (r.tag * 2 ^ 17 + 64 * p)) ∧
      (n.val, p) ∉ u.mem.ahead ∧ (∀ y, y ≠ (n.val, p) → (y ∈ u.mem.ahead ↔ y ∈ s.mem.ahead)) ∧
      (p + 1 < r.size * 2 ^ 11 → u.region n = { r with init := some (p + 1) } ∧ u.regs = s.regs) ∧
      (r.size * 2 ^ 11 ≤ p + 1 → u.mem.regions = tput {} s.mem.regions n { r with init := none } ∧ bit (u.wr 0x13008) 6 = true) ∧
      u = { s with dram := u.dram, dmErr := u.dmErr, regs := u.regs, mem := { s.mem with regions := u.mem.regions, ahead := u.mem.ahead, chan := u.mem.chan } })

/-- A REKEY whose old or new keys may not be used is marked failing; a group whose tag line is LOST counts as converted;
otherwise every WRITTEN line that verifies is re-encrypted under the new keys at the new epoch with minor counter 1 and one
that does not becomes POISONED; a REBUILD writes zeros over the tag line of the group, over its data with SCRUB, and then
over the tree area (R273, R275, R276, R282). -/
def Obligations.EquinoxConvertsAndRebuilds : Prop :=
  ∀ (s : State) (j : Fin 4) (jb : Job) (r : Region) (g : Nat), jb = s.job j → r = s.region jb.region → nextUnit s j = some g →
    (∀ (s0 : State) (a ch : Nat) (ret : DramReturn), s = noteDram s0 ret → portDead s0 = false → jb.kind = 0 → a = r.base * 2 ^ 20 + 512 * g →
        ch = s.steerOf a →
      (keyCheck s [(jb.oldD, memPermit ch true)] ≠ stOK → (∃ u, exec (.eqxGroupConvert j ret) s0 = .next u ∧ (u.job j).failing = some false ∧
        (u.job j).conv = jb.conv ∧ bit (u.stw (0x3501C + 32 * jb.keyid)) 3 = true ∧ u.dram = s.dram)) ∧
      (∀ s2 k, jobKeys s ch jb.keyid r.mode jb.oldD jb.oldT = (s2, some k) → keyCheck s2 [((s.kid jb.keyid).data, memPermit ch true)] ≠ stOK →
        (∃ u, exec (.eqxGroupConvert j ret) s0 = .next u ∧ (u.job j).failing = some true ∧ (u.job j).conv = jb.conv ∧ u.dram = s.dram)) ∧
      ∀ (l : CLine) (od ot nd nt sk : Bytes) (s4 : State) (old new : Txn), JobKeys s jb r ch od ot nd nt sk s4 → findLine s ch (a / 512) = some l →
        (∀ x ∈ (s.mchan ch).cc, x.grp = a / 512 → x.marked = false) →
        old = { addr := a, kid := jb.keyid, rgn := jb.region, reg := r, ch := ch, epoch := jb.oldEpoch, dkey := od, tkey := ot, skey := sk } →
        new = { old with epoch := r.epoch, dkey := nd, tkey := nt } →
        (tlMajor l.data = majorLost → (∃ u, exec (.eqxGroupConvert j ret) s0 = .next u ∧ (u.job j).conv = g :: jb.conv ∧
            (u.job j).units = jb.units + 1 ∧ u = { s4 with mem := u.mem })) ∧
        (tlMajor l.data ≠ majorLost → (∃ u, exec (.eqxGroupConvert j ret) s0 = .next u ∧ (u.job j).conv = g :: jb.conv ∧
            (u.job j).units = jb.units + 1 ∧
          (∀ i, i < 8 → dramGet u (a + 64 * i) 64 = (convertedLine s old new l a i).1) ∧
          (∀ x, x < a ∨ a + 512 ≤ x → tget dramInit u.dram x = tget dramInit s.dram x ∧ u.dm x = s.dm x) ∧
          (∃ b, (findLine u ch (a / 512)) = some { l with data := b, dirty := true } ∧ tlMajor b = r.epoch * 2 ^ 40 % 2 ^ 64 ∧
            ∀ i, i < 8 → tlMinor b i = (convertedLine s old new l a i).2.1 ∧ tlTag b i = (convertedLine s old new l a i).2.2) ∧
          u = { s4 with mem := u.mem, dram := u.dram, dmErr := u.dmErr, regs := u.regs }))) ∧
    (jb.kind = 1 → ∀ x, x = { jb with conv := g :: jb.conv, units := jb.units + 1 } →
      (jb.phase = 0 → jb.scrub = false → (∃ u, exec (.eqxRebuildWrite j) s = .next u ∧ DramWritten s u (r.tag * 2 ^ 17 + 64 * g) (zeros 64) ∧
        Dropped s u (r.tag * 2 ^ 17 + 64 * g) ∧ u = { s with dram := u.dram, dmErr := u.dmErr, mem := { s.mem with chan := u.mem.chan, jobs := tput {} s.mem.jobs j x } })) ∧
      (jb.phase = 0 → jb.scrub = true → (∃ u, exec (.eqxRebuildWrite j) s = .next u ∧ dramGet u (r.tag * 2 ^ 17 + 64 * g) 64 = zeros 64 ∧
          dramGet u (r.base * 2 ^ 20 + 512 * g) 512 = zeros 512 ∧
        (∀ y, (y < r.tag * 2 ^ 17 + 64 * g ∨ r.tag * 2 ^ 17 + 64 * g + 64 ≤ y) →
            (y < r.base * 2 ^ 20 + 512 * g ∨ r.base * 2 ^ 20 + 512 * g + 512 ≤ y) →
          tget dramInit u.dram y = tget dramInit s.dram y) ∧ Dropped s u (r.tag * 2 ^ 17 + 64 * g) ∧
        u = { s with dram := u.dram, dmErr := u.dmErr, mem := { s.mem with chan := u.mem.chan, jobs := tput {} s.mem.jobs j x } })) ∧
      (jb.phase ≠ 0 → (∃ u, exec (.eqxRebuildWrite j) s = .next u ∧ DramWritten s u ((s.tree r.tree).base * 2 ^ 16 + 512 * g) (zeros 512) ∧
        (∀ c, c < 16 → (∀ l ∈ (u.mchan c).cc, inArea l.addr ((s.tree r.tree).base * 2 ^ 16 + 512 * g, 512) = false) ∧
          ∀ l ∈ (u.mchan c).tc, inArea l.addr ((s.tree r.tree).base * 2 ^ 16 + 512 * g, 512) = false) ∧
        u = { s with dram := u.dram, dmErr := u.dmErr, mem := { s.mem with chan := u.mem.chan, jobs := tput {} s.mem.jobs j x } })))
end

