-- ==== Sys2Proof/Laws/CommitFrame.lean ====
section
/-! SUPPORT. What steps 1 to 7 of the commit of a Calends leave as they were (R82). -/

namespace Sys2Proof.Machine

/-- An operation keeps these fields. -/
structure CommitFrame (s t : State) : Prop where
  host : t.host = s.host
  tick : t.tick = s.tick
  portHeld : t.portHeld = s.portHeld
  lateWr : t.lateWr = s.lateWr
  flash : t.flash = s.flash
  vigil : t.vigil = s.vigil
  flt : t.flt = s.flt
  tap : t.tap = s.tap

theorem CommitFrame.refl (s : State) : CommitFrame s s := ⟨rfl, rfl, rfl, rfl, rfl, rfl, rfl, rfl⟩
theorem CommitFrame.trans {a b c : State} (x : CommitFrame a b) (y : CommitFrame b c) : CommitFrame a c :=
  ⟨y.host.trans x.host, y.tick.trans x.tick, y.portHeld.trans x.portHeld, y.lateWr.trans x.lateWr, y.flash.trans x.flash, y.vigil.trans x.vigil, y.flt.trans x.flt, y.tap.trans x.tap⟩
/-- The state of a pair. -/
theorem CommitFrame.pair {β : Type} {a s : State} {p : State × β} {x : β} (e : p = (s, x)) (h : CommitFrame a p.1) : CommitFrame a s := by
  rw [e] at h; exact h
/-- Both branches. -/
theorem CommitFrame.ite {a x y : State} {p : Prop} [Decidable p] (h1 : p → CommitFrame a x) (h2 : ¬p → CommitFrame a y) : CommitFrame a (if p then x else y) := by
  split
  · exact h1 ‹_›
  · exact h2 ‹_›
/-- Both branches of a pair. -/
theorem CommitFrame.iteP {β : Type} {a : State} {x y : State × β} {p : Prop} [Decidable p] (h1 : p → CommitFrame a x.1) (h2 : ¬p → CommitFrame a y.1) :
    CommitFrame a (if p then x else y).1 := by
  split
  · exact h1 ‹_›
  · exact h2 ‹_›
/-- A loop. -/
theorem CommitFrame.foldl {β : Type} {a : State} {f : State → β → State} (l : List β) {s : State} (h : CommitFrame a s)
    (k : ∀ t x, CommitFrame a t → CommitFrame a (f t x)) : CommitFrame a (l.foldl f s) := by
  induction l generalizing s with
  | nil => exact h
  | cons x l ih => exact ih (k s x h)
/-- A loop that carries more than the state. -/
theorem CommitFrame.foldlP {β γ : Type} {a : State} {f : State × γ → β → State × γ} (l : List β) {p : State × γ} (h : CommitFrame a p.1)
    (k : ∀ q x, CommitFrame a q.1 → CommitFrame a (f q x).1) : CommitFrame a (l.foldl f p).1 := by
  induction l generalizing p with
  | nil => exact h
  | cons x l ih => exact ih (k p x h)
/-- `CommitFrame` by the fields. -/
structure CommitFrameParts (a : State) (host_ : HostPort) (tick_ : Tick) (portHeld_ : List Instr) (lateWr_ : List (Nat × Nat)) (flash_ : Flash) (vigil_ : Vigil) (flt_ : Flt) (tap_ : TapPort) : Prop where
  host : host_ = a.host
  tick : tick_ = a.tick
  portHeld : portHeld_ = a.portHeld
  lateWr : lateWr_ = a.lateWr
  flash : flash_ = a.flash
  vigil : vigil_ = a.vigil
  flt : flt_ = a.flt
  tap : tap_ = a.tap
theorem CommitFrameParts.of {a x : State} (h : CommitFrame a x) : CommitFrameParts a x.host x.tick x.portHeld x.lateWr x.flash x.vigil x.flt x.tap := ⟨h.host, h.tick, h.portHeld, h.lateWr, h.flash, h.vigil, h.flt, h.tap⟩
/-- The lemma for a record update. -/
theorem CommitFrame_mk {a : State}
    {pending_} {regs_} {host_} {tick_} {rings_} {vault_} {fuses_} {ch_} {part_} {boot_} {jf_} {mem_} {link_}
    {portHeld_} {lateWr_} {flash_} {log_} {nodes_} {alm_} {ledger_} {conv_} {krysa_} {nms_} {vigil_} {flt_} {sleep_}
    {tap_} {dram_} {dmErr_} {drbg_} {seq_} {outs_} :
    CommitFrame a {
      pending := pending_, regs := regs_, host := host_, tick := tick_, rings := rings_, vault := vault_,
      fuses := fuses_, ch := ch_, part := part_, boot := boot_, jf := jf_, mem := mem_, link := link_,
      portHeld := portHeld_, lateWr := lateWr_, flash := flash_, log := log_, nodes := nodes_, alm := alm_,
      ledger := ledger_, conv := conv_, krysa := krysa_, nms := nms_, vigil := vigil_, flt := flt_, sleep := sleep_,
      tap := tap_, dram := dram_, dmErr := dmErr_, drbg := drbg_, seq := seq_, outs := outs_ } ↔ CommitFrameParts a host_ tick_ portHeld_ lateWr_ flash_ vigil_ flt_ tap_ :=
  ⟨fun h => ⟨h.host, h.tick, h.portHeld, h.lateWr, h.flash, h.vigil, h.flt, h.tap⟩, fun h => ⟨h.host, h.tick, h.portHeld, h.lateWr, h.flash, h.vigil, h.flt, h.tap⟩⟩

theorem State_bump_commitFrame {a : State} (s : State) (h : CommitFrame a s) : CommitFrame a (State.bump s) := by
  unfold State.bump
  try dsimp only
  repeat' first
    | with_reducible assumption
    | with_reducible refine CommitFrame.pair (by with_reducible assumption) ?_
    | with_reducible apply CommitFrame.ite
    | with_reducible apply CommitFrame.iteP
    | with_reducible apply CommitFrame.foldl
    | with_reducible apply CommitFrame.foldlP
    | intro _
    | split
    | (simp only [CommitFrame_mk]; with_reducible apply CommitFrameParts.of)

theorem State_drew_commitFrame {a : State} (s : State) (n : Nat) (h : CommitFrame a s) : CommitFrame a (State.drew s n) := by
  unfold State.drew
  try dsimp only
  repeat' first
    | with_reducible assumption
    | with_reducible refine CommitFrame.pair (by with_reducible assumption) ?_
    | with_reducible apply CommitFrame.ite
    | with_reducible apply CommitFrame.iteP
    | with_reducible apply CommitFrame.foldl
    | with_reducible apply CommitFrame.foldlP
    | intro _
    | split
    | (simp only [CommitFrame_mk]; with_reducible apply CommitFrameParts.of)

theorem State_emit_commitFrame {a : State} (s : State) (o : Out) (h : CommitFrame a s) : CommitFrame a (State.emit s o) := by
  unfold State.emit
  try dsimp only
  repeat' first
    | with_reducible assumption
    | with_reducible refine CommitFrame.pair (by with_reducible assumption) ?_
    | with_reducible apply CommitFrame.ite
    | with_reducible apply CommitFrame.iteP
    | with_reducible apply CommitFrame.foldl
    | with_reducible apply CommitFrame.foldlP
    | intro _
    | split
    | (simp only [CommitFrame_mk]; with_reducible apply CommitFrameParts.of)

theorem State_putWr_commitFrame {a : State} (s : State) (off : Nat) (v : Nat) (h : CommitFrame a s) : CommitFrame a (State.putWr s off v) := by
  unfold State.putWr
  try dsimp only
  repeat' first
    | with_reducible assumption
    | with_reducible refine CommitFrame.pair (by with_reducible assumption) ?_
    | with_reducible apply CommitFrame.ite
    | with_reducible apply CommitFrame.iteP
    | with_reducible apply CommitFrame.foldl
    | with_reducible apply CommitFrame.foldlP
    | intro _
    | split
    | (simp only [CommitFrame_mk]; with_reducible apply CommitFrameParts.of)

theorem State_evt_commitFrame {a : State} (s : State) (off : Nat) (n : Nat) (h : CommitFrame a s) : CommitFrame a (State.evt s off n) := by
  unfold State.evt
  try dsimp only
  repeat' first
    | with_reducible assumption
    | with_reducible apply State_putWr_commitFrame

theorem State_putSt_commitFrame {a : State} (s : State) (off : Nat) (v : Nat) (h : CommitFrame a s) : CommitFrame a (State.putSt s off v) := by
  unfold State.putSt
  try dsimp only
  repeat' first
    | with_reducible assumption
    | with_reducible refine CommitFrame.pair (by with_reducible assumption) ?_
    | with_reducible apply CommitFrame.ite
    | with_reducible apply CommitFrame.iteP
    | with_reducible apply CommitFrame.foldl
    | with_reducible apply CommitFrame.foldlP
    | intro _
    | split
    | (simp only [CommitFrame_mk]; with_reducible apply CommitFrameParts.of)

theorem State_putStf_commitFrame {a : State} (s : State) (off : Nat) (hi : Nat) (lo : Nat) (v : Nat) (h : CommitFrame a s)
    : CommitFrame a (State.putStf s off hi lo v) := by
  unfold State.putStf
  try dsimp only
  repeat' first
    | with_reducible assumption
    | with_reducible apply State_putSt_commitFrame

theorem State_inc_commitFrame {a : State} (s : State) (off : Nat) (hi : Nat) (lo : Nat) (h : CommitFrame a s)
    : CommitFrame a (State.inc s off hi lo) := by
  unfold State.inc
  try dsimp only
  repeat' first
    | with_reducible assumption
    | with_reducible apply State_putStf_commitFrame

theorem State_incBy_commitFrame {a : State} (s : State) (off : Nat) (hi : Nat) (lo : Nat) (d : Nat) (h : CommitFrame a s)
    : CommitFrame a (State.incBy s off hi lo d) := by
  unfold State.incBy
  try dsimp only
  repeat' first
    | with_reducible assumption
    | with_reducible apply State_putStf_commitFrame

theorem State_modSlot_commitFrame {a : State} (s : State) (n : Nat) (f : Slot → Slot) (h : CommitFrame a s)
    : CommitFrame a (State.modSlot s n f) := by
  unfold State.modSlot
  try dsimp only
  repeat' first
    | with_reducible assumption
    | with_reducible refine CommitFrame.pair (by with_reducible assumption) ?_
    | with_reducible apply CommitFrame.ite
    | with_reducible apply CommitFrame.iteP
    | with_reducible apply CommitFrame.foldl
    | with_reducible apply CommitFrame.foldlP
    | intro _
    | split
    | (simp only [CommitFrame_mk]; with_reducible apply CommitFrameParts.of)

theorem recDurable_commitFrame {a : State} (s : State) (r : JRec) (h : CommitFrame a s) : CommitFrame a (recDurable s r) := by
  unfold recDurable
  try dsimp only
  repeat' first
    | with_reducible assumption
    | with_reducible apply State_modSlot_commitFrame
    | with_reducible refine CommitFrame.pair (by with_reducible assumption) ?_
    | with_reducible apply CommitFrame.ite
    | with_reducible apply CommitFrame.iteP
    | with_reducible apply CommitFrame.foldl
    | with_reducible apply CommitFrame.foldlP
    | intro _
    | split
    | (simp only [CommitFrame_mk]; with_reducible apply CommitFrameParts.of)

theorem State_jPut_commitFrame {a : State} (s : State) (r : JRec) (h : CommitFrame a s) : CommitFrame a (State.jPut s r) := by
  unfold State.jPut
  try dsimp only
  repeat' first
    | with_reducible assumption
    | with_reducible apply recDurable_commitFrame
    | with_reducible apply State_inc_commitFrame
    | with_reducible refine CommitFrame.pair (by with_reducible assumption) ?_
    | with_reducible apply CommitFrame.ite
    | with_reducible apply CommitFrame.iteP
    | with_reducible apply CommitFrame.foldl
    | with_reducible apply CommitFrame.foldlP
    | intro _
    | split
    | (simp only [CommitFrame_mk]; with_reducible apply CommitFrameParts.of)

theorem State_logLose_commitFrame {a : State} (s : State) (h : CommitFrame a s) : CommitFrame a (State.logLose s) := by
  unfold State.logLose
  try dsimp only
  repeat' first
    | with_reducible assumption
    | with_reducible apply State_putWr_commitFrame
    | with_reducible refine CommitFrame.pair (by with_reducible assumption) ?_
    | with_reducible apply CommitFrame.ite
    | with_reducible apply CommitFrame.iteP
    | with_reducible apply CommitFrame.foldl
    | with_reducible apply CommitFrame.foldlP
    | intro _
    | split
    | (simp only [CommitFrame_mk]; with_reducible apply CommitFrameParts.of)

theorem State_logStore_commitFrame {a : State} (s : State) (ev : Nat) (cls : Nat) (data : Bytes) (h : CommitFrame a s)
    : CommitFrame a (State.logStore s ev cls data) := by
  unfold State.logStore
  try dsimp only
  repeat' first
    | with_reducible assumption
    | with_reducible apply State_putWr_commitFrame
    | with_reducible refine CommitFrame.pair (by with_reducible assumption) ?_
    | with_reducible apply CommitFrame.ite
    | with_reducible apply CommitFrame.iteP
    | with_reducible apply CommitFrame.foldl
    | with_reducible apply CommitFrame.foldlP
    | intro _
    | split
    | (simp only [CommitFrame_mk]; with_reducible apply CommitFrameParts.of)

theorem State_logPut_commitFrame {a : State} (s : State) (ev : Nat) (cls : Nat) (data : Bytes) (h : CommitFrame a s)
    : CommitFrame a (State.logPut s ev cls data) := by
  unfold State.logPut
  try dsimp only
  repeat' first
    | with_reducible assumption
    | with_reducible apply State_logLose_commitFrame
    | with_reducible apply State_logStore_commitFrame
    | with_reducible refine CommitFrame.pair (by with_reducible assumption) ?_
    | with_reducible apply CommitFrame.ite
    | with_reducible apply CommitFrame.iteP
    | with_reducible apply CommitFrame.foldl
    | with_reducible apply CommitFrame.foldlP
    | intro _
    | split
    | (simp only [CommitFrame_mk]; with_reducible apply CommitFrameParts.of)

theorem State_modAlm_commitFrame {a : State} (s : State) (f : Almanac → Almanac) (h : CommitFrame a s) : CommitFrame a (State.modAlm s f) := by
  unfold State.modAlm
  try dsimp only
  repeat' first
    | with_reducible assumption
    | with_reducible refine CommitFrame.pair (by with_reducible assumption) ?_
    | with_reducible apply CommitFrame.ite
    | with_reducible apply CommitFrame.iteP
    | with_reducible apply CommitFrame.foldl
    | with_reducible apply CommitFrame.foldlP
    | intro _
    | split
    | (simp only [CommitFrame_mk]; with_reducible apply CommitFrameParts.of)

theorem State_modChan_commitFrame {a : State} (s : State) (n : Nat) (f : Chan → Chan) (h : CommitFrame a s)
    : CommitFrame a (State.modChan s n f) := by
  unfold State.modChan
  try dsimp only
  repeat' first
    | with_reducible assumption
    | with_reducible refine CommitFrame.pair (by with_reducible assumption) ?_
    | with_reducible apply CommitFrame.ite
    | with_reducible apply CommitFrame.iteP
    | with_reducible apply CommitFrame.foldl
    | with_reducible apply CommitFrame.foldlP
    | intro _
    | split
    | (simp only [CommitFrame_mk]; with_reducible apply CommitFrameParts.of)

theorem State_modConvs_commitFrame {a : State} (s : State) (f : Convs → Convs) (h : CommitFrame a s) : CommitFrame a (State.modConvs s f) := by
  unfold State.modConvs
  try dsimp only
  repeat' first
    | with_reducible assumption
    | with_reducible refine CommitFrame.pair (by with_reducible assumption) ?_
    | with_reducible apply CommitFrame.ite
    | with_reducible apply CommitFrame.iteP
    | with_reducible apply CommitFrame.foldl
    | with_reducible apply CommitFrame.foldlP
    | intro _
    | split
    | (simp only [CommitFrame_mk]; with_reducible apply CommitFrameParts.of)

theorem State_modConv_commitFrame {a : State} (s : State) (id : Nat) (f : Conv → Conv) (h : CommitFrame a s)
    : CommitFrame a (State.modConv s id f) := by
  unfold State.modConv
  try dsimp only
  repeat' first
    | with_reducible assumption
    | with_reducible apply State_modConvs_commitFrame

theorem State_modJob_commitFrame {a : State} (s : State) (j : Nat) (f : Job → Job) (h : CommitFrame a s) : CommitFrame a (State.modJob s j f) := by
  unfold State.modJob
  try dsimp only
  repeat' first
    | with_reducible assumption
    | with_reducible refine CommitFrame.pair (by with_reducible assumption) ?_
    | with_reducible apply CommitFrame.ite
    | with_reducible apply CommitFrame.iteP
    | with_reducible apply CommitFrame.foldl
    | with_reducible apply CommitFrame.foldlP
    | intro _
    | split
    | (simp only [CommitFrame_mk]; with_reducible apply CommitFrameParts.of)

theorem State_modKr_commitFrame {a : State} (s : State) (f : Krysa → Krysa) (h : CommitFrame a s) : CommitFrame a (State.modKr s f) := by
  unfold State.modKr
  try dsimp only
  repeat' first
    | with_reducible assumption
    | with_reducible refine CommitFrame.pair (by with_reducible assumption) ?_
    | with_reducible apply CommitFrame.ite
    | with_reducible apply CommitFrame.iteP
    | with_reducible apply CommitFrame.foldl
    | with_reducible apply CommitFrame.foldlP
    | intro _
    | split
    | (simp only [CommitFrame_mk]; with_reducible apply CommitFrameParts.of)

theorem State_modLg_commitFrame {a : State} (s : State) (f : Ledger → Ledger) (h : CommitFrame a s) : CommitFrame a (State.modLg s f) := by
  unfold State.modLg
  try dsimp only
  repeat' first
    | with_reducible assumption
    | with_reducible refine CommitFrame.pair (by with_reducible assumption) ?_
    | with_reducible apply CommitFrame.ite
    | with_reducible apply CommitFrame.iteP
    | with_reducible apply CommitFrame.foldl
    | with_reducible apply CommitFrame.foldlP
    | intro _
    | split
    | (simp only [CommitFrame_mk]; with_reducible apply CommitFrameParts.of)

theorem State_modMchan_commitFrame {a : State} (s : State) (n : Nat) (f : MemChan → MemChan) (h : CommitFrame a s)
    : CommitFrame a (State.modMchan s n f) := by
  unfold State.modMchan
  try dsimp only
  repeat' first
    | with_reducible assumption
    | with_reducible refine CommitFrame.pair (by with_reducible assumption) ?_
    | with_reducible apply CommitFrame.ite
    | with_reducible apply CommitFrame.iteP
    | with_reducible apply CommitFrame.foldl
    | with_reducible apply CommitFrame.foldlP
    | intro _
    | split
    | (simp only [CommitFrame_mk]; with_reducible apply CommitFrameParts.of)

theorem State_modNms_commitFrame {a : State} (s : State) (f : Nms → Nms) (h : CommitFrame a s) : CommitFrame a (State.modNms s f) := by
  unfold State.modNms
  try dsimp only
  repeat' first
    | with_reducible assumption
    | with_reducible refine CommitFrame.pair (by with_reducible assumption) ?_
    | with_reducible apply CommitFrame.ite
    | with_reducible apply CommitFrame.iteP
    | with_reducible apply CommitFrame.foldl
    | with_reducible apply CommitFrame.foldlP
    | intro _
    | split
    | (simp only [CommitFrame_mk]; with_reducible apply CommitFrameParts.of)

theorem State_modPath_commitFrame {a : State} (s : State) (p : Nat) (f : Path → Path) (h : CommitFrame a s)
    : CommitFrame a (State.modPath s p f) := by
  unfold State.modPath
  try dsimp only
  repeat' first
    | with_reducible assumption
    | with_reducible refine CommitFrame.pair (by with_reducible assumption) ?_
    | with_reducible apply CommitFrame.ite
    | with_reducible apply CommitFrame.iteP
    | with_reducible apply CommitFrame.foldl
    | with_reducible apply CommitFrame.foldlP
    | intro _
    | split
    | (simp only [CommitFrame_mk]; with_reducible apply CommitFrameParts.of)

theorem State_modRegion_commitFrame {a : State} (s : State) (n : Nat) (f : Region → Region) (h : CommitFrame a s)
    : CommitFrame a (State.modRegion s n f) := by
  unfold State.modRegion
  try dsimp only
  repeat' first
    | with_reducible assumption
    | with_reducible refine CommitFrame.pair (by with_reducible assumption) ?_
    | with_reducible apply CommitFrame.ite
    | with_reducible apply CommitFrame.iteP
    | with_reducible apply CommitFrame.foldl
    | with_reducible apply CommitFrame.foldlP
    | intro _
    | split
    | (simp only [CommitFrame_mk]; with_reducible apply CommitFrameParts.of)

theorem State_modRing_commitFrame {a : State} (s : State) (r : Nat) (f : Ring → Ring) (h : CommitFrame a s)
    : CommitFrame a (State.modRing s r f) := by
  unfold State.modRing
  try dsimp only
  repeat' first
    | with_reducible assumption
    | with_reducible refine CommitFrame.pair (by with_reducible assumption) ?_
    | with_reducible apply CommitFrame.ite
    | with_reducible apply CommitFrame.iteP
    | with_reducible apply CommitFrame.foldl
    | with_reducible apply CommitFrame.foldlP
    | intro _
    | split
    | (simp only [CommitFrame_mk]; with_reducible apply CommitFrameParts.of)

theorem State_modRxsc_commitFrame {a : State} (s : State) (p : Nat) (n : Nat) (f : RxSc → RxSc) (h : CommitFrame a s)
    : CommitFrame a (State.modRxsc s p n f) := by
  unfold State.modRxsc
  try dsimp only
  repeat' first
    | with_reducible assumption
    | with_reducible apply State_modPath_commitFrame

theorem State_modSae_commitFrame {a : State} (s : State) (p : Nat) (tx : Bool) (e_ : Nat) (f : SaEntry → SaEntry)
    (h : CommitFrame a s) : CommitFrame a (State.modSae s p tx e_ f) := by
  unfold State.modSae
  try dsimp only
  repeat' first
    | with_reducible assumption
    | with_reducible apply State_modPath_commitFrame

theorem State_modSecy_commitFrame {a : State} (s : State) (p : Nat) (n : Nat) (f : SecY → SecY) (h : CommitFrame a s)
    : CommitFrame a (State.modSecy s p n f) := by
  unfold State.modSecy
  try dsimp only
  repeat' first
    | with_reducible assumption
    | with_reducible apply State_modPath_commitFrame

theorem State_modSleep_commitFrame {a : State} (s : State) (f : Sleep → Sleep) (h : CommitFrame a s) : CommitFrame a (State.modSleep s f) := by
  unfold State.modSleep
  try dsimp only
  repeat' first
    | with_reducible assumption
    | with_reducible refine CommitFrame.pair (by with_reducible assumption) ?_
    | with_reducible apply CommitFrame.ite
    | with_reducible apply CommitFrame.iteP
    | with_reducible apply CommitFrame.foldl
    | with_reducible apply CommitFrame.foldlP
    | intro _
    | split
    | (simp only [CommitFrame_mk]; with_reducible apply CommitFrameParts.of)

theorem State_putFc_commitFrame {a : State} (s : State) (off : Nat) (v : Nat) (h : CommitFrame a s) : CommitFrame a (State.putFc s off v) := by
  unfold State.putFc
  try dsimp only
  repeat' first
    | with_reducible assumption
    | with_reducible refine CommitFrame.pair (by with_reducible assumption) ?_
    | with_reducible apply CommitFrame.ite
    | with_reducible apply CommitFrame.iteP
    | with_reducible apply CommitFrame.foldl
    | with_reducible apply CommitFrame.foldlP
    | intro _
    | split
    | (simp only [CommitFrame_mk]; with_reducible apply CommitFrameParts.of)

theorem dramPut_commitFrame {a s : State} (h : CommitFrame a s) (ad : Nat) (b : Bytes) : CommitFrame a (dramPut s ad b) :=
  h.trans ⟨rfl, rfl, rfl, rfl, rfl, rfl, rfl, rfl⟩

theorem integEvent_commitFrame {a : State} (s : State) (kind : Nat) (a_ : Nat) (n : Nat) (h : CommitFrame a s)
    : CommitFrame a (integEvent s kind a_ n) := by
  unfold integEvent
  try dsimp only
  repeat' first
    | with_reducible assumption
    | with_reducible apply State_logPut_commitFrame
    | with_reducible apply State_putSt_commitFrame

theorem partRefused_commitFrame {a : State} (s : State) (t_ : Txn) (h : CommitFrame a s) : CommitFrame a (partRefused s t_).1 := by
  unfold partRefused
  try dsimp only
  repeat' first
    | with_reducible assumption
    | with_reducible apply integEvent_commitFrame
    | with_reducible apply State_evt_commitFrame
    | with_reducible apply State_inc_commitFrame

theorem releaseMarked_commitFrame {a : State} (s : State) (ch : Nat) (grp : Nat) (h : CommitFrame a s) : CommitFrame a (releaseMarked s ch grp) := by
  unfold releaseMarked
  try dsimp only
  repeat' first
    | with_reducible assumption
    | with_reducible apply State_modMchan_commitFrame
    | with_reducible apply dramPut_commitFrame
    | with_reducible refine CommitFrame.pair (by with_reducible assumption) ?_
    | with_reducible apply CommitFrame.ite
    | with_reducible apply CommitFrame.iteP
    | with_reducible apply CommitFrame.foldl
    | with_reducible apply CommitFrame.foldlP
    | intro _
    | split

theorem touchLine_commitFrame {a : State} (s : State) (ch : Nat) (grp : Nat) (f : CLine → CLine) (h : CommitFrame a s)
    : CommitFrame a (touchLine s ch grp f) := by
  unfold touchLine
  try dsimp only
  repeat' first
    | with_reducible assumption
    | with_reducible apply State_modMchan_commitFrame
    | with_reducible refine CommitFrame.pair (by with_reducible assumption) ?_
    | with_reducible apply CommitFrame.ite
    | with_reducible apply CommitFrame.iteP
    | with_reducible apply CommitFrame.foldl
    | with_reducible apply CommitFrame.foldlP
    | intro _
    | split

theorem touchNode_commitFrame {a : State} (s : State) (ch : Nat) (t_ : Nat) (k : Nat) (i : Nat) (h_ : Nat)
    (f : TNode → TNode) (h : CommitFrame a s) : CommitFrame a (touchNode s ch t_ k i h_ f) := by
  unfold touchNode
  try dsimp only
  repeat' first
    | with_reducible assumption
    | with_reducible apply State_modMchan_commitFrame
    | with_reducible refine CommitFrame.pair (by with_reducible assumption) ?_
    | with_reducible apply CommitFrame.ite
    | with_reducible apply CommitFrame.iteP
    | with_reducible apply CommitFrame.foldl
    | with_reducible apply CommitFrame.foldlP
    | intro _
    | split

theorem dlvRefused_commitFrame {a : State} (s : State) (h : CommitFrame a s) : CommitFrame a (dlvRefused s) := by
  unfold dlvRefused
  try dsimp only
  repeat' first
    | with_reducible assumption
    | with_reducible apply State_evt_commitFrame
    | with_reducible apply State_inc_commitFrame

theorem revalFail_commitFrame {a : State} (s : State) (n : Nat) (slot : Nat) (h : CommitFrame a s) : CommitFrame a (revalFail s n slot) := by
  unfold revalFail
  try dsimp only
  repeat' first
    | with_reducible assumption
    | with_reducible apply State_inc_commitFrame
    | with_reducible apply State_modChan_commitFrame
    | with_reducible refine CommitFrame.pair (by with_reducible assumption) ?_
    | with_reducible apply CommitFrame.ite
    | with_reducible apply CommitFrame.iteP
    | with_reducible apply CommitFrame.foldl
    | with_reducible apply CommitFrame.foldlP
    | intro _

theorem keyDenied_commitFrame {a : State} (s : State) (st : Nat) (role : Nat) (n : Nat) (slot : Nat) (h : CommitFrame a s)
    : CommitFrame a (keyDenied s st role n slot) := by
  unfold keyDenied
  try dsimp only
  repeat' first
    | with_reducible assumption
    | with_reducible apply dlvRefused_commitFrame
    | with_reducible apply revalFail_commitFrame
    | with_reducible refine CommitFrame.pair (by with_reducible assumption) ?_
    | with_reducible apply CommitFrame.ite
    | with_reducible apply CommitFrame.iteP
    | with_reducible apply CommitFrame.foldl
    | with_reducible apply CommitFrame.foldlP
    | intro _

theorem loadCopy_commitFrame {a : State} {s : State} {n : Nat} {slot : Nat} {gen : Nat} {key : Bytes} {grant : Nat}
    {t : State} (e : loadCopy s n slot gen key grant = some t) (h : CommitFrame a s) : CommitFrame a t := by
  unfold loadCopy at e
  repeat' first | (injection e with e; subst e) | contradiction | split at e | (dsimp only at e)
  repeat' first
    | with_reducible assumption
    | with_reducible apply State_drew_commitFrame
    | with_reducible apply State_modChan_commitFrame

theorem queueKey_commitFrame {a : State} (s : State) (n : Nat) (urgent : Bool) (h : CommitFrame a s) : CommitFrame a (queueKey s n urgent) := by
  unfold queueKey
  try dsimp only
  repeat' first
    | with_reducible assumption
    | with_reducible apply State_modSlot_commitFrame
    | with_reducible apply State_jPut_commitFrame
    | with_reducible refine CommitFrame.pair (by with_reducible assumption) ?_
    | with_reducible apply CommitFrame.ite
    | with_reducible apply CommitFrame.iteP
    | with_reducible apply CommitFrame.foldl
    | with_reducible apply CommitFrame.foldlP
    | intro _

theorem persistAhead_commitFrame {a : State} (s : State) (n : Nat) (h : CommitFrame a s) : CommitFrame a (persistAhead s n) := by
  unfold persistAhead
  try dsimp only
  repeat' first
    | with_reducible assumption
    | with_reducible apply queueKey_commitFrame
    | with_reducible refine CommitFrame.pair (by with_reducible assumption) ?_
    | with_reducible apply CommitFrame.ite
    | with_reducible apply CommitFrame.iteP
    | with_reducible apply CommitFrame.foldl
    | with_reducible apply CommitFrame.foldlP
    | intro _

theorem addUses_commitFrame {a : State} (s : State) (n : Nat) (u : Nat) (h : CommitFrame a s) : CommitFrame a (addUses s n u) := by
  unfold addUses
  try dsimp only
  repeat' first
    | with_reducible assumption
    | with_reducible apply State_modSlot_commitFrame
    | with_reducible apply persistAhead_commitFrame
    | with_reducible apply State_evt_commitFrame
    | with_reducible refine CommitFrame.pair (by with_reducible assumption) ?_
    | with_reducible apply CommitFrame.ite
    | with_reducible apply CommitFrame.iteP
    | with_reducible apply CommitFrame.foldl
    | with_reducible apply CommitFrame.foldlP
    | intro _

theorem useCopy_commitFrame {a : State} (s : State) (n slot u : Nat) (h : CommitFrame a s) : CommitFrame a (useCopy s n slot u).1 := by
  unfold useCopy
  dsimp only
  have hs : ∀ s1, (match findCopy (s.chan n).bank slot (s.slot slot).gen with
      | some _ => some (s.modChan n (fun c =>
          { c with bank := touchCopy c.bank slot (s.slot slot).gen (fun e => { e with epoch := s.vault.epoch }) }))
      | none => loadCopy s n slot (s.slot slot).gen (s.slot slot).key 0) = some s1 → CommitFrame a s1 := by
    intro s1 e
    split at e
    · injection e with e; subst e; exact State_modChan_commitFrame _ _ _ h
    · exact loadCopy_commitFrame e h
  split
  · exact h
  · rename_i s1 e
    have h1 := hs s1 e
    repeat' first
      | with_reducible assumption
      | with_reducible apply CommitFrame.iteP
      | with_reducible apply CommitFrame.ite
      | with_reducible apply State_modChan_commitFrame
      | with_reducible apply State_evt_commitFrame
      | with_reducible apply addUses_commitFrame
      | intro _

theorem lineKey_commitFrame {a : State} (s : State) (n : Nat) (slot : Nat) (h : CommitFrame a s) : CommitFrame a (lineKey s n slot).1 := by
  unfold lineKey
  try dsimp only
  repeat' first
    | with_reducible assumption
    | with_reducible apply useCopy_commitFrame
    | with_reducible refine CommitFrame.pair (by with_reducible assumption) ?_
    | with_reducible apply CommitFrame.ite
    | with_reducible apply CommitFrame.iteP
    | with_reducible apply CommitFrame.foldl
    | with_reducible apply CommitFrame.foldlP
    | intro _
    | split

theorem memKey_commitFrame {a : State} (s : State) (ch : Nat) (r : KeyRef) (data : Bool) (h : CommitFrame a s)
    : CommitFrame a (memKey s ch r data).1 := by
  unfold memKey
  try dsimp only
  repeat' first
    | with_reducible assumption
    | with_reducible apply keyDenied_commitFrame
    | with_reducible apply lineKey_commitFrame
    | with_reducible refine CommitFrame.pair (by with_reducible assumption) ?_
    | with_reducible apply CommitFrame.ite
    | with_reducible apply CommitFrame.iteP
    | with_reducible apply CommitFrame.foldl
    | with_reducible apply CommitFrame.foldlP
    | intro _

theorem setRoot_commitFrame {a : State} (s : State) (t_ : Nat) (h_ : Nat) (v : Nat) (h : CommitFrame a s) : CommitFrame a (setRoot s t_ h_ v) := by
  unfold setRoot
  try dsimp only
  repeat' first
    | with_reducible assumption
    | with_reducible refine CommitFrame.pair (by with_reducible assumption) ?_
    | with_reducible apply CommitFrame.ite
    | with_reducible apply CommitFrame.iteP
    | with_reducible apply CommitFrame.foldl
    | with_reducible apply CommitFrame.foldlP
    | intro _
    | split
    | (simp only [CommitFrame_mk]; with_reducible apply CommitFrameParts.of)

theorem setChildSeal_commitFrame {a : State} (s : State) (ch : Nat) (t_ : Nat) (k : Nat) (i : Nat) (h_ : Nat) (depth : Nat)
    (v : Nat) (h : CommitFrame a s) : CommitFrame a (setChildSeal s ch t_ k i h_ depth v) := by
  unfold setChildSeal
  try dsimp only
  repeat' first
    | with_reducible assumption
    | with_reducible apply setRoot_commitFrame
    | with_reducible apply touchNode_commitFrame
    | with_reducible refine CommitFrame.pair (by with_reducible assumption) ?_
    | with_reducible apply CommitFrame.ite
    | with_reducible apply CommitFrame.iteP
    | with_reducible apply CommitFrame.foldl
    | with_reducible apply CommitFrame.foldlP
    | intro _

theorem countSubtree_commitFrame {a : State} (s : State) (n : Nat) (a_ : Nat) (h : CommitFrame a s) : CommitFrame a (countSubtree s n a_) := by
  unfold countSubtree
  try dsimp only
  repeat' first
    | with_reducible assumption
    | with_reducible apply integEvent_commitFrame
    | with_reducible apply State_inc_commitFrame
    | with_reducible apply State_evt_commitFrame
    | with_reducible apply State_modRegion_commitFrame

theorem loseSubtree_commitFrame {a : State} (s : State) (t_ : Nat) (h_ : Nat) (h : CommitFrame a s) : CommitFrame a (loseSubtree s t_ h_) := by
  unfold loseSubtree
  try dsimp only
  repeat' first
    | with_reducible assumption
    | with_reducible apply countSubtree_commitFrame
    | with_reducible refine CommitFrame.pair (by with_reducible assumption) ?_
    | with_reducible apply CommitFrame.ite
    | with_reducible apply CommitFrame.iteP
    | with_reducible apply CommitFrame.foldl
    | with_reducible apply CommitFrame.foldlP
    | intro _
    | split

theorem sealInto_commitFrame {a : State} (s : State) (ch : Nat) (t_ : Nat) (k : Nat) (i : Nat) (h_ : Nat) (depth : Nat)
    (a_ : Nat) (b : Bytes) (h : CommitFrame a s) : CommitFrame a (sealInto s ch t_ k i h_ depth a_ b) := by
  unfold sealInto
  try dsimp only
  repeat' first
    | with_reducible assumption
    | with_reducible apply memKey_commitFrame
    | with_reducible apply setChildSeal_commitFrame
    | with_reducible apply loseSubtree_commitFrame
    | with_reducible refine CommitFrame.pair (by with_reducible assumption) ?_
    | with_reducible apply CommitFrame.ite
    | with_reducible apply CommitFrame.iteP
    | with_reducible apply CommitFrame.foldl
    | with_reducible apply CommitFrame.foldlP
    | intro _
    | split

theorem pushWb_commitFrame {a : State} (s : State) (ch : Nat) (a_ : Nat) (b : Bytes) (h : CommitFrame a s) : CommitFrame a (pushWb s ch a_ b) := by
  unfold pushWb
  try dsimp only
  repeat' first
    | with_reducible assumption
    | with_reducible apply State_modMchan_commitFrame
    | with_reducible apply dramPut_commitFrame
    | with_reducible refine CommitFrame.pair (by with_reducible assumption) ?_
    | with_reducible apply CommitFrame.ite
    | with_reducible apply CommitFrame.iteP
    | with_reducible apply CommitFrame.foldl
    | with_reducible apply CommitFrame.foldlP
    | intro _
    | split

theorem evictLine_commitFrame {a : State} (s : State) (ch : Nat) (l : CLine) (h : CommitFrame a s) : CommitFrame a (evictLine s ch l) := by
  unfold evictLine
  try dsimp only
  repeat' first
    | with_reducible assumption
    | with_reducible apply State_modMchan_commitFrame
    | with_reducible apply sealInto_commitFrame
    | with_reducible apply pushWb_commitFrame
    | with_reducible refine CommitFrame.pair (by with_reducible assumption) ?_
    | with_reducible apply CommitFrame.ite
    | with_reducible apply CommitFrame.iteP
    | with_reducible apply CommitFrame.foldl
    | with_reducible apply CommitFrame.foldlP
    | intro _
    | split

theorem evictNode_commitFrame {a : State} (f : Nat) (s : State) (ch : Nat) (n : TNode) (h : CommitFrame a s) : CommitFrame a (evictNode f s ch n) := by
  induction f generalizing s n with
  | zero => exact h
  | succ f ih =>
    unfold evictNode
    dsimp only
    repeat' first
      | with_reducible assumption
      | with_reducible apply ih
      | with_reducible apply evictLine_commitFrame
      | with_reducible apply pushWb_commitFrame
      | with_reducible apply sealInto_commitFrame
      | with_reducible apply State_modMchan_commitFrame
      | with_reducible apply CommitFrame.ite
      | with_reducible apply CommitFrame.foldl
      | intro _
      | split

theorem insertNode_commitFrame {a : State} (s : State) (ch : Nat) (path : List Nat) (n : TNode) (h : CommitFrame a s)
    : CommitFrame a (insertNode s ch path n) := by
  unfold insertNode
  try dsimp only
  repeat' first
    | with_reducible assumption
    | with_reducible apply evictNode_commitFrame
    | with_reducible apply State_modMchan_commitFrame
    | with_reducible refine CommitFrame.pair (by with_reducible assumption) ?_
    | with_reducible apply CommitFrame.ite
    | with_reducible apply CommitFrame.iteP
    | with_reducible apply CommitFrame.foldl
    | with_reducible apply CommitFrame.foldlP
    | intro _
    | split

theorem dropMeta_commitFrame {a : State} (s : State) (q_ : Nat → Bool) (h : CommitFrame a s) : CommitFrame a (dropMeta s q_) := by
  unfold dropMeta
  try dsimp only
  repeat' first
    | with_reducible assumption
    | with_reducible apply State_modMchan_commitFrame
    | with_reducible refine CommitFrame.pair (by with_reducible assumption) ?_
    | with_reducible apply CommitFrame.ite
    | with_reducible apply CommitFrame.iteP
    | with_reducible apply CommitFrame.foldl
    | with_reducible apply CommitFrame.foldlP
    | intro _

theorem metaCe_commitFrame {a : State} (s : State) (h : CommitFrame a s) : CommitFrame a (metaCe s) := by
  unfold metaCe
  try dsimp only
  repeat' first
    | with_reducible assumption
    | with_reducible apply State_evt_commitFrame
    | with_reducible apply State_inc_commitFrame

theorem tagFailed_commitFrame {a : State} (s : State) (h : CommitFrame a s) : CommitFrame a (tagFailed s) := by
  unfold tagFailed
  try dsimp only
  repeat' first
    | with_reducible assumption
    | with_reducible apply State_evt_commitFrame
    | with_reducible apply State_inc_commitFrame

theorem sealHolds_commitFrame {a : State} (s : State) (f : Fetch) (b : Bytes) (lvl : Nat) (addr : Nat) (sv : Nat)
    (h : CommitFrame a s) : CommitFrame a (sealHolds s f b lvl addr sv).1 := by
  unfold sealHolds
  try dsimp only
  repeat' first
    | with_reducible assumption
    | with_reducible apply tagFailed_commitFrame
    | with_reducible refine CommitFrame.pair (by with_reducible assumption) ?_
    | with_reducible apply CommitFrame.ite
    | with_reducible apply CommitFrame.iteP
    | with_reducible apply CommitFrame.foldl
    | with_reducible apply CommitFrame.foldlP
    | intro _

theorem loadPath_commitFrame {a : State} (f : Fetch) (k : Nat) (s : State) (h : CommitFrame a s) : CommitFrame a (loadPath f k s).1 := by
  induction k generalizing s with
  | zero => exact h
  | succ k ih =>
    unfold loadPath
    dsimp only
    repeat' first
      | with_reducible assumption
      | with_reducible apply ih
      | with_reducible apply touchNode_commitFrame
      | with_reducible apply insertNode_commitFrame
      | with_reducible apply dropMeta_commitFrame
      | with_reducible apply countSubtree_commitFrame
      | with_reducible apply setChildSeal_commitFrame
      | with_reducible apply sealHolds_commitFrame
      | with_reducible refine CommitFrame.pair (by with_reducible assumption) ?_
      | with_reducible apply metaCe_commitFrame
      | with_reducible apply CommitFrame.ite
      | intro _
      | split

theorem insertLine_commitFrame {a : State} (s : State) (ch : Nat) (l : CLine) (h : CommitFrame a s) : CommitFrame a (insertLine s ch l) := by
  unfold insertLine
  try dsimp only
  repeat' first
    | with_reducible assumption
    | with_reducible apply evictLine_commitFrame
    | with_reducible apply State_modMchan_commitFrame
    | with_reducible refine CommitFrame.pair (by with_reducible assumption) ?_
    | with_reducible apply CommitFrame.ite
    | with_reducible apply CommitFrame.iteP
    | with_reducible apply CommitFrame.foldl
    | with_reducible apply CommitFrame.foldlP
    | intro _
    | split

theorem countLost_commitFrame {a : State} (s : State) (n : Nat) (grp : Nat) (h : CommitFrame a s) : CommitFrame a (countLost s n grp) := by
  unfold countLost
  try dsimp only
  repeat' first
    | with_reducible assumption
    | with_reducible apply integEvent_commitFrame
    | with_reducible apply State_inc_commitFrame
    | with_reducible apply State_evt_commitFrame
    | with_reducible apply State_modRegion_commitFrame

theorem loadLeaf_commitFrame {a : State} (s : State) (f : Fetch) (epoch : Nat) (h : CommitFrame a s) : CommitFrame a (loadLeaf s f epoch).1 := by
  unfold loadLeaf
  try dsimp only
  repeat' first
    | with_reducible assumption
    | with_reducible apply loadPath_commitFrame
    | with_reducible apply insertLine_commitFrame
    | with_reducible apply dropMeta_commitFrame
    | with_reducible apply countLost_commitFrame
    | with_reducible apply sealHolds_commitFrame
    | with_reducible apply metaCe_commitFrame
    | with_reducible refine CommitFrame.pair (by with_reducible assumption) ?_
    | with_reducible apply CommitFrame.ite
    | with_reducible apply CommitFrame.iteP
    | with_reducible apply CommitFrame.foldl
    | with_reducible apply CommitFrame.foldlP
    | intro _
    | split

theorem loadFlat_commitFrame {a : State} (s : State) (f : Fetch) (epoch : Nat) (h : CommitFrame a s) : CommitFrame a (loadFlat s f epoch).1 := by
  unfold loadFlat
  try dsimp only
  repeat' first
    | with_reducible assumption
    | with_reducible apply insertLine_commitFrame
    | with_reducible apply dropMeta_commitFrame
    | with_reducible apply metaCe_commitFrame
    | with_reducible apply countLost_commitFrame
    | with_reducible refine CommitFrame.pair (by with_reducible assumption) ?_
    | with_reducible apply CommitFrame.ite
    | with_reducible apply CommitFrame.iteP
    | with_reducible apply CommitFrame.foldl
    | with_reducible apply CommitFrame.foldlP
    | intro _
    | split
    | (simp only [CommitFrame_mk]; with_reducible apply CommitFrameParts.of)

theorem loadTag_commitFrame {a : State} (s : State) (f : Fetch) (epoch : Nat) (h : CommitFrame a s) : CommitFrame a (loadTag s f epoch).1 := by
  unfold loadTag
  try dsimp only
  repeat' first
    | with_reducible assumption
    | with_reducible apply releaseMarked_commitFrame
    | with_reducible apply touchLine_commitFrame
    | with_reducible apply State_modMchan_commitFrame
    | with_reducible apply loadLeaf_commitFrame
    | with_reducible apply loadFlat_commitFrame
    | with_reducible refine CommitFrame.pair (by with_reducible assumption) ?_
    | with_reducible apply CommitFrame.ite
    | with_reducible apply CommitFrame.iteP
    | with_reducible apply CommitFrame.foldl
    | with_reducible apply CommitFrame.foldlP
    | intro _
    | split

theorem poisonRead_commitFrame {a : State} (s : State) (data : Bytes) (h : CommitFrame a s) : CommitFrame a (poisonRead s data).1 := by
  unfold poisonRead
  try dsimp only
  repeat' first
    | with_reducible assumption
    | with_reducible apply State_inc_commitFrame

theorem storeTag_commitFrame {a : State} (s : State) (ch : Nat) (grp : Nat) (b : Bytes) (h : CommitFrame a s)
    : CommitFrame a (storeTag s ch grp b) := by
  unfold storeTag
  try dsimp only
  repeat' first
    | with_reducible assumption
    | with_reducible apply touchLine_commitFrame

theorem poisonLine_commitFrame {a : State} (s : State) (t_ : Txn) (b : Bytes) (i : Nat) (h : CommitFrame a s)
    : CommitFrame a (poisonLine s t_ b i).1 := by
  unfold poisonLine
  try dsimp only
  repeat' first
    | with_reducible assumption
    | with_reducible apply storeTag_commitFrame

theorem reencrypt_commitFrame {a : State} (s : State) (t_ : Txn) (b : Bytes) (i : Nat) (pt : Bytes) (h : CommitFrame a s)
    : CommitFrame a (reencrypt s t_ b i pt) := by
  unfold reencrypt
  try dsimp only
  repeat' first
    | with_reducible assumption
    | with_reducible apply dramPut_commitFrame
    | with_reducible apply tagFailed_commitFrame
    | with_reducible apply State_inc_commitFrame
    | with_reducible apply storeTag_commitFrame
    | with_reducible apply integEvent_commitFrame
    | with_reducible apply State_evt_commitFrame
    | with_reducible apply State_modRegion_commitFrame
    | with_reducible refine CommitFrame.pair (by with_reducible assumption) ?_
    | with_reducible apply CommitFrame.ite
    | with_reducible apply CommitFrame.iteP
    | with_reducible apply CommitFrame.foldl
    | with_reducible apply CommitFrame.foldlP
    | intro _

theorem writeLine_commitFrame {a : State} (s : State) (t_ : Txn) (b : Bytes) (pt : Bytes) (h : CommitFrame a s)
    : CommitFrame a (writeLine s t_ b pt) := by
  unfold writeLine
  try dsimp only
  repeat' first
    | with_reducible assumption
    | with_reducible apply reencrypt_commitFrame
    | with_reducible apply storeTag_commitFrame
    | with_reducible apply dramPut_commitFrame
    | with_reducible refine CommitFrame.pair (by with_reducible assumption) ?_
    | with_reducible apply CommitFrame.ite
    | with_reducible apply CommitFrame.iteP
    | with_reducible apply CommitFrame.foldl
    | with_reducible apply CommitFrame.foldlP
    | intro _

theorem serveCore_commitFrame {a : State} (s : State) (t_ : Txn) (h : CommitFrame a s) : CommitFrame a (serveCore s t_).1 := by
  unfold serveCore
  try dsimp only
  repeat' first
    | with_reducible assumption
    | with_reducible apply dramPut_commitFrame
    | with_reducible apply State_inc_commitFrame
    | with_reducible apply partRefused_commitFrame
    | with_reducible apply loadTag_commitFrame
    | with_reducible apply poisonRead_commitFrame
    | with_reducible apply tagFailed_commitFrame
    | with_reducible apply poisonLine_commitFrame
    | with_reducible apply writeLine_commitFrame
    | with_reducible apply integEvent_commitFrame
    | with_reducible apply State_evt_commitFrame
    | with_reducible refine CommitFrame.pair (by with_reducible assumption) ?_
    | with_reducible apply CommitFrame.ite
    | with_reducible apply CommitFrame.iteP
    | with_reducible apply CommitFrame.foldl
    | with_reducible apply CommitFrame.foldlP
    | intro _
    | split

theorem answer_commitFrame {a : State} (s : State) (t_ : Txn) (st : Nat) (data : Bytes) (h : CommitFrame a s)
    : CommitFrame a (answer s t_ st data) := by
  unfold answer
  try dsimp only
  repeat' first
    | with_reducible assumption
    | with_reducible apply State_emit_commitFrame

theorem serve_commitFrame {a : State} (s : State) (t_ : Txn) (h : CommitFrame a s) : CommitFrame a (serve s t_) := by
  unfold serve
  try dsimp only
  repeat' first
    | with_reducible assumption
    | with_reducible apply serveCore_commitFrame
    | with_reducible apply answer_commitFrame

theorem passGroup_commitFrame {a : State} (s : State) (n : Nat) (h : CommitFrame a s) : CommitFrame a (passGroup s n) := by
  unfold passGroup
  try dsimp only
  repeat' first
    | with_reducible assumption
    | with_reducible apply dramPut_commitFrame
    | with_reducible apply dropMeta_commitFrame
    | with_reducible apply State_evt_commitFrame
    | with_reducible apply State_modRegion_commitFrame
    | with_reducible refine CommitFrame.pair (by with_reducible assumption) ?_
    | with_reducible apply CommitFrame.ite
    | with_reducible apply CommitFrame.iteP
    | with_reducible apply CommitFrame.foldl
    | with_reducible apply CommitFrame.foldlP
    | intro _
    | split
    | (simp only [CommitFrame_mk]; with_reducible apply CommitFrameParts.of)

theorem freeAhead_commitFrame {a : State} (s : State) (h : CommitFrame a s) : CommitFrame a (freeAhead s) := by
  unfold freeAhead
  try dsimp only
  repeat' first
    | with_reducible assumption
    | with_reducible apply passGroup_commitFrame
    | with_reducible refine CommitFrame.pair (by with_reducible assumption) ?_
    | with_reducible apply CommitFrame.ite
    | with_reducible apply CommitFrame.iteP
    | with_reducible apply CommitFrame.foldl
    | with_reducible apply CommitFrame.foldlP
    | intro _
    | split

theorem serveWaiting_commitFrame {a : State} (s : State) (t_ : Txn) (h : CommitFrame a s) : CommitFrame a (serveWaiting s t_) := by
  unfold serveWaiting
  try dsimp only
  repeat' first
    | with_reducible assumption
    | with_reducible apply serve_commitFrame
    | with_reducible apply freeAhead_commitFrame
    | with_reducible refine CommitFrame.pair (by with_reducible assumption) ?_
    | with_reducible apply CommitFrame.ite
    | with_reducible apply CommitFrame.iteP
    | with_reducible apply CommitFrame.foldl
    | with_reducible apply CommitFrame.foldlP
    | intro _

theorem serveOldest_commitFrame {a : State} (s : State) (grp : Nat) (h : CommitFrame a s) : CommitFrame a (serveOldest s grp) := by
  unfold serveOldest
  try dsimp only
  repeat' first
    | with_reducible assumption
    | with_reducible apply serveWaiting_commitFrame
    | with_reducible refine CommitFrame.pair (by with_reducible assumption) ?_
    | with_reducible apply CommitFrame.ite
    | with_reducible apply CommitFrame.iteP
    | with_reducible apply CommitFrame.foldl
    | with_reducible apply CommitFrame.foldlP
    | intro _
    | split
    | (simp only [CommitFrame_mk]; with_reducible apply CommitFrameParts.of)

theorem settleWhere_commitFrame {a : State} (s : State) (p : Txn → Bool) (h : CommitFrame a s) : CommitFrame a (settleWhere s p) := by
  unfold settleWhere
  try dsimp only
  repeat' first
    | with_reducible assumption
    | with_reducible apply serveOldest_commitFrame
    | with_reducible refine CommitFrame.pair (by with_reducible assumption) ?_
    | with_reducible apply CommitFrame.ite
    | with_reducible apply CommitFrame.iteP
    | with_reducible apply CommitFrame.foldl
    | with_reducible apply CommitFrame.foldlP
    | intro _
    | split

theorem settle_commitFrame {a : State} (s : State) (grp : Nat) (h : CommitFrame a s) : CommitFrame a (settle s grp) := by
  unfold settle
  try dsimp only
  repeat' first
    | with_reducible assumption
    | with_reducible apply settleWhere_commitFrame

theorem keyFailed_commitFrame {a : State} (s : State) (kid : Nat) (data : Bool) (job : Option (Nat × Bool)) (h : CommitFrame a s)
    : CommitFrame a (keyFailed s kid data job) := by
  unfold keyFailed
  try dsimp only
  repeat' first
    | with_reducible assumption
    | with_reducible apply State_evt_commitFrame
    | with_reducible apply State_putStf_commitFrame
    | with_reducible apply State_modJob_commitFrame
    | with_reducible refine CommitFrame.pair (by with_reducible assumption) ?_
    | with_reducible apply CommitFrame.ite
    | with_reducible apply CommitFrame.iteP
    | with_reducible apply CommitFrame.foldl
    | with_reducible apply CommitFrame.foldlP
    | intro _
    | split

theorem accept_commitFrame {a : State} (s : State) (addr : Nat) (cls : Nat) (write : Bool) (h : CommitFrame a s)
    : CommitFrame a (accept s addr cls write).1 := by
  unfold accept
  try dsimp only
  repeat' first
    | with_reducible assumption
    | with_reducible apply memKey_commitFrame
    | with_reducible apply keyFailed_commitFrame
    | with_reducible refine CommitFrame.pair (by with_reducible assumption) ?_
    | with_reducible apply CommitFrame.ite
    | with_reducible apply CommitFrame.iteP
    | with_reducible apply CommitFrame.foldl
    | with_reducible apply CommitFrame.foldlP
    | intro _
    | split

theorem denyCount_commitFrame {a : State} (s : State) (kid : Nat) (cls : Nat) (reason : Nat) (h : CommitFrame a s)
    : CommitFrame a (denyCount s kid cls reason) := by
  unfold denyCount
  try dsimp only
  repeat' first
    | with_reducible assumption
    | with_reducible apply State_evt_commitFrame
    | with_reducible apply State_putSt_commitFrame
    | with_reducible apply State_inc_commitFrame
    | with_reducible refine CommitFrame.pair (by with_reducible assumption) ?_
    | with_reducible apply CommitFrame.ite
    | with_reducible apply CommitFrame.iteP
    | with_reducible apply CommitFrame.foldl
    | with_reducible apply CommitFrame.foldlP
    | intro _

theorem dmaLine_commitFrame {a : State} (s : State) (addr : Nat) (write : Bool) (data : Bytes) (be : Nat) (h : CommitFrame a s)
    : CommitFrame a (dmaLine s addr write data be).1 := by
  unfold dmaLine
  try dsimp only
  repeat' first
    | with_reducible assumption
    | with_reducible apply settle_commitFrame
    | with_reducible apply accept_commitFrame
    | with_reducible apply denyCount_commitFrame
    | with_reducible apply serveCore_commitFrame
    | with_reducible apply freeAhead_commitFrame
    | with_reducible refine CommitFrame.pair (by with_reducible assumption) ?_
    | with_reducible apply CommitFrame.ite
    | with_reducible apply CommitFrame.iteP
    | with_reducible apply CommitFrame.foldl
    | with_reducible apply CommitFrame.foldlP
    | intro _
    | split

theorem hostWrite_commitFrame {a : State} (s : State) (addr : Nat) (b : Bytes) (h : CommitFrame a s) : CommitFrame a (hostWrite s addr b).1 := by
  unfold hostWrite
  dsimp only
  generalize linePieces (b.length / 64 + 2) addr b.length = l
  suffices ∀ (p : (State × Bool) × Bytes), CommitFrame a p.1.1 → CommitFrame a (l.foldl (fun (p : (State × Bool) × Bytes) l =>
      (((dmaLine p.1.1 l.1 true (zeros l.2.1 ++ List.take l.2.2 p.2) (lineBe l.2.1 l.2.2)).1,
        p.1.2 && decide ((dmaLine p.1.1 l.1 true (zeros l.2.1 ++ List.take l.2.2 p.2) (lineBe l.2.1 l.2.2)).2.1 = 0)),
        List.drop l.2.2 p.2)) p).1.1 from this ((s, true), b) h
  induction l with
  | nil => exact fun p hp => hp
  | cons x l ih => exact fun p hp => ih _ (dmaLine_commitFrame _ _ _ _ _ hp)

theorem scrubEntry_commitFrame {a : State} (s : State) (k : Nat) (i : Nat) (off : Nat) (n : Nat) (h : CommitFrame a s)
    : CommitFrame a (scrubEntry s k i off n) := by
  unfold scrubEntry
  try dsimp only
  repeat' first
    | with_reducible assumption
    | with_reducible apply hostWrite_commitFrame

theorem scrubSecret_commitFrame {a : State} (s : State) (k : Nat) (i : Nat) (d : Bytes) (h : CommitFrame a s)
    : CommitFrame a (scrubSecret s k i d) := by
  unfold scrubSecret
  try dsimp only
  repeat' first
    | with_reducible assumption
    | with_reducible apply scrubEntry_commitFrame
    | with_reducible refine CommitFrame.pair (by with_reducible assumption) ?_
    | with_reducible apply CommitFrame.ite
    | with_reducible apply CommitFrame.iteP
    | with_reducible apply CommitFrame.foldl
    | with_reducible apply CommitFrame.foldlP
    | intro _

theorem zeroOuts_commitFrame {a : State} (s : State) (outs : List (Nat × Nat)) (h : CommitFrame a s) : CommitFrame a (zeroOuts s outs) := by
  unfold zeroOuts
  try dsimp only
  repeat' first
    | with_reducible assumption
    | with_reducible apply hostWrite_commitFrame
    | with_reducible refine CommitFrame.pair (by with_reducible assumption) ?_
    | with_reducible apply CommitFrame.ite
    | with_reducible apply CommitFrame.iteP
    | with_reducible apply CommitFrame.foldl
    | with_reducible apply CommitFrame.foldlP
    | intro _

theorem modItem_commitFrame {a : State} (s : State) (k : Nat) (i : Nat) (f : Item → Item) (h : CommitFrame a s)
    : CommitFrame a (modItem s k i f) := by
  unfold modItem
  try dsimp only
  repeat' first
    | with_reducible assumption
    | with_reducible apply State_modRing_commitFrame

theorem releaseCost_commitFrame {a : State} (s : State) (it : Item) (h : CommitFrame a s) : CommitFrame a (releaseCost s it) := by
  unfold releaseCost
  try dsimp only
  repeat' first
    | with_reducible assumption
    | with_reducible apply State_modChan_commitFrame
    | with_reducible refine CommitFrame.pair (by with_reducible assumption) ?_
    | with_reducible apply CommitFrame.ite
    | with_reducible apply CommitFrame.iteP
    | with_reducible apply CommitFrame.foldl
    | with_reducible apply CommitFrame.foldlP
    | intro _
    | split
    | (simp only [CommitFrame_mk]; with_reducible apply CommitFrameParts.of)

theorem finish_commitFrame {a : State} (s : State) (k : Nat) (i : Nat) (status : Nat) (result : Bytes) (zero : Bool)
    (h : CommitFrame a s) : CommitFrame a (finish s k i status result zero) := by
  unfold finish
  try dsimp only
  repeat' first
    | with_reducible assumption
    | with_reducible apply zeroOuts_commitFrame
    | with_reducible apply modItem_commitFrame
    | with_reducible apply releaseCost_commitFrame
    | with_reducible refine CommitFrame.pair (by with_reducible assumption) ?_
    | with_reducible apply CommitFrame.ite
    | with_reducible apply CommitFrame.iteP
    | with_reducible apply CommitFrame.foldl
    | with_reducible apply CommitFrame.foldlP
    | intro _
    | split

theorem grantEvents_commitFrame {a : State} (s : State) (cq : Nat) (h : CommitFrame a s) : CommitFrame a (grantEvents s cq) := by
  unfold grantEvents
  try dsimp only
  repeat' first
    | with_reducible assumption
    | with_reducible apply State_modRing_commitFrame

theorem takeHeld_commitFrame {a : State} (s : State) (x : Nat) (h : CommitFrame a s) : CommitFrame a (takeHeld s x) := by
  unfold takeHeld
  try dsimp only
  repeat' first
    | with_reducible assumption
    | with_reducible apply State_modPath_commitFrame
    | with_reducible apply State_putSt_commitFrame
    | with_reducible refine CommitFrame.pair (by with_reducible assumption) ?_
    | with_reducible apply CommitFrame.ite
    | with_reducible apply CommitFrame.iteP
    | with_reducible apply CommitFrame.foldl
    | with_reducible apply CommitFrame.foldlP
    | intro _

theorem unreserve_commitFrame {a : State} (s : State) (k : Nat) (h : CommitFrame a s) : CommitFrame a (unreserve s k) := by
  unfold unreserve
  try dsimp only
  repeat' first
    | with_reducible assumption
    | with_reducible apply State_modRing_commitFrame

theorem noteWait_commitFrame {a : State} (s : State) (source : Nat) (h : CommitFrame a s) : CommitFrame a (noteWait s source) := by
  unfold noteWait
  try dsimp only
  repeat' first
    | with_reducible assumption
    | with_reducible apply State_evt_commitFrame
    | with_reducible refine CommitFrame.pair (by with_reducible assumption) ?_
    | with_reducible apply CommitFrame.ite
    | with_reducible apply CommitFrame.iteP
    | with_reducible apply CommitFrame.foldl
    | with_reducible apply CommitFrame.foldlP
    | intro _

theorem raiseEvent_commitFrame {a : State} (s : State) (cq : Nat) (e_ : SrcEvt) (h : CommitFrame a s) : CommitFrame a (raiseEvent s cq e_) := by
  unfold raiseEvent
  try dsimp only
  repeat' first
    | with_reducible assumption
    | with_reducible apply unreserve_commitFrame
    | with_reducible apply grantEvents_commitFrame
    | with_reducible apply State_modRing_commitFrame
    | with_reducible apply noteWait_commitFrame
    | with_reducible refine CommitFrame.pair (by with_reducible assumption) ?_
    | with_reducible apply CommitFrame.ite
    | with_reducible apply CommitFrame.iteP
    | with_reducible apply CommitFrame.foldl
    | with_reducible apply CommitFrame.foldlP
    | intro _

theorem raiseOnce_commitFrame {a : State} (s : State) (cq : Nat) (e_ : SrcEvt) (h : CommitFrame a s) : CommitFrame a (raiseOnce s cq e_) := by
  unfold raiseOnce
  try dsimp only
  repeat' first
    | with_reducible assumption
    | with_reducible apply State_modRing_commitFrame
    | with_reducible apply raiseEvent_commitFrame
    | with_reducible refine CommitFrame.pair (by with_reducible assumption) ?_
    | with_reducible apply CommitFrame.ite
    | with_reducible apply CommitFrame.iteP
    | with_reducible apply CommitFrame.foldl
    | with_reducible apply CommitFrame.foldlP
    | intro _

theorem linkEvent_commitFrame {a : State} (s : State) (p : Nat) (tx : Bool) (code : Nat) (status : Nat) (key : Nat)
    (result : Bytes) (h : CommitFrame a s) : CommitFrame a (linkEvent s p tx code status key result) := by
  unfold linkEvent
  try dsimp only
  repeat' first
    | with_reducible assumption
    | with_reducible apply raiseOnce_commitFrame
    | with_reducible refine CommitFrame.pair (by with_reducible assumption) ?_
    | with_reducible apply CommitFrame.ite
    | with_reducible apply CommitFrame.iteP
    | with_reducible apply CommitFrame.foldl
    | with_reducible apply CommitFrame.foldlP
    | intro _
    | split

theorem saEvent_commitFrame {a : State} (s : State) (p : Nat) (tx : Bool) (e_ : Nat) (code : Nat) (status : Nat) (flag : Nat)
    (h : CommitFrame a s) : CommitFrame a (saEvent s p tx e_ code status flag) := by
  unfold saEvent
  try dsimp only
  repeat' first
    | with_reducible assumption
    | with_reducible apply State_evt_commitFrame
    | with_reducible apply linkEvent_commitFrame

theorem drainTx_commitFrame {a : State} (s : State) (q_ : Nat) (h : CommitFrame a s) : CommitFrame a (drainTx s q_) := by
  unfold drainTx
  try dsimp only
  repeat' first
    | with_reducible assumption
    | with_reducible apply State_emit_commitFrame
    | with_reducible apply State_modPath_commitFrame
    | with_reducible refine CommitFrame.pair (by with_reducible assumption) ?_
    | with_reducible apply CommitFrame.ite
    | with_reducible apply CommitFrame.iteP
    | with_reducible apply CommitFrame.foldl
    | with_reducible apply CommitFrame.foldlP
    | intro _

theorem offerTx_commitFrame {a : State} (s : State) (q_ : Nat) (x : Nat) (f : Bytes) (h : CommitFrame a s) : CommitFrame a (offerTx s q_ x f) := by
  unfold offerTx
  try dsimp only
  repeat' first
    | with_reducible assumption
    | with_reducible apply drainTx_commitFrame
    | with_reducible apply State_modPath_commitFrame

theorem secureOn_commitFrame {a : State} (s : State) (x : Nat) (q_ : Nat) (n : Nat) (f : Bytes) (h : CommitFrame a s)
    : CommitFrame a (secureOn s x q_ n f) := by
  unfold secureOn
  try dsimp only
  repeat' first
    | with_reducible assumption
    | with_reducible apply State_inc_commitFrame
    | with_reducible apply State_modSae_commitFrame
    | with_reducible apply saEvent_commitFrame
    | with_reducible apply State_putSt_commitFrame
    | with_reducible apply offerTx_commitFrame
    | with_reducible refine CommitFrame.pair (by with_reducible assumption) ?_
    | with_reducible apply CommitFrame.ite
    | with_reducible apply CommitFrame.iteP
    | with_reducible apply CommitFrame.foldl
    | with_reducible apply CommitFrame.foldlP
    | intro _
    | split

theorem sendOn_commitFrame {a : State} (s : State) (x : Nat) (q_ : Nat) (f : Bytes) (h : CommitFrame a s) : CommitFrame a (sendOn s x q_ f) := by
  unfold sendOn
  try dsimp only
  repeat' first
    | with_reducible assumption
    | with_reducible apply State_inc_commitFrame
    | with_reducible apply secureOn_commitFrame
    | with_reducible refine CommitFrame.pair (by with_reducible assumption) ?_
    | with_reducible apply CommitFrame.ite
    | with_reducible apply CommitFrame.iteP
    | with_reducible apply CommitFrame.foldl
    | with_reducible apply CommitFrame.foldlP
    | intro _
    | split

theorem feed_commitFrame {a : State} (s : State) (q_ : Nat) (h : CommitFrame a s) : CommitFrame a (feed s q_) := by
  unfold feed
  try dsimp only
  repeat' first
    | with_reducible assumption
    | with_reducible apply takeHeld_commitFrame
    | with_reducible apply sendOn_commitFrame
    | with_reducible refine CommitFrame.pair (by with_reducible assumption) ?_
    | with_reducible apply CommitFrame.ite
    | with_reducible apply CommitFrame.iteP
    | with_reducible apply CommitFrame.foldl
    | with_reducible apply CommitFrame.foldlP
    | intro _

theorem pump_commitFrame {a : State} (s : State) (x : Nat) (h : CommitFrame a s) : CommitFrame a (pump s x) := by
  unfold pump
  try dsimp only
  repeat' first
    | with_reducible assumption
    | with_reducible apply feed_commitFrame
    | with_reducible refine CommitFrame.pair (by with_reducible assumption) ?_
    | with_reducible apply CommitFrame.ite
    | with_reducible apply CommitFrame.iteP
    | with_reducible apply CommitFrame.foldl
    | with_reducible apply CommitFrame.foldlP
    | intro _
    | split

theorem touchAlm_commitFrame {a : State} (s : State) (k : Nat) (i : Nat) (f : AlmNode → AlmNode) (h : CommitFrame a s)
    : CommitFrame a (touchAlm s k i f) := by
  unfold touchAlm
  try dsimp only
  repeat' first
    | with_reducible assumption
    | with_reducible apply State_modAlm_commitFrame
    | with_reducible refine CommitFrame.pair (by with_reducible assumption) ?_
    | with_reducible apply CommitFrame.ite
    | with_reducible apply CommitFrame.iteP
    | with_reducible apply CommitFrame.foldl
    | with_reducible apply CommitFrame.foldlP
    | intro _
    | split

theorem setAlmSeal_commitFrame {a : State} (s : State) (k : Nat) (i : Nat) (v : Nat) (h : CommitFrame a s) : CommitFrame a (setAlmSeal s k i v) := by
  unfold setAlmSeal
  try dsimp only
  repeat' first
    | with_reducible assumption
    | with_reducible apply State_modAlm_commitFrame
    | with_reducible apply touchAlm_commitFrame
    | with_reducible refine CommitFrame.pair (by with_reducible assumption) ?_
    | with_reducible apply CommitFrame.ite
    | with_reducible apply CommitFrame.iteP
    | with_reducible apply CommitFrame.foldl
    | with_reducible apply CommitFrame.foldlP
    | intro _

theorem almEvict_commitFrame {a : State} (f : Nat) (s : State) (n : AlmNode) (h : CommitFrame a s) : CommitFrame a (almEvict f s n) := by
  induction f generalizing s n with
  | zero => exact h
  | succ f ih =>
    unfold almEvict
    dsimp only
    have hs : CommitFrame a (if n.level = 0 then s else
        (s.alm.nodes.filter (fun x => decide (x.level + 1 = n.level) && decide (x.idx / 8 = n.idx))).foldl (almEvict f) s) := by
      split
      · exact h
      · exact CommitFrame.foldl _ h (fun t x ht => ih t x ht)
    revert hs
    generalize (if n.level = 0 then s else
        (s.alm.nodes.filter (fun x => decide (x.level + 1 = n.level) && decide (x.idx / 8 = n.idx))).foldl (almEvict f) s) = u
    intro hs
    repeat' first
      | with_reducible assumption
      | with_reducible apply dramPut_commitFrame
      | with_reducible apply setAlmSeal_commitFrame
      | with_reducible apply State_modAlm_commitFrame
      | with_reducible apply CommitFrame.ite
      | intro _
      | split

theorem almInsert_commitFrame {a : State} (s : State) (j : Nat) (n : AlmNode) (h : CommitFrame a s) : CommitFrame a (almInsert s j n) := by
  unfold almInsert
  try dsimp only
  repeat' first
    | with_reducible assumption
    | with_reducible apply almEvict_commitFrame
    | with_reducible apply State_modAlm_commitFrame
    | with_reducible refine CommitFrame.pair (by with_reducible assumption) ?_
    | with_reducible apply CommitFrame.ite
    | with_reducible apply CommitFrame.iteP
    | with_reducible apply CommitFrame.foldl
    | with_reducible apply CommitFrame.foldlP
    | intro _
    | split

theorem almCe_commitFrame {a : State} (s : State) (h : CommitFrame a s) : CommitFrame a (almCe s) := by
  unfold almCe
  try dsimp only
  repeat' first
    | with_reducible assumption
    | with_reducible apply State_inc_commitFrame

theorem almLevel_commitFrame {a : State} (s : State) (j : Nat) (k : Nat) (h : CommitFrame a s) : CommitFrame a (almLevel s j k).1 := by
  unfold almLevel
  try dsimp only
  repeat' first
    | with_reducible assumption
    | with_reducible apply touchAlm_commitFrame
    | with_reducible apply almInsert_commitFrame
    | with_reducible apply setAlmSeal_commitFrame
    | with_reducible apply almCe_commitFrame
    | with_reducible refine CommitFrame.pair (by with_reducible assumption) ?_
    | with_reducible apply CommitFrame.ite
    | with_reducible apply CommitFrame.iteP
    | with_reducible apply CommitFrame.foldl
    | with_reducible apply CommitFrame.foldlP
    | intro _
    | split

theorem almTag_commitFrame {a : State} (s : State) (j : Nat) (h : CommitFrame a s) : CommitFrame a (almTag s j).1 := by
  unfold almTag
  try dsimp only
  repeat' first
    | with_reducible assumption
    | with_reducible apply almLevel_commitFrame
    | with_reducible refine CommitFrame.pair (by with_reducible assumption) ?_
    | with_reducible apply CommitFrame.ite
    | with_reducible apply CommitFrame.iteP
    | with_reducible apply CommitFrame.foldl
    | with_reducible apply CommitFrame.foldlP
    | intro _
    | split

theorem almDropGroup_commitFrame {a : State} (s : State) (j : Nat) (h : CommitFrame a s) : CommitFrame a (almDropGroup s j) := by
  unfold almDropGroup
  try dsimp only
  repeat' first
    | with_reducible assumption
    | with_reducible apply State_modAlm_commitFrame
    | with_reducible apply State_evt_commitFrame
    | with_reducible apply State_incBy_commitFrame

theorem almSetTag_commitFrame {a : State} (s : State) (j : Nat) (b : Bytes) (h : CommitFrame a s) : CommitFrame a (almSetTag s j b) := by
  unfold almSetTag
  try dsimp only
  repeat' first
    | with_reducible assumption
    | with_reducible apply touchAlm_commitFrame

theorem almClose_commitFrame {a : State} (s : State) (b : Bytes) (e_ : Nat) (mj : Nat) (mn : Nat) (pt : Bytes)
    (h : CommitFrame a s) : CommitFrame a (almClose s b e_ mj mn pt).1 := by
  unfold almClose
  try dsimp only
  repeat' first
    | with_reducible assumption
    | with_reducible apply dramPut_commitFrame

theorem almWrap_commitFrame {a : State} (s : State) (j : Nat) (e_ : Nat) (b : Bytes) (pt : Bytes) (h : CommitFrame a s)
    : CommitFrame a (almWrap s j e_ b pt) := by
  unfold almWrap
  try dsimp only
  repeat' first
    | with_reducible assumption
    | with_reducible apply almDropGroup_commitFrame
    | with_reducible apply almSetTag_commitFrame
    | with_reducible apply almClose_commitFrame
    | with_reducible refine CommitFrame.pair (by with_reducible assumption) ?_
    | with_reducible apply CommitFrame.ite
    | with_reducible apply CommitFrame.iteP
    | with_reducible apply CommitFrame.foldl
    | with_reducible apply CommitFrame.foldlP
    | intro _
    | split

theorem almFlush_commitFrame {a : State} (s : State) (c : AlmCached) (h : CommitFrame a s) : CommitFrame a (almFlush s c).1 := by
  unfold almFlush
  try dsimp only
  repeat' first
    | with_reducible assumption
    | with_reducible apply almTag_commitFrame
    | with_reducible apply almDropGroup_commitFrame
    | with_reducible apply almWrap_commitFrame
    | with_reducible apply almClose_commitFrame
    | with_reducible apply almSetTag_commitFrame
    | with_reducible refine CommitFrame.pair (by with_reducible assumption) ?_
    | with_reducible apply CommitFrame.ite
    | with_reducible apply CommitFrame.iteP
    | with_reducible apply CommitFrame.foldl
    | with_reducible apply CommitFrame.foldlP
    | intro _
    | split

theorem hostRead_commitFrame {a : State} (s : State) (addr : Nat) (n : Nat) (h : CommitFrame a s) : CommitFrame a (hostRead s addr n).1 := by
  unfold hostRead
  try dsimp only
  repeat' first
    | with_reducible assumption
    | with_reducible apply dmaLine_commitFrame
    | with_reducible refine CommitFrame.pair (by with_reducible assumption) ?_
    | with_reducible apply CommitFrame.ite
    | with_reducible apply CommitFrame.iteP
    | with_reducible apply CommitFrame.foldl
    | with_reducible apply CommitFrame.foldlP
    | intro _

theorem fetchHead_commitFrame {a : State} (s : State) (k : Nat) (h : CommitFrame a s) : CommitFrame a (fetchHead s k).1 := by
  unfold fetchHead
  try dsimp only
  repeat' first
    | with_reducible assumption
    | with_reducible apply hostRead_commitFrame
    | with_reducible apply State_modRing_commitFrame
    | with_reducible refine CommitFrame.pair (by with_reducible assumption) ?_
    | with_reducible apply CommitFrame.ite
    | with_reducible apply CommitFrame.iteP
    | with_reducible apply CommitFrame.foldl
    | with_reducible apply CommitFrame.foldlP
    | intro _
    | split

theorem stallHead_commitFrame {a : State} (s : State) (k : Nat) (h : CommitFrame a s) : CommitFrame a (stallHead s k) := by
  unfold stallHead
  try dsimp only
  repeat' first
    | with_reducible assumption
    | with_reducible apply State_modRing_commitFrame

theorem withHead_commitFrame {a : State} (s : State) (k : Nat) (f : State → Bytes → State × Bool) (h : CommitFrame a s) (hf_f : ∀
    (t : State) (y1 : Bytes), CommitFrame a t → CommitFrame a (f t y1).1) : CommitFrame a (withHead s k f).1 := by
  unfold withHead
  try dsimp only
  repeat' first
    | with_reducible assumption
    | apply hf_f
    | with_reducible apply fetchHead_commitFrame
    | with_reducible apply stallHead_commitFrame
    | with_reducible refine CommitFrame.pair (by with_reducible assumption) ?_
    | with_reducible apply CommitFrame.ite
    | with_reducible apply CommitFrame.iteP
    | with_reducible apply CommitFrame.foldl
    | with_reducible apply CommitFrame.foldlP
    | intro _
    | split

theorem takeHead_commitFrame {a : State} (s : State) (k : Nat) (it : Item) (h : CommitFrame a s) : CommitFrame a (takeHead s k it) := by
  unfold takeHead
  try dsimp only
  repeat' first
    | with_reducible assumption
    | with_reducible apply State_modRing_commitFrame
    | with_reducible apply State_bump_commitFrame

theorem endHead_commitFrame {a : State} (s : State) (k : Nat) (d : Bytes) (st : Nat) (result : Bytes) (h : CommitFrame a s)
    : CommitFrame a (endHead s k d st result) := by
  unfold endHead
  try dsimp only
  repeat' first
    | with_reducible assumption
    | with_reducible apply finish_commitFrame
    | with_reducible apply scrubSecret_commitFrame
    | with_reducible apply takeHead_commitFrame

theorem flushHead_commitFrame {a : State} (s : State) (k : Nat) (d : Bytes) (h : CommitFrame a s) : CommitFrame a (flushHead s k d) := by
  unfold flushHead
  try dsimp only
  repeat' first
    | with_reducible assumption
    | with_reducible apply endHead_commitFrame

theorem almCache_commitFrame {a : State} (s : State) (c : AlmCached) (h : CommitFrame a s) : CommitFrame a (almCache s c) := by
  unfold almCache
  try dsimp only
  repeat' first
    | with_reducible assumption
    | with_reducible apply almFlush_commitFrame
    | with_reducible apply State_modAlm_commitFrame
    | with_reducible refine CommitFrame.pair (by with_reducible assumption) ?_
    | with_reducible apply CommitFrame.ite
    | with_reducible apply CommitFrame.iteP
    | with_reducible apply CommitFrame.foldl
    | with_reducible apply CommitFrame.foldlP
    | intro _
    | split

theorem almFetch_commitFrame {a : State} (s : State) (e_ : Nat) (h : CommitFrame a s) : CommitFrame a (almFetch s e_).1 := by
  unfold almFetch
  try dsimp only
  repeat' first
    | with_reducible assumption
    | with_reducible apply almCache_commitFrame
    | with_reducible apply State_modAlm_commitFrame
    | with_reducible apply almTag_commitFrame
    | with_reducible apply almDropGroup_commitFrame
    | with_reducible apply almCe_commitFrame
    | with_reducible refine CommitFrame.pair (by with_reducible assumption) ?_
    | with_reducible apply CommitFrame.ite
    | with_reducible apply CommitFrame.iteP
    | with_reducible apply CommitFrame.foldl
    | with_reducible apply CommitFrame.foldlP
    | intro _
    | split

theorem almRead_commitFrame {a : State} (s : State) (e_ : Nat) (h : CommitFrame a s) : CommitFrame a (almRead s e_).1 := by
  unfold almRead
  try dsimp only
  repeat' first
    | with_reducible assumption
    | with_reducible apply almFetch_commitFrame
    | with_reducible refine CommitFrame.pair (by with_reducible assumption) ?_
    | with_reducible apply CommitFrame.ite
    | with_reducible apply CommitFrame.iteP
    | with_reducible apply CommitFrame.foldl
    | with_reducible apply CommitFrame.foldlP
    | intro _
    | split

theorem almGet_commitFrame {a : State} (s : State) (node : Nat) (h : CommitFrame a s) : CommitFrame a (almGet s node).1 := by
  unfold almGet
  try dsimp only
  repeat' first
    | with_reducible assumption
    | with_reducible apply almRead_commitFrame
    | with_reducible refine CommitFrame.pair (by with_reducible assumption) ?_
    | with_reducible apply CommitFrame.ite
    | with_reducible apply CommitFrame.iteP
    | with_reducible apply CommitFrame.foldl
    | with_reducible apply CommitFrame.foldlP
    | intro _
    | split

theorem convEvent_commitFrame {a : State} (s : State) (cq : Nat) (tag : Nat) (code : Nat) (key : Nat) (result : Bytes)
    (h : CommitFrame a s) : CommitFrame a (convEvent s cq tag code key result) := by
  unfold convEvent
  try dsimp only
  repeat' first
    | with_reducible assumption
    | with_reducible apply raiseOnce_commitFrame
    | with_reducible apply raiseEvent_commitFrame
    | with_reducible apply State_modConvs_commitFrame
    | with_reducible refine CommitFrame.pair (by with_reducible assumption) ?_
    | with_reducible apply CommitFrame.ite
    | with_reducible apply CommitFrame.iteP
    | with_reducible apply CommitFrame.foldl
    | with_reducible apply CommitFrame.foldlP
    | intro _

theorem almWrite_commitFrame {a : State} (s : State) (e_ : Nat) (x : AlmEntry) (h : CommitFrame a s) : CommitFrame a (almWrite s e_ x) := by
  unfold almWrite
  try dsimp only
  repeat' first
    | with_reducible assumption
    | with_reducible apply almCache_commitFrame
    | with_reducible apply State_modAlm_commitFrame
    | with_reducible refine CommitFrame.pair (by with_reducible assumption) ?_
    | with_reducible apply CommitFrame.ite
    | with_reducible apply CommitFrame.iteP
    | with_reducible apply CommitFrame.foldl
    | with_reducible apply CommitFrame.foldlP
    | intro _

theorem almGiveUp_commitFrame {a : State} (s : State) (node : Nat) (h : CommitFrame a s) : CommitFrame a (almGiveUp s node) := by
  unfold almGiveUp
  try dsimp only
  repeat' first
    | with_reducible assumption
    | with_reducible apply almGet_commitFrame
    | with_reducible apply almWrite_commitFrame
    | with_reducible refine CommitFrame.pair (by with_reducible assumption) ?_
    | with_reducible apply CommitFrame.ite
    | with_reducible apply CommitFrame.iteP
    | with_reducible apply CommitFrame.foldl
    | with_reducible apply CommitFrame.foldlP
    | intro _
    | split

theorem clearConv_commitFrame {a : State} (s : State) (id : Nat) (h : CommitFrame a s) : CommitFrame a (clearConv s id) := by
  unfold clearConv
  try dsimp only
  repeat' first
    | with_reducible assumption
    | with_reducible apply State_modConvs_commitFrame
    | with_reducible apply State_modConv_commitFrame

theorem endConv_commitFrame {a : State} (s : State) (id : Nat) (outcome : Nat) (detail : Nat) (implicit : Bool)
    (h : CommitFrame a s) : CommitFrame a (endConv s id outcome detail implicit) := by
  unfold endConv
  try dsimp only
  repeat' first
    | with_reducible assumption
    | with_reducible apply convEvent_commitFrame
    | with_reducible apply State_inc_commitFrame
    | with_reducible apply State_evt_commitFrame
    | with_reducible apply almGiveUp_commitFrame
    | with_reducible apply clearConv_commitFrame
    | with_reducible refine CommitFrame.pair (by with_reducible assumption) ?_
    | with_reducible apply CommitFrame.ite
    | with_reducible apply CommitFrame.iteP
    | with_reducible apply CommitFrame.foldl
    | with_reducible apply CommitFrame.foldlP
    | intro _

theorem dropCost_commitFrame {a : State} (s : State) (n : Nat) (core1 : Bool) (c : Cost) (h : CommitFrame a s)
    : CommitFrame a (dropCost s n core1 c) := by
  unfold dropCost
  try dsimp only
  repeat' first
    | with_reducible assumption
    | with_reducible apply State_modChan_commitFrame

theorem notGood_commitFrame {a : State} (s : State) (p : Nat) (h : CommitFrame a s) : CommitFrame a (notGood s p) := by
  unfold notGood
  try dsimp only
  repeat' first
    | with_reducible assumption
    | with_reducible apply State_modPath_commitFrame

theorem toDown_commitFrame {a : State} (s : State) (p : Nat) (h : CommitFrame a s) : CommitFrame a (toDown s p) := by
  unfold toDown
  try dsimp only
  repeat' first
    | with_reducible assumption
    | with_reducible apply State_modPath_commitFrame

theorem pathEvent_commitFrame {a : State} (s : State) (p : Nat) (code : Nat) (flag : Nat) (h : CommitFrame a s)
    : CommitFrame a (pathEvent s p code flag) := by
  unfold pathEvent
  try dsimp only
  repeat' first
    | with_reducible assumption
    | with_reducible apply State_evt_commitFrame
    | with_reducible apply linkEvent_commitFrame

theorem failPath_commitFrame {a : State} (s : State) (p : Nat) (h : CommitFrame a s) : CommitFrame a (failPath s p) := by
  unfold failPath
  try dsimp only
  repeat' first
    | with_reducible assumption
    | with_reducible apply State_inc_commitFrame
    | with_reducible apply notGood_commitFrame
    | with_reducible apply toDown_commitFrame
    | with_reducible apply State_modPath_commitFrame
    | with_reducible apply State_logPut_commitFrame
    | with_reducible apply pathEvent_commitFrame
    | with_reducible refine CommitFrame.pair (by with_reducible assumption) ?_
    | with_reducible apply CommitFrame.ite
    | with_reducible apply CommitFrame.iteP
    | with_reducible apply CommitFrame.foldl
    | with_reducible apply CommitFrame.foldlP
    | intro _

theorem assignDone_commitFrame {a : State} (s : State) (st : Nat) (aux : Nat) (h : CommitFrame a s) : CommitFrame a (assignDone s st aux) := by
  unfold assignDone
  try dsimp only
  repeat' first
    | with_reducible assumption
    | with_reducible apply finish_commitFrame
    | with_reducible apply State_modKr_commitFrame
    | with_reducible refine CommitFrame.pair (by with_reducible assumption) ?_
    | with_reducible apply CommitFrame.ite
    | with_reducible apply CommitFrame.iteP
    | with_reducible apply CommitFrame.foldl
    | with_reducible apply CommitFrame.foldlP
    | intro _
    | split

theorem freeEngine_commitFrame {a : State} (s : State) (i : Nat) (h : CommitFrame a s) : CommitFrame a (freeEngine s i) := by
  unfold freeEngine
  try dsimp only
  repeat' first
    | with_reducible assumption
    | with_reducible apply State_modRing_commitFrame
    | with_reducible apply State_modConvs_commitFrame
    | with_reducible refine CommitFrame.pair (by with_reducible assumption) ?_
    | with_reducible apply CommitFrame.ite
    | with_reducible apply CommitFrame.iteP
    | with_reducible apply CommitFrame.foldl
    | with_reducible apply CommitFrame.foldlP
    | intro _

theorem stopEngine_commitFrame {a : State} (s : State) (i : Nat) (h : CommitFrame a s) : CommitFrame a (stopEngine s i) := by
  unfold stopEngine
  try dsimp only
  repeat' first
    | with_reducible assumption
    | with_reducible apply freeEngine_commitFrame
    | with_reducible apply dropCost_commitFrame

theorem stopEngines_commitFrame {a : State} (s : State) (id : Nat) (h : CommitFrame a s) : CommitFrame a (stopEngines s id) := by
  unfold stopEngines
  try dsimp only
  repeat' first
    | with_reducible assumption
    | with_reducible apply stopEngine_commitFrame
    | with_reducible refine CommitFrame.pair (by with_reducible assumption) ?_
    | with_reducible apply CommitFrame.ite
    | with_reducible apply CommitFrame.iteP
    | with_reducible apply CommitFrame.foldl
    | with_reducible apply CommitFrame.foldlP
    | intro _

theorem nmsEnd_commitFrame {a : State} (s : State) (k : Nat) (i : Nat) (st : Nat) (value : Nat) (reason : Nat) (area : Nat)
    (next : Nat) (h : CommitFrame a s) : CommitFrame a (nmsEnd s k i st value reason area next) := by
  unfold nmsEnd
  try dsimp only
  repeat' first
    | with_reducible assumption
    | with_reducible apply finish_commitFrame

theorem flushMarked_commitFrame {a : State} (k : Nat) (x1 : Nat) (x2 : State) (h : CommitFrame a x2) : CommitFrame a (flushMarked k x1 x2) := by
  induction x1 generalizing x2 with
  | zero => exact h
  | succ n ih =>
    unfold flushMarked
    have hw := withHead_commitFrame x2 k (fun s d => (flushHead s k d, true)) h (fun t d ht => flushHead_commitFrame t k d ht)
    split
    · exact h
    · split
      · rename_i e; exact ih _ (CommitFrame.pair e hw)
      · rename_i e; exact CommitFrame.pair e hw

theorem flushRings_commitFrame {a : State} (s : State) (n : Nat) (h : CommitFrame a s) : CommitFrame a (flushRings s n) := by
  unfold flushRings
  try dsimp only
  repeat' first
    | with_reducible assumption
    | with_reducible apply flushMarked_commitFrame
    | with_reducible apply State_modRing_commitFrame
    | with_reducible refine CommitFrame.pair (by with_reducible assumption) ?_
    | with_reducible apply CommitFrame.ite
    | with_reducible apply CommitFrame.iteP
    | with_reducible apply CommitFrame.foldl
    | with_reducible apply CommitFrame.foldlP
    | intro _

theorem loseConvs_commitFrame {a : State} (s : State) (ch : Nat) (h : CommitFrame a s) : CommitFrame a (loseConvs s ch) := by
  unfold loseConvs
  try dsimp only
  repeat' first
    | with_reducible assumption
    | with_reducible apply stopEngine_commitFrame
    | with_reducible apply endConv_commitFrame
    | with_reducible apply State_modConvs_commitFrame
    | with_reducible refine CommitFrame.pair (by with_reducible assumption) ?_
    | with_reducible apply CommitFrame.ite
    | with_reducible apply CommitFrame.iteP
    | with_reducible apply CommitFrame.foldl
    | with_reducible apply CommitFrame.foldlP
    | intro _

theorem drainWbOne_commitFrame {a : State} (s : State) (ch : Nat) (h : CommitFrame a s) : CommitFrame a (drainWbOne s ch) := by
  unfold drainWbOne
  try dsimp only
  repeat' first
    | with_reducible assumption
    | with_reducible apply State_modMchan_commitFrame
    | with_reducible apply dramPut_commitFrame
    | with_reducible refine CommitFrame.pair (by with_reducible assumption) ?_
    | with_reducible apply CommitFrame.ite
    | with_reducible apply CommitFrame.iteP
    | with_reducible apply CommitFrame.foldl
    | with_reducible apply CommitFrame.foldlP
    | intro _
    | split

theorem flushChan_commitFrame {a : State} (s : State) (ch : Nat) (p : Nat → Bool) (h : CommitFrame a s) : CommitFrame a (flushChan s ch p) := by
  unfold flushChan
  try dsimp only
  repeat' first
    | with_reducible assumption
    | with_reducible apply evictLine_commitFrame
    | with_reducible apply evictNode_commitFrame
    | with_reducible apply drainWbOne_commitFrame
    | with_reducible refine CommitFrame.pair (by with_reducible assumption) ?_
    | with_reducible apply CommitFrame.ite
    | with_reducible apply CommitFrame.iteP
    | with_reducible apply CommitFrame.foldl
    | with_reducible apply CommitFrame.foldlP
    | intro _

theorem changeRole_commitFrame {a : State} (s : State) (n : Nat) (new : Nat) (h : CommitFrame a s) : CommitFrame a (changeRole s n new) := by
  unfold changeRole
  try dsimp only
  repeat' first
    | with_reducible assumption
    | with_reducible apply loseConvs_commitFrame
    | with_reducible apply State_modMchan_commitFrame
    | with_reducible apply flushChan_commitFrame
    | with_reducible apply settleWhere_commitFrame
    | with_reducible apply State_modChan_commitFrame
    | with_reducible apply State_putWr_commitFrame
    | with_reducible refine CommitFrame.pair (by with_reducible assumption) ?_
    | with_reducible apply CommitFrame.ite
    | with_reducible apply CommitFrame.iteP
    | with_reducible apply CommitFrame.foldl
    | with_reducible apply CommitFrame.foldlP
    | intro _
    | split
    | (simp only [CommitFrame_mk]; with_reducible apply CommitFrameParts.of)

theorem unbindFenced_commitFrame {a : State} (s : State) (h : CommitFrame a s) : CommitFrame a (unbindFenced s) := by
  unfold unbindFenced
  try dsimp only
  repeat' first
    | with_reducible assumption
    | with_reducible apply State_modChan_commitFrame
    | with_reducible refine CommitFrame.pair (by with_reducible assumption) ?_
    | with_reducible apply CommitFrame.ite
    | with_reducible apply CommitFrame.iteP
    | with_reducible apply CommitFrame.foldl
    | with_reducible apply CommitFrame.foldlP
    | intro _

theorem moveSteer_commitFrame {a : State} (s : State) (t_ : List Nat) (h : CommitFrame a s) : CommitFrame a (moveSteer s t_) := by
  unfold moveSteer
  try dsimp only
  repeat' first
    | with_reducible assumption
    | with_reducible apply settleWhere_commitFrame
    | with_reducible apply flushChan_commitFrame
    | with_reducible refine CommitFrame.pair (by with_reducible assumption) ?_
    | with_reducible apply CommitFrame.ite
    | with_reducible apply CommitFrame.iteP
    | with_reducible apply CommitFrame.foldl
    | with_reducible apply CommitFrame.foldlP
    | intro _
    | split
    | (simp only [CommitFrame_mk]; with_reducible apply CommitFrameParts.of)

theorem applyRoles_commitFrame {a : State} (s : State) (roles : List Nat) (h : CommitFrame a s) : CommitFrame a (applyRoles s roles) := by
  unfold applyRoles
  try dsimp only
  repeat' first
    | with_reducible assumption
    | with_reducible apply flushRings_commitFrame
    | with_reducible apply changeRole_commitFrame
    | with_reducible apply unbindFenced_commitFrame
    | with_reducible apply moveSteer_commitFrame
    | with_reducible refine CommitFrame.pair (by with_reducible assumption) ?_
    | with_reducible apply CommitFrame.ite
    | with_reducible apply CommitFrame.iteP
    | with_reducible apply CommitFrame.foldl
    | with_reducible apply CommitFrame.foldlP
    | intro _

theorem applyShare_commitFrame {a : State} (s : State) (w : Nat × Nat) (h : CommitFrame a s) : CommitFrame a (applyShare s w) := by
  unfold applyShare
  try dsimp only
  repeat' first
    | with_reducible assumption
    | with_reducible apply State_modChan_commitFrame
    | with_reducible apply State_evt_commitFrame
    | with_reducible refine CommitFrame.pair (by with_reducible assumption) ?_
    | with_reducible apply CommitFrame.ite
    | with_reducible apply CommitFrame.iteP
    | with_reducible apply CommitFrame.foldl
    | with_reducible apply CommitFrame.foldlP
    | intro _

theorem withItem_commitFrame {a : State} (s : State) (k : Nat) (i : Nat) (op : Nat) (f : Item → State) (h : CommitFrame a s)
    (hf_f : ∀ y, CommitFrame a (f y)) : CommitFrame a (withItem s k i op f) := by
  unfold withItem
  try dsimp only
  repeat' first
    | with_reducible assumption
    | apply hf_f
    | with_reducible refine CommitFrame.pair (by with_reducible assumption) ?_
    | with_reducible apply CommitFrame.ite
    | with_reducible apply CommitFrame.iteP
    | with_reducible apply CommitFrame.foldl
    | with_reducible apply CommitFrame.foldlP
    | intro _
    | split

theorem becomeUp_commitFrame {a : State} (s : State) (p : Nat) (h : CommitFrame a s) : CommitFrame a (becomeUp s p) := by
  unfold becomeUp
  try dsimp only
  repeat' first
    | with_reducible assumption
    | with_reducible apply State_modPath_commitFrame
    | with_reducible apply pathEvent_commitFrame
    | with_reducible apply pump_commitFrame
    | with_reducible apply toDown_commitFrame
    | with_reducible apply failPath_commitFrame
    | with_reducible refine CommitFrame.pair (by with_reducible assumption) ?_
    | with_reducible apply CommitFrame.ite
    | with_reducible apply CommitFrame.iteP
    | with_reducible apply CommitFrame.foldl
    | with_reducible apply CommitFrame.foldlP
    | intro _

theorem tryRoles_commitFrame {a : State} (s : State) (wr : List (Nat × Nat)) (h : CommitFrame a s) : CommitFrame a (tryRoles s wr) := by
  unfold tryRoles
  try dsimp only
  repeat' first
    | with_reducible assumption
    | with_reducible apply State_evt_commitFrame
    | with_reducible apply applyRoles_commitFrame
    | with_reducible refine CommitFrame.pair (by with_reducible assumption) ?_
    | with_reducible apply CommitFrame.ite
    | with_reducible apply CommitFrame.iteP
    | with_reducible apply CommitFrame.foldl
    | with_reducible apply CommitFrame.foldlP
    | intro _

theorem linkRoles_commitFrame {a : State} (s : State) (h : CommitFrame a s) : CommitFrame a (linkRoles s) := by
  unfold linkRoles
  try dsimp only
  repeat' first
    | with_reducible assumption
    | with_reducible apply State_modPath_commitFrame
    | with_reducible apply State_incBy_commitFrame
    | with_reducible refine CommitFrame.pair (by with_reducible assumption) ?_
    | with_reducible apply CommitFrame.ite
    | with_reducible apply CommitFrame.iteP
    | with_reducible apply CommitFrame.foldl
    | with_reducible apply CommitFrame.foldlP
    | intro _

theorem commitRoles_commitFrame {a : State} (s : State) (ends : Bool) (h : CommitFrame a s) : CommitFrame a (commitRoles s ends) := by
  unfold commitRoles
  try dsimp only
  repeat' first
    | with_reducible assumption
    | with_reducible apply tryRoles_commitFrame
    | with_reducible apply applyShare_commitFrame
    | with_reducible apply linkRoles_commitFrame
    | with_reducible refine CommitFrame.pair (by with_reducible assumption) ?_
    | with_reducible apply CommitFrame.ite
    | with_reducible apply CommitFrame.iteP
    | with_reducible apply CommitFrame.foldl
    | with_reducible apply CommitFrame.foldlP
    | intro _
    | split
    | (simp only [CommitFrame_mk]; with_reducible apply CommitFrameParts.of)

theorem stageLink_commitFrame {a : State} (s : State) (k : Nat) (i : Nat) (op : Nat) (h : CommitFrame a s) : CommitFrame a (stageLink s k i op) := by
  unfold stageLink
  try dsimp only
  repeat' first
    | with_reducible assumption
    | with_reducible apply withItem_commitFrame
    | with_reducible apply modItem_commitFrame
    | with_reducible refine CommitFrame.pair (by with_reducible assumption) ?_
    | with_reducible apply CommitFrame.ite
    | with_reducible apply CommitFrame.iteP
    | with_reducible apply CommitFrame.foldl
    | with_reducible apply CommitFrame.foldlP
    | intro _
    | split
    | (simp only [CommitFrame_mk]; with_reducible apply CommitFrameParts.of)

theorem stageWith_commitFrame {a : State} (s : State) (k : Nat) (i : Nat) (op : Nat) (f : Item → State) (h : CommitFrame a s)
    (hf_f : ∀ y, CommitFrame a (f y)) : CommitFrame a (stageWith s k i op f) := by
  unfold stageWith
  try dsimp only
  repeat' first
    | with_reducible assumption
    | apply hf_f
    | with_reducible apply withItem_commitFrame
    | with_reducible refine CommitFrame.pair (by with_reducible assumption) ?_
    | with_reducible apply CommitFrame.ite
    | with_reducible apply CommitFrame.iteP
    | with_reducible apply CommitFrame.foldl
    | with_reducible apply CommitFrame.foldlP
    | intro _

theorem stageVault_commitFrame {a : State} (s : State) (k : Nat) (it : Item) (c : VaultChange) (h : CommitFrame a s)
    : CommitFrame a (stageVault s k it c) := by
  unfold stageVault
  try dsimp only
  repeat' first
    | with_reducible assumption
    | with_reducible apply modItem_commitFrame
    | with_reducible refine CommitFrame.pair (by with_reducible assumption) ?_
    | with_reducible apply CommitFrame.ite
    | with_reducible apply CommitFrame.iteP
    | with_reducible apply CommitFrame.foldl
    | with_reducible apply CommitFrame.foldlP
    | intro _
    | split
    | (simp only [CommitFrame_mk]; with_reducible apply CommitFrameParts.of)

theorem generate_commitFrame {a : State} (s : State) (k : Nat) (i : Nat) (h : CommitFrame a s) : CommitFrame a (generate s k i) := by
  unfold generate
  try dsimp only
  repeat' first
    | with_reducible assumption
    | with_reducible apply stageWith_commitFrame
    | with_reducible apply State_drew_commitFrame
    | with_reducible apply stageVault_commitFrame
    | with_reducible refine CommitFrame.pair (by with_reducible assumption) ?_
    | with_reducible apply CommitFrame.ite
    | with_reducible apply CommitFrame.iteP
    | with_reducible apply CommitFrame.foldl
    | with_reducible apply CommitFrame.foldlP
    | intro _

theorem derive_commitFrame {a : State} (s : State) (k : Nat) (i : Nat) (h : CommitFrame a s) : CommitFrame a (derive s k i) := by
  unfold derive
  try dsimp only
  repeat' first
    | with_reducible assumption
    | with_reducible apply stageWith_commitFrame
    | with_reducible apply stageVault_commitFrame
    | with_reducible refine CommitFrame.pair (by with_reducible assumption) ?_
    | with_reducible apply CommitFrame.ite
    | with_reducible apply CommitFrame.iteP
    | with_reducible apply CommitFrame.foldl
    | with_reducible apply CommitFrame.foldlP
    | intro _

theorem importWrapped_commitFrame {a : State} (s : State) (k : Nat) (i : Nat) (h : CommitFrame a s) : CommitFrame a (importWrapped s k i) := by
  unfold importWrapped
  try dsimp only
  repeat' first
    | with_reducible assumption
    | with_reducible apply stageWith_commitFrame
    | with_reducible apply hostRead_commitFrame
    | with_reducible apply stageVault_commitFrame
    | with_reducible refine CommitFrame.pair (by with_reducible assumption) ?_
    | with_reducible apply CommitFrame.ite
    | with_reducible apply CommitFrame.iteP
    | with_reducible apply CommitFrame.foldl
    | with_reducible apply CommitFrame.foldlP
    | intro _
    | split

theorem importClear_commitFrame {a : State} (s : State) (k : Nat) (i : Nat) (h : CommitFrame a s) : CommitFrame a (importClear s k i) := by
  unfold importClear
  try dsimp only
  repeat' first
    | with_reducible assumption
    | with_reducible apply stageWith_commitFrame
    | with_reducible apply stageVault_commitFrame
    | with_reducible apply scrubEntry_commitFrame
    | with_reducible refine CommitFrame.pair (by with_reducible assumption) ?_
    | with_reducible apply CommitFrame.ite
    | with_reducible apply CommitFrame.iteP
    | with_reducible apply CommitFrame.foldl
    | with_reducible apply CommitFrame.foldlP
    | intro _

theorem stagePlain_commitFrame {a : State} (s : State) (k : Nat) (i : Nat) (op : Nat) (h : CommitFrame a s)
    : CommitFrame a (stagePlain s k i op) := by
  unfold stagePlain
  try dsimp only
  repeat' first
    | with_reducible assumption
    | with_reducible apply stageWith_commitFrame
    | with_reducible apply stageVault_commitFrame
    | with_reducible refine CommitFrame.pair (by with_reducible assumption) ?_
    | with_reducible apply CommitFrame.ite
    | with_reducible apply CommitFrame.iteP
    | with_reducible apply CommitFrame.foldl
    | with_reducible apply CommitFrame.foldlP
    | intro _

theorem krKeyload_commitFrame {a : State} (s : State) (k : Nat) (i : Nat) (h : CommitFrame a s) : CommitFrame a (krKeyload s k i) := by
  unfold krKeyload
  try dsimp only
  repeat' first
    | with_reducible assumption
    | with_reducible apply withItem_commitFrame
    | with_reducible apply finish_commitFrame
    | with_reducible apply hostRead_commitFrame
    | with_reducible apply stageVault_commitFrame
    | with_reducible refine CommitFrame.pair (by with_reducible assumption) ?_
    | with_reducible apply CommitFrame.ite
    | with_reducible apply CommitFrame.iteP
    | with_reducible apply CommitFrame.foldl
    | with_reducible apply CommitFrame.foldlP
    | intro _
    | split

theorem stageOne_commitFrame {a : State} (s : State) (k : Nat) (it : Item) (h : CommitFrame a s) : CommitFrame a (stageOne s k it) := by
  unfold stageOne
  try dsimp only
  repeat' first
    | with_reducible assumption
    | with_reducible apply stageLink_commitFrame
    | with_reducible apply generate_commitFrame
    | with_reducible apply derive_commitFrame
    | with_reducible apply importWrapped_commitFrame
    | with_reducible apply importClear_commitFrame
    | with_reducible apply stagePlain_commitFrame
    | with_reducible apply krKeyload_commitFrame
    | with_reducible refine CommitFrame.pair (by with_reducible assumption) ?_
    | with_reducible apply CommitFrame.ite
    | with_reducible apply CommitFrame.iteP
    | with_reducible apply CommitFrame.foldl
    | with_reducible apply CommitFrame.foldlP
    | intro _

theorem stageAll_commitFrame {a : State} (s : State) (h : CommitFrame a s) : CommitFrame a (stageAll s) := by
  unfold stageAll
  try dsimp only
  repeat' first
    | with_reducible assumption
    | with_reducible apply stageOne_commitFrame
    | with_reducible refine CommitFrame.pair (by with_reducible assumption) ?_
    | with_reducible apply CommitFrame.ite
    | with_reducible apply CommitFrame.iteP
    | with_reducible apply CommitFrame.foldl
    | with_reducible apply CommitFrame.foldlP
    | intro _

theorem endStep_commitFrame {a : State} (s : State) (ch : Nat) (e_ : Nat) (h : CommitFrame a s) : CommitFrame a (endStep s ch e_) := by
  unfold endStep
  try dsimp only
  repeat' first
    | with_reducible assumption
    | with_reducible apply stopEngine_commitFrame

theorem cutEngines_commitFrame {a : State} (s : State) (h : CommitFrame a s) : CommitFrame a (cutEngines s) := by
  unfold cutEngines
  try dsimp only
  repeat' first
    | with_reducible assumption
    | with_reducible apply endStep_commitFrame
    | with_reducible refine CommitFrame.pair (by with_reducible assumption) ?_
    | with_reducible apply CommitFrame.ite
    | with_reducible apply CommitFrame.iteP
    | with_reducible apply CommitFrame.foldl
    | with_reducible apply CommitFrame.foldlP
    | intro _

theorem commitTier_commitFrame {a : State} (s : State) (c : Nat × TierEntry) (h : CommitFrame a s) : CommitFrame a (commitTier s c) := by
  unfold commitTier
  try dsimp only
  repeat' first
    | with_reducible assumption
    | with_reducible apply State_putSt_commitFrame
    | with_reducible apply State_evt_commitFrame
    | with_reducible refine CommitFrame.pair (by with_reducible assumption) ?_
    | with_reducible apply CommitFrame.ite
    | with_reducible apply CommitFrame.iteP
    | with_reducible apply CommitFrame.foldl
    | with_reducible apply CommitFrame.foldlP
    | intro _
    | split
    | (simp only [CommitFrame_mk]; with_reducible apply CommitFrameParts.of)

theorem commitTiers_commitFrame {a : State} (s : State) (h : CommitFrame a s) : CommitFrame a (commitTiers s) := by
  unfold commitTiers
  try dsimp only
  repeat' first
    | with_reducible assumption
    | with_reducible apply commitTier_commitFrame
    | with_reducible refine CommitFrame.pair (by with_reducible assumption) ?_
    | with_reducible apply CommitFrame.ite
    | with_reducible apply CommitFrame.iteP
    | with_reducible apply CommitFrame.foldl
    | with_reducible apply CommitFrame.foldlP
    | intro _
    | split
    | (simp only [CommitFrame_mk]; with_reducible apply CommitFrameParts.of)

theorem setMaterial_commitFrame {a : State} (s : State) (n : Nat) (key : Bytes) (h : CommitFrame a s) : CommitFrame a (setMaterial s n key) := by
  unfold setMaterial
  try dsimp only
  repeat' first
    | with_reducible assumption
    | with_reducible apply State_drew_commitFrame
    | with_reducible apply State_modSlot_commitFrame

theorem installRingKey_commitFrame {a : State} (s : State) (c : VaultChange) (h : CommitFrame a s) : CommitFrame a (installRingKey s c) := by
  unfold installRingKey
  try dsimp only
  repeat' first
    | with_reducible assumption
    | with_reducible apply queueKey_commitFrame
    | with_reducible apply setMaterial_commitFrame
    | with_reducible apply State_modSlot_commitFrame

theorem install_commitFrame {a : State} (s : State) (d : Bytes) (c : VaultChange) (h : CommitFrame a s) : CommitFrame a (install s d c) := by
  unfold install
  try dsimp only
  repeat' first
    | with_reducible assumption
    | with_reducible apply queueKey_commitFrame
    | with_reducible apply setMaterial_commitFrame
    | with_reducible apply State_modSlot_commitFrame

theorem queueTomb_commitFrame {a : State} (s : State) (n : Nat) (x : Slot) (h : CommitFrame a s) : CommitFrame a (queueTomb s n x) := by
  unfold queueTomb
  try dsimp only
  repeat' first
    | with_reducible assumption
    | with_reducible apply State_jPut_commitFrame
    | with_reducible refine CommitFrame.pair (by with_reducible assumption) ?_
    | with_reducible apply CommitFrame.ite
    | with_reducible apply CommitFrame.iteP
    | with_reducible apply CommitFrame.foldl
    | with_reducible apply CommitFrame.foldlP
    | intro _

theorem renew_commitFrame {a : State} (s : State) (n : Nat) (h : CommitFrame a s) : CommitFrame a (renew s n) := by
  unfold renew
  try dsimp only
  repeat' first
    | with_reducible assumption
    | with_reducible apply State_modSlot_commitFrame
    | with_reducible apply queueKey_commitFrame
    | with_reducible apply setMaterial_commitFrame
    | with_reducible apply State_drew_commitFrame
    | with_reducible apply queueTomb_commitFrame
    | with_reducible refine CommitFrame.pair (by with_reducible assumption) ?_
    | with_reducible apply CommitFrame.ite
    | with_reducible apply CommitFrame.iteP
    | with_reducible apply CommitFrame.foldl
    | with_reducible apply CommitFrame.foldlP
    | intro _
    | split

theorem eraseSlot_commitFrame {a : State} (s : State) (n : Nat) (h : CommitFrame a s) : CommitFrame a (eraseSlot s n) := by
  unfold eraseSlot
  try dsimp only
  repeat' first
    | with_reducible assumption
    | with_reducible apply queueTomb_commitFrame
    | with_reducible apply State_modSlot_commitFrame

theorem setLimit_commitFrame {a : State} (s : State) (d : Bytes) (h : CommitFrame a s) : CommitFrame a (setLimit s d) := by
  unfold setLimit
  try dsimp only
  repeat' first
    | with_reducible assumption
    | with_reducible apply State_modSlot_commitFrame
    | with_reducible apply queueKey_commitFrame
    | with_reducible apply State_evt_commitFrame
    | with_reducible refine CommitFrame.pair (by with_reducible assumption) ?_
    | with_reducible apply CommitFrame.ite
    | with_reducible apply CommitFrame.iteP
    | with_reducible apply CommitFrame.foldl
    | with_reducible apply CommitFrame.foldlP
    | intro _

theorem setPersist_commitFrame {a : State} (s : State) (d : Bytes) (h : CommitFrame a s) : CommitFrame a (setPersist s d) := by
  unfold setPersist
  try dsimp only
  repeat' first
    | with_reducible assumption
    | with_reducible apply State_modSlot_commitFrame
    | with_reducible apply queueKey_commitFrame
    | with_reducible apply queueTomb_commitFrame
    | with_reducible refine CommitFrame.pair (by with_reducible assumption) ?_
    | with_reducible apply CommitFrame.ite
    | with_reducible apply CommitFrame.iteP
    | with_reducible apply CommitFrame.foldl
    | with_reducible apply CommitFrame.foldlP
    | intro _

theorem commitVaultOne_commitFrame {a : State} (p : State × VaultShadow) (c : VaultChange) (h : CommitFrame a p.1)
    : CommitFrame a (commitVaultOne p c).1 := by
  unfold commitVaultOne
  try dsimp only
  repeat' first
    | with_reducible assumption
    | with_reducible apply setMaterial_commitFrame
    | with_reducible apply State_modSlot_commitFrame
    | with_reducible apply finish_commitFrame
    | with_reducible apply installRingKey_commitFrame
    | with_reducible apply install_commitFrame
    | with_reducible apply State_logPut_commitFrame
    | with_reducible apply renew_commitFrame
    | with_reducible apply eraseSlot_commitFrame
    | with_reducible apply setLimit_commitFrame
    | with_reducible apply setPersist_commitFrame
    | with_reducible refine CommitFrame.pair (by with_reducible assumption) ?_
    | with_reducible apply CommitFrame.ite
    | with_reducible apply CommitFrame.iteP
    | with_reducible apply CommitFrame.foldl
    | with_reducible apply CommitFrame.foldlP
    | split
    | (simp only [CommitFrame_mk]; with_reducible apply CommitFrameParts.of)
    | intro _

theorem commitVault_commitFrame {a : State} (s0 : State) (h : CommitFrame a s0) : CommitFrame a (commitVault s0) := by
  unfold commitVault
  try dsimp only
  repeat' first
    | with_reducible assumption
    | with_reducible apply commitVaultOne_commitFrame
    | with_reducible apply queueTomb_commitFrame
    | with_reducible refine CommitFrame.pair (by with_reducible assumption) ?_
    | with_reducible apply CommitFrame.ite
    | with_reducible apply CommitFrame.iteP
    | with_reducible apply CommitFrame.foldl
    | with_reducible apply CommitFrame.foldlP
    | intro _
    | split
    | (simp only [CommitFrame_mk]; with_reducible apply CommitFrameParts.of)

theorem countCut_commitFrame {a : State} (s : State) (n : Nat) (h : CommitFrame a s) : CommitFrame a (countCut s n) := by
  unfold countCut
  try dsimp only
  repeat' first
    | with_reducible assumption
    | with_reducible apply State_evt_commitFrame
    | with_reducible apply State_inc_commitFrame
    | with_reducible refine CommitFrame.pair (by with_reducible assumption) ?_
    | with_reducible apply CommitFrame.ite
    | with_reducible apply CommitFrame.iteP
    | with_reducible apply CommitFrame.foldl
    | with_reducible apply CommitFrame.foldlP
    | intro _

theorem endItem_commitFrame {a : State} (s : State) (x : Nat × Item) (h : CommitFrame a s) : CommitFrame a (endItem s x) := by
  unfold endItem
  try dsimp only
  repeat' first
    | with_reducible assumption
    | with_reducible apply countCut_commitFrame
    | with_reducible apply finish_commitFrame

theorem memFence_commitFrame {a : State} (s : State) (ch : Nat) (h : CommitFrame a s) : CommitFrame a (memFence s ch) := by
  unfold memFence
  try dsimp only
  repeat' first
    | with_reducible assumption
    | with_reducible apply State_modMchan_commitFrame
    | with_reducible apply countLost_commitFrame
    | with_reducible apply dramPut_commitFrame
    | with_reducible apply countSubtree_commitFrame
    | with_reducible apply setRoot_commitFrame
    | with_reducible refine CommitFrame.pair (by with_reducible assumption) ?_
    | with_reducible apply CommitFrame.ite
    | with_reducible apply CommitFrame.iteP
    | with_reducible apply CommitFrame.foldl
    | with_reducible apply CommitFrame.foldlP
    | intro _

theorem takeOver_commitFrame {a : State} (s : State) (n : Nat) (m : Nat) (h : CommitFrame a s) : CommitFrame a (takeOver s n m) := by
  unfold takeOver
  try dsimp only
  repeat' first
    | with_reducible assumption
    | with_reducible apply State_modChan_commitFrame
    | with_reducible apply State_logPut_commitFrame
    | with_reducible apply State_evt_commitFrame
    | with_reducible apply State_putWr_commitFrame
    | with_reducible refine CommitFrame.pair (by with_reducible assumption) ?_
    | with_reducible apply CommitFrame.ite
    | with_reducible apply CommitFrame.iteP
    | with_reducible apply CommitFrame.foldl
    | with_reducible apply CommitFrame.foldlP
    | intro _
    | split
    | (simp only [CommitFrame_mk]; with_reducible apply CommitFrameParts.of)

theorem redistribute_commitFrame {a : State} (s : State) (n : Nat) (h : CommitFrame a s) : CommitFrame a (redistribute s n) := by
  unfold redistribute
  try dsimp only
  repeat' first
    | with_reducible assumption
    | with_reducible refine CommitFrame.pair (by with_reducible assumption) ?_
    | with_reducible apply CommitFrame.ite
    | with_reducible apply CommitFrame.iteP
    | with_reducible apply CommitFrame.foldl
    | with_reducible apply CommitFrame.foldlP
    | intro _
    | split
    | (simp only [CommitFrame_mk]; with_reducible apply CommitFrameParts.of)

theorem dropTxn_commitFrame {a : State} (s : State) (t_ : Txn) (reason : Nat) (h : CommitFrame a s) : CommitFrame a (dropTxn s t_ reason) := by
  unfold dropTxn
  try dsimp only
  repeat' first
    | with_reducible assumption
    | with_reducible apply answer_commitFrame
    | with_reducible apply denyCount_commitFrame
    | with_reducible refine CommitFrame.pair (by with_reducible assumption) ?_
    | with_reducible apply CommitFrame.ite
    | with_reducible apply CommitFrame.iteP
    | with_reducible apply CommitFrame.foldl
    | with_reducible apply CommitFrame.foldlP
    | intro _
    | split
    | (simp only [CommitFrame_mk]; with_reducible apply CommitFrameParts.of)

theorem reissueOne_commitFrame {a : State} (ch : Nat) (s : State) (t_ : Txn) (h : CommitFrame a s) : CommitFrame a (reissueOne ch s t_) := by
  unfold reissueOne
  try dsimp only
  repeat' first
    | with_reducible assumption
    | with_reducible apply dropTxn_commitFrame
    | with_reducible apply memKey_commitFrame
    | with_reducible apply keyFailed_commitFrame
    | with_reducible refine CommitFrame.pair (by with_reducible assumption) ?_
    | with_reducible apply CommitFrame.ite
    | with_reducible apply CommitFrame.iteP
    | with_reducible apply CommitFrame.foldl
    | with_reducible apply CommitFrame.foldlP
    | intro _
    | split
    | (simp only [CommitFrame_mk]; with_reducible apply CommitFrameParts.of)

theorem reissue_commitFrame {a : State} (s : State) (ch : Nat) (h : CommitFrame a s) : CommitFrame a (reissue s ch) := by
  unfold reissue
  try dsimp only
  repeat' first
    | with_reducible assumption
    | with_reducible apply reissueOne_commitFrame
    | with_reducible refine CommitFrame.pair (by with_reducible assumption) ?_
    | with_reducible apply CommitFrame.ite
    | with_reducible apply CommitFrame.iteP
    | with_reducible apply CommitFrame.foldl

theorem killEntry_commitFrame {a : State} (s : State) (p : Nat) (tx : Bool) (e_ : Nat) (status : Nat) (h : CommitFrame a s)
    : CommitFrame a (killEntry s p tx e_ status) := by
  unfold killEntry
  try dsimp only
  repeat' first
    | with_reducible assumption
    | with_reducible apply saEvent_commitFrame
    | with_reducible apply State_modSae_commitFrame

theorem takeoverSas_commitFrame {a : State} (s : State) (p : Nat) (tx : Bool) (n : Nat) (h : CommitFrame a s)
    : CommitFrame a (takeoverSas s p tx n) := by
  unfold takeoverSas
  try dsimp only
  repeat' first
    | with_reducible assumption
    | with_reducible apply killEntry_commitFrame
    | with_reducible refine CommitFrame.pair (by with_reducible assumption) ?_
    | with_reducible apply CommitFrame.ite
    | with_reducible apply CommitFrame.iteP
    | with_reducible apply CommitFrame.foldl
    | with_reducible apply CommitFrame.foldlP
    | intro _

theorem linkFence_commitFrame {a : State} (s : State) (p : Nat) (tx : Bool) (spare : Option Nat) (h : CommitFrame a s)
    : CommitFrame a (linkFence s p tx spare) := by
  unfold linkFence
  try dsimp only
  repeat' first
    | with_reducible assumption
    | with_reducible apply State_modPath_commitFrame
    | with_reducible apply State_incBy_commitFrame
    | with_reducible apply takeoverSas_commitFrame
    | with_reducible apply failPath_commitFrame
    | with_reducible apply notGood_commitFrame
    | with_reducible refine CommitFrame.pair (by with_reducible assumption) ?_
    | with_reducible apply CommitFrame.ite
    | with_reducible apply CommitFrame.iteP
    | with_reducible apply CommitFrame.foldl
    | with_reducible apply CommitFrame.foldlP
    | intro _
    | split

theorem fence_commitFrame {a : State} (s : State) (n : Nat) (cause : Nat) (h : CommitFrame a s) : CommitFrame a (fence s n cause) := by
  unfold fence
  try dsimp only
  repeat' first
    | with_reducible assumption
    | with_reducible apply State_modChan_commitFrame
    | with_reducible apply State_evt_commitFrame
    | with_reducible apply State_logPut_commitFrame
    | with_reducible apply loseConvs_commitFrame
    | with_reducible apply memFence_commitFrame
    | with_reducible apply takeOver_commitFrame
    | with_reducible apply redistribute_commitFrame
    | with_reducible apply reissue_commitFrame
    | with_reducible apply linkFence_commitFrame
    | with_reducible refine CommitFrame.pair (by with_reducible assumption) ?_
    | with_reducible apply CommitFrame.ite
    | with_reducible apply CommitFrame.iteP
    | with_reducible apply CommitFrame.foldl
    | with_reducible apply CommitFrame.foldlP
    | intro _
    | split
    | (simp only [CommitFrame_mk]; with_reducible apply CommitFrameParts.of)

theorem fenceCuts_commitFrame {a : State} (s : State) (cuts : List Nat) (h : CommitFrame a s) : CommitFrame a (fenceCuts s cuts) := by
  unfold fenceCuts
  try dsimp only
  repeat' first
    | with_reducible assumption
    | with_reducible apply fence_commitFrame
    | with_reducible refine CommitFrame.pair (by with_reducible assumption) ?_
    | with_reducible apply CommitFrame.ite
    | with_reducible apply CommitFrame.iteP
    | with_reducible apply CommitFrame.foldl
    | with_reducible apply CommitFrame.foldlP
    | intro _

theorem noteCut_commitFrame {a : State} (cuts : List Nat) (s : State) (n : Nat) (h : CommitFrame a s) : CommitFrame a (noteCut cuts s n) := by
  unfold noteCut
  try dsimp only
  repeat' first
    | with_reducible assumption
    | with_reducible apply State_modChan_commitFrame

theorem commitKeys_commitFrame {a : State} (s : State) (h : CommitFrame a s) : CommitFrame a (commitKeys s) := by
  unfold commitKeys
  try dsimp only
  repeat' first
    | with_reducible assumption
    | with_reducible apply stageAll_commitFrame
    | with_reducible apply cutEngines_commitFrame
    | with_reducible apply commitTiers_commitFrame
    | with_reducible apply commitVault_commitFrame
    | with_reducible apply endItem_commitFrame
    | with_reducible apply countCut_commitFrame
    | with_reducible apply fenceCuts_commitFrame
    | with_reducible apply noteCut_commitFrame
    | with_reducible refine CommitFrame.pair (by with_reducible assumption) ?_
    | with_reducible apply CommitFrame.ite
    | with_reducible apply CommitFrame.iteP
    | with_reducible apply CommitFrame.foldl

theorem profileRefused_commitFrame {a : State} (s : State) (h : CommitFrame a s) : CommitFrame a (profileRefused s) := by
  unfold profileRefused
  try dsimp only
  repeat' first
    | with_reducible assumption
    | with_reducible apply State_evt_commitFrame

theorem loadEnd_commitFrame {a : State} (s : State) (k : Nat) (i : Nat) (op : Nat) (st : Nat) (reason : Nat) (b : Bytes)
    (refused : Bool) (h : CommitFrame a s) : CommitFrame a (loadEnd s k i op st reason b refused) := by
  unfold loadEnd
  try dsimp only
  repeat' first
    | with_reducible assumption
    | with_reducible apply profileRefused_commitFrame
    | with_reducible apply State_logPut_commitFrame
    | with_reducible apply nmsEnd_commitFrame
    | with_reducible refine CommitFrame.pair (by with_reducible assumption) ?_
    | with_reducible apply CommitFrame.ite
    | with_reducible apply CommitFrame.iteP
    | with_reducible apply CommitFrame.foldl
    | with_reducible apply CommitFrame.foldlP
    | intro _

theorem nmsCommitted_commitFrame {a : State} (s : State) (op : Nat) (h : CommitFrame a s) : CommitFrame a (nmsCommitted s op) := by
  unfold nmsCommitted
  try dsimp only
  repeat' first
    | with_reducible assumption
    | with_reducible apply State_modNms_commitFrame
    | with_reducible apply loadEnd_commitFrame
    | with_reducible refine CommitFrame.pair (by with_reducible assumption) ?_
    | with_reducible apply CommitFrame.ite
    | with_reducible apply CommitFrame.iteP
    | with_reducible apply CommitFrame.foldl
    | with_reducible apply CommitFrame.foldlP
    | intro _
    | split

theorem commitUcode_commitFrame {a : State} (s : State) (h : CommitFrame a s) : CommitFrame a (commitUcode s) := by
  unfold commitUcode
  try dsimp only
  repeat' first
    | with_reducible assumption
    | with_reducible apply State_modConvs_commitFrame
    | with_reducible apply State_evt_commitFrame
    | with_reducible refine CommitFrame.pair (by with_reducible assumption) ?_
    | with_reducible apply CommitFrame.ite
    | with_reducible apply CommitFrame.iteP
    | with_reducible apply CommitFrame.foldl
    | with_reducible apply CommitFrame.foldlP
    | intro _

theorem sleepRefuse_commitFrame {a : State} (s : State) (err : Nat) (h : CommitFrame a s) : CommitFrame a (sleepRefuse s err) := by
  unfold sleepRefuse
  try dsimp only
  repeat' first
    | with_reducible assumption
    | with_reducible apply State_evt_commitFrame
    | with_reducible apply State_modSleep_commitFrame

theorem commitImage_commitFrame {a : State} (s : State) (h : CommitFrame a s) : CommitFrame a (commitImage s) := by
  unfold commitImage
  try dsimp only
  repeat' first
    | with_reducible assumption
    | with_reducible apply State_modSleep_commitFrame
    | with_reducible apply State_putFc_commitFrame
    | with_reducible apply sleepRefuse_commitFrame
    | with_reducible refine CommitFrame.pair (by with_reducible assumption) ?_
    | with_reducible apply CommitFrame.ite
    | with_reducible apply CommitFrame.iteP
    | with_reducible apply CommitFrame.foldl
    | with_reducible apply CommitFrame.foldlP
    | intro _

theorem commitAlm_commitFrame {a : State} (s : State) (h : CommitFrame a s) : CommitFrame a (commitAlm s) := by
  unfold commitAlm
  try dsimp only
  repeat' first
    | with_reducible assumption
    | with_reducible apply State_modAlm_commitFrame
    | with_reducible apply State_evt_commitFrame
    | with_reducible apply State_drew_commitFrame
    | with_reducible refine CommitFrame.pair (by with_reducible assumption) ?_
    | with_reducible apply CommitFrame.ite
    | with_reducible apply CommitFrame.iteP
    | with_reducible apply CommitFrame.foldl
    | with_reducible apply CommitFrame.foldlP
    | intro _

theorem settleAll_commitFrame {a : State} (s : State) (h : CommitFrame a s) : CommitFrame a (settleAll s) := by
  unfold settleAll
  try dsimp only
  repeat' first
    | with_reducible assumption
    | with_reducible apply settleWhere_commitFrame

theorem commitTree_commitFrame {a : State} (s : State) (c : Nat × TreeEntry) (h : CommitFrame a s) : CommitFrame a (commitTree s c) := by
  unfold commitTree
  try dsimp only
  repeat' first
    | with_reducible assumption
    | with_reducible apply State_putStf_commitFrame
    | with_reducible refine CommitFrame.pair (by with_reducible assumption) ?_
    | with_reducible apply CommitFrame.ite
    | with_reducible apply CommitFrame.iteP
    | with_reducible apply CommitFrame.foldl
    | with_reducible apply CommitFrame.foldlP
    | intro _
    | split
    | (simp only [CommitFrame_mk]; with_reducible apply CommitFrameParts.of)

theorem drainArea_commitFrame {a : State} (s : State) (c : Nat) (q_ : Nat → Bool) (h : CommitFrame a s) : CommitFrame a (drainArea s c q_) := by
  unfold drainArea
  try dsimp only
  repeat' first
    | with_reducible assumption
    | with_reducible apply dramPut_commitFrame
    | with_reducible apply State_modMchan_commitFrame
    | with_reducible refine CommitFrame.pair (by with_reducible assumption) ?_
    | with_reducible apply CommitFrame.ite
    | with_reducible apply CommitFrame.iteP
    | with_reducible apply CommitFrame.foldl
    | with_reducible apply CommitFrame.foldlP
    | intro _

theorem markLines_commitFrame {a : State} (s : State) (n : Nat) (old : Region) (h : CommitFrame a s) : CommitFrame a (markLines s n old) := by
  unfold markLines
  try dsimp only
  repeat' first
    | with_reducible assumption
    | with_reducible apply drainArea_commitFrame
    | with_reducible apply dramPut_commitFrame
    | with_reducible apply State_modMchan_commitFrame
    | with_reducible refine CommitFrame.pair (by with_reducible assumption) ?_
    | with_reducible apply CommitFrame.ite
    | with_reducible apply CommitFrame.iteP
    | with_reducible apply CommitFrame.foldl
    | with_reducible apply CommitFrame.foldlP
    | intro _

theorem clearRoots_commitFrame {a : State} (s : State) (t_ : Nat) (h : CommitFrame a s) : CommitFrame a (clearRoots s t_) := by
  unfold clearRoots
  try dsimp only
  repeat' first
    | with_reducible assumption
    | with_reducible apply setRoot_commitFrame
    | with_reducible refine CommitFrame.pair (by with_reducible assumption) ?_
    | with_reducible apply CommitFrame.ite
    | with_reducible apply CommitFrame.iteP
    | with_reducible apply CommitFrame.foldl
    | with_reducible apply CommitFrame.foldlP
    | intro _

theorem initRegion_commitFrame {a : State} (s : State) (n : Nat) (h : CommitFrame a s) : CommitFrame a (initRegion s n) := by
  unfold initRegion
  try dsimp only
  repeat' first
    | with_reducible assumption
    | with_reducible apply State_modRegion_commitFrame
    | with_reducible apply clearRoots_commitFrame
    | with_reducible refine CommitFrame.pair (by with_reducible assumption) ?_
    | with_reducible apply CommitFrame.ite
    | with_reducible apply CommitFrame.iteP
    | with_reducible apply CommitFrame.foldl
    | with_reducible apply CommitFrame.foldlP
    | intro _
    | split
    | (simp only [CommitFrame_mk]; with_reducible apply CommitFrameParts.of)

theorem commitRegion_commitFrame {a : State} (s : State) (c : Nat × Region) (h : CommitFrame a s) : CommitFrame a (commitRegion s c) := by
  unfold commitRegion
  try dsimp only
  repeat' first
    | with_reducible assumption
    | with_reducible apply State_evt_commitFrame
    | with_reducible apply State_putStf_commitFrame
    | with_reducible apply markLines_commitFrame
    | with_reducible apply State_modRegion_commitFrame
    | with_reducible apply initRegion_commitFrame
    | with_reducible refine CommitFrame.pair (by with_reducible assumption) ?_
    | with_reducible apply CommitFrame.ite
    | with_reducible apply CommitFrame.iteP
    | with_reducible apply CommitFrame.foldl
    | with_reducible apply CommitFrame.foldlP
    | intro _

theorem commitKid_commitFrame {a : State} (s : State) (c : Nat × KidEntry) (h : CommitFrame a s) : CommitFrame a (commitKid s c) := by
  unfold commitKid
  try dsimp only
  repeat' first
    | with_reducible assumption
    | with_reducible apply State_putSt_commitFrame
    | with_reducible apply State_evt_commitFrame
    | with_reducible apply State_putStf_commitFrame
    | with_reducible refine CommitFrame.pair (by with_reducible assumption) ?_
    | with_reducible apply CommitFrame.ite
    | with_reducible apply CommitFrame.iteP
    | with_reducible apply CommitFrame.foldl
    | with_reducible apply CommitFrame.foldlP
    | intro _
    | split
    | (simp only [CommitFrame_mk]; with_reducible apply CommitFrameParts.of)

theorem commitMemTables_commitFrame {a : State} (s : State) (h : CommitFrame a s) : CommitFrame a (commitMemTables s) := by
  unfold commitMemTables
  try dsimp only
  repeat' first
    | with_reducible assumption
    | with_reducible apply settleAll_commitFrame
    | with_reducible apply commitTree_commitFrame
    | with_reducible apply commitRegion_commitFrame
    | with_reducible apply commitKid_commitFrame
    | with_reducible refine CommitFrame.pair (by with_reducible assumption) ?_
    | with_reducible apply CommitFrame.ite
    | with_reducible apply CommitFrame.iteP
    | with_reducible apply CommitFrame.foldl
    | with_reducible apply CommitFrame.foldlP
    | intro _
    | split
    | (simp only [CommitFrame_mk]; with_reducible apply CommitFrameParts.of)

theorem linkReturn_commitFrame {a : State} (s : State) (p : Nat) (h : CommitFrame a s) : CommitFrame a (linkReturn s p) := by
  unfold linkReturn
  try dsimp only
  repeat' first
    | with_reducible assumption
    | with_reducible apply State_modPath_commitFrame
    | with_reducible apply becomeUp_commitFrame
    | with_reducible refine CommitFrame.pair (by with_reducible assumption) ?_
    | with_reducible apply CommitFrame.ite
    | with_reducible apply CommitFrame.iteP
    | with_reducible apply CommitFrame.foldl
    | with_reducible apply CommitFrame.foldlP
    | intro _

theorem retireEntry_commitFrame {a : State} (s : State) (p : Nat) (tx : Bool) (e_ : Nat) (h : CommitFrame a s)
    : CommitFrame a (retireEntry s p tx e_) := by
  unfold retireEntry
  try dsimp only
  repeat' first
    | with_reducible assumption
    | with_reducible apply State_modSecy_commitFrame
    | with_reducible apply State_modRxsc_commitFrame
    | with_reducible apply State_modSae_commitFrame
    | with_reducible refine CommitFrame.pair (by with_reducible assumption) ?_
    | with_reducible apply CommitFrame.ite
    | with_reducible apply CommitFrame.iteP
    | with_reducible apply CommitFrame.foldl
    | with_reducible apply CommitFrame.foldlP
    | intro _
    | split

theorem retireSc_commitFrame {a : State} (s : State) (p : Nat) (tx : Bool) (ans : List (Option Nat)) (h : CommitFrame a s)
    : CommitFrame a (retireSc s p tx ans) := by
  unfold retireSc
  try dsimp only
  repeat' first
    | with_reducible assumption
    | with_reducible apply retireEntry_commitFrame
    | with_reducible refine CommitFrame.pair (by with_reducible assumption) ?_
    | with_reducible apply CommitFrame.ite
    | with_reducible apply CommitFrame.iteP
    | with_reducible apply CommitFrame.foldl
    | with_reducible apply CommitFrame.foldlP
    | intro _
    | split

theorem commitTxsc_commitFrame {a : State} (s : State) (p : Nat) (d : Bytes) (h : CommitFrame a s) : CommitFrame a (commitTxsc s p d).1 := by
  unfold commitTxsc
  try dsimp only
  repeat' first
    | with_reducible assumption
    | with_reducible apply retireSc_commitFrame
    | with_reducible apply State_modSecy_commitFrame
    | with_reducible refine CommitFrame.pair (by with_reducible assumption) ?_
    | with_reducible apply CommitFrame.ite
    | with_reducible apply CommitFrame.iteP
    | with_reducible apply CommitFrame.foldl
    | with_reducible apply CommitFrame.foldlP
    | intro _

theorem commitRxsc_commitFrame {a : State} (s : State) (p : Nat) (d : Bytes) (h : CommitFrame a s) : CommitFrame a (commitRxsc s p d).1 := by
  unfold commitRxsc
  try dsimp only
  repeat' first
    | with_reducible assumption
    | with_reducible apply retireSc_commitFrame
    | with_reducible apply State_modRxsc_commitFrame
    | with_reducible refine CommitFrame.pair (by with_reducible assumption) ?_
    | with_reducible apply CommitFrame.ite
    | with_reducible apply CommitFrame.iteP
    | with_reducible apply CommitFrame.foldl
    | with_reducible apply CommitFrame.foldlP
    | intro _

theorem commitInstall_commitFrame {a : State} (s : State) (p : Nat) (tx : Bool) (r : KeyRef) (d : Bytes) (h : CommitFrame a s)
    : CommitFrame a (commitInstall s p tx r d).1 := by
  unfold commitInstall
  try dsimp only
  repeat' first
    | with_reducible assumption
    | with_reducible apply State_drew_commitFrame
    | with_reducible apply State_modSae_commitFrame
    | with_reducible refine CommitFrame.pair (by with_reducible assumption) ?_
    | with_reducible apply CommitFrame.ite
    | with_reducible apply CommitFrame.iteP
    | with_reducible apply CommitFrame.foldl
    | with_reducible apply CommitFrame.foldlP
    | intro _

theorem commitActivate_commitFrame {a : State} (s : State) (p : Nat) (tx : Bool) (d : Bytes) (h : CommitFrame a s)
    : CommitFrame a (commitActivate s p tx d).1 := by
  unfold commitActivate
  try dsimp only
  repeat' first
    | with_reducible assumption
    | with_reducible apply State_modSae_commitFrame
    | with_reducible apply State_modSecy_commitFrame
    | with_reducible apply State_modRxsc_commitFrame
    | with_reducible refine CommitFrame.pair (by with_reducible assumption) ?_
    | with_reducible apply CommitFrame.ite
    | with_reducible apply CommitFrame.iteP
    | with_reducible apply CommitFrame.foldl
    | with_reducible apply CommitFrame.foldlP
    | intro _
    | split

theorem commitLinkOne_commitFrame {a : State} (s : State) (c : LinkChange) (r : KeyRef) (d : Bytes) (h : CommitFrame a s)
    : CommitFrame a (commitLinkOne s c r d).1 := by
  unfold commitLinkOne
  try dsimp only
  repeat' first
    | with_reducible assumption
    | with_reducible apply commitTxsc_commitFrame
    | with_reducible apply commitRxsc_commitFrame
    | with_reducible apply commitInstall_commitFrame
    | with_reducible apply commitActivate_commitFrame
    | with_reducible apply retireEntry_commitFrame
    | with_reducible apply State_modSae_commitFrame
    | with_reducible refine CommitFrame.pair (by with_reducible assumption) ?_
    | with_reducible apply CommitFrame.ite
    | with_reducible apply CommitFrame.iteP
    | with_reducible apply CommitFrame.foldl
    | with_reducible apply CommitFrame.foldlP
    | intro _
    | split

theorem commitLinkPath_commitFrame {a : State} (s : State) (p : Nat) (h : CommitFrame a s) : CommitFrame a (commitLinkPath s p) := by
  unfold commitLinkPath
  try dsimp only
  repeat' first
    | with_reducible assumption
    | with_reducible apply commitLinkOne_commitFrame
    | with_reducible apply finish_commitFrame
    | with_reducible refine CommitFrame.pair (by with_reducible assumption) ?_
    | with_reducible apply CommitFrame.ite
    | with_reducible apply CommitFrame.iteP
    | with_reducible apply CommitFrame.foldl
    | with_reducible apply CommitFrame.foldlP
    | intro _
    | split

theorem commitLink_commitFrame {a : State} (s : State) (h : CommitFrame a s) : CommitFrame a (commitLink s) := by
  unfold commitLink
  try dsimp only
  repeat' first
    | with_reducible assumption
    | with_reducible apply linkReturn_commitFrame
    | with_reducible apply commitLinkPath_commitFrame
    | with_reducible refine CommitFrame.pair (by with_reducible assumption) ?_
    | with_reducible apply CommitFrame.ite
    | with_reducible apply CommitFrame.iteP
    | with_reducible apply CommitFrame.foldl
    | with_reducible apply CommitFrame.foldlP
    | intro _
    | split
    | (simp only [CommitFrame_mk]; with_reducible apply CommitFrameParts.of)

theorem rebuildEnd_commitFrame {a : State} (s : State) (j : Nat) (h : CommitFrame a s) : CommitFrame a (rebuildEnd s j) := by
  unfold rebuildEnd
  try dsimp only
  repeat' first
    | with_reducible assumption
    | with_reducible apply dropMeta_commitFrame
    | with_reducible apply State_evt_commitFrame
    | with_reducible apply State_modJob_commitFrame
    | with_reducible apply initRegion_commitFrame
    | with_reducible refine CommitFrame.pair (by with_reducible assumption) ?_
    | with_reducible apply CommitFrame.ite
    | with_reducible apply CommitFrame.iteP
    | with_reducible apply CommitFrame.foldl
    | with_reducible apply CommitFrame.foldlP
    | intro _
    | split
    | (simp only [CommitFrame_mk]; with_reducible apply CommitFrameParts.of)

theorem jobCalends_commitFrame {a : State} (s : State) (j : Nat) (h : CommitFrame a s) : CommitFrame a (jobCalends s j) := by
  unfold jobCalends
  try dsimp only
  repeat' first
    | with_reducible assumption
    | with_reducible apply State_evt_commitFrame
    | with_reducible apply State_modJob_commitFrame
    | with_reducible apply State_modRegion_commitFrame
    | with_reducible apply rebuildEnd_commitFrame
    | with_reducible refine CommitFrame.pair (by with_reducible assumption) ?_
    | with_reducible apply CommitFrame.ite
    | with_reducible apply CommitFrame.iteP
    | with_reducible apply CommitFrame.foldl
    | with_reducible apply CommitFrame.foldlP
    | intro _
    | split
    | (simp only [CommitFrame_mk]; with_reducible apply CommitFrameParts.of)

theorem commitJob_commitFrame {a : State} (s : State) (c : Nat × Job) (h : CommitFrame a s) : CommitFrame a (commitJob s c) := by
  unfold commitJob
  try dsimp only
  repeat' first
    | with_reducible assumption
    | with_reducible apply State_evt_commitFrame
    | with_reducible apply State_modJob_commitFrame
    | with_reducible apply State_modRegion_commitFrame
    | with_reducible refine CommitFrame.pair (by with_reducible assumption) ?_
    | with_reducible apply CommitFrame.ite
    | with_reducible apply CommitFrame.iteP
    | with_reducible apply CommitFrame.foldl
    | with_reducible apply CommitFrame.foldlP
    | intro _
    | split
    | (simp only [CommitFrame_mk]; with_reducible apply CommitFrameParts.of)

theorem commitEquinox_commitFrame {a : State} (s : State) (h : CommitFrame a s) : CommitFrame a (commitEquinox s) := by
  unfold commitEquinox
  try dsimp only
  repeat' first
    | with_reducible assumption
    | with_reducible apply settleAll_commitFrame
    | with_reducible apply jobCalends_commitFrame
    | with_reducible apply commitJob_commitFrame
    | with_reducible refine CommitFrame.pair (by with_reducible assumption) ?_
    | with_reducible apply CommitFrame.ite
    | with_reducible apply CommitFrame.iteP
    | with_reducible apply CommitFrame.foldl
    | with_reducible apply CommitFrame.foldlP
    | intro _
    | split
    | (simp only [CommitFrame_mk]; with_reducible apply CommitFrameParts.of)

theorem commitProfile_commitFrame {a : State} (s : State) (h : CommitFrame a s) : CommitFrame a (commitProfile s) := by
  unfold commitProfile
  try dsimp only
  repeat' first
    | with_reducible assumption
    | with_reducible apply State_evt_commitFrame
    | with_reducible apply State_modLg_commitFrame
    | with_reducible refine CommitFrame.pair (by with_reducible assumption) ?_
    | with_reducible apply CommitFrame.ite
    | with_reducible apply CommitFrame.iteP
    | with_reducible apply CommitFrame.foldl
    | with_reducible apply CommitFrame.foldlP
    | intro _
    | split

theorem ownedConvs_commitFrame {a : State} (s : State) (h : CommitFrame a s) : CommitFrame a (ownedConvs s) := by
  unfold ownedConvs
  try dsimp only
  repeat' first
    | with_reducible assumption
    | with_reducible apply endConv_commitFrame
    | with_reducible apply stopEngines_commitFrame
    | with_reducible refine CommitFrame.pair (by with_reducible assumption) ?_
    | with_reducible apply CommitFrame.ite
    | with_reducible apply CommitFrame.iteP
    | with_reducible apply CommitFrame.foldl
    | with_reducible apply CommitFrame.foldlP
    | intro _

theorem dropEntries_commitFrame {a : State} (s : State) (lo : Nat) (hi : Nat) (h : CommitFrame a s) : CommitFrame a (dropEntries s lo hi) := by
  unfold dropEntries
  try dsimp only
  repeat' first
    | with_reducible assumption
    | with_reducible apply almWrite_commitFrame
    | with_reducible refine CommitFrame.pair (by with_reducible assumption) ?_
    | with_reducible apply CommitFrame.ite
    | with_reducible apply CommitFrame.iteP
    | with_reducible apply CommitFrame.foldl
    | with_reducible apply CommitFrame.foldlP
    | intro _

theorem krApply_commitFrame {a : State} (s : State) (now : Nat) (h : CommitFrame a s) : CommitFrame a (krApply s now) := by
  unfold krApply
  try dsimp only
  repeat' first
    | with_reducible assumption
    | with_reducible apply dropEntries_commitFrame
    | with_reducible apply State_modKr_commitFrame
    | with_reducible apply State_logPut_commitFrame
    | with_reducible apply State_evt_commitFrame
    | with_reducible apply State_inc_commitFrame
    | with_reducible apply State_putStf_commitFrame
    | with_reducible apply assignDone_commitFrame
    | with_reducible refine CommitFrame.pair (by with_reducible assumption) ?_
    | with_reducible apply CommitFrame.ite
    | with_reducible apply CommitFrame.iteP
    | with_reducible apply CommitFrame.foldl
    | with_reducible apply CommitFrame.foldlP
    | intro _
    | split

theorem commitStaged_commitFrame {a : State} (s : State) (ends : Bool) (h : CommitFrame a s) : CommitFrame a (commitStaged s ends) := by
  unfold commitStaged
  try dsimp only
  repeat' first
    | with_reducible assumption
    | with_reducible apply commitRoles_commitFrame
    | with_reducible apply commitKeys_commitFrame
    | with_reducible apply nmsCommitted_commitFrame
    | with_reducible apply commitUcode_commitFrame
    | with_reducible apply commitImage_commitFrame
    | with_reducible apply commitAlm_commitFrame
    | with_reducible apply commitMemTables_commitFrame
    | with_reducible apply commitLink_commitFrame
    | with_reducible apply commitEquinox_commitFrame
    | with_reducible apply commitProfile_commitFrame
    | with_reducible apply ownedConvs_commitFrame
    | with_reducible apply krApply_commitFrame

end Sys2Proof.Machine
end

