-- ==== Sys2Proof/Laws/MemFrame.lean ====
section
/-! SUPPORT. What an access of the SX4 to memory through the memory port leaves as it was: every field but those of the memory
channels, their keys, the counters and the log. -/

namespace Sys2Proof.Machine

/-- An operation keeps these fields. -/
structure MemFrame (s t : State) : Prop where
  pending : t.pending = s.pending
  host : t.host = s.host
  tick : t.tick = s.tick
  rings : t.rings = s.rings
  fuses : t.fuses = s.fuses
  part : t.part = s.part
  boot : t.boot = s.boot
  link : t.link = s.link
  portHeld : t.portHeld = s.portHeld
  lateWr : t.lateWr = s.lateWr
  flash : t.flash = s.flash
  nodes : t.nodes = s.nodes
  ledger : t.ledger = s.ledger
  conv : t.conv = s.conv
  krysa : t.krysa = s.krysa
  nms : t.nms = s.nms
  vigil : t.vigil = s.vigil
  flt : t.flt = s.flt
  sleep : t.sleep = s.sleep
  tap : t.tap = s.tap

theorem MemFrame.refl (s : State) : MemFrame s s := ⟨rfl, rfl, rfl, rfl, rfl, rfl, rfl, rfl, rfl, rfl, rfl, rfl, rfl, rfl, rfl, rfl, rfl, rfl, rfl, rfl⟩
theorem MemFrame.trans {a b c : State} (x : MemFrame a b) (y : MemFrame b c) : MemFrame a c :=
  ⟨y.pending.trans x.pending, y.host.trans x.host, y.tick.trans x.tick, y.rings.trans x.rings, y.fuses.trans x.fuses, y.part.trans x.part, y.boot.trans x.boot, y.link.trans x.link, y.portHeld.trans x.portHeld, y.lateWr.trans x.lateWr, y.flash.trans x.flash, y.nodes.trans x.nodes, y.ledger.trans x.ledger, y.conv.trans x.conv, y.krysa.trans x.krysa, y.nms.trans x.nms, y.vigil.trans x.vigil, y.flt.trans x.flt, y.sleep.trans x.sleep, y.tap.trans x.tap⟩
/-- The state of a pair. -/
theorem MemFrame.pair {β : Type} {a s : State} {p : State × β} {x : β} (e : p = (s, x)) (h : MemFrame a p.1) : MemFrame a s := by
  rw [e] at h; exact h
/-- Both branches. -/
theorem MemFrame.ite {a x y : State} {p : Prop} [Decidable p] (h1 : p → MemFrame a x) (h2 : ¬p → MemFrame a y) : MemFrame a (if p then x else y) := by
  split
  · exact h1 ‹_›
  · exact h2 ‹_›
/-- Both branches of a pair. -/
theorem MemFrame.iteP {β : Type} {a : State} {x y : State × β} {p : Prop} [Decidable p] (h1 : p → MemFrame a x.1) (h2 : ¬p → MemFrame a y.1) :
    MemFrame a (if p then x else y).1 := by
  split
  · exact h1 ‹_›
  · exact h2 ‹_›
/-- A loop. -/
theorem MemFrame.foldl {β : Type} {a : State} {f : State → β → State} (l : List β) {s : State} (h : MemFrame a s)
    (k : ∀ t x, MemFrame a t → MemFrame a (f t x)) : MemFrame a (l.foldl f s) := by
  induction l generalizing s with
  | nil => exact h
  | cons x l ih => exact ih (k s x h)
/-- A loop that carries more than the state. -/
theorem MemFrame.foldlP {β γ : Type} {a : State} {f : State × γ → β → State × γ} (l : List β) {p : State × γ} (h : MemFrame a p.1)
    (k : ∀ q x, MemFrame a q.1 → MemFrame a (f q x).1) : MemFrame a (l.foldl f p).1 := by
  induction l generalizing p with
  | nil => exact h
  | cons x l ih => exact ih (k p x h)
/-- `MemFrame` by the fields. -/
structure MemFrameParts (a : State) (pending_ : List Instr) (host_ : HostPort) (tick_ : Tick) (rings_ : Tab Ring) (fuses_ : Fuses) (part_ : Part) (boot_ : Boot) (link_ : Link) (portHeld_ : List Instr) (lateWr_ : List (Nat × Nat)) (flash_ : Flash) (nodes_ : Nodes) (ledger_ : Ledger) (conv_ : Convs) (krysa_ : Krysa) (nms_ : Nms) (vigil_ : Vigil) (flt_ : Flt) (sleep_ : Sleep) (tap_ : TapPort) : Prop where
  pending : pending_ = a.pending
  host : host_ = a.host
  tick : tick_ = a.tick
  rings : rings_ = a.rings
  fuses : fuses_ = a.fuses
  part : part_ = a.part
  boot : boot_ = a.boot
  link : link_ = a.link
  portHeld : portHeld_ = a.portHeld
  lateWr : lateWr_ = a.lateWr
  flash : flash_ = a.flash
  nodes : nodes_ = a.nodes
  ledger : ledger_ = a.ledger
  conv : conv_ = a.conv
  krysa : krysa_ = a.krysa
  nms : nms_ = a.nms
  vigil : vigil_ = a.vigil
  flt : flt_ = a.flt
  sleep : sleep_ = a.sleep
  tap : tap_ = a.tap
theorem MemFrameParts.of {a x : State} (h : MemFrame a x) : MemFrameParts a x.pending x.host x.tick x.rings x.fuses x.part x.boot x.link x.portHeld x.lateWr x.flash x.nodes x.ledger x.conv x.krysa x.nms x.vigil x.flt x.sleep x.tap := ⟨h.pending, h.host, h.tick, h.rings, h.fuses, h.part, h.boot, h.link, h.portHeld, h.lateWr, h.flash, h.nodes, h.ledger, h.conv, h.krysa, h.nms, h.vigil, h.flt, h.sleep, h.tap⟩
/-- The lemma for a record update. -/
theorem MemFrame_mk {a : State}
    {pending_} {regs_} {host_} {tick_} {rings_} {vault_} {fuses_} {ch_} {part_} {boot_} {jf_} {mem_} {link_}
    {portHeld_} {lateWr_} {flash_} {log_} {nodes_} {alm_} {ledger_} {conv_} {krysa_} {nms_} {vigil_} {flt_} {sleep_}
    {tap_} {dram_} {dmErr_} {drbg_} {seq_} {outs_} :
    MemFrame a {
      pending := pending_, regs := regs_, host := host_, tick := tick_, rings := rings_, vault := vault_,
      fuses := fuses_, ch := ch_, part := part_, boot := boot_, jf := jf_, mem := mem_, link := link_,
      portHeld := portHeld_, lateWr := lateWr_, flash := flash_, log := log_, nodes := nodes_, alm := alm_,
      ledger := ledger_, conv := conv_, krysa := krysa_, nms := nms_, vigil := vigil_, flt := flt_, sleep := sleep_,
      tap := tap_, dram := dram_, dmErr := dmErr_, drbg := drbg_, seq := seq_, outs := outs_ } ↔ MemFrameParts a pending_ host_ tick_ rings_ fuses_ part_ boot_ link_ portHeld_ lateWr_ flash_ nodes_ ledger_ conv_ krysa_ nms_ vigil_ flt_ sleep_ tap_ :=
  ⟨fun h => ⟨h.pending, h.host, h.tick, h.rings, h.fuses, h.part, h.boot, h.link, h.portHeld, h.lateWr, h.flash, h.nodes, h.ledger, h.conv, h.krysa, h.nms, h.vigil, h.flt, h.sleep, h.tap⟩, fun h => ⟨h.pending, h.host, h.tick, h.rings, h.fuses, h.part, h.boot, h.link, h.portHeld, h.lateWr, h.flash, h.nodes, h.ledger, h.conv, h.krysa, h.nms, h.vigil, h.flt, h.sleep, h.tap⟩⟩

theorem State_drew_memFrame {a : State} (s : State) (n : Nat) (h : MemFrame a s) : MemFrame a (State.drew s n) := by
  unfold State.drew
  try dsimp only
  repeat' first
    | with_reducible assumption
    | with_reducible refine MemFrame.pair (by with_reducible assumption) ?_
    | with_reducible apply MemFrame.ite
    | with_reducible apply MemFrame.iteP
    | with_reducible apply MemFrame.foldl
    | with_reducible apply MemFrame.foldlP
    | intro _
    | split
    | (simp only [MemFrame_mk]; with_reducible apply MemFrameParts.of)

theorem State_emit_memFrame {a : State} (s : State) (o : Out) (h : MemFrame a s) : MemFrame a (State.emit s o) := by
  unfold State.emit
  try dsimp only
  repeat' first
    | with_reducible assumption
    | with_reducible refine MemFrame.pair (by with_reducible assumption) ?_
    | with_reducible apply MemFrame.ite
    | with_reducible apply MemFrame.iteP
    | with_reducible apply MemFrame.foldl
    | with_reducible apply MemFrame.foldlP
    | intro _
    | split
    | (simp only [MemFrame_mk]; with_reducible apply MemFrameParts.of)

theorem State_putWr_memFrame {a : State} (s : State) (off : Nat) (v : Nat) (h : MemFrame a s) : MemFrame a (State.putWr s off v) := by
  unfold State.putWr
  try dsimp only
  repeat' first
    | with_reducible assumption
    | with_reducible refine MemFrame.pair (by with_reducible assumption) ?_
    | with_reducible apply MemFrame.ite
    | with_reducible apply MemFrame.iteP
    | with_reducible apply MemFrame.foldl
    | with_reducible apply MemFrame.foldlP
    | intro _
    | split
    | (simp only [MemFrame_mk]; with_reducible apply MemFrameParts.of)

theorem State_evt_memFrame {a : State} (s : State) (off : Nat) (n : Nat) (h : MemFrame a s) : MemFrame a (State.evt s off n) := by
  unfold State.evt
  try dsimp only
  repeat' first
    | with_reducible assumption
    | with_reducible apply State_putWr_memFrame

theorem State_putSt_memFrame {a : State} (s : State) (off : Nat) (v : Nat) (h : MemFrame a s) : MemFrame a (State.putSt s off v) := by
  unfold State.putSt
  try dsimp only
  repeat' first
    | with_reducible assumption
    | with_reducible refine MemFrame.pair (by with_reducible assumption) ?_
    | with_reducible apply MemFrame.ite
    | with_reducible apply MemFrame.iteP
    | with_reducible apply MemFrame.foldl
    | with_reducible apply MemFrame.foldlP
    | intro _
    | split
    | (simp only [MemFrame_mk]; with_reducible apply MemFrameParts.of)

theorem State_putStf_memFrame {a : State} (s : State) (off : Nat) (hi : Nat) (lo : Nat) (v : Nat) (h : MemFrame a s)
    : MemFrame a (State.putStf s off hi lo v) := by
  unfold State.putStf
  try dsimp only
  repeat' first
    | with_reducible assumption
    | with_reducible apply State_putSt_memFrame

theorem State_inc_memFrame {a : State} (s : State) (off : Nat) (hi : Nat) (lo : Nat) (h : MemFrame a s)
    : MemFrame a (State.inc s off hi lo) := by
  unfold State.inc
  try dsimp only
  repeat' first
    | with_reducible assumption
    | with_reducible apply State_putStf_memFrame

theorem State_modSlot_memFrame {a : State} (s : State) (n : Nat) (f : Slot → Slot) (h : MemFrame a s)
    : MemFrame a (State.modSlot s n f) := by
  unfold State.modSlot
  try dsimp only
  repeat' first
    | with_reducible assumption
    | with_reducible refine MemFrame.pair (by with_reducible assumption) ?_
    | with_reducible apply MemFrame.ite
    | with_reducible apply MemFrame.iteP
    | with_reducible apply MemFrame.foldl
    | with_reducible apply MemFrame.foldlP
    | intro _
    | split
    | (simp only [MemFrame_mk]; with_reducible apply MemFrameParts.of)

theorem recDurable_memFrame {a : State} (s : State) (r : JRec) (h : MemFrame a s) : MemFrame a (recDurable s r) := by
  unfold recDurable
  try dsimp only
  repeat' first
    | with_reducible assumption
    | with_reducible apply State_modSlot_memFrame
    | with_reducible refine MemFrame.pair (by with_reducible assumption) ?_
    | with_reducible apply MemFrame.ite
    | with_reducible apply MemFrame.iteP
    | with_reducible apply MemFrame.foldl
    | with_reducible apply MemFrame.foldlP
    | intro _
    | split
    | (simp only [MemFrame_mk]; with_reducible apply MemFrameParts.of)

theorem State_jPut_memFrame {a : State} (s : State) (r : JRec) (h : MemFrame a s) : MemFrame a (State.jPut s r) := by
  unfold State.jPut
  try dsimp only
  repeat' first
    | with_reducible assumption
    | with_reducible apply recDurable_memFrame
    | with_reducible apply State_inc_memFrame
    | with_reducible refine MemFrame.pair (by with_reducible assumption) ?_
    | with_reducible apply MemFrame.ite
    | with_reducible apply MemFrame.iteP
    | with_reducible apply MemFrame.foldl
    | with_reducible apply MemFrame.foldlP
    | intro _
    | split
    | (simp only [MemFrame_mk]; with_reducible apply MemFrameParts.of)

theorem State_logLose_memFrame {a : State} (s : State) (h : MemFrame a s) : MemFrame a (State.logLose s) := by
  unfold State.logLose
  try dsimp only
  repeat' first
    | with_reducible assumption
    | with_reducible apply State_putWr_memFrame
    | with_reducible refine MemFrame.pair (by with_reducible assumption) ?_
    | with_reducible apply MemFrame.ite
    | with_reducible apply MemFrame.iteP
    | with_reducible apply MemFrame.foldl
    | with_reducible apply MemFrame.foldlP
    | intro _
    | split
    | (simp only [MemFrame_mk]; with_reducible apply MemFrameParts.of)

theorem State_logStore_memFrame {a : State} (s : State) (ev : Nat) (cls : Nat) (data : Bytes) (h : MemFrame a s)
    : MemFrame a (State.logStore s ev cls data) := by
  unfold State.logStore
  try dsimp only
  repeat' first
    | with_reducible assumption
    | with_reducible apply State_putWr_memFrame
    | with_reducible refine MemFrame.pair (by with_reducible assumption) ?_
    | with_reducible apply MemFrame.ite
    | with_reducible apply MemFrame.iteP
    | with_reducible apply MemFrame.foldl
    | with_reducible apply MemFrame.foldlP
    | intro _
    | split
    | (simp only [MemFrame_mk]; with_reducible apply MemFrameParts.of)

theorem State_logPut_memFrame {a : State} (s : State) (ev : Nat) (cls : Nat) (data : Bytes) (h : MemFrame a s)
    : MemFrame a (State.logPut s ev cls data) := by
  unfold State.logPut
  try dsimp only
  repeat' first
    | with_reducible assumption
    | with_reducible apply State_logLose_memFrame
    | with_reducible apply State_logStore_memFrame
    | with_reducible refine MemFrame.pair (by with_reducible assumption) ?_
    | with_reducible apply MemFrame.ite
    | with_reducible apply MemFrame.iteP
    | with_reducible apply MemFrame.foldl
    | with_reducible apply MemFrame.foldlP
    | intro _
    | split
    | (simp only [MemFrame_mk]; with_reducible apply MemFrameParts.of)

theorem State_modChan_memFrame {a : State} (s : State) (n : Nat) (f : Chan → Chan) (h : MemFrame a s)
    : MemFrame a (State.modChan s n f) := by
  unfold State.modChan
  try dsimp only
  repeat' first
    | with_reducible assumption
    | with_reducible refine MemFrame.pair (by with_reducible assumption) ?_
    | with_reducible apply MemFrame.ite
    | with_reducible apply MemFrame.iteP
    | with_reducible apply MemFrame.foldl
    | with_reducible apply MemFrame.foldlP
    | intro _
    | split
    | (simp only [MemFrame_mk]; with_reducible apply MemFrameParts.of)

theorem State_modJob_memFrame {a : State} (s : State) (j : Nat) (f : Job → Job) (h : MemFrame a s) : MemFrame a (State.modJob s j f) := by
  unfold State.modJob
  try dsimp only
  repeat' first
    | with_reducible assumption
    | with_reducible refine MemFrame.pair (by with_reducible assumption) ?_
    | with_reducible apply MemFrame.ite
    | with_reducible apply MemFrame.iteP
    | with_reducible apply MemFrame.foldl
    | with_reducible apply MemFrame.foldlP
    | intro _
    | split
    | (simp only [MemFrame_mk]; with_reducible apply MemFrameParts.of)

theorem State_modMchan_memFrame {a : State} (s : State) (n : Nat) (f : MemChan → MemChan) (h : MemFrame a s)
    : MemFrame a (State.modMchan s n f) := by
  unfold State.modMchan
  try dsimp only
  repeat' first
    | with_reducible assumption
    | with_reducible refine MemFrame.pair (by with_reducible assumption) ?_
    | with_reducible apply MemFrame.ite
    | with_reducible apply MemFrame.iteP
    | with_reducible apply MemFrame.foldl
    | with_reducible apply MemFrame.foldlP
    | intro _
    | split
    | (simp only [MemFrame_mk]; with_reducible apply MemFrameParts.of)

theorem State_modRegion_memFrame {a : State} (s : State) (n : Nat) (f : Region → Region) (h : MemFrame a s)
    : MemFrame a (State.modRegion s n f) := by
  unfold State.modRegion
  try dsimp only
  repeat' first
    | with_reducible assumption
    | with_reducible refine MemFrame.pair (by with_reducible assumption) ?_
    | with_reducible apply MemFrame.ite
    | with_reducible apply MemFrame.iteP
    | with_reducible apply MemFrame.foldl
    | with_reducible apply MemFrame.foldlP
    | intro _
    | split
    | (simp only [MemFrame_mk]; with_reducible apply MemFrameParts.of)

theorem dramPut_memFrame {a s : State} (h : MemFrame a s) (ad : Nat) (b : Bytes) : MemFrame a (dramPut s ad b) :=
  h.trans ⟨rfl, rfl, rfl, rfl, rfl, rfl, rfl, rfl, rfl, rfl, rfl, rfl, rfl, rfl, rfl, rfl, rfl, rfl, rfl, rfl⟩

theorem integEvent_memFrame {a : State} (s : State) (kind : Nat) (a_ : Nat) (n : Nat) (h : MemFrame a s)
    : MemFrame a (integEvent s kind a_ n) := by
  unfold integEvent
  try dsimp only
  repeat' first
    | with_reducible assumption
    | with_reducible apply State_logPut_memFrame
    | with_reducible apply State_putSt_memFrame

theorem partRefused_memFrame {a : State} (s : State) (t_ : Txn) (h : MemFrame a s) : MemFrame a (partRefused s t_).1 := by
  unfold partRefused
  try dsimp only
  repeat' first
    | with_reducible assumption
    | with_reducible apply integEvent_memFrame
    | with_reducible apply State_evt_memFrame
    | with_reducible apply State_inc_memFrame

theorem releaseMarked_memFrame {a : State} (s : State) (ch : Nat) (grp : Nat) (h : MemFrame a s) : MemFrame a (releaseMarked s ch grp) := by
  unfold releaseMarked
  try dsimp only
  repeat' first
    | with_reducible assumption
    | with_reducible apply State_modMchan_memFrame
    | with_reducible apply dramPut_memFrame
    | with_reducible refine MemFrame.pair (by with_reducible assumption) ?_
    | with_reducible apply MemFrame.ite
    | with_reducible apply MemFrame.iteP
    | with_reducible apply MemFrame.foldl
    | with_reducible apply MemFrame.foldlP
    | intro _
    | split

theorem touchLine_memFrame {a : State} (s : State) (ch : Nat) (grp : Nat) (f : CLine → CLine) (h : MemFrame a s)
    : MemFrame a (touchLine s ch grp f) := by
  unfold touchLine
  try dsimp only
  repeat' first
    | with_reducible assumption
    | with_reducible apply State_modMchan_memFrame
    | with_reducible refine MemFrame.pair (by with_reducible assumption) ?_
    | with_reducible apply MemFrame.ite
    | with_reducible apply MemFrame.iteP
    | with_reducible apply MemFrame.foldl
    | with_reducible apply MemFrame.foldlP
    | intro _
    | split

theorem touchNode_memFrame {a : State} (s : State) (ch : Nat) (t_ : Nat) (k : Nat) (i : Nat) (h_ : Nat)
    (f : TNode → TNode) (h : MemFrame a s) : MemFrame a (touchNode s ch t_ k i h_ f) := by
  unfold touchNode
  try dsimp only
  repeat' first
    | with_reducible assumption
    | with_reducible apply State_modMchan_memFrame
    | with_reducible refine MemFrame.pair (by with_reducible assumption) ?_
    | with_reducible apply MemFrame.ite
    | with_reducible apply MemFrame.iteP
    | with_reducible apply MemFrame.foldl
    | with_reducible apply MemFrame.foldlP
    | intro _
    | split

theorem dlvRefused_memFrame {a : State} (s : State) (h : MemFrame a s) : MemFrame a (dlvRefused s) := by
  unfold dlvRefused
  try dsimp only
  repeat' first
    | with_reducible assumption
    | with_reducible apply State_evt_memFrame
    | with_reducible apply State_inc_memFrame

theorem revalFail_memFrame {a : State} (s : State) (n : Nat) (slot : Nat) (h : MemFrame a s) : MemFrame a (revalFail s n slot) := by
  unfold revalFail
  try dsimp only
  repeat' first
    | with_reducible assumption
    | with_reducible apply State_inc_memFrame
    | with_reducible apply State_modChan_memFrame
    | with_reducible refine MemFrame.pair (by with_reducible assumption) ?_
    | with_reducible apply MemFrame.ite
    | with_reducible apply MemFrame.iteP
    | with_reducible apply MemFrame.foldl
    | with_reducible apply MemFrame.foldlP
    | intro _

theorem keyDenied_memFrame {a : State} (s : State) (st : Nat) (role : Nat) (n : Nat) (slot : Nat) (h : MemFrame a s)
    : MemFrame a (keyDenied s st role n slot) := by
  unfold keyDenied
  try dsimp only
  repeat' first
    | with_reducible assumption
    | with_reducible apply dlvRefused_memFrame
    | with_reducible apply revalFail_memFrame
    | with_reducible refine MemFrame.pair (by with_reducible assumption) ?_
    | with_reducible apply MemFrame.ite
    | with_reducible apply MemFrame.iteP
    | with_reducible apply MemFrame.foldl
    | with_reducible apply MemFrame.foldlP
    | intro _

theorem loadCopy_memFrame {a : State} {s : State} {n : Nat} {slot : Nat} {gen : Nat} {key : Bytes} {grant : Nat}
    {t : State} (e : loadCopy s n slot gen key grant = some t) (h : MemFrame a s) : MemFrame a t := by
  unfold loadCopy at e
  repeat' first | (injection e with e; subst e) | contradiction | split at e | (dsimp only at e)
  repeat' first
    | with_reducible assumption
    | with_reducible apply State_drew_memFrame
    | with_reducible apply State_modChan_memFrame

theorem queueKey_memFrame {a : State} (s : State) (n : Nat) (urgent : Bool) (h : MemFrame a s) : MemFrame a (queueKey s n urgent) := by
  unfold queueKey
  try dsimp only
  repeat' first
    | with_reducible assumption
    | with_reducible apply State_modSlot_memFrame
    | with_reducible apply State_jPut_memFrame
    | with_reducible refine MemFrame.pair (by with_reducible assumption) ?_
    | with_reducible apply MemFrame.ite
    | with_reducible apply MemFrame.iteP
    | with_reducible apply MemFrame.foldl
    | with_reducible apply MemFrame.foldlP
    | intro _

theorem persistAhead_memFrame {a : State} (s : State) (n : Nat) (h : MemFrame a s) : MemFrame a (persistAhead s n) := by
  unfold persistAhead
  try dsimp only
  repeat' first
    | with_reducible assumption
    | with_reducible apply queueKey_memFrame
    | with_reducible refine MemFrame.pair (by with_reducible assumption) ?_
    | with_reducible apply MemFrame.ite
    | with_reducible apply MemFrame.iteP
    | with_reducible apply MemFrame.foldl
    | with_reducible apply MemFrame.foldlP
    | intro _

theorem addUses_memFrame {a : State} (s : State) (n : Nat) (u : Nat) (h : MemFrame a s) : MemFrame a (addUses s n u) := by
  unfold addUses
  try dsimp only
  repeat' first
    | with_reducible assumption
    | with_reducible apply State_modSlot_memFrame
    | with_reducible apply persistAhead_memFrame
    | with_reducible apply State_evt_memFrame
    | with_reducible refine MemFrame.pair (by with_reducible assumption) ?_
    | with_reducible apply MemFrame.ite
    | with_reducible apply MemFrame.iteP
    | with_reducible apply MemFrame.foldl
    | with_reducible apply MemFrame.foldlP
    | intro _

theorem useCopy_memFrame {a : State} (s : State) (n slot u : Nat) (h : MemFrame a s) : MemFrame a (useCopy s n slot u).1 := by
  unfold useCopy
  dsimp only
  have hs : ∀ s1, (match findCopy (s.chan n).bank slot (s.slot slot).gen with
      | some _ => some (s.modChan n (fun c =>
          { c with bank := touchCopy c.bank slot (s.slot slot).gen (fun e => { e with epoch := s.vault.epoch }) }))
      | none => loadCopy s n slot (s.slot slot).gen (s.slot slot).key 0) = some s1 → MemFrame a s1 := by
    intro s1 e
    split at e
    · injection e with e; subst e; exact State_modChan_memFrame _ _ _ h
    · exact loadCopy_memFrame e h
  split
  · exact h
  · rename_i s1 e
    have h1 := hs s1 e
    repeat' first
      | with_reducible assumption
      | with_reducible apply MemFrame.iteP
      | with_reducible apply MemFrame.ite
      | with_reducible apply State_modChan_memFrame
      | with_reducible apply State_evt_memFrame
      | with_reducible apply addUses_memFrame
      | intro _

theorem lineKey_memFrame {a : State} (s : State) (n : Nat) (slot : Nat) (h : MemFrame a s) : MemFrame a (lineKey s n slot).1 := by
  unfold lineKey
  try dsimp only
  repeat' first
    | with_reducible assumption
    | with_reducible apply useCopy_memFrame
    | with_reducible refine MemFrame.pair (by with_reducible assumption) ?_
    | with_reducible apply MemFrame.ite
    | with_reducible apply MemFrame.iteP
    | with_reducible apply MemFrame.foldl
    | with_reducible apply MemFrame.foldlP
    | intro _
    | split

theorem memKey_memFrame {a : State} (s : State) (ch : Nat) (r : KeyRef) (data : Bool) (h : MemFrame a s)
    : MemFrame a (memKey s ch r data).1 := by
  unfold memKey
  try dsimp only
  repeat' first
    | with_reducible assumption
    | with_reducible apply keyDenied_memFrame
    | with_reducible apply lineKey_memFrame
    | with_reducible refine MemFrame.pair (by with_reducible assumption) ?_
    | with_reducible apply MemFrame.ite
    | with_reducible apply MemFrame.iteP
    | with_reducible apply MemFrame.foldl
    | with_reducible apply MemFrame.foldlP
    | intro _

theorem setRoot_memFrame {a : State} (s : State) (t_ : Nat) (h_ : Nat) (v : Nat) (h : MemFrame a s) : MemFrame a (setRoot s t_ h_ v) := by
  unfold setRoot
  try dsimp only
  repeat' first
    | with_reducible assumption
    | with_reducible refine MemFrame.pair (by with_reducible assumption) ?_
    | with_reducible apply MemFrame.ite
    | with_reducible apply MemFrame.iteP
    | with_reducible apply MemFrame.foldl
    | with_reducible apply MemFrame.foldlP
    | intro _
    | split
    | (simp only [MemFrame_mk]; with_reducible apply MemFrameParts.of)

theorem setChildSeal_memFrame {a : State} (s : State) (ch : Nat) (t_ : Nat) (k : Nat) (i : Nat) (h_ : Nat) (depth : Nat)
    (v : Nat) (h : MemFrame a s) : MemFrame a (setChildSeal s ch t_ k i h_ depth v) := by
  unfold setChildSeal
  try dsimp only
  repeat' first
    | with_reducible assumption
    | with_reducible apply setRoot_memFrame
    | with_reducible apply touchNode_memFrame
    | with_reducible refine MemFrame.pair (by with_reducible assumption) ?_
    | with_reducible apply MemFrame.ite
    | with_reducible apply MemFrame.iteP
    | with_reducible apply MemFrame.foldl
    | with_reducible apply MemFrame.foldlP
    | intro _

theorem countSubtree_memFrame {a : State} (s : State) (n : Nat) (a_ : Nat) (h : MemFrame a s) : MemFrame a (countSubtree s n a_) := by
  unfold countSubtree
  try dsimp only
  repeat' first
    | with_reducible assumption
    | with_reducible apply integEvent_memFrame
    | with_reducible apply State_inc_memFrame
    | with_reducible apply State_evt_memFrame
    | with_reducible apply State_modRegion_memFrame

theorem loseSubtree_memFrame {a : State} (s : State) (t_ : Nat) (h_ : Nat) (h : MemFrame a s) : MemFrame a (loseSubtree s t_ h_) := by
  unfold loseSubtree
  try dsimp only
  repeat' first
    | with_reducible assumption
    | with_reducible apply countSubtree_memFrame
    | with_reducible refine MemFrame.pair (by with_reducible assumption) ?_
    | with_reducible apply MemFrame.ite
    | with_reducible apply MemFrame.iteP
    | with_reducible apply MemFrame.foldl
    | with_reducible apply MemFrame.foldlP
    | intro _
    | split

theorem sealInto_memFrame {a : State} (s : State) (ch : Nat) (t_ : Nat) (k : Nat) (i : Nat) (h_ : Nat) (depth : Nat)
    (a_ : Nat) (b : Bytes) (h : MemFrame a s) : MemFrame a (sealInto s ch t_ k i h_ depth a_ b) := by
  unfold sealInto
  try dsimp only
  repeat' first
    | with_reducible assumption
    | with_reducible apply memKey_memFrame
    | with_reducible apply setChildSeal_memFrame
    | with_reducible apply loseSubtree_memFrame
    | with_reducible refine MemFrame.pair (by with_reducible assumption) ?_
    | with_reducible apply MemFrame.ite
    | with_reducible apply MemFrame.iteP
    | with_reducible apply MemFrame.foldl
    | with_reducible apply MemFrame.foldlP
    | intro _
    | split

theorem pushWb_memFrame {a : State} (s : State) (ch : Nat) (a_ : Nat) (b : Bytes) (h : MemFrame a s) : MemFrame a (pushWb s ch a_ b) := by
  unfold pushWb
  try dsimp only
  repeat' first
    | with_reducible assumption
    | with_reducible apply State_modMchan_memFrame
    | with_reducible apply dramPut_memFrame
    | with_reducible refine MemFrame.pair (by with_reducible assumption) ?_
    | with_reducible apply MemFrame.ite
    | with_reducible apply MemFrame.iteP
    | with_reducible apply MemFrame.foldl
    | with_reducible apply MemFrame.foldlP
    | intro _
    | split

theorem evictLine_memFrame {a : State} (s : State) (ch : Nat) (l : CLine) (h : MemFrame a s) : MemFrame a (evictLine s ch l) := by
  unfold evictLine
  try dsimp only
  repeat' first
    | with_reducible assumption
    | with_reducible apply State_modMchan_memFrame
    | with_reducible apply sealInto_memFrame
    | with_reducible apply pushWb_memFrame
    | with_reducible refine MemFrame.pair (by with_reducible assumption) ?_
    | with_reducible apply MemFrame.ite
    | with_reducible apply MemFrame.iteP
    | with_reducible apply MemFrame.foldl
    | with_reducible apply MemFrame.foldlP
    | intro _
    | split

theorem evictNode_memFrame {a : State} (f : Nat) (s : State) (ch : Nat) (n : TNode) (h : MemFrame a s) : MemFrame a (evictNode f s ch n) := by
  induction f generalizing s n with
  | zero => exact h
  | succ f ih =>
    unfold evictNode
    dsimp only
    repeat' first
      | with_reducible assumption
      | with_reducible apply ih
      | with_reducible apply evictLine_memFrame
      | with_reducible apply pushWb_memFrame
      | with_reducible apply sealInto_memFrame
      | with_reducible apply State_modMchan_memFrame
      | with_reducible apply MemFrame.ite
      | with_reducible apply MemFrame.foldl
      | intro _
      | split

theorem insertNode_memFrame {a : State} (s : State) (ch : Nat) (path : List Nat) (n : TNode) (h : MemFrame a s)
    : MemFrame a (insertNode s ch path n) := by
  unfold insertNode
  try dsimp only
  repeat' first
    | with_reducible assumption
    | with_reducible apply evictNode_memFrame
    | with_reducible apply State_modMchan_memFrame
    | with_reducible refine MemFrame.pair (by with_reducible assumption) ?_
    | with_reducible apply MemFrame.ite
    | with_reducible apply MemFrame.iteP
    | with_reducible apply MemFrame.foldl
    | with_reducible apply MemFrame.foldlP
    | intro _
    | split

theorem dropMeta_memFrame {a : State} (s : State) (q_ : Nat → Bool) (h : MemFrame a s) : MemFrame a (dropMeta s q_) := by
  unfold dropMeta
  try dsimp only
  repeat' first
    | with_reducible assumption
    | with_reducible apply State_modMchan_memFrame
    | with_reducible refine MemFrame.pair (by with_reducible assumption) ?_
    | with_reducible apply MemFrame.ite
    | with_reducible apply MemFrame.iteP
    | with_reducible apply MemFrame.foldl
    | with_reducible apply MemFrame.foldlP
    | intro _

theorem metaCe_memFrame {a : State} (s : State) (h : MemFrame a s) : MemFrame a (metaCe s) := by
  unfold metaCe
  try dsimp only
  repeat' first
    | with_reducible assumption
    | with_reducible apply State_evt_memFrame
    | with_reducible apply State_inc_memFrame

theorem tagFailed_memFrame {a : State} (s : State) (h : MemFrame a s) : MemFrame a (tagFailed s) := by
  unfold tagFailed
  try dsimp only
  repeat' first
    | with_reducible assumption
    | with_reducible apply State_evt_memFrame
    | with_reducible apply State_inc_memFrame

theorem sealHolds_memFrame {a : State} (s : State) (f : Fetch) (b : Bytes) (lvl : Nat) (addr : Nat) (sv : Nat)
    (h : MemFrame a s) : MemFrame a (sealHolds s f b lvl addr sv).1 := by
  unfold sealHolds
  try dsimp only
  repeat' first
    | with_reducible assumption
    | with_reducible apply tagFailed_memFrame
    | with_reducible refine MemFrame.pair (by with_reducible assumption) ?_
    | with_reducible apply MemFrame.ite
    | with_reducible apply MemFrame.iteP
    | with_reducible apply MemFrame.foldl
    | with_reducible apply MemFrame.foldlP
    | intro _

theorem loadPath_memFrame {a : State} (f : Fetch) (k : Nat) (s : State) (h : MemFrame a s) : MemFrame a (loadPath f k s).1 := by
  induction k generalizing s with
  | zero => exact h
  | succ k ih =>
    unfold loadPath
    dsimp only
    repeat' first
      | with_reducible assumption
      | with_reducible apply ih
      | with_reducible apply touchNode_memFrame
      | with_reducible apply insertNode_memFrame
      | with_reducible apply dropMeta_memFrame
      | with_reducible apply countSubtree_memFrame
      | with_reducible apply setChildSeal_memFrame
      | with_reducible apply sealHolds_memFrame
      | with_reducible refine MemFrame.pair (by with_reducible assumption) ?_
      | with_reducible apply metaCe_memFrame
      | with_reducible apply MemFrame.ite
      | intro _
      | split

theorem insertLine_memFrame {a : State} (s : State) (ch : Nat) (l : CLine) (h : MemFrame a s) : MemFrame a (insertLine s ch l) := by
  unfold insertLine
  try dsimp only
  repeat' first
    | with_reducible assumption
    | with_reducible apply evictLine_memFrame
    | with_reducible apply State_modMchan_memFrame
    | with_reducible refine MemFrame.pair (by with_reducible assumption) ?_
    | with_reducible apply MemFrame.ite
    | with_reducible apply MemFrame.iteP
    | with_reducible apply MemFrame.foldl
    | with_reducible apply MemFrame.foldlP
    | intro _
    | split

theorem countLost_memFrame {a : State} (s : State) (n : Nat) (grp : Nat) (h : MemFrame a s) : MemFrame a (countLost s n grp) := by
  unfold countLost
  try dsimp only
  repeat' first
    | with_reducible assumption
    | with_reducible apply integEvent_memFrame
    | with_reducible apply State_inc_memFrame
    | with_reducible apply State_evt_memFrame
    | with_reducible apply State_modRegion_memFrame

theorem loadLeaf_memFrame {a : State} (s : State) (f : Fetch) (epoch : Nat) (h : MemFrame a s) : MemFrame a (loadLeaf s f epoch).1 := by
  unfold loadLeaf
  try dsimp only
  repeat' first
    | with_reducible assumption
    | with_reducible apply loadPath_memFrame
    | with_reducible apply insertLine_memFrame
    | with_reducible apply dropMeta_memFrame
    | with_reducible apply countLost_memFrame
    | with_reducible apply sealHolds_memFrame
    | with_reducible apply metaCe_memFrame
    | with_reducible refine MemFrame.pair (by with_reducible assumption) ?_
    | with_reducible apply MemFrame.ite
    | with_reducible apply MemFrame.iteP
    | with_reducible apply MemFrame.foldl
    | with_reducible apply MemFrame.foldlP
    | intro _
    | split

theorem loadFlat_memFrame {a : State} (s : State) (f : Fetch) (epoch : Nat) (h : MemFrame a s) : MemFrame a (loadFlat s f epoch).1 := by
  unfold loadFlat
  try dsimp only
  repeat' first
    | with_reducible assumption
    | with_reducible apply insertLine_memFrame
    | with_reducible apply dropMeta_memFrame
    | with_reducible apply metaCe_memFrame
    | with_reducible apply countLost_memFrame
    | with_reducible refine MemFrame.pair (by with_reducible assumption) ?_
    | with_reducible apply MemFrame.ite
    | with_reducible apply MemFrame.iteP
    | with_reducible apply MemFrame.foldl
    | with_reducible apply MemFrame.foldlP
    | intro _
    | split
    | (simp only [MemFrame_mk]; with_reducible apply MemFrameParts.of)

theorem loadTag_memFrame {a : State} (s : State) (f : Fetch) (epoch : Nat) (h : MemFrame a s) : MemFrame a (loadTag s f epoch).1 := by
  unfold loadTag
  try dsimp only
  repeat' first
    | with_reducible assumption
    | with_reducible apply releaseMarked_memFrame
    | with_reducible apply touchLine_memFrame
    | with_reducible apply State_modMchan_memFrame
    | with_reducible apply loadLeaf_memFrame
    | with_reducible apply loadFlat_memFrame
    | with_reducible refine MemFrame.pair (by with_reducible assumption) ?_
    | with_reducible apply MemFrame.ite
    | with_reducible apply MemFrame.iteP
    | with_reducible apply MemFrame.foldl
    | with_reducible apply MemFrame.foldlP
    | intro _
    | split

theorem poisonRead_memFrame {a : State} (s : State) (data : Bytes) (h : MemFrame a s) : MemFrame a (poisonRead s data).1 := by
  unfold poisonRead
  try dsimp only
  repeat' first
    | with_reducible assumption
    | with_reducible apply State_inc_memFrame

theorem storeTag_memFrame {a : State} (s : State) (ch : Nat) (grp : Nat) (b : Bytes) (h : MemFrame a s)
    : MemFrame a (storeTag s ch grp b) := by
  unfold storeTag
  try dsimp only
  repeat' first
    | with_reducible assumption
    | with_reducible apply touchLine_memFrame

theorem poisonLine_memFrame {a : State} (s : State) (t_ : Txn) (b : Bytes) (i : Nat) (h : MemFrame a s)
    : MemFrame a (poisonLine s t_ b i).1 := by
  unfold poisonLine
  try dsimp only
  repeat' first
    | with_reducible assumption
    | with_reducible apply storeTag_memFrame

theorem reencrypt_memFrame {a : State} (s : State) (t_ : Txn) (b : Bytes) (i : Nat) (pt : Bytes) (h : MemFrame a s)
    : MemFrame a (reencrypt s t_ b i pt) := by
  unfold reencrypt
  try dsimp only
  repeat' first
    | with_reducible assumption
    | with_reducible apply dramPut_memFrame
    | with_reducible apply tagFailed_memFrame
    | with_reducible apply State_inc_memFrame
    | with_reducible apply storeTag_memFrame
    | with_reducible apply integEvent_memFrame
    | with_reducible apply State_evt_memFrame
    | with_reducible apply State_modRegion_memFrame
    | with_reducible refine MemFrame.pair (by with_reducible assumption) ?_
    | with_reducible apply MemFrame.ite
    | with_reducible apply MemFrame.iteP
    | with_reducible apply MemFrame.foldl
    | with_reducible apply MemFrame.foldlP
    | intro _

theorem writeLine_memFrame {a : State} (s : State) (t_ : Txn) (b : Bytes) (pt : Bytes) (h : MemFrame a s)
    : MemFrame a (writeLine s t_ b pt) := by
  unfold writeLine
  try dsimp only
  repeat' first
    | with_reducible assumption
    | with_reducible apply reencrypt_memFrame
    | with_reducible apply storeTag_memFrame
    | with_reducible apply dramPut_memFrame
    | with_reducible refine MemFrame.pair (by with_reducible assumption) ?_
    | with_reducible apply MemFrame.ite
    | with_reducible apply MemFrame.iteP
    | with_reducible apply MemFrame.foldl
    | with_reducible apply MemFrame.foldlP
    | intro _

theorem serveCore_memFrame {a : State} (s : State) (t_ : Txn) (h : MemFrame a s) : MemFrame a (serveCore s t_).1 := by
  unfold serveCore
  try dsimp only
  repeat' first
    | with_reducible assumption
    | with_reducible apply dramPut_memFrame
    | with_reducible apply State_inc_memFrame
    | with_reducible apply partRefused_memFrame
    | with_reducible apply loadTag_memFrame
    | with_reducible apply poisonRead_memFrame
    | with_reducible apply tagFailed_memFrame
    | with_reducible apply poisonLine_memFrame
    | with_reducible apply writeLine_memFrame
    | with_reducible apply integEvent_memFrame
    | with_reducible apply State_evt_memFrame
    | with_reducible refine MemFrame.pair (by with_reducible assumption) ?_
    | with_reducible apply MemFrame.ite
    | with_reducible apply MemFrame.iteP
    | with_reducible apply MemFrame.foldl
    | with_reducible apply MemFrame.foldlP
    | intro _
    | split

theorem answer_memFrame {a : State} (s : State) (t_ : Txn) (st : Nat) (data : Bytes) (h : MemFrame a s)
    : MemFrame a (answer s t_ st data) := by
  unfold answer
  try dsimp only
  repeat' first
    | with_reducible assumption
    | with_reducible apply State_emit_memFrame

theorem serve_memFrame {a : State} (s : State) (t_ : Txn) (h : MemFrame a s) : MemFrame a (serve s t_) := by
  unfold serve
  try dsimp only
  repeat' first
    | with_reducible assumption
    | with_reducible apply serveCore_memFrame
    | with_reducible apply answer_memFrame

theorem passGroup_memFrame {a : State} (s : State) (n : Nat) (h : MemFrame a s) : MemFrame a (passGroup s n) := by
  unfold passGroup
  try dsimp only
  repeat' first
    | with_reducible assumption
    | with_reducible apply dramPut_memFrame
    | with_reducible apply dropMeta_memFrame
    | with_reducible apply State_evt_memFrame
    | with_reducible apply State_modRegion_memFrame
    | with_reducible refine MemFrame.pair (by with_reducible assumption) ?_
    | with_reducible apply MemFrame.ite
    | with_reducible apply MemFrame.iteP
    | with_reducible apply MemFrame.foldl
    | with_reducible apply MemFrame.foldlP
    | intro _
    | split
    | (simp only [MemFrame_mk]; with_reducible apply MemFrameParts.of)

theorem freeAhead_memFrame {a : State} (s : State) (h : MemFrame a s) : MemFrame a (freeAhead s) := by
  unfold freeAhead
  try dsimp only
  repeat' first
    | with_reducible assumption
    | with_reducible apply passGroup_memFrame
    | with_reducible refine MemFrame.pair (by with_reducible assumption) ?_
    | with_reducible apply MemFrame.ite
    | with_reducible apply MemFrame.iteP
    | with_reducible apply MemFrame.foldl
    | with_reducible apply MemFrame.foldlP
    | intro _
    | split

theorem serveWaiting_memFrame {a : State} (s : State) (t_ : Txn) (h : MemFrame a s) : MemFrame a (serveWaiting s t_) := by
  unfold serveWaiting
  try dsimp only
  repeat' first
    | with_reducible assumption
    | with_reducible apply serve_memFrame
    | with_reducible apply freeAhead_memFrame
    | with_reducible refine MemFrame.pair (by with_reducible assumption) ?_
    | with_reducible apply MemFrame.ite
    | with_reducible apply MemFrame.iteP
    | with_reducible apply MemFrame.foldl
    | with_reducible apply MemFrame.foldlP
    | intro _

theorem serveOldest_memFrame {a : State} (s : State) (grp : Nat) (h : MemFrame a s) : MemFrame a (serveOldest s grp) := by
  unfold serveOldest
  try dsimp only
  repeat' first
    | with_reducible assumption
    | with_reducible apply serveWaiting_memFrame
    | with_reducible refine MemFrame.pair (by with_reducible assumption) ?_
    | with_reducible apply MemFrame.ite
    | with_reducible apply MemFrame.iteP
    | with_reducible apply MemFrame.foldl
    | with_reducible apply MemFrame.foldlP
    | intro _
    | split
    | (simp only [MemFrame_mk]; with_reducible apply MemFrameParts.of)

theorem settleWhere_memFrame {a : State} (s : State) (p : Txn → Bool) (h : MemFrame a s) : MemFrame a (settleWhere s p) := by
  unfold settleWhere
  try dsimp only
  repeat' first
    | with_reducible assumption
    | with_reducible apply serveOldest_memFrame
    | with_reducible refine MemFrame.pair (by with_reducible assumption) ?_
    | with_reducible apply MemFrame.ite
    | with_reducible apply MemFrame.iteP
    | with_reducible apply MemFrame.foldl
    | with_reducible apply MemFrame.foldlP
    | intro _
    | split

theorem settle_memFrame {a : State} (s : State) (grp : Nat) (h : MemFrame a s) : MemFrame a (settle s grp) := by
  unfold settle
  try dsimp only
  repeat' first
    | with_reducible assumption
    | with_reducible apply settleWhere_memFrame

theorem keyFailed_memFrame {a : State} (s : State) (kid : Nat) (data : Bool) (job : Option (Nat × Bool)) (h : MemFrame a s)
    : MemFrame a (keyFailed s kid data job) := by
  unfold keyFailed
  try dsimp only
  repeat' first
    | with_reducible assumption
    | with_reducible apply State_evt_memFrame
    | with_reducible apply State_putStf_memFrame
    | with_reducible apply State_modJob_memFrame
    | with_reducible refine MemFrame.pair (by with_reducible assumption) ?_
    | with_reducible apply MemFrame.ite
    | with_reducible apply MemFrame.iteP
    | with_reducible apply MemFrame.foldl
    | with_reducible apply MemFrame.foldlP
    | intro _
    | split

theorem accept_memFrame {a : State} (s : State) (addr : Nat) (cls : Nat) (write : Bool) (h : MemFrame a s)
    : MemFrame a (accept s addr cls write).1 := by
  unfold accept
  try dsimp only
  repeat' first
    | with_reducible assumption
    | with_reducible apply memKey_memFrame
    | with_reducible apply keyFailed_memFrame
    | with_reducible refine MemFrame.pair (by with_reducible assumption) ?_
    | with_reducible apply MemFrame.ite
    | with_reducible apply MemFrame.iteP
    | with_reducible apply MemFrame.foldl
    | with_reducible apply MemFrame.foldlP
    | intro _
    | split

theorem denyCount_memFrame {a : State} (s : State) (kid : Nat) (cls : Nat) (reason : Nat) (h : MemFrame a s)
    : MemFrame a (denyCount s kid cls reason) := by
  unfold denyCount
  try dsimp only
  repeat' first
    | with_reducible assumption
    | with_reducible apply State_evt_memFrame
    | with_reducible apply State_putSt_memFrame
    | with_reducible apply State_inc_memFrame
    | with_reducible refine MemFrame.pair (by with_reducible assumption) ?_
    | with_reducible apply MemFrame.ite
    | with_reducible apply MemFrame.iteP
    | with_reducible apply MemFrame.foldl
    | with_reducible apply MemFrame.foldlP
    | intro _

theorem dmaLine_memFrame {a : State} (s : State) (addr : Nat) (write : Bool) (data : Bytes) (be : Nat) (h : MemFrame a s)
    : MemFrame a (dmaLine s addr write data be).1 := by
  unfold dmaLine
  try dsimp only
  repeat' first
    | with_reducible assumption
    | with_reducible apply settle_memFrame
    | with_reducible apply accept_memFrame
    | with_reducible apply denyCount_memFrame
    | with_reducible apply serveCore_memFrame
    | with_reducible apply freeAhead_memFrame
    | with_reducible refine MemFrame.pair (by with_reducible assumption) ?_
    | with_reducible apply MemFrame.ite
    | with_reducible apply MemFrame.iteP
    | with_reducible apply MemFrame.foldl
    | with_reducible apply MemFrame.foldlP
    | intro _
    | split

theorem hostWrite_memFrame {a : State} (s : State) (addr : Nat) (b : Bytes) (h : MemFrame a s) : MemFrame a (hostWrite s addr b).1 := by
  unfold hostWrite
  dsimp only
  generalize linePieces (b.length / 64 + 2) addr b.length = l
  suffices ∀ (p : (State × Bool) × Bytes), MemFrame a p.1.1 → MemFrame a (l.foldl (fun (p : (State × Bool) × Bytes) l =>
      (((dmaLine p.1.1 l.1 true (zeros l.2.1 ++ List.take l.2.2 p.2) (lineBe l.2.1 l.2.2)).1,
        p.1.2 && decide ((dmaLine p.1.1 l.1 true (zeros l.2.1 ++ List.take l.2.2 p.2) (lineBe l.2.1 l.2.2)).2.1 = 0)),
        List.drop l.2.2 p.2)) p).1.1 from this ((s, true), b) h
  induction l with
  | nil => exact fun p hp => hp
  | cons x l ih => exact fun p hp => ih _ (dmaLine_memFrame _ _ _ _ _ hp)

theorem zeroOuts_memFrame {a : State} (s : State) (outs : List (Nat × Nat)) (h : MemFrame a s) : MemFrame a (zeroOuts s outs) := by
  unfold zeroOuts
  try dsimp only
  repeat' first
    | with_reducible assumption
    | with_reducible apply hostWrite_memFrame
    | with_reducible refine MemFrame.pair (by with_reducible assumption) ?_
    | with_reducible apply MemFrame.ite
    | with_reducible apply MemFrame.iteP
    | with_reducible apply MemFrame.foldl
    | with_reducible apply MemFrame.foldlP
    | intro _

theorem hostRead_memFrame {a : State} (s : State) (addr : Nat) (n : Nat) (h : MemFrame a s) : MemFrame a (hostRead s addr n).1 := by
  unfold hostRead
  try dsimp only
  repeat' first
    | with_reducible assumption
    | with_reducible apply dmaLine_memFrame
    | with_reducible refine MemFrame.pair (by with_reducible assumption) ?_
    | with_reducible apply MemFrame.ite
    | with_reducible apply MemFrame.iteP
    | with_reducible apply MemFrame.foldl
    | with_reducible apply MemFrame.foldlP
    | intro _

end Sys2Proof.Machine
end

