-- ==== Sys2Proof/Laws/Tables.lean ====
section
/-! SUPPORT. The laws of sparse tables: what a read gives after a write, and that every operation keeps the canonical form. -/

namespace Sys2Proof.Machine


theorem tsorted_mono {α : Type} {m : Tab α} : ∀ {b c : Nat}, c ≤ b → tsorted b m = true → tsorted c m = true := by
  cases m with
  | nil => intros; rfl
  | cons x m =>
    obtain ⟨a, v⟩ := x
    intro b c h hs
    simp only [tsorted, Bool.and_eq_true, decide_eq_true_eq] at hs ⊢
    exact ⟨le_trans h hs.1, hs.2⟩

theorem tfilter_sorted {α : Type} (p : Nat × α → Bool) : ∀ (m : Tab α) (b : Nat), tsorted b m = true → tsorted b (m.filter p) = true
  | [], _, _ => rfl
  | (a, v) :: m, b, hs => by
    simp only [tsorted, Bool.and_eq_true, decide_eq_true_eq] at hs
    rw [List.filter_cons]
    split
    · simp [tsorted, hs.1, tfilter_sorted p m (a + 1) hs.2]
    · exact tsorted_mono (by omega) (tfilter_sorted p m (a + 1) hs.2)

theorem tdel_sorted {α : Type} (k : Nat) (m : Tab α) (b : Nat) (h : tsorted b m = true) : tsorted b (tdel m k) = true :=
  tfilter_sorted _ m b h

theorem tins_sorted {α : Type} (k : Nat) (x : α) : ∀ (m : Tab α) (b : Nat), b ≤ k → tsorted b m = true → tsorted b (tins m k x) = true
  | [], _, hb, _ => by simp [tins, tsorted, hb]
  | (a, v) :: m, b, hb, hs => by
    simp only [tsorted, Bool.and_eq_true, decide_eq_true_eq] at hs
    unfold tins
    split
    · rename_i h; subst h; simp [tsorted, hb, hs.2]
    · split
      · simp only [tsorted, Bool.and_eq_true, decide_eq_true_eq]; exact ⟨hb, by omega, hs.2⟩
      · simp [tsorted, hs.1, tins_sorted k x m (a + 1) (by omega) hs.2]

theorem tdel_all {α : Type} {p : Nat × α → Bool} (k : Nat) (m : Tab α) (h : m.all p = true) : (tdel m k).all p = true := by
  simp only [List.all_eq_true] at h ⊢
  exact fun x hx => h x (List.mem_filter.mp hx).1

theorem tins_all {α : Type} {p : Nat × α → Bool} (k : Nat) (x : α) (hx : p (k, x) = true) :
    ∀ (m : Tab α), m.all p = true → (tins m k x).all p = true
  | [], _ => by simp [tins, hx]
  | (a, v) :: m, h => by
    simp only [List.all_cons, Bool.and_eq_true] at h
    unfold tins
    split
    · simp only [List.all_cons, Bool.and_eq_true]; exact ⟨hx, h.2⟩
    · split
      · simp only [List.all_cons, Bool.and_eq_true]; exact ⟨hx, h⟩
      · simp only [List.all_cons, Bool.and_eq_true]; exact ⟨h.1, tins_all k x hx m h.2⟩

/-- Writing a value keeps the canonical form. -/
theorem tput_wf {α : Type} [DecidableEq α] {d : α} {m : Tab α} (k : Nat) (x : α) (h : twf d m = true) :
    twf d (tput d m k x) = true := by
  simp only [twf, Bool.and_eq_true] at h ⊢
  unfold tput
  split
  · exact ⟨tdel_sorted k m 0 h.1, tdel_all k m h.2⟩
  · rename_i hx
    exact ⟨tins_sorted k x m 0 (Nat.zero_le _) h.1, tins_all k x (by simpa using hx) m h.2⟩

/-- Writing a run of values keeps the canonical form. -/
theorem tputN_wf {α : Type} [DecidableEq α] {d : α} : ∀ (xs : List α) (m : Tab α) (k : Nat), twf d m = true → twf d (tputN d m k xs) = true
  | [], _, _, h => h
  | x :: xs, _, k, h => tputN_wf xs _ (k + 1) (tput_wf k x h)

/-- A listed value is read where it was listed; every other key reads as before. -/
theorem tget_tins {α : Type} (d : α) (k : Nat) (x : α) : ∀ (m : Tab α) (q : Nat), tget d (tins m k x) q = if q = k then x else tget d m q
  | [], q => by
    simp only [tins, tget]
  | (a, v) :: m, q => by
    unfold tins
    split
    · rename_i h; subst h
      simp only [tget]
      split <;> rfl
    · split
      · simp only [tget]
      · simp only [tget]
        rw [tget_tins d k x m q]
        split
        · rw [if_neg (by omega)]
        · rfl

/-- Reading after a removal. -/
theorem tget_tdel {α : Type} (d : α) (k : Nat) : ∀ (m : Tab α) (q : Nat), tget d (tdel m k) q = if q = k then d else tget d m q
  | [], q => by simp [tdel, tget]
  | (a, v) :: m, q => by
    have ih := tget_tdel d k m q
    unfold tdel at ih ⊢
    rw [List.filter_cons]
    simp only [tget]
    by_cases ha : a = k
    · rw [if_neg (by simp [ha]), ih]
      subst ha
      split <;> rfl
    · rw [if_pos (by simp [ha])]
      simp only [tget]
      rw [ih]
      split
      · rw [if_neg (by omega)]
      · rfl

/-- Reading after a write. -/
theorem tget_tput {α : Type} [DecidableEq α] {d : α} (m : Tab α) (k : Nat) (x : α) (q : Nat) :
    tget d (tput d m k x) q = if q = k then x else tget d m q := by
  unfold tput
  split
  · rename_i h; rw [tget_tdel, h]
  · exact tget_tins d k x m q

/-- Reading after a change of one entry. -/
theorem tget_tmod {α : Type} [DecidableEq α] {d : α} (m : Tab α) (k : Nat) (f : α → α) (q : Nat) :
    tget d (tmod d m k f) q = if q = k then f (tget d m k) else tget d m q := tget_tput m k _ q

/-- Reading after a run of writes. -/
theorem tget_tputN {α : Type} [DecidableEq α] {d : α} :
    ∀ (xs : List α) (m : Tab α) (k q : Nat),
      tget d (tputN d m k xs) q = if k ≤ q ∧ q < k + xs.length then xs.getD (q - k) d else tget d m q
  | [], m, k, q => by
    rw [if_neg (by simp only [List.length_nil]; omega)]; rfl
  | x :: xs, m, k, q => by
    simp only [tputN]
    rw [tget_tputN xs _ (k + 1) q, tget_tput m k x q]
    simp only [List.length_cons]
    by_cases h1 : q = k
    · subst h1
      rw [if_neg (by omega), if_pos rfl, if_pos (by omega)]; simp
    · rw [if_neg h1]
      by_cases h2 : k + 1 ≤ q ∧ q < k + 1 + xs.length
      · rw [if_pos h2, if_pos (by omega)]
        obtain ⟨n, rfl⟩ : ∃ n, q = k + 1 + n := ⟨q - (k + 1), by omega⟩
        have e1 : k + 1 + n - (k + 1) = n := by omega
        have e2 : k + 1 + n - k = n + 1 := by omega
        rw [e1, e2]; simp
      · rw [if_neg h2, if_neg (by omega)]

end Sys2Proof.Machine
end

