-- ==== Sys2Proof/Laws/State.lean ====
section
/-! SUPPORT. What each named update of the state leaves as it was and what it sets, field by field: no proof unfolds a record
update. -/

namespace Sys2Proof.Machine

@[simp] theorem at_pending (s : State) (t : Nat) : (s.at t).pending = s.pending := rfl
@[simp] theorem at_regs (s : State) (t : Nat) : (s.at t).regs = s.regs := rfl
@[simp] theorem at_host (s : State) (t : Nat) : (s.at t).host = s.host := rfl
@[simp] theorem at_rings (s : State) (t : Nat) : (s.at t).rings = s.rings := rfl
@[simp] theorem at_vault (s : State) (t : Nat) : (s.at t).vault = s.vault := rfl
@[simp] theorem at_fuses (s : State) (t : Nat) : (s.at t).fuses = s.fuses := rfl
@[simp] theorem at_ch (s : State) (t : Nat) : (s.at t).ch = s.ch := rfl
@[simp] theorem at_part (s : State) (t : Nat) : (s.at t).part = s.part := rfl
@[simp] theorem at_boot (s : State) (t : Nat) : (s.at t).boot = s.boot := rfl
@[simp] theorem at_jf (s : State) (t : Nat) : (s.at t).jf = s.jf := rfl
@[simp] theorem at_mem (s : State) (t : Nat) : (s.at t).mem = s.mem := rfl
@[simp] theorem at_link (s : State) (t : Nat) : (s.at t).link = s.link := rfl
@[simp] theorem at_portHeld (s : State) (t : Nat) : (s.at t).portHeld = s.portHeld := rfl
@[simp] theorem at_lateWr (s : State) (t : Nat) : (s.at t).lateWr = s.lateWr := rfl
@[simp] theorem at_flash (s : State) (t : Nat) : (s.at t).flash = s.flash := rfl
@[simp] theorem at_log (s : State) (t : Nat) : (s.at t).log = s.log := rfl
@[simp] theorem at_nodes (s : State) (t : Nat) : (s.at t).nodes = s.nodes := rfl
@[simp] theorem at_alm (s : State) (t : Nat) : (s.at t).alm = s.alm := rfl
@[simp] theorem at_ledger (s : State) (t : Nat) : (s.at t).ledger = s.ledger := rfl
@[simp] theorem at_conv (s : State) (t : Nat) : (s.at t).conv = s.conv := rfl
@[simp] theorem at_krysa (s : State) (t : Nat) : (s.at t).krysa = s.krysa := rfl
@[simp] theorem at_nms (s : State) (t : Nat) : (s.at t).nms = s.nms := rfl
@[simp] theorem at_vigil (s : State) (t : Nat) : (s.at t).vigil = s.vigil := rfl
@[simp] theorem at_flt (s : State) (t : Nat) : (s.at t).flt = s.flt := rfl
@[simp] theorem at_sleep (s : State) (t : Nat) : (s.at t).sleep = s.sleep := rfl
@[simp] theorem at_tap (s : State) (t : Nat) : (s.at t).tap = s.tap := rfl
@[simp] theorem at_dram (s : State) (t : Nat) : (s.at t).dram = s.dram := rfl
@[simp] theorem at_dmErr (s : State) (t : Nat) : (s.at t).dmErr = s.dmErr := rfl
@[simp] theorem at_drbg (s : State) (t : Nat) : (s.at t).drbg = s.drbg := rfl
@[simp] theorem at_seq (s : State) (t : Nat) : (s.at t).seq = s.seq := rfl
@[simp] theorem at_outs (s : State) (t : Nat) : (s.at t).outs = s.outs := rfl
@[simp] theorem at_read_wr (s : State) (t : Nat) (x : Nat) : (s.at t).wr x = s.wr x := rfl
@[simp] theorem at_read_fc (s : State) (t : Nat) (x : Nat) : (s.at t).fc x = s.fc x := rfl
@[simp] theorem at_read_stw (s : State) (t : Nat) (x : Nat) : (s.at t).stw x = s.stw x := rfl
@[simp] theorem at_read_ring (s : State) (t : Nat) (x : Nat) : (s.at t).ring x = s.ring x := rfl
@[simp] theorem at_read_chan (s : State) (t : Nat) (x : Nat) : (s.at t).chan x = s.chan x := rfl
@[simp] theorem at_read_slot (s : State) (t : Nat) (x : Nat) : (s.at t).slot x = s.slot x := rfl
@[simp] theorem at_read_halted (s : State) (t : Nat) : (s.at t).halted = s.halted := rfl

@[simp] theorem bump_pending (s : State) : (s.bump).pending = s.pending := rfl
@[simp] theorem bump_regs (s : State) : (s.bump).regs = s.regs := rfl
@[simp] theorem bump_host (s : State) : (s.bump).host = s.host := rfl
@[simp] theorem bump_tick (s : State) : (s.bump).tick = s.tick := rfl
@[simp] theorem bump_rings (s : State) : (s.bump).rings = s.rings := rfl
@[simp] theorem bump_vault (s : State) : (s.bump).vault = s.vault := rfl
@[simp] theorem bump_fuses (s : State) : (s.bump).fuses = s.fuses := rfl
@[simp] theorem bump_ch (s : State) : (s.bump).ch = s.ch := rfl
@[simp] theorem bump_part (s : State) : (s.bump).part = s.part := rfl
@[simp] theorem bump_boot (s : State) : (s.bump).boot = s.boot := rfl
@[simp] theorem bump_jf (s : State) : (s.bump).jf = s.jf := rfl
@[simp] theorem bump_mem (s : State) : (s.bump).mem = s.mem := rfl
@[simp] theorem bump_link (s : State) : (s.bump).link = s.link := rfl
@[simp] theorem bump_portHeld (s : State) : (s.bump).portHeld = s.portHeld := rfl
@[simp] theorem bump_lateWr (s : State) : (s.bump).lateWr = s.lateWr := rfl
@[simp] theorem bump_flash (s : State) : (s.bump).flash = s.flash := rfl
@[simp] theorem bump_log (s : State) : (s.bump).log = s.log := rfl
@[simp] theorem bump_nodes (s : State) : (s.bump).nodes = s.nodes := rfl
@[simp] theorem bump_alm (s : State) : (s.bump).alm = s.alm := rfl
@[simp] theorem bump_ledger (s : State) : (s.bump).ledger = s.ledger := rfl
@[simp] theorem bump_conv (s : State) : (s.bump).conv = s.conv := rfl
@[simp] theorem bump_krysa (s : State) : (s.bump).krysa = s.krysa := rfl
@[simp] theorem bump_nms (s : State) : (s.bump).nms = s.nms := rfl
@[simp] theorem bump_vigil (s : State) : (s.bump).vigil = s.vigil := rfl
@[simp] theorem bump_flt (s : State) : (s.bump).flt = s.flt := rfl
@[simp] theorem bump_sleep (s : State) : (s.bump).sleep = s.sleep := rfl
@[simp] theorem bump_tap (s : State) : (s.bump).tap = s.tap := rfl
@[simp] theorem bump_dram (s : State) : (s.bump).dram = s.dram := rfl
@[simp] theorem bump_dmErr (s : State) : (s.bump).dmErr = s.dmErr := rfl
@[simp] theorem bump_drbg (s : State) : (s.bump).drbg = s.drbg := rfl
@[simp] theorem bump_outs (s : State) : (s.bump).outs = s.outs := rfl
@[simp] theorem bump_read_wr (s : State) (x : Nat) : (s.bump).wr x = s.wr x := rfl
@[simp] theorem bump_read_fc (s : State) (x : Nat) : (s.bump).fc x = s.fc x := rfl
@[simp] theorem bump_read_stw (s : State) (x : Nat) : (s.bump).stw x = s.stw x := rfl
@[simp] theorem bump_read_ring (s : State) (x : Nat) : (s.bump).ring x = s.ring x := rfl
@[simp] theorem bump_read_chan (s : State) (x : Nat) : (s.bump).chan x = s.chan x := rfl
@[simp] theorem bump_read_slot (s : State) (x : Nat) : (s.bump).slot x = s.slot x := rfl
@[simp] theorem bump_read_halted (s : State) : (s.bump).halted = s.halted := rfl

@[simp] theorem drew_pending (s : State) (n : Nat) : (s.drew n).pending = s.pending := rfl
@[simp] theorem drew_regs (s : State) (n : Nat) : (s.drew n).regs = s.regs := rfl
@[simp] theorem drew_host (s : State) (n : Nat) : (s.drew n).host = s.host := rfl
@[simp] theorem drew_tick (s : State) (n : Nat) : (s.drew n).tick = s.tick := rfl
@[simp] theorem drew_rings (s : State) (n : Nat) : (s.drew n).rings = s.rings := rfl
@[simp] theorem drew_vault (s : State) (n : Nat) : (s.drew n).vault = s.vault := rfl
@[simp] theorem drew_fuses (s : State) (n : Nat) : (s.drew n).fuses = s.fuses := rfl
@[simp] theorem drew_ch (s : State) (n : Nat) : (s.drew n).ch = s.ch := rfl
@[simp] theorem drew_part (s : State) (n : Nat) : (s.drew n).part = s.part := rfl
@[simp] theorem drew_boot (s : State) (n : Nat) : (s.drew n).boot = s.boot := rfl
@[simp] theorem drew_jf (s : State) (n : Nat) : (s.drew n).jf = s.jf := rfl
@[simp] theorem drew_mem (s : State) (n : Nat) : (s.drew n).mem = s.mem := rfl
@[simp] theorem drew_link (s : State) (n : Nat) : (s.drew n).link = s.link := rfl
@[simp] theorem drew_portHeld (s : State) (n : Nat) : (s.drew n).portHeld = s.portHeld := rfl
@[simp] theorem drew_lateWr (s : State) (n : Nat) : (s.drew n).lateWr = s.lateWr := rfl
@[simp] theorem drew_flash (s : State) (n : Nat) : (s.drew n).flash = s.flash := rfl
@[simp] theorem drew_log (s : State) (n : Nat) : (s.drew n).log = s.log := rfl
@[simp] theorem drew_nodes (s : State) (n : Nat) : (s.drew n).nodes = s.nodes := rfl
@[simp] theorem drew_alm (s : State) (n : Nat) : (s.drew n).alm = s.alm := rfl
@[simp] theorem drew_ledger (s : State) (n : Nat) : (s.drew n).ledger = s.ledger := rfl
@[simp] theorem drew_conv (s : State) (n : Nat) : (s.drew n).conv = s.conv := rfl
@[simp] theorem drew_krysa (s : State) (n : Nat) : (s.drew n).krysa = s.krysa := rfl
@[simp] theorem drew_nms (s : State) (n : Nat) : (s.drew n).nms = s.nms := rfl
@[simp] theorem drew_vigil (s : State) (n : Nat) : (s.drew n).vigil = s.vigil := rfl
@[simp] theorem drew_flt (s : State) (n : Nat) : (s.drew n).flt = s.flt := rfl
@[simp] theorem drew_sleep (s : State) (n : Nat) : (s.drew n).sleep = s.sleep := rfl
@[simp] theorem drew_tap (s : State) (n : Nat) : (s.drew n).tap = s.tap := rfl
@[simp] theorem drew_dram (s : State) (n : Nat) : (s.drew n).dram = s.dram := rfl
@[simp] theorem drew_dmErr (s : State) (n : Nat) : (s.drew n).dmErr = s.dmErr := rfl
@[simp] theorem drew_seq (s : State) (n : Nat) : (s.drew n).seq = s.seq := rfl
@[simp] theorem drew_outs (s : State) (n : Nat) : (s.drew n).outs = s.outs := rfl
@[simp] theorem drew_read_wr (s : State) (n : Nat) (x : Nat) : (s.drew n).wr x = s.wr x := rfl
@[simp] theorem drew_read_fc (s : State) (n : Nat) (x : Nat) : (s.drew n).fc x = s.fc x := rfl
@[simp] theorem drew_read_stw (s : State) (n : Nat) (x : Nat) : (s.drew n).stw x = s.stw x := rfl
@[simp] theorem drew_read_ring (s : State) (n : Nat) (x : Nat) : (s.drew n).ring x = s.ring x := rfl
@[simp] theorem drew_read_chan (s : State) (n : Nat) (x : Nat) : (s.drew n).chan x = s.chan x := rfl
@[simp] theorem drew_read_slot (s : State) (n : Nat) (x : Nat) : (s.drew n).slot x = s.slot x := rfl
@[simp] theorem drew_read_halted (s : State) (n : Nat) : (s.drew n).halted = s.halted := rfl

@[simp] theorem emit_pending (s : State) (o : Out) : (s.emit o).pending = s.pending := rfl
@[simp] theorem emit_regs (s : State) (o : Out) : (s.emit o).regs = s.regs := rfl
@[simp] theorem emit_host (s : State) (o : Out) : (s.emit o).host = s.host := rfl
@[simp] theorem emit_tick (s : State) (o : Out) : (s.emit o).tick = s.tick := rfl
@[simp] theorem emit_rings (s : State) (o : Out) : (s.emit o).rings = s.rings := rfl
@[simp] theorem emit_vault (s : State) (o : Out) : (s.emit o).vault = s.vault := rfl
@[simp] theorem emit_fuses (s : State) (o : Out) : (s.emit o).fuses = s.fuses := rfl
@[simp] theorem emit_ch (s : State) (o : Out) : (s.emit o).ch = s.ch := rfl
@[simp] theorem emit_part (s : State) (o : Out) : (s.emit o).part = s.part := rfl
@[simp] theorem emit_boot (s : State) (o : Out) : (s.emit o).boot = s.boot := rfl
@[simp] theorem emit_jf (s : State) (o : Out) : (s.emit o).jf = s.jf := rfl
@[simp] theorem emit_mem (s : State) (o : Out) : (s.emit o).mem = s.mem := rfl
@[simp] theorem emit_link (s : State) (o : Out) : (s.emit o).link = s.link := rfl
@[simp] theorem emit_portHeld (s : State) (o : Out) : (s.emit o).portHeld = s.portHeld := rfl
@[simp] theorem emit_lateWr (s : State) (o : Out) : (s.emit o).lateWr = s.lateWr := rfl
@[simp] theorem emit_flash (s : State) (o : Out) : (s.emit o).flash = s.flash := rfl
@[simp] theorem emit_log (s : State) (o : Out) : (s.emit o).log = s.log := rfl
@[simp] theorem emit_nodes (s : State) (o : Out) : (s.emit o).nodes = s.nodes := rfl
@[simp] theorem emit_alm (s : State) (o : Out) : (s.emit o).alm = s.alm := rfl
@[simp] theorem emit_ledger (s : State) (o : Out) : (s.emit o).ledger = s.ledger := rfl
@[simp] theorem emit_conv (s : State) (o : Out) : (s.emit o).conv = s.conv := rfl
@[simp] theorem emit_krysa (s : State) (o : Out) : (s.emit o).krysa = s.krysa := rfl
@[simp] theorem emit_nms (s : State) (o : Out) : (s.emit o).nms = s.nms := rfl
@[simp] theorem emit_vigil (s : State) (o : Out) : (s.emit o).vigil = s.vigil := rfl
@[simp] theorem emit_flt (s : State) (o : Out) : (s.emit o).flt = s.flt := rfl
@[simp] theorem emit_sleep (s : State) (o : Out) : (s.emit o).sleep = s.sleep := rfl
@[simp] theorem emit_tap (s : State) (o : Out) : (s.emit o).tap = s.tap := rfl
@[simp] theorem emit_dram (s : State) (o : Out) : (s.emit o).dram = s.dram := rfl
@[simp] theorem emit_dmErr (s : State) (o : Out) : (s.emit o).dmErr = s.dmErr := rfl
@[simp] theorem emit_drbg (s : State) (o : Out) : (s.emit o).drbg = s.drbg := rfl
@[simp] theorem emit_seq (s : State) (o : Out) : (s.emit o).seq = s.seq := rfl
@[simp] theorem emit_read_wr (s : State) (o : Out) (x : Nat) : (s.emit o).wr x = s.wr x := rfl
@[simp] theorem emit_read_fc (s : State) (o : Out) (x : Nat) : (s.emit o).fc x = s.fc x := rfl
@[simp] theorem emit_read_stw (s : State) (o : Out) (x : Nat) : (s.emit o).stw x = s.stw x := rfl
@[simp] theorem emit_read_ring (s : State) (o : Out) (x : Nat) : (s.emit o).ring x = s.ring x := rfl
@[simp] theorem emit_read_chan (s : State) (o : Out) (x : Nat) : (s.emit o).chan x = s.chan x := rfl
@[simp] theorem emit_read_slot (s : State) (o : Out) (x : Nat) : (s.emit o).slot x = s.slot x := rfl
@[simp] theorem emit_read_halted (s : State) (o : Out) : (s.emit o).halted = s.halted := rfl

@[simp] theorem putWr_pending (s : State) (off v : Nat) : (s.putWr off v).pending = s.pending := rfl
@[simp] theorem putWr_host (s : State) (off v : Nat) : (s.putWr off v).host = s.host := rfl
@[simp] theorem putWr_tick (s : State) (off v : Nat) : (s.putWr off v).tick = s.tick := rfl
@[simp] theorem putWr_rings (s : State) (off v : Nat) : (s.putWr off v).rings = s.rings := rfl
@[simp] theorem putWr_vault (s : State) (off v : Nat) : (s.putWr off v).vault = s.vault := rfl
@[simp] theorem putWr_fuses (s : State) (off v : Nat) : (s.putWr off v).fuses = s.fuses := rfl
@[simp] theorem putWr_ch (s : State) (off v : Nat) : (s.putWr off v).ch = s.ch := rfl
@[simp] theorem putWr_part (s : State) (off v : Nat) : (s.putWr off v).part = s.part := rfl
@[simp] theorem putWr_boot (s : State) (off v : Nat) : (s.putWr off v).boot = s.boot := rfl
@[simp] theorem putWr_jf (s : State) (off v : Nat) : (s.putWr off v).jf = s.jf := rfl
@[simp] theorem putWr_mem (s : State) (off v : Nat) : (s.putWr off v).mem = s.mem := rfl
@[simp] theorem putWr_link (s : State) (off v : Nat) : (s.putWr off v).link = s.link := rfl
@[simp] theorem putWr_portHeld (s : State) (off v : Nat) : (s.putWr off v).portHeld = s.portHeld := rfl
@[simp] theorem putWr_lateWr (s : State) (off v : Nat) : (s.putWr off v).lateWr = s.lateWr := rfl
@[simp] theorem putWr_flash (s : State) (off v : Nat) : (s.putWr off v).flash = s.flash := rfl
@[simp] theorem putWr_log (s : State) (off v : Nat) : (s.putWr off v).log = s.log := rfl
@[simp] theorem putWr_nodes (s : State) (off v : Nat) : (s.putWr off v).nodes = s.nodes := rfl
@[simp] theorem putWr_alm (s : State) (off v : Nat) : (s.putWr off v).alm = s.alm := rfl
@[simp] theorem putWr_ledger (s : State) (off v : Nat) : (s.putWr off v).ledger = s.ledger := rfl
@[simp] theorem putWr_conv (s : State) (off v : Nat) : (s.putWr off v).conv = s.conv := rfl
@[simp] theorem putWr_krysa (s : State) (off v : Nat) : (s.putWr off v).krysa = s.krysa := rfl
@[simp] theorem putWr_nms (s : State) (off v : Nat) : (s.putWr off v).nms = s.nms := rfl
@[simp] theorem putWr_vigil (s : State) (off v : Nat) : (s.putWr off v).vigil = s.vigil := rfl
@[simp] theorem putWr_flt (s : State) (off v : Nat) : (s.putWr off v).flt = s.flt := rfl
@[simp] theorem putWr_sleep (s : State) (off v : Nat) : (s.putWr off v).sleep = s.sleep := rfl
@[simp] theorem putWr_tap (s : State) (off v : Nat) : (s.putWr off v).tap = s.tap := rfl
@[simp] theorem putWr_dram (s : State) (off v : Nat) : (s.putWr off v).dram = s.dram := rfl
@[simp] theorem putWr_dmErr (s : State) (off v : Nat) : (s.putWr off v).dmErr = s.dmErr := rfl
@[simp] theorem putWr_drbg (s : State) (off v : Nat) : (s.putWr off v).drbg = s.drbg := rfl
@[simp] theorem putWr_seq (s : State) (off v : Nat) : (s.putWr off v).seq = s.seq := rfl
@[simp] theorem putWr_outs (s : State) (off v : Nat) : (s.putWr off v).outs = s.outs := rfl
@[simp] theorem putWr_read_ring (s : State) (off v : Nat) (x : Nat) : (s.putWr off v).ring x = s.ring x := rfl
@[simp] theorem putWr_read_chan (s : State) (off v : Nat) (x : Nat) : (s.putWr off v).chan x = s.chan x := rfl
@[simp] theorem putWr_read_slot (s : State) (off v : Nat) (x : Nat) : (s.putWr off v).slot x = s.slot x := rfl
@[simp] theorem putWr_read_halted (s : State) (off v : Nat) : (s.putWr off v).halted = s.halted := rfl

@[simp] theorem putFc_pending (s : State) (off v : Nat) : (s.putFc off v).pending = s.pending := rfl
@[simp] theorem putFc_host (s : State) (off v : Nat) : (s.putFc off v).host = s.host := rfl
@[simp] theorem putFc_tick (s : State) (off v : Nat) : (s.putFc off v).tick = s.tick := rfl
@[simp] theorem putFc_rings (s : State) (off v : Nat) : (s.putFc off v).rings = s.rings := rfl
@[simp] theorem putFc_vault (s : State) (off v : Nat) : (s.putFc off v).vault = s.vault := rfl
@[simp] theorem putFc_fuses (s : State) (off v : Nat) : (s.putFc off v).fuses = s.fuses := rfl
@[simp] theorem putFc_ch (s : State) (off v : Nat) : (s.putFc off v).ch = s.ch := rfl
@[simp] theorem putFc_part (s : State) (off v : Nat) : (s.putFc off v).part = s.part := rfl
@[simp] theorem putFc_boot (s : State) (off v : Nat) : (s.putFc off v).boot = s.boot := rfl
@[simp] theorem putFc_jf (s : State) (off v : Nat) : (s.putFc off v).jf = s.jf := rfl
@[simp] theorem putFc_mem (s : State) (off v : Nat) : (s.putFc off v).mem = s.mem := rfl
@[simp] theorem putFc_link (s : State) (off v : Nat) : (s.putFc off v).link = s.link := rfl
@[simp] theorem putFc_portHeld (s : State) (off v : Nat) : (s.putFc off v).portHeld = s.portHeld := rfl
@[simp] theorem putFc_lateWr (s : State) (off v : Nat) : (s.putFc off v).lateWr = s.lateWr := rfl
@[simp] theorem putFc_flash (s : State) (off v : Nat) : (s.putFc off v).flash = s.flash := rfl
@[simp] theorem putFc_log (s : State) (off v : Nat) : (s.putFc off v).log = s.log := rfl
@[simp] theorem putFc_nodes (s : State) (off v : Nat) : (s.putFc off v).nodes = s.nodes := rfl
@[simp] theorem putFc_alm (s : State) (off v : Nat) : (s.putFc off v).alm = s.alm := rfl
@[simp] theorem putFc_ledger (s : State) (off v : Nat) : (s.putFc off v).ledger = s.ledger := rfl
@[simp] theorem putFc_conv (s : State) (off v : Nat) : (s.putFc off v).conv = s.conv := rfl
@[simp] theorem putFc_krysa (s : State) (off v : Nat) : (s.putFc off v).krysa = s.krysa := rfl
@[simp] theorem putFc_nms (s : State) (off v : Nat) : (s.putFc off v).nms = s.nms := rfl
@[simp] theorem putFc_vigil (s : State) (off v : Nat) : (s.putFc off v).vigil = s.vigil := rfl
@[simp] theorem putFc_flt (s : State) (off v : Nat) : (s.putFc off v).flt = s.flt := rfl
@[simp] theorem putFc_sleep (s : State) (off v : Nat) : (s.putFc off v).sleep = s.sleep := rfl
@[simp] theorem putFc_tap (s : State) (off v : Nat) : (s.putFc off v).tap = s.tap := rfl
@[simp] theorem putFc_dram (s : State) (off v : Nat) : (s.putFc off v).dram = s.dram := rfl
@[simp] theorem putFc_dmErr (s : State) (off v : Nat) : (s.putFc off v).dmErr = s.dmErr := rfl
@[simp] theorem putFc_drbg (s : State) (off v : Nat) : (s.putFc off v).drbg = s.drbg := rfl
@[simp] theorem putFc_seq (s : State) (off v : Nat) : (s.putFc off v).seq = s.seq := rfl
@[simp] theorem putFc_outs (s : State) (off v : Nat) : (s.putFc off v).outs = s.outs := rfl
@[simp] theorem putFc_read_ring (s : State) (off v : Nat) (x : Nat) : (s.putFc off v).ring x = s.ring x := rfl
@[simp] theorem putFc_read_chan (s : State) (off v : Nat) (x : Nat) : (s.putFc off v).chan x = s.chan x := rfl
@[simp] theorem putFc_read_slot (s : State) (off v : Nat) (x : Nat) : (s.putFc off v).slot x = s.slot x := rfl
@[simp] theorem putFc_read_halted (s : State) (off v : Nat) : (s.putFc off v).halted = s.halted := rfl

@[simp] theorem putSt_pending (s : State) (off v : Nat) : (s.putSt off v).pending = s.pending := rfl
@[simp] theorem putSt_host (s : State) (off v : Nat) : (s.putSt off v).host = s.host := rfl
@[simp] theorem putSt_tick (s : State) (off v : Nat) : (s.putSt off v).tick = s.tick := rfl
@[simp] theorem putSt_rings (s : State) (off v : Nat) : (s.putSt off v).rings = s.rings := rfl
@[simp] theorem putSt_vault (s : State) (off v : Nat) : (s.putSt off v).vault = s.vault := rfl
@[simp] theorem putSt_fuses (s : State) (off v : Nat) : (s.putSt off v).fuses = s.fuses := rfl
@[simp] theorem putSt_ch (s : State) (off v : Nat) : (s.putSt off v).ch = s.ch := rfl
@[simp] theorem putSt_part (s : State) (off v : Nat) : (s.putSt off v).part = s.part := rfl
@[simp] theorem putSt_boot (s : State) (off v : Nat) : (s.putSt off v).boot = s.boot := rfl
@[simp] theorem putSt_jf (s : State) (off v : Nat) : (s.putSt off v).jf = s.jf := rfl
@[simp] theorem putSt_mem (s : State) (off v : Nat) : (s.putSt off v).mem = s.mem := rfl
@[simp] theorem putSt_link (s : State) (off v : Nat) : (s.putSt off v).link = s.link := rfl
@[simp] theorem putSt_portHeld (s : State) (off v : Nat) : (s.putSt off v).portHeld = s.portHeld := rfl
@[simp] theorem putSt_lateWr (s : State) (off v : Nat) : (s.putSt off v).lateWr = s.lateWr := rfl
@[simp] theorem putSt_flash (s : State) (off v : Nat) : (s.putSt off v).flash = s.flash := rfl
@[simp] theorem putSt_log (s : State) (off v : Nat) : (s.putSt off v).log = s.log := rfl
@[simp] theorem putSt_nodes (s : State) (off v : Nat) : (s.putSt off v).nodes = s.nodes := rfl
@[simp] theorem putSt_alm (s : State) (off v : Nat) : (s.putSt off v).alm = s.alm := rfl
@[simp] theorem putSt_ledger (s : State) (off v : Nat) : (s.putSt off v).ledger = s.ledger := rfl
@[simp] theorem putSt_conv (s : State) (off v : Nat) : (s.putSt off v).conv = s.conv := rfl
@[simp] theorem putSt_krysa (s : State) (off v : Nat) : (s.putSt off v).krysa = s.krysa := rfl
@[simp] theorem putSt_nms (s : State) (off v : Nat) : (s.putSt off v).nms = s.nms := rfl
@[simp] theorem putSt_vigil (s : State) (off v : Nat) : (s.putSt off v).vigil = s.vigil := rfl
@[simp] theorem putSt_flt (s : State) (off v : Nat) : (s.putSt off v).flt = s.flt := rfl
@[simp] theorem putSt_sleep (s : State) (off v : Nat) : (s.putSt off v).sleep = s.sleep := rfl
@[simp] theorem putSt_tap (s : State) (off v : Nat) : (s.putSt off v).tap = s.tap := rfl
@[simp] theorem putSt_dram (s : State) (off v : Nat) : (s.putSt off v).dram = s.dram := rfl
@[simp] theorem putSt_dmErr (s : State) (off v : Nat) : (s.putSt off v).dmErr = s.dmErr := rfl
@[simp] theorem putSt_drbg (s : State) (off v : Nat) : (s.putSt off v).drbg = s.drbg := rfl
@[simp] theorem putSt_seq (s : State) (off v : Nat) : (s.putSt off v).seq = s.seq := rfl
@[simp] theorem putSt_outs (s : State) (off v : Nat) : (s.putSt off v).outs = s.outs := rfl
@[simp] theorem putSt_read_ring (s : State) (off v : Nat) (x : Nat) : (s.putSt off v).ring x = s.ring x := rfl
@[simp] theorem putSt_read_chan (s : State) (off v : Nat) (x : Nat) : (s.putSt off v).chan x = s.chan x := rfl
@[simp] theorem putSt_read_slot (s : State) (off v : Nat) (x : Nat) : (s.putSt off v).slot x = s.slot x := rfl
@[simp] theorem putSt_read_halted (s : State) (off v : Nat) : (s.putSt off v).halted = s.halted := rfl

@[simp] theorem putStf_pending (s : State) (off hi lo v : Nat) : (s.putStf off hi lo v).pending = s.pending := rfl
@[simp] theorem putStf_host (s : State) (off hi lo v : Nat) : (s.putStf off hi lo v).host = s.host := rfl
@[simp] theorem putStf_tick (s : State) (off hi lo v : Nat) : (s.putStf off hi lo v).tick = s.tick := rfl
@[simp] theorem putStf_rings (s : State) (off hi lo v : Nat) : (s.putStf off hi lo v).rings = s.rings := rfl
@[simp] theorem putStf_vault (s : State) (off hi lo v : Nat) : (s.putStf off hi lo v).vault = s.vault := rfl
@[simp] theorem putStf_fuses (s : State) (off hi lo v : Nat) : (s.putStf off hi lo v).fuses = s.fuses := rfl
@[simp] theorem putStf_ch (s : State) (off hi lo v : Nat) : (s.putStf off hi lo v).ch = s.ch := rfl
@[simp] theorem putStf_part (s : State) (off hi lo v : Nat) : (s.putStf off hi lo v).part = s.part := rfl
@[simp] theorem putStf_boot (s : State) (off hi lo v : Nat) : (s.putStf off hi lo v).boot = s.boot := rfl
@[simp] theorem putStf_jf (s : State) (off hi lo v : Nat) : (s.putStf off hi lo v).jf = s.jf := rfl
@[simp] theorem putStf_mem (s : State) (off hi lo v : Nat) : (s.putStf off hi lo v).mem = s.mem := rfl
@[simp] theorem putStf_link (s : State) (off hi lo v : Nat) : (s.putStf off hi lo v).link = s.link := rfl
@[simp] theorem putStf_portHeld (s : State) (off hi lo v : Nat) : (s.putStf off hi lo v).portHeld = s.portHeld := rfl
@[simp] theorem putStf_lateWr (s : State) (off hi lo v : Nat) : (s.putStf off hi lo v).lateWr = s.lateWr := rfl
@[simp] theorem putStf_flash (s : State) (off hi lo v : Nat) : (s.putStf off hi lo v).flash = s.flash := rfl
@[simp] theorem putStf_log (s : State) (off hi lo v : Nat) : (s.putStf off hi lo v).log = s.log := rfl
@[simp] theorem putStf_nodes (s : State) (off hi lo v : Nat) : (s.putStf off hi lo v).nodes = s.nodes := rfl
@[simp] theorem putStf_alm (s : State) (off hi lo v : Nat) : (s.putStf off hi lo v).alm = s.alm := rfl
@[simp] theorem putStf_ledger (s : State) (off hi lo v : Nat) : (s.putStf off hi lo v).ledger = s.ledger := rfl
@[simp] theorem putStf_conv (s : State) (off hi lo v : Nat) : (s.putStf off hi lo v).conv = s.conv := rfl
@[simp] theorem putStf_krysa (s : State) (off hi lo v : Nat) : (s.putStf off hi lo v).krysa = s.krysa := rfl
@[simp] theorem putStf_nms (s : State) (off hi lo v : Nat) : (s.putStf off hi lo v).nms = s.nms := rfl
@[simp] theorem putStf_vigil (s : State) (off hi lo v : Nat) : (s.putStf off hi lo v).vigil = s.vigil := rfl
@[simp] theorem putStf_flt (s : State) (off hi lo v : Nat) : (s.putStf off hi lo v).flt = s.flt := rfl
@[simp] theorem putStf_sleep (s : State) (off hi lo v : Nat) : (s.putStf off hi lo v).sleep = s.sleep := rfl
@[simp] theorem putStf_tap (s : State) (off hi lo v : Nat) : (s.putStf off hi lo v).tap = s.tap := rfl
@[simp] theorem putStf_dram (s : State) (off hi lo v : Nat) : (s.putStf off hi lo v).dram = s.dram := rfl
@[simp] theorem putStf_dmErr (s : State) (off hi lo v : Nat) : (s.putStf off hi lo v).dmErr = s.dmErr := rfl
@[simp] theorem putStf_drbg (s : State) (off hi lo v : Nat) : (s.putStf off hi lo v).drbg = s.drbg := rfl
@[simp] theorem putStf_seq (s : State) (off hi lo v : Nat) : (s.putStf off hi lo v).seq = s.seq := rfl
@[simp] theorem putStf_outs (s : State) (off hi lo v : Nat) : (s.putStf off hi lo v).outs = s.outs := rfl
@[simp] theorem putStf_read_ring (s : State) (off hi lo v : Nat) (x : Nat) : (s.putStf off hi lo v).ring x = s.ring x := rfl
@[simp] theorem putStf_read_chan (s : State) (off hi lo v : Nat) (x : Nat) : (s.putStf off hi lo v).chan x = s.chan x := rfl
@[simp] theorem putStf_read_slot (s : State) (off hi lo v : Nat) (x : Nat) : (s.putStf off hi lo v).slot x = s.slot x := rfl
@[simp] theorem putStf_read_halted (s : State) (off hi lo v : Nat) : (s.putStf off hi lo v).halted = s.halted := rfl

@[simp] theorem evt_pending (s : State) (off n : Nat) : (s.evt off n).pending = s.pending := rfl
@[simp] theorem evt_host (s : State) (off n : Nat) : (s.evt off n).host = s.host := rfl
@[simp] theorem evt_tick (s : State) (off n : Nat) : (s.evt off n).tick = s.tick := rfl
@[simp] theorem evt_rings (s : State) (off n : Nat) : (s.evt off n).rings = s.rings := rfl
@[simp] theorem evt_vault (s : State) (off n : Nat) : (s.evt off n).vault = s.vault := rfl
@[simp] theorem evt_fuses (s : State) (off n : Nat) : (s.evt off n).fuses = s.fuses := rfl
@[simp] theorem evt_ch (s : State) (off n : Nat) : (s.evt off n).ch = s.ch := rfl
@[simp] theorem evt_part (s : State) (off n : Nat) : (s.evt off n).part = s.part := rfl
@[simp] theorem evt_boot (s : State) (off n : Nat) : (s.evt off n).boot = s.boot := rfl
@[simp] theorem evt_jf (s : State) (off n : Nat) : (s.evt off n).jf = s.jf := rfl
@[simp] theorem evt_mem (s : State) (off n : Nat) : (s.evt off n).mem = s.mem := rfl
@[simp] theorem evt_link (s : State) (off n : Nat) : (s.evt off n).link = s.link := rfl
@[simp] theorem evt_portHeld (s : State) (off n : Nat) : (s.evt off n).portHeld = s.portHeld := rfl
@[simp] theorem evt_lateWr (s : State) (off n : Nat) : (s.evt off n).lateWr = s.lateWr := rfl
@[simp] theorem evt_flash (s : State) (off n : Nat) : (s.evt off n).flash = s.flash := rfl
@[simp] theorem evt_log (s : State) (off n : Nat) : (s.evt off n).log = s.log := rfl
@[simp] theorem evt_nodes (s : State) (off n : Nat) : (s.evt off n).nodes = s.nodes := rfl
@[simp] theorem evt_alm (s : State) (off n : Nat) : (s.evt off n).alm = s.alm := rfl
@[simp] theorem evt_ledger (s : State) (off n : Nat) : (s.evt off n).ledger = s.ledger := rfl
@[simp] theorem evt_conv (s : State) (off n : Nat) : (s.evt off n).conv = s.conv := rfl
@[simp] theorem evt_krysa (s : State) (off n : Nat) : (s.evt off n).krysa = s.krysa := rfl
@[simp] theorem evt_nms (s : State) (off n : Nat) : (s.evt off n).nms = s.nms := rfl
@[simp] theorem evt_vigil (s : State) (off n : Nat) : (s.evt off n).vigil = s.vigil := rfl
@[simp] theorem evt_flt (s : State) (off n : Nat) : (s.evt off n).flt = s.flt := rfl
@[simp] theorem evt_sleep (s : State) (off n : Nat) : (s.evt off n).sleep = s.sleep := rfl
@[simp] theorem evt_tap (s : State) (off n : Nat) : (s.evt off n).tap = s.tap := rfl
@[simp] theorem evt_dram (s : State) (off n : Nat) : (s.evt off n).dram = s.dram := rfl
@[simp] theorem evt_dmErr (s : State) (off n : Nat) : (s.evt off n).dmErr = s.dmErr := rfl
@[simp] theorem evt_drbg (s : State) (off n : Nat) : (s.evt off n).drbg = s.drbg := rfl
@[simp] theorem evt_seq (s : State) (off n : Nat) : (s.evt off n).seq = s.seq := rfl
@[simp] theorem evt_outs (s : State) (off n : Nat) : (s.evt off n).outs = s.outs := rfl
@[simp] theorem evt_read_ring (s : State) (off n : Nat) (x : Nat) : (s.evt off n).ring x = s.ring x := rfl
@[simp] theorem evt_read_chan (s : State) (off n : Nat) (x : Nat) : (s.evt off n).chan x = s.chan x := rfl
@[simp] theorem evt_read_slot (s : State) (off n : Nat) (x : Nat) : (s.evt off n).slot x = s.slot x := rfl
@[simp] theorem evt_read_halted (s : State) (off n : Nat) : (s.evt off n).halted = s.halted := rfl

@[simp] theorem w1c_pending (s : State) (off v n : Nat) : (s.w1c off v n).pending = s.pending := rfl
@[simp] theorem w1c_host (s : State) (off v n : Nat) : (s.w1c off v n).host = s.host := rfl
@[simp] theorem w1c_tick (s : State) (off v n : Nat) : (s.w1c off v n).tick = s.tick := rfl
@[simp] theorem w1c_rings (s : State) (off v n : Nat) : (s.w1c off v n).rings = s.rings := rfl
@[simp] theorem w1c_vault (s : State) (off v n : Nat) : (s.w1c off v n).vault = s.vault := rfl
@[simp] theorem w1c_fuses (s : State) (off v n : Nat) : (s.w1c off v n).fuses = s.fuses := rfl
@[simp] theorem w1c_ch (s : State) (off v n : Nat) : (s.w1c off v n).ch = s.ch := rfl
@[simp] theorem w1c_part (s : State) (off v n : Nat) : (s.w1c off v n).part = s.part := rfl
@[simp] theorem w1c_boot (s : State) (off v n : Nat) : (s.w1c off v n).boot = s.boot := rfl
@[simp] theorem w1c_jf (s : State) (off v n : Nat) : (s.w1c off v n).jf = s.jf := rfl
@[simp] theorem w1c_mem (s : State) (off v n : Nat) : (s.w1c off v n).mem = s.mem := rfl
@[simp] theorem w1c_link (s : State) (off v n : Nat) : (s.w1c off v n).link = s.link := rfl
@[simp] theorem w1c_portHeld (s : State) (off v n : Nat) : (s.w1c off v n).portHeld = s.portHeld := rfl
@[simp] theorem w1c_lateWr (s : State) (off v n : Nat) : (s.w1c off v n).lateWr = s.lateWr := rfl
@[simp] theorem w1c_flash (s : State) (off v n : Nat) : (s.w1c off v n).flash = s.flash := rfl
@[simp] theorem w1c_log (s : State) (off v n : Nat) : (s.w1c off v n).log = s.log := rfl
@[simp] theorem w1c_nodes (s : State) (off v n : Nat) : (s.w1c off v n).nodes = s.nodes := rfl
@[simp] theorem w1c_alm (s : State) (off v n : Nat) : (s.w1c off v n).alm = s.alm := rfl
@[simp] theorem w1c_ledger (s : State) (off v n : Nat) : (s.w1c off v n).ledger = s.ledger := rfl
@[simp] theorem w1c_conv (s : State) (off v n : Nat) : (s.w1c off v n).conv = s.conv := rfl
@[simp] theorem w1c_krysa (s : State) (off v n : Nat) : (s.w1c off v n).krysa = s.krysa := rfl
@[simp] theorem w1c_nms (s : State) (off v n : Nat) : (s.w1c off v n).nms = s.nms := rfl
@[simp] theorem w1c_vigil (s : State) (off v n : Nat) : (s.w1c off v n).vigil = s.vigil := rfl
@[simp] theorem w1c_flt (s : State) (off v n : Nat) : (s.w1c off v n).flt = s.flt := rfl
@[simp] theorem w1c_sleep (s : State) (off v n : Nat) : (s.w1c off v n).sleep = s.sleep := rfl
@[simp] theorem w1c_tap (s : State) (off v n : Nat) : (s.w1c off v n).tap = s.tap := rfl
@[simp] theorem w1c_dram (s : State) (off v n : Nat) : (s.w1c off v n).dram = s.dram := rfl
@[simp] theorem w1c_dmErr (s : State) (off v n : Nat) : (s.w1c off v n).dmErr = s.dmErr := rfl
@[simp] theorem w1c_drbg (s : State) (off v n : Nat) : (s.w1c off v n).drbg = s.drbg := rfl
@[simp] theorem w1c_seq (s : State) (off v n : Nat) : (s.w1c off v n).seq = s.seq := rfl
@[simp] theorem w1c_outs (s : State) (off v n : Nat) : (s.w1c off v n).outs = s.outs := rfl
@[simp] theorem w1c_read_ring (s : State) (off v n : Nat) (x : Nat) : (s.w1c off v n).ring x = s.ring x := rfl
@[simp] theorem w1c_read_chan (s : State) (off v n : Nat) (x : Nat) : (s.w1c off v n).chan x = s.chan x := rfl
@[simp] theorem w1c_read_slot (s : State) (off v n : Nat) (x : Nat) : (s.w1c off v n).slot x = s.slot x := rfl
@[simp] theorem w1c_read_halted (s : State) (off v n : Nat) : (s.w1c off v n).halted = s.halted := rfl

@[simp] theorem inc_pending (s : State) (off hi lo : Nat) : (s.inc off hi lo).pending = s.pending := rfl
@[simp] theorem inc_host (s : State) (off hi lo : Nat) : (s.inc off hi lo).host = s.host := rfl
@[simp] theorem inc_tick (s : State) (off hi lo : Nat) : (s.inc off hi lo).tick = s.tick := rfl
@[simp] theorem inc_rings (s : State) (off hi lo : Nat) : (s.inc off hi lo).rings = s.rings := rfl
@[simp] theorem inc_vault (s : State) (off hi lo : Nat) : (s.inc off hi lo).vault = s.vault := rfl
@[simp] theorem inc_fuses (s : State) (off hi lo : Nat) : (s.inc off hi lo).fuses = s.fuses := rfl
@[simp] theorem inc_ch (s : State) (off hi lo : Nat) : (s.inc off hi lo).ch = s.ch := rfl
@[simp] theorem inc_part (s : State) (off hi lo : Nat) : (s.inc off hi lo).part = s.part := rfl
@[simp] theorem inc_boot (s : State) (off hi lo : Nat) : (s.inc off hi lo).boot = s.boot := rfl
@[simp] theorem inc_jf (s : State) (off hi lo : Nat) : (s.inc off hi lo).jf = s.jf := rfl
@[simp] theorem inc_mem (s : State) (off hi lo : Nat) : (s.inc off hi lo).mem = s.mem := rfl
@[simp] theorem inc_link (s : State) (off hi lo : Nat) : (s.inc off hi lo).link = s.link := rfl
@[simp] theorem inc_portHeld (s : State) (off hi lo : Nat) : (s.inc off hi lo).portHeld = s.portHeld := rfl
@[simp] theorem inc_lateWr (s : State) (off hi lo : Nat) : (s.inc off hi lo).lateWr = s.lateWr := rfl
@[simp] theorem inc_flash (s : State) (off hi lo : Nat) : (s.inc off hi lo).flash = s.flash := rfl
@[simp] theorem inc_log (s : State) (off hi lo : Nat) : (s.inc off hi lo).log = s.log := rfl
@[simp] theorem inc_nodes (s : State) (off hi lo : Nat) : (s.inc off hi lo).nodes = s.nodes := rfl
@[simp] theorem inc_alm (s : State) (off hi lo : Nat) : (s.inc off hi lo).alm = s.alm := rfl
@[simp] theorem inc_ledger (s : State) (off hi lo : Nat) : (s.inc off hi lo).ledger = s.ledger := rfl
@[simp] theorem inc_conv (s : State) (off hi lo : Nat) : (s.inc off hi lo).conv = s.conv := rfl
@[simp] theorem inc_krysa (s : State) (off hi lo : Nat) : (s.inc off hi lo).krysa = s.krysa := rfl
@[simp] theorem inc_nms (s : State) (off hi lo : Nat) : (s.inc off hi lo).nms = s.nms := rfl
@[simp] theorem inc_vigil (s : State) (off hi lo : Nat) : (s.inc off hi lo).vigil = s.vigil := rfl
@[simp] theorem inc_flt (s : State) (off hi lo : Nat) : (s.inc off hi lo).flt = s.flt := rfl
@[simp] theorem inc_sleep (s : State) (off hi lo : Nat) : (s.inc off hi lo).sleep = s.sleep := rfl
@[simp] theorem inc_tap (s : State) (off hi lo : Nat) : (s.inc off hi lo).tap = s.tap := rfl
@[simp] theorem inc_dram (s : State) (off hi lo : Nat) : (s.inc off hi lo).dram = s.dram := rfl
@[simp] theorem inc_dmErr (s : State) (off hi lo : Nat) : (s.inc off hi lo).dmErr = s.dmErr := rfl
@[simp] theorem inc_drbg (s : State) (off hi lo : Nat) : (s.inc off hi lo).drbg = s.drbg := rfl
@[simp] theorem inc_seq (s : State) (off hi lo : Nat) : (s.inc off hi lo).seq = s.seq := rfl
@[simp] theorem inc_outs (s : State) (off hi lo : Nat) : (s.inc off hi lo).outs = s.outs := rfl
@[simp] theorem inc_read_ring (s : State) (off hi lo : Nat) (x : Nat) : (s.inc off hi lo).ring x = s.ring x := rfl
@[simp] theorem inc_read_chan (s : State) (off hi lo : Nat) (x : Nat) : (s.inc off hi lo).chan x = s.chan x := rfl
@[simp] theorem inc_read_slot (s : State) (off hi lo : Nat) (x : Nat) : (s.inc off hi lo).slot x = s.slot x := rfl
@[simp] theorem inc_read_halted (s : State) (off hi lo : Nat) : (s.inc off hi lo).halted = s.halted := rfl

@[simp] theorem incBy_pending (s : State) (off hi lo d : Nat) : (s.incBy off hi lo d).pending = s.pending := rfl
@[simp] theorem incBy_host (s : State) (off hi lo d : Nat) : (s.incBy off hi lo d).host = s.host := rfl
@[simp] theorem incBy_tick (s : State) (off hi lo d : Nat) : (s.incBy off hi lo d).tick = s.tick := rfl
@[simp] theorem incBy_rings (s : State) (off hi lo d : Nat) : (s.incBy off hi lo d).rings = s.rings := rfl
@[simp] theorem incBy_vault (s : State) (off hi lo d : Nat) : (s.incBy off hi lo d).vault = s.vault := rfl
@[simp] theorem incBy_fuses (s : State) (off hi lo d : Nat) : (s.incBy off hi lo d).fuses = s.fuses := rfl
@[simp] theorem incBy_ch (s : State) (off hi lo d : Nat) : (s.incBy off hi lo d).ch = s.ch := rfl
@[simp] theorem incBy_part (s : State) (off hi lo d : Nat) : (s.incBy off hi lo d).part = s.part := rfl
@[simp] theorem incBy_boot (s : State) (off hi lo d : Nat) : (s.incBy off hi lo d).boot = s.boot := rfl
@[simp] theorem incBy_jf (s : State) (off hi lo d : Nat) : (s.incBy off hi lo d).jf = s.jf := rfl
@[simp] theorem incBy_mem (s : State) (off hi lo d : Nat) : (s.incBy off hi lo d).mem = s.mem := rfl
@[simp] theorem incBy_link (s : State) (off hi lo d : Nat) : (s.incBy off hi lo d).link = s.link := rfl
@[simp] theorem incBy_portHeld (s : State) (off hi lo d : Nat) : (s.incBy off hi lo d).portHeld = s.portHeld := rfl
@[simp] theorem incBy_lateWr (s : State) (off hi lo d : Nat) : (s.incBy off hi lo d).lateWr = s.lateWr := rfl
@[simp] theorem incBy_flash (s : State) (off hi lo d : Nat) : (s.incBy off hi lo d).flash = s.flash := rfl
@[simp] theorem incBy_log (s : State) (off hi lo d : Nat) : (s.incBy off hi lo d).log = s.log := rfl
@[simp] theorem incBy_nodes (s : State) (off hi lo d : Nat) : (s.incBy off hi lo d).nodes = s.nodes := rfl
@[simp] theorem incBy_alm (s : State) (off hi lo d : Nat) : (s.incBy off hi lo d).alm = s.alm := rfl
@[simp] theorem incBy_ledger (s : State) (off hi lo d : Nat) : (s.incBy off hi lo d).ledger = s.ledger := rfl
@[simp] theorem incBy_conv (s : State) (off hi lo d : Nat) : (s.incBy off hi lo d).conv = s.conv := rfl
@[simp] theorem incBy_krysa (s : State) (off hi lo d : Nat) : (s.incBy off hi lo d).krysa = s.krysa := rfl
@[simp] theorem incBy_nms (s : State) (off hi lo d : Nat) : (s.incBy off hi lo d).nms = s.nms := rfl
@[simp] theorem incBy_vigil (s : State) (off hi lo d : Nat) : (s.incBy off hi lo d).vigil = s.vigil := rfl
@[simp] theorem incBy_flt (s : State) (off hi lo d : Nat) : (s.incBy off hi lo d).flt = s.flt := rfl
@[simp] theorem incBy_sleep (s : State) (off hi lo d : Nat) : (s.incBy off hi lo d).sleep = s.sleep := rfl
@[simp] theorem incBy_tap (s : State) (off hi lo d : Nat) : (s.incBy off hi lo d).tap = s.tap := rfl
@[simp] theorem incBy_dram (s : State) (off hi lo d : Nat) : (s.incBy off hi lo d).dram = s.dram := rfl
@[simp] theorem incBy_dmErr (s : State) (off hi lo d : Nat) : (s.incBy off hi lo d).dmErr = s.dmErr := rfl
@[simp] theorem incBy_drbg (s : State) (off hi lo d : Nat) : (s.incBy off hi lo d).drbg = s.drbg := rfl
@[simp] theorem incBy_seq (s : State) (off hi lo d : Nat) : (s.incBy off hi lo d).seq = s.seq := rfl
@[simp] theorem incBy_outs (s : State) (off hi lo d : Nat) : (s.incBy off hi lo d).outs = s.outs := rfl
@[simp] theorem incBy_read_ring (s : State) (off hi lo d : Nat) (x : Nat) : (s.incBy off hi lo d).ring x = s.ring x := rfl
@[simp] theorem incBy_read_chan (s : State) (off hi lo d : Nat) (x : Nat) : (s.incBy off hi lo d).chan x = s.chan x := rfl
@[simp] theorem incBy_read_slot (s : State) (off hi lo d : Nat) (x : Nat) : (s.incBy off hi lo d).slot x = s.slot x := rfl
@[simp] theorem incBy_read_halted (s : State) (off hi lo d : Nat) : (s.incBy off hi lo d).halted = s.halted := rfl

@[simp] theorem modSlot_pending (s : State) (n : Nat) (f : Slot → Slot) : (s.modSlot n f).pending = s.pending := rfl
@[simp] theorem modSlot_regs (s : State) (n : Nat) (f : Slot → Slot) : (s.modSlot n f).regs = s.regs := rfl
@[simp] theorem modSlot_host (s : State) (n : Nat) (f : Slot → Slot) : (s.modSlot n f).host = s.host := rfl
@[simp] theorem modSlot_tick (s : State) (n : Nat) (f : Slot → Slot) : (s.modSlot n f).tick = s.tick := rfl
@[simp] theorem modSlot_rings (s : State) (n : Nat) (f : Slot → Slot) : (s.modSlot n f).rings = s.rings := rfl
@[simp] theorem modSlot_fuses (s : State) (n : Nat) (f : Slot → Slot) : (s.modSlot n f).fuses = s.fuses := rfl
@[simp] theorem modSlot_ch (s : State) (n : Nat) (f : Slot → Slot) : (s.modSlot n f).ch = s.ch := rfl
@[simp] theorem modSlot_part (s : State) (n : Nat) (f : Slot → Slot) : (s.modSlot n f).part = s.part := rfl
@[simp] theorem modSlot_boot (s : State) (n : Nat) (f : Slot → Slot) : (s.modSlot n f).boot = s.boot := rfl
@[simp] theorem modSlot_jf (s : State) (n : Nat) (f : Slot → Slot) : (s.modSlot n f).jf = s.jf := rfl
@[simp] theorem modSlot_mem (s : State) (n : Nat) (f : Slot → Slot) : (s.modSlot n f).mem = s.mem := rfl
@[simp] theorem modSlot_link (s : State) (n : Nat) (f : Slot → Slot) : (s.modSlot n f).link = s.link := rfl
@[simp] theorem modSlot_portHeld (s : State) (n : Nat) (f : Slot → Slot) : (s.modSlot n f).portHeld = s.portHeld := rfl
@[simp] theorem modSlot_lateWr (s : State) (n : Nat) (f : Slot → Slot) : (s.modSlot n f).lateWr = s.lateWr := rfl
@[simp] theorem modSlot_flash (s : State) (n : Nat) (f : Slot → Slot) : (s.modSlot n f).flash = s.flash := rfl
@[simp] theorem modSlot_log (s : State) (n : Nat) (f : Slot → Slot) : (s.modSlot n f).log = s.log := rfl
@[simp] theorem modSlot_nodes (s : State) (n : Nat) (f : Slot → Slot) : (s.modSlot n f).nodes = s.nodes := rfl
@[simp] theorem modSlot_alm (s : State) (n : Nat) (f : Slot → Slot) : (s.modSlot n f).alm = s.alm := rfl
@[simp] theorem modSlot_ledger (s : State) (n : Nat) (f : Slot → Slot) : (s.modSlot n f).ledger = s.ledger := rfl
@[simp] theorem modSlot_conv (s : State) (n : Nat) (f : Slot → Slot) : (s.modSlot n f).conv = s.conv := rfl
@[simp] theorem modSlot_krysa (s : State) (n : Nat) (f : Slot → Slot) : (s.modSlot n f).krysa = s.krysa := rfl
@[simp] theorem modSlot_nms (s : State) (n : Nat) (f : Slot → Slot) : (s.modSlot n f).nms = s.nms := rfl
@[simp] theorem modSlot_vigil (s : State) (n : Nat) (f : Slot → Slot) : (s.modSlot n f).vigil = s.vigil := rfl
@[simp] theorem modSlot_flt (s : State) (n : Nat) (f : Slot → Slot) : (s.modSlot n f).flt = s.flt := rfl
@[simp] theorem modSlot_sleep (s : State) (n : Nat) (f : Slot → Slot) : (s.modSlot n f).sleep = s.sleep := rfl
@[simp] theorem modSlot_tap (s : State) (n : Nat) (f : Slot → Slot) : (s.modSlot n f).tap = s.tap := rfl
@[simp] theorem modSlot_dram (s : State) (n : Nat) (f : Slot → Slot) : (s.modSlot n f).dram = s.dram := rfl
@[simp] theorem modSlot_dmErr (s : State) (n : Nat) (f : Slot → Slot) : (s.modSlot n f).dmErr = s.dmErr := rfl
@[simp] theorem modSlot_drbg (s : State) (n : Nat) (f : Slot → Slot) : (s.modSlot n f).drbg = s.drbg := rfl
@[simp] theorem modSlot_seq (s : State) (n : Nat) (f : Slot → Slot) : (s.modSlot n f).seq = s.seq := rfl
@[simp] theorem modSlot_outs (s : State) (n : Nat) (f : Slot → Slot) : (s.modSlot n f).outs = s.outs := rfl
@[simp] theorem modSlot_read_wr (s : State) (n : Nat) (f : Slot → Slot) (x : Nat) : (s.modSlot n f).wr x = s.wr x := rfl
@[simp] theorem modSlot_read_fc (s : State) (n : Nat) (f : Slot → Slot) (x : Nat) : (s.modSlot n f).fc x = s.fc x := rfl
@[simp] theorem modSlot_read_stw (s : State) (n : Nat) (f : Slot → Slot) (x : Nat) : (s.modSlot n f).stw x = s.stw x := rfl
@[simp] theorem modSlot_read_ring (s : State) (n : Nat) (f : Slot → Slot) (x : Nat) : (s.modSlot n f).ring x = s.ring x := rfl
@[simp] theorem modSlot_read_chan (s : State) (n : Nat) (f : Slot → Slot) (x : Nat) : (s.modSlot n f).chan x = s.chan x := rfl
@[simp] theorem modSlot_read_halted (s : State) (n : Nat) (f : Slot → Slot) : (s.modSlot n f).halted = s.halted := rfl

@[simp] theorem modChan_pending (s : State) (n : Nat) (f : Chan → Chan) : (s.modChan n f).pending = s.pending := rfl
@[simp] theorem modChan_regs (s : State) (n : Nat) (f : Chan → Chan) : (s.modChan n f).regs = s.regs := rfl
@[simp] theorem modChan_host (s : State) (n : Nat) (f : Chan → Chan) : (s.modChan n f).host = s.host := rfl
@[simp] theorem modChan_tick (s : State) (n : Nat) (f : Chan → Chan) : (s.modChan n f).tick = s.tick := rfl
@[simp] theorem modChan_rings (s : State) (n : Nat) (f : Chan → Chan) : (s.modChan n f).rings = s.rings := rfl
@[simp] theorem modChan_vault (s : State) (n : Nat) (f : Chan → Chan) : (s.modChan n f).vault = s.vault := rfl
@[simp] theorem modChan_fuses (s : State) (n : Nat) (f : Chan → Chan) : (s.modChan n f).fuses = s.fuses := rfl
@[simp] theorem modChan_part (s : State) (n : Nat) (f : Chan → Chan) : (s.modChan n f).part = s.part := rfl
@[simp] theorem modChan_boot (s : State) (n : Nat) (f : Chan → Chan) : (s.modChan n f).boot = s.boot := rfl
@[simp] theorem modChan_jf (s : State) (n : Nat) (f : Chan → Chan) : (s.modChan n f).jf = s.jf := rfl
@[simp] theorem modChan_mem (s : State) (n : Nat) (f : Chan → Chan) : (s.modChan n f).mem = s.mem := rfl
@[simp] theorem modChan_link (s : State) (n : Nat) (f : Chan → Chan) : (s.modChan n f).link = s.link := rfl
@[simp] theorem modChan_portHeld (s : State) (n : Nat) (f : Chan → Chan) : (s.modChan n f).portHeld = s.portHeld := rfl
@[simp] theorem modChan_lateWr (s : State) (n : Nat) (f : Chan → Chan) : (s.modChan n f).lateWr = s.lateWr := rfl
@[simp] theorem modChan_flash (s : State) (n : Nat) (f : Chan → Chan) : (s.modChan n f).flash = s.flash := rfl
@[simp] theorem modChan_log (s : State) (n : Nat) (f : Chan → Chan) : (s.modChan n f).log = s.log := rfl
@[simp] theorem modChan_nodes (s : State) (n : Nat) (f : Chan → Chan) : (s.modChan n f).nodes = s.nodes := rfl
@[simp] theorem modChan_alm (s : State) (n : Nat) (f : Chan → Chan) : (s.modChan n f).alm = s.alm := rfl
@[simp] theorem modChan_ledger (s : State) (n : Nat) (f : Chan → Chan) : (s.modChan n f).ledger = s.ledger := rfl
@[simp] theorem modChan_conv (s : State) (n : Nat) (f : Chan → Chan) : (s.modChan n f).conv = s.conv := rfl
@[simp] theorem modChan_krysa (s : State) (n : Nat) (f : Chan → Chan) : (s.modChan n f).krysa = s.krysa := rfl
@[simp] theorem modChan_nms (s : State) (n : Nat) (f : Chan → Chan) : (s.modChan n f).nms = s.nms := rfl
@[simp] theorem modChan_vigil (s : State) (n : Nat) (f : Chan → Chan) : (s.modChan n f).vigil = s.vigil := rfl
@[simp] theorem modChan_flt (s : State) (n : Nat) (f : Chan → Chan) : (s.modChan n f).flt = s.flt := rfl
@[simp] theorem modChan_sleep (s : State) (n : Nat) (f : Chan → Chan) : (s.modChan n f).sleep = s.sleep := rfl
@[simp] theorem modChan_tap (s : State) (n : Nat) (f : Chan → Chan) : (s.modChan n f).tap = s.tap := rfl
@[simp] theorem modChan_dram (s : State) (n : Nat) (f : Chan → Chan) : (s.modChan n f).dram = s.dram := rfl
@[simp] theorem modChan_dmErr (s : State) (n : Nat) (f : Chan → Chan) : (s.modChan n f).dmErr = s.dmErr := rfl
@[simp] theorem modChan_drbg (s : State) (n : Nat) (f : Chan → Chan) : (s.modChan n f).drbg = s.drbg := rfl
@[simp] theorem modChan_seq (s : State) (n : Nat) (f : Chan → Chan) : (s.modChan n f).seq = s.seq := rfl
@[simp] theorem modChan_outs (s : State) (n : Nat) (f : Chan → Chan) : (s.modChan n f).outs = s.outs := rfl
@[simp] theorem modChan_read_wr (s : State) (n : Nat) (f : Chan → Chan) (x : Nat) : (s.modChan n f).wr x = s.wr x := rfl
@[simp] theorem modChan_read_fc (s : State) (n : Nat) (f : Chan → Chan) (x : Nat) : (s.modChan n f).fc x = s.fc x := rfl
@[simp] theorem modChan_read_stw (s : State) (n : Nat) (f : Chan → Chan) (x : Nat) : (s.modChan n f).stw x = s.stw x := rfl
@[simp] theorem modChan_read_ring (s : State) (n : Nat) (f : Chan → Chan) (x : Nat) : (s.modChan n f).ring x = s.ring x := rfl
@[simp] theorem modChan_read_slot (s : State) (n : Nat) (f : Chan → Chan) (x : Nat) : (s.modChan n f).slot x = s.slot x := rfl
@[simp] theorem modChan_read_halted (s : State) (n : Nat) (f : Chan → Chan) : (s.modChan n f).halted = s.halted := rfl

@[simp] theorem modRing_pending (s : State) (n : Nat) (f : Ring → Ring) : (s.modRing n f).pending = s.pending := rfl
@[simp] theorem modRing_regs (s : State) (n : Nat) (f : Ring → Ring) : (s.modRing n f).regs = s.regs := rfl
@[simp] theorem modRing_host (s : State) (n : Nat) (f : Ring → Ring) : (s.modRing n f).host = s.host := rfl
@[simp] theorem modRing_tick (s : State) (n : Nat) (f : Ring → Ring) : (s.modRing n f).tick = s.tick := rfl
@[simp] theorem modRing_vault (s : State) (n : Nat) (f : Ring → Ring) : (s.modRing n f).vault = s.vault := rfl
@[simp] theorem modRing_fuses (s : State) (n : Nat) (f : Ring → Ring) : (s.modRing n f).fuses = s.fuses := rfl
@[simp] theorem modRing_ch (s : State) (n : Nat) (f : Ring → Ring) : (s.modRing n f).ch = s.ch := rfl
@[simp] theorem modRing_part (s : State) (n : Nat) (f : Ring → Ring) : (s.modRing n f).part = s.part := rfl
@[simp] theorem modRing_boot (s : State) (n : Nat) (f : Ring → Ring) : (s.modRing n f).boot = s.boot := rfl
@[simp] theorem modRing_jf (s : State) (n : Nat) (f : Ring → Ring) : (s.modRing n f).jf = s.jf := rfl
@[simp] theorem modRing_mem (s : State) (n : Nat) (f : Ring → Ring) : (s.modRing n f).mem = s.mem := rfl
@[simp] theorem modRing_link (s : State) (n : Nat) (f : Ring → Ring) : (s.modRing n f).link = s.link := rfl
@[simp] theorem modRing_portHeld (s : State) (n : Nat) (f : Ring → Ring) : (s.modRing n f).portHeld = s.portHeld := rfl
@[simp] theorem modRing_lateWr (s : State) (n : Nat) (f : Ring → Ring) : (s.modRing n f).lateWr = s.lateWr := rfl
@[simp] theorem modRing_flash (s : State) (n : Nat) (f : Ring → Ring) : (s.modRing n f).flash = s.flash := rfl
@[simp] theorem modRing_log (s : State) (n : Nat) (f : Ring → Ring) : (s.modRing n f).log = s.log := rfl
@[simp] theorem modRing_nodes (s : State) (n : Nat) (f : Ring → Ring) : (s.modRing n f).nodes = s.nodes := rfl
@[simp] theorem modRing_alm (s : State) (n : Nat) (f : Ring → Ring) : (s.modRing n f).alm = s.alm := rfl
@[simp] theorem modRing_ledger (s : State) (n : Nat) (f : Ring → Ring) : (s.modRing n f).ledger = s.ledger := rfl
@[simp] theorem modRing_conv (s : State) (n : Nat) (f : Ring → Ring) : (s.modRing n f).conv = s.conv := rfl
@[simp] theorem modRing_krysa (s : State) (n : Nat) (f : Ring → Ring) : (s.modRing n f).krysa = s.krysa := rfl
@[simp] theorem modRing_nms (s : State) (n : Nat) (f : Ring → Ring) : (s.modRing n f).nms = s.nms := rfl
@[simp] theorem modRing_vigil (s : State) (n : Nat) (f : Ring → Ring) : (s.modRing n f).vigil = s.vigil := rfl
@[simp] theorem modRing_flt (s : State) (n : Nat) (f : Ring → Ring) : (s.modRing n f).flt = s.flt := rfl
@[simp] theorem modRing_sleep (s : State) (n : Nat) (f : Ring → Ring) : (s.modRing n f).sleep = s.sleep := rfl
@[simp] theorem modRing_tap (s : State) (n : Nat) (f : Ring → Ring) : (s.modRing n f).tap = s.tap := rfl
@[simp] theorem modRing_dram (s : State) (n : Nat) (f : Ring → Ring) : (s.modRing n f).dram = s.dram := rfl
@[simp] theorem modRing_dmErr (s : State) (n : Nat) (f : Ring → Ring) : (s.modRing n f).dmErr = s.dmErr := rfl
@[simp] theorem modRing_drbg (s : State) (n : Nat) (f : Ring → Ring) : (s.modRing n f).drbg = s.drbg := rfl
@[simp] theorem modRing_seq (s : State) (n : Nat) (f : Ring → Ring) : (s.modRing n f).seq = s.seq := rfl
@[simp] theorem modRing_outs (s : State) (n : Nat) (f : Ring → Ring) : (s.modRing n f).outs = s.outs := rfl
@[simp] theorem modRing_read_wr (s : State) (n : Nat) (f : Ring → Ring) (x : Nat) : (s.modRing n f).wr x = s.wr x := rfl
@[simp] theorem modRing_read_fc (s : State) (n : Nat) (f : Ring → Ring) (x : Nat) : (s.modRing n f).fc x = s.fc x := rfl
@[simp] theorem modRing_read_stw (s : State) (n : Nat) (f : Ring → Ring) (x : Nat) : (s.modRing n f).stw x = s.stw x := rfl
@[simp] theorem modRing_read_chan (s : State) (n : Nat) (f : Ring → Ring) (x : Nat) : (s.modRing n f).chan x = s.chan x := rfl
@[simp] theorem modRing_read_slot (s : State) (n : Nat) (f : Ring → Ring) (x : Nat) : (s.modRing n f).slot x = s.slot x := rfl
@[simp] theorem modRing_read_halted (s : State) (n : Nat) (f : Ring → Ring) : (s.modRing n f).halted = s.halted := rfl

@[simp] theorem modAlm_pending (s : State) (f : Almanac → Almanac) : (s.modAlm f).pending = s.pending := rfl
@[simp] theorem modAlm_regs (s : State) (f : Almanac → Almanac) : (s.modAlm f).regs = s.regs := rfl
@[simp] theorem modAlm_host (s : State) (f : Almanac → Almanac) : (s.modAlm f).host = s.host := rfl
@[simp] theorem modAlm_tick (s : State) (f : Almanac → Almanac) : (s.modAlm f).tick = s.tick := rfl
@[simp] theorem modAlm_rings (s : State) (f : Almanac → Almanac) : (s.modAlm f).rings = s.rings := rfl
@[simp] theorem modAlm_vault (s : State) (f : Almanac → Almanac) : (s.modAlm f).vault = s.vault := rfl
@[simp] theorem modAlm_fuses (s : State) (f : Almanac → Almanac) : (s.modAlm f).fuses = s.fuses := rfl
@[simp] theorem modAlm_ch (s : State) (f : Almanac → Almanac) : (s.modAlm f).ch = s.ch := rfl
@[simp] theorem modAlm_part (s : State) (f : Almanac → Almanac) : (s.modAlm f).part = s.part := rfl
@[simp] theorem modAlm_boot (s : State) (f : Almanac → Almanac) : (s.modAlm f).boot = s.boot := rfl
@[simp] theorem modAlm_jf (s : State) (f : Almanac → Almanac) : (s.modAlm f).jf = s.jf := rfl
@[simp] theorem modAlm_mem (s : State) (f : Almanac → Almanac) : (s.modAlm f).mem = s.mem := rfl
@[simp] theorem modAlm_link (s : State) (f : Almanac → Almanac) : (s.modAlm f).link = s.link := rfl
@[simp] theorem modAlm_portHeld (s : State) (f : Almanac → Almanac) : (s.modAlm f).portHeld = s.portHeld := rfl
@[simp] theorem modAlm_lateWr (s : State) (f : Almanac → Almanac) : (s.modAlm f).lateWr = s.lateWr := rfl
@[simp] theorem modAlm_flash (s : State) (f : Almanac → Almanac) : (s.modAlm f).flash = s.flash := rfl
@[simp] theorem modAlm_log (s : State) (f : Almanac → Almanac) : (s.modAlm f).log = s.log := rfl
@[simp] theorem modAlm_nodes (s : State) (f : Almanac → Almanac) : (s.modAlm f).nodes = s.nodes := rfl
@[simp] theorem modAlm_alm (s : State) (f : Almanac → Almanac) : (s.modAlm f).alm = f s.alm := rfl
@[simp] theorem modAlm_ledger (s : State) (f : Almanac → Almanac) : (s.modAlm f).ledger = s.ledger := rfl
@[simp] theorem modAlm_conv (s : State) (f : Almanac → Almanac) : (s.modAlm f).conv = s.conv := rfl
@[simp] theorem modAlm_krysa (s : State) (f : Almanac → Almanac) : (s.modAlm f).krysa = s.krysa := rfl
@[simp] theorem modAlm_nms (s : State) (f : Almanac → Almanac) : (s.modAlm f).nms = s.nms := rfl
@[simp] theorem modAlm_vigil (s : State) (f : Almanac → Almanac) : (s.modAlm f).vigil = s.vigil := rfl
@[simp] theorem modAlm_flt (s : State) (f : Almanac → Almanac) : (s.modAlm f).flt = s.flt := rfl
@[simp] theorem modAlm_sleep (s : State) (f : Almanac → Almanac) : (s.modAlm f).sleep = s.sleep := rfl
@[simp] theorem modAlm_tap (s : State) (f : Almanac → Almanac) : (s.modAlm f).tap = s.tap := rfl
@[simp] theorem modAlm_dram (s : State) (f : Almanac → Almanac) : (s.modAlm f).dram = s.dram := rfl
@[simp] theorem modAlm_dmErr (s : State) (f : Almanac → Almanac) : (s.modAlm f).dmErr = s.dmErr := rfl
@[simp] theorem modAlm_drbg (s : State) (f : Almanac → Almanac) : (s.modAlm f).drbg = s.drbg := rfl
@[simp] theorem modAlm_seq (s : State) (f : Almanac → Almanac) : (s.modAlm f).seq = s.seq := rfl
@[simp] theorem modAlm_outs (s : State) (f : Almanac → Almanac) : (s.modAlm f).outs = s.outs := rfl
@[simp] theorem modAlm_read_wr (s : State) (f : Almanac → Almanac) (x : Nat) : (s.modAlm f).wr x = s.wr x := rfl
@[simp] theorem modAlm_read_fc (s : State) (f : Almanac → Almanac) (x : Nat) : (s.modAlm f).fc x = s.fc x := rfl
@[simp] theorem modAlm_read_stw (s : State) (f : Almanac → Almanac) (x : Nat) : (s.modAlm f).stw x = s.stw x := rfl
@[simp] theorem modAlm_read_ring (s : State) (f : Almanac → Almanac) (x : Nat) : (s.modAlm f).ring x = s.ring x := rfl
@[simp] theorem modAlm_read_chan (s : State) (f : Almanac → Almanac) (x : Nat) : (s.modAlm f).chan x = s.chan x := rfl
@[simp] theorem modAlm_read_slot (s : State) (f : Almanac → Almanac) (x : Nat) : (s.modAlm f).slot x = s.slot x := rfl
@[simp] theorem modAlm_read_halted (s : State) (f : Almanac → Almanac) : (s.modAlm f).halted = s.halted := rfl

@[simp] theorem modBoot_pending (s : State) (f : Boot → Boot) : (s.modBoot f).pending = s.pending := rfl
@[simp] theorem modBoot_regs (s : State) (f : Boot → Boot) : (s.modBoot f).regs = s.regs := rfl
@[simp] theorem modBoot_host (s : State) (f : Boot → Boot) : (s.modBoot f).host = s.host := rfl
@[simp] theorem modBoot_tick (s : State) (f : Boot → Boot) : (s.modBoot f).tick = s.tick := rfl
@[simp] theorem modBoot_rings (s : State) (f : Boot → Boot) : (s.modBoot f).rings = s.rings := rfl
@[simp] theorem modBoot_vault (s : State) (f : Boot → Boot) : (s.modBoot f).vault = s.vault := rfl
@[simp] theorem modBoot_fuses (s : State) (f : Boot → Boot) : (s.modBoot f).fuses = s.fuses := rfl
@[simp] theorem modBoot_ch (s : State) (f : Boot → Boot) : (s.modBoot f).ch = s.ch := rfl
@[simp] theorem modBoot_part (s : State) (f : Boot → Boot) : (s.modBoot f).part = s.part := rfl
@[simp] theorem modBoot_boot (s : State) (f : Boot → Boot) : (s.modBoot f).boot = f s.boot := rfl
@[simp] theorem modBoot_jf (s : State) (f : Boot → Boot) : (s.modBoot f).jf = s.jf := rfl
@[simp] theorem modBoot_mem (s : State) (f : Boot → Boot) : (s.modBoot f).mem = s.mem := rfl
@[simp] theorem modBoot_link (s : State) (f : Boot → Boot) : (s.modBoot f).link = s.link := rfl
@[simp] theorem modBoot_portHeld (s : State) (f : Boot → Boot) : (s.modBoot f).portHeld = s.portHeld := rfl
@[simp] theorem modBoot_lateWr (s : State) (f : Boot → Boot) : (s.modBoot f).lateWr = s.lateWr := rfl
@[simp] theorem modBoot_flash (s : State) (f : Boot → Boot) : (s.modBoot f).flash = s.flash := rfl
@[simp] theorem modBoot_log (s : State) (f : Boot → Boot) : (s.modBoot f).log = s.log := rfl
@[simp] theorem modBoot_nodes (s : State) (f : Boot → Boot) : (s.modBoot f).nodes = s.nodes := rfl
@[simp] theorem modBoot_alm (s : State) (f : Boot → Boot) : (s.modBoot f).alm = s.alm := rfl
@[simp] theorem modBoot_ledger (s : State) (f : Boot → Boot) : (s.modBoot f).ledger = s.ledger := rfl
@[simp] theorem modBoot_conv (s : State) (f : Boot → Boot) : (s.modBoot f).conv = s.conv := rfl
@[simp] theorem modBoot_krysa (s : State) (f : Boot → Boot) : (s.modBoot f).krysa = s.krysa := rfl
@[simp] theorem modBoot_nms (s : State) (f : Boot → Boot) : (s.modBoot f).nms = s.nms := rfl
@[simp] theorem modBoot_vigil (s : State) (f : Boot → Boot) : (s.modBoot f).vigil = s.vigil := rfl
@[simp] theorem modBoot_flt (s : State) (f : Boot → Boot) : (s.modBoot f).flt = s.flt := rfl
@[simp] theorem modBoot_sleep (s : State) (f : Boot → Boot) : (s.modBoot f).sleep = s.sleep := rfl
@[simp] theorem modBoot_tap (s : State) (f : Boot → Boot) : (s.modBoot f).tap = s.tap := rfl
@[simp] theorem modBoot_dram (s : State) (f : Boot → Boot) : (s.modBoot f).dram = s.dram := rfl
@[simp] theorem modBoot_dmErr (s : State) (f : Boot → Boot) : (s.modBoot f).dmErr = s.dmErr := rfl
@[simp] theorem modBoot_drbg (s : State) (f : Boot → Boot) : (s.modBoot f).drbg = s.drbg := rfl
@[simp] theorem modBoot_seq (s : State) (f : Boot → Boot) : (s.modBoot f).seq = s.seq := rfl
@[simp] theorem modBoot_outs (s : State) (f : Boot → Boot) : (s.modBoot f).outs = s.outs := rfl
@[simp] theorem modBoot_read_wr (s : State) (f : Boot → Boot) (x : Nat) : (s.modBoot f).wr x = s.wr x := rfl
@[simp] theorem modBoot_read_fc (s : State) (f : Boot → Boot) (x : Nat) : (s.modBoot f).fc x = s.fc x := rfl
@[simp] theorem modBoot_read_stw (s : State) (f : Boot → Boot) (x : Nat) : (s.modBoot f).stw x = s.stw x := rfl
@[simp] theorem modBoot_read_ring (s : State) (f : Boot → Boot) (x : Nat) : (s.modBoot f).ring x = s.ring x := rfl
@[simp] theorem modBoot_read_chan (s : State) (f : Boot → Boot) (x : Nat) : (s.modBoot f).chan x = s.chan x := rfl
@[simp] theorem modBoot_read_slot (s : State) (f : Boot → Boot) (x : Nat) : (s.modBoot f).slot x = s.slot x := rfl

@[simp] theorem modConvs_pending (s : State) (f : Convs → Convs) : (s.modConvs f).pending = s.pending := rfl
@[simp] theorem modConvs_regs (s : State) (f : Convs → Convs) : (s.modConvs f).regs = s.regs := rfl
@[simp] theorem modConvs_host (s : State) (f : Convs → Convs) : (s.modConvs f).host = s.host := rfl
@[simp] theorem modConvs_tick (s : State) (f : Convs → Convs) : (s.modConvs f).tick = s.tick := rfl
@[simp] theorem modConvs_rings (s : State) (f : Convs → Convs) : (s.modConvs f).rings = s.rings := rfl
@[simp] theorem modConvs_vault (s : State) (f : Convs → Convs) : (s.modConvs f).vault = s.vault := rfl
@[simp] theorem modConvs_fuses (s : State) (f : Convs → Convs) : (s.modConvs f).fuses = s.fuses := rfl
@[simp] theorem modConvs_ch (s : State) (f : Convs → Convs) : (s.modConvs f).ch = s.ch := rfl
@[simp] theorem modConvs_part (s : State) (f : Convs → Convs) : (s.modConvs f).part = s.part := rfl
@[simp] theorem modConvs_boot (s : State) (f : Convs → Convs) : (s.modConvs f).boot = s.boot := rfl
@[simp] theorem modConvs_jf (s : State) (f : Convs → Convs) : (s.modConvs f).jf = s.jf := rfl
@[simp] theorem modConvs_mem (s : State) (f : Convs → Convs) : (s.modConvs f).mem = s.mem := rfl
@[simp] theorem modConvs_link (s : State) (f : Convs → Convs) : (s.modConvs f).link = s.link := rfl
@[simp] theorem modConvs_portHeld (s : State) (f : Convs → Convs) : (s.modConvs f).portHeld = s.portHeld := rfl
@[simp] theorem modConvs_lateWr (s : State) (f : Convs → Convs) : (s.modConvs f).lateWr = s.lateWr := rfl
@[simp] theorem modConvs_flash (s : State) (f : Convs → Convs) : (s.modConvs f).flash = s.flash := rfl
@[simp] theorem modConvs_log (s : State) (f : Convs → Convs) : (s.modConvs f).log = s.log := rfl
@[simp] theorem modConvs_nodes (s : State) (f : Convs → Convs) : (s.modConvs f).nodes = s.nodes := rfl
@[simp] theorem modConvs_alm (s : State) (f : Convs → Convs) : (s.modConvs f).alm = s.alm := rfl
@[simp] theorem modConvs_ledger (s : State) (f : Convs → Convs) : (s.modConvs f).ledger = s.ledger := rfl
@[simp] theorem modConvs_conv (s : State) (f : Convs → Convs) : (s.modConvs f).conv = f s.conv := rfl
@[simp] theorem modConvs_krysa (s : State) (f : Convs → Convs) : (s.modConvs f).krysa = s.krysa := rfl
@[simp] theorem modConvs_nms (s : State) (f : Convs → Convs) : (s.modConvs f).nms = s.nms := rfl
@[simp] theorem modConvs_vigil (s : State) (f : Convs → Convs) : (s.modConvs f).vigil = s.vigil := rfl
@[simp] theorem modConvs_flt (s : State) (f : Convs → Convs) : (s.modConvs f).flt = s.flt := rfl
@[simp] theorem modConvs_sleep (s : State) (f : Convs → Convs) : (s.modConvs f).sleep = s.sleep := rfl
@[simp] theorem modConvs_tap (s : State) (f : Convs → Convs) : (s.modConvs f).tap = s.tap := rfl
@[simp] theorem modConvs_dram (s : State) (f : Convs → Convs) : (s.modConvs f).dram = s.dram := rfl
@[simp] theorem modConvs_dmErr (s : State) (f : Convs → Convs) : (s.modConvs f).dmErr = s.dmErr := rfl
@[simp] theorem modConvs_drbg (s : State) (f : Convs → Convs) : (s.modConvs f).drbg = s.drbg := rfl
@[simp] theorem modConvs_seq (s : State) (f : Convs → Convs) : (s.modConvs f).seq = s.seq := rfl
@[simp] theorem modConvs_outs (s : State) (f : Convs → Convs) : (s.modConvs f).outs = s.outs := rfl
@[simp] theorem modConvs_read_wr (s : State) (f : Convs → Convs) (x : Nat) : (s.modConvs f).wr x = s.wr x := rfl
@[simp] theorem modConvs_read_fc (s : State) (f : Convs → Convs) (x : Nat) : (s.modConvs f).fc x = s.fc x := rfl
@[simp] theorem modConvs_read_stw (s : State) (f : Convs → Convs) (x : Nat) : (s.modConvs f).stw x = s.stw x := rfl
@[simp] theorem modConvs_read_ring (s : State) (f : Convs → Convs) (x : Nat) : (s.modConvs f).ring x = s.ring x := rfl
@[simp] theorem modConvs_read_chan (s : State) (f : Convs → Convs) (x : Nat) : (s.modConvs f).chan x = s.chan x := rfl
@[simp] theorem modConvs_read_slot (s : State) (f : Convs → Convs) (x : Nat) : (s.modConvs f).slot x = s.slot x := rfl
@[simp] theorem modConvs_read_halted (s : State) (f : Convs → Convs) : (s.modConvs f).halted = s.halted := rfl

@[simp] theorem modConv_pending (s : State) (n : Nat) (f : Conv → Conv) : (s.modConv n f).pending = s.pending := rfl
@[simp] theorem modConv_regs (s : State) (n : Nat) (f : Conv → Conv) : (s.modConv n f).regs = s.regs := rfl
@[simp] theorem modConv_host (s : State) (n : Nat) (f : Conv → Conv) : (s.modConv n f).host = s.host := rfl
@[simp] theorem modConv_tick (s : State) (n : Nat) (f : Conv → Conv) : (s.modConv n f).tick = s.tick := rfl
@[simp] theorem modConv_rings (s : State) (n : Nat) (f : Conv → Conv) : (s.modConv n f).rings = s.rings := rfl
@[simp] theorem modConv_vault (s : State) (n : Nat) (f : Conv → Conv) : (s.modConv n f).vault = s.vault := rfl
@[simp] theorem modConv_fuses (s : State) (n : Nat) (f : Conv → Conv) : (s.modConv n f).fuses = s.fuses := rfl
@[simp] theorem modConv_ch (s : State) (n : Nat) (f : Conv → Conv) : (s.modConv n f).ch = s.ch := rfl
@[simp] theorem modConv_part (s : State) (n : Nat) (f : Conv → Conv) : (s.modConv n f).part = s.part := rfl
@[simp] theorem modConv_boot (s : State) (n : Nat) (f : Conv → Conv) : (s.modConv n f).boot = s.boot := rfl
@[simp] theorem modConv_jf (s : State) (n : Nat) (f : Conv → Conv) : (s.modConv n f).jf = s.jf := rfl
@[simp] theorem modConv_mem (s : State) (n : Nat) (f : Conv → Conv) : (s.modConv n f).mem = s.mem := rfl
@[simp] theorem modConv_link (s : State) (n : Nat) (f : Conv → Conv) : (s.modConv n f).link = s.link := rfl
@[simp] theorem modConv_portHeld (s : State) (n : Nat) (f : Conv → Conv) : (s.modConv n f).portHeld = s.portHeld := rfl
@[simp] theorem modConv_lateWr (s : State) (n : Nat) (f : Conv → Conv) : (s.modConv n f).lateWr = s.lateWr := rfl
@[simp] theorem modConv_flash (s : State) (n : Nat) (f : Conv → Conv) : (s.modConv n f).flash = s.flash := rfl
@[simp] theorem modConv_log (s : State) (n : Nat) (f : Conv → Conv) : (s.modConv n f).log = s.log := rfl
@[simp] theorem modConv_nodes (s : State) (n : Nat) (f : Conv → Conv) : (s.modConv n f).nodes = s.nodes := rfl
@[simp] theorem modConv_alm (s : State) (n : Nat) (f : Conv → Conv) : (s.modConv n f).alm = s.alm := rfl
@[simp] theorem modConv_ledger (s : State) (n : Nat) (f : Conv → Conv) : (s.modConv n f).ledger = s.ledger := rfl
@[simp] theorem modConv_krysa (s : State) (n : Nat) (f : Conv → Conv) : (s.modConv n f).krysa = s.krysa := rfl
@[simp] theorem modConv_nms (s : State) (n : Nat) (f : Conv → Conv) : (s.modConv n f).nms = s.nms := rfl
@[simp] theorem modConv_vigil (s : State) (n : Nat) (f : Conv → Conv) : (s.modConv n f).vigil = s.vigil := rfl
@[simp] theorem modConv_flt (s : State) (n : Nat) (f : Conv → Conv) : (s.modConv n f).flt = s.flt := rfl
@[simp] theorem modConv_sleep (s : State) (n : Nat) (f : Conv → Conv) : (s.modConv n f).sleep = s.sleep := rfl
@[simp] theorem modConv_tap (s : State) (n : Nat) (f : Conv → Conv) : (s.modConv n f).tap = s.tap := rfl
@[simp] theorem modConv_dram (s : State) (n : Nat) (f : Conv → Conv) : (s.modConv n f).dram = s.dram := rfl
@[simp] theorem modConv_dmErr (s : State) (n : Nat) (f : Conv → Conv) : (s.modConv n f).dmErr = s.dmErr := rfl
@[simp] theorem modConv_drbg (s : State) (n : Nat) (f : Conv → Conv) : (s.modConv n f).drbg = s.drbg := rfl
@[simp] theorem modConv_seq (s : State) (n : Nat) (f : Conv → Conv) : (s.modConv n f).seq = s.seq := rfl
@[simp] theorem modConv_outs (s : State) (n : Nat) (f : Conv → Conv) : (s.modConv n f).outs = s.outs := rfl
@[simp] theorem modConv_read_wr (s : State) (n : Nat) (f : Conv → Conv) (x : Nat) : (s.modConv n f).wr x = s.wr x := rfl
@[simp] theorem modConv_read_fc (s : State) (n : Nat) (f : Conv → Conv) (x : Nat) : (s.modConv n f).fc x = s.fc x := rfl
@[simp] theorem modConv_read_stw (s : State) (n : Nat) (f : Conv → Conv) (x : Nat) : (s.modConv n f).stw x = s.stw x := rfl
@[simp] theorem modConv_read_ring (s : State) (n : Nat) (f : Conv → Conv) (x : Nat) : (s.modConv n f).ring x = s.ring x := rfl
@[simp] theorem modConv_read_chan (s : State) (n : Nat) (f : Conv → Conv) (x : Nat) : (s.modConv n f).chan x = s.chan x := rfl
@[simp] theorem modConv_read_slot (s : State) (n : Nat) (f : Conv → Conv) (x : Nat) : (s.modConv n f).slot x = s.slot x := rfl
@[simp] theorem modConv_read_halted (s : State) (n : Nat) (f : Conv → Conv) : (s.modConv n f).halted = s.halted := rfl

@[simp] theorem modEngine_pending (s : State) (c e : Nat) (f : Engine → Engine) : (s.modEngine c e f).pending = s.pending := rfl
@[simp] theorem modEngine_regs (s : State) (c e : Nat) (f : Engine → Engine) : (s.modEngine c e f).regs = s.regs := rfl
@[simp] theorem modEngine_host (s : State) (c e : Nat) (f : Engine → Engine) : (s.modEngine c e f).host = s.host := rfl
@[simp] theorem modEngine_tick (s : State) (c e : Nat) (f : Engine → Engine) : (s.modEngine c e f).tick = s.tick := rfl
@[simp] theorem modEngine_rings (s : State) (c e : Nat) (f : Engine → Engine) : (s.modEngine c e f).rings = s.rings := rfl
@[simp] theorem modEngine_vault (s : State) (c e : Nat) (f : Engine → Engine) : (s.modEngine c e f).vault = s.vault := rfl
@[simp] theorem modEngine_fuses (s : State) (c e : Nat) (f : Engine → Engine) : (s.modEngine c e f).fuses = s.fuses := rfl
@[simp] theorem modEngine_ch (s : State) (c e : Nat) (f : Engine → Engine) : (s.modEngine c e f).ch = s.ch := rfl
@[simp] theorem modEngine_part (s : State) (c e : Nat) (f : Engine → Engine) : (s.modEngine c e f).part = s.part := rfl
@[simp] theorem modEngine_boot (s : State) (c e : Nat) (f : Engine → Engine) : (s.modEngine c e f).boot = s.boot := rfl
@[simp] theorem modEngine_jf (s : State) (c e : Nat) (f : Engine → Engine) : (s.modEngine c e f).jf = s.jf := rfl
@[simp] theorem modEngine_mem (s : State) (c e : Nat) (f : Engine → Engine) : (s.modEngine c e f).mem = s.mem := rfl
@[simp] theorem modEngine_link (s : State) (c e : Nat) (f : Engine → Engine) : (s.modEngine c e f).link = s.link := rfl
@[simp] theorem modEngine_portHeld (s : State) (c e : Nat) (f : Engine → Engine) : (s.modEngine c e f).portHeld = s.portHeld := rfl
@[simp] theorem modEngine_lateWr (s : State) (c e : Nat) (f : Engine → Engine) : (s.modEngine c e f).lateWr = s.lateWr := rfl
@[simp] theorem modEngine_flash (s : State) (c e : Nat) (f : Engine → Engine) : (s.modEngine c e f).flash = s.flash := rfl
@[simp] theorem modEngine_log (s : State) (c e : Nat) (f : Engine → Engine) : (s.modEngine c e f).log = s.log := rfl
@[simp] theorem modEngine_nodes (s : State) (c e : Nat) (f : Engine → Engine) : (s.modEngine c e f).nodes = s.nodes := rfl
@[simp] theorem modEngine_alm (s : State) (c e : Nat) (f : Engine → Engine) : (s.modEngine c e f).alm = s.alm := rfl
@[simp] theorem modEngine_ledger (s : State) (c e : Nat) (f : Engine → Engine) : (s.modEngine c e f).ledger = s.ledger := rfl
@[simp] theorem modEngine_krysa (s : State) (c e : Nat) (f : Engine → Engine) : (s.modEngine c e f).krysa = s.krysa := rfl
@[simp] theorem modEngine_nms (s : State) (c e : Nat) (f : Engine → Engine) : (s.modEngine c e f).nms = s.nms := rfl
@[simp] theorem modEngine_vigil (s : State) (c e : Nat) (f : Engine → Engine) : (s.modEngine c e f).vigil = s.vigil := rfl
@[simp] theorem modEngine_flt (s : State) (c e : Nat) (f : Engine → Engine) : (s.modEngine c e f).flt = s.flt := rfl
@[simp] theorem modEngine_sleep (s : State) (c e : Nat) (f : Engine → Engine) : (s.modEngine c e f).sleep = s.sleep := rfl
@[simp] theorem modEngine_tap (s : State) (c e : Nat) (f : Engine → Engine) : (s.modEngine c e f).tap = s.tap := rfl
@[simp] theorem modEngine_dram (s : State) (c e : Nat) (f : Engine → Engine) : (s.modEngine c e f).dram = s.dram := rfl
@[simp] theorem modEngine_dmErr (s : State) (c e : Nat) (f : Engine → Engine) : (s.modEngine c e f).dmErr = s.dmErr := rfl
@[simp] theorem modEngine_drbg (s : State) (c e : Nat) (f : Engine → Engine) : (s.modEngine c e f).drbg = s.drbg := rfl
@[simp] theorem modEngine_seq (s : State) (c e : Nat) (f : Engine → Engine) : (s.modEngine c e f).seq = s.seq := rfl
@[simp] theorem modEngine_outs (s : State) (c e : Nat) (f : Engine → Engine) : (s.modEngine c e f).outs = s.outs := rfl
@[simp] theorem modEngine_read_wr (s : State) (c e : Nat) (f : Engine → Engine) (x : Nat) : (s.modEngine c e f).wr x = s.wr x := rfl
@[simp] theorem modEngine_read_fc (s : State) (c e : Nat) (f : Engine → Engine) (x : Nat) : (s.modEngine c e f).fc x = s.fc x := rfl
@[simp] theorem modEngine_read_stw (s : State) (c e : Nat) (f : Engine → Engine) (x : Nat) : (s.modEngine c e f).stw x = s.stw x := rfl
@[simp] theorem modEngine_read_ring (s : State) (c e : Nat) (f : Engine → Engine) (x : Nat) : (s.modEngine c e f).ring x = s.ring x := rfl
@[simp] theorem modEngine_read_chan (s : State) (c e : Nat) (f : Engine → Engine) (x : Nat) : (s.modEngine c e f).chan x = s.chan x := rfl
@[simp] theorem modEngine_read_slot (s : State) (c e : Nat) (f : Engine → Engine) (x : Nat) : (s.modEngine c e f).slot x = s.slot x := rfl
@[simp] theorem modEngine_read_halted (s : State) (c e : Nat) (f : Engine → Engine) : (s.modEngine c e f).halted = s.halted := rfl

@[simp] theorem modFlt_pending (s : State) (f : Flt → Flt) : (s.modFlt f).pending = s.pending := rfl
@[simp] theorem modFlt_regs (s : State) (f : Flt → Flt) : (s.modFlt f).regs = s.regs := rfl
@[simp] theorem modFlt_host (s : State) (f : Flt → Flt) : (s.modFlt f).host = s.host := rfl
@[simp] theorem modFlt_tick (s : State) (f : Flt → Flt) : (s.modFlt f).tick = s.tick := rfl
@[simp] theorem modFlt_rings (s : State) (f : Flt → Flt) : (s.modFlt f).rings = s.rings := rfl
@[simp] theorem modFlt_vault (s : State) (f : Flt → Flt) : (s.modFlt f).vault = s.vault := rfl
@[simp] theorem modFlt_fuses (s : State) (f : Flt → Flt) : (s.modFlt f).fuses = s.fuses := rfl
@[simp] theorem modFlt_ch (s : State) (f : Flt → Flt) : (s.modFlt f).ch = s.ch := rfl
@[simp] theorem modFlt_part (s : State) (f : Flt → Flt) : (s.modFlt f).part = s.part := rfl
@[simp] theorem modFlt_boot (s : State) (f : Flt → Flt) : (s.modFlt f).boot = s.boot := rfl
@[simp] theorem modFlt_jf (s : State) (f : Flt → Flt) : (s.modFlt f).jf = s.jf := rfl
@[simp] theorem modFlt_mem (s : State) (f : Flt → Flt) : (s.modFlt f).mem = s.mem := rfl
@[simp] theorem modFlt_link (s : State) (f : Flt → Flt) : (s.modFlt f).link = s.link := rfl
@[simp] theorem modFlt_portHeld (s : State) (f : Flt → Flt) : (s.modFlt f).portHeld = s.portHeld := rfl
@[simp] theorem modFlt_lateWr (s : State) (f : Flt → Flt) : (s.modFlt f).lateWr = s.lateWr := rfl
@[simp] theorem modFlt_flash (s : State) (f : Flt → Flt) : (s.modFlt f).flash = s.flash := rfl
@[simp] theorem modFlt_log (s : State) (f : Flt → Flt) : (s.modFlt f).log = s.log := rfl
@[simp] theorem modFlt_nodes (s : State) (f : Flt → Flt) : (s.modFlt f).nodes = s.nodes := rfl
@[simp] theorem modFlt_alm (s : State) (f : Flt → Flt) : (s.modFlt f).alm = s.alm := rfl
@[simp] theorem modFlt_ledger (s : State) (f : Flt → Flt) : (s.modFlt f).ledger = s.ledger := rfl
@[simp] theorem modFlt_conv (s : State) (f : Flt → Flt) : (s.modFlt f).conv = s.conv := rfl
@[simp] theorem modFlt_krysa (s : State) (f : Flt → Flt) : (s.modFlt f).krysa = s.krysa := rfl
@[simp] theorem modFlt_nms (s : State) (f : Flt → Flt) : (s.modFlt f).nms = s.nms := rfl
@[simp] theorem modFlt_vigil (s : State) (f : Flt → Flt) : (s.modFlt f).vigil = s.vigil := rfl
@[simp] theorem modFlt_flt (s : State) (f : Flt → Flt) : (s.modFlt f).flt = f s.flt := rfl
@[simp] theorem modFlt_sleep (s : State) (f : Flt → Flt) : (s.modFlt f).sleep = s.sleep := rfl
@[simp] theorem modFlt_tap (s : State) (f : Flt → Flt) : (s.modFlt f).tap = s.tap := rfl
@[simp] theorem modFlt_dram (s : State) (f : Flt → Flt) : (s.modFlt f).dram = s.dram := rfl
@[simp] theorem modFlt_dmErr (s : State) (f : Flt → Flt) : (s.modFlt f).dmErr = s.dmErr := rfl
@[simp] theorem modFlt_drbg (s : State) (f : Flt → Flt) : (s.modFlt f).drbg = s.drbg := rfl
@[simp] theorem modFlt_seq (s : State) (f : Flt → Flt) : (s.modFlt f).seq = s.seq := rfl
@[simp] theorem modFlt_outs (s : State) (f : Flt → Flt) : (s.modFlt f).outs = s.outs := rfl
@[simp] theorem modFlt_read_wr (s : State) (f : Flt → Flt) (x : Nat) : (s.modFlt f).wr x = s.wr x := rfl
@[simp] theorem modFlt_read_fc (s : State) (f : Flt → Flt) (x : Nat) : (s.modFlt f).fc x = s.fc x := rfl
@[simp] theorem modFlt_read_stw (s : State) (f : Flt → Flt) (x : Nat) : (s.modFlt f).stw x = s.stw x := rfl
@[simp] theorem modFlt_read_ring (s : State) (f : Flt → Flt) (x : Nat) : (s.modFlt f).ring x = s.ring x := rfl
@[simp] theorem modFlt_read_chan (s : State) (f : Flt → Flt) (x : Nat) : (s.modFlt f).chan x = s.chan x := rfl
@[simp] theorem modFlt_read_slot (s : State) (f : Flt → Flt) (x : Nat) : (s.modFlt f).slot x = s.slot x := rfl
@[simp] theorem modFlt_read_halted (s : State) (f : Flt → Flt) : (s.modFlt f).halted = s.halted := rfl

@[simp] theorem modJf_pending (s : State) (f : Journal → Journal) : (s.modJf f).pending = s.pending := rfl
@[simp] theorem modJf_regs (s : State) (f : Journal → Journal) : (s.modJf f).regs = s.regs := rfl
@[simp] theorem modJf_host (s : State) (f : Journal → Journal) : (s.modJf f).host = s.host := rfl
@[simp] theorem modJf_tick (s : State) (f : Journal → Journal) : (s.modJf f).tick = s.tick := rfl
@[simp] theorem modJf_rings (s : State) (f : Journal → Journal) : (s.modJf f).rings = s.rings := rfl
@[simp] theorem modJf_vault (s : State) (f : Journal → Journal) : (s.modJf f).vault = s.vault := rfl
@[simp] theorem modJf_fuses (s : State) (f : Journal → Journal) : (s.modJf f).fuses = s.fuses := rfl
@[simp] theorem modJf_ch (s : State) (f : Journal → Journal) : (s.modJf f).ch = s.ch := rfl
@[simp] theorem modJf_part (s : State) (f : Journal → Journal) : (s.modJf f).part = s.part := rfl
@[simp] theorem modJf_boot (s : State) (f : Journal → Journal) : (s.modJf f).boot = s.boot := rfl
@[simp] theorem modJf_jf (s : State) (f : Journal → Journal) : (s.modJf f).jf = f s.jf := rfl
@[simp] theorem modJf_mem (s : State) (f : Journal → Journal) : (s.modJf f).mem = s.mem := rfl
@[simp] theorem modJf_link (s : State) (f : Journal → Journal) : (s.modJf f).link = s.link := rfl
@[simp] theorem modJf_portHeld (s : State) (f : Journal → Journal) : (s.modJf f).portHeld = s.portHeld := rfl
@[simp] theorem modJf_lateWr (s : State) (f : Journal → Journal) : (s.modJf f).lateWr = s.lateWr := rfl
@[simp] theorem modJf_flash (s : State) (f : Journal → Journal) : (s.modJf f).flash = s.flash := rfl
@[simp] theorem modJf_log (s : State) (f : Journal → Journal) : (s.modJf f).log = s.log := rfl
@[simp] theorem modJf_nodes (s : State) (f : Journal → Journal) : (s.modJf f).nodes = s.nodes := rfl
@[simp] theorem modJf_alm (s : State) (f : Journal → Journal) : (s.modJf f).alm = s.alm := rfl
@[simp] theorem modJf_ledger (s : State) (f : Journal → Journal) : (s.modJf f).ledger = s.ledger := rfl
@[simp] theorem modJf_conv (s : State) (f : Journal → Journal) : (s.modJf f).conv = s.conv := rfl
@[simp] theorem modJf_krysa (s : State) (f : Journal → Journal) : (s.modJf f).krysa = s.krysa := rfl
@[simp] theorem modJf_nms (s : State) (f : Journal → Journal) : (s.modJf f).nms = s.nms := rfl
@[simp] theorem modJf_vigil (s : State) (f : Journal → Journal) : (s.modJf f).vigil = s.vigil := rfl
@[simp] theorem modJf_flt (s : State) (f : Journal → Journal) : (s.modJf f).flt = s.flt := rfl
@[simp] theorem modJf_sleep (s : State) (f : Journal → Journal) : (s.modJf f).sleep = s.sleep := rfl
@[simp] theorem modJf_tap (s : State) (f : Journal → Journal) : (s.modJf f).tap = s.tap := rfl
@[simp] theorem modJf_dram (s : State) (f : Journal → Journal) : (s.modJf f).dram = s.dram := rfl
@[simp] theorem modJf_dmErr (s : State) (f : Journal → Journal) : (s.modJf f).dmErr = s.dmErr := rfl
@[simp] theorem modJf_drbg (s : State) (f : Journal → Journal) : (s.modJf f).drbg = s.drbg := rfl
@[simp] theorem modJf_seq (s : State) (f : Journal → Journal) : (s.modJf f).seq = s.seq := rfl
@[simp] theorem modJf_outs (s : State) (f : Journal → Journal) : (s.modJf f).outs = s.outs := rfl
@[simp] theorem modJf_read_wr (s : State) (f : Journal → Journal) (x : Nat) : (s.modJf f).wr x = s.wr x := rfl
@[simp] theorem modJf_read_fc (s : State) (f : Journal → Journal) (x : Nat) : (s.modJf f).fc x = s.fc x := rfl
@[simp] theorem modJf_read_stw (s : State) (f : Journal → Journal) (x : Nat) : (s.modJf f).stw x = s.stw x := rfl
@[simp] theorem modJf_read_ring (s : State) (f : Journal → Journal) (x : Nat) : (s.modJf f).ring x = s.ring x := rfl
@[simp] theorem modJf_read_chan (s : State) (f : Journal → Journal) (x : Nat) : (s.modJf f).chan x = s.chan x := rfl
@[simp] theorem modJf_read_slot (s : State) (f : Journal → Journal) (x : Nat) : (s.modJf f).slot x = s.slot x := rfl
@[simp] theorem modJf_read_halted (s : State) (f : Journal → Journal) : (s.modJf f).halted = s.halted := rfl

@[simp] theorem modJob_pending (s : State) (n : Nat) (f : Job → Job) : (s.modJob n f).pending = s.pending := rfl
@[simp] theorem modJob_regs (s : State) (n : Nat) (f : Job → Job) : (s.modJob n f).regs = s.regs := rfl
@[simp] theorem modJob_host (s : State) (n : Nat) (f : Job → Job) : (s.modJob n f).host = s.host := rfl
@[simp] theorem modJob_tick (s : State) (n : Nat) (f : Job → Job) : (s.modJob n f).tick = s.tick := rfl
@[simp] theorem modJob_rings (s : State) (n : Nat) (f : Job → Job) : (s.modJob n f).rings = s.rings := rfl
@[simp] theorem modJob_vault (s : State) (n : Nat) (f : Job → Job) : (s.modJob n f).vault = s.vault := rfl
@[simp] theorem modJob_fuses (s : State) (n : Nat) (f : Job → Job) : (s.modJob n f).fuses = s.fuses := rfl
@[simp] theorem modJob_ch (s : State) (n : Nat) (f : Job → Job) : (s.modJob n f).ch = s.ch := rfl
@[simp] theorem modJob_part (s : State) (n : Nat) (f : Job → Job) : (s.modJob n f).part = s.part := rfl
@[simp] theorem modJob_boot (s : State) (n : Nat) (f : Job → Job) : (s.modJob n f).boot = s.boot := rfl
@[simp] theorem modJob_jf (s : State) (n : Nat) (f : Job → Job) : (s.modJob n f).jf = s.jf := rfl
@[simp] theorem modJob_link (s : State) (n : Nat) (f : Job → Job) : (s.modJob n f).link = s.link := rfl
@[simp] theorem modJob_portHeld (s : State) (n : Nat) (f : Job → Job) : (s.modJob n f).portHeld = s.portHeld := rfl
@[simp] theorem modJob_lateWr (s : State) (n : Nat) (f : Job → Job) : (s.modJob n f).lateWr = s.lateWr := rfl
@[simp] theorem modJob_flash (s : State) (n : Nat) (f : Job → Job) : (s.modJob n f).flash = s.flash := rfl
@[simp] theorem modJob_log (s : State) (n : Nat) (f : Job → Job) : (s.modJob n f).log = s.log := rfl
@[simp] theorem modJob_nodes (s : State) (n : Nat) (f : Job → Job) : (s.modJob n f).nodes = s.nodes := rfl
@[simp] theorem modJob_alm (s : State) (n : Nat) (f : Job → Job) : (s.modJob n f).alm = s.alm := rfl
@[simp] theorem modJob_ledger (s : State) (n : Nat) (f : Job → Job) : (s.modJob n f).ledger = s.ledger := rfl
@[simp] theorem modJob_conv (s : State) (n : Nat) (f : Job → Job) : (s.modJob n f).conv = s.conv := rfl
@[simp] theorem modJob_krysa (s : State) (n : Nat) (f : Job → Job) : (s.modJob n f).krysa = s.krysa := rfl
@[simp] theorem modJob_nms (s : State) (n : Nat) (f : Job → Job) : (s.modJob n f).nms = s.nms := rfl
@[simp] theorem modJob_vigil (s : State) (n : Nat) (f : Job → Job) : (s.modJob n f).vigil = s.vigil := rfl
@[simp] theorem modJob_flt (s : State) (n : Nat) (f : Job → Job) : (s.modJob n f).flt = s.flt := rfl
@[simp] theorem modJob_sleep (s : State) (n : Nat) (f : Job → Job) : (s.modJob n f).sleep = s.sleep := rfl
@[simp] theorem modJob_tap (s : State) (n : Nat) (f : Job → Job) : (s.modJob n f).tap = s.tap := rfl
@[simp] theorem modJob_dram (s : State) (n : Nat) (f : Job → Job) : (s.modJob n f).dram = s.dram := rfl
@[simp] theorem modJob_dmErr (s : State) (n : Nat) (f : Job → Job) : (s.modJob n f).dmErr = s.dmErr := rfl
@[simp] theorem modJob_drbg (s : State) (n : Nat) (f : Job → Job) : (s.modJob n f).drbg = s.drbg := rfl
@[simp] theorem modJob_seq (s : State) (n : Nat) (f : Job → Job) : (s.modJob n f).seq = s.seq := rfl
@[simp] theorem modJob_outs (s : State) (n : Nat) (f : Job → Job) : (s.modJob n f).outs = s.outs := rfl
@[simp] theorem modJob_read_wr (s : State) (n : Nat) (f : Job → Job) (x : Nat) : (s.modJob n f).wr x = s.wr x := rfl
@[simp] theorem modJob_read_fc (s : State) (n : Nat) (f : Job → Job) (x : Nat) : (s.modJob n f).fc x = s.fc x := rfl
@[simp] theorem modJob_read_stw (s : State) (n : Nat) (f : Job → Job) (x : Nat) : (s.modJob n f).stw x = s.stw x := rfl
@[simp] theorem modJob_read_ring (s : State) (n : Nat) (f : Job → Job) (x : Nat) : (s.modJob n f).ring x = s.ring x := rfl
@[simp] theorem modJob_read_chan (s : State) (n : Nat) (f : Job → Job) (x : Nat) : (s.modJob n f).chan x = s.chan x := rfl
@[simp] theorem modJob_read_slot (s : State) (n : Nat) (f : Job → Job) (x : Nat) : (s.modJob n f).slot x = s.slot x := rfl
@[simp] theorem modJob_read_halted (s : State) (n : Nat) (f : Job → Job) : (s.modJob n f).halted = s.halted := rfl

@[simp] theorem modMchan_pending (s : State) (n : Nat) (f : MemChan → MemChan) : (s.modMchan n f).pending = s.pending := rfl
@[simp] theorem modMchan_regs (s : State) (n : Nat) (f : MemChan → MemChan) : (s.modMchan n f).regs = s.regs := rfl
@[simp] theorem modMchan_host (s : State) (n : Nat) (f : MemChan → MemChan) : (s.modMchan n f).host = s.host := rfl
@[simp] theorem modMchan_tick (s : State) (n : Nat) (f : MemChan → MemChan) : (s.modMchan n f).tick = s.tick := rfl
@[simp] theorem modMchan_rings (s : State) (n : Nat) (f : MemChan → MemChan) : (s.modMchan n f).rings = s.rings := rfl
@[simp] theorem modMchan_vault (s : State) (n : Nat) (f : MemChan → MemChan) : (s.modMchan n f).vault = s.vault := rfl
@[simp] theorem modMchan_fuses (s : State) (n : Nat) (f : MemChan → MemChan) : (s.modMchan n f).fuses = s.fuses := rfl
@[simp] theorem modMchan_ch (s : State) (n : Nat) (f : MemChan → MemChan) : (s.modMchan n f).ch = s.ch := rfl
@[simp] theorem modMchan_part (s : State) (n : Nat) (f : MemChan → MemChan) : (s.modMchan n f).part = s.part := rfl
@[simp] theorem modMchan_boot (s : State) (n : Nat) (f : MemChan → MemChan) : (s.modMchan n f).boot = s.boot := rfl
@[simp] theorem modMchan_jf (s : State) (n : Nat) (f : MemChan → MemChan) : (s.modMchan n f).jf = s.jf := rfl
@[simp] theorem modMchan_link (s : State) (n : Nat) (f : MemChan → MemChan) : (s.modMchan n f).link = s.link := rfl
@[simp] theorem modMchan_portHeld (s : State) (n : Nat) (f : MemChan → MemChan) : (s.modMchan n f).portHeld = s.portHeld := rfl
@[simp] theorem modMchan_lateWr (s : State) (n : Nat) (f : MemChan → MemChan) : (s.modMchan n f).lateWr = s.lateWr := rfl
@[simp] theorem modMchan_flash (s : State) (n : Nat) (f : MemChan → MemChan) : (s.modMchan n f).flash = s.flash := rfl
@[simp] theorem modMchan_log (s : State) (n : Nat) (f : MemChan → MemChan) : (s.modMchan n f).log = s.log := rfl
@[simp] theorem modMchan_nodes (s : State) (n : Nat) (f : MemChan → MemChan) : (s.modMchan n f).nodes = s.nodes := rfl
@[simp] theorem modMchan_alm (s : State) (n : Nat) (f : MemChan → MemChan) : (s.modMchan n f).alm = s.alm := rfl
@[simp] theorem modMchan_ledger (s : State) (n : Nat) (f : MemChan → MemChan) : (s.modMchan n f).ledger = s.ledger := rfl
@[simp] theorem modMchan_conv (s : State) (n : Nat) (f : MemChan → MemChan) : (s.modMchan n f).conv = s.conv := rfl
@[simp] theorem modMchan_krysa (s : State) (n : Nat) (f : MemChan → MemChan) : (s.modMchan n f).krysa = s.krysa := rfl
@[simp] theorem modMchan_nms (s : State) (n : Nat) (f : MemChan → MemChan) : (s.modMchan n f).nms = s.nms := rfl
@[simp] theorem modMchan_vigil (s : State) (n : Nat) (f : MemChan → MemChan) : (s.modMchan n f).vigil = s.vigil := rfl
@[simp] theorem modMchan_flt (s : State) (n : Nat) (f : MemChan → MemChan) : (s.modMchan n f).flt = s.flt := rfl
@[simp] theorem modMchan_sleep (s : State) (n : Nat) (f : MemChan → MemChan) : (s.modMchan n f).sleep = s.sleep := rfl
@[simp] theorem modMchan_tap (s : State) (n : Nat) (f : MemChan → MemChan) : (s.modMchan n f).tap = s.tap := rfl
@[simp] theorem modMchan_dram (s : State) (n : Nat) (f : MemChan → MemChan) : (s.modMchan n f).dram = s.dram := rfl
@[simp] theorem modMchan_dmErr (s : State) (n : Nat) (f : MemChan → MemChan) : (s.modMchan n f).dmErr = s.dmErr := rfl
@[simp] theorem modMchan_drbg (s : State) (n : Nat) (f : MemChan → MemChan) : (s.modMchan n f).drbg = s.drbg := rfl
@[simp] theorem modMchan_seq (s : State) (n : Nat) (f : MemChan → MemChan) : (s.modMchan n f).seq = s.seq := rfl
@[simp] theorem modMchan_outs (s : State) (n : Nat) (f : MemChan → MemChan) : (s.modMchan n f).outs = s.outs := rfl
@[simp] theorem modMchan_read_wr (s : State) (n : Nat) (f : MemChan → MemChan) (x : Nat) : (s.modMchan n f).wr x = s.wr x := rfl
@[simp] theorem modMchan_read_fc (s : State) (n : Nat) (f : MemChan → MemChan) (x : Nat) : (s.modMchan n f).fc x = s.fc x := rfl
@[simp] theorem modMchan_read_stw (s : State) (n : Nat) (f : MemChan → MemChan) (x : Nat) : (s.modMchan n f).stw x = s.stw x := rfl
@[simp] theorem modMchan_read_ring (s : State) (n : Nat) (f : MemChan → MemChan) (x : Nat) : (s.modMchan n f).ring x = s.ring x := rfl
@[simp] theorem modMchan_read_chan (s : State) (n : Nat) (f : MemChan → MemChan) (x : Nat) : (s.modMchan n f).chan x = s.chan x := rfl
@[simp] theorem modMchan_read_slot (s : State) (n : Nat) (f : MemChan → MemChan) (x : Nat) : (s.modMchan n f).slot x = s.slot x := rfl
@[simp] theorem modMchan_read_halted (s : State) (n : Nat) (f : MemChan → MemChan) : (s.modMchan n f).halted = s.halted := rfl

@[simp] theorem modRegion_pending (s : State) (n : Nat) (f : Region → Region) : (s.modRegion n f).pending = s.pending := rfl
@[simp] theorem modRegion_regs (s : State) (n : Nat) (f : Region → Region) : (s.modRegion n f).regs = s.regs := rfl
@[simp] theorem modRegion_host (s : State) (n : Nat) (f : Region → Region) : (s.modRegion n f).host = s.host := rfl
@[simp] theorem modRegion_tick (s : State) (n : Nat) (f : Region → Region) : (s.modRegion n f).tick = s.tick := rfl
@[simp] theorem modRegion_rings (s : State) (n : Nat) (f : Region → Region) : (s.modRegion n f).rings = s.rings := rfl
@[simp] theorem modRegion_vault (s : State) (n : Nat) (f : Region → Region) : (s.modRegion n f).vault = s.vault := rfl
@[simp] theorem modRegion_fuses (s : State) (n : Nat) (f : Region → Region) : (s.modRegion n f).fuses = s.fuses := rfl
@[simp] theorem modRegion_ch (s : State) (n : Nat) (f : Region → Region) : (s.modRegion n f).ch = s.ch := rfl
@[simp] theorem modRegion_part (s : State) (n : Nat) (f : Region → Region) : (s.modRegion n f).part = s.part := rfl
@[simp] theorem modRegion_boot (s : State) (n : Nat) (f : Region → Region) : (s.modRegion n f).boot = s.boot := rfl
@[simp] theorem modRegion_jf (s : State) (n : Nat) (f : Region → Region) : (s.modRegion n f).jf = s.jf := rfl
@[simp] theorem modRegion_link (s : State) (n : Nat) (f : Region → Region) : (s.modRegion n f).link = s.link := rfl
@[simp] theorem modRegion_portHeld (s : State) (n : Nat) (f : Region → Region) : (s.modRegion n f).portHeld = s.portHeld := rfl
@[simp] theorem modRegion_lateWr (s : State) (n : Nat) (f : Region → Region) : (s.modRegion n f).lateWr = s.lateWr := rfl
@[simp] theorem modRegion_flash (s : State) (n : Nat) (f : Region → Region) : (s.modRegion n f).flash = s.flash := rfl
@[simp] theorem modRegion_log (s : State) (n : Nat) (f : Region → Region) : (s.modRegion n f).log = s.log := rfl
@[simp] theorem modRegion_nodes (s : State) (n : Nat) (f : Region → Region) : (s.modRegion n f).nodes = s.nodes := rfl
@[simp] theorem modRegion_alm (s : State) (n : Nat) (f : Region → Region) : (s.modRegion n f).alm = s.alm := rfl
@[simp] theorem modRegion_ledger (s : State) (n : Nat) (f : Region → Region) : (s.modRegion n f).ledger = s.ledger := rfl
@[simp] theorem modRegion_conv (s : State) (n : Nat) (f : Region → Region) : (s.modRegion n f).conv = s.conv := rfl
@[simp] theorem modRegion_krysa (s : State) (n : Nat) (f : Region → Region) : (s.modRegion n f).krysa = s.krysa := rfl
@[simp] theorem modRegion_nms (s : State) (n : Nat) (f : Region → Region) : (s.modRegion n f).nms = s.nms := rfl
@[simp] theorem modRegion_vigil (s : State) (n : Nat) (f : Region → Region) : (s.modRegion n f).vigil = s.vigil := rfl
@[simp] theorem modRegion_flt (s : State) (n : Nat) (f : Region → Region) : (s.modRegion n f).flt = s.flt := rfl
@[simp] theorem modRegion_sleep (s : State) (n : Nat) (f : Region → Region) : (s.modRegion n f).sleep = s.sleep := rfl
@[simp] theorem modRegion_tap (s : State) (n : Nat) (f : Region → Region) : (s.modRegion n f).tap = s.tap := rfl
@[simp] theorem modRegion_dram (s : State) (n : Nat) (f : Region → Region) : (s.modRegion n f).dram = s.dram := rfl
@[simp] theorem modRegion_dmErr (s : State) (n : Nat) (f : Region → Region) : (s.modRegion n f).dmErr = s.dmErr := rfl
@[simp] theorem modRegion_drbg (s : State) (n : Nat) (f : Region → Region) : (s.modRegion n f).drbg = s.drbg := rfl
@[simp] theorem modRegion_seq (s : State) (n : Nat) (f : Region → Region) : (s.modRegion n f).seq = s.seq := rfl
@[simp] theorem modRegion_outs (s : State) (n : Nat) (f : Region → Region) : (s.modRegion n f).outs = s.outs := rfl
@[simp] theorem modRegion_read_wr (s : State) (n : Nat) (f : Region → Region) (x : Nat) : (s.modRegion n f).wr x = s.wr x := rfl
@[simp] theorem modRegion_read_fc (s : State) (n : Nat) (f : Region → Region) (x : Nat) : (s.modRegion n f).fc x = s.fc x := rfl
@[simp] theorem modRegion_read_stw (s : State) (n : Nat) (f : Region → Region) (x : Nat) : (s.modRegion n f).stw x = s.stw x := rfl
@[simp] theorem modRegion_read_ring (s : State) (n : Nat) (f : Region → Region) (x : Nat) : (s.modRegion n f).ring x = s.ring x := rfl
@[simp] theorem modRegion_read_chan (s : State) (n : Nat) (f : Region → Region) (x : Nat) : (s.modRegion n f).chan x = s.chan x := rfl
@[simp] theorem modRegion_read_slot (s : State) (n : Nat) (f : Region → Region) (x : Nat) : (s.modRegion n f).slot x = s.slot x := rfl
@[simp] theorem modRegion_read_halted (s : State) (n : Nat) (f : Region → Region) : (s.modRegion n f).halted = s.halted := rfl

@[simp] theorem modKr_pending (s : State) (f : Krysa → Krysa) : (s.modKr f).pending = s.pending := rfl
@[simp] theorem modKr_regs (s : State) (f : Krysa → Krysa) : (s.modKr f).regs = s.regs := rfl
@[simp] theorem modKr_host (s : State) (f : Krysa → Krysa) : (s.modKr f).host = s.host := rfl
@[simp] theorem modKr_tick (s : State) (f : Krysa → Krysa) : (s.modKr f).tick = s.tick := rfl
@[simp] theorem modKr_rings (s : State) (f : Krysa → Krysa) : (s.modKr f).rings = s.rings := rfl
@[simp] theorem modKr_vault (s : State) (f : Krysa → Krysa) : (s.modKr f).vault = s.vault := rfl
@[simp] theorem modKr_fuses (s : State) (f : Krysa → Krysa) : (s.modKr f).fuses = s.fuses := rfl
@[simp] theorem modKr_ch (s : State) (f : Krysa → Krysa) : (s.modKr f).ch = s.ch := rfl
@[simp] theorem modKr_part (s : State) (f : Krysa → Krysa) : (s.modKr f).part = s.part := rfl
@[simp] theorem modKr_boot (s : State) (f : Krysa → Krysa) : (s.modKr f).boot = s.boot := rfl
@[simp] theorem modKr_jf (s : State) (f : Krysa → Krysa) : (s.modKr f).jf = s.jf := rfl
@[simp] theorem modKr_mem (s : State) (f : Krysa → Krysa) : (s.modKr f).mem = s.mem := rfl
@[simp] theorem modKr_link (s : State) (f : Krysa → Krysa) : (s.modKr f).link = s.link := rfl
@[simp] theorem modKr_portHeld (s : State) (f : Krysa → Krysa) : (s.modKr f).portHeld = s.portHeld := rfl
@[simp] theorem modKr_lateWr (s : State) (f : Krysa → Krysa) : (s.modKr f).lateWr = s.lateWr := rfl
@[simp] theorem modKr_flash (s : State) (f : Krysa → Krysa) : (s.modKr f).flash = s.flash := rfl
@[simp] theorem modKr_log (s : State) (f : Krysa → Krysa) : (s.modKr f).log = s.log := rfl
@[simp] theorem modKr_nodes (s : State) (f : Krysa → Krysa) : (s.modKr f).nodes = s.nodes := rfl
@[simp] theorem modKr_alm (s : State) (f : Krysa → Krysa) : (s.modKr f).alm = s.alm := rfl
@[simp] theorem modKr_ledger (s : State) (f : Krysa → Krysa) : (s.modKr f).ledger = s.ledger := rfl
@[simp] theorem modKr_conv (s : State) (f : Krysa → Krysa) : (s.modKr f).conv = s.conv := rfl
@[simp] theorem modKr_krysa (s : State) (f : Krysa → Krysa) : (s.modKr f).krysa = f s.krysa := rfl
@[simp] theorem modKr_nms (s : State) (f : Krysa → Krysa) : (s.modKr f).nms = s.nms := rfl
@[simp] theorem modKr_vigil (s : State) (f : Krysa → Krysa) : (s.modKr f).vigil = s.vigil := rfl
@[simp] theorem modKr_flt (s : State) (f : Krysa → Krysa) : (s.modKr f).flt = s.flt := rfl
@[simp] theorem modKr_sleep (s : State) (f : Krysa → Krysa) : (s.modKr f).sleep = s.sleep := rfl
@[simp] theorem modKr_tap (s : State) (f : Krysa → Krysa) : (s.modKr f).tap = s.tap := rfl
@[simp] theorem modKr_dram (s : State) (f : Krysa → Krysa) : (s.modKr f).dram = s.dram := rfl
@[simp] theorem modKr_dmErr (s : State) (f : Krysa → Krysa) : (s.modKr f).dmErr = s.dmErr := rfl
@[simp] theorem modKr_drbg (s : State) (f : Krysa → Krysa) : (s.modKr f).drbg = s.drbg := rfl
@[simp] theorem modKr_seq (s : State) (f : Krysa → Krysa) : (s.modKr f).seq = s.seq := rfl
@[simp] theorem modKr_outs (s : State) (f : Krysa → Krysa) : (s.modKr f).outs = s.outs := rfl
@[simp] theorem modKr_read_wr (s : State) (f : Krysa → Krysa) (x : Nat) : (s.modKr f).wr x = s.wr x := rfl
@[simp] theorem modKr_read_fc (s : State) (f : Krysa → Krysa) (x : Nat) : (s.modKr f).fc x = s.fc x := rfl
@[simp] theorem modKr_read_stw (s : State) (f : Krysa → Krysa) (x : Nat) : (s.modKr f).stw x = s.stw x := rfl
@[simp] theorem modKr_read_ring (s : State) (f : Krysa → Krysa) (x : Nat) : (s.modKr f).ring x = s.ring x := rfl
@[simp] theorem modKr_read_chan (s : State) (f : Krysa → Krysa) (x : Nat) : (s.modKr f).chan x = s.chan x := rfl
@[simp] theorem modKr_read_slot (s : State) (f : Krysa → Krysa) (x : Nat) : (s.modKr f).slot x = s.slot x := rfl
@[simp] theorem modKr_read_halted (s : State) (f : Krysa → Krysa) : (s.modKr f).halted = s.halted := rfl

@[simp] theorem modPeer_pending (s : State) (n : Nat) (f : Peer → Peer) : (s.modPeer n f).pending = s.pending := rfl
@[simp] theorem modPeer_regs (s : State) (n : Nat) (f : Peer → Peer) : (s.modPeer n f).regs = s.regs := rfl
@[simp] theorem modPeer_host (s : State) (n : Nat) (f : Peer → Peer) : (s.modPeer n f).host = s.host := rfl
@[simp] theorem modPeer_tick (s : State) (n : Nat) (f : Peer → Peer) : (s.modPeer n f).tick = s.tick := rfl
@[simp] theorem modPeer_rings (s : State) (n : Nat) (f : Peer → Peer) : (s.modPeer n f).rings = s.rings := rfl
@[simp] theorem modPeer_vault (s : State) (n : Nat) (f : Peer → Peer) : (s.modPeer n f).vault = s.vault := rfl
@[simp] theorem modPeer_fuses (s : State) (n : Nat) (f : Peer → Peer) : (s.modPeer n f).fuses = s.fuses := rfl
@[simp] theorem modPeer_ch (s : State) (n : Nat) (f : Peer → Peer) : (s.modPeer n f).ch = s.ch := rfl
@[simp] theorem modPeer_part (s : State) (n : Nat) (f : Peer → Peer) : (s.modPeer n f).part = s.part := rfl
@[simp] theorem modPeer_boot (s : State) (n : Nat) (f : Peer → Peer) : (s.modPeer n f).boot = s.boot := rfl
@[simp] theorem modPeer_jf (s : State) (n : Nat) (f : Peer → Peer) : (s.modPeer n f).jf = s.jf := rfl
@[simp] theorem modPeer_mem (s : State) (n : Nat) (f : Peer → Peer) : (s.modPeer n f).mem = s.mem := rfl
@[simp] theorem modPeer_link (s : State) (n : Nat) (f : Peer → Peer) : (s.modPeer n f).link = s.link := rfl
@[simp] theorem modPeer_portHeld (s : State) (n : Nat) (f : Peer → Peer) : (s.modPeer n f).portHeld = s.portHeld := rfl
@[simp] theorem modPeer_lateWr (s : State) (n : Nat) (f : Peer → Peer) : (s.modPeer n f).lateWr = s.lateWr := rfl
@[simp] theorem modPeer_flash (s : State) (n : Nat) (f : Peer → Peer) : (s.modPeer n f).flash = s.flash := rfl
@[simp] theorem modPeer_log (s : State) (n : Nat) (f : Peer → Peer) : (s.modPeer n f).log = s.log := rfl
@[simp] theorem modPeer_nodes (s : State) (n : Nat) (f : Peer → Peer) : (s.modPeer n f).nodes = s.nodes := rfl
@[simp] theorem modPeer_alm (s : State) (n : Nat) (f : Peer → Peer) : (s.modPeer n f).alm = s.alm := rfl
@[simp] theorem modPeer_ledger (s : State) (n : Nat) (f : Peer → Peer) : (s.modPeer n f).ledger = s.ledger := rfl
@[simp] theorem modPeer_conv (s : State) (n : Nat) (f : Peer → Peer) : (s.modPeer n f).conv = s.conv := rfl
@[simp] theorem modPeer_nms (s : State) (n : Nat) (f : Peer → Peer) : (s.modPeer n f).nms = s.nms := rfl
@[simp] theorem modPeer_vigil (s : State) (n : Nat) (f : Peer → Peer) : (s.modPeer n f).vigil = s.vigil := rfl
@[simp] theorem modPeer_flt (s : State) (n : Nat) (f : Peer → Peer) : (s.modPeer n f).flt = s.flt := rfl
@[simp] theorem modPeer_sleep (s : State) (n : Nat) (f : Peer → Peer) : (s.modPeer n f).sleep = s.sleep := rfl
@[simp] theorem modPeer_tap (s : State) (n : Nat) (f : Peer → Peer) : (s.modPeer n f).tap = s.tap := rfl
@[simp] theorem modPeer_dram (s : State) (n : Nat) (f : Peer → Peer) : (s.modPeer n f).dram = s.dram := rfl
@[simp] theorem modPeer_dmErr (s : State) (n : Nat) (f : Peer → Peer) : (s.modPeer n f).dmErr = s.dmErr := rfl
@[simp] theorem modPeer_drbg (s : State) (n : Nat) (f : Peer → Peer) : (s.modPeer n f).drbg = s.drbg := rfl
@[simp] theorem modPeer_seq (s : State) (n : Nat) (f : Peer → Peer) : (s.modPeer n f).seq = s.seq := rfl
@[simp] theorem modPeer_outs (s : State) (n : Nat) (f : Peer → Peer) : (s.modPeer n f).outs = s.outs := rfl
@[simp] theorem modPeer_read_wr (s : State) (n : Nat) (f : Peer → Peer) (x : Nat) : (s.modPeer n f).wr x = s.wr x := rfl
@[simp] theorem modPeer_read_fc (s : State) (n : Nat) (f : Peer → Peer) (x : Nat) : (s.modPeer n f).fc x = s.fc x := rfl
@[simp] theorem modPeer_read_stw (s : State) (n : Nat) (f : Peer → Peer) (x : Nat) : (s.modPeer n f).stw x = s.stw x := rfl
@[simp] theorem modPeer_read_ring (s : State) (n : Nat) (f : Peer → Peer) (x : Nat) : (s.modPeer n f).ring x = s.ring x := rfl
@[simp] theorem modPeer_read_chan (s : State) (n : Nat) (f : Peer → Peer) (x : Nat) : (s.modPeer n f).chan x = s.chan x := rfl
@[simp] theorem modPeer_read_slot (s : State) (n : Nat) (f : Peer → Peer) (x : Nat) : (s.modPeer n f).slot x = s.slot x := rfl
@[simp] theorem modPeer_read_halted (s : State) (n : Nat) (f : Peer → Peer) : (s.modPeer n f).halted = s.halted := rfl

@[simp] theorem modLg_pending (s : State) (f : Ledger → Ledger) : (s.modLg f).pending = s.pending := rfl
@[simp] theorem modLg_regs (s : State) (f : Ledger → Ledger) : (s.modLg f).regs = s.regs := rfl
@[simp] theorem modLg_host (s : State) (f : Ledger → Ledger) : (s.modLg f).host = s.host := rfl
@[simp] theorem modLg_tick (s : State) (f : Ledger → Ledger) : (s.modLg f).tick = s.tick := rfl
@[simp] theorem modLg_rings (s : State) (f : Ledger → Ledger) : (s.modLg f).rings = s.rings := rfl
@[simp] theorem modLg_vault (s : State) (f : Ledger → Ledger) : (s.modLg f).vault = s.vault := rfl
@[simp] theorem modLg_fuses (s : State) (f : Ledger → Ledger) : (s.modLg f).fuses = s.fuses := rfl
@[simp] theorem modLg_ch (s : State) (f : Ledger → Ledger) : (s.modLg f).ch = s.ch := rfl
@[simp] theorem modLg_part (s : State) (f : Ledger → Ledger) : (s.modLg f).part = s.part := rfl
@[simp] theorem modLg_boot (s : State) (f : Ledger → Ledger) : (s.modLg f).boot = s.boot := rfl
@[simp] theorem modLg_jf (s : State) (f : Ledger → Ledger) : (s.modLg f).jf = s.jf := rfl
@[simp] theorem modLg_mem (s : State) (f : Ledger → Ledger) : (s.modLg f).mem = s.mem := rfl
@[simp] theorem modLg_link (s : State) (f : Ledger → Ledger) : (s.modLg f).link = s.link := rfl
@[simp] theorem modLg_portHeld (s : State) (f : Ledger → Ledger) : (s.modLg f).portHeld = s.portHeld := rfl
@[simp] theorem modLg_lateWr (s : State) (f : Ledger → Ledger) : (s.modLg f).lateWr = s.lateWr := rfl
@[simp] theorem modLg_flash (s : State) (f : Ledger → Ledger) : (s.modLg f).flash = s.flash := rfl
@[simp] theorem modLg_log (s : State) (f : Ledger → Ledger) : (s.modLg f).log = s.log := rfl
@[simp] theorem modLg_nodes (s : State) (f : Ledger → Ledger) : (s.modLg f).nodes = s.nodes := rfl
@[simp] theorem modLg_alm (s : State) (f : Ledger → Ledger) : (s.modLg f).alm = s.alm := rfl
@[simp] theorem modLg_ledger (s : State) (f : Ledger → Ledger) : (s.modLg f).ledger = f s.ledger := rfl
@[simp] theorem modLg_conv (s : State) (f : Ledger → Ledger) : (s.modLg f).conv = s.conv := rfl
@[simp] theorem modLg_krysa (s : State) (f : Ledger → Ledger) : (s.modLg f).krysa = s.krysa := rfl
@[simp] theorem modLg_nms (s : State) (f : Ledger → Ledger) : (s.modLg f).nms = s.nms := rfl
@[simp] theorem modLg_vigil (s : State) (f : Ledger → Ledger) : (s.modLg f).vigil = s.vigil := rfl
@[simp] theorem modLg_flt (s : State) (f : Ledger → Ledger) : (s.modLg f).flt = s.flt := rfl
@[simp] theorem modLg_sleep (s : State) (f : Ledger → Ledger) : (s.modLg f).sleep = s.sleep := rfl
@[simp] theorem modLg_tap (s : State) (f : Ledger → Ledger) : (s.modLg f).tap = s.tap := rfl
@[simp] theorem modLg_dram (s : State) (f : Ledger → Ledger) : (s.modLg f).dram = s.dram := rfl
@[simp] theorem modLg_dmErr (s : State) (f : Ledger → Ledger) : (s.modLg f).dmErr = s.dmErr := rfl
@[simp] theorem modLg_drbg (s : State) (f : Ledger → Ledger) : (s.modLg f).drbg = s.drbg := rfl
@[simp] theorem modLg_seq (s : State) (f : Ledger → Ledger) : (s.modLg f).seq = s.seq := rfl
@[simp] theorem modLg_outs (s : State) (f : Ledger → Ledger) : (s.modLg f).outs = s.outs := rfl
@[simp] theorem modLg_read_wr (s : State) (f : Ledger → Ledger) (x : Nat) : (s.modLg f).wr x = s.wr x := rfl
@[simp] theorem modLg_read_fc (s : State) (f : Ledger → Ledger) (x : Nat) : (s.modLg f).fc x = s.fc x := rfl
@[simp] theorem modLg_read_stw (s : State) (f : Ledger → Ledger) (x : Nat) : (s.modLg f).stw x = s.stw x := rfl
@[simp] theorem modLg_read_ring (s : State) (f : Ledger → Ledger) (x : Nat) : (s.modLg f).ring x = s.ring x := rfl
@[simp] theorem modLg_read_chan (s : State) (f : Ledger → Ledger) (x : Nat) : (s.modLg f).chan x = s.chan x := rfl
@[simp] theorem modLg_read_slot (s : State) (f : Ledger → Ledger) (x : Nat) : (s.modLg f).slot x = s.slot x := rfl
@[simp] theorem modLg_read_halted (s : State) (f : Ledger → Ledger) : (s.modLg f).halted = s.halted := rfl

@[simp] theorem modNms_pending (s : State) (f : Nms → Nms) : (s.modNms f).pending = s.pending := rfl
@[simp] theorem modNms_regs (s : State) (f : Nms → Nms) : (s.modNms f).regs = s.regs := rfl
@[simp] theorem modNms_host (s : State) (f : Nms → Nms) : (s.modNms f).host = s.host := rfl
@[simp] theorem modNms_tick (s : State) (f : Nms → Nms) : (s.modNms f).tick = s.tick := rfl
@[simp] theorem modNms_rings (s : State) (f : Nms → Nms) : (s.modNms f).rings = s.rings := rfl
@[simp] theorem modNms_vault (s : State) (f : Nms → Nms) : (s.modNms f).vault = s.vault := rfl
@[simp] theorem modNms_fuses (s : State) (f : Nms → Nms) : (s.modNms f).fuses = s.fuses := rfl
@[simp] theorem modNms_ch (s : State) (f : Nms → Nms) : (s.modNms f).ch = s.ch := rfl
@[simp] theorem modNms_part (s : State) (f : Nms → Nms) : (s.modNms f).part = s.part := rfl
@[simp] theorem modNms_boot (s : State) (f : Nms → Nms) : (s.modNms f).boot = s.boot := rfl
@[simp] theorem modNms_jf (s : State) (f : Nms → Nms) : (s.modNms f).jf = s.jf := rfl
@[simp] theorem modNms_mem (s : State) (f : Nms → Nms) : (s.modNms f).mem = s.mem := rfl
@[simp] theorem modNms_link (s : State) (f : Nms → Nms) : (s.modNms f).link = s.link := rfl
@[simp] theorem modNms_portHeld (s : State) (f : Nms → Nms) : (s.modNms f).portHeld = s.portHeld := rfl
@[simp] theorem modNms_lateWr (s : State) (f : Nms → Nms) : (s.modNms f).lateWr = s.lateWr := rfl
@[simp] theorem modNms_flash (s : State) (f : Nms → Nms) : (s.modNms f).flash = s.flash := rfl
@[simp] theorem modNms_log (s : State) (f : Nms → Nms) : (s.modNms f).log = s.log := rfl
@[simp] theorem modNms_nodes (s : State) (f : Nms → Nms) : (s.modNms f).nodes = s.nodes := rfl
@[simp] theorem modNms_alm (s : State) (f : Nms → Nms) : (s.modNms f).alm = s.alm := rfl
@[simp] theorem modNms_ledger (s : State) (f : Nms → Nms) : (s.modNms f).ledger = s.ledger := rfl
@[simp] theorem modNms_conv (s : State) (f : Nms → Nms) : (s.modNms f).conv = s.conv := rfl
@[simp] theorem modNms_krysa (s : State) (f : Nms → Nms) : (s.modNms f).krysa = s.krysa := rfl
@[simp] theorem modNms_nms (s : State) (f : Nms → Nms) : (s.modNms f).nms = f s.nms := rfl
@[simp] theorem modNms_vigil (s : State) (f : Nms → Nms) : (s.modNms f).vigil = s.vigil := rfl
@[simp] theorem modNms_flt (s : State) (f : Nms → Nms) : (s.modNms f).flt = s.flt := rfl
@[simp] theorem modNms_sleep (s : State) (f : Nms → Nms) : (s.modNms f).sleep = s.sleep := rfl
@[simp] theorem modNms_tap (s : State) (f : Nms → Nms) : (s.modNms f).tap = s.tap := rfl
@[simp] theorem modNms_dram (s : State) (f : Nms → Nms) : (s.modNms f).dram = s.dram := rfl
@[simp] theorem modNms_dmErr (s : State) (f : Nms → Nms) : (s.modNms f).dmErr = s.dmErr := rfl
@[simp] theorem modNms_drbg (s : State) (f : Nms → Nms) : (s.modNms f).drbg = s.drbg := rfl
@[simp] theorem modNms_seq (s : State) (f : Nms → Nms) : (s.modNms f).seq = s.seq := rfl
@[simp] theorem modNms_outs (s : State) (f : Nms → Nms) : (s.modNms f).outs = s.outs := rfl
@[simp] theorem modNms_read_wr (s : State) (f : Nms → Nms) (x : Nat) : (s.modNms f).wr x = s.wr x := rfl
@[simp] theorem modNms_read_fc (s : State) (f : Nms → Nms) (x : Nat) : (s.modNms f).fc x = s.fc x := rfl
@[simp] theorem modNms_read_stw (s : State) (f : Nms → Nms) (x : Nat) : (s.modNms f).stw x = s.stw x := rfl
@[simp] theorem modNms_read_ring (s : State) (f : Nms → Nms) (x : Nat) : (s.modNms f).ring x = s.ring x := rfl
@[simp] theorem modNms_read_chan (s : State) (f : Nms → Nms) (x : Nat) : (s.modNms f).chan x = s.chan x := rfl
@[simp] theorem modNms_read_slot (s : State) (f : Nms → Nms) (x : Nat) : (s.modNms f).slot x = s.slot x := rfl
@[simp] theorem modNms_read_halted (s : State) (f : Nms → Nms) : (s.modNms f).halted = s.halted := rfl

@[simp] theorem modPath_pending (s : State) (n : Nat) (f : Path → Path) : (s.modPath n f).pending = s.pending := rfl
@[simp] theorem modPath_regs (s : State) (n : Nat) (f : Path → Path) : (s.modPath n f).regs = s.regs := rfl
@[simp] theorem modPath_host (s : State) (n : Nat) (f : Path → Path) : (s.modPath n f).host = s.host := rfl
@[simp] theorem modPath_tick (s : State) (n : Nat) (f : Path → Path) : (s.modPath n f).tick = s.tick := rfl
@[simp] theorem modPath_rings (s : State) (n : Nat) (f : Path → Path) : (s.modPath n f).rings = s.rings := rfl
@[simp] theorem modPath_vault (s : State) (n : Nat) (f : Path → Path) : (s.modPath n f).vault = s.vault := rfl
@[simp] theorem modPath_fuses (s : State) (n : Nat) (f : Path → Path) : (s.modPath n f).fuses = s.fuses := rfl
@[simp] theorem modPath_ch (s : State) (n : Nat) (f : Path → Path) : (s.modPath n f).ch = s.ch := rfl
@[simp] theorem modPath_part (s : State) (n : Nat) (f : Path → Path) : (s.modPath n f).part = s.part := rfl
@[simp] theorem modPath_boot (s : State) (n : Nat) (f : Path → Path) : (s.modPath n f).boot = s.boot := rfl
@[simp] theorem modPath_jf (s : State) (n : Nat) (f : Path → Path) : (s.modPath n f).jf = s.jf := rfl
@[simp] theorem modPath_mem (s : State) (n : Nat) (f : Path → Path) : (s.modPath n f).mem = s.mem := rfl
@[simp] theorem modPath_portHeld (s : State) (n : Nat) (f : Path → Path) : (s.modPath n f).portHeld = s.portHeld := rfl
@[simp] theorem modPath_lateWr (s : State) (n : Nat) (f : Path → Path) : (s.modPath n f).lateWr = s.lateWr := rfl
@[simp] theorem modPath_flash (s : State) (n : Nat) (f : Path → Path) : (s.modPath n f).flash = s.flash := rfl
@[simp] theorem modPath_log (s : State) (n : Nat) (f : Path → Path) : (s.modPath n f).log = s.log := rfl
@[simp] theorem modPath_nodes (s : State) (n : Nat) (f : Path → Path) : (s.modPath n f).nodes = s.nodes := rfl
@[simp] theorem modPath_alm (s : State) (n : Nat) (f : Path → Path) : (s.modPath n f).alm = s.alm := rfl
@[simp] theorem modPath_ledger (s : State) (n : Nat) (f : Path → Path) : (s.modPath n f).ledger = s.ledger := rfl
@[simp] theorem modPath_conv (s : State) (n : Nat) (f : Path → Path) : (s.modPath n f).conv = s.conv := rfl
@[simp] theorem modPath_krysa (s : State) (n : Nat) (f : Path → Path) : (s.modPath n f).krysa = s.krysa := rfl
@[simp] theorem modPath_nms (s : State) (n : Nat) (f : Path → Path) : (s.modPath n f).nms = s.nms := rfl
@[simp] theorem modPath_vigil (s : State) (n : Nat) (f : Path → Path) : (s.modPath n f).vigil = s.vigil := rfl
@[simp] theorem modPath_flt (s : State) (n : Nat) (f : Path → Path) : (s.modPath n f).flt = s.flt := rfl
@[simp] theorem modPath_sleep (s : State) (n : Nat) (f : Path → Path) : (s.modPath n f).sleep = s.sleep := rfl
@[simp] theorem modPath_tap (s : State) (n : Nat) (f : Path → Path) : (s.modPath n f).tap = s.tap := rfl
@[simp] theorem modPath_dram (s : State) (n : Nat) (f : Path → Path) : (s.modPath n f).dram = s.dram := rfl
@[simp] theorem modPath_dmErr (s : State) (n : Nat) (f : Path → Path) : (s.modPath n f).dmErr = s.dmErr := rfl
@[simp] theorem modPath_drbg (s : State) (n : Nat) (f : Path → Path) : (s.modPath n f).drbg = s.drbg := rfl
@[simp] theorem modPath_seq (s : State) (n : Nat) (f : Path → Path) : (s.modPath n f).seq = s.seq := rfl
@[simp] theorem modPath_outs (s : State) (n : Nat) (f : Path → Path) : (s.modPath n f).outs = s.outs := rfl
@[simp] theorem modPath_read_wr (s : State) (n : Nat) (f : Path → Path) (x : Nat) : (s.modPath n f).wr x = s.wr x := rfl
@[simp] theorem modPath_read_fc (s : State) (n : Nat) (f : Path → Path) (x : Nat) : (s.modPath n f).fc x = s.fc x := rfl
@[simp] theorem modPath_read_stw (s : State) (n : Nat) (f : Path → Path) (x : Nat) : (s.modPath n f).stw x = s.stw x := rfl
@[simp] theorem modPath_read_ring (s : State) (n : Nat) (f : Path → Path) (x : Nat) : (s.modPath n f).ring x = s.ring x := rfl
@[simp] theorem modPath_read_chan (s : State) (n : Nat) (f : Path → Path) (x : Nat) : (s.modPath n f).chan x = s.chan x := rfl
@[simp] theorem modPath_read_slot (s : State) (n : Nat) (f : Path → Path) (x : Nat) : (s.modPath n f).slot x = s.slot x := rfl
@[simp] theorem modPath_read_halted (s : State) (n : Nat) (f : Path → Path) : (s.modPath n f).halted = s.halted := rfl

@[simp] theorem modRxsc_pending (s : State) (p n : Nat) (f : RxSc → RxSc) : (s.modRxsc p n f).pending = s.pending := rfl
@[simp] theorem modRxsc_regs (s : State) (p n : Nat) (f : RxSc → RxSc) : (s.modRxsc p n f).regs = s.regs := rfl
@[simp] theorem modRxsc_host (s : State) (p n : Nat) (f : RxSc → RxSc) : (s.modRxsc p n f).host = s.host := rfl
@[simp] theorem modRxsc_tick (s : State) (p n : Nat) (f : RxSc → RxSc) : (s.modRxsc p n f).tick = s.tick := rfl
@[simp] theorem modRxsc_rings (s : State) (p n : Nat) (f : RxSc → RxSc) : (s.modRxsc p n f).rings = s.rings := rfl
@[simp] theorem modRxsc_vault (s : State) (p n : Nat) (f : RxSc → RxSc) : (s.modRxsc p n f).vault = s.vault := rfl
@[simp] theorem modRxsc_fuses (s : State) (p n : Nat) (f : RxSc → RxSc) : (s.modRxsc p n f).fuses = s.fuses := rfl
@[simp] theorem modRxsc_ch (s : State) (p n : Nat) (f : RxSc → RxSc) : (s.modRxsc p n f).ch = s.ch := rfl
@[simp] theorem modRxsc_part (s : State) (p n : Nat) (f : RxSc → RxSc) : (s.modRxsc p n f).part = s.part := rfl
@[simp] theorem modRxsc_boot (s : State) (p n : Nat) (f : RxSc → RxSc) : (s.modRxsc p n f).boot = s.boot := rfl
@[simp] theorem modRxsc_jf (s : State) (p n : Nat) (f : RxSc → RxSc) : (s.modRxsc p n f).jf = s.jf := rfl
@[simp] theorem modRxsc_mem (s : State) (p n : Nat) (f : RxSc → RxSc) : (s.modRxsc p n f).mem = s.mem := rfl
@[simp] theorem modRxsc_portHeld (s : State) (p n : Nat) (f : RxSc → RxSc) : (s.modRxsc p n f).portHeld = s.portHeld := rfl
@[simp] theorem modRxsc_lateWr (s : State) (p n : Nat) (f : RxSc → RxSc) : (s.modRxsc p n f).lateWr = s.lateWr := rfl
@[simp] theorem modRxsc_flash (s : State) (p n : Nat) (f : RxSc → RxSc) : (s.modRxsc p n f).flash = s.flash := rfl
@[simp] theorem modRxsc_log (s : State) (p n : Nat) (f : RxSc → RxSc) : (s.modRxsc p n f).log = s.log := rfl
@[simp] theorem modRxsc_nodes (s : State) (p n : Nat) (f : RxSc → RxSc) : (s.modRxsc p n f).nodes = s.nodes := rfl
@[simp] theorem modRxsc_alm (s : State) (p n : Nat) (f : RxSc → RxSc) : (s.modRxsc p n f).alm = s.alm := rfl
@[simp] theorem modRxsc_ledger (s : State) (p n : Nat) (f : RxSc → RxSc) : (s.modRxsc p n f).ledger = s.ledger := rfl
@[simp] theorem modRxsc_conv (s : State) (p n : Nat) (f : RxSc → RxSc) : (s.modRxsc p n f).conv = s.conv := rfl
@[simp] theorem modRxsc_krysa (s : State) (p n : Nat) (f : RxSc → RxSc) : (s.modRxsc p n f).krysa = s.krysa := rfl
@[simp] theorem modRxsc_nms (s : State) (p n : Nat) (f : RxSc → RxSc) : (s.modRxsc p n f).nms = s.nms := rfl
@[simp] theorem modRxsc_vigil (s : State) (p n : Nat) (f : RxSc → RxSc) : (s.modRxsc p n f).vigil = s.vigil := rfl
@[simp] theorem modRxsc_flt (s : State) (p n : Nat) (f : RxSc → RxSc) : (s.modRxsc p n f).flt = s.flt := rfl
@[simp] theorem modRxsc_sleep (s : State) (p n : Nat) (f : RxSc → RxSc) : (s.modRxsc p n f).sleep = s.sleep := rfl
@[simp] theorem modRxsc_tap (s : State) (p n : Nat) (f : RxSc → RxSc) : (s.modRxsc p n f).tap = s.tap := rfl
@[simp] theorem modRxsc_dram (s : State) (p n : Nat) (f : RxSc → RxSc) : (s.modRxsc p n f).dram = s.dram := rfl
@[simp] theorem modRxsc_dmErr (s : State) (p n : Nat) (f : RxSc → RxSc) : (s.modRxsc p n f).dmErr = s.dmErr := rfl
@[simp] theorem modRxsc_drbg (s : State) (p n : Nat) (f : RxSc → RxSc) : (s.modRxsc p n f).drbg = s.drbg := rfl
@[simp] theorem modRxsc_seq (s : State) (p n : Nat) (f : RxSc → RxSc) : (s.modRxsc p n f).seq = s.seq := rfl
@[simp] theorem modRxsc_outs (s : State) (p n : Nat) (f : RxSc → RxSc) : (s.modRxsc p n f).outs = s.outs := rfl
@[simp] theorem modRxsc_read_wr (s : State) (p n : Nat) (f : RxSc → RxSc) (x : Nat) : (s.modRxsc p n f).wr x = s.wr x := rfl
@[simp] theorem modRxsc_read_fc (s : State) (p n : Nat) (f : RxSc → RxSc) (x : Nat) : (s.modRxsc p n f).fc x = s.fc x := rfl
@[simp] theorem modRxsc_read_stw (s : State) (p n : Nat) (f : RxSc → RxSc) (x : Nat) : (s.modRxsc p n f).stw x = s.stw x := rfl
@[simp] theorem modRxsc_read_ring (s : State) (p n : Nat) (f : RxSc → RxSc) (x : Nat) : (s.modRxsc p n f).ring x = s.ring x := rfl
@[simp] theorem modRxsc_read_chan (s : State) (p n : Nat) (f : RxSc → RxSc) (x : Nat) : (s.modRxsc p n f).chan x = s.chan x := rfl
@[simp] theorem modRxsc_read_slot (s : State) (p n : Nat) (f : RxSc → RxSc) (x : Nat) : (s.modRxsc p n f).slot x = s.slot x := rfl
@[simp] theorem modRxsc_read_halted (s : State) (p n : Nat) (f : RxSc → RxSc) : (s.modRxsc p n f).halted = s.halted := rfl

@[simp] theorem modSae_pending (s : State) (p : Nat) (tx : Bool) (e : Nat) (f : SaEntry → SaEntry) : (s.modSae p tx e f).pending = s.pending := rfl
@[simp] theorem modSae_regs (s : State) (p : Nat) (tx : Bool) (e : Nat) (f : SaEntry → SaEntry) : (s.modSae p tx e f).regs = s.regs := rfl
@[simp] theorem modSae_host (s : State) (p : Nat) (tx : Bool) (e : Nat) (f : SaEntry → SaEntry) : (s.modSae p tx e f).host = s.host := rfl
@[simp] theorem modSae_tick (s : State) (p : Nat) (tx : Bool) (e : Nat) (f : SaEntry → SaEntry) : (s.modSae p tx e f).tick = s.tick := rfl
@[simp] theorem modSae_rings (s : State) (p : Nat) (tx : Bool) (e : Nat) (f : SaEntry → SaEntry) : (s.modSae p tx e f).rings = s.rings := rfl
@[simp] theorem modSae_vault (s : State) (p : Nat) (tx : Bool) (e : Nat) (f : SaEntry → SaEntry) : (s.modSae p tx e f).vault = s.vault := rfl
@[simp] theorem modSae_fuses (s : State) (p : Nat) (tx : Bool) (e : Nat) (f : SaEntry → SaEntry) : (s.modSae p tx e f).fuses = s.fuses := rfl
@[simp] theorem modSae_ch (s : State) (p : Nat) (tx : Bool) (e : Nat) (f : SaEntry → SaEntry) : (s.modSae p tx e f).ch = s.ch := rfl
@[simp] theorem modSae_part (s : State) (p : Nat) (tx : Bool) (e : Nat) (f : SaEntry → SaEntry) : (s.modSae p tx e f).part = s.part := rfl
@[simp] theorem modSae_boot (s : State) (p : Nat) (tx : Bool) (e : Nat) (f : SaEntry → SaEntry) : (s.modSae p tx e f).boot = s.boot := rfl
@[simp] theorem modSae_jf (s : State) (p : Nat) (tx : Bool) (e : Nat) (f : SaEntry → SaEntry) : (s.modSae p tx e f).jf = s.jf := rfl
@[simp] theorem modSae_mem (s : State) (p : Nat) (tx : Bool) (e : Nat) (f : SaEntry → SaEntry) : (s.modSae p tx e f).mem = s.mem := rfl
@[simp] theorem modSae_portHeld (s : State) (p : Nat) (tx : Bool) (e : Nat) (f : SaEntry → SaEntry) : (s.modSae p tx e f).portHeld = s.portHeld := rfl
@[simp] theorem modSae_lateWr (s : State) (p : Nat) (tx : Bool) (e : Nat) (f : SaEntry → SaEntry) : (s.modSae p tx e f).lateWr = s.lateWr := rfl
@[simp] theorem modSae_flash (s : State) (p : Nat) (tx : Bool) (e : Nat) (f : SaEntry → SaEntry) : (s.modSae p tx e f).flash = s.flash := rfl
@[simp] theorem modSae_log (s : State) (p : Nat) (tx : Bool) (e : Nat) (f : SaEntry → SaEntry) : (s.modSae p tx e f).log = s.log := rfl
@[simp] theorem modSae_nodes (s : State) (p : Nat) (tx : Bool) (e : Nat) (f : SaEntry → SaEntry) : (s.modSae p tx e f).nodes = s.nodes := rfl
@[simp] theorem modSae_alm (s : State) (p : Nat) (tx : Bool) (e : Nat) (f : SaEntry → SaEntry) : (s.modSae p tx e f).alm = s.alm := rfl
@[simp] theorem modSae_ledger (s : State) (p : Nat) (tx : Bool) (e : Nat) (f : SaEntry → SaEntry) : (s.modSae p tx e f).ledger = s.ledger := rfl
@[simp] theorem modSae_conv (s : State) (p : Nat) (tx : Bool) (e : Nat) (f : SaEntry → SaEntry) : (s.modSae p tx e f).conv = s.conv := rfl
@[simp] theorem modSae_krysa (s : State) (p : Nat) (tx : Bool) (e : Nat) (f : SaEntry → SaEntry) : (s.modSae p tx e f).krysa = s.krysa := rfl
@[simp] theorem modSae_nms (s : State) (p : Nat) (tx : Bool) (e : Nat) (f : SaEntry → SaEntry) : (s.modSae p tx e f).nms = s.nms := rfl
@[simp] theorem modSae_vigil (s : State) (p : Nat) (tx : Bool) (e : Nat) (f : SaEntry → SaEntry) : (s.modSae p tx e f).vigil = s.vigil := rfl
@[simp] theorem modSae_flt (s : State) (p : Nat) (tx : Bool) (e : Nat) (f : SaEntry → SaEntry) : (s.modSae p tx e f).flt = s.flt := rfl
@[simp] theorem modSae_sleep (s : State) (p : Nat) (tx : Bool) (e : Nat) (f : SaEntry → SaEntry) : (s.modSae p tx e f).sleep = s.sleep := rfl
@[simp] theorem modSae_tap (s : State) (p : Nat) (tx : Bool) (e : Nat) (f : SaEntry → SaEntry) : (s.modSae p tx e f).tap = s.tap := rfl
@[simp] theorem modSae_dram (s : State) (p : Nat) (tx : Bool) (e : Nat) (f : SaEntry → SaEntry) : (s.modSae p tx e f).dram = s.dram := rfl
@[simp] theorem modSae_dmErr (s : State) (p : Nat) (tx : Bool) (e : Nat) (f : SaEntry → SaEntry) : (s.modSae p tx e f).dmErr = s.dmErr := rfl
@[simp] theorem modSae_drbg (s : State) (p : Nat) (tx : Bool) (e : Nat) (f : SaEntry → SaEntry) : (s.modSae p tx e f).drbg = s.drbg := rfl
@[simp] theorem modSae_seq (s : State) (p : Nat) (tx : Bool) (e : Nat) (f : SaEntry → SaEntry) : (s.modSae p tx e f).seq = s.seq := rfl
@[simp] theorem modSae_outs (s : State) (p : Nat) (tx : Bool) (e : Nat) (f : SaEntry → SaEntry) : (s.modSae p tx e f).outs = s.outs := rfl
@[simp] theorem modSae_read_wr (s : State) (p : Nat) (tx : Bool) (e : Nat) (f : SaEntry → SaEntry) (x : Nat) : (s.modSae p tx e f).wr x = s.wr x := rfl
@[simp] theorem modSae_read_fc (s : State) (p : Nat) (tx : Bool) (e : Nat) (f : SaEntry → SaEntry) (x : Nat) : (s.modSae p tx e f).fc x = s.fc x := rfl
@[simp] theorem modSae_read_stw (s : State) (p : Nat) (tx : Bool) (e : Nat) (f : SaEntry → SaEntry) (x : Nat) : (s.modSae p tx e f).stw x = s.stw x := rfl
@[simp] theorem modSae_read_ring (s : State) (p : Nat) (tx : Bool) (e : Nat) (f : SaEntry → SaEntry) (x : Nat) : (s.modSae p tx e f).ring x = s.ring x := rfl
@[simp] theorem modSae_read_chan (s : State) (p : Nat) (tx : Bool) (e : Nat) (f : SaEntry → SaEntry) (x : Nat) : (s.modSae p tx e f).chan x = s.chan x := rfl
@[simp] theorem modSae_read_slot (s : State) (p : Nat) (tx : Bool) (e : Nat) (f : SaEntry → SaEntry) (x : Nat) : (s.modSae p tx e f).slot x = s.slot x := rfl
@[simp] theorem modSae_read_halted (s : State) (p : Nat) (tx : Bool) (e : Nat) (f : SaEntry → SaEntry) : (s.modSae p tx e f).halted = s.halted := rfl

@[simp] theorem modSecy_pending (s : State) (p n : Nat) (f : SecY → SecY) : (s.modSecy p n f).pending = s.pending := rfl
@[simp] theorem modSecy_regs (s : State) (p n : Nat) (f : SecY → SecY) : (s.modSecy p n f).regs = s.regs := rfl
@[simp] theorem modSecy_host (s : State) (p n : Nat) (f : SecY → SecY) : (s.modSecy p n f).host = s.host := rfl
@[simp] theorem modSecy_tick (s : State) (p n : Nat) (f : SecY → SecY) : (s.modSecy p n f).tick = s.tick := rfl
@[simp] theorem modSecy_rings (s : State) (p n : Nat) (f : SecY → SecY) : (s.modSecy p n f).rings = s.rings := rfl
@[simp] theorem modSecy_vault (s : State) (p n : Nat) (f : SecY → SecY) : (s.modSecy p n f).vault = s.vault := rfl
@[simp] theorem modSecy_fuses (s : State) (p n : Nat) (f : SecY → SecY) : (s.modSecy p n f).fuses = s.fuses := rfl
@[simp] theorem modSecy_ch (s : State) (p n : Nat) (f : SecY → SecY) : (s.modSecy p n f).ch = s.ch := rfl
@[simp] theorem modSecy_part (s : State) (p n : Nat) (f : SecY → SecY) : (s.modSecy p n f).part = s.part := rfl
@[simp] theorem modSecy_boot (s : State) (p n : Nat) (f : SecY → SecY) : (s.modSecy p n f).boot = s.boot := rfl
@[simp] theorem modSecy_jf (s : State) (p n : Nat) (f : SecY → SecY) : (s.modSecy p n f).jf = s.jf := rfl
@[simp] theorem modSecy_mem (s : State) (p n : Nat) (f : SecY → SecY) : (s.modSecy p n f).mem = s.mem := rfl
@[simp] theorem modSecy_portHeld (s : State) (p n : Nat) (f : SecY → SecY) : (s.modSecy p n f).portHeld = s.portHeld := rfl
@[simp] theorem modSecy_lateWr (s : State) (p n : Nat) (f : SecY → SecY) : (s.modSecy p n f).lateWr = s.lateWr := rfl
@[simp] theorem modSecy_flash (s : State) (p n : Nat) (f : SecY → SecY) : (s.modSecy p n f).flash = s.flash := rfl
@[simp] theorem modSecy_log (s : State) (p n : Nat) (f : SecY → SecY) : (s.modSecy p n f).log = s.log := rfl
@[simp] theorem modSecy_nodes (s : State) (p n : Nat) (f : SecY → SecY) : (s.modSecy p n f).nodes = s.nodes := rfl
@[simp] theorem modSecy_alm (s : State) (p n : Nat) (f : SecY → SecY) : (s.modSecy p n f).alm = s.alm := rfl
@[simp] theorem modSecy_ledger (s : State) (p n : Nat) (f : SecY → SecY) : (s.modSecy p n f).ledger = s.ledger := rfl
@[simp] theorem modSecy_conv (s : State) (p n : Nat) (f : SecY → SecY) : (s.modSecy p n f).conv = s.conv := rfl
@[simp] theorem modSecy_krysa (s : State) (p n : Nat) (f : SecY → SecY) : (s.modSecy p n f).krysa = s.krysa := rfl
@[simp] theorem modSecy_nms (s : State) (p n : Nat) (f : SecY → SecY) : (s.modSecy p n f).nms = s.nms := rfl
@[simp] theorem modSecy_vigil (s : State) (p n : Nat) (f : SecY → SecY) : (s.modSecy p n f).vigil = s.vigil := rfl
@[simp] theorem modSecy_flt (s : State) (p n : Nat) (f : SecY → SecY) : (s.modSecy p n f).flt = s.flt := rfl
@[simp] theorem modSecy_sleep (s : State) (p n : Nat) (f : SecY → SecY) : (s.modSecy p n f).sleep = s.sleep := rfl
@[simp] theorem modSecy_tap (s : State) (p n : Nat) (f : SecY → SecY) : (s.modSecy p n f).tap = s.tap := rfl
@[simp] theorem modSecy_dram (s : State) (p n : Nat) (f : SecY → SecY) : (s.modSecy p n f).dram = s.dram := rfl
@[simp] theorem modSecy_dmErr (s : State) (p n : Nat) (f : SecY → SecY) : (s.modSecy p n f).dmErr = s.dmErr := rfl
@[simp] theorem modSecy_drbg (s : State) (p n : Nat) (f : SecY → SecY) : (s.modSecy p n f).drbg = s.drbg := rfl
@[simp] theorem modSecy_seq (s : State) (p n : Nat) (f : SecY → SecY) : (s.modSecy p n f).seq = s.seq := rfl
@[simp] theorem modSecy_outs (s : State) (p n : Nat) (f : SecY → SecY) : (s.modSecy p n f).outs = s.outs := rfl
@[simp] theorem modSecy_read_wr (s : State) (p n : Nat) (f : SecY → SecY) (x : Nat) : (s.modSecy p n f).wr x = s.wr x := rfl
@[simp] theorem modSecy_read_fc (s : State) (p n : Nat) (f : SecY → SecY) (x : Nat) : (s.modSecy p n f).fc x = s.fc x := rfl
@[simp] theorem modSecy_read_stw (s : State) (p n : Nat) (f : SecY → SecY) (x : Nat) : (s.modSecy p n f).stw x = s.stw x := rfl
@[simp] theorem modSecy_read_ring (s : State) (p n : Nat) (f : SecY → SecY) (x : Nat) : (s.modSecy p n f).ring x = s.ring x := rfl
@[simp] theorem modSecy_read_chan (s : State) (p n : Nat) (f : SecY → SecY) (x : Nat) : (s.modSecy p n f).chan x = s.chan x := rfl
@[simp] theorem modSecy_read_slot (s : State) (p n : Nat) (f : SecY → SecY) (x : Nat) : (s.modSecy p n f).slot x = s.slot x := rfl
@[simp] theorem modSecy_read_halted (s : State) (p n : Nat) (f : SecY → SecY) : (s.modSecy p n f).halted = s.halted := rfl

@[simp] theorem modSleep_pending (s : State) (f : Sleep → Sleep) : (s.modSleep f).pending = s.pending := rfl
@[simp] theorem modSleep_regs (s : State) (f : Sleep → Sleep) : (s.modSleep f).regs = s.regs := rfl
@[simp] theorem modSleep_host (s : State) (f : Sleep → Sleep) : (s.modSleep f).host = s.host := rfl
@[simp] theorem modSleep_tick (s : State) (f : Sleep → Sleep) : (s.modSleep f).tick = s.tick := rfl
@[simp] theorem modSleep_rings (s : State) (f : Sleep → Sleep) : (s.modSleep f).rings = s.rings := rfl
@[simp] theorem modSleep_vault (s : State) (f : Sleep → Sleep) : (s.modSleep f).vault = s.vault := rfl
@[simp] theorem modSleep_fuses (s : State) (f : Sleep → Sleep) : (s.modSleep f).fuses = s.fuses := rfl
@[simp] theorem modSleep_ch (s : State) (f : Sleep → Sleep) : (s.modSleep f).ch = s.ch := rfl
@[simp] theorem modSleep_part (s : State) (f : Sleep → Sleep) : (s.modSleep f).part = s.part := rfl
@[simp] theorem modSleep_boot (s : State) (f : Sleep → Sleep) : (s.modSleep f).boot = s.boot := rfl
@[simp] theorem modSleep_jf (s : State) (f : Sleep → Sleep) : (s.modSleep f).jf = s.jf := rfl
@[simp] theorem modSleep_mem (s : State) (f : Sleep → Sleep) : (s.modSleep f).mem = s.mem := rfl
@[simp] theorem modSleep_link (s : State) (f : Sleep → Sleep) : (s.modSleep f).link = s.link := rfl
@[simp] theorem modSleep_portHeld (s : State) (f : Sleep → Sleep) : (s.modSleep f).portHeld = s.portHeld := rfl
@[simp] theorem modSleep_lateWr (s : State) (f : Sleep → Sleep) : (s.modSleep f).lateWr = s.lateWr := rfl
@[simp] theorem modSleep_flash (s : State) (f : Sleep → Sleep) : (s.modSleep f).flash = s.flash := rfl
@[simp] theorem modSleep_log (s : State) (f : Sleep → Sleep) : (s.modSleep f).log = s.log := rfl
@[simp] theorem modSleep_nodes (s : State) (f : Sleep → Sleep) : (s.modSleep f).nodes = s.nodes := rfl
@[simp] theorem modSleep_alm (s : State) (f : Sleep → Sleep) : (s.modSleep f).alm = s.alm := rfl
@[simp] theorem modSleep_ledger (s : State) (f : Sleep → Sleep) : (s.modSleep f).ledger = s.ledger := rfl
@[simp] theorem modSleep_conv (s : State) (f : Sleep → Sleep) : (s.modSleep f).conv = s.conv := rfl
@[simp] theorem modSleep_krysa (s : State) (f : Sleep → Sleep) : (s.modSleep f).krysa = s.krysa := rfl
@[simp] theorem modSleep_nms (s : State) (f : Sleep → Sleep) : (s.modSleep f).nms = s.nms := rfl
@[simp] theorem modSleep_vigil (s : State) (f : Sleep → Sleep) : (s.modSleep f).vigil = s.vigil := rfl
@[simp] theorem modSleep_flt (s : State) (f : Sleep → Sleep) : (s.modSleep f).flt = s.flt := rfl
@[simp] theorem modSleep_sleep (s : State) (f : Sleep → Sleep) : (s.modSleep f).sleep = f s.sleep := rfl
@[simp] theorem modSleep_tap (s : State) (f : Sleep → Sleep) : (s.modSleep f).tap = s.tap := rfl
@[simp] theorem modSleep_dram (s : State) (f : Sleep → Sleep) : (s.modSleep f).dram = s.dram := rfl
@[simp] theorem modSleep_dmErr (s : State) (f : Sleep → Sleep) : (s.modSleep f).dmErr = s.dmErr := rfl
@[simp] theorem modSleep_drbg (s : State) (f : Sleep → Sleep) : (s.modSleep f).drbg = s.drbg := rfl
@[simp] theorem modSleep_seq (s : State) (f : Sleep → Sleep) : (s.modSleep f).seq = s.seq := rfl
@[simp] theorem modSleep_outs (s : State) (f : Sleep → Sleep) : (s.modSleep f).outs = s.outs := rfl
@[simp] theorem modSleep_read_wr (s : State) (f : Sleep → Sleep) (x : Nat) : (s.modSleep f).wr x = s.wr x := rfl
@[simp] theorem modSleep_read_fc (s : State) (f : Sleep → Sleep) (x : Nat) : (s.modSleep f).fc x = s.fc x := rfl
@[simp] theorem modSleep_read_stw (s : State) (f : Sleep → Sleep) (x : Nat) : (s.modSleep f).stw x = s.stw x := rfl
@[simp] theorem modSleep_read_ring (s : State) (f : Sleep → Sleep) (x : Nat) : (s.modSleep f).ring x = s.ring x := rfl
@[simp] theorem modSleep_read_chan (s : State) (f : Sleep → Sleep) (x : Nat) : (s.modSleep f).chan x = s.chan x := rfl
@[simp] theorem modSleep_read_slot (s : State) (f : Sleep → Sleep) (x : Nat) : (s.modSleep f).slot x = s.slot x := rfl
@[simp] theorem modSleep_read_halted (s : State) (f : Sleep → Sleep) : (s.modSleep f).halted = s.halted := rfl

@[simp] theorem modTap_pending (s : State) (f : TapPort → TapPort) : (s.modTap f).pending = s.pending := rfl
@[simp] theorem modTap_regs (s : State) (f : TapPort → TapPort) : (s.modTap f).regs = s.regs := rfl
@[simp] theorem modTap_host (s : State) (f : TapPort → TapPort) : (s.modTap f).host = s.host := rfl
@[simp] theorem modTap_tick (s : State) (f : TapPort → TapPort) : (s.modTap f).tick = s.tick := rfl
@[simp] theorem modTap_rings (s : State) (f : TapPort → TapPort) : (s.modTap f).rings = s.rings := rfl
@[simp] theorem modTap_vault (s : State) (f : TapPort → TapPort) : (s.modTap f).vault = s.vault := rfl
@[simp] theorem modTap_fuses (s : State) (f : TapPort → TapPort) : (s.modTap f).fuses = s.fuses := rfl
@[simp] theorem modTap_ch (s : State) (f : TapPort → TapPort) : (s.modTap f).ch = s.ch := rfl
@[simp] theorem modTap_part (s : State) (f : TapPort → TapPort) : (s.modTap f).part = s.part := rfl
@[simp] theorem modTap_boot (s : State) (f : TapPort → TapPort) : (s.modTap f).boot = s.boot := rfl
@[simp] theorem modTap_jf (s : State) (f : TapPort → TapPort) : (s.modTap f).jf = s.jf := rfl
@[simp] theorem modTap_mem (s : State) (f : TapPort → TapPort) : (s.modTap f).mem = s.mem := rfl
@[simp] theorem modTap_link (s : State) (f : TapPort → TapPort) : (s.modTap f).link = s.link := rfl
@[simp] theorem modTap_portHeld (s : State) (f : TapPort → TapPort) : (s.modTap f).portHeld = s.portHeld := rfl
@[simp] theorem modTap_lateWr (s : State) (f : TapPort → TapPort) : (s.modTap f).lateWr = s.lateWr := rfl
@[simp] theorem modTap_flash (s : State) (f : TapPort → TapPort) : (s.modTap f).flash = s.flash := rfl
@[simp] theorem modTap_log (s : State) (f : TapPort → TapPort) : (s.modTap f).log = s.log := rfl
@[simp] theorem modTap_nodes (s : State) (f : TapPort → TapPort) : (s.modTap f).nodes = s.nodes := rfl
@[simp] theorem modTap_alm (s : State) (f : TapPort → TapPort) : (s.modTap f).alm = s.alm := rfl
@[simp] theorem modTap_ledger (s : State) (f : TapPort → TapPort) : (s.modTap f).ledger = s.ledger := rfl
@[simp] theorem modTap_conv (s : State) (f : TapPort → TapPort) : (s.modTap f).conv = s.conv := rfl
@[simp] theorem modTap_krysa (s : State) (f : TapPort → TapPort) : (s.modTap f).krysa = s.krysa := rfl
@[simp] theorem modTap_nms (s : State) (f : TapPort → TapPort) : (s.modTap f).nms = s.nms := rfl
@[simp] theorem modTap_vigil (s : State) (f : TapPort → TapPort) : (s.modTap f).vigil = s.vigil := rfl
@[simp] theorem modTap_flt (s : State) (f : TapPort → TapPort) : (s.modTap f).flt = s.flt := rfl
@[simp] theorem modTap_sleep (s : State) (f : TapPort → TapPort) : (s.modTap f).sleep = s.sleep := rfl
@[simp] theorem modTap_tap (s : State) (f : TapPort → TapPort) : (s.modTap f).tap = f s.tap := rfl
@[simp] theorem modTap_dram (s : State) (f : TapPort → TapPort) : (s.modTap f).dram = s.dram := rfl
@[simp] theorem modTap_dmErr (s : State) (f : TapPort → TapPort) : (s.modTap f).dmErr = s.dmErr := rfl
@[simp] theorem modTap_drbg (s : State) (f : TapPort → TapPort) : (s.modTap f).drbg = s.drbg := rfl
@[simp] theorem modTap_seq (s : State) (f : TapPort → TapPort) : (s.modTap f).seq = s.seq := rfl
@[simp] theorem modTap_outs (s : State) (f : TapPort → TapPort) : (s.modTap f).outs = s.outs := rfl
@[simp] theorem modTap_read_wr (s : State) (f : TapPort → TapPort) (x : Nat) : (s.modTap f).wr x = s.wr x := rfl
@[simp] theorem modTap_read_fc (s : State) (f : TapPort → TapPort) (x : Nat) : (s.modTap f).fc x = s.fc x := rfl
@[simp] theorem modTap_read_stw (s : State) (f : TapPort → TapPort) (x : Nat) : (s.modTap f).stw x = s.stw x := rfl
@[simp] theorem modTap_read_ring (s : State) (f : TapPort → TapPort) (x : Nat) : (s.modTap f).ring x = s.ring x := rfl
@[simp] theorem modTap_read_chan (s : State) (f : TapPort → TapPort) (x : Nat) : (s.modTap f).chan x = s.chan x := rfl
@[simp] theorem modTap_read_slot (s : State) (f : TapPort → TapPort) (x : Nat) : (s.modTap f).slot x = s.slot x := rfl
@[simp] theorem modTap_read_halted (s : State) (f : TapPort → TapPort) : (s.modTap f).halted = s.halted := rfl

@[simp] theorem modTick_pending (s : State) (f : Tick → Tick) : (s.modTick f).pending = s.pending := rfl
@[simp] theorem modTick_regs (s : State) (f : Tick → Tick) : (s.modTick f).regs = s.regs := rfl
@[simp] theorem modTick_host (s : State) (f : Tick → Tick) : (s.modTick f).host = s.host := rfl
@[simp] theorem modTick_tick (s : State) (f : Tick → Tick) : (s.modTick f).tick = f s.tick := rfl
@[simp] theorem modTick_rings (s : State) (f : Tick → Tick) : (s.modTick f).rings = s.rings := rfl
@[simp] theorem modTick_vault (s : State) (f : Tick → Tick) : (s.modTick f).vault = s.vault := rfl
@[simp] theorem modTick_fuses (s : State) (f : Tick → Tick) : (s.modTick f).fuses = s.fuses := rfl
@[simp] theorem modTick_ch (s : State) (f : Tick → Tick) : (s.modTick f).ch = s.ch := rfl
@[simp] theorem modTick_part (s : State) (f : Tick → Tick) : (s.modTick f).part = s.part := rfl
@[simp] theorem modTick_boot (s : State) (f : Tick → Tick) : (s.modTick f).boot = s.boot := rfl
@[simp] theorem modTick_jf (s : State) (f : Tick → Tick) : (s.modTick f).jf = s.jf := rfl
@[simp] theorem modTick_mem (s : State) (f : Tick → Tick) : (s.modTick f).mem = s.mem := rfl
@[simp] theorem modTick_link (s : State) (f : Tick → Tick) : (s.modTick f).link = s.link := rfl
@[simp] theorem modTick_portHeld (s : State) (f : Tick → Tick) : (s.modTick f).portHeld = s.portHeld := rfl
@[simp] theorem modTick_lateWr (s : State) (f : Tick → Tick) : (s.modTick f).lateWr = s.lateWr := rfl
@[simp] theorem modTick_flash (s : State) (f : Tick → Tick) : (s.modTick f).flash = s.flash := rfl
@[simp] theorem modTick_log (s : State) (f : Tick → Tick) : (s.modTick f).log = s.log := rfl
@[simp] theorem modTick_nodes (s : State) (f : Tick → Tick) : (s.modTick f).nodes = s.nodes := rfl
@[simp] theorem modTick_alm (s : State) (f : Tick → Tick) : (s.modTick f).alm = s.alm := rfl
@[simp] theorem modTick_ledger (s : State) (f : Tick → Tick) : (s.modTick f).ledger = s.ledger := rfl
@[simp] theorem modTick_conv (s : State) (f : Tick → Tick) : (s.modTick f).conv = s.conv := rfl
@[simp] theorem modTick_krysa (s : State) (f : Tick → Tick) : (s.modTick f).krysa = s.krysa := rfl
@[simp] theorem modTick_nms (s : State) (f : Tick → Tick) : (s.modTick f).nms = s.nms := rfl
@[simp] theorem modTick_vigil (s : State) (f : Tick → Tick) : (s.modTick f).vigil = s.vigil := rfl
@[simp] theorem modTick_flt (s : State) (f : Tick → Tick) : (s.modTick f).flt = s.flt := rfl
@[simp] theorem modTick_sleep (s : State) (f : Tick → Tick) : (s.modTick f).sleep = s.sleep := rfl
@[simp] theorem modTick_tap (s : State) (f : Tick → Tick) : (s.modTick f).tap = s.tap := rfl
@[simp] theorem modTick_dram (s : State) (f : Tick → Tick) : (s.modTick f).dram = s.dram := rfl
@[simp] theorem modTick_dmErr (s : State) (f : Tick → Tick) : (s.modTick f).dmErr = s.dmErr := rfl
@[simp] theorem modTick_drbg (s : State) (f : Tick → Tick) : (s.modTick f).drbg = s.drbg := rfl
@[simp] theorem modTick_seq (s : State) (f : Tick → Tick) : (s.modTick f).seq = s.seq := rfl
@[simp] theorem modTick_outs (s : State) (f : Tick → Tick) : (s.modTick f).outs = s.outs := rfl
@[simp] theorem modTick_read_wr (s : State) (f : Tick → Tick) (x : Nat) : (s.modTick f).wr x = s.wr x := rfl
@[simp] theorem modTick_read_fc (s : State) (f : Tick → Tick) (x : Nat) : (s.modTick f).fc x = s.fc x := rfl
@[simp] theorem modTick_read_stw (s : State) (f : Tick → Tick) (x : Nat) : (s.modTick f).stw x = s.stw x := rfl
@[simp] theorem modTick_read_ring (s : State) (f : Tick → Tick) (x : Nat) : (s.modTick f).ring x = s.ring x := rfl
@[simp] theorem modTick_read_chan (s : State) (f : Tick → Tick) (x : Nat) : (s.modTick f).chan x = s.chan x := rfl
@[simp] theorem modTick_read_slot (s : State) (f : Tick → Tick) (x : Nat) : (s.modTick f).slot x = s.slot x := rfl
@[simp] theorem modTick_read_halted (s : State) (f : Tick → Tick) : (s.modTick f).halted = s.halted := rfl

@[simp] theorem dramPut_pending (s : State) (n : Nat) (b : Bytes) : (dramPut s n b).pending = s.pending := rfl
@[simp] theorem dramPut_regs (s : State) (n : Nat) (b : Bytes) : (dramPut s n b).regs = s.regs := rfl
@[simp] theorem dramPut_host (s : State) (n : Nat) (b : Bytes) : (dramPut s n b).host = s.host := rfl
@[simp] theorem dramPut_tick (s : State) (n : Nat) (b : Bytes) : (dramPut s n b).tick = s.tick := rfl
@[simp] theorem dramPut_rings (s : State) (n : Nat) (b : Bytes) : (dramPut s n b).rings = s.rings := rfl
@[simp] theorem dramPut_vault (s : State) (n : Nat) (b : Bytes) : (dramPut s n b).vault = s.vault := rfl
@[simp] theorem dramPut_fuses (s : State) (n : Nat) (b : Bytes) : (dramPut s n b).fuses = s.fuses := rfl
@[simp] theorem dramPut_ch (s : State) (n : Nat) (b : Bytes) : (dramPut s n b).ch = s.ch := rfl
@[simp] theorem dramPut_part (s : State) (n : Nat) (b : Bytes) : (dramPut s n b).part = s.part := rfl
@[simp] theorem dramPut_boot (s : State) (n : Nat) (b : Bytes) : (dramPut s n b).boot = s.boot := rfl
@[simp] theorem dramPut_jf (s : State) (n : Nat) (b : Bytes) : (dramPut s n b).jf = s.jf := rfl
@[simp] theorem dramPut_mem (s : State) (n : Nat) (b : Bytes) : (dramPut s n b).mem = s.mem := rfl
@[simp] theorem dramPut_link (s : State) (n : Nat) (b : Bytes) : (dramPut s n b).link = s.link := rfl
@[simp] theorem dramPut_portHeld (s : State) (n : Nat) (b : Bytes) : (dramPut s n b).portHeld = s.portHeld := rfl
@[simp] theorem dramPut_lateWr (s : State) (n : Nat) (b : Bytes) : (dramPut s n b).lateWr = s.lateWr := rfl
@[simp] theorem dramPut_flash (s : State) (n : Nat) (b : Bytes) : (dramPut s n b).flash = s.flash := rfl
@[simp] theorem dramPut_log (s : State) (n : Nat) (b : Bytes) : (dramPut s n b).log = s.log := rfl
@[simp] theorem dramPut_nodes (s : State) (n : Nat) (b : Bytes) : (dramPut s n b).nodes = s.nodes := rfl
@[simp] theorem dramPut_alm (s : State) (n : Nat) (b : Bytes) : (dramPut s n b).alm = s.alm := rfl
@[simp] theorem dramPut_ledger (s : State) (n : Nat) (b : Bytes) : (dramPut s n b).ledger = s.ledger := rfl
@[simp] theorem dramPut_conv (s : State) (n : Nat) (b : Bytes) : (dramPut s n b).conv = s.conv := rfl
@[simp] theorem dramPut_krysa (s : State) (n : Nat) (b : Bytes) : (dramPut s n b).krysa = s.krysa := rfl
@[simp] theorem dramPut_nms (s : State) (n : Nat) (b : Bytes) : (dramPut s n b).nms = s.nms := rfl
@[simp] theorem dramPut_vigil (s : State) (n : Nat) (b : Bytes) : (dramPut s n b).vigil = s.vigil := rfl
@[simp] theorem dramPut_flt (s : State) (n : Nat) (b : Bytes) : (dramPut s n b).flt = s.flt := rfl
@[simp] theorem dramPut_sleep (s : State) (n : Nat) (b : Bytes) : (dramPut s n b).sleep = s.sleep := rfl
@[simp] theorem dramPut_tap (s : State) (n : Nat) (b : Bytes) : (dramPut s n b).tap = s.tap := rfl
@[simp] theorem dramPut_drbg (s : State) (n : Nat) (b : Bytes) : (dramPut s n b).drbg = s.drbg := rfl
@[simp] theorem dramPut_seq (s : State) (n : Nat) (b : Bytes) : (dramPut s n b).seq = s.seq := rfl
@[simp] theorem dramPut_outs (s : State) (n : Nat) (b : Bytes) : (dramPut s n b).outs = s.outs := rfl
@[simp] theorem dramPut_read_wr (s : State) (n : Nat) (b : Bytes) (x : Nat) : (dramPut s n b).wr x = s.wr x := rfl
@[simp] theorem dramPut_read_fc (s : State) (n : Nat) (b : Bytes) (x : Nat) : (dramPut s n b).fc x = s.fc x := rfl
@[simp] theorem dramPut_read_stw (s : State) (n : Nat) (b : Bytes) (x : Nat) : (dramPut s n b).stw x = s.stw x := rfl
@[simp] theorem dramPut_read_ring (s : State) (n : Nat) (b : Bytes) (x : Nat) : (dramPut s n b).ring x = s.ring x := rfl
@[simp] theorem dramPut_read_chan (s : State) (n : Nat) (b : Bytes) (x : Nat) : (dramPut s n b).chan x = s.chan x := rfl
@[simp] theorem dramPut_read_slot (s : State) (n : Nat) (b : Bytes) (x : Nat) : (dramPut s n b).slot x = s.slot x := rfl
@[simp] theorem dramPut_read_halted (s : State) (n : Nat) (b : Bytes) : (dramPut s n b).halted = s.halted := rfl

@[simp] theorem hostOk_pending (s : State) (v : Nat) : (hostOk s v).pending = s.pending := rfl
@[simp] theorem hostOk_regs (s : State) (v : Nat) : (hostOk s v).regs = s.regs := rfl
@[simp] theorem hostOk_tick (s : State) (v : Nat) : (hostOk s v).tick = s.tick := rfl
@[simp] theorem hostOk_rings (s : State) (v : Nat) : (hostOk s v).rings = s.rings := rfl
@[simp] theorem hostOk_vault (s : State) (v : Nat) : (hostOk s v).vault = s.vault := rfl
@[simp] theorem hostOk_fuses (s : State) (v : Nat) : (hostOk s v).fuses = s.fuses := rfl
@[simp] theorem hostOk_ch (s : State) (v : Nat) : (hostOk s v).ch = s.ch := rfl
@[simp] theorem hostOk_part (s : State) (v : Nat) : (hostOk s v).part = s.part := rfl
@[simp] theorem hostOk_boot (s : State) (v : Nat) : (hostOk s v).boot = s.boot := rfl
@[simp] theorem hostOk_jf (s : State) (v : Nat) : (hostOk s v).jf = s.jf := rfl
@[simp] theorem hostOk_mem (s : State) (v : Nat) : (hostOk s v).mem = s.mem := rfl
@[simp] theorem hostOk_link (s : State) (v : Nat) : (hostOk s v).link = s.link := rfl
@[simp] theorem hostOk_portHeld (s : State) (v : Nat) : (hostOk s v).portHeld = s.portHeld := rfl
@[simp] theorem hostOk_lateWr (s : State) (v : Nat) : (hostOk s v).lateWr = s.lateWr := rfl
@[simp] theorem hostOk_flash (s : State) (v : Nat) : (hostOk s v).flash = s.flash := rfl
@[simp] theorem hostOk_log (s : State) (v : Nat) : (hostOk s v).log = s.log := rfl
@[simp] theorem hostOk_nodes (s : State) (v : Nat) : (hostOk s v).nodes = s.nodes := rfl
@[simp] theorem hostOk_alm (s : State) (v : Nat) : (hostOk s v).alm = s.alm := rfl
@[simp] theorem hostOk_ledger (s : State) (v : Nat) : (hostOk s v).ledger = s.ledger := rfl
@[simp] theorem hostOk_conv (s : State) (v : Nat) : (hostOk s v).conv = s.conv := rfl
@[simp] theorem hostOk_krysa (s : State) (v : Nat) : (hostOk s v).krysa = s.krysa := rfl
@[simp] theorem hostOk_nms (s : State) (v : Nat) : (hostOk s v).nms = s.nms := rfl
@[simp] theorem hostOk_vigil (s : State) (v : Nat) : (hostOk s v).vigil = s.vigil := rfl
@[simp] theorem hostOk_flt (s : State) (v : Nat) : (hostOk s v).flt = s.flt := rfl
@[simp] theorem hostOk_sleep (s : State) (v : Nat) : (hostOk s v).sleep = s.sleep := rfl
@[simp] theorem hostOk_tap (s : State) (v : Nat) : (hostOk s v).tap = s.tap := rfl
@[simp] theorem hostOk_dram (s : State) (v : Nat) : (hostOk s v).dram = s.dram := rfl
@[simp] theorem hostOk_dmErr (s : State) (v : Nat) : (hostOk s v).dmErr = s.dmErr := rfl
@[simp] theorem hostOk_drbg (s : State) (v : Nat) : (hostOk s v).drbg = s.drbg := rfl
@[simp] theorem hostOk_seq (s : State) (v : Nat) : (hostOk s v).seq = s.seq := rfl
@[simp] theorem hostOk_outs (s : State) (v : Nat) : (hostOk s v).outs = s.outs := rfl
@[simp] theorem hostOk_read_wr (s : State) (v : Nat) (x : Nat) : (hostOk s v).wr x = s.wr x := rfl
@[simp] theorem hostOk_read_fc (s : State) (v : Nat) (x : Nat) : (hostOk s v).fc x = s.fc x := rfl
@[simp] theorem hostOk_read_stw (s : State) (v : Nat) (x : Nat) : (hostOk s v).stw x = s.stw x := rfl
@[simp] theorem hostOk_read_ring (s : State) (v : Nat) (x : Nat) : (hostOk s v).ring x = s.ring x := rfl
@[simp] theorem hostOk_read_chan (s : State) (v : Nat) (x : Nat) : (hostOk s v).chan x = s.chan x := rfl
@[simp] theorem hostOk_read_slot (s : State) (v : Nat) (x : Nat) : (hostOk s v).slot x = s.slot x := rfl
@[simp] theorem hostOk_read_halted (s : State) (v : Nat) : (hostOk s v).halted = s.halted := rfl

@[simp] theorem hostSilent_pending (s : State) : (hostSilent s).pending = s.pending := rfl
@[simp] theorem hostSilent_regs (s : State) : (hostSilent s).regs = s.regs := rfl
@[simp] theorem hostSilent_tick (s : State) : (hostSilent s).tick = s.tick := rfl
@[simp] theorem hostSilent_rings (s : State) : (hostSilent s).rings = s.rings := rfl
@[simp] theorem hostSilent_vault (s : State) : (hostSilent s).vault = s.vault := rfl
@[simp] theorem hostSilent_fuses (s : State) : (hostSilent s).fuses = s.fuses := rfl
@[simp] theorem hostSilent_ch (s : State) : (hostSilent s).ch = s.ch := rfl
@[simp] theorem hostSilent_part (s : State) : (hostSilent s).part = s.part := rfl
@[simp] theorem hostSilent_boot (s : State) : (hostSilent s).boot = s.boot := rfl
@[simp] theorem hostSilent_jf (s : State) : (hostSilent s).jf = s.jf := rfl
@[simp] theorem hostSilent_mem (s : State) : (hostSilent s).mem = s.mem := rfl
@[simp] theorem hostSilent_link (s : State) : (hostSilent s).link = s.link := rfl
@[simp] theorem hostSilent_portHeld (s : State) : (hostSilent s).portHeld = s.portHeld := rfl
@[simp] theorem hostSilent_lateWr (s : State) : (hostSilent s).lateWr = s.lateWr := rfl
@[simp] theorem hostSilent_flash (s : State) : (hostSilent s).flash = s.flash := rfl
@[simp] theorem hostSilent_log (s : State) : (hostSilent s).log = s.log := rfl
@[simp] theorem hostSilent_nodes (s : State) : (hostSilent s).nodes = s.nodes := rfl
@[simp] theorem hostSilent_alm (s : State) : (hostSilent s).alm = s.alm := rfl
@[simp] theorem hostSilent_ledger (s : State) : (hostSilent s).ledger = s.ledger := rfl
@[simp] theorem hostSilent_conv (s : State) : (hostSilent s).conv = s.conv := rfl
@[simp] theorem hostSilent_krysa (s : State) : (hostSilent s).krysa = s.krysa := rfl
@[simp] theorem hostSilent_nms (s : State) : (hostSilent s).nms = s.nms := rfl
@[simp] theorem hostSilent_vigil (s : State) : (hostSilent s).vigil = s.vigil := rfl
@[simp] theorem hostSilent_flt (s : State) : (hostSilent s).flt = s.flt := rfl
@[simp] theorem hostSilent_sleep (s : State) : (hostSilent s).sleep = s.sleep := rfl
@[simp] theorem hostSilent_tap (s : State) : (hostSilent s).tap = s.tap := rfl
@[simp] theorem hostSilent_dram (s : State) : (hostSilent s).dram = s.dram := rfl
@[simp] theorem hostSilent_dmErr (s : State) : (hostSilent s).dmErr = s.dmErr := rfl
@[simp] theorem hostSilent_drbg (s : State) : (hostSilent s).drbg = s.drbg := rfl
@[simp] theorem hostSilent_seq (s : State) : (hostSilent s).seq = s.seq := rfl
@[simp] theorem hostSilent_outs (s : State) : (hostSilent s).outs = s.outs := rfl
@[simp] theorem hostSilent_read_wr (s : State) (x : Nat) : (hostSilent s).wr x = s.wr x := rfl
@[simp] theorem hostSilent_read_fc (s : State) (x : Nat) : (hostSilent s).fc x = s.fc x := rfl
@[simp] theorem hostSilent_read_stw (s : State) (x : Nat) : (hostSilent s).stw x = s.stw x := rfl
@[simp] theorem hostSilent_read_ring (s : State) (x : Nat) : (hostSilent s).ring x = s.ring x := rfl
@[simp] theorem hostSilent_read_chan (s : State) (x : Nat) : (hostSilent s).chan x = s.chan x := rfl
@[simp] theorem hostSilent_read_slot (s : State) (x : Nat) : (hostSilent s).slot x = s.slot x := rfl
@[simp] theorem hostSilent_read_halted (s : State) : (hostSilent s).halted = s.halted := rfl

/-! ### Reads after updates -/

/-- The ring changed. -/
@[simp] theorem modRing_ring (s : State) (r : Nat) (f : Ring → Ring) (q : Nat) :
    (s.modRing r f).ring q = if q = r then f (s.ring r) else s.ring q := tget_tput _ _ _ _

/-- The channel changed. -/
@[simp] theorem modChan_chan (s : State) (r : Nat) (f : Chan → Chan) (q : Nat) :
    (s.modChan r f).chan q = if q = r then f (s.chan r) else s.chan q := tget_tput _ _ _ _

/-- The slot changed. -/
@[simp] theorem modSlot_slot (s : State) (r : Nat) (f : Slot → Slot) (q : Nat) :
    (s.modSlot r f).slot q = if q = r then f (s.slot r) else s.slot q := tget_tput _ _ _ _

/-- The register as last written. -/
@[simp] theorem putWr_wr (s : State) (off v q : Nat) : (s.putWr off v).wr q = if q = off then v else s.wr q := tget_tins _ _ _ _ _
/-- The register in force. -/
@[simp] theorem putFc_fc (s : State) (off v q : Nat) : (s.putFc off v).fc q = if q = off then v else s.fc q := tget_tins _ _ _ _ _
/-- The stored STATUS word. -/
@[simp] theorem putSt_stw (s : State) (off v q : Nat) : (s.putSt off v).stw q = if q = off then v else s.stw q := tget_tins _ _ _ _ _
@[simp] theorem putSt_wr (s : State) (off v q : Nat) : (s.putSt off v).wr q = s.wr q := rfl
@[simp] theorem putSt_fc (s : State) (off v q : Nat) : (s.putSt off v).fc q = s.fc q := rfl
@[simp] theorem putWr_fc (s : State) (off v q : Nat) : (s.putWr off v).fc q = s.fc q := rfl
@[simp] theorem putWr_stw (s : State) (off v q : Nat) : (s.putWr off v).stw q = s.stw q := rfl
@[simp] theorem putFc_wr (s : State) (off v q : Nat) : (s.putFc off v).wr q = s.wr q := rfl
@[simp] theorem putFc_stw (s : State) (off v q : Nat) : (s.putFc off v).stw q = s.stw q := rfl
/-- An event bit is set. -/
@[simp] theorem evt_wr (s : State) (off n q : Nat) : (s.evt off n).wr q = if q = off then s.wr off ||| 2 ^ n else s.wr q :=
  putWr_wr _ _ _ _
@[simp] theorem evt_fc (s : State) (off n q : Nat) : (s.evt off n).fc q = s.fc q := rfl
@[simp] theorem evt_stw (s : State) (off n q : Nat) : (s.evt off n).stw q = s.stw q := rfl
@[simp] theorem inc_wr (s : State) (off hi lo q : Nat) : (s.inc off hi lo).wr q = s.wr q := rfl
@[simp] theorem inc_fc (s : State) (off hi lo q : Nat) : (s.inc off hi lo).fc q = s.fc q := rfl
/-- A counter counts. -/
@[simp] theorem inc_stw (s : State) (off hi lo q : Nat) :
    (s.inc off hi lo).stw q
      = if q = off then setBits (s.stw off) hi lo (satInc (hi + 1 - lo) (s.stf off hi lo)) else s.stw q := putSt_stw _ _ _ _

/-- A channel's caches changed. -/
@[simp] theorem modMchan_mchan (s : State) (n : Nat) (f : MemChan → MemChan) (q : Nat) :
    (s.modMchan n f).mchan q = if q = n then f (s.mchan n) else s.mchan q := tget_tput _ _ _ _

/-- The region changed. -/
@[simp] theorem modRegion_region (s : State) (n : Nat) (f : Region → Region) (q : Nat) :
    (s.modRegion n f).region q = if q = n then f (s.region n) else s.region q := tget_tput _ _ _ _

/-- The job changed. -/
@[simp] theorem modJob_job (s : State) (n : Nat) (f : Job → Job) (q : Nat) :
    (s.modJob n f).job q = if q = n then f (s.job n) else s.job q := tget_tput _ _ _ _

/-- The unit changed. -/
@[simp] theorem modPeer_peer (s : State) (n : Nat) (f : Peer → Peer) (q : Nat) :
    (s.modPeer n f).peer q = if q = n then f (s.peer n) else s.peer q := tget_tins _ _ _ _ _

/-- The conversation changed. -/
@[simp] theorem modConv_convAt (s : State) (n : Nat) (f : Conv → Conv) (q : Nat) :
    (s.modConv n f).convAt q = if q = n then f (s.convAt n) else s.convAt q := tget_tins _ _ _ _ _

/-- The engine changed. -/
@[simp] theorem modEngine_engine (s : State) (c e : Nat) (f : Engine → Engine) (c' e' : Nat) :
    (s.modEngine c e f).engine c' e' = if 2 * c' + e' = 2 * c + e then f (s.engine c e) else s.engine c' e' :=
  tget_tins _ _ _ _ _

/-- The path changed. -/
@[simp] theorem modPath_path (s : State) (p : Nat) (f : Path → Path) (q : Nat) :
    (s.modPath p f).path q = if q = p then f (s.path p) else s.path q := tget_tins _ _ _ _ _

/-- An entry of a path direction changed. -/
theorem modSae_sae (s : State) (p : Nat) (tx : Bool) (e : Nat) (f : SaEntry → SaEntry) (q : Nat) :
    (s.modSae p tx e f).sae p tx q = if q = e then f (s.sae p tx e) else s.sae p tx q := by
  cases tx <;> simp [State.modSae, State.sae, tget_tins]

/-- A SecY changed. -/
theorem modSecy_secy (s : State) (p n : Nat) (f : SecY → SecY) (q : Nat) :
    (s.modSecy p n f).secy p q = if q = n then f (s.secy p n) else s.secy p q := by
  simp [State.modSecy, State.secy, tget_tins]

/-- A receive SC changed. -/
theorem modRxsc_rxsc (s : State) (p n : Nat) (f : RxSc → RxSc) (q : Nat) :
    (s.modRxsc p n f).rxsc p q = if q = n then f (s.rxsc p n) else s.rxsc p q := by
  simp [State.modRxsc, State.rxsc, tget_tins]

end Sys2Proof.Machine
end

