-- ==== Sys2Proof/Laws/Finish.lean ====
section
/-! SUPPORT. What the end of an item does: the result it has, and what stays. -/

namespace Sys2Proof.Machine

/-- The open item found is in the ring, has the index and has no result. -/
theorem findItem_spec {s : State} {k i : Nat} {it : Item} (h : findItem s k i = some it) :
    it ∈ (s.ring k).items ∧ it.idx = i ∧ it.res = none := by
  have h1 := List.mem_of_find?_eq_some h
  have h2 := List.find?_some h
  simp only [Bool.and_eq_true, decide_eq_true_eq] at h2
  exact ⟨h1, h2⟩

/-- The items of the ring after one of them ended. -/
theorem modItem_ring (s : State) (k i : Nat) (f : Item → Item) (q : Nat) :
    (modItem s k i f).ring q =
      if q = k then { s.ring k with items := (s.ring k).items.map (fun x => if x.idx = i ∧ x.res = none then f x else x) }
      else s.ring q :=
  modRing_ring s k _ q

/-- The frame of an item's costs given back. -/
theorem releaseCost_rings (s : State) (it : Item) : (releaseCost s it).rings = s.rings := by
  unfold releaseCost
  split <;> rfl

/-- The state in which the item's result is recorded: its outputs are zeroized first where it has any and `zero` asks for it. -/
def finishBase (s : State) (it : Item) (zero : Bool) : State :=
  releaseCost (if zero && decide (it.outs ≠ []) then zeroOuts s it.outs else s) it

theorem finishBase_rings (s : State) (it : Item) (zero : Bool) : (finishBase s it zero).rings = s.rings := by
  unfold finishBase
  rw [releaseCost_rings]
  split
  · exact (zeroOuts_memFrame s it.outs (MemFrame.refl s)).rings
  · rfl

/-- `finish` on an open item. -/
theorem finish_eq {s : State} {k i : Nat} {it : Item} (status : Nat) (result : Bytes) (zero : Bool)
    (h : findItem s k i = some it) :
    finish s k i status result zero = modItem (finishBase s it zero) k i (fun x => { x with
      res := some { status := status, zeroized := zero && decide (it.outs ≠ []), result := sub result 0 16 }, staged := false }) := by
  unfold finish finishBase
  rw [h]

/-- The rings after an item ended: its item has the result, all else in them is as it was. -/
theorem finish_ring {s : State} {k i : Nat} {it : Item} (status : Nat) (result : Bytes) (zero : Bool)
    (h : findItem s k i = some it) (q : Nat) :
    (finish s k i status result zero).ring q =
      if q = k then { s.ring k with items := (s.ring k).items.map (fun x => if x.idx = i ∧ x.res = none then { x with
        res := some { status := status, zeroized := zero && decide (it.outs ≠ []), result := sub result 0 16 }, staged := false } else x) }
      else s.ring q := by
  have hr : (finishBase s it zero).ring = s.ring := by
    funext n; simp [State.ring, finishBase_rings]
  rw [finish_eq status result zero h, modItem_ring, hr]

end Sys2Proof.Machine
end

