-- ==== Sys2Proof/Laws/Keeps.lean ====
section
/-! SUPPORT. The relation between a state and what an operation of the block makes of it that every operation of the model
satisfies: the queue stays, DRAM keeps its canonical form, fuses only burn. One lemma per shape of definition; the lemma of each
operation stands in the file named after its module. -/

namespace Sys2Proof.Machine

theorem FusesKept.refl (a : Fuses) : FusesKept a a := ⟨id, id, rfl, id, le_rfl, fun h => ⟨le_rfl, h⟩, le_rfl,
  fun _ h => h, id, fun h _ => h⟩
theorem FusesKept.trans {a b c : Fuses} (x : FusesKept a b) (y : FusesKept b c) : FusesKept a c :=
  ⟨fun h => y.kill (x.kill h), fun h => y.lock (x.lock h), (y.debug).trans (x.debug), fun h => y.bankLock (x.bankLock h),
   le_trans x.era y.era, fun h => ⟨le_trans (x.alarmCount h).1 (y.alarmCount (x.alarmCount h).2).1, (y.alarmCount (x.alarmCount h).2).2⟩,
   le_trans x.rollback y.rollback, fun n h => y.nms n (x.nms n h), fun h => y.root (x.root h),
   fun h l => y.dead (x.dead h l) (x.lock l)⟩

/-- What every operation of the block keeps: the canonical form of DRAM, the queue, and what is burned. -/
structure Keeps (s t : State) : Prop where
  dram : twf dramInit s.dram = true → twf dramInit t.dram = true
  pending : t.pending = s.pending
  fuses : FusesKept s.fuses t.fuses

theorem Keeps.refl (s : State) : Keeps s s := ⟨id, rfl, FusesKept.refl _⟩
theorem Keeps.trans {a b c : State} (x : Keeps a b) (y : Keeps b c) : Keeps a c :=
  ⟨fun h => y.dram (x.dram h), y.pending.trans x.pending, x.fuses.trans y.fuses⟩
/-- The state of a pair that an operation answered. -/
theorem Keeps.pair {β : Type} {a s : State} {p : State × β} {x : β} (e : p = (s, x)) (h : Keeps a p.1) : Keeps a s := by
  rw [e] at h; exact h
/-- Both branches. -/
theorem Keeps.ite {a x y : State} {p : Prop} [Decidable p] (h1 : p → Keeps a x) (h2 : ¬p → Keeps a y) : Keeps a (if p then x else y) := by
  split
  · exact h1 ‹_›
  · exact h2 ‹_›
/-- Both branches of a pair. -/
theorem Keeps.iteP {β : Type} {a : State} {x y : State × β} {p : Prop} [Decidable p] (h1 : p → Keeps a x.1) (h2 : ¬p → Keeps a y.1) :
    Keeps a (if p then x else y).1 := by
  split
  · exact h1 ‹_›
  · exact h2 ‹_›
/-- A loop. -/
theorem Keeps.foldl {β : Type} {a : State} {f : State → β → State} (l : List β) {s : State} (h : Keeps a s)
    (k : ∀ t x, Keeps a t → Keeps a (f t x)) : Keeps a (l.foldl f s) := by
  induction l generalizing s with
  | nil => exact h
  | cons x l ih => exact ih (k s x h)
/-- A loop that carries more than the state. -/
theorem Keeps.foldlP {β γ : Type} {a : State} {f : State × γ → β → State × γ} (l : List β) {p : State × γ} (h : Keeps a p.1)
    (k : ∀ q x, Keeps a q.1 → Keeps a (f q x).1) : Keeps a (l.foldl f p).1 := by
  induction l generalizing p with
  | nil => exact h
  | cons x l ih => exact ih (k p x h)
/-- `Keeps` by the three parts of the state it speaks of. -/
structure KeptParts (a : State) (p : List Instr) (f : Fuses) (d : List Host.Cell) : Prop where
  dram : twf dramInit a.dram = true → twf dramInit d = true
  pending : p = a.pending
  fuses : FusesKept a.fuses f
theorem KeptParts.of {a x : State} (h : Keeps a x) : KeptParts a x.pending x.fuses x.dram := ⟨h.1, h.2, h.3⟩
theorem KeptParts.fuse {a x : State} {f : Fuses} (h : Keeps a x) (hf : FusesKept x.fuses f) : KeptParts a x.pending f x.dram :=
  ⟨h.1, h.2, h.3.trans hf⟩
/-- The lemma for a record update. -/
theorem keeps_mk {a : State}
    {pending_} {regs_} {host_} {tick_} {rings_} {vault_} {fuses_} {ch_} {part_} {boot_} {jf_} {mem_} {link_}
    {portHeld_} {lateWr_} {flash_} {log_} {nodes_} {alm_} {ledger_} {conv_} {krysa_} {nms_} {vigil_} {flt_} {sleep_}
    {tap_} {dram_} {dmErr_} {drbg_} {seq_} {outs_} :
    Keeps a {
      pending := pending_, regs := regs_, host := host_, tick := tick_, rings := rings_, vault := vault_,
      fuses := fuses_, ch := ch_, part := part_, boot := boot_, jf := jf_, mem := mem_, link := link_,
      portHeld := portHeld_, lateWr := lateWr_, flash := flash_, log := log_, nodes := nodes_, alm := alm_,
      ledger := ledger_, conv := conv_, krysa := krysa_, nms := nms_, vigil := vigil_, flt := flt_, sleep := sleep_,
      tap := tap_, dram := dram_, dmErr := dmErr_, drbg := drbg_, seq := seq_, outs := outs_ } ↔ KeptParts a pending_ fuses_ dram_ :=
  ⟨fun h => ⟨h.1, h.2, h.3⟩, fun h => ⟨h.1, h.2, h.3⟩⟩

/-- Every write to DRAM. -/
theorem dramPut_keeps {a s : State} (h : Keeps a s) (ad : Nat) (b : Bytes) : Keeps a (dramPut s ad b) :=
  h.trans ⟨fun w => tputN_wf b _ ad w, rfl, FusesKept.refl _⟩

end Sys2Proof.Machine
end

