-- ==== Sys2Proof/Laws/KeepsOps.lean ====
section
/-! SUPPORT. Every operation of Machine/Ops.lean keeps the queue, the canonical form of DRAM and what is burned. -/

namespace Sys2Proof.Machine

theorem State_at_keeps {a : State} (s : State) (t_ : Nat) (h : Keeps a s) : Keeps a (State.at s t_) := by
  unfold State.at
  try dsimp only
  repeat' first
    | with_reducible assumption
    | with_reducible refine Keeps.pair (by with_reducible assumption) ?_
    | with_reducible apply Keeps.ite
    | with_reducible apply Keeps.iteP
    | with_reducible apply Keeps.foldl
    | with_reducible apply Keeps.foldlP
    | intro _
    | split
    | (simp only [keeps_mk]; with_reducible apply KeptParts.of)

theorem State_bump_keeps {a : State} (s : State) (h : Keeps a s) : Keeps a (State.bump s) := by
  unfold State.bump
  try dsimp only
  repeat' first
    | with_reducible assumption
    | with_reducible refine Keeps.pair (by with_reducible assumption) ?_
    | with_reducible apply Keeps.ite
    | with_reducible apply Keeps.iteP
    | with_reducible apply Keeps.foldl
    | with_reducible apply Keeps.foldlP
    | intro _
    | split
    | (simp only [keeps_mk]; with_reducible apply KeptParts.of)

theorem State_drew_keeps {a : State} (s : State) (n : Nat) (h : Keeps a s) : Keeps a (State.drew s n) := by
  unfold State.drew
  try dsimp only
  repeat' first
    | with_reducible assumption
    | with_reducible refine Keeps.pair (by with_reducible assumption) ?_
    | with_reducible apply Keeps.ite
    | with_reducible apply Keeps.iteP
    | with_reducible apply Keeps.foldl
    | with_reducible apply Keeps.foldlP
    | intro _
    | split
    | (simp only [keeps_mk]; with_reducible apply KeptParts.of)

theorem State_emit_keeps {a : State} (s : State) (o : Out) (h : Keeps a s) : Keeps a (State.emit s o) := by
  unfold State.emit
  try dsimp only
  repeat' first
    | with_reducible assumption
    | with_reducible refine Keeps.pair (by with_reducible assumption) ?_
    | with_reducible apply Keeps.ite
    | with_reducible apply Keeps.iteP
    | with_reducible apply Keeps.foldl
    | with_reducible apply Keeps.foldlP
    | intro _
    | split
    | (simp only [keeps_mk]; with_reducible apply KeptParts.of)

theorem State_putWr_keeps {a : State} (s : State) (off : Nat) (v : Nat) (h : Keeps a s) : Keeps a (State.putWr s off v) := by
  unfold State.putWr
  try dsimp only
  repeat' first
    | with_reducible assumption
    | with_reducible refine Keeps.pair (by with_reducible assumption) ?_
    | with_reducible apply Keeps.ite
    | with_reducible apply Keeps.iteP
    | with_reducible apply Keeps.foldl
    | with_reducible apply Keeps.foldlP
    | intro _
    | split
    | (simp only [keeps_mk]; with_reducible apply KeptParts.of)

theorem State_putSt_keeps {a : State} (s : State) (off : Nat) (v : Nat) (h : Keeps a s) : Keeps a (State.putSt s off v) := by
  unfold State.putSt
  try dsimp only
  repeat' first
    | with_reducible assumption
    | with_reducible refine Keeps.pair (by with_reducible assumption) ?_
    | with_reducible apply Keeps.ite
    | with_reducible apply Keeps.iteP
    | with_reducible apply Keeps.foldl
    | with_reducible apply Keeps.foldlP
    | intro _
    | split
    | (simp only [keeps_mk]; with_reducible apply KeptParts.of)

theorem State_putStf_keeps {a : State} (s : State) (off : Nat) (hi : Nat) (lo : Nat) (v : Nat) (h : Keeps a s)
    : Keeps a (State.putStf s off hi lo v) := by
  unfold State.putStf
  try dsimp only
  repeat' first
    | with_reducible assumption
    | with_reducible apply State_putSt_keeps

theorem State_modSlot_keeps {a : State} (s : State) (n : Nat) (f : Slot → Slot) (h : Keeps a s)
    : Keeps a (State.modSlot s n f) := by
  unfold State.modSlot
  try dsimp only
  repeat' first
    | with_reducible assumption
    | with_reducible refine Keeps.pair (by with_reducible assumption) ?_
    | with_reducible apply Keeps.ite
    | with_reducible apply Keeps.iteP
    | with_reducible apply Keeps.foldl
    | with_reducible apply Keeps.foldlP
    | intro _
    | split
    | (simp only [keeps_mk]; with_reducible apply KeptParts.of)

theorem State_logLose_keeps {a : State} (s : State) (h : Keeps a s) : Keeps a (State.logLose s) := by
  unfold State.logLose
  try dsimp only
  repeat' first
    | with_reducible assumption
    | with_reducible apply State_putWr_keeps
    | with_reducible refine Keeps.pair (by with_reducible assumption) ?_
    | with_reducible apply Keeps.ite
    | with_reducible apply Keeps.iteP
    | with_reducible apply Keeps.foldl
    | with_reducible apply Keeps.foldlP
    | intro _
    | split
    | (simp only [keeps_mk]; with_reducible apply KeptParts.of)

theorem State_logStore_keeps {a : State} (s : State) (ev : Nat) (cls : Nat) (data : Bytes) (h : Keeps a s)
    : Keeps a (State.logStore s ev cls data) := by
  unfold State.logStore
  try dsimp only
  repeat' first
    | with_reducible assumption
    | with_reducible apply State_putWr_keeps
    | with_reducible refine Keeps.pair (by with_reducible assumption) ?_
    | with_reducible apply Keeps.ite
    | with_reducible apply Keeps.iteP
    | with_reducible apply Keeps.foldl
    | with_reducible apply Keeps.foldlP
    | intro _
    | split
    | (simp only [keeps_mk]; with_reducible apply KeptParts.of)

theorem State_logPut_keeps {a : State} (s : State) (ev : Nat) (cls : Nat) (data : Bytes) (h : Keeps a s)
    : Keeps a (State.logPut s ev cls data) := by
  unfold State.logPut
  try dsimp only
  repeat' first
    | with_reducible assumption
    | with_reducible apply State_logLose_keeps
    | with_reducible apply State_logStore_keeps
    | with_reducible refine Keeps.pair (by with_reducible assumption) ?_
    | with_reducible apply Keeps.ite
    | with_reducible apply Keeps.iteP
    | with_reducible apply Keeps.foldl
    | with_reducible apply Keeps.foldlP
    | intro _
    | split
    | (simp only [keeps_mk]; with_reducible apply KeptParts.of)

theorem State_modChan_keeps {a : State} (s : State) (n : Nat) (f : Chan → Chan) (h : Keeps a s)
    : Keeps a (State.modChan s n f) := by
  unfold State.modChan
  try dsimp only
  repeat' first
    | with_reducible assumption
    | with_reducible refine Keeps.pair (by with_reducible assumption) ?_
    | with_reducible apply Keeps.ite
    | with_reducible apply Keeps.iteP
    | with_reducible apply Keeps.foldl
    | with_reducible apply Keeps.foldlP
    | intro _
    | split
    | (simp only [keeps_mk]; with_reducible apply KeptParts.of)

theorem State_modRing_keeps {a : State} (s : State) (r : Nat) (f : Ring → Ring) (h : Keeps a s)
    : Keeps a (State.modRing s r f) := by
  unfold State.modRing
  try dsimp only
  repeat' first
    | with_reducible assumption
    | with_reducible refine Keeps.pair (by with_reducible assumption) ?_
    | with_reducible apply Keeps.ite
    | with_reducible apply Keeps.iteP
    | with_reducible apply Keeps.foldl
    | with_reducible apply Keeps.foldlP
    | intro _
    | split
    | (simp only [keeps_mk]; with_reducible apply KeptParts.of)

theorem State_putFc_keeps {a : State} (s : State) (off : Nat) (v : Nat) (h : Keeps a s) : Keeps a (State.putFc s off v) := by
  unfold State.putFc
  try dsimp only
  repeat' first
    | with_reducible assumption
    | with_reducible refine Keeps.pair (by with_reducible assumption) ?_
    | with_reducible apply Keeps.ite
    | with_reducible apply Keeps.iteP
    | with_reducible apply Keeps.foldl
    | with_reducible apply Keeps.foldlP
    | intro _
    | split
    | (simp only [keeps_mk]; with_reducible apply KeptParts.of)

end Sys2Proof.Machine
end

