-- ==== Sys2Proof/Laws/KeepsFlags.lean ====
section
/-! SUPPORT. Every operation of Machine/Flags.lean keeps the queue, the canonical form of DRAM and what is burned. -/

namespace Sys2Proof.Machine

theorem State_evt_keeps {a : State} (s : State) (off : Nat) (n : Nat) (h : Keeps a s) : Keeps a (State.evt s off n) := by
  unfold State.evt
  try dsimp only
  repeat' first
    | with_reducible assumption
    | with_reducible apply State_putWr_keeps

theorem State_inc_keeps {a : State} (s : State) (off : Nat) (hi : Nat) (lo : Nat) (h : Keeps a s)
    : Keeps a (State.inc s off hi lo) := by
  unfold State.inc
  try dsimp only
  repeat' first
    | with_reducible assumption
    | with_reducible apply State_putStf_keeps

theorem State_incBy_keeps {a : State} (s : State) (off : Nat) (hi : Nat) (lo : Nat) (d : Nat) (h : Keeps a s)
    : Keeps a (State.incBy s off hi lo d) := by
  unfold State.incBy
  try dsimp only
  repeat' first
    | with_reducible assumption
    | with_reducible apply State_putStf_keeps

theorem State_w1c_keeps {a : State} (s : State) (off : Nat) (val : Nat) (same : Nat) (h : Keeps a s)
    : Keeps a (State.w1c s off val same) := by
  unfold State.w1c
  try dsimp only
  repeat' first
    | with_reducible assumption
    | with_reducible apply State_putWr_keeps

theorem hostSilent_keeps {a : State} (s : State) (h : Keeps a s) : Keeps a (hostSilent s) := by
  unfold hostSilent
  try dsimp only
  repeat' first
    | with_reducible assumption
    | with_reducible refine Keeps.pair (by with_reducible assumption) ?_
    | with_reducible apply Keeps.ite
    | with_reducible apply Keeps.iteP
    | with_reducible apply Keeps.foldl
    | with_reducible apply Keeps.foldlP
    | intro _
    | split
    | (simp only [keeps_mk]; with_reducible apply KeptParts.of)

theorem hostError_keeps {a : State} (s : State) (write : Bool) (off : Nat) (reason : Nat) (deny : Bool) (h : Keeps a s)
    : Keeps a (hostError s write off reason deny) := by
  unfold hostError
  try dsimp only
  repeat' first
    | with_reducible assumption
    | with_reducible apply State_putSt_keeps
    | with_reducible apply State_inc_keeps
    | with_reducible apply hostSilent_keeps
    | with_reducible apply State_logPut_keeps
    | with_reducible refine Keeps.pair (by with_reducible assumption) ?_
    | with_reducible apply Keeps.ite
    | with_reducible apply Keeps.iteP
    | with_reducible apply Keeps.foldl
    | with_reducible apply Keeps.foldlP
    | intro _

theorem regAccess_keeps {a : State} (s : State) (write : Bool) (off : Nat) (be : Nat) (priv : Bool) (f : State → State)
    (h : Keeps a s) (hf_f : ∀ (t : State), Keeps a t → Keeps a (f t)) : Keeps a (regAccess s write off be priv f) := by
  unfold regAccess
  try dsimp only
  repeat' first
    | with_reducible assumption
    | apply hf_f
    | with_reducible apply hostSilent_keeps
    | with_reducible apply hostError_keeps
    | with_reducible refine Keeps.pair (by with_reducible assumption) ?_
    | with_reducible apply Keeps.ite
    | with_reducible apply Keeps.iteP
    | with_reducible apply Keeps.foldl
    | with_reducible apply Keeps.foldlP
    | intro _

theorem hostOk_keeps {a : State} (s : State) (rdata : Nat) (h : Keeps a s) : Keeps a (hostOk s rdata) := by
  unfold hostOk
  try dsimp only
  repeat' first
    | with_reducible assumption
    | with_reducible refine Keeps.pair (by with_reducible assumption) ?_
    | with_reducible apply Keeps.ite
    | with_reducible apply Keeps.iteP
    | with_reducible apply Keeps.foldl
    | with_reducible apply Keeps.foldlP
    | intro _
    | split
    | (simp only [keeps_mk]; with_reducible apply KeptParts.of)

theorem regWrite_keeps {a : State} (s : State) (off : Nat) (be : Nat) (priv : Bool) (f : State → State) (h : Keeps a s)
    (hf_f : ∀ (t : State), Keeps a t → Keeps a (f t)) : Keeps a (regWrite s off be priv f) := by
  unfold regWrite
  try dsimp only
  repeat' first
    | with_reducible assumption
    | apply hf_f
    | with_reducible apply regAccess_keeps
    | with_reducible apply hostOk_keeps
    | with_reducible refine Keeps.pair (by with_reducible assumption) ?_
    | with_reducible apply Keeps.ite
    | with_reducible apply Keeps.iteP
    | with_reducible apply Keeps.foldl
    | with_reducible apply Keeps.foldlP
    | intro _

theorem later_keeps {a : State} (s : State) (off : Nat) (val : Nat) (f : State → State) (h : Keeps a s) (hf_f : ∀
    (t : State), Keeps a t → Keeps a (f t)) : Keeps a (later s off val f) := by
  unfold later
  try dsimp only
  repeat' first
    | with_reducible assumption
    | apply hf_f
    | with_reducible refine Keeps.pair (by with_reducible assumption) ?_
    | with_reducible apply Keeps.ite
    | with_reducible apply Keeps.iteP
    | with_reducible apply Keeps.foldl
    | with_reducible apply Keeps.foldlP
    | intro _
    | split
    | (simp only [keeps_mk]; with_reducible apply KeptParts.of)

end Sys2Proof.Machine
end

