-- ==== Sys2Proof/Laws/KeepsSas.lean ====
section
/-! SUPPORT. Every operation of Machine/Sas.lean keeps the queue, the canonical form of DRAM and what is burned. -/

namespace Sys2Proof.Machine

theorem State_modPath_keeps {a : State} (s : State) (p : Nat) (f : Path → Path) (h : Keeps a s)
    : Keeps a (State.modPath s p f) := by
  unfold State.modPath
  try dsimp only
  repeat' first
    | with_reducible assumption
    | with_reducible refine Keeps.pair (by with_reducible assumption) ?_
    | with_reducible apply Keeps.ite
    | with_reducible apply Keeps.iteP
    | with_reducible apply Keeps.foldl
    | with_reducible apply Keeps.foldlP
    | intro _
    | split
    | (simp only [keeps_mk]; with_reducible apply KeptParts.of)

theorem State_modRxsc_keeps {a : State} (s : State) (p : Nat) (n : Nat) (f : RxSc → RxSc) (h : Keeps a s)
    : Keeps a (State.modRxsc s p n f) := by
  unfold State.modRxsc
  try dsimp only
  repeat' first
    | with_reducible assumption
    | with_reducible apply State_modPath_keeps

theorem State_modSae_keeps {a : State} (s : State) (p : Nat) (tx : Bool) (e_ : Nat) (f : SaEntry → SaEntry)
    (h : Keeps a s) : Keeps a (State.modSae s p tx e_ f) := by
  unfold State.modSae
  try dsimp only
  repeat' first
    | with_reducible assumption
    | with_reducible apply State_modPath_keeps

theorem State_modSecy_keeps {a : State} (s : State) (p : Nat) (n : Nat) (f : SecY → SecY) (h : Keeps a s)
    : Keeps a (State.modSecy s p n f) := by
  unfold State.modSecy
  try dsimp only
  repeat' first
    | with_reducible assumption
    | with_reducible apply State_modPath_keeps

end Sys2Proof.Machine
end

