-- ==== Sys2Proof/Laws/KeepsKeys.lean ====
section
/-! SUPPORT. Every operation of Machine/Keys.lean keeps the queue, the canonical form of DRAM and what is burned. -/

namespace Sys2Proof.Machine

theorem recDurable_keeps {a : State} (s : State) (r : JRec) (h : Keeps a s) : Keeps a (recDurable s r) := by
  unfold recDurable
  try dsimp only
  repeat' first
    | with_reducible assumption
    | with_reducible apply State_modSlot_keeps
    | with_reducible refine Keeps.pair (by with_reducible assumption) ?_
    | with_reducible apply Keeps.ite
    | with_reducible apply Keeps.iteP
    | with_reducible apply Keeps.foldl
    | with_reducible apply Keeps.foldlP
    | intro _
    | split
    | (simp only [keeps_mk]; with_reducible apply KeptParts.of)

theorem State_jPut_keeps {a : State} (s : State) (r : JRec) (h : Keeps a s) : Keeps a (State.jPut s r) := by
  unfold State.jPut
  try dsimp only
  repeat' first
    | with_reducible assumption
    | with_reducible apply recDurable_keeps
    | with_reducible apply State_inc_keeps
    | with_reducible refine Keeps.pair (by with_reducible assumption) ?_
    | with_reducible apply Keeps.ite
    | with_reducible apply Keeps.iteP
    | with_reducible apply Keeps.foldl
    | with_reducible apply Keeps.foldlP
    | intro _
    | split
    | (simp only [keeps_mk]; with_reducible apply KeptParts.of)

theorem dlvRefused_keeps {a : State} (s : State) (h : Keeps a s) : Keeps a (dlvRefused s) := by
  unfold dlvRefused
  try dsimp only
  repeat' first
    | with_reducible assumption
    | with_reducible apply State_evt_keeps
    | with_reducible apply State_inc_keeps

theorem revalFail_keeps {a : State} (s : State) (n : Nat) (slot : Nat) (h : Keeps a s) : Keeps a (revalFail s n slot) := by
  unfold revalFail
  try dsimp only
  repeat' first
    | with_reducible assumption
    | with_reducible apply State_inc_keeps
    | with_reducible apply State_modChan_keeps
    | with_reducible refine Keeps.pair (by with_reducible assumption) ?_
    | with_reducible apply Keeps.ite
    | with_reducible apply Keeps.iteP
    | with_reducible apply Keeps.foldl
    | with_reducible apply Keeps.foldlP
    | intro _

theorem keyDenied_keeps {a : State} (s : State) (st : Nat) (role : Nat) (n : Nat) (slot : Nat) (h : Keeps a s)
    : Keeps a (keyDenied s st role n slot) := by
  unfold keyDenied
  try dsimp only
  repeat' first
    | with_reducible assumption
    | with_reducible apply dlvRefused_keeps
    | with_reducible apply revalFail_keeps
    | with_reducible refine Keeps.pair (by with_reducible assumption) ?_
    | with_reducible apply Keeps.ite
    | with_reducible apply Keeps.iteP
    | with_reducible apply Keeps.foldl
    | with_reducible apply Keeps.foldlP
    | intro _

theorem loadCopy_keeps {a : State} {s : State} {n : Nat} {slot : Nat} {gen : Nat} {key : Bytes} {grant : Nat}
    {t : State} (e : loadCopy s n slot gen key grant = some t) (h : Keeps a s) : Keeps a t := by
  unfold loadCopy at e
  repeat' first | (injection e with e; subst e) | contradiction | split at e | (dsimp only at e)
  repeat' first
    | with_reducible assumption
    | with_reducible apply State_drew_keeps
    | with_reducible apply State_modChan_keeps

theorem queueKey_keeps {a : State} (s : State) (n : Nat) (urgent : Bool) (h : Keeps a s) : Keeps a (queueKey s n urgent) := by
  unfold queueKey
  try dsimp only
  repeat' first
    | with_reducible assumption
    | with_reducible apply State_modSlot_keeps
    | with_reducible apply State_jPut_keeps
    | with_reducible refine Keeps.pair (by with_reducible assumption) ?_
    | with_reducible apply Keeps.ite
    | with_reducible apply Keeps.iteP
    | with_reducible apply Keeps.foldl
    | with_reducible apply Keeps.foldlP
    | intro _

theorem persistAhead_keeps {a : State} (s : State) (n : Nat) (h : Keeps a s) : Keeps a (persistAhead s n) := by
  unfold persistAhead
  try dsimp only
  repeat' first
    | with_reducible assumption
    | with_reducible apply queueKey_keeps
    | with_reducible refine Keeps.pair (by with_reducible assumption) ?_
    | with_reducible apply Keeps.ite
    | with_reducible apply Keeps.iteP
    | with_reducible apply Keeps.foldl
    | with_reducible apply Keeps.foldlP
    | intro _

theorem addUses_keeps {a : State} (s : State) (n : Nat) (u : Nat) (h : Keeps a s) : Keeps a (addUses s n u) := by
  unfold addUses
  try dsimp only
  repeat' first
    | with_reducible assumption
    | with_reducible apply State_modSlot_keeps
    | with_reducible apply persistAhead_keeps
    | with_reducible apply State_evt_keeps
    | with_reducible refine Keeps.pair (by with_reducible assumption) ?_
    | with_reducible apply Keeps.ite
    | with_reducible apply Keeps.iteP
    | with_reducible apply Keeps.foldl
    | with_reducible apply Keeps.foldlP
    | intro _

theorem useCopy_keeps {a : State} (s : State) (n slot u : Nat) (h : Keeps a s) : Keeps a (useCopy s n slot u).1 := by
  unfold useCopy
  dsimp only
  have hs : ∀ s1, (match findCopy (s.chan n).bank slot (s.slot slot).gen with
      | some _ => some (s.modChan n (fun c =>
          { c with bank := touchCopy c.bank slot (s.slot slot).gen (fun e => { e with epoch := s.vault.epoch }) }))
      | none => loadCopy s n slot (s.slot slot).gen (s.slot slot).key 0) = some s1 → Keeps a s1 := by
    intro s1 e
    split at e
    · injection e with e; subst e; exact State_modChan_keeps _ _ _ h
    · exact loadCopy_keeps e h
  split
  · exact h
  · rename_i s1 e
    have h1 := hs s1 e
    repeat' first
      | with_reducible assumption
      | with_reducible apply Keeps.iteP
      | with_reducible apply Keeps.ite
      | with_reducible apply State_modChan_keeps
      | with_reducible apply State_evt_keeps
      | with_reducible apply addUses_keeps
      | intro _

theorem lineKey_keeps {a : State} (s : State) (n : Nat) (slot : Nat) (h : Keeps a s) : Keeps a (lineKey s n slot).1 := by
  unfold lineKey
  try dsimp only
  repeat' first
    | with_reducible assumption
    | with_reducible apply useCopy_keeps
    | with_reducible refine Keeps.pair (by with_reducible assumption) ?_
    | with_reducible apply Keeps.ite
    | with_reducible apply Keeps.iteP
    | with_reducible apply Keeps.foldl
    | with_reducible apply Keeps.foldlP
    | intro _
    | split

theorem cacheNodeKey_keeps {a : State} {s : State} {n : Nat} {slot : Nat} {gen : Nat} {node : Nat} {key : Bytes}
    {t : State} (e : cacheNodeKey s n slot gen node key = some t) (h : Keeps a s) : Keeps a t := by
  unfold cacheNodeKey at e
  repeat' first | (injection e with e; subst e) | contradiction | split at e | (dsimp only at e)
  repeat' first
    | with_reducible assumption
    | with_reducible apply State_drew_keeps
    | with_reducible apply State_modChan_keeps

theorem setMaterial_keeps {a : State} (s : State) (n : Nat) (key : Bytes) (h : Keeps a s) : Keeps a (setMaterial s n key) := by
  unfold setMaterial
  try dsimp only
  repeat' first
    | with_reducible assumption
    | with_reducible apply State_drew_keeps
    | with_reducible apply State_modSlot_keeps

theorem queueTomb_keeps {a : State} (s : State) (n : Nat) (x : Slot) (h : Keeps a s) : Keeps a (queueTomb s n x) := by
  unfold queueTomb
  try dsimp only
  repeat' first
    | with_reducible assumption
    | with_reducible apply State_jPut_keeps
    | with_reducible refine Keeps.pair (by with_reducible assumption) ?_
    | with_reducible apply Keeps.ite
    | with_reducible apply Keeps.iteP
    | with_reducible apply Keeps.foldl
    | with_reducible apply Keeps.foldlP
    | intro _

end Sys2Proof.Machine
end

