-- ==== Sys2Proof/Laws/KeepsMemCore.lean ====
section
/-! SUPPORT. Every operation of Machine/MemCore.lean keeps the queue, the canonical form of DRAM and what is burned. -/

namespace Sys2Proof.Machine

theorem State_modJob_keeps {a : State} (s : State) (j : Nat) (f : Job → Job) (h : Keeps a s) : Keeps a (State.modJob s j f) := by
  unfold State.modJob
  try dsimp only
  repeat' first
    | with_reducible assumption
    | with_reducible refine Keeps.pair (by with_reducible assumption) ?_
    | with_reducible apply Keeps.ite
    | with_reducible apply Keeps.iteP
    | with_reducible apply Keeps.foldl
    | with_reducible apply Keeps.foldlP
    | intro _
    | split
    | (simp only [keeps_mk]; with_reducible apply KeptParts.of)

theorem State_modMchan_keeps {a : State} (s : State) (n : Nat) (f : MemChan → MemChan) (h : Keeps a s)
    : Keeps a (State.modMchan s n f) := by
  unfold State.modMchan
  try dsimp only
  repeat' first
    | with_reducible assumption
    | with_reducible refine Keeps.pair (by with_reducible assumption) ?_
    | with_reducible apply Keeps.ite
    | with_reducible apply Keeps.iteP
    | with_reducible apply Keeps.foldl
    | with_reducible apply Keeps.foldlP
    | intro _
    | split
    | (simp only [keeps_mk]; with_reducible apply KeptParts.of)

theorem State_modRegion_keeps {a : State} (s : State) (n : Nat) (f : Region → Region) (h : Keeps a s)
    : Keeps a (State.modRegion s n f) := by
  unfold State.modRegion
  try dsimp only
  repeat' first
    | with_reducible assumption
    | with_reducible refine Keeps.pair (by with_reducible assumption) ?_
    | with_reducible apply Keeps.ite
    | with_reducible apply Keeps.iteP
    | with_reducible apply Keeps.foldl
    | with_reducible apply Keeps.foldlP
    | intro _
    | split
    | (simp only [keeps_mk]; with_reducible apply KeptParts.of)

theorem integEvent_keeps {a : State} (s : State) (kind : Nat) (a_ : Nat) (n : Nat) (h : Keeps a s)
    : Keeps a (integEvent s kind a_ n) := by
  unfold integEvent
  try dsimp only
  repeat' first
    | with_reducible assumption
    | with_reducible apply State_logPut_keeps
    | with_reducible apply State_putSt_keeps

theorem releaseMarked_keeps {a : State} (s : State) (ch : Nat) (grp : Nat) (h : Keeps a s) : Keeps a (releaseMarked s ch grp) := by
  unfold releaseMarked
  try dsimp only
  repeat' first
    | with_reducible assumption
    | with_reducible apply State_modMchan_keeps
    | with_reducible apply dramPut_keeps
    | with_reducible refine Keeps.pair (by with_reducible assumption) ?_
    | with_reducible apply Keeps.ite
    | with_reducible apply Keeps.iteP
    | with_reducible apply Keeps.foldl
    | with_reducible apply Keeps.foldlP
    | intro _
    | split

theorem touchLine_keeps {a : State} (s : State) (ch : Nat) (grp : Nat) (f : CLine → CLine) (h : Keeps a s)
    : Keeps a (touchLine s ch grp f) := by
  unfold touchLine
  try dsimp only
  repeat' first
    | with_reducible assumption
    | with_reducible apply State_modMchan_keeps
    | with_reducible refine Keeps.pair (by with_reducible assumption) ?_
    | with_reducible apply Keeps.ite
    | with_reducible apply Keeps.iteP
    | with_reducible apply Keeps.foldl
    | with_reducible apply Keeps.foldlP
    | intro _
    | split

theorem touchNode_keeps {a : State} (s : State) (ch : Nat) (t_ : Nat) (k : Nat) (i : Nat) (h_ : Nat)
    (f : TNode → TNode) (h : Keeps a s) : Keeps a (touchNode s ch t_ k i h_ f) := by
  unfold touchNode
  try dsimp only
  repeat' first
    | with_reducible assumption
    | with_reducible apply State_modMchan_keeps
    | with_reducible refine Keeps.pair (by with_reducible assumption) ?_
    | with_reducible apply Keeps.ite
    | with_reducible apply Keeps.iteP
    | with_reducible apply Keeps.foldl
    | with_reducible apply Keeps.foldlP
    | intro _
    | split

theorem memKey_keeps {a : State} (s : State) (ch : Nat) (r : KeyRef) (data : Bool) (h : Keeps a s)
    : Keeps a (memKey s ch r data).1 := by
  unfold memKey
  try dsimp only
  repeat' first
    | with_reducible assumption
    | with_reducible apply keyDenied_keeps
    | with_reducible apply lineKey_keeps
    | with_reducible refine Keeps.pair (by with_reducible assumption) ?_
    | with_reducible apply Keeps.ite
    | with_reducible apply Keeps.iteP
    | with_reducible apply Keeps.foldl
    | with_reducible apply Keeps.foldlP
    | intro _

theorem setRoot_keeps {a : State} (s : State) (t_ : Nat) (h_ : Nat) (v : Nat) (h : Keeps a s) : Keeps a (setRoot s t_ h_ v) := by
  unfold setRoot
  try dsimp only
  repeat' first
    | with_reducible assumption
    | with_reducible refine Keeps.pair (by with_reducible assumption) ?_
    | with_reducible apply Keeps.ite
    | with_reducible apply Keeps.iteP
    | with_reducible apply Keeps.foldl
    | with_reducible apply Keeps.foldlP
    | intro _
    | split
    | (simp only [keeps_mk]; with_reducible apply KeptParts.of)

theorem setChildSeal_keeps {a : State} (s : State) (ch : Nat) (t_ : Nat) (k : Nat) (i : Nat) (h_ : Nat) (depth : Nat)
    (v : Nat) (h : Keeps a s) : Keeps a (setChildSeal s ch t_ k i h_ depth v) := by
  unfold setChildSeal
  try dsimp only
  repeat' first
    | with_reducible assumption
    | with_reducible apply setRoot_keeps
    | with_reducible apply touchNode_keeps
    | with_reducible refine Keeps.pair (by with_reducible assumption) ?_
    | with_reducible apply Keeps.ite
    | with_reducible apply Keeps.iteP
    | with_reducible apply Keeps.foldl
    | with_reducible apply Keeps.foldlP
    | intro _

theorem countSubtree_keeps {a : State} (s : State) (n : Nat) (a_ : Nat) (h : Keeps a s) : Keeps a (countSubtree s n a_) := by
  unfold countSubtree
  try dsimp only
  repeat' first
    | with_reducible assumption
    | with_reducible apply integEvent_keeps
    | with_reducible apply State_inc_keeps
    | with_reducible apply State_evt_keeps
    | with_reducible apply State_modRegion_keeps

theorem loseSubtree_keeps {a : State} (s : State) (t_ : Nat) (h_ : Nat) (h : Keeps a s) : Keeps a (loseSubtree s t_ h_) := by
  unfold loseSubtree
  try dsimp only
  repeat' first
    | with_reducible assumption
    | with_reducible apply countSubtree_keeps
    | with_reducible refine Keeps.pair (by with_reducible assumption) ?_
    | with_reducible apply Keeps.ite
    | with_reducible apply Keeps.iteP
    | with_reducible apply Keeps.foldl
    | with_reducible apply Keeps.foldlP
    | intro _
    | split

theorem sealInto_keeps {a : State} (s : State) (ch : Nat) (t_ : Nat) (k : Nat) (i : Nat) (h_ : Nat) (depth : Nat)
    (a_ : Nat) (b : Bytes) (h : Keeps a s) : Keeps a (sealInto s ch t_ k i h_ depth a_ b) := by
  unfold sealInto
  try dsimp only
  repeat' first
    | with_reducible assumption
    | with_reducible apply memKey_keeps
    | with_reducible apply setChildSeal_keeps
    | with_reducible apply loseSubtree_keeps
    | with_reducible refine Keeps.pair (by with_reducible assumption) ?_
    | with_reducible apply Keeps.ite
    | with_reducible apply Keeps.iteP
    | with_reducible apply Keeps.foldl
    | with_reducible apply Keeps.foldlP
    | intro _
    | split

theorem pushWb_keeps {a : State} (s : State) (ch : Nat) (a_ : Nat) (b : Bytes) (h : Keeps a s) : Keeps a (pushWb s ch a_ b) := by
  unfold pushWb
  try dsimp only
  repeat' first
    | with_reducible assumption
    | with_reducible apply State_modMchan_keeps
    | with_reducible apply dramPut_keeps
    | with_reducible refine Keeps.pair (by with_reducible assumption) ?_
    | with_reducible apply Keeps.ite
    | with_reducible apply Keeps.iteP
    | with_reducible apply Keeps.foldl
    | with_reducible apply Keeps.foldlP
    | intro _
    | split

theorem evictLine_keeps {a : State} (s : State) (ch : Nat) (l : CLine) (h : Keeps a s) : Keeps a (evictLine s ch l) := by
  unfold evictLine
  try dsimp only
  repeat' first
    | with_reducible assumption
    | with_reducible apply State_modMchan_keeps
    | with_reducible apply sealInto_keeps
    | with_reducible apply pushWb_keeps
    | with_reducible refine Keeps.pair (by with_reducible assumption) ?_
    | with_reducible apply Keeps.ite
    | with_reducible apply Keeps.iteP
    | with_reducible apply Keeps.foldl
    | with_reducible apply Keeps.foldlP
    | intro _
    | split

theorem evictNode_keeps {a : State} (f : Nat) (s : State) (ch : Nat) (n : TNode) (h : Keeps a s)
    : Keeps a (evictNode f s ch n) := by
  induction f generalizing s n with
  | zero => exact h
  | succ f ih =>
    unfold evictNode
    dsimp only
    repeat' first
      | with_reducible assumption
      | with_reducible apply ih
      | with_reducible apply evictLine_keeps
      | with_reducible apply pushWb_keeps
      | with_reducible apply sealInto_keeps
      | with_reducible apply State_modMchan_keeps
      | with_reducible apply Keeps.ite
      | with_reducible apply Keeps.foldl
      | intro _
      | split

theorem insertNode_keeps {a : State} (s : State) (ch : Nat) (path : List Nat) (n : TNode) (h : Keeps a s)
    : Keeps a (insertNode s ch path n) := by
  unfold insertNode
  try dsimp only
  repeat' first
    | with_reducible assumption
    | with_reducible apply evictNode_keeps
    | with_reducible apply State_modMchan_keeps
    | with_reducible refine Keeps.pair (by with_reducible assumption) ?_
    | with_reducible apply Keeps.ite
    | with_reducible apply Keeps.iteP
    | with_reducible apply Keeps.foldl
    | with_reducible apply Keeps.foldlP
    | intro _
    | split

theorem dropMeta_keeps {a : State} (s : State) (q_ : Nat → Bool) (h : Keeps a s) : Keeps a (dropMeta s q_) := by
  unfold dropMeta
  try dsimp only
  repeat' first
    | with_reducible assumption
    | with_reducible apply State_modMchan_keeps
    | with_reducible refine Keeps.pair (by with_reducible assumption) ?_
    | with_reducible apply Keeps.ite
    | with_reducible apply Keeps.iteP
    | with_reducible apply Keeps.foldl
    | with_reducible apply Keeps.foldlP
    | intro _

theorem metaCe_keeps {a : State} (s : State) (h : Keeps a s) : Keeps a (metaCe s) := by
  unfold metaCe
  try dsimp only
  repeat' first
    | with_reducible assumption
    | with_reducible apply State_evt_keeps
    | with_reducible apply State_inc_keeps

theorem tagFailed_keeps {a : State} (s : State) (h : Keeps a s) : Keeps a (tagFailed s) := by
  unfold tagFailed
  try dsimp only
  repeat' first
    | with_reducible assumption
    | with_reducible apply State_evt_keeps
    | with_reducible apply State_inc_keeps

theorem sealHolds_keeps {a : State} (s : State) (f : Fetch) (b : Bytes) (lvl : Nat) (addr : Nat) (sv : Nat)
    (h : Keeps a s) : Keeps a (sealHolds s f b lvl addr sv).1 := by
  unfold sealHolds
  try dsimp only
  repeat' first
    | with_reducible assumption
    | with_reducible apply tagFailed_keeps
    | with_reducible refine Keeps.pair (by with_reducible assumption) ?_
    | with_reducible apply Keeps.ite
    | with_reducible apply Keeps.iteP
    | with_reducible apply Keeps.foldl
    | with_reducible apply Keeps.foldlP
    | intro _

theorem loadPath_keeps {a : State} (f : Fetch) (k : Nat) (s : State) (h : Keeps a s) : Keeps a (loadPath f k s).1 := by
  induction k generalizing s with
  | zero => exact h
  | succ k ih =>
    unfold loadPath
    dsimp only
    repeat' first
      | with_reducible assumption
      | with_reducible apply ih
      | with_reducible apply touchNode_keeps
      | with_reducible apply insertNode_keeps
      | with_reducible apply dropMeta_keeps
      | with_reducible apply countSubtree_keeps
      | with_reducible apply setChildSeal_keeps
      | with_reducible apply sealHolds_keeps
      | with_reducible refine Keeps.pair (by with_reducible assumption) ?_
      | with_reducible apply metaCe_keeps
      | with_reducible apply Keeps.ite
      | intro _
      | split

theorem insertLine_keeps {a : State} (s : State) (ch : Nat) (l : CLine) (h : Keeps a s) : Keeps a (insertLine s ch l) := by
  unfold insertLine
  try dsimp only
  repeat' first
    | with_reducible assumption
    | with_reducible apply evictLine_keeps
    | with_reducible apply State_modMchan_keeps
    | with_reducible refine Keeps.pair (by with_reducible assumption) ?_
    | with_reducible apply Keeps.ite
    | with_reducible apply Keeps.iteP
    | with_reducible apply Keeps.foldl
    | with_reducible apply Keeps.foldlP
    | intro _
    | split

theorem countLost_keeps {a : State} (s : State) (n : Nat) (grp : Nat) (h : Keeps a s) : Keeps a (countLost s n grp) := by
  unfold countLost
  try dsimp only
  repeat' first
    | with_reducible assumption
    | with_reducible apply integEvent_keeps
    | with_reducible apply State_inc_keeps
    | with_reducible apply State_evt_keeps
    | with_reducible apply State_modRegion_keeps

theorem loadLeaf_keeps {a : State} (s : State) (f : Fetch) (epoch : Nat) (h : Keeps a s) : Keeps a (loadLeaf s f epoch).1 := by
  unfold loadLeaf
  try dsimp only
  repeat' first
    | with_reducible assumption
    | with_reducible apply loadPath_keeps
    | with_reducible apply insertLine_keeps
    | with_reducible apply dropMeta_keeps
    | with_reducible apply countLost_keeps
    | with_reducible apply sealHolds_keeps
    | with_reducible apply metaCe_keeps
    | with_reducible refine Keeps.pair (by with_reducible assumption) ?_
    | with_reducible apply Keeps.ite
    | with_reducible apply Keeps.iteP
    | with_reducible apply Keeps.foldl
    | with_reducible apply Keeps.foldlP
    | intro _
    | split

theorem loadFlat_keeps {a : State} (s : State) (f : Fetch) (epoch : Nat) (h : Keeps a s) : Keeps a (loadFlat s f epoch).1 := by
  unfold loadFlat
  try dsimp only
  repeat' first
    | with_reducible assumption
    | with_reducible apply insertLine_keeps
    | with_reducible apply dropMeta_keeps
    | with_reducible apply metaCe_keeps
    | with_reducible apply countLost_keeps
    | with_reducible refine Keeps.pair (by with_reducible assumption) ?_
    | with_reducible apply Keeps.ite
    | with_reducible apply Keeps.iteP
    | with_reducible apply Keeps.foldl
    | with_reducible apply Keeps.foldlP
    | intro _
    | split
    | (simp only [keeps_mk]; with_reducible apply KeptParts.of)

theorem loadTag_keeps {a : State} (s : State) (f : Fetch) (epoch : Nat) (h : Keeps a s) : Keeps a (loadTag s f epoch).1 := by
  unfold loadTag
  try dsimp only
  repeat' first
    | with_reducible assumption
    | with_reducible apply releaseMarked_keeps
    | with_reducible apply touchLine_keeps
    | with_reducible apply State_modMchan_keeps
    | with_reducible apply loadLeaf_keeps
    | with_reducible apply loadFlat_keeps
    | with_reducible refine Keeps.pair (by with_reducible assumption) ?_
    | with_reducible apply Keeps.ite
    | with_reducible apply Keeps.iteP
    | with_reducible apply Keeps.foldl
    | with_reducible apply Keeps.foldlP
    | intro _
    | split

theorem storeTag_keeps {a : State} (s : State) (ch : Nat) (grp : Nat) (b : Bytes) (h : Keeps a s)
    : Keeps a (storeTag s ch grp b) := by
  unfold storeTag
  try dsimp only
  repeat' first
    | with_reducible assumption
    | with_reducible apply touchLine_keeps

theorem almRootParity_keeps {a : State} (s : State) (bad : Nat) (h : Keeps a s) : Keeps a (almRootParity s bad) := by
  unfold almRootParity
  try dsimp only
  repeat' first
    | with_reducible assumption
    | with_reducible refine Keeps.pair (by with_reducible assumption) ?_
    | with_reducible apply Keeps.ite
    | with_reducible apply Keeps.iteP
    | with_reducible apply Keeps.foldl
    | with_reducible apply Keeps.foldlP
    | intro _
    | split
    | (simp only [keeps_mk]; with_reducible apply KeptParts.of)

theorem drainWbOne_keeps {a : State} (s : State) (ch : Nat) (h : Keeps a s) : Keeps a (drainWbOne s ch) := by
  unfold drainWbOne
  try dsimp only
  repeat' first
    | with_reducible assumption
    | with_reducible apply State_modMchan_keeps
    | with_reducible apply dramPut_keeps
    | with_reducible refine Keeps.pair (by with_reducible assumption) ?_
    | with_reducible apply Keeps.ite
    | with_reducible apply Keeps.iteP
    | with_reducible apply Keeps.foldl
    | with_reducible apply Keeps.foldlP
    | intro _
    | split

theorem flushChan_keeps {a : State} (s : State) (ch : Nat) (p : Nat → Bool) (h : Keeps a s) : Keeps a (flushChan s ch p) := by
  unfold flushChan
  try dsimp only
  repeat' first
    | with_reducible assumption
    | with_reducible apply evictLine_keeps
    | with_reducible apply evictNode_keeps
    | with_reducible apply drainWbOne_keeps
    | with_reducible refine Keeps.pair (by with_reducible assumption) ?_
    | with_reducible apply Keeps.ite
    | with_reducible apply Keeps.iteP
    | with_reducible apply Keeps.foldl
    | with_reducible apply Keeps.foldlP
    | intro _

theorem cacheCe_keeps {a : State} (s : State) (ch : Nat) (h : Keeps a s) : Keeps a (cacheCe s ch) := by
  unfold cacheCe
  try dsimp only
  repeat' first
    | with_reducible assumption
    | with_reducible apply State_evt_keeps
    | with_reducible apply State_inc_keeps

theorem rootParity_keeps {a : State} (s : State) (t_ : Nat) (h_ : Nat) (bad : Nat) (h : Keeps a s)
    : Keeps a (rootParity s t_ h_ bad) := by
  unfold rootParity
  try dsimp only
  repeat' first
    | with_reducible assumption
    | with_reducible apply loseSubtree_keeps
    | with_reducible apply setRoot_keeps
    | with_reducible apply dropMeta_keeps
    | with_reducible refine Keeps.pair (by with_reducible assumption) ?_
    | with_reducible apply Keeps.ite
    | with_reducible apply Keeps.iteP
    | with_reducible apply Keeps.foldl
    | with_reducible apply Keeps.foldlP
    | intro _
    | split
    | (simp only [keeps_mk]; with_reducible apply KeptParts.of)

theorem noteDram_keeps {a : State} (s : State) (ret : DramReturn) (h : Keeps a s) : Keeps a (noteDram s ret) := by
  unfold noteDram
  try dsimp only
  repeat' first
    | with_reducible assumption
    | with_reducible apply cacheCe_keeps
    | with_reducible apply almRootParity_keeps
    | with_reducible apply rootParity_keeps
    | with_reducible refine Keeps.pair (by with_reducible assumption) ?_
    | with_reducible apply Keeps.ite
    | with_reducible apply Keeps.iteP
    | with_reducible apply Keeps.foldl
    | with_reducible apply Keeps.foldlP
    | intro _
    | split
    | (simp only [keeps_mk]; with_reducible apply KeptParts.of)

end Sys2Proof.Machine
end

