-- ==== Sys2Proof/Laws/KeepsMemPort.lean ====
section
/-! SUPPORT. Every operation of Machine/MemPort.lean keeps the queue, the canonical form of DRAM and what is burned. -/

namespace Sys2Proof.Machine

theorem partRefused_keeps {a : State} (s : State) (t_ : Txn) (h : Keeps a s) : Keeps a (partRefused s t_).1 := by
  unfold partRefused
  try dsimp only
  repeat' first
    | with_reducible assumption
    | with_reducible apply integEvent_keeps
    | with_reducible apply State_evt_keeps
    | with_reducible apply State_inc_keeps

theorem poisonRead_keeps {a : State} (s : State) (data : Bytes) (h : Keeps a s) : Keeps a (poisonRead s data).1 := by
  unfold poisonRead
  try dsimp only
  repeat' first
    | with_reducible assumption
    | with_reducible apply State_inc_keeps

theorem poisonLine_keeps {a : State} (s : State) (t_ : Txn) (b : Bytes) (i : Nat) (h : Keeps a s)
    : Keeps a (poisonLine s t_ b i).1 := by
  unfold poisonLine
  try dsimp only
  repeat' first
    | with_reducible assumption
    | with_reducible apply storeTag_keeps

theorem reencrypt_keeps {a : State} (s : State) (t_ : Txn) (b : Bytes) (i : Nat) (pt : Bytes) (h : Keeps a s)
    : Keeps a (reencrypt s t_ b i pt) := by
  unfold reencrypt
  try dsimp only
  repeat' first
    | with_reducible assumption
    | with_reducible apply dramPut_keeps
    | with_reducible apply tagFailed_keeps
    | with_reducible apply State_inc_keeps
    | with_reducible apply storeTag_keeps
    | with_reducible apply integEvent_keeps
    | with_reducible apply State_evt_keeps
    | with_reducible apply State_modRegion_keeps
    | with_reducible refine Keeps.pair (by with_reducible assumption) ?_
    | with_reducible apply Keeps.ite
    | with_reducible apply Keeps.iteP
    | with_reducible apply Keeps.foldl
    | with_reducible apply Keeps.foldlP
    | intro _

theorem writeLine_keeps {a : State} (s : State) (t_ : Txn) (b : Bytes) (pt : Bytes) (h : Keeps a s)
    : Keeps a (writeLine s t_ b pt) := by
  unfold writeLine
  try dsimp only
  repeat' first
    | with_reducible assumption
    | with_reducible apply reencrypt_keeps
    | with_reducible apply storeTag_keeps
    | with_reducible apply dramPut_keeps
    | with_reducible refine Keeps.pair (by with_reducible assumption) ?_
    | with_reducible apply Keeps.ite
    | with_reducible apply Keeps.iteP
    | with_reducible apply Keeps.foldl
    | with_reducible apply Keeps.foldlP
    | intro _

theorem serveCore_keeps {a : State} (s : State) (t_ : Txn) (h : Keeps a s) : Keeps a (serveCore s t_).1 := by
  unfold serveCore
  try dsimp only
  repeat' first
    | with_reducible assumption
    | with_reducible apply dramPut_keeps
    | with_reducible apply State_inc_keeps
    | with_reducible apply partRefused_keeps
    | with_reducible apply loadTag_keeps
    | with_reducible apply poisonRead_keeps
    | with_reducible apply tagFailed_keeps
    | with_reducible apply poisonLine_keeps
    | with_reducible apply writeLine_keeps
    | with_reducible apply integEvent_keeps
    | with_reducible apply State_evt_keeps
    | with_reducible refine Keeps.pair (by with_reducible assumption) ?_
    | with_reducible apply Keeps.ite
    | with_reducible apply Keeps.iteP
    | with_reducible apply Keeps.foldl
    | with_reducible apply Keeps.foldlP
    | intro _
    | split

theorem answer_keeps {a : State} (s : State) (t_ : Txn) (st : Nat) (data : Bytes) (h : Keeps a s)
    : Keeps a (answer s t_ st data) := by
  unfold answer
  try dsimp only
  repeat' first
    | with_reducible assumption
    | with_reducible apply State_emit_keeps

theorem serve_keeps {a : State} (s : State) (t_ : Txn) (h : Keeps a s) : Keeps a (serve s t_) := by
  unfold serve
  try dsimp only
  repeat' first
    | with_reducible assumption
    | with_reducible apply serveCore_keeps
    | with_reducible apply answer_keeps

theorem passGroup_keeps {a : State} (s : State) (n : Nat) (h : Keeps a s) : Keeps a (passGroup s n) := by
  unfold passGroup
  try dsimp only
  repeat' first
    | with_reducible assumption
    | with_reducible apply dramPut_keeps
    | with_reducible apply dropMeta_keeps
    | with_reducible apply State_evt_keeps
    | with_reducible apply State_modRegion_keeps
    | with_reducible refine Keeps.pair (by with_reducible assumption) ?_
    | with_reducible apply Keeps.ite
    | with_reducible apply Keeps.iteP
    | with_reducible apply Keeps.foldl
    | with_reducible apply Keeps.foldlP
    | intro _
    | split
    | (simp only [keeps_mk]; with_reducible apply KeptParts.of)

theorem freeAhead_keeps {a : State} (s : State) (h : Keeps a s) : Keeps a (freeAhead s) := by
  unfold freeAhead
  try dsimp only
  repeat' first
    | with_reducible assumption
    | with_reducible apply passGroup_keeps
    | with_reducible refine Keeps.pair (by with_reducible assumption) ?_
    | with_reducible apply Keeps.ite
    | with_reducible apply Keeps.iteP
    | with_reducible apply Keeps.foldl
    | with_reducible apply Keeps.foldlP
    | intro _
    | split

theorem serveWaiting_keeps {a : State} (s : State) (t_ : Txn) (h : Keeps a s) : Keeps a (serveWaiting s t_) := by
  unfold serveWaiting
  try dsimp only
  repeat' first
    | with_reducible assumption
    | with_reducible apply serve_keeps
    | with_reducible apply freeAhead_keeps
    | with_reducible refine Keeps.pair (by with_reducible assumption) ?_
    | with_reducible apply Keeps.ite
    | with_reducible apply Keeps.iteP
    | with_reducible apply Keeps.foldl
    | with_reducible apply Keeps.foldlP
    | intro _

theorem serveOldest_keeps {a : State} (s : State) (grp : Nat) (h : Keeps a s) : Keeps a (serveOldest s grp) := by
  unfold serveOldest
  try dsimp only
  repeat' first
    | with_reducible assumption
    | with_reducible apply serveWaiting_keeps
    | with_reducible refine Keeps.pair (by with_reducible assumption) ?_
    | with_reducible apply Keeps.ite
    | with_reducible apply Keeps.iteP
    | with_reducible apply Keeps.foldl
    | with_reducible apply Keeps.foldlP
    | intro _
    | split
    | (simp only [keeps_mk]; with_reducible apply KeptParts.of)

theorem settleWhere_keeps {a : State} (s : State) (p : Txn → Bool) (h : Keeps a s) : Keeps a (settleWhere s p) := by
  unfold settleWhere
  try dsimp only
  repeat' first
    | with_reducible assumption
    | with_reducible apply serveOldest_keeps
    | with_reducible refine Keeps.pair (by with_reducible assumption) ?_
    | with_reducible apply Keeps.ite
    | with_reducible apply Keeps.iteP
    | with_reducible apply Keeps.foldl
    | with_reducible apply Keeps.foldlP
    | intro _
    | split

theorem settle_keeps {a : State} (s : State) (grp : Nat) (h : Keeps a s) : Keeps a (settle s grp) := by
  unfold settle
  try dsimp only
  repeat' first
    | with_reducible assumption
    | with_reducible apply settleWhere_keeps

theorem keyFailed_keeps {a : State} (s : State) (kid : Nat) (data : Bool) (job : Option (Nat × Bool)) (h : Keeps a s)
    : Keeps a (keyFailed s kid data job) := by
  unfold keyFailed
  try dsimp only
  repeat' first
    | with_reducible assumption
    | with_reducible apply State_evt_keeps
    | with_reducible apply State_putStf_keeps
    | with_reducible apply State_modJob_keeps
    | with_reducible refine Keeps.pair (by with_reducible assumption) ?_
    | with_reducible apply Keeps.ite
    | with_reducible apply Keeps.iteP
    | with_reducible apply Keeps.foldl
    | with_reducible apply Keeps.foldlP
    | intro _
    | split

theorem accept_keeps {a : State} (s : State) (addr : Nat) (cls : Nat) (write : Bool) (h : Keeps a s)
    : Keeps a (accept s addr cls write).1 := by
  unfold accept
  try dsimp only
  repeat' first
    | with_reducible assumption
    | with_reducible apply memKey_keeps
    | with_reducible apply keyFailed_keeps
    | with_reducible refine Keeps.pair (by with_reducible assumption) ?_
    | with_reducible apply Keeps.ite
    | with_reducible apply Keeps.iteP
    | with_reducible apply Keeps.foldl
    | with_reducible apply Keeps.foldlP
    | intro _
    | split

theorem denyCount_keeps {a : State} (s : State) (kid : Nat) (cls : Nat) (reason : Nat) (h : Keeps a s)
    : Keeps a (denyCount s kid cls reason) := by
  unfold denyCount
  try dsimp only
  repeat' first
    | with_reducible assumption
    | with_reducible apply State_evt_keeps
    | with_reducible apply State_putSt_keeps
    | with_reducible apply State_inc_keeps
    | with_reducible refine Keeps.pair (by with_reducible assumption) ?_
    | with_reducible apply Keeps.ite
    | with_reducible apply Keeps.iteP
    | with_reducible apply Keeps.foldl
    | with_reducible apply Keeps.foldlP
    | intro _

theorem dmaLine_keeps {a : State} (s : State) (addr : Nat) (write : Bool) (data : Bytes) (be : Nat) (h : Keeps a s)
    : Keeps a (dmaLine s addr write data be).1 := by
  unfold dmaLine
  try dsimp only
  repeat' first
    | with_reducible assumption
    | with_reducible apply settle_keeps
    | with_reducible apply accept_keeps
    | with_reducible apply denyCount_keeps
    | with_reducible apply serveCore_keeps
    | with_reducible apply freeAhead_keeps
    | with_reducible refine Keeps.pair (by with_reducible assumption) ?_
    | with_reducible apply Keeps.ite
    | with_reducible apply Keeps.iteP
    | with_reducible apply Keeps.foldl
    | with_reducible apply Keeps.foldlP
    | intro _
    | split

theorem hostWrite_keeps {a : State} (s : State) (addr : Nat) (b : Bytes) (h : Keeps a s) : Keeps a (hostWrite s addr b).1 := by
  unfold hostWrite
  dsimp only
  generalize linePieces (b.length / 64 + 2) addr b.length = l
  suffices ∀ (p : (State × Bool) × Bytes), Keeps a p.1.1 → Keeps a (l.foldl (fun (p : (State × Bool) × Bytes) l =>
      (((dmaLine p.1.1 l.1 true (zeros l.2.1 ++ List.take l.2.2 p.2) (lineBe l.2.1 l.2.2)).1,
        p.1.2 && decide ((dmaLine p.1.1 l.1 true (zeros l.2.1 ++ List.take l.2.2 p.2) (lineBe l.2.1 l.2.2)).2.1 = 0)),
        List.drop l.2.2 p.2)) p).1.1 from this ((s, true), b) h
  induction l with
  | nil => exact fun p hp => hp
  | cons x l ih => exact fun p hp => ih _ (dmaLine_keeps _ _ _ _ _ hp)

theorem memAccess_keeps {a : State} (s : State) (addr : Nat) (cls : Nat) (tag : Nat) (write : Bool) (data : Bytes)
    (be : Nat) (h : Keeps a s) : Keeps a (memAccess s addr cls tag write data be) := by
  unfold memAccess
  try dsimp only
  repeat' first
    | with_reducible assumption
    | with_reducible apply accept_keeps
    | with_reducible apply denyCount_keeps
    | with_reducible apply State_emit_keeps
    | with_reducible apply serve_keeps
    | with_reducible refine Keeps.pair (by with_reducible assumption) ?_
    | with_reducible apply Keeps.ite
    | with_reducible apply Keeps.iteP
    | with_reducible apply Keeps.foldl
    | with_reducible apply Keeps.foldlP
    | intro _
    | split
    | (simp only [keeps_mk]; with_reducible apply KeptParts.of)

theorem hostRead_keeps {a : State} (s : State) (addr : Nat) (n : Nat) (h : Keeps a s) : Keeps a (hostRead s addr n).1 := by
  unfold hostRead
  try dsimp only
  repeat' first
    | with_reducible assumption
    | with_reducible apply dmaLine_keeps
    | with_reducible refine Keeps.pair (by with_reducible assumption) ?_
    | with_reducible apply Keeps.ite
    | with_reducible apply Keeps.iteP
    | with_reducible apply Keeps.foldl
    | with_reducible apply Keeps.foldlP
    | intro _

theorem atMemPort_keeps {a : State} (s : State) (c : Instr) (f : State → State) (h : Keeps a s) (hf_f : ∀
    (t : State), Keeps a t → Keeps a (f t)) : Keeps a (atMemPort s c f) := by
  unfold atMemPort
  try dsimp only
  repeat' first
    | with_reducible assumption
    | apply hf_f
    | with_reducible refine Keeps.pair (by with_reducible assumption) ?_
    | with_reducible apply Keeps.ite
    | with_reducible apply Keeps.iteP
    | with_reducible apply Keeps.foldl
    | with_reducible apply Keeps.foldlP
    | intro _
    | split
    | (simp only [keeps_mk]; with_reducible apply KeptParts.of)

theorem settleAll_keeps {a : State} (s : State) (h : Keeps a s) : Keeps a (settleAll s) := by
  unfold settleAll
  try dsimp only
  repeat' first
    | with_reducible assumption
    | with_reducible apply settleWhere_keeps

theorem dramReturn_keeps {a : State} (s : State) (n : Nat) (ret : DramReturn) (h : Keeps a s) : Keeps a (dramReturn s n ret) := by
  unfold dramReturn
  try dsimp only
  repeat' first
    | with_reducible assumption
    | with_reducible apply noteDram_keeps
    | with_reducible apply serveOldest_keeps
    | with_reducible refine Keeps.pair (by with_reducible assumption) ?_
    | with_reducible apply Keeps.ite
    | with_reducible apply Keeps.iteP
    | with_reducible apply Keeps.foldl
    | with_reducible apply Keeps.foldlP
    | intro _
    | split

theorem initPass_keeps {a : State} (s : State) (n : Nat) (h : Keeps a s) : Keeps a (initPass s n) := by
  unfold initPass
  try dsimp only
  repeat' first
    | with_reducible assumption
    | with_reducible apply passGroup_keeps
    | with_reducible refine Keeps.pair (by with_reducible assumption) ?_
    | with_reducible apply Keeps.ite
    | with_reducible apply Keeps.iteP
    | with_reducible apply Keeps.foldl
    | with_reducible apply Keeps.foldlP
    | intro _

theorem markedOne_keeps {a : State} (s : State) (ch : Nat) (h : Keeps a s) : Keeps a (markedOne s ch) := by
  unfold markedOne
  try dsimp only
  repeat' first
    | with_reducible assumption
    | with_reducible apply releaseMarked_keeps
    | with_reducible refine Keeps.pair (by with_reducible assumption) ?_
    | with_reducible apply Keeps.ite
    | with_reducible apply Keeps.iteP
    | with_reducible apply Keeps.foldl
    | with_reducible apply Keeps.foldlP
    | intro _
    | split

end Sys2Proof.Machine
end

