-- ==== Sys2Proof/Laws/KeepsRings.lean ====
section
/-! SUPPORT. Every operation of Machine/Rings.lean keeps the queue, the canonical form of DRAM and what is burned. -/

namespace Sys2Proof.Machine

theorem scrubEntry_keeps {a : State} (s : State) (k : Nat) (i : Nat) (off : Nat) (n : Nat) (h : Keeps a s)
    : Keeps a (scrubEntry s k i off n) := by
  unfold scrubEntry
  try dsimp only
  repeat' first
    | with_reducible assumption
    | with_reducible apply hostWrite_keeps

theorem scrubSecret_keeps {a : State} (s : State) (k : Nat) (i : Nat) (d : Bytes) (h : Keeps a s)
    : Keeps a (scrubSecret s k i d) := by
  unfold scrubSecret
  try dsimp only
  repeat' first
    | with_reducible assumption
    | with_reducible apply scrubEntry_keeps
    | with_reducible refine Keeps.pair (by with_reducible assumption) ?_
    | with_reducible apply Keeps.ite
    | with_reducible apply Keeps.iteP
    | with_reducible apply Keeps.foldl
    | with_reducible apply Keeps.foldlP
    | intro _

theorem zeroOuts_keeps {a : State} (s : State) (outs : List (Nat × Nat)) (h : Keeps a s) : Keeps a (zeroOuts s outs) := by
  unfold zeroOuts
  try dsimp only
  repeat' first
    | with_reducible assumption
    | with_reducible apply hostWrite_keeps
    | with_reducible refine Keeps.pair (by with_reducible assumption) ?_
    | with_reducible apply Keeps.ite
    | with_reducible apply Keeps.iteP
    | with_reducible apply Keeps.foldl
    | with_reducible apply Keeps.foldlP
    | intro _

theorem modItem_keeps {a : State} (s : State) (k : Nat) (i : Nat) (f : Item → Item) (h : Keeps a s)
    : Keeps a (modItem s k i f) := by
  unfold modItem
  try dsimp only
  repeat' first
    | with_reducible assumption
    | with_reducible apply State_modRing_keeps

theorem releaseCost_keeps {a : State} (s : State) (it : Item) (h : Keeps a s) : Keeps a (releaseCost s it) := by
  unfold releaseCost
  try dsimp only
  repeat' first
    | with_reducible assumption
    | with_reducible apply State_modChan_keeps
    | with_reducible refine Keeps.pair (by with_reducible assumption) ?_
    | with_reducible apply Keeps.ite
    | with_reducible apply Keeps.iteP
    | with_reducible apply Keeps.foldl
    | with_reducible apply Keeps.foldlP
    | intro _
    | split
    | (simp only [keeps_mk]; with_reducible apply KeptParts.of)

theorem finish_keeps {a : State} (s : State) (k : Nat) (i : Nat) (status : Nat) (result : Bytes) (zero : Bool)
    (h : Keeps a s) : Keeps a (finish s k i status result zero) := by
  unfold finish
  try dsimp only
  repeat' first
    | with_reducible assumption
    | with_reducible apply zeroOuts_keeps
    | with_reducible apply modItem_keeps
    | with_reducible apply releaseCost_keeps
    | with_reducible refine Keeps.pair (by with_reducible assumption) ?_
    | with_reducible apply Keeps.ite
    | with_reducible apply Keeps.iteP
    | with_reducible apply Keeps.foldl
    | with_reducible apply Keeps.foldlP
    | intro _
    | split

theorem abortOne_keeps {a : State} (s : State) (k : Nat) (i : Nat) (h : Keeps a s) : Keeps a (abortOne s k i).1 := by
  unfold abortOne
  try dsimp only
  repeat' first
    | with_reducible assumption
    | with_reducible apply State_modRing_keeps
    | with_reducible apply scrubSecret_keeps
    | with_reducible apply finish_keeps
    | with_reducible refine Keeps.pair (by with_reducible assumption) ?_
    | with_reducible apply Keeps.ite
    | with_reducible apply Keeps.iteP
    | with_reducible apply Keeps.foldl
    | with_reducible apply Keeps.foldlP
    | intro _
    | split

theorem abortDecide_keeps {a : State} (s : State) (k : Nat) (h : Keeps a s) : Keeps a (abortDecide s k) := by
  unfold abortDecide
  try dsimp only
  repeat' first
    | with_reducible assumption
    | with_reducible apply State_modRing_keeps
    | with_reducible apply abortOne_keeps
    | with_reducible refine Keeps.pair (by with_reducible assumption) ?_
    | with_reducible apply Keeps.ite
    | with_reducible apply Keeps.iteP
    | with_reducible apply Keeps.foldl
    | with_reducible apply Keeps.foldlP
    | intro _
    | split

theorem abortRequest_keeps {a : State} (s : State) (r : Nat) (val : Nat) (h : Keeps a s) : Keeps a (abortRequest s r val) := by
  unfold abortRequest
  try dsimp only
  repeat' first
    | with_reducible assumption
    | with_reducible apply regWrite_keeps
    | with_reducible apply State_modRing_keeps
    | with_reducible refine Keeps.pair (by with_reducible assumption) ?_
    | with_reducible apply Keeps.ite
    | with_reducible apply Keeps.iteP
    | with_reducible apply Keeps.foldl
    | with_reducible apply Keeps.foldlP
    | intro _

theorem grantEvents_keeps {a : State} (s : State) (cq : Nat) (h : Keeps a s) : Keeps a (grantEvents s cq) := by
  unfold grantEvents
  try dsimp only
  repeat' first
    | with_reducible assumption
    | with_reducible apply State_modRing_keeps

theorem doorbell_keeps {a : State} (s : State) (r : Nat) (val : Nat) (h : Keeps a s) : Keeps a (doorbell s r val) := by
  unfold doorbell
  try dsimp only
  repeat' first
    | with_reducible assumption
    | with_reducible apply regWrite_keeps
    | with_reducible apply State_modRing_keeps
    | with_reducible apply grantEvents_keeps
    | with_reducible refine Keeps.pair (by with_reducible assumption) ?_
    | with_reducible apply Keeps.ite
    | with_reducible apply Keeps.iteP
    | with_reducible apply Keeps.foldl
    | with_reducible apply Keeps.foldlP
    | intro _

theorem unreserve_keeps {a : State} (s : State) (k : Nat) (h : Keeps a s) : Keeps a (unreserve s k) := by
  unfold unreserve
  try dsimp only
  repeat' first
    | with_reducible assumption
    | with_reducible apply State_modRing_keeps

theorem noteWait_keeps {a : State} (s : State) (source : Nat) (h : Keeps a s) : Keeps a (noteWait s source) := by
  unfold noteWait
  try dsimp only
  repeat' first
    | with_reducible assumption
    | with_reducible apply State_evt_keeps
    | with_reducible refine Keeps.pair (by with_reducible assumption) ?_
    | with_reducible apply Keeps.ite
    | with_reducible apply Keeps.iteP
    | with_reducible apply Keeps.foldl
    | with_reducible apply Keeps.foldlP
    | intro _

theorem raiseEvent_keeps {a : State} (s : State) (cq : Nat) (e_ : SrcEvt) (h : Keeps a s) : Keeps a (raiseEvent s cq e_) := by
  unfold raiseEvent
  try dsimp only
  repeat' first
    | with_reducible assumption
    | with_reducible apply unreserve_keeps
    | with_reducible apply grantEvents_keeps
    | with_reducible apply State_modRing_keeps
    | with_reducible apply noteWait_keeps
    | with_reducible refine Keeps.pair (by with_reducible assumption) ?_
    | with_reducible apply Keeps.ite
    | with_reducible apply Keeps.iteP
    | with_reducible apply Keeps.foldl
    | with_reducible apply Keeps.foldlP
    | intro _

theorem raiseOnce_keeps {a : State} (s : State) (cq : Nat) (e_ : SrcEvt) (h : Keeps a s) : Keeps a (raiseOnce s cq e_) := by
  unfold raiseOnce
  try dsimp only
  repeat' first
    | with_reducible assumption
    | with_reducible apply State_modRing_keeps
    | with_reducible apply raiseEvent_keeps
    | with_reducible refine Keeps.pair (by with_reducible assumption) ?_
    | with_reducible apply Keeps.ite
    | with_reducible apply Keeps.iteP
    | with_reducible apply Keeps.foldl
    | with_reducible apply Keeps.foldlP
    | intro _

theorem fetchHead_keeps {a : State} (s : State) (k : Nat) (h : Keeps a s) : Keeps a (fetchHead s k).1 := by
  unfold fetchHead
  try dsimp only
  repeat' first
    | with_reducible assumption
    | with_reducible apply hostRead_keeps
    | with_reducible apply State_modRing_keeps
    | with_reducible refine Keeps.pair (by with_reducible assumption) ?_
    | with_reducible apply Keeps.ite
    | with_reducible apply Keeps.iteP
    | with_reducible apply Keeps.foldl
    | with_reducible apply Keeps.foldlP
    | intro _
    | split

theorem stallHead_keeps {a : State} (s : State) (k : Nat) (h : Keeps a s) : Keeps a (stallHead s k) := by
  unfold stallHead
  try dsimp only
  repeat' first
    | with_reducible assumption
    | with_reducible apply State_modRing_keeps

theorem withHead_keeps {a : State} (s : State) (k : Nat) (f : State → Bytes → State × Bool) (h : Keeps a s) (hf_f : ∀
    (t : State) (y1 : Bytes), Keeps a t → Keeps a (f t y1).1) : Keeps a (withHead s k f).1 := by
  unfold withHead
  try dsimp only
  repeat' first
    | with_reducible assumption
    | apply hf_f
    | with_reducible apply fetchHead_keeps
    | with_reducible apply stallHead_keeps
    | with_reducible refine Keeps.pair (by with_reducible assumption) ?_
    | with_reducible apply Keeps.ite
    | with_reducible apply Keeps.iteP
    | with_reducible apply Keeps.foldl
    | with_reducible apply Keeps.foldlP
    | intro _
    | split

theorem takeHead_keeps {a : State} (s : State) (k : Nat) (it : Item) (h : Keeps a s) : Keeps a (takeHead s k it) := by
  unfold takeHead
  try dsimp only
  repeat' first
    | with_reducible assumption
    | with_reducible apply State_modRing_keeps
    | with_reducible apply State_bump_keeps

theorem endHead_keeps {a : State} (s : State) (k : Nat) (d : Bytes) (st : Nat) (result : Bytes) (h : Keeps a s)
    : Keeps a (endHead s k d st result) := by
  unfold endHead
  try dsimp only
  repeat' first
    | with_reducible assumption
    | with_reducible apply finish_keeps
    | with_reducible apply scrubSecret_keeps
    | with_reducible apply takeHead_keeps

theorem passRing_keeps {a : State} (s : State) (k : Nat) (h : Keeps a s) : Keeps a (passRing s k) := by
  unfold passRing
  try dsimp only
  repeat' first
    | with_reducible assumption
    | with_reducible apply State_modRing_keeps

theorem cqWrite_keeps {a : State} (s : State) (k : Nat) (status : Nat) (zero : Bool) (irq : Bool) (sqHead : Nat)
    (tag : Nat) (cal : Nat) (source : Nat) (op : Nat) (result : Bytes) (h : Keeps a s)
    : Keeps a (cqWrite s k status zero irq sqHead tag cal source op result) := by
  unfold cqWrite
  try dsimp only
  repeat' first
    | with_reducible assumption
    | with_reducible apply unreserve_keeps
    | with_reducible apply hostWrite_keeps
    | with_reducible apply State_modRing_keeps
    | with_reducible apply State_evt_keeps
    | with_reducible refine Keeps.pair (by with_reducible assumption) ?_
    | with_reducible apply Keeps.ite
    | with_reducible apply Keeps.iteP
    | with_reducible apply Keeps.foldl
    | with_reducible apply Keeps.foldlP
    | intro _

theorem withItem_keeps {a : State} (s : State) (k : Nat) (i : Nat) (op : Nat) (f : Item → State) (h : Keeps a s)
    (hf_f : ∀ y, Keeps a (f y)) : Keeps a (withItem s k i op f) := by
  unfold withItem
  try dsimp only
  repeat' first
    | with_reducible assumption
    | apply hf_f
    | with_reducible refine Keeps.pair (by with_reducible assumption) ?_
    | with_reducible apply Keeps.ite
    | with_reducible apply Keeps.iteP
    | with_reducible apply Keeps.foldl
    | with_reducible apply Keeps.foldlP
    | intro _
    | split

theorem endImmediate_keeps {a : State} (s : State) (h : Keeps a s) : Keeps a (endImmediate s) := by
  unfold endImmediate
  try dsimp only
  repeat' first
    | with_reducible assumption
    | with_reducible refine Keeps.pair (by with_reducible assumption) ?_
    | with_reducible apply Keeps.ite
    | with_reducible apply Keeps.iteP
    | with_reducible apply Keeps.foldl
    | with_reducible apply Keeps.foldlP
    | intro _
    | split
    | (simp only [keeps_mk]; with_reducible apply KeptParts.of)

theorem completeNext_keeps {a : State} (s : State) (k : Nat) (h : Keeps a s) : Keeps a (completeNext s k) := by
  unfold completeNext
  try dsimp only
  repeat' first
    | with_reducible assumption
    | with_reducible apply State_modRing_keeps
    | with_reducible apply unreserve_keeps
    | with_reducible apply cqWrite_keeps
    | with_reducible refine Keeps.pair (by with_reducible assumption) ?_
    | with_reducible apply Keeps.ite
    | with_reducible apply Keeps.iteP
    | with_reducible apply Keeps.foldl
    | with_reducible apply Keeps.foldlP
    | intro _
    | split

theorem completionError_keeps {a : State} (s : State) (k : Nat) (h : Keeps a s) : Keeps a (completionError s k) := by
  unfold completionError
  try dsimp only
  repeat' first
    | with_reducible assumption
    | with_reducible apply unreserve_keeps
    | with_reducible apply State_modRing_keeps
    | with_reducible refine Keeps.pair (by with_reducible assumption) ?_
    | with_reducible apply Keeps.ite
    | with_reducible apply Keeps.iteP
    | with_reducible apply Keeps.foldl
    | with_reducible apply Keeps.foldlP
    | intro _
    | split

theorem descriptorError_keeps {a : State} (s : State) (k : Nat) (h : Keeps a s) : Keeps a (descriptorError s k) := by
  unfold descriptorError
  try dsimp only
  repeat' first
    | with_reducible assumption
    | with_reducible apply State_modRing_keeps
    | with_reducible refine Keeps.pair (by with_reducible assumption) ?_
    | with_reducible apply Keeps.ite
    | with_reducible apply Keeps.iteP
    | with_reducible apply Keeps.foldl
    | with_reducible apply Keeps.foldlP
    | intro _

theorem writeEvent_keeps {a : State} (s : State) (cq : Nat) (h : Keeps a s) : Keeps a (writeEvent s cq) := by
  unfold writeEvent
  try dsimp only
  repeat' first
    | with_reducible assumption
    | with_reducible apply grantEvents_keeps
    | with_reducible apply cqWrite_keeps
    | with_reducible apply State_modRing_keeps
    | with_reducible apply noteWait_keeps
    | with_reducible refine Keeps.pair (by with_reducible assumption) ?_
    | with_reducible apply Keeps.ite
    | with_reducible apply Keeps.iteP
    | with_reducible apply Keeps.foldl
    | with_reducible apply Keeps.foldlP
    | intro _
    | split

theorem leaveVault_keeps {a : State} (s : State) (k : Nat) (it : Item) (h : Keeps a s) : Keeps a (leaveVault s k it) := by
  unfold leaveVault
  try dsimp only
  repeat' first
    | with_reducible assumption
    | with_reducible apply endImmediate_keeps
    | with_reducible refine Keeps.pair (by with_reducible assumption) ?_
    | with_reducible apply Keeps.ite
    | with_reducible apply Keeps.iteP
    | with_reducible apply Keeps.foldl
    | with_reducible apply Keeps.foldlP
    | intro _

theorem inputError_keeps {a : State} (s : State) (k : Nat) (i : Nat) (poison : Bool) (h : Keeps a s)
    : Keeps a (inputError s k i poison) := by
  unfold inputError
  try dsimp only
  repeat' first
    | with_reducible assumption
    | with_reducible apply finish_keeps
    | with_reducible apply leaveVault_keeps
    | with_reducible refine Keeps.pair (by with_reducible assumption) ?_
    | with_reducible apply Keeps.ite
    | with_reducible apply Keeps.iteP
    | with_reducible apply Keeps.foldl
    | with_reducible apply Keeps.foldlP
    | intro _
    | split

theorem nop_keeps {a : State} (s : State) (k : Nat) (i : Nat) (h : Keeps a s) : Keeps a (nop s k i) := by
  unfold nop
  try dsimp only
  repeat' first
    | with_reducible assumption
    | with_reducible apply withItem_keeps
    | with_reducible apply finish_keeps
    | with_reducible refine Keeps.pair (by with_reducible assumption) ?_
    | with_reducible apply Keeps.ite
    | with_reducible apply Keeps.iteP
    | with_reducible apply Keeps.foldl
    | with_reducible apply Keeps.foldlP
    | intro _

end Sys2Proof.Machine
end

