-- ==== Sys2Proof/Laws/KeepsEquinox.lean ====
section
/-! SUPPORT. Every operation of Machine/Equinox.lean keeps the queue, the canonical form of DRAM and what is burned. -/

namespace Sys2Proof.Machine

theorem rgnCtl_keeps {a : State} (s : State) (n : Nat) (val : Nat) (h : Keeps a s) : Keeps a (rgnCtl s n val) := by
  unfold rgnCtl
  try dsimp only
  repeat' first
    | with_reducible assumption
    | with_reducible apply State_putWr_keeps
    | with_reducible apply State_evt_keeps
    | with_reducible apply State_putStf_keeps
    | with_reducible refine Keeps.pair (by with_reducible assumption) ?_
    | with_reducible apply Keeps.ite
    | with_reducible apply Keeps.iteP
    | with_reducible apply Keeps.foldl
    | with_reducible apply Keeps.foldlP
    | intro _
    | split
    | (simp only [keeps_mk]; with_reducible apply KeptParts.of)

theorem kidCtl_keeps {a : State} (s : State) (k : Nat) (val : Nat) (h : Keeps a s) : Keeps a (kidCtl s k val) := by
  unfold kidCtl
  try dsimp only
  repeat' first
    | with_reducible assumption
    | with_reducible apply State_putWr_keeps
    | with_reducible apply State_evt_keeps
    | with_reducible apply State_putStf_keeps
    | with_reducible refine Keeps.pair (by with_reducible assumption) ?_
    | with_reducible apply Keeps.ite
    | with_reducible apply Keeps.iteP
    | with_reducible apply Keeps.foldl
    | with_reducible apply Keeps.foldlP
    | intro _
    | split
    | (simp only [keeps_mk]; with_reducible apply KeptParts.of)

theorem treeCtl_keeps {a : State} (s : State) (t_ : Nat) (val : Nat) (h : Keeps a s) : Keeps a (treeCtl s t_ val) := by
  unfold treeCtl
  try dsimp only
  repeat' first
    | with_reducible assumption
    | with_reducible apply State_putWr_keeps
    | with_reducible apply State_putStf_keeps
    | with_reducible refine Keeps.pair (by with_reducible assumption) ?_
    | with_reducible apply Keeps.ite
    | with_reducible apply Keeps.iteP
    | with_reducible apply Keeps.foldl
    | with_reducible apply Keeps.foldlP
    | intro _
    | split
    | (simp only [keeps_mk]; with_reducible apply KeptParts.of)

theorem eqxCtl_keeps {a : State} (s : State) (j : Nat) (val : Nat) (h : Keeps a s) : Keeps a (eqxCtl s j val) := by
  unfold eqxCtl
  try dsimp only
  repeat' first
    | with_reducible assumption
    | with_reducible apply State_putWr_keeps
    | with_reducible apply State_evt_keeps
    | with_reducible apply State_modJob_keeps
    | with_reducible refine Keeps.pair (by with_reducible assumption) ?_
    | with_reducible apply Keeps.ite
    | with_reducible apply Keeps.iteP
    | with_reducible apply Keeps.foldl
    | with_reducible apply Keeps.foldlP
    | intro _
    | split
    | (simp only [keeps_mk]; with_reducible apply KeptParts.of)

theorem commitTree_keeps {a : State} (s : State) (c : Nat × TreeEntry) (h : Keeps a s) : Keeps a (commitTree s c) := by
  unfold commitTree
  try dsimp only
  repeat' first
    | with_reducible assumption
    | with_reducible apply State_putStf_keeps
    | with_reducible refine Keeps.pair (by with_reducible assumption) ?_
    | with_reducible apply Keeps.ite
    | with_reducible apply Keeps.iteP
    | with_reducible apply Keeps.foldl
    | with_reducible apply Keeps.foldlP
    | intro _
    | split
    | (simp only [keeps_mk]; with_reducible apply KeptParts.of)

theorem drainArea_keeps {a : State} (s : State) (c : Nat) (q_ : Nat → Bool) (h : Keeps a s) : Keeps a (drainArea s c q_) := by
  unfold drainArea
  try dsimp only
  repeat' first
    | with_reducible assumption
    | with_reducible apply dramPut_keeps
    | with_reducible apply State_modMchan_keeps
    | with_reducible refine Keeps.pair (by with_reducible assumption) ?_
    | with_reducible apply Keeps.ite
    | with_reducible apply Keeps.iteP
    | with_reducible apply Keeps.foldl
    | with_reducible apply Keeps.foldlP
    | intro _

theorem markLines_keeps {a : State} (s : State) (n : Nat) (old : Region) (h : Keeps a s) : Keeps a (markLines s n old) := by
  unfold markLines
  try dsimp only
  repeat' first
    | with_reducible assumption
    | with_reducible apply drainArea_keeps
    | with_reducible apply dramPut_keeps
    | with_reducible apply State_modMchan_keeps
    | with_reducible refine Keeps.pair (by with_reducible assumption) ?_
    | with_reducible apply Keeps.ite
    | with_reducible apply Keeps.iteP
    | with_reducible apply Keeps.foldl
    | with_reducible apply Keeps.foldlP
    | intro _

theorem clearRoots_keeps {a : State} (s : State) (t_ : Nat) (h : Keeps a s) : Keeps a (clearRoots s t_) := by
  unfold clearRoots
  try dsimp only
  repeat' first
    | with_reducible assumption
    | with_reducible apply setRoot_keeps
    | with_reducible refine Keeps.pair (by with_reducible assumption) ?_
    | with_reducible apply Keeps.ite
    | with_reducible apply Keeps.iteP
    | with_reducible apply Keeps.foldl
    | with_reducible apply Keeps.foldlP
    | intro _

theorem initRegion_keeps {a : State} (s : State) (n : Nat) (h : Keeps a s) : Keeps a (initRegion s n) := by
  unfold initRegion
  try dsimp only
  repeat' first
    | with_reducible assumption
    | with_reducible apply State_modRegion_keeps
    | with_reducible apply clearRoots_keeps
    | with_reducible refine Keeps.pair (by with_reducible assumption) ?_
    | with_reducible apply Keeps.ite
    | with_reducible apply Keeps.iteP
    | with_reducible apply Keeps.foldl
    | with_reducible apply Keeps.foldlP
    | intro _
    | split
    | (simp only [keeps_mk]; with_reducible apply KeptParts.of)

theorem commitRegion_keeps {a : State} (s : State) (c : Nat × Region) (h : Keeps a s) : Keeps a (commitRegion s c) := by
  unfold commitRegion
  try dsimp only
  repeat' first
    | with_reducible assumption
    | with_reducible apply State_evt_keeps
    | with_reducible apply State_putStf_keeps
    | with_reducible apply markLines_keeps
    | with_reducible apply State_modRegion_keeps
    | with_reducible apply initRegion_keeps
    | with_reducible refine Keeps.pair (by with_reducible assumption) ?_
    | with_reducible apply Keeps.ite
    | with_reducible apply Keeps.iteP
    | with_reducible apply Keeps.foldl
    | with_reducible apply Keeps.foldlP
    | intro _

theorem commitKid_keeps {a : State} (s : State) (c : Nat × KidEntry) (h : Keeps a s) : Keeps a (commitKid s c) := by
  unfold commitKid
  try dsimp only
  repeat' first
    | with_reducible assumption
    | with_reducible apply State_putSt_keeps
    | with_reducible apply State_evt_keeps
    | with_reducible apply State_putStf_keeps
    | with_reducible refine Keeps.pair (by with_reducible assumption) ?_
    | with_reducible apply Keeps.ite
    | with_reducible apply Keeps.iteP
    | with_reducible apply Keeps.foldl
    | with_reducible apply Keeps.foldlP
    | intro _
    | split
    | (simp only [keeps_mk]; with_reducible apply KeptParts.of)

theorem commitMemTables_keeps {a : State} (s : State) (h : Keeps a s) : Keeps a (commitMemTables s) := by
  unfold commitMemTables
  try dsimp only
  repeat' first
    | with_reducible assumption
    | with_reducible apply settleAll_keeps
    | with_reducible apply commitTree_keeps
    | with_reducible apply commitRegion_keeps
    | with_reducible apply commitKid_keeps
    | with_reducible refine Keeps.pair (by with_reducible assumption) ?_
    | with_reducible apply Keeps.ite
    | with_reducible apply Keeps.iteP
    | with_reducible apply Keeps.foldl
    | with_reducible apply Keeps.foldlP
    | intro _
    | split
    | (simp only [keeps_mk]; with_reducible apply KeptParts.of)

theorem rebuildEnd_keeps {a : State} (s : State) (j : Nat) (h : Keeps a s) : Keeps a (rebuildEnd s j) := by
  unfold rebuildEnd
  try dsimp only
  repeat' first
    | with_reducible assumption
    | with_reducible apply dropMeta_keeps
    | with_reducible apply State_evt_keeps
    | with_reducible apply State_modJob_keeps
    | with_reducible apply initRegion_keeps
    | with_reducible refine Keeps.pair (by with_reducible assumption) ?_
    | with_reducible apply Keeps.ite
    | with_reducible apply Keeps.iteP
    | with_reducible apply Keeps.foldl
    | with_reducible apply Keeps.foldlP
    | intro _
    | split
    | (simp only [keeps_mk]; with_reducible apply KeptParts.of)

theorem jobCalends_keeps {a : State} (s : State) (j : Nat) (h : Keeps a s) : Keeps a (jobCalends s j) := by
  unfold jobCalends
  try dsimp only
  repeat' first
    | with_reducible assumption
    | with_reducible apply State_evt_keeps
    | with_reducible apply State_modJob_keeps
    | with_reducible apply State_modRegion_keeps
    | with_reducible apply rebuildEnd_keeps
    | with_reducible refine Keeps.pair (by with_reducible assumption) ?_
    | with_reducible apply Keeps.ite
    | with_reducible apply Keeps.iteP
    | with_reducible apply Keeps.foldl
    | with_reducible apply Keeps.foldlP
    | intro _
    | split
    | (simp only [keeps_mk]; with_reducible apply KeptParts.of)

theorem commitJob_keeps {a : State} (s : State) (c : Nat × Job) (h : Keeps a s) : Keeps a (commitJob s c) := by
  unfold commitJob
  try dsimp only
  repeat' first
    | with_reducible assumption
    | with_reducible apply State_evt_keeps
    | with_reducible apply State_modJob_keeps
    | with_reducible apply State_modRegion_keeps
    | with_reducible refine Keeps.pair (by with_reducible assumption) ?_
    | with_reducible apply Keeps.ite
    | with_reducible apply Keeps.iteP
    | with_reducible apply Keeps.foldl
    | with_reducible apply Keeps.foldlP
    | intro _
    | split
    | (simp only [keeps_mk]; with_reducible apply KeptParts.of)

theorem commitEquinox_keeps {a : State} (s : State) (h : Keeps a s) : Keeps a (commitEquinox s) := by
  unfold commitEquinox
  try dsimp only
  repeat' first
    | with_reducible assumption
    | with_reducible apply settleAll_keeps
    | with_reducible apply jobCalends_keeps
    | with_reducible apply commitJob_keeps
    | with_reducible refine Keeps.pair (by with_reducible assumption) ?_
    | with_reducible apply Keeps.ite
    | with_reducible apply Keeps.iteP
    | with_reducible apply Keeps.foldl
    | with_reducible apply Keeps.foldlP
    | intro _
    | split
    | (simp only [keeps_mk]; with_reducible apply KeptParts.of)

theorem setQuotas_keeps {a : State} (s : State) (h : Keeps a s) : Keeps a (setQuotas s) := by
  unfold setQuotas
  try dsimp only
  repeat' first
    | with_reducible assumption
    | with_reducible apply State_modJob_keeps
    | with_reducible refine Keeps.pair (by with_reducible assumption) ?_
    | with_reducible apply Keeps.ite
    | with_reducible apply Keeps.iteP
    | with_reducible apply Keeps.foldl
    | with_reducible apply Keeps.foldlP
    | intro _

theorem jobKeys_keeps {a : State} (s : State) (ch : Nat) (kid : Nat) (mode : Nat) (d : KeyRef) (t_ : KeyRef)
    (h : Keeps a s) : Keeps a (jobKeys s ch kid mode d t_).1 := by
  unfold jobKeys
  try dsimp only
  repeat' first
    | with_reducible assumption
    | with_reducible apply memKey_keeps
    | with_reducible apply keyFailed_keeps
    | with_reducible refine Keeps.pair (by with_reducible assumption) ?_
    | with_reducible apply Keeps.ite
    | with_reducible apply Keeps.iteP
    | with_reducible apply Keeps.foldl
    | with_reducible apply Keeps.foldlP
    | intro _
    | split

theorem unitDone_keeps {a : State} (s : State) (j : Nat) (u : Nat) (h : Keeps a s) : Keeps a (unitDone s j u) := by
  unfold unitDone
  try dsimp only
  repeat' first
    | with_reducible assumption
    | with_reducible apply State_modJob_keeps

theorem convertLine_keeps {a : State} (old : Txn) (new : Txn) (mj : Nat) (a_ : Nat) (b : Bytes) (p : State × Bytes)
    (i : Nat) (h : Keeps a p.1) : Keeps a (convertLine old new mj a_ b p i).1 := by
  unfold convertLine
  try dsimp only
  repeat' first
    | with_reducible assumption
    | with_reducible apply tagFailed_keeps
    | with_reducible apply dramPut_keeps
    | with_reducible refine Keeps.pair (by with_reducible assumption) ?_
    | with_reducible apply Keeps.ite
    | with_reducible apply Keeps.iteP
    | with_reducible apply Keeps.foldl
    | with_reducible apply Keeps.foldlP
    | intro _

theorem convertWith_keeps {a : State} (s : State) (j : Nat) (u : Nat) (old : Txn) (new : Txn) (h : Keeps a s)
    : Keeps a (convertWith s j u old new) := by
  unfold convertWith
  try dsimp only
  repeat' first
    | with_reducible assumption
    | with_reducible apply loadTag_keeps
    | with_reducible apply State_modJob_keeps
    | with_reducible apply tagFailed_keeps
    | with_reducible apply unitDone_keeps
    | with_reducible apply convertLine_keeps
    | with_reducible apply storeTag_keeps
    | with_reducible refine Keeps.pair (by with_reducible assumption) ?_
    | with_reducible apply Keeps.ite
    | with_reducible apply Keeps.iteP
    | with_reducible apply Keeps.foldl
    | with_reducible apply Keeps.foldlP
    | intro _
    | split

theorem convertGroup_keeps {a : State} (s : State) (j : Nat) (h : Keeps a s) : Keeps a (convertGroup s j) := by
  unfold convertGroup
  try dsimp only
  repeat' first
    | with_reducible assumption
    | with_reducible apply State_modJob_keeps
    | with_reducible apply jobKeys_keeps
    | with_reducible apply convertWith_keeps
    | with_reducible apply memKey_keeps
    | with_reducible refine Keeps.pair (by with_reducible assumption) ?_
    | with_reducible apply Keeps.ite
    | with_reducible apply Keeps.iteP
    | with_reducible apply Keeps.foldl
    | with_reducible apply Keeps.foldlP
    | intro _
    | split

theorem rebuildWrite_keeps {a : State} (s : State) (j : Nat) (h : Keeps a s) : Keeps a (rebuildWrite s j) := by
  unfold rebuildWrite
  try dsimp only
  repeat' first
    | with_reducible assumption
    | with_reducible apply dramPut_keeps
    | with_reducible apply dropMeta_keeps
    | with_reducible apply unitDone_keeps
    | with_reducible refine Keeps.pair (by with_reducible assumption) ?_
    | with_reducible apply Keeps.ite
    | with_reducible apply Keeps.iteP
    | with_reducible apply Keeps.foldl
    | with_reducible apply Keeps.foldlP
    | intro _
    | split

end Sys2Proof.Machine
end

