-- ==== Sys2Proof/Laws/KeepsLink.lean ====
section
/-! SUPPORT. Every operation of Machine/Link.lean keeps the queue, the canonical form of DRAM and what is burned. -/

namespace Sys2Proof.Machine

theorem linkCmd_keeps {a : State} (s : State) (p : Nat) (val : Nat) (h : Keeps a s) : Keeps a (linkCmd s p val) := by
  unfold linkCmd
  try dsimp only
  repeat' first
    | with_reducible assumption
    | with_reducible apply State_modPath_keeps
    | with_reducible refine Keeps.pair (by with_reducible assumption) ?_
    | with_reducible apply Keeps.ite
    | with_reducible apply Keeps.iteP
    | with_reducible apply Keeps.foldl
    | with_reducible apply Keeps.foldlP
    | intro _

theorem takeHeld_keeps {a : State} (s : State) (x : Nat) (h : Keeps a s) : Keeps a (takeHeld s x) := by
  unfold takeHeld
  try dsimp only
  repeat' first
    | with_reducible assumption
    | with_reducible apply State_modPath_keeps
    | with_reducible apply State_putSt_keeps
    | with_reducible refine Keeps.pair (by with_reducible assumption) ?_
    | with_reducible apply Keeps.ite
    | with_reducible apply Keeps.iteP
    | with_reducible apply Keeps.foldl
    | with_reducible apply Keeps.foldlP
    | intro _

theorem linkEvent_keeps {a : State} (s : State) (p : Nat) (tx : Bool) (code : Nat) (status : Nat) (key : Nat)
    (result : Bytes) (h : Keeps a s) : Keeps a (linkEvent s p tx code status key result) := by
  unfold linkEvent
  try dsimp only
  repeat' first
    | with_reducible assumption
    | with_reducible apply raiseOnce_keeps
    | with_reducible refine Keeps.pair (by with_reducible assumption) ?_
    | with_reducible apply Keeps.ite
    | with_reducible apply Keeps.iteP
    | with_reducible apply Keeps.foldl
    | with_reducible apply Keeps.foldlP
    | intro _
    | split

theorem saEvent_keeps {a : State} (s : State) (p : Nat) (tx : Bool) (e_ : Nat) (code : Nat) (status : Nat) (flag : Nat)
    (h : Keeps a s) : Keeps a (saEvent s p tx e_ code status flag) := by
  unfold saEvent
  try dsimp only
  repeat' first
    | with_reducible assumption
    | with_reducible apply State_evt_keeps
    | with_reducible apply linkEvent_keeps

theorem drainTx_keeps {a : State} (s : State) (q_ : Nat) (h : Keeps a s) : Keeps a (drainTx s q_) := by
  unfold drainTx
  try dsimp only
  repeat' first
    | with_reducible assumption
    | with_reducible apply State_emit_keeps
    | with_reducible apply State_modPath_keeps
    | with_reducible refine Keeps.pair (by with_reducible assumption) ?_
    | with_reducible apply Keeps.ite
    | with_reducible apply Keeps.iteP
    | with_reducible apply Keeps.foldl
    | with_reducible apply Keeps.foldlP
    | intro _

theorem offerTx_keeps {a : State} (s : State) (q_ : Nat) (x : Nat) (f : Bytes) (h : Keeps a s) : Keeps a (offerTx s q_ x f) := by
  unfold offerTx
  try dsimp only
  repeat' first
    | with_reducible assumption
    | with_reducible apply drainTx_keeps
    | with_reducible apply State_modPath_keeps

theorem secureOn_keeps {a : State} (s : State) (x : Nat) (q_ : Nat) (n : Nat) (f : Bytes) (h : Keeps a s)
    : Keeps a (secureOn s x q_ n f) := by
  unfold secureOn
  try dsimp only
  repeat' first
    | with_reducible assumption
    | with_reducible apply State_inc_keeps
    | with_reducible apply State_modSae_keeps
    | with_reducible apply saEvent_keeps
    | with_reducible apply State_putSt_keeps
    | with_reducible apply offerTx_keeps
    | with_reducible refine Keeps.pair (by with_reducible assumption) ?_
    | with_reducible apply Keeps.ite
    | with_reducible apply Keeps.iteP
    | with_reducible apply Keeps.foldl
    | with_reducible apply Keeps.foldlP
    | intro _
    | split

theorem sendOn_keeps {a : State} (s : State) (x : Nat) (q_ : Nat) (f : Bytes) (h : Keeps a s) : Keeps a (sendOn s x q_ f) := by
  unfold sendOn
  try dsimp only
  repeat' first
    | with_reducible assumption
    | with_reducible apply State_inc_keeps
    | with_reducible apply secureOn_keeps
    | with_reducible refine Keeps.pair (by with_reducible assumption) ?_
    | with_reducible apply Keeps.ite
    | with_reducible apply Keeps.iteP
    | with_reducible apply Keeps.foldl
    | with_reducible apply Keeps.foldlP
    | intro _
    | split

theorem feed_keeps {a : State} (s : State) (q_ : Nat) (h : Keeps a s) : Keeps a (feed s q_) := by
  unfold feed
  try dsimp only
  repeat' first
    | with_reducible assumption
    | with_reducible apply takeHeld_keeps
    | with_reducible apply sendOn_keeps
    | with_reducible refine Keeps.pair (by with_reducible assumption) ?_
    | with_reducible apply Keeps.ite
    | with_reducible apply Keeps.iteP
    | with_reducible apply Keeps.foldl
    | with_reducible apply Keeps.foldlP
    | intro _

theorem pump_keeps {a : State} (s : State) (x : Nat) (h : Keeps a s) : Keeps a (pump s x) := by
  unfold pump
  try dsimp only
  repeat' first
    | with_reducible assumption
    | with_reducible apply feed_keeps
    | with_reducible refine Keeps.pair (by with_reducible assumption) ?_
    | with_reducible apply Keeps.ite
    | with_reducible apply Keeps.iteP
    | with_reducible apply Keeps.foldl
    | with_reducible apply Keeps.foldlP
    | intro _
    | split

theorem holdRxFrame_keeps {a : State} (s : State) (p : Nat) (f : Bytes) (err : Bool) (h : Keeps a s)
    : Keeps a (holdRxFrame s p f err) := by
  unfold holdRxFrame
  try dsimp only
  repeat' first
    | with_reducible assumption
    | with_reducible apply State_modPath_keeps
    | with_reducible apply State_evt_keeps
    | with_reducible apply State_inc_keeps
    | with_reducible refine Keeps.pair (by with_reducible assumption) ?_
    | with_reducible apply Keeps.ite
    | with_reducible apply Keeps.iteP
    | with_reducible apply Keeps.foldl
    | with_reducible apply Keeps.foldlP
    | intro _

theorem deliverRx_keeps {a : State} (s : State) (p : Nat) (g : Bytes) (heartbeat : Bool) (h : Keeps a s)
    : Keeps a (deliverRx s p g heartbeat) := by
  unfold deliverRx
  try dsimp only
  repeat' first
    | with_reducible assumption
    | with_reducible apply State_emit_keeps
    | with_reducible refine Keeps.pair (by with_reducible assumption) ?_
    | with_reducible apply Keeps.ite
    | with_reducible apply Keeps.iteP
    | with_reducible apply Keeps.foldl
    | with_reducible apply Keeps.foldlP
    | intro _

theorem macsecRx_keeps {a : State} (s : State) (p : Nat) (f : Bytes) (h : Keeps a s) : Keeps a (macsecRx s p f) := by
  unfold macsecRx
  try dsimp only
  repeat' first
    | with_reducible assumption
    | with_reducible apply State_inc_keeps
    | with_reducible apply deliverRx_keeps
    | with_reducible apply State_modSae_keeps
    | with_reducible apply State_putSt_keeps
    | with_reducible apply State_modPath_keeps
    | with_reducible refine Keeps.pair (by with_reducible assumption) ?_
    | with_reducible apply Keeps.ite
    | with_reducible apply Keeps.iteP
    | with_reducible apply Keeps.foldl
    | with_reducible apply Keeps.foldlP
    | intro _
    | split

theorem lineRx_keeps {a : State} (s : State) (p : Nat) (f : Bytes) (err : Bool) (h : Keeps a s) : Keeps a (lineRx s p f err) := by
  unfold lineRx
  try dsimp only
  repeat' first
    | with_reducible assumption
    | with_reducible apply State_inc_keeps
    | with_reducible apply holdRxFrame_keeps
    | with_reducible apply State_emit_keeps
    | with_reducible apply macsecRx_keeps
    | with_reducible refine Keeps.pair (by with_reducible assumption) ?_
    | with_reducible apply Keeps.ite
    | with_reducible apply Keeps.iteP
    | with_reducible apply Keeps.foldl
    | with_reducible apply Keeps.foldlP
    | intro _

theorem endTakeover_keeps {a : State} (s : State) (p : Nat) (h : Keeps a s) : Keeps a (endTakeover s p) := by
  unfold endTakeover
  try dsimp only
  repeat' first
    | with_reducible assumption
    | with_reducible apply State_modPath_keeps
    | with_reducible apply pump_keeps
    | with_reducible apply lineRx_keeps
    | with_reducible refine Keeps.pair (by with_reducible assumption) ?_
    | with_reducible apply Keeps.ite
    | with_reducible apply Keeps.iteP
    | with_reducible apply Keeps.foldl
    | with_reducible apply Keeps.foldlP
    | intro _

theorem endTakeovers_keeps {a : State} (s : State) (h : Keeps a s) : Keeps a (endTakeovers s) := by
  unfold endTakeovers
  try dsimp only
  repeat' first
    | with_reducible assumption
    | with_reducible apply endTakeover_keeps

theorem holdFrame_keeps {a : State} (s : State) (x : Nat) (f : Bytes) (h : Keeps a s) : Keeps a (holdFrame s x f) := by
  unfold holdFrame
  try dsimp only
  repeat' first
    | with_reducible assumption
    | with_reducible apply State_modPath_keeps
    | with_reducible apply State_evt_keeps
    | with_reducible apply State_inc_keeps
    | with_reducible refine Keeps.pair (by with_reducible assumption) ?_
    | with_reducible apply Keeps.ite
    | with_reducible apply Keeps.iteP
    | with_reducible apply Keeps.foldl
    | with_reducible apply Keeps.foldlP
    | intro _

theorem clientTx_keeps {a : State} (s : State) (p : Nat) (f : Bytes) (h : Keeps a s) : Keeps a (clientTx s p f) := by
  unfold clientTx
  try dsimp only
  repeat' first
    | with_reducible assumption
    | with_reducible apply State_inc_keeps
    | with_reducible apply offerTx_keeps
    | with_reducible apply sendOn_keeps
    | with_reducible apply pump_keeps
    | with_reducible apply holdFrame_keeps
    | with_reducible refine Keeps.pair (by with_reducible assumption) ?_
    | with_reducible apply Keeps.ite
    | with_reducible apply Keeps.iteP
    | with_reducible apply Keeps.foldl
    | with_reducible apply Keeps.foldlP
    | intro _

theorem heartbeatSend_keeps {a : State} (s : State) (p : Fin 2) (h : Keeps a s) : Keeps a (heartbeatSend s p) := by
  unfold heartbeatSend
  try dsimp only
  repeat' first
    | with_reducible assumption
    | with_reducible apply secureOn_keeps
    | with_reducible apply State_modPath_keeps
    | with_reducible refine Keeps.pair (by with_reducible assumption) ?_
    | with_reducible apply Keeps.ite
    | with_reducible apply Keeps.iteP
    | with_reducible apply Keeps.foldl
    | with_reducible apply Keeps.foldlP
    | intro _
    | split
    | (simp only [keeps_mk]; with_reducible apply KeptParts.of)

theorem linkZero_keeps {a : State} (s : State) (h : Keeps a s) : Keeps a (linkZero s) := by
  unfold linkZero
  try dsimp only
  repeat' first
    | with_reducible assumption
    | with_reducible apply State_modPath_keeps
    | with_reducible refine Keeps.pair (by with_reducible assumption) ?_
    | with_reducible apply Keeps.ite
    | with_reducible apply Keeps.iteP
    | with_reducible apply Keeps.foldl
    | with_reducible apply Keeps.foldlP
    | intro _

theorem notGood_keeps {a : State} (s : State) (p : Nat) (h : Keeps a s) : Keeps a (notGood s p) := by
  unfold notGood
  try dsimp only
  repeat' first
    | with_reducible assumption
    | with_reducible apply State_modPath_keeps

theorem toDown_keeps {a : State} (s : State) (p : Nat) (h : Keeps a s) : Keeps a (toDown s p) := by
  unfold toDown
  try dsimp only
  repeat' first
    | with_reducible assumption
    | with_reducible apply State_modPath_keeps

theorem pathEvent_keeps {a : State} (s : State) (p : Nat) (code : Nat) (flag : Nat) (h : Keeps a s)
    : Keeps a (pathEvent s p code flag) := by
  unfold pathEvent
  try dsimp only
  repeat' first
    | with_reducible assumption
    | with_reducible apply State_evt_keeps
    | with_reducible apply linkEvent_keeps

theorem failPath_keeps {a : State} (s : State) (p : Nat) (h : Keeps a s) : Keeps a (failPath s p) := by
  unfold failPath
  try dsimp only
  repeat' first
    | with_reducible assumption
    | with_reducible apply State_inc_keeps
    | with_reducible apply notGood_keeps
    | with_reducible apply toDown_keeps
    | with_reducible apply State_modPath_keeps
    | with_reducible apply State_logPut_keeps
    | with_reducible apply pathEvent_keeps
    | with_reducible refine Keeps.pair (by with_reducible assumption) ?_
    | with_reducible apply Keeps.ite
    | with_reducible apply Keeps.iteP
    | with_reducible apply Keeps.foldl
    | with_reducible apply Keeps.foldlP
    | intro _

theorem linkTick_keeps {a : State} (s : State) (h : Keeps a s) : Keeps a (linkTick s) := by
  unfold linkTick
  try dsimp only
  repeat' first
    | with_reducible assumption
    | with_reducible apply failPath_keeps
    | with_reducible apply notGood_keeps
    | with_reducible apply State_modPath_keeps
    | with_reducible refine Keeps.pair (by with_reducible assumption) ?_
    | with_reducible apply Keeps.ite
    | with_reducible apply Keeps.iteP
    | with_reducible apply Keeps.foldl
    | with_reducible apply Keeps.foldlP
    | intro _

theorem atPort_keeps {a : State} (s : State) (c : Instr) (f : State → State) (h : Keeps a s) (hf_f : ∀
    (t : State), Keeps a t → Keeps a (f t)) : Keeps a (atPort s c f) := by
  unfold atPort
  try dsimp only
  repeat' first
    | with_reducible assumption
    | apply hf_f
    | with_reducible refine Keeps.pair (by with_reducible assumption) ?_
    | with_reducible apply Keeps.ite
    | with_reducible apply Keeps.iteP
    | with_reducible apply Keeps.foldl
    | with_reducible apply Keeps.foldlP
    | intro _
    | split
    | (simp only [keeps_mk]; with_reducible apply KeptParts.of)

theorem becomeUp_keeps {a : State} (s : State) (p : Nat) (h : Keeps a s) : Keeps a (becomeUp s p) := by
  unfold becomeUp
  try dsimp only
  repeat' first
    | with_reducible assumption
    | with_reducible apply State_modPath_keeps
    | with_reducible apply pathEvent_keeps
    | with_reducible apply pump_keeps
    | with_reducible apply toDown_keeps
    | with_reducible apply failPath_keeps
    | with_reducible refine Keeps.pair (by with_reducible assumption) ?_
    | with_reducible apply Keeps.ite
    | with_reducible apply Keeps.iteP
    | with_reducible apply Keeps.foldl
    | with_reducible apply Keeps.foldlP
    | intro _

theorem linkHbRestart_keeps {a : State} (s : State) (p : Nat) (h : Keeps a s) : Keeps a (linkHbRestart s p) := by
  unfold linkHbRestart
  try dsimp only
  repeat' first
    | with_reducible assumption
    | with_reducible apply State_modPath_keeps

theorem linkRoles_keeps {a : State} (s : State) (h : Keeps a s) : Keeps a (linkRoles s) := by
  unfold linkRoles
  try dsimp only
  repeat' first
    | with_reducible assumption
    | with_reducible apply State_modPath_keeps
    | with_reducible apply State_incBy_keeps
    | with_reducible refine Keeps.pair (by with_reducible assumption) ?_
    | with_reducible apply Keeps.ite
    | with_reducible apply Keeps.iteP
    | with_reducible apply Keeps.foldl
    | with_reducible apply Keeps.foldlP
    | intro _

theorem stageLink_keeps {a : State} (s : State) (k : Nat) (i : Nat) (op : Nat) (h : Keeps a s) : Keeps a (stageLink s k i op) := by
  unfold stageLink
  try dsimp only
  repeat' first
    | with_reducible assumption
    | with_reducible apply withItem_keeps
    | with_reducible apply modItem_keeps
    | with_reducible refine Keeps.pair (by with_reducible assumption) ?_
    | with_reducible apply Keeps.ite
    | with_reducible apply Keeps.iteP
    | with_reducible apply Keeps.foldl
    | with_reducible apply Keeps.foldlP
    | intro _
    | split
    | (simp only [keeps_mk]; with_reducible apply KeptParts.of)

theorem killEntry_keeps {a : State} (s : State) (p : Nat) (tx : Bool) (e_ : Nat) (status : Nat) (h : Keeps a s)
    : Keeps a (killEntry s p tx e_ status) := by
  unfold killEntry
  try dsimp only
  repeat' first
    | with_reducible assumption
    | with_reducible apply saEvent_keeps
    | with_reducible apply State_modSae_keeps

theorem takeoverSas_keeps {a : State} (s : State) (p : Nat) (tx : Bool) (n : Nat) (h : Keeps a s)
    : Keeps a (takeoverSas s p tx n) := by
  unfold takeoverSas
  try dsimp only
  repeat' first
    | with_reducible assumption
    | with_reducible apply killEntry_keeps
    | with_reducible refine Keeps.pair (by with_reducible assumption) ?_
    | with_reducible apply Keeps.ite
    | with_reducible apply Keeps.iteP
    | with_reducible apply Keeps.foldl
    | with_reducible apply Keeps.foldlP
    | intro _

theorem linkFence_keeps {a : State} (s : State) (p : Nat) (tx : Bool) (spare : Option Nat) (h : Keeps a s)
    : Keeps a (linkFence s p tx spare) := by
  unfold linkFence
  try dsimp only
  repeat' first
    | with_reducible assumption
    | with_reducible apply State_modPath_keeps
    | with_reducible apply State_incBy_keeps
    | with_reducible apply takeoverSas_keeps
    | with_reducible apply failPath_keeps
    | with_reducible apply notGood_keeps
    | with_reducible refine Keeps.pair (by with_reducible assumption) ?_
    | with_reducible apply Keeps.ite
    | with_reducible apply Keeps.iteP
    | with_reducible apply Keeps.foldl
    | with_reducible apply Keeps.foldlP
    | intro _
    | split

theorem linkReturn_keeps {a : State} (s : State) (p : Nat) (h : Keeps a s) : Keeps a (linkReturn s p) := by
  unfold linkReturn
  try dsimp only
  repeat' first
    | with_reducible assumption
    | with_reducible apply State_modPath_keeps
    | with_reducible apply becomeUp_keeps
    | with_reducible refine Keeps.pair (by with_reducible assumption) ?_
    | with_reducible apply Keeps.ite
    | with_reducible apply Keeps.iteP
    | with_reducible apply Keeps.foldl
    | with_reducible apply Keeps.foldlP
    | intro _

theorem retireEntry_keeps {a : State} (s : State) (p : Nat) (tx : Bool) (e_ : Nat) (h : Keeps a s)
    : Keeps a (retireEntry s p tx e_) := by
  unfold retireEntry
  try dsimp only
  repeat' first
    | with_reducible assumption
    | with_reducible apply State_modSecy_keeps
    | with_reducible apply State_modRxsc_keeps
    | with_reducible apply State_modSae_keeps
    | with_reducible refine Keeps.pair (by with_reducible assumption) ?_
    | with_reducible apply Keeps.ite
    | with_reducible apply Keeps.iteP
    | with_reducible apply Keeps.foldl
    | with_reducible apply Keeps.foldlP
    | intro _
    | split

theorem retireSc_keeps {a : State} (s : State) (p : Nat) (tx : Bool) (ans : List (Option Nat)) (h : Keeps a s)
    : Keeps a (retireSc s p tx ans) := by
  unfold retireSc
  try dsimp only
  repeat' first
    | with_reducible assumption
    | with_reducible apply retireEntry_keeps
    | with_reducible refine Keeps.pair (by with_reducible assumption) ?_
    | with_reducible apply Keeps.ite
    | with_reducible apply Keeps.iteP
    | with_reducible apply Keeps.foldl
    | with_reducible apply Keeps.foldlP
    | intro _
    | split

theorem commitTxsc_keeps {a : State} (s : State) (p : Nat) (d : Bytes) (h : Keeps a s) : Keeps a (commitTxsc s p d).1 := by
  unfold commitTxsc
  try dsimp only
  repeat' first
    | with_reducible assumption
    | with_reducible apply retireSc_keeps
    | with_reducible apply State_modSecy_keeps
    | with_reducible refine Keeps.pair (by with_reducible assumption) ?_
    | with_reducible apply Keeps.ite
    | with_reducible apply Keeps.iteP
    | with_reducible apply Keeps.foldl
    | with_reducible apply Keeps.foldlP
    | intro _

theorem commitRxsc_keeps {a : State} (s : State) (p : Nat) (d : Bytes) (h : Keeps a s) : Keeps a (commitRxsc s p d).1 := by
  unfold commitRxsc
  try dsimp only
  repeat' first
    | with_reducible assumption
    | with_reducible apply retireSc_keeps
    | with_reducible apply State_modRxsc_keeps
    | with_reducible refine Keeps.pair (by with_reducible assumption) ?_
    | with_reducible apply Keeps.ite
    | with_reducible apply Keeps.iteP
    | with_reducible apply Keeps.foldl
    | with_reducible apply Keeps.foldlP
    | intro _

theorem commitInstall_keeps {a : State} (s : State) (p : Nat) (tx : Bool) (r : KeyRef) (d : Bytes) (h : Keeps a s)
    : Keeps a (commitInstall s p tx r d).1 := by
  unfold commitInstall
  try dsimp only
  repeat' first
    | with_reducible assumption
    | with_reducible apply State_drew_keeps
    | with_reducible apply State_modSae_keeps
    | with_reducible refine Keeps.pair (by with_reducible assumption) ?_
    | with_reducible apply Keeps.ite
    | with_reducible apply Keeps.iteP
    | with_reducible apply Keeps.foldl
    | with_reducible apply Keeps.foldlP
    | intro _

theorem commitActivate_keeps {a : State} (s : State) (p : Nat) (tx : Bool) (d : Bytes) (h : Keeps a s)
    : Keeps a (commitActivate s p tx d).1 := by
  unfold commitActivate
  try dsimp only
  repeat' first
    | with_reducible assumption
    | with_reducible apply State_modSae_keeps
    | with_reducible apply State_modSecy_keeps
    | with_reducible apply State_modRxsc_keeps
    | with_reducible refine Keeps.pair (by with_reducible assumption) ?_
    | with_reducible apply Keeps.ite
    | with_reducible apply Keeps.iteP
    | with_reducible apply Keeps.foldl
    | with_reducible apply Keeps.foldlP
    | intro _
    | split

theorem commitLinkOne_keeps {a : State} (s : State) (c : LinkChange) (r : KeyRef) (d : Bytes) (h : Keeps a s)
    : Keeps a (commitLinkOne s c r d).1 := by
  unfold commitLinkOne
  try dsimp only
  repeat' first
    | with_reducible assumption
    | with_reducible apply commitTxsc_keeps
    | with_reducible apply commitRxsc_keeps
    | with_reducible apply commitInstall_keeps
    | with_reducible apply commitActivate_keeps
    | with_reducible apply retireEntry_keeps
    | with_reducible apply State_modSae_keeps
    | with_reducible refine Keeps.pair (by with_reducible assumption) ?_
    | with_reducible apply Keeps.ite
    | with_reducible apply Keeps.iteP
    | with_reducible apply Keeps.foldl
    | with_reducible apply Keeps.foldlP
    | intro _
    | split

theorem commitLinkPath_keeps {a : State} (s : State) (p : Nat) (h : Keeps a s) : Keeps a (commitLinkPath s p) := by
  unfold commitLinkPath
  try dsimp only
  repeat' first
    | with_reducible assumption
    | with_reducible apply commitLinkOne_keeps
    | with_reducible apply finish_keeps
    | with_reducible refine Keeps.pair (by with_reducible assumption) ?_
    | with_reducible apply Keeps.ite
    | with_reducible apply Keeps.iteP
    | with_reducible apply Keeps.foldl
    | with_reducible apply Keeps.foldlP
    | intro _
    | split

theorem commitLink_keeps {a : State} (s : State) (h : Keeps a s) : Keeps a (commitLink s) := by
  unfold commitLink
  try dsimp only
  repeat' first
    | with_reducible assumption
    | with_reducible apply linkReturn_keeps
    | with_reducible apply commitLinkPath_keeps
    | with_reducible refine Keeps.pair (by with_reducible assumption) ?_
    | with_reducible apply Keeps.ite
    | with_reducible apply Keeps.iteP
    | with_reducible apply Keeps.foldl
    | with_reducible apply Keeps.foldlP
    | intro _
    | split
    | (simp only [keeps_mk]; with_reducible apply KeptParts.of)

theorem saReadItem_keeps {a : State} (s : State) (k : Nat) (i : Nat) (h : Keeps a s) : Keeps a (saReadItem s k i) := by
  unfold saReadItem
  try dsimp only
  repeat' first
    | with_reducible assumption
    | with_reducible apply withItem_keeps
    | with_reducible apply finish_keeps
    | with_reducible refine Keeps.pair (by with_reducible assumption) ?_
    | with_reducible apply Keeps.ite
    | with_reducible apply Keeps.iteP
    | with_reducible apply Keeps.foldl
    | with_reducible apply Keeps.foldlP
    | intro _
    | split

theorem overlapEnd_keeps {a : State} (s : State) (p : Nat) (h : Keeps a s) : Keeps a (overlapEnd s p) := by
  unfold overlapEnd
  try dsimp only
  repeat' first
    | with_reducible assumption
    | with_reducible apply retireEntry_keeps
    | with_reducible refine Keeps.pair (by with_reducible assumption) ?_
    | with_reducible apply Keeps.ite
    | with_reducible apply Keeps.iteP
    | with_reducible apply Keeps.foldl
    | with_reducible apply Keeps.foldlP
    | intro _
    | split

theorem revalOne_keeps {a : State} (p : Nat) (tx : Bool) (s : State) (e_ : Nat) (h : Keeps a s)
    : Keeps a (revalOne p tx s e_) := by
  unfold revalOne
  try dsimp only
  repeat' first
    | with_reducible assumption
    | with_reducible apply State_modSae_keeps
    | with_reducible apply killEntry_keeps
    | with_reducible apply State_inc_keeps
    | with_reducible refine Keeps.pair (by with_reducible assumption) ?_
    | with_reducible apply Keeps.ite
    | with_reducible apply Keeps.iteP
    | with_reducible apply Keeps.foldl
    | with_reducible apply Keeps.foldlP
    | intro _

theorem revalidate_keeps {a : State} (s : State) (p : Nat) (h : Keeps a s) : Keeps a (revalidate s p) := by
  unfold revalidate
  try dsimp only
  repeat' first
    | with_reducible assumption
    | with_reducible apply revalOne_keeps
    | with_reducible refine Keeps.pair (by with_reducible assumption) ?_
    | with_reducible apply Keeps.ite
    | with_reducible apply Keeps.iteP
    | with_reducible apply Keeps.foldl
    | with_reducible apply Keeps.foldlP
    | intro _

theorem heartbeatEnd_keeps {a : State} (s : State) (p : Nat) (h : Keeps a s) : Keeps a (heartbeatEnd s p) := by
  unfold heartbeatEnd
  try dsimp only
  repeat' first
    | with_reducible assumption
    | with_reducible apply State_modPath_keeps
    | with_reducible apply notGood_keeps
    | with_reducible apply failPath_keeps
    | with_reducible refine Keeps.pair (by with_reducible assumption) ?_
    | with_reducible apply Keeps.ite
    | with_reducible apply Keeps.iteP
    | with_reducible apply Keeps.foldl
    | with_reducible apply Keeps.foldlP
    | intro _

theorem phyDown_keeps {a : State} (s : State) (p : Nat) (h : Keeps a s) : Keeps a (phyDown s p) := by
  unfold phyDown
  try dsimp only
  repeat' first
    | with_reducible assumption
    | with_reducible apply State_modPath_keeps
    | with_reducible apply failPath_keeps
    | with_reducible apply notGood_keeps
    | with_reducible refine Keeps.pair (by with_reducible assumption) ?_
    | with_reducible apply Keeps.ite
    | with_reducible apply Keeps.iteP
    | with_reducible apply Keeps.foldl
    | with_reducible apply Keeps.foldlP
    | intro _

theorem phyUp_keeps {a : State} (s : State) (p : Nat) (h : Keeps a s) : Keeps a (phyUp s p) := by
  unfold phyUp
  try dsimp only
  repeat' first
    | with_reducible assumption
    | with_reducible apply State_modPath_keeps

theorem failoverFlush_keeps {a : State} (s : State) (p : Nat) (h : Keeps a s) : Keeps a (failoverFlush s p) := by
  unfold failoverFlush
  try dsimp only
  repeat' first
    | with_reducible assumption
    | with_reducible apply State_incBy_keeps
    | with_reducible apply State_modPath_keeps
    | with_reducible apply pump_keeps
    | with_reducible refine Keeps.pair (by with_reducible assumption) ?_
    | with_reducible apply Keeps.ite
    | with_reducible apply Keeps.iteP
    | with_reducible apply Keeps.foldl
    | with_reducible apply Keeps.foldlP
    | intro _

theorem pathRecovered_keeps {a : State} (s : State) (p : Nat) (h : Keeps a s) : Keeps a (pathRecovered s p) := by
  unfold pathRecovered
  try dsimp only
  repeat' first
    | with_reducible assumption
    | with_reducible apply pathEvent_keeps
    | with_reducible apply State_modPath_keeps
    | with_reducible refine Keeps.pair (by with_reducible assumption) ?_
    | with_reducible apply Keeps.ite
    | with_reducible apply Keeps.iteP
    | with_reducible apply Keeps.foldl
    | with_reducible apply Keeps.foldlP
    | intro _

theorem pathReturn_keeps {a : State} (s : State) (p : Nat) (h : Keeps a s) : Keeps a (pathReturn s p) := by
  unfold pathReturn
  try dsimp only
  repeat' first
    | with_reducible assumption
    | with_reducible apply becomeUp_keeps
    | with_reducible refine Keeps.pair (by with_reducible assumption) ?_
    | with_reducible apply Keeps.ite
    | with_reducible apply Keeps.iteP
    | with_reducible apply Keeps.foldl
    | with_reducible apply Keeps.foldlP
    | intro _

theorem holdFlush_keeps {a : State} (s : State) (p : Nat) (h : Keeps a s) : Keeps a (holdFlush s p) := by
  unfold holdFlush
  try dsimp only
  repeat' first
    | with_reducible assumption
    | with_reducible apply State_modPath_keeps
    | with_reducible apply State_incBy_keeps
    | with_reducible refine Keeps.pair (by with_reducible assumption) ?_
    | with_reducible apply Keeps.ite
    | with_reducible apply Keeps.iteP
    | with_reducible apply Keeps.foldl
    | with_reducible apply Keeps.foldlP
    | intro _

theorem lineReady_keeps {a : State} (s : State) (p : Nat) (ready : Bool) (h : Keeps a s) : Keeps a (lineReady s p ready) := by
  unfold lineReady
  try dsimp only
  repeat' first
    | with_reducible assumption
    | with_reducible apply State_modPath_keeps
    | with_reducible apply pump_keeps
    | with_reducible apply drainTx_keeps
    | with_reducible refine Keeps.pair (by with_reducible assumption) ?_
    | with_reducible apply Keeps.ite
    | with_reducible apply Keeps.iteP
    | with_reducible apply Keeps.foldl
    | with_reducible apply Keeps.foldlP
    | intro _

end Sys2Proof.Machine
end

