-- ==== Sys2Proof/Laws/KeepsBudget.lean ====
section
/-! SUPPORT. Every operation of Machine/Budget.lean keeps the queue, the canonical form of DRAM and what is burned. -/

namespace Sys2Proof.Machine

theorem addCost_keeps {a : State} (s : State) (n : Nat) (core1 : Bool) (c : Cost) (h : Keeps a s)
    : Keeps a (addCost s n core1 c) := by
  unfold addCost
  try dsimp only
  repeat' first
    | with_reducible assumption
    | with_reducible apply State_modChan_keeps

theorem dropCost_keeps {a : State} (s : State) (n : Nat) (core1 : Bool) (c : Cost) (h : Keeps a s)
    : Keeps a (dropCost s n core1 c) := by
  unfold dropCost
  try dsimp only
  repeat' first
    | with_reducible assumption
    | with_reducible apply State_modChan_keeps

end Sys2Proof.Machine
end

