-- ==== Sys2Proof/Laws/KeepsJournal.lean ====
section
/-! SUPPORT. Every operation of Machine/Journal.lean keeps the queue, the canonical form of DRAM and what is burned. -/

namespace Sys2Proof.Machine

theorem State_modJf_keeps {a : State} (s : State) (f : Journal → Journal) (h : Keeps a s) : Keeps a (State.modJf s f) := by
  unfold State.modJf
  try dsimp only
  repeat' first
    | with_reducible assumption
    | with_reducible refine Keeps.pair (by with_reducible assumption) ?_
    | with_reducible apply Keeps.ite
    | with_reducible apply Keeps.iteP
    | with_reducible apply Keeps.foldl
    | with_reducible apply Keeps.foldlP
    | intro _
    | split
    | (simp only [keeps_mk]; with_reducible apply KeptParts.of)

theorem promote_keeps {a : State} (s : State) (h : Keeps a s) : Keeps a (promote s) := by
  unfold promote
  try dsimp only
  repeat' first
    | with_reducible assumption
    | with_reducible apply State_modJf_keeps
    | with_reducible refine Keeps.pair (by with_reducible assumption) ?_
    | with_reducible apply Keeps.ite
    | with_reducible apply Keeps.iteP
    | with_reducible apply Keeps.foldl
    | with_reducible apply Keeps.foldlP
    | intro _
    | split

theorem takeLease_keeps {a : State} (s : State) (n : Nat) (h : Keeps a s) : Keeps a (takeLease s n) := by
  unfold takeLease
  try dsimp only
  repeat' first
    | with_reducible assumption
    | with_reducible apply State_evt_keeps
    | with_reducible apply State_modJf_keeps
    | with_reducible apply promote_keeps
    | with_reducible apply State_jPut_keeps
    | with_reducible refine Keeps.pair (by with_reducible assumption) ?_
    | with_reducible apply Keeps.ite
    | with_reducible apply Keeps.iteP
    | with_reducible apply Keeps.foldl
    | with_reducible apply Keeps.foldlP
    | intro _

theorem requestLease_keeps {a : State} (s : State) (h : Keeps a s) : Keeps a (requestLease s) := by
  unfold requestLease
  try dsimp only
  repeat' first
    | with_reducible assumption
    | with_reducible apply State_evt_keeps
    | with_reducible apply takeLease_keeps
    | with_reducible refine Keeps.pair (by with_reducible assumption) ?_
    | with_reducible apply Keeps.ite
    | with_reducible apply Keeps.iteP
    | with_reducible apply Keeps.foldl
    | with_reducible apply Keeps.foldlP
    | intro _
    | split
    | (simp only [keeps_mk]; with_reducible apply KeptParts.of)

theorem grant_keeps {a : State} (s : State) (page : Option Nat) (h : Keeps a s) : Keeps a (grant s page).1 := by
  unfold grant
  try dsimp only
  repeat' first
    | with_reducible assumption
    | with_reducible apply State_evt_keeps
    | with_reducible apply State_modJf_keeps
    | with_reducible apply requestLease_keeps
    | with_reducible apply promote_keeps
    | with_reducible refine Keeps.pair (by with_reducible assumption) ?_
    | with_reducible apply Keeps.ite
    | with_reducible apply Keeps.iteP
    | with_reducible apply Keeps.foldl
    | with_reducible apply Keeps.foldlP
    | intro _
    | split

theorem markTick_keeps {a : State} (s : State) (h : Keeps a s) : Keeps a (markTick s) := by
  unfold markTick
  try dsimp only
  repeat' first
    | with_reducible assumption
    | with_reducible apply State_jPut_keeps
    | with_reducible apply State_modJf_keeps
    | with_reducible refine Keeps.pair (by with_reducible assumption) ?_
    | with_reducible apply Keeps.ite
    | with_reducible apply Keeps.iteP
    | with_reducible apply Keeps.foldl
    | with_reducible apply Keeps.foldlP
    | intro _

theorem issueErase_keeps {a : State} (s : State) (h : Keeps a s) : Keeps a (issueErase s) := by
  unfold issueErase
  try dsimp only
  repeat' first
    | with_reducible assumption
    | with_reducible refine Keeps.pair (by with_reducible assumption) ?_
    | with_reducible apply Keeps.ite
    | with_reducible apply Keeps.iteP
    | with_reducible apply Keeps.foldl
    | with_reducible apply Keeps.foldlP
    | intro _
    | split
    | (simp only [keeps_mk]; with_reducible apply KeptParts.of)

theorem syncDone_keeps {a : State} (s : State) (h : Keeps a s) : Keeps a (syncDone s) := by
  unfold syncDone
  try dsimp only
  repeat' first
    | with_reducible assumption
    | with_reducible apply State_modJf_keeps
    | with_reducible apply finish_keeps
    | with_reducible refine Keeps.pair (by with_reducible assumption) ?_
    | with_reducible apply Keeps.ite
    | with_reducible apply Keeps.iteP
    | with_reducible apply Keeps.foldl
    | with_reducible apply Keeps.foldlP
    | intro _

theorem pageOk_keeps {a : State} (s : State) (p : PageProg) (h : Keeps a s) : Keeps a (pageOk s p) := by
  unfold pageOk
  try dsimp only
  repeat' first
    | with_reducible assumption
    | with_reducible apply State_inc_keeps
    | with_reducible apply State_modJf_keeps
    | with_reducible apply issueErase_keeps
    | with_reducible apply syncDone_keeps
    | with_reducible apply promote_keeps
    | with_reducible apply recDurable_keeps
    | with_reducible refine Keeps.pair (by with_reducible assumption) ?_
    | with_reducible apply Keeps.ite
    | with_reducible apply Keeps.iteP
    | with_reducible apply Keeps.foldl
    | with_reducible apply Keeps.foldlP
    | intro _
    | split
    | (simp only [keeps_mk]; with_reducible apply KeptParts.of)

theorem copyForward_keeps {a : State} (s : State) (b : Nat) (l : List JRec) (h : Keeps a s) : Keeps a (copyForward s b l) := by
  unfold copyForward
  try dsimp only
  repeat' first
    | with_reducible assumption
    | with_reducible apply State_jPut_keeps
    | with_reducible refine Keeps.pair (by with_reducible assumption) ?_
    | with_reducible apply Keeps.ite
    | with_reducible apply Keeps.iteP
    | with_reducible apply Keeps.foldl
    | with_reducible apply Keeps.foldlP
    | intro _

theorem setJState_keeps {a : State} (s : State) (st : Nat) (h : Keeps a s) : Keeps a (setJState s st) := by
  unfold setJState
  try dsimp only
  repeat' first
    | with_reducible assumption
    | with_reducible apply State_modJf_keeps
    | with_reducible apply State_evt_keeps
    | with_reducible apply State_logPut_keeps
    | with_reducible refine Keeps.pair (by with_reducible assumption) ?_
    | with_reducible apply Keeps.ite
    | with_reducible apply Keeps.iteP
    | with_reducible apply Keeps.foldl
    | with_reducible apply Keeps.foldlP
    | intro _

theorem gradeRing_keeps {a : State} (s : State) (h : Keeps a s) : Keeps a (gradeRing s) := by
  unfold gradeRing
  try dsimp only
  repeat' first
    | with_reducible assumption
    | with_reducible apply setJState_keeps
    | with_reducible refine Keeps.pair (by with_reducible assumption) ?_
    | with_reducible apply Keeps.ite
    | with_reducible apply Keeps.iteP
    | with_reducible apply Keeps.foldl
    | with_reducible apply Keeps.foldlP
    | intro _

theorem setBad_keeps {a : State} (s : State) (b : Nat) (h : Keeps a s) : Keeps a (setBad s b) := by
  unfold setBad
  try dsimp only
  repeat' first
    | with_reducible assumption
    | with_reducible apply State_evt_keeps
    | with_reducible apply State_modJf_keeps
    | with_reducible apply gradeRing_keeps
    | with_reducible apply State_jPut_keeps

theorem pageFail_keeps {a : State} (s : State) (p : PageProg) (h : Keeps a s) : Keeps a (pageFail s p) := by
  unfold pageFail
  try dsimp only
  repeat' first
    | with_reducible assumption
    | with_reducible apply State_modJf_keeps
    | with_reducible apply copyForward_keeps
    | with_reducible apply setBad_keeps

theorem pageDone_keeps {a : State} (s : State) (ok : Bool) (h : Keeps a s) : Keeps a (pageDone s ok) := by
  unfold pageDone
  try dsimp only
  repeat' first
    | with_reducible assumption
    | with_reducible apply pageOk_keeps
    | with_reducible apply pageFail_keeps
    | with_reducible refine Keeps.pair (by with_reducible assumption) ?_
    | with_reducible apply Keeps.ite
    | with_reducible apply Keeps.iteP
    | with_reducible apply Keeps.foldl
    | with_reducible apply Keeps.foldlP
    | intro _
    | split

theorem ringSlot_keeps {a : State} {s : State} {t : State} (e : ringSlot s = some t) (h : Keeps a s) : Keeps a t := by
  unfold ringSlot at e
  repeat' first | (injection e with e; subst e) | contradiction | split at e | (dsimp only at e)
  repeat' first
    | with_reducible assumption
    | with_reducible apply State_modJf_keeps

theorem progRing_keeps {a : State} (s : State) (h : Keeps a s) : Keeps a (progRing s) := by
  unfold progRing
  try dsimp only
  repeat' first
    | with_reducible assumption
    | with_reducible refine ringSlot_keeps (by with_reducible assumption) ?_
    | with_reducible apply State_modJf_keeps
    | with_reducible refine Keeps.pair (by with_reducible assumption) ?_
    | with_reducible apply Keeps.ite
    | with_reducible apply Keeps.iteP
    | with_reducible apply Keeps.foldl
    | with_reducible apply Keeps.foldlP
    | intro _
    | split

theorem snapSlot_keeps {a : State} {s : State} {t : State} (e : snapSlot s = some t) (h : Keeps a s) : Keeps a t := by
  unfold snapSlot at e
  repeat' first | (injection e with e; subst e) | contradiction | split at e | (dsimp only at e)
  repeat' first
    | with_reducible assumption
    | with_reducible apply State_modJf_keeps

theorem progSnap_keeps {a : State} (s : State) (h : Keeps a s) : Keeps a (progSnap s) := by
  unfold progSnap
  try dsimp only
  repeat' first
    | with_reducible assumption
    | with_reducible refine snapSlot_keeps (by with_reducible assumption) ?_
    | with_reducible apply State_evt_keeps
    | with_reducible apply State_modJf_keeps
    | with_reducible refine Keeps.pair (by with_reducible assumption) ?_
    | with_reducible apply Keeps.ite
    | with_reducible apply Keeps.iteP
    | with_reducible apply Keeps.foldl
    | with_reducible apply Keeps.foldlP
    | intro _
    | split

theorem pageProgram_keeps {a : State} (s : State) (h : Keeps a s) : Keeps a (pageProgram s) := by
  unfold pageProgram
  try dsimp only
  repeat' first
    | with_reducible assumption
    | with_reducible apply progRing_keeps
    | with_reducible apply progSnap_keeps
    | with_reducible refine Keeps.pair (by with_reducible assumption) ?_
    | with_reducible apply Keeps.ite
    | with_reducible apply Keeps.iteP
    | with_reducible apply Keeps.foldl
    | with_reducible apply Keeps.foldlP
    | intro _

theorem eraseInside_keeps {a : State} (s : State) (ok : Bool) (h : Keeps a s) : Keeps a (eraseInside s ok) := by
  unfold eraseInside
  try dsimp only
  repeat' first
    | with_reducible assumption
    | with_reducible refine Keeps.pair (by with_reducible assumption) ?_
    | with_reducible apply Keeps.ite
    | with_reducible apply Keeps.iteP
    | with_reducible apply Keeps.foldl
    | with_reducible apply Keeps.foldlP
    | intro _
    | split
    | (simp only [keeps_mk]; with_reducible apply KeptParts.of)

theorem eraseDone_keeps {a : State} (s : State) (ok : Bool) (h : Keeps a s) : Keeps a (eraseDone s ok) := by
  unfold eraseDone
  try dsimp only
  repeat' first
    | with_reducible assumption
    | with_reducible apply eraseInside_keeps
    | with_reducible apply issueErase_keeps
    | with_reducible apply State_modJf_keeps
    | with_reducible apply State_inc_keeps
    | with_reducible apply setBad_keeps
    | with_reducible refine Keeps.pair (by with_reducible assumption) ?_
    | with_reducible apply Keeps.ite
    | with_reducible apply Keeps.iteP
    | with_reducible apply Keeps.foldl
    | with_reducible apply Keeps.foldlP
    | intro _
    | split

theorem keySpan_keeps {a : State} (s : State) (h : Keeps a s) : Keeps a (keySpan s) := by
  unfold keySpan
  try dsimp only
  repeat' first
    | with_reducible assumption
    | with_reducible apply copyForward_keeps
    | with_reducible refine Keeps.pair (by with_reducible assumption) ?_
    | with_reducible apply Keeps.ite
    | with_reducible apply Keeps.iteP
    | with_reducible apply Keeps.foldl
    | with_reducible apply Keeps.foldlP
    | intro _

theorem prepare_keeps {a : State} (s : State) (b : Nat) (h : Keeps a s) : Keeps a (prepare s b) := by
  unfold prepare
  try dsimp only
  repeat' first
    | with_reducible assumption
    | with_reducible apply State_incBy_keeps
    | with_reducible apply issueErase_keeps
    | with_reducible apply copyForward_keeps
    | with_reducible apply State_modJf_keeps

theorem blockRotation_keeps {a : State} (s : State) (h : Keeps a s) : Keeps a (blockRotation s) := by
  unfold blockRotation
  try dsimp only
  repeat' first
    | with_reducible assumption
    | with_reducible apply keySpan_keeps
    | with_reducible apply State_modJf_keeps
    | with_reducible apply prepare_keeps
    | with_reducible refine Keeps.pair (by with_reducible assumption) ?_
    | with_reducible apply Keeps.ite
    | with_reducible apply Keeps.iteP
    | with_reducible apply Keeps.foldl
    | with_reducible apply Keeps.foldlP
    | intro _

theorem writeNow_keeps {a : State} (s : State) (row : Nat) (recs : List JRec) (h : Keeps a s) : Keeps a (writeNow s row recs) := by
  unfold writeNow
  try dsimp only
  repeat' first
    | with_reducible assumption
    | with_reducible apply State_inc_keeps
    | with_reducible apply State_modJf_keeps
    | with_reducible apply promote_keeps
    | with_reducible apply recDurable_keeps
    | with_reducible refine Keeps.pair (by with_reducible assumption) ?_
    | with_reducible apply Keeps.ite
    | with_reducible apply Keeps.iteP
    | with_reducible apply Keeps.foldl
    | with_reducible apply Keeps.foldlP
    | intro _
    | split
    | (simp only [keeps_mk]; with_reducible apply KeptParts.of)

theorem expectLeases_keeps {a : State} (s : State) (n : Nat) (h : Keeps a s) : Keeps a (expectLeases s n) := by
  unfold expectLeases
  try dsimp only
  repeat' first
    | with_reducible assumption
    | with_reducible apply State_modJf_keeps

theorem format_keeps {a : State} (s : State) (img : Nat) (snap : Nat) (floor : Nat) (h : Keeps a s)
    : Keeps a (format s img snap floor) := by
  unfold format
  try dsimp only
  repeat' first
    | with_reducible assumption
    | with_reducible apply State_modJf_keeps
    | with_reducible apply State_incBy_keeps
    | with_reducible apply writeNow_keeps
    | with_reducible apply expectLeases_keeps
    | with_reducible apply State_evt_keeps
    | with_reducible apply gradeRing_keeps
    | with_reducible apply setJState_keeps
    | with_reducible refine Keeps.pair (by with_reducible assumption) ?_
    | with_reducible apply Keeps.ite
    | with_reducible apply Keeps.iteP
    | with_reducible apply Keeps.foldl
    | with_reducible apply Keeps.foldlP
    | intro _
    | split
    | (simp only [keeps_mk]; with_reducible apply KeptParts.of)

theorem jfFormat_keeps {a : State} (rooted : Bool) (s : State) (k : Nat) (i : Nat) (h : Keeps a s)
    : Keeps a (jfFormat rooted s k i) := by
  unfold jfFormat
  try dsimp only
  repeat' first
    | with_reducible assumption
    | with_reducible apply withItem_keeps
    | with_reducible apply finish_keeps
    | with_reducible apply format_keeps
    | with_reducible refine Keeps.pair (by with_reducible assumption) ?_
    | with_reducible apply Keeps.ite
    | with_reducible apply Keeps.iteP
    | with_reducible apply Keeps.foldl
    | with_reducible apply Keeps.foldlP
    | intro _

theorem jfSync_keeps {a : State} (s : State) (k : Nat) (i : Nat) (h : Keeps a s) : Keeps a (jfSync s k i) := by
  unfold jfSync
  try dsimp only
  repeat' first
    | with_reducible assumption
    | with_reducible apply withItem_keeps
    | with_reducible apply finish_keeps
    | with_reducible apply syncDone_keeps
    | with_reducible apply State_modJf_keeps
    | with_reducible refine Keeps.pair (by with_reducible assumption) ?_
    | with_reducible apply Keeps.ite
    | with_reducible apply Keeps.iteP
    | with_reducible apply Keeps.foldl
    | with_reducible apply Keeps.foldlP
    | intro _

theorem jfScrub_keeps {a : State} (s : State) (k : Nat) (i : Nat) (h : Keeps a s) : Keeps a (jfScrub s k i) := by
  unfold jfScrub
  try dsimp only
  repeat' first
    | with_reducible assumption
    | with_reducible apply withItem_keeps
    | with_reducible apply State_modJf_keeps
    | with_reducible apply finish_keeps
    | with_reducible refine Keeps.pair (by with_reducible assumption) ?_
    | with_reducible apply Keeps.ite
    | with_reducible apply Keeps.iteP
    | with_reducible apply Keeps.foldl
    | with_reducible apply Keeps.foldlP
    | intro _

theorem scrubRead_keeps {a : State} (snap : State → Nat → State) (s : State) (ecc : Nat) (h : Keeps a s) (hf_snap : ∀
    (t : State) (y1 : Nat), Keeps a t → Keeps a (snap t y1)) : Keeps a (scrubRead snap s ecc) := by
  unfold scrubRead
  try dsimp only
  repeat' first
    | with_reducible assumption
    | apply hf_snap
    | with_reducible apply State_modJf_keeps
    | with_reducible apply State_evt_keeps
    | with_reducible apply State_inc_keeps
    | with_reducible apply prepare_keeps
    | with_reducible refine Keeps.pair (by with_reducible assumption) ?_
    | with_reducible apply Keeps.ite
    | with_reducible apply Keeps.iteP
    | with_reducible apply Keeps.foldl
    | with_reducible apply Keeps.foldlP
    | intro _
    | split

theorem noAnswer_keeps {a : State} (s : State) (h : Keeps a s) : Keeps a (noAnswer s) := by
  unfold noAnswer
  try dsimp only
  repeat' first
    | with_reducible assumption
    | with_reducible apply setJState_keeps
    | with_reducible apply State_modJf_keeps
    | with_reducible refine Keeps.pair (by with_reducible assumption) ?_
    | with_reducible apply Keeps.ite
    | with_reducible apply Keeps.iteP
    | with_reducible apply Keeps.foldl
    | with_reducible apply Keeps.foldlP
    | intro _

theorem writeRing_keeps {a : State} (s : State) (recs : List JRec) (h : Keeps a s) : Keeps a (writeRing s recs) := by
  unfold writeRing
  try dsimp only
  repeat' first
    | with_reducible assumption
    | with_reducible refine ringSlot_keeps (by with_reducible assumption) ?_
    | with_reducible apply State_modJf_keeps
    | with_reducible apply writeNow_keeps
    | with_reducible refine Keeps.pair (by with_reducible assumption) ?_
    | with_reducible apply Keeps.ite
    | with_reducible apply Keeps.iteP
    | with_reducible apply Keeps.foldl
    | with_reducible apply Keeps.foldlP
    | intro _
    | split

theorem mountErase_keeps {a : State} (s : State) (h : Keeps a s) : Keeps a (mountErase s) := by
  unfold mountErase
  try dsimp only
  repeat' first
    | with_reducible assumption
    | with_reducible apply State_incBy_keeps
    | with_reducible apply State_inc_keeps
    | with_reducible apply State_modJf_keeps
    | with_reducible apply writeRing_keeps
    | with_reducible refine Keeps.pair (by with_reducible assumption) ?_
    | with_reducible apply Keeps.ite
    | with_reducible apply Keeps.iteP
    | with_reducible apply Keeps.foldl
    | with_reducible apply Keeps.foldlP
    | intro _
    | split
    | (simp only [keeps_mk]; with_reducible apply KeptParts.of)

theorem mountRing_keeps {a : State} (s : State) (label : JRec) (unreadable : List Nat) (h : Keeps a s)
    : Keeps a (mountRing s label unreadable) := by
  unfold mountRing
  try dsimp only
  repeat' first
    | with_reducible assumption
    | with_reducible apply State_modJf_keeps
    | with_reducible apply expectLeases_keeps
    | with_reducible apply mountErase_keeps
    | with_reducible apply gradeRing_keeps
    | with_reducible apply State_evt_keeps
    | with_reducible apply setJState_keeps
    | with_reducible apply writeRing_keeps

end Sys2Proof.Machine
end

