-- ==== Sys2Proof/Laws/KeepsAlmStore.lean ====
section
/-! SUPPORT. Every operation of Machine/AlmStore.lean keeps the queue, the canonical form of DRAM and what is burned. -/

namespace Sys2Proof.Machine

theorem State_modAlm_keeps {a : State} (s : State) (f : Almanac → Almanac) (h : Keeps a s) : Keeps a (State.modAlm s f) := by
  unfold State.modAlm
  try dsimp only
  repeat' first
    | with_reducible assumption
    | with_reducible refine Keeps.pair (by with_reducible assumption) ?_
    | with_reducible apply Keeps.ite
    | with_reducible apply Keeps.iteP
    | with_reducible apply Keeps.foldl
    | with_reducible apply Keeps.foldlP
    | intro _
    | split
    | (simp only [keeps_mk]; with_reducible apply KeptParts.of)

theorem touchAlm_keeps {a : State} (s : State) (k : Nat) (i : Nat) (f : AlmNode → AlmNode) (h : Keeps a s)
    : Keeps a (touchAlm s k i f) := by
  unfold touchAlm
  try dsimp only
  repeat' first
    | with_reducible assumption
    | with_reducible apply State_modAlm_keeps
    | with_reducible refine Keeps.pair (by with_reducible assumption) ?_
    | with_reducible apply Keeps.ite
    | with_reducible apply Keeps.iteP
    | with_reducible apply Keeps.foldl
    | with_reducible apply Keeps.foldlP
    | intro _
    | split

theorem setAlmSeal_keeps {a : State} (s : State) (k : Nat) (i : Nat) (v : Nat) (h : Keeps a s) : Keeps a (setAlmSeal s k i v) := by
  unfold setAlmSeal
  try dsimp only
  repeat' first
    | with_reducible assumption
    | with_reducible apply State_modAlm_keeps
    | with_reducible apply touchAlm_keeps
    | with_reducible refine Keeps.pair (by with_reducible assumption) ?_
    | with_reducible apply Keeps.ite
    | with_reducible apply Keeps.iteP
    | with_reducible apply Keeps.foldl
    | with_reducible apply Keeps.foldlP
    | intro _

theorem almEvict_keeps {a : State} (f : Nat) (s : State) (n : AlmNode) (h : Keeps a s) : Keeps a (almEvict f s n) := by
  induction f generalizing s n with
  | zero => exact h
  | succ f ih =>
    unfold almEvict
    dsimp only
    have hs : Keeps a (if n.level = 0 then s else
        (s.alm.nodes.filter (fun x => decide (x.level + 1 = n.level) && decide (x.idx / 8 = n.idx))).foldl (almEvict f) s) := by
      split
      · exact h
      · exact Keeps.foldl _ h (fun t x ht => ih t x ht)
    revert hs
    generalize (if n.level = 0 then s else
        (s.alm.nodes.filter (fun x => decide (x.level + 1 = n.level) && decide (x.idx / 8 = n.idx))).foldl (almEvict f) s) = u
    intro hs
    repeat' first
      | with_reducible assumption
      | with_reducible apply dramPut_keeps
      | with_reducible apply setAlmSeal_keeps
      | with_reducible apply State_modAlm_keeps
      | with_reducible apply Keeps.ite
      | intro _
      | split

theorem almInsert_keeps {a : State} (s : State) (j : Nat) (n : AlmNode) (h : Keeps a s) : Keeps a (almInsert s j n) := by
  unfold almInsert
  try dsimp only
  repeat' first
    | with_reducible assumption
    | with_reducible apply almEvict_keeps
    | with_reducible apply State_modAlm_keeps
    | with_reducible refine Keeps.pair (by with_reducible assumption) ?_
    | with_reducible apply Keeps.ite
    | with_reducible apply Keeps.iteP
    | with_reducible apply Keeps.foldl
    | with_reducible apply Keeps.foldlP
    | intro _
    | split

theorem almCe_keeps {a : State} (s : State) (h : Keeps a s) : Keeps a (almCe s) := by
  unfold almCe
  try dsimp only
  repeat' first
    | with_reducible assumption
    | with_reducible apply State_inc_keeps

theorem almLevel_keeps {a : State} (s : State) (j : Nat) (k : Nat) (h : Keeps a s) : Keeps a (almLevel s j k).1 := by
  unfold almLevel
  try dsimp only
  repeat' first
    | with_reducible assumption
    | with_reducible apply touchAlm_keeps
    | with_reducible apply almInsert_keeps
    | with_reducible apply setAlmSeal_keeps
    | with_reducible apply almCe_keeps
    | with_reducible refine Keeps.pair (by with_reducible assumption) ?_
    | with_reducible apply Keeps.ite
    | with_reducible apply Keeps.iteP
    | with_reducible apply Keeps.foldl
    | with_reducible apply Keeps.foldlP
    | intro _
    | split

theorem almTag_keeps {a : State} (s : State) (j : Nat) (h : Keeps a s) : Keeps a (almTag s j).1 := by
  unfold almTag
  try dsimp only
  repeat' first
    | with_reducible assumption
    | with_reducible apply almLevel_keeps
    | with_reducible refine Keeps.pair (by with_reducible assumption) ?_
    | with_reducible apply Keeps.ite
    | with_reducible apply Keeps.iteP
    | with_reducible apply Keeps.foldl
    | with_reducible apply Keeps.foldlP
    | intro _
    | split

theorem almDropGroup_keeps {a : State} (s : State) (j : Nat) (h : Keeps a s) : Keeps a (almDropGroup s j) := by
  unfold almDropGroup
  try dsimp only
  repeat' first
    | with_reducible assumption
    | with_reducible apply State_modAlm_keeps
    | with_reducible apply State_evt_keeps
    | with_reducible apply State_incBy_keeps

theorem almSetTag_keeps {a : State} (s : State) (j : Nat) (b : Bytes) (h : Keeps a s) : Keeps a (almSetTag s j b) := by
  unfold almSetTag
  try dsimp only
  repeat' first
    | with_reducible assumption
    | with_reducible apply touchAlm_keeps

theorem almClose_keeps {a : State} (s : State) (b : Bytes) (e_ : Nat) (mj : Nat) (mn : Nat) (pt : Bytes)
    (h : Keeps a s) : Keeps a (almClose s b e_ mj mn pt).1 := by
  unfold almClose
  try dsimp only
  repeat' first
    | with_reducible assumption
    | with_reducible apply dramPut_keeps

theorem almWrap_keeps {a : State} (s : State) (j : Nat) (e_ : Nat) (b : Bytes) (pt : Bytes) (h : Keeps a s)
    : Keeps a (almWrap s j e_ b pt) := by
  unfold almWrap
  try dsimp only
  repeat' first
    | with_reducible assumption
    | with_reducible apply almDropGroup_keeps
    | with_reducible apply almSetTag_keeps
    | with_reducible apply almClose_keeps
    | with_reducible refine Keeps.pair (by with_reducible assumption) ?_
    | with_reducible apply Keeps.ite
    | with_reducible apply Keeps.iteP
    | with_reducible apply Keeps.foldl
    | with_reducible apply Keeps.foldlP
    | intro _
    | split

theorem almFlush_keeps {a : State} (s : State) (c : AlmCached) (h : Keeps a s) : Keeps a (almFlush s c).1 := by
  unfold almFlush
  try dsimp only
  repeat' first
    | with_reducible assumption
    | with_reducible apply almTag_keeps
    | with_reducible apply almDropGroup_keeps
    | with_reducible apply almWrap_keeps
    | with_reducible apply almClose_keeps
    | with_reducible apply almSetTag_keeps
    | with_reducible refine Keeps.pair (by with_reducible assumption) ?_
    | with_reducible apply Keeps.ite
    | with_reducible apply Keeps.iteP
    | with_reducible apply Keeps.foldl
    | with_reducible apply Keeps.foldlP
    | intro _
    | split

theorem flushAlm_keeps {a : State} (s : State) (h : Keeps a s) : Keeps a (flushAlm s) := by
  unfold flushAlm
  try dsimp only
  repeat' first
    | with_reducible assumption
    | with_reducible apply almFlush_keeps
    | with_reducible apply almEvict_keeps
    | with_reducible apply State_modAlm_keeps
    | with_reducible refine Keeps.pair (by with_reducible assumption) ?_
    | with_reducible apply Keeps.ite
    | with_reducible apply Keeps.iteP
    | with_reducible apply Keeps.foldl

theorem almCache_keeps {a : State} (s : State) (c : AlmCached) (h : Keeps a s) : Keeps a (almCache s c) := by
  unfold almCache
  try dsimp only
  repeat' first
    | with_reducible assumption
    | with_reducible apply almFlush_keeps
    | with_reducible apply State_modAlm_keeps
    | with_reducible refine Keeps.pair (by with_reducible assumption) ?_
    | with_reducible apply Keeps.ite
    | with_reducible apply Keeps.iteP
    | with_reducible apply Keeps.foldl
    | with_reducible apply Keeps.foldlP
    | intro _
    | split

theorem almFetch_keeps {a : State} (s : State) (e_ : Nat) (h : Keeps a s) : Keeps a (almFetch s e_).1 := by
  unfold almFetch
  try dsimp only
  repeat' first
    | with_reducible assumption
    | with_reducible apply almCache_keeps
    | with_reducible apply State_modAlm_keeps
    | with_reducible apply almTag_keeps
    | with_reducible apply almDropGroup_keeps
    | with_reducible apply almCe_keeps
    | with_reducible refine Keeps.pair (by with_reducible assumption) ?_
    | with_reducible apply Keeps.ite
    | with_reducible apply Keeps.iteP
    | with_reducible apply Keeps.foldl
    | with_reducible apply Keeps.foldlP
    | intro _
    | split

theorem almRead_keeps {a : State} (s : State) (e_ : Nat) (h : Keeps a s) : Keeps a (almRead s e_).1 := by
  unfold almRead
  try dsimp only
  repeat' first
    | with_reducible assumption
    | with_reducible apply almFetch_keeps
    | with_reducible refine Keeps.pair (by with_reducible assumption) ?_
    | with_reducible apply Keeps.ite
    | with_reducible apply Keeps.iteP
    | with_reducible apply Keeps.foldl
    | with_reducible apply Keeps.foldlP
    | intro _
    | split

theorem almWrite_keeps {a : State} (s : State) (e_ : Nat) (x : AlmEntry) (h : Keeps a s) : Keeps a (almWrite s e_ x) := by
  unfold almWrite
  try dsimp only
  repeat' first
    | with_reducible assumption
    | with_reducible apply almCache_keeps
    | with_reducible apply State_modAlm_keeps
    | with_reducible refine Keeps.pair (by with_reducible assumption) ?_
    | with_reducible apply Keeps.ite
    | with_reducible apply Keeps.iteP
    | with_reducible apply Keeps.foldl
    | with_reducible apply Keeps.foldlP
    | intro _

end Sys2Proof.Machine
end

