-- ==== Sys2Proof/Laws/KeepsVault.lean ====
section
/-! SUPPORT. Every operation of Machine/Vault.lean keeps the queue, the canonical form of DRAM and what is burned. -/

namespace Sys2Proof.Machine

theorem vaultUse_keeps {a : State} (s : State) (d : Bytes) (h : Keeps a s) : Keeps a (vaultUse s d) := by
  unfold vaultUse
  try dsimp only
  repeat' first
    | with_reducible assumption
    | with_reducible apply addUses_keeps
    | with_reducible refine Keeps.pair (by with_reducible assumption) ?_
    | with_reducible apply Keeps.ite
    | with_reducible apply Keeps.iteP
    | with_reducible apply Keeps.foldl
    | with_reducible apply Keeps.foldlP
    | intro _

theorem immediateWith_keeps {a : State} (s : State) (k : Nat) (i : Nat) (op : Nat) (f : State → Item → State)
    (h : Keeps a s) (hf_f : ∀ (t : State) (y1 : Item), Keeps a t → Keeps a (f t y1))
    : Keeps a (immediateWith s k i op f) := by
  unfold immediateWith
  try dsimp only
  repeat' first
    | with_reducible assumption
    | apply hf_f
    | with_reducible apply withItem_keeps
    | with_reducible apply endImmediate_keeps
    | with_reducible refine Keeps.pair (by with_reducible assumption) ?_
    | with_reducible apply Keeps.ite
    | with_reducible apply Keeps.iteP
    | with_reducible apply Keeps.foldl
    | with_reducible apply Keeps.foldlP
    | intro _

theorem stageWith_keeps {a : State} (s : State) (k : Nat) (i : Nat) (op : Nat) (f : Item → State) (h : Keeps a s)
    (hf_f : ∀ y, Keeps a (f y)) : Keeps a (stageWith s k i op f) := by
  unfold stageWith
  try dsimp only
  repeat' first
    | with_reducible assumption
    | apply hf_f
    | with_reducible apply withItem_keeps
    | with_reducible refine Keeps.pair (by with_reducible assumption) ?_
    | with_reducible apply Keeps.ite
    | with_reducible apply Keeps.iteP
    | with_reducible apply Keeps.foldl
    | with_reducible apply Keeps.foldlP
    | intro _

theorem stageVault_keeps {a : State} (s : State) (k : Nat) (it : Item) (c : VaultChange) (h : Keeps a s)
    : Keeps a (stageVault s k it c) := by
  unfold stageVault
  try dsimp only
  repeat' first
    | with_reducible assumption
    | with_reducible apply modItem_keeps
    | with_reducible refine Keeps.pair (by with_reducible assumption) ?_
    | with_reducible apply Keeps.ite
    | with_reducible apply Keeps.iteP
    | with_reducible apply Keeps.foldl
    | with_reducible apply Keeps.foldlP
    | intro _
    | split
    | (simp only [keeps_mk]; with_reducible apply KeptParts.of)

theorem generate_keeps {a : State} (s : State) (k : Nat) (i : Nat) (h : Keeps a s) : Keeps a (generate s k i) := by
  unfold generate
  try dsimp only
  repeat' first
    | with_reducible assumption
    | with_reducible apply stageWith_keeps
    | with_reducible apply State_drew_keeps
    | with_reducible apply stageVault_keeps
    | with_reducible refine Keeps.pair (by with_reducible assumption) ?_
    | with_reducible apply Keeps.ite
    | with_reducible apply Keeps.iteP
    | with_reducible apply Keeps.foldl
    | with_reducible apply Keeps.foldlP
    | intro _

theorem derive_keeps {a : State} (s : State) (k : Nat) (i : Nat) (h : Keeps a s) : Keeps a (derive s k i) := by
  unfold derive
  try dsimp only
  repeat' first
    | with_reducible assumption
    | with_reducible apply stageWith_keeps
    | with_reducible apply stageVault_keeps
    | with_reducible refine Keeps.pair (by with_reducible assumption) ?_
    | with_reducible apply Keeps.ite
    | with_reducible apply Keeps.iteP
    | with_reducible apply Keeps.foldl
    | with_reducible apply Keeps.foldlP
    | intro _

theorem importWrapped_keeps {a : State} (s : State) (k : Nat) (i : Nat) (h : Keeps a s) : Keeps a (importWrapped s k i) := by
  unfold importWrapped
  try dsimp only
  repeat' first
    | with_reducible assumption
    | with_reducible apply stageWith_keeps
    | with_reducible apply hostRead_keeps
    | with_reducible apply stageVault_keeps
    | with_reducible refine Keeps.pair (by with_reducible assumption) ?_
    | with_reducible apply Keeps.ite
    | with_reducible apply Keeps.iteP
    | with_reducible apply Keeps.foldl
    | with_reducible apply Keeps.foldlP
    | intro _
    | split

theorem importClear_keeps {a : State} (s : State) (k : Nat) (i : Nat) (h : Keeps a s) : Keeps a (importClear s k i) := by
  unfold importClear
  try dsimp only
  repeat' first
    | with_reducible assumption
    | with_reducible apply stageWith_keeps
    | with_reducible apply stageVault_keeps
    | with_reducible apply scrubEntry_keeps
    | with_reducible refine Keeps.pair (by with_reducible assumption) ?_
    | with_reducible apply Keeps.ite
    | with_reducible apply Keeps.iteP
    | with_reducible apply Keeps.foldl
    | with_reducible apply Keeps.foldlP
    | intro _

theorem stagePlain_keeps {a : State} (s : State) (k : Nat) (i : Nat) (op : Nat) (h : Keeps a s)
    : Keeps a (stagePlain s k i op) := by
  unfold stagePlain
  try dsimp only
  repeat' first
    | with_reducible assumption
    | with_reducible apply stageWith_keeps
    | with_reducible apply stageVault_keeps
    | with_reducible refine Keeps.pair (by with_reducible assumption) ?_
    | with_reducible apply Keeps.ite
    | with_reducible apply Keeps.iteP
    | with_reducible apply Keeps.foldl
    | with_reducible apply Keeps.foldlP
    | intro _

theorem installRingKey_keeps {a : State} (s : State) (c : VaultChange) (h : Keeps a s) : Keeps a (installRingKey s c) := by
  unfold installRingKey
  try dsimp only
  repeat' first
    | with_reducible assumption
    | with_reducible apply queueKey_keeps
    | with_reducible apply setMaterial_keeps
    | with_reducible apply State_modSlot_keeps

theorem install_keeps {a : State} (s : State) (d : Bytes) (c : VaultChange) (h : Keeps a s) : Keeps a (install s d c) := by
  unfold install
  try dsimp only
  repeat' first
    | with_reducible assumption
    | with_reducible apply queueKey_keeps
    | with_reducible apply setMaterial_keeps
    | with_reducible apply State_modSlot_keeps

theorem renew_keeps {a : State} (s : State) (n : Nat) (h : Keeps a s) : Keeps a (renew s n) := by
  unfold renew
  try dsimp only
  repeat' first
    | with_reducible assumption
    | with_reducible apply State_modSlot_keeps
    | with_reducible apply queueKey_keeps
    | with_reducible apply setMaterial_keeps
    | with_reducible apply State_drew_keeps
    | with_reducible apply queueTomb_keeps
    | with_reducible refine Keeps.pair (by with_reducible assumption) ?_
    | with_reducible apply Keeps.ite
    | with_reducible apply Keeps.iteP
    | with_reducible apply Keeps.foldl
    | with_reducible apply Keeps.foldlP
    | intro _
    | split

theorem eraseSlot_keeps {a : State} (s : State) (n : Nat) (h : Keeps a s) : Keeps a (eraseSlot s n) := by
  unfold eraseSlot
  try dsimp only
  repeat' first
    | with_reducible assumption
    | with_reducible apply queueTomb_keeps
    | with_reducible apply State_modSlot_keeps

theorem setLimit_keeps {a : State} (s : State) (d : Bytes) (h : Keeps a s) : Keeps a (setLimit s d) := by
  unfold setLimit
  try dsimp only
  repeat' first
    | with_reducible assumption
    | with_reducible apply State_modSlot_keeps
    | with_reducible apply queueKey_keeps
    | with_reducible apply State_evt_keeps
    | with_reducible refine Keeps.pair (by with_reducible assumption) ?_
    | with_reducible apply Keeps.ite
    | with_reducible apply Keeps.iteP
    | with_reducible apply Keeps.foldl
    | with_reducible apply Keeps.foldlP
    | intro _

theorem setPersist_keeps {a : State} (s : State) (d : Bytes) (h : Keeps a s) : Keeps a (setPersist s d) := by
  unfold setPersist
  try dsimp only
  repeat' first
    | with_reducible assumption
    | with_reducible apply State_modSlot_keeps
    | with_reducible apply queueKey_keeps
    | with_reducible apply queueTomb_keeps
    | with_reducible refine Keeps.pair (by with_reducible assumption) ?_
    | with_reducible apply Keeps.ite
    | with_reducible apply Keeps.iteP
    | with_reducible apply Keeps.foldl
    | with_reducible apply Keeps.foldlP
    | intro _

theorem commitVaultOne_keeps {a : State} (p : State × VaultShadow) (c : VaultChange) (h : Keeps a p.1)
    : Keeps a (commitVaultOne p c).1 := by
  unfold commitVaultOne
  try dsimp only
  repeat' first
    | with_reducible assumption
    | with_reducible apply setMaterial_keeps
    | with_reducible apply State_modSlot_keeps
    | with_reducible apply finish_keeps
    | with_reducible apply installRingKey_keeps
    | with_reducible apply install_keeps
    | with_reducible apply State_logPut_keeps
    | with_reducible apply renew_keeps
    | with_reducible apply eraseSlot_keeps
    | with_reducible apply setLimit_keeps
    | with_reducible apply setPersist_keeps
    | with_reducible refine Keeps.pair (by with_reducible assumption) ?_
    | with_reducible apply Keeps.ite
    | with_reducible apply Keeps.iteP
    | with_reducible apply Keeps.foldl
    | with_reducible apply Keeps.foldlP
    | split
    | (simp only [keeps_mk]; with_reducible apply KeptParts.fuse)
    | (show FusesKept _ _; constructor <;> (try split) <;> intros <;> (try simp_all) <;> omega)
    | intro _

theorem commitVault_keeps {a : State} (s0 : State) (h : Keeps a s0) : Keeps a (commitVault s0) := by
  unfold commitVault
  try dsimp only
  repeat' first
    | with_reducible assumption
    | with_reducible apply commitVaultOne_keeps
    | with_reducible apply queueTomb_keeps
    | with_reducible refine Keeps.pair (by with_reducible assumption) ?_
    | with_reducible apply Keeps.ite
    | with_reducible apply Keeps.iteP
    | with_reducible apply Keeps.foldl
    | with_reducible apply Keeps.foldlP
    | intro _
    | split
    | (simp only [keeps_mk]; with_reducible apply KeptParts.of)

theorem pinCopy_keeps {a : State} (s : State) (n : Nat) (slot : Nat) (gen : Nat) (h : Keeps a s)
    : Keeps a (pinCopy s n slot gen) := by
  unfold pinCopy
  try dsimp only
  repeat' first
    | with_reducible assumption
    | with_reducible apply State_modChan_keeps

theorem deliverKey_keeps {a : State} (s : State) (k : Nat) (i : Nat) (h : Keeps a s) : Keeps a (deliverKey s k i) := by
  unfold deliverKey
  try dsimp only
  repeat' first
    | with_reducible assumption
    | with_reducible apply withItem_keeps
    | with_reducible apply finish_keeps
    | with_reducible apply endImmediate_keeps
    | with_reducible apply dlvRefused_keeps
    | with_reducible apply revalFail_keeps
    | with_reducible apply State_modChan_keeps
    | with_reducible apply pinCopy_keeps
    | with_reducible apply State_evt_keeps
    | with_reducible refine loadCopy_keeps (by with_reducible assumption) ?_
    | with_reducible apply addUses_keeps
    | with_reducible refine Keeps.pair (by with_reducible assumption) ?_
    | with_reducible apply Keeps.ite
    | with_reducible apply Keeps.iteP
    | with_reducible apply Keeps.foldl
    | with_reducible apply Keeps.foldlP
    | intro _
    | split

theorem wrapKey_keeps {a : State} (s : State) (k : Nat) (i : Nat) (h : Keeps a s) : Keeps a (wrapKey s k i) := by
  unfold wrapKey
  try dsimp only
  repeat' first
    | with_reducible assumption
    | with_reducible apply immediateWith_keeps
    | with_reducible apply hostWrite_keeps
    | with_reducible apply finish_keeps
    | with_reducible refine Keeps.pair (by with_reducible assumption) ?_
    | with_reducible apply Keeps.ite
    | with_reducible apply Keeps.iteP
    | with_reducible apply Keeps.foldl
    | with_reducible apply Keeps.foldlP
    | intro _
    | split

theorem queryKey_keeps {a : State} (s : State) (k : Nat) (i : Nat) (h : Keeps a s) : Keeps a (queryKey s k i) := by
  unfold queryKey
  try dsimp only
  repeat' first
    | with_reducible assumption
    | with_reducible apply immediateWith_keeps
    | with_reducible apply hostWrite_keeps
    | with_reducible apply finish_keeps
    | with_reducible refine Keeps.pair (by with_reducible assumption) ?_
    | with_reducible apply Keeps.ite
    | with_reducible apply Keeps.iteP
    | with_reducible apply Keeps.foldl
    | with_reducible apply Keeps.foldlP
    | intro _
    | split

theorem opbankWrite_keeps {a : State} (s : State) (k : Nat) (i : Nat) (readback : Bool) (h : Keeps a s)
    : Keeps a (opbankWrite s k i readback) := by
  unfold opbankWrite
  try dsimp only
  repeat' first
    | with_reducible assumption
    | with_reducible apply withItem_keeps
    | with_reducible apply scrubEntry_keeps
    | with_reducible apply finish_keeps
    | with_reducible refine Keeps.pair (by with_reducible assumption) ?_
    | with_reducible apply Keeps.ite
    | with_reducible apply Keeps.iteP
    | with_reducible apply Keeps.foldl
    | with_reducible apply Keeps.foldlP
    | split
    | (simp only [keeps_mk]; with_reducible apply KeptParts.of)
    | (simp only [keeps_mk]; with_reducible apply KeptParts.fuse)
    | (show FusesKept _ _; constructor <;> (try split) <;> intros <;> (try simp_all) <;> omega)
    | intro _

end Sys2Proof.Machine
end

