-- ==== Sys2Proof/Laws/KeepsAlmanac.lean ====
section
/-! SUPPORT. Every operation of Machine/Almanac.lean keeps the queue, the canonical form of DRAM and what is burned. -/

namespace Sys2Proof.Machine

theorem tierCtl_keeps {a : State} (s : State) (t_ : Nat) (val : Nat) (h : Keeps a s) : Keeps a (tierCtl s t_ val) := by
  unfold tierCtl
  try dsimp only
  repeat' first
    | with_reducible assumption
    | with_reducible apply State_putWr_keeps
    | with_reducible refine Keeps.pair (by with_reducible assumption) ?_
    | with_reducible apply Keeps.ite
    | with_reducible apply Keeps.iteP
    | with_reducible apply Keeps.foldl
    | with_reducible apply Keeps.foldlP
    | intro _
    | split
    | (simp only [keeps_mk]; with_reducible apply KeptParts.of)

theorem almCtl_keeps {a : State} (s : State) (val : Nat) (h : Keeps a s) : Keeps a (almCtl s val) := by
  unfold almCtl
  try dsimp only
  repeat' first
    | with_reducible assumption
    | with_reducible apply State_putWr_keeps
    | with_reducible apply State_modAlm_keeps
    | with_reducible refine Keeps.pair (by with_reducible assumption) ?_
    | with_reducible apply Keeps.ite
    | with_reducible apply Keeps.iteP
    | with_reducible apply Keeps.foldl
    | with_reducible apply Keeps.foldlP
    | intro _

theorem almZero_keeps {a : State} (s : State) (h : Keeps a s) : Keeps a (almZero s) := by
  unfold almZero
  try dsimp only
  repeat' first
    | with_reducible assumption
    | with_reducible apply State_modAlm_keeps

theorem almGet_keeps {a : State} (s : State) (node : Nat) (h : Keeps a s) : Keeps a (almGet s node).1 := by
  unfold almGet
  try dsimp only
  repeat' first
    | with_reducible assumption
    | with_reducible apply almRead_keeps
    | with_reducible refine Keeps.pair (by with_reducible assumption) ?_
    | with_reducible apply Keeps.ite
    | with_reducible apply Keeps.iteP
    | with_reducible apply Keeps.foldl
    | with_reducible apply Keeps.foldlP
    | intro _
    | split

theorem almGiveUp_keeps {a : State} (s : State) (node : Nat) (h : Keeps a s) : Keeps a (almGiveUp s node) := by
  unfold almGiveUp
  try dsimp only
  repeat' first
    | with_reducible assumption
    | with_reducible apply almGet_keeps
    | with_reducible apply almWrite_keeps
    | with_reducible refine Keeps.pair (by with_reducible assumption) ?_
    | with_reducible apply Keeps.ite
    | with_reducible apply Keeps.iteP
    | with_reducible apply Keeps.foldl
    | with_reducible apply Keeps.foldlP
    | intro _
    | split

theorem almResync_keeps {a : State} (s : State) (node : Nat) (refTime : Nat) (refTs : Nat) (h : Keeps a s)
    : Keeps a (almResync s node refTime refTs) := by
  unfold almResync
  try dsimp only
  repeat' first
    | with_reducible assumption
    | with_reducible apply almGet_keeps
    | with_reducible apply almWrite_keeps
    | with_reducible refine Keeps.pair (by with_reducible assumption) ?_
    | with_reducible apply Keeps.ite
    | with_reducible apply Keeps.iteP
    | with_reducible apply Keeps.foldl
    | with_reducible apply Keeps.foldlP
    | intro _
    | split

theorem almRemap_keeps {a : State} (s : State) (h : Keeps a s) : Keeps a (almRemap s) := by
  unfold almRemap
  try dsimp only
  repeat' first
    | with_reducible assumption
    | with_reducible apply State_evt_keeps
    | with_reducible apply State_modAlm_keeps
    | with_reducible apply almWrite_keeps
    | with_reducible refine Keeps.pair (by with_reducible assumption) ?_
    | with_reducible apply Keeps.ite
    | with_reducible apply Keeps.iteP
    | with_reducible apply Keeps.foldl
    | with_reducible apply Keeps.foldlP
    | intro _
    | split

theorem sweepLate_keeps {a : State} (s : State) (h : Keeps a s) : Keeps a (sweepLate s) := by
  unfold sweepLate
  try dsimp only
  repeat' first
    | with_reducible assumption
    | with_reducible apply State_modAlm_keeps
    | with_reducible apply State_evt_keeps

theorem almTick_keeps {a : State} (s : State) (per : Nat) (h : Keeps a s) : Keeps a (almTick s per) := by
  unfold almTick
  try dsimp only
  repeat' first
    | with_reducible assumption
    | with_reducible apply sweepLate_keeps
    | with_reducible apply State_modAlm_keeps
    | with_reducible refine Keeps.pair (by with_reducible assumption) ?_
    | with_reducible apply Keeps.ite
    | with_reducible apply Keeps.iteP
    | with_reducible apply Keeps.foldl
    | with_reducible apply Keeps.foldlP
    | intro _

theorem commitEntry_keeps {a : State} (s : State) (i : Nat) (e0 : AlmEntry) (x : AlmIn) (h : Keeps a s)
    : Keeps a (commitEntry s i e0 x).1 := by
  unfold commitEntry
  try dsimp only
  repeat' first
    | with_reducible assumption
    | with_reducible apply almWrite_keeps
    | with_reducible refine Keeps.pair (by with_reducible assumption) ?_
    | with_reducible apply Keeps.ite
    | with_reducible apply Keeps.iteP
    | with_reducible apply Keeps.foldl
    | with_reducible apply Keeps.foldlP
    | intro _

theorem almCommit_keeps {a : State} (s : State) (x : AlmIn) (h : Keeps a s) : Keeps a (almCommit s x).1 := by
  unfold almCommit
  try dsimp only
  repeat' first
    | with_reducible assumption
    | with_reducible apply almGet_keeps
    | with_reducible apply commitEntry_keeps
    | with_reducible apply almWrite_keeps
    | with_reducible refine Keeps.pair (by with_reducible assumption) ?_
    | with_reducible apply Keeps.ite
    | with_reducible apply Keeps.iteP
    | with_reducible apply Keeps.foldl
    | with_reducible apply Keeps.foldlP
    | intro _
    | split

theorem almRestore_keeps {a : State} (s : State) (h : Keeps a s) : Keeps a (almRestore s) := by
  unfold almRestore
  try dsimp only
  repeat' first
    | with_reducible assumption
    | with_reducible apply almWrite_keeps
    | with_reducible apply State_evt_keeps
    | with_reducible apply State_modAlm_keeps
    | with_reducible apply State_putSt_keeps
    | with_reducible refine Keeps.pair (by with_reducible assumption) ?_
    | with_reducible apply Keeps.ite
    | with_reducible apply Keeps.iteP
    | with_reducible apply Keeps.foldl
    | with_reducible apply Keeps.foldlP
    | intro _
    | split

theorem commitTier_keeps {a : State} (s : State) (c : Nat × TierEntry) (h : Keeps a s) : Keeps a (commitTier s c) := by
  unfold commitTier
  try dsimp only
  repeat' first
    | with_reducible assumption
    | with_reducible apply State_putSt_keeps
    | with_reducible apply State_evt_keeps
    | with_reducible refine Keeps.pair (by with_reducible assumption) ?_
    | with_reducible apply Keeps.ite
    | with_reducible apply Keeps.iteP
    | with_reducible apply Keeps.foldl
    | with_reducible apply Keeps.foldlP
    | intro _
    | split
    | (simp only [keeps_mk]; with_reducible apply KeptParts.of)

theorem commitTiers_keeps {a : State} (s : State) (h : Keeps a s) : Keeps a (commitTiers s) := by
  unfold commitTiers
  try dsimp only
  repeat' first
    | with_reducible assumption
    | with_reducible apply commitTier_keeps
    | with_reducible refine Keeps.pair (by with_reducible assumption) ?_
    | with_reducible apply Keeps.ite
    | with_reducible apply Keeps.iteP
    | with_reducible apply Keeps.foldl
    | with_reducible apply Keeps.foldlP
    | intro _
    | split
    | (simp only [keeps_mk]; with_reducible apply KeptParts.of)

theorem commitAlm_keeps {a : State} (s : State) (h : Keeps a s) : Keeps a (commitAlm s) := by
  unfold commitAlm
  try dsimp only
  repeat' first
    | with_reducible assumption
    | with_reducible apply State_modAlm_keeps
    | with_reducible apply State_evt_keeps
    | with_reducible apply State_drew_keeps
    | with_reducible refine Keeps.pair (by with_reducible assumption) ?_
    | with_reducible apply Keeps.ite
    | with_reducible apply Keeps.iteP
    | with_reducible apply Keeps.foldl
    | with_reducible apply Keeps.foldlP
    | intro _

theorem resnap_keeps {a : State} (s : State) (b : Nat) (h : Keeps a s) : Keeps a (resnap s b) := by
  unfold resnap
  try dsimp only
  repeat' first
    | with_reducible assumption
    | with_reducible apply issueErase_keeps
    | with_reducible apply almGet_keeps
    | with_reducible apply State_jPut_keeps
    | with_reducible apply State_modJf_keeps
    | with_reducible refine Keeps.pair (by with_reducible assumption) ?_
    | with_reducible apply Keeps.ite
    | with_reducible apply Keeps.iteP
    | with_reducible apply Keeps.foldl
    | with_reducible apply Keeps.foldlP
    | intro _
    | split

theorem resnapshot_keeps {a : State} (s : State) (h : Keeps a s) : Keeps a (resnapshot s) := by
  unfold resnapshot
  try dsimp only
  repeat' first
    | with_reducible assumption
    | with_reducible apply resnap_keeps
    | with_reducible refine Keeps.pair (by with_reducible assumption) ?_
    | with_reducible apply Keeps.ite
    | with_reducible apply Keeps.iteP
    | with_reducible apply Keeps.foldl
    | with_reducible apply Keeps.foldlP
    | intro _
    | split

theorem handItem_keeps {a : State} (s : State) (i : Nat) (h : Keeps a s) : Keeps a (handItem s i) := by
  unfold handItem
  try dsimp only
  repeat' first
    | with_reducible assumption
    | with_reducible apply almRead_keeps
    | with_reducible apply State_jPut_keeps
    | with_reducible apply State_modAlm_keeps
    | with_reducible refine Keeps.pair (by with_reducible assumption) ?_
    | with_reducible apply Keeps.ite
    | with_reducible apply Keeps.iteP
    | with_reducible apply Keeps.foldl
    | with_reducible apply Keeps.foldlP
    | intro _
    | split

theorem snapSweep_keeps {a : State} (s : State) (h : Keeps a s) : Keeps a (snapSweep s) := by
  unfold snapSweep
  try dsimp only
  repeat' first
    | with_reducible assumption
    | with_reducible apply State_jPut_keeps
    | with_reducible apply State_modAlm_keeps
    | with_reducible apply handItem_keeps
    | with_reducible apply sweepLate_keeps
    | with_reducible apply State_putStf_keeps
    | with_reducible refine Keeps.pair (by with_reducible assumption) ?_
    | with_reducible apply Keeps.ite
    | with_reducible apply Keeps.iteP
    | with_reducible apply Keeps.foldl
    | with_reducible apply Keeps.foldlP
    | intro _

end Sys2Proof.Machine
end

