-- ==== Sys2Proof/Laws/KeepsKrysa.lean ====
section
/-! SUPPORT. Every operation of Machine/Krysa.lean keeps the queue, the canonical form of DRAM and what is burned. -/

namespace Sys2Proof.Machine

theorem State_modKr_keeps {a : State} (s : State) (f : Krysa → Krysa) (h : Keeps a s) : Keeps a (State.modKr s f) := by
  unfold State.modKr
  try dsimp only
  repeat' first
    | with_reducible assumption
    | with_reducible refine Keeps.pair (by with_reducible assumption) ?_
    | with_reducible apply Keeps.ite
    | with_reducible apply Keeps.iteP
    | with_reducible apply Keeps.foldl
    | with_reducible apply Keeps.foldlP
    | intro _
    | split
    | (simp only [keeps_mk]; with_reducible apply KeptParts.of)

theorem State_modPeer_keeps {a : State} (s : State) (u : Nat) (f : Peer → Peer) (h : Keeps a s)
    : Keeps a (State.modPeer s u f) := by
  unfold State.modPeer
  try dsimp only
  repeat' first
    | with_reducible assumption
    | with_reducible apply State_modKr_keeps

theorem krZero_keeps {a : State} (s : State) (h : Keeps a s) : Keeps a (krZero s) := by
  unfold krZero
  try dsimp only
  repeat' first
    | with_reducible assumption
    | with_reducible apply State_modKr_keeps

theorem ringKeys_keeps {a : State} (s : State) (h : Keeps a s) : Keeps a (ringKeys s) := by
  unfold ringKeys
  try dsimp only
  repeat' first
    | with_reducible assumption
    | with_reducible apply State_modKr_keeps
    | with_reducible refine Keeps.pair (by with_reducible assumption) ?_
    | with_reducible apply Keeps.ite
    | with_reducible apply Keeps.iteP
    | with_reducible apply Keeps.foldl
    | with_reducible apply Keeps.foldlP
    | intro _

theorem ringDecide_keeps {a : State} (s : State) (h : Keeps a s) : Keeps a (ringDecide s) := by
  unfold ringDecide
  try dsimp only
  repeat' first
    | with_reducible assumption
    | with_reducible apply requestLease_keeps
    | with_reducible apply State_modKr_keeps
    | with_reducible apply State_evt_keeps
    | with_reducible refine Keeps.pair (by with_reducible assumption) ?_
    | with_reducible apply Keeps.ite
    | with_reducible apply Keeps.iteP
    | with_reducible apply Keeps.foldl
    | with_reducible apply Keeps.foldlP
    | intro _

theorem markLost_keeps {a : State} (s : State) (h : Keeps a s) : Keeps a (markLost s) := by
  unfold markLost
  try dsimp only
  repeat' first
    | with_reducible assumption
    | with_reducible apply State_logPut_keeps
    | with_reducible apply State_evt_keeps
    | with_reducible apply State_modKr_keeps
    | with_reducible apply State_modPeer_keeps
    | with_reducible refine Keeps.pair (by with_reducible assumption) ?_
    | with_reducible apply Keeps.ite
    | with_reducible apply Keeps.iteP
    | with_reducible apply Keeps.foldl
    | with_reducible apply Keeps.foldlP
    | intro _

theorem refillLeases_keeps {a : State} (s : State) (h : Keeps a s) : Keeps a (refillLeases s) := by
  unfold refillLeases
  try dsimp only
  repeat' first
    | with_reducible assumption
    | with_reducible apply requestLease_keeps
    | with_reducible refine Keeps.pair (by with_reducible assumption) ?_
    | with_reducible apply Keeps.ite
    | with_reducible apply Keeps.iteP
    | with_reducible apply Keeps.foldl
    | with_reducible apply Keeps.foldlP
    | intro _

theorem firstJoin_keeps {a : State} (s : State) (h : Keeps a s) : Keeps a (firstJoin s) := by
  unfold firstJoin
  try dsimp only
  repeat' first
    | with_reducible assumption
    | with_reducible apply State_modKr_keeps
    | with_reducible apply State_modJf_keeps
    | with_reducible apply refillLeases_keeps
    | with_reducible apply promote_keeps
    | with_reducible refine Keeps.pair (by with_reducible assumption) ?_
    | with_reducible apply Keeps.ite
    | with_reducible apply Keeps.iteP
    | with_reducible apply Keeps.foldl
    | with_reducible apply Keeps.foldlP
    | intro _

theorem evalRing_keeps {a : State} (s : State) (h : Keeps a s) : Keeps a (evalRing s) := by
  unfold evalRing
  try dsimp only
  repeat' first
    | with_reducible assumption
    | with_reducible apply State_modKr_keeps
    | with_reducible apply State_evt_keeps
    | with_reducible refine Keeps.pair (by with_reducible assumption) ?_
    | with_reducible apply Keeps.ite
    | with_reducible apply Keeps.iteP
    | with_reducible apply Keeps.foldl
    | with_reducible apply Keeps.foldlP
    | intro _

theorem assignDone_keeps {a : State} (s : State) (st : Nat) (aux : Nat) (h : Keeps a s) : Keeps a (assignDone s st aux) := by
  unfold assignDone
  try dsimp only
  repeat' first
    | with_reducible assumption
    | with_reducible apply finish_keeps
    | with_reducible apply State_modKr_keeps
    | with_reducible refine Keeps.pair (by with_reducible assumption) ?_
    | with_reducible apply Keeps.ite
    | with_reducible apply Keeps.iteP
    | with_reducible apply Keeps.foldl
    | with_reducible apply Keeps.foldlP
    | intro _
    | split

theorem assignTimeout_keeps {a : State} (s : State) (h : Keeps a s) : Keeps a (assignTimeout s) := by
  unfold assignTimeout
  try dsimp only
  repeat' first
    | with_reducible assumption
    | with_reducible apply assignDone_keeps
    | with_reducible refine Keeps.pair (by with_reducible assumption) ?_
    | with_reducible apply Keeps.ite
    | with_reducible apply Keeps.iteP
    | with_reducible apply Keeps.foldl
    | with_reducible apply Keeps.foldlP
    | intro _
    | split

theorem krSend_keeps {a : State} (s : State) (type : Nat) (body : Bytes) (h : Keeps a s) : Keeps a (krSend s type body) := by
  unfold krSend
  try dsimp only
  repeat' first
    | with_reducible assumption
    | with_reducible apply State_emit_keeps
    | with_reducible apply State_modKr_keeps
    | with_reducible refine Keeps.pair (by with_reducible assumption) ?_
    | with_reducible apply Keeps.ite
    | with_reducible apply Keeps.iteP
    | with_reducible apply Keeps.foldl
    | with_reducible apply Keeps.foldlP
    | intro _

theorem holdProp_keeps {a : State} (s : State) (p : KChange) (h : Keeps a s) : Keeps a (holdProp s p) := by
  unfold holdProp
  try dsimp only
  repeat' first
    | with_reducible assumption
    | with_reducible apply State_modKr_keeps
    | with_reducible apply assignDone_keeps
    | with_reducible refine Keeps.pair (by with_reducible assumption) ?_
    | with_reducible apply Keeps.ite
    | with_reducible apply Keeps.iteP
    | with_reducible apply Keeps.foldl
    | with_reducible apply Keeps.foldlP
    | intro _
    | split

theorem propose_keeps {a : State} (s : State) (p : KChange) (h : Keeps a s) : Keeps a (propose s p) := by
  unfold propose
  try dsimp only
  repeat' first
    | with_reducible assumption
    | with_reducible apply krSend_keeps
    | with_reducible apply holdProp_keeps

theorem takeover_keeps {a : State} (s : State) (h : Keeps a s) : Keeps a (takeover s) := by
  unfold takeover
  try dsimp only
  repeat' first
    | with_reducible assumption
    | with_reducible apply propose_keeps
    | with_reducible refine Keeps.pair (by with_reducible assumption) ?_
    | with_reducible apply Keeps.ite
    | with_reducible apply Keeps.iteP
    | with_reducible apply Keeps.foldl
    | with_reducible apply Keeps.foldlP
    | intro _
    | split

theorem sendBeacon_keeps {a : State} (s : State) (h : Keeps a s) : Keeps a (sendBeacon s) := by
  unfold sendBeacon
  try dsimp only
  repeat' first
    | with_reducible assumption
    | with_reducible apply State_modKr_keeps
    | with_reducible apply krSend_keeps

theorem sendMap_keeps {a : State} (s : State) (h : Keeps a s) : Keeps a (sendMap s) := by
  unfold sendMap
  try dsimp only
  repeat' first
    | with_reducible assumption
    | with_reducible apply krSend_keeps
    | with_reducible refine Keeps.pair (by with_reducible assumption) ?_
    | with_reducible apply Keeps.ite
    | with_reducible apply Keeps.iteP
    | with_reducible apply Keeps.foldl
    | with_reducible apply Keeps.foldlP
    | intro _

theorem sendMove_keeps {a : State} (s : State) (h : Keeps a s) : Keeps a (sendMove s) := by
  unfold sendMove
  try dsimp only
  repeat' first
    | with_reducible assumption
    | with_reducible apply almRead_keeps
    | with_reducible apply almWrite_keeps
    | with_reducible apply krSend_keeps
    | with_reducible apply State_modKr_keeps
    | with_reducible refine Keeps.pair (by with_reducible assumption) ?_
    | with_reducible apply Keeps.ite
    | with_reducible apply Keeps.iteP
    | with_reducible apply Keeps.foldl
    | with_reducible apply Keeps.foldlP
    | intro _
    | split

theorem krClaim_keeps {a : State} (s : State) (h : Keeps a s) : Keeps a (krClaim s) := by
  unfold krClaim
  try dsimp only
  repeat' first
    | with_reducible assumption
    | with_reducible apply State_evt_keeps
    | with_reducible apply State_modKr_keeps
    | with_reducible apply krSend_keeps
    | with_reducible refine Keeps.pair (by with_reducible assumption) ?_
    | with_reducible apply Keeps.ite
    | with_reducible apply Keeps.iteP
    | with_reducible apply Keeps.foldl
    | with_reducible apply Keeps.foldlP
    | intro _

theorem claimConfirm_keeps {a : State} (s : State) (h : Keeps a s) : Keeps a (claimConfirm s) := by
  unfold claimConfirm
  try dsimp only
  repeat' first
    | with_reducible assumption
    | with_reducible apply takeLease_keeps
    | with_reducible apply State_modKr_keeps
    | with_reducible refine Keeps.pair (by with_reducible assumption) ?_
    | with_reducible apply Keeps.ite
    | with_reducible apply Keeps.iteP
    | with_reducible apply Keeps.foldl
    | with_reducible apply Keeps.foldlP
    | intro _
    | split

theorem krTick_keeps {a : State} (s : State) (h : Keeps a s) : Keeps a (krTick s) := by
  unfold krTick
  try dsimp only
  repeat' first
    | with_reducible assumption
    | with_reducible apply ringKeys_keeps
    | with_reducible apply State_modKr_keeps
    | with_reducible apply ringDecide_keeps
    | with_reducible apply markLost_keeps
    | with_reducible apply firstJoin_keeps
    | with_reducible apply evalRing_keeps
    | with_reducible apply assignTimeout_keeps
    | with_reducible apply takeover_keeps
    | with_reducible apply sendBeacon_keeps
    | with_reducible apply sendMap_keeps
    | with_reducible apply sendMove_keeps
    | with_reducible apply krClaim_keeps
    | with_reducible apply claimConfirm_keeps
    | with_reducible refine Keeps.pair (by with_reducible assumption) ?_
    | with_reducible apply Keeps.ite
    | with_reducible apply Keeps.iteP
    | with_reducible apply Keeps.foldl
    | with_reducible apply Keeps.foldlP
    | intro _

theorem beaconReturned_keeps {a : State} (s : State) (cal : Nat) (h : Keeps a s) : Keeps a (beaconReturned s cal) := by
  unfold beaconReturned
  try dsimp only
  repeat' first
    | with_reducible assumption
    | with_reducible apply State_modKr_keeps
    | with_reducible refine Keeps.pair (by with_reducible assumption) ?_
    | with_reducible apply Keeps.ite
    | with_reducible apply Keeps.iteP
    | with_reducible apply Keeps.foldl
    | with_reducible apply Keeps.foldlP
    | intro _
    | split

theorem krKeyload_keeps {a : State} (s : State) (k : Nat) (i : Nat) (h : Keeps a s) : Keeps a (krKeyload s k i) := by
  unfold krKeyload
  try dsimp only
  repeat' first
    | with_reducible assumption
    | with_reducible apply withItem_keeps
    | with_reducible apply finish_keeps
    | with_reducible apply hostRead_keeps
    | with_reducible apply stageVault_keeps
    | with_reducible refine Keeps.pair (by with_reducible assumption) ?_
    | with_reducible apply Keeps.ite
    | with_reducible apply Keeps.iteP
    | with_reducible apply Keeps.foldl
    | with_reducible apply Keeps.foldlP
    | intro _
    | split

theorem dropEntries_keeps {a : State} (s : State) (lo : Nat) (hi : Nat) (h : Keeps a s) : Keeps a (dropEntries s lo hi) := by
  unfold dropEntries
  try dsimp only
  repeat' first
    | with_reducible assumption
    | with_reducible apply almWrite_keeps
    | with_reducible refine Keeps.pair (by with_reducible assumption) ?_
    | with_reducible apply Keeps.ite
    | with_reducible apply Keeps.iteP
    | with_reducible apply Keeps.foldl
    | with_reducible apply Keeps.foldlP
    | intro _

theorem krApply_keeps {a : State} (s : State) (now : Nat) (h : Keeps a s) : Keeps a (krApply s now) := by
  unfold krApply
  try dsimp only
  repeat' first
    | with_reducible assumption
    | with_reducible apply dropEntries_keeps
    | with_reducible apply State_modKr_keeps
    | with_reducible apply State_logPut_keeps
    | with_reducible apply State_evt_keeps
    | with_reducible apply State_inc_keeps
    | with_reducible apply State_putStf_keeps
    | with_reducible apply assignDone_keeps
    | with_reducible refine Keeps.pair (by with_reducible assumption) ?_
    | with_reducible apply Keeps.ite
    | with_reducible apply Keeps.iteP
    | with_reducible apply Keeps.foldl
    | with_reducible apply Keeps.foldlP
    | intro _
    | split

theorem claimTimeout_keeps {a : State} (s : State) (h : Keeps a s) : Keeps a (claimTimeout s) := by
  unfold claimTimeout
  try dsimp only
  repeat' first
    | with_reducible assumption
    | with_reducible apply krClaim_keeps
    | with_reducible apply State_evt_keeps
    | with_reducible apply State_modKr_keeps
    | with_reducible refine Keeps.pair (by with_reducible assumption) ?_
    | with_reducible apply Keeps.ite
    | with_reducible apply Keeps.iteP
    | with_reducible apply Keeps.foldl
    | with_reducible apply Keeps.foldlP
    | intro _
    | split

theorem krAssign_keeps {a : State} (s : State) (k : Nat) (i : Nat) (h : Keeps a s) : Keeps a (krAssign s k i) := by
  unfold krAssign
  try dsimp only
  repeat' first
    | with_reducible assumption
    | with_reducible apply withItem_keeps
    | with_reducible apply finish_keeps
    | with_reducible apply propose_keeps
    | with_reducible apply State_modKr_keeps
    | with_reducible refine Keeps.pair (by with_reducible assumption) ?_
    | with_reducible apply Keeps.ite
    | with_reducible apply Keeps.iteP
    | with_reducible apply Keeps.foldl
    | with_reducible apply Keeps.foldlP
    | intro _

theorem krQuery_keeps {a : State} (s : State) (k : Nat) (i : Nat) (h : Keeps a s) : Keeps a (krQuery s k i) := by
  unfold krQuery
  try dsimp only
  repeat' first
    | with_reducible assumption
    | with_reducible apply withItem_keeps
    | with_reducible apply hostWrite_keeps
    | with_reducible apply finish_keeps
    | with_reducible refine Keeps.pair (by with_reducible assumption) ?_
    | with_reducible apply Keeps.ite
    | with_reducible apply Keeps.iteP
    | with_reducible apply Keeps.foldl
    | with_reducible apply Keeps.foldlP
    | intro _

theorem processMsg_keeps {a : State} (s : State) (type : Nat) (f : State → KMsg → State) (h : Keeps a s) (hf_f : ∀
    (t : State) (y1 : KMsg), Keeps a t → Keeps a (f t y1)) : Keeps a (processMsg s type f) := by
  unfold processMsg
  try dsimp only
  repeat' first
    | with_reducible assumption
    | apply hf_f
    | with_reducible apply State_modKr_keeps
    | with_reducible refine Keeps.pair (by with_reducible assumption) ?_
    | with_reducible apply Keeps.ite
    | with_reducible apply Keeps.iteP
    | with_reducible apply Keeps.foldl
    | with_reducible apply Keeps.foldlP
    | intro _
    | split

theorem wrapLease_keeps {a : State} (s : State) (h : Keeps a s) : Keeps a (wrapLease s) := by
  unfold wrapLease
  try dsimp only
  repeat' first
    | with_reducible assumption
    | with_reducible apply State_modKr_keeps
    | with_reducible refine Keeps.pair (by with_reducible assumption) ?_
    | with_reducible apply Keeps.ite
    | with_reducible apply Keeps.iteP
    | with_reducible apply Keeps.foldl
    | with_reducible apply Keeps.foldlP
    | intro _
    | split

theorem onBeacon_keeps {a : State} (s : State) (x : KMsg) (h : Keeps a s) : Keeps a (onBeacon s x) := by
  unfold onBeacon
  try dsimp only
  repeat' first
    | with_reducible assumption
    | with_reducible apply State_modPeer_keeps
    | with_reducible apply State_modKr_keeps
    | with_reducible apply krClaim_keeps
    | with_reducible apply claimConfirm_keeps
    | with_reducible apply wrapLease_keeps

theorem onClaim_keeps {a : State} (s : State) (x : KMsg) (h : Keeps a s) : Keeps a (onClaim s x) := by
  unfold onClaim
  try dsimp only
  repeat' first
    | with_reducible assumption
    | with_reducible apply State_modKr_keeps
    | with_reducible apply krClaim_keeps
    | with_reducible refine Keeps.pair (by with_reducible assumption) ?_
    | with_reducible apply Keeps.ite
    | with_reducible apply Keeps.iteP
    | with_reducible apply Keeps.foldl
    | with_reducible apply Keeps.foldlP
    | intro _
    | split

theorem onChange_keeps {a : State} (s : State) (x : KMsg) (h : Keeps a s) : Keeps a (onChange s x) := by
  unfold onChange
  try dsimp only
  repeat' first
    | with_reducible assumption
    | with_reducible apply holdProp_keeps

theorem placeEntry_keeps {a : State} (s : State) (src : Nat) (b : Bytes) (h : Keeps a s) : Keeps a (placeEntry s src b) := by
  unfold placeEntry
  try dsimp only
  repeat' first
    | with_reducible assumption
    | with_reducible apply State_modKr_keeps
    | with_reducible apply almWrite_keeps
    | with_reducible refine Keeps.pair (by with_reducible assumption) ?_
    | with_reducible apply Keeps.ite
    | with_reducible apply Keeps.iteP
    | with_reducible apply Keeps.foldl
    | with_reducible apply Keeps.foldlP
    | intro _
    | split

theorem onEntry_keeps {a : State} (s : State) (x : KMsg) (h : Keeps a s) : Keeps a (onEntry s x) := by
  unfold onEntry
  try dsimp only
  repeat' first
    | with_reducible assumption
    | with_reducible apply placeEntry_keeps
    | with_reducible refine Keeps.pair (by with_reducible assumption) ?_
    | with_reducible apply Keeps.ite
    | with_reducible apply Keeps.iteP
    | with_reducible apply Keeps.foldl
    | with_reducible apply Keeps.foldlP
    | intro _

theorem onMoveEnd_keeps {a : State} (s : State) (x : KMsg) (h : Keeps a s) : Keeps a (onMoveEnd s x) := by
  unfold onMoveEnd
  try dsimp only
  repeat' first
    | with_reducible assumption
    | with_reducible apply State_modKr_keeps

theorem onMap_keeps {a : State} (s : State) (x : KMsg) (h : Keeps a s) : Keeps a (onMap s x) := by
  unfold onMap
  try dsimp only
  repeat' first
    | with_reducible assumption
    | with_reducible apply State_modKr_keeps
    | with_reducible refine Keeps.pair (by with_reducible assumption) ?_
    | with_reducible apply Keeps.ite
    | with_reducible apply Keeps.iteP
    | with_reducible apply Keeps.foldl
    | with_reducible apply Keeps.foldlP
    | intro _

theorem krForward_keeps {a : State} (s : State) (east : Bool) (m : Bytes) (h : Keeps a s) : Keeps a (krForward s east m) := by
  unfold krForward
  try dsimp only
  repeat' first
    | with_reducible assumption
    | with_reducible apply State_emit_keeps
    | with_reducible refine Keeps.pair (by with_reducible assumption) ?_
    | with_reducible apply Keeps.ite
    | with_reducible apply Keeps.iteP
    | with_reducible apply Keeps.foldl
    | with_reducible apply Keeps.foldlP
    | intro _

theorem ringMessage_keeps {a : State} (s : State) (east : Bool) (m : Bytes) (crcOk : Bool) (h : Keeps a s)
    : Keeps a (ringMessage s east m crcOk) := by
  unfold ringMessage
  try dsimp only
  repeat' first
    | with_reducible assumption
    | with_reducible apply State_inc_keeps
    | with_reducible apply krForward_keeps
    | with_reducible apply State_evt_keeps
    | with_reducible apply State_modKr_keeps
    | with_reducible apply beaconReturned_keeps
    | with_reducible apply State_modPeer_keeps
    | with_reducible refine Keeps.pair (by with_reducible assumption) ?_
    | with_reducible apply Keeps.ite
    | with_reducible apply Keeps.iteP
    | with_reducible apply Keeps.foldl
    | with_reducible apply Keeps.foldlP
    | intro _
    | split

theorem leaseExpiry_keeps {a : State} (s : State) (h : Keeps a s) : Keeps a (leaseExpiry s) := by
  unfold leaseExpiry
  try dsimp only
  repeat' first
    | with_reducible assumption
    | with_reducible apply State_modKr_keeps
    | with_reducible apply State_modPeer_keeps
    | with_reducible refine Keeps.pair (by with_reducible assumption) ?_
    | with_reducible apply Keeps.ite
    | with_reducible apply Keeps.iteP
    | with_reducible apply Keeps.foldl
    | with_reducible apply Keeps.foldlP
    | intro _

end Sys2Proof.Machine
end

