-- ==== Sys2Proof/Laws/KeepsLedger.lean ====
section
/-! SUPPORT. Every operation of Machine/Ledger.lean keeps the queue, the canonical form of DRAM and what is burned. -/

namespace Sys2Proof.Machine

theorem State_modLg_keeps {a : State} (s : State) (f : Ledger → Ledger) (h : Keeps a s) : Keeps a (State.modLg s f) := by
  unfold State.modLg
  try dsimp only
  repeat' first
    | with_reducible assumption
    | with_reducible refine Keeps.pair (by with_reducible assumption) ?_
    | with_reducible apply Keeps.ite
    | with_reducible apply Keeps.iteP
    | with_reducible apply Keeps.foldl
    | with_reducible apply Keeps.foldlP
    | intro _
    | split
    | (simp only [keeps_mk]; with_reducible apply KeptParts.of)

theorem ledgerClear_keeps {a : State} (s : State) (h : Keeps a s) : Keeps a (ledgerClear s) := by
  unfold ledgerClear
  try dsimp only
  repeat' first
    | with_reducible assumption
    | with_reducible apply unreserve_keeps
    | with_reducible apply State_modLg_keeps
    | with_reducible refine Keeps.pair (by with_reducible assumption) ?_
    | with_reducible apply Keeps.ite
    | with_reducible apply Keeps.iteP
    | with_reducible apply Keeps.foldl
    | with_reducible apply Keeps.foldlP
    | intro _

theorem lgReject_keeps {a : State} (s : State) (off : Nat) (hi : Nat) (lo : Nat) (full : Bool) (h : Keeps a s)
    : Keeps a (lgReject s off hi lo full) := by
  unfold lgReject
  try dsimp only
  repeat' first
    | with_reducible assumption
    | with_reducible apply State_evt_keeps
    | with_reducible apply State_inc_keeps
    | with_reducible refine Keeps.pair (by with_reducible assumption) ?_
    | with_reducible apply Keeps.ite
    | with_reducible apply Keeps.iteP
    | with_reducible apply Keeps.foldl
    | with_reducible apply Keeps.foldlP
    | intro _

theorem charge_keeps {a : State} (s : State) (b : Nat) (a_ : Nat) (h : Keeps a s) : Keeps a (charge s b a_) := by
  unfold charge
  try dsimp only
  repeat' first
    | with_reducible assumption
    | with_reducible apply State_modLg_keeps

theorem ledgerDecide_keeps {a : State} (s : State) (q_ : TxReq) (h : Keeps a s) : Keeps a (ledgerDecide s q_).1 := by
  unfold ledgerDecide
  try dsimp only
  repeat' first
    | with_reducible assumption
    | with_reducible apply lgReject_keeps
    | with_reducible apply charge_keeps
    | with_reducible apply State_modRing_keeps
    | with_reducible apply State_modLg_keeps
    | with_reducible refine Keeps.pair (by with_reducible assumption) ?_
    | with_reducible apply Keeps.ite
    | with_reducible apply Keeps.iteP
    | with_reducible apply Keeps.foldl
    | with_reducible apply Keeps.foldlP
    | intro _
    | split

theorem heldEvent_keeps {a : State} (s : State) (h_ : HeldFrame) (st : Nat) (op : Nat) (aux : Nat) (h : Keeps a s)
    : Keeps a (heldEvent s h_ st op aux) := by
  unfold heldEvent
  try dsimp only
  repeat' first
    | with_reducible assumption
    | with_reducible apply unreserve_keeps
    | with_reducible apply cqWrite_keeps
    | with_reducible refine Keeps.pair (by with_reducible assumption) ?_
    | with_reducible apply Keeps.ite
    | with_reducible apply Keeps.iteP
    | with_reducible apply Keeps.foldl
    | with_reducible apply Keeps.foldlP
    | intro _

theorem discardHeld_keeps {a : State} (s : State) (h_ : HeldFrame) (why : Nat) (h : Keeps a s)
    : Keeps a (discardHeld s h_ why) := by
  unfold discardHeld
  try dsimp only
  repeat' first
    | with_reducible assumption
    | with_reducible apply State_modLg_keeps
    | with_reducible apply State_evt_keeps
    | with_reducible apply State_inc_keeps
    | with_reducible apply heldEvent_keeps
    | with_reducible refine Keeps.pair (by with_reducible assumption) ?_
    | with_reducible apply Keeps.ite
    | with_reducible apply Keeps.iteP
    | with_reducible apply Keeps.foldl
    | with_reducible apply Keeps.foldlP
    | intro _

theorem rollBuckets_keeps {a : State} (s : State) (h : Keeps a s) : Keeps a (rollBuckets s) := by
  unfold rollBuckets
  try dsimp only
  repeat' first
    | with_reducible assumption
    | with_reducible apply State_modLg_keeps

theorem releaseHeld_keeps {a : State} (s : State) (h_ : HeldFrame) (h : Keeps a s) : Keeps a (releaseHeld s h_) := by
  unfold releaseHeld
  try dsimp only
  repeat' first
    | with_reducible assumption
    | with_reducible apply State_modLg_keeps
    | with_reducible apply charge_keeps
    | with_reducible apply heldEvent_keeps
    | with_reducible apply hostWrite_keeps

theorem releaseBand_keeps {a : State} (b : Nat) (l : List HeldFrame) (s : State) (h : Keeps a s)
    : Keeps a (releaseBand b l s) := by
  induction l generalizing s with
  | nil => exact h
  | cons x l ih =>
    unfold releaseBand
    split
    · exact h
    · split
      · exact ih _ (releaseHeld_keeps s x h)
      · exact h

theorem ledgerRelease_keeps {a : State} (s : State) (old : Option (List Band)) (h : Keeps a s)
    : Keeps a (ledgerRelease s old) := by
  unfold ledgerRelease
  try dsimp only
  repeat' first
    | with_reducible assumption
    | with_reducible apply discardHeld_keeps
    | with_reducible apply rollBuckets_keeps
    | with_reducible apply releaseBand_keeps
    | with_reducible apply State_modLg_keeps
    | with_reducible refine Keeps.pair (by with_reducible assumption) ?_
    | with_reducible apply Keeps.ite
    | with_reducible apply Keeps.iteP
    | with_reducible apply Keeps.foldl
    | with_reducible apply Keeps.foldlP
    | intro _
    | split

theorem holdExpiry_keeps {a : State} (s : State) (h : Keeps a s) : Keeps a (holdExpiry s) := by
  unfold holdExpiry
  try dsimp only
  repeat' first
    | with_reducible assumption
    | with_reducible apply discardHeld_keeps
    | with_reducible refine Keeps.pair (by with_reducible assumption) ?_
    | with_reducible apply Keeps.ite
    | with_reducible apply Keeps.iteP
    | with_reducible apply Keeps.foldl
    | with_reducible apply Keeps.foldlP
    | intro _

theorem stageProfile_keeps {a : State} (s : State) (p : Bytes) (h : Keeps a s) : Keeps a (stageProfile s p) := by
  unfold stageProfile
  try dsimp only
  repeat' first
    | with_reducible assumption
    | with_reducible apply State_modLg_keeps

theorem profileRefused_keeps {a : State} (s : State) (h : Keeps a s) : Keeps a (profileRefused s) := by
  unfold profileRefused
  try dsimp only
  repeat' first
    | with_reducible assumption
    | with_reducible apply State_evt_keeps

theorem commitProfile_keeps {a : State} (s : State) (h : Keeps a s) : Keeps a (commitProfile s) := by
  unfold commitProfile
  try dsimp only
  repeat' first
    | with_reducible assumption
    | with_reducible apply State_evt_keeps
    | with_reducible apply State_modLg_keeps
    | with_reducible refine Keeps.pair (by with_reducible assumption) ?_
    | with_reducible apply Keeps.ite
    | with_reducible apply Keeps.iteP
    | with_reducible apply Keeps.foldl
    | with_reducible apply Keeps.foldlP
    | intro _
    | split

end Sys2Proof.Machine
end

