-- ==== Sys2Proof/Laws/KeepsDown.lean ====
section
/-! SUPPORT. Every operation of Machine/Down.lean keeps the queue, the canonical form of DRAM and what is burned. -/

namespace Sys2Proof.Machine

theorem touchNodeKey_keeps {a : State} (s : State) (n : Nat) (slot : Nat) (gen : Nat) (node : Nat) (h : Keeps a s)
    : Keeps a (touchNodeKey s n slot gen node) := by
  unfold touchNodeKey
  try dsimp only
  repeat' first
    | with_reducible assumption
    | with_reducible apply State_modChan_keeps
    | with_reducible refine Keeps.pair (by with_reducible assumption) ?_
    | with_reducible apply Keeps.ite
    | with_reducible apply Keeps.iteP
    | with_reducible apply Keeps.foldl
    | with_reducible apply Keeps.foldlP
    | intro _
    | split

theorem frameKey_keeps {a : State} (s : State) (n : Nat) (f : EpochField) (node : Nat) (epoch : Nat) (h : Keeps a s)
    : Keeps a (frameKey s n f node epoch).1 := by
  unfold frameKey
  try dsimp only
  repeat' first
    | with_reducible assumption
    | with_reducible apply keyDenied_keeps
    | with_reducible apply useCopy_keeps
    | with_reducible apply touchNodeKey_keeps
    | with_reducible refine cacheNodeKey_keeps (by with_reducible assumption) ?_
    | with_reducible apply State_inc_keeps
    | with_reducible refine Keeps.pair (by with_reducible assumption) ?_
    | with_reducible apply Keeps.ite
    | with_reducible apply Keeps.iteP
    | with_reducible apply Keeps.foldl
    | with_reducible apply Keeps.foldlP
    | intro _
    | split

theorem downSend_keeps {a : State} (s : State) (q_ : DownReq) (level : Nat) (e_ : Option AlmEntry) (h : Keeps a s)
    : Keeps a (downSend s q_ level e_).1 := by
  unfold downSend
  try dsimp only
  repeat' first
    | with_reducible assumption
    | with_reducible apply grant_keeps
    | with_reducible apply ledgerDecide_keeps
    | with_reducible refine Keeps.pair (by with_reducible assumption) ?_
    | with_reducible apply Keeps.ite
    | with_reducible apply Keeps.iteP
    | with_reducible apply Keeps.foldl
    | with_reducible apply Keeps.foldlP
    | intro _
    | split

theorem downlinkCore_keeps {a : State} (s : State) (q_ : DownReq) (h : Keeps a s) : Keeps a (downlinkCore s q_).1 := by
  unfold downlinkCore
  try dsimp only
  repeat' first
    | with_reducible assumption
    | with_reducible apply State_inc_keeps
    | with_reducible apply almGet_keeps
    | with_reducible apply downSend_keeps
    | with_reducible refine Keeps.pair (by with_reducible assumption) ?_
    | with_reducible apply Keeps.ite
    | with_reducible apply Keeps.iteP
    | with_reducible apply Keeps.foldl
    | with_reducible apply Keeps.foldlP
    | intro _
    | split

theorem countDown_keeps {a : State} (s : State) (st : Nat) (h : Keeps a s) : Keeps a (countDown s st) := by
  unfold countDown
  try dsimp only
  repeat' first
    | with_reducible assumption
    | with_reducible apply State_inc_keeps
    | with_reducible refine Keeps.pair (by with_reducible assumption) ?_
    | with_reducible apply Keeps.ite
    | with_reducible apply Keeps.iteP
    | with_reducible apply Keeps.foldl
    | with_reducible apply Keeps.foldlP
    | intro _

end Sys2Proof.Machine
end

