-- ==== Sys2Proof/Laws/KeepsConv.lean ====
section
/-! SUPPORT. Every operation of Machine/Conv.lean keeps the queue, the canonical form of DRAM and what is burned. -/

namespace Sys2Proof.Machine

theorem State_modConvs_keeps {a : State} (s : State) (f : Convs → Convs) (h : Keeps a s) : Keeps a (State.modConvs s f) := by
  unfold State.modConvs
  try dsimp only
  repeat' first
    | with_reducible assumption
    | with_reducible refine Keeps.pair (by with_reducible assumption) ?_
    | with_reducible apply Keeps.ite
    | with_reducible apply Keeps.iteP
    | with_reducible apply Keeps.foldl
    | with_reducible apply Keeps.foldlP
    | intro _
    | split
    | (simp only [keeps_mk]; with_reducible apply KeptParts.of)

theorem State_modConv_keeps {a : State} (s : State) (id : Nat) (f : Conv → Conv) (h : Keeps a s)
    : Keeps a (State.modConv s id f) := by
  unfold State.modConv
  try dsimp only
  repeat' first
    | with_reducible assumption
    | with_reducible apply State_modConvs_keeps

theorem convZero_keeps {a : State} (s : State) (h : Keeps a s) : Keeps a (convZero s) := by
  unfold convZero
  try dsimp only
  repeat' first
    | with_reducible assumption
    | with_reducible apply State_modConvs_keeps

theorem keyWait_keeps {a : State} {s : State} {ch : Nat} {node : Nat} {x : Option (Nat × EpochField)} {t : State}
    (e : keyWait s ch node x = some t) (h : Keeps a s) : Keeps a t := by
  unfold keyWait at e
  repeat' first | (injection e with e; subst e) | contradiction | split at e | (dsimp only at e)
  repeat' first
    | with_reducible assumption
    | with_reducible apply frameKey_keeps
    | with_reducible refine Keeps.pair (by with_reducible assumption) ?_

theorem sendField_keeps {a : State} (s : State) (id : Nat) (h : Keeps a s) : Keeps a (sendField s id).1 := by
  unfold sendField
  try dsimp only
  repeat' first
    | with_reducible assumption
    | with_reducible apply almGet_keeps
    | with_reducible refine Keeps.pair (by with_reducible assumption) ?_
    | with_reducible apply Keeps.ite
    | with_reducible apply Keeps.iteP
    | with_reducible apply Keeps.foldl
    | with_reducible apply Keeps.foldlP
    | intro _
    | split

theorem sendWait_keeps {a : State} {s : State} {id : Nat} {t : State} (e : sendWait s id = some t) (h : Keeps a s)
    : Keeps a t := by
  unfold sendWait at e
  repeat' first | (injection e with e; subst e) | contradiction | split at e | (dsimp only at e)
  repeat' first
    | with_reducible assumption
    | with_reducible refine keyWait_keeps (by with_reducible assumption) ?_

theorem builtinWait_keeps {a : State} {s : State} {x : ConvStep} {t : State} (e : builtinWait s x = some t)
    (h : Keeps a s) : Keeps a t := by
  unfold builtinWait at e
  repeat' first | (injection e with e; subst e) | contradiction | split at e | (dsimp only at e)
  repeat' first
    | with_reducible assumption
    | with_reducible refine keyWait_keeps (by with_reducible assumption) ?_
    | with_reducible refine sendWait_keeps (by with_reducible assumption) ?_

theorem convEvent_keeps {a : State} (s : State) (cq : Nat) (tag : Nat) (code : Nat) (key : Nat) (result : Bytes)
    (h : Keeps a s) : Keeps a (convEvent s cq tag code key result) := by
  unfold convEvent
  try dsimp only
  repeat' first
    | with_reducible assumption
    | with_reducible apply raiseOnce_keeps
    | with_reducible apply raiseEvent_keeps
    | with_reducible apply State_modConvs_keeps
    | with_reducible refine Keeps.pair (by with_reducible assumption) ?_
    | with_reducible apply Keeps.ite
    | with_reducible apply Keeps.iteP
    | with_reducible apply Keeps.foldl
    | with_reducible apply Keeps.foldlP
    | intro _

theorem clearConv_keeps {a : State} (s : State) (id : Nat) (h : Keeps a s) : Keeps a (clearConv s id) := by
  unfold clearConv
  try dsimp only
  repeat' first
    | with_reducible assumption
    | with_reducible apply State_modConvs_keeps
    | with_reducible apply State_modConv_keeps

theorem endConv_keeps {a : State} (s : State) (id : Nat) (outcome : Nat) (detail : Nat) (implicit : Bool)
    (h : Keeps a s) : Keeps a (endConv s id outcome detail implicit) := by
  unfold endConv
  try dsimp only
  repeat' first
    | with_reducible assumption
    | with_reducible apply convEvent_keeps
    | with_reducible apply State_inc_keeps
    | with_reducible apply State_evt_keeps
    | with_reducible apply almGiveUp_keeps
    | with_reducible apply clearConv_keeps
    | with_reducible refine Keeps.pair (by with_reducible assumption) ?_
    | with_reducible apply Keeps.ite
    | with_reducible apply Keeps.iteP
    | with_reducible apply Keeps.foldl
    | with_reducible apply Keeps.foldlP
    | intro _

theorem rekeyOk_keeps {a : State} (s : State) (id : Nat) (h : Keeps a s) : Keeps a (rekeyOk s id).1 := by
  unfold rekeyOk
  try dsimp only
  repeat' first
    | with_reducible assumption
    | with_reducible apply revalFail_keeps
    | with_reducible apply useCopy_keeps
    | with_reducible refine Keeps.pair (by with_reducible assumption) ?_
    | with_reducible apply Keeps.ite
    | with_reducible apply Keeps.iteP
    | with_reducible apply Keeps.foldl
    | with_reducible apply Keeps.foldlP
    | intro _
    | split

theorem convTry_keeps {a : State} (s : State) (id : Nat) (payload : Bytes) (h : Keeps a s) : Keeps a (convTry s id payload).1 := by
  unfold convTry
  try dsimp only
  repeat' first
    | with_reducible assumption
    | with_reducible apply almGet_keeps
    | with_reducible apply frameKey_keeps
    | with_reducible apply downlinkCore_keeps
    | with_reducible refine Keeps.pair (by with_reducible assumption) ?_
    | with_reducible apply Keeps.ite
    | with_reducible apply Keeps.iteP
    | with_reducible apply Keeps.foldl
    | with_reducible apply Keeps.foldlP
    | intro _
    | split

theorem missSend_keeps {a : State} (s : State) (id : Nat) (h : Keeps a s) : Keeps a (missSend s id) := by
  unfold missSend
  try dsimp only
  repeat' first
    | with_reducible assumption
    | with_reducible apply State_inc_keeps
    | with_reducible apply State_modConv_keeps

theorem convSend_keeps {a : State} (s : State) (id : Nat) (payload : Bytes) (h : Keeps a s)
    : Keeps a (convSend s id payload).1 := by
  unfold convSend
  try dsimp only
  repeat' first
    | with_reducible assumption
    | with_reducible apply convTry_keeps
    | with_reducible apply hostWrite_keeps
    | with_reducible apply missSend_keeps
    | with_reducible apply State_modConv_keeps
    | with_reducible apply countDown_keeps
    | with_reducible apply convEvent_keeps
    | with_reducible refine Keeps.pair (by with_reducible assumption) ?_
    | with_reducible apply Keeps.ite
    | with_reducible apply Keeps.iteP
    | with_reducible apply Keeps.foldl
    | with_reducible apply Keeps.foldlP
    | intro _
    | split

theorem builtinSend_keeps {a : State} (s : State) (id : Nat) (retry : Bool) (h : Keeps a s)
    : Keeps a (builtinSend s id retry) := by
  unfold builtinSend
  try dsimp only
  repeat' first
    | with_reducible assumption
    | with_reducible apply endConv_keeps
    | with_reducible apply rekeyOk_keeps
    | with_reducible apply almGet_keeps
    | with_reducible apply convSend_keeps
    | with_reducible apply State_modConv_keeps
    | with_reducible refine Keeps.pair (by with_reducible assumption) ?_
    | with_reducible apply Keeps.ite
    | with_reducible apply Keeps.iteP
    | with_reducible apply Keeps.foldl
    | with_reducible apply Keeps.foldlP
    | intro _
    | split

theorem deriveKey_keeps {a : State} (s : State) (id : Nat) (epoch : Nat) (f : EpochField) (h : Keeps a s)
    : Keeps a (deriveKey s id epoch f).1 := by
  unfold deriveKey
  try dsimp only
  repeat' first
    | with_reducible assumption
    | with_reducible apply frameKey_keeps
    | with_reducible apply State_modConv_keeps
    | with_reducible refine Keeps.pair (by with_reducible assumption) ?_
    | with_reducible apply Keeps.ite
    | with_reducible apply Keeps.iteP
    | with_reducible apply Keeps.foldl
    | with_reducible apply Keeps.foldlP
    | intro _
    | split

theorem queueStep_keeps {a : State} (s : State) (id : Nat) (kind : Nat) (h : Keeps a s) : Keeps a (queueStep s id kind) := by
  unfold queueStep
  try dsimp only
  repeat' first
    | with_reducible assumption
    | with_reducible apply State_modConvs_keeps
    | with_reducible refine Keeps.pair (by with_reducible assumption) ?_
    | with_reducible apply Keeps.ite
    | with_reducible apply Keeps.iteP
    | with_reducible apply Keeps.foldl
    | with_reducible apply Keeps.foldlP
    | intro _

theorem builtinStart_keeps {a : State} (s : State) (id : Nat) (h : Keeps a s) : Keeps a (builtinStart s id) := by
  unfold builtinStart
  try dsimp only
  repeat' first
    | with_reducible assumption
    | with_reducible apply builtinSend_keeps
    | with_reducible apply endConv_keeps
    | with_reducible apply deriveKey_keeps
    | with_reducible apply queueStep_keeps
    | with_reducible refine Keeps.pair (by with_reducible assumption) ?_
    | with_reducible apply Keeps.ite
    | with_reducible apply Keeps.iteP
    | with_reducible apply Keeps.foldl
    | with_reducible apply Keeps.foldlP
    | intro _
    | split

theorem reportSync_keeps {a : State} (s : State) (node : Nat) (x : ConvInput) (h : Keeps a s) : Keeps a (reportSync s node x) := by
  unfold reportSync
  try dsimp only
  repeat' first
    | with_reducible assumption
    | with_reducible apply almResync_keeps

theorem builtinRx_keeps {a : State} (s : State) (id : Nat) (x : ConvInput) (h : Keeps a s) : Keeps a (builtinRx s id x) := by
  unfold builtinRx
  try dsimp only
  repeat' first
    | with_reducible assumption
    | with_reducible apply endConv_keeps
    | with_reducible apply reportSync_keeps
    | with_reducible apply State_inc_keeps
    | with_reducible apply builtinSend_keeps
    | with_reducible refine Keeps.pair (by with_reducible assumption) ?_
    | with_reducible apply Keeps.ite
    | with_reducible apply Keeps.iteP
    | with_reducible apply Keeps.foldl
    | with_reducible apply Keeps.foldlP
    | intro _

theorem builtinTimeout_keeps {a : State} (s : State) (id : Nat) (h : Keeps a s) : Keeps a (builtinTimeout s id) := by
  unfold builtinTimeout
  try dsimp only
  repeat' first
    | with_reducible assumption
    | with_reducible apply endConv_keeps
    | with_reducible apply State_modConv_keeps
    | with_reducible refine Keeps.pair (by with_reducible assumption) ?_
    | with_reducible apply Keeps.ite
    | with_reducible apply Keeps.iteP
    | with_reducible apply Keeps.foldl
    | with_reducible apply Keeps.foldlP
    | intro _

theorem convTick_keeps {a : State} (s : State) (ticks : Nat) (h : Keeps a s) : Keeps a (convTick s ticks) := by
  unfold convTick
  try dsimp only
  repeat' first
    | with_reducible assumption
    | with_reducible apply State_modConvs_keeps

theorem freeEngine_keeps {a : State} (s : State) (i : Nat) (h : Keeps a s) : Keeps a (freeEngine s i) := by
  unfold freeEngine
  try dsimp only
  repeat' first
    | with_reducible assumption
    | with_reducible apply State_modRing_keeps
    | with_reducible apply State_modConvs_keeps
    | with_reducible refine Keeps.pair (by with_reducible assumption) ?_
    | with_reducible apply Keeps.ite
    | with_reducible apply Keeps.iteP
    | with_reducible apply Keeps.foldl
    | with_reducible apply Keeps.foldlP
    | intro _

theorem stopEngine_keeps {a : State} (s : State) (i : Nat) (h : Keeps a s) : Keeps a (stopEngine s i) := by
  unfold stopEngine
  try dsimp only
  repeat' first
    | with_reducible assumption
    | with_reducible apply freeEngine_keeps
    | with_reducible apply dropCost_keeps

theorem stopEngines_keeps {a : State} (s : State) (id : Nat) (h : Keeps a s) : Keeps a (stopEngines s id) := by
  unfold stopEngines
  try dsimp only
  repeat' first
    | with_reducible assumption
    | with_reducible apply stopEngine_keeps
    | with_reducible refine Keeps.pair (by with_reducible assumption) ?_
    | with_reducible apply Keeps.ite
    | with_reducible apply Keeps.iteP
    | with_reducible apply Keeps.foldl
    | with_reducible apply Keeps.foldlP
    | intro _

theorem convExpire_keeps {a : State} (s : State) (id : Nat) (h : Keeps a s) : Keeps a (convExpire s id) := by
  unfold convExpire
  try dsimp only
  repeat' first
    | with_reducible assumption
    | with_reducible apply endConv_keeps
    | with_reducible apply stopEngines_keeps
    | with_reducible refine Keeps.pair (by with_reducible assumption) ?_
    | with_reducible apply Keeps.ite
    | with_reducible apply Keeps.iteP
    | with_reducible apply Keeps.foldl
    | with_reducible apply Keeps.foldlP
    | intro _

theorem loseConvs_keeps {a : State} (s : State) (ch : Nat) (h : Keeps a s) : Keeps a (loseConvs s ch) := by
  unfold loseConvs
  try dsimp only
  repeat' first
    | with_reducible assumption
    | with_reducible apply stopEngine_keeps
    | with_reducible apply endConv_keeps
    | with_reducible apply State_modConvs_keeps
    | with_reducible refine Keeps.pair (by with_reducible assumption) ?_
    | with_reducible apply Keeps.ite
    | with_reducible apply Keeps.iteP
    | with_reducible apply Keeps.foldl
    | with_reducible apply Keeps.foldlP
    | intro _

theorem ownedConvs_keeps {a : State} (s : State) (h : Keeps a s) : Keeps a (ownedConvs s) := by
  unfold ownedConvs
  try dsimp only
  repeat' first
    | with_reducible assumption
    | with_reducible apply endConv_keeps
    | with_reducible apply stopEngines_keeps
    | with_reducible refine Keeps.pair (by with_reducible assumption) ?_
    | with_reducible apply Keeps.ite
    | with_reducible apply Keeps.iteP
    | with_reducible apply Keeps.foldl
    | with_reducible apply Keeps.foldlP
    | intro _

theorem openConv_keeps {a : State} (s : State) (id : Nat) (node : Nat) (proto : Nat) (tag : Nat) (arg : Bytes)
    (s154 : Bool) (byUplink : Bool) (cal : Nat) (rxSub : Nat) (key : Option KeyRef) (h : Keeps a s)
    : Keeps a (openConv s id node proto tag arg s154 byUplink cal rxSub key) := by
  unfold openConv
  try dsimp only
  repeat' first
    | with_reducible assumption
    | with_reducible apply State_modConvs_keeps
    | with_reducible apply State_modConv_keeps
    | with_reducible apply State_drew_keeps

theorem postInput_keeps {a : State} (s : State) (id : Nat) (x : ConvInput) (h : Keeps a s) : Keeps a (postInput s id x) := by
  unfold postInput
  try dsimp only
  repeat' first
    | with_reducible assumption
    | with_reducible apply State_inc_keeps
    | with_reducible apply queueStep_keeps
    | with_reducible apply State_modConv_keeps
    | with_reducible refine Keeps.pair (by with_reducible assumption) ?_
    | with_reducible apply Keeps.ite
    | with_reducible apply Keeps.iteP
    | with_reducible apply Keeps.foldl
    | with_reducible apply Keeps.foldlP
    | intro _

theorem openByUplink_keeps {a : State} (s : State) (ch : Nat) (node : Nat) (proto : Nat) (x : ConvInput)
    (h : Keeps a s) : Keeps a (openByUplink s ch node proto x).1 := by
  unfold openByUplink
  try dsimp only
  repeat' first
    | with_reducible assumption
    | with_reducible apply State_evt_keeps
    | with_reducible apply State_inc_keeps
    | with_reducible apply openConv_keeps
    | with_reducible refine Keeps.pair (by with_reducible assumption) ?_
    | with_reducible apply Keeps.ite
    | with_reducible apply Keeps.iteP
    | with_reducible apply Keeps.foldl
    | with_reducible apply Keeps.foldlP
    | intro _
    | split

theorem convUplink_keeps {a : State} (s : State) (ch : Nat) (node : Nat) (aux : Nat) (sync : Nat) (entry : Bool)
    (x : ConvInput) (h : Keeps a s) : Keeps a (convUplink s ch node aux sync entry x).1 := by
  unfold convUplink
  try dsimp only
  repeat' first
    | with_reducible assumption
    | with_reducible apply openConv_keeps
    | with_reducible apply endConv_keeps
    | with_reducible apply stopEngines_keeps
    | with_reducible apply postInput_keeps
    | with_reducible apply openByUplink_keeps
    | with_reducible apply convEvent_keeps
    | with_reducible apply State_inc_keeps
    | with_reducible refine Keeps.pair (by with_reducible assumption) ?_
    | with_reducible apply Keeps.ite
    | with_reducible apply Keeps.iteP
    | with_reducible apply Keeps.foldl
    | with_reducible apply Keeps.foldlP
    | intro _
    | split

theorem convEnd_keeps {a : State} (s : State) (k : Nat) (i : Nat) (h : Keeps a s) : Keeps a (convEnd s k i) := by
  unfold convEnd
  try dsimp only
  repeat' first
    | with_reducible assumption
    | with_reducible apply withItem_keeps
    | with_reducible apply finish_keeps
    | with_reducible apply endConv_keeps
    | with_reducible refine Keeps.pair (by with_reducible assumption) ?_
    | with_reducible apply Keeps.ite
    | with_reducible apply Keeps.iteP
    | with_reducible apply Keeps.foldl
    | with_reducible apply Keeps.foldlP
    | intro _

theorem convQuery_keeps {a : State} (s : State) (k : Nat) (i : Nat) (h : Keeps a s) : Keeps a (convQuery s k i) := by
  unfold convQuery
  try dsimp only
  repeat' first
    | with_reducible assumption
    | with_reducible apply withItem_keeps
    | with_reducible apply finish_keeps
    | with_reducible apply hostWrite_keeps
    | with_reducible refine Keeps.pair (by with_reducible assumption) ?_
    | with_reducible apply Keeps.ite
    | with_reducible apply Keeps.iteP
    | with_reducible apply Keeps.foldl
    | with_reducible apply Keeps.foldlP
    | intro _
    | split

theorem convStart_keeps {a : State} (s : State) (k : Nat) (i : Nat) (h : Keeps a s) : Keeps a (convStart s k i) := by
  unfold convStart
  try dsimp only
  repeat' first
    | with_reducible assumption
    | with_reducible apply withItem_keeps
    | with_reducible apply finish_keeps
    | with_reducible apply almGet_keeps
    | with_reducible apply openConv_keeps
    | with_reducible refine Keeps.pair (by with_reducible assumption) ?_
    | with_reducible apply Keeps.ite
    | with_reducible apply Keeps.iteP
    | with_reducible apply Keeps.foldl
    | with_reducible apply Keeps.foldlP
    | intro _
    | split

theorem convTimeout_keeps {a : State} (s : State) (id : Nat) (h : Keeps a s) : Keeps a (convTimeout s id) := by
  unfold convTimeout
  try dsimp only
  repeat' first
    | with_reducible assumption
    | with_reducible apply endConv_keeps
    | with_reducible apply stopEngines_keeps
    | with_reducible apply queueStep_keeps
    | with_reducible apply State_modConv_keeps
    | with_reducible refine Keeps.pair (by with_reducible assumption) ?_
    | with_reducible apply Keeps.ite
    | with_reducible apply Keeps.iteP
    | with_reducible apply Keeps.foldl
    | with_reducible apply Keeps.foldlP
    | intro _

end Sys2Proof.Machine
end

