-- ==== Sys2Proof/Laws/KeepsNodes.lean ====
section
/-! SUPPORT. Every operation of Machine/Nodes.lean keeps the queue, the canonical form of DRAM and what is burned. -/

namespace Sys2Proof.Machine

theorem countUp_keeps {a : State} (s : State) (st : Nat) (h : Keeps a s) : Keeps a (countUp s st) := by
  unfold countUp
  try dsimp only
  repeat' first
    | with_reducible assumption
    | with_reducible apply State_inc_keeps
    | with_reducible refine Keeps.pair (by with_reducible assumption) ?_
    | with_reducible apply Keeps.ite
    | with_reducible apply Keeps.iteP
    | with_reducible apply Keeps.foldl
    | with_reducible apply Keeps.foldlP
    | intro _

theorem endUp_keeps {a : State} (s : State) (k : Nat) (i : Nat) (st : Nat) (result : Bytes) (h : Keeps a s)
    : Keeps a (endUp s k i st result) := by
  unfold endUp
  try dsimp only
  repeat' first
    | with_reducible assumption
    | with_reducible apply finish_keeps
    | with_reducible apply countUp_keeps

theorem outWrite_keeps {a : State} (s : State) (bad : Bool) (addr : Nat) (b : Bytes) (h : Keeps a s)
    : Keeps a (outWrite s bad addr b).1 := by
  unfold outWrite
  try dsimp only
  repeat' first
    | with_reducible assumption
    | with_reducible apply hostWrite_keeps
    | with_reducible refine Keeps.pair (by with_reducible assumption) ?_
    | with_reducible apply Keeps.ite
    | with_reducible apply Keeps.iteP
    | with_reducible apply Keeps.foldl
    | with_reducible apply Keeps.foldlP
    | intro _

theorem commitUp_keeps {a : State} (s : State) (bad : Bool) (k : Nat) (i : Nat) (it : Item) (u : UpFrame) (pl : Bytes)
    (auth : Bool) (h : Keeps a s) : Keeps a (commitUp s bad k i it u pl auth) := by
  unfold commitUp
  try dsimp only
  repeat' first
    | with_reducible assumption
    | with_reducible apply almCommit_keeps
    | with_reducible apply convUplink_keeps
    | with_reducible apply endUp_keeps
    | with_reducible apply outWrite_keeps
    | with_reducible apply finish_keeps
    | with_reducible apply countUp_keeps
    | with_reducible refine Keeps.pair (by with_reducible assumption) ?_
    | with_reducible apply Keeps.ite
    | with_reducible apply Keeps.iteP
    | with_reducible apply Keeps.foldl
    | with_reducible apply Keeps.foldlP
    | intro _
    | split

theorem checkUp_keeps {a : State} (s : State) (bad : Bool) (k : Nat) (i : Nat) (it : Item) (u : UpFrame) (f : Bytes)
    (h : Keeps a s) : Keeps a (checkUp s bad k i it u f) := by
  unfold checkUp
  try dsimp only
  repeat' first
    | with_reducible assumption
    | with_reducible apply endUp_keeps
    | with_reducible apply almGet_keeps
    | with_reducible apply commitUp_keeps
    | with_reducible refine Keeps.pair (by with_reducible assumption) ?_
    | with_reducible apply Keeps.ite
    | with_reducible apply Keeps.iteP
    | with_reducible apply Keeps.foldl
    | with_reducible apply Keeps.foldlP
    | intro _
    | split

theorem downlink_keeps {a : State} (s : State) (bad : Bool) (k : Nat) (i : Nat) (h : Keeps a s)
    : Keeps a (downlink s bad k i) := by
  unfold downlink
  try dsimp only
  repeat' first
    | with_reducible assumption
    | with_reducible apply withItem_keeps
    | with_reducible apply hostRead_keeps
    | with_reducible apply finish_keeps
    | with_reducible apply modItem_keeps
    | with_reducible apply downlinkCore_keeps
    | with_reducible apply outWrite_keeps
    | with_reducible apply countDown_keeps
    | with_reducible refine Keeps.pair (by with_reducible assumption) ?_
    | with_reducible apply Keeps.ite
    | with_reducible apply Keeps.iteP
    | with_reducible apply Keeps.foldl
    | with_reducible apply Keeps.foldlP
    | intro _
    | split

theorem uplink_keeps {a : State} (s : State) (bad : Bool) (k : Nat) (i : Nat) (h : Keeps a s) : Keeps a (uplink s bad k i) := by
  unfold uplink
  try dsimp only
  repeat' first
    | with_reducible assumption
    | with_reducible apply withItem_keeps
    | with_reducible apply hostRead_keeps
    | with_reducible apply finish_keeps
    | with_reducible apply checkUp_keeps
    | with_reducible apply modItem_keeps
    | with_reducible refine Keeps.pair (by with_reducible assumption) ?_
    | with_reducible apply Keeps.ite
    | with_reducible apply Keeps.iteP
    | with_reducible apply Keeps.foldl
    | with_reducible apply Keeps.foldlP
    | intro _
    | split

theorem outputError_keeps {a : State} (s : State) (k : Nat) (i : Nat) (h : Keeps a s) : Keeps a (outputError s k i) := by
  unfold outputError
  try dsimp only
  repeat' first
    | with_reducible assumption
    | with_reducible apply uplink_keeps
    | with_reducible apply downlink_keeps
    | with_reducible apply finish_keeps
    | with_reducible apply leaveVault_keeps
    | with_reducible refine Keeps.pair (by with_reducible assumption) ?_
    | with_reducible apply Keeps.ite
    | with_reducible apply Keeps.iteP
    | with_reducible apply Keeps.foldl
    | with_reducible apply Keeps.foldlP
    | intro _
    | split

end Sys2Proof.Machine
end

