-- ==== Sys2Proof/Laws/KeepsChannels.lean ====
section
/-! SUPPORT. Every operation of Machine/Channels.lean keeps the queue, the canonical form of DRAM and what is burned. -/

namespace Sys2Proof.Machine

theorem flushHead_keeps {a : State} (s : State) (k : Nat) (d : Bytes) (h : Keeps a s) : Keeps a (flushHead s k d) := by
  unfold flushHead
  try dsimp only
  repeat' first
    | with_reducible assumption
    | with_reducible apply endHead_keeps

theorem flushMarked_keeps {a : State} (k : Nat) (x1 : Nat) (x2 : State) (h : Keeps a x2) : Keeps a (flushMarked k x1 x2) := by
  induction x1 generalizing x2 with
  | zero => exact h
  | succ n ih =>
    unfold flushMarked
    have hw := withHead_keeps x2 k (fun s d => (flushHead s k d, true)) h (fun t d ht => flushHead_keeps t k d ht)
    split
    · exact h
    · split
      · rename_i e; exact ih _ (Keeps.pair e hw)
      · rename_i e; exact Keeps.pair e hw

theorem flushRings_keeps {a : State} (s : State) (n : Nat) (h : Keeps a s) : Keeps a (flushRings s n) := by
  unfold flushRings
  try dsimp only
  repeat' first
    | with_reducible assumption
    | with_reducible apply flushMarked_keeps
    | with_reducible apply State_modRing_keeps
    | with_reducible refine Keeps.pair (by with_reducible assumption) ?_
    | with_reducible apply Keeps.ite
    | with_reducible apply Keeps.iteP
    | with_reducible apply Keeps.foldl
    | with_reducible apply Keeps.foldlP
    | intro _

theorem changeRole_keeps {a : State} (s : State) (n : Nat) (new : Nat) (h : Keeps a s) : Keeps a (changeRole s n new) := by
  unfold changeRole
  try dsimp only
  repeat' first
    | with_reducible assumption
    | with_reducible apply loseConvs_keeps
    | with_reducible apply State_modMchan_keeps
    | with_reducible apply flushChan_keeps
    | with_reducible apply settleWhere_keeps
    | with_reducible apply State_modChan_keeps
    | with_reducible apply State_putWr_keeps
    | with_reducible refine Keeps.pair (by with_reducible assumption) ?_
    | with_reducible apply Keeps.ite
    | with_reducible apply Keeps.iteP
    | with_reducible apply Keeps.foldl
    | with_reducible apply Keeps.foldlP
    | intro _
    | split
    | (simp only [keeps_mk]; with_reducible apply KeptParts.of)

theorem unbindFenced_keeps {a : State} (s : State) (h : Keeps a s) : Keeps a (unbindFenced s) := by
  unfold unbindFenced
  try dsimp only
  repeat' first
    | with_reducible assumption
    | with_reducible apply State_modChan_keeps
    | with_reducible refine Keeps.pair (by with_reducible assumption) ?_
    | with_reducible apply Keeps.ite
    | with_reducible apply Keeps.iteP
    | with_reducible apply Keeps.foldl
    | with_reducible apply Keeps.foldlP
    | intro _

theorem moveSteer_keeps {a : State} (s : State) (t_ : List Nat) (h : Keeps a s) : Keeps a (moveSteer s t_) := by
  unfold moveSteer
  try dsimp only
  repeat' first
    | with_reducible assumption
    | with_reducible apply settleWhere_keeps
    | with_reducible apply flushChan_keeps
    | with_reducible refine Keeps.pair (by with_reducible assumption) ?_
    | with_reducible apply Keeps.ite
    | with_reducible apply Keeps.iteP
    | with_reducible apply Keeps.foldl
    | with_reducible apply Keeps.foldlP
    | intro _
    | split
    | (simp only [keeps_mk]; with_reducible apply KeptParts.of)

theorem applyRoles_keeps {a : State} (s : State) (roles : List Nat) (h : Keeps a s) : Keeps a (applyRoles s roles) := by
  unfold applyRoles
  try dsimp only
  repeat' first
    | with_reducible assumption
    | with_reducible apply flushRings_keeps
    | with_reducible apply changeRole_keeps
    | with_reducible apply unbindFenced_keeps
    | with_reducible apply moveSteer_keeps
    | with_reducible refine Keeps.pair (by with_reducible assumption) ?_
    | with_reducible apply Keeps.ite
    | with_reducible apply Keeps.iteP
    | with_reducible apply Keeps.foldl
    | with_reducible apply Keeps.foldlP
    | intro _

theorem applyShare_keeps {a : State} (s : State) (w : Nat × Nat) (h : Keeps a s) : Keeps a (applyShare s w) := by
  unfold applyShare
  try dsimp only
  repeat' first
    | with_reducible assumption
    | with_reducible apply State_modChan_keeps
    | with_reducible apply State_evt_keeps
    | with_reducible refine Keeps.pair (by with_reducible assumption) ?_
    | with_reducible apply Keeps.ite
    | with_reducible apply Keeps.iteP
    | with_reducible apply Keeps.foldl
    | with_reducible apply Keeps.foldlP
    | intro _

theorem tryRoles_keeps {a : State} (s : State) (wr : List (Nat × Nat)) (h : Keeps a s) : Keeps a (tryRoles s wr) := by
  unfold tryRoles
  try dsimp only
  repeat' first
    | with_reducible assumption
    | with_reducible apply State_evt_keeps
    | with_reducible apply applyRoles_keeps
    | with_reducible refine Keeps.pair (by with_reducible assumption) ?_
    | with_reducible apply Keeps.ite
    | with_reducible apply Keeps.iteP
    | with_reducible apply Keeps.foldl
    | with_reducible apply Keeps.foldlP
    | intro _

theorem commitRoles_keeps {a : State} (s : State) (ends : Bool) (h : Keeps a s) : Keeps a (commitRoles s ends) := by
  unfold commitRoles
  try dsimp only
  repeat' first
    | with_reducible assumption
    | with_reducible apply tryRoles_keeps
    | with_reducible apply applyShare_keeps
    | with_reducible apply linkRoles_keeps
    | with_reducible refine Keeps.pair (by with_reducible assumption) ?_
    | with_reducible apply Keeps.ite
    | with_reducible apply Keeps.iteP
    | with_reducible apply Keeps.foldl
    | with_reducible apply Keeps.foldlP
    | intro _
    | split
    | (simp only [keeps_mk]; with_reducible apply KeptParts.of)

theorem memFence_keeps {a : State} (s : State) (ch : Nat) (h : Keeps a s) : Keeps a (memFence s ch) := by
  unfold memFence
  try dsimp only
  repeat' first
    | with_reducible assumption
    | with_reducible apply State_modMchan_keeps
    | with_reducible apply countLost_keeps
    | with_reducible apply dramPut_keeps
    | with_reducible apply countSubtree_keeps
    | with_reducible apply setRoot_keeps
    | with_reducible refine Keeps.pair (by with_reducible assumption) ?_
    | with_reducible apply Keeps.ite
    | with_reducible apply Keeps.iteP
    | with_reducible apply Keeps.foldl
    | with_reducible apply Keeps.foldlP
    | intro _

theorem takeOver_keeps {a : State} (s : State) (n : Nat) (m : Nat) (h : Keeps a s) : Keeps a (takeOver s n m) := by
  unfold takeOver
  try dsimp only
  repeat' first
    | with_reducible assumption
    | with_reducible apply State_modChan_keeps
    | with_reducible apply State_logPut_keeps
    | with_reducible apply State_evt_keeps
    | with_reducible apply State_putWr_keeps
    | with_reducible refine Keeps.pair (by with_reducible assumption) ?_
    | with_reducible apply Keeps.ite
    | with_reducible apply Keeps.iteP
    | with_reducible apply Keeps.foldl
    | with_reducible apply Keeps.foldlP
    | intro _
    | split
    | (simp only [keeps_mk]; with_reducible apply KeptParts.of)

theorem redistribute_keeps {a : State} (s : State) (n : Nat) (h : Keeps a s) : Keeps a (redistribute s n) := by
  unfold redistribute
  try dsimp only
  repeat' first
    | with_reducible assumption
    | with_reducible refine Keeps.pair (by with_reducible assumption) ?_
    | with_reducible apply Keeps.ite
    | with_reducible apply Keeps.iteP
    | with_reducible apply Keeps.foldl
    | with_reducible apply Keeps.foldlP
    | intro _
    | split
    | (simp only [keeps_mk]; with_reducible apply KeptParts.of)

theorem dropTxn_keeps {a : State} (s : State) (t_ : Txn) (reason : Nat) (h : Keeps a s) : Keeps a (dropTxn s t_ reason) := by
  unfold dropTxn
  try dsimp only
  repeat' first
    | with_reducible assumption
    | with_reducible apply answer_keeps
    | with_reducible apply denyCount_keeps
    | with_reducible refine Keeps.pair (by with_reducible assumption) ?_
    | with_reducible apply Keeps.ite
    | with_reducible apply Keeps.iteP
    | with_reducible apply Keeps.foldl
    | with_reducible apply Keeps.foldlP
    | intro _
    | split
    | (simp only [keeps_mk]; with_reducible apply KeptParts.of)

theorem reissueOne_keeps {a : State} (ch : Nat) (s : State) (t_ : Txn) (h : Keeps a s) : Keeps a (reissueOne ch s t_) := by
  unfold reissueOne
  try dsimp only
  repeat' first
    | with_reducible assumption
    | with_reducible apply dropTxn_keeps
    | with_reducible apply memKey_keeps
    | with_reducible apply keyFailed_keeps
    | with_reducible refine Keeps.pair (by with_reducible assumption) ?_
    | with_reducible apply Keeps.ite
    | with_reducible apply Keeps.iteP
    | with_reducible apply Keeps.foldl
    | with_reducible apply Keeps.foldlP
    | intro _
    | split
    | (simp only [keeps_mk]; with_reducible apply KeptParts.of)

theorem reissue_keeps {a : State} (s : State) (ch : Nat) (h : Keeps a s) : Keeps a (reissue s ch) := by
  unfold reissue
  try dsimp only
  repeat' first
    | with_reducible assumption
    | with_reducible apply reissueOne_keeps
    | with_reducible refine Keeps.pair (by with_reducible assumption) ?_
    | with_reducible apply Keeps.ite
    | with_reducible apply Keeps.iteP
    | with_reducible apply Keeps.foldl

theorem fence_keeps {a : State} (s : State) (n : Nat) (cause : Nat) (h : Keeps a s) : Keeps a (fence s n cause) := by
  unfold fence
  try dsimp only
  repeat' first
    | with_reducible assumption
    | with_reducible apply State_modChan_keeps
    | with_reducible apply State_evt_keeps
    | with_reducible apply State_logPut_keeps
    | with_reducible apply loseConvs_keeps
    | with_reducible apply memFence_keeps
    | with_reducible apply takeOver_keeps
    | with_reducible apply redistribute_keeps
    | with_reducible apply reissue_keeps
    | with_reducible apply linkFence_keeps
    | with_reducible refine Keeps.pair (by with_reducible assumption) ?_
    | with_reducible apply Keeps.ite
    | with_reducible apply Keeps.iteP
    | with_reducible apply Keeps.foldl
    | with_reducible apply Keeps.foldlP
    | intro _
    | split
    | (simp only [keeps_mk]; with_reducible apply KeptParts.of)

theorem datapathFault_keeps {a : State} (s : State) (n : Nat) (cause : Nat) (h : Keeps a s)
    : Keeps a (datapathFault s n cause) := by
  unfold datapathFault
  try dsimp only
  repeat' first
    | with_reducible assumption
    | with_reducible apply fence_keeps
    | with_reducible refine Keeps.pair (by with_reducible assumption) ?_
    | with_reducible apply Keeps.ite
    | with_reducible apply Keeps.iteP
    | with_reducible apply Keeps.foldl
    | with_reducible apply Keeps.foldlP
    | intro _

theorem overrunTest_keeps {a : State} (s : State) (n : Nat) (pass : Bool) (h : Keeps a s) : Keeps a (overrunTest s n pass) := by
  unfold overrunTest
  try dsimp only
  repeat' first
    | with_reducible assumption
    | with_reducible apply State_modChan_keeps
    | with_reducible apply fence_keeps
    | with_reducible refine Keeps.pair (by with_reducible assumption) ?_
    | with_reducible apply Keeps.ite
    | with_reducible apply Keeps.iteP
    | with_reducible apply Keeps.foldl
    | with_reducible apply Keeps.foldlP
    | intro _

theorem spareTest_keeps {a : State} (s : State) (pass : Bool) (h : Keeps a s) : Keeps a (spareTest s pass) := by
  unfold spareTest
  try dsimp only
  repeat' first
    | with_reducible assumption
    | with_reducible apply State_modChan_keeps
    | with_reducible apply fence_keeps
    | with_reducible refine Keeps.pair (by with_reducible assumption) ?_
    | with_reducible apply Keeps.ite
    | with_reducible apply Keeps.iteP
    | with_reducible apply Keeps.foldl
    | with_reducible apply Keeps.foldlP
    | intro _
    | split

end Sys2Proof.Machine
end

