-- ==== Sys2Proof/Laws/KeepsEngine.lean ====
section
/-! SUPPORT. Every operation of Machine/Engine.lean keeps the queue, the canonical form of DRAM and what is burned. -/

namespace Sys2Proof.Machine

theorem State_modEngine_keeps {a : State} (s : State) (ch : Nat) (e_ : Nat) (f : Engine → Engine) (h : Keeps a s)
    : Keeps a (State.modEngine s ch e_ f) := by
  unfold State.modEngine
  try dsimp only
  repeat' first
    | with_reducible assumption
    | with_reducible apply State_modConvs_keeps

theorem builtinStep_keeps {a : State} (s : State) (x : ConvStep) (h : Keeps a s) : Keeps a (builtinStep s x) := by
  unfold builtinStep
  try dsimp only
  repeat' first
    | with_reducible assumption
    | with_reducible apply State_modConvs_keeps
    | with_reducible apply builtinStart_keeps
    | with_reducible apply builtinRx_keeps
    | with_reducible apply State_modConv_keeps
    | with_reducible apply builtinTimeout_keeps
    | with_reducible apply State_modRing_keeps
    | with_reducible refine Keeps.pair (by with_reducible assumption) ?_
    | with_reducible apply Keeps.ite
    | with_reducible apply Keeps.iteP
    | with_reducible apply Keeps.foldl
    | with_reducible apply Keeps.foldlP
    | intro _
    | split

theorem withReserve_keeps {a : State} (s : State) (ch : Nat) (e_ : Nat) (f : State → State) (h : Keeps a s) (hf_f : ∀
    (t : State), Keeps a t → Keeps a (f t)) : Keeps a (withReserve s ch e_ f) := by
  unfold withReserve
  try dsimp only
  repeat' first
    | with_reducible assumption
    | apply hf_f
    | with_reducible apply State_modConvs_keeps
    | with_reducible apply State_modEngine_keeps

theorem endFrom_keeps {a : State} (s : State) (ch : Nat) (e_ : Nat) (outcome : Nat) (detail : Nat) (h : Keeps a s)
    : Keeps a (endFrom s ch e_ outcome detail) := by
  unfold endFrom
  try dsimp only
  repeat' first
    | with_reducible assumption
    | with_reducible apply withReserve_keeps
    | with_reducible apply endConv_keeps
    | with_reducible apply dropCost_keeps
    | with_reducible apply State_modRing_keeps
    | with_reducible apply State_modConvs_keeps
    | with_reducible refine Keeps.pair (by with_reducible assumption) ?_
    | with_reducible apply Keeps.ite
    | with_reducible apply Keeps.iteP
    | with_reducible apply Keeps.foldl
    | with_reducible apply Keeps.foldlP
    | intro _

theorem engineFault_keeps {a : State} (s : State) (ch : Nat) (e_ : Nat) (h : Keeps a s) : Keeps a (engineFault s ch e_) := by
  unfold engineFault
  try dsimp only
  repeat' first
    | with_reducible assumption
    | with_reducible apply endFrom_keeps
    | with_reducible apply State_evt_keeps

theorem settleEngine_keeps {a : State} (s : State) (ch : Nat) (e_ : Nat) (h : Keeps a s) : Keeps a (settleEngine s ch e_) := by
  unfold settleEngine
  try dsimp only
  repeat' first
    | with_reducible assumption
    | with_reducible apply engineFault_keeps
    | with_reducible refine Keeps.pair (by with_reducible assumption) ?_
    | with_reducible apply Keeps.ite
    | with_reducible apply Keeps.iteP
    | with_reducible apply Keeps.foldl
    | with_reducible apply Keeps.foldlP
    | intro _
    | split

theorem startEngine_keeps {a : State} (s : State) (ch : Nat) (e_ : Nat) (x : ConvStep) (cost : Cost) (core1 : Bool)
    (h : Keeps a s) : Keeps a (startEngine s ch e_ x cost core1) := by
  unfold startEngine
  try dsimp only
  repeat' first
    | with_reducible assumption
    | with_reducible apply State_modRing_keeps
    | with_reducible apply State_modConv_keeps
    | with_reducible apply settleEngine_keeps
    | with_reducible apply addCost_keeps
    | with_reducible apply State_modEngine_keeps
    | with_reducible refine Keeps.pair (by with_reducible assumption) ?_
    | with_reducible apply Keeps.ite
    | with_reducible apply Keeps.iteP
    | with_reducible apply Keeps.foldl
    | with_reducible apply Keeps.foldlP
    | intro _

theorem advance_keeps {a : State} (s : State) (ch : Nat) (e_ : Nat) (pc : ℤ) (h : Keeps a s) : Keeps a (advance s ch e_ pc) := by
  unfold advance
  try dsimp only
  repeat' first
    | with_reducible assumption
    | with_reducible apply engineFault_keeps
    | with_reducible apply State_modEngine_keeps
    | with_reducible apply settleEngine_keeps
    | with_reducible refine Keeps.pair (by with_reducible assumption) ?_
    | with_reducible apply Keeps.ite
    | with_reducible apply Keeps.iteP
    | with_reducible apply Keeps.foldl
    | with_reducible apply Keeps.foldlP
    | intro _

theorem stageUcode_keeps {a : State} (s : State) (b : Bytes) (h : Keeps a s) : Keeps a (stageUcode s b) := by
  unfold stageUcode
  try dsimp only
  repeat' first
    | with_reducible assumption
    | with_reducible apply State_modConvs_keeps

theorem aluOp_keeps {a : State} (f : Engine → Nat → Nat) (s : State) (ch : Nat) (e_ : Nat) (g : Engine) (w : Nat)
    (h : Keeps a s) : Keeps a (aluOp f s ch e_ g w) := by
  unfold aluOp
  try dsimp only
  repeat' first
    | with_reducible assumption
    | with_reducible apply advance_keeps
    | with_reducible apply State_modEngine_keeps

theorem boundKeyOk_keeps {a : State} (s : State) (id : Nat) (h : Keeps a s) : Keeps a (boundKeyOk s id).1 := by
  unfold boundKeyOk
  try dsimp only
  repeat' first
    | with_reducible assumption
    | with_reducible apply revalFail_keeps
    | with_reducible apply useCopy_keeps
    | with_reducible refine Keeps.pair (by with_reducible assumption) ?_
    | with_reducible apply Keeps.ite
    | with_reducible apply Keeps.iteP
    | with_reducible apply Keeps.foldl
    | with_reducible apply Keeps.foldlP
    | intro _
    | split

theorem branchOp_keeps {a : State} (f : Nat → Nat → Bool) (s : State) (ch : Nat) (e_ : Nat) (g : Engine) (w : Nat)
    (h : Keeps a s) : Keeps a (branchOp f s ch e_ g w) := by
  unfold branchOp
  try dsimp only
  repeat' first
    | with_reducible assumption
    | with_reducible apply advance_keeps

theorem endStep_keeps {a : State} (s : State) (ch : Nat) (e_ : Nat) (h : Keeps a s) : Keeps a (endStep s ch e_) := by
  unfold endStep
  try dsimp only
  repeat' first
    | with_reducible assumption
    | with_reducible apply stopEngine_keeps

theorem cutEngines_keeps {a : State} (s : State) (h : Keeps a s) : Keeps a (cutEngines s) := by
  unfold cutEngines
  try dsimp only
  repeat' first
    | with_reducible assumption
    | with_reducible apply endStep_keeps
    | with_reducible refine Keeps.pair (by with_reducible assumption) ?_
    | with_reducible apply Keeps.ite
    | with_reducible apply Keeps.iteP
    | with_reducible apply Keeps.foldl
    | with_reducible apply Keeps.foldlP
    | intro _

theorem commitUcode_keeps {a : State} (s : State) (h : Keeps a s) : Keeps a (commitUcode s) := by
  unfold commitUcode
  try dsimp only
  repeat' first
    | with_reducible assumption
    | with_reducible apply State_modConvs_keeps
    | with_reducible apply State_evt_keeps
    | with_reducible refine Keeps.pair (by with_reducible assumption) ?_
    | with_reducible apply Keeps.ite
    | with_reducible apply Keeps.iteP
    | with_reducible apply Keeps.foldl
    | with_reducible apply Keeps.foldlP
    | intro _

theorem chkOp_keeps {a : State} (s : State) (ch : Nat) (e_ : Nat) (g : Engine) (w : Nat) (h : Keeps a s)
    : Keeps a (chkOp s ch e_ g w) := by
  unfold chkOp
  try dsimp only
  repeat' first
    | with_reducible assumption
    | with_reducible apply engineFault_keeps
    | with_reducible apply aluOp_keeps
    | with_reducible refine Keeps.pair (by with_reducible assumption) ?_
    | with_reducible apply Keeps.ite
    | with_reducible apply Keeps.iteP
    | with_reducible apply Keeps.foldl
    | with_reducible apply Keeps.foldlP
    | intro _

theorem endOp_keeps {a : State} (s : State) (ch : Nat) (e_ : Nat) (g : Engine) (w : Nat) (h : Keeps a s)
    : Keeps a (endOp s ch e_ g w) := by
  unfold endOp
  try dsimp only
  repeat' first
    | with_reducible assumption
    | with_reducible apply endFrom_keeps

theorem engineOp_keeps {a : State} (op : Nat) (f : State → Nat → Nat → Engine → Nat → State) (ch : Nat) (e_ : Nat)
    (s : State) (h : Keeps a s) (hf_f : ∀ (t : State) (y1 : Nat) (y2 : Nat) (y3 : Engine)
    (y4 : Nat), Keeps a t → Keeps a (f t y1 y2 y3 y4)) : Keeps a (engineOp op f ch e_ s) := by
  unfold engineOp
  try dsimp only
  repeat' first
    | with_reducible assumption
    | apply hf_f
    | with_reducible refine Keeps.pair (by with_reducible assumption) ?_
    | with_reducible apply Keeps.ite
    | with_reducible apply Keeps.iteP
    | with_reducible apply Keeps.foldl
    | with_reducible apply Keeps.foldlP
    | intro _
    | split

theorem ldeOp_keeps {a : State} (s : State) (ch : Nat) (e_ : Nat) (g : Engine) (w : Nat) (h : Keeps a s)
    : Keeps a (ldeOp s ch e_ g w) := by
  unfold ldeOp
  try dsimp only
  repeat' first
    | with_reducible assumption
    | with_reducible apply engineFault_keeps
    | with_reducible apply aluOp_keeps
    | with_reducible refine Keeps.pair (by with_reducible assumption) ?_
    | with_reducible apply Keeps.ite
    | with_reducible apply Keeps.iteP
    | with_reducible apply Keeps.foldl
    | with_reducible apply Keeps.foldlP
    | intro _

theorem steOp_keeps {a : State} (s : State) (ch : Nat) (e_ : Nat) (g : Engine) (w : Nat) (h : Keeps a s)
    : Keeps a (steOp s ch e_ g w) := by
  unfold steOp
  try dsimp only
  repeat' first
    | with_reducible assumption
    | with_reducible apply advance_keeps
    | with_reducible apply State_modConv_keeps
    | with_reducible apply engineFault_keeps
    | with_reducible refine Keeps.pair (by with_reducible assumption) ?_
    | with_reducible apply Keeps.ite
    | with_reducible apply Keeps.iteP
    | with_reducible apply Keeps.foldl
    | with_reducible apply Keeps.foldlP
    | intro _

theorem ldiOp_keeps {a : State} (s : State) (ch : Nat) (e_ : Nat) (g : Engine) (w : Nat) (h : Keeps a s)
    : Keeps a (ldiOp s ch e_ g w) := by
  unfold ldiOp
  try dsimp only
  repeat' first
    | with_reducible assumption
    | with_reducible apply engineFault_keeps
    | with_reducible apply aluOp_keeps
    | with_reducible refine Keeps.pair (by with_reducible assumption) ?_
    | with_reducible apply Keeps.ite
    | with_reducible apply Keeps.iteP
    | with_reducible apply Keeps.foldl
    | with_reducible apply Keeps.foldlP
    | intro _

theorem stoOp_keeps {a : State} (s : State) (ch : Nat) (e_ : Nat) (g : Engine) (w : Nat) (h : Keeps a s)
    : Keeps a (stoOp s ch e_ g w) := by
  unfold stoOp
  try dsimp only
  repeat' first
    | with_reducible assumption
    | with_reducible apply engineFault_keeps
    | with_reducible apply advance_keeps
    | with_reducible apply State_modEngine_keeps
    | with_reducible refine Keeps.pair (by with_reducible assumption) ?_
    | with_reducible apply Keeps.ite
    | with_reducible apply Keeps.iteP
    | with_reducible apply Keeps.foldl
    | with_reducible apply Keeps.foldlP
    | intro _

theorem hdrOp_keeps {a : State} (s : State) (ch : Nat) (e_ : Nat) (g : Engine) (w : Nat) (h : Keeps a s)
    : Keeps a (hdrOp s ch e_ g w) := by
  unfold hdrOp
  try dsimp only
  repeat' first
    | with_reducible assumption
    | with_reducible apply engineFault_keeps
    | with_reducible apply aluOp_keeps
    | with_reducible refine Keeps.pair (by with_reducible assumption) ?_
    | with_reducible apply Keeps.ite
    | with_reducible apply Keeps.iteP
    | with_reducible apply Keeps.foldl
    | with_reducible apply Keeps.foldlP
    | intro _

theorem randOp_keeps {a : State} (s : State) (ch : Nat) (e_ : Nat) (g : Engine) (w : Nat) (h : Keeps a s)
    : Keeps a (randOp s ch e_ g w) := by
  unfold randOp
  try dsimp only
  repeat' first
    | with_reducible assumption
    | with_reducible apply aluOp_keeps
    | with_reducible apply State_drew_keeps

theorem nkeyOp_keeps {a : State} (s : State) (ch : Nat) (e_ : Nat) (g : Engine) (w : Nat) (h : Keeps a s)
    : Keeps a (nkeyOp s ch e_ g w) := by
  unfold nkeyOp
  try dsimp only
  repeat' first
    | with_reducible assumption
    | with_reducible apply engineFault_keeps
    | with_reducible apply deriveKey_keeps
    | with_reducible apply State_modEngine_keeps
    | with_reducible apply fence_keeps
    | with_reducible apply advance_keeps
    | with_reducible apply endFrom_keeps
    | with_reducible refine Keeps.pair (by with_reducible assumption) ?_
    | with_reducible apply Keeps.ite
    | with_reducible apply Keeps.iteP
    | with_reducible apply Keeps.foldl
    | with_reducible apply Keeps.foldlP
    | intro _
    | split

theorem koutOp_keeps {a : State} (s : State) (ch : Nat) (e_ : Nat) (g : Engine) (w : Nat) (h : Keeps a s)
    : Keeps a (koutOp s ch e_ g w) := by
  unfold koutOp
  try dsimp only
  repeat' first
    | with_reducible assumption
    | with_reducible apply engineFault_keeps
    | with_reducible apply advance_keeps
    | with_reducible apply State_modEngine_keeps
    | with_reducible refine Keeps.pair (by with_reducible assumption) ?_
    | with_reducible apply Keeps.ite
    | with_reducible apply Keeps.iteP
    | with_reducible apply Keeps.foldl
    | with_reducible apply Keeps.foldlP
    | intro _

theorem sendOp_keeps {a : State} (s : State) (ch : Nat) (e_ : Nat) (g : Engine) (w : Nat) (h : Keeps a s)
    : Keeps a (sendOp s ch e_ g w) := by
  unfold sendOp
  try dsimp only
  repeat' first
    | with_reducible assumption
    | with_reducible apply engineFault_keeps
    | with_reducible apply endStep_keeps
    | with_reducible apply missSend_keeps
    | with_reducible apply boundKeyOk_keeps
    | with_reducible apply endFrom_keeps
    | with_reducible refine sendWait_keeps (by with_reducible assumption) ?_
    | with_reducible apply withReserve_keeps
    | with_reducible apply convSend_keeps
    | with_reducible apply fence_keeps
    | with_reducible refine Keeps.pair (by with_reducible assumption) ?_
    | with_reducible apply Keeps.ite
    | with_reducible apply Keeps.iteP
    | with_reducible apply Keeps.foldl
    | with_reducible apply Keeps.foldlP
    | intro _
    | split

theorem syncOp_keeps {a : State} (s : State) (ch : Nat) (e_ : Nat) (g : Engine) (_w : Nat) (h : Keeps a s)
    : Keeps a (syncOp s ch e_ g _w) := by
  unfold syncOp
  try dsimp only
  repeat' first
    | with_reducible assumption
    | with_reducible apply engineFault_keeps
    | with_reducible apply advance_keeps
    | with_reducible apply reportSync_keeps
    | with_reducible refine Keeps.pair (by with_reducible assumption) ?_
    | with_reducible apply Keeps.ite
    | with_reducible apply Keeps.iteP
    | with_reducible apply Keeps.foldl
    | with_reducible apply Keeps.foldlP
    | intro _

theorem postOp_keeps {a : State} (s : State) (ch : Nat) (e_ : Nat) (g : Engine) (w : Nat) (h : Keeps a s)
    : Keeps a (postOp s ch e_ g w) := by
  unfold postOp
  try dsimp only
  repeat' first
    | with_reducible assumption
    | with_reducible apply withReserve_keeps
    | with_reducible apply convEvent_keeps
    | with_reducible apply advance_keeps
    | with_reducible refine Keeps.pair (by with_reducible assumption) ?_
    | with_reducible apply Keeps.ite
    | with_reducible apply Keeps.iteP
    | with_reducible apply Keeps.foldl
    | with_reducible apply Keeps.foldlP
    | intro _

theorem rtryOp_keeps {a : State} (s : State) (ch : Nat) (e_ : Nat) (g : Engine) (w : Nat) (h : Keeps a s)
    : Keeps a (rtryOp s ch e_ g w) := by
  unfold rtryOp
  try dsimp only
  repeat' first
    | with_reducible assumption
    | with_reducible apply endFrom_keeps
    | with_reducible apply aluOp_keeps
    | with_reducible apply State_modConv_keeps
    | with_reducible refine Keeps.pair (by with_reducible assumption) ?_
    | with_reducible apply Keeps.ite
    | with_reducible apply Keeps.iteP
    | with_reducible apply Keeps.foldl
    | with_reducible apply Keeps.foldlP
    | intro _

end Sys2Proof.Machine
end

