-- ==== Sys2Proof/Laws/KeepsNms.lean ====
section
/-! SUPPORT. Every operation of Machine/Nms.lean keeps the queue, the canonical form of DRAM and what is burned. -/

namespace Sys2Proof.Machine

theorem State_modNms_keeps {a : State} (s : State) (f : Nms → Nms) (h : Keeps a s) : Keeps a (State.modNms s f) := by
  unfold State.modNms
  try dsimp only
  repeat' first
    | with_reducible assumption
    | with_reducible refine Keeps.pair (by with_reducible assumption) ?_
    | with_reducible apply Keeps.ite
    | with_reducible apply Keeps.iteP
    | with_reducible apply Keeps.foldl
    | with_reducible apply Keeps.foldlP
    | intro _
    | split
    | (simp only [keeps_mk]; with_reducible apply KeptParts.of)

theorem nmsEnd_keeps {a : State} (s : State) (k : Nat) (i : Nat) (st : Nat) (value : Nat) (reason : Nat) (area : Nat)
    (next : Nat) (h : Keeps a s) : Keeps a (nmsEnd s k i st value reason area next) := by
  unfold nmsEnd
  try dsimp only
  repeat' first
    | with_reducible assumption
    | with_reducible apply finish_keeps

theorem updEnd_keeps {a : State} (s : State) (k : Nat) (i : Nat) (op : Nat) (st : Nat) (reason : Nat) (area : Nat)
    (ver : Nat) (svn : Nat) (h : Keeps a s) : Keeps a (updEnd s k i op st reason area ver svn) := by
  unfold updEnd
  try dsimp only
  repeat' first
    | with_reducible assumption
    | with_reducible apply State_logPut_keeps
    | with_reducible apply nmsEnd_keeps

theorem nmsDurable_keeps {a : State} (s : State) (h : Keeps a s) : Keeps a (nmsDurable s) := by
  unfold nmsDurable
  try dsimp only
  repeat' first
    | with_reducible assumption
    | with_reducible apply State_modNms_keeps
    | with_reducible apply stageProfile_keeps
    | with_reducible apply stageUcode_keeps
    | with_reducible apply updEnd_keeps
    | with_reducible refine Keeps.pair (by with_reducible assumption) ?_
    | with_reducible apply Keeps.ite
    | with_reducible apply Keeps.iteP
    | with_reducible apply Keeps.foldl
    | with_reducible apply Keeps.foldlP
    | intro _
    | split

theorem loadEnd_keeps {a : State} (s : State) (k : Nat) (i : Nat) (op : Nat) (st : Nat) (reason : Nat) (b : Bytes)
    (refused : Bool) (h : Keeps a s) : Keeps a (loadEnd s k i op st reason b refused) := by
  unfold loadEnd
  try dsimp only
  repeat' first
    | with_reducible assumption
    | with_reducible apply profileRefused_keeps
    | with_reducible apply State_logPut_keeps
    | with_reducible apply nmsEnd_keeps
    | with_reducible refine Keeps.pair (by with_reducible assumption) ?_
    | with_reducible apply Keeps.ite
    | with_reducible apply Keeps.iteP
    | with_reducible apply Keeps.foldl
    | with_reducible apply Keeps.foldlP
    | intro _

theorem nmsCommitted_keeps {a : State} (s : State) (op : Nat) (h : Keeps a s) : Keeps a (nmsCommitted s op) := by
  unfold nmsCommitted
  try dsimp only
  repeat' first
    | with_reducible assumption
    | with_reducible apply State_modNms_keeps
    | with_reducible apply loadEnd_keeps
    | with_reducible refine Keeps.pair (by with_reducible assumption) ?_
    | with_reducible apply Keeps.ite
    | with_reducible apply Keeps.iteP
    | with_reducible apply Keeps.foldl
    | with_reducible apply Keeps.foldlP
    | intro _
    | split

theorem logHand_keeps {a : State} (s : State) (h : Keeps a s) : Keeps a (logHand s) := by
  unfold logHand
  try dsimp only
  repeat' first
    | with_reducible assumption
    | with_reducible apply State_jPut_keeps
    | with_reducible refine Keeps.pair (by with_reducible assumption) ?_
    | with_reducible apply Keeps.ite
    | with_reducible apply Keeps.iteP
    | with_reducible apply Keeps.foldl
    | with_reducible apply Keeps.foldlP
    | intro _
    | split
    | (simp only [keeps_mk]; with_reducible apply KeptParts.of)

theorem withInput_keeps {a : State} (s : State) (k : Nat) (i : Nat) (addr : Nat) (n : Nat) (f : State → Bytes → State)
    (h : Keeps a s) (hf_f : ∀ (t : State) (y1 : Bytes), Keeps a t → Keeps a (f t y1))
    : Keeps a (withInput s k i addr n f) := by
  unfold withInput
  try dsimp only
  repeat' first
    | with_reducible assumption
    | apply hf_f
    | with_reducible apply hostRead_keeps
    | with_reducible apply nmsEnd_keeps
    | with_reducible refine Keeps.pair (by with_reducible assumption) ?_
    | with_reducible apply Keeps.ite
    | with_reducible apply Keeps.iteP
    | with_reducible apply Keeps.foldl
    | with_reducible apply Keeps.foldlP
    | intro _
    | split

theorem jPutAll_keeps {a : State} (s : State) (l : List JRec) (h : Keeps a s) : Keeps a (jPutAll s l) := by
  unfold jPutAll
  try dsimp only
  repeat' first
    | with_reducible assumption
    | with_reducible apply State_jPut_keeps
    | with_reducible refine Keeps.pair (by with_reducible assumption) ?_
    | with_reducible apply Keeps.ite
    | with_reducible apply Keeps.iteP
    | with_reducible apply Keeps.foldl
    | with_reducible apply Keeps.foldlP
    | intro _

theorem nmsStore_keeps {a : State} (s : State) (k : Nat) (i : Nat) (op : Nat) (recs : List JRec) (b : Bytes)
    (h : Keeps a s) : Keeps a (nmsStore s k i op recs b) := by
  unfold nmsStore
  try dsimp only
  repeat' first
    | with_reducible assumption
    | with_reducible apply jPutAll_keeps
    | with_reducible apply nmsDurable_keeps
    | with_reducible apply State_modNms_keeps

theorem nmsLoad_keeps {a : State} (s : State) (k : Nat) (i : Nat) (op : Nat) (h : Keeps a s) : Keeps a (nmsLoad s k i op) := by
  unfold nmsLoad
  try dsimp only
  repeat' first
    | with_reducible assumption
    | with_reducible apply withItem_keeps
    | with_reducible apply loadEnd_keeps
    | with_reducible apply withInput_keeps
    | with_reducible apply nmsStore_keeps
    | with_reducible refine Keeps.pair (by with_reducible assumption) ?_
    | with_reducible apply Keeps.ite
    | with_reducible apply Keeps.iteP
    | with_reducible apply Keeps.foldl
    | with_reducible apply Keeps.foldlP
    | intro _

theorem updWrite_keeps {a : State} (s : State) (k : Nat) (i : Nat) (fail : Option Nat) (h : Keeps a s)
    : Keeps a (updWrite s k i fail) := by
  unfold updWrite
  try dsimp only
  repeat' first
    | with_reducible assumption
    | with_reducible apply withItem_keeps
    | with_reducible apply updEnd_keeps
    | with_reducible apply withInput_keeps
    | with_reducible apply State_incBy_keeps
    | with_reducible apply State_modNms_keeps
    | with_reducible apply setBad_keeps
    | with_reducible refine Keeps.pair (by with_reducible assumption) ?_
    | with_reducible apply Keeps.ite
    | with_reducible apply Keeps.iteP
    | with_reducible apply Keeps.foldl
    | with_reducible apply Keeps.foldlP
    | intro _
    | split
    | (simp only [keeps_mk]; with_reducible apply KeptParts.of)

theorem updActivate_keeps {a : State} (s : State) (k : Nat) (i : Nat) (ok : Bool) (h : Keeps a s)
    : Keeps a (updActivate s k i ok) := by
  unfold updActivate
  try dsimp only
  repeat' first
    | with_reducible assumption
    | with_reducible apply withItem_keeps
    | with_reducible apply updEnd_keeps
    | with_reducible apply nmsStore_keeps
    | with_reducible refine Keeps.pair (by with_reducible assumption) ?_
    | with_reducible apply Keeps.ite
    | with_reducible apply Keeps.iteP
    | with_reducible apply Keeps.foldl
    | with_reducible apply Keeps.foldlP
    | intro _
    | split

theorem updConfirm_keeps {a : State} (s : State) (k : Nat) (i : Nat) (h : Keeps a s) : Keeps a (updConfirm s k i) := by
  unfold updConfirm
  try dsimp only
  repeat' first
    | with_reducible assumption
    | with_reducible apply withItem_keeps
    | with_reducible apply updEnd_keeps
    | with_reducible apply nmsStore_keeps
    | with_reducible refine Keeps.pair (by with_reducible assumption) ?_
    | with_reducible apply Keeps.ite
    | with_reducible apply Keeps.iteP
    | with_reducible apply Keeps.foldl
    | with_reducible apply Keeps.foldlP
    | intro _

theorem nmsRollback_keeps {a : State} (s : State) (k : Nat) (i : Nat) (h : Keeps a s) : Keeps a (nmsRollback s k i) := by
  unfold nmsRollback
  try dsimp only
  repeat' first
    | with_reducible assumption
    | with_reducible apply withItem_keeps
    | with_reducible apply nmsEnd_keeps
    | with_reducible apply State_logPut_keeps
    | with_reducible refine Keeps.pair (by with_reducible assumption) ?_
    | with_reducible apply Keeps.ite
    | with_reducible apply Keeps.iteP
    | with_reducible apply Keeps.foldl
    | with_reducible apply Keeps.foldlP
    | split
    | (simp only [keeps_mk]; with_reducible apply KeptParts.fuse)
    | (show FusesKept _ _; constructor <;> (try split) <;> intros <;> (try simp_all) <;> omega)
    | intro _

theorem nmsKeyfuse_keeps {a : State} (s : State) (k : Nat) (i : Nat) (readback : Bool) (h : Keeps a s)
    : Keeps a (nmsKeyfuse s k i readback) := by
  unfold nmsKeyfuse
  try dsimp only
  repeat' first
    | with_reducible assumption
    | with_reducible apply withItem_keeps
    | with_reducible apply nmsEnd_keeps
    | with_reducible apply State_logPut_keeps
    | with_reducible apply withInput_keeps
    | with_reducible refine Keeps.pair (by with_reducible assumption) ?_
    | with_reducible apply Keeps.ite
    | with_reducible apply Keeps.iteP
    | with_reducible apply Keeps.foldl
    | with_reducible apply Keeps.foldlP
    | split
    | (simp only [keeps_mk]; with_reducible apply KeptParts.fuse)
    | (show FusesKept _ _; constructor <;> (try split) <;> intros <;> (try simp_all) <;> omega)
    | intro _

theorem nmsWrite_keeps {a : State} (s : State) (k : Nat) (i : Nat) (addr : Nat) (b : Bytes) (value : Nat) (next : Nat)
    (h : Keeps a s) : Keeps a (nmsWrite s k i addr b value next) := by
  unfold nmsWrite
  try dsimp only
  repeat' first
    | with_reducible assumption
    | with_reducible apply modItem_keeps
    | with_reducible apply hostWrite_keeps
    | with_reducible apply nmsEnd_keeps
    | with_reducible apply finish_keeps
    | with_reducible refine Keeps.pair (by with_reducible assumption) ?_
    | with_reducible apply Keeps.ite
    | with_reducible apply Keeps.iteP
    | with_reducible apply Keeps.foldl
    | with_reducible apply Keeps.foldlP
    | intro _
    | split

theorem nmsLogRead_keeps {a : State} (s : State) (k : Nat) (i : Nat) (h : Keeps a s) : Keeps a (nmsLogRead s k i) := by
  unfold nmsLogRead
  try dsimp only
  repeat' first
    | with_reducible assumption
    | with_reducible apply withItem_keeps
    | with_reducible apply nmsWrite_keeps
    | with_reducible apply nmsEnd_keeps
    | with_reducible refine Keeps.pair (by with_reducible assumption) ?_
    | with_reducible apply Keeps.ite
    | with_reducible apply Keeps.iteP
    | with_reducible apply Keeps.foldl
    | with_reducible apply Keeps.foldlP
    | intro _

theorem nmsLogNote_keeps {a : State} (s : State) (k : Nat) (i : Nat) (h : Keeps a s) : Keeps a (nmsLogNote s k i) := by
  unfold nmsLogNote
  try dsimp only
  repeat' first
    | with_reducible assumption
    | with_reducible apply withItem_keeps
    | with_reducible apply nmsEnd_keeps
    | with_reducible apply State_logPut_keeps
    | with_reducible refine Keeps.pair (by with_reducible assumption) ?_
    | with_reducible apply Keeps.ite
    | with_reducible apply Keeps.iteP
    | with_reducible apply Keeps.foldl
    | with_reducible apply Keeps.foldlP
    | intro _

theorem nmsStats_keeps {a : State} (s : State) (k : Nat) (i : Nat) (h : Keeps a s) : Keeps a (nmsStats s k i) := by
  unfold nmsStats
  try dsimp only
  repeat' first
    | with_reducible assumption
    | with_reducible apply withItem_keeps
    | with_reducible apply nmsWrite_keeps
    | with_reducible apply State_modNms_keeps
    | with_reducible refine Keeps.pair (by with_reducible assumption) ?_
    | with_reducible apply Keeps.ite
    | with_reducible apply Keeps.iteP
    | with_reducible apply Keeps.foldl
    | with_reducible apply Keeps.foldlP
    | intro _
    | split

theorem logFlush_keeps {a : State} (s : State) (h : Keeps a s) : Keeps a (logFlush s) := by
  unfold logFlush
  try dsimp only
  repeat' first
    | with_reducible assumption
    | with_reducible apply logHand_keeps
    | with_reducible refine Keeps.pair (by with_reducible assumption) ?_
    | with_reducible apply Keeps.ite
    | with_reducible apply Keeps.iteP
    | with_reducible apply Keeps.foldl
    | with_reducible apply Keeps.foldlP
    | intro _

theorem vigilWarn_keeps {a : State} (s : State) (n : Nat) (r : Nat) (h : Keeps a s) : Keeps a (vigilWarn s n r) := by
  unfold vigilWarn
  try dsimp only
  repeat' first
    | with_reducible assumption
    | with_reducible apply State_evt_keeps
    | with_reducible apply State_logPut_keeps
    | with_reducible refine Keeps.pair (by with_reducible assumption) ?_
    | with_reducible apply Keeps.ite
    | with_reducible apply Keeps.iteP
    | with_reducible apply Keeps.foldl
    | with_reducible apply Keeps.foldlP
    | intro _
    | split
    | (simp only [keeps_mk]; with_reducible apply KeptParts.of)

theorem runImage_keeps {a : State} (s : State) (a_ : Nat) (b : Bytes) (trial : Bool) (fallback : Bool) (h : Keeps a s)
    : Keeps a (runImage s a_ b trial fallback) := by
  unfold runImage
  try dsimp only
  repeat' first
    | with_reducible assumption
    | with_reducible apply State_modNms_keeps

theorem nmsBoot_keeps {a : State} (s : State) (h : Keeps a s) : Keeps a (nmsBoot s) := by
  unfold nmsBoot
  try dsimp only
  repeat' first
    | with_reducible assumption
    | with_reducible apply writeRing_keeps
    | with_reducible apply runImage_keeps
    | with_reducible apply State_evt_keeps
    | with_reducible apply State_modNms_keeps
    | with_reducible refine Keeps.pair (by with_reducible assumption) ?_
    | with_reducible apply Keeps.ite
    | with_reducible apply Keeps.iteP
    | with_reducible apply Keeps.foldl
    | with_reducible apply Keeps.foldlP
    | intro _
    | split

theorem nmsReload_keeps {a : State} (s : State) (h : Keeps a s) : Keeps a (nmsReload s) := by
  unfold nmsReload
  try dsimp only
  repeat' first
    | with_reducible assumption
    | with_reducible apply State_logPut_keeps
    | with_reducible apply profileRefused_keeps
    | with_reducible apply stageProfile_keeps
    | with_reducible apply stageUcode_keeps
    | with_reducible refine Keeps.pair (by with_reducible assumption) ?_
    | with_reducible apply Keeps.ite
    | with_reducible apply Keeps.iteP
    | with_reducible apply Keeps.foldl
    | with_reducible apply Keeps.foldlP
    | intro _
    | split

theorem vigilClear_keeps {a : State} (s : State) (n : Nat) (r : Nat) (h : Keeps a s) : Keeps a (vigilClear s n r) := by
  unfold vigilClear
  try dsimp only
  repeat' first
    | with_reducible assumption
    | with_reducible refine Keeps.pair (by with_reducible assumption) ?_
    | with_reducible apply Keeps.ite
    | with_reducible apply Keeps.iteP
    | with_reducible apply Keeps.foldl
    | with_reducible apply Keeps.foldlP
    | intro _
    | split
    | (simp only [keeps_mk]; with_reducible apply KeptParts.of)

end Sys2Proof.Machine
end

