-- ==== Sys2Proof/Laws/KeepsAttest.lean ====
section
/-! SUPPORT. Every operation of Machine/Attest.lean keeps the queue, the canonical form of DRAM and what is burned. -/

namespace Sys2Proof.Machine

theorem attest_keeps {a : State} (s : State) (k : Nat) (i : Nat) (h : Keeps a s) : Keeps a (attest s k i) := by
  unfold attest
  try dsimp only
  repeat' first
    | with_reducible assumption
    | with_reducible apply immediateWith_keeps
    | with_reducible apply hostWrite_keeps
    | with_reducible apply finish_keeps
    | with_reducible refine Keeps.pair (by with_reducible assumption) ?_
    | with_reducible apply Keeps.ite
    | with_reducible apply Keeps.iteP
    | with_reducible apply Keeps.foldl
    | with_reducible apply Keeps.foldlP
    | intro _
    | split

end Sys2Proof.Machine
end

