-- ==== Sys2Proof/Laws/KeepsFaults.lean ====
section
/-! SUPPORT. Every operation of Machine/Faults.lean keeps the queue, the canonical form of DRAM and what is burned. -/

namespace Sys2Proof.Machine

theorem State_modFlt_keeps {a : State} (s : State) (f : Flt → Flt) (h : Keeps a s) : Keeps a (State.modFlt s f) := by
  unfold State.modFlt
  try dsimp only
  repeat' first
    | with_reducible assumption
    | with_reducible refine Keeps.pair (by with_reducible assumption) ?_
    | with_reducible apply Keeps.ite
    | with_reducible apply Keeps.iteP
    | with_reducible apply Keeps.foldl
    | with_reducible apply Keeps.foldlP
    | intro _
    | split
    | (simp only [keeps_mk]; with_reducible apply KeptParts.of)

theorem killCfg_keeps {a : State} (s : State) (val : Nat) (readback : Bool) (h : Keeps a s)
    : Keeps a (killCfg s val readback) := by
  unfold killCfg
  try dsimp only
  repeat' first
    | with_reducible assumption
    | with_reducible apply State_evt_keeps
    | with_reducible refine Keeps.pair (by with_reducible assumption) ?_
    | with_reducible apply Keeps.ite
    | with_reducible apply Keeps.iteP
    | with_reducible apply Keeps.foldl
    | with_reducible apply Keeps.foldlP
    | split
    | (simp only [keeps_mk]; with_reducible apply KeptParts.fuse)
    | (show FusesKept _ _; constructor <;> (try split) <;> intros <;> (try simp_all) <;> omega)
    | intro _

theorem blowKill_keeps {a : State} (s : State) (h : Keeps a s) : Keeps a (blowKill s) := by
  unfold blowKill
  try dsimp only
  repeat' first
    | with_reducible assumption
    | with_reducible refine Keeps.pair (by with_reducible assumption) ?_
    | with_reducible apply Keeps.ite
    | with_reducible apply Keeps.iteP
    | with_reducible apply Keeps.foldl
    | with_reducible apply Keeps.foldlP
    | split
    | (simp only [keeps_mk]; with_reducible apply KeptParts.fuse)
    | (show FusesKept _ _; constructor <;> (try split) <;> intros <;> (try simp_all) <;> omega)

theorem releaseOne_keeps {a : State} (s : State) (c : Instr) (h : Keeps a s) : Keeps a (releaseOne s c) := by
  unfold releaseOne
  try dsimp only
  repeat' first
    | with_reducible assumption
    | with_reducible apply memAccess_keeps
    | with_reducible apply clientTx_keeps
    | with_reducible apply lineRx_keeps
    | with_reducible apply heartbeatSend_keeps
    | with_reducible refine Keeps.pair (by with_reducible assumption) ?_
    | with_reducible apply Keeps.ite
    | with_reducible apply Keeps.iteP
    | with_reducible apply Keeps.foldl
    | with_reducible apply Keeps.foldlP
    | intro _
    | split

theorem releasePorts_keeps {a : State} (s : State) (h : Keeps a s) : Keeps a (releasePorts s) := by
  unfold releasePorts
  try dsimp only
  repeat' first
    | with_reducible assumption
    | with_reducible apply pump_keeps
    | with_reducible apply endTakeovers_keeps
    | with_reducible apply releaseOne_keeps
    | with_reducible refine Keeps.pair (by with_reducible assumption) ?_
    | with_reducible apply Keeps.ite
    | with_reducible apply Keeps.iteP
    | with_reducible apply Keeps.foldl
    | with_reducible apply Keeps.foldlP
    | intro _
    | split
    | (simp only [keeps_mk]; with_reducible apply KeptParts.of)

theorem dropCommit_keeps {a : State} (s : State) (h : Keeps a s) : Keeps a (dropCommit s) := by
  unfold dropCommit
  try dsimp only
  repeat' first
    | with_reducible assumption
    | with_reducible apply releasePorts_keeps
    | with_reducible refine Keeps.pair (by with_reducible assumption) ?_
    | with_reducible apply Keeps.ite
    | with_reducible apply Keeps.iteP
    | with_reducible apply Keeps.foldl
    | with_reducible apply Keeps.foldlP
    | intro _
    | split
    | (simp only [keeps_mk]; with_reducible apply KeptParts.of)

theorem closeMemory_keeps {a : State} (s : State) (h : Keeps a s) : Keeps a (closeMemory s) := by
  unfold closeMemory
  try dsimp only
  repeat' first
    | with_reducible assumption
    | with_reducible apply answer_keeps
    | with_reducible refine Keeps.pair (by with_reducible assumption) ?_
    | with_reducible apply Keeps.ite
    | with_reducible apply Keeps.iteP
    | with_reducible apply Keeps.foldl
    | with_reducible apply Keeps.foldlP
    | intro _
    | split
    | (simp only [keeps_mk]; with_reducible apply KeptParts.of)

theorem finishProgram_keeps {a : State} (s : State) (h : Keeps a s) : Keeps a (finishProgram s) := by
  unfold finishProgram
  try dsimp only
  repeat' first
    | with_reducible assumption
    | with_reducible apply State_modJf_keeps
    | with_reducible refine Keeps.pair (by with_reducible assumption) ?_
    | with_reducible apply Keeps.ite
    | with_reducible apply Keeps.iteP
    | with_reducible apply Keeps.foldl
    | with_reducible apply Keeps.foldlP
    | intro _
    | split
    | (simp only [keeps_mk]; with_reducible apply KeptParts.of)

theorem clearLog_keeps {a : State} (s : State) (h : Keeps a s) : Keeps a (clearLog s) := by
  unfold clearLog
  try dsimp only
  repeat' first
    | with_reducible assumption
    | with_reducible refine Keeps.pair (by with_reducible assumption) ?_
    | with_reducible apply Keeps.ite
    | with_reducible apply Keeps.iteP
    | with_reducible apply Keeps.foldl
    | with_reducible apply Keeps.foldlP
    | intro _
    | split
    | (simp only [keeps_mk]; with_reducible apply KeptParts.of)

theorem stopJobs_keeps {a : State} (s : State) (h : Keeps a s) : Keeps a (stopJobs s) := by
  unfold stopJobs
  try dsimp only
  repeat' first
    | with_reducible assumption
    | with_reducible apply State_evt_keeps
    | with_reducible refine Keeps.pair (by with_reducible assumption) ?_
    | with_reducible apply Keeps.ite
    | with_reducible apply Keeps.iteP
    | with_reducible apply Keeps.foldl
    | with_reducible apply Keeps.foldlP
    | intro _
    | split
    | (simp only [keeps_mk]; with_reducible apply KeptParts.of)

theorem zeroJobs_keeps {a : State} (s : State) (h : Keeps a s) : Keeps a (zeroJobs s) := by
  unfold zeroJobs
  try dsimp only
  repeat' first
    | with_reducible assumption
    | with_reducible apply stopJobs_keeps
    | with_reducible refine Keeps.pair (by with_reducible assumption) ?_
    | with_reducible apply Keeps.ite
    | with_reducible apply Keeps.iteP
    | with_reducible apply Keeps.foldl
    | with_reducible apply Keeps.foldlP
    | intro _
    | split
    | (simp only [keeps_mk]; with_reducible apply KeptParts.of)

theorem cutBurn_keeps {a : State} (s : State) (h : Keeps a s) : Keeps a (cutBurn s) := by
  unfold cutBurn
  split
  · exact h
  · dsimp only
    simp only [keeps_mk]
    refine KeptParts.fuse h ?_
    split <;> exact ⟨id, id, rfl, id, le_rfl, fun k => ⟨le_rfl, k⟩, le_rfl, fun _ k => k, id, fun k _ => k⟩

theorem zeroKeys_keeps {a : State} (s : State) (h : Keeps a s) : Keeps a (zeroKeys s) := by
  unfold zeroKeys
  try dsimp only
  repeat' first
    | with_reducible assumption
    | with_reducible apply linkZero_keeps
    | with_reducible apply cutBurn_keeps
    | with_reducible apply State_modKr_keeps
    | with_reducible apply State_modConvs_keeps
    | with_reducible apply State_modNms_keeps
    | with_reducible refine Keeps.pair (by with_reducible assumption) ?_
    | with_reducible apply Keeps.ite
    | with_reducible apply Keeps.iteP
    | with_reducible apply Keeps.foldl
    | with_reducible apply Keeps.foldlP
    | intro _
    | split
    | (simp only [keeps_mk]; with_reducible apply KeptParts.of)

theorem eraseAll_keeps {a : State} (s : State) (h : Keeps a s) : Keeps a (eraseAll s) := by
  unfold eraseAll
  try dsimp only
  repeat' first
    | with_reducible assumption
    | with_reducible apply closeMemory_keeps
    | with_reducible apply flushAlm_keeps
    | with_reducible apply finishProgram_keeps
    | with_reducible apply krZero_keeps
    | with_reducible apply ledgerClear_keeps
    | with_reducible apply convZero_keeps
    | with_reducible apply almZero_keeps
    | with_reducible apply State_modJf_keeps
    | with_reducible apply clearLog_keeps
    | with_reducible apply zeroJobs_keeps
    | with_reducible apply zeroKeys_keeps

theorem alarmRise_keeps {a : State} (s : State) (source : Nat) (vg : Nat) (eraseOk : Bool) (h : Keeps a s)
    : Keeps a (alarmRise s source vg eraseOk) := by
  unfold alarmRise
  try dsimp only
  repeat' first
    | with_reducible assumption
    | with_reducible apply State_modFlt_keeps
    | with_reducible apply dropCommit_keeps
    | with_reducible apply State_modJf_keeps
    | with_reducible apply State_evt_keeps
    | with_reducible apply eraseAll_keeps
    | with_reducible refine Keeps.pair (by with_reducible assumption) ?_
    | with_reducible apply Keeps.ite
    | with_reducible apply Keeps.iteP
    | with_reducible apply Keeps.foldl
    | with_reducible apply Keeps.foldlP
    | intro _
    | split
    | (simp only [keeps_mk]; with_reducible apply KeptParts.of)

theorem raiseAlarm_keeps {a : State} (s : State) (source : Nat) (vg : Nat) (eraseOk : Bool) (h : Keeps a s)
    : Keeps a (raiseAlarm s source vg eraseOk) := by
  unfold raiseAlarm
  try dsimp only
  repeat' first
    | with_reducible assumption
    | with_reducible apply State_modFlt_keeps
    | with_reducible apply alarmRise_keeps
    | with_reducible refine Keeps.pair (by with_reducible assumption) ?_
    | with_reducible apply Keeps.ite
    | with_reducible apply Keeps.iteP
    | with_reducible apply Keeps.foldl
    | with_reducible apply Keeps.foldlP
    | intro _
    | split
    | (simp only [keeps_mk]; with_reducible apply KeptParts.of)

theorem fltKill_keeps {a : State} (s : State) (val : Nat) (h : Keeps a s) : Keeps a (fltKill s val) := by
  unfold fltKill
  try dsimp only
  repeat' first
    | with_reducible assumption
    | with_reducible apply State_evt_keeps
    | with_reducible apply State_modFlt_keeps
    | with_reducible apply blowKill_keeps
    | with_reducible apply raiseAlarm_keeps
    | with_reducible refine Keeps.pair (by with_reducible assumption) ?_
    | with_reducible apply Keeps.ite
    | with_reducible apply Keeps.iteP
    | with_reducible apply Keeps.foldl
    | with_reducible apply Keeps.foldlP
    | intro _

theorem alarmEvent_keeps {a : State} (s : State) (cause : AlarmCause) (eraseOk : Bool) (h : Keeps a s)
    : Keeps a (alarmEvent s cause eraseOk) := by
  unfold alarmEvent
  try dsimp only
  repeat' first
    | with_reducible assumption
    | with_reducible apply raiseAlarm_keeps
    | with_reducible refine Keeps.pair (by with_reducible assumption) ?_
    | with_reducible apply Keeps.ite
    | with_reducible apply Keeps.iteP
    | with_reducible apply Keeps.foldl
    | with_reducible apply Keeps.foldlP
    | intro _
    | split

theorem burnStep_keeps {a : State} (s : State) (h : Keeps a s) : Keeps a (burnStep s) := by
  unfold burnStep
  try dsimp only
  repeat' first
    | with_reducible assumption
    | with_reducible apply blowKill_keeps
    | with_reducible refine Keeps.pair (by with_reducible assumption) ?_
    | with_reducible apply Keeps.ite
    | with_reducible apply Keeps.iteP
    | with_reducible apply Keeps.foldl
    | with_reducible apply Keeps.foldlP
    | split
    | (simp only [keeps_mk]; with_reducible apply KeptParts.fuse)
    | (show FusesKept _ _; constructor <;> (try split) <;> intros <;> (try simp_all) <;> omega)
    | intro _

theorem alarmStep_keeps {a : State} (s : State) (ok : Bool) (h : Keeps a s) : Keeps a (alarmStep s ok) := by
  unfold alarmStep
  try dsimp only
  repeat' first
    | with_reducible assumption
    | with_reducible apply burnStep_keeps
    | with_reducible apply State_modFlt_keeps
    | with_reducible apply blowKill_keeps
    | with_reducible refine Keeps.pair (by with_reducible assumption) ?_
    | with_reducible apply Keeps.ite
    | with_reducible apply Keeps.iteP
    | with_reducible apply Keeps.foldl
    | with_reducible apply Keeps.foldlP
    | intro _
    | split
    | (simp only [keeps_mk]; with_reducible apply KeptParts.of)

theorem armLapse_keeps {a : State} (s : State) (h : Keeps a s) : Keeps a (armLapse s) := by
  unfold armLapse
  try dsimp only
  repeat' first
    | with_reducible assumption
    | with_reducible apply State_modFlt_keeps
    | with_reducible refine Keeps.pair (by with_reducible assumption) ?_
    | with_reducible apply Keeps.ite
    | with_reducible apply Keeps.iteP
    | with_reducible apply Keeps.foldl
    | with_reducible apply Keeps.foldlP
    | intro _

theorem powerFail_keeps {a : State} (s : State) (h : Keeps a s) : Keeps a (powerFail s) := by
  unfold powerFail
  try dsimp only
  repeat' first
    | with_reducible assumption
    | with_reducible apply State_logPut_keeps
    | with_reducible apply closeMemory_keeps
    | with_reducible apply flushAlm_keeps
    | with_reducible apply finishProgram_keeps
    | with_reducible apply clearLog_keeps
    | with_reducible apply stopJobs_keeps
    | with_reducible apply zeroKeys_keeps
    | with_reducible apply ledgerClear_keeps
    | with_reducible apply convZero_keeps
    | with_reducible apply dropCommit_keeps
    | with_reducible refine Keeps.pair (by with_reducible assumption) ?_
    | with_reducible apply Keeps.ite
    | with_reducible apply Keeps.iteP
    | with_reducible apply Keeps.foldl
    | with_reducible apply Keeps.foldlP
    | intro _
    | split
    | (simp only [keeps_mk]; with_reducible apply KeptParts.of)

theorem sweepVisit_keeps {a : State} (s : State) (parityOk : Bool) (lastUs : Nat) (h : Keeps a s)
    : Keeps a (sweepVisit s parityOk lastUs) := by
  unfold sweepVisit
  try dsimp only
  repeat' first
    | with_reducible assumption
    | with_reducible apply State_drew_keeps
    | with_reducible apply State_modSlot_keeps
    | with_reducible apply State_putSt_keeps
    | with_reducible apply State_evt_keeps
    | with_reducible apply raiseAlarm_keeps
    | with_reducible refine Keeps.pair (by with_reducible assumption) ?_
    | with_reducible apply Keeps.ite
    | with_reducible apply Keeps.iteP
    | with_reducible apply Keeps.foldl
    | with_reducible apply Keeps.foldlP
    | intro _
    | split
    | (simp only [keeps_mk]; with_reducible apply KeptParts.of)

theorem wedgeRing_keeps {a : State} (u : Nat) (s : State) (k : Nat) (h : Keeps a s) : Keeps a (wedgeRing u s k) := by
  unfold wedgeRing
  try dsimp only
  repeat' first
    | with_reducible assumption
    | with_reducible apply finish_keeps
    | with_reducible refine Keeps.pair (by with_reducible assumption) ?_
    | with_reducible apply Keeps.ite
    | with_reducible apply Keeps.iteP
    | with_reducible apply Keeps.foldl
    | with_reducible apply Keeps.foldlP
    | intro _

theorem unitWedge_keeps {a : State} (s : State) (u : Nat) (h : Keeps a s) : Keeps a (unitWedge s u) := by
  unfold unitWedge
  try dsimp only
  repeat' first
    | with_reducible assumption
    | with_reducible apply State_modFlt_keeps
    | with_reducible apply almZero_keeps
    | with_reducible apply ledgerClear_keeps
    | with_reducible apply State_modJf_keeps
    | with_reducible apply setJState_keeps
    | with_reducible apply State_modKr_keeps
    | with_reducible apply State_modNms_keeps
    | with_reducible apply wedgeRing_keeps
    | with_reducible apply State_logPut_keeps
    | with_reducible apply State_evt_keeps
    | with_reducible refine Keeps.pair (by with_reducible assumption) ?_
    | with_reducible apply Keeps.ite
    | with_reducible apply Keeps.iteP
    | with_reducible apply Keeps.foldl
    | with_reducible apply Keeps.foldlP
    | intro _

theorem outputScrub_keeps {a : State} (s : State) (h : Keeps a s) : Keeps a (outputScrub s) := by
  unfold outputScrub
  try dsimp only
  repeat' first
    | with_reducible assumption
    | with_reducible apply dramPut_keeps
    | with_reducible apply State_evt_keeps
    | with_reducible apply State_modFlt_keeps
    | with_reducible refine Keeps.pair (by with_reducible assumption) ?_
    | with_reducible apply Keeps.ite
    | with_reducible apply Keeps.iteP
    | with_reducible apply Keeps.foldl
    | with_reducible apply Keeps.foldlP
    | intro _

theorem fullReset_keeps {a : State} (s : State) (por : Bool) (h : Keeps a s) : Keeps a (fullReset s por) := by
  unfold fullReset
  try dsimp only
  repeat' first
    | with_reducible assumption
    | with_reducible apply cutBurn_keeps
    | with_reducible apply finishProgram_keeps
    | with_reducible apply State_reset_keeps
    | with_reducible refine Keeps.pair (by with_reducible assumption) ?_
    | with_reducible apply Keeps.ite
    | with_reducible apply Keeps.iteP
    | with_reducible apply Keeps.foldl
    | with_reducible apply Keeps.foldlP
    | intro _
    | split
    | (simp only [keeps_mk]; with_reducible apply KeptParts.of)

end Sys2Proof.Machine
end

