-- ==== Sys2Proof/Laws/KeepsDebug.lean ====
section
/-! SUPPORT. Every operation of Machine/Debug.lean keeps the queue, the canonical form of DRAM and what is burned. -/

namespace Sys2Proof.Machine

theorem State_modTap_keeps {a : State} (s : State) (f : TapPort → TapPort) (h : Keeps a s) : Keeps a (State.modTap s f) := by
  unfold State.modTap
  try dsimp only
  repeat' first
    | with_reducible assumption
    | with_reducible refine Keeps.pair (by with_reducible assumption) ?_
    | with_reducible apply Keeps.ite
    | with_reducible apply Keeps.iteP
    | with_reducible apply Keeps.foldl
    | with_reducible apply Keeps.foldlP
    | intro _
    | split
    | (simp only [keeps_mk]; with_reducible apply KeptParts.of)

theorem dbgCheck_keeps {a : State} (s : State) (resp : Bytes) (h : Keeps a s) : Keeps a (dbgCheck s resp) := by
  unfold dbgCheck
  try dsimp only
  repeat' first
    | with_reducible assumption
    | with_reducible apply State_logPut_keeps
    | with_reducible apply State_modTap_keeps
    | with_reducible refine Keeps.pair (by with_reducible assumption) ?_
    | with_reducible apply Keeps.ite
    | with_reducible apply Keeps.iteP
    | with_reducible apply Keeps.foldl
    | with_reducible apply Keeps.foldlP
    | intro _
    | split

theorem tapSelect_keeps {a : State} (s : State) (ir : Nat) (h : Keeps a s) : Keeps a (tapSelect s ir) := by
  unfold tapSelect
  try dsimp only
  repeat' first
    | with_reducible assumption
    | with_reducible apply State_modTap_keeps

theorem tapIdcode_keeps {a : State} (s : State) (h : Keeps a s) : Keeps a (tapIdcode s) := by
  unfold tapIdcode
  try dsimp only
  repeat' first
    | with_reducible assumption
    | with_reducible apply State_emit_keeps
    | with_reducible apply tapSelect_keeps
    | with_reducible refine Keeps.pair (by with_reducible assumption) ?_
    | with_reducible apply Keeps.ite
    | with_reducible apply Keeps.iteP
    | with_reducible apply Keeps.foldl
    | with_reducible apply Keeps.foldlP
    | intro _

theorem tapStatus_keeps {a : State} (s : State) (h : Keeps a s) : Keeps a (tapStatus s) := by
  unfold tapStatus
  try dsimp only
  repeat' first
    | with_reducible assumption
    | with_reducible apply State_emit_keeps
    | with_reducible apply tapSelect_keeps
    | with_reducible refine Keeps.pair (by with_reducible assumption) ?_
    | with_reducible apply Keeps.ite
    | with_reducible apply Keeps.iteP
    | with_reducible apply Keeps.foldl
    | with_reducible apply Keeps.foldlP
    | intro _

theorem tapChallenge_keeps {a : State} (s : State) (h : Keeps a s) : Keeps a (tapChallenge s) := by
  unfold tapChallenge
  try dsimp only
  repeat' first
    | with_reducible assumption
    | with_reducible apply State_emit_keeps
    | with_reducible apply State_modTap_keeps
    | with_reducible apply tapSelect_keeps
    | with_reducible apply State_drew_keeps
    | with_reducible refine Keeps.pair (by with_reducible assumption) ?_
    | with_reducible apply Keeps.ite
    | with_reducible apply Keeps.iteP
    | with_reducible apply Keeps.foldl
    | with_reducible apply Keeps.foldlP
    | intro _

theorem tapResponse_keeps {a : State} (s : State) (resp : Bytes) (h : Keeps a s) : Keeps a (tapResponse s resp) := by
  unfold tapResponse
  try dsimp only
  repeat' first
    | with_reducible assumption
    | with_reducible apply tapSelect_keeps
    | with_reducible apply State_modTap_keeps
    | with_reducible apply dbgCheck_keeps
    | with_reducible refine Keeps.pair (by with_reducible assumption) ?_
    | with_reducible apply Keeps.ite
    | with_reducible apply Keeps.iteP
    | with_reducible apply Keeps.foldl
    | with_reducible apply Keeps.foldlP
    | intro _

theorem tapDeny_keeps {a : State} (s : State) (code : Nat) (h : Keeps a s) : Keeps a (tapDeny s code) := by
  unfold tapDeny
  try dsimp only
  repeat' first
    | with_reducible assumption
    | with_reducible apply State_logPut_keeps
    | with_reducible apply tapSelect_keeps

theorem tapDap_keeps {a : State} (s : State) (h : Keeps a s) : Keeps a (tapDap s) := by
  unfold tapDap
  try dsimp only
  repeat' first
    | with_reducible assumption
    | with_reducible apply tapSelect_keeps
    | with_reducible apply tapDeny_keeps
    | with_reducible refine Keeps.pair (by with_reducible assumption) ?_
    | with_reducible apply Keeps.ite
    | with_reducible apply Keeps.iteP
    | with_reducible apply Keeps.foldl
    | with_reducible apply Keeps.foldlP
    | intro _

theorem tapScan_keeps {a : State} (s : State) (h : Keeps a s) : Keeps a (tapScan s) := by
  unfold tapScan
  try dsimp only
  repeat' first
    | with_reducible assumption
    | with_reducible apply tapDeny_keeps
    | with_reducible apply State_logPut_keeps
    | with_reducible apply State_modTap_keeps
    | with_reducible apply tapSelect_keeps
    | with_reducible apply closeMemory_keeps
    | with_reducible apply zeroKeys_keeps
    | with_reducible refine Keeps.pair (by with_reducible assumption) ?_
    | with_reducible apply Keeps.ite
    | with_reducible apply Keeps.iteP
    | with_reducible apply Keeps.foldl
    | with_reducible apply Keeps.foldlP
    | intro _

theorem tapBypass_keeps {a : State} (s : State) (code : Nat) (tdi : List Bool) (h : Keeps a s)
    : Keeps a (tapBypass s code tdi) := by
  unfold tapBypass
  try dsimp only
  repeat' first
    | with_reducible assumption
    | with_reducible apply State_emit_keeps
    | with_reducible apply State_modTap_keeps
    | with_reducible apply tapSelect_keeps
    | with_reducible refine Keeps.pair (by with_reducible assumption) ?_
    | with_reducible apply Keeps.ite
    | with_reducible apply Keeps.iteP
    | with_reducible apply Keeps.foldl
    | with_reducible apply Keeps.foldlP
    | intro _

end Sys2Proof.Machine
end

