-- ==== Sys2Proof/Laws/KeepsStartup.lean ====
section
/-! SUPPORT. Every operation of Machine/Startup.lean keeps the queue, the canonical form of DRAM and what is burned. -/

namespace Sys2Proof.Machine

theorem State_modBoot_keeps {a : State} (s : State) (f : Boot → Boot) (h : Keeps a s) : Keeps a (State.modBoot s f) := by
  unfold State.modBoot
  try dsimp only
  repeat' first
    | with_reducible assumption
    | with_reducible refine Keeps.pair (by with_reducible assumption) ?_
    | with_reducible apply Keeps.ite
    | with_reducible apply Keeps.iteP
    | with_reducible apply Keeps.foldl
    | with_reducible apply Keeps.foldlP
    | intro _
    | split
    | (simp only [keeps_mk]; with_reducible apply KeptParts.of)

theorem badPages_keeps {a : State} (s : State) (unc : List Nat) (h : Keeps a s) : Keeps a (badPages s unc).1 := by
  unfold badPages
  try dsimp only
  repeat' first
    | with_reducible assumption
    | with_reducible apply State_modJf_keeps
    | with_reducible apply State_incBy_keeps
    | with_reducible apply State_evt_keeps
    | with_reducible refine Keeps.pair (by with_reducible assumption) ?_
    | with_reducible apply Keeps.ite
    | with_reducible apply Keeps.iteP
    | with_reducible apply Keeps.foldl
    | with_reducible apply Keeps.foldlP
    | intro _

theorem bootLog_keeps {a : State} (s : State) (h : Keeps a s) : Keeps a (bootLog s) := by
  unfold bootLog
  try dsimp only
  repeat' first
    | with_reducible assumption
    | with_reducible apply State_logPut_keeps
    | with_reducible apply State_evt_keeps
    | with_reducible refine Keeps.pair (by with_reducible assumption) ?_
    | with_reducible apply Keeps.ite
    | with_reducible apply Keeps.iteP
    | with_reducible apply Keeps.foldl
    | with_reducible apply Keeps.foldlP
    | intro _
    | split
    | (simp only [keeps_mk]; with_reducible apply KeptParts.of)

theorem bootStop_keeps {a : State} (s : State) (h : Keeps a s) : Keeps a (bootStop s) := by
  unfold bootStop
  try dsimp only
  repeat' first
    | with_reducible assumption
    | with_reducible apply State_modBoot_keeps

theorem powerOn_keeps {a : State} (s : State) (n : Nat) (pass : Bool) (h : Keeps a s) : Keeps a (powerOn s n pass) := by
  unfold powerOn
  try dsimp only
  repeat' first
    | with_reducible assumption
    | with_reducible apply State_modBoot_keeps
    | with_reducible apply State_modChan_keeps

theorem katFence_keeps {a : State} (s : State) (bad : List Nat) (h : Keeps a s) : Keeps a (katFence s bad) := by
  unfold katFence
  try dsimp only
  repeat' first
    | with_reducible assumption
    | with_reducible apply fence_keeps
    | with_reducible refine Keeps.pair (by with_reducible assumption) ?_
    | with_reducible apply Keeps.ite
    | with_reducible apply Keeps.iteP
    | with_reducible apply Keeps.foldl
    | with_reducible apply Keeps.foldlP
    | intro _

theorem tokenGrant_keeps {a : State} (s : State) (pass : Bool) (h : Keeps a s) : Keeps a (tokenGrant s pass) := by
  unfold tokenGrant
  try dsimp only
  repeat' first
    | with_reducible assumption
    | with_reducible apply powerOn_keeps
    | with_reducible apply katFence_keeps
    | with_reducible refine Keeps.pair (by with_reducible assumption) ?_
    | with_reducible apply Keeps.ite
    | with_reducible apply Keeps.iteP
    | with_reducible apply Keeps.foldl
    | with_reducible apply Keeps.foldlP
    | intro _
    | split

theorem p0Burn_keeps {a : State} (s : State) (fuse : Bool) (h : Keeps a s) : Keeps a (p0Burn s fuse) := by
  unfold p0Burn
  try dsimp only
  repeat' first
    | with_reducible assumption
    | with_reducible apply burnStep_keeps
    | with_reducible refine Keeps.pair (by with_reducible assumption) ?_
    | with_reducible apply Keeps.ite
    | with_reducible apply Keeps.iteP
    | with_reducible apply Keeps.foldl
    | with_reducible apply Keeps.foldlP
    | intro _
    | split
    | (simp only [keeps_mk]; with_reducible apply KeptParts.of)

theorem phaseEnd_keeps {a : State} (s : State) (n : Nat) (m : Nat) (us : Nat) (h : Keeps a s) : Keeps a (phaseEnd s n m us) := by
  unfold phaseEnd
  try dsimp only
  repeat' first
    | with_reducible assumption
    | with_reducible apply State_modBoot_keeps

theorem p0_keeps {a : State} (s : State) (r : BootReport) (h : Keeps a s) : Keeps a (p0 s r) := by
  unfold p0
  try dsimp only
  repeat' first
    | with_reducible assumption
    | with_reducible apply p0Burn_keeps
    | with_reducible apply State_modBoot_keeps
    | with_reducible apply alarmEvent_keeps
    | with_reducible apply phaseEnd_keeps
    | with_reducible refine Keeps.pair (by with_reducible assumption) ?_
    | with_reducible apply Keeps.ite
    | with_reducible apply Keeps.iteP
    | with_reducible apply Keeps.foldl
    | with_reducible apply Keeps.foldlP
    | intro _

theorem fillSlot_keeps {a : State} (s : State) (n : Nat) (x : Slot) (key : Bytes) (h : Keeps a s)
    : Keeps a (fillSlot s n x key) := by
  unfold fillSlot
  try dsimp only
  repeat' first
    | with_reducible assumption
    | with_reducible apply setMaterial_keeps
    | with_reducible apply State_modSlot_keeps

theorem opSecret_keeps {a : State} (s : State) (root : Bytes) (n : Nat) (written : Bool) (w : Bytes) (h : Keeps a s)
    : Keeps a (opSecret s root n written w) := by
  unfold opSecret
  try dsimp only
  repeat' first
    | with_reducible assumption
    | with_reducible apply fillSlot_keeps
    | with_reducible refine Keeps.pair (by with_reducible assumption) ?_
    | with_reducible apply Keeps.ite
    | with_reducible apply Keeps.iteP
    | with_reducible apply Keeps.foldl
    | with_reducible apply Keeps.foldlP
    | intro _
    | split
    | (simp only [keeps_mk]; with_reducible apply KeptParts.of)

theorem p1Slots_keeps {a : State} (s : State) (root : Bytes) (h : Keeps a s) : Keeps a (p1Slots s root) := by
  unfold p1Slots
  try dsimp only
  repeat' first
    | with_reducible assumption
    | with_reducible apply fillSlot_keeps
    | with_reducible apply State_drew_keeps
    | with_reducible apply opSecret_keeps

theorem p1Vault_keeps {a : State} (s : State) (root : Bytes) (debug : Bool) (kat : Bool) (h : Keeps a s)
    : Keeps a (p1Vault s root debug kat) := by
  unfold p1Vault
  try dsimp only
  repeat' first
    | with_reducible assumption
    | with_reducible apply bootStop_keeps
    | with_reducible apply p1Slots_keeps
    | with_reducible refine Keeps.pair (by with_reducible assumption) ?_
    | with_reducible apply Keeps.ite
    | with_reducible apply Keeps.iteP
    | with_reducible apply Keeps.foldl
    | with_reducible apply Keeps.foldlP
    | intro _
    | split
    | (simp only [keeps_mk]; with_reducible apply KeptParts.of)

theorem makeRoot_keeps {a : State} (s : State) (burn : Bool) (h : Keeps a s) (hl : s.fuses.lock = false) :
    Keeps a (makeRoot s burn) := by
  unfold makeRoot
  dsimp only
  apply State_logPut_keeps
  apply State_modBoot_keeps
  simp only [keeps_mk]
  refine KeptParts.fuse (State_drew_keeps _ 32 (State_drew_keeps _ 32 h)) ?_
  constructor
  · intro k; simpa using Or.inl k
  · intro _; rfl
  · rfl
  · exact id
  · exact le_rfl
  · exact fun k => ⟨le_rfl, k⟩
  · exact le_rfl
  · exact fun _ k => k
  · intro _ e
    have := congrArg List.length e
    simp [State.draw] at this
  · intro _ k
    have k : s.fuses.lock = true := k
    rw [hl] at k; contradiction

theorem unsealRoot_keeps {a : State} (s : State) (r : BootReport) (h : Keeps a s) : Keeps a (unsealRoot s r).1 := by
  unfold unsealRoot
  dsimp only
  split
  · exact bootStop_keeps s h
  · rename_i hl
    split
    · exact p1Vault_keeps _ _ _ _ h
    · split
      · exact bootStop_keeps s h
      · have hs : Keeps a (if rootBlank s then makeRoot s r.burn else s) := by
          split
          · rename_i hb
            refine makeRoot_keeps s _ h ?_
            cases hk : s.fuses.lock with
            | false => rfl
            | true => exact absurd (by simp [lifecycle, hb, hk]) hl
          · exact h
        revert hs
        generalize (if rootBlank s then makeRoot s r.burn else s) = u
        intro hs
        split
        · exact bootStop_keeps _ hs
        · split
          · exact raiseAlarm_keeps _ _ _ _ hs
          · exact p1Vault_keeps _ _ _ _ hs

theorem p1End_keeps {a : State} (s : State) (us : Nat) (h : Keeps a s) : Keeps a (p1End s us) := by
  unfold p1End
  try dsimp only
  repeat' first
    | with_reducible assumption
    | with_reducible apply State_modBoot_keeps
    | with_reducible apply phaseEnd_keeps
    | with_reducible apply dbgCheck_keeps
    | with_reducible apply State_modTap_keeps
    | with_reducible refine Keeps.pair (by with_reducible assumption) ?_
    | with_reducible apply Keeps.ite
    | with_reducible apply Keeps.iteP
    | with_reducible apply Keeps.foldl
    | with_reducible apply Keeps.foldlP
    | intro _
    | split
    | (simp only [keeps_mk]; with_reducible apply KeptParts.of)

theorem p1Chans_keeps {a : State} (s : State) (bad : List Nat) (h : Keeps a s) : Keeps a (p1Chans s bad) := by
  unfold p1Chans
  try dsimp only
  repeat' first
    | with_reducible assumption
    | with_reducible apply powerOn_keeps
    | with_reducible apply katFence_keeps
    | with_reducible refine Keeps.pair (by with_reducible assumption) ?_
    | with_reducible apply Keeps.ite
    | with_reducible apply Keeps.iteP
    | with_reducible apply Keeps.foldl
    | with_reducible apply Keeps.foldlP
    | intro _

theorem p1_keeps {a : State} (s : State) (r : BootReport) (h : Keeps a s) : Keeps a (p1 s r) := by
  unfold p1
  try dsimp only
  repeat' first
    | with_reducible assumption
    | with_reducible apply unsealRoot_keeps
    | with_reducible apply p1End_keeps
    | with_reducible apply p1Chans_keeps
    | with_reducible refine Keeps.pair (by with_reducible assumption) ?_
    | with_reducible apply Keeps.ite
    | with_reducible apply Keeps.iteP
    | with_reducible apply Keeps.foldl
    | with_reducible apply Keeps.foldlP
    | intro _
    | split

theorem setCount_keeps {a : State} (s : State) (c : Nat) (h : Keeps a s) : Keeps a (setCount s c) := by
  unfold setCount
  try dsimp only
  repeat' first
    | with_reducible assumption
    | with_reducible refine Keeps.pair (by with_reducible assumption) ?_
    | with_reducible apply Keeps.ite
    | with_reducible apply Keeps.iteP
    | with_reducible apply Keeps.foldl
    | with_reducible apply Keeps.foldlP
    | intro _
    | split
    | (simp only [keeps_mk]; with_reducible apply KeptParts.of)

theorem mountVolatile_keeps {a : State} (s : State) (h : Keeps a s) : Keeps a (mountVolatile s) := by
  unfold mountVolatile
  try dsimp only
  repeat' first
    | with_reducible assumption
    | with_reducible apply expectLeases_keeps
    | with_reducible apply setJState_keeps
    | with_reducible apply promote_keeps
    | with_reducible apply State_jPut_keeps
    | with_reducible refine Keeps.pair (by with_reducible assumption) ?_
    | with_reducible apply Keeps.ite
    | with_reducible apply Keeps.iteP
    | with_reducible apply Keeps.foldl

theorem mountNone_keeps {a : State} {s : State} {t : State} (e : mountNone s = some t) (h : Keeps a s) : Keeps a t := by
  unfold mountNone at e
  repeat' first | (injection e with e; subst e) | contradiction | split at e | (dsimp only at e)
  repeat' first
    | with_reducible assumption
    | with_reducible apply setCount_keeps
    | with_reducible refine Keeps.pair (by with_reducible assumption) ?_
    | with_reducible apply Keeps.ite
    | with_reducible apply Keeps.iteP
    | with_reducible apply Keeps.foldl
    | with_reducible apply Keeps.foldlP
    | split
    | (simp only [keeps_mk]; with_reducible apply KeptParts.fuse)
    | (show FusesKept _ _; constructor <;> (try split) <;> intros <;> (try simp_all) <;> omega)

theorem p2_keeps {a : State} (s : State) (r : BootReport) (h : Keeps a s) : Keeps a (p2 s r) := by
  unfold p2
  try dsimp only
  repeat' first
    | with_reducible assumption
    | with_reducible apply State_modJf_keeps
    | with_reducible apply phaseEnd_keeps
    | with_reducible apply setCount_keeps
    | with_reducible apply mountVolatile_keeps
    | with_reducible apply badPages_keeps
    | with_reducible apply mountRing_keeps
    | with_reducible refine mountNone_keeps (by with_reducible assumption) ?_
    | with_reducible apply bootStop_keeps
    | with_reducible refine Keeps.pair (by with_reducible assumption) ?_
    | with_reducible apply Keeps.ite
    | with_reducible apply Keeps.iteP
    | with_reducible apply Keeps.foldl
    | with_reducible apply Keeps.foldlP
    | intro _
    | split

theorem restoreDomain_keeps {a : State} (t_ : Tab JRec) (s : State) (code : Nat) (h : Keeps a s)
    : Keeps a (restoreDomain t_ s code) := by
  unfold restoreDomain
  try dsimp only
  repeat' first
    | with_reducible assumption
    | with_reducible apply fillSlot_keeps
    | with_reducible refine Keeps.pair (by with_reducible assumption) ?_
    | with_reducible apply Keeps.ite
    | with_reducible apply Keeps.iteP
    | with_reducible apply Keeps.foldl
    | with_reducible apply Keeps.foldlP
    | intro _
    | split

theorem restoreOne_keeps {a : State} (p : State × Nat × Nat) (r : Nat × JRec) (h : Keeps a p.1) : Keeps a (restoreOne p r).1 := by
  unfold restoreOne
  try dsimp only
  repeat' first
    | with_reducible assumption
    | with_reducible apply persistAhead_keeps
    | with_reducible apply fillSlot_keeps
    | with_reducible refine Keeps.pair (by with_reducible assumption) ?_
    | with_reducible apply Keeps.ite
    | with_reducible apply Keeps.iteP
    | with_reducible apply Keeps.foldl
    | with_reducible apply Keeps.foldlP
    | intro _
    | split

theorem restoreTree_keeps {a : State} (s : State) (h : Keeps a s) : Keeps a (restoreTree s) := by
  unfold restoreTree
  try dsimp only
  repeat' first
    | with_reducible assumption
    | with_reducible apply State_putSt_keeps
    | with_reducible apply restoreDomain_keeps
    | with_reducible apply restoreOne_keeps
    | with_reducible apply State_modSlot_keeps
    | with_reducible refine Keeps.pair (by with_reducible assumption) ?_
    | with_reducible apply Keeps.ite
    | with_reducible apply Keeps.iteP
    | with_reducible apply Keeps.foldl
    | with_reducible apply Keeps.foldlP
    | intro _
    | split
    | (simp only [keeps_mk]; with_reducible apply KeptParts.of)

theorem p3_keeps {a : State} (s : State) (r : BootReport) (h : Keeps a s) : Keeps a (p3 s r) := by
  unfold p3
  try dsimp only
  repeat' first
    | with_reducible assumption
    | with_reducible apply bootLog_keeps
    | with_reducible apply nmsBoot_keeps
    | with_reducible apply restoreTree_keeps
    | with_reducible apply phaseEnd_keeps
    | with_reducible apply nmsReload_keeps
    | with_reducible apply State_modBoot_keeps
    | with_reducible refine Keeps.pair (by with_reducible assumption) ?_
    | with_reducible apply Keeps.ite
    | with_reducible apply Keeps.iteP
    | with_reducible apply Keeps.foldl
    | with_reducible apply Keeps.foldlP
    | intro _

theorem p4_keeps {a : State} (s : State) (r : BootReport) (h : Keeps a s) : Keeps a (p4 s r) := by
  unfold p4
  try dsimp only
  repeat' first
    | with_reducible assumption
    | with_reducible apply powerOn_keeps
    | with_reducible apply katFence_keeps
    | with_reducible apply State_modBoot_keeps
    | with_reducible apply phaseEnd_keeps
    | with_reducible refine Keeps.pair (by with_reducible assumption) ?_
    | with_reducible apply Keeps.ite
    | with_reducible apply Keeps.iteP
    | with_reducible apply Keeps.foldl
    | with_reducible apply Keeps.foldlP
    | intro _

theorem p5_keeps {a : State} (s : State) (r : BootReport) (h : Keeps a s) : Keeps a (p5 s r) := by
  unfold p5
  try dsimp only
  repeat' first
    | with_reducible assumption
    | with_reducible apply State_modJf_keeps
    | with_reducible apply almRestore_keeps
    | with_reducible apply State_modBoot_keeps
    | with_reducible refine Keeps.pair (by with_reducible assumption) ?_
    | with_reducible apply Keeps.ite
    | with_reducible apply Keeps.iteP
    | with_reducible apply Keeps.foldl
    | with_reducible apply Keeps.foldlP
    | intro _

end Sys2Proof.Machine
end

