-- ==== Sys2Proof/Laws/KeepsSleep.lean ====
section
/-! SUPPORT. Every operation of Machine/Sleep.lean keeps the queue, the canonical form of DRAM and what is burned. -/

namespace Sys2Proof.Machine

theorem State_modSleep_keeps {a : State} (s : State) (f : Sleep → Sleep) (h : Keeps a s) : Keeps a (State.modSleep s f) := by
  unfold State.modSleep
  try dsimp only
  repeat' first
    | with_reducible assumption
    | with_reducible refine Keeps.pair (by with_reducible assumption) ?_
    | with_reducible apply Keeps.ite
    | with_reducible apply Keeps.iteP
    | with_reducible apply Keeps.foldl
    | with_reducible apply Keeps.foldlP
    | intro _
    | split
    | (simp only [keeps_mk]; with_reducible apply KeptParts.of)

theorem sleepCtl_keeps {a : State} (s : State) (val : Nat) (h : Keeps a s) : Keeps a (sleepCtl s val) := by
  unfold sleepCtl
  try dsimp only
  repeat' first
    | with_reducible assumption
    | with_reducible apply State_modSleep_keeps
    | with_reducible refine Keeps.pair (by with_reducible assumption) ?_
    | with_reducible apply Keeps.ite
    | with_reducible apply Keeps.iteP
    | with_reducible apply Keeps.foldl
    | with_reducible apply Keeps.foldlP
    | intro _

theorem wokenCalends_keeps {a : State} (s : State) (h : Keeps a s) : Keeps a (wokenCalends s) := by
  unfold wokenCalends
  try dsimp only
  repeat' first
    | with_reducible assumption
    | with_reducible apply State_evt_keeps
    | with_reducible apply State_modSleep_keeps
    | with_reducible refine Keeps.pair (by with_reducible assumption) ?_
    | with_reducible apply Keeps.ite
    | with_reducible apply Keeps.iteP
    | with_reducible apply Keeps.foldl
    | with_reducible apply Keeps.foldlP
    | intro _
    | split

theorem durableStep_keeps {a : State} (s : State) (h : Keeps a s) : Keeps a (durableStep s) := by
  unfold durableStep
  try dsimp only
  repeat' first
    | with_reducible assumption
    | with_reducible apply nmsDurable_keeps
    | with_reducible apply pageDone_keeps
    | with_reducible apply pageProgram_keeps
    | with_reducible apply State_modJf_keeps
    | with_reducible apply eraseDone_keeps
    | with_reducible apply blockRotation_keeps
    | with_reducible refine Keeps.pair (by with_reducible assumption) ?_
    | with_reducible apply Keeps.ite
    | with_reducible apply Keeps.iteP
    | with_reducible apply Keeps.foldl
    | with_reducible apply Keeps.foldlP
    | intro _
    | split

theorem allDurable_keeps {a : State} (f : Nat) (s : State) (h : Keeps a s) : Keeps a (allDurable f s) := by
  induction f generalizing s with
  | zero => exact h
  | succ f ih =>
    unfold allDurable
    split
    · exact h
    · exact ih _ (durableStep_keeps s h)

theorem sleepRefuse_keeps {a : State} (s : State) (err : Nat) (h : Keeps a s) : Keeps a (sleepRefuse s err) := by
  unfold sleepRefuse
  try dsimp only
  repeat' first
    | with_reducible assumption
    | with_reducible apply State_evt_keeps
    | with_reducible apply State_modSleep_keeps

theorem sleepCalends_keeps {a : State} (s : State) (h : Keeps a s) : Keeps a (sleepCalends s) := by
  unfold sleepCalends
  try dsimp only
  repeat' first
    | with_reducible assumption
    | with_reducible apply State_modSleep_keeps
    | with_reducible apply sleepRefuse_keeps
    | with_reducible apply linkZero_keeps
    | with_reducible refine Keeps.pair (by with_reducible assumption) ?_
    | with_reducible apply Keeps.ite
    | with_reducible apply Keeps.iteP
    | with_reducible apply Keeps.foldl
    | with_reducible apply Keeps.foldlP
    | intro _
    | split
    | (simp only [keeps_mk]; with_reducible apply KeptParts.of)

theorem coldWake_keeps {a : State} (s : State) (h : Keeps a s) : Keeps a (coldWake s) := by
  unfold coldWake
  try dsimp only
  repeat' first
    | with_reducible assumption
    | with_reducible apply State_reset_keeps
    | with_reducible apply State_evt_keeps
    | with_reducible refine Keeps.pair (by with_reducible assumption) ?_
    | with_reducible apply Keeps.ite
    | with_reducible apply Keeps.iteP
    | with_reducible apply Keeps.foldl
    | with_reducible apply Keeps.foldlP
    | intro _
    | split
    | (simp only [keeps_mk]; with_reducible apply KeptParts.of)

theorem flushStore_keeps {a : State} (s : State) (n : Nat) (h : Keeps a s) : Keeps a (flushStore s n) := by
  unfold flushStore
  try dsimp only
  repeat' first
    | with_reducible assumption
    | with_reducible apply State_modMchan_keeps
    | with_reducible apply flushChan_keeps

theorem gateCore_keeps {a : State} (s : State) (h : Keeps a s) : Keeps a (gateCore s) := by
  unfold gateCore
  try dsimp only
  repeat' first
    | with_reducible assumption
    | with_reducible apply zeroKeys_keeps
    | with_reducible apply State_modBoot_keeps
    | with_reducible refine Keeps.pair (by with_reducible assumption) ?_
    | with_reducible apply Keeps.ite
    | with_reducible apply Keeps.iteP
    | with_reducible apply Keeps.foldl
    | with_reducible apply Keeps.foldlP
    | intro _
    | split
    | (simp only [keeps_mk]; with_reducible apply KeptParts.of)

theorem writeImage_keeps {a : State} (s : State) (h : Keeps a s) : Keeps a (writeImage s) := by
  unfold writeImage
  try dsimp only
  repeat' first
    | with_reducible assumption
    | with_reducible apply State_drew_keeps
    | with_reducible apply State_modSleep_keeps
    | with_reducible apply dramPut_keeps

theorem handLog_keeps {a : State} (s : State) (h : Keeps a s) : Keeps a (handLog s) := by
  unfold handLog
  try dsimp only
  repeat' first
    | with_reducible assumption
    | with_reducible apply logHand_keeps
    | with_reducible refine Keeps.pair (by with_reducible assumption) ?_
    | with_reducible apply Keeps.ite
    | with_reducible apply Keeps.iteP
    | with_reducible apply Keeps.foldl
    | with_reducible apply Keeps.foldlP
    | intro _

theorem makeDurable_keeps {a : State} (s : State) (h : Keeps a s) : Keeps a (makeDurable s) := by
  unfold makeDurable
  try dsimp only
  repeat' first
    | with_reducible assumption
    | with_reducible apply handLog_keeps
    | with_reducible apply allDurable_keeps
    | with_reducible refine Keeps.pair (by with_reducible assumption) ?_
    | with_reducible apply Keeps.ite
    | with_reducible apply Keeps.iteP
    | with_reducible apply Keeps.foldl
    | with_reducible apply Keeps.foldlP
    | intro _
    | split
    | (simp only [keeps_mk]; with_reducible apply KeptParts.of)

theorem sleepEntry_keeps {a : State} (s : State) (h : Keeps a s) : Keeps a (sleepEntry s) := by
  unfold sleepEntry
  try dsimp only
  repeat' first
    | with_reducible assumption
    | with_reducible apply settleWhere_keeps
    | with_reducible apply flushStore_keeps
    | with_reducible apply flushAlm_keeps
    | with_reducible apply gateCore_keeps
    | with_reducible apply writeImage_keeps
    | with_reducible apply makeDurable_keeps
    | with_reducible refine Keeps.pair (by with_reducible assumption) ?_
    | with_reducible apply Keeps.ite
    | with_reducible apply Keeps.iteP
    | with_reducible apply Keeps.foldl
    | with_reducible apply Keeps.foldlP
    | intro _

theorem restoreImage_keeps {a : State} (s : State) (root : Bytes) (v : SleepSaved) (ticks : Nat) (h : Keeps a s)
    : Keeps a (restoreImage s root v ticks) := by
  unfold restoreImage
  try dsimp only
  repeat' first
    | with_reducible assumption
    | with_reducible apply State_modSleep_keeps
    | with_reducible refine Keeps.pair (by with_reducible assumption) ?_
    | with_reducible apply Keeps.ite
    | with_reducible apply Keeps.iteP
    | with_reducible apply Keeps.foldl
    | with_reducible apply Keeps.foldlP
    | intro _
    | split
    | (simp only [keeps_mk]; with_reducible apply KeptParts.of)

theorem wakeChans_keeps {a : State} (s : State) (bad : List Nat) (h : Keeps a s) : Keeps a (wakeChans s bad) := by
  unfold wakeChans
  try dsimp only
  repeat' first
    | with_reducible assumption
    | with_reducible apply powerOn_keeps
    | with_reducible apply katFence_keeps
    | with_reducible refine Keeps.pair (by with_reducible assumption) ?_
    | with_reducible apply Keeps.ite
    | with_reducible apply Keeps.iteP
    | with_reducible apply Keeps.foldl
    | with_reducible apply Keeps.foldlP
    | intro _

theorem wakePaths_keeps {a : State} (s : State) (h : Keeps a s) : Keeps a (wakePaths s) := by
  unfold wakePaths
  try dsimp only
  repeat' first
    | with_reducible assumption
    | with_reducible apply State_modPath_keeps
    | with_reducible refine Keeps.pair (by with_reducible assumption) ?_
    | with_reducible apply Keeps.ite
    | with_reducible apply Keeps.iteP
    | with_reducible apply Keeps.foldl
    | with_reducible apply Keeps.foldlP
    | intro _

theorem wakeRing_keeps {a : State} (s : State) (h : Keeps a s) : Keeps a (wakeRing s) := by
  unfold wakeRing
  try dsimp only
  repeat' first
    | with_reducible assumption
    | with_reducible refine Keeps.pair (by with_reducible assumption) ?_
    | with_reducible apply Keeps.ite
    | with_reducible apply Keeps.iteP
    | with_reducible apply Keeps.foldl
    | with_reducible apply Keeps.foldlP
    | intro _
    | split
    | (simp only [keeps_mk]; with_reducible apply KeptParts.of)

theorem wake_keeps {a : State} (s : State) (r : BootReport) (h : Keeps a s) : Keeps a (wake s r) := by
  unfold wake
  try dsimp only
  repeat' first
    | with_reducible assumption
    | with_reducible apply State_modBoot_keeps
    | with_reducible apply restoreImage_keeps
    | with_reducible apply wakeChans_keeps
    | with_reducible apply wakePaths_keeps
    | with_reducible apply wakeRing_keeps
    | with_reducible apply coldWake_keeps
    | with_reducible refine Keeps.pair (by with_reducible assumption) ?_
    | with_reducible apply Keeps.ite
    | with_reducible apply Keeps.iteP
    | with_reducible apply Keeps.foldl
    | with_reducible apply Keeps.foldlP
    | intro _
    | split

end Sys2Proof.Machine
end

