-- ==== Sys2Proof/Laws/KeepsHostWrite.lean ====
section
/-! SUPPORT. Every operation of Machine/HostWrite.lean keeps the queue, the canonical form of DRAM and what is burned. -/

namespace Sys2Proof.Machine

theorem shareWrite_keeps {a : State} (s : State) (n : Nat) (v : Nat) (h : Keeps a s) : Keeps a (shareWrite s n v) := by
  unfold shareWrite
  try dsimp only
  repeat' first
    | with_reducible assumption
    | with_reducible apply State_putWr_keeps
    | with_reducible refine Keeps.pair (by with_reducible assumption) ?_
    | with_reducible apply Keeps.ite
    | with_reducible apply Keeps.iteP
    | with_reducible apply Keeps.foldl
    | with_reducible apply Keeps.foldlP
    | intro _
    | split
    | (simp only [keeps_mk]; with_reducible apply KeptParts.of)

theorem roleWrite_keeps {a : State} (s : State) (n : Nat) (v : Nat) (h : Keeps a s) : Keeps a (roleWrite s n v) := by
  unfold roleWrite
  try dsimp only
  repeat' first
    | with_reducible assumption
    | with_reducible apply State_putWr_keeps
    | with_reducible refine Keeps.pair (by with_reducible assumption) ?_
    | with_reducible apply Keeps.ite
    | with_reducible apply Keeps.iteP
    | with_reducible apply Keeps.foldl
    | with_reducible apply Keeps.foldlP
    | intro _
    | split
    | (simp only [keeps_mk]; with_reducible apply KeptParts.of)

theorem imgWrite_keeps {a : State} (s : State) (v : Nat) (h : Keeps a s) : Keeps a (imgWrite s v) := by
  unfold imgWrite
  try dsimp only
  repeat' first
    | with_reducible assumption
    | with_reducible apply State_modSleep_keeps
    | with_reducible apply State_putWr_keeps

theorem actWrite_keeps {a : State} (s : State) (off : Nat) (val : Nat) (v : Nat) (h : Keeps a s)
    : Keeps a (actWrite s off val v) := by
  unfold actWrite
  try dsimp only
  repeat' first
    | with_reducible assumption
    | with_reducible apply doorbell_keeps
    | with_reducible apply shareWrite_keeps
    | with_reducible apply abortRequest_keeps
    | with_reducible apply roleWrite_keeps
    | with_reducible apply linkCmd_keeps
    | with_reducible apply sleepCtl_keeps
    | with_reducible apply tierCtl_keeps
    | with_reducible apply rgnCtl_keeps
    | with_reducible apply kidCtl_keeps
    | with_reducible apply treeCtl_keeps
    | with_reducible apply eqxCtl_keeps
    | with_reducible apply almCtl_keeps
    | with_reducible apply killCfg_keeps
    | with_reducible apply fltKill_keeps
    | with_reducible apply imgWrite_keeps
    | with_reducible refine Keeps.pair (by with_reducible assumption) ?_
    | with_reducible apply Keeps.ite
    | with_reducible apply Keeps.iteP
    | with_reducible apply Keeps.foldl
    | with_reducible apply Keeps.foldlP
    | intro _

theorem refuseWrite_keeps {a : State} {s : State} {off : Nat} {v : Nat} {t : State} (e : refuseWrite s off v = some t)
    (h : Keeps a s) : Keeps a t := by
  unfold refuseWrite at e
  repeat' first | (injection e with e; subst e) | contradiction | split at e | (dsimp only at e)
  repeat' first
    | with_reducible assumption
    | with_reducible apply State_evt_keeps
    | with_reducible apply State_modRing_keeps

theorem calWrite_keeps {a : State} (s : State) (off : Nat) (v : Nat) (h : Keeps a s) : Keeps a (calWrite s off v) := by
  unfold calWrite
  try dsimp only
  repeat' first
    | with_reducible assumption
    | with_reducible refine refuseWrite_keeps (by with_reducible assumption) ?_
    | with_reducible apply State_putWr_keeps
    | with_reducible apply State_modKr_keeps
    | with_reducible refine Keeps.pair (by with_reducible assumption) ?_
    | with_reducible apply Keeps.ite
    | with_reducible apply Keeps.iteP
    | with_reducible apply Keeps.foldl
    | with_reducible apply Keeps.foldlP
    | intro _
    | split

theorem putReg_keeps {a : State} (s : State) (r : RegRow) (off : Nat) (val : Nat) (h : Keeps a s)
    : Keeps a (putReg s r off val) := by
  unfold putReg
  try dsimp only
  repeat' first
    | with_reducible assumption
    | with_reducible apply State_putWr_keeps
    | with_reducible apply calWrite_keeps
    | with_reducible apply actWrite_keeps
    | with_reducible refine Keeps.pair (by with_reducible assumption) ?_
    | with_reducible apply Keeps.ite
    | with_reducible apply Keeps.iteP
    | with_reducible apply Keeps.foldl
    | with_reducible apply Keeps.foldlP
    | intro _
    | split

end Sys2Proof.Machine
end

