-- ==== Sys2Proof/Laws/KeepsCommit.lean ====
section
/-! SUPPORT. Every operation of Machine/Commit.lean keeps the queue, the canonical form of DRAM and what is burned. -/

namespace Sys2Proof.Machine

theorem State_modTick_keeps {a : State} (s : State) (f : Tick → Tick) (h : Keeps a s) : Keeps a (State.modTick s f) := by
  unfold State.modTick
  try dsimp only
  repeat' first
    | with_reducible assumption
    | with_reducible refine Keeps.pair (by with_reducible assumption) ?_
    | with_reducible apply Keeps.ite
    | with_reducible apply Keeps.iteP
    | with_reducible apply Keeps.foldl
    | with_reducible apply Keeps.foldlP
    | intro _
    | split
    | (simp only [keeps_mk]; with_reducible apply KeptParts.of)

theorem afterCommit_keeps {a : State} (s : State) (per : Nat) (old : Option (List Band)) (slept : Nat) (h : Keeps a s)
    : Keeps a (afterCommit s per old slept) := by
  unfold afterCommit
  try dsimp only
  repeat' first
    | with_reducible assumption
    | with_reducible apply State_modTick_keeps
    | with_reducible apply almRemap_keeps
    | with_reducible apply almTick_keeps
    | with_reducible apply markTick_keeps
    | with_reducible apply linkTick_keeps
    | with_reducible apply krTick_keeps
    | with_reducible apply ledgerRelease_keeps
    | with_reducible apply convTick_keeps

theorem afterWake_keeps {a : State} (s : State) (h : Keeps a s) : Keeps a (afterWake s) := by
  unfold afterWake
  try dsimp only
  repeat' first
    | with_reducible assumption
    | with_reducible apply wokenCalends_keeps
    | with_reducible apply holdExpiry_keeps
    | with_reducible apply convExpire_keeps
    | with_reducible refine Keeps.pair (by with_reducible assumption) ?_
    | with_reducible apply Keeps.ite
    | with_reducible apply Keeps.iteP
    | with_reducible apply Keeps.foldl
    | with_reducible apply Keeps.foldlP
    | intro _

theorem muteRing_keeps {a : State} (s : State) (k : Nat) (h : Keeps a s) : Keeps a (muteRing s k) := by
  unfold muteRing
  try dsimp only
  repeat' first
    | with_reducible assumption
    | with_reducible apply State_modRing_keeps
    | with_reducible apply State_modLg_keeps

theorem commitRing_keeps {a : State} (s : State) (r : Nat) (h : Keeps a s) : Keeps a (commitRing s r) := by
  unfold commitRing
  try dsimp only
  repeat' first
    | with_reducible assumption
    | with_reducible apply State_modRing_keeps
    | with_reducible apply muteRing_keeps
    | with_reducible refine Keeps.pair (by with_reducible assumption) ?_
    | with_reducible apply Keeps.ite
    | with_reducible apply Keeps.iteP
    | with_reducible apply Keeps.foldl
    | with_reducible apply Keeps.foldlP
    | intro _

theorem commitFields_keeps {a : State} (s : State) (h : Keeps a s) : Keeps a (commitFields s) := by
  unfold commitFields
  try dsimp only
  repeat' first
    | with_reducible assumption
    | with_reducible apply State_putFc_keeps
    | with_reducible refine Keeps.pair (by with_reducible assumption) ?_
    | with_reducible apply Keeps.ite
    | with_reducible apply Keeps.iteP
    | with_reducible apply Keeps.foldl
    | with_reducible apply Keeps.foldlP
    | intro _
    | split

theorem commitRegs_keeps {a : State} (s : State) (h : Keeps a s) : Keeps a (commitRegs s) := by
  unfold commitRegs
  try dsimp only
  repeat' first
    | with_reducible assumption
    | with_reducible apply commitRing_keeps
    | with_reducible apply commitFields_keeps
    | with_reducible apply linkHbRestart_keeps
    | with_reducible refine Keeps.pair (by with_reducible assumption) ?_
    | with_reducible apply Keeps.ite
    | with_reducible apply Keeps.iteP
    | with_reducible apply Keeps.foldl
    | with_reducible apply Keeps.foldlP
    | intro _

theorem stageOne_keeps {a : State} (s : State) (k : Nat) (it : Item) (h : Keeps a s) : Keeps a (stageOne s k it) := by
  unfold stageOne
  try dsimp only
  repeat' first
    | with_reducible assumption
    | with_reducible apply stageLink_keeps
    | with_reducible apply generate_keeps
    | with_reducible apply derive_keeps
    | with_reducible apply importWrapped_keeps
    | with_reducible apply importClear_keeps
    | with_reducible apply stagePlain_keeps
    | with_reducible apply krKeyload_keeps
    | with_reducible refine Keeps.pair (by with_reducible assumption) ?_
    | with_reducible apply Keeps.ite
    | with_reducible apply Keeps.iteP
    | with_reducible apply Keeps.foldl
    | with_reducible apply Keeps.foldlP
    | intro _

theorem stageAll_keeps {a : State} (s : State) (h : Keeps a s) : Keeps a (stageAll s) := by
  unfold stageAll
  try dsimp only
  repeat' first
    | with_reducible assumption
    | with_reducible apply stageOne_keeps
    | with_reducible refine Keeps.pair (by with_reducible assumption) ?_
    | with_reducible apply Keeps.ite
    | with_reducible apply Keeps.iteP
    | with_reducible apply Keeps.foldl
    | with_reducible apply Keeps.foldlP
    | intro _

theorem countCut_keeps {a : State} (s : State) (n : Nat) (h : Keeps a s) : Keeps a (countCut s n) := by
  unfold countCut
  try dsimp only
  repeat' first
    | with_reducible assumption
    | with_reducible apply State_evt_keeps
    | with_reducible apply State_inc_keeps
    | with_reducible refine Keeps.pair (by with_reducible assumption) ?_
    | with_reducible apply Keeps.ite
    | with_reducible apply Keeps.iteP
    | with_reducible apply Keeps.foldl
    | with_reducible apply Keeps.foldlP
    | intro _

theorem endItem_keeps {a : State} (s : State) (x : Nat × Item) (h : Keeps a s) : Keeps a (endItem s x) := by
  unfold endItem
  try dsimp only
  repeat' first
    | with_reducible assumption
    | with_reducible apply countCut_keeps
    | with_reducible apply finish_keeps

theorem fenceCuts_keeps {a : State} (s : State) (cuts : List Nat) (h : Keeps a s) : Keeps a (fenceCuts s cuts) := by
  unfold fenceCuts
  try dsimp only
  repeat' first
    | with_reducible assumption
    | with_reducible apply fence_keeps
    | with_reducible refine Keeps.pair (by with_reducible assumption) ?_
    | with_reducible apply Keeps.ite
    | with_reducible apply Keeps.iteP
    | with_reducible apply Keeps.foldl
    | with_reducible apply Keeps.foldlP
    | intro _

theorem noteCut_keeps {a : State} (cuts : List Nat) (s : State) (n : Nat) (h : Keeps a s) : Keeps a (noteCut cuts s n) := by
  unfold noteCut
  try dsimp only
  repeat' first
    | with_reducible assumption
    | with_reducible apply State_modChan_keeps

theorem commitKeys_keeps {a : State} (s : State) (h : Keeps a s) : Keeps a (commitKeys s) := by
  unfold commitKeys
  try dsimp only
  repeat' first
    | with_reducible assumption
    | with_reducible apply stageAll_keeps
    | with_reducible apply cutEngines_keeps
    | with_reducible apply commitTiers_keeps
    | with_reducible apply commitVault_keeps
    | with_reducible apply endItem_keeps
    | with_reducible apply countCut_keeps
    | with_reducible apply fenceCuts_keeps
    | with_reducible apply noteCut_keeps
    | with_reducible refine Keeps.pair (by with_reducible assumption) ?_
    | with_reducible apply Keeps.ite
    | with_reducible apply Keeps.iteP
    | with_reducible apply Keeps.foldl

theorem commitImage_keeps {a : State} (s : State) (h : Keeps a s) : Keeps a (commitImage s) := by
  unfold commitImage
  try dsimp only
  repeat' first
    | with_reducible assumption
    | with_reducible apply State_modSleep_keeps
    | with_reducible apply State_putFc_keeps
    | with_reducible apply sleepRefuse_keeps
    | with_reducible refine Keeps.pair (by with_reducible assumption) ?_
    | with_reducible apply Keeps.ite
    | with_reducible apply Keeps.iteP
    | with_reducible apply Keeps.foldl
    | with_reducible apply Keeps.foldlP
    | intro _

theorem commitStaged_keeps {a : State} (s : State) (ends : Bool) (h : Keeps a s) : Keeps a (commitStaged s ends) := by
  unfold commitStaged
  try dsimp only
  repeat' first
    | with_reducible assumption
    | with_reducible apply commitRoles_keeps
    | with_reducible apply commitKeys_keeps
    | with_reducible apply nmsCommitted_keeps
    | with_reducible apply commitUcode_keeps
    | with_reducible apply commitImage_keeps
    | with_reducible apply commitAlm_keeps
    | with_reducible apply commitMemTables_keeps
    | with_reducible apply commitLink_keeps
    | with_reducible apply commitEquinox_keeps
    | with_reducible apply commitProfile_keeps
    | with_reducible apply ownedConvs_keeps
    | with_reducible apply krApply_keeps

theorem closeBudgets_keeps {a : State} (s : State) (h : Keeps a s) : Keeps a (closeBudgets s) := by
  unfold closeBudgets
  try dsimp only
  repeat' first
    | with_reducible assumption
    | with_reducible apply State_putStf_keeps
    | with_reducible apply State_putSt_keeps
    | with_reducible refine Keeps.pair (by with_reducible assumption) ?_
    | with_reducible apply Keeps.ite
    | with_reducible apply Keeps.iteP
    | with_reducible apply Keeps.foldl
    | with_reducible apply Keeps.foldlP
    | intro _

theorem eveEnd_keeps {a : State} (s : State) (h : Keeps a s) : Keeps a (eveEnd s) := by
  unfold eveEnd
  try dsimp only
  repeat' first
    | with_reducible assumption
    | with_reducible apply State_modBoot_keeps
    | with_reducible apply moveSteer_keeps
    | with_reducible apply State_evt_keeps

theorem releaseWrites_keeps {a : State} (s : State) (h : Keeps a s) : Keeps a (releaseWrites s) := by
  unfold releaseWrites
  try dsimp only
  repeat' first
    | with_reducible assumption
    | with_reducible apply putReg_keeps
    | with_reducible refine Keeps.pair (by with_reducible assumption) ?_
    | with_reducible apply Keeps.ite
    | with_reducible apply Keeps.iteP
    | with_reducible apply Keeps.foldl
    | with_reducible apply Keeps.foldlP
    | intro _
    | split
    | (simp only [keeps_mk]; with_reducible apply KeptParts.of)

theorem commitEnds_keeps {a : State} (s : State) (h : Keeps a s) : Keeps a (commitEnds s) := by
  unfold commitEnds
  try dsimp only
  repeat' first
    | with_reducible assumption
    | with_reducible apply State_modTick_keeps
    | with_reducible apply sleepCalends_keeps
    | with_reducible apply releaseWrites_keeps
    | with_reducible apply State_modNms_keeps
    | with_reducible apply releasePorts_keeps
    | with_reducible refine Keeps.pair (by with_reducible assumption) ?_
    | with_reducible apply Keeps.ite
    | with_reducible apply Keeps.iteP
    | with_reducible apply Keeps.foldl
    | with_reducible apply Keeps.foldlP
    | intro _

theorem openBudgets_keeps {a : State} (s : State) (h : Keeps a s) : Keeps a (openBudgets s) := by
  unfold openBudgets
  try dsimp only
  repeat' first
    | with_reducible assumption
    | with_reducible refine Keeps.pair (by with_reducible assumption) ?_
    | with_reducible apply Keeps.ite
    | with_reducible apply Keeps.iteP
    | with_reducible apply Keeps.foldl
    | with_reducible apply Keeps.foldlP
    | intro _
    | split
    | (simp only [keeps_mk]; with_reducible apply KeptParts.of)

theorem remaskAll_keeps {a : State} (s : State) (h : Keeps a s) : Keeps a (remaskAll s) := by
  unfold remaskAll
  try dsimp only
  repeat' first
    | with_reducible assumption
    | with_reducible apply State_drew_keeps
    | with_reducible apply State_modChan_keeps
    | with_reducible refine Keeps.pair (by with_reducible assumption) ?_
    | with_reducible apply Keeps.ite
    | with_reducible apply Keeps.iteP
    | with_reducible apply Keeps.foldl
    | with_reducible apply Keeps.foldlP
    | intro _

theorem commitRun_keeps {a : State} (s : State) (h : Keeps a s) : Keeps a (commitRun s) := by
  unfold commitRun
  try dsimp only
  repeat' first
    | with_reducible assumption
    | with_reducible apply State_modTick_keeps
    | with_reducible apply commitRegs_keeps
    | with_reducible apply commitStaged_keeps
    | with_reducible apply closeBudgets_keeps
    | with_reducible apply afterCommit_keeps
    | with_reducible apply eveEnd_keeps
    | with_reducible apply commitEnds_keeps
    | with_reducible apply openBudgets_keeps
    | with_reducible apply setQuotas_keeps
    | with_reducible apply remaskAll_keeps
    | with_reducible apply afterWake_keeps
    | with_reducible refine Keeps.pair (by with_reducible assumption) ?_
    | with_reducible apply Keeps.ite
    | with_reducible apply Keeps.iteP
    | with_reducible apply Keeps.foldl
    | with_reducible apply Keeps.foldlP
    | intro _

theorem calendsCommit_keeps {a : State} (s : State) (h : Keeps a s) : Keeps a (calendsCommit s) := by
  unfold calendsCommit
  try dsimp only
  repeat' first
    | with_reducible assumption
    | with_reducible apply powerFail_keeps
    | with_reducible apply State_modJf_keeps
    | with_reducible apply commitRun_keeps
    | with_reducible refine Keeps.pair (by with_reducible assumption) ?_
    | with_reducible apply Keeps.ite
    | with_reducible apply Keeps.iteP
    | with_reducible apply Keeps.foldl
    | with_reducible apply Keeps.foldlP
    | intro _

end Sys2Proof.Machine
end

