-- ==== Sys2Proof/Laws/KeepsTicks.lean ====
section
/-! SUPPORT. Every operation of Machine/Ticks.lean keeps the queue, the canonical form of DRAM and what is burned. -/

namespace Sys2Proof.Machine

theorem admissionClose_keeps {a : State} (s : State) (h : Keeps a s) : Keeps a (admissionClose s) := by
  unfold admissionClose
  try dsimp only
  repeat' first
    | with_reducible assumption
    | with_reducible apply State_modTick_keeps
    | with_reducible apply State_at_keeps
    | with_reducible refine Keeps.pair (by with_reducible assumption) ?_
    | with_reducible apply Keeps.ite
    | with_reducible apply Keeps.iteP
    | with_reducible apply Keeps.foldl
    | with_reducible apply Keeps.foldlP
    | intro _

theorem edgeIgnored_keeps {a : State} (s : State) (h : Keeps a s) : Keeps a (edgeIgnored s) := by
  unfold edgeIgnored
  try dsimp only
  repeat' first
    | with_reducible assumption
    | with_reducible apply State_modTick_keeps
    | with_reducible apply State_evt_keeps
    | with_reducible apply State_inc_keeps

theorem edgeEarly_keeps {a : State} (s : State) (t_ : Nat) (h : Keeps a s) : Keeps a (edgeEarly s t_) := by
  unfold edgeEarly
  try dsimp only
  repeat' first
    | with_reducible assumption
    | with_reducible apply State_modTick_keeps
    | with_reducible apply State_evt_keeps
    | with_reducible apply State_inc_keeps

theorem reachC_keeps {a : State} (s : State) (h : Keeps a s) : Keeps a (reachC s) := by
  unfold reachC
  try dsimp only
  repeat' first
    | with_reducible assumption
    | with_reducible apply State_modTick_keeps

theorem edgeOnTime_keeps {a : State} (s : State) (h : Keeps a s) : Keeps a (edgeOnTime s) := by
  unfold edgeOnTime
  try dsimp only
  repeat' first
    | with_reducible assumption
    | with_reducible apply reachC_keeps
    | with_reducible apply State_modTick_keeps

theorem keeperIssues_keeps {a : State} (s : State) (h : Keeps a s) : Keeps a (keeperIssues s) := by
  unfold keeperIssues
  try dsimp only
  repeat' first
    | with_reducible assumption
    | with_reducible apply State_modTick_keeps
    | with_reducible apply State_evt_keeps
    | with_reducible apply State_inc_keeps
    | with_reducible apply reachC_keeps
    | with_reducible refine Keeps.pair (by with_reducible assumption) ?_
    | with_reducible apply Keeps.ite
    | with_reducible apply Keeps.iteP
    | with_reducible apply Keeps.foldl
    | with_reducible apply Keeps.foldlP
    | intro _

theorem classEdge_keeps {a : State} (s : State) (t_ : Nat) (h : Keeps a s) : Keeps a (classEdge s t_) := by
  unfold classEdge
  try dsimp only
  repeat' first
    | with_reducible assumption
    | with_reducible apply State_at_keeps
    | with_reducible apply edgeIgnored_keeps
    | with_reducible apply edgeEarly_keeps
    | with_reducible apply edgeOnTime_keeps
    | with_reducible apply keeperIssues_keeps
    | with_reducible refine Keeps.pair (by with_reducible assumption) ?_
    | with_reducible apply Keeps.ite
    | with_reducible apply Keeps.iteP
    | with_reducible apply Keeps.foldl
    | with_reducible apply Keeps.foldlP
    | intro _

theorem earlyDrain_keeps {a : State} (s : State) (t_ : Nat) (h : Keeps a s) : Keeps a (earlyDrain s t_) := by
  unfold earlyDrain
  try dsimp only
  repeat' first
    | with_reducible assumption
    | with_reducible apply reachC_keeps
    | with_reducible apply State_at_keeps
    | with_reducible refine Keeps.pair (by with_reducible assumption) ?_
    | with_reducible apply Keeps.ite
    | with_reducible apply Keeps.iteP
    | with_reducible apply Keeps.foldl
    | with_reducible apply Keeps.foldlP
    | intro _
    | split

theorem firstCalends_keeps {a : State} (s : State) (h : Keeps a s) : Keeps a (firstCalends s) := by
  unfold firstCalends
  try dsimp only
  repeat' first
    | with_reducible assumption
    | with_reducible apply reachC_keeps
    | with_reducible refine Keeps.pair (by with_reducible assumption) ?_
    | with_reducible apply Keeps.ite
    | with_reducible apply Keeps.iteP
    | with_reducible apply Keeps.foldl
    | with_reducible apply Keeps.foldlP
    | intro _

theorem tickEdge_keeps {a : State} (s : State) (t_ : Nat) (h : Keeps a s) : Keeps a (tickEdge s t_) := by
  unfold tickEdge
  try dsimp only
  repeat' first
    | with_reducible assumption
    | with_reducible apply State_modSleep_keeps
    | with_reducible apply firstCalends_keeps
    | with_reducible apply classEdge_keeps
    | with_reducible refine Keeps.pair (by with_reducible assumption) ?_
    | with_reducible apply Keeps.ite
    | with_reducible apply Keeps.iteP
    | with_reducible apply Keeps.foldl
    | with_reducible apply Keeps.foldlP
    | intro _

theorem keeperCalends_keeps {a : State} (s : State) (h : Keeps a s) : Keeps a (keeperCalends s) := by
  unfold keeperCalends
  try dsimp only
  repeat' first
    | with_reducible assumption
    | with_reducible apply firstCalends_keeps
    | with_reducible apply keeperIssues_keeps
    | with_reducible refine Keeps.pair (by with_reducible assumption) ?_
    | with_reducible apply Keeps.ite
    | with_reducible apply Keeps.iteP
    | with_reducible apply Keeps.foldl
    | with_reducible apply Keeps.foldlP
    | intro _

end Sys2Proof.Machine
end

