-- ==== Sys2Proof/Laws/KeepsAdmit.lean ====
section
/-! SUPPORT. Every operation of Machine/Admit.lean keeps the queue, the canonical form of DRAM and what is burned. -/

namespace Sys2Proof.Machine

theorem scanRings_keeps {a : State} (turn : State → Nat → State × Bool) (l : List Nat) (s : State) (h : Keeps a s)
    (hf : ∀ t k, Keeps a t → Keeps a (turn t k).1) : Keeps a (scanRings turn l s).1 := by
  induction l generalizing s with
  | nil => exact h
  | cons k ks ih =>
    unfold scanRings
    split
    · rename_i e; exact Keeps.pair e (hf s k h)
    · rename_i e; exact ih _ (Keeps.pair e (hf s k h))

theorem endTurn_keeps {a : State} (s : State) (k : Nat) (d : Bytes) (st : Nat) (h : Keeps a s) : Keeps a (endTurn s k d st).1 := by
  unfold endTurn
  try dsimp only
  repeat' first
    | with_reducible assumption
    | with_reducible apply endHead_keeps

theorem bulkKey_keeps {a : State} (s : State) (m : Nat) (op : Nat) (d : Bytes) (h : Keeps a s) : Keeps a (bulkKey s m op d).1 := by
  unfold bulkKey
  try dsimp only
  repeat' first
    | with_reducible assumption
    | with_reducible apply keyDenied_keeps
    | with_reducible apply useCopy_keeps
    | with_reducible refine Keeps.pair (by with_reducible assumption) ?_
    | with_reducible apply Keeps.ite
    | with_reducible apply Keeps.iteP
    | with_reducible apply Keeps.foldl
    | with_reducible apply Keeps.foldlP
    | intro _

theorem useOne_keeps {a : State} (s : State) (n : Nat) (h : Keeps a s) : Keeps a (useOne s n).1 := by
  unfold useOne
  try dsimp only
  repeat' first
    | with_reducible assumption
    | with_reducible apply State_evt_keeps
    | with_reducible apply addUses_keeps
    | with_reducible refine Keeps.pair (by with_reducible assumption) ?_
    | with_reducible apply Keeps.ite
    | with_reducible apply Keeps.iteP
    | with_reducible apply Keeps.foldl
    | with_reducible apply Keeps.foldlP
    | intro _

theorem saKey_keeps {a : State} (s : State) (m : Nat) (tx : Bool) (d : Bytes) (h : Keeps a s) : Keeps a (saKey s m tx d).1 := by
  unfold saKey
  try dsimp only
  repeat' first
    | with_reducible assumption
    | with_reducible apply dlvRefused_keeps
    | with_reducible apply useOne_keeps
    | with_reducible refine Keeps.pair (by with_reducible assumption) ?_
    | with_reducible apply Keeps.ite
    | with_reducible apply Keeps.iteP
    | with_reducible apply Keeps.foldl
    | with_reducible apply Keeps.foldlP
    | intro _

theorem epochKey_keeps {a : State} (s : State) (m : Nat) (d : Bytes) (h : Keeps a s) : Keeps a (epochKey s m d).1 := by
  unfold epochKey
  try dsimp only
  repeat' first
    | with_reducible assumption
    | with_reducible apply frameKey_keeps
    | with_reducible refine Keeps.pair (by with_reducible assumption) ?_
    | with_reducible apply Keeps.ite
    | with_reducible apply Keeps.iteP
    | with_reducible apply Keeps.foldl
    | with_reducible apply Keeps.foldlP
    | intro _
    | split

theorem chanKeys_keeps {a : State} (s : State) (k : Nat) (m : Nat) (d : Bytes) (h : Keeps a s) : Keeps a (chanKeys s k m d).1 := by
  unfold chanKeys
  try dsimp only
  repeat' first
    | with_reducible assumption
    | with_reducible apply bulkKey_keeps
    | with_reducible apply saKey_keeps
    | with_reducible apply epochKey_keeps
    | with_reducible refine Keeps.pair (by with_reducible assumption) ?_
    | with_reducible apply Keeps.ite
    | with_reducible apply Keeps.iteP
    | with_reducible apply Keeps.foldl
    | with_reducible apply Keeps.foldlP
    | intro _

theorem startItem_keeps {a : State} (s : State) (k : Nat) (m : Nat) (d : Bytes) (p : Plan) (keys : List KeyRef)
    (h : Keeps a s) : Keeps a (startItem s k m d p keys) := by
  unfold startItem
  try dsimp only
  repeat' first
    | with_reducible assumption
    | with_reducible apply addCost_keeps
    | with_reducible apply takeHead_keeps
    | with_reducible refine Keeps.pair (by with_reducible assumption) ?_
    | with_reducible apply Keeps.ite
    | with_reducible apply Keeps.iteP
    | with_reducible apply Keeps.foldl
    | with_reducible apply Keeps.foldlP
    | intro _
    | split
    | (simp only [keeps_mk]; with_reducible apply KeptParts.of)

theorem chanHead_keeps {a : State} (s : State) (k : Nat) (m : Nat) (d : Bytes) (h : Keeps a s) : Keeps a (chanHead s k m d).1 := by
  unfold chanHead
  try dsimp only
  repeat' first
    | with_reducible assumption
    | with_reducible apply endTurn_keeps
    | with_reducible apply passRing_keeps
    | with_reducible apply chanKeys_keeps
    | with_reducible apply startItem_keeps
    | with_reducible refine Keeps.pair (by with_reducible assumption) ?_
    | with_reducible apply Keeps.ite
    | with_reducible apply Keeps.iteP
    | with_reducible apply Keeps.foldl
    | with_reducible apply Keeps.foldlP
    | intro _
    | split

theorem chanTurn_keeps {a : State} (s : State) (k : Nat) (h : Keeps a s) : Keeps a (chanTurn s k).1 := by
  unfold chanTurn
  try dsimp only
  repeat' first
    | with_reducible assumption
    | with_reducible apply withHead_keeps
    | with_reducible apply endHead_keeps
    | with_reducible apply flushHead_keeps
    | with_reducible apply fetchHead_keeps
    | with_reducible apply chanHead_keeps
    | with_reducible refine Keeps.pair (by with_reducible assumption) ?_
    | with_reducible apply Keeps.ite
    | with_reducible apply Keeps.iteP
    | with_reducible apply Keeps.foldl
    | with_reducible apply Keeps.foldlP
    | intro _
    | split

theorem passStep_keeps {a : State} (s : State) (ch : Nat) (h : Keeps a s) : Keeps a (passStep s ch) := by
  unfold passStep
  try dsimp only
  repeat' first
    | with_reducible assumption
    | with_reducible apply State_modChan_keeps

theorem startStep_keeps {a : State} (s : State) (ch : Nat) (e_ : Nat) (y : ConvStep) (h : Keeps a s)
    : Keeps a (startStep s ch e_ y) := by
  unfold startStep
  try dsimp only
  repeat' first
    | with_reducible assumption
    | with_reducible apply State_modConvs_keeps
    | with_reducible apply State_modRing_keeps
    | with_reducible apply builtinStep_keeps
    | with_reducible apply State_modChan_keeps
    | with_reducible apply startEngine_keeps
    | with_reducible refine Keeps.pair (by with_reducible assumption) ?_
    | with_reducible apply Keeps.ite
    | with_reducible apply Keeps.iteP
    | with_reducible apply Keeps.foldl
    | with_reducible apply Keeps.foldlP
    | intro _

theorem stepTurn_keeps {a : State} (s : State) (ch : Nat) (h : Keeps a s) : Keeps a (stepTurn s ch).1 := by
  unfold stepTurn
  dsimp only
  split
  · exact h
  · split
    · split
      · exact passStep_keeps s ch h
      · split
        · rename_i e
          split at e
          · exact passStep_keeps _ ch (builtinWait_keeps e h)
          · contradiction
        · exact startStep_keeps s ch _ _ h
    · exact h

theorem sourceTurn_keeps {a : State} (m : Nat) (s : State) (j : Nat) (h : Keeps a s) : Keeps a (sourceTurn m s j).1 := by
  unfold sourceTurn
  try dsimp only
  repeat' first
    | with_reducible assumption
    | with_reducible apply stepTurn_keeps
    | with_reducible apply chanTurn_keeps
    | with_reducible refine Keeps.pair (by with_reducible assumption) ?_
    | with_reducible apply Keeps.ite
    | with_reducible apply Keeps.iteP
    | with_reducible apply Keeps.foldl
    | with_reducible apply Keeps.foldlP
    | intro _

theorem channelTurn_keeps {a : State} (s : State) (m : Nat) (h : Keeps a s) : Keeps a (channelTurn s m).1 := by
  unfold channelTurn
  try dsimp only
  repeat' first
    | with_reducible assumption
    | with_reducible apply scanRings_keeps
    | with_reducible apply sourceTurn_keeps
    | with_reducible apply State_modChan_keeps
    | with_reducible refine Keeps.pair (by with_reducible assumption) ?_
    | with_reducible apply Keeps.ite
    | with_reducible apply Keeps.iteP
    | with_reducible apply Keeps.foldl
    | with_reducible apply Keeps.foldlP
    | intro _
    | split

theorem admitChannel_keeps {a : State} (s : State) (n : Nat) (h : Keeps a s) : Keeps a (admitChannel s n) := by
  unfold admitChannel
  try dsimp only
  repeat' first
    | with_reducible assumption
    | with_reducible apply scanRings_keeps
    | with_reducible apply chanTurn_keeps
    | with_reducible apply channelTurn_keeps
    | with_reducible refine Keeps.pair (by with_reducible assumption) ?_
    | with_reducible apply Keeps.ite
    | with_reducible apply Keeps.iteP
    | with_reducible apply Keeps.foldl
    | with_reducible apply Keeps.foldlP
    | intro _
    | split

theorem deferVault_keeps {a : State} (s : State) (k : Nat) (h : Keeps a s) : Keeps a (deferVault s k) := by
  unfold deferVault
  try dsimp only
  repeat' first
    | with_reducible assumption
    | with_reducible apply passRing_keeps
    | with_reducible refine Keeps.pair (by with_reducible assumption) ?_
    | with_reducible apply Keeps.ite
    | with_reducible apply Keeps.iteP
    | with_reducible apply Keeps.foldl
    | with_reducible apply Keeps.foldlP
    | intro _
    | split
    | (simp only [keeps_mk]; with_reducible apply KeptParts.of)

theorem startVault_keeps {a : State} (s : State) (k : Nat) (d : Bytes) (h : Keeps a s) : Keeps a (startVault s k d) := by
  unfold startVault
  try dsimp only
  repeat' first
    | with_reducible assumption
    | with_reducible apply takeHead_keeps
    | with_reducible apply vaultUse_keeps
    | with_reducible refine Keeps.pair (by with_reducible assumption) ?_
    | with_reducible apply Keeps.ite
    | with_reducible apply Keeps.iteP
    | with_reducible apply Keeps.foldl
    | with_reducible apply Keeps.foldlP
    | intro _
    | split
    | (simp only [keeps_mk]; with_reducible apply KeptParts.of)

theorem vaultTurn_keeps {a : State} (s : State) (k : Nat) (h : Keeps a s) : Keeps a (vaultTurn s k).1 := by
  unfold vaultTurn
  try dsimp only
  repeat' first
    | with_reducible assumption
    | with_reducible apply withHead_keeps
    | with_reducible apply endHead_keeps
    | with_reducible apply fetchHead_keeps
    | with_reducible apply deferVault_keeps
    | with_reducible apply State_evt_keeps
    | with_reducible apply endTurn_keeps
    | with_reducible apply takeHead_keeps
    | with_reducible apply startVault_keeps
    | with_reducible refine Keeps.pair (by with_reducible assumption) ?_
    | with_reducible apply Keeps.ite
    | with_reducible apply Keeps.iteP
    | with_reducible apply Keeps.foldl
    | with_reducible apply Keeps.foldlP
    | intro _
    | split

theorem admitVault_keeps {a : State} (s : State) (h : Keeps a s) : Keeps a (admitVault s) := by
  unfold admitVault
  try dsimp only
  repeat' first
    | with_reducible assumption
    | with_reducible apply scanRings_keeps
    | with_reducible apply vaultTurn_keeps
    | with_reducible refine Keeps.pair (by with_reducible assumption) ?_
    | with_reducible apply Keeps.ite
    | with_reducible apply Keeps.iteP
    | with_reducible apply Keeps.foldl
    | with_reducible apply Keeps.foldlP
    | intro _
    | split
    | (simp only [keeps_mk]; with_reducible apply KeptParts.of)

theorem krKey_keeps {a : State} (s : State) (d : Bytes) (h : Keeps a s) : Keeps a (krKey s d).1 := by
  unfold krKey
  try dsimp only
  repeat' first
    | with_reducible assumption
    | with_reducible apply useOne_keeps
    | with_reducible refine Keeps.pair (by with_reducible assumption) ?_
    | with_reducible apply Keeps.ite
    | with_reducible apply Keeps.iteP
    | with_reducible apply Keeps.foldl
    | with_reducible apply Keeps.foldlP
    | intro _

theorem unitHead_keeps {a : State} (s : State) (k : Nat) (d : Bytes) (h : Keeps a s) : Keeps a (unitHead s k d).1 := by
  unfold unitHead
  try dsimp only
  repeat' first
    | with_reducible assumption
    | with_reducible apply endTurn_keeps
    | with_reducible apply krKey_keeps
    | with_reducible apply takeHead_keeps
    | with_reducible refine Keeps.pair (by with_reducible assumption) ?_
    | with_reducible apply Keeps.ite
    | with_reducible apply Keeps.iteP
    | with_reducible apply Keeps.foldl
    | with_reducible apply Keeps.foldlP
    | intro _
    | split

theorem unitTurn_keeps {a : State} (u : Nat) (s : State) (k : Nat) (h : Keeps a s) : Keeps a (unitTurn u s k).1 := by
  unfold unitTurn
  try dsimp only
  repeat' first
    | with_reducible assumption
    | with_reducible apply withHead_keeps
    | with_reducible apply endHead_keeps
    | with_reducible apply fetchHead_keeps
    | with_reducible apply unitHead_keeps
    | with_reducible refine Keeps.pair (by with_reducible assumption) ?_
    | with_reducible apply Keeps.ite
    | with_reducible apply Keeps.iteP
    | with_reducible apply Keeps.foldl
    | with_reducible apply Keeps.foldlP
    | intro _
    | split

theorem admitUnit_keeps {a : State} (s : State) (u : Nat) (lo : Nat) (n : Nat) (rr : Nat) (put : State → Nat → State)
    (h : Keeps a s) (hf_put : ∀ (t : State) (y1 : Nat), Keeps a t → Keeps a (put t y1))
    : Keeps a (admitUnit s u lo n rr put) := by
  unfold admitUnit
  try dsimp only
  repeat' first
    | with_reducible assumption
    | apply hf_put
    | with_reducible apply scanRings_keeps
    | with_reducible apply unitTurn_keeps
    | with_reducible refine Keeps.pair (by with_reducible assumption) ?_
    | with_reducible apply Keeps.ite
    | with_reducible apply Keeps.iteP
    | with_reducible apply Keeps.foldl
    | with_reducible apply Keeps.foldlP
    | intro _
    | split

theorem admitTurn_keeps {a : State} (s : State) (owner : Owner) (t_ : Nat) (h : Keeps a s) : Keeps a (admitTurn s owner t_) := by
  unfold admitTurn
  try dsimp only
  repeat' first
    | with_reducible assumption
    | with_reducible apply endTakeovers_keeps
    | with_reducible apply State_at_keeps
    | with_reducible apply admitChannel_keeps
    | with_reducible apply admitVault_keeps
    | with_reducible apply admitUnit_keeps
    | with_reducible apply State_modNms_keeps
    | with_reducible apply State_modJf_keeps
    | with_reducible apply State_modKr_keeps
    | with_reducible refine Keeps.pair (by with_reducible assumption) ?_
    | with_reducible apply Keeps.ite
    | with_reducible apply Keeps.iteP
    | with_reducible apply Keeps.foldl
    | with_reducible apply Keeps.foldlP
    | intro _
    | split

theorem convStep_keeps {a : State} (s : State) (ch : Nat) (t_ : Nat) (h : Keeps a s) : Keeps a (convStep s ch t_) := by
  unfold convStep
  try dsimp only
  repeat' first
    | with_reducible assumption
    | with_reducible apply endTakeovers_keeps
    | with_reducible apply State_at_keeps
    | with_reducible apply channelTurn_keeps
    | with_reducible refine Keeps.pair (by with_reducible assumption) ?_
    | with_reducible apply Keeps.ite
    | with_reducible apply Keeps.iteP
    | with_reducible apply Keeps.foldl
    | with_reducible apply Keeps.foldlP
    | intro _

end Sys2Proof.Machine
end

