-- ==== Sys2Proof/Laws/KeepsBulk.lean ====
section
/-! SUPPORT. Every operation of Machine/Bulk.lean keeps the queue, the canonical form of DRAM and what is burned. -/

namespace Sys2Proof.Machine

theorem bulkRun_keeps {a : State} (s : State) (k : Nat) (i : Nat) (op : Nat) (f : BulkFn) (h : Keeps a s)
    : Keeps a (bulkRun s k i op f) := by
  unfold bulkRun
  try dsimp only
  repeat' first
    | with_reducible assumption
    | with_reducible apply withItem_keeps
    | with_reducible apply hostRead_keeps
    | with_reducible apply finish_keeps
    | with_reducible apply hostWrite_keeps
    | with_reducible refine Keeps.pair (by with_reducible assumption) ?_
    | with_reducible apply Keeps.ite
    | with_reducible apply Keeps.iteP
    | with_reducible apply Keeps.foldl
    | with_reducible apply Keeps.foldlP
    | intro _
    | split

end Sys2Proof.Machine
end

