-- ==== Sys2Proof/Laws/KeepsHostPort.lean ====
section
/-! SUPPORT. Every operation of Machine/HostPort.lean keeps the queue, the canonical form of DRAM and what is burned. -/

namespace Sys2Proof.Machine

theorem takeWrite_keeps {a : State} (s : State) (r : RegRow) (off : Nat) (val : Nat) (h : Keeps a s)
    : Keeps a (takeWrite s r off val) := by
  unfold takeWrite
  split
  · split
    · rename_i e
      split at e
      · exact refuseWrite_keeps e h
      · contradiction
    · simp only [keeps_mk]; exact KeptParts.of h
  · exact putReg_keeps s r off val h

theorem writeReg_keeps {a : State} (s : State) (off : Nat) (val : Nat) (be : Nat) (priv : Bool) (same : Nat)
    (h : Keeps a s) : Keeps a (writeReg s off val be priv same) := by
  unfold writeReg
  try dsimp only
  repeat' first
    | with_reducible assumption
    | with_reducible apply regAccess_keeps
    | with_reducible apply hostOk_keeps
    | with_reducible apply State_w1c_keeps
    | with_reducible apply State_putWr_keeps
    | with_reducible apply takeWrite_keeps
    | with_reducible refine Keeps.pair (by with_reducible assumption) ?_
    | with_reducible apply Keeps.ite
    | with_reducible apply Keeps.iteP
    | with_reducible apply Keeps.foldl
    | with_reducible apply Keeps.foldlP
    | intro _
    | split

theorem loadLatch_keeps {a : State} (s : State) (hi : Nat) (priv : Bool) (h : Keeps a s) : Keeps a (loadLatch s hi priv) := by
  unfold loadLatch
  try dsimp only
  repeat' first
    | with_reducible assumption
    | with_reducible refine Keeps.pair (by with_reducible assumption) ?_
    | with_reducible apply Keeps.ite
    | with_reducible apply Keeps.iteP
    | with_reducible apply Keeps.foldl
    | with_reducible apply Keeps.foldlP
    | intro _
    | split
    | (simp only [keeps_mk]; with_reducible apply KeptParts.of)

theorem readReg_keeps {a : State} (s : State) (off : Nat) (be : Nat) (priv : Bool) (h : Keeps a s)
    : Keeps a (readReg s off be priv) := by
  unfold readReg
  try dsimp only
  repeat' first
    | with_reducible assumption
    | with_reducible apply regAccess_keeps
    | with_reducible apply hostOk_keeps
    | with_reducible apply loadLatch_keeps
    | with_reducible refine Keeps.pair (by with_reducible assumption) ?_
    | with_reducible apply Keeps.ite
    | with_reducible apply Keeps.iteP
    | with_reducible apply Keeps.foldl
    | with_reducible apply Keeps.foldlP
    | intro _
    | split

end Sys2Proof.Machine
end

