-- ==== Sys2Proof/Tests/Slice0.lean ====
section
/-! SUPPORT. Tests: one step on small states, the well-formedness checks, and for every statement of Obligations a witness that
meets the hypotheses of each of its clauses together. Where a hypothesis is an equation with a pair whose first member the
statement only names (a state that a read or a write leaves), the witness shows the equation of the second members. -/

namespace Sys2Proof.Tests

set_option Elab.async false

open Sys2Proof Sys2Proof.Machine Sys2Proof.Claims

/-! ### States and operands -/

/-- The block in service: every phase ended, admission open, no Calends due. -/
def up : State := { State.reset with
  boot := { inReset := false, phase := 6, por := false, p4Done := true, p5Done := true }
  tick := { countSet := true, started := true, closed := false, count := 100 }, nms := { ready := true } }

/-- A descriptor: an opcode and fields at their offsets. -/
def desc (op : Nat) (fields : List (Nat × Bytes) := []) : Bytes :=
  fields.foldl (fun d f => overlay d f.1 f.2) (toLe 1 op ++ zeros 63)

/-- One item of SQ0, at index 3, in channel 0. -/
def item (d : Bytes) (keys : List KeyRef := []) : Item := { idx := 3, desc := d, ch := 0, seq := 7, keys := keys }

/-- Ring k of a state. -/
def onRing (s : State) (k : Nat) (r : Ring) : State := { s with rings := tins s.rings k r }

/-- A state with this open item in SQk. -/
def withOpen (s : State) (k : Nat) (it : Item) : State :=
  onRing (onRing s k { en := true, items := [it] }) (64 + k) { en := true }

/-- Channel n of a state. -/
def onChan (s : State) (n : Nat) (c : Chan) : State := { s with ch := tins s.ch n c }

/-- A LIVE slot with a key of 32 zero bytes. -/
def live : Slot := { state := 1, gen := 5, alg := 2, level := 2, parent := 0xFFFF, share1 := zeros 32, share2 := zeros 32 }

/-- Slot n of a state. -/
def onSlot (s : State) (n : Nat) (x : Slot) : State := { s with vault := { s.vault with slots := tins s.vault.slots n x } }

/-! ### Witnesses -/

theorem wit_StepRunsFrontCommand : ({ up with pending := [.admissionClose] } : State).pending = [.admissionClose] ∧ up.pending = [] := by
  and_intros <;> decide +kernel

theorem wit_MemoryStaysCanonical : Memory.wf up ∧ up.fuses.alarmCount ≤ 16 := by and_intros <;> decide +kernel

theorem wit_EdgesAreClassed : up.halted = false ∧ up.tick.countSet = true ∧ up.tick.started = true ∧ up.src1 = false ∧
    up.tick.due = false ∧ up.tick.fixed = false ∧ 0 < up.perEc ∧ up.tolEc + 1 < up.perEc / 2 ∧
    up.tick.t ≤ up.perEc / 2 - 1 ∧ 2 * (up.perEc / 2 - 1) < up.perEc ∧ up.perEc ≤ 2 * (up.perEc / 2) ∧ up.perEc / 2 < up.perEc - up.tolEc ∧
    up.perEc ≤ 2 * (up.perEc - up.tolEc) ∧ up.perEc - up.tolEc ≤ up.perEc + up.tolEc ∧ up.tick.keeper = false := by
  and_intros <;> decide +kernel

/-- An early edge fixed the coming Calends. -/
def earlyState : State := { up with tick := { up.tick with early := some 10, fixed := true } }

theorem wit_CalendsInstants :
    (earlyState.halted = false ∧ earlyState.tick.countSet = true ∧ earlyState.tick.early = some 10 ∧ workDone earlyState = true ∧ 10 ≤ 10) ∧
    Classing up ∧ ({ up with tick := { up.tick with started := false } } : State).tick.started = false ∧
    ({ up with tick := { up.tick with started := false } } : State).tick.due = false := by
  and_intros <;> decide +kernel

theorem wit_DoorbellsMoveTheIndex :
    (HostUp (withOpen up 0 (item (desc 0)))) ∧ ((withOpen up 0 (item (desc 0))).ring 0).en = true ∧
    ((withOpen up 0 (item (desc 0))).ring 0).halted = false ∧ (63#32).toNat % 2 ^ 16 < ((withOpen up 0 (item (desc 0))).ring 0).size ∧
    ((withOpen up 0 (item (desc 0))).ring 0).size ≤ (64#32).toNat % 2 ^ 16 ∧ (up.ring 0).en = false ∧
    ((withOpen up 0 (item (desc 0))).ring (64 + 0)).en = true ∧ ((withOpen up 0 (item (desc 0))).ring (64 + 0)).halted = false ∧
    (63#32).toNat % 2 ^ 16 < ((withOpen up 0 (item (desc 0))).ring (64 + 0)).size ∧
    ((withOpen up 0 (item (desc 0))).ring (64 + 0)).events = [] ∧
    ((withOpen up 0 (item (desc 0))).ring (64 + 0)).size ≤ (64#32).toNat % 2 ^ 16 ∧ (up.ring (64 + 0)).en = false := by
  and_intros <;> decide +kernel

/-- SQ0 with two waiting descriptors and an abort request for index 1. -/
def abortState (i : Nat) : State := onRing up 0 { en := true, tail := 2, abortReq := some (i, false), abortPend := true }

theorem wit_AbortRequestsAreDecided :
    HostUp (onRing up 0 { en := true, tail := 2 }) ∧ bit (0x80000001#32).toNat 31 = true ∧ ((onRing up 0 { en := true, tail := 2 }).ring 0).abortPend = false ∧
    (abortState 1).halted = false ∧ ((abortState 1).ring 0).en = true ∧ ((abortState 1).ring 0).abortReq = some (1, false) ∧
    ((abortState 1).ring 0).waits 1 = true ∧ ((abortState 2).ring 0).abortReq = some (2, false) ∧ outstanding (abortState 2) 0 2 = false ∧
    (onRing up 0 { en := true, items := [item (desc 0)], abortReq := some (3, false) }).tick.due = false ∧
    ((onRing up 0 { en := true, items := [item (desc 0)], abortReq := some (3, false) }).ring 0).waits 3 = false ∧
    findItem (onRing up 0 { en := true, items := [item (desc 0)], abortReq := some (3, false) }) 0 3 = some (item (desc 0)) ∧
    ((onRing up 48 { en := true, items := [item (desc 0x58)], abortReq := some (3, false) }).ring 48).waits 3 = false ∧
    findItem (onRing up 48 { en := true, items := [item (desc 0x58)], abortReq := some (3, false) }) 48 3 = some (item (desc 0x58)) ∧
    stoppable 48 (item (desc 0x58)) = false := by
  and_intros <;> decide +kernel

/-- A NOP of SQ0 with its result. -/
def doneItem : Item := { item (desc 0) with res := some { status := 0 } }
/-- CQ0 with one event that waits. -/
def evtState : State := onRing up 64 { en := true, events := [{ source := 0xF0, code := 1 }] }

theorem wit_CompletionsAreWrittenInRingOrder :
    (withOpen up 0 doneItem).halted = false ∧ (withOpen up 0 doneItem).wedged 5 = false ∧ ((withOpen up 0 doneItem).ring 0).items = [doneItem] ∧
    doneItem.res = some { status := 0 } ∧ doneItem.drop = false ∧
    ((withOpen up 0 doneItem).ring 64).en = true ∧ ((withOpen up 0 doneItem).ring 64).halted = false ∧
    (hostWrite ((withOpen up 0 doneItem).modRing 0 (fun q => { q with items := [] })) 0
      (completionBytes 0 false false (dIrq doneItem.desc) 4 (dTag doneItem.desc) doneItem.cal 0 0 [])).2 = true ∧
    ((withOpen up 0 { doneItem with drop := true }).ring 0).items = [{ doneItem with drop := true }] ∧
    evtState.halted = false ∧ evtState.wedged 5 = false ∧ (evtState.ring 64).en = true ∧ (evtState.ring 64).halted = false ∧
    (evtState.ring 64).events = [{ source := 0xF0, code := 1 }] ∧ 0 < (evtState.ring 64).free ∧
    ((grantEvents evtState 0).ring 64).events = [{ source := 0xF0, code := 1, held := true }] ∧
    (hostWrite ((grantEvents evtState 0).modRing 64 (fun q => { q with events := [] })) 0
      (completionBytes 0 false false false 0xFFFF 0 0 0xF0 1 [])).2 = true := by
  and_intros <;> decide +kernel

theorem wit_DmaErrorsEndItemsOrHaltRings :
    (withOpen up 0 (item (desc 1))).halted = false ∧ ((withOpen up 0 (item (desc 1))).ring 0).en = true ∧
    findItem (withOpen up 0 (item (desc 1))) 0 3 = some (item (desc 1)) ∧ dOp (item (desc 1)).desc ≠ 0x20 ∧ dOp (item (desc 1)).desc ≠ 0x21 ∧
    ((withOpen up 0 doneItem).ring 0).items = [doneItem] ∧ doneItem.res.isSome = true := by
  and_intros <;> decide +kernel

theorem bxor_length (a b : Bytes) : (bxor a b).length = a.length := by
  induction a generalizing b with
  | nil => simp [bxor]
  | cons x xs ih => cases b <;> simp [bxor, ih]

theorem toLe_len (n v : Nat) : (toLe n v).length = n := by
  induction n generalizing v with
  | zero => simp [toLe]
  | succ n ih => simp [toLe, ih]

/-- GCM_DEC with a tag of 17 bytes, which no 16-byte tag equals. -/
def badTag : Bytes := desc 3 [(0x39, [17])]

theorem gcmDec_badTag (key : Bytes) : gcmDecFn key badTag (zeros 17) = none := by
  have h17 : bTagLen badTag = 17 := by decide
  have h0 : bAadLen badTag + bTextLen badTag = 0 := by decide
  simp only [gcmDecFn, h17, h0]
  refine if_neg (fun h => ?_)
  have := congrArg List.length h
  simp [gcmTag, bxor_length, sub, zeros] at this
  revert this
  generalize ghash _ _ = g
  have h16 : (toBe 16 g.toNat).length = 16 := by simp [toBe]; exact toLe_len 16 _
  omega

/-- A CTR item of 16 bytes at address 0. -/
def ctrItem : Item := item (desc 1 [(0x20, toLe 4 16)])
/-- The line at address 0 with an uncorrectable error; a tag area there. -/
def badLine : State := { withOpen up 0 ctrItem with dmErr := [(0, 2)] }
def areaLine : State := { withOpen up 0 ctrItem with mem := { up.mem with regions := [(0, { en := true, base := 5, size := 1 })] } }

theorem wit_BulkOperationsComplete :
    (∀ op ∈ [1, 2, 3, 4, 5, 6, 7, 8, 9, 10, 11], Works (withOpen up 0 (item (desc op))) 0 3 op (item (desc op)) ∧
      (hostRead (withOpen up 0 (item (desc op))) (bSrc (desc op)) (bulkIn op (desc op))).2 = .ok (zeros (bulkIn op (desc op)))) ∧
    (∃ out res, ctrFn (zeros 16) (desc 1) [] = some (out, res)) ∧
    Works (withOpen up 0 (item badTag)) 0 3 3 (item badTag) ∧
    (hostRead (withOpen up 0 (item badTag)) (bSrc badTag) (bulkIn 3 badTag)).2 = .ok (zeros 17) ∧ (∀ key, gcmDecFn key badTag (zeros 17) = none) ∧
    Works badLine 0 3 1 ctrItem ∧ (hostRead badLine (bSrc ctrItem.desc) (bulkIn 1 ctrItem.desc)).2 = .poison ∧
    Works areaLine 0 3 1 ctrItem ∧ (hostRead areaLine (bSrc ctrItem.desc) (bulkIn 1 ctrItem.desc)).2 = .err := by
  refine ⟨?_, ⟨_, _, rfl⟩, ?_, ?_, gcmDec_badTag, ?_, ?_, ?_, ?_⟩ <;> and_intros <;> decide +kernel

theorem wit_NopCompletesOk : Open (withOpen up 0 (item (desc 0))) 0 3 0 (item (desc 0)) := by
  and_intros <;> decide +kernel

/-- A Calends instant is reached. -/
def dueState : State := { up with tick := { up.tick with due := true } }

theorem wit_RegisterWritesReachTheirRegister :
    HostUp up ∧ HostUp dueState ∧ up.tick.due = false ∧ dueState.tick.due = true ∧ WriteTaken 0x104 false ∧ ((regRow 0x104).map (·.kind) = some .cal) ∧
    WriteTaken 0x20 false ∧ ((regRow 0x20).map (·.kind) = some .imm) ∧ WriteTaken 0x10000 true ∧ ((regRow 0x10000).map (·.kind) = some .hold) ∧
    ((regRow 0x104).elim true (fun r => decide (refuseWrite (hostOk up 0) 0x104 (1000 &&& r.mask) = none))) = true ∧
    ((regRow 0x104).elim true (fun r => decide (refuseWrite (hostOk dueState 0) 0x104 (1000 &&& r.mask) = none))) = true ∧
    WriteTaken 0x5800 false ∧ (regRow 0x5800).map (·.kind) = some .cal ∧
    ((regRow 0x5800).elim true (fun r => (refuseWrite (hostOk up 0) 0x5800 (0 &&& r.mask)).isSome)) = true ∧
    regRow 0x4 = none ∧ WriteTaken 0x4 false ∧ WriteTaken 0x11000 true ∧ (regRow 0x11000).map (·.kind) = some .ro := by
  and_intros <;> decide +kernel

theorem wit_RefusedAccessesAnswerError :
    hostDead State.reset = true ∧ hostDead up = false ∧ accessError true 0x30000 15 true = 3 ∧ accessError false 2 15 false = 1 ∧
    accessError false 0x10000 15 false = 2 ∧ accessError false 0x22000 15 true = 4 ∧ privDenied 2 false = false ∧ privDenied 0x10000 false = true ∧
    up.halted = false ∧ up.log.buf.length < 16384 ∧ up.log.lost = 0 := by
  and_intros <;> decide +kernel

theorem wit_EventBitsClearByOne : hostDead up = false ∧ WriteTaken 0x108 false ∧ (regRow 0x108).map (·.kind) = some .evt := by
  and_intros <;> decide +kernel

theorem wit_LowReadsLatchTheirHighHalf : hostDead up = false := by decide

/-- A block before the end of P1, its host port open. -/
def beforeP1 : State := { up with boot := { up.boot with phase := 1 } }

theorem wit_StageWritesStageTheHoldingCopy : HostUp up ∧ bit (0x80000001#32).toNat 31 = true ∧ up.tick.due = false ∧ pastP1 up = true ∧
    (1 : Fin 256).val ≠ 0 ∧ HostUp beforeP1 ∧ beforeP1.tick.due = false ∧ pastP1 beforeP1 = false ∧ up.alm.en = false ∧
    HostUp { up with alm := { up.alm with en := true } } ∧ ({ up with alm := { up.alm with en := true } } : State).alm.en = true ∧
    bit (0x80000001#32).toNat 0 = true ∧ HostUp dueState ∧ dueState.tick.due = true := by
  and_intros <;> decide +kernel

theorem wit_CalendsCommits : dueState.halted = false ∧ dueState.tick.due = true ∧ markPassed dueState = false ∧ dueState.lateWr = [] ∧
    up.tick.due = false := by
  and_intros <;> decide +kernel

theorem wit_HeldFramesExpire : up.halted = false := by decide

/-- Ring k with one descriptor that was read. -/
def headState (s : State) (k : Nat) (d : Bytes) : State := onRing (onRing s k { en := true, tail := 1, fetched := some d }) (64 + k) { en := true }

/-- Channel 0 with power. -/
def powered : State := onChan up 0 { up.chan 0 with powered := true }

/-- What a row of admission at time 64 starts from. -/
def adm (s : State) : State := endTakeovers (s.at 64)

/-- The check value of the root of 32 zero bytes. -/
@[irreducible] def rootTag : Bytes := rootCheck (zeros 32)

/-- A ROOTED block: the root bank is burned. -/
def rooted : State := { up with fuses := { share1 := zeros 32, share2 := zeros 32, check := rootTag, lock := true } }

/-- A ROOTED block whose slot 0x020 may unwrap a ring key. -/
def ringKeyed : State := onSlot rooted 0x20 { live with ops := 0x20, domain := 1, useLimit := noLimit }
/-- KR_KEYLOAD under slot 0x020. -/
def keyload : Bytes := desc 0x78 [(8, toLe 2 0x20), (0x18, [56])]

theorem wit_DescriptorsAreAdmitted :
    (powered.halted = false ∧ HeadReady (adm (headState powered 0 (desc 0))) 0 (desc 0) ∧ (adm (headState powered 0 (desc 0))).serverOf (0 : Fin 16) = some 0 ∧
      ((adm (headState powered 0 (desc 0))).chan 0).rr = 0 ∧ ((adm (headState powered 0 (desc 0))).chan 0).role = 1 ∧
      admitOpen (adm (headState powered 0 (desc 0))) (adm (headState powered 0 (desc 0))).tick.t = true ∧
      ((adm (headState powered 0 (desc 0))).chan 0).powered = true ∧ ((adm (headState powered 0 (desc 0))).chan 0).needKat = false ∧
      ((adm (headState powered 0 (desc 0))).ring 0).passed = false ∧
      planOf (adm (headState powered 0 (desc 0))) 0 (dOp (desc 0)) (desc 0) = {} ∧
      chanForm (adm (headState powered 0 (desc 0))) 0 0 (desc 0) {} = stOK ∧
      costFits (adm (headState powered 0 (desc 0))) 0 (adm (headState powered 0 (desc 0))).tick.t {} = true ∧
      dmaFits (adm (headState powered 0 (desc 0))) (adm (headState powered 0 (desc 0))).tick.t 0 0 = true ∧
      (∀ a : State, chanKeys a 0 0 (desc 0) = (a, .ok, []))) ∧
    (up.halted = false ∧ UnitTurn (adm (headState up 56 (desc 0x63))) .nms 4 56 ∧ HeadReady (adm (headState up 56 (desc 0x63))) 56 (desc 0x63) ∧
      UnitForm (adm (headState up 56 (desc 0x63))) 4 56 (desc 0x63) ∧ dOp (desc 0x63) ≠ 0x78) ∧
    (UnitTurn (adm up) .journal 2 60 ∧ UnitTurn (adm up) .krysa 3 62) ∧
    (HeadReady (adm (headState ringKeyed 62 keyload)) 62 keyload ∧ UnitForm (adm (headState ringKeyed 62 keyload)) 3 62 keyload ∧ dOp keyload = 0x78 ∧
      (krKey (adm (headState ringKeyed 62 keyload)) keyload).2 = (.ok, [{ slot := 0x20, gen := 5 }])) ∧
    (48 ≤ (adm (headState up 48 (desc 0x4A))).vault.rr ∧ (adm (headState up 48 (desc 0x4A))).vault.rr < 56 ∧
      HeadReady (adm (headState up 48 (desc 0x4A))) (adm (headState up 48 (desc 0x4A))).vault.rr (desc 0x4A) ∧
      admitOpen (adm (headState up 48 (desc 0x4A))) (adm (headState up 48 (desc 0x4A))).tick.t = true ∧
      vaultForm (adm (headState up 48 (desc 0x4A))) (desc 0x4A) = stOK ∧ dOp (desc 0x4A) ≠ 0 ∧
      vaultFull (adm (headState up 48 (desc 0x4A))) (desc 0x4A) = false) := by
  have h0 : dOp (desc 0) = 0 := by decide
  refine ⟨?_, ?_, ⟨.journal ?_ ?_, .krysa ?_ ?_⟩, ?_, ?_⟩ <;> and_intros <;>
    first | decide +kernel | rfl | exact .nms (by decide) (by decide) (by decide) | (intro a; simp [chanKeys, h0])

theorem wit_FailedChannelsAreFenced :
    (powered.halted = false ∧ (powered.chan 0).powered = true ∧ (powered.chan 0).fenced = false ∧ (powered.chan 0).role ≠ 0 ∧
      1 ≤ (9#4).toNat ∧ (9#4).toNat ≤ 9) ∧
    (((onChan up 0 { up.chan 0 with needKat := true }).chan 0).needKat = true ∧ ((onChan up 0 { up.chan 0 with needKat := true }).chan 0).role ≠ 0) ∧
    (((onChan up 15 { up.chan 15 with powered := true }).chan 15).role = 4 ∧ ((onChan up 15 { up.chan 15 with powered := true }).chan 15).powered = true ∧
      ∀ j, j < 15 → ((onChan up 15 { up.chan 15 with powered := true }).chan j).role ≠ 4) := by
  and_intros <;> decide +kernel

/-- The command kill is armed in this tick. -/
def armedState : State := { rooted with flt := { armed := some 100 } }

theorem wit_KillIsArmedAndFired :
    (HostUp rooted ∧ bit (0x80000003#32).toNat 31 = true ∧ lifecycle rooted = 1 ∧ rooted.vault.carnival = false ∧ rooted.boot.debug = false ∧
      rooted.fuses.killNWritten = false ∧ rooted.fuses.killNDamaged = false ∧ (0x80000003#32).toNat % 16 ≠ 0) ∧
    lifecycle up ≠ 1 ∧ ((0#32).toNat ≠ 0x41524D44 ∧ (0#32).toNat ≠ 0x4B494C4C) ∧ killArmed up = false ∧
    (HostUp armedState ∧ killArmed armedState = true ∧ lifecycle armedState = 1 ∧ armedState.vault.carnival = false ∧ armedState.boot.debug = false ∧
      armedState.vault.fuseBusy = none) := by
  and_intros <;> decide +kernel

/-- The alarm has risen; a step, the kill of a failed erase, or a scrub may be due. -/
def alarmed (step kill scrub : Bool) : State := { up with
  boot := { up.boot with alarm := true }, flt := { stepDue := step, killDue := kill, scrubBusy := scrub, scrub := [(0x1000, 2)] } }

theorem wit_AlarmErasesAndBurns :
    (1 ≤ (12 : Fin 16).val ∧ (12 : Fin 16).val ≤ 12 ∧ up.boot.inReset = false ∧ up.boot.asleep = false ∧ up.boot.alarm = false ∧ up.boot.pfail = false ∧
      up.vault.fuseBusy = none) ∧
    ({ up with vault := { up.vault with drbgUp := true } } : State).vault.drbgUp = true ∧
    ((alarmed true false true).boot.alarm = true ∧ (alarmed true false true).boot.inReset = false ∧ (alarmed true false true).flt.stepDue = true ∧
      (alarmed true false true).flt.killDue = false ∧ (alarmed true false true).boot.pfail = false ∧ (alarmed true false true).flt.scrubBusy = true ∧
      Memory.wf (alarmed true false true)) ∧
    ((alarmed false true true).flt.stepDue = false ∧ (alarmed false true true).flt.killDue = true) := by
  and_intros <;> decide +kernel

/-- A ROOTED block asleep whose image lies in DRAM. -/
def asleepState : State := { rooted with
  boot := { rooted.boot with asleep := true }, sleep := { ret := some { wakeTicks := 1 }, saved := some { bytes := [0, 0], addr := 64 }, edges := 1 } }

theorem wakeRoot_asleep : wakeRoot asleepState true = some (zeros 32) := by
  have hl : lifecycle asleepState = 1 := by decide +kernel
  have hc : asleepState.vault.carnival = false := by decide +kernel
  have hs : asleepState.fuses.share1 ≠ [] := by decide +kernel
  have hb : bxor asleepState.fuses.share1 asleepState.fuses.share2 = zeros 32 := by decide +kernel
  have hr : asleepState.fuses.check = rootTag := rfl
  have ht : rootTag = rootCheck (zeros 32) := by unfold rootTag; rfl
  simp [wakeRoot, hl, hc, hs, hb, hr, ht]

theorem wit_SleepAndWake :
    HostUp up ∧ up.tick.due = false ∧ HostUp dueState ∧ dueState.tick.due = true ∧
    ({ up with boot := { up.boot with entering := true } } : State).boot.entering = true ∧ up.vault.fuseBusy = none ∧ (asleepState.chan 0).role = 1 ∧
    (asleepState.chan 0).fenced = false ∧
    (asleepState.boot.asleep = true ∧ asleepState.boot.inReset = false ∧ wakeDue asleepState 0 = true ∧
      imageWhole asleepState = some ({ wakeTicks := 1 }, { bytes := [0, 0], addr := 64 })) ∧ wakeRoot asleepState true = some (zeros 32) ∧
    wakeRoot asleepState false = none := by
  refine ⟨?_, ?_, ?_, ?_, ?_, ?_, ?_, ?_, ?_, wakeRoot_asleep, ?_⟩ <;> and_intros <;> decide +kernel

theorem wit_PowerFailAndReset : up.boot.inReset = false ∧ up.boot.pfail = false ∧ up.boot.asleep = false ∧ up.portHeld = [] ∧ up.jf.prog = none ∧ up.vault.fuseBusy = none ∧
    ({ up with tap := { unlock := true } } : State).tap.unlock = true ∧ ({ up with fuses := { debug := true } } : State).fuses.debug = true := by
  and_intros <;> decide +kernel

theorem wit_WedgedUnitsGiveUp : hostDead up = false ∧ up.wedged (0 : Fin 6) = false ∧ up.wedged (5 : Fin 6) = false ∧
    up.boot.alarm = false ∧ up.boot.lockout = false ∧ hostDead (alarmed true false true) = false ∧ (alarmed true false true).wedged (3 : Fin 6) = false := by
  and_intros <;> decide +kernel

/-- A block in a phase of start-up. -/
def phase (s : State) (n : Nat) : State := { s with boot := { inReset := false, phase := n } }

/-- A block under the Carnival root. -/
def debugged : State := { up with vault := { up.vault with carnival := true } }

/-- The record of a label on its page, and a device that holds it. -/
def labelRec : Bytes := sealRec [] { kind := 8, data := zeros 20, jcnt := 1 }
def labelled : State := { phase up 2 with flash := { present := true, pages := [(0, labelRec), (1, [0xff])] } }

theorem sub_mid (a b c : Bytes) (n m : Nat) (hn : a.length = n) (hm : b.length = m) : sub (a ++ b ++ c) n m = b := by
  subst hn; subst hm; simp [sub, zeros, List.append_assoc]

theorem aesEncRk_length (rks : List Bytes) (b : Bytes) (h : b.length = 16) : (aesEncRk rks b).length = 16 := by
  cases rks with
  | nil => exact h
  | cons k ks => simp [aesEncRk, bxor_length, shiftRows]

theorem cmac_length (key msg : Bytes) : (cmac key msg).length = 16 := by
  refine aesEncRk_length _ _ ?_
  rw [bxor_length]
  have : ∀ (l : List Bytes) (x : Bytes), x.length = 16 → (l.foldl (fun x b => aesEncRk (roundKeys key) (bxor x b)) x).length = 16 := by
    intro l
    induction l with
    | nil => intro x h; exact h
    | cons b l ih => intro x h; exact ih _ (aesEncRk_length _ _ (by rw [bxor_length]; exact h))
  exact this _ _ (by simp [zeros])

theorem sub_left (a b : Bytes) (off n : Nat) (h : off + n ≤ a.length) : sub (a ++ b) off n = sub a off n := by
  simp only [sub]
  rw [List.drop_append_of_le_length (by omega), List.take_append_of_le_length (by simp; omega)]

/-- The header of the label record. -/
def labelHead : Bytes := [0x4a#8, 0x52#8] ++ toBe 1 8 ++ toBe 1 (b2n false) ++ toBe 2 20 ++ zeros 2 ++ toBe 8 1

theorem gcmText_len20 (key iv : Bytes) : (gcmText key iv (zeros 20)).length = 20 := by
  have hc : chunks 16 (zeros 20) = [zeros 16, zeros 4] := by decide +kernel
  simp only [gcmText, ctr, hc, ctrAux, List.length_append, bxor_length]
  simp [zeros]

theorem gcmTag_length (key iv aad ct : Bytes) : (gcmTag key iv aad ct).length = 16 := by
  simp [gcmTag, bxor_length, toBe, toLe_len]

theorem labelRec_read : ∃ x l, readRecs [] 128 labelRec = (x :: l, (readRecs [] 128 labelRec).2) ∧ x.kind = 8 := by
  have e : labelRec = labelHead ++ gcmText [] (recIv 1) (zeros 20) ++ gcmTag [] (recIv 1) labelHead (gcmText [] (recIv 1) (zeros 20)) := by
    have hz : (zeros 20).length = 20 := by decide +kernel
    simp only [labelRec, sealRec, gcmEnc, labelHead, hz]
  have h16 : labelHead.length = 16 := by decide +kernel
  have ht := gcmText_len20 [] (recIv 1)
  have hg := gcmTag_length [] (recIv 1) labelHead (gcmText [] (recIv 1) (zeros 20))
  rw [e]
  generalize hct : gcmText [] (recIv 1) (zeros 20) = ct at *
  generalize htag : gcmTag [] (recIv 1) labelHead ct = tag at *
  have l1 : ∀ off n, off + n ≤ 16 → sub (labelHead ++ ct ++ tag) off n = sub labelHead off n := fun off n h => by
    rw [List.append_assoc, sub_left _ _ _ _ (by omega)]
  have hh : sub labelHead 0 16 = labelHead := by decide +kernel
  have m : beAt (labelHead ++ ct ++ tag) 0 2 = 0x4A52 := by rw [beAt, l1 _ _ (by omega)]; decide +kernel
  have n20 : beAt (labelHead ++ ct ++ tag) 4 2 = 20 := by rw [beAt, l1 _ _ (by omega)]; decide +kernel
  have j1 : beAt (labelHead ++ ct ++ tag) 8 8 = 1 := by rw [beAt, l1 _ _ (by omega)]; decide +kernel
  have k8 : leAt (labelHead ++ ct ++ tag) 2 1 = 8 := by rw [leAt, l1 _ _ (by omega)]; decide +kernel
  have c1 : sub (labelHead ++ ct ++ tag) 16 20 = ct := sub_mid _ _ _ _ _ h16 ht
  have t1 : sub (labelHead ++ ct ++ tag) 36 16 = tag := by
    have := sub_mid (labelHead ++ ct) tag [] 36 16 (by simp [h16, ht]) hg
    simpa using this
  rw [readRecs]
  simp only [m, n20, j1, k8, c1, l1 0 16 (by omega), hh, t1, htag]
  simp

theorem readRow_of (s : State) (row : Nat) (b : Bytes) (h : s.flash.pages.find? (fun p => decide (p.1 = row)) = some (row, b))
    (hu : s.jf.unreadable.contains row = false) : readRow s row = readRecs (jKey s) 128 b := by
  simp only [readRow, h, hu, Bool.false_eq_true, if_false]

theorem labelled_pages : labelled.flash.pages = [(0, labelRec), (1, [0xff])] := by unfold labelled; rfl

theorem label_isSome : (readLabel labelled).isSome = true := by
  obtain ⟨x, l, h, hk⟩ := labelRec_read
  have hj : jKey labelled = [] := by decide +kernel
  have h0 : (readRow labelled 0).1 = x :: l := by
    rw [readRow_of labelled 0 labelRec (by rw [labelled_pages]; simp) (by decide +kernel), hj, h]
  have h1 : (readRow labelled 1).1 = [] := by
    rw [readRow_of labelled 1 [0xff] (by rw [labelled_pages]; simp) (by decide +kernel), hj]; decide +kernel
  have : ∀ (l : List JRec) (m : Option JRec), m.isSome = true →
      (l.foldl (fun m r => match m with | none => some r | some x => if r.jcnt > x.jcnt then some r else some x) m).isSome = true := by
    intro l
    induction l with
    | nil => intro m h; exact h
    | cons a l ih =>
      intro m hm
      apply ih
      cases m with
      | none => simp at hm
      | some y => simp only; split <;> rfl
  simp only [readLabel, h0, h1, List.append_nil]
  rw [List.filter_cons_of_pos (by simp [hk])]
  rw [List.foldl_cons]
  exact this _ (some x) rfl

/-- The labelled device with the DEVICE_ID its label names. -/
def mountable : State := { labelled with flash := { labelled.flash with devId := sub ((readLabel labelled).getD {}).data 14 4 } }

theorem readLabel_mountable : readLabel mountable = readLabel labelled := by
  have hp : mountable.flash.pages = labelled.flash.pages := by unfold mountable; rfl
  have hk : jKey mountable = jKey labelled := by decide +kernel
  have hu : mountable.jf.unreadable = labelled.jf.unreadable := by decide +kernel
  simp only [readLabel, readRow, hp, hk, hu]

theorem mount_mountable : mountResult mountable true = 1 := by
  obtain ⟨r, hr⟩ := Option.isSome_iff_exists.mp label_isSome
  have h1 : readLabel mountable = some r := by rw [readLabel_mountable, hr]
  have h2 : mountable.vault.carnival = false := by decide +kernel
  have h3 : mountable.flash.present = true := by decide +kernel
  have h4 : deviceFits mountable = true := by decide +kernel
  have h5 : (blockRows mountable 0).all (fun r => decide (r ≠ 0)) = false := by
    have hp : mountable.flash.pages = labelled.flash.pages := by unfold mountable; rfl
    simp only [blockRows, hp, labelled_pages, tkeys]
    decide +kernel
  have h6 : mountable.flash.devId = sub r.data 14 4 := by
    have : mountable.flash.devId = sub ((readLabel labelled).getD {}).data 14 4 := by unfold mountable; rfl
    rw [this, hr, Option.getD_some]
  have h7 : sub (sub r.data 14 4) 0 4 = sub r.data 14 4 := by
    have hl : (sub r.data 14 4).length = 4 := by simp [sub, zeros]
    have := sub_mid [] (sub r.data 14 4) [] 0 4 rfl hl
    simpa using this
  unfold mountResult
  simp only [h1, h2, h3, h4, h5, h6, h7]
  simp

theorem wit_StartUpPhasesEnd :
    (bootShut (phase rooted 0) = false ∧ (phase rooted 0).boot.phase = 0 ∧ ({ ok := true, fuse := true } : BootReport).cause.val = 0) ∧
    ((phase rooted 1).halted = false ∧ (phase rooted 1).boot.phase = 1 ∧ lifecycle (phase rooted 1) ≠ 3 ∧ (phase rooted 1).boot.debug = false ∧
      (phase rooted 1).fuses.debug = false ∧ rootBlank (phase rooted 1) = false) ∧
    rootCheck (bxor (phase rooted 1).fuses.share1 (phase rooted 1).fuses.share2) = (phase rooted 1).fuses.check ∧
    (rootBlank (phase up 1) = true ∧ lifecycle (phase up 1) ≠ 3 ∧ (phase up 1).boot.debug = false ∧ (phase up 1).fuses.debug = false ∧
      (phase up 1).halted = false) ∧
    (lifecycle { phase rooted 1 with fuses := { kill := true } } = 3 ∧
      lifecycle { phase rooted 1 with boot := { (phase rooted 1).boot with debug := true } } ≠ 3) ∧
    ((phase up 2).halted = false ∧ mountResult (phase up 2) true ≠ 1 ∧ mountResult (phase up 2) true ≠ 5 ∧ (phase up 2).boot.first = false ∧
      mountResult { phase up 2 with boot := { (phase up 2).boot with first := true } } true ≠ 1 ∧
      mountResult { phase up 2 with boot := { (phase up 2).boot with first := true } } true ≠ 5) ∧
    mountResult (phase debugged 2) true = 5 ∧ mountResult mountable true = 1 ∧
    (readLabel { mountable with jf := { mountable.jf with result := 1 } }).isSome = true ∧
    ((phase rooted 3).halted = false ∧ (phase rooted 3).boot.phase = 3) := by
  have hr : (phase rooted 1).fuses.check = rootTag := by unfold phase rooted; rfl
  have hb : bxor (phase rooted 1).fuses.share1 (phase rooted 1).fuses.share2 = zeros 32 := by decide +kernel
  refine ⟨?_, ?_, ?_, ?_, ?_, ?_, ?_, mount_mountable, ?_, ?_⟩
  · and_intros <;> decide +kernel
  · and_intros <;> decide +kernel
  · rw [hb, hr]; unfold rootTag; rfl
  · and_intros <;> decide +kernel
  · and_intros <;> decide +kernel
  · and_intros <;> decide +kernel
  · decide +kernel
  · exact (congrArg Option.isSome readLabel_mountable).trans label_isSome
  · and_intros <;> decide +kernel

theorem wit_ChannelsArePoweredAndTested :
    (up.halted = false ∧ ({ up with boot := { up.boot with tokens := [0] } } : State).boot.tokens = [0] ∧ (up.chan 0).role ≠ 0 ∧ (up.chan 0).role ≤ 4 ∧
      (up.chan 0).fenced = false) ∧
    ((phase up 4).halted = false ∧ (phase up 4).boot.phase = 4 ∧ (phase up 4).boot.p4Done = false) ∧
    ({ up with alm := { en := true, restoring := true } } : State).alm.restoring = true ∧ up.wedged 0 = false := by
  and_intros <;> decide +kernel

/-- Slot 0x00B holds the debug-unlock secret; a challenge is kept. -/
def challenged : State := { onSlot up 0x00B live with tap := { chal := some (zeros 16) } }

theorem wit_DebugPort :
    up.boot.asleep = false ∧ up.vault.drbgUp = false ∧ ({ up with vault := { up.vault with drbgUp := true } } : State).vault.drbgUp = true ∧
    up.boot.lockout = false ∧
    (2 ≤ challenged.boot.phase ∧ challenged.tap.chal = some (zeros 16) ∧ challenged.boot.lockout = false ∧ (challenged.slot 0x00B).state = 1 ∧
      chainOk challenged 0x00B = true) ∧
    (∃ resp, sub resp 0 16 = dbgAnswer (challenged.slot 0x00B).key (zeros 16)) ∧ (∃ resp, sub resp 0 16 ≠ dbgAnswer (challenged.slot 0x00B).key (zeros 16)) ∧
    debugged.vault.carnival = true ∧ up.vault.carnival = false ∧ ({ up with fuses := { debug := true } } : State).fuses.debug = true ∧
    up.fuses.debug = false ∧ (0x77#8).toNat ∉ [0x01, 0x10, 0x11, 0x12, 0x20, 0x30] ∧ (0x20#8).toNat ∈ [0x01, 0x10, 0x11, 0x12, 0x20, 0x30] ∧
    up.vault.fuseBusy = none := by
  refine ⟨?_, ?_, ?_, ?_, ?_, ⟨dbgAnswer (challenged.slot 0x00B).key (zeros 16), ?_⟩, ?_, ?_⟩
  case refine_6 =>
    have h : (dbgAnswer (challenged.slot 0x00B).key (zeros 16)).length = 16 := cmac_length _ _
    simpa using sub_mid [] _ [] 0 16 rfl h
  case refine_7 =>
    by_contra h
    have h' := not_exists.mp h
    have a := not_not.mp (h' (zeros 16))
    have b := not_not.mp (h' (List.replicate 16 1#8))
    exact absurd (a.trans b.symm) (by decide +kernel)
  all_goals and_intros <;> decide +kernel

/-! ### The backhaul link -/

/-- A slot whose key a path may install: 32 zero bytes under an AES-256 record of the LINK domain. -/
def linkSlot : Slot := { live with domain := 2, ops := 0xF, roles := 2, channels := 0xFFFF }

/-- Path 0 with one SecY whose encoding SA is entry 3, and one receive SC with entry 2. -/
def linkPath : Path :=
  { phy := true, lineReady := true
    secys := [(0, { en := true, ans := [none, some 3, none, none], enc := some 1 })]
    rxscs := [(0, { en := true, validate := 2, offset := 30, sci := zeros 8, ans := [some 2, none, none, none] })]
    txe := [(3, { state := 3, suite := 2, pn := 5, slot := 0x20, gen := 5, bound := some (0, 1) })]
    rxe := [(2, { state := 3, suite := 2, pn := 5, slot := 0x20, gen := 5, bound := some (0, 0), share1 := zeros 32, share2 := zeros 32 })] }

/-- A block whose path 0 carries frames, with heartbeats on. -/
def linkUp (x : Path := linkPath) : State :=
  (onSlot { up with link := { paths := [(0, x)] } } 0x20 linkSlot).putFc 0x4000 0x18005

theorem wit_LinkChangesAreStaged :
    (∀ x ∈ [0x10, 0x11, 0x12, 0x13, 0x14, 0x15, 0x16], Open (withOpen up 24 (item (desc x))) 24 3 x (item (desc x))) ∧ ringBinding up (ringChan 24) = some (0, true) ∧
    (∀ op : Fin 0x17, ringBinding (withOpen up 24 (item (desc op))) (ringChan 24) = some (0, true)) ∧
    Open (withOpen up 35 (item (desc 0x16))) 35 3 0x16 (item (desc 0x16)) ∧
    ringBinding (withOpen up 35 (item (desc 0x16))) (ringChan 35) = some (1, false) := by
  and_intros <;> decide +kernel

/-- A SecY without SAs. -/
def freshSecy : Path := { linkPath with secys := [(0, { en := true, suite := 2 })], txe := [(3, { state := 1, suite := 2 })] }

theorem wit_StagedLinkChangesCommit :
    (dOp (desc 0x10 [(9, [1])]) = 0x10 ∧ bit (leAt (desc 0x10 [(9, [1])]) 9 1) 0 = true ∧ ∀ a ∈ (up.secy 0 (leAt (desc 0x10 [(9, [1])]) 8 1)).ans, a = none) ∧
    (dOp (desc 0x12 [(0x0A, [2])]) = 0x12 ∧
      keyCheck linkUp [({ slot := 0x20, gen := 5 }, fun _ => true)] = stOK ∧
      saPermit ((linkServer linkUp 0 true).getD 16) (leAt (desc 0x12 [(0x0A, [2])]) 0x0A 1) true (linkUp.slot 0x20) = true ∧
      (linkUp.sae 0 true (leAt (desc 0x12 [(0x0A, [2])]) 8 2)).state = 0 ∧ (linkUp.slot 0x20).share1.length = (linkUp.slot 0x20).share2.length) ∧
    (dOp (desc 0x13 [(9, [3]), (0x0A, [3])]) = 0x13 ∧ ((linkUp freshSecy).secy 0 (leAt (desc 0x13 [(9, [3]), (0x0A, [3])]) 8 1)).en = true ∧
      ((linkUp freshSecy).sae 0 true (leAt (desc 0x13 [(9, [3]), (0x0A, [3])]) 0x0A 2)).state = 1 ∧
      ((linkUp freshSecy).sae 0 true (leAt (desc 0x13 [(9, [3]), (0x0A, [3])]) 0x0A 2)).suite =
        ((linkUp freshSecy).secy 0 (leAt (desc 0x13 [(9, [3]), (0x0A, [3])]) 8 1)).suite ∧
      ((linkUp freshSecy).secy 0 (leAt (desc 0x13 [(9, [3]), (0x0A, [3])]) 8 1)).ans.getD
        (leAt (desc 0x13 [(9, [3]), (0x0A, [3])]) 9 1 % 4) none = none ∧
      ((linkUp freshSecy).secy 0 0).ans = [none, none, none, none]) ∧
    (dOp (desc 0x14 [(9, [1])]) = 0x14 ∧ linkUp.boundEntry 0 true (leAt (desc 0x14 [(9, [1])]) 8 1) (leAt (desc 0x14 [(9, [1])]) 9 1 % 4) = some 3) ∧
    (dOp (desc 0x14) = 0x14 ∧ linkUp.boundEntry 0 false (leAt (desc 0x14) 8 1) (leAt (desc 0x14) 9 1 % 4) = some 2) ∧
    (dOp (desc 0x15 [(8, [3])]) = 0x15 ∧ (linkUp.sae 0 true (leAt (desc 0x15 [(8, [3])]) 8 2)).state ≠ 0) := by
  and_intros <;> decide +kernel

theorem sends_linkUp : Sends linkUp 0 0 1 3 := by
  refine ⟨by decide +kernel, by decide +kernel, by decide +kernel, by decide +kernel, ?_⟩
  intro w _ _ h
  have h1 : pnMax (linkUp.sae 0 true 3).suite - (linkUp.sae 0 true 3).pn = 4294967290 := by decide +kernel
  have h2 : xpn (linkUp.sae 0 true 3).suite = false := by decide +kernel
  have h3 : 2 ^ min w 31 ≤ 2 ^ 31 := Nat.pow_le_pow_right (by omega) (by omega)
  rw [h1, h2, if_neg (by decide)] at h
  omega

/-- The part of a received MACsec frame before its tag: 30 clear octets, then 10 encrypted ones. -/
def rxPre : Bytes := zeros 12 ++ [0x88, 0xe5, 0x2c, 40] ++ toBe 4 9 ++ zeros 8 ++ ([8, 0] ++ zeros 28) ++ zeros 10

/-- What the statement asks of a received frame f and its parts. -/
def RxMeets (s : State) (f : Bytes) (x : SaEntry) (sc : RxSc) (t : RxTag) (sec iv clear hidden : Bytes) : Prop :=
  s.tick.due = false ∧ (s.path 0).state ≠ 4 ∧ (s.path 0).takeRx = false ∧ (linkServer s 0 false).isSome = true ∧ f.length ≤ 9632 ∧ etherType f = 0x88E5 ∧
  t = rxTag f ∧ t.ok = true ∧ rxScOf s 0 f t = some 0 ∧ sc = s.rxsc 0 0 ∧ sc.ans.getD t.an none = some 2 ∧ x = s.sae 0 false 2 ∧ x.state = 3 ∧
  (t.pn ≠ 0 ∨ xpn x.suite = true) ∧ (sc.replay = true → x.pn ≤ rxPn x.suite x.pn t.pn) ∧ t.c = true ∧
  sec = (f.drop t.head).take (f.length - t.head - 16) ∧ clear = sec.take sc.offset ∧ hidden = sec.drop sc.offset ∧
  iv = macsecIv x.suite sc.sci x.ssci x.salt (rxPn x.suite x.pn t.pn)

theorem rxPre_length : rxPre.length = 68 := by decide

theorem rxTag_rxPre (tag : Bytes) (h : tag.length = 16) : rxTag (rxPre ++ tag) = rxTag (rxPre ++ zeros 16) := by
  have hs : ∀ off n, off + n ≤ 68 → sub (rxPre ++ tag) off n = sub (rxPre ++ zeros 16) off n := fun off n hh => by
    rw [sub_left _ _ _ _ (by rw [rxPre_length]; exact hh), sub_left _ _ _ _ (by rw [rxPre_length]; exact hh)]
  have hl : (rxPre ++ tag).length = (rxPre ++ zeros 16).length := by rw [List.length_append, List.length_append, h]; rfl
  simp only [rxTag, leAt, beAt, hs _ _ (show 14 + 1 ≤ 68 by decide), hs _ _ (show 15 + 1 ≤ 68 by decide), hs _ _ (show 16 + 4 ≤ 68 by decide),
    hs _ _ (show 20 + 8 ≤ 68 by decide), hl]
  congr!

theorem rx_meets (tag : Bytes) (h : tag.length = 16) :
    RxMeets linkUp (rxPre ++ tag) (linkUp.sae 0 false 2) (linkUp.rxsc 0 0) (rxTag (rxPre ++ zeros 16)) ([8, 0] ++ zeros 38)
      (macsecIv 2 (zeros 8) [] [] 9) ([8, 0] ++ zeros 28) (zeros 10) := by
  have hl : (rxPre ++ tag).length = 84 := by rw [List.length_append, h, rxPre_length]
  have ht : (rxTag (rxPre ++ zeros 16)).sc = true := by decide +kernel
  refine ⟨by decide +kernel, by decide +kernel, by decide +kernel, by decide +kernel, by omega, ?_, (rxTag_rxPre tag h).symm, by decide +kernel, ?_, rfl,
    by decide +kernel, rfl, by decide +kernel, by decide +kernel, by decide +kernel, by decide +kernel, ?_, by decide +kernel, by decide +kernel,
    by decide +kernel⟩
  · rw [etherType, beAt, sub_left _ _ _ _ (by decide)]; decide
  · simp only [rxScOf, ht, if_true]; decide +kernel
  · have h28 : (rxTag (rxPre ++ zeros 16)).head = 28 := by decide +kernel
    rw [hl, h28, List.drop_append_of_le_length (by decide), List.take_append_of_le_length (by decide)]; decide

/-- The key, the initial vector and the tag of the frame. -/
def rxSeal : Bytes := gcmTag (linkUp.sae 0 false 2).key (macsecIv 2 (zeros 8) [] [] 9) (rxPre.take 28 ++ ([8, 0] ++ zeros 28)) (zeros 10)

theorem rx_tag (tag : Bytes) (h : tag.length = 16) :
    sub (rxPre ++ tag) 0 (rxTag (rxPre ++ zeros 16)).head = rxPre.take 28 ∧ (rxPre ++ tag).drop ((rxPre ++ tag).length - 16) = tag := by
  have hl : (rxPre ++ tag).length = 84 := by rw [List.length_append, h, rxPre_length]
  constructor
  · have h28 : (rxTag (rxPre ++ zeros 16)).head = 28 := by decide +kernel
    rw [h28, sub_left _ _ _ _ (by decide)]; decide
  · rw [hl]; exact List.drop_left' rxPre_length

/-- Path 0 held, with EAPOL frames in the clear. -/
def heldUp : State := (linkUp { linkPath with state := 2 }).putFc 0x4018 1

theorem wit_FramesAreSecuredAndValidated : linkDead linkUp = false ∧
    (linkDead { linkUp with tick := { linkUp.tick with due := true } } = false ∧ linkDead heldUp = false ∧ heldUp.tick.due = false ∧
      (zeros 12 ++ [0x88, 0x8e] ++ zeros 4 : Bytes).length ≤ 9600 ∧ etherType (zeros 12 ++ [0x88, 0x8e] ++ zeros 4) = 0x888E ∧
      bit (heldUp.fc 0x4018) 0 = true ∧ (heldUp.path 0).phy = true ∧ (heldUp.path 0).lineReady = true ∧ (heldUp.path 0).txq = [] ∧
      etherType (zeros 12 ++ [8, 0] ++ zeros 50) ≠ 0x888E ∧ (heldUp.path 0).state = 2 ∧
      holdUnits (heldUp.path 0).holdTx + cdiv (zeros 12 ++ [8, 0] ++ zeros 50 : Bytes).length 16 ≤ 16384) ∧
    ((zeros 12 ++ [8, 0] ++ zeros 50 : Bytes).length ≤ 9600 ∧ etherType (zeros 12 ++ [8, 0] ++ zeros 50) ≠ 0x888E ∧ linkUp.tick.due = false ∧
      (linkUp.path 0).state = 0 ∧ (linkUp.path 0).takeTx = false ∧ (linkUp.path 0).holdTx = [] ∧ (linkServer linkUp 0 true).isSome = true ∧
      secyOf linkUp 0 (zeros 12 ++ [8, 0] ++ zeros 50) = some 0 ∧ (linkUp.path 0).lineReady = true ∧ (linkUp.path 0).txq = [] ∧
      16 ≤ linkUp.fcf 0x4014 21 16 ∧ linkUp.fcf 0x4014 21 16 ≤ 62) ∧ Sends linkUp 0 0 1 3 ∧
    (0 = bits (linkUp.fc 0x4000) 14 10 ∧ bit (linkUp.fc 0x4000) 15 = true ∧ (linkUp.path 0).phy = true ∧ (linkUp.secy 0 0).en = true) ∧
    (∃ f x sc t sec iv clear hidden, RxMeets linkUp f x sc t sec iv clear hidden ∧
      gcmTag x.key iv (sub f 0 t.head ++ clear) hidden = f.drop (f.length - 16) ∧
      etherType (sub f 0 12 ++ clear ++ gcmText x.key iv hidden) ≠ 0x88B5) ∧
    (∃ f x sc t sec iv clear hidden, RxMeets linkUp f x sc t sec iv clear hidden ∧
      gcmTag x.key iv (sub f 0 t.head ++ clear) hidden ≠ f.drop (f.length - 16)) ∧ (linkUp.path 1).holdTx = [] ∧
    (((linkUp { linkPath with state := 2, heldTicks := 4 }).path 0).state = 2 ∧
      (linkUp { linkPath with state := 2, heldTicks := 4 }).fcf 0x4014 31 24 ≤ ((linkUp { linkPath with state := 2, heldTicks := 4 }).path 0).heldTicks) := by
  refine ⟨by decide +kernel, ?_, ?_, sends_linkUp, ?_, ⟨_, _, _, _, _, _, _, _, rx_meets rxSeal (gcmTag_length _ _ _ _), ?_⟩, ?_, by decide +kernel, ?_⟩
  · and_intros <;> decide +kernel
  · and_intros <;> decide +kernel
  · and_intros <;> decide +kernel
  · obtain ⟨h1, h2⟩ := rx_tag rxSeal (gcmTag_length _ _ _ _)
    refine ⟨by rw [h1, h2]; rfl, ?_⟩
    rw [sub_left _ _ _ _ (by decide), etherType, beAt, sub_left _ _ _ _ (by decide)]
    decide
  · by_contra h
    have a (tag : Bytes) (ht : tag.length = 16) : rxSeal = tag := by
      by_contra hc
      refine h ⟨_, _, _, _, _, _, _, _, rx_meets tag ht, ?_⟩
      rw [(rx_tag tag ht).1, (rx_tag tag ht).2]
      exact hc
    exact absurd ((a (zeros 16) (by decide)).symm.trans (a (List.replicate 16 1#8) (by decide))) (by decide)
  · and_intros <;> decide +kernel

/-- Path 0 failed, its last heartbeat missed. -/
def lostPath (n : Nat) : Path := { linkPath with missed := n }

theorem wit_PathsFailOverAndReturn : linkDead linkUp = false ∧ (linkUp.path 0).state = 0 ∧ bit (linkUp.fc 0x4000) 15 = true ∧
    ((linkUp { linkPath with hbSeen := true }).path 0).hbSeen = true ∧
    (((linkUp (lostPath 1)).path 0).hbSeen = false ∧ ((linkUp (lostPath 1)).path 0).missed < 2) ∧
    (((linkUp (lostPath 2)).path 0).hbSeen = false ∧ 2 ≤ ((linkUp (lostPath 2)).path 0).missed ∧ ((linkUp (lostPath 2)).path 0).state = 0 ∧
      pathServed (linkUp (lostPath 2)) 0 = true) ∧
    (((linkUp { linkPath with state := 1, flush := true }).path 0).flush = true ∧ ((linkUp { linkPath with state := 1, flush := true }).path 0).state ≠ 0) ∧
    (((linkUp { linkPath with state := 1, good := 40 }).path 0).state = 1 ∧ ((linkUp { linkPath with state := 1, good := 40 }).path 0).ready = false ∧
      (linkUp { linkPath with state := 1, good := 40 }).fcf 0x4014 7 0 ≤ ((linkUp { linkPath with state := 1, good := 40 }).path 0).good) ∧
    (((linkUp { linkPath with state := 3 }).path 0).state = 3 ∧ ((linkUp { linkPath with state := 3 }).path 1).txq.any (fun f => decide (f.1 = 0)) = false ∧
      ((linkUp { linkPath with state := 3 }).path 0).phy = true) := by
  and_intros <;> decide +kernel

/-- Entries whose overlap runs out now and at the next count, and entries of an older epoch with a good and with a lost key. -/
def agedPath : Path := { linkPath with
  rxe := [(2, { state := 3, retireAt := some 100 }), (3, { state := 3, retireAt := some 101 })]
  txe := [(3, { state := 3, suite := 2, slot := 0x20, gen := 5, epoch := 1 }), (4, { state := 3, suite := 2, slot := 0x21, gen := 5, epoch := 1 })] }

theorem wit_EntriesRetireAndRevalidate : linkDead (linkUp agedPath) = false ∧
    (((linkUp agedPath).sae 0 false 2).retireAt = some 100 ∧ 100 ≤ (linkUp agedPath).tick.count) ∧
    (((linkUp agedPath).sae 0 false 3).retireAt = some 101 ∧ (linkUp agedPath).tick.count < 101) ∧
    (((linkUp agedPath).sae 0 true 3).state ≠ 0 ∧ ((linkUp agedPath).sae 0 true 3).epoch ≠ (linkUp agedPath).vault.epoch ∧
      keyCheck (linkUp agedPath) [({ slot := 0x20, gen := 5 }, fun _ => true)] = stOK) ∧
    (((linkUp agedPath).sae 0 true 4).state ≠ 0 ∧ ((linkUp agedPath).sae 0 true 4).epoch ≠ (linkUp agedPath).vault.epoch ∧
      keyCheck (linkUp agedPath) [({ slot := 0x21, gen := 5 }, fun _ => true)] ≠ stOK) ∧
    ((linkUp agedPath).sae 0 false 2).epoch = (linkUp agedPath).vault.epoch ∧ ((linkUp agedPath).sae 0 false 7).state = 0 := by
  and_intros <;> decide +kernel

/-! ### Node frames and conversations -/

/-- Tier 0 holds nodes 16 to 31 under epoch 1 of slot 0x20. -/
def nodeTier : TierEntry :=
  { lo := 16, hi := 31, en := true, ul := true, dl := true, hlf := true, s154 := true, s154Min := 4
    a := { slot := 0x20, gen := 5, epoch := 1, valid := true } }

/-- A block that serves node 16: its Almanac entry is cached, and channel 12 holds its node key. -/
def nodeUp : State := { onChan up 12 { up.chan 12 with
    bank := [{ slot := 0x20, gen := 5, share1 := zeros 32, share2 := zeros 32, node := some 16 }] } with
  nodes := { tiers := [(0, nodeTier)] }
  alm := { en := true, log2 := 14, base := 16, tag := 64, tree := 256, cache := [{ idx := 0, data := ({ node := 16, last := 8, epoch := 1, present := true, s154 := true } : AlmEntry).bytes }]
           present := [(0, 64)], times := [(100, 0)] } }

/-- A descriptor of an S154 frame of node 16, epoch 1, of n bytes at address 64, with its header of 12 bytes. -/
def upDesc (n dst : Nat) : Bytes :=
  desc 0x20 [(8, toLe 8 64), (0x10, toLe 8 dst), (0x18, toLe 4 16), (0x1C, [1, 2]), (0x1E, toLe 2 n), (0x20, [12, 2]), (0x22, toLe 6 100)]

/-- The frame with counter 9 at a security level, with a payload and MIC. -/
def upFrame (level : Nat) (mic : Bytes) : Bytes := [0x09, 0x21] ++ toBe 1 (16 + level) ++ toLe 4 9 ++ toLe 4 16 ++ toLe 1 1 ++ mic

/-- Memory at address 64, where it is not zero. -/
def onDram (s : State) (b : Bytes) : State := { s with dram := (b.mapIdx (fun i x => (64 + i, x))).filter (fun c => decide (c.2 ≠ 0)) }

/-- A tag area at address 0x20000, where no write ends well. -/
def tagged (s : State) : State := { s with mem := { s.mem with regions := [(0, { en := true, base := 5, size := 1, tag := 1 })] } }

/-- SQ36 holds the uplink of this frame, its payload to be written at dst. -/
def upItem (f : Bytes) (dst : Nat := 128) : Item := { item (upDesc f.length dst) [{ slot := 0x20, gen := 5 }] with ch := 12 }
def upBlock (f : Bytes) (dst : Nat := 128) : State := onDram (withOpen (tagged nodeUp) 36 (upItem f dst)) f

/-- The states of the statement: after the read, after the lookup, and after the commit. -/
def up1 (f : Bytes) (dst : Nat := 128) : State :=
  (hostRead (upBlock f dst) (addrAt (upItem f dst).desc 8) (leAt (upItem f dst).desc 0x1E 2)).1
def upParsed (f : Bytes) (dst : Nat := 128) : UpFrame := (parseUp (upItem f dst).desc f).getD {}
def up2 (f : Bytes) (dst : Nat := 128) : State :=
  modItem (up1 f dst) 36 3 (fun x => { x with outs := if f.length - (upParsed f dst).hdr - (upParsed f dst).mic = 0 then []
    else [(addrAt (upItem f dst).desc 0x10, f.length - (upParsed f dst).hdr - (upParsed f dst).mic)] })
def up3 (f : Bytes) (dst : Nat := 128) : State := (almGet (up2 f dst) 16).1
def upX (f : Bytes) (dst : Nat) (pl : Bytes) : ConvInput := upInput (up3 f dst) (upItem f dst).desc (upParsed f dst) pl false
def up5 (f : Bytes) (dst : Nat) (pl : Bytes) : State × AlmAns :=
  almCommit (up3 f dst) (upCommit (upItem f dst).desc (upParsed f dst) (upX f dst pl))

/-- What the statement asks of the frame up to its node key. -/
def UpMeets (f : Bytes) (dst : Nat := 128) : Prop :=
  Works (upBlock f dst) (36 : Fin 64) 3 0x20 (upItem f dst) ∧
  (hostRead (upBlock f dst) (addrAt (upItem f dst).desc 8) (leAt (upItem f dst).desc 0x1E 2)).2 = .ok f ∧
  parseUp (upItem f dst).desc f = some (upParsed f dst) ∧
  (up1 f dst).wedged 0 = false ∧ leAt (upItem f dst).desc 0x18 4 = 16 ∧ ownerOf (up3 f dst) 16 = .own ∧ tierOf (up3 f dst) 16 = some 0 ∧
  (((up3 f dst).tier 0).field (leAt (upItem f dst).desc 0x1C 1)).isSome = true ∧ (upItem f dst).keys = [{ slot := 0x20, gen := 5 }] ∧
  ((upParsed f dst).hlf = true ∨ ((up3 f dst).tier 0).s154Min ≤ (upParsed f dst).level) ∧
  nodeKey (up3 f dst) 12 { slot := 0x20, gen := 5 } 16 = zeros 32

theorem up_meets : UpMeets (upFrame 4 []) ∧ UpMeets (upFrame 4 [7]) ∧ UpMeets (upFrame 4 [7]) 0x20000 ∧ UpMeets (upFrame 5 (zeros 4)) ∧
    UpMeets (upFrame 5 [1, 1, 1, 1]) := by
  unfold UpMeets
  and_intros <;> decide +kernel

/-- A frame body of level 5 without payload opens under one tag only. -/
theorem s154Open_tag (key nonce hdr a b : Bytes) (ha : a.length = 4) (hb : b.length = 4) (h : a ≠ b) :
    s154Open key nonce hdr a 5 = none ∨ s154Open key nonce hdr b 5 = none := by
  by_contra hc
  obtain ⟨h1, h2⟩ := not_or.mp hc
  have m : s154Mic 5 = 4 := by decide
  simp only [s154Open, m, ha, hb, Nat.sub_self, List.take_zero, List.drop_zero] at h1 h2
  rw [if_neg (by decide), if_neg (by decide)] at h1 h2
  exact h ((by by_contra e; exact h1 (if_neg e) : _ = a).symm.trans (by by_contra e; exact h2 (if_neg e)))

/-- A frame of level 4 opens to a payload of its own length: whatever byte that is, the commit is OK. -/
theorem up_payload (dst : Nat) (hd : dst = 128 ∨ dst = 0x20000) :
    ∃ pl, openUp (zeros 32) (upFrame 4 [7]) (upParsed (upFrame 4 [7]) dst) = some (pl, false) ∧ pl.length = 1 ∧
      (up5 (upFrame 4 [7]) dst pl).2.status = stOK := by
  have key : ∀ d ∈ [128, 0x20000], ∀ b : Fin 256, (up5 (upFrame 4 [7]) d [BitVec.ofFin b]).2.status = stOK := by decide +kernel
  have hm : dst ∈ [128, 0x20000] := by simpa using hd
  have hl : ∀ d ∈ [128, 0x20000], (ccmText (zeros 32) (upParsed (upFrame 4 [7]) d).nonce [7]).length = 1 := by decide +kernel
  have ho : ∀ d ∈ [128, 0x20000], (upParsed (upFrame 4 [7]) d).hlf = false ∧ (upParsed (upFrame 4 [7]) d).level = 4 ∧
      (upFrame 4 [7]).drop (upParsed (upFrame 4 [7]) d).hdr = [7] := by decide +kernel
  refine ⟨ccmText (zeros 32) (upParsed (upFrame 4 [7]) dst).nonce [7], ?_, hl dst hm, ?_⟩
  · obtain ⟨h1, h2, h3⟩ := ho dst hm
    have m : s154Mic 4 = 0 := by decide
    simp only [openUp, h1, h2, h3, Bool.false_eq_true, if_false, s154Open, m]
    rw [if_neg (by decide), if_pos trivial]
    simp only [List.length_singleton, Nat.sub_zero, List.take_succ_cons, List.take_zero]
  · obtain ⟨⟨x⟩, hx⟩ := List.length_eq_one_iff.mp (hl dst hm)
    rw [hx]
    exact key dst hm x

/-- SQ36 of a unit on the Krysa ring whose map gives nodes 1 to 99 to unit 2. -/
def ringed (f : Bytes) : State :=
  { upBlock f with krysa := { map := [{ lo := 1, hi := 99, owner := 2 }], peers := [(2, { heard := some 100 })] } }.putFc 0x5800 0x22080

theorem wit_UplinksAreCheckedAndCommitted :
    (Works (upBlock (zeros 12)) (36 : Fin 64) 3 0x20 (upItem (zeros 12)) ∧ parseUp (upItem (zeros 12)).desc (zeros 12) = none ∧
      (hostRead (upBlock (zeros 12)) (addrAt (upItem (zeros 12)).desc 8) (leAt (upItem (zeros 12)).desc 0x1E 2)).2 = .ok (zeros 12)) ∧
    (Works (ringed (upFrame 4 [])) (36 : Fin 64) 3 0x20 (upItem (upFrame 4 [])) ∧
      (hostRead (ringed (upFrame 4 [])) (addrAt (upItem (upFrame 4 [])).desc 8) (leAt (upItem (upFrame 4 [])).desc 0x1E 2)).2 = .ok (upFrame 4 []) ∧
      (ringed (upFrame 4 [])).wedged 0 = false ∧ ownerOf (ringed (upFrame 4 [])) 16 = .other 2) ∧
    (UpMeets (upFrame 4 []) ∧ openUp (zeros 32) (upFrame 4 []) (upParsed (upFrame 4 [])) = some ([], false) ∧
      (up5 (upFrame 4 []) 128 []).2.status = stOK) ∧
    (UpMeets (upFrame 4 [7]) ∧ ∃ pl, openUp (zeros 32) (upFrame 4 [7]) (upParsed (upFrame 4 [7])) = some (pl, false) ∧
      (up5 (upFrame 4 [7]) 128 pl).2.status = stOK ∧ (hostWrite (up5 (upFrame 4 [7]) 128 pl).1 128 pl).2 = true) ∧
    (UpMeets (upFrame 4 [7]) 0x20000 ∧ ∃ pl, openUp (zeros 32) (upFrame 4 [7]) (upParsed (upFrame 4 [7]) 0x20000) = some (pl, false) ∧
      (up5 (upFrame 4 [7]) 0x20000 pl).2.status = stOK ∧ pl ≠ [] ∧ (hostWrite (up5 (upFrame 4 [7]) 0x20000 pl).1 0x20000 pl).2 = false) ∧
    (∃ f, UpMeets f ∧ openUp (zeros 32) f (upParsed f) = none) := by
  refine ⟨?_, ?_, ⟨up_meets.1, ?_, ?_⟩, ⟨up_meets.2.1, ?_⟩, ⟨up_meets.2.2.1, ?_⟩, ?_⟩
  · and_intros <;> decide +kernel
  · and_intros <;> decide +kernel
  · decide +kernel
  · decide +kernel
  · obtain ⟨pl, h1, h2, h3⟩ := up_payload 128 (.inl rfl)
    refine ⟨pl, h1, h3, ?_⟩
    have key : ∀ b : Fin 256, (hostWrite (up5 (upFrame 4 [7]) 128 [BitVec.ofFin b]).1 128 [BitVec.ofFin b]).2 = true := by decide +kernel
    obtain ⟨⟨x⟩, rfl⟩ := List.length_eq_one_iff.mp h2
    exact key x
  · obtain ⟨pl, h1, h2, h3⟩ := up_payload 0x20000 (.inr rfl)
    have key : ∀ b : Fin 256, (hostWrite (up5 (upFrame 4 [7]) 0x20000 [BitVec.ofFin b]).1 0x20000 [BitVec.ofFin b]).2 = false := by decide +kernel
    obtain ⟨⟨x⟩, rfl⟩ := List.length_eq_one_iff.mp h2
    exact ⟨_, h1, h3, by simp, key x⟩
  · have h := s154Open_tag (zeros 32) (upParsed (upFrame 5 (zeros 4))).nonce ((upFrame 5 (zeros 4)).take 12) (zeros 4) [1, 1, 1, 1] rfl rfl (by decide)
    rcases h with h | h
    · refine ⟨_, up_meets.2.2.2.1, ?_⟩
      have a : (upParsed (upFrame 5 (zeros 4))).hlf = false ∧ (upParsed (upFrame 5 (zeros 4))).hdr = 12 ∧ (upParsed (upFrame 5 (zeros 4))).level = 5 ∧
          (upFrame 5 (zeros 4)).drop 12 = zeros 4 := by decide +kernel
      simp only [openUp, a.1, a.2.1, a.2.2.1, a.2.2.2, Bool.false_eq_true, if_false]
      exact h
    · refine ⟨_, up_meets.2.2.2.2, ?_⟩
      have a : (upParsed (upFrame 5 [1, 1, 1, 1])).hlf = false ∧ (upParsed (upFrame 5 [1, 1, 1, 1])).hdr = 12 ∧
          (upParsed (upFrame 5 [1, 1, 1, 1])).level = 5 ∧ (upFrame 5 [1, 1, 1, 1]).drop 12 = [1, 1, 1, 1] ∧
          (upFrame 5 [1, 1, 1, 1]).take 12 = (upFrame 5 (zeros 4)).take 12 ∧
          (upParsed (upFrame 5 [1, 1, 1, 1])).nonce = (upParsed (upFrame 5 (zeros 4))).nonce := by decide +kernel
      simp only [openUp, a.1, a.2.1, a.2.2.1, a.2.2.2.1, a.2.2.2.2.1, a.2.2.2.2.2, Bool.false_eq_true, if_false]
      exact h

/-- A band of 1 % with one rate, and its buckets. -/
def airBand : Band := { en := true, ppm := 10000, maxTx := 1000000, rates := [{ bitNs := 1000, cnum := 1, cden := 1, blk := 1, valid := true }] }
def airUp (s : State) (used : Nat) : State := { s with jf := { cur := some 1 }, krysa := { granting := true }, ledger := { loaded := true, bands := [airBand], buckets := [used :: List.replicate 59 0] } }

/-- A downlink of an S154 frame of 12 bytes of header and no payload, with HOLD h, of RESYNC's state, to be written at dst. -/
def downDesc (h dst : Nat) : Bytes :=
  desc 0x21 [(8, toLe 8 64), (0x10, toLe 8 dst), (0x18, toLe 4 16), (0x1C, [1, 2]), (0x20, toLe 6 100), (0x2A, [12, 2]), (0x2C, toLe 1 h)]
def downItem (h : Nat) (dst : Nat := 128) : Item := { item (downDesc h dst) [{ slot := 0x20, gen := 5 }] with ch := 12 }
def downBlock (h used : Nat) (dst : Nat := 128) : State :=
  onDram (withOpen (airUp (tagged nodeUp) used) 36 (downItem h dst)) (upFrame 4 [])
def down1 (h used : Nat) (dst : Nat := 128) : State :=
  (hostRead (downBlock h used dst) (addrAt (downItem h dst).desc 8) (frameIn 0x21 (downItem h dst).desc)).1
def downQ (h used : Nat) (dst : Nat := 128) : DownReq := downReq (down1 h used dst) 36 (downItem h dst) (upFrame 4 [])
def down3 (h used : Nat) (dst : Nat := 128) : State × DownAns := downlinkCore (down1 h used dst) (downQ h used dst)

/-- What the statement asks of the downlink with HOLD h up to its decision. -/
abbrev DownMeets (h used : Nat) (dst : Nat := 128) : Prop :=
  Works (downBlock h used dst) (36 : Fin 64) 3 0x21 (downItem h dst) ∧
  (hostRead (downBlock h used dst) (addrAt (downItem h dst).desc 8) (frameIn 0x21 (downItem h dst).desc)).2 = .ok (upFrame 4 []) ∧
  (if (downQ h used dst).hlf then 0 else
    ((s154Parse (upFrame 4 []) (downQ h used dst).hdr (downQ h used dst).aux).map (fun a => s154Mic a.level)).getD 0) = 0

/-- A request of step 7 with a frame of n bytes. -/
def txReq (n : Nat) : TxReq := { frame := zeros n }

theorem wit_DownlinksAreSecuredAndCharged :
    (DownMeets 0 0 ∧ (down3 0 0).2.status = stOK ∧
      (hostWrite (down3 0 0).1 (addrAt (downItem 0).desc 0x10) (down3 0 0).2.frame).2 = true) ∧
    (DownMeets 0 0 0x20000 ∧ (down3 0 0 0x20000).2.status = stOK ∧
      (hostWrite (down3 0 0 0x20000).1 (addrAt (downItem 0 0x20000).desc 0x10) (down3 0 0 0x20000).2.frame).2 = false) ∧
    (DownMeets 9 36000000 ∧ (down3 9 36000000).2.status = stHeld) ∧
    (DownMeets 0 36000000 ∧ (down3 0 36000000).2.status = stReject) ∧
    ((airUp up 0).wedged 1 = false ∧ (airUp up 0).band 0 = some airBand ∧ (airBand.rates.getD 0 {}).valid = true ∧
      airtime (airBand.rates.getD 0 {}) (txReq 1000).frame.length ≤ airBand.maxTx ∧
      airtime (airBand.rates.getD 0 {}) (txReq 1000).frame.length ≤ airBand.budget) ∧
    ((∀ h ∈ (airUp up 35992000).ledger.held, h.band ≠ 0) ∧ (airUp up 35992000).ledger.buckets[0]? = some (35992000 :: List.replicate 59 0) ∧
      usedAir (airUp up 35992000) 0 + airtime (airBand.rates.getD 0 {}) (txReq 1000).frame.length ≤ airBand.budget) ∧
    (airBand.budget < usedAir (airUp up 35992001) 0 + airtime (airBand.rates.getD 0 {}) (txReq 1000).frame.length ∧ (txReq 1000).hold = 0) := by
  and_intros <;> decide +kernel

/-- An epoch key of the node domain. -/
def epochSlot : Slot := { live with domain := 3, level := 3, ops := 0x10, roles := 4, channels := 0xFFFF, useLimit := 100 }

/-- The Almanac entry of an HLF node in sync, and a block that serves it. -/
def hlfEntry : AlmEntry := { node := 16, last := 8, epoch := 1, present := true }
def hlfUp : State := onSlot (onChan (airUp { nodeUp with alm := { nodeUp.alm with cache := [{ idx := 0, data := hlfEntry.bytes }] } } 0) 12
  { nodeUp.chan 12 with powered := true, shareP := 10, rr := 3, bank := { slot := 0x20, gen := 5, grant := 3 } :: (nodeUp.chan 12).bank }) 0x20 epochSlot

def convDesc (op : Nat) : Bytes := desc op [(8, if op = 0x30 then toLe 4 16 else toLe 2 3072), (0x0C, toLe 1 4), (0x10, toLe 8 128)]
def convItem (op : Nat) : Item := { item (convDesc op) with ch := 12 }
def convBlock (op : Nat) : State := withOpen hlfUp 38 (convItem op)

/-- The block with one conversation. -/
def withConv (c : Conv) (steps : List ConvStep := []) (p : Program := {}) : State :=
  { hlfUp with conv := { table := [(3072, c)], steps := [(12, steps)], programs := [(5, p)] } }

/-- An instruction word. -/
def ins (op rd ra rb imm : Nat) : Nat := op * 2 ^ 26 + rd * 2 ^ 22 + ra * 2 ^ 18 + rb * 2 ^ 14 + imm

def steady : Conv := { node := 16, proto := 5, state := 1, retry := 3, cq := 38 }
def stepBlock (c : Conv) (kind : Nat) (costP : Nat := 1) : State :=
  onRing (withConv c [{ id := 3072, kind := kind }] { code := [ins 0x1A 0 0 0 0], costP := costP, costI := 1 }) 102 { en := true }

/-- What the statement asks of channel 12, whose engines are free, in its engines' turn. -/
abbrev StepMeets (s : State) (kind : Nat) : Prop :=
  admitOpen (s.at 64) (s.at 64).tick.t = true ∧ (s.chan 12).fenced = false ∧ (s.chan 12).powered = true ∧ (s.chan 12).needKat = false ∧
  (s.chan 12).role = 3 ∧ (s.chan 12).stepPassed = false ∧ (s.chan 12).rr = 3 ∧ s.link.paths = [] ∧
  s.conv.engines = [] ∧ tget [] s.conv.steps 12 = [{ id := 3072, kind := kind }]

/-- Paths that do not stand in the list take no line in and give none out. -/
theorem no_take (s : State) (h : s.link.paths = []) (p : Nat) : (s.path p).takeTx = false ∧ (s.path p).takeRx = false := by
  simp [State.path, h, tget]

theorem wit_ConversationsOpenAndEnd :
    (Open (convBlock 0x30) 38 3 0x30 (convItem 0x30) ∧ ownerOf (convBlock 0x30) (leAt (convItem 0x30).desc 8 4) = .own ∧
      startWhy (almGet (convBlock 0x30) 16).1 (convItem 0x30).ch (leAt (convItem 0x30).desc 8 4) (leAt (convItem 0x30).desc 0x0C 1)
        (sub (convItem 0x30).desc 0x10 12) ((almGet (convBlock 0x30) (leAt (convItem 0x30).desc 8 4)).2.map (·.2)) = 0 ∧
      freeConv (almGet (convBlock 0x30) 16).1 (convItem 0x30).ch = some 3072) ∧
    (Open (convBlock 0x31) 38 3 0x31 (convItem 0x31) ∧ leAt (convItem 0x31).desc 8 2 / 256 = (convItem 0x31).ch ∧
      onEngine (convBlock 0x31) (leAt (convItem 0x31).desc 8 2) = false) ∧
    (Open (convBlock 0x32) 38 3 0x32 (convItem 0x32) ∧ leAt (convItem 0x32).desc 8 2 / 256 = (convItem 0x32).ch ∧
      (hostWrite (convBlock 0x32) (addrAt (convItem 0x32).desc 0x10) ((convBlock 0x32).convAt 3072).bytes).2 = true) ∧
    hlfUp.halted = false ∧ 3072 = 256 * 12 + 0 ∧
    (((withConv { state := 2, retry := 1 }).convAt 3072).state = 2 ∧ ((withConv { state := 2, retry := 1 }).convAt 3072).timer = 0 ∧
      ((withConv { state := 2, retry := 1 }).convAt 3072).retry ≠ 0) ∧
    (((withConv { state := 2 }).convAt 3072).state = 2 ∧ ((withConv { state := 2 }).convAt 3072).timer = 0 ∧
      ((withConv { state := 2 }).convAt 3072).retry = 0 ∧ ((withConv { state := 2 }).convAt 3072).life = 0) ∧
    (StepMeets (stepBlock steady 0 1000000) 0 ∧
      costFits ((stepBlock steady 0 1000000).at 64) 12 ((stepBlock steady 0 1000000).at 64).tick.t
        (stepCost ((stepBlock steady 0 1000000).at 64) 3072) = false ∧
      ∀ j < 3, ((stepBlock steady 0 1000000).ring (3 * ((stepBlock steady 0 1000000).chan 12).ringsOf + j)).en = false) ∧
    (StepMeets (stepBlock steady 0) 0 ∧
      costFits ((stepBlock steady 0).at 64) 12 ((stepBlock steady 0).at 64).tick.t (stepCost ((stepBlock steady 0).at 64) 3072) = true ∧
      2 ≤ ((stepBlock steady 0).ring (64 + steady.cq)).free ∧ 5 ≤ steady.proto ∧
      ((stepBlock steady 0).program steady.proto).code[((stepBlock steady 0).program steady.proto).start]? = some (ins 0x1A 0 0 0 0) ∧
      iOp (ins 0x1A 0 0 0 0) ≤ 0x1E) ∧
    (StepMeets (stepBlock { steady with proto := 4 } 2) 2 ∧
      costFits ((stepBlock { steady with proto := 4 } 2).at 64) 12 ((stepBlock { steady with proto := 4 } 2).at 64).tick.t
        (stepCost ((stepBlock { steady with proto := 4 } 2).at 64) 3072) = true ∧
      2 ≤ ((stepBlock { steady with proto := 4 } 2).ring (64 + steady.cq)).free ∧
      ({ steady with proto := 4 } : Conv).proto ≤ 4 ∧ ({ steady with proto := 4 } : Conv).state = 1 ∧ ({ steady with proto := 4 } : Conv).retry ≠ 0) := by
  and_intros <;> decide +kernel

/-- Engine 0 of channel 12 at the instruction w, another one after it. -/
def engInput : ConvInput := { opp := true, payload := zeros 20, cal := 100 }
def engAt (r2 : Nat) : Engine :=
  { on := true, id := 3072, kind := 1, g := [0, 1, r2, 7] ++ List.replicate 12 0, output := zeros 64, cost := { p := 100, i := 100 }, input := engInput, reserved := 1 }
def engConvs (w proto r2 : Nat) : Convs :=
  { table := [(3072, { steady with proto := proto })], programs := [(proto, { code := [w, 0] })], engines := [(24, engAt r2)] }
def engUp (w : Nat) (proto : Nat := 5) (r2 : Nat := 7) : State := { hlfUp with conv := engConvs w proto r2 }

/-- The arithmetic OPs, and the branches with their conditions. -/
def aluOps : List Nat := [0x01, 0x02, 0x03, 0x04, 0x05, 0x06, 0x07, 0x08, 0x09, 0x0A]
def branches : List (Nat × (Nat → Nat → Bool)) :=
  [(0x0B, fun a b => decide (a = b)), (0x0C, fun a b => decide (a ≠ b)), (0x0D, fun a b => decide (a < b)),
   (0x0E, fun a b => decide (b ≤ a)), (0x0F, fun _ _ => true)]

theorem wit_EngineArithmetic :
    (AtInstr (engUp 0) 12 0 0x00 0 ∧ NextOk (engUp 0) 12 0 (((engUp 0).engine 12 0).pc + 1)) ∧
    (∀ x ∈ aluOps, AtInstr (engUp (ins x 1 2 3 9)) 12 0 x (ins x 1 2 3 9) ∧
      NextOk (engUp (ins x 1 2 3 9)) 12 0 (((engUp (ins x 1 2 3 9)).engine 12 0).pc + 1) ∧
      ∀ v ∈ ((engUp (ins x 1 2 3 9)).engine 12 0).g, v < 2 ^ 32) ∧
    (∀ x ∈ branches, AtInstr (engUp (ins x.1 0 2 3 0x3FFF)) 12 0 x.1 (ins x.1 0 2 3 0x3FFF) ∧
      AtInstr (engUp (ins x.1 0 2 3 0x3FFF) 5 6) 12 0 x.1 (ins x.1 0 2 3 0x3FFF) ∧
      NextOk (engUp (ins x.1 0 2 3 0x3FFF)) 12 0 0 ∧ NextOk (engUp (ins x.1 0 2 3 0x3FFF)) 12 0 1) ∧
    (∀ x ∈ branches, (x.2 7 7 = true ∨ x.2 6 7 = true) ∧ (x.1 = 0x0F ∨ x.2 7 7 = false ∨ x.2 6 7 = false)) ∧
    ((0 : Nat) : Int) = 0 + 1 + (if iImm (ins 0x0B 0 2 3 0x3FFF) < 2 ^ 13 then (iImm (ins 0x0B 0 2 3 0x3FFF) : Int)
      else (iImm (ins 0x0B 0 2 3 0x3FFF) : Int) - 2 ^ 14) := by
  refine ⟨?_, ?_, ?_, by decide +kernel, by decide +kernel⟩
  · refine ⟨?_, by decide +kernel, 0, by decide +kernel⟩; decide +kernel
  · intro x hx
    simp only [aluOps, List.mem_cons, List.not_mem_nil, or_false] at hx
    rcases hx with rfl | rfl | rfl | rfl | rfl | rfl | rfl | rfl | rfl | rfl <;>
      exact ⟨by decide +kernel, ⟨by decide +kernel, 0, by decide +kernel⟩, by decide +kernel⟩
  · intro x hx
    simp only [branches, List.mem_cons, List.not_mem_nil, or_false] at hx
    rcases hx with rfl | rfl | rfl | rfl | rfl <;>
      exact ⟨by decide +kernel, by decide +kernel, ⟨by decide +kernel, _, rfl, by decide +kernel⟩,
        ⟨by decide +kernel, 0, by decide +kernel⟩⟩

/-- The engine's state and the instruction after it, as every clause takes them. -/
theorem next_engUp (w : Nat) (proto : Nat := 5) : NextOk (engUp w proto) 12 0 (((engUp w proto).engine 12 0).pc + 1) := by
  have e : (engUp w proto).engine 12 0 = (engUp 0).engine 12 0 := rfl
  refine ⟨by rw [e]; decide +kernel, 0, ?_, by decide⟩
  show ((engUp w proto).program ((engUp w proto).convAt 3072).proto).code[1]? = some 0
  have c : ((engUp w proto).convAt 3072).proto = proto := rfl
  rw [c]
  simp [State.program, engUp, engConvs, tget]

/-- The state that a frame key or a bound key leaves, and the answers. -/
def nkeyW : Nat := ins 0x17 0 1 0 0
def nkeyTry : State × KeyAns × KeyRef :=
  frameKey (engUp nkeyW) (3072 / 256) nodeTier.a ((engUp nkeyW).convAt 3072).node (((engUp nkeyW).engine 12 0).reg (iRa nkeyW) % 256)
def sendW : Nat := ins 0x19 0 0 3 0
def sendTry : State × DownReq × DownAns :=
  convTry { (boundKeyOk (engUp sendW) 3072).1 with conv := { (boundKeyOk (engUp sendW) 3072).1.conv with reserve := 1 } } 3072 (zeros 7)

def sendWrote : State := (hostWrite sendTry.1 (convBuf sendTry.1 + 256 * 3072) sendTry.2.2.frame).1

theorem wit_EngineLoadsAndStores :
    (∀ w proto, NextOk (engUp w proto) 12 0 (((engUp w proto).engine 12 0).pc + 1)) ∧
    (AtInstr (engUp (ins 0x10 1 0 0 4)) 12 0 0x10 (ins 0x10 1 0 0 4) ∧ iImm (ins 0x10 1 0 0 4) % 4 = 0 ∧ iImm (ins 0x10 1 0 0 4) ≤ 0x3C) ∧
    (AtInstr (engUp (ins 0x12 1 0 0 19)) 12 0 0x12 (ins 0x12 1 0 0 19) ∧
      ((engUp 0).engine 12 0).reg (iRa (ins 0x12 1 0 0 19)) + iImm (ins 0x12 1 0 0 19) < ((engUp 0).engine 12 0).input.payload.length) ∧
    (AtInstr (engUp (ins 0x14 1 0 0 7)) 12 0 0x14 (ins 0x14 1 0 0 7) ∧ iImm (ins 0x14 1 0 0 7) ≤ 7) ∧
    (AtInstr (engUp (ins 0x16 1 0 0 56)) 12 0 0x16 (ins 0x16 1 0 0 56) ∧
      ((engUp 0).engine 12 0).reg (iRa (ins 0x16 1 0 0 56)) + iImm (ins 0x16 1 0 0 56) + 8 ≤ 64) ∧
    AtInstr (engUp (ins 0x15 1 0 0 0)) 12 0 0x15 (ins 0x15 1 0 0 0) ∧
    (AtInstr (engUp (ins 0x11 0 2 0 0x1C)) 12 0 0x11 (ins 0x11 0 2 0 0x1C) ∧ iImm (ins 0x11 0 2 0 0x1C) = 0x1C) ∧
    (AtInstr (engUp (ins 0x11 0 2 0 0x20)) 12 0 0x11 (ins 0x11 0 2 0 0x20) ∧ iImm (ins 0x11 0 2 0 0x20) = 0x20) ∧
    (AtInstr (engUp (ins 0x13 0 0 2 63)) 12 0 0x13 (ins 0x13 0 0 2 63) ∧
      ((engUp 0).engine 12 0).reg (iRa (ins 0x13 0 0 2 63)) + iImm (ins 0x13 0 0 2 63) < 64) ∧
    (AtInstr (engUp (ins 0x18 0 0 0 48)) 12 0 0x18 (ins 0x18 0 0 0 48) ∧
      ((engUp 0).engine 12 0).reg (iRa (ins 0x18 0 0 0 48)) + iImm (ins 0x18 0 0 0 48) + 16 ≤ 64) ∧
    (AtInstr (engUp nkeyW) 12 0 0x17 nkeyW ∧
      epochField (engUp nkeyW) ((engUp nkeyW).convAt 3072).node (((engUp nkeyW).engine 12 0).reg (iRa nkeyW) % 256) = some nodeTier.a ∧
      nkeyTry.2 = (.ok, { slot := 0x20, gen := 5 }) ∧ nkeyTry.1.conv = (engUp nkeyW).conv ∧
      ((engUp nkeyW).engine 12 0).work + 3 * (nkeyTry.1.stw 0x3901C - (engUp nkeyW).stw 0x3901C) ≤ ((engUp nkeyW).engine 12 0).cost.p + 64) ∧
    (AtInstr (engUp (ins 0x1E 1 0 0 0)) 12 0 0x1E (ins 0x1E 1 0 0 0) ∧ ((engUp (ins 0x1E 1 0 0 0)).convAt 3072).retry ≠ 0) := by
  refine ⟨fun w p => next_engUp w p, ?_⟩
  and_intros <;> decide +kernel

/-- An engine whose conversation has an enabled CQ. -/
def postUp (op : Nat) : State := onRing (engUp (ins op 0 0 0 0)) 102 { en := true }

theorem wit_EngineStepsEnd :
    AtInstr (engUp (ins 0x1A 0 0 0 0)) 12 0 0x1A (ins 0x1A 0 0 0 0) ∧
    (AtInstr (engUp sendW) 12 0 0x19 sendW ∧ 16 + ((engUp sendW).engine 12 0).reg (iRb sendW) + miclLen ((engUp sendW).fcf 0x6000 21 20) ≤ 255 ∧
      ((engUp sendW).engine 12 0).reg (iRb sendW) ≤ 64 ∧ mayStepSend ((engUp sendW).engine 12 0) = true ∧
      (3 + cdiv (((engUp sendW).engine 12 0).reg (iRb sendW)) 16) * 11 ≤ ((engUp sendW).engine 12 0).cost.i + 64 ∧
      (boundKeyOk (engUp sendW) 3072).2 = true ∧ ((boundKeyOk (engUp sendW) 3072).1.engine 12 0).reserved = 1 ∧
      sendWait (boundKeyOk (engUp sendW) 3072).1 3072 = none ∧
      ((engUp sendW).engine 12 0).output.take (((engUp sendW).engine 12 0).reg (iRb sendW)) = zeros 7 ∧
      sendTry.2.2.status = stOK ∧ (hostWrite sendTry.1 (convBuf sendTry.1 + 256 * 3072) sendTry.2.2.frame).2 = true ∧
      sendWrote.conv.table = (engUp sendW).conv.table ∧ sendWrote.conv.engines = (engUp sendW).conv.engines ∧
      ((engUp sendW).engine 12 0).work + (1 + cdiv (((engUp sendW).engine 12 0).reg (iRb sendW)) 16 +
        3 * (sendWrote.stw 0x3901C - (boundKeyOk (engUp sendW) 3072).1.stw 0x3901C)) ≤ ((engUp sendW).engine 12 0).cost.p + 64) ∧
    (AtInstr (engUp (ins 0x1B 0 0 0 0) 2) 12 0 0x1B (ins 0x1B 0 0 0 0) ∧ ((engUp (ins 0x1B 0 0 0 0) 2).convAt 3072).proto = 2) ∧
    (AtInstr (postUp 0x1C) 12 0 0x1C (ins 0x1C 0 0 0 0) ∧ 0 < ((postUp 0x1C).engine 12 0).reserved ∧ (postUp 0x1C).wedged 5 = false ∧
      ((postUp 0x1C).ring (64 + ((postUp 0x1C).convAt 3072).cq)).en = true ∧ ((postUp 0x1C).ring (64 + ((postUp 0x1C).convAt 3072).cq)).halted = false ∧
      (∃ w, Engine.fetch (postUp 0x1C) { (postUp 0x1C).engine 12 0 with pc := ((postUp 0x1C).engine 12 0).pc + 1 } = some w ∧ iOp w ≤ 0x1E)) ∧
    (AtInstr (engUp (ins 0x1D 0 0 0 0)) 12 0 0x1D (ins 0x1D 0 0 0 0) ∧ ((engUp (ins 0x1D 0 0 0 0)).convAt 3072).state ≠ 0) ∧
    (∃ s : State, AtInstr s 12 0 0x00 0 ∧ Engine.fetch s { s.engine 12 0 with pc := (s.engine 12 0).pc + 1 } = none ∧ (s.convAt 3072).state ≠ 0) := by
  refine ⟨?_, ?_, ?_, ⟨?_, ?_, ?_, ?_, ?_, ⟨0, ?_⟩⟩, ?_, ⟨{ engUp 0 with conv := { (engUp 0).conv with programs := [(5, { code := [0] })] } }, ?_⟩⟩ <;>
    and_intros <;> decide +kernel

/-! ### The vault -/

def vItem (op : Nat) (f : List (Nat × Bytes)) (keys : List KeyRef := []) : Item := { item (desc op f) keys with ch := 16 }
def vBlock (it : Item) (x : Slot := live) : State := withOpen (onSlot up 0x20 x) 48 it

/-- A wrapped block of an AES-128 key under an empty key, where AES is the identity. -/
def noKey : Slot := { live with share1 := [], share2 := [] }
def wrapped : Bytes := kwWrap [] ([1] ++ zeros 31)
def importItem : Item := vItem 0x42 [(0x0B, [40]), (0x18, toLe 8 64)] [{ slot := 0x20, gen := 5 }]
def importBlock (b : Bytes) : State := onDram (vBlock importItem noKey) b

def clearItem : Item := vItem 0x43 [(0x10, [1])] [{ slot := 2, gen := 1 }]
/-- A block that unwraps to no attributes, and an import from a tag area. -/
def wrapped' : Bytes := kwWrap [] ([9] ++ zeros 31)
def farItem : Item := vItem 0x42 [(0x0B, [40]), (0x18, toLe 8 0x20000)] [{ slot := 0x20, gen := 5 }]

theorem wit_VaultChangesAreStaged :
    (∀ op : Fin 4, Open (vBlock (vItem (0x40 + op) [])) 48 3 (0x40 + op) (vItem (0x40 + op) []) ∧ (vItem (0x40 + op) []).staged = false) ∧
    (∀ x ∈ [0x45, 0x46, 0x47, 0x48, 0x59], Open (vBlock (vItem x [])) 48 3 x (vItem x []) ∧ (vItem x []).staged = false) ∧
    (Open (importBlock wrapped) 48 3 0x42 importItem ∧ importItem.staged = false ∧
      (hostRead (importBlock wrapped) (addrAt importItem.desc 0x18) (leAt importItem.desc 0x0B 1)).2 = .ok wrapped ∧
      kwUnwrap ((importBlock wrapped).slot (importItem.keys.headD {}).slot).key wrapped = some ([1] ++ zeros 31) ∧
      attrOk ([1] ++ zeros 31) 0 = true ∧ leAt importItem.desc 0x0B 1 = 24 + algLen (leAt ([1] ++ zeros 31) 0 1)) ∧
    (Open (importBlock (zeros 40)) 48 3 0x42 importItem ∧
      (hostRead (importBlock (zeros 40)) (addrAt importItem.desc 0x18) (leAt importItem.desc 0x0B 1)).2 = .ok (zeros 40) ∧
      kwUnwrap ((importBlock (zeros 40)).slot (importItem.keys.headD {}).slot).key (zeros 40) = none) ∧
    (Open (importBlock wrapped') 48 3 0x42 importItem ∧
      (hostRead (importBlock wrapped') (addrAt importItem.desc 0x18) (leAt importItem.desc 0x0B 1)).2 = .ok wrapped' ∧
      kwUnwrap ((importBlock wrapped').slot (importItem.keys.headD {}).slot).key wrapped' = some ([9] ++ zeros 31) ∧ attrOk ([9] ++ zeros 31) 0 = false) ∧
    (Open { importBlock wrapped with dmErr := [(64, 2)] } 48 3 0x42 importItem ∧
      (hostRead { importBlock wrapped with dmErr := [(64, 2)] } (addrAt importItem.desc 0x18) (leAt importItem.desc 0x0B 1)).2 = .poison) ∧
    (Open (tagged (vBlock farItem noKey)) 48 3 0x42 farItem ∧
      (hostRead (tagged (vBlock farItem noKey)) (addrAt farItem.desc 0x18) (leAt farItem.desc 0x0B 1)).2 = .err) ∧
    (Open (vBlock clearItem) 48 3 0x43 clearItem ∧ clearItem.staged = false) := by
  and_intros <;> decide +kernel

/-- The staged change of an item in SQ48, of material m. -/
def vChange (m : Bytes) : VaultChange := { ring := 48, idx := 3, seq := 7, attr := [1, 1] ++ zeros 14, mat := m, pgen := 5 }

/-- A key of level 1 that others derive from, and a generated one of level 2. -/
def levelOne : Slot := { live with domain := 2, level := 1, ops := 0x10 }
def generated : Slot := { live with domain := 2, level := 2, origin := 1, ops := 1 }
def genItem : Item := vItem 0x40 [(8, toLe 2 0x30), (0x10, toLe 2 0x20)]
def derItem : Item := vItem 0x41 [(8, toLe 2 0x30), (0x0B, [4]), (0x10, toLe 2 0x20)]
def subjItem (op : Nat) : Item := vItem op [(8, toLe 2 0x20), (0x0A, toLe 6 5), (0x10, [1])]

theorem wit_StagedVaultChangesCommit :
    (Commits (vBlock genItem levelOne) (vChange (zeros 16)) genItem ∧ 0x40 ≤ dOp genItem.desc ∧ dOp genItem.desc ≤ 0x43 ∧ dOp genItem.desc ≠ 0x41 ∧
      installCheck (vBlock genItem levelOne) {} genItem.desc (vChange (zeros 16)) = stOK) ∧
    (Commits (vBlock derItem levelOne) (vChange []) derItem ∧ dOp derItem.desc = 0x41 ∧
      installCheck (vBlock derItem levelOne) {} derItem.desc (vChange []) = stOK) ∧
    (Commits (vBlock (subjItem 0x46) generated) (vChange []) (subjItem 0x46) ∧ dOp (subjItem 0x46).desc = 0x46 ∧
      subjectCheck (vBlock (subjItem 0x46) generated) (subjItem 0x46).desc = stOK ∧
      ((vBlock (subjItem 0x46) generated).slot (vaultSlotOf (subjItem 0x46).desc)).level ≠ 1 ∧
      ((vBlock (subjItem 0x46) generated).slot (vaultSlotOf (subjItem 0x46).desc)).origin % 16 = 1) ∧
    (Commits (vBlock (subjItem 0x47) generated) (vChange []) (subjItem 0x47) ∧ dOp (subjItem 0x47).desc = 0x47 ∧
      subjectCheck (vBlock (subjItem 0x47) generated) (subjItem 0x47).desc = stOK) ∧
    (Commits (vBlock (subjItem 0x48) generated) (vChange []) (subjItem 0x48) ∧ dOp (subjItem 0x48).desc = 0x48 ∧
      subjectCheck (vBlock (subjItem 0x48) generated) (subjItem 0x48).desc = stOK ∧
      ((vBlock (subjItem 0x48) generated).slot (vaultSlotOf (subjItem 0x48).desc)).useCnt < leAt (subjItem 0x48).desc 0x10 5) ∧
    (Commits (vBlock (subjItem 0x45) generated) (vChange []) (subjItem 0x45) ∧ dOp (subjItem 0x45).desc = 0x45 ∧
      subjectCheck (vBlock (subjItem 0x45) generated) (subjItem 0x45).desc = stOK) ∧
    (Commits { vBlock (vItem 0x59 []) with fuses := { attWritten := true } } (vChange []) (vItem 0x59 []) ∧ dOp (vItem 0x59 []).desc = 0x59 ∧
      ({ vBlock (vItem 0x59 []) with fuses := { attWritten := true } } : State).fuses.attWritten = true ∧
      ({ vBlock (vItem 0x59 []) with fuses := { attWritten := true } } : State).vault.fuseBusy = none) := by
  and_intros <;> decide +kernel

def wrapItem : Item := { vItem 0x44 [(0x18, toLe 8 64)] with hold := zeros 64 }
def queryItem : Item := vItem 0x4A [(8, toLe 2 0x20), (0x10, toLe 8 64)]
def attestItem : Item := vItem 0x50 [(0x18, toLe 8 64)]
def fuseItem : Item := vItem 0x58 [(8, [1])]
def delivered : Slot := { live with roles := 4, channels := 0x1000, useLimit := 100 }
/-- A DELIVER to channel 12 with the record of its subject; the same slot with a grant that R148 holds back. -/
def deliverItem : Item :=
  { vItem 0x49 [(8, toLe 2 0x20), (0x0A, toLe 6 5), (0x10, [12])] with hold := slotRecord 0x20 delivered 0 ++ [1] ++ zeros 32 }
def heldBack : Slot := { delivered with flags := 2, persCnt := 0 }
/-- What the statement asks of a DELIVER. -/
abbrev DlvMeets (s : State) : Prop :=
  Open s 48 3 0x49 deliverItem ∧ keyRef deliverItem.desc 8 = { slot := 0x20, gen := 5 } ∧ leAt deliverItem.desc 0x10 1 % 16 = 12 ∧
  (s.chan 12).fenced = false ∧ 1 ≤ (s.chan 12).role ∧ (s.chan 12).role ≤ 3 ∧ (slotOfRecord (deliverItem.hold.take 48)).state ≠ 0 ∧
  (slotOfRecord (deliverItem.hold.take 48)).state ≠ 3 ∧ (slotOfRecord (deliverItem.hold.take 48)).gen = 5 ∧ leAt deliverItem.hold 48 1 = 1 ∧
  masksAdmit (slotOfRecord (deliverItem.hold.take 48)) (s.chan 12).role 12 = true
/-- The same block with a copy of the key already in the bank of channel 12. -/
def copied : State := onChan (vBlock deliverItem delivered) 12 { (vBlock deliverItem delivered).chan 12 with
  bank := [{ slot := 0x20, gen := 5, share1 := zeros 32, share2 := zeros 32 }] }

/-- A block whose sweep stands at slot 0x20. -/
def sweepBlock (x : Slot) : State :=
  { onSlot up 0x20 x with vault := { (onSlot up 0x20 x).vault with drbgUp := true, sweep := 0x20 } }

/-- One immediate command fewer in progress. -/
def oneLess (s : State) : State := { s with vault := { s.vault with immediate := s.vault.immediate - 1 } }

theorem wit_VaultAnswersAtOnce :
    (Open (vBlock wrapItem) 48 3 0x44 wrapItem ∧ (hostWrite (oneLess (vBlock wrapItem)) (addrAt wrapItem.desc 0x18)
      (kwWrap (wrapItem.hold.take 32) (wrapItem.hold.drop 32))).2 = true) ∧
    (Open (vBlock queryItem) 48 3 0x4A queryItem ∧ (hostWrite (oneLess (vBlock queryItem)) (addrAt queryItem.desc 0x10)
      (slotRecord (vaultSlotOf queryItem.desc) ((vBlock queryItem).slot (vaultSlotOf queryItem.desc))
        (pendingOf (vBlock queryItem) (vaultSlotOf queryItem.desc)))).2 = true) ∧
    (Open (vBlock attestItem) 48 3 0x50 attestItem ∧ (hostWrite (oneLess (vBlock attestItem)) (addrAt attestItem.desc 0x18)
      (attestMessage (vBlock attestItem) (sub attestItem.desc 8 16) attestItem.cal)).2 = true) ∧
    (DlvMeets (vBlock deliverItem delivered) ∧ findCopy ((vBlock deliverItem delivered).chan 12).bank 0x20 5 = none ∧
      (loadCopy ((vBlock deliverItem delivered).modChan 12 (fun c => { c with bank := unpinLru 0x20 c.bank })) 12 0x20 5 (deliverItem.hold.drop 49)
        (if ((vBlock deliverItem delivered).slot 0x20).gen = 5 then grantSize ((vBlock deliverItem delivered).slot 0x20) else 0)).isSome = true ∧
      grantSize ((vBlock deliverItem delivered).slot 0x20) ≠ 0) ∧
    (DlvMeets copied ∧ (findCopy (copied.chan 12).bank 0x20 5).isSome = true) ∧
    (DlvMeets (vBlock deliverItem heldBack) ∧ findCopy ((vBlock deliverItem heldBack).chan 12).bank 0x20 5 = none ∧
      ((vBlock deliverItem heldBack).slot 0x20).gen = 5 ∧ grantSize ((vBlock deliverItem heldBack).slot 0x20) = 0 ∧
      ((vBlock deliverItem heldBack).slot 0x20).useCnt < ((vBlock deliverItem heldBack).slot 0x20).useLimit) ∧
    Open (vBlock fuseItem) 48 3 0x58 fuseItem ∧
    ((sweepBlock live).vault.sweep = 0x20 ∧ (sweepBlock live).halted = false ∧ (sweepBlock live).vault.drbgUp = true ∧ (0x20 : Nat) < 4095 ∧
      ((sweepBlock live).slot 0x20).share1.length = ((sweepBlock live).slot 0x20).share2.length ∧ ((sweepBlock live).slot 0x20).state = 1 ∧
      chainOk (sweepBlock live) 0x20 = true) ∧
    (((sweepBlock { live with parent := 0x21 }).slot 0x20).state = 1 ∧ chainOk (sweepBlock { live with parent := 0x21, pgen := 4 }) 0x20 = false) := by
  and_intros <;> decide +kernel

/-! ### The NMS -/


/-- Signatures made with the private key 1, whose public key is the base point, and the nonce 2. -/
def pubG : Bytes := toBe 48 p384Gx ++ toBe 48 p384Gy
def imageSig : Bytes := toBe 48 0x8d999057ba3d2d969260045c55b97f089025959a6f434d651d207d19fb96e9e4fe0e86ebe0e64f85b96a9c75295df61 ++
  toBe 48 0x437ed5576b4e27e92a39e04121113f3603a77321fffd05c052bda989802936ec5a81d88bba8c27b7b2128aa94b806a27
def ucodeSig : Bytes := toBe 48 0x8d999057ba3d2d969260045c55b97f089025959a6f434d651d207d19fb96e9e4fe0e86ebe0e64f85b96a9c75295df61 ++
  toBe 48 0x33f19fafea28ac7a6fa45fc5e773abb5cd4fd0c6cc725558f6d09342a7ad702fb33e096fe71c482cb49f44931f039223

/-- A smallest image and a smallest operator program. -/
def imageBody : Bytes := asc "SX4-NMSI" ++ toLe 4 1 ++ zeros 4 ++ toLe 4 4 ++ zeros 48
def ucodeBody : Bytes := asc "SX4-CVUC" ++ toLe 4 1 ++ [5, 0, 1, 0] ++ zeros 6 ++ [1, 0, 1, 0] ++ zeros 42

theorem image_verifies : ecdsaVerify pubG imageBody imageSig = true := by decide +kernel
theorem ucode_verifies : ecdsaVerify pubG ucodeBody ucodeSig = true := by decide +kernel

/-- A block whose NMS serves commands, with the three keys written and the journal mounted. -/
def nmsUp : State := { up with
  jf := { state := 1, img := 1 }, fuses := { nmsKey := [(1, pubG), (2, pubG), (3, pubG)], nmsWritten := [1, 2, 3] } }

theorem nmsVerify_of (s : State) (id : Nat) (body sig : Bytes) (h : nmsPub s id = some pubG) (hs : sig.length = 96)
    (hv : ecdsaVerify pubG body sig = true) : nmsVerify s id (body ++ sig) = true := by
  simp [nmsVerify, h, hs, hv]

/-- SQ56 holds a command about the object b at address 64. -/
def nmsItem (op : Nat) (b : Bytes) : Item := { item (desc op [(8, toLe 8 64), (0x10, toLe 4 b.length)]) with ch := 16 }
def nmsBlock (op : Nat) (b : Bytes) : State := onDram (withOpen nmsUp 56 (nmsItem op b)) b
def nmsRead (op : Nat) (b : Bytes) : State × DmaRead := hostRead (nmsBlock op b) (addrAt (nmsItem op b).desc 8) (leAt (nmsItem op b).desc 0x10 4)

theorem loadWhy_ucode : loadWhy (nmsRead 0x61 (ucodeBody ++ ucodeSig)).1 0x61 (ucodeBody ++ ucodeSig) = (stOK, 0) := by
  have h := nmsVerify_of (nmsRead 0x61 (ucodeBody ++ ucodeSig)).1 3 ucodeBody ucodeSig (by decide +kernel) (by decide) ucode_verifies
  rw [loadWhy, if_neg (by decide), h]
  decide +kernel

theorem wit_NmsLoadsAreVerifiedAndStored :
    (∀ op ∈ [0x60, 0x61], NmsOpen (withOpen up 56 (nmsItem op [])) 56 3 op (nmsItem op []) ∧ (withOpen up 56 (nmsItem op [])).jf.state = 0) ∧
    (NmsOpen (nmsBlock 0x61 (ucodeBody ++ ucodeSig)) 56 3 0x61 (nmsItem 0x61 (ucodeBody ++ ucodeSig)) ∧
      (nmsBlock 0x61 (ucodeBody ++ ucodeSig)).jf.state = 1 ∧ 0 < (ucodeBody ++ ucodeSig).length ∧
      (nmsRead 0x61 (ucodeBody ++ ucodeSig)).2 = .ok (ucodeBody ++ ucodeSig) ∧ (nmsRead 0x61 (ucodeBody ++ ucodeSig)).1.jf.state = 1) ∧
    loadWhy (nmsRead 0x61 (ucodeBody ++ ucodeSig)).1 0x61 (ucodeBody ++ ucodeSig) = (stOK, 0) ∧
    (∀ op ∈ [0x60, 0x61], (nmsRead op [1]).2 = .ok [1] ∧ loadWhy (nmsRead op [1]).1 op [1] = (stAuthFail, 0)) ∧
    (∀ op ∈ [0x60, 0x61], ({ up with nms := { wait := some { op := op } } } : State).halted = false ∧
      syncOpen { up with nms := { wait := some { op := op } } } { qn := 0 } = false) := by
  refine ⟨?_, ?_, loadWhy_ucode, ?_, ?_⟩ <;> decide +kernel

/-- The image in memory, and a ring mounted whose area 0 holds it. -/
def image : Bytes := imageBody ++ imageSig
def areaUp : State := { nmsUp with
  nms := { ready := true, written := some 0, service := 1, trial := true, svn := 5, version := 7 }
  flash := { nmsUp.flash with pages := [(64 * 81, image)] } }
def onNms (s : State) (it : Item) : State := withOpen s 56 it
def byteItem (op n : Nat) : Item := { item (desc op [(8, toLe 1 n), (0x10, toLe 6 64), (0x18, toLe 6 64)]) with ch := 16 }

theorem areaImage_areaUp : areaImage (onNms areaUp (byteItem 0x63 0)) 0 = some image := by
  have hb : areaBytes (onNms areaUp (byteItem 0x63 0)) 0 1 = image := by decide +kernel
  have hn : cdiv (0x40 + 4 + 96) (pageSize (onNms areaUp (byteItem 0x63 0))) = 1 := by decide +kernel
  have hv := nmsVerify_of (onNms areaUp (byteItem 0x63 0)) 1 imageBody imageSig (by decide +kernel) (by decide) image_verifies
  have h4 : leAt image 0x10 4 = 4 := by decide +kernel
  have ht : image.take (0x40 + 4 + 96) = image := by decide +kernel
  have hf : imageForm image = true := by decide +kernel
  simp only [areaImage, hb, h4, hn, ht, hf]
  rw [image, hv]
  simp

theorem wit_NmsUpdatesAndFuses :
    (NmsOpen (nmsBlock 0x62 image) 56 3 0x62 (nmsItem 0x62 image) ∧ (nmsPub (nmsBlock 0x62 image) 1).isSome = true ∧
      (nmsBlock 0x62 image).jf.state = 1 ∧ (nmsBlock 0x62 image).jf.img ≠ 0 ∧
      leAt (nmsItem 0x62 image).desc 0x10 4 ≤ (areaRows (nmsBlock 0x62 image) (updTarget (nmsBlock 0x62 image))).length * pageSize (nmsBlock 0x62 image) ∧
      (nmsRead 0x62 image).2 = .ok image ∧ imageForm image = true ∧ (nmsRead 0x62 image).1.fuses.rollback ≤ leAt image 0x0C 1 ∧
      areaBlocks (nmsRead 0x62 image).1 (updTarget (nmsBlock 0x62 image)) = areaBlocks (nmsBlock 0x62 image) (updTarget (nmsBlock 0x62 image))) ∧
    nmsVerify (nmsRead 0x62 image).1 1 image = true ∧
    (NmsOpen (onNms areaUp (byteItem 0x63 0)) 56 3 0x63 (byteItem 0x63 0) ∧ (onNms areaUp (byteItem 0x63 0)).nms.written = some 0 ∧
      (onNms areaUp (byteItem 0x63 0)).jf.state = 1) ∧ areaImage (onNms areaUp (byteItem 0x63 0)) 0 = some image ∧
    (NmsOpen (onNms up (byteItem 0x63 0)) 56 3 0x63 (byteItem 0x63 0) ∧ (onNms up (byteItem 0x63 0)).nms.written = none) ∧
    (NmsOpen (onNms areaUp (byteItem 0x64 0)) 56 3 0x64 (byteItem 0x64 0) ∧ (onNms areaUp (byteItem 0x64 0)).nms.trial = true) ∧
    (NmsOpen (onNms { areaUp with nms := { ready := true, service := 1, svn := 5 } } (byteItem 0x65 5)) 56 3 0x65 (byteItem 0x65 5) ∧
      5 = leAt (byteItem 0x65 5).desc 8 1 ∧ areaUp.vault.carnival = false ∧ areaUp.fuses.rollback < 5) ∧
    (NmsOpen (onNms { up with vault := { up.vault with carnival := true } } (byteItem 0x65 5)) 56 3 0x65 (byteItem 0x65 5)) ∧
    (NmsOpen (onNms areaUp (byteItem 0x65 6)) 56 3 0x65 (byteItem 0x65 6) ∧ (onNms areaUp (byteItem 0x65 6)).nms.svn < 6) ∧
    (NmsOpen (onDram (onNms rooted (byteItem 0x66 2)) pubG) 56 3 0x66 (byteItem 0x66 2) ∧
      (hostRead (onDram (onNms rooted (byteItem 0x66 2)) pubG) (addrAt (byteItem 0x66 2).desc 0x10) 96).2 = .ok pubG ∧
      p384OnCurve (beAt pubG 0 48) (beAt pubG 48 48) = true ∧
      lifecycle (hostRead (onDram (onNms rooted (byteItem 0x66 2)) pubG) (addrAt (byteItem 0x66 2).desc 0x10) 96).1 = 1 ∧
      (hostRead (onDram (onNms rooted (byteItem 0x66 2)) pubG) (addrAt (byteItem 0x66 2).desc 0x10) 96).1.vault.carnival = false ∧
      (tkeys (hostRead (onDram (onNms rooted (byteItem 0x66 2)) pubG) (addrAt (byteItem 0x66 2).desc 0x10) 96).1.fuses.nmsKey).contains 2 = false) := by
  refine ⟨?_, nmsVerify_of _ 1 imageBody imageSig (by decide +kernel) (by decide) image_verifies, ?_, areaImage_areaUp, ?_, ?_, ?_, ?_, ?_, ?_⟩ <;>
    and_intros <;> decide +kernel

/-- Log entries that wait for a flush. -/
def logUp : State := { nmsUp with log := { buf := (List.range 64).map (fun n => { seq := n, data := zeros 32 }), seq := 64 } }
def statsUp : State := { nmsUp with nms := { ready := true, stats := some (zeros 64) } }

/-- The entries of a flush. -/
def handed (s : State) : List LogEntry := (s.log.buf.filter (fun e => !e.handed)).take (min 64 ((pageSize s - 32) / 32))
/-- A read of the log into a tag area, and a queue without room. -/
def farRead : Item := { item (desc 0x67 [(0x0A, [1]), (0x18, toLe 6 0x20000)]) with ch := 16 }
def farLog : State := tagged (onNms logUp farRead)
def fullQueue : State := { logUp with jf := { logUp.jf with queue := [{ kind := 5, data := zeros 65500 }] } }
def carnivalLog : State := { logUp with jf := { logUp.jf with state := 4 } }

theorem wit_LogStatisticsAndWarnings :
    (NmsOpen (onNms logUp (byteItem 0x67 0)) 56 3 0x67 (byteItem 0x67 0) ∧ leAt (byteItem 0x67 0).desc 8 1 = 0 ∧
      (hostWrite (modItem (onNms logUp (byteItem 0x67 0)) 56 3 (fun x => { x with outs := [] })) (addrAt (byteItem 0x67 0).desc 0x18) []).2 = true) ∧
    (NmsOpen (onNms up (byteItem 0x67 1)) 56 3 0x67 (byteItem 0x67 1) ∧ leAt (byteItem 0x67 1).desc 8 1 ≠ 0 ∧ (onNms up (byteItem 0x67 1)).jf.state = 0) ∧
    (NmsOpen (onNms logUp (byteItem 0x68 0)) 56 3 0x68 (byteItem 0x68 0) ∧ (onNms logUp (byteItem 0x68 0)).log.buf.length < 16384 ∧
      (onNms logUp (byteItem 0x68 0)).log.lost = 0) ∧
    (NmsOpen (onNms statsUp (byteItem 0x69 64)) 56 3 0x69 (byteItem 0x69 64) ∧ (onNms statsUp (byteItem 0x69 64)).nms.stats = some (zeros 64) ∧
      (hostWrite (modItem ((onNms statsUp (byteItem 0x69 64)).modNms (fun n => { n with stats := none })) 56 3
        (fun x => { x with outs := [(addrAt (byteItem 0x69 64).desc 8, 64)] })) (addrAt (byteItem 0x69 64).desc 8) (zeros 64)).2 = true) ∧
    (NmsOpen farLog 56 3 0x67 farRead ∧ leAt farRead.desc 8 1 = 0 ∧
      (farLog.log.buf.filter (fun e => decide (leAt farRead.desc 0x10 8 ≤ e.seq))).take (leAt farRead.desc 0x0A 2) = [{ seq := 0, data := zeros 32 }] ∧
      (hostWrite (modItem farLog 56 3 (fun x => { x with outs := [(addrAt farRead.desc 0x18, 32)] })) (addrAt farRead.desc 0x18) (zeros 32)).2 = false) ∧
    (nmsStill fullQueue = false ∧ logDue fullQueue = true ∧ handed fullQueue ≠ [] ∧ fullQueue.jf.state ≠ 4 ∧
      65536 < queueBytes fullQueue + ({ kind := 5, data := (handed fullQueue).flatMap (·.data) } : JRec).size) ∧
    (nmsStill carnivalLog = false ∧ logDue carnivalLog = true ∧ handed carnivalLog ≠ [] ∧ carnivalLog.jf.state = 4) ∧
    (nmsStill logUp = false ∧ logUp.jf.state = 1 ∧ logDue logUp = true ∧
      (logUp.log.buf.filter (fun e => !e.handed)).take (min 64 ((pageSize logUp - 32) / 32)) ≠ [] ∧
      queueBytes logUp + ({ kind := 5, data := ((logUp.log.buf.filter (fun e => !e.handed)).take (min 64 ((pageSize logUp - 32) / 32))).flatMap (·.data) } : JRec).size
        ≤ 65536) ∧
    (sensorChecked up 0 = true ∧ warns 0 (sensorVal 0 (18001#16).toNat) = true ∧ 0 ∉ up.vigil.warn ∧ up.halted = false ∧ up.log.buf.length < 16384 ∧
      up.log.lost = 0 ∧ noAlarm 0 (sensorVal 0 (18001#16).toNat) = true) ∧
    (sensorChecked up 4 = true ∧ warns 4 (sensorVal 4 (105#16).toNat) = false ∧ (sensorRange 4).1 ≤ sensorVal 4 (105#16).toNat ∧
      sensorVal 4 (105#16).toNat ≤ (sensorRange 4).2) := by
  and_intros <;> decide +kernel

/-! ### The journal -/

def jItem (op img first : Nat) : Item := { item (desc op [(0x0C, toLe 2 img), (0x0E, toLe 2 8), (0x10, toLe 4 first)]) with ch := 16 }
def onJf (s : State) (it : Item) (j : Journal) : State := { withOpen s 60 it with jf := j }
def keyRec (qn : Nat) : JRec := { kind := 4, id := 0x20, data := zeros 48, urgent := true, qn := qn }

theorem wit_JournalCommandsComplete :
    (Open (onJf up (jItem 0x70 500 0) {}) 60 3 0x70 (jItem 0x70 500 0) ∧
      (onJf up (jItem 0x70 500 0) {}).flash.blocks < 81 + 2 * leAt (jItem 0x70 500 0).desc 0x0C 2 + leAt (jItem 0x70 500 0).desc 0x0E 2) ∧
    (Open (onJf rooted (jItem 0x70 467 0) { result := 1 }) 60 3 0x70 (jItem 0x70 467 0) ∧
      81 + 2 * leAt (jItem 0x70 467 0).desc 0x0C 2 + leAt (jItem 0x70 467 0).desc 0x0E 2 ≤ (onJf rooted (jItem 0x70 467 0) { result := 1 }).flash.blocks ∧
      (onJf rooted (jItem 0x70 467 0) { result := 1 }).jf.result ≠ 2 ∧ (onJf rooted (jItem 0x70 467 0) { result := 1 }).jf.result ≠ 3) ∧
    (Open (onJf rooted (jItem 0x70 467 0) { result := 2 }) 60 3 0x70 (jItem 0x70 467 0) ∧
      (onJf rooted (jItem 0x70 467 0) { result := 2 }).jf.result = 2 ∧ (onJf rooted (jItem 0x70 467 0) { result := 2 }).vault.carnival = false ∧
      lifecycle (onJf rooted (jItem 0x70 467 0) { result := 2 }) = 1 ∧
      64 ≤ ((List.range 81).drop 1).countP (fun b => !(onJf rooted (jItem 0x70 467 0) { result := 2 }).flash.factory.contains b)) ∧
    (Open (onJf up (jItem 0x71 0 0) {}) 60 3 0x71 (jItem 0x71 0 0) ∧ (onJf up (jItem 0x71 0 0) {}).jf.state = 0) ∧
    (Open (onJf up (jItem 0x71 0 0) { state := 4 }) 60 3 0x71 (jItem 0x71 0 0) ∧ (onJf up (jItem 0x71 0 0) { state := 4 }).jf.state ≠ 0 ∧
      (onJf up (jItem 0x71 0 0) { state := 4 }).jf.state ≠ 3 ∧ (onJf up (jItem 0x71 0 0) { state := 4 }).jf.queue = [] ∧
      (onJf up (jItem 0x71 0 0) { state := 4 }).jf.prog = none ∧ (onJf up (jItem 0x71 0 0) { state := 4 }).jf.syncs = []) ∧
    (Open (onJf up (jItem 0x71 0 0) { state := 1, queue := [keyRec 6], qn := 7 }) 60 3 0x71 (jItem 0x71 0 0) ∧
      (∃ r ∈ (onJf up (jItem 0x71 0 0) { state := 1, queue := [keyRec 6], qn := 7 }).jf.queue, r.qn < 7) ∧
      (onJf up (jItem 0x71 0 0) { state := 1, queue := [keyRec 6], qn := 7 }).jf.syncs = []) ∧
    Open (onJf up (jItem 0x72 0 0) {}) 60 3 0x72 (jItem 0x72 0 0) := by
  and_intros <;> decide +kernel

/-- A journal that writes. -/
def onJournal (j : Journal) : State := { up with jf := j }
def jf0 : Journal := { state := 1, wblk := 1, queue := [keyRec 6], qn := 7, jcnt := 3, snap := 8 }
def prog0 : PageProg := { row := 64, recs := [{ kind := 1, data := zeros 16, jcnt := 3 }, { keyRec 6 with jcnt := 4 }] }

/-- A JF_SYNC that waits while the page with its last record is programmed. -/
def withSync : State := onJf up (jItem 0x71 0 0) { jf0 with prog := some prog0, syncs := [{ ring := 60, idx := 3, qn := 6 }] }

theorem wit_PagesAreProgrammed : (onJournal jf0).halted = false ∧
    (jWrites (onJournal jf0) = true ∧ (onJournal jf0).jf.prog = none ∧ (onJournal jf0).flash.erasing = none ∧ (onJournal jf0).jf.wpage < 64 ∧
      pageDue (onJournal jf0) (waitRing (onJournal jf0)) ((waitRing (onJournal jf0)).map JRec.size).sum (pageSize (onJournal jf0)) = true) ∧
    (jWrites (onJournal { jf0 with wpage := 64, erased := [2] }) = true ∧ (onJournal { jf0 with wpage := 64, erased := [2] }).jf.prog = none ∧
      (onJournal { jf0 with wpage := 64, erased := [2] }).flash.erasing = none ∧ 64 ≤ (onJournal { jf0 with wpage := 64, erased := [2] }).jf.wpage ∧
      nextActive (onJournal { jf0 with wpage := 64, erased := [2] }) (onJournal { jf0 with wpage := 64, erased := [2] }).jf.wblk = 2 ∧
      2 ∈ (onJournal { jf0 with wpage := 64, erased := [2] }).jf.erased ∧
      pageDue (onJournal { jf0 with wpage := 64, erased := [2] }) (waitRing (onJournal { jf0 with wpage := 64, erased := [2] }))
        ((waitRing (onJournal { jf0 with wpage := 64, erased := [2] })).map JRec.size).sum
        (pageSize (onJournal { jf0 with wpage := 64, erased := [2] })) = true) ∧
    (jWrites (onJournal {}) = false ∧ (onJournal { jf0 with prog := some prog0 }).jf.prog.isSome = true ∧
      ({ onJournal jf0 with flash := { (onJournal jf0).flash with erasing := some 2 } } : State).flash.erasing.isSome = true ∧
      (onJournal { jf0 with queue := [] }).jf.queue = []) ∧
    (withSync.jf.prog = some prog0 ∧ withSync.nms.wait = none ∧ withSync.halted = false ∧ withSync.jf.syncs = [{ ring := 60, idx := 3, qn := 6 }] ∧
      (∀ r ∈ withSync.jf.queue, 6 ≤ r.qn) ∧ (findItem withSync 60 3).isSome = true) ∧
    ((onJournal { jf0 with prog := some prog0 }).jf.prog = some prog0 ∧ (onJournal { jf0 with prog := some prog0 }).nms.wait = none) ∧
    (onJournal jf0).jf.state = 1 := by
  and_intros <;> decide +kernel

/-- A page of block 1 with a KEY record, and one of the snapshot area with the item of node 16. -/
def keyPage : Bytes := sealRec [] { kind := 4, data := zeros 48, jcnt := 1 }
def snapPage : Bytes := sealRec [] { kind := 7, data := snapItem hlfEntry, jcnt := 2 }
def rotated (j : Journal) : State := { hlfUp with jf := j, flash := { hlfUp.flash with pages := [(64, keyPage), (64 * 81, snapPage)] } }
def jf1 : Journal := { state := 1, wblk := 20, snap := 8, erased := [83, 84, 85], rotDue := true }
def swept (a : Almanac → Almanac) : State := { rotated jf1 with alm := a (rotated jf1).alm }
def dirtySwept : State := swept (fun a => { a with dirty := [(0, 1)] })
def tombSwept : State := swept (fun a => { a with tombs := [17] })
def scrubbed : State := rotated { jf1 with scrub := some 64 }

/-- The same block with an erase under way, in service and after the supply failed. -/
def erasing : State := { rotated { jf1 with rot := some 21 } with flash := { (rotated jf1).flash with erasing := some 21 } }
def failing : State := { erasing with boot := { erasing.boot with pfail := true } }

theorem wit_BlocksAreRotatedAndScrubbed : (rotated jf1).halted = false ∧ jWrites (rotated jf1) = true ∧
    (failing.boot.pfail = true ∧ failing.flash.erasing = some 21) ∧
    (erasing.halted = false ∧ jWrites erasing = true ∧ Erasing erasing 21) ∧
    (Erasing (rotated { jf1 with rot := some 21 }) 21 ∧ (rotated { jf1 with rot := some 21 }).flash.erasing = none) ∧
    ((rotated { jf1 with rot := some 21, queue := [{ keyRec 0 with src := some 21 }] }).flash.erasing = none ∧
      jWrites (rotated { jf1 with rot := some 21, queue := [{ keyRec 0 with src := some 21 }] }) = true) ∧
    ((rotated jf1).jf.rot = none ∧ (rotated jf1).jf.rotDue = true ∧ nextActive (rotated jf1) (rotated jf1).jf.wblk = 21 ∧
      21 ∉ (rotated jf1).jf.erased) ∧
    (21 ∈ (rotated { jf1 with wblk := 20, erased := [21] }).jf.erased ∧
      ringAge (rotated { jf1 with wblk := 16 }) (keyLow (rotated { jf1 with wblk := 16 })) ≤ 15) ∧
    15 < ringAge (rotated { jf1 with wblk := 17 }) (keyLow (rotated { jf1 with wblk := 17 })) ∧
    ((rotated { jf1 with rot := some 21 }).jf.rot = some 21 ∧ copiesOpen (rotated { jf1 with rot := some 21 }) 21 = false) ∧
    copiesOpen (rotated { jf1 with rot := some 21, queue := [{ keyRec 0 with src := some 21 }] }) 21 = true ∧
    (scrubbed.jf.scrub = some 64 ∧ (tkeys scrubbed.flash.pages).find? (fun r => decide (r ≥ 64) && decide (r ≥ 64)) = some 64 ∧
      (readRow scrubbed 64).2 = true ∧ scrubbed.jf.rot = none ∧ 64 / 64 ≠ scrubbed.jf.wblk ∧ 64 / 64 ≠ scrubbed.jf.sblk ∧ 64 / 64 < 81) ∧
    ((rotated jf1).alm.en = true ∧ (rotated jf1).alm.restoring = false ∧ (rotated jf1).wedged 0 = false ∧
      ((snapBlocks (rotated jf1)).filter (fun b => (rotated jf1).jf.erased.contains b)).length < 4 ∧
      (snapBlocks (rotated jf1)).filter (fun b => !(rotated jf1).jf.erased.contains b && decide (b ≠ (rotated jf1).jf.sblk)) ≠ [] ∧
      ((snapRows (rotated jf1) 81).map (fun x => leAt x.2.2 0 4)).eraseDups = [16] ∧
      (almGet ((rotated jf1).modJf (fun j => { j with rot := some 81 })) 16).2 = some (0, hlfEntry)) ∧
    (tombSwept.alm.dirty.filter (fun d => decide (d.2 = 1) && decide (d.1 ≥ tombSwept.alm.sweep)) = [] ∧
      tombSwept.alm.tombs.length ≤ tombSwept.fcf 0x5108 23 16 - tombSwept.alm.handed) ∧
    (dirtySwept.alm.dirty.filter (fun d => decide (d.2 = 1) && decide (d.1 ≥ dirtySwept.alm.sweep)) = [(0, 1)] ∧ dirtySwept.alm.tombs = [] ∧
      dirtySwept.alm.handed < dirtySwept.fcf 0x5108 23 16 ∧ (almRead dirtySwept 0).2 = some hlfEntry.bytes) := by
  and_intros <;> decide +kernel

/-! ### The Krysa ring -/

def kItem (op : Nat) (f : List (Nat × Bytes)) (keys : List KeyRef := []) : Item := { item (desc op f) keys with ch := 16 }
def kBlock (it : Item) (s : State := up) : State := withOpen s 62 it

/-- A wrapped AES-256 block under an empty key, where AES is the identity. -/
def wrapped32 : Bytes := kwWrap [] ([2] ++ zeros 47)
def loadItem : Item := kItem 0x78 [(0x10, toLe 8 64)] [{ slot := 0x20, gen := 5 }]
def loadBlock (b : Bytes) : State := onDram (kBlock loadItem (onSlot rooted 0x20 noKey)) b

/-- A unit that takes part in the ring, joined. -/
def agent (k : Krysa := { state := 2 }) : State := ({ up with krysa := k } : State).putFc 0x5800 0x22080
def assignItem : Item := kItem 0x79 [(8, toLe 4 16), (0x0C, toLe 4 31), (0x10, [1])]
def queryMap : Item := kItem 0x7A [(8, toLe 8 64)]

/-- The same unit with a ring key. -/
def keyed : State := agent { state := 2, key := zeros 32 }

theorem wit_RingCommandsComplete :
    (Open (kBlock loadItem) 62 3 0x78 loadItem ∧ loadItem.staged = false ∧ lifecycle (kBlock loadItem) ≠ 1 ∧ lifecycle (kBlock loadItem) ≠ 2) ∧
    (Open (loadBlock wrapped32) 62 3 0x78 loadItem ∧ lifecycle (loadBlock wrapped32) = 1 ∧ (loadBlock wrapped32).vault.carnival = false ∧
      (hostRead (loadBlock wrapped32) (addrAt loadItem.desc 0x10) 56).2 = .ok wrapped32 ∧
      kwUnwrap loadItem.hold wrapped32 = some ([2] ++ zeros 47) ∧
      attrOk ([2] ++ zeros 47) 0 = true ∧ leAt ([2] ++ zeros 47) 0 1 = 2) ∧
    (Open (loadBlock (zeros 56)) 62 3 0x78 loadItem ∧ lifecycle (loadBlock (zeros 56)) = 1 ∧ (loadBlock (zeros 56)).vault.carnival = false ∧
      (hostRead (loadBlock (zeros 56)) (addrAt loadItem.desc 0x10) 56).2 = .ok (zeros 56) ∧ kwUnwrap loadItem.hold (zeros 56) = none) ∧
    (Open (kBlock assignItem (agent {})) 62 3 0x79 assignItem ∧ (kBlock assignItem (agent {})).krysa.assign = none ∧
      leAt assignItem.desc 8 4 = 16 ∧ leAt assignItem.desc 0x0C 4 = 31 ∧ leAt assignItem.desc 0x10 1 % 64 = 1 ∧
      assignWhy (kBlock assignItem (agent {})) 16 31 1 = 1) ∧
    (Open (kBlock assignItem keyed) 62 3 0x79 assignItem ∧ keyed.krysa.assign = none ∧ assignWhy (kBlock assignItem keyed) 16 31 1 = 0 ∧
      (kBlock assignItem keyed).krysa.key.length = 32 ∧ (kBlock assignItem keyed).krysa.seq < 65536 ∧ (kBlock assignItem keyed).wedged 3 = false) ∧
    (Open (kBlock queryMap) 62 3 0x7A queryMap ∧ (hostWrite (kBlock queryMap) (addrAt queryMap.desc 8)
      (sub ((kBlock queryMap).krysa.map.flatMap (fun r => toLe 4 r.lo ++ toLe 4 r.hi ++ toLe 1 r.owner ++ zeros 3)) 0 3072)).2 = true) := by
  and_intros <;> decide +kernel

/-- A message of unit 1, of count 100. -/
def kMsg (type : Nat) (body : Bytes) : KMsg := { type := type, origin := 1, cal := 100, body := body }
def onInbox (x : KMsg) (k : Krysa := { state := 2 }) : State := agent { k with inbox := [x] }
def chg (ver org : Nat) : KChange := { ver := ver, origin := org, kind := 1 }
def changeBody (ver : Nat) : Bytes := toBe 4 ver ++ zeros 12
def beaconBody (floor : Nat) : Bytes := zeros 2 ++ toBe 4 floor ++ zeros 5

/-- The message of an entry, and a unit that receives its move. -/
def entryBody : Bytes := [1, 0] ++ hlfEntry.bytes
def moving (l : List KMove) : State := { hlfUp with krysa := { state := 2, movesIn := l, inbox := [kMsg 4 entryBody] } }.putFc 0x5800 0x22080
def lostTo (origin : Nat) : State :=
  withOpen (onInbox { kMsg 3 (changeBody 1) with origin := 0 } { state := 2, prop := some (chg 1 origin), assign := some (62, 3, 100) }) 62 assignItem

/-- A part of a map, and a unit with one range of map version 1. -/
def mapMsg (first n ver : Nat) : KMsg := kMsg 6 (toBe 1 first ++ toBe 1 n ++ toBe 4 ver)
def oneRange : Krysa := { state := 2, mapver := 1, map := [{ lo := 1, hi := 9, owner := 1 }] }

theorem wit_RingMessagesAreProcessed :
    (NextMsg (onInbox (kMsg 1 (beaconBody 7))) 1 (kMsg 1 (beaconBody 7)) [] ∧ (onInbox (kMsg 1 (beaconBody 7))).krysa.state ≠ 3 ∧
      (onInbox (kMsg 1 (beaconBody 7))).krysa.claim = none ∧ (onInbox (kMsg 1 (beaconBody 7))).krysa.wanted = 0) ∧
    (∃ s : State, NextMsg s 1 (kMsg 1 (beaconBody 7)) [] ∧ s.krysa.state ≠ 3 ∧ s.krysa.claim = some (7, 99) ∧ s.krysa.wanted = 1 ∧
      7 ≤ beAt (kMsg 1 (beaconBody 7)).body 2 4 ∧ s.jf.state = 1 ∧ ∀ v ∈ liveOthers s, v = (kMsg 1 (beaconBody 7)).origin ∨ v ∈ s.krysa.claimAck) ∧
    (NextMsg (onInbox (kMsg 2 (toBe 4 9))) 2 (kMsg 2 (toBe 4 9)) [] ∧ 9 = beAt (kMsg 2 (toBe 4 9)).body 0 4 ∧
      (onInbox (kMsg 2 (toBe 4 9))).krysa.claim = none) ∧
    (NextMsg (onInbox (kMsg 2 (toBe 4 9)) { state := 2, claim := some (9, 99) }) 2 (kMsg 2 (toBe 4 9)) [] ∧
      (onInbox (kMsg 2 (toBe 4 9)) { state := 2, claim := some (9, 99) }).krysa.claim = some (9, 99) ∧
      unitNo (onInbox (kMsg 2 (toBe 4 9)) { state := 2, claim := some (9, 99) }) ≤ (kMsg 2 (toBe 4 9)).origin) ∧
    (NextMsg (onInbox (kMsg 2 (toBe 4 9)) { state := 2, claim := some (8, 99) }) 2 (kMsg 2 (toBe 4 9)) [] ∧
      (onInbox (kMsg 2 (toBe 4 9)) { state := 2, claim := some (8, 99) }).krysa.claim = some (8, 99) ∧ 8 < 9) ∧
    (NextMsg (onInbox (kMsg 3 (changeBody 2))) 3 (kMsg 3 (changeBody 2)) [] ∧
      beAt (kMsg 3 (changeBody 2)).body 0 4 ≠ (onInbox (kMsg 3 (changeBody 2))).krysa.mapver + 1) ∧
    (NextMsg (onInbox (kMsg 3 (changeBody 1))) 3 (kMsg 3 (changeBody 1)) [] ∧
      beAt (kMsg 3 (changeBody 1)).body 0 4 = (onInbox (kMsg 3 (changeBody 1))).krysa.mapver + 1 ∧
      (onInbox (kMsg 3 (changeBody 1))).krysa.prop = none) ∧
    (NextMsg (onInbox (kMsg 3 (changeBody 1)) { state := 2, prop := some (chg 1 1) }) 3 (kMsg 3 (changeBody 1)) [] ∧
      (onInbox (kMsg 3 (changeBody 1)) { state := 2, prop := some (chg 1 1) }).krysa.prop = some (chg 1 1) ∧
      (chg 1 1).origin ≤ (kMsg 3 (changeBody 1)).origin) ∧
    (NextMsg (onInbox (kMsg 3 (changeBody 1)) { state := 2, prop := some (chg 1 2) }) 3 (kMsg 3 (changeBody 1)) [] ∧
      (onInbox (kMsg 3 (changeBody 1)) { state := 2, prop := some (chg 1 2) }).krysa.prop = some (chg 1 2) ∧
      (kMsg 3 (changeBody 1)).origin < (chg 1 2).origin ∧
      (onInbox (kMsg 3 (changeBody 1)) { state := 2, prop := some (chg 1 2) }).krysa.assign = none) ∧
    (∃ s : State, NextMsg s 3 { kMsg 3 (changeBody 1) with origin := 0 } [] ∧ s.krysa.prop = some (chg 1 2) ∧ 0 < (chg 1 2).origin ∧
      (chg 1 2).origin = unitNo s ∧ (chg 1 2).kind = 1 ∧ s.krysa.assign = some (62, 3, 100) ∧ (findItem s 62 3).isSome = true) ∧
    (NextMsg (moving []) 4 (kMsg 4 entryBody) [] ∧ beAt (kMsg 4 entryBody).body 0 1 = 1 ∧ (kMsg 4 entryBody).body.length = 34 ∧
      (moving []).krysa.movesIn.find? (fun m => decide (m.src = 1) && !m.ended && decide (m.lo ≤ 16) && decide (16 ≤ m.hi)) = none) ∧
    (NextMsg (moving [{ lo := 16, hi := 31, src := 1 }]) 4 (kMsg 4 entryBody) [] ∧ (almOfBytes (entryBody.drop 2)).node = 16 ∧
      (moving [{ lo := 16, hi := 31, src := 1 }]).krysa.movesIn.find?
        (fun m => decide (m.src = 1) && !m.ended && decide (m.lo ≤ 16) && decide (16 ≤ m.hi)) = some { lo := 16, hi := 31, src := 1 } ∧
      almIndex (moving [{ lo := 16, hi := 31, src := 1 }]) 16 = some 0 ∧ (moving [{ lo := 16, hi := 31, src := 1 }]).wedged 0 = false) ∧
    NextMsg (onInbox (kMsg 5 (toBe 4 1))) 5 (kMsg 5 (toBe 4 1)) [] ∧
    (NextMsg (onInbox (mapMsg 0 0 1)) 6 (mapMsg 0 0 1) [] ∧ beAt (mapMsg 0 0 1).body 0 1 = 0 ∧
      (onInbox (mapMsg 0 0 1)).krysa.mapver < beAt (mapMsg 0 0 1).body 2 4 ∧ (onInbox (mapMsg 0 0 1)).krysa.prop = none) ∧
    (NextMsg (onInbox (mapMsg 1 0 1) oneRange) 6 (mapMsg 1 0 1) [] ∧ beAt (mapMsg 1 0 1).body 0 1 ≠ 0 ∧
      beAt (mapMsg 1 0 1).body 2 4 = (onInbox (mapMsg 1 0 1) oneRange).krysa.mapver ∧
      beAt (mapMsg 1 0 1).body 0 1 = (onInbox (mapMsg 1 0 1) oneRange).krysa.map.length) ∧
    (NextMsg (onInbox (mapMsg 0 0 1) oneRange) 6 (mapMsg 0 0 1) [] ∧
      beAt (mapMsg 0 0 1).body 2 4 ≤ (onInbox (mapMsg 0 0 1) oneRange).krysa.mapver ∧ beAt (mapMsg 0 0 1).body 0 1 = 0) := by
  refine ⟨?_, ⟨{ onInbox (kMsg 1 (beaconBody 7)) { state := 2, claim := some (7, 99), wanted := 1 } with jf := { state := 1 } }, ?_⟩, ?_, ?_, ?_, ?_, ?_,
    ?_, ?_, ⟨(lostTo 2).putFc 0x5800 0x22082, ?_⟩, ?_⟩ <;> and_intros <;> decide +kernel

/-- A ring message of unit 1 before its tag, one byte of body. -/
def kPre : Bytes := [1, 1, 0, 0, 0, 1] ++ toBe 6 100 ++ [0, 0] ++ [0]
def kSealed : Bytes := kPre ++ gcmTag (zeros 32) (krIv 1 100 0) (kPre.take 14) [0]

theorem kSealed_sub (off n : Nat) (h : off + n ≤ 15) : sub kSealed off n = sub kPre off n := sub_left _ _ _ _ (by simpa [kPre, toBe, toLe_len] using h)

theorem kSealed_opens : ∃ b, krOpen (zeros 32) kSealed = some b := by
  have hl : kSealed.length = 31 := by rw [kSealed, List.length_append, gcmTag_length]; decide
  have ht : sub kSealed 15 16 = gcmTag (zeros 32) (krIv 1 100 0) (kPre.take 14) [0] := by
    have := sub_mid kPre (gcmTag (zeros 32) (krIv 1 100 0) (kPre.take 14) [0]) [] 15 16 (by decide) (gcmTag_length _ _ _ _)
    simpa [kSealed] using this
  have hn : beAt kSealed 4 2 = 1 := by rw [beAt, kSealed_sub _ _ (by decide)]; decide
  have ho : beAt kSealed 1 1 = 1 := by rw [beAt, kSealed_sub _ _ (by decide)]; decide
  have hc : beAt kSealed 6 6 = 100 := by rw [beAt, kSealed_sub _ _ (by decide)]; decide
  have hq : beAt kSealed 12 2 = 0 := by rw [beAt, kSealed_sub _ _ (by decide)]; decide
  have hh : overlay (sub kSealed 0 14) 2 [0#8] = kPre.take 14 := by rw [kSealed_sub _ _ (by decide)]; decide
  have hb : sub kSealed 14 1 = [0] := by rw [kSealed_sub _ _ (by decide)]; decide
  refine ⟨gcmText (zeros 32) (krIv 1 100 0) [0], ?_⟩
  rw [krOpen, if_neg (by decide)]
  simp only [hn, ho, hc, hq, hh, hb, hl]
  rw [show 14 + 1 = 15 from rfl, ht, if_pos (by simp)]

/-- Unit 1 itself, which began tick 100 at time 0. -/
def own : State := ({ keyed with alm := { keyed.alm with times := [(100, 0)] } } : State).putFc 0x5800 0x22081

theorem wit_RingTransportAndTimeouts : Agent (agent) ∧ krOpen (agent).krysa.key [1] = none ∧ krOpen (agent).krysa.oldKey [1] = none ∧
    (∃ b, krOpen (agent { state := 2, key := zeros 32 }).krysa.key kSealed = some b) ∧ Agent (agent { state := 2, key := zeros 32 }) ∧
    (beAt kSealed 1 1 ≠ unitNo (agent { state := 2, key := zeros 32 }) ∧ beAt kSealed 1 1 < krCount (agent { state := 2, key := zeros 32 })) ∧
    (beAt kSealed 6 6 = 100 ∧ beAt kSealed 12 2 ≤ 0 ∧
      ((agent { state := 2, key := zeros 32, peers := [(1, { last := some (100, 0) })] }).peer (beAt kSealed 1 1)).last = some (100, 0)) ∧
    (((agent { state := 2, key := zeros 32 }).peer (beAt kSealed 1 1)).last = none ∧ beAt kSealed 0 1 = 1) ∧
    (Agent own ∧ unitNo own = 1 ∧ own.krysa.key = zeros 32 ∧ own.krysa.backCal < 100 ∧
      own.alm.times.find? (fun p => decide (p.1 = 100)) = some (100, 0)) ∧
    ((agent { state := 2, claim := some (7, 36) }).krysa.claim = some (7, 36) ∧ 64 ≤ (agent { state := 2, claim := some (7, 36) }).count - 36 ∧
      (agent { state := 2, claim := some (7, 37) }).count - 37 < 64) ∧ (agent).boot.inReset = false ∧ (agent).boot.asleep = false ∧
    (1 ∈ others (agent) ∧ leaseOut (agent) 1 = true ∧ leaseOut (agent { state := 2, peers := [(1, { lease := true })] }) 1 = false) := by
  have ho : beAt kSealed 1 1 = 1 := by rw [beAt, kSealed_sub _ _ (by decide)]; decide
  have hc : beAt kSealed 6 6 = 100 := by rw [beAt, kSealed_sub _ _ (by decide)]; decide
  have hq : beAt kSealed 12 2 = 0 := by rw [beAt, kSealed_sub _ _ (by decide)]; decide
  have h1 : beAt kSealed 0 1 = 1 := by rw [beAt, kSealed_sub _ _ (by decide)]; decide
  have hk : (agent { state := 2, key := zeros 32 }).krysa.key = zeros 32 := by decide +kernel
  rw [ho, hc, hq, h1, hk]
  refine ⟨by decide +kernel, by decide +kernel, by decide +kernel, kSealed_opens, ?_⟩
  and_intros <;> decide +kernel

/-! ### Memory -/

/-- A region of 1 MiB at 16 MiB, its tag area at 1 GiB. -/
def rgn (mode : Nat) : Region :=
  { base := 16, size := 1, tag := 8192, mode := mode, kidLo := 1, kidHi := 3, clsBase := 0x7FFF, clsKid := 0x7FFF, en := true, epoch := 1 }
def memSlot : Slot := { live with domain := 1, roles := 1, channels := 0xFFFF, ops := 0xF }
def memUp (m : Mem → Mem := id) (x : Slot := memSlot) (r : Region := rgn 0) : State :=
  { onSlot up 0x010 x with mem := m { up.mem with regions := [(0, r)] } }

def isServed (x : Accept) : Bool := match x with | .serve _ => true | _ => false

/-- A tag line of epoch 1 whose line 0 has this minor counter and tag. -/
def tagLine (minor : Nat) (tag : Bytes) : Bytes := tlSet (tlInitial 1) 0 minor tag
def cline (b : Bytes) : CLine := { grp := 0x8000, addr := 0x40000000, data := b, dirty := true }

/-- A full-line write whose tag line is resident, unmarked, with nothing older on its group and room in its minor counter. -/
def takenFast (b : Bytes) : Bool :=
  match accept (memUp (fun m => { m with chan := [(0, { cc := [cline b] })] })) 0x1000000 1 true with
  | (s1, .serve t) => decide (findLine s1 t.ch 0x8000 = some (cline b)) && s1.mem.inflight.isEmpty &&
      (s1.mchan t.ch).cc.all (fun x => !x.marked) && decide (tlMinor b 0 < 255) && decide (lineState t.reg.mode b 0 = .written)
  | _ => false

theorem wit_MemoryAccessesAreChecked : portDead memUp = false ∧ memUp.tick.due = false ∧ dueState.tick.due = true ∧ portDead dueState = false ∧
    (metaAreas memUp).any (inArea ((0x40000000#48).toNat % 2 ^ 40 / 64 * 64)) = true ∧
    (metaAreas memUp).any (inArea ((0x40020000#48).toNat % 2 ^ 40 / 64 * 64)) = false ∧
    ((metaAreas memUp).any (inArea ((0x1000000#48).toNat % 2 ^ 40 / 64 * 64)) = false ∧ regionOf memUp ((0x1000000#48).toNat % 2 ^ 40 / 64 * 64) = some 0 ∧
      regionOf memUp ((0x10FFFFF#48).toNat % 2 ^ 40 / 64 * 64) = some 0 ∧ regionOf memUp ((0x1100000#48).toNat % 2 ^ 40 / 64 * 64) = none ∧
      regionOf memUp ((0xFFFFFF#48).toNat % 2 ^ 40 / 64 * 64) = none) ∧
    (refusal memUp 0 0x1000000 0 15 true = 2 ∧ refusal memUp 0 0x1000000 4 1 true = 4 ∧ refusal memUp 0 0x1000000 1 1 true = 6) ∧
    (refusal (memUp id {}) 0 0x1000000 0 1 true = 0 ∧ keyCheck (memUp id {}) [((groupKeys (memUp id {}) 0 0 (0x1000000 / 512 - 16 * 2 ^ 11)).1,
      memPermit ((memUp id {}).steerOf 0x1000000) true)] ≠ stOK) ∧
    isServed (accept memUp (0x1000000#48).toNat 1 false).2 = true ∧ isServed (accept memUp (0x1000000#48).toNat 1 true).2 = true ∧
    takenFast (tagLine 7 (zeros 6)) = true ∧ (1#64 : BitVec 64) ≠ BitVec.allOnes 64 ∧
    (∀ x ∈ memUp.mem.inflight, x.addr / 512 ≠ 0) ∧ Memory.wf memUp := by
  and_intros <;> decide +kernel

def txn (mode : Nat) (write : Bool) (be : Nat) : Txn :=
  { tag := 5, write := write, addr := 0x1000000, cls := 1, data := zeros 64, be := be, reg := rgn mode, epoch := 1 }
def served (b : Bytes) (t : Txn) : State := memUp (fun m => { m with inflight := [t], chan := [(0, { cc := [cline b] })] })
def okLine (b : Bytes) (t : Txn) : Bytes × Bool := openLine t b (t.addr / 64 % 8) t.addr (dramGet (served b t) t.addr 64)

theorem served_is (b : Bytes) (mode : Nat) (write : Bool) (be : Nat) : Served (served b (txn mode write be)) 0 (txn mode write be) (cline b) := by
  have hi : (served b (txn mode write be)).mem.inflight = [txn mode write be] := by simp only [served, memUp]
  have hc : (served b (txn mode write be)).mem.chan = [(0, { cc := [cline b] })] := by simp only [served, memUp]
  have hp : portDead (served b (txn mode write be)) = false := by simp only [portDead, served, memUp, onSlot, up]; decide
  have hg : (txn mode write be).addr / 512 = 0x8000 := by simp only [txn]
  have hcc : ((served b (txn mode write be)).mchan (txn mode write be).ch).cc = [cline b] := by rw [State.mchan, hc]; simp [tget, txn]
  refine ⟨hp, ⟨txn mode write be, by simp [hi], by simp [hi]⟩, by simp only [txn], ?_, ?_⟩
  · simp [findLine, hcc, hg, cline]
  · intro x hx _
    rw [hcc] at hx
    rw [List.mem_singleton.mp hx, cline]

theorem wit_MemoryIsServedAndCached :
    (∀ b mode write be, Served (served b (txn mode write be)) 0 (txn mode write be) (cline b)) ∧
    (txn 0 false 0).write = false ∧ lineState 0 (tagLine 0 (zeros 6)) 0 = .unwritten ∧
    (lineState 0 (tagLine 1 (zeros 6)) 0 = .written ∧ (okLine (tagLine 1 (zeros 6)) (txn 0 false 0)).2 = true) ∧
    (lineState 1 (tagLine 1 [1, 0, 0, 0, 0, 0]) 0 = .written ∧ (okLine (tagLine 1 [1, 0, 0, 0, 0, 0]) (txn 1 false 0)).2 = false) ∧
    lineState 1 (tagLine 0 [1, 0, 0, 0, 0, 0]) 0 = .corrupt ∧ lineState 1 (tagLine 7 tagPoison) 0 = .poisoned ∧ lineState 1 (tlLost 1) 7 = .lost ∧
    ((txn 0 true (2 ^ 64 - 1)).write = true ∧ tlMinor (tagLine 254 (zeros 6)) 0 < 255 ∧ lineState 0 (tagLine 254 (zeros 6)) 0 = .written ∧
      Memory.wf (served (tagLine 254 (zeros 6)) (txn 0 true (2 ^ 64 - 1)))) ∧
    (lineState 0 (tagLine 0 (zeros 6)) 0 = .unwritten ∧ (txn 0 true 1).be ≠ 2 ^ 64 - 1) ∧
    (lineState 1 (tagLine 7 tagPoison) 0 = .poisoned ∧ (txn 1 true (2 ^ 64 - 1)).be = 2 ^ 64 - 1 ∧ tlMinor (tagLine 7 tagPoison) 0 < 255) ∧
    (∀ b t, noteDram (served b t) {} = served b t) ∧ (served (zeros 64) (txn 1 false 0)).dm (txn 1 false 0).addr ≠ 2 ∧
    (noteDram (served (tagLine 1 (zeros 6)) (txn 1 false 0)) { errs := [(0x1000000, 2)] }).dm (txn 1 false 0).addr = 2 ∧
    (portDead memUp = false ∧ memUp.mem.inflight = [] ∧ treeRegion (memUp id memSlot (rgn 2)) 0 = some 0 ∧ (memUp id memSlot (rgn 2)).mem.inflight = []) ∧
    (∃ s : State, portDead s = false ∧ (s.chan 0).fenced = false ∧ (s.mchan 0).wb = (64, zeros 64) :: [] ∧ Memory.wf s) ∧
    (∃ s : State, ((s.mchan 0).cc.filter (·.marked)).getLast? = some { cline (zeros 64) with marked := true } ∧ portDead s = false ∧ (s.chan 0).fenced = false ∧
      (∀ x ∈ (s.mchan 0).cc, x.grp = 0x8000 → x.marked = true → x = { cline (zeros 64) with marked := true }) ∧ Memory.wf s) ∧
    ((memUp id memSlot { rgn 1 with init := some 0 }).region 0 = { rgn 1 with init := some 0 } ∧
      (memUp id memSlot { rgn 1 with init := some 0 }).halted = false ∧ 0 + 1 < (rgn 1).size * 2 ^ 11 ∧ (rgn 1).size * 2 ^ 11 ≤ 2047 + 1 ∧
      (memUp id memSlot { rgn 1 with init := some 2047 }).region 0 = { rgn 1 with init := some 2047 } ∧
      (∀ m ∈ tkeys (memUp id memSlot { rgn 1 with init := some 0 }).mem.regions, ¬ m < 0)) := by
  refine ⟨served_is, ?_, ?_, ?_, ?_, ?_, ?_, ?_, ?_, ?_, ?_, fun _ _ => rfl, ?_, ?_, ?_, ⟨memUp (fun m => { m with chan := [(0, { wb := [(64, zeros 64)] })] }), ?_⟩,
    ⟨memUp (fun m => { m with chan := [(0, { cc := [{ cline (zeros 64) with marked := true }] })] }), ?_⟩, ?_⟩ <;> and_intros <;> decide +kernel

/-- A job that runs on the region. -/
def job (kind phase : Nat) (scrub : Bool) : Job :=
  { state := 1, phase := phase, region := 0, kind := kind, keyid := 0, scrub := scrub, oldD := { slot := 0x010, gen := 5 }, oldEpoch := 1, quota := 8 }
def jobUp0 (jb : Job) (b : Bytes := tlInitial 1) (x : Slot := memSlot) : State :=
  memUp (fun m => { m with jobs := [(0, jb)], trees := [(0, { base := 65536, en := true })], chan := [(0, { cc := [cline b] })] }) x
    { rgn (if jb.phase = 0 then 0 else 2) with epoch := 2 }
/-- The same with a copy of the key in the bank of channel 0, and with a KeyID that names an empty slot. -/
def jobUp (jb : Job) (b : Bytes := tlInitial 1) (x : Slot := memSlot) : State :=
  onChan (jobUp0 jb b x) 0 { (jobUp0 jb b x).chan 0 with bank := [{ slot := 0x010, gen := 5, share1 := zeros 32, share2 := zeros 32 }] }
def noNew : State := let s := jobUp (job 0 0 false); { s with mem := { s.mem with kids := [(0, { data := { slot := 0x30 }, en := true })] } }
def jobKey : State × Option Bytes := memKey (jobUp (job 0 0 false)) 0 { slot := 0x010, gen := 5 } true

theorem wit_EquinoxConvertsAndRebuilds :
    (jobUp (job 0 0 false)).job 0 = job 0 0 false ∧ nextUnit (jobUp (job 0 0 false)) 0 = some 0 ∧ Memory.wf (jobUp (job 0 0 false)) ∧
    (jobUp (job 0 0 false)).steerOf (16 * 2 ^ 20 + 512 * 0) = 0 ∧ memServed (jobUp (job 0 0 false)) 0 = true ∧ (jobUp (job 0 0 false)).mem.inflight = [] ∧
    keyCheck (jobUp (job 0 0 false) (tlInitial 1) {}) [((job 0 0 false).oldD, memPermit 0 true)] ≠ stOK ∧
    nextUnit (jobUp (job 0 0 false) (tlInitial 1) {}) 0 = some 0 ∧
    (nextUnit noNew 0 = some 0 ∧ (jobKeys noNew 0 0 (noNew.region 0).mode (job 0 0 false).oldD (job 0 0 false).oldT).2.isSome = true ∧
      keyCheck (jobKeys noNew 0 0 (noNew.region 0).mode (job 0 0 false).oldD (job 0 0 false).oldT).1 [((noNew.kid 0).data, memPermit 0 true)] ≠ stOK) ∧
    (((jobUp (job 0 0 false)).region 0).mode = 0 ∧ jobKey.2 = some (zeros 32) ∧
      (memKey jobKey.1 0 ((jobUp (job 0 0 false)).kid 0).data true).2 = some (zeros 32)) ∧ portDead (jobUp (job 0 0 false)) = false ∧
    noteDram (jobUp (job 0 0 false)) {} = jobUp (job 0 0 false) ∧
    (findLine (jobUp (job 0 0 false)) 0 ((16 * 2 ^ 20 + 512 * 0) / 512) = some (cline (tlInitial 1)) ∧
      (∀ x ∈ ((jobUp (job 0 0 false)).mchan 0).cc, x.marked = false) ∧ tlMajor (cline (tlInitial 1)).data ≠ majorLost) ∧
    (findLine (jobUp (job 0 0 false) (tlLost 0)) 0 ((16 * 2 ^ 20 + 512 * 0) / 512) = some (cline (tlLost 0)) ∧
      tlMajor (cline (tlLost 0)).data = majorLost) ∧
    (nextUnit (jobUp (job 1 0 false)) 0 = some 0 ∧ Memory.wf (jobUp (job 1 0 false)) ∧ (job 1 0 false).scrub = false) ∧
    (nextUnit (jobUp (job 1 0 true)) 0 = some 0 ∧ (job 1 0 true).scrub = true) ∧
    (nextUnit (jobUp (job 1 1 false)) 0 = some 0 ∧ (job 1 1 false).phase ≠ 0) := by
  and_intros <;> decide +kernel

theorem wit_LifecycleOnlyMovesForward : ∃ t, step rooted = .next t ∧ lifecycle rooted = 1 := by
  refine ⟨rooted, ?_, by decide +kernel⟩
  have h : rooted.pending = [] := by decide +kernel
  simp [step, h]

theorem wit_FusesOnlyBurn : rooted.fuses.alarmCount ≤ 16 ∧ rooted.fuses.lock = true ∧ ∃ t, step rooted = .next t := by
  refine ⟨by decide +kernel, by decide +kernel, rooted, ?_⟩
  have h : rooted.pending = [] := by decide +kernel
  simp [step, h]

/-! ### Well-formedness: one ill-formed command for each check -/

theorem test_wf_rings : (Instr.gcmEnc 48 0).wf = false ∧ (Instr.gcmEnc 47 0).wf = true ∧ (Instr.generate 47 0).wf = false ∧
    (Instr.generate 56 0).wf = false ∧ (Instr.generate 48 0).wf = true ∧ (Instr.nmsStats 60 0).wf = false ∧ (Instr.jfSync 62 0).wf = false ∧
    (Instr.krQuery 61 0).wf = false ∧ (Instr.krQuery 63 65535).wf = true := by decide

theorem test_wf_index : (Instr.nop 0 65536).wf = false ∧ (Instr.nop 63 65535).wf = true := by decide

theorem test_wf_frames : (Instr.clientTxFrame 0 (zeros 13)).wf = false ∧ (Instr.lineRxFrame 1 (zeros 13) false).wf = false ∧
    (Instr.clientTxFrame 0 (zeros 14)).wf = true := by decide

theorem test_wf_ring_message : (Instr.ringMessageForward true (zeros 30) true).wf = false ∧ (Instr.ringMessageForward true (zeros 31) true).wf = true ∧
    (Instr.ringMessageForward true (zeros 1055) true).wf = false := by decide +kernel

theorem test_wf_dram : (Instr.dramDataReturn 0 { errs := [(63, 2)] }).wf = false ∧ (Instr.dramDataReturn 0 { errs := [(2 ^ 40, 1)] }).wf = false ∧
    (Instr.eqxGroupConvert 0 { errs := [(1, 2)] }).wf = false ∧ (Instr.eqxGroupConvert 0 { errs := [(64, 2)] }).wf = true ∧
    (Instr.dramDataReturn 0 {}).wf = true := by decide

theorem test_wf_codes : (Instr.alarm (.vigil 0) 0).wf = false ∧ (Instr.alarm (.vigil 1) 0).wf = true ∧ (Instr.datapathFault 0 0).wf = false ∧
    (Instr.scrubRead 4).wf = false ∧ (Instr.scrubRead 3).wf = true ∧ (Instr.dbgResponse (zeros 15)).wf = false := by decide

/-! ### The standards the block computes by, on their published examples -/

/-- FIPS 180-4, SHA-384 of "abc": the first and the last eight bytes. -/
theorem test_sha384_abc : beN ((sha384 (asc "abc")).take 8) = 0xcb00753f45a35e8b ∧ beN ((sha384 (asc "abc")).drop 40) = 0x58baeca134c825a7 := by
  decide +kernel

/-- The check value of CRC-32. -/
theorem test_crc32 : crc32 (asc "123456789") = 0xCBF43926 := by decide +kernel

/-! ### One step -/

/-- A step takes the front command: here a NOP finds no item, and the queue's rest stays. -/
theorem test_step_front : (match step { up with pending := [.nop 0 0, .bypass] } with | .next t => t.pending | _ => []) = [.bypass] := by decide +kernel

/-- A step on an empty queue idles. -/
theorem test_step_idle : (match step up with | .next t => t.tick.count | _ => 0) = 100 := by decide +kernel
end Sys2Proof.Tests
end

section
/-! PROOFS. What REGISTER_WRITE does at the host port: one rule per kind of register, and the statement on register writes
assembled from them (R12, R81, R357, R534, R535). -/

namespace Sys2Proof.Machine

open Sys2Proof.Claims

/-! ### A write of full width that the port takes -/

/-- Outside reset and sleep, an access in no error of R44, R45 or R534 is acted on. -/
theorem regAccess_of_accepted {s : State} {write : Bool} {off be : Nat} {priv : Bool} {f : State → State}
    (hdead : hostDead s = false) (hok : accessError write off be priv = 0) : regAccess s write off be priv f = f s := by
  simp [regAccess, hdead, hok]

section
variable {s : State} {off : BitVec 18} {val : Word} {priv : Bool} (hup : HostUp s) (htaken : WriteTaken off.toNat priv)
include hup htaken

/-- An unassigned offset takes nothing: only the port's answer changes (R534). -/
theorem exec_registerWrite_of_unassigned (hrow : regRow off.toNat = none) :
    exec (.registerWrite off val 15 priv) s = .next (hostOk s 0) := by
  obtain ⟨hdead, -⟩ := hup
  have hwrite : writeReg s off.toNat val.toNat 15 priv 0 = hostOk s 0 := by
    simp only [writeReg, regAccess_of_accepted hdead htaken, hrow]
  exact congrArg _ hwrite

/-- A register that is neither an event nor an enable register takes the write as `takeWrite` says (R537). -/
theorem exec_registerWrite_of_row {r : RegRow} {k : RegKind} (hrow : regRow off.toNat = some r) (hk : r.kind = k)
    (hplain : k ≠ .evt ∧ k ≠ .irqEn := by decide) :
    exec (.registerWrite off val 15 priv) s = .next (takeWrite (hostOk s 0) r off.toNat val.toNat) := by
  obtain ⟨hdead, hshut⟩ := hup
  obtain ⟨hevt, hirq⟩ := hplain
  have hopen : hostShut (hostOk s 0) = false := hshut
  have hwrite : writeReg s off.toNat val.toNat 15 priv 0 = takeWrite (hostOk s 0) r off.toNat val.toNat := by
    simp [writeReg, regAccess_of_accepted hdead htaken, hrow, hk, hevt, hirq, hopen]
  exact congrArg _ hwrite

end

/-! ### What a register that exists makes of it -/

section
variable {s t : State} {r : RegRow} {off val : Nat}

/-- A write that no Calends instant delays reaches the register. -/
theorem takeWrite_of_prompt (h : s.tick.due = false ∨ landsLate r.kind off = false) : takeWrite s r off val = putReg s r off val := by
  have hnow : (s.tick.due && landsLate r.kind off) = false := by simpa only [Bool.and_eq_false_iff] using h
  simp [takeWrite, hnow]

/-- Between a Calends instant and the end of its commit a write of Calends effect waits, unless its register refuses it. -/
theorem takeWrite_of_late (hdue : s.tick.due = true) (hlate : landsLate r.kind off = true)
    (hok : r.kind = .cal → refuseWrite s off (val &&& r.mask) = none) :
    takeWrite s r off val = { s with lateWr := s.lateWr ++ [(off, val)] } := by
  have hnone : (if r.kind = .cal then refuseWrite s off (val &&& r.mask) else none) = none := by
    split
    · exact hok ‹_›
    · rfl
  simp [takeWrite, hdue, hlate, hnone]

theorem calWrite_of_refused {v : Nat} (h : refuseWrite s off v = some t) : calWrite s off v = t := by
  simp [calWrite, h]

theorem calWrite_of_accepted {v : Nat} (h : refuseWrite s off v = none) (hkr : off ≠ 0x5800) : calWrite s off v = s.putWr off v := by
  simp [calWrite, h, hkr]

theorem putReg_cal (hk : r.kind = .cal) : putReg s r off val = calWrite s off (val &&& r.mask) := by
  simp [putReg, hk]

/-- A refusal acts at once, whether a commit is due or not. -/
theorem takeWrite_of_refused (hk : r.kind = .cal) (href : refuseWrite s off (val &&& r.mask) = some t) :
    takeWrite s r off val = t := by
  cases hdue : s.tick.due with
  | false => rw [takeWrite_of_prompt (.inl hdue), putReg_cal hk, calWrite_of_refused href]
  | true => simp [takeWrite, hdue, hk, landsLate, href]

theorem takeWrite_ro (hk : r.kind = .ro) : takeWrite s r off val = s := by
  rw [takeWrite_of_prompt (.inr (by simp [landsLate, hk]))]
  simp [putReg, hk]

theorem takeWrite_imm (hk : r.kind = .imm) : takeWrite s r off val = s.putWr off (val &&& r.mask) := by
  rw [takeWrite_of_prompt (.inr (by simp [landsLate, hk]))]
  simp [putReg, hk]

/-- The Almanac's holding copy takes no write once the Almanac is enabled (R357). -/
theorem takeWrite_hold (hk : r.kind = .hold) (hdue : s.tick.due = false) :
    takeWrite s r off val = if s.alm.en = true ∧ 0x13800 ≤ off ∧ off < 0x1380C then s else s.putWr off (val &&& r.mask) := by
  rw [takeWrite_of_prompt (.inl hdue)]
  simp [putReg, hk]

theorem takeWrite_cal (hk : r.kind = .cal) (hdue : s.tick.due = false) (hok : refuseWrite s off (val &&& r.mask) = none)
    (hkr : off ≠ 0x5800) : takeWrite s r off val = s.putWr off (val &&& r.mask) := by
  rw [takeWrite_of_prompt (.inl hdue), putReg_cal hk, calWrite_of_accepted hok hkr]

/-- A refusal sets an event bit, a ring's error or nothing: what is in force stays. -/
theorem refuseWrite_fc {v : Nat} (h : refuseWrite s off v = some t) : t.regs.fc = s.regs.fc := by
  unfold refuseWrite at h
  repeat' split at h
  all_goals cases h <;> rfl

end

end Sys2Proof.Machine

namespace Sys2Proof.Proofs

open Sys2Proof.Machine Sys2Proof.Claims

/-- Settles O15, by one rule of `takeWrite` per kind of register, behind a port that takes the write. -/
theorem registerWritesReachTheirRegister : Obligations.RegisterWritesReachTheirRegister := by
  unfold Obligations.RegisterWritesReachTheirRegister
  intro s off val priv hup htaken
  refine ⟨fun r hr hk => ⟨_, exec_registerWrite_of_row hup htaken hr hk, takeWrite_imm hk⟩,
    fun r hr hk hdue => ⟨_, exec_registerWrite_of_row hup htaken hr hk, takeWrite_hold (s := hostOk s 0) hk hdue⟩,
    fun r hr hk hdue hkr hok => ⟨_, exec_registerWrite_of_row hup htaken hr hk, ?accepted⟩,
    fun r t hr hk href => ⟨_, exec_registerWrite_of_row hup htaken hr hk, ?refused⟩,
    fun r hr hdue hk => ?late, fun hr => ?nothing⟩
  case accepted =>
    rw [takeWrite_cal (s := hostOk s 0) hk hdue hok hkr]
    exact ⟨rfl, by simp, fun o ho => by simp [ho], rfl, rfl⟩
  case refused =>
    rw [takeWrite_of_refused hk href]
    exact ⟨rfl, refuseWrite_fc (s := hostOk s 0) href⟩
  case late =>
    obtain hh | ⟨hc, hok⟩ := hk
    · exact ⟨_, exec_registerWrite_of_row hup htaken hr hh,
        takeWrite_of_late (s := hostOk s 0) hdue (by simp [landsLate, hh]) (by simp [hh])⟩
    · exact ⟨_, exec_registerWrite_of_row hup htaken hr hc,
        takeWrite_of_late (s := hostOk s 0) hdue (by simp [landsLate, hc]) (fun _ => hok)⟩
  case nothing =>
    obtain hnone | ⟨r, hr, hk⟩ := hr
    · exact ⟨_, exec_registerWrite_of_unassigned hup htaken hnone, rfl⟩
    · exact ⟨_, exec_registerWrite_of_row hup htaken hr hk, takeWrite_ro hk⟩

end Sys2Proof.Proofs
end

section
/-! PROOFS. The state right after reset: what its tables read, and the statement on reset assembled from that (R26, R71). -/

namespace Sys2Proof.Machine

open Sys2Proof.Claims

/-- A table listed from a function of its keys reads that function at a listed key, the default at every other. -/
theorem tget_map_keys {α : Type} (d : α) (f : Nat → α) (k : Nat) :
    ∀ keys : List Nat, tget d (keys.map (fun n => (n, f n))) k = if k ∈ keys then f k else d
  | [] => rfl
  | n :: keys => by
    have ih := tget_map_keys d f k keys
    by_cases hk : k = n
    · simp [tget, hk]
    · simp [tget, hk, ih]

/-- Each of the 16 channels starts as its full reset leaves it. -/
theorem reset_chan {n : Nat} (hn : n < 16) : State.reset.chan n = Chan.reset n := by
  have hlisted : n ∈ List.range 16 := List.mem_range.mpr hn
  simp only [State.chan, State.reset, tget_map_keys, hlisted, if_true]

/-- Reset lists no byte of memory and burns no alarm fuse. -/
theorem reset_inv : Inv State.reset := ⟨rfl, Nat.zero_le 16⟩

end Sys2Proof.Machine

namespace Sys2Proof.Proofs

open Sys2Proof.Machine Sys2Proof.Claims

/-- Settles O4: the reset state is read field by field, its channels through the table that lists them. -/
theorem resetHasInvariant : Obligations.ResetHasInvariant := by
  unfold Obligations.ResetHasInvariant
  refine ⟨reset_inv, ?count, ?queue, ?roles⟩
  case count => rfl
  case queue => rfl
  case roles =>
    intro n
    rw [reset_chan n.isLt]
    rfl

end Sys2Proof.Proofs
end

section
/-! PROOFS. What the host port answers to an access in error, and the statement on refused accesses assembled from it (R44, R45,
R534, R537, R545). -/

namespace Sys2Proof.Machine

/-! ### The security log -/

/-- Capturing an event changes the log and the NMS event register alone. -/
theorem logPut_frame (s : State) (ev cls : Nat) (data : Bytes) :
    s.logPut ev cls data = { s with regs := (s.logPut ev cls data).regs, log := (s.logPut ev cls data).log } := by
  unfold State.logPut State.logStore State.logLose
  dsimp only
  repeat' split
  all_goals rfl

theorem logStore_stw (s : State) (ev cls : Nat) (data : Bytes) (off : Nat) : (s.logStore ev cls data).stw off = s.stw off := by
  unfold State.logStore
  dsimp only
  split <;> rfl

theorem logPut_stw (s : State) (ev cls : Nat) (data : Bytes) (off : Nat) : (s.logPut ev cls data).stw off = s.stw off := by
  have hlose : ∀ t : State, t.logLose.stw off = t.stw off := fun _ => rfl
  unfold State.logPut
  dsimp only
  repeat' split
  all_goals simp only [hlose, logStore_stw]
  all_goals rfl

/-- With room in the buffer and nothing lost, the event becomes its newest entry (R487). -/
theorem logPut_buf {s : State} (ev cls : Nat) (data : Bytes) (hlive : s.halted = false) (hroom : s.log.buf.length < 16384)
    (hkept : s.log.lost = 0) : (s.logPut ev cls data).log.buf =
      s.log.buf ++ [{ seq := s.log.seq, data := logEntry s s.log.seq ev cls data, since := s.alm.time }] := by
  have hcaptures : (s.boot.inReset || s.boot.asleep || s.boot.alarm || s.boot.lockout || s.boot.stopped || s.boot.pfail) = false := by
    simp only [State.halted, Bool.or_eq_false_iff] at hlive ⊢
    exact hlive.1
  have hput : s.logPut ev cls data = s.logStore ev cls data := by
    simp [State.logPut, hcaptures, hkept, Nat.not_le.mpr hroom]
  rw [hput]
  unfold State.logStore
  dsimp only
  split <;> rfl

/-! ### The error response -/

/-- The error response as counted and recorded, before the security log hears of it. -/
def hostErrorCounted (s : State) (write : Bool) (off reason : Nat) : State :=
  ((hostSilent s).inc 0x30004 15 0).putSt 0x30008 (off % 2 ^ 18 + b2n write * 2 ^ 18 + reason * 2 ^ 19)

theorem hostError_of_allowed (s : State) (write : Bool) (off reason : Nat) :
    hostError s write off reason false = hostErrorCounted s write off reason := rfl

theorem hostError_of_denied (s : State) (write : Bool) (off reason : Nat) :
    hostError s write off reason true = (hostErrorCounted s write off reason).logPut 0x10 3 (toLe 4 (off % 2 ^ 18)) := rfl

theorem hostError_frame (s : State) (write : Bool) (off reason : Nat) (deny : Bool) :
    hostError s write off reason deny = { s with
      host := (hostSilent s).host, regs := (hostError s write off reason deny).regs, log := (hostError s write off reason deny).log } := by
  cases deny with
  | false => rfl
  | true =>
    rw [hostError_of_denied, logPut_frame]
    rfl

theorem hostError_host (s : State) (write : Bool) (off reason : Nat) (deny : Bool) :
    (hostError s write off reason deny).host = (hostSilent s).host := by
  rw [hostError_frame]

theorem hostError_stw (s : State) (write : Bool) (off reason : Nat) (deny : Bool) (q : Nat) :
    (hostError s write off reason deny).stw q = (hostErrorCounted s write off reason).stw q := by
  cases deny with
  | false => rfl
  | true => rw [hostError_of_denied, logPut_stw]

theorem exec_hostAccessError (s : State) (write : Bool) (off : BitVec 18) (val : Word) (be : BitVec 4) (priv : Bool) :
    exec (.hostAccessError write off val be priv) s =
      .next (if write then writeReg s off.toNat val.toNat be.toNat priv 0 else readReg s off.toNat be.toNat priv) := rfl

/-- In reset and in sleep HOST_ACCESS_ERROR gets the error response, which counts nowhere (R537, R545). -/
theorem exec_hostAccessError_of_dead {s : State} (write : Bool) (off : BitVec 18) (val : Word) (be : BitVec 4) (priv : Bool)
    (hdead : hostDead s = true) : exec (.hostAccessError write off val be priv) s = .next (hostSilent s) := by
  have hsilent : ∀ w f, regAccess s w off.toNat be.toNat priv f = hostSilent s := fun w f => by simp [regAccess, hdead]
  simp [exec_hostAccessError, writeReg, readReg, hsilent]

/-- Outside reset and sleep an access in error is answered as `hostError` says (R44, R45, R534). -/
theorem exec_hostAccessError_of_refused {s : State} {write : Bool} {off : BitVec 18} (val : Word) {be : BitVec 4} {priv : Bool}
    (hdead : hostDead s = false) (hbad : accessError write off.toNat be.toNat priv ≠ 0) :
    exec (.hostAccessError write off val be priv) s = .next
      (hostError s write off.toNat (accessError write off.toNat be.toNat priv) (privDenied off.toNat priv)) := by
  have hrefused : ∀ f, regAccess s write off.toNat be.toNat priv f =
      hostError s write off.toNat (accessError write off.toNat be.toNat priv) (privDenied off.toNat priv) := fun f => by
    simp [regAccess, hdead, hbad]
  rw [exec_hostAccessError]
  cases write with
  | false => simp [readReg, hrefused]
  | true => simp [writeReg, hrefused]

end Sys2Proof.Machine

namespace Sys2Proof.Proofs

open Sys2Proof.Machine Sys2Proof.Claims

/-- Settles O16: an access in error is answered by `hostError`, read field by field. -/
theorem refusedAccessesAnswerError : Obligations.RefusedAccessesAnswerError := by
  unfold Obligations.RefusedAccessesAnswerError
  intro s write off val be priv
  refine ⟨fun hdead => ⟨_, exec_hostAccessError_of_dead write off val be priv hdead, rfl⟩,
    fun hdead hbad => ⟨_, exec_hostAccessError_of_refused val hdead hbad, ?_⟩⟩
  have hoff : off.toNat % 2 ^ 18 = off.toNat := Nat.mod_eq_of_lt off.isLt
  refine ⟨by rw [hostError_host]; rfl, by rw [hostError_host]; rfl, ?recorded, ?counted, ?frame, ?unlogged, ?logged⟩
  case recorded => rw [hostError_stw, hostErrorCounted, hoff, putSt_stw, if_pos rfl]
  case counted => simp [hostError_stw, hostErrorCounted, State.stf]
  case frame =>
    conv_lhs => rw [hostError_frame]
    rw [hostError_host]
  case unlogged =>
    intro hallowed
    rw [hallowed]
    rfl
  case logged =>
    intro hdenied hlive hroom hkept
    rw [hdenied, hostError_of_denied, hoff]
    exact logPut_buf (s := hostErrorCounted s write off.toNat _) 0x10 3 (toLe 4 off.toNat) hlive hroom hkept

end Sys2Proof.Proofs
end

section
/-! PROOFS. What a field of a stored register reads after it was set or counted, and the emission of a run of outputs. -/

namespace Sys2Proof.Machine

/-- A field that was set reads what it was set to, cut to its width. -/
theorem bits_setBits (v hi lo x : Nat) : bits (setBits v hi lo x) hi lo = x % 2 ^ (hi + 1 - lo) := by
  have hlow : v % 2 ^ lo / 2 ^ lo = 0 := Nat.div_eq_of_lt (Nat.mod_lt _ (by positivity))
  have hsplit : v - bits v hi lo * 2 ^ lo = v % 2 ^ lo + 2 ^ (hi + 1 - lo) * (v / 2 ^ lo / 2 ^ (hi + 1 - lo)) * 2 ^ lo := by
    have h1 := Nat.mod_add_div v (2 ^ lo)
    have h2 := Nat.mod_add_div (v / 2 ^ lo) (2 ^ (hi + 1 - lo))
    have h3 : v = v % 2 ^ lo + (v / 2 ^ lo % 2 ^ (hi + 1 - lo)) * 2 ^ lo
        + 2 ^ (hi + 1 - lo) * (v / 2 ^ lo / 2 ^ (hi + 1 - lo)) * 2 ^ lo := by
      conv_lhs => rw [← h1, ← h2]
      ring
    simp only [bits, Nat.shiftRight_eq_div_pow]
    omega
  rw [setBits, hsplit, bits, Nat.shiftRight_eq_div_pow, add_assoc, ← Nat.add_mul, Nat.add_mul_div_right _ _ (by positivity), hlow,
    Nat.zero_add, Nat.mul_add_mod, Nat.mod_mod]

theorem satInc_lt (w v : Nat) : satInc w v < 2 ^ w :=
  lt_of_le_of_lt (Nat.min_le_right _ _) (Nat.sub_lt (by positivity) Nat.one_pos)

theorem satAdd_lt (w v d : Nat) : satAdd w v d < 2 ^ w :=
  lt_of_le_of_lt (Nat.min_le_right _ _) (Nat.sub_lt (by positivity) Nat.one_pos)

theorem putStf_stf (s : State) (off hi lo v : Nat) : (s.putStf off hi lo v).stf off hi lo = v % 2 ^ (hi + 1 - lo) := by
  rw [State.putStf, State.stf, putSt_stw, if_pos rfl, bits_setBits]

/-- A counter counts within its field. -/
theorem inc_stf (s : State) (off hi lo : Nat) : (s.inc off hi lo).stf off hi lo = satInc (hi + 1 - lo) (s.stf off hi lo) := by
  rw [State.inc, putStf_stf, Nat.mod_eq_of_lt (satInc_lt _ _)]

theorem incBy_stf (s : State) (off hi lo d : Nat) :
    (s.incBy off hi lo d).stf off hi lo = satAdd (hi + 1 - lo) (s.stf off hi lo) d := by
  rw [State.incBy, putStf_stf, Nat.mod_eq_of_lt (satAdd_lt _ _ _)]

/-- An event bit that was set reads 1. -/
theorem bit_evt (s : State) (off n : Nat) : bit ((s.evt off n).wr off) n = true := by
  simp [bit]

/-- A bit that is set stays set where another is set too. -/
theorem bit_or {v : Nat} (w n : Nat) (h : bit v n = true) : bit (v ||| w) n = true := by
  simp only [bit] at h
  simp [bit, h]

/-- Emitting one output for each member of a list puts them before the earlier ones, the last one newest. -/
theorem foldl_emit {α : Type} (g : α → Out) (l : List α) (s : State) :
    l.foldl (fun s x => s.emit (g x)) s = { s with outs := (l.map g).reverse ++ s.outs } := by
  induction l generalizing s with
  | nil => rfl
  | cons x l ih =>
    rw [List.foldl_cons, ih]
    simp [State.emit]

end Sys2Proof.Machine
end

section
/-! PROOFS. What a frame does at the ports of a backhaul path, and the statement on frames assembled from it (R50, R289, R290, R292,
R306, R312, R318). -/

namespace Sys2Proof.Machine

open Sys2Proof.Claims

section
variable {s : State} {p q : Nat}

/-! ### The entries of the other paths and directions -/

theorem incBy_path (s : State) (off hi lo d r : Nat) : (s.incBy off hi lo d).path r = s.path r := rfl

/-- A change of one entry leaves every other entry of every path as it was. -/
theorem modSae_sae_other {tx tx' : Bool} {e j r : Nat} (f : SaEntry → SaEntry) (h : r ≠ p ∨ tx' ≠ tx ∨ j ≠ e) :
    (s.modSae p tx e f).sae r tx' j = s.sae r tx' j := by
  by_cases hr : r = p
  · subst hr
    cases tx <;> cases tx' <;> simp_all [State.modSae, State.sae, tget_tins]
  · simp [State.modSae, State.sae, hr]

/-- A change of an entry changes the table of its direction alone. -/
theorem modSae_true_path (s : State) (p e : Nat) (f : SaEntry → SaEntry) (r : Nat) :
    (s.modSae p true e f).path r =
      if r = p then { s.path p with txe := tins (s.path p).txe e (f (s.sae p true e)) } else s.path r :=
  modPath_path s p _ r

/-! ### The line side of a transmit channel -/

theorem drainTx_of_ready (hready : (s.path q).lineReady = true) (hserved : (s.path q).state ≠ 4) :
    drainTx s q = { s.modPath q (fun x => { x with txq := [] }) with
      outs := ((s.path q).txq.map (fun f => Out.lineTx q f.2)).reverse ++ s.outs } := by
  simp [drainTx, hready, hserved, foldl_emit]

theorem drainTx_of_busy (hbusy : (s.path q).lineReady = false) : drainTx s q = s := by simp [drainTx, hbusy]

section
variable {x : Nat} {f : Bytes} (hready : (s.path q).lineReady = true) (hserved : (s.path q).state ≠ 4) (hempty : (s.path q).txq = [])
include hready hserved hempty

/-- With the MAC ready and nothing waiting, a frame leaves as it comes. -/
theorem offerTx_of_idle : offerTx s q x f =
    { (s.modPath q (fun y => { y with txq := y.txq ++ [(x, f)] })).modPath q (fun y => { y with txq := [] }) with
      outs := .lineTx q f :: s.outs } := by
  rw [offerTx, drainTx_of_ready (by simpa using hready) (by simpa using hserved)]
  simp [hempty]

theorem offerTx_outs : (offerTx s q x f).outs = .lineTx q f :: s.outs := by
  rw [offerTx_of_idle hready hserved hempty]

theorem offerTx_frame : offerTx s q x f = { s with link := (offerTx s q x f).link, outs := .lineTx q f :: s.outs } := by
  rw [offerTx_of_idle hready hserved hempty]
  rfl

theorem offerTx_path (r : Nat) : (offerTx s q x f).path r = s.path r := by
  have hpath : (offerTx s q x f).path r =
      ((s.modPath q (fun y => { y with txq := y.txq ++ [(x, f)] })).modPath q (fun y => { y with txq := [] })).path r := by
    rw [offerTx_of_idle hready hserved hempty]
    rfl
  rw [hpath]
  by_cases hr : r = q
  · subst hr
    simp [← hempty]
  · simp [hr]

theorem offerTx_sae (r : Nat) (tx : Bool) (e : Nat) : (offerTx s q x f).sae r tx e = s.sae r tx e := by
  simp only [State.sae, offerTx_path hready hserved hempty]

theorem offerTx_staged : (offerTx s q x f).link.staged = s.link.staged := by
  rw [offerTx_of_idle hready hserved hempty]
  rfl

end

/-! ### Securing a frame (R290, R306) -/

/-- The entry that sends takes its next PN, counts the frame and stays ACTIVE. -/
def nextPn (a : SaEntry) : SaEntry := { a with pn := a.pn + 1, frames := satInc 32 a.frames, state := 3 }

theorem nextPn_of_active {a : SaEntry} (h : a.state = 3) : nextPn a = { a with pn := a.pn + 1, frames := satInc 32 a.frames } := by
  rw [nextPn, ← h]

/-- The path once its entry has taken the next PN and the frame is counted. -/
def securedBase (s : State) (q e : Nat) : State :=
  (s.modSae q true e nextPn).putSt (0x38010 + 0x40 * q) ((s.stw (0x38010 + 0x40 * q) + 1) % 2 ^ 32)

/-- Off its last and its warning PN an entry secures the frame, and the transmit channel takes it. -/
theorem secureOn_of_sends {x n an e : Nat} {f : Bytes} (hsends : Sends s q n an e)
    (hlo : 16 ≤ s.fcf (0x4014 + 0x40 * q) 21 16) (hhi : s.fcf (0x4014 + 0x40 * q) 21 16 ≤ 62) :
    secureOn s x q n f = offerTx (securedBase s q e) q x (secureFrame (s.secy q n) an (s.sae q true e) f) := by
  obtain ⟨henc, hans, hactive, hpn, hwarn⟩ := hsends
  have hlive : (s.secy q n).enc.bind (fun an => ((s.secy q n).ans.getD an none).bind
      (fun e => if (s.sae q true e).state = 3 then some (an, e) else none)) = some (an, e) := by
    simp only [henc, hans, hactive, Option.bind_some, if_true]
  have hlast : decide ((s.sae q true e).pn ≥ pnMax (s.sae q true e).suite) = false := decide_eq_false (Nat.not_le.mpr hpn)
  unfold secureOn
  simp only [hlive, hlast, if_neg (hwarn _ hlo hhi), Bool.false_eq_true, if_false]
  rfl

theorem securedBase_path (s : State) (q e r : Nat) : (securedBase s q e).path r =
    if r = q then { s.path q with txe := tins (s.path q).txe e (nextPn (s.sae q true e)) } else s.path r :=
  modSae_true_path s q e nextPn r

/-- A frame secured on an idle line leaves, and nothing of the link changes but the entry that sent it. -/
theorem secureOn_sentOn {n an e : Nat} {f : Bytes} (hsends : Sends s p n an e)
    (hlo : 16 ≤ s.fcf (0x4014 + 0x40 * p) 21 16) (hhi : s.fcf (0x4014 + 0x40 * p) 21 16 ≤ 62)
    (hready : (s.path p).lineReady = true) (hserved : (s.path p).state ≠ 4) (hempty : (s.path p).txq = []) :
    SentOn s (secureOn s p p n f) p n an e f ∧ ((secureOn s p p n f).path p).hbSeq = (s.path p).hbSeq := by
  have hready' : ((securedBase s p e).path p).lineReady = true := by simpa [securedBase_path] using hready
  have hserved' : ((securedBase s p e).path p).state ≠ 4 := by simpa [securedBase_path] using hserved
  have hempty' : ((securedBase s p e).path p).txq = [] := by simpa [securedBase_path] using hempty
  have hpath := offerTx_path (x := p) (f := secureFrame (s.secy p n) an (s.sae p true e) f) hready' hserved' hempty'
  have hsae := offerTx_sae (x := p) (f := secureFrame (s.secy p n) an (s.sae p true e) f) hready' hserved' hempty'
  rw [secureOn_of_sends hsends hlo hhi]
  refine ⟨⟨offerTx_outs hready' hserved' hempty', ?entry, ?others, ?path, ?paths, ?count, offerTx_staged hready' hserved' hempty', ?frame⟩,
    ?beats⟩
  case entry =>
    obtain ⟨-, -, hactive, -⟩ := hsends
    rw [hsae, ← nextPn_of_active hactive]
    exact (modSae_sae s p true e nextPn e).trans (if_pos rfl)
  case others =>
    intro r tx j hother
    rw [hsae]
    exact modSae_sae_other nextPn (hother.imp_right (Or.imp_left (by simp [·])))
  case path => rw [hpath, securedBase_path, if_pos rfl]
  case paths =>
    intro r hr
    rw [hpath, securedBase_path, if_neg hr]
  case count =>
    rw [offerTx_frame hready' hserved' hempty']
    exact (putSt_stw _ _ _ _).trans (if_pos rfl)
  case frame =>
    rw [offerTx_frame hready' hserved' hempty']
    rfl
  case beats => rw [hpath, securedBase_path, if_pos rfl]

/-- The path with its heartbeat count at h. -/
def beaten (s : State) (p h : Nat) : State := s.modPath p (fun x => { x with hbSeq := h })

theorem beaten_sae (s : State) (p h r : Nat) (tx : Bool) (e : Nat) : (beaten s p h).sae r tx e = s.sae r tx e := by
  by_cases hr : r = p
  · subst hr
    simp [beaten, State.sae]
  · simp [beaten, State.sae, hr]

theorem beaten_secy (s : State) (p h n : Nat) : (beaten s p h).secy p n = s.secy p n := by simp [beaten, State.secy]

theorem sends_beaten {n an e : Nat} (h : Nat) (hsends : Sends s p n an e) : Sends (beaten s p h) p n an e := by
  simpa only [Sends, beaten_sae, beaten_secy] using hsends

/-- What was sent after the heartbeat count moved was sent from the state before it too. -/
theorem sentOn_of_beaten {t : State} {n an e h : Nat} {f : Bytes} (hsent : SentOn (beaten s p h) t p n an e f) :
    SentOn s t p n an e f := by
  obtain ⟨houts, hentry, hothers, hpath, hpaths, hcount, hstaged, hframe⟩ := hsent
  simp only [beaten_sae, beaten_secy] at houts hentry hothers
  refine ⟨houts, hentry, hothers, by simpa [beaten] using hpath, fun r hr => ?_, hcount, hstaged, hframe⟩
  simpa [beaten, hr] using hpaths r hr

/-! ### Frames held and released (R313, R314, R315) -/

theorem feed_of_unheld (hq : (s.path q).holdTx = []) (ho : (s.path (1 - q)).holdTx = []) : feed s q = s := by
  simp [feed, hq, ho, drrMerge]

theorem holdOutlet_or {r : Nat} (h : holdOutlet s p = some r) : r = p ∨ r = 1 - p := by
  unfold holdOutlet at h
  dsimp only at h
  repeat' split at h
  all_goals simp_all

/-- Where neither path holds a frame there is nothing to release. -/
theorem pump_of_unheld (hp : p ≤ 1) (hown : (s.path p).holdTx = []) (hother : (s.path (1 - p)).holdTx = []) : pump s p = s := by
  unfold pump
  split
  · rfl
  · split
    · rfl
    · next r hr =>
      obtain rfl | rfl := holdOutlet_or hr
      · exact feed_of_unheld hown hother
      · exact feed_of_unheld hother (by rwa [show 1 - (1 - p) = p by omega])

/-- Nothing is released from a path that is HELD. -/
theorem pump_of_held (h : (s.path p).state = 2) : pump s p = s := by
  have hclosed : holdOutlet s p = none := by simp [holdOutlet, h]
  simp [pump, hclosed]

/-! ### Client frames (R289, R290, R313) -/

/-- A frame the path secures: not an EAPOL frame that passes in the clear. -/
abbrev Secured (s : State) (p : Nat) (f : Bytes) : Prop := etherType f = 0x888E → bit (s.fc (0x4018 + 0x40 * p)) 0 = false

theorem clientTx_of_eapol {f : Bytes} (hlen : f.length ≤ 9600) (heapol : etherType f = 0x888E)
    (hclear : bit (s.fc (0x4018 + 0x40 * p)) 0 = true) (hserved : (s.path p).state ≠ 4) (hphy : (s.path p).phy = true) :
    clientTx s p f = offerTx s p p f := by
  simp [clientTx, Nat.not_lt.mpr hlen, heapol, hclear, hserved, hphy]

theorem clientTx_of_held {f : Bytes} (hlen : f.length ≤ 9600) (hsec : Secured s p f) (hheld : (s.path p).state = 2)
    (hroom : holdUnits (s.path p).holdTx + cdiv f.length 16 ≤ 16384) :
    clientTx s p f = s.modPath p (fun y => { y with holdTx := y.holdTx ++ [f] }) := by
  have hsec' : ¬ (etherType f = 0x888E ∧ bit (s.fc (0x4018 + 0x40 * p)) 0 = true) := fun h => by simp [hsec h.1] at h
  have hhold : holdFrame s p f = s.modPath p (fun y => { y with holdTx := y.holdTx ++ [f] }) := if_pos hroom
  rw [clientTx, if_neg (Nat.not_lt.mpr hlen), if_neg hsec', if_neg (by simp [hheld]), if_neg (by simp [hheld]), hhold,
    pump_of_held (by simpa using hheld)]

theorem clientTx_of_up {f : Bytes} {n : Nat} (hlen : f.length ≤ 9600) (hsec : Secured s p f) (hup : (s.path p).state = 0)
    (htake : (s.path p).takeTx = false) (hheld : (s.path p).holdTx = []) (hserved : (linkServer s p true).isSome = true)
    (hsecy : secyOf s p f = some n) : clientTx s p f = secureOn s p p n f := by
  have hsec' : ¬ (etherType f = 0x888E ∧ bit (s.fc (0x4018 + 0x40 * p)) 0 = true) := fun h => by simp [hsec h.1] at h
  rw [clientTx, if_neg (Nat.not_lt.mpr hlen), if_neg hsec', if_neg (by simp [hup]), if_pos ⟨hup, htake, hheld, hserved⟩]
  simp [sendOn, hsecy]

/-! ### Heartbeats (R312) -/

/-- A heartbeat of a served path whose SecY encodes is secured after its count moved. -/
theorem heartbeatSend_of_served {p : Fin 2} {n an e : Nat} (hlive : linkDead s = false) (hn : n = bits (s.fc (0x4000 + 0x40 * p)) 14 10)
    (hon : bit (s.fc (0x4000 + 0x40 * p)) 15 = true) (hphy : (s.path p).phy = true) (hstate : (s.path p).state ≠ 4)
    (htake : (s.path p).takeTx = false) (hdue : s.tick.due = false) (hserved : (linkServer s p true).isSome = true)
    (hen : (s.secy p n).en = true) (hsends : Sends s p n an e) :
    heartbeatSend s p = secureOn (beaten s p (((s.path p).hbSeq + 1) % 2 ^ 32)) p p n (heartbeatFrame s p) := by
  obtain ⟨henc, hans, hactive, -, -⟩ := hsends
  have hencodes : encodes s p n = true := by simp only [encodes, hen, henc, hans, hactive, Option.bind_some, Option.any_some]; rfl
  have hserver : (linkServer s p true).isNone = false := by simpa using hserved
  subst hn
  simp [heartbeatSend, hlive, hon, hphy, hstate, htake, hserver, hencodes, hdue]
  rfl

/-! ### Received frames (R292, R306) -/

section
variable {f : Bytes} {n e : Nat} {x : SaEntry} {sc : RxSc} {t : RxTag} {iv clear hidden : Bytes}

/-- The entry that received a frame counts it. -/
def countRx (a : SaEntry) : SaEntry := { a with frames := satInc 32 a.frames }

/-- The entry of a frame that verified raises its lowest acceptable PN (R306). -/
def raisePn (pn window : Nat) (a : SaEntry) : SaEntry := { a with pn := max a.pn (pn + 1 - window) }

/-- The path once a frame has verified at its entry: frame and validation counted, PN raised, and the heartbeat interval served. -/
def verifiedRx (s : State) (p e pn window : Nat) : State :=
  (((s.modSae p false e countRx).putSt (0x3801C + 0x40 * p) ((s.stw (0x3801C + 0x40 * p) + 1) % 2 ^ 32)).modSae p false e
    (raisePn pn window)).modPath p (fun y => { y with hbSeen := true })

theorem verifiedRx_hbSeen (s : State) (p e pn window : Nat) : ((verifiedRx s p e pn window).path p).hbSeen = true := by
  simp [verifiedRx]

theorem verifiedRx_sae (s : State) (p e pn window : Nat) :
    (verifiedRx s p e pn window).sae p false e = raisePn pn window (countRx (s.sae p false e)) := by
  have hseen : ∀ t : State, (t.modPath p (fun y => { y with hbSeen := true })).sae p false e = t.sae p false e :=
    fun t => by simp [State.sae]
  have hcounted : ∀ v, ((s.modSae p false e countRx).putSt (0x3801C + 0x40 * p) v).sae p false e = countRx (s.sae p false e) :=
    fun v => (modSae_sae s p false e countRx e).trans (if_pos rfl)
  rw [verifiedRx, hseen, modSae_sae, if_pos rfl, hcounted]

theorem verifiedRx_stw (s : State) (p e pn window : Nat) :
    (verifiedRx s p e pn window).stw (0x3801C + 0x40 * p) = (s.stw (0x3801C + 0x40 * p) + 1) % 2 ^ 32 :=
  (putSt_stw _ _ _ _).trans (if_pos rfl)

/-- A received frame meets an ACTIVE entry x of receive SC n under strict rules: encrypted, its PN in the window. -/
abbrev MeetsEntry (s : State) (p : Nat) (f : Bytes) (n e : Nat) (x : SaEntry) (sc : RxSc) (t : RxTag) : Prop :=
  t = rxTag f ∧ t.ok = true ∧ rxScOf s p f t = some n ∧ sc = s.rxsc p n ∧ sc.ans.getD t.an none = some e ∧ x = s.sae p false e ∧
    x.state = 3 ∧ (t.pn ≠ 0 ∨ xpn x.suite = true) ∧ (sc.replay = true → x.pn ≤ rxPn x.suite x.pn t.pn) ∧ t.c = true

/-- Such a frame is counted at its entry, and its tag decides what becomes of it. -/
theorem macsecRx_of_meets (hmeets : MeetsEntry s p f n e x sc t)
    (hclear : clear = ((f.drop t.head).take (f.length - t.head - 16)).take sc.offset)
    (hhidden : hidden = ((f.drop t.head).take (f.length - t.head - 16)).drop sc.offset)
    (hiv : iv = macsecIv x.suite sc.sci x.ssci x.salt (rxPn x.suite x.pn t.pn)) :
    macsecRx s p f =
      if gcmTag x.key iv (sub f 0 t.head ++ clear) hidden = f.drop (f.length - 16) then
        deliverRx (verifiedRx s p e (rxPn x.suite x.pn t.pn) sc.window) p
          (sub f 0 12 ++ clear ++ gcmText x.key iv hidden) true
      else (s.modSae p false e countRx).inc (0x38020 + 0x40 * p) 15 0 := by
  obtain ⟨rfl, hok, hsc, rfl, hans, rfl, hactive, hpn, hreplay, hc⟩ := hmeets
  subst hclear hhidden hiv
  have hpn' : ¬ ((rxTag f).pn = 0 ∧ xpn (s.sae p false e).suite = false) := by
    rintro ⟨h0, hx⟩
    simp [h0, hx] at hpn
  have hreplay' : ¬ ((s.rxsc p n).replay = true ∧
      rxPn (s.sae p false e).suite (s.sae p false e).pn (rxTag f).pn < (s.sae p false e).pn) :=
    fun h => Nat.not_lt.mpr (hreplay h.1) h.2
  unfold macsecRx
  simp only [hok, hsc, hans, hactive, hc, Bool.not_true, Bool.false_eq_true, if_false, if_true, Option.bind_some, Bool.not_eq_true', hpn',
    hreplay', Bool.true_eq_false, and_false, or_true, decide_eq_true_eq]
  rfl

theorem deliverRx_of_client {g : Bytes} (hclient : etherType g ≠ 0x88B5) : deliverRx s p g true = s.emit (.clientRx p g) := by
  simp [deliverRx, hclient]

/-- A MACsec frame on a path that receives is read as one. -/
theorem lineRx_of_macsec (hserved : (s.path p).state ≠ 4) (htake : (s.path p).takeRx = false)
    (hserver : (linkServer s p false).isSome = true) (hlen : f.length ≤ 9632) (htype : etherType f = 0x88E5) :
    lineRx s p f false = macsecRx s p f := by
  have hserver' : (linkServer s p false).isNone = false := by simpa using hserver
  simp [lineRx, hserved, htake, hserver', Nat.not_lt.mpr hlen, htype]

end

/-! ### READY and the flush of a hold buffer (R50, R318) -/

theorem drainTx_holdTx (s : State) (q r : Nat) : ((drainTx s q).path r).holdTx = (s.path r).holdTx := by
  by_cases hready : (s.path q).lineReady = true ∧ (s.path q).state ≠ 4
  · obtain ⟨hready, hserved⟩ := hready
    have hpath : ((drainTx s q).path r) = (s.modPath q (fun x => { x with txq := [] })).path r := by
      rw [drainTx_of_ready hready hserved]
      rfl
    rw [hpath, modPath_path]
    split
    · next h => rw [h]
    · rfl
  · have hidle : drainTx s q = s := by simp_all [drainTx]
    rw [hidle]

/-- Where neither path holds a frame, a change of READY does nothing but offer what waits in the transmit channel. -/
theorem lineReady_of_unheld (hlive : linkDead s = false) (hp : p ≤ 1) (hown : (s.path p).holdTx = [])
    (hother : (s.path (1 - p)).holdTx = []) (r : Bool) :
    lineReady s p r = drainTx (s.modPath p (fun x => { x with lineReady := r })) p := by
  have hlive' : linkDead (s.modPath p (fun x => { x with lineReady := r })) = false := hlive
  have hheld : ∀ y, (s.path y).holdTx = [] →
      ((drainTx (s.modPath p (fun x => { x with lineReady := r })) p).path y).holdTx = [] := by
    intro y hy
    rw [drainTx_holdTx, modPath_path]
    split
    · exact hown
    · exact hy
  have hback : 1 - (1 - p) = p := by omega
  rw [lineReady, if_neg (by simp [hlive']), pump_of_unheld hp (hheld p hown) (hheld (1 - p) hother),
    pump_of_unheld (by omega) (hheld (1 - p) hother) (by rw [hback]; exact hheld p hown)]

theorem holdFlush_of_held (hlive : linkDead s = false) (hheld : (s.path p).state = 2)
    (hlong : s.fcf (0x4014 + 0x40 * p) 31 24 ≤ (s.path p).heldTicks) :
    holdFlush s p = (s.incBy (0x38018 + 0x40 * p) 31 16 (s.path p).holdTx.length).modPath p (fun x => { x with holdTx := [] }) := by
  simp [holdFlush, hlive, hheld, Nat.not_lt.mpr hlong]

/-! ### The rows -/

/-- Between a Calends instant and its commit a frame waits at the port (R81). -/
theorem atPort_of_due (c : Instr) (g : State → State) (hlive : linkDead s = false) (hdue : s.tick.due = true) :
    atPort s c g = { s with portHeld := s.portHeld ++ [c] } := by simp [atPort, hlive, hdue]

theorem atPort_of_open (c : Instr) (g : State → State) (hlive : linkDead s = false) (hdue : s.tick.due = false) :
    atPort s c g = g s := by simp [atPort, hlive, hdue]

theorem exec_clientTxFrame (s : State) (p : Fin 2) (f : Bytes) :
    exec (.clientTxFrame p f) s = .next (atPort s (.clientTxFrame p f) (fun s => clientTx s p f)) := rfl
theorem exec_lineRxFrame (s : State) (p : Fin 2) (f : Bytes) (err : Bool) :
    exec (.lineRxFrame p f err) s = .next (atPort s (.lineRxFrame p f err) (fun s => lineRx s p f err)) := rfl
theorem exec_heartbeatSend (s : State) (p : Fin 2) : exec (.heartbeatSend p) s = .next (heartbeatSend s p) := rfl
theorem exec_lineTxReady (s : State) (p : Fin 2) (r : Bool) : exec (.lineTxReady p r) s = .next (lineReady s p r) := rfl
theorem exec_holdFlush (s : State) (p : Fin 2) : exec (.holdFlush p) s = .next (holdFlush s p) := rfl

end

end Sys2Proof.Machine

namespace Sys2Proof.Proofs

open Sys2Proof.Machine Sys2Proof.Claims

/-- Settles O34, row by row: what each does at a port in its state, then the fields read off. -/
theorem framesAreSecuredAndValidated : Obligations.FramesAreSecuredAndValidated := by
  unfold Obligations.FramesAreSecuredAndValidated
  intro s p hlive
  have hp : p.val ≤ 1 := Nat.le_of_lt_succ p.isLt
  refine ⟨fun hdue f err => ⟨⟨_, exec_clientTxFrame s p f, atPort_of_due _ _ hlive hdue⟩,
      ⟨_, exec_lineRxFrame s p f err, atPort_of_due _ _ hlive hdue⟩⟩, ?eapol, ?held, ?client, ?heartbeat, ?received,
    fun hown hother hserved => ⟨?ready, ?busy⟩, ?flushed⟩
  case eapol =>
    intro f hdue hlen heapol hclear hserved hphy hready hempty
    have hrow : atPort s (.clientTxFrame p f) (fun s => clientTx s p f) = offerTx s p p f := by
      rw [atPort_of_open _ _ hlive hdue, clientTx_of_eapol hlen heapol hclear hserved hphy]
    refine ⟨_, exec_clientTxFrame s p f, ?_⟩
    rw [hrow]
    exact ⟨offerTx_path hready hserved hempty, offerTx_frame hready hserved hempty⟩
  case held =>
    intro f hdue hlen hsec hheld hroom
    have hrow : atPort s (.clientTxFrame p f) (fun s => clientTx s p f) =
        s.modPath p (fun y => { y with holdTx := y.holdTx ++ [f] }) := by
      rw [atPort_of_open _ _ hlive hdue, clientTx_of_held hlen hsec hheld hroom]
    refine ⟨_, exec_clientTxFrame s p f, ?_⟩
    rw [hrow]
    exact ⟨by simp, fun q hq => by simp [hq], rfl⟩
  case client =>
    intro f n an e hdue hlen hsec hup htake hheld hserved hsecy hsends hready hempty hlo hhi
    have hrow : atPort s (.clientTxFrame p f) (fun s => clientTx s p f) = secureOn s p p n f := by
      rw [atPort_of_open _ _ hlive hdue, clientTx_of_up hlen hsec hup htake hheld hserved hsecy]
    refine ⟨_, exec_clientTxFrame s p f, ?_⟩
    rw [hrow]
    exact secureOn_sentOn hsends hlo hhi hready (by simp [hup]) hempty
  case heartbeat =>
    intro n an e hn hon hphy hstate htake hdue hserved hen hsends hready hempty hlo hhi
    refine ⟨_, exec_heartbeatSend s p, ?_⟩
    rw [heartbeatSend_of_served hlive hn hon hphy hstate htake hdue hserved hen hsends]
    obtain ⟨hsent, hbeats⟩ := secureOn_sentOn (f := heartbeatFrame s p) (sends_beaten (((s.path p).hbSeq + 1) % 2 ^ 32) hsends) hlo hhi
      (by simpa [beaten] using hready) (by simpa [beaten] using hstate) (by simpa [beaten] using hempty)
    exact ⟨sentOn_of_beaten hsent, hbeats.trans (by simp [beaten])⟩
  case received =>
    intro f g n e x sc t sec iv clear hidden hdue hstate htake hserver hlen htype ht hok hsc hscdef hans hx hactive hpn hreplay hc
      hsec hclear hhidden hiv hg
    subst hsec hg
    have hrow : atPort s (.lineRxFrame p f false) (fun s => lineRx s p f false) = macsecRx s p f := by
      rw [atPort_of_open _ _ hlive hdue, lineRx_of_macsec hstate htake hserver hlen htype]
    have hrx := macsecRx_of_meets ⟨ht, hok, hsc, hscdef, hans, hx, hactive, hpn, hreplay, hc⟩ hclear hhidden hiv
    refine ⟨fun hgood hclient => ⟨_, exec_lineRxFrame s p f false, ?_⟩, fun hbad => ⟨_, exec_lineRxFrame s p f false, ?_⟩⟩
    · rw [hrow, hrx, if_pos hgood, deliverRx_of_client hclient]
      subst hx
      exact ⟨rfl, verifiedRx_hbSeen s p e _ _, verifiedRx_sae s p e _ _, by rw [emit_read_stw, verifiedRx_stw], rfl⟩
    · rw [hrow, hrx, if_neg hbad]
      subst hx
      refine ⟨rfl, ?_, inc_stf _ _ 15 0, rfl⟩
      exact (modSae_sae s p false e countRx e).trans (if_pos rfl)
  case ready =>
    refine ⟨_, exec_lineTxReady s p true, ?_⟩
    rw [lineReady_of_unheld hlive hp hown hother, drainTx_of_ready (by simp) (by simpa using hserved)]
    have hpath : ∀ q, (((s.modPath p (fun x => { x with lineReady := true })).modPath p (fun x => { x with txq := [] })).path q) =
        if q = p then { s.path p with lineReady := true, txq := [] } else s.path q := by
      intro q
      by_cases hq : q = p.val
      · subst hq
        simp
      · simp [hq]
    exact ⟨by simp, (hpath p).trans (if_pos rfl), fun q hq => (hpath q).trans (if_neg hq), rfl⟩
  case busy =>
    refine ⟨_, exec_lineTxReady s p false, ?_⟩
    rw [lineReady_of_unheld hlive hp hown hother, drainTx_of_busy (by simp)]
    exact ⟨by simp, fun q hq => by simp [hq], rfl⟩
  case flushed =>
    intro hheld hlong
    refine ⟨_, exec_holdFlush s p, ?_⟩
    rw [holdFlush_of_held hlive hheld hlong]
    exact ⟨by simp [incBy_path], fun q hq => by simp [hq, incBy_path], incBy_stf s _ 31 16 _, rfl⟩

end Sys2Proof.Proofs
end

section
/-! PROOFS. Lines of DRAM and of the counter cache: what a write of DRAM leaves, what a resident tag line gives, and what serving a
transaction with its tag line resident does (R213, R223, R225, R229, R242, R253 to R256). -/

namespace Sys2Proof.Machine

open Sys2Proof.Claims

/-! ### DRAM -/

/-- Entries dropped by their key read as the default, all others as before. -/
theorem tget_filter_key {α : Type} (d : α) (q : Nat → Bool) (k : Nat) :
    ∀ m : Tab α, tget d (m.filter (fun e => q e.1)) k = if q k = true then tget d m k else d
  | [] => by simp [tget]
  | (a, v) :: m => by
    have ih := tget_filter_key d q k m
    by_cases hk : k = a
    · subst hk
      by_cases hq : q k = true
      · simp [hq, tget]
      · simp [hq, ih]
    · by_cases hq : q a = true
      · simp [hq, tget, hk, ih]
      · simp [hq, tget, hk, ih]

theorem tgetN_length {α : Type} (d : α) (m : Tab α) (k n : Nat) : (tgetN d m k n).length = n := by simp [tgetN]

theorem dramGet_length (s : State) (a n : Nat) : (dramGet s a n).length = n := tgetN_length _ _ _ _

/-- What was written is read back. -/
theorem tgetN_tputN {α : Type} [DecidableEq α] (d : α) (m : Tab α) (a : Nat) (b : List α) :
    tgetN d (tputN d m a b) a b.length = b := by
  refine List.ext_getElem (tgetN_length _ _ _ _) (fun i hi hi' => ?_)
  simp only [tgetN, List.getElem_map, List.getElem_range, tget_tputN]
  rw [if_pos ⟨Nat.le_add_right _ _, by omega⟩, Nat.add_sub_cancel_left]
  simp [List.getD_eq_getElem?_getD, hi']

/-- A state whose DRAM is that of a write holds the written bytes, and all else of DRAM as before. -/
theorem dramWritten_of_put {s u : State} {a : Nat} {b : Bytes} (hdram : u.dram = (dramPut s a b).dram)
    (herr : u.dmErr = (dramPut s a b).dmErr) : DramWritten s u a b := by
  refine ⟨?stored, ?kept, ?errors⟩
  case stored => simp only [dramGet, hdram, dramPut, tgetN_tputN]
  case kept =>
    intro x hx
    rw [hdram, dramPut, tget_tputN, if_neg (by omega)]
  case errors =>
    intro x
    rw [State.dm, herr, dramPut, tget_filter_key (q := fun e => !(decide (b ≠ []) && decide (a < e + 64) && decide (e < a + b.length)))]
    by_cases hcut : b ≠ [] ∧ a < x / 64 * 64 + 64 ∧ x / 64 * 64 < a + b.length
    · rw [if_neg (by simpa [and_assoc] using hcut), if_pos hcut]
    · rw [if_pos (by simpa only [Bool.not_eq_true', Bool.and_eq_false_iff, decide_eq_false_iff_not, ← not_and_or, and_assoc] using hcut), if_neg hcut]
      rfl

/-! ### Resident tag lines (R223, R231) -/

section
variable {s : State} {ch grp : Nat} {l : CLine}

theorem findLine_spec (h : findLine s ch grp = some l) : l.grp = grp ∧ l.marked = false := by
  simpa using List.find?_some h

theorem touchLine_of_found (f : CLine → CLine) (h : findLine s ch grp = some l) :
    touchLine s ch grp f =
      s.modMchan ch (fun m => { m with cc := f l :: m.cc.filter (fun x => !(decide (x.grp = grp) && !x.marked)) }) := by
  simp [touchLine, h]

/-- A touch changes the caches alone. -/
theorem touchLine_frame (s : State) (ch grp : Nat) (f : CLine → CLine) :
    touchLine s ch grp f = { s with mem := { s.mem with chan := (touchLine s ch grp f).mem.chan } } := by
  unfold touchLine
  split <;> rfl

theorem touchLine_regs (s : State) (ch grp : Nat) (f : CLine → CLine) : (touchLine s ch grp f).regs = s.regs := by rw [touchLine_frame]
theorem touchLine_dram (s : State) (ch grp : Nat) (f : CLine → CLine) : (touchLine s ch grp f).dram = s.dram := by rw [touchLine_frame]
theorem touchLine_dmErr (s : State) (ch grp : Nat) (f : CLine → CLine) : (touchLine s ch grp f).dmErr = s.dmErr := by
  rw [touchLine_frame]
theorem touchLine_outs (s : State) (ch grp : Nat) (f : CLine → CLine) : (touchLine s ch grp f).outs = s.outs := by rw [touchLine_frame]
theorem touchLine_inflight (s : State) (ch grp : Nat) (f : CLine → CLine) :
    (touchLine s ch grp f).mem.inflight = s.mem.inflight := by rw [touchLine_frame]
theorem touchLine_stw (s : State) (ch grp : Nat) (f : CLine → CLine) (off : Nat) : (touchLine s ch grp f).stw off = s.stw off := by
  rw [State.stw, touchLine_regs, State.stw]

theorem findLine_touchLine (f : CLine → CLine) (h : findLine s ch grp = some l) (hgrp : (f l).grp = l.grp)
    (hmark : (f l).marked = l.marked) : findLine (touchLine s ch grp f) ch grp = some (f l) := by
  obtain ⟨hl, hm⟩ := findLine_spec h
  rw [touchLine_of_found f h]
  simp [findLine, hgrp, hmark, hl, hm]

/-- A group no line of which is marked has nothing to write back. -/
theorem releaseMarked_of_unmarked (h : ∀ x ∈ (s.mchan ch).cc, x.grp = grp → x.marked = false) : releaseMarked s ch grp = s := by
  have hnone : (s.mchan ch).cc.find? (fun l => decide (l.grp = grp) && l.marked) = none := by
    rw [List.find?_eq_none]
    intro x hx hmarked
    simp only [Bool.and_eq_true, decide_eq_true_eq] at hmarked
    exact absurd hmarked.2 (by simp [h x hx hmarked.1])
  simp [releaseMarked, hnone]

end

/-! ### Serving a transaction whose tag line is resident -/

/-- The state once the tag line of t was found. -/
def hit (s : State) (t : Txn) : State := touchLine s t.ch (t.addr / 512) id

/-- The tag line l of t is resident, and no line of its group is marked. -/
abbrev Resident (s : State) (t : Txn) (l : CLine) : Prop :=
  findLine s t.ch (t.addr / 512) = some l ∧ ∀ x ∈ (s.mchan t.ch).cc, x.grp = t.addr / 512 → x.marked = false

theorem hit_frame (s : State) (t : Txn) : hit s t = { s with mem := { s.mem with chan := (hit s t).mem.chan } } :=
  touchLine_frame s t.ch (t.addr / 512) id

section
variable {s : State} {t : Txn} {l : CLine}

theorem findLine_hit (h : Resident s t l) : findLine (hit s t) t.ch (t.addr / 512) = some l := findLine_touchLine id h.1 rfl rfl

theorem loadTag_of_resident (h : Resident s t l) : loadTag s t.fetch t.epoch = (hit s t, .line l.data) := by
  obtain ⟨hline, hunmarked⟩ := h
  have hmarked : releaseMarked s t.fetch.ch (t.fetch.a / 512) = s := releaseMarked_of_unmarked hunmarked
  have hfound : findLine s t.fetch.ch (t.fetch.a / 512) = some l := hline
  simp only [loadTag, hmarked, hfound]
  rfl

/-- The state of line i of the tag line that t finds (R242). -/
abbrev stateOf (t : Txn) (l : CLine) : LineState := lineState t.reg.mode l.data (t.addr / 64 % 8)

/-- What opening the line of t gives: its plaintext, and whether its tag holds. -/
abbrev opened (s : State) (t : Txn) (l : CLine) : Bytes × Bool := openLine t l.data (t.addr / 64 % 8) t.addr (dramGet s t.addr 64)

section
variable (hres : Resident s t l) (hpass : t.pass = false)
include hres hpass

theorem serveCore_read_unwritten (hread : t.write = false) (hdm : s.dm t.addr ≠ 2) (hst : stateOf t l = .unwritten) :
    serveCore s t = (hit s t, 0, zeros 64) := by
  simp [serveCore, loadTag_of_resident hres, hpass, hread, hdm, hst]

theorem serveCore_read_good (hread : t.write = false) (hdm : s.dm t.addr ≠ 2) (hst : stateOf t l = .written)
    (hgood : (opened s t l).2 = true) : serveCore s t = (hit s t, 0, (opened s t l).1) := by
  simp [serveCore, loadTag_of_resident hres, hpass, hread, hdm, hst, hgood]

theorem serveCore_read_wrong (hread : t.write = false) (hdm : s.dm t.addr ≠ 2) (hst : stateOf t l = .written)
    (hwrong : (opened s t l).2 = false) : serveCore s t = poisonRead (tagFailed (hit s t)) (opened s t l).1 := by
  simp [serveCore, loadTag_of_resident hres, hpass, hread, hdm, hst, hwrong]

theorem serveCore_read_lost (hread : t.write = false) (hst : stateOf t l = .lost) :
    serveCore s t = poisonRead (hit s t) (zeros 64) := by
  simp [serveCore, loadTag_of_resident hres, hpass, hread, hst]

theorem serveCore_read_bad (hread : t.write = false) (hst : stateOf t l ≠ .lost) (hdm : s.dm t.addr = 2) :
    serveCore s t = poisonRead (if t.reg.mode ≠ 0 then (poisonLine (hit s t) t l.data (t.addr / 64 % 8)).1 else hit s t) (zeros 64) := by
  simp [serveCore, loadTag_of_resident hres, hpass, hread, hdm, hst]

theorem serveCore_read_marked (hread : t.write = false) (hdm : s.dm t.addr ≠ 2)
    (hst : stateOf t l = .poisoned ∨ stateOf t l = .corrupt) : serveCore s t = poisonRead (hit s t) (zeros 64) := by
  obtain hst | hst := hst <;> simp [serveCore, loadTag_of_resident hres, hpass, hread, hdm, hst]

theorem serveCore_full_lost (hwrite : t.write = true) (hfull : t.be = 2 ^ 64 - 1) (hst : stateOf t l = .lost) :
    serveCore s t = ((hit s t).inc 0x37108 31 0, 2, []) := by
  simp [serveCore, loadTag_of_resident hres, hpass, hwrite, hfull, hst]

theorem serveCore_full (hwrite : t.write = true) (hfull : t.be = 2 ^ 64 - 1) (hst : stateOf t l ≠ .lost)
    (hpoison : stateOf t l ≠ .poisoned) : serveCore s t = (writeLine (hit s t) t l.data t.data, 0, []) := by
  simp [serveCore, loadTag_of_resident hres, hpass, hwrite, hfull, hst, hpoison]

theorem serveCore_full_poisoned (hwrite : t.write = true) (hfull : t.be = 2 ^ 64 - 1) (hst : stateOf t l = .poisoned) :
    serveCore s t =
      (integEvent (((writeLine (hit s t) t l.data t.data).inc 0x3710C 31 0).evt 0x13008 2) 2 t.addr t.rgn, 0, []) := by
  simp [serveCore, loadTag_of_resident hres, hpass, hwrite, hfull, hst]

theorem serveCore_part_unwritten (hwrite : t.write = true) (hpart : t.be ≠ 2 ^ 64 - 1) (hdm : s.dm t.addr ≠ 2)
    (hst : stateOf t l = .unwritten) :
    serveCore s t = (writeLine (hit s t) t l.data (mergeBytes t.be (zeros 64) t.data), 0, []) := by
  have hpart' : t.be ≠ 18446744073709551615 := hpart
  simp [serveCore, loadTag_of_resident hres, hpass, hwrite, hpart', hdm, hst]

theorem serveCore_part_good (hwrite : t.write = true) (hpart : t.be ≠ 2 ^ 64 - 1) (hdm : s.dm t.addr ≠ 2)
    (hst : stateOf t l = .written) (hgood : (opened s t l).2 = true) :
    serveCore s t = (writeLine (hit s t) t l.data (mergeBytes t.be (opened s t l).1 t.data), 0, []) := by
  have hpart' : t.be ≠ 18446744073709551615 := hpart
  simp [serveCore, loadTag_of_resident hres, hpass, hwrite, hpart', hdm, hst, hgood]

/-- What a refused partial write leaves before it is counted: at most the line made POISONED and a tag failure counted. -/
abbrev Untaken (s r : State) : Prop := r.outs = s.outs ∧ r.dram = s.dram ∧ r.stw 0x37108 = s.stw 0x37108

omit hres hpass in
theorem untaken_hit (s : State) (t : Txn) : Untaken s (hit s t) :=
  ⟨touchLine_outs _ _ _ _, touchLine_dram _ _ _ _, touchLine_stw _ _ _ _ _⟩

omit hres hpass in
theorem untaken_poisonLine (s : State) (t : Txn) (b : Bytes) (i : Nat) : Untaken s (poisonLine (hit s t) t b i).1 := by
  obtain ⟨houts, hdram, hstw⟩ := untaken_hit s t
  exact ⟨(touchLine_outs _ _ _ _).trans houts, (touchLine_dram _ _ _ _).trans hdram, (touchLine_stw _ _ _ _ _).trans hstw⟩

omit hres hpass in
theorem untaken_tagFailed {r : State} (h : Untaken s r) : Untaken s (tagFailed r) := by
  obtain ⟨houts, hdram, hstw⟩ := h
  exact ⟨houts, hdram, by simp [tagFailed, hstw]⟩

/-- A partial write to a line that is LOST, POISONED, CORRUPT, uncorrectable or wrong is refused (R254). -/
theorem serveCore_part_refused (hwrite : t.write = true) (hpart : t.be ≠ 2 ^ 64 - 1)
    (hst : stateOf t l = .lost ∨ stateOf t l = .poisoned ∨ stateOf t l = .corrupt ∨ s.dm t.addr = 2 ∨
      (stateOf t l = .written ∧ (opened s t l).2 = false)) :
    ∃ r, serveCore s t = partRefused r t ∧ Untaken s r := by
  have hpoisoned := untaken_poisonLine s t l.data (t.addr / 64 % 8)
  have hhit := untaken_hit s t
  have hpart' : t.be ≠ 18446744073709551615 := hpart
  by_cases hlost : stateOf t l = .lost
  · exact ⟨_, by simp [serveCore, loadTag_of_resident hres, hpass, hwrite, hpart', hlost], hhit⟩
  by_cases hbad : s.dm t.addr = 2
  · refine ⟨if t.reg.mode ≠ 0 then (poisonLine (hit s t) t l.data (t.addr / 64 % 8)).1 else hit s t,
      by simp [serveCore, loadTag_of_resident hres, hpass, hwrite, hpart', hlost, hbad], ?_⟩
    split
    · exact hpoisoned
    · exact hhit
  obtain h | h | h | h | ⟨h, hwrong⟩ := hst
  · exact absurd h hlost
  · exact ⟨_, by simp [serveCore, loadTag_of_resident hres, hpass, hwrite, hpart', hbad, h], hhit⟩
  · exact ⟨_, by simp [serveCore, loadTag_of_resident hres, hpass, hwrite, hpart', hbad, h], hpoisoned⟩
  · exact absurd h hbad
  · exact ⟨_, by simp [serveCore, loadTag_of_resident hres, hpass, hwrite, hpart', hbad, h, hwrong], untaken_tagFailed hpoisoned⟩

end

/-! ### Storing a line (R213, R229) -/

/-- The state once the line of t holds pt under its raised minor counter. -/
def stored (s : State) (t : Txn) (l : CLine) (pt : Bytes) : State :=
  let i := t.addr / 64 % 8
  let c := closeLine t (tlMajor l.data) (tlMinor l.data i + 1) t.addr pt
  storeTag (dramPut (hit s t) t.addr c.1) t.ch (t.addr / 512) (tlSet l.data i (tlMinor l.data i + 1) c.2)

theorem writeLine_of_room (pt : Bytes) (hroom : tlMinor l.data (t.addr / 64 % 8) < 255) :
    writeLine (hit s t) t l.data pt = stored s t l pt := by
  simp only [writeLine, if_neg (show ¬ tlMinor l.data (t.addr / 64 % 8) = 0xFF by omega)]
  rfl

theorem stored_frame (s : State) (t : Txn) (l : CLine) (pt : Bytes) : stored s t l pt = { s with
    mem := { s.mem with chan := (stored s t l pt).mem.chan }, dram := (stored s t l pt).dram, dmErr := (stored s t l pt).dmErr } := by
  simp only [stored, storeTag]
  rw [touchLine_frame, hit_frame]
  rfl

theorem stored_dramWritten (s : State) (t : Txn) (l : CLine) (pt : Bytes) :
    DramWritten s (stored s t l pt) t.addr (closeLine t (tlMajor l.data) (tlMinor l.data (t.addr / 64 % 8) + 1) t.addr pt).1 := by
  apply dramWritten_of_put
  · simp only [stored, storeTag, touchLine_dram, dramPut, hit]
  · simp only [stored, storeTag, touchLine_dmErr, dramPut, hit]

theorem findLine_stored (pt : Bytes) (hres : Resident s t l) : findLine (stored s t l pt) t.ch (t.addr / 512) = some { l with
    data := tlSet l.data (t.addr / 64 % 8) (tlMinor l.data (t.addr / 64 % 8) + 1)
      (closeLine t (tlMajor l.data) (tlMinor l.data (t.addr / 64 % 8) + 1) t.addr pt).2
    dirty := true } :=
  findLine_touchLine _ (findLine_hit hres) rfl rfl

theorem findLine_poisonLine (i : Nat) (hres : Resident s t l) : findLine (poisonLine (hit s t) t l.data i).1 t.ch (t.addr / 512) =
    some { l with data := overlay l.data (9 + 7 * i) tagPoison, dirty := true } :=
  findLine_touchLine _ (findLine_hit hres) rfl rfl

theorem poisonLine_frame (s : State) (t : Txn) (b : Bytes) (i : Nat) : (poisonLine (hit s t) t b i).1 =
    { s with mem := { s.mem with chan := (poisonLine (hit s t) t b i).1.mem.chan } } := by
  simp only [poisonLine, storeTag]
  rw [touchLine_frame, hit_frame]

/-! ### Integrity events (R268) -/

theorem logPut_wr (s : State) (ev cls : Nat) (data : Bytes) {off : Nat} (hoff : off ≠ 0x5A00) :
    (s.logPut ev cls data).wr off = s.wr off := by
  have hlose : ∀ t : State, t.logLose.wr off = t.wr off := fun t => (putWr_wr _ _ _ _).trans (if_neg hoff)
  have hstore : ∀ (t : State) (ev cls : Nat) (data : Bytes), (t.logStore ev cls data).wr off = t.wr off := by
    intro t ev cls data
    unfold State.logStore
    dsimp only
    split
    · exact (putWr_wr _ _ _ _).trans (if_neg hoff)
    · rfl
  unfold State.logPut
  dsimp only
  repeat' split
  all_goals simp only [hlose, hstore]
  all_goals rfl

theorem integEvent_wr (s : State) (kind a n : Nat) {off : Nat} (hoff : off ≠ 0x5A00) : (integEvent s kind a n).wr off = s.wr off :=
  logPut_wr _ _ _ _ hoff

theorem integEvent_stw (s : State) (kind a n : Nat) {off : Nat} (hlo : off ≠ 0x3711C) (hhi : off ≠ 0x37120) :
    (integEvent s kind a n).stw off = s.stw off := by
  rw [integEvent, logPut_stw, putSt_stw, if_neg hhi, putSt_stw, if_neg hlo]

theorem integEvent_frame (s : State) (kind a n : Nat) :
    integEvent s kind a n = { s with regs := (integEvent s kind a n).regs, log := (integEvent s kind a n).log } := by
  conv_lhs => rw [integEvent, logPut_frame]
  rfl

end

end Sys2Proof.Machine
end

section
/-! PROOFS. What DRAM brings and what leaves the caches: DRAM_DATA_RETURN, CACHE_EVICTION, MARKED_WRITEBACK, REGION_INIT_PASS, and the
statement on lines served and metadata cached assembled from them (R49, R213, R223, R229 to R231, R242, R247, R253 to R256, R262). -/

namespace Sys2Proof.Machine

open Sys2Proof.Claims

/-! ### Reports that come with data (R49, R232, R262) -/

theorem rootParity_memFrame {a s : State} (tr hx bad : Nat) (h : MemFrame a s) : MemFrame a (rootParity s tr hx bad) := by
  unfold rootParity
  dsimp only
  split
  · exact h
  · split
    · exact loseSubtree_memFrame _ _ _ (setRoot_memFrame _ _ _ _ (dropMeta_memFrame _ _ h))
    · exact MemFrame_mk.mpr (MemFrameParts.of h)

theorem almRootParity_memFrame {a s : State} (bad : Nat) (h : MemFrame a s) : MemFrame a (almRootParity s bad) := by
  unfold almRootParity
  split
  · exact h
  · exact MemFrame_mk.mpr (MemFrameParts.of h)

theorem cacheCe_memFrame {a s : State} (ch : Nat) (h : MemFrame a s) : MemFrame a (cacheCe s ch) :=
  State_evt_memFrame _ _ _ (State_inc_memFrame _ _ _ _ h)

theorem noteDram_memFrame {a s : State} (ret : DramReturn) (h : MemFrame a s) : MemFrame a (noteDram s ret) := by
  unfold noteDram
  refine MemFrame.foldl _ (MemFrame.foldl _ (MemFrame_mk.mpr (MemFrameParts.of h)) fun t c ht => cacheCe_memFrame c ht) fun t r ht => ?_
  split
  · exact almRootParity_memFrame _ ht
  · exact rootParity_memFrame _ _ _ ht

theorem noteDram_portDead (s : State) (ret : DramReturn) : portDead (noteDram s ret) = portDead s := by
  rw [portDead, (noteDram_memFrame ret (MemFrame.refl s)).boot, portDead]

theorem mem_noted (l : List Nat) (t : Nat) : t ∈ (if l.contains t then l else t :: l) := by
  split
  · exact List.contains_iff_mem.mp ‹_›
  · exact List.mem_cons_self

/-- Changing the caches of some channels changes nothing else. -/
theorem foldl_modMchan_frame (f : MemChan → MemChan) (l : List Nat) (s : State) : l.foldl (fun s c => s.modMchan c f) s =
    { s with mem := { s.mem with chan := (l.foldl (fun s c => s.modMchan c f) s).mem.chan } } := by
  induction l generalizing s with
  | nil => rfl
  | cons c l ih =>
    rw [List.foldl_cons, ih]
    rfl

theorem foldl_modMchan_mchan (f : MemChan → MemChan) (c : Nat) (l : List Nat) (s : State) (hl : l.Nodup) :
    (l.foldl (fun s c => s.modMchan c f) s).mchan c = if c ∈ l then f (s.mchan c) else s.mchan c := by
  induction l generalizing s with
  | nil => rfl
  | cons d l ih =>
    obtain ⟨hd, hl⟩ := List.nodup_cons.mp hl
    rw [List.foldl_cons, ih _ hl, modMchan_mchan]
    by_cases hc : c = d
    · subst hc
      simp [hd]
    · simp [hc]

theorem dropMeta_frame (s : State) (q : Nat → Bool) :
    dropMeta s q = { s with mem := { s.mem with chan := (dropMeta s q).mem.chan } } := foldl_modMchan_frame _ _ _

theorem exists_chan_dropMeta (s : State) (q : Nat → Bool) : ∃ c, dropMeta s q = { s with mem := { s.mem with chan := c } } :=
  ⟨_, dropMeta_frame s q⟩

theorem dropMeta_mchan (s : State) (q : Nat → Bool) {c : Nat} (hc : c < 16) : (dropMeta s q).mchan c = { s.mchan c with
    cc := (s.mchan c).cc.filter (fun l => !q l.addr), tc := (s.mchan c).tc.filter (fun n => !q n.addr)
    wb := (s.mchan c).wb.filter (fun p => !q p.1) } :=
  (foldl_modMchan_mchan _ _ _ _ List.nodup_range).trans (if_pos (List.mem_range.mpr hc))

theorem countSubtree_frame (s : State) (n a : Nat) : countSubtree s n a = { s with
    regs := (countSubtree s n a).regs, log := (countSubtree s n a).log
    mem := { s.mem with regions := (countSubtree s n a).mem.regions } } := by
  rw [countSubtree, integEvent_frame]
  rfl

theorem loseSubtree_inflight (s : State) (t h : Nat) : (loseSubtree s t h).mem.inflight = s.mem.inflight := by
  unfold loseSubtree
  split
  · rw [countSubtree_frame]
  · rfl

theorem loseSubtree_roots (s : State) (t h : Nat) : (loseSubtree s t h).mem.roots = s.mem.roots := by
  unfold loseSubtree
  split
  · rw [countSubtree_frame]
  · rfl

/-- A tree that a region uses makes that region LOST in part, with its event (R262). -/
theorem loseSubtree_of_region {s : State} {t h n : Nat} (hn : treeRegion s t = some n) :
    ((loseSubtree s t h).region n).lost = true ∧ bit ((loseSubtree s t h).wr 0x13008) 4 = true := by
  simp only [loseSubtree, hn]
  refine ⟨?_, ?_⟩
  · rw [countSubtree, integEvent_frame]
    show ((s.modRegion n _).region n).lost = true
    rw [modRegion_region, if_pos rfl]
  · rw [countSubtree, integEvent_wr _ _ _ _ (by decide)]
    exact bit_evt _ 0x13008 4

/-! ### The transaction served (R230) -/

theorem dramWritten_of_eq {s u w : State} {a : Nat} {b : Bytes} (h : DramWritten s u a b) (hdram : w.dram = u.dram)
    (herr : w.dmErr = u.dmErr) : DramWritten s w a b := by
  obtain ⟨hstored, hkept, herrors⟩ := h
  exact ⟨by rw [dramGet, hdram]; exact hstored, by rwa [hdram], fun x => by rw [← herrors, State.dm, herr, State.dm]⟩

theorem findLine_of_mem {s u : State} (h : u.mem = s.mem) (ch grp : Nat) : findLine u ch grp = findLine s ch grp := by
  rw [findLine, State.mchan, h, findLine, State.mchan]

/-- The state once transaction t is no longer in flight. -/
def retired (s : State) (t : Txn) : State := { s with mem := { s.mem with inflight := s.mem.inflight.erase t } }

theorem resident_retired {s : State} {t : Txn} {l : CLine} (h : Resident s t l) : Resident (retired s t) t l := h

theorem serveWaiting_of_room {s : State} {t : Txn} (h : aheadFull s t = false) : serveWaiting s t = serve s t := by
  simp [serveWaiting, h]

/-- Data that comes back serves the oldest transaction on its group, whose tag line is resident. -/
theorem dramReturn_of_served {s : State} {j : Nat} {ret : DramReturn} {t : Txn} {l : CLine} (h : Served (noteDram s ret) j t l) :
    dramReturn s j ret = serve (retired (noteDram s ret) t) t := by
  obtain ⟨hlive, ⟨t0, hj, hfind⟩, hpass, hline, hunmarked⟩ := h
  have hgrp : t.addr / 512 = t0.addr / 512 := by simpa using List.find?_some hfind
  have hroom : ∀ s', findLine s' t.ch (t.addr / 512) = some l → aheadFull s' t = false := fun s' hs' => by simp [aheadFull, hs']
  rw [noteDram_portDead] at hlive
  have hline' : findLine (retired (noteDram s ret) t) t.ch (t.addr / 512) = some l := hline
  have holdest : serveOldest (noteDram s ret) (t.addr / 512) = serve (retired (noteDram s ret) t) t := by
    simp only [serveOldest, hgrp, hfind]
    exact serveWaiting_of_room (hroom _ hline')
  simp only [dramReturn, hlive, hj, hfind, hroom _ hline, holdest, Bool.false_eq_true, if_false]

theorem exec_dramDataReturn (s : State) (j : Nat) (ret : DramReturn) : exec (.dramDataReturn j ret) s = .next (dramReturn s j ret) := rfl

theorem exec_cacheEviction (s : State) (ch : Fin 16) :
    exec (.cacheEviction ch) s = .next (if portDead s || (s.chan ch).fenced then s else drainWbOne s ch) := rfl

theorem exec_markedWriteback (s : State) (ch : Fin 16) :
    exec (.markedWriteback ch) s = .next (if portDead s || (s.chan ch).fenced then s else markedOne s ch) := rfl

theorem exec_regionInitPass (s : State) (n : Fin 64) : exec (.regionInitPass n) s = .next (initPass s n) := rfl

theorem serve_read {s r : State} {t : Txn} {st : Nat} {d : Bytes} (h : serveCore s t = (r, st, d)) (hread : t.write = false) :
    serve s t = r.emit (.memRead t.tag st d) := by
  simp [serve, answer, h, hread]

theorem serve_write {s r : State} {t : Txn} {st : Nat} {d : Bytes} (h : serveCore s t = (r, st, d)) (hwrite : t.write = true) :
    serve s t = r.emit (.memWrite t.tag st) := by
  simp [serve, answer, h, hwrite]

theorem hit_retired_frame (s : State) (t : Txn) : hit (retired s t) t =
    { s with mem := { s.mem with inflight := s.mem.inflight.erase t, chan := (hit (retired s t) t).mem.chan } } := by
  rw [hit_frame]
  rfl

theorem poisonLine_retired_frame (s : State) (t : Txn) (b : Bytes) (i : Nat) : (poisonLine (hit (retired s t) t) t b i).1 =
    { s with mem := (poisonLine (hit (retired s t) t) t b i).1.mem } := by
  rw [poisonLine_frame]
  rfl

theorem stored_retired_frame (s : State) (t : Txn) (l : CLine) (pt : Bytes) : stored (retired s t) t l pt = { s with
    mem := { s.mem with inflight := s.mem.inflight.erase t, chan := (stored (retired s t) t l pt).mem.chan }
    dram := (stored (retired s t) t l pt).dram, dmErr := (stored (retired s t) t l pt).dmErr } := by
  rw [stored_frame]
  rfl

/-- What the answer with poison leaves, where only the caches and a counter of their own changed before it. -/
theorem poisonRead_leaves {s r : State} (t : Txn) (d : Bytes) (hr : r = { s with mem := r.mem, regs := r.regs })
    (hcount : r.stf 0x37104 31 0 = s.stf 0x37104 31 0) :
    let u := (r.inc 0x37104 31 0).emit (.memRead t.tag 3 d)
    u.outs = .memRead t.tag 3 d :: s.outs ∧ u.stf 0x37104 31 0 = satInc 32 (s.stf 0x37104 31 0) ∧
      u = { s with mem := u.mem, regs := u.regs, outs := u.outs } := by
  refine ⟨by rw [hr]; rfl, ?_, by rw [hr]; rfl⟩
  rw [← hcount]
  exact inc_stf r 0x37104 31 0

theorem inc_stf_other (s : State) {off off' : Nat} (hi lo hi' lo' : Nat) (h : off' ≠ off) :
    (s.inc off hi lo).stf off' hi' lo' = s.stf off' hi' lo' := by
  rw [State.stf, inc_stw, if_neg h, State.stf]

/-- An integrity event that is counted and flagged changes registers and the log alone (R268). -/
theorem integEvent_counted (s : State) {off : Nat} (k kind a n : Nat) (hlo : off ≠ 0x3711C) (hhi : off ≠ 0x37120) :
    (integEvent ((s.inc off 31 0).evt 0x13008 k) kind a n).stf off 31 0 = satInc 32 (s.stf off 31 0) ∧
      bit ((integEvent ((s.inc off 31 0).evt 0x13008 k) kind a n).wr 0x13008) k = true := by
  refine ⟨?_, ?_⟩
  · rw [State.stf, integEvent_stw _ _ _ _ hlo hhi]
    exact inc_stf s off 31 0
  · rw [integEvent_wr _ _ _ _ (by decide)]
    exact bit_evt _ _ _

/-- A refused partial write counts, flags and names its line (R254). -/
theorem partRefused_leaves {s r : State} (t : Txn) (hr : Untaken s r) :
    let u := (partRefused r t).1.emit (.memWrite t.tag 2)
    u.outs = .memWrite t.tag 2 :: s.outs ∧ u.dram = s.dram ∧ u.stf 0x37108 31 0 = satInc 32 (s.stf 0x37108 31 0) ∧
      bit (u.wr 0x13008) 1 = true := by
  obtain ⟨houts, hdram, hstw⟩ := hr
  obtain ⟨hcount, hflag⟩ := integEvent_counted r (off := 0x37108) 1 1 t.addr t.rgn (by decide) (by decide)
  have hframe : (partRefused r t).1 = { r with regs := (partRefused r t).1.regs, log := (partRefused r t).1.log } := by
    rw [partRefused, integEvent_frame]
    rfl
  refine ⟨?_, ?_, ?_, hflag⟩
  · rw [hframe, ← houts]
    rfl
  · rw [hframe, ← hdram]
    rfl
  · rw [State.stf, State.stf, ← hstw]
    exact hcount

end Sys2Proof.Machine

namespace Sys2Proof.Proofs

open Sys2Proof.Machine Sys2Proof.Claims

/-! ### Data that comes back for a transaction with its tag line resident -/

section
variable {s0 s : State} {j : Nat} {ret : DramReturn} {t : Txn} {l : CLine} (hs : s = noteDram s0 ret) (hserved : Served s j t l)
include hs hserved

theorem dramDataReturn_read {r : State} {st : Nat} {d : Bytes} (hcore : serveCore (retired s t) t = (r, st, d)) (hread : t.write = false) :
    exec (.dramDataReturn j ret) s0 = .next (r.emit (.memRead t.tag st d)) := by
  subst hs
  rw [exec_dramDataReturn, dramReturn_of_served hserved, serve_read hcore hread]

theorem dramDataReturn_write {r : State} {st : Nat} {d : Bytes} (hcore : serveCore (retired s t) t = (r, st, d)) (hwrite : t.write = true) :
    exec (.dramDataReturn j ret) s0 = .next (r.emit (.memWrite t.tag st)) := by
  subst hs
  rw [exec_dramDataReturn, dramReturn_of_served hserved, serve_write hcore hwrite]

omit hs in
theorem resident_of_served : Resident (retired s t) t l ∧ t.pass = false := by
  obtain ⟨-, -, hpass, hline, hunmarked⟩ := hserved
  exact ⟨⟨hline, hunmarked⟩, hpass⟩

/-- A read that needs nothing counted: the line is UNWRITTEN, or WRITTEN and its tag holds. -/
theorem read_answers {d : Bytes} (hread : t.write = false) (hcore : serveCore (retired s t) t = (hit (retired s t) t, 0, d)) :
    ∃ u, exec (.dramDataReturn j ret) s0 = .next u ∧ u.outs = .memRead t.tag 0 d :: s.outs ∧
      u.mem.inflight = s.mem.inflight.erase t ∧ u = { s with mem := u.mem, outs := u.outs } := by
  refine ⟨_, dramDataReturn_read hs hserved hcore hread, ?_⟩
  rw [hit_retired_frame]
  exact ⟨rfl, rfl, rfl⟩

/-- A read of a WRITTEN line whose tag does not hold (R253). -/
theorem read_wrong (hread : t.write = false) (hdm : s.dm t.addr ≠ 2) (hst : stateOf t l = .written) (hwrong : (opened s t l).2 = false) :
    ∃ u, exec (.dramDataReturn j ret) s0 = .next u ∧ u.outs = .memRead t.tag 3 (opened s t l).1 :: s.outs ∧
      bit (u.wr 0x13008) 0 = true ∧ u.stf 0x37100 31 0 = satInc 32 (s.stf 0x37100 31 0) ∧
      u = { s with mem := u.mem, regs := u.regs, outs := u.outs } := by
  obtain ⟨hres, hpass⟩ := resident_of_served hserved
  refine ⟨_, dramDataReturn_read hs hserved (serveCore_read_wrong hres hpass hread hdm hst hwrong) hread, ?_⟩
  rw [hit_retired_frame]
  refine ⟨rfl, bit_evt _ 0x13008 0, ?_, rfl⟩
  exact (inc_stf_other _ 31 0 31 0 (by decide)).trans (inc_stf _ 0x37100 31 0)

/-- A read of a line that is LOST, POISONED, CORRUPT or uncorrectable returns poison and zeros (R256). -/
theorem read_poison (hread : t.write = false) (hst : stateOf t l = .lost ∨ stateOf t l = .poisoned ∨ stateOf t l = .corrupt ∨ s.dm t.addr = 2) :
    ∃ u, exec (.dramDataReturn j ret) s0 = .next u ∧ u.outs = .memRead t.tag 3 (zeros 64) :: s.outs ∧
      u.stf 0x37104 31 0 = satInc 32 (s.stf 0x37104 31 0) ∧ u = { s with mem := u.mem, regs := u.regs, outs := u.outs } ∧
      (s.dm t.addr = 2 → t.reg.mode ≠ 0 → stateOf t l ≠ .lost → findLine u t.ch (t.addr / 512) =
        some { l with data := overlay l.data (9 + 7 * (t.addr / 64 % 8)) tagPoison, dirty := true }) := by
  obtain ⟨hres, hpass⟩ := resident_of_served hserved
  have hhit : hit (retired s t) t = { s with mem := (hit (retired s t) t).mem, regs := (hit (retired s t) t).regs } := by
    rw [hit_retired_frame]
  have hcount : (hit (retired s t) t).stf 0x37104 31 0 = s.stf 0x37104 31 0 := by
    rw [hit_retired_frame]
    rfl
  by_cases hlost : stateOf t l = .lost
  · refine ⟨_, dramDataReturn_read hs hserved (serveCore_read_lost hres hpass hread hlost) hread, ?_⟩
    obtain ⟨houts, hstf, hframe⟩ := poisonRead_leaves t (zeros 64) hhit hcount
    exact ⟨houts, hstf, hframe, fun _ _ h => absurd hlost h⟩
  by_cases hbad : s.dm t.addr = 2
  · have hcore := serveCore_read_bad hres hpass hread hlost hbad
    by_cases hmode : t.reg.mode ≠ 0
    · rw [if_pos hmode] at hcore
      refine ⟨_, dramDataReturn_read hs hserved hcore hread, ?_⟩
      obtain ⟨houts, hstf, hframe⟩ := poisonRead_leaves (s := s) (r := (poisonLine (hit (retired s t) t) t l.data (t.addr / 64 % 8)).1)
        t (zeros 64) (by rw [poisonLine_retired_frame]) (by rw [poisonLine_retired_frame]; rfl)
      exact ⟨houts, hstf, hframe, fun _ _ _ => findLine_poisonLine _ hres⟩
    · rw [if_neg hmode] at hcore
      refine ⟨_, dramDataReturn_read hs hserved hcore hread, ?_⟩
      obtain ⟨houts, hstf, hframe⟩ := poisonRead_leaves t (zeros 64) hhit hcount
      exact ⟨houts, hstf, hframe, fun _ h => absurd h hmode⟩
  · have hmarked : stateOf t l = .poisoned ∨ stateOf t l = .corrupt := by tauto
    refine ⟨_, dramDataReturn_read hs hserved (serveCore_read_marked hres hpass hread hbad hmarked) hread, ?_⟩
    obtain ⟨houts, hstf, hframe⟩ := poisonRead_leaves t (zeros 64) hhit hcount
    exact ⟨houts, hstf, hframe, fun h => absurd h hbad⟩

/-- A partial write that may not be merged (R254). -/
theorem part_refused (hwrite : t.write = true) (hpart : t.be ≠ 2 ^ 64 - 1)
    (hst : stateOf t l = .lost ∨ stateOf t l = .poisoned ∨ stateOf t l = .corrupt ∨ s.dm t.addr = 2 ∨
      (stateOf t l = .written ∧ (opened s t l).2 = false)) :
    ∃ u, exec (.dramDataReturn j ret) s0 = .next u ∧ u.outs = .memWrite t.tag 2 :: s.outs ∧ u.dram = s.dram ∧
      u.stf 0x37108 31 0 = satInc 32 (s.stf 0x37108 31 0) ∧ bit (u.wr 0x13008) 1 = true := by
  obtain ⟨hres, hpass⟩ := resident_of_served hserved
  obtain ⟨r, hcore, hr⟩ := serveCore_part_refused hres hpass hwrite hpart hst
  exact ⟨_, dramDataReturn_write hs hserved hcore hwrite, partRefused_leaves t hr⟩

/-- A full-line write to a LOST line (R255). -/
theorem full_lost (hwrite : t.write = true) (hfull : t.be = 2 ^ 64 - 1) (hst : stateOf t l = .lost) :
    ∃ u, exec (.dramDataReturn j ret) s0 = .next u ∧ u.outs = .memWrite t.tag 2 :: s.outs ∧
      u.stf 0x37108 31 0 = satInc 32 (s.stf 0x37108 31 0) ∧ u = { s with mem := u.mem, regs := u.regs, outs := u.outs } := by
  obtain ⟨hres, hpass⟩ := resident_of_served hserved
  refine ⟨_, dramDataReturn_write hs hserved (serveCore_full_lost hres hpass hwrite hfull hst) hwrite, ?_⟩
  rw [hit_retired_frame]
  exact ⟨rfl, inc_stf _ 0x37108 31 0, rfl⟩

/-- What a write that is taken stores: the full line, or the enabled bytes merged into the old one (R229). -/
abbrev newLine (s : State) (t : Txn) (l : CLine) : Bytes :=
  if t.be = 2 ^ 64 - 1 then t.data
  else mergeBytes t.be (if stateOf t l = .unwritten then zeros 64 else (opened s t l).1) t.data

omit hs in
/-- A write that is taken stores the line under its raised minor counter (R213, R255). -/
theorem write_taken (hwrite : t.write = true) (hroom : tlMinor l.data (t.addr / 64 % 8) < 255) (hdm : t.be = 2 ^ 64 - 1 ∨ s.dm t.addr ≠ 2)
    (hst : stateOf t l = .unwritten ∨ (stateOf t l = .written ∧ (t.be = 2 ^ 64 - 1 ∨ (opened s t l).2 = true)) ∨
      (t.be = 2 ^ 64 - 1 ∧ (stateOf t l = .poisoned ∨ stateOf t l = .corrupt))) :
    serveCore (retired s t) t = (if stateOf t l = .poisoned then
      integEvent (((stored (retired s t) t l (newLine s t l)).inc 0x3710C 31 0).evt 0x13008 2) 2 t.addr t.rgn
      else stored (retired s t) t l (newLine s t l), 0, []) := by
  obtain ⟨hres, hpass⟩ := resident_of_served hserved
  by_cases hfull : t.be = 2 ^ 64 - 1
  · have hnew : newLine s t l = t.data := if_pos hfull
    rw [hnew, ← writeLine_of_room _ hroom]
    by_cases hpoison : stateOf t l = .poisoned
    · rw [if_pos hpoison, serveCore_full_poisoned hres hpass hwrite hfull hpoison]
    · have hlost : stateOf t l ≠ .lost := by
        intro h
        simp [h] at hst
      rw [if_neg hpoison, serveCore_full hres hpass hwrite hfull hlost hpoison]
  · have hgood : s.dm t.addr ≠ 2 := hdm.resolve_left hfull
    by_cases hunwritten : stateOf t l = .unwritten
    · have hnew : newLine s t l = mergeBytes t.be (zeros 64) t.data := by rw [newLine, if_neg hfull, if_pos hunwritten]
      rw [hnew, ← writeLine_of_room _ hroom, if_neg (by simp [hunwritten]),
        serveCore_part_unwritten hres hpass hwrite hfull hgood hunwritten]
    · obtain ⟨hwritten, hholds⟩ : stateOf t l = .written ∧ (opened s t l).2 = true := by tauto
      have hnew : newLine s t l = mergeBytes t.be (opened s t l).1 t.data := by rw [newLine, if_neg hfull, if_neg hunwritten]
      rw [hnew, ← writeLine_of_room _ hroom, if_neg (by simp [hwritten]),
        serveCore_part_good hres hpass hwrite hfull hgood hwritten hholds]
      rfl

/-- What a write that is taken leaves (R213, R229, R255). -/
theorem write_stores (hwrite : t.write = true) (hroom : tlMinor l.data (t.addr / 64 % 8) < 255) (hdm : t.be = 2 ^ 64 - 1 ∨ s.dm t.addr ≠ 2)
    (hst : stateOf t l = .unwritten ∨ (stateOf t l = .written ∧ (t.be = 2 ^ 64 - 1 ∨ (opened s t l).2 = true)) ∨
      (t.be = 2 ^ 64 - 1 ∧ (stateOf t l = .poisoned ∨ stateOf t l = .corrupt))) {x : Bytes × Bytes}
    (hx : x = closeLine t (tlMajor l.data) (tlMinor l.data (t.addr / 64 % 8) + 1) t.addr (newLine s t l)) :
    ∃ u, exec (.dramDataReturn j ret) s0 = .next u ∧ DramWritten s u t.addr x.1 ∧ u.outs = .memWrite t.tag 0 :: s.outs ∧
      u.mem.inflight = s.mem.inflight.erase t ∧
      findLine u t.ch (t.addr / 512) =
        some { l with data := tlSet l.data (t.addr / 64 % 8) (tlMinor l.data (t.addr / 64 % 8) + 1) x.2, dirty := true } ∧
      (stateOf t l = .poisoned → u.stf 0x3710C 31 0 = satInc 32 (s.stf 0x3710C 31 0) ∧ bit (u.wr 0x13008) 2 = true) ∧
      (stateOf t l ≠ .poisoned → u = { s with mem := u.mem, dram := u.dram, dmErr := u.dmErr, outs := u.outs }) := by
  subst hx
  obtain ⟨hres, -⟩ := resident_of_served hserved
  have hcore := write_taken hserved hwrite hroom hdm hst
  have hwritten := stored_dramWritten (retired s t) t l (newLine s t l)
  have hline := findLine_stored (s := retired s t) (newLine s t l) hres
  have hframe := stored_retired_frame s t l (newLine s t l)
  generalize hr : stored (retired s t) t l (newLine s t l) = r at *
  have houts : r.outs = s.outs := by rw [hframe]
  have hinflight : r.mem.inflight = s.mem.inflight.erase t := by rw [hframe]
  refine ⟨_, dramDataReturn_write hs hserved hcore hwrite, ?_⟩
  by_cases hpoison : stateOf t l = .poisoned
  · simp only [if_pos hpoison]
    have hcount := integEvent_counted r (off := 0x3710C) 2 2 t.addr t.rgn (by decide) (by decide)
    have hbefore : s.stf 0x3710C 31 0 = r.stf 0x3710C 31 0 := by rw [hframe]; rfl
    have hevent := integEvent_frame ((r.inc 0x3710C 31 0).evt 0x13008 2) 2 t.addr t.rgn
    generalize integEvent ((r.inc 0x3710C 31 0).evt 0x13008 2) 2 t.addr t.rgn = w at *
    have hdram : w.dram = r.dram := by rw [hevent]; rfl
    have herr : w.dmErr = r.dmErr := by rw [hevent]; rfl
    have hmem : w.mem = r.mem := by rw [hevent]; rfl
    have hout : w.outs = r.outs := by rw [hevent]; rfl
    refine ⟨?_, ?_, ?_, ?_, fun _ => hbefore ▸ hcount, fun h => absurd hpoison h⟩
    · exact dramWritten_of_eq hwritten hdram herr
    · rw [← houts, ← hout]; rfl
    · rw [← hinflight, ← hmem]; rfl
    · rw [← hline]
      exact findLine_of_mem hmem _ _
  · simp only [if_neg hpoison]
    refine ⟨hwritten, ?_, hinflight, hline, fun h => absurd h hpoison, fun _ => ?_⟩
    · rw [← houts]; rfl
    · rw [hframe]; rfl

end

/-! ### Reports alone -/

section
variable {s : State} (j : Nat) (hlive : portDead s = false) (hidle : s.mem.inflight = [])
include hlive hidle

/-- With nothing in flight the reports are all that data from DRAM leaves. -/
theorem dramDataReturn_idle (ret : DramReturn) (hkept : (noteDram s ret).mem.inflight = s.mem.inflight) :
    exec (.dramDataReturn j ret) s = .next (noteDram s ret) := by
  rw [exec_dramDataReturn]
  simp [dramReturn, hlive, hkept, hidle]

theorem errorReport (a : Nat) (e : Fin 3) (ha : a % 64 = 0) : ∃ u, exec (.dramDataReturn j { errs := [(a, e)] }) s = .next u ∧
    u.dm a = e.val ∧ (∀ x, x / 64 * 64 ≠ a → u.dm x = s.dm x) ∧ u = { s with dmErr := u.dmErr } := by
  refine ⟨_, dramDataReturn_idle j hlive hidle _ rfl, ?_, fun x hx => ?_, rfl⟩
  · have hline : a / 64 * 64 = a := by omega
    simp [noteDram, State.dm, tget_tput, hline]
  · simp [noteDram, State.dm, tget_tput, hx]

theorem cacheReport (c : Fin 16) : ∃ u, exec (.dramDataReturn j { caches := [c] }) s = .next u ∧ bit (u.wr 0x13000) 4 = true ∧
    u.stf (0x37040 + 4 * c.val) 31 16 = satInc 16 (s.stf (0x37040 + 4 * c.val) 31 16) ∧ u = { s with regs := u.regs } :=
  ⟨_, dramDataReturn_idle j hlive hidle _ rfl, bit_evt _ 0x13000 4, inc_stf s (0x37040 + 4 * c.val) 31 16, rfl⟩

omit hlive hidle in
theorem noteDram_root {tr : Fin 17} (hnode : tr.val < 16) (h : Fin 64) (b : Fin 4) :
    noteDram s { roots := [(tr, h, b)] } = rootParity s tr h b := by
  simp [noteDram, show tr.val ≠ 16 by omega]

theorem rootReport {tr : Fin 17} (hnode : tr.val < 16) (h : Fin 64) (b : Fin 4) (hkept : (rootParity s tr h b).mem.inflight = s.mem.inflight) :
    exec (.dramDataReturn j { roots := [(tr, h, b)] }) s = .next (rootParity s tr h b) := by
  rw [dramDataReturn_idle j hlive hidle _ (by rw [noteDram_root hnode, hkept]), noteDram_root hnode]

theorem rootReport_first {tr : Fin 17} (hnode : tr.val < 16) (h : Fin 64) : ∃ u,
    exec (.dramDataReturn j { roots := [(tr, h, 1)] }) s = .next u ∧ rootOf u tr h = tget 0 s.mem.rootsCopy (64 * tr + h) ∧
      tr.val ∈ u.mem.rootCe ∧ u = { s with mem := u.mem } := by
  refine ⟨_, rootReport j hlive hidle hnode h 1 rfl, ?_, mem_noted _ _, rfl⟩
  simp [rootParity, rootOf, tget_tins]

theorem rootReport_copy {tr : Fin 17} (hnode : tr.val < 16) (h : Fin 64) : ∃ u,
    exec (.dramDataReturn j { roots := [(tr, h, 2)] }) s = .next u ∧ tget 0 u.mem.rootsCopy (64 * tr + h) = rootOf s tr h ∧
      tr.val ∈ u.mem.rootCe ∧ u = { s with mem := u.mem } := by
  refine ⟨_, rootReport j hlive hidle hnode h 2 rfl, ?_, mem_noted _ _, rfl⟩
  simp [rootParity, rootOf, tget_tins]

theorem rootReport_both {tr : Fin 17} (hnode : tr.val < 16) (h : Fin 64) : ∃ u,
    exec (.dramDataReturn j { roots := [(tr, h, 3)] }) s = .next u ∧ rootOf u tr h = sealLost ∧
      ∀ n, treeRegion s tr = some n → (u.region n).lost = true ∧ bit (u.wr 0x13008) 4 = true := by
  obtain ⟨q, hboth⟩ : ∃ q, rootParity s tr h 3 = loseSubtree (setRoot (dropMeta s q) tr h sealLost) tr h := ⟨_, rfl⟩
  have htree : treeRegion (setRoot (dropMeta s q) tr h sealLost) tr = treeRegion s tr := by
    rw [dropMeta_frame]
    rfl
  refine ⟨_, rootReport j hlive hidle hnode h 3 ?_, ?_, fun n hn => ?_⟩
  · rw [show (3 : Fin 4).val = 3 from rfl, hboth, loseSubtree_inflight, dropMeta_frame]
    rfl
  · rw [show (3 : Fin 4).val = 3 from rfl, hboth, rootOf, loseSubtree_roots]
    simp [setRoot, tget_tins]
  · rw [show (3 : Fin 4).val = 3 from rfl, hboth]
    exact loseSubtree_of_region (htree.trans hn)

end

/-! ### What leaves the caches, and the initialisation pass -/

theorem oldestEvicted {s : State} {ch : Fin 16} {a : Nat} {b : Bytes} {rest : List (Nat × Bytes)} (hlive : portDead s = false)
    (hfenced : (s.chan ch).fenced = false) (hwb : (s.mchan ch).wb = (a, b) :: rest) : ∃ u, exec (.cacheEviction ch) s = .next u ∧
      DramWritten s u a b ∧ u = { s with dram := u.dram, dmErr := u.dmErr, mem := { s.mem with
        chan := tput {} s.mem.chan ch { s.mchan ch with wb := rest } } } := by
  have hstep : drainWbOne s ch = (dramPut s a b).modMchan ch (fun m => { m with wb := rest }) := by simp only [drainWbOne, hwb]
  refine ⟨drainWbOne s ch, ?_, ?_, ?_⟩
  · rw [exec_cacheEviction, hlive, hfenced]
    rfl
  · exact dramWritten_of_put (by rw [hstep]; rfl) (by rw [hstep]; rfl)
  · rw [hstep]
    rfl

theorem markedWritten {s : State} {ch : Fin 16} {l : CLine} (hlive : portDead s = false) (hfenced : (s.chan ch).fenced = false)
    (holdest : ((s.mchan ch).cc.filter (·.marked)).getLast? = some l)
    (hsole : ∀ x ∈ (s.mchan ch).cc, x.grp = l.grp → x.marked = true → x = l) : ∃ u, exec (.markedWriteback ch) s = .next u ∧
      (if l.dirty then DramWritten s u l.addr l.data else u.dram = s.dram ∧ u.dmErr = s.dmErr) ∧
      u = { s with dram := u.dram, dmErr := u.dmErr, mem := { s.mem with
        chan := tput {} s.mem.chan ch { s.mchan ch with cc := (s.mchan ch).cc.filter (fun x => !(decide (x.grp = l.grp) && x.marked)) } } } := by
  obtain ⟨hmem, hmarked⟩ : l ∈ (s.mchan ch).cc ∧ l.marked = true := by simpa using List.mem_of_getLast? holdest
  have hfound : (s.mchan ch).cc.find? (fun x => decide (x.grp = l.grp) && x.marked) = some l := by
    obtain ⟨y, hy⟩ : ∃ y, (s.mchan ch).cc.find? (fun x => decide (x.grp = l.grp) && x.marked) = some y :=
      Option.isSome_iff_exists.mp (List.find?_isSome.mpr ⟨l, hmem, by simp [hmarked]⟩)
    obtain ⟨hgrp, hym⟩ : y.grp = l.grp ∧ y.marked = true := by simpa using List.find?_some hy
    rw [hy, hsole y (List.mem_of_find?_eq_some hy) hgrp hym]
  have hstep : exec (.markedWriteback ch) s = .next (releaseMarked s ch l.grp) := by
    rw [exec_markedWriteback, hlive, hfenced]
    simp [markedOne, holdest]
  refine ⟨_, hstep, ?_⟩
  by_cases hdirty : l.dirty = true
  · simp only [releaseMarked, hfound, if_pos hdirty]
    exact ⟨dramWritten_of_put rfl rfl, rfl⟩
  · simp only [releaseMarked, hfound, if_neg hdirty]
    exact ⟨⟨rfl, rfl⟩, rfl⟩

/-- No pass of a region initialised at the same Calends comes before that of region n (R247). -/
theorem passWaits_of_first {s : State} {n : Nat} (hfirst : ∀ m ∈ tkeys s.mem.regions, m < n → (s.region m).init.isSome = true →
    (s.region m).initCal ≠ (s.region n).initCal) : passWaits s n = false := by
  rw [passWaits, List.any_eq_false]
  intro m hm hwaits
  simp only [Bool.and_eq_true, decide_eq_true_eq] at hwaits
  obtain ⟨⟨hlt, hinit⟩, hcal⟩ := hwaits
  exact hfirst m hm hlt hinit hcal

/-- The line at address a of the metadata starts anew: no cache holds it any more, and DRAM holds b. -/
def renewed (s : State) (a : Nat) (b : Bytes) : State := dramPut (dropMeta s (fun x => decide (x = a))) a b

theorem renewed_mem (s : State) (a : Nat) (b : Bytes) : (renewed s a b).mem = { s.mem with chan := (renewed s a b).mem.chan } := by
  rw [renewed, dramPut_mem, dropMeta_frame]

theorem renewed_frame (s : State) (a : Nat) (b : Bytes) : renewed s a b = { s with
    dram := (renewed s a b).dram, dmErr := (renewed s a b).dmErr, mem := (renewed s a b).mem } := by
  obtain ⟨c, hc⟩ := exists_chan_dropMeta s (fun x => decide (x = a))
  rw [renewed, hc]
  rfl

theorem renewed_written (s : State) (a : Nat) (b : Bytes) : DramWritten s (renewed s a b) a b := by
  obtain ⟨c, hc⟩ := exists_chan_dropMeta s (fun x => decide (x = a))
  rw [renewed, hc]
  exact dramWritten_of_put rfl rfl

theorem renewed_dropped (s : State) (a : Nat) (b : Bytes) : Dropped s (renewed s a b) a := by
  intro c hc
  have hmchan : (renewed s a b).mchan c = (dropMeta s (fun x => decide (x = a))).mchan c := by
    rw [renewed, State.mchan, dramPut_mem, State.mchan]
  rw [hmchan, dropMeta_mchan s _ hc]
  simp only [decide_not]

/-- The state once the pass visited group p of region n: its tag line is initial, or was already there ahead of the pass. -/
def visited (s : State) (n p : Nat) : State :=
  if s.mem.ahead.contains (n, p) then { s with mem := { s.mem with ahead := s.mem.ahead.filter (· ≠ (n, p)) } }
  else renewed s ((s.region n).tag * 2 ^ 17 + 64 * p) (tlInitial (s.region n).epoch)

theorem visited_mem (s : State) (n p : Nat) :
    (visited s n p).mem = { s.mem with ahead := (visited s n p).mem.ahead, chan := (visited s n p).mem.chan } := by
  unfold visited
  split
  · rfl
  · rw [renewed_mem]

theorem visited_frame (s : State) (n p : Nat) : visited s n p = { s with
    dram := (visited s n p).dram, dmErr := (visited s n p).dmErr, mem := (visited s n p).mem } := by
  unfold visited
  split
  · rfl
  · rw [← renewed_frame]

theorem visited_ahead (s : State) (n p : Nat) :
    (n, p) ∉ (visited s n p).mem.ahead ∧ ∀ y, y ≠ (n, p) → (y ∈ (visited s n p).mem.ahead ↔ y ∈ s.mem.ahead) := by
  unfold visited
  split
  case isTrue => exact ⟨by simp, fun y hy => by simp [hy]⟩
  case isFalse habsent =>
    rw [renewed_mem]
    exact ⟨by simpa using habsent, fun y _ => Iff.rfl⟩

theorem visited_line (s : State) (n p : Nat) :
    if s.mem.ahead.contains (n, p) then (visited s n p).dram = s.dram ∧ (visited s n p).dmErr = s.dmErr ∧
      (visited s n p).mem.chan = s.mem.chan
    else DramWritten s (visited s n p) ((s.region n).tag * 2 ^ 17 + 64 * p) (tlInitial (s.region n).epoch) ∧
      Dropped s (visited s n p) ((s.region n).tag * 2 ^ 17 + 64 * p) := by
  unfold visited
  split
  · exact ⟨rfl, rfl, rfl⟩
  · exact ⟨renewed_written _ _ _, renewed_dropped _ _ _⟩

theorem groupPassed {s : State} {n : Fin 64} {p : Nat} {r : Region} (hr : r = s.region n) (hinit : r.init = some p)
    (hlive : portDead s = false) (hrun : s.halted = false)
    (hfirst : ∀ m ∈ tkeys s.mem.regions, m < n.val → (s.region m).init.isSome = true → (s.region m).initCal ≠ r.initCal) :
    ∃ u, exec (.regionInitPass n) s = .next u ∧
      (if s.mem.ahead.contains (n.val, p) then u.dram = s.dram ∧ u.dmErr = s.dmErr ∧ u.mem.chan = s.mem.chan
       else DramWritten s u (r.tag * 2 ^ 17 + 64 * p) (tlInitial r.epoch) ∧ Dropped s u (r.tag * 2 ^ 17 + 64 * p)) ∧
      (n.val, p) ∉ u.mem.ahead ∧ (∀ y, y ≠ (n.val, p) → (y ∈ u.mem.ahead ↔ y ∈ s.mem.ahead)) ∧
      (p + 1 < r.size * 2 ^ 11 → u.region n = { r with init := some (p + 1) } ∧ u.regs = s.regs) ∧
      (r.size * 2 ^ 11 ≤ p + 1 → u.mem.regions = tput {} s.mem.regions n { r with init := none } ∧ bit (u.wr 0x13008) 6 = true) ∧
      u = { s with dram := u.dram, dmErr := u.dmErr, regs := u.regs, mem := { s.mem with
        regions := u.mem.regions, ahead := u.mem.ahead, chan := u.mem.chan } } := by
  subst hr
  have hline := visited_line s n p
  obtain ⟨hgone, hothers⟩ := visited_ahead s n p
  have hframe := visited_frame s n p
  have hmem := visited_mem s n p
  have hstep : exec (.regionInitPass n) s = .next (if p + 1 ≥ (s.region n).size * 2 ^ 11 then
      ((visited s n p).modRegion n (fun r => { r with init := none })).evt 0x13008 6
      else (visited s n p).modRegion n (fun r => { r with init := some (p + 1) })) := by
    rw [exec_regionInitPass, initPass, hlive, hrun, passWaits_of_first hfirst]
    simp only [passGroup, hinit]
    rfl
  generalize visited s n p = v at hline hgone hothers hframe hmem hstep
  have hregions : v.mem.regions = s.mem.regions := by rw [hmem]
  refine ⟨_, hstep, ?_⟩
  by_cases hlast : p + 1 ≥ (s.region n).size * 2 ^ 11
  · simp only [if_pos hlast]
    refine ⟨hline, hgone, hothers, fun h => absurd h (by omega), fun _ => ⟨?_, bit_evt _ 0x13008 6⟩, ?_⟩
    · exact congrArg (fun m => tmod {} m n.val (fun r => { r with init := none })) hregions
    · rw [hframe, hmem]
      rfl
  · simp only [if_neg hlast]
    refine ⟨hline, hgone, hothers, fun _ => ⟨?_, ?_⟩, fun h => absurd h hlast, ?_⟩
    · rw [modRegion_region, if_pos rfl, State.region, hregions]
      rfl
    · rw [hframe]
      rfl
    · rw [hframe, hmem]
      rfl

/-! ### The statement -/

/-- Settles O56: what the data that comes back finds of the line decides the answer, clause by clause. -/
theorem memoryIsServedAndCached : Obligations.MemoryIsServedAndCached := by
  unfold Obligations.MemoryIsServedAndCached
  refine ⟨?served, ?reports, ?evictions, ?marked, ?passes⟩
  case served =>
    intro s0 s j ret t l i o hs hserved hi ho
    subst hi ho
    refine ⟨fun hread => ⟨fun hdm hst => ?_, fun hdm hst hgood => ?_, fun hdm hst hwrong => read_wrong hs hserved hread hdm hst hwrong,
      fun hst => read_poison hs hserved hread hst⟩, fun hwrite hpart hst => part_refused hs hserved hwrite hpart hst,
      fun hwrite hfull hst => full_lost hs hserved hwrite hfull hst, ?_⟩
    · obtain ⟨hres, hpass⟩ := resident_of_served hserved
      exact read_answers hs hserved hread (serveCore_read_unwritten hres hpass hread hdm hst)
    · obtain ⟨hres, hpass⟩ := resident_of_served hserved
      exact read_answers hs hserved hread (serveCore_read_good hres hpass hread hdm hst hgood)
    · intro pt x hwrite hroom hdm hst hpt hx
      subst hpt
      exact write_stores hs hserved hwrite hroom hdm hst hx
  case reports =>
    intro s j hlive hidle
    exact ⟨fun a e ha => errorReport j hlive hidle a e ha, fun c => cacheReport j hlive hidle c, fun tr h hnode =>
      ⟨rootReport_first j hlive hidle hnode h, rootReport_copy j hlive hidle hnode h, rootReport_both j hlive hidle hnode h⟩⟩
  case evictions => exact fun s ch a b rest hlive hfenced hwb => oldestEvicted hlive hfenced hwb
  case marked => exact fun s ch l hlive hfenced holdest hsole => markedWritten hlive hfenced holdest hsole
  case passes => exact fun s n p r hr hinit hlive hrun hfirst => groupPassed hr hinit hlive hrun hfirst

end Sys2Proof.Proofs
end

section
/-! PROOFS. What the memory-side port does with an access: MEMORY_READ, MEMORY_WRITE, the checks of R219 in order, the count of a refusal,
and a full-line write that needs nothing from DRAM (R47, R48, R81, R217, R219, R220, R224, R229). -/

namespace Sys2Proof.Machine

open Sys2Proof.Claims

/-! ### Refusals (R220) -/

/-- A refusal changes registers alone. -/
theorem denyCount_frame (s : State) (kid cls reason : Nat) : denyCount s kid cls reason = { s with regs := (denyCount s kid cls reason).regs } := by
  simp only [denyCount]
  split <;> rfl

theorem denyCount_record (s : State) (kid cls reason : Nat) : (denyCount s kid cls reason).stw 0x37004 =
    satInc 16 (s.stf 0x37004 15 0) + cls % 16 * 2 ^ 16 + reason * 2 ^ 20 + kid * 2 ^ 24 := by
  simp only [denyCount]
  split
  · rw [inc_stw, if_neg (by decide), evt_stw, putSt_stw, if_pos rfl]
  · rw [evt_stw, putSt_stw, if_pos rfl]

theorem denyCount_flag (s : State) (kid cls reason : Nat) : bit ((denyCount s kid cls reason).wr 0x13000) 2 = true := by
  simp only [denyCount]
  split
  · rw [inc_wr]
    exact bit_evt _ _ _
  · exact bit_evt _ _ _

/-- The answer to a refused access, after s became r while its keys were checked. -/
def denied (r : State) (write : Bool) (tag kid cls reason : Nat) : State :=
  (denyCount r kid cls reason).emit (if write then .memWrite tag 2 else .memRead tag 2 (zeros 64))

theorem denied_refused {s r : State} (write : Bool) (tag kid cls reason : Nat) (houts : r.outs = s.outs) (hdram : r.dram = s.dram)
    (hcount : r.stw 0x37004 = s.stw 0x37004) : Refused s (denied r write tag kid cls reason) write tag kid cls reason := by
  have hframe := denyCount_frame r kid cls reason
  have hrecord := denyCount_record r kid cls reason
  have hflag := denyCount_flag r kid cls reason
  rw [State.stf, hcount] at hrecord
  unfold denied
  generalize denyCount r kid cls reason = v at *
  refine ⟨?_, ?_, hrecord, hflag⟩
  · rw [hframe, ← houts]
    rfl
  · rw [hframe, ← hdram]
    rfl

/-! ### Keys that may not be used (R217) -/

/-- What a failed use of a key may change. -/
structure KeyUse (s r : State) : Prop where
  outs : r.outs = s.outs
  dram : r.dram = s.dram
  record : r.stw 0x37004 = s.stw 0x37004

theorem dlvRefused_keyUse (s : State) : KeyUse s (dlvRefused s) := ⟨rfl, rfl, by simp [dlvRefused]⟩

theorem revalFail_keyUse (s : State) (n slot : Nat) : KeyUse s (revalFail s n slot) := by
  unfold revalFail
  dsimp only
  split
  · exact ⟨rfl, rfl, by simp⟩
  · exact ⟨rfl, rfl, rfl⟩

theorem keyDenied_keyUse (s : State) (st role n slot : Nat) : KeyUse s (keyDenied s st role n slot) := by
  unfold keyDenied
  split
  · split
    · exact ⟨rfl, rfl, rfl⟩
    · exact dlvRefused_keyUse s
  · exact revalFail_keyUse s n slot

/-- A failed key of a KeyID is noted in its own status word. -/
theorem keyFailed_keyUse {s r : State} (kid : Nat) (job : Option (Nat × Bool)) (h : KeyUse s r) :
    KeyUse s (keyFailed r kid true job) := by
  obtain ⟨houts, hdram, hrecord⟩ := h
  have hoff : 0x37004 ≠ 0x3501C + 32 * kid := by omega
  unfold keyFailed
  dsimp only
  split
  · exact ⟨houts, hdram, by rw [← hrecord]; simp [State.putStf, hoff]⟩
  · exact ⟨houts, hdram, by rw [← hrecord]; simp [State.putStf, hoff]⟩

theorem bit_of_field {v n : Nat} (h : bits v n n = 1) : bit v n = true := by
  simp only [bits, Nat.add_sub_cancel_left, pow_one, Nat.shiftRight_eq_div_pow] at h
  simp [bit, Nat.testBit_eq_decide_div_mod_eq, h]

theorem keyFailed_bit (r : State) (kid : Nat) (job : Option (Nat × Bool)) :
    bit ((keyFailed r kid true job).stw (0x3501C + 32 * kid)) 3 = true := by
  have hfield : bit ((r.putStf (0x3501C + 32 * kid) 3 3 1).stw (0x3501C + 32 * kid)) 3 = true := bit_of_field (putStf_stf r _ 3 3 1)
  cases job with
  | none => exact hfield
  | some p => exact hfield

theorem denied_keyFailed_bit (r : State) (kid : Nat) (job : Option (Nat × Bool)) (write : Bool) (tag cls reason : Nat) :
    bit ((denied (keyFailed r kid true job) write tag kid cls reason).stw (0x3501C + 32 * kid)) 3 = true := by
  have hcount : 0x3501C + 32 * kid ≠ 0x37004 := by omega
  have hkeys : 0x3501C + 32 * kid ≠ 0x37008 := by omega
  have hbit := keyFailed_bit r kid job
  simp only [denied, denyCount]
  split <;> simpa [hcount, hkeys] using hbit

/-! ### The checks of R219 in order -/

/-- The keys of a line that no check before refused: DATA, TAG, and in TREE mode the key of the tree (R217). -/
def bindKeys (s : State) (n kid cls : Nat) (write : Bool) (a : Nat) : State × Accept :=
  let r := s.region n
  let ch := s.steerOf a
  let (rd, rt, ep, job) := groupKeys s n kid (a / 512 - r.base * 2 ^ 11)
  match memKey s ch rd true with
  | (s, none) => (keyFailed s kid true job, .refused 9)
  | (s, some dk) =>
    let t : Txn := { write := write, addr := a, kid := kid, cls := cls, rgn := n, reg := r, ch := ch, epoch := ep, dkey := dk
                     dref := rd, tref := rt }
    if r.mode = 0 then (s, .serve t)
    else match memKey s ch rt false with
    | (s, none) => (keyFailed s kid false job, .refused 9)
    | (s, some tk) =>
      if r.mode = 2 then
        match memKey s ch (s.tree r.tree).key false with
        | (s, none) => (keyFailed s kid false none, .refused 9)
        | (s, some sk) => (s, .serve { t with tkey := tk, skey := sk })
      else (s, .serve { t with tkey := tk })

/-- A transaction that its keys let pass is about its own line, in its own region and channel. -/
def Describes (s : State) (n kid : Nat) (write : Bool) (a : Nat) (t : Txn) : Prop :=
  t.addr = a ∧ t.kid = kid ∧ t.rgn = n ∧ t.reg = s.region n ∧ t.ch = s.steerOf a ∧ t.pass = false ∧
    t.epoch = (groupKeys s n kid (a / 512 - (s.region n).base * 2 ^ 11)).2.2.1 ∧ t.write = write

theorem bindKeys_serve {s s1 : State} {n kid cls a : Nat} {write : Bool} {t : Txn} (h : bindKeys s n kid cls write a = (s1, .serve t)) :
    Describes s n kid write a t := by
  unfold bindKeys at h
  unfold Describes
  dsimp only at h
  split at h
  case h_1 => cases h
  case h_2 s2 dk _ =>
    split at h
    · cases h
      exact ⟨rfl, rfl, rfl, rfl, rfl, rfl, rfl, rfl⟩
    · split at h
      · cases h
      · split at h
        · split at h
          · cases h
          · cases h
            exact ⟨rfl, rfl, rfl, rfl, rfl, rfl, rfl, rfl⟩
        · cases h
          exact ⟨rfl, rfl, rfl, rfl, rfl, rfl, rfl, rfl⟩

theorem bindKeys_denied {s : State} {n kid cls a : Nat} (write : Bool)
    (h : keyCheck s [((groupKeys s n kid (a / 512 - (s.region n).base * 2 ^ 11)).1, memPermit (s.steerOf a) true)] ≠ stOK) :
    ∃ r job, KeyUse s r ∧ bindKeys s n kid cls write a = (keyFailed r kid true job, .refused 9) := by
  unfold bindKeys
  simp only [memKey, if_pos h]
  exact ⟨_, _, keyDenied_keyUse _ _ _ _ _, rfl⟩

/-- The checks of R219 on the line at address a, the keys named apart. -/
def checkLine (s : State) (a kid cls : Nat) (write : Bool) : State × Accept :=
  if (metaAreas s).any (inArea a) then (s, .refused 1)
  else match regionOf s a with
  | none => (s, .pass)
  | some n =>
    if memClosed s then (s, .refused 9)
    else if kid = 0 ∧ !bit (s.region n).clsBase cls then (s, .refused 2)
    else if kid ≠ 0 ∧ s.boot.eve then (s, .refused 3)
    else if kid ≠ 0 ∧ (kid < (s.region n).kidLo ∨ (s.region n).kidHi < kid) then (s, .refused 4)
    else if kid ≠ 0 ∧ !bit (s.region n).clsKid cls then (s, .refused 5)
    else if !(s.kid kid).en then (s, .refused 6)
    else if regionRefuses s n kid cls write a then (s, .refused 7)
    else if (s.region n).mode ≠ 0 ∧ (s.kid kid).tag.slot = 0 then (s, .refused 8)
    else bindKeys s n kid cls write a

theorem accept_eq (s : State) (addr cls : Nat) (write : Bool) :
    accept s addr cls write = checkLine s (addr % 2 ^ 40 / 64 * 64) (addr / 2 ^ 40 % 256) cls write := by
  unfold accept
  generalize addr % 2 ^ 40 / 64 * 64 = a
  generalize addr / 2 ^ 40 % 256 = kid
  rfl

section
variable {s : State} {cls a kid : Nat} {write : Bool}

theorem checkLine_metadata (hmeta : (metaAreas s).any (inArea a) = true) : checkLine s a kid cls write = (s, .refused 1) := by
  simp only [checkLine, hmeta, if_true]

variable (hdata : (metaAreas s).any (inArea a) = false)
include hdata

theorem checkLine_outside (hout : regionOf s a = none) : checkLine s a kid cls write = (s, .pass) := by
  simp only [checkLine, hdata, hout, Bool.false_eq_true, if_false]

/-- In a region the first check that fails refuses; where none fails the keys decide. -/
theorem checkLine_inside {n : Nat} (hin : regionOf s a = some n) : checkLine s a kid cls write =
    match refusal s n a kid cls write with
    | 0 => bindKeys s n kid cls write a
    | reason => (s, .refused reason) := by
  simp only [checkLine, hdata, hin, refusal, Bool.not_eq_true', Bool.false_eq_true, if_false]
  split_ifs
  all_goals rfl

theorem checkLine_refused {n : Nat} (hin : regionOf s a = some n) (h : refusal s n a kid cls write ≠ 0) :
    checkLine s a kid cls write = (s, .refused (refusal s n a kid cls write)) := by
  rw [checkLine_inside hdata hin]
  split
  · exact absurd ‹_› h
  · rfl

theorem checkLine_keys {n : Nat} (hin : regionOf s a = some n) (h : refusal s n a kid cls write = 0) :
    checkLine s a kid cls write = bindKeys s n kid cls write a := by
  simp only [checkLine_inside hdata hin, h]

end

/-! ### An access at the port (R47, R81, R224) -/

theorem exec_memoryRead (s : State) (addr : BitVec 48) (cls : BitVec 4) (tag : BitVec 8) : exec (.memoryRead addr cls tag) s =
    .next (atMemPort s (.memoryRead addr cls tag) (fun s => memAccess s addr.toNat cls.toNat tag.toNat false [] 0)) := rfl

theorem exec_memoryWrite (s : State) (addr : BitVec 48) (cls : BitVec 4) (data : Line) (be : BitVec 64) (tag : BitVec 8) :
    exec (.memoryWrite addr cls data be tag) s = .next (atMemPort s (.memoryWrite addr cls data be tag)
      (fun s => memAccess s addr.toNat cls.toNat tag.toNat true (lineBytes data) be.toNat)) := rfl

/-- Transaction t joins those in flight. -/
def joined (s : State) (t : Txn) : State := { s with mem := { s.mem with inflight := s.mem.inflight ++ [t] } }

/-- The transaction of an access outside every region (R219). -/
abbrev passing (tag : Nat) (write : Bool) (a cls : Nat) (data : Bytes) (be : Nat) : Txn :=
  { tag := tag, write := write, addr := a, cls := cls, data := data, be := be, pass := true }

section
variable {s s1 : State} {addr cls : Nat} {write : Bool} (tag : Nat) (data : Bytes) (be : Nat)

theorem memAccess_refused {reason : Nat} (h : accept s addr cls write = (s1, .refused reason)) :
    memAccess s addr cls tag write data be = denied s1 write tag (addr / 2 ^ 40 % 256) cls reason := by
  simp only [memAccess, h]
  rfl

theorem memAccess_pass (h : accept s addr cls write = (s1, .pass)) {t : Txn} (ht : t = passing tag write (addr % 2 ^ 40 / 64 * 64) cls data be) :
    memAccess s addr cls tag write data be = if write && writesAtOnce s1 t then serve s1 t else joined s1 t := by
  simp only [memAccess, h, ht]
  rfl

theorem memAccess_serve {t : Txn} (h : accept s addr cls write = (s1, .serve t)) : memAccess s addr cls tag write data be =
    if write && writesAtOnce s1 { t with tag := tag, data := data, be := be } then serve s1 { t with tag := tag, data := data, be := be }
    else joined s1 { t with tag := tag, data := data, be := be } := by
  simp only [memAccess, h]
  rfl

end

/-- A write that enables some bytes alone, follows another on its group, or finds no tag line resident waits for DRAM (R229). -/
theorem writesAtOnce_of_waits {s : State} {t : Txn} (h : t.be ≠ 2 ^ 64 - 1 ∨ (∃ x ∈ s.mem.inflight, x.addr / 512 = t.addr / 512) ∨
    (t.pass = false ∧ findLine s t.ch (t.addr / 512) = none)) : writesAtOnce s t = false := by
  obtain hpart | holder | ⟨hpass, hline⟩ := h
  · have hfull : decide (t.be = 2 ^ 64 - 1) = false := decide_eq_false hpart
    rw [writesAtOnce, hfull]
    rfl
  · have hany : s.mem.inflight.any (fun x => decide (x.addr / 512 = t.addr / 512)) = true := by simpa using holder
    simp only [writesAtOnce, hany, Bool.not_true, Bool.and_false, Bool.false_and]
  · simp only [writesAtOnce, hpass, hline, Bool.or_false, Bool.and_false]

theorem writesAtOnce_of_first {s : State} {t : Txn} (hfull : t.be = 2 ^ 64 - 1) (hfirst : ∀ x ∈ s.mem.inflight, x.addr / 512 ≠ t.addr / 512)
    (hready : t.pass = true ∨ ∃ l, findLine s t.ch (t.addr / 512) = some l ∧ tlMinor l.data (t.addr / 64 % 8) < 255) :
    writesAtOnce s t = true := by
  have hnone : s.mem.inflight.any (fun x => decide (x.addr / 512 = t.addr / 512)) = false := by simpa using hfirst
  have hbytes : decide (t.be = 2 ^ 64 - 1) = true := decide_eq_true hfull
  rw [writesAtOnce, hbytes, hnone]
  obtain hpass | ⟨l, hline, hroom⟩ := hready
  · rw [hpass]
    rfl
  · have hbelow : decide (tlMinor l.data (t.addr / 64 % 8) ≠ 0xFF) = true := decide_eq_true (by omega)
    simp only [hline, hbelow, Bool.or_true, Bool.not_false, Bool.and_true]

theorem serve_full_resident {s : State} {t : Txn} {l : CLine} (hres : Resident s t l) (hpass : t.pass = false) (hwrite : t.write = true)
    (hfull : t.be = 2 ^ 64 - 1) (hroom : tlMinor l.data (t.addr / 64 % 8) < 255) (hlost : stateOf t l ≠ .lost)
    (hpoison : stateOf t l ≠ .poisoned) : serve s t = (stored s t l t.data).emit (.memWrite t.tag 0) := by
  rw [serve, serveCore_full hres hpass hwrite hfull hlost hpoison, writeLine_of_room _ hroom, answer, if_pos hwrite]

theorem be_full {be : BitVec 64} : be.toNat = 2 ^ 64 - 1 ↔ be = BitVec.allOnes 64 := by
  rw [← BitVec.toNat_allOnes]
  exact BitVec.toNat_inj

theorem toLe_length (n v : Nat) : (toLe n v).length = n := by
  induction n generalizing v with
  | zero => rfl
  | succ n ih => rw [toLe, List.length_cons, ih]

theorem lineBytes_length (d : Line) : (lineBytes d).length = 64 := toLe_length 64 d.toNat

/-- With every byte enabled nothing of the old line stays. -/
theorem mergeBytes_full (old : Bytes) {new : Bytes} (hnew : new.length = 64) : mergeBytes (2 ^ 64 - 1) old new = new := by
  refine List.ext_getElem (by simp [mergeBytes, hnew]) (fun i hi hi' => ?_)
  have hbyte : i < 64 := hnew ▸ hi'
  have hbit : bit (2 ^ 64 - 1) i = true := by rw [bit, Nat.testBit_two_pow_sub_one, decide_eq_true hbyte]
  simp only [mergeBytes, List.getElem_map, List.getElem_range, hbit, if_true, byteAt]
  simp [hi']

end Sys2Proof.Machine

namespace Sys2Proof.Proofs

open Sys2Proof.Machine Sys2Proof.Claims

section
variable {s : State} {addr : BitVec 48} {cls : BitVec 4} {data : Line} {be : BitVec 64} {tag : BitVec 8} {write : Bool} {c : Instr} {a kid : Nat}
  (hlive : portDead s = false) (hc : c = if write then .memoryWrite addr cls data be tag else .memoryRead addr cls tag)
  (ha : a = addr.toNat % 2 ^ 40 / 64 * 64) (hkid : kid = addr.toNat / 2 ^ 40 % 256)

include hlive

theorem readHeld (hdue : s.tick.due = true) : ∃ u, exec (.memoryRead addr cls tag) s = .next u ∧
    u = { s with portHeld := s.portHeld ++ [.memoryRead addr cls tag] } :=
  ⟨_, exec_memoryRead s addr cls tag, by simp only [atMemPort, hlive, hdue, Bool.false_eq_true, if_false, if_true]⟩

theorem writeHeld (hdue : s.tick.due = true) : ∃ u, exec (.memoryWrite addr cls data be tag) s = .next u ∧
    u = { s with portHeld := s.portHeld ++ [.memoryWrite addr cls data be tag] } :=
  ⟨_, exec_memoryWrite s addr cls data be tag, by simp only [atMemPort, hlive, hdue, Bool.false_eq_true, if_false, if_true]⟩

variable (hopen : s.tick.due = false)
include hopen

theorem readReaches : exec (.memoryRead addr cls tag) s = .next (memAccess s addr.toNat cls.toNat tag.toNat false [] 0) := by
  rw [exec_memoryRead, atMemPort, hlive, hopen]
  rfl

theorem writeReaches :
    exec (.memoryWrite addr cls data be tag) s = .next (memAccess s addr.toNat cls.toNat tag.toNat true (lineBytes data) be.toNat) := by
  rw [exec_memoryWrite, atMemPort, hlive, hopen]
  rfl

/-- An access that the checks refuse, whichever it is (R220). -/
theorem accessRefused {r : State} {reason : Nat} (hc : c = if write then .memoryWrite addr cls data be tag else .memoryRead addr cls tag)
    (hkid : kid = addr.toNat / 2 ^ 40 % 256) (h : accept s addr.toNat cls.toNat write = (r, .refused reason)) :
    exec c s = .next (denied r write tag.toNat kid cls.toNat reason) := by
  rw [hc, hkid]
  cases write
  · exact (readReaches hlive hopen).trans (congrArg _ (memAccess_refused _ _ _ h))
  · exact (writeReaches hlive hopen).trans (congrArg _ (memAccess_refused _ _ _ h))

theorem readPasses (h : accept s addr.toNat cls.toNat false = (s, .pass)) (ha : a = addr.toNat % 2 ^ 40 / 64 * 64) :
    exec (.memoryRead addr cls tag) s = .next (joined s (passing tag.toNat false a cls.toNat [] 0)) := by
  rw [readReaches hlive hopen, memAccess_pass _ _ _ h rfl, ha]
  rfl

theorem writePassesLater (h : accept s addr.toNat cls.toNat true = (s, .pass)) (ha : a = addr.toNat % 2 ^ 40 / 64 * 64)
    (hwaits : be ≠ BitVec.allOnes 64 ∨ ∃ x ∈ s.mem.inflight, x.addr / 512 = a / 512) : exec (.memoryWrite addr cls data be tag) s =
      .next (joined s (passing tag.toNat true a cls.toNat (lineBytes data) be.toNat)) := by
  have hlater : writesAtOnce s (passing tag.toNat true a cls.toNat (lineBytes data) be.toNat) = false :=
    writesAtOnce_of_waits (hwaits.imp (mt be_full.mp) Or.inl)
  rw [writeReaches hlive hopen, memAccess_pass _ _ _ h rfl, ← ha, hlater]
  rfl

/-- Outside every region a full line reaches DRAM as it came (R229). -/
theorem writePassesNow (h : accept s addr.toNat cls.toNat true = (s, .pass)) (ha : a = addr.toNat % 2 ^ 40 / 64 * 64)
    (hfull : be = BitVec.allOnes 64) (hfirst : ∀ x ∈ s.mem.inflight, x.addr / 512 ≠ a / 512) : ∃ u,
    exec (.memoryWrite addr cls data be tag) s = .next u ∧ DramWritten s u a (lineBytes data) ∧
      u.outs = .memWrite tag.toNat 0 :: s.outs ∧ u = { s with dram := u.dram, dmErr := u.dmErr, outs := u.outs } := by
  have hbe := be_full.mpr hfull
  have hnow : writesAtOnce s (passing tag.toNat true a cls.toNat (lineBytes data) be.toNat) = true :=
    writesAtOnce_of_first hbe hfirst (Or.inl rfl)
  have hstored : serveCore s (passing tag.toNat true a cls.toNat (lineBytes data) be.toNat) = (dramPut s a (lineBytes data), 0, []) := by
    simp only [serveCore, if_true, hbe, mergeBytes_full _ (lineBytes_length data)]
  refine ⟨(dramPut s a (lineBytes data)).emit (.memWrite tag.toNat 0), ?_, dramWritten_of_put rfl rfl, rfl, rfl⟩
  rw [writeReaches hlive hopen, memAccess_pass _ _ _ h rfl, ← ha, hnow, serve, hstored]
  rfl

variable {s1 : State} {t : Txn} (hserve : accept s addr.toNat cls.toNat write = (s1, .serve t))
include hserve

theorem readServedLater (hread : write = false) : exec (.memoryRead addr cls tag) s =
    .next (joined s1 { t with tag := tag.toNat, data := [], be := 0 }) := by
  subst hread
  rw [readReaches hlive hopen, memAccess_serve _ _ _ hserve]
  rfl

theorem writeServedLater (hwrite : write = true) (hpass : t.pass = false) (haddr : t.addr = a)
    (hwaits : be ≠ BitVec.allOnes 64 ∨ (∃ x ∈ s1.mem.inflight, x.addr / 512 = a / 512) ∨ findLine s1 t.ch (a / 512) = none) :
    exec (.memoryWrite addr cls data be tag) s =
      .next (joined s1 { t with tag := tag.toNat, data := lineBytes data, be := be.toNat }) := by
  subst hwrite haddr
  have hlater : writesAtOnce s1 { t with tag := tag.toNat, data := lineBytes data, be := be.toNat } = false :=
    writesAtOnce_of_waits (hwaits.imp (mt be_full.mp) (Or.imp id (fun hline => ⟨hpass, hline⟩)))
  rw [writeReaches hlive hopen, memAccess_serve _ _ _ hserve, hlater]
  rfl

/-- A full line whose tag line is resident, with room in its minor counter, reaches DRAM encrypted (R213, R229). -/
theorem writeServedNow {l : CLine} (hwrite : write = true) (htw : t.write = true) (hpass : t.pass = false) (haddr : t.addr = a)
    (hfull : be = BitVec.allOnes 64) (hfirst : ∀ x ∈ s1.mem.inflight, x.addr / 512 ≠ a / 512) (hres : Resident s1 t l)
    (hroom : tlMinor l.data (a / 64 % 8) < 255) (hlost : lineState t.reg.mode l.data (a / 64 % 8) ≠ .lost)
    (hpoison : lineState t.reg.mode l.data (a / 64 % 8) ≠ .poisoned) : ∃ u, exec (.memoryWrite addr cls data be tag) s = .next u ∧
      DramWritten s1 u a (closeLine t (tlMajor l.data) (tlMinor l.data (a / 64 % 8) + 1) a (lineBytes data)).1 ∧
      u.outs = .memWrite tag.toNat 0 :: s1.outs ∧ u = { s1 with mem := u.mem, dram := u.dram, dmErr := u.dmErr, outs := u.outs } := by
  subst hwrite haddr
  have hnow : writesAtOnce s1 { t with tag := tag.toNat, data := lineBytes data, be := be.toNat } = true :=
    writesAtOnce_of_first (be_full.mpr hfull) hfirst (Or.inr ⟨l, hres.1, hroom⟩)
  have hserved := serve_full_resident (t := { t with tag := tag.toNat, data := lineBytes data, be := be.toNat })
    hres hpass htw (be_full.mpr hfull) hroom hlost hpoison
  have hwritten := stored_dramWritten s1 { t with tag := tag.toNat, data := lineBytes data, be := be.toNat } l (lineBytes data)
  have hframe := stored_frame s1 { t with tag := tag.toNat, data := lineBytes data, be := be.toNat } l (lineBytes data)
  have hstep := writeReaches (addr := addr) (cls := cls) (data := data) (be := be) (tag := tag) hlive hopen
  rw [memAccess_serve _ _ _ hserve, hnow, if_pos (show (true && true) = true from rfl), hserved] at hstep
  refine ⟨_, hstep, hwritten, ?_, ?_⟩
  · rw [hframe]
    rfl
  · rw [hframe]
    rfl

end

/-! ### The statement -/

/-- Settles O55: the checks of R219 in order decide which of the answers an access gets, and a full line that needs nothing from DRAM
is written at once. -/
theorem memoryAccessesAreChecked : Obligations.MemoryAccessesAreChecked := by
  unfold Obligations.MemoryAccessesAreChecked
  intro s addr cls data be tag write c a kid hlive hc ha hkid
  have haccept : ∀ w, accept s addr.toNat cls.toNat w = checkLine s a kid cls.toNat w := fun w => by rw [accept_eq, ha, hkid]
  refine ⟨fun hdue => ⟨readHeld hlive hdue, writeHeld hlive hdue⟩,
    fun hopen => ⟨fun hmeta => ?metadata, fun hdata => ⟨fun n hin => ⟨fun href => ?refused, fun href hkeys => ?denied,
      fun s1 t hserve => ?served⟩, fun hout => ?outside⟩⟩⟩
  case metadata =>
    refine ⟨_, accessRefused hlive hopen hc hkid ((haccept write).trans (checkLine_metadata hmeta)), denied_refused _ _ _ _ _ rfl rfl rfl, ?_⟩
    rw [denied, denyCount_frame]
    rfl
  case refused =>
    refine ⟨_, accessRefused hlive hopen hc hkid ((haccept write).trans (checkLine_refused hdata hin href)),
      denied_refused _ _ _ _ _ rfl rfl rfl, ?_⟩
    rw [denied, denyCount_frame]
    rfl
  case denied =>
    obtain ⟨r, job, huse, hbind⟩ := bindKeys_denied write hkeys
    obtain ⟨houts, hdram, hrecord⟩ := keyFailed_keyUse kid job huse
    exact ⟨_, accessRefused hlive hopen hc hkid ((haccept write).trans ((checkLine_keys hdata hin href).trans hbind)),
      denied_refused _ _ _ _ _ houts hdram hrecord, denied_keyFailed_bit _ _ _ _ _ _ _⟩
  case served =>
    have hbind : bindKeys s n kid cls.toNat write a = (s1, .serve t) := by
      by_cases href : refusal s n a kid cls.toNat write = 0
      · rw [← checkLine_keys hdata hin href, ← haccept, hserve]
      · rw [haccept, checkLine_refused hdata hin href] at hserve
        cases hserve
    obtain ⟨haddr, hk, hrgn, hreg, hch, hpass, hepoch, htw⟩ := bindKeys_serve hbind
    refine ⟨haddr, hk, hrgn, hreg, hch, hpass, hepoch, fun hread => ⟨_, readServedLater hlive hopen hserve hread, rfl⟩,
      fun hwrite hwaits => ⟨_, writeServedLater hlive hopen hserve hwrite hpass haddr hwaits, rfl⟩, ?_⟩
    intro l i hwrite hfull hfirst hline hunmarked hi hroom hlost hpoison
    subst hi
    have hres : Resident s1 t l := by
      rw [Resident, haddr]
      exact ⟨hline, hunmarked⟩
    exact writeServedNow hlive hopen hserve hwrite (htw.trans hwrite) hpass haddr hfull hfirst hres hroom hlost hpoison
  case outside =>
    have hpasses : ∀ w, accept s addr.toNat cls.toNat w = (s, .pass) := fun w => (haccept w).trans (checkLine_outside hdata hout)
    exact ⟨⟨_, readPasses hlive hopen (hpasses false) ha, rfl⟩,
      fun hwaits => ⟨_, writePassesLater hlive hopen (hpasses true) ha hwaits, rfl⟩,
      fun hfull hfirst => writePassesNow hlive hopen (hpasses true) ha hfull hfirst⟩

end Sys2Proof.Proofs
end

section
/-! PROOFS. The wear of the journal's ring and of the snapshot log: BLOCK_ROTATION, BLOCK_ERASE_DONE, SCRUB_READ, SNAPSHOT_RESNAPSHOT,
SNAPSHOT_SWEEP (R53, R57, R365, R366, R429 to R433). -/

namespace Sys2Proof.Machine

open Sys2Proof.Claims

/-! ### Records that are queued (R428, R429) -/

/-- Only the queue of the journal and its numbering grow. -/
structure Queues (s u : State) : Prop where
  frame : u = { s with jf := { s.jf with queue := u.jf.queue, qn := u.jf.qn } }
  kept : s.jf.queue <+: u.jf.queue

theorem Queues.refl (s : State) : Queues s s := ⟨rfl, ⟨[], List.append_nil _⟩⟩

theorem Queues.trans {s t u : State} (h : Queues s t) (k : Queues t u) : Queues s u :=
  ⟨by rw [k.frame, h.frame], h.kept.trans k.kept⟩

theorem Queues.rot {s u : State} (h : Queues s u) : u.jf.rot = s.jf.rot := by rw [h.frame]
theorem Queues.state {s u : State} (h : Queues s u) : u.jf.state = s.jf.state := by rw [h.frame]

/-- A record as it waits in the queue. -/
def waiting (s : State) (r : JRec) : JRec := { r with qn := s.jf.qn, since := s.alm.time }

/-- A record other than a LOG record waits behind all others where the journal is not VOLATILE. -/
theorem jPut_eq {s : State} {r : JRec} (hstate : s.jf.state ≠ 4) (hkind : r.kind ≠ 5) :
    s.jPut r = { s with jf := { s.jf with queue := s.jf.queue ++ [waiting s r], qn := s.jf.qn + 1 } } := by
  simp only [State.jPut, if_neg hstate, hkind, false_and, if_false]
  rfl

theorem jPut_queues {s : State} {r : JRec} (hstate : s.jf.state ≠ 4) (hkind : r.kind ≠ 5) : Queues s (s.jPut r) := by
  rw [jPut_eq hstate hkind]
  exact ⟨rfl, ⟨_, rfl⟩⟩

theorem waiting_mem_jPut {s : State} {r : JRec} (hstate : s.jf.state ≠ 4) (hkind : r.kind ≠ 5) : waiting s r ∈ (s.jPut r).jf.queue := by
  rw [jPut_eq hstate hkind]
  exact List.mem_append_right _ List.mem_cons_self

theorem queuedBehind_mono {s t u v : State} {l : List JRec} {b : Option Nat} (h : QueuedBehind s t l b)
    (hs : v.jf.queue <+: s.jf.queue) (hu : t.jf.queue <+: u.jf.queue) : QueuedBehind v u l b := by
  obtain ⟨hkept, hcopies⟩ := h
  refine ⟨hs.trans (hkept.trans hu), fun r hr => ?_⟩
  obtain ⟨x, hx, hcopy⟩ := hcopies r hr
  exact ⟨x, hu.mem hx, hcopy⟩

/-- Copies of a block wait behind what waited before (R429). -/
theorem copyForward_queues (b : Nat) {l : List JRec} (hl : ∀ r ∈ l, r.kind ≠ 5) {s : State} (hstate : s.jf.state ≠ 4) :
    Queues s (copyForward s b l) ∧ QueuedBehind s (copyForward s b l) l (some b) := by
  induction l generalizing s with
  | nil => exact ⟨Queues.refl s, ⟨[], List.append_nil _⟩, fun r hr => absurd hr List.not_mem_nil⟩
  | cons r l ih =>
    have hkind : ({ r with src := some b } : JRec).kind ≠ 5 := hl r List.mem_cons_self
    have hput := jPut_queues hstate hkind
    have hmem := waiting_mem_jPut hstate hkind
    obtain ⟨hqueues, hbehind⟩ := ih (fun x hx => hl x (List.mem_cons_of_mem r hx)) (hput.state ▸ hstate)
    refine ⟨hput.trans hqueues, hput.kept.trans hqueues.kept, fun x hx => ?_⟩
    obtain rfl | hx := List.mem_cons.mp hx
    · exact ⟨_, hqueues.kept.mem hmem, rfl, rfl, rfl, rfl⟩
    · exact (queuedBehind_mono hbehind hput.kept ⟨[], List.append_nil _⟩).2 x hx

/-- No LOG record is live. -/
theorem liveOf_kind {s : State} {b : Nat} {tombs : Bool} {r : JRec} (h : r ∈ liveOf s b tombs) : r.kind ≠ 5 := by
  intro hkind
  obtain ⟨⟨row, x⟩, hx, rfl⟩ := List.mem_map.mp (List.mem_filter.mp h).1
  have hlive := (List.mem_filter.mp hx).2
  have hlog : x.kind = 5 := hkind
  simp [isLive, hlog] at hlive

/-! ### What the ring holds (R423 to R427) -/

/-- Two states of one ring: same pages, keys, bad and unreadable parts, and write pointer. -/
structure SameRing (s t : State) : Prop where
  flash : t.flash = s.flash
  vault : t.vault = s.vault
  unreadable : t.jf.unreadable = s.jf.unreadable
  bad : t.jf.bad = s.jf.bad
  wblk : t.jf.wblk = s.jf.wblk

section
variable {s t : State} (h : SameRing s t)
include h

theorem SameRing.readRow (row : Nat) : readRow t row = readRow s row := by
  simp only [Machine.readRow, jKey, State.slot, h.flash, h.vault, h.unreadable]

theorem SameRing.ringRecs : ringRecs t = ringRecs s := by
  simp only [Machine.ringRecs, h.flash, h.readRow]

theorem SameRing.liveOf (b : Nat) (tombs : Bool) : liveOf t b tombs = liveOf s b tombs := by
  simp only [Machine.liveOf, h.ringRecs]

theorem SameRing.activeRing : activeRing t = activeRing s := by
  simp only [Machine.activeRing, h.bad]

theorem SameRing.nextActive (b : Nat) : nextActive t b = nextActive s b := by
  simp only [Machine.nextActive, h.activeRing]

theorem SameRing.ringAge (b : Nat) : ringAge t b = ringAge s b := by
  simp only [Machine.ringAge, h.activeRing, h.wblk]

theorem SameRing.keyLow : keyLow t = keyLow s := by
  simp only [Machine.keyLow, h.ringRecs, h.ringAge, h.wblk]

end

theorem Queues.sameRing {s u : State} (h : Queues s u) : SameRing s u := by
  rw [h.frame]
  exact ⟨rfl, rfl, rfl, rfl, rfl⟩

/-! ### A block prepared for erase (R57, R429) -/

/-- The erase that the device is told to do where block b is prepared. -/
abbrev erasingNow (s : State) (b : Nat) : Option Nat :=
  if copiesOpen s b = false ∧ s.jf.prog = none ∧ s.flash.erasing = none then some b else s.flash.erasing

section
variable {s : State} (hrun : s.halted = false) (hwrites : jWrites s = true)

include hwrites in
theorem state_of_jWrites : s.jf.state = 1 ∨ s.jf.state = 2 := by
  simp only [jWrites, Bool.and_eq_true, Bool.or_eq_true, decide_eq_true_eq] at hwrites
  exact hwrites.1

include hwrites in
theorem not_volatile : s.jf.state ≠ 4 := by
  have := state_of_jWrites hwrites
  omega

include hrun in
theorem boot_of_running : s.boot.inReset = false ∧ s.boot.alarm = false ∧ s.boot.lockout = false ∧ s.boot.pfail = false := by
  simp only [State.halted, Bool.or_eq_false_iff] at hrun
  tauto

include hrun hwrites

theorem issueErase_of_rot {b : Nat} (hrot : s.jf.rot = some b) :
    issueErase s = { s with flash := { s.flash with erasing := erasingNow s b } } := by
  obtain ⟨hreset, halarm, hlockout, hpfail⟩ := boot_of_running hrun
  simp only [issueErase, hrot, hreset, halarm, hlockout, hpfail, hwrites, Bool.not_true, Bool.false_or]
  by_cases hready : copiesOpen s b = false ∧ s.jf.prog = none ∧ s.flash.erasing = none
  · obtain ⟨hcopies, hprog, herasing⟩ := hready
    simp [hcopies, hprog, herasing]
  · rw [erasingNow, if_neg hready, if_pos]
    rw [not_and_or, not_and_or] at hready
    simpa [Option.isSome_iff_ne_none, or_comm, or_left_comm, or_assoc] using hready

/-- Preparing a block queues its live records as copies, and issues its erase once none is open. -/
theorem prepare_leaves (b : Nat) : (prepare s b).jf.rot = some b ∧ QueuedBehind s (prepare s b) (liveOf s b false) (some b) ∧
    ErasesWhenDurable s (prepare s b) b ∧ prepare s b = { s with
      flash := (prepare s b).flash, regs := (prepare s b).regs
      jf := { s.jf with rot := some b, queue := (prepare s b).jf.queue, qn := (prepare s b).jf.qn } } := by
  obtain ⟨t, ht⟩ : ∃ t, t = (s.incBy 0x39320 31 0 (logsOf s b)).modJf (fun j => { j with rot := some b }) := ⟨_, rfl⟩
  obtain ⟨hqueues, hbehind⟩ := copyForward_queues b (s := t) (fun r hr => liveOf_kind (s := s) (b := b) (tombs := false) hr)
    (by rw [ht]; exact not_volatile hwrites)
  obtain ⟨v, hv⟩ : ∃ v, v = copyForward t b (liveOf s b false) := ⟨_, rfl⟩
  have hprepared : prepare s b = issueErase v := by rw [hv, ht]; rfl
  rw [← hv] at hqueues hbehind
  have hframe := hqueues.frame
  have hvrun : v.halted = false := by rw [hframe, ht]; exact hrun
  have hvwrites : jWrites v = true := by rw [hframe, ht]; exact hwrites
  have hvrot : v.jf.rot = some b := by rw [hframe, ht]; rfl
  rw [hprepared, issueErase_of_rot hvrun hvwrites hvrot]
  refine ⟨hvrot, ?_, ?_, ?_⟩
  · exact queuedBehind_mono hbehind (by rw [ht]; exact ⟨[], List.append_nil _⟩) ⟨[], List.append_nil _⟩
  · have hflash : v.flash = s.flash := by rw [hframe, ht]; rfl
    have hprog : v.jf.prog = s.jf.prog := by rw [hframe, ht]; rfl
    simp only [ErasesWhenDurable, erasingNow, hflash, hprog]
    rfl
  · rw [hframe, ht]
    rfl

/-! ### An erase that is under way (R53, R57, R429 to R431) -/

theorem issueErase_erasing {b : Nat} (h : Erasing s b) :
    issueErase s = { s with flash := { s.flash with erasing := some b } } := by
  obtain hunder | ⟨hnone, hrot, hprog, hcopies⟩ := h
  · have hkept : issueErase s = s := by
      unfold issueErase
      split
      · rfl
      · simp [hunder]
    rw [hkept, ← hunder]
  · rw [issueErase_of_rot hrun hwrites hrot, erasingNow, if_pos ⟨hcopies, hprog, hnone⟩]

theorem issueErase_idle (hopen : ∀ b, s.jf.rot = some b → s.jf.prog.isSome = true ∨ copiesOpen s b = true) :
    issueErase s = s := by
  cases hrot : s.jf.rot with
  | none => simp only [issueErase, hrot]
  | some b =>
    rw [issueErase_of_rot hrun hwrites hrot, erasingNow, if_neg]
    rintro ⟨hcopies, hprog, -⟩
    obtain h | h := hopen b hrot
    · rw [hprog] at h
      exact absurd h (by decide)
    · rw [hcopies] at h
      exact absurd h (by decide)

/-- The state once the device is done with block b: erased where ok, and no longer prepared. -/
def settled (s : State) (b : Nat) (ok : Bool) : State :=
  { s with
    flash := { s.flash with
      erasing := none, pages := if ok then s.flash.pages.filter (fun p => decide (p.1 / 64 ≠ b)) else s.flash.pages }
    jf := { s.jf with rot := if s.jf.rot = some b then none else s.jf.rot } }

theorem eraseDone_of_erasing {b : Nat} (h : Erasing s b) (ok : Bool) : eraseDone s ok = if ok then
    ((settled s b ok).modJf (fun j => { j with erased := b :: j.erased, unreadable := j.unreadable.filter (fun r => decide (r / 64 ≠ b)) })).inc
      0x3932C 31 0
    else setBad (settled s b ok) b := by
  obtain ⟨hreset, halarm, hlockout, hpfail⟩ := boot_of_running hrun
  simp only [eraseDone, hreset, halarm, hlockout, hpfail, hwrites, issueErase_erasing hrun hwrites h, Bool.not_true, Bool.or_false,
    Bool.false_eq_true, if_false]
  rfl

theorem eraseDone_of_idle (hnone : s.flash.erasing = none)
    (hopen : ∀ b, s.jf.rot = some b → s.jf.prog.isSome = true ∨ copiesOpen s b = true) (ok : Bool) : eraseDone s ok = s := by
  obtain ⟨hreset, halarm, hlockout, hpfail⟩ := boot_of_running hrun
  simp only [eraseDone, hreset, halarm, hlockout, hpfail, hwrites, issueErase_idle hrun hwrites hopen, hnone, Bool.not_true, Bool.or_false,
    Bool.false_eq_true, if_false]

end

theorem eraseDone_of_stopped {s : State} (h : s.boot.inReset = true ∨ s.boot.alarm = true ∨ s.boot.pfail = true) (ok : Bool) :
    eraseDone s ok = eraseInside s ok := by
  rw [eraseDone, if_pos]
  obtain h | h | h := h <;> simp [h]

/-! ### A block that turned bad (R424, R431) -/

/-- A change of the journal's state changes no other field of the journal, and no event bit but its own. -/
theorem setJState_frame (s : State) (st : Nat) : setJState s st = { s with
    jf := { s.jf with state := st }, regs := (setJState s st).regs, log := (setJState s st).log } := by
  unfold setJState
  dsimp only
  split
  case isTrue h =>
    subst h
    rfl
  case isFalse =>
    split
    · rw [logPut_frame]
      rfl
    · rw [logPut_frame]
      rfl

theorem setJState_bit {s : State} (st : Nat) {n : Nat} (h : bit (s.wr 0x5304) n = true) : bit ((setJState s st).wr 0x5304) n = true := by
  unfold setJState
  dsimp only
  split
  · exact h
  · rw [logPut_wr _ _ _ _ (by decide)]
    split
    · rw [State.evt, putWr_wr, if_pos rfl]
      exact bit_or _ _ h
    · exact h

/-- The grade of the ring is a change of state to DEGRADED or READ_ONLY, or none. -/
theorem gradeRing_cases (s : State) : gradeRing s = s ∨ gradeRing s = setJState s 2 ∨ gradeRing s = setJState s 3 := by
  unfold gradeRing
  dsimp only
  split
  · split
    · exact Or.inr (Or.inr rfl)
    · split
      · exact Or.inr (Or.inl rfl)
      · exact Or.inl rfl
  · exact Or.inl rfl

theorem gradeRing_leaves {s : State} (hstate : s.jf.state ≠ 4) : (gradeRing s).jf.state ≠ 4 ∧ gradeRing s = { s with
    jf := { s.jf with state := (gradeRing s).jf.state }, regs := (gradeRing s).regs, log := (gradeRing s).log } := by
  obtain h | h | h := gradeRing_cases s
  · rw [h]
    exact ⟨hstate, rfl⟩
  · rw [h, setJState_frame]
    exact ⟨show (2 : Nat) ≠ 4 by decide, rfl⟩
  · rw [h, setJState_frame]
    exact ⟨show (3 : Nat) ≠ 4 by decide, rfl⟩

theorem gradeRing_bit {s : State} {n : Nat} (hbit : bit (s.wr 0x5304) n = true) : bit ((gradeRing s).wr 0x5304) n = true := by
  obtain h | h | h := gradeRing_cases s
  · rwa [h]
  · rw [h]
    exact setJState_bit 2 hbit
  · rw [h]
    exact setJState_bit 3 hbit

theorem setBad_leaves {s : State} (b : Nat) (hstate : s.jf.state ≠ 4) : (setBad s b).flash = s.flash ∧ (setBad s b).jf.rot = s.jf.rot ∧
    b ∈ (setBad s b).jf.bad ∧ bit ((setBad s b).wr 0x5304) 4 = true ∧
    setBad s b = { s with jf := (setBad s b).jf, regs := (setBad s b).regs, log := (setBad s b).log } := by
  obtain ⟨t, ht⟩ : ∃ t, t = (s.modJf (fun j => { j with bad := if j.bad.contains b then j.bad else b :: j.bad })).evt 0x5304 4 := ⟨_, rfl⟩
  have htstate : t.jf.state ≠ 4 := by rw [ht]; exact hstate
  have htbit : bit (t.wr 0x5304) 4 = true := by rw [ht]; exact bit_evt _ _ _
  have htbad : b ∈ t.jf.bad := by
    rw [ht]
    show b ∈ if s.jf.bad.contains b then s.jf.bad else b :: s.jf.bad
    split
    · exact List.contains_iff_mem.mp ‹_›
    · exact List.mem_cons_self
  obtain ⟨hgstate, hgframe⟩ := gradeRing_leaves htstate
  have hgbit := gradeRing_bit htbit
  have hset : setBad s b = (gradeRing t).jPut { kind := 1, data := ckptBody (gradeRing t), urgent := true } := by rw [ht]; rfl
  rw [hset, jPut_eq hgstate (show (1 : Nat) ≠ 5 by decide)]
  generalize gradeRing t = g at *
  refine ⟨?_, ?_, ?_, hgbit, ?_⟩
  · rw [hgframe, ht]
    rfl
  · rw [hgframe, ht]
    rfl
  · rw [hgframe]
    exact htbad
  · rw [hgframe, ht]
    rfl

/-! ### What a rotation copies (R429) -/

theorem exec_blockRotation (s : State) : exec .blockRotation s = .next (blockRotation s) := rfl
theorem exec_blockEraseDone (s : State) (ok : Bool) : exec (.blockEraseDone ok) s = .next (eraseDone s ok) := rfl
theorem exec_scrubRead (s : State) (ecc : Nat) : exec (.scrubRead ecc) s = .next (scrubRead resnap s ecc) := rfl
theorem exec_snapshotResnapshot (s : State) : exec .snapshotResnapshot s = .next (resnapshot s) := rfl
theorem exec_snapshotSweep (s : State) : exec .snapshotSweep s = .next (snapSweep s) := rfl

/-- The KEY records of the block of the oldest live one, tombstones included. -/
abbrev oldKeys (s : State) : List JRec := (liveOf s (keyLow s) true).filter (fun r => decide (r.kind = 4))

theorem keySpan_near {s : State} (h : ringAge s (keyLow s) ≤ 15) : keySpan s = s := by
  rw [keySpan, if_neg (by omega)]

theorem keySpan_far {s : State} (hrot : s.jf.rot = none) (h : 15 < ringAge s (keyLow s)) :
    keySpan s = copyForward s (keyLow s) (oldKeys s) := by
  rw [keySpan, if_pos ⟨h, by simp [hrot]⟩]

theorem keySpan_queues {s : State} (hstate : s.jf.state ≠ 4) (hrot : s.jf.rot = none) : Queues s (keySpan s) := by
  by_cases h : ringAge s (keyLow s) ≤ 15
  · rw [keySpan_near h]
    exact Queues.refl s
  · rw [keySpan_far hrot (by omega)]
    exact (copyForward_queues _ (fun r hr => liveOf_kind (List.mem_filter.mp hr).1) hstate).1

/-- The rotation is taken up. -/
def taken (s : State) : State := { s with jf := { s.jf with rotDue := false } }

theorem taken_sameRing (s : State) : SameRing s (taken s) := ⟨rfl, rfl, rfl, rfl, rfl⟩

theorem blockRotation_eq {s : State} (hrun : s.halted = false) (hwrites : jWrites s = true) (hrot : s.jf.rot = none) (hdue : s.jf.rotDue = true) :
    blockRotation s = if s.jf.erased.contains (nextActive s s.jf.wblk) then keySpan (taken s)
      else prepare (keySpan (taken s)) (nextActive s s.jf.wblk) := by
  have hqueues : Queues (taken s) (keySpan (taken s)) := keySpan_queues (s := taken s) (not_volatile hwrites) hrot
  have hring : SameRing s (keySpan (taken s)) := by
    obtain ⟨hflash, hvault, hunreadable, hbad, hwblk⟩ := hqueues.sameRing
    exact ⟨hflash, hvault, hunreadable, hbad, hwblk⟩
  have herased : (keySpan (taken s)).jf.erased = s.jf.erased := by
    rw [hqueues.frame]
    rfl
  have hnext : nextActive (keySpan (taken s)) (keySpan (taken s)).jf.wblk = nextActive s s.jf.wblk := by
    rw [hring.nextActive, hring.wblk]
  rw [← hnext, ← herased]
  simp only [blockRotation, hrun, hwrites, hrot, hdue, Option.isSome_none, Bool.not_true, Bool.or_self, Bool.false_eq_true, if_false]
  rfl

/-! ### A scrub step (R432) -/

/-- The scrub passed this row. -/
def scrubbed (s : State) (row : Nat) : State := { s with jf := { s.jf with scrub := some (row + 1) } }

theorem readRow_scrubbed (s : State) (row r : Nat) : readRow (scrubbed s row) r = readRow s r :=
  SameRing.readRow (s := s) (t := scrubbed s row) ⟨rfl, rfl, rfl, rfl, rfl⟩ r

section
variable {s : State} (hrun : s.halted = false) (hwrites : jWrites s = true) {r0 row : Nat} (hscrub : s.jf.scrub = some r0)
  (hrow : (tkeys s.flash.pages).find? (fun r => decide (r ≥ r0) && decide (r ≥ 64)) = some row)
include hrun hwrites hscrub hrow

theorem scrubRead_eq (snap : State → Nat → State) (ecc : Nat) : scrubRead snap s ecc =
    let bad (t : State) : State := (t.modJf (fun j => { j with unreadable := row :: j.unreadable })).evt 0x5304 7
    if ecc = 3 then bad ((scrubbed s row).inc 0x39318 31 16)
    else if !(readRow s row).2 then bad ((scrubbed s row).inc 0x3931C 31 0)
    else if ecc = 2 ∧ s.jf.rot = none ∧ row / 64 ≠ s.jf.wblk ∧ row / 64 ≠ s.jf.sblk then
      let t := (scrubbed s row).inc 0x39318 15 0
      if row / 64 < 81 then prepare t (row / 64) else if row / 64 ≥ snapFirst t then snap t (row / 64) else t
    else scrubbed s row := by
  rw [← readRow_scrubbed s row row]
  simp only [scrubRead, hrun, hwrites, hscrub, hrow, Bool.true_or, Bool.not_true, Bool.or_self, Bool.false_eq_true, if_false]
  rfl

end

/-! ### The Almanac's store leaves the journal alone (R358, R359) -/

theorem foldl_jf {β : Type} {f : State → β → State} (h : ∀ s x, (f s x).jf = s.jf) (l : List β) (s : State) : (l.foldl f s).jf = s.jf := by
  induction l generalizing s with
  | nil => rfl
  | cons x l ih => rw [List.foldl_cons, ih, h]

theorem touchAlm_jf (s : State) (k i : Nat) (f : AlmNode → AlmNode) : (touchAlm s k i f).jf = s.jf := by
  unfold touchAlm
  split <;> rfl

theorem setAlmSeal_jf (s : State) (k i v : Nat) : (setAlmSeal s k i v).jf = s.jf := by
  unfold setAlmSeal
  split
  · rfl
  · exact touchAlm_jf _ _ _ _

theorem almEvict_jf (f : Nat) (s : State) (n : AlmNode) : (almEvict f s n).jf = s.jf := by
  induction f generalizing s n with
  | zero => rfl
  | succ f ih =>
    have hbelow : (if n.level = 0 then s
        else (s.alm.nodes.filter (fun x => decide (x.level + 1 = n.level) && decide (x.idx / 8 = n.idx))).foldl (almEvict f) s).jf = s.jf := by
      split
      · rfl
      · exact foldl_jf ih _ _
    rw [← hbelow]
    unfold almEvict
    dsimp only
    split
    · rfl
    · split
      · rfl
      · exact setAlmSeal_jf _ _ _ _

theorem almInsert_jf (s : State) (j : Nat) (n : AlmNode) : (almInsert s j n).jf = s.jf := by
  unfold almInsert
  dsimp only
  split
  · split
    · exact almEvict_jf _ _ _
    · rfl
  · rfl

theorem almLevel_jf (s : State) (j k : Nat) : (almLevel s j k).1.jf = s.jf := by
  unfold almLevel
  dsimp only
  split
  · exact touchAlm_jf _ _ _ _
  · split
    · exact almInsert_jf _ _ _
    · split
      · rfl
      · split
        · split
          · exact almInsert_jf _ _ _
          · exact setAlmSeal_jf _ _ _ _
        · have hnoted : (if decide (s.dm (almAddr s k (j / 8 ^ k)) = 1) then almCe s else s).jf = s.jf := by split <;> rfl
          generalize (if decide (s.dm (almAddr s k (j / 8 ^ k)) = 1) then almCe s else s) = t at *
          split
          · exact hnoted
          · exact (almInsert_jf _ _ _).trans hnoted

theorem almTag_jf (s : State) (j : Nat) : (almTag s j).1.jf = s.jf := by
  have hpath : ∀ (l : List Nat) (p : State × Option AlmStop), (l.foldl (fun (p : State × Option AlmStop) k =>
      match p.2 with | some _ => p | none => almLevel p.1 j k) p).1.jf = p.1.jf := by
    intro l
    induction l with
    | nil => exact fun p => rfl
    | cons k l ih =>
      intro p
      rw [List.foldl_cons, ih]
      split
      · rfl
      · exact almLevel_jf _ _ _
  rw [← hpath _ (s, none)]
  unfold almTag
  dsimp only
  split
  · rfl
  · split
    · split <;> rfl
    · rfl

theorem almWrap_jf (s : State) (j e : Nat) (b pt : Bytes) : (almWrap s j e b pt).jf = s.jf := by
  unfold almWrap
  dsimp only
  split
  · exact touchAlm_jf _ _ _ _
  · refine (touchAlm_jf _ _ _ _).trans ?_
    have hlines : ∀ (l : List Nat) (f : State × Bytes → Nat → State × Bytes) (p : State × Bytes), (∀ p i, (f p i).1.jf = p.1.jf) →
        (l.foldl f p).1.jf = p.1.jf := by
      intro l f p hf
      induction l generalizing p with
      | nil => rfl
      | cons i l ih => rw [List.foldl_cons, ih, hf]
    refine hlines _ _ _ (fun p i => ?_)
    split
    · rfl
    · split
      · rfl
      · split <;> rfl

theorem almFlush_jf (s : State) (c : AlmCached) : (almFlush s c).1.jf = s.jf := by
  have htag := almTag_jf s (c.idx / 16)
  unfold almFlush
  dsimp only
  split
  · rfl
  · split
    case h_1 h => rw [h] at htag; exact htag
    case h_2 h => rw [h] at htag; exact htag
    case h_3 h =>
      rw [h] at htag
      split
      · exact (almWrap_jf _ _ _ _ _).trans htag
      · exact (touchAlm_jf _ _ _ _).trans htag

theorem almCache_jf (s : State) (c : AlmCached) : (almCache s c).jf = s.jf := by
  unfold almCache
  dsimp only
  split
  · split
    case h_1 v _ =>
      have hflush := almFlush_jf s v
      split
      case h_1 h => rw [h] at hflush; exact hflush
      case h_2 h => rw [h] at hflush; exact hflush
    case h_2 => rfl
  · rfl

theorem almFetch_jf (s : State) (e : Nat) : (almFetch s e).1.jf = s.jf := by
  have htag := almTag_jf (s.modAlm (fun a => { a with miss := satInc 16 a.miss })) (e / 16)
  unfold almFetch
  dsimp only
  split
  · rfl
  · split
    · exact almCache_jf _ _
    · split
      case h_1 h => rw [h] at htag; exact htag
      case h_2 h => rw [h] at htag; exact htag
      case h_3 t b h =>
        rw [h] at htag
        have hnoted : (if t.dm (almLine t e) = 1 then almCe t else t).jf = t.jf := by split <;> rfl
        split
        · exact hnoted.trans htag
        · exact hnoted.trans htag
        · exact (almCache_jf _ _).trans (hnoted.trans htag)

theorem almRead_jf (s : State) (e : Nat) : (almRead s e).1.jf = s.jf := by
  have hfetch := almFetch_jf s e
  unfold almRead
  split
  case h_1 h => rw [h] at hfetch; exact hfetch
  case h_2 h => rw [h] at hfetch; exact hfetch

theorem almGet_jf (s : State) (node : Nat) : (almGet s node).1.jf = s.jf := by
  unfold almGet
  split
  · rfl
  · case h_2 i _ =>
    have hread := almRead_jf s i
    split
    case h_1 h => rw [h] at hread; exact hread
    case h_2 h => rw [h] at hread; exact hread

/-! ### The oldest snapshot block (R430) -/

theorem issueErase_jf (s : State) : (issueErase s).jf = s.jf := by
  unfold issueErase
  split
  · rfl
  · split <;> rfl

/-- Items queued while block b is re-snapshotted: the journal changes by copies of b in its queue alone. -/
structure Resnaps (b : Nat) (s u : State) : Prop where
  rot : u.jf.rot = s.jf.rot
  state : u.jf.state = s.jf.state
  kept : s.jf.queue <+: u.jf.queue
  copies : ∀ r ∈ u.jf.queue, r ∈ s.jf.queue ∨ (r.kind = 7 ∧ r.src = some b)

theorem Resnaps.of_jf {b : Nat} {s u : State} (h : u.jf = s.jf) : Resnaps b s u :=
  ⟨by rw [h], by rw [h], by rw [h], fun r hr => Or.inl (h ▸ hr)⟩

theorem Resnaps.trans {b : Nat} {s t u : State} (h : Resnaps b s t) (k : Resnaps b t u) : Resnaps b s u :=
  ⟨k.rot.trans h.rot, k.state.trans h.state, h.kept.trans k.kept, fun r hr => (k.copies r hr).elim (h.copies r) Or.inr⟩

/-- The current item of node n is queued as a copy of block b, where the node is present. -/
def resnapNode (b : Nat) (s : State) (n : Nat) : State :=
  match almGet s n with
  | (s, some (i, e)) => s.jPut { kind := 7, id := i, data := snapItem e, src := some b }
  | (s, none) => s

theorem resnap_eq {s : State} {b : Nat} (hen : s.alm.en = true) (hready : s.alm.restoring = false) (hwedge : s.wedged 0 = false) :
    resnap s b = issueErase ((((snapRows s b).map (fun x => leAt x.2.2 0 4)).eraseDups).foldl (resnapNode b)
      (s.modJf (fun j => { j with rot := some b }))) := by
  simp only [resnap, hen, hready, hwedge, Bool.not_true, Bool.or_self, Bool.false_eq_true, if_false]
  rfl

theorem jPut_resnaps {s : State} (b i : Nat) (d : Bytes) (hstate : s.jf.state ≠ 4) :
    Resnaps b s (s.jPut { kind := 7, id := i, data := d, src := some b }) := by
  rw [jPut_eq hstate (show (7 : Nat) ≠ 5 by decide)]
  refine ⟨rfl, rfl, ⟨_, rfl⟩, fun r hr => ?_⟩
  obtain hr | hr := List.mem_append.mp hr
  · exact Or.inl hr
  · obtain rfl := List.mem_singleton.mp hr
    exact Or.inr ⟨rfl, rfl⟩

theorem resnapNode_resnaps {s : State} (b n : Nat) (hstate : s.jf.state ≠ 4) : Resnaps b s (resnapNode b s n) := by
  have hget := almGet_jf s n
  unfold resnapNode
  split
  case h_1 t i e h =>
    rw [h] at hget
    exact (Resnaps.of_jf hget).trans (jPut_resnaps b i _ (by rw [hget]; exact hstate))
  case h_2 t h =>
    rw [h] at hget
    exact Resnaps.of_jf hget

theorem resnapNodes_resnaps (b : Nat) (l : List Nat) {s : State} (hstate : s.jf.state ≠ 4) : Resnaps b s (l.foldl (resnapNode b) s) := by
  induction l generalizing s with
  | nil => exact Resnaps.of_jf rfl
  | cons n l ih =>
    have hnode := resnapNode_resnaps b n hstate
    exact hnode.trans (ih (by rw [hnode.state]; exact hstate))

/-- The block that a fold by age picks is one of the list, and none of the list is older. -/
theorem foldl_oldest (age : Nat → Nat) (l : List Nat) (b : Nat) :
    l.foldl (fun m x => if age x < age m then x else m) b ∈ b :: l ∧
      ∀ x ∈ b :: l, age (l.foldl (fun m x => if age x < age m then x else m) b) ≤ age x := by
  induction l generalizing b with
  | nil => simp
  | cons y l ih =>
    obtain ⟨hmem, hleast⟩ := ih (if age y < age b then y else b)
    have hboth : age (if age y < age b then y else b) ≤ age b ∧ age (if age y < age b then y else b) ≤ age y := by split <;> omega
    have hfirst := hleast _ List.mem_cons_self
    rw [List.foldl_cons]
    refine ⟨?_, fun x hx => ?_⟩
    · obtain hpicked | hlater := List.mem_cons.mp hmem
      · rw [hpicked]
        split <;> simp
      · exact List.mem_cons_of_mem _ (List.mem_cons_of_mem _ hlater)
    · obtain rfl | hx := List.mem_cons.mp hx
      · exact hfirst.trans hboth.1
      · obtain rfl | hx := List.mem_cons.mp hx
        · exact hfirst.trans hboth.2
        · exact hleast x (List.mem_cons_of_mem _ hx)

/-! ### The sweep (R365, R366) -/

/-- Tombstones handed to the journal, in order (R365). -/
abbrev handTombs (s : State) (l : List Nat) : State := l.foldl (fun s n => s.jPut { kind := 7, id := 2 ^ 40 + n, data := snapTomb n }) s

theorem handTombs_queues (l : List Nat) {s : State} (hstate : s.jf.state ≠ 4) : Queues s (handTombs s l) ∧
    ((handTombs s l).jf.queue.drop s.jf.queue.length).map (fun r => (r.kind, r.data)) = l.map (fun n => (7, snapTomb n)) := by
  induction l generalizing s with
  | nil => exact ⟨Queues.refl s, by simp [handTombs]⟩
  | cons n l ih =>
    obtain ⟨t, ht⟩ : ∃ t, t = s.jPut { kind := 7, id := 2 ^ 40 + n, data := snapTomb n } := ⟨_, rfl⟩
    have hput : Queues s t := ht ▸ jPut_queues hstate (show (7 : Nat) ≠ 5 by decide)
    have hqueue : t.jf.queue = s.jf.queue ++ [waiting s { kind := 7, id := 2 ^ 40 + n, data := snapTomb n }] := by
      rw [ht, jPut_eq hstate (show (7 : Nat) ≠ 5 by decide)]
    obtain ⟨hqueues, hhanded⟩ := ih (s := t) (by rw [hput.state]; exact hstate)
    have hstep : handTombs s (n :: l) = handTombs t l := by rw [handTombs, List.foldl_cons, ht]
    rw [hstep]
    refine ⟨hput.trans hqueues, ?_⟩
    obtain ⟨rest, hrest⟩ := hqueues.kept
    rw [← hrest, hqueue] at hhanded ⊢
    simp only [List.append_assoc, List.drop_left, List.length_append] at hhanded ⊢
    simpa [waiting] using hhanded

/-- The end of a sweep: its time is noted, and the next one begins. -/
def sweepEnds (s : State) : State :=
  let s := if !s.alm.late && decide (s.alm.time - s.alm.sweepStart > s.fcf 0x5108 15 0 * 16000000) then sweepLate s else s
  (s.putStf 0x39128 15 0 (min 0xFFFF ((s.alm.time - s.alm.sweepStart) / 16000000))).modAlm (fun a =>
    { a with sweep := 0, sweepStart := a.time, late := false })

theorem sweepEnds_frame (s : State) : sweepEnds s = { s with
    regs := (sweepEnds s).regs, alm := { s.alm with sweep := 0, sweepStart := s.alm.time, late := false } } := by
  unfold sweepEnds
  dsimp only
  split <;> rfl

/-- The dirty entries that the sweep has still to hand over. -/
abbrev sweepOpen (s : State) : List (Nat × Nat) := s.alm.dirty.filter (fun d => decide (d.2 = 1) && decide (d.1 ≥ s.alm.sweep))

/-- The dirty entries within RATE are handed over behind n tombstones; the sweep ends where none is left. -/
def handOpen (s : State) (room n : Nat) : State :=
  let open_ := (sweepOpen s).map (·.1)
  let now := open_.take room
  let s := (now.foldl handItem s).modAlm (fun a => { a with handed := a.handed + n + now.length })
  if open_.length > now.length then s.modAlm (fun a => { a with sweep := (now.getLast?.map (· + 1)).getD a.sweep })
  else sweepEnds s

theorem handOpen_last {s : State} {room : Nat} (n : Nat) {l : List Nat} (hopen : (sweepOpen s).map (·.1) = l) (hfits : l.length ≤ room) :
    handOpen s room n = sweepEnds ((l.foldl handItem s).modAlm (fun a => { a with handed := a.handed + n + l.length })) := by
  simp only [handOpen, hopen, List.take_of_length_le hfits, gt_iff_lt, lt_irrefl, if_false]

/-- The state with the tombstones that RATE lets go taken off the list. -/
abbrev untombed (s : State) (room : Nat) : State := s.modAlm (fun a => { a with tombs := a.tombs.drop room })

theorem snapSweep_eq {s : State} (hrun : s.halted = false) (hen : s.alm.en = true) (hready : s.alm.restoring = false)
    (hwedge : s.wedged 0 = false) {room : Nat} (hroom : room = s.fcf 0x5108 23 16 - s.alm.handed) {l : List Nat}
    (hl : l = s.alm.tombs.take room) : snapSweep s = handOpen (handTombs (untombed s room) l) (room - l.length) l.length := by
  rw [snapSweep, if_neg (by simp [hrun, hwedge, hen, hready]), hl, hroom]
  rfl

end Sys2Proof.Machine

namespace Sys2Proof.Proofs

open Sys2Proof.Machine Sys2Proof.Claims

/-! ### Rotation and erase -/

theorem erasesInside {s : State} {b : Nat} (ok : Bool) (hstop : s.boot.inReset = true ∨ s.boot.alarm = true ∨ s.boot.pfail = true)
    (herasing : s.flash.erasing = some b) : ∃ u, exec (.blockEraseDone ok) s = .next u ∧ u = { s with flash := { s.flash with
      erasing := none, pages := if ok then s.flash.pages.filter (fun p => decide (p.1 / 64 ≠ b)) else s.flash.pages } } := by
  refine ⟨_, exec_blockEraseDone s ok, ?_⟩
  rw [eraseDone_of_stopped hstop, eraseInside, herasing]

section
variable {s : State} (hrun : s.halted = false) (hwrites : jWrites s = true)
include hrun hwrites

section
variable (hrot : s.jf.rot = none) (hdue : s.jf.rotDue = true)
include hrot hdue

theorem rotates {b : Nat} (hb : b = nextActive s s.jf.wblk) (hused : b ∉ s.jf.erased) : ∃ u, exec .blockRotation s = .next u ∧
    u.jf.rot = some b ∧ u.jf.rotDue = false ∧ QueuedBehind s u (liveOf s b false) (some b) ∧ ErasesWhenDurable s u b ∧
    u = { s with jf := u.jf, flash := u.flash, regs := u.regs } := by
  have hqueues : Queues (taken s) (keySpan (taken s)) := keySpan_queues (s := taken s) (not_volatile hwrites) hrot
  have hstep : blockRotation s = prepare (keySpan (taken s)) b := by
    rw [blockRotation_eq hrun hwrites hrot hdue, ← hb, if_neg (by simpa using hused)]
  have hlive : liveOf (keySpan (taken s)) b false = liveOf s b false :=
    (hqueues.sameRing.liveOf b false).trans ((taken_sameRing s).liveOf b false)
  have hframe := hqueues.frame
  have hkept := hqueues.kept
  generalize keySpan (taken s) = t at *
  obtain ⟨hrotb, hbehind, herases, hprepared⟩ := prepare_leaves (s := t) (by rw [hframe]; exact hrun) (by rw [hframe]; exact hwrites) b
  rw [hlive] at hbehind
  have hflash : t.flash = s.flash := by rw [hframe]; rfl
  have hprog : t.jf.prog = s.jf.prog := by rw [hframe]; rfl
  refine ⟨_, (exec_blockRotation s).trans (congrArg _ hstep), hrotb, ?_, queuedBehind_mono hbehind hkept ⟨[], List.append_nil _⟩, ?_, ?_⟩
  · rw [hprepared, hframe]
    rfl
  · rwa [ErasesWhenDurable, hflash, hprog] at herases
  · rw [hprepared, hframe]
    rfl

theorem rotationSkips {b : Nat} (hb : b = nextActive s s.jf.wblk) (hfree : b ∈ s.jf.erased) (hnear : ringAge s (keyLow s) ≤ 15) :
    ∃ u, exec .blockRotation s = .next u ∧ u = { s with jf := { s.jf with rotDue := false } } := by
  have hspan : keySpan (taken s) = taken s := keySpan_near (by rwa [(taken_sameRing s).keyLow, (taken_sameRing s).ringAge])
  refine ⟨_, exec_blockRotation s, ?_⟩
  rw [blockRotation_eq hrun hwrites hrot hdue, ← hb, if_pos (by simpa using hfree), hspan]
  rfl

theorem rotationKeepsSpan (hfar : 15 < ringAge s (keyLow s)) : ∃ u, exec .blockRotation s = .next u ∧
    QueuedBehind s u ((liveOf s (keyLow s) true).filter (fun r => decide (r.kind = 4))) (some (keyLow s)) := by
  have hspan : keySpan (taken s) = copyForward (taken s) (keyLow s) (oldKeys s) := by
    rw [keySpan_far (s := taken s) hrot (by rwa [(taken_sameRing s).keyLow, (taken_sameRing s).ringAge]), oldKeys,
      (taken_sameRing s).keyLow, (taken_sameRing s).liveOf]
  obtain ⟨hqueues, hbehind⟩ := copyForward_queues (s := taken s) (keyLow s) (l := oldKeys s)
    (fun r hr => liveOf_kind (List.mem_filter.mp hr).1) (not_volatile hwrites)
  refine ⟨_, exec_blockRotation s, ?_⟩
  rw [blockRotation_eq hrun hwrites hrot hdue, hspan]
  have hframe := hqueues.frame
  generalize copyForward (taken s) (keyLow s) (oldKeys s) = t at *
  split
  · exact hbehind
  · obtain ⟨-, hcopied, -⟩ := prepare_leaves (s := t) (by rw [hframe]; exact hrun) (by rw [hframe]; exact hwrites) (nextActive s s.jf.wblk)
    exact queuedBehind_mono hbehind ⟨[], List.append_nil _⟩ hcopied.1

end

theorem eraseStands {b : Nat} (h : Erasing s b) : ∃ u, exec (.blockEraseDone true) s = .next u ∧
    u.flash = { s.flash with erasing := none, pages := s.flash.pages.filter (fun p => decide (p.1 / 64 ≠ b)) } ∧
    u.jf = { s.jf with
      rot := (if s.jf.rot = some b then none else s.jf.rot), erased := b :: s.jf.erased
      unreadable := s.jf.unreadable.filter (fun r => decide (r / 64 ≠ b)) } ∧
    u = { s with flash := u.flash, jf := u.jf, regs := u.regs } := by
  refine ⟨_, exec_blockEraseDone s true, ?_⟩
  rw [eraseDone_of_erasing hrun hwrites h, if_pos rfl]
  exact ⟨rfl, rfl, rfl⟩

theorem eraseFails {b : Nat} (h : Erasing s b) : ∃ u, exec (.blockEraseDone false) s = .next u ∧
    u.flash = { s.flash with erasing := none } ∧ u.jf.rot = (if s.jf.rot = some b then none else s.jf.rot) ∧ b ∈ u.jf.bad ∧
    bit (u.wr 0x5304) 4 = true ∧ u = { s with flash := u.flash, jf := u.jf, regs := u.regs, log := u.log } := by
  obtain ⟨hflash, hrot, hbad, hflag, hframe⟩ := setBad_leaves (s := settled s b false) b (not_volatile hwrites)
  refine ⟨setBad (settled s b false) b, ?_, hflash, hrot, hbad, hflag, ?_⟩
  · rw [exec_blockEraseDone, eraseDone_of_erasing hrun hwrites h, if_neg (by decide)]
  · rw [hframe]
    rfl

/-! ### Scrub -/

section
variable {r0 row : Nat} (hscrub : s.jf.scrub = some r0)
  (hrow : (tkeys s.flash.pages).find? (fun r => decide (r ≥ r0) && decide (r ≥ 64)) = some row)
include hscrub hrow

theorem scrubFindsBad : ∃ u, exec (.scrubRead 3) s = .next u ∧
    u.jf = { s.jf with scrub := some (row + 1), unreadable := row :: s.jf.unreadable } ∧ bit (u.wr 0x5304) 7 = true ∧
    u = { s with jf := u.jf, regs := u.regs } := by
  refine ⟨_, exec_scrubRead s 3, ?_⟩
  rw [scrubRead_eq hrun hwrites hscrub hrow]
  exact ⟨rfl, bit_evt _ _ _, rfl⟩

theorem scrubPasses (hreads : (readRow s row).2 = true) {e : Nat} (he : e < 2) : ∃ u, exec (.scrubRead e) s = .next u ∧
    u = { s with jf := { s.jf with scrub := some (row + 1) } } := by
  refine ⟨_, exec_scrubRead s e, ?_⟩
  rw [scrubRead_eq hrun hwrites hscrub hrow]
  simp only [if_neg (show e ≠ 3 by omega), hreads, Bool.not_true, Bool.false_eq_true, show e ≠ 2 by omega, false_and, if_false]
  rfl

theorem scrubRefreshes (hreads : (readRow s row).2 = true) (hrot : s.jf.rot = none) (hw : row / 64 ≠ s.jf.wblk) (hs : row / 64 ≠ s.jf.sblk)
    (hring : row / 64 < 81) : ∃ u, exec (.scrubRead 2) s = .next u ∧ u.jf.rot = some (row / 64) ∧ u.jf.scrub = some (row + 1) ∧
      QueuedBehind s u (liveOf s (row / 64) false) (some (row / 64)) ∧ ErasesWhenDurable s u (row / 64) ∧
      u = { s with jf := u.jf, flash := u.flash, regs := u.regs } := by
  obtain ⟨t, ht⟩ : ∃ t, t = (scrubbed s row).inc 0x39318 15 0 := ⟨_, rfl⟩
  have hstep : scrubRead resnap s 2 = prepare t (row / 64) := by
    rw [scrubRead_eq hrun hwrites hscrub hrow, ht]
    simp [hreads, hrot, hw, hs, hring]
  have hlive : liveOf t (row / 64) false = liveOf s (row / 64) false :=
    SameRing.liveOf (s := s) (by rw [ht]; exact ⟨rfl, rfl, rfl, rfl, rfl⟩) _ _
  obtain ⟨hrotb, hbehind, herases, hprepared⟩ := prepare_leaves (s := t) (by rw [ht]; exact hrun) (by rw [ht]; exact hwrites) (row / 64)
  rw [hlive] at hbehind
  have hflash : t.flash = s.flash := by rw [ht]; rfl
  have hprog : t.jf.prog = s.jf.prog := by rw [ht]; rfl
  have hqueue : s.jf.queue <+: t.jf.queue := by rw [ht]; exact ⟨[], List.append_nil _⟩
  refine ⟨_, (exec_scrubRead s 2).trans (congrArg _ hstep), hrotb, ?_, queuedBehind_mono hbehind hqueue ⟨[], List.append_nil _⟩, ?_, ?_⟩
  · rw [hprepared, ht]
    rfl
  · rwa [ErasesWhenDurable, hflash, hprog] at herases
  · rw [hprepared, ht]
    rfl

end

/-! ### Snapshot log -/

section
variable (hen : s.alm.en = true) (hready : s.alm.restoring = false) (hwedge : s.wedged 0 = false)
include hen hready hwedge

theorem oldestResnapshotted {l : List Nat} (hrot : s.jf.rot = none)
    (hfew : ((snapBlocks s).filter (fun b => s.jf.erased.contains b)).length < 4)
    (hl : l = (snapBlocks s).filter (fun b => !s.jf.erased.contains b && decide (b ≠ s.jf.sblk))) (hsome : l ≠ []) :
    ∃ u, exec .snapshotResnapshot s = .next u ∧ ∃ b ∈ l, (∀ x ∈ l, blockAge s b ≤ blockAge s x) ∧ u.jf.rot = some b ∧
      s.jf.queue <+: u.jf.queue ∧ (∀ r ∈ u.jf.queue, r ∈ s.jf.queue ∨ (r.kind = 7 ∧ r.src = some b)) ∧
      ∀ n i e s2, ((snapRows s b).map (fun x => leAt x.2.2 0 4)).eraseDups = [n] →
        almGet (s.modJf (fun j => { j with rot := some b })) n = (s2, some (i, e)) → ∃ r ∈ u.jf.queue, r.id = i ∧ r.data = snapItem e ∧
          r.src = some b := by
  obtain ⟨b0, rest, hcons⟩ := List.exists_cons_of_ne_nil hsome
  obtain ⟨hmem, hleast⟩ := foldl_oldest (blockAge s) rest b0
  have hstep : resnapshot s = resnap s (rest.foldl (fun m x => if blockAge s x < blockAge s m then x else m) b0) := by
    rw [resnapshot, hrun, hwrites, hrot, if_neg (by decide), if_neg (by omega)]
    simp only [← hl, hcons]
  generalize rest.foldl (fun m x => if blockAge s x < blockAge s m then x else m) b0 = b at *
  rw [← hcons] at hmem hleast
  have hrotating : (s.modJf (fun j => { j with rot := some b })).jf.state ≠ 4 := not_volatile hwrites
  obtain ⟨hrotb, -, hkept, hcopies⟩ :=
    resnapNodes_resnaps b (((snapRows s b).map (fun x => leAt x.2.2 0 4)).eraseDups) hrotating
  refine ⟨_, exec_snapshotResnapshot s, b, hmem, hleast, ?_⟩
  rw [hstep, resnap_eq hen hready hwedge, issueErase_jf]
  refine ⟨hrotb, hkept, hcopies, fun n i e s2 hn hget => ?_⟩
  have hjf := almGet_jf (s.modJf (fun j => { j with rot := some b })) n
  rw [hget] at hjf
  have hstate : s2.jf.state ≠ 4 := by
    rw [hjf]
    exact hrotating
  rw [hn, List.foldl_cons, List.foldl_nil, resnapNode, hget]
  exact ⟨_, waiting_mem_jPut hstate (show (7 : Nat) ≠ 5 by decide), rfl, rfl, rfl⟩

theorem tombstonesSwept (hclean : sweepOpen s = []) (hfits : s.alm.tombs.length ≤ s.fcf 0x5108 23 16 - s.alm.handed) :
    ∃ u, exec .snapshotSweep s = .next u ∧
      (u.jf.queue.drop s.jf.queue.length).map (fun r => (r.kind, r.data)) = s.alm.tombs.map (fun n => (7, snapTomb n)) ∧
      s.jf.queue <+: u.jf.queue ∧
      u.alm = { s.alm with
        tombs := [], handed := s.alm.handed + s.alm.tombs.length, sweep := 0, sweepStart := s.alm.time, late := false } ∧
      u = { s with jf := u.jf, alm := u.alm, regs := u.regs } := by
  obtain ⟨room, hroom⟩ : ∃ room, room = s.fcf 0x5108 23 16 - s.alm.handed := ⟨_, rfl⟩
  rw [← hroom] at hfits
  obtain ⟨hqueues, hhanded⟩ := handTombs_queues s.alm.tombs (s := untombed s room) (not_volatile hwrites)
  have hdrop : s.alm.tombs.drop room = [] := List.drop_eq_nil_of_le hfits
  have hstep := snapSweep_eq hrun hen hready hwedge hroom (List.take_of_length_le hfits).symm
  have hframe := hqueues.frame
  have hkept := hqueues.kept
  generalize handTombs (untombed s room) s.alm.tombs = t at *
  have halm : t.alm = { s.alm with tombs := [] } := by
    rw [hframe, ← hdrop]
    rfl
  have hopen : (sweepOpen t).map (·.1) = [] := by
    rw [hframe]
    exact congrArg (List.map (·.1)) hclean
  rw [handOpen_last _ hopen (Nat.zero_le _)] at hstep
  refine ⟨_, (exec_snapshotSweep s).trans (congrArg _ hstep), ?_⟩
  rw [sweepEnds_frame]
  refine ⟨hhanded, hkept, ?_, ?_⟩
  · show { t.alm with handed := t.alm.handed + s.alm.tombs.length, sweep := 0, sweepStart := t.alm.time, late := false } = _
    rw [halm]
  · rw [hframe]
    rfl

theorem entrySwept {i : Nat} {s1 : State} {b : Bytes} (hopen : sweepOpen s = [(i, 1)]) (hnone : s.alm.tombs = [])
    (hroom : s.alm.handed < s.fcf 0x5108 23 16) (hread : almRead s i = (s1, some b)) : ∃ u, exec .snapshotSweep s = .next u ∧
      u.jf.queue = s.jf.queue ++ [{ kind := 7, id := i, data := snapItem (almOfBytes b), qn := s.jf.qn, since := s1.alm.time }] ∧
      u.alm.dirty = tins s1.alm.dirty i 2 ∧ u.dram = s1.dram := by
  have huntombed : untombed s (s.fcf 0x5108 23 16 - s.alm.handed) = s := by
    have htombs : s.alm.tombs.drop (s.fcf 0x5108 23 16 - s.alm.handed) = s.alm.tombs := by rw [hnone, List.drop_nil]
    rw [untombed, State.modAlm, htombs]
  have hstep := snapSweep_eq hrun hen hready hwedge rfl (l := []) (by rw [hnone, List.take_nil])
  rw [handTombs, List.foldl_nil, huntombed, handOpen_last _ (congrArg (List.map (·.1)) hopen) (show 1 ≤ _ by simp; omega)] at hstep
  have hjf := almRead_jf s i
  rw [hread] at hjf
  have hhand : [i].foldl handItem s = (s1.modAlm (fun a => { a with dirty := tins a.dirty i 2 })).jPut
      { kind := 7, id := i, data := snapItem (almOfBytes b) } := by
    rw [List.foldl_cons, List.foldl_nil, handItem, hread]
  have hstate : (s1.modAlm (fun a => { a with dirty := tins a.dirty i 2 })).jf.state ≠ 4 := by
    rw [show (s1.modAlm (fun a => { a with dirty := tins a.dirty i 2 })).jf = s.jf from hjf]
    exact not_volatile hwrites
  refine ⟨_, (exec_snapshotSweep s).trans (congrArg _ hstep), ?_⟩
  rw [sweepEnds_frame]
  simp only [List.map_cons, List.map_nil]
  rw [hhand, jPut_eq hstate (show (7 : Nat) ≠ 5 by decide), ← hjf]
  exact ⟨rfl, rfl, rfl⟩

end

end

/-! ### The statement -/

/-- Settles O51: what a rotation, an erase, a scrub step, a re-snapshot and a sweep each leave, from the queue that a record joins. -/
theorem blocksAreRotatedAndScrubbed : Obligations.BlocksAreRotatedAndScrubbed := by
  unfold Obligations.BlocksAreRotatedAndScrubbed
  refine ⟨fun s b ok hstop herasing => erasesInside ok hstop herasing, fun s hrun hwrites => ⟨?rotation, ?erase, ?idle, ?scrub, ?resnapshot, ?sweep⟩⟩
  case rotation =>
    exact fun b hrot hdue hb => ⟨rotates hrun hwrites hrot hdue hb, rotationSkips hrun hwrites hrot hdue hb,
      rotationKeepsSpan hrun hwrites hrot hdue⟩
  case erase => exact fun b h => ⟨eraseStands hrun hwrites h, eraseFails hrun hwrites h⟩
  case idle => exact fun hnone hopen ok => ⟨_, exec_blockEraseDone s ok, eraseDone_of_idle hrun hwrites hnone hopen ok⟩
  case scrub =>
    exact fun r0 row hscrub hrow => ⟨scrubFindsBad hrun hwrites hscrub hrow, fun hreads e he => scrubPasses hrun hwrites hscrub hrow hreads he,
      scrubRefreshes hrun hwrites hscrub hrow⟩
  case resnapshot =>
    exact fun l hrot hfew hen hready hwedge hl hsome => oldestResnapshotted hrun hwrites hen hready hwedge hrot hfew hl hsome
  case sweep =>
    exact fun hen hready hwedge => ⟨tombstonesSwept hrun hwrites hen hready hwedge,
      fun i s1 b hopen hnone hroom hread => entrySwept hrun hwrites hen hready hwedge hopen hnone hroom hread⟩

end Sys2Proof.Proofs
end

section
/-! PROOFS. What a step keeps: the queue's rest, the canonical form of DRAM and what is burned, command by command, and the statement
on the fuses assembled from that (R72, R121, R475, R484, R508). -/

namespace Sys2Proof.Machine

/-- Every command of the table goes on to a state with the same queue, memory in its canonical form and no fuse unblown: each
command is one operation of the block. -/
theorem exec_keeps (s : State) : ∀ c : Instr, ∃ t, exec c s = .next t ∧ Keeps s t
  | .tickEdge t => ⟨_, rfl, tickEdge_keeps s t (.refl s)⟩
  | .earlyEdgeDrainEnd t => ⟨_, rfl, earlyDrain_keeps s t (.refl s)⟩
  | .tickKeeperCalends => ⟨_, rfl, keeperCalends_keeps s (.refl s)⟩
  | .firstCalendsAfterP2 true => ⟨_, rfl, firstCalends_keeps s (.refl s)⟩
  | .firstCalendsAfterP2 false => ⟨_, rfl, firstCalends_keeps s (.refl s)⟩
  | .calendsCommit => ⟨_, rfl, calendsCommit_keeps s (.refl s)⟩
  | .ledgerHoldExpiry => ⟨_, rfl, holdExpiry_keeps s (.refl s)⟩
  | .admissionClose => ⟨_, rfl, admissionClose_keeps s (.refl s)⟩
  | .admitDescriptor owner t => ⟨_, rfl, admitTurn_keeps s owner t (.refl s)⟩
  | .overrunSelfTest ch pass => ⟨_, rfl, overrunTest_keeps s ch pass (.refl s)⟩
  | .spareSelfTest pass => ⟨_, rfl, spareTest_keeps s pass (.refl s)⟩
  | .sqDoorbell k val => ⟨_, rfl, doorbell_keeps s k val.toNat (.refl s)⟩
  | .cqDoorbell k val => ⟨_, rfl, doorbell_keeps s (64 + k) val.toNat (.refl s)⟩
  | .ringAbortRequest k val => ⟨_, rfl, abortRequest_keeps s k val.toNat (.refl s)⟩
  | .abortDecision k => ⟨_, rfl, abortDecide_keeps s k (.refl s)⟩
  | .completionWrite k => ⟨_, rfl, completeNext_keeps s k (.refl s)⟩
  | .sourceEventWrite cq => ⟨_, rfl, writeEvent_keeps s cq (.refl s)⟩
  | .dmaErrorResponse k i .outputWrite _ => ⟨_, rfl, .ite (fun _ => .refl s) (fun _ => outputError_keeps s k i (.refl s))⟩
  | .dmaErrorResponse k _ .descriptorRead _ => ⟨_, rfl, .ite (fun _ => .refl s) (fun _ => descriptorError_keeps s k (.refl s))⟩
  | .dmaErrorResponse k i .inputRead poison => ⟨_, rfl, .ite (fun _ => .refl s) (fun _ => inputError_keeps s k i poison (.refl s))⟩
  | .dmaErrorResponse k _ .completionWrite _ => ⟨_, rfl, .ite (fun _ => .refl s) (fun _ => completionError_keeps s k (.refl s))⟩
  | .registerWrite off val be priv => ⟨_, rfl, writeReg_keeps s off.toNat val.toNat be.toNat priv 0 (.refl s)⟩
  | .hostAccessError _ off val be priv => ⟨_, rfl, .ite (fun _ => writeReg_keeps s off.toNat val.toNat be.toNat priv 0 (.refl s))
      (fun _ => readReg_keeps s off.toNat be.toNat priv (.refl s))⟩
  | .eventRegisterClear off val be priv same => ⟨_, rfl, writeReg_keeps s off.toNat val.toNat be.toNat priv same.toNat (.refl s)⟩
  | .calendsLoRead priv => ⟨_, rfl, readReg_keeps s 0x30104 15 priv (.refl s)⟩
  | .integLastLoRead priv => ⟨_, rfl, readReg_keeps s 0x3711C 15 priv (.refl s)⟩
  | .almTimeLoRead priv => ⟨_, rfl, readReg_keeps s 0x39108 15 priv (.refl s)⟩
  | .jfGrantLoRead priv => ⟨_, rfl, readReg_keeps s 0x39308 15 priv (.refl s)⟩
  | .rgnStage n val priv => ⟨_, rfl, writeReg_keeps s (0x10014 + 32 * n) val.toNat 15 priv 0 (.refl s)⟩
  | .kidStage k val priv => ⟨_, rfl, writeReg_keeps s (0x11018 + 32 * k) val.toNat 15 priv 0 (.refl s)⟩
  | .treeStage n val priv => ⟨_, rfl, writeReg_keeps s (0x13110 + 32 * n) val.toNat 15 priv 0 (.refl s)⟩
  | .eqxStage j val priv => ⟨_, rfl, writeReg_keeps s (0x13400 + 32 * j) val.toNat 15 priv 0 (.refl s)⟩
  | .tierStage n val priv => ⟨_, rfl, writeReg_keeps s (0x8008 + 64 * n) val.toNat 15 priv 0 (.refl s)⟩
  | .almanacEnable val priv => ⟨_, rfl, writeReg_keeps s 0x1380C val.toNat 15 priv 0 (.refl s)⟩
  | .failback p val priv => ⟨_, rfl, writeReg_keeps s (0x401C + 64 * p) val.toNat 15 priv 0 (.refl s)⟩
  | .killNBurn val readback priv => ⟨_, rfl, regWrite_keeps s 0x13C00 15 priv _ (.refl s) (fun t => killCfg_keeps t val.toNat readback)⟩
  | .killArm priv => ⟨_, rfl, regWrite_keeps s 0x13C04 15 priv _ (.refl s) (fun t => fltKill_keeps t armCode)⟩
  | .kill priv => ⟨_, rfl, regWrite_keeps s 0x13C04 15 priv _ (.refl s) (fun t => fltKill_keeps t killCode)⟩
  | .killDisarm val priv => ⟨_, rfl, regWrite_keeps s 0x13C04 15 priv _ (.refl s) (fun t => fltKill_keeps t val.toNat)⟩
  | .killArmLapse => ⟨_, rfl, armLapse_keeps s (.refl s)⟩
  | .sleepRequest val priv => ⟨_, rfl, regWrite_keeps s 0x5C08 15 priv _ (.refl s)
      (fun t h => later_keeps t 0x5C08 val.toNat _ h (fun u => sleepCtl_keeps u val.toNat))⟩
  | .sleepEntry => ⟨_, rfl, sleepEntry_keeps s (.refl s)⟩
  | .wake report => ⟨_, rfl, wake_keeps s report (.refl s)⟩
  | .nop k i => ⟨_, rfl, nop_keeps s k i (.refl s)⟩
  | .ctrXcrypt k i => ⟨_, rfl, bulkRun_keeps s k i 0x01 ctrFn (.refl s)⟩
  | .gcmEnc k i => ⟨_, rfl, bulkRun_keeps s k i 0x02 gcmEncFn (.refl s)⟩
  | .gcmDec k i => ⟨_, rfl, bulkRun_keeps s k i 0x03 gcmDecFn (.refl s)⟩
  | .gmacGen k i => ⟨_, rfl, bulkRun_keeps s k i 0x04 gmacGenFn (.refl s)⟩
  | .gmacVer k i => ⟨_, rfl, bulkRun_keeps s k i 0x05 gmacVerFn (.refl s)⟩
  | .ccmEnc k i => ⟨_, rfl, bulkRun_keeps s k i 0x06 ccmEncFn (.refl s)⟩
  | .ccmDec k i => ⟨_, rfl, bulkRun_keeps s k i 0x07 ccmDecFn (.refl s)⟩
  | .xtsEnc k i => ⟨_, rfl, bulkRun_keeps s k i 0x08 xtsEncFn (.refl s)⟩
  | .xtsDec k i => ⟨_, rfl, bulkRun_keeps s k i 0x09 xtsDecFn (.refl s)⟩
  | .cmacGen k i => ⟨_, rfl, bulkRun_keeps s k i 0x0A cmacGenFn (.refl s)⟩
  | .cmacVer k i => ⟨_, rfl, bulkRun_keeps s k i 0x0B cmacVerFn (.refl s)⟩
  | .txscSet k i => ⟨_, rfl, stageLink_keeps s k i 0x10 (.refl s)⟩
  | .rxscSet k i => ⟨_, rfl, stageLink_keeps s k i 0x11 (.refl s)⟩
  | .saInstall k i => ⟨_, rfl, stageLink_keeps s k i 0x12 (.refl s)⟩
  | .saActivate k i => ⟨_, rfl, stageLink_keeps s k i 0x13 (.refl s)⟩
  | .saRetire k i => ⟨_, rfl, stageLink_keeps s k i 0x14 (.refl s)⟩
  | .saUpdatePn k i => ⟨_, rfl, stageLink_keeps s k i 0x15 (.refl s)⟩
  | .saRead k i => ⟨_, rfl, saReadItem_keeps s k i (.refl s)⟩
  | .saOverlapEnd p => ⟨_, rfl, overlapEnd_keeps s p (.refl s)⟩
  | .saRevalidate p => ⟨_, rfl, revalidate_keeps s p (.refl s)⟩
  | .clientTxFrame p frame => ⟨_, rfl, atPort_keeps s _ _ (.refl s) (fun t => clientTx_keeps t p frame)⟩
  | .lineRxFrame p frame err => ⟨_, rfl, atPort_keeps s _ _ (.refl s) (fun t => lineRx_keeps t p frame err)⟩
  | .heartbeatSend p => ⟨_, rfl, heartbeatSend_keeps s p (.refl s)⟩
  | .heartbeatIntervalEnd p => ⟨_, rfl, heartbeatEnd_keeps s p (.refl s)⟩
  | .phyDown p => ⟨_, rfl, phyDown_keeps s p (.refl s)⟩
  | .phyUp p => ⟨_, rfl, phyUp_keeps s p (.refl s)⟩
  | .failoverFlush p => ⟨_, rfl, failoverFlush_keeps s p (.refl s)⟩
  | .pathRecovered p => ⟨_, rfl, pathRecovered_keeps s p (.refl s)⟩
  | .pathReturnComplete p => ⟨_, rfl, pathReturn_keeps s p (.refl s)⟩
  | .holdFlush p => ⟨_, rfl, holdFlush_keeps s p (.refl s)⟩
  | .uplink k i => ⟨_, rfl, uplink_keeps s false k i (.refl s)⟩
  | .downlink k i => ⟨_, rfl, downlink_keeps s false k i (.refl s)⟩
  | .convStart k i => ⟨_, rfl, convStart_keeps s k i (.refl s)⟩
  | .convEnd k i => ⟨_, rfl, convEnd_keeps s k i (.refl s)⟩
  | .convQuery k i => ⟨_, rfl, convQuery_keeps s k i (.refl s)⟩
  | .conversationStep ch t => ⟨_, rfl, convStep_keeps s ch t (.refl s)⟩
  | .convTimeout ch id => ⟨_, rfl, convTimeout_keeps s (256 * ch + id) (.refl s)⟩
  | .convExpire ch id => ⟨_, rfl, convExpire_keeps s (256 * ch + id) (.refl s)⟩
  | .engineNop ch e => ⟨_, rfl, engineOp_keeps 0x00 _ ch e s (.refl s) (fun t c e g _ => advance_keeps t c e (g.pc + 1))⟩
  | .engineAdd ch e => ⟨_, rfl, engineOp_keeps 0x01 _ ch e s (.refl s) (aluOp_keeps _)⟩
  | .engineSub ch e => ⟨_, rfl, engineOp_keeps 0x02 _ ch e s (.refl s) (aluOp_keeps _)⟩
  | .engineAnd ch e => ⟨_, rfl, engineOp_keeps 0x03 _ ch e s (.refl s) (aluOp_keeps _)⟩
  | .engineOr ch e => ⟨_, rfl, engineOp_keeps 0x04 _ ch e s (.refl s) (aluOp_keeps _)⟩
  | .engineXor ch e => ⟨_, rfl, engineOp_keeps 0x05 _ ch e s (.refl s) (aluOp_keeps _)⟩
  | .engineShl ch e => ⟨_, rfl, engineOp_keeps 0x06 _ ch e s (.refl s) (aluOp_keeps _)⟩
  | .engineShr ch e => ⟨_, rfl, engineOp_keeps 0x07 _ ch e s (.refl s) (aluOp_keeps _)⟩
  | .engineAddi ch e => ⟨_, rfl, engineOp_keeps 0x08 _ ch e s (.refl s) (aluOp_keeps _)⟩
  | .engineLui ch e => ⟨_, rfl, engineOp_keeps 0x09 _ ch e s (.refl s) (aluOp_keeps _)⟩
  | .engineOri ch e => ⟨_, rfl, engineOp_keeps 0x0A _ ch e s (.refl s) (aluOp_keeps _)⟩
  | .engineBeq ch e => ⟨_, rfl, engineOp_keeps 0x0B _ ch e s (.refl s) (branchOp_keeps _)⟩
  | .engineBne ch e => ⟨_, rfl, engineOp_keeps 0x0C _ ch e s (.refl s) (branchOp_keeps _)⟩
  | .engineBltu ch e => ⟨_, rfl, engineOp_keeps 0x0D _ ch e s (.refl s) (branchOp_keeps _)⟩
  | .engineBgeu ch e => ⟨_, rfl, engineOp_keeps 0x0E _ ch e s (.refl s) (branchOp_keeps _)⟩
  | .engineJmp ch e => ⟨_, rfl, engineOp_keeps 0x0F _ ch e s (.refl s) (branchOp_keeps _)⟩
  | .engineLde ch e => ⟨_, rfl, engineOp_keeps 0x10 ldeOp ch e s (.refl s) ldeOp_keeps⟩
  | .engineSte ch e => ⟨_, rfl, engineOp_keeps 0x11 steOp ch e s (.refl s) steOp_keeps⟩
  | .engineLdi ch e => ⟨_, rfl, engineOp_keeps 0x12 ldiOp ch e s (.refl s) ldiOp_keeps⟩
  | .engineSto ch e => ⟨_, rfl, engineOp_keeps 0x13 stoOp ch e s (.refl s) stoOp_keeps⟩
  | .engineHdr ch e => ⟨_, rfl, engineOp_keeps 0x14 hdrOp ch e s (.refl s) hdrOp_keeps⟩
  | .engineRand ch e => ⟨_, rfl, engineOp_keeps 0x15 randOp ch e s (.refl s) randOp_keeps⟩
  | .engineChk ch e => ⟨_, rfl, engineOp_keeps 0x16 chkOp ch e s (.refl s) chkOp_keeps⟩
  | .engineNkey ch e => ⟨_, rfl, engineOp_keeps 0x17 nkeyOp ch e s (.refl s) nkeyOp_keeps⟩
  | .engineKout ch e => ⟨_, rfl, engineOp_keeps 0x18 koutOp ch e s (.refl s) koutOp_keeps⟩
  | .engineSend ch e => ⟨_, rfl, engineOp_keeps 0x19 sendOp ch e s (.refl s) sendOp_keeps⟩
  | .engineWait ch e => ⟨_, rfl, engineOp_keeps 0x1A _ ch e s (.refl s) (fun t c e _ _ => endStep_keeps t c e)⟩
  | .engineSync ch e => ⟨_, rfl, engineOp_keeps 0x1B syncOp ch e s (.refl s) syncOp_keeps⟩
  | .enginePost ch e => ⟨_, rfl, engineOp_keeps 0x1C postOp ch e s (.refl s) postOp_keeps⟩
  | .engineEnd ch e => ⟨_, rfl, engineOp_keeps 0x1D endOp ch e s (.refl s) endOp_keeps⟩
  | .engineRtry ch e => ⟨_, rfl, engineOp_keeps 0x1E rtryOp ch e s (.refl s) rtryOp_keeps⟩
  | .generate k i => ⟨_, rfl, generate_keeps s k i (.refl s)⟩
  | .derive k i => ⟨_, rfl, derive_keeps s k i (.refl s)⟩
  | .importWrapped k i => ⟨_, rfl, importWrapped_keeps s k i (.refl s)⟩
  | .importClear k i => ⟨_, rfl, importClear_keeps s k i (.refl s)⟩
  | .wrap k i => ⟨_, rfl, wrapKey_keeps s k i (.refl s)⟩
  | .persist k i => ⟨_, rfl, stagePlain_keeps s k i 0x45 (.refl s)⟩
  | .invalidate k i => ⟨_, rfl, stagePlain_keeps s k i 0x46 (.refl s)⟩
  | .erase k i => ⟨_, rfl, stagePlain_keeps s k i 0x47 (.refl s)⟩
  | .setLimit k i => ⟨_, rfl, stagePlain_keeps s k i 0x48 (.refl s)⟩
  | .deliver k i => ⟨_, rfl, deliverKey_keeps s k i (.refl s)⟩
  | .query k i => ⟨_, rfl, queryKey_keeps s k i (.refl s)⟩
  | .attest k i => ⟨_, rfl, attest_keeps s k i (.refl s)⟩
  | .opbankWrite k i readback => ⟨_, rfl, opbankWrite_keeps s k i readback (.refl s)⟩
  | .provisionClose k i => ⟨_, rfl, stagePlain_keeps s k i 0x59 (.refl s)⟩
  | .octaveSweepVisit parityOk lastUs => ⟨_, rfl, sweepVisit_keeps s parityOk lastUs (.refl s)⟩
  | .nmsProfileLoad k i => ⟨_, rfl, nmsLoad_keeps s k i 0x60 (.refl s)⟩
  | .nmsUcodeLoad k i => ⟨_, rfl, nmsLoad_keeps s k i 0x61 (.refl s)⟩
  | .nmsUpdWrite k i fail => ⟨_, rfl, updWrite_keeps s k i fail (.refl s)⟩
  | .nmsUpdActivate k i ok => ⟨_, rfl, updActivate_keeps s k i ok (.refl s)⟩
  | .nmsUpdConfirm k i => ⟨_, rfl, updConfirm_keeps s k i (.refl s)⟩
  | .nmsRollback k i => ⟨_, rfl, nmsRollback_keeps s k i (.refl s)⟩
  | .nmsKeyfuse k i readback => ⟨_, rfl, nmsKeyfuse_keeps s k i readback (.refl s)⟩
  | .nmsLogRead k i => ⟨_, rfl, nmsLogRead_keeps s k i (.refl s)⟩
  | .nmsLogNote k i => ⟨_, rfl, nmsLogNote_keeps s k i (.refl s)⟩
  | .nmsStats k i => ⟨_, rfl, nmsStats_keeps s k i (.refl s)⟩
  | .logFlush => ⟨_, rfl, logFlush_keeps s (.refl s)⟩
  | .vigilWarn sensor reading => ⟨_, rfl, vigilWarn_keeps s sensor reading.toNat (.refl s)⟩
  | .jfFormat k i => ⟨_, rfl, jfFormat_keeps _ s k i (.refl s)⟩
  | .jfSync k i => ⟨_, rfl, jfSync_keeps s k i (.refl s)⟩
  | .jfScrub k i => ⟨_, rfl, jfScrub_keeps s k i (.refl s)⟩
  | .pageProgram => ⟨_, rfl, pageProgram_keeps s (.refl s)⟩
  | .pageProgramDone ok => ⟨_, rfl, nmsDurable_keeps _ (pageDone_keeps s ok (.refl s))⟩
  | .blockRotation => ⟨_, rfl, blockRotation_keeps s (.refl s)⟩
  | .snapshotResnapshot => ⟨_, rfl, resnapshot_keeps s (.refl s)⟩
  | .scrubRead ecc => ⟨_, rfl, scrubRead_keeps resnap s ecc (.refl s) resnap_keeps⟩
  | .journalNoAnswer => ⟨_, rfl, noAnswer_keeps s (.refl s)⟩
  | .snapshotSweep => ⟨_, rfl, snapSweep_keeps s (.refl s)⟩
  | .krKeyload k i => ⟨_, rfl, krKeyload_keeps s k i (.refl s)⟩
  | .krAssign k i => ⟨_, rfl, krAssign_keeps s k i (.refl s)⟩
  | .krQuery k i => ⟨_, rfl, krQuery_keeps s k i (.refl s)⟩
  | .beacon => ⟨_, rfl, processMsg_keeps s 1 onBeacon (.refl s) onBeacon_keeps⟩
  | .claim => ⟨_, rfl, processMsg_keeps s 2 onClaim (.refl s) onClaim_keeps⟩
  | .change => ⟨_, rfl, processMsg_keeps s 3 onChange (.refl s) onChange_keeps⟩
  | .entry => ⟨_, rfl, processMsg_keeps s 4 onEntry (.refl s) onEntry_keeps⟩
  | .moveEnd => ⟨_, rfl, processMsg_keeps s 5 onMoveEnd (.refl s) onMoveEnd_keeps⟩
  | .map => ⟨_, rfl, processMsg_keeps s 6 onMap (.refl s) onMap_keeps⟩
  | .ringMessageForward port msg crcOk => ⟨_, rfl, ringMessage_keeps s port msg crcOk (.refl s)⟩
  | .krysaPortDown _ => ⟨_, rfl, State_modKr_keeps s _ (.refl s)⟩
  | .claimTimeout => ⟨_, rfl, claimTimeout_keeps s (.refl s)⟩
  | .ownershipLeaseExpiry => ⟨_, rfl, leaseExpiry_keeps s (.refl s)⟩
  | .memoryRead addr cls tag => ⟨_, rfl, atMemPort_keeps s _ _ (.refl s)
      (fun t => memAccess_keeps t addr.toNat cls.toNat tag.toNat false [] 0)⟩
  | .memoryWrite addr cls data be tag => ⟨_, rfl, atMemPort_keeps s _ _ (.refl s)
      (fun t => memAccess_keeps t addr.toNat cls.toNat tag.toNat true (lineBytes data) be.toNat)⟩
  | .dramDataReturn n ret => ⟨_, rfl, dramReturn_keeps s n ret (.refl s)⟩
  | .cacheEviction ch => ⟨_, rfl, .ite (fun _ => .refl s) (fun _ => drainWbOne_keeps s ch (.refl s))⟩
  | .regionInitPass n => ⟨_, rfl, initPass_keeps s n (.refl s)⟩
  | .markedWriteback ch => ⟨_, rfl, .ite (fun _ => .refl s) (fun _ => markedOne_keeps s ch (.refl s))⟩
  | .eqxGroupConvert j ret => ⟨_, rfl, .ite (fun _ => .refl s) (fun _ => convertGroup_keeps _ j (noteDram_keeps s ret (.refl s)))⟩
  | .eqxRebuildWrite j => ⟨_, rfl, rebuildWrite_keeps s j (.refl s)⟩
  | .datapathFault ch cause => ⟨_, rfl, datapathFault_keeps s ch cause.toNat (.refl s)⟩
  | .powerTokenGrant pass => ⟨_, rfl, tokenGrant_keeps s pass (.refl s)⟩
  | .unitWedge unit => ⟨_, rfl, unitWedge_keeps s unit (.refl s)⟩
  | .alarm cause eraseOk => ⟨_, rfl, alarmEvent_keeps s cause eraseOk (.refl s)⟩
  | .alarmCountStep ok => ⟨_, rfl, alarmStep_keeps s ok (.refl s)⟩
  | .outputScrub => ⟨_, rfl, outputScrub_keeps s (.refl s)⟩
  | .powerFailShutdown => ⟨_, rfl, powerFail_keeps s (.refl s)⟩
  | .sxRstNAssert por => ⟨_, rfl, fullReset_keeps s por (.refl s)⟩
  | .p0 report => ⟨_, rfl, p0_keeps s report (.refl s)⟩
  | .p1 report => ⟨_, rfl, p1_keeps s report (.refl s)⟩
  | .p2 report => ⟨_, rfl, p2_keeps s report (.refl s)⟩
  | .p3 report => ⟨_, rfl, p3_keeps s report (.refl s)⟩
  | .p4 report => ⟨_, rfl, p4_keeps s report (.refl s)⟩
  | .p5 report => ⟨_, rfl, p5_keeps s report (.refl s)⟩
  | .idcode => ⟨_, rfl, tapIdcode_keeps s (.refl s)⟩
  | .dbgStatus => ⟨_, rfl, tapStatus_keeps s (.refl s)⟩
  | .dbgChallenge => ⟨_, rfl, tapChallenge_keeps s (.refl s)⟩
  | .dbgResponse resp => ⟨_, rfl, tapResponse_keeps s resp (.refl s)⟩
  | .nmsDap => ⟨_, rfl, tapDap_keeps s (.refl s)⟩
  | .scan => ⟨_, rfl, tapScan_keeps s (.refl s)⟩
  | .bypass code tdi => ⟨_, rfl, tapBypass_keeps s code.toNat tdi (.refl s)⟩
  | .vigilWarnClear sensor reading => ⟨_, rfl, vigilClear_keeps s sensor reading.toNat (.refl s)⟩
  | .krysaPortUp _ => ⟨_, rfl, State_modKr_keeps s _ (.refl s)⟩
  | .blockEraseDone ok => ⟨_, rfl, eraseDone_keeps s ok (.refl s)⟩
  | .lineTxReady p ready => ⟨_, rfl, lineReady_keeps s p ready (.refl s)⟩

/-- What is burned before a step is burned after it. -/
theorem step_fusesKept {s t : State} (h : step s = .next t) : FusesKept s.fuses t.fuses := by
  cases hq : s.pending with
  | nil =>
    have hidle : step s = .next s := by simp only [step, hq]
    cases hidle.symm.trans h
    exact FusesKept.refl _
  | cons c rest =>
    obtain ⟨u, hu, hkeeps⟩ := exec_keeps { s with pending := rest } c
    have hfront : step s = .next u := by simpa only [step, hq] using hu
    cases hfront.symm.trans h
    exact hkeeps.fuses

end Sys2Proof.Machine

namespace Sys2Proof.Proofs

open Sys2Proof.Machine Sys2Proof.Claims

/-- Settles O6: every command burns only, and a step is one command or none. -/
theorem fusesOnlyBurn : Obligations.FusesOnlyBurn := by
  unfold Obligations.FusesOnlyBurn
  intro s t hcount hstep
  have hkept := step_fusesKept hstep
  exact ⟨hkept.kill, hkept.lock, hkept.bankLock, hkept.debug, hkept.nms, hkept.era, hkept.rollback, (hkept.alarmCount hcount).1⟩

end Sys2Proof.Proofs
end

section
/-! PROOFS. The tick: what each kind of edge and each other way to a Calends instant makes of the state, and the two statements on
them assembled from that (R58, R66 to R75, R518, R549). -/

namespace Sys2Proof.Machine

open Sys2Proof.Claims

/-- A command's answer, with the state it makes given in another form. -/
theorem exec_of_eq {c : Instr} {s a b : State} (hc : exec c s = .next a) (h : a = b) : exec c s = .next b := h ▸ hc

@[simp] theorem at_tick (s : State) (t : Nat) : (s.at t).tick = { s.tick with t := max s.tick.t t } := rfl
@[simp] theorem at_perEc (s : State) (t : Nat) : (s.at t).perEc = s.perEc := rfl
@[simp] theorem at_stf (s : State) (t off hi lo : Nat) : (s.at t).stf off hi lo = s.stf off hi lo := rfl
@[simp] theorem at_tolEc (s : State) (t : Nat) : (s.at t).tolEc = s.tolEc := rfl

section
variable {s : State}

/-- In service the block is out of reset, awake and not going to sleep. -/
theorem awake_of_live (h : s.halted = false) : s.boot.inReset = false ∧ s.boot.asleep = false ∧ s.boot.entering = false := by
  simp only [State.halted, Bool.or_eq_false_iff] at h
  obtain ⟨⟨⟨⟨⟨⟨hreset, hasleep⟩, -⟩, -⟩, -⟩, -⟩, hentering⟩ := h
  exact ⟨hreset, hasleep, hentering⟩

theorem ticksAct_of_live (hlive : s.halted = false) (hset : s.tick.countSet = true) : ticksAct s = true := by
  simp [ticksAct, hlive, hset]

/-- Where the block acts on ticks, an instant C is a Calends. -/
theorem reachC_atC (h : ticksAct s = true) : AtC (reachC s).tick := by
  simp [AtC, reachC, h]

/-! ### Edges (R68) -/

section
variable {t : Nat} (hc : Classing s)
include hc

theorem tickEdge_of_classing : tickEdge s t = classEdge s t := by
  obtain ⟨hlive, -, hstarted, hsrc, -⟩ := hc
  obtain ⟨hreset, hasleep, hentering⟩ := awake_of_live hlive
  simp [tickEdge, hreset, hasleep, hentering, hstarted, hsrc]

/-- An edge before half of the period is ignored. -/
theorem tickEdge_of_ignored (ht : 2 * t < s.perEc) : tickEdge s t = edgeIgnored (s.at t) := by
  simp [tickEdge_of_classing hc, classEdge, ht]

/-- An edge from half of the period up to the tolerance before its end is early. -/
theorem tickEdge_of_early (hhalf : s.perEc ≤ 2 * t) (ht : t < s.perEc - s.tolEc) : tickEdge s t = edgeEarly (s.at t) t := by
  obtain ⟨-, -, -, -, hdue, hfixed⟩ := id hc
  simp [tickEdge_of_classing hc, classEdge, hdue, hfixed, Nat.not_lt.mpr hhalf, ht]

/-- An edge within the tolerance of the period is on time where the keeper does not drive the tick. -/
theorem tickEdge_of_onTime (hhalf : s.perEc ≤ 2 * t) (hlo : s.perEc - s.tolEc ≤ t) (hhi : t ≤ s.perEc + s.tolEc)
    (hkeeper : s.tick.keeper = false) : tickEdge s t = edgeOnTime (s.at t) := by
  obtain ⟨-, -, -, -, hdue, hfixed⟩ := id hc
  have hlimit : edgeLimit (s.at t) = s.perEc + s.tolEc := by simp [edgeLimit, hkeeper]
  simp [tickEdge_of_classing hc, classEdge, hdue, hfixed, Nat.not_lt.mpr hhalf, Nat.not_lt.mpr hlo, hlimit, hhi]

end

/-! ### The other ways to a Calends (R68, R69, R518) -/

theorem earlyDrain_of_ended {t lim : Nat} (hearly : s.tick.early = some lim) (h : workDone s = true ∨ lim ≤ t) :
    earlyDrain s t = reachC s := by
  simp [earlyDrain, hearly, h]

/-- The state whose Calends the keeper issues: the lost tick is counted and flagged (R69). -/
def lostTick (s : State) : State := ((s.inc 0x3010C 31 0).evt 0x108 0).modTick (fun x => { x with keeper := true, onTime := 0 })

theorem keeperCalends_of_classing (hc : Classing s) : keeperCalends s = reachC (lostTick s) := by
  obtain ⟨hlive, -, hstarted, hsrc, hdue, hfixed⟩ := hc
  obtain ⟨hreset, hasleep, hentering⟩ := awake_of_live hlive
  simp [keeperCalends, keeperIssues, lostTick, hostDead, hreset, hasleep, hentering, hstarted, hsrc, hdue, hfixed]

theorem firstCalends_of_waiting (hact : ticksAct s = true) (hstarted : s.tick.started = false) (hdue : s.tick.due = false) :
    firstCalends s = reachC s := by
  simp [firstCalends, hact, hstarted, hdue]

end

end Sys2Proof.Machine

namespace Sys2Proof.Proofs

open Sys2Proof.Machine Sys2Proof.Claims

/-- Settles O7: the distance from the previous Calends says which kind an edge is, and each kind is read field by field. -/
theorem edgesAreClassed : Obligations.EdgesAreClassed := by
  unfold Obligations.EdgesAreClassed
  intro s t hc hlate
  refine ⟨fun ht => ⟨_, exec_of_eq rfl (tickEdge_of_ignored hc ht), rfl, ?time, ?due, rfl, ?flag, ?count⟩,
    fun hhalf ht => ⟨_, exec_of_eq rfl (tickEdge_of_early hc hhalf ht), rfl, ?dueEarly, rfl, rfl, rfl, ?flagEarly, ?countEarly⟩,
    fun hhalf hlo hhi hkeeper => ⟨_, exec_of_eq rfl (tickEdge_of_onTime hc hhalf hlo hhi hkeeper), rfl, ?taken, ?keeper, rfl⟩⟩
  case time => simp [edgeIgnored, hlate]
  case due => simp [edgeIgnored, hc]
  case flag => simp [edgeIgnored]
  case count => simp [edgeIgnored]
  case dueEarly => simp [edgeEarly, hc]
  case flagEarly => simp [edgeEarly]
  case countEarly => simp [edgeEarly]
  case taken =>
    obtain ⟨hlive, hset, -⟩ := hc
    exact reachC_atC (s := (s.at t).modTick _) (ticksAct_of_live hlive hset)
  case keeper => simp [edgeOnTime, reachC, hkeeper]

/-- Settles O8: each row is brought to `reachC` or to the close point, which are read field by field. -/
theorem calendsInstants : Obligations.CalendsInstants := by
  unfold Obligations.CalendsInstants
  refine ⟨fun s t lim hlive hset hearly hend => ?early, fun s hc => ?keeper, fun s byEdge hlive hset hstarted hdue => ?first,
    fun s hlive => ?close⟩
  case early => exact ⟨_, exec_of_eq rfl (earlyDrain_of_ended hearly hend), rfl, reachC_atC (ticksAct_of_live hlive hset), rfl⟩
  case keeper =>
    obtain ⟨hlive, hset, -⟩ := id hc
    refine ⟨_, exec_of_eq rfl (keeperCalends_of_classing hc), rfl, reachC_atC (ticksAct_of_live (s := lostTick s) hlive hset), rfl, rfl,
      ?flag, ?count⟩
    case flag => simp [reachC, lostTick]
    case count => simp [reachC, lostTick]
  case first =>
    have hfirst := firstCalends_of_waiting (ticksAct_of_live hlive hset) hstarted hdue
    refine ⟨_, ?_, rfl, reachC_atC (ticksAct_of_live hlive hset), rfl⟩
    cases byEdge <;> exact exec_of_eq rfl hfirst
  case close =>
    have hclose : admissionClose s = (s.at s.tClose).modTick (fun x => { x with closed := true }) := by simp [admissionClose, hlive]
    exact ⟨_, exec_of_eq rfl hclose, rfl, rfl, rfl⟩

end Sys2Proof.Proofs
end

section
/-! PROOFS. The latched pairs at the host port: what a read of the low half leaves in the latches, and the statement on latched reads
assembled from it (R74, R270, R373, R447, R536). -/

namespace Sys2Proof.Machine

section
variable {s : State} {lo hi : Nat} {priv : Bool}

/-- A read of a high half gives the latch of the reader's kind of access (R536). -/
theorem regRead_of_latched (h : latchedHigh.contains hi = true) :
    regRead s hi priv = tget 0 (if priv then s.host.latchPriv else s.host.latch) hi := by
  have hstatus : 0x30000 ≤ hi := by
    simp only [latchedHigh, List.contains_iff_mem, List.mem_cons, List.not_mem_nil, or_false] at h
    omega
  have hid : ¬ hi ≤ 0x10 := by omega
  have hhost : ¬ hi < 0x20000 := by omega
  have hgap : ¬ hi < 0x30000 := by omega
  simp only [regRead, hid, hhost, hgap, h, if_false, if_true]

/-- The latch that was loaded reads the high half of that moment. -/
theorem regRead_loadLatch_same (h : latchedHigh.contains hi = true) : regRead (loadLatch s hi priv) hi priv = liveHigh s hi := by
  cases priv <;> simp [regRead_of_latched h, loadLatch, tget_tins]

/-- The latch of the other kind of access is left alone. -/
theorem regRead_loadLatch_other (h : latchedHigh.contains hi = true) :
    regRead (loadLatch s hi priv) hi (!priv) = regRead s hi (!priv) := by
  cases priv <;> simp [regRead_of_latched h, loadLatch]

/-- The state after the low half of a pair was read: answered, with the latch of the high half loaded. -/
def latchedRead (s : State) (lo hi : Nat) (priv : Bool) : State := loadLatch (hostOk s (regRead s lo priv)) hi priv

theorem latchedRead_rdata (s : State) (lo hi : Nat) (priv : Bool) : (latchedRead s lo hi priv).host.rdata = regRead s lo priv := by
  cases priv <;> rfl

/-- Beside the port's answer and latches nothing changes. -/
theorem latchedRead_frame (s : State) (lo hi : Nat) (priv : Bool) :
    latchedRead s lo hi priv = { s with host := (latchedRead s lo hi priv).host } := rfl

/-- A read of the low half of a pair, which no write waits for, is answered and loads the latch of its high half (R536). -/
theorem readReg_of_pair (hdead : hostDead s = false) (hpair : latchPairs.find? (fun p => decide (p.1 = lo)) = some (lo, hi))
    (hok : accessError false lo 15 priv = 0) (hrow : regRow lo = none) :
    readReg s lo 15 priv = latchedRead s lo hi priv := by
  have hnow : lateRead s lo priv = regRead s lo priv := by
    unfold lateRead
    split
    · simp_all
    · rfl
  simp only [readReg, regAccess_of_accepted hdead hok, hpair, hnow, latchedRead]

end

end Sys2Proof.Machine

namespace Sys2Proof.Proofs

open Sys2Proof.Machine Sys2Proof.Claims

/-- Settles O18: each of the four reads answers the low half and loads the latch of its pair, which is then read. -/
theorem lowReadsLatchTheirHighHalf : Obligations.LowReadsLatchTheirHighHalf := by
  unfold Obligations.LowReadsLatchTheirHighHalf
  intro s priv hdead
  refine ⟨⟨_, exec_of_eq rfl (readReg_of_pair hdead rfl rfl rfl), ?calends, regRead_loadLatch_same rfl,
      regRead_loadLatch_other rfl, latchedRead_frame _ _ _ _⟩,
    ⟨_, exec_of_eq rfl (readReg_of_pair hdead rfl rfl rfl), latchedRead_rdata _ _ _ _, regRead_loadLatch_same rfl, latchedRead_frame _ _ _ _⟩,
    ⟨_, exec_of_eq rfl (readReg_of_pair hdead rfl rfl rfl), latchedRead_rdata _ _ _ _, regRead_loadLatch_same rfl, latchedRead_frame _ _ _ _⟩,
    ⟨_, exec_of_eq rfl (readReg_of_pair hdead rfl rfl rfl), latchedRead_rdata _ _ _ _, regRead_loadLatch_same rfl, latchedRead_frame _ _ _ _⟩⟩
  case calends =>
    rw [latchedRead_rdata]
    rfl

end Sys2Proof.Proofs
end

section
/-! PROOFS. Open items: what a command finds, what staging one leaves and what ending one leaves; the statements on staged LINK and
vault changes assembled from that (R82, R109, R152, R154, R160 to R167, R175, R297, R298, R303). -/

namespace Sys2Proof.Machine

open Sys2Proof.Claims

section
variable {s : State} {k i op : Nat} {it : Item}

/-- A command runs on the open item it names. -/
theorem withItem_of_open (h : Open s k i op it) (f : Item → State) : withItem s k i op f = f it := by
  obtain ⟨-, hfind, hop, hfree⟩ := h
  have hwork : ¬ (k < 48 ∧ (s.tick.due = true ∨ itemFenced s it = true)) := by
    rintro ⟨hk, hcut⟩
    obtain ⟨hdue, hfenced⟩ := hfree hk
    simp [hdue, hfenced] at hcut
  simp only [withItem, hfind, hop, hwork, not_false_eq_true, and_self, if_true]

/-- A mark on the open item of a ring entry changes no other item and no other ring. -/
theorem staged_modItem (s : State) (k i : Nat) : Staged s (modItem s k i (fun x => { x with staged := true })) k i :=
  ⟨by rw [modItem_ring, if_pos rfl], fun q hq => by rw [modItem_ring, if_neg hq]⟩

/-! ### LINK changes -/

/-- The staged LINK changes with that of item it in its place by admission, and no earlier staging of the item (R82). -/
def linkStagedWith (s : State) (k i p : Nat) (tx : Bool) (it : Item) : List LinkChange :=
  let l := s.link.staged.filter (fun c => !(decide (c.ring = k) && decide (c.idx = i)))
  l.takeWhile (fun c => decide (c.seq < it.seq))
    ++ { ring := k, idx := i, seq := it.seq, path := p, tx := tx } :: l.dropWhile (fun c => decide (c.seq < it.seq))

theorem stageLink_of_open {p : Nat} {tx : Bool} (h : Open s k i op it) (hbound : ringBinding s (ringChan k) = some (p, tx)) :
    stageLink s k i op =
      { modItem s k i (fun x => { x with staged := true }) with link := { s.link with staged := linkStagedWith s k i p tx it } } := by
  obtain ⟨hlive, -⟩ := id h
  simp only [stageLink, hlive, withItem_of_open h, hbound]
  rfl

/-- What precedes the first change admitted no earlier than seq was admitted before it. -/
theorem seq_lt_of_mem_takeWhile {l : List LinkChange} {seq : Nat} {c : LinkChange}
    (h : c ∈ l.takeWhile (fun c => decide (c.seq < seq))) : c.seq < seq :=
  of_decide_eq_true (List.mem_takeWhile_imp (p := fun c : LinkChange => decide (c.seq < seq)) h)

theorem seq_le_of_mem_head?_dropWhile {l : List LinkChange} {seq : Nat} {c : LinkChange}
    (h : c ∈ (l.dropWhile (fun c => decide (c.seq < seq))).head?) : seq ≤ c.seq := by
  rw [← List.find?_not_eq_head?_dropWhile] at h
  simpa using List.find?_some h

theorem linkStages_of_open {p : Nat} {tx : Bool} (h : Open s k i op it) (hbound : ringBinding s (ringChan k) = some (p, tx)) :
    LinkStages s (stageLink s k i op) k i p tx it := by
  rw [stageLink_of_open h hbound]
  exact ⟨⟨_, _, (List.takeWhile_append_dropWhile ..).symm, fun _ => seq_lt_of_mem_takeWhile, fun _ => seq_le_of_mem_head?_dropWhile, rfl⟩,
    staged_modItem s k i, rfl⟩

/-! ### The end of an item that answers -/

/-- Ending an open item gives it its result. -/
theorem ended_of_open (h : findItem s k i = some it) (status : Nat) (result : Bytes) :
    Ended (finish s k i status result false) k i status false result := by
  obtain ⟨hmem, hidx, hres⟩ := findItem_spec h
  unfold Ended
  rw [finish_ring status result false h, if_pos rfl]
  exact ⟨_, List.mem_map.mpr ⟨it, hmem, if_pos ⟨hidx, hres⟩⟩, hidx, rfl⟩

/-- Where no output is zeroized, ending an item changes its ring and gives its costs back, and nothing else. -/
theorem finish_frame (h : findItem s k i = some it) (status : Nat) (result : Bytes) :
    finish s k i status result false = { s with
      rings := (finish s k i status result false).rings, part := (finish s k i status result false).part
      ch := (finish s k i status result false).ch } := by
  rw [finish_eq status result false h]
  simp only [finishBase, Bool.false_and, Bool.false_eq_true, if_false, releaseCost]
  split <;> rfl

theorem itemEnds_of_open (h : findItem s k i = some it) (status : Nat) (result : Bytes) :
    ItemEnds s (finish s k i status result false) k i status false result := by
  refine ⟨ended_of_open h status result, fun q hq => ?others, ?frame⟩
  case others => rw [finish_ring status result false h, if_neg hq]
  case frame =>
    unfold ItemFrame
    rw [finish_frame h]

end

end Sys2Proof.Machine

namespace Sys2Proof.Proofs

open Sys2Proof.Machine Sys2Proof.Claims

/-- Settles O32: six commands are one staging, SA_READ is one end of an item. -/
theorem linkChangesAreStaged : Obligations.LinkChangesAreStaged := by
  unfold Obligations.LinkChangesAreStaged
  intro s k i p tx it hbound
  refine ⟨fun h => ⟨_, rfl, linkStages_of_open h hbound⟩, fun h => ⟨_, rfl, linkStages_of_open h hbound⟩,
    fun h => ⟨_, rfl, linkStages_of_open h hbound⟩, fun h => ⟨_, rfl, linkStages_of_open h hbound⟩,
    fun h => ⟨_, rfl, linkStages_of_open h hbound⟩, fun h => ⟨_, rfl, linkStages_of_open h hbound⟩, fun h => ?read⟩
  case read =>
    obtain ⟨hlive, hfind, -⟩ := id h
    have hread : saReadItem s k i = finish s k i stOK (saResult (s.sae p tx (leAt it.desc 8 2))) false := by
      simp only [saReadItem, hlive, withItem_of_open h, hbound]
      rfl
    exact ⟨_, exec_of_eq rfl hread, itemEnds_of_open hfind _ _, finish_frame hfind _ _⟩

end Sys2Proof.Proofs
end

section
/-! PROOFS. What the staging commands of the Key Vault leave, and the statement on staged vault changes assembled from that (R82,
R152, R154, R160 to R167, R175). -/

namespace Sys2Proof.Machine

open Sys2Proof.Claims

section
variable {s : State} {k i op : Nat} {it : Item}

/-- A staging command runs on an open item that is not staged yet. -/
theorem stageWith_of_open (h : Open s k i op it) (hnew : it.staged = false) (f : Item → State) : stageWith s k i op f = f it := by
  obtain ⟨hlive, -⟩ := id h
  simp [stageWith, hlive, withItem_of_open h, hnew]

/-- Staging change c of the item at index i puts it in its place by admission, marks the item, and does nothing else. -/
theorem onlyStaged_stageVault (s : State) (k : Nat) (hidx : it.idx = i) (c : VaultChange) :
    OnlyStaged s (stageVault s k it c) k i it c := by
  subst hidx
  exact ⟨⟨rfl, staged_modItem s k it.idx⟩, rfl⟩

/-- Scrubbing a ring entry is a write of zeros at the base that the ring has throughout. -/
theorem hostWrite_eq_scrubEntry {w : State} {off n : Nat} (hbase : (w.ring k).base = (s.ring k).base) :
    hostWrite w ((s.ring k).base + 64 * i + off) (zeros n) =
      (scrubEntry w k i off n, (hostWrite w ((s.ring k).base + 64 * i + off) (zeros n)).2) := by
  rw [scrubEntry, hbase]

theorem onlyStaged_stagePlain (h : Open s k i op it) (hnew : it.staged = false) : OnlyStaged s (stagePlain s k i op) k i it {} := by
  obtain ⟨-, hfind, -⟩ := id h
  obtain ⟨-, hidx, -⟩ := findItem_spec hfind
  rw [stagePlain, stageWith_of_open h hnew]
  exact onlyStaged_stageVault s k hidx {}

end

end Sys2Proof.Machine

namespace Sys2Proof.Proofs

open Sys2Proof.Machine Sys2Proof.Claims

/-- Settles O43: each command is one staging, before or after a draw, a read of its block or a write over its key. -/
theorem vaultChangesAreStaged : Obligations.VaultChangesAreStaged := by
  unfold Obligations.VaultChangesAreStaged
  intro s k i it hnew
  have hindex {op : Nat} (h : Open s k i op it) : it.idx = i := by
    obtain ⟨-, hfind, -⟩ := h
    obtain ⟨-, hidx, -⟩ := findItem_spec hfind
    exact hidx
  refine ⟨fun h => ?generate, fun h => ?derive, fun h => ⟨_, rfl, onlyStaged_stagePlain h hnew⟩,
    fun h => ⟨_, rfl, onlyStaged_stagePlain h hnew⟩, fun h => ⟨_, rfl, onlyStaged_stagePlain h hnew⟩,
    fun h => ⟨_, rfl, onlyStaged_stagePlain h hnew⟩, fun h => ⟨_, rfl, onlyStaged_stagePlain h hnew⟩,
    fun s1 r h hread => ?wrapped, fun h => ?clear⟩
  case generate =>
    have hstaged := onlyStaged_stageVault s k (hindex h)
      { attr := sub it.desc 0x18 16, mat := s.draw (algLen (leAt it.desc 0x18 1)), pgen := (it.keys.headD {}).gen }
    exact ⟨_, exec_of_eq rfl (stageWith_of_open h hnew _), hstaged.1, rfl⟩
  case derive => exact ⟨_, exec_of_eq rfl (stageWith_of_open h hnew _), onlyStaged_stageVault s k (hindex h) _⟩
  case wrapped =>
    refine ⟨_, exec_of_eq rfl (stageWith_of_open h hnew _), fun hr => ?err, fun hr => ?poison, fun b hr => ⟨fun hkw => ?broken,
      fun p hkw => ⟨fun hattr hlen => ?valid, fun hbad => ?invalid⟩⟩⟩
    case err =>
      simp only [hread, hr]
      exact onlyStaged_stageVault s1 k (hindex h) _
    case poison =>
      simp only [hread, hr]
      exact onlyStaged_stageVault s1 k (hindex h) _
    case broken =>
      simp only [hread, hr, hkw]
      exact onlyStaged_stageVault s1 k (hindex h) _
    case valid =>
      have hok : (attrOk p 0 && decide (leAt it.desc 0x0B 1 = 24 + algLen (leAt p 0 1))) = true := by simp [hattr, hlen]
      simp only [hread, hr, hkw, hok, if_true]
      exact onlyStaged_stageVault s1 k (hindex h) _
    case invalid =>
      have hfails : (attrOk p 0 && decide (leAt it.desc 0x0B 1 = 24 + algLen (leAt p 0 1))) = false := by
        obtain hattr | hlen := hbad
        · simp [hattr]
        · simp [hlen]
      simp only [hread, hr, hkw, hfails, Bool.false_eq_true, if_false]
      exact onlyStaged_stageVault s1 k (hindex h) _
  case clear =>
    have hstaged := onlyStaged_stageVault s k (hindex h)
      { attr := sub it.desc 0x10 16, mat := sub it.desc 0x20 (algLen (leAt it.desc 0x10 1)), pgen := (it.keys.headD {}).gen }
    obtain ⟨⟨-, hring, -⟩, -⟩ := id hstaged
    exact ⟨_, _, _, exec_of_eq rfl (stageWith_of_open h hnew _), hstaged, hostWrite_eq_scrubEntry (by rw [hring])⟩

end Sys2Proof.Proofs
end

section
/-! PROOFS. The end of takeovers under way: what the frames released to a spare leave as it was (R201, R319). -/

namespace Sys2Proof.Machine

section
variable {a s : State}

theorem holdRxFrame_commitFrame (p : Nat) (f : Bytes) (err : Bool) (h : CommitFrame a s) : CommitFrame a (holdRxFrame s p f err) :=
  .ite (fun _ => State_modPath_commitFrame _ _ _ h) (fun _ => State_evt_commitFrame _ _ _ (State_inc_commitFrame _ _ _ _ h))

theorem deliverRx_commitFrame (p : Nat) (g : Bytes) (heartbeat : Bool) (h : CommitFrame a s) : CommitFrame a (deliverRx s p g heartbeat) :=
  .ite (fun _ => h) (fun _ => State_emit_commitFrame _ _ h)

/-- A received MACsec frame changes counters and entries of its path, and what is delivered. -/
theorem macsecRx_commitFrame (p : Nat) (f : Bytes) (h : CommitFrame a s) : CommitFrame a (macsecRx s p f) := by
  unfold macsecRx
  dsimp only
  refine .ite (fun _ => h) (fun _ => ?_)
  split
  case h_1 => exact State_inc_commitFrame _ _ _ _ h
  case h_2 n _ =>
    split
    case h_1 => exact .ite (fun _ => State_inc_commitFrame _ _ _ _ h) (fun _ => deliverRx_commitFrame _ _ _ (State_inc_commitFrame _ _ _ _ h))
    case h_2 e _ =>
      have hcounted := State_modSae_commitFrame s p false e (fun a => { a with frames := satInc 32 a.frames }) h
      refine .ite (fun _ => hcounted) (fun _ => .ite (fun _ => State_inc_commitFrame _ _ _ _ hcounted) (fun _ => .ite
        (fun _ => deliverRx_commitFrame _ _ _ hcounted) (fun _ => .ite (fun _ => ?good) (fun _ => .ite (fun _ => ?bad) (fun _ => ?kept)))))
      case good => exact deliverRx_commitFrame _ _ _ (State_modPath_commitFrame _ _ _ (State_modSae_commitFrame _ _ _ _ _
        (State_putSt_commitFrame _ _ _ hcounted)))
      case bad => exact State_inc_commitFrame _ _ _ _ hcounted
      case kept => exact deliverRx_commitFrame _ _ _ (State_inc_commitFrame _ _ _ _ hcounted)

theorem lineRx_commitFrame (p : Nat) (f : Bytes) (err : Bool) (h : CommitFrame a s) : CommitFrame a (lineRx s p f err) :=
  have hother : CommitFrame a (s.inc (0x38024 + 0x40 * p) 31 16) := State_inc_commitFrame _ _ _ _ h
  .ite (fun _ => hother) (fun _ => .ite (fun _ => holdRxFrame_commitFrame _ _ _ h) (fun _ => .ite (fun _ => hother) (fun _ => .ite
    (fun _ => State_emit_commitFrame _ _ h) (fun _ => .ite (fun _ => macsecRx_commitFrame _ _ h) (fun _ => .ite
      (fun _ => State_emit_commitFrame _ _ h) (fun _ => hother))))))

theorem endTakeover_commitFrame (p : Nat) (h : CommitFrame a s) : CommitFrame a (endTakeover s p) :=
  .ite (fun _ => h) (fun _ => pump_commitFrame _ _ (pump_commitFrame _ _
    (.foldl _ (State_modPath_commitFrame _ _ _ h) (fun _ _ => lineRx_commitFrame _ _ _))))

theorem endTakeovers_commitFrame (h : CommitFrame a s) : CommitFrame a (endTakeovers s) :=
  endTakeover_commitFrame 1 (endTakeover_commitFrame 0 h)

end

end Sys2Proof.Machine
end

section
/-! PROOFS. Admission: what an owner makes of the head of the ring whose turn it is, and the statement on admission assembled from it
(R76 to R78, R97, R107, R110, R153, R192). -/

namespace Sys2Proof.Machine

open Sys2Proof.Claims

/-! ### Heads of rings (R97, R107) -/

/-- The head leaves its ring as an item with an entry of its completion ring reserved. -/
theorem takeHead_took (s : State) (k : Nat) (it : Item) : Took s (takeHead s k it) k it := by
  have hk : k ≠ 64 + k := by omega
  refine ⟨?taken, ?reserved, fun q hq hcq => ?others, rfl⟩
  case taken =>
    simp only [takeHead, modRing_ring, bump_read_ring, if_neg hk, if_true]
    rfl
  case reserved => simp [takeHead]
  case others => simp [takeHead, hq, hcq]

theorem took_of_rings {s b u : State} {k : Nat} {it : Item} (h : Took s b k it) (hrings : u.rings = b.rings) (hseq : u.seq = b.seq) :
    Took s u k it := by
  have hring : u.ring = b.ring := by
    funext q
    simp only [State.ring, hrings]
  unfold Took
  rw [hring, hseq]
  exact h

section
variable {s : State} {k : Nat} {d : Bytes}

theorem fetchHead_of_fetched (h : (s.ring k).fetched = some d) : fetchHead s k = (s, some d) := by
  simp [fetchHead, h]

/-- A head that was read and finds completion room is considered. -/
theorem withHead_of_ready (h : HeadReady s k d) (f : State → Bytes → State × Bool) : withHead s k f = f s d := by
  obtain ⟨-, -, -, -, hfetched, -, hstalled, hfree⟩ := h
  have hroom : (s.ring (64 + k)).free ≠ 0 := by omega
  simp only [withHead, hstalled, fetchHead_of_fetched hfetched, hroom, Bool.false_eq_true, if_false]

end

/-! ### Turns (R78, R153) -/

section
variable {turn : State → Nat → State × Bool} {s t : State} {lo n rr : Nat}

/-- The turn goes to the ring at the round-robin position where that ring uses it. -/
theorem scanRings_of_first (hlo : lo ≤ rr) (hhi : rr < lo + n) (h : turn s rr = (t, true)) :
    scanRings turn (rrOrder lo n rr) s = (t, some rr) := by
  obtain ⟨m, rfl⟩ : ∃ m, n = m + 1 := ⟨n - 1, by omega⟩
  have hfirst : lo + (rr - lo + 0) % (m + 1) = rr := by
    rw [Nat.mod_eq_of_lt (by omega)]
    omega
  simp only [rrOrder, List.range_succ_eq_map, List.map_cons, hfirst, scanRings, h]

end

/-- The end of takeovers wedges no unit. -/
theorem endTakeovers_wedged (s : State) (t v : Nat) : (endTakeovers (s.at t)).wedged v = s.wedged v := by
  have hflt : (endTakeovers (s.at t)).flt = s.flt := (endTakeovers_commitFrame (.refl (s.at t))).flt
  simp only [State.wedged, hflt]

/-! ### Channels (R76, R78, R110, R192) -/

section
variable {s a s1 : State} {n m k : Nat} {d : Bytes} {keys : List KeyRef} {p : Plan}

/-- A channel with a working role that serves the rings of n works on their heads. -/
theorem workServer_of_role (hserver : a.serverOf n = some m) (hchan : ringChan k = n) (hlo : 1 ≤ (a.chan m).role) (hhi : (a.chan m).role ≤ 3) :
    workServer a k = some m := by
  simp [workServer, hchan, hserver, hlo, hhi]

/-- A server of the rings of n is bound to them. -/
theorem ringsOf_of_server (h : a.serverOf n = some m) : (a.chan m).ringsOf = n := by
  have hfound := List.find?_some h
  simp only [Bool.and_eq_true, decide_eq_true_eq] at hfound
  obtain ⟨⟨⟨hbound, -⟩, -⟩, -⟩ := hfound
  exact hbound

theorem chanTurn_of_ready (hready : HeadReady a k d) (hserver : workServer a k = some m) (hopen : admitOpen a a.tick.t = true)
    (hpower : (a.chan m).powered = true) (htested : (a.chan m).needKat = false) (hpassed : (a.ring k).passed = false) :
    chanTurn a k = chanHead a k m d := by
  obtain ⟨-, hringlive, habort, hflush, hfetched, horder, -⟩ := id hready
  simp [chanTurn, hringlive, habort, hflush, hserver, hopen, hpower, htested, hpassed, fetchHead_of_fetched hfetched, horder,
    withHead_of_ready hready]

theorem chanHead_of_fits (hp : p = planOf a m (dOp d) d) (hform : chanForm a k m d p = stOK) (hcost : costFits a m a.tick.t p.cost = true)
    (hdma : dmaFits a a.tick.t p.rd p.wr = true) (hkeys : chanKeys a k m d = (s1, .ok, keys)) :
    chanHead a k m d = (startItem s1 k m d p keys, true) := by
  subst hp
  simp [chanHead, hform, hcost, hdma, hkeys]

theorem admitChannel_of_turn {b : State} (hserver : a.serverOf n = some m) (hrr : (a.chan m).rr < 3)
    (hturn : chanTurn a (3 * n + (a.chan m).rr) = (b, true)) :
    admitChannel a n = b.modChan m (fun c => { c with rr := ((a.chan m).rr + 1) % 4 }) := by
  have hsource : sourceTurn m a (a.chan m).rr = (b, true) := by
    simp only [sourceTurn, Nat.ne_of_lt hrr, if_false, ringsOf_of_server hserver, hturn]
  have hscan := scanRings_of_first (lo := 0) (n := 4) (Nat.zero_le _) (by omega) hsource
  simp [admitChannel, hserver, channelTurn, hscan, Nat.ne_of_lt hrr]

theorem admitTurn_channel {n : Fin 16} {t : Nat} (hlive : s.halted = false) (ha : a = endTakeovers (s.at t)) (hwedge : a.wedged 5 = false) :
    admitTurn s (.channel n) t = admitChannel a n := by
  subst ha
  simp only [admitTurn, hlive, ← endTakeovers_wedged s t, hwedge, Bool.or_self, Bool.false_eq_true, if_false]

/-- What admission by a channel may change: rings, DMA draws, channels and the number of admission. -/
def AdmitFrame (s u : State) : Prop := u = { s with rings := u.rings, part := u.part, ch := u.ch, seq := u.seq }

theorem admitFrame_takeHead {c : State} (h : AdmitFrame s c) (k : Nat) (it : Item) : AdmitFrame s (takeHead c k it) := by
  unfold AdmitFrame at *
  rw [h]
  rfl

theorem admitFrame_modChan {c : State} (h : AdmitFrame s c) (m : Nat) (f : Chan → Chan) : AdmitFrame s (c.modChan m f) := by
  unfold AdmitFrame at *
  rw [h]
  rfl

/-- The state in which an item's costs have joined the backlogs of channel m and its draws those of the DMA. -/
def charged (s : State) (m : Nat) (p : Plan) : State :=
  let c := addCost s m (pickCore s m) p.cost
  { c with part := { c.part with dmaRd := c.part.dmaRd + p.rd, dmaWr := c.part.dmaWr + p.wr } }

theorem startItem_eq (s : State) (k m : Nat) (d : Bytes) (p : Plan) (keys : List KeyRef) : startItem s k m d p keys =
    takeHead (charged s m p) k
      { desc := d, ch := m, keys := keys, cost := p.cost, core1 := pickCore s m, rd := p.rd, wrd := p.wr, outs := p.outs } := rfl

theorem admitFrame_charged (s : State) (m : Nat) (p : Plan) : AdmitFrame s (charged s m p) := rfl

theorem charged_part (s : State) (m : Nat) (p : Plan) :
    (charged s m p).part = { s.part with dmaRd := s.part.dmaRd + p.rd, dmaWr := s.part.dmaWr + p.wr } := rfl

theorem charged_chan (s : State) (m j : Nat) (p : Plan) : (charged s m p).chan j = (addCost s m (pickCore s m) p.cost).chan j := rfl

@[simp] theorem takeHead_part (s : State) (k : Nat) (it : Item) : (takeHead s k it).part = s.part := rfl
@[simp] theorem takeHead_chan (s : State) (k : Nat) (it : Item) (j : Nat) : (takeHead s k it).chan j = s.chan j := rfl

theorem took_of_charged {u : State} {it : Item} (h : Took (charged s m p) u k it) : Took s u k it := h

/-- A channel's backlogs after a cost joined them: iterated work goes to one of the two cores. -/
theorem addCost_chan (s : State) (m : Nat) (core1 : Bool) (c : Cost) :
    ((addCost s m core1 c).chan m).backP = (s.chan m).backP + c.p ∧ ((addCost s m core1 c).chan m).backG = (s.chan m).backG + c.g ∧
      ((addCost s m core1 c).chan m).back0 + ((addCost s m core1 c).chan m).back1 = (s.chan m).back0 + (s.chan m).back1 + c.i ∧
      ∀ j, j ≠ m → (addCost s m core1 c).chan j = s.chan j := by
  refine ⟨?_, ?_, ?_, fun j hj => ?_⟩
  · simp [addCost]
  · simp [addCost]
  · cases core1 <;> simp [addCost] <;> omega
  · simp [addCost, hj]

/-- After a channel took an item and passed its turn on: the item, its draws, its costs and the turn, and nothing else. -/
theorem startItem_turned (s : State) (k m : Nat) (d : Bytes) (p : Plan) (keys : List KeyRef) (r : Nat) :
    ∃ u, (startItem s k m d p keys).modChan m (fun c => { c with rr := r }) = u ∧
      Took s u k { desc := d, ch := m, keys := keys, cost := p.cost, core1 := pickCore s m, rd := p.rd, wrd := p.wr, outs := p.outs } ∧
      u.part = { s.part with dmaRd := s.part.dmaRd + p.rd, dmaWr := s.part.dmaWr + p.wr } ∧
      (u.chan m).backP = (s.chan m).backP + p.cost.p ∧ (u.chan m).backG = (s.chan m).backG + p.cost.g ∧
      (u.chan m).back0 + (u.chan m).back1 = (s.chan m).back0 + (s.chan m).back1 + p.cost.i ∧
      (u.chan m).rr = r ∧ (∀ j, j ≠ m → u.chan j = s.chan j) ∧
      u = { s with rings := u.rings, part := u.part, ch := u.ch, seq := u.seq } := by
  rw [startItem_eq]
  obtain ⟨hbackP, hbackG, hback, hother⟩ := addCost_chan s m (pickCore s m) p.cost
  refine ⟨_, rfl, took_of_rings (took_of_charged (takeHead_took ..)) (modChan_rings ..) (modChan_seq ..), ?_, ?_, ?_, ?_, ?_,
    fun j hj => ?_, admitFrame_modChan (admitFrame_takeHead (admitFrame_charged s m p) ..) ..⟩
  · rw [modChan_part, takeHead_part, charged_part]
  · rw [modChan_chan, if_pos rfl, takeHead_chan, charged_chan, hbackP]
  · rw [modChan_chan, if_pos rfl, takeHead_chan, charged_chan, hbackG]
  · rw [modChan_chan, if_pos rfl, takeHead_chan, charged_chan, hback]
  · rw [modChan_chan, if_pos rfl]
  · rw [modChan_chan, if_neg hj, takeHead_chan, charged_chan, hother j hj]

end

/-! ### Units (R442, R468, R473) -/

section
variable {s a s1 b : State} {o : Owner} {v k t : Nat} {d : Bytes} {keys : List KeyRef}

theorem unitTurn_of_ready (hready : HeadReady a k d) (hwedge : a.wedged v = false) (hboot : v = 4 → a.nms.ready = true)
    (hidle : unitBusy a v = false) : unitTurn v a k = unitHead a k d := by
  obtain ⟨-, hringlive, habort, -, hfetched, horder, -⟩ := id hready
  have hup : ¬ (v = 4 ∧ a.nms.ready = false) := by
    rintro ⟨hv, hdown⟩
    simp [hboot hv] at hdown
  simp [unitTurn, hringlive, hwedge, habort, hup, fetchHead_of_fetched hfetched, horder, hidle, withHead_of_ready hready]

theorem unitHead_of_form (hform : UnitForm a v k d) (hop : dOp d ≠ 0x78) :
    unitHead a k d = (takeHead a k { desc := d, outs := unitOuts d }, true) := by
  obtain ⟨-, -, hheader, hdefined, hrsvd, hbody⟩ := hform
  simp [unitHead, hheader, hdefined, hrsvd, hbody, hop]

theorem unitHead_of_keyload (hform : UnitForm a v k d) (hop : dOp d = 0x78) (hkey : krKey a d = (s1, .ok, keys)) :
    unitHead a k d = (takeHead s1 k { desc := d, keys := keys, hold := (s1.slot (keyRef d 8).slot).key }, true) := by
  obtain ⟨-, -, hheader, hdefined, hrsvd, hbody⟩ := hform
  rw [hop] at hdefined hrsvd hbody
  simp [unitHead, hheader, hdefined, hrsvd, hbody, hop, hkey]

theorem ready_of_unitTurn (h : UnitTurn a o v k) (hv : v = 4) : a.nms.ready = true := by
  cases h with
  | nms hready => exact hready
  | journal => contradiction
  | krysa => contradiction

/-- A unit whose ring uses the turn takes what that ring took, and its turn passes on. -/
theorem admitTurn_unit (hlive : s.halted = false) (ha : a = endTakeovers (s.at t)) (hwedge : a.wedged 5 = false)
    (hturn : UnitTurn a o v k) (h : unitTurn v a k = (b, true)) :
    (admitTurn s o t).rings = b.rings ∧ (admitTurn s o t).seq = b.seq ∧ TurnPassed b (admitTurn s o t) := by
  subst ha
  have hopen : (s.halted || s.wedged 5) = false := by rw [hlive, ← endTakeovers_wedged s t, hwedge, Bool.or_self]
  cases hturn with
  | nms _ hlo hhi =>
    simp only [admitTurn, hopen, admitUnit, scanRings_of_first (n := 4) hlo (by omega) h, Bool.false_eq_true, if_false]
    exact ⟨rfl, rfl, rfl⟩
  | journal hlo hhi =>
    simp only [admitTurn, hopen, admitUnit, scanRings_of_first (n := 2) hlo (by omega) h, Bool.false_eq_true, if_false]
    exact ⟨rfl, rfl, rfl⟩
  | krysa hlo hhi =>
    simp only [admitTurn, hopen, admitUnit, scanRings_of_first (n := 2) hlo (by omega) h, Bool.false_eq_true, if_false]
    exact ⟨rfl, rfl, rfl⟩

/-- The same where the ring took its head as item it after key checks that left s1. -/
theorem admitTurn_unit_took {it : Item} (hlive : s.halted = false) (ha : a = endTakeovers (s.at t)) (hturn : UnitTurn a o v k)
    (hready : HeadReady a k d) (hform : UnitForm a v k d) (h : unitHead a k d = (takeHead s1 k it, true)) :
    Took s1 (admitTurn s o t) k it ∧ TurnPassed s1 (admitTurn s o t) := by
  obtain ⟨hwedge, -⟩ := id hready
  obtain ⟨hunit, hidle, -⟩ := hform
  obtain ⟨hrings, hseq, hpassed⟩ :=
    admitTurn_unit hlive ha hwedge hturn ((unitTurn_of_ready hready hunit (ready_of_unitTurn hturn) hidle).trans h)
  exact ⟨took_of_rings (takeHead_took s1 k it) hrings hseq, hpassed⟩

end

/-! ### The vault (R153 to R155) -/

section
variable {s a : State} {t k : Nat} {d : Bytes}

theorem vaultTurn_of_ready (hready : HeadReady a k d) (hopen : admitOpen a a.tick.t = true) (hform : vaultForm a d = stOK)
    (hop : dOp d ≠ 0) (hfull : vaultFull a d = false) : vaultTurn a k = (startVault a k d, true) := by
  obtain ⟨-, hringlive, habort, -, hfetched, horder, -⟩ := id hready
  simp [vaultTurn, hringlive, habort, hopen, fetchHead_of_fetched hfetched, horder, hform, hop, hfull, withHead_of_ready hready]

/-- What the vault's admission leaves where it found b: the item taken, and f done to the vault's own records. -/
def vaultTook (b : State) (k : Nat) (it : Item) (f : Vault → Vault) : State := { takeHead b k it with vault := f b.vault }

theorem vaultTook_took (b : State) (k : Nat) (it : Item) (f : Vault → Vault) : Took b (vaultTook b k it f) k it :=
  took_of_rings (takeHead_took b k it) rfl rfl

theorem vaultTook_frame (b : State) (k : Nat) (it : Item) (f : Vault → Vault) : vaultTook b k it f = { b with
    rings := (vaultTook b k it f).rings, vault := (vaultTook b k it f).vault, seq := (vaultTook b k it f).seq } := rfl

/-- A limit of R153 counts a command of its kind. -/
theorem counted_eq_add_b2n (c : Bool) (n : Nat) : (if c then n + 1 else n) = n + b2n c := by
  cases c <;> rfl

/-- The item of a vault command as it is admitted: its keys bound, and what an immediate command holds. -/
def vaultItem (s : State) (d : Bytes) : Item :=
  { desc := d, hold := vaultHold s d, outs := vaultOuts s d
    keys := if dOp d = 0x49 then [bindRef s (keyRef d 8)] else (vaultKeys d).map (fun p => bindRef s p.1.1) }

/-- The vault's counts of R153 with the command d of SQk at index i among them, and its turn at rr. -/
def vaultCounts (d : Bytes) (k i rr : Nat) (v : Vault) : Vault :=
  { v with
    rr := rr, stagedNow := v.stagedNow + b2n (vaultStaging (dOp d)), immediate := v.immediate + b2n (vaultImmediate (dOp d))
    fuseBusy := if dOp d = 0x58 then some (k, i) else v.fuseBusy }

theorem startVault_turned (s : State) (k : Nat) (d : Bytes) (rr : Nat) :
    { startVault s k d with vault := { (startVault s k d).vault with rr := rr } } =
      vaultTook (vaultUse s d) k (vaultItem s d) (vaultCounts d k (s.ring k).head rr) := by
  simp only [startVault, counted_eq_add_b2n]
  rfl

theorem admitTurn_vault {b : State} (hlive : s.halted = false) (ha : a = endTakeovers (s.at t)) (hwedge : a.wedged 5 = false)
    (hlo : 48 ≤ a.vault.rr) (hhi : a.vault.rr < 56) (h : vaultTurn a a.vault.rr = (b, true)) :
    admitTurn s .vault t = { b with vault := { b.vault with rr := rrNext 48 8 a.vault.rr } } := by
  subst ha
  have hopen : (s.halted || s.wedged 5) = false := by rw [hlive, ← endTakeovers_wedged s t, hwedge, Bool.or_self]
  simp only [admitTurn, hopen, admitVault, scanRings_of_first (n := 8) hlo (by omega) h, Bool.false_eq_true, if_false]

end

end Sys2Proof.Machine

namespace Sys2Proof.Proofs

open Sys2Proof.Machine Sys2Proof.Claims

/-- Settles O22: the turn goes to the ring at the round-robin position, whose head passes the checks of its owner and is taken. -/
theorem descriptorsAreAdmitted : Obligations.DescriptorsAreAdmitted := by
  unfold Obligations.DescriptorsAreAdmitted
  refine ⟨?channel, ?unit, ?vault⟩
  case channel =>
    intro s a s1 n t k m d keys p hlive ha hready hserver hrr hk hlo hhi hopen hpower htested hpassed hp hform hcost hdma hkeys
    subst hk
    have hchan : ringChan (3 * n + (a.chan m).rr) = n := by
      simp only [ringChan]
      omega
    have hturn := (chanTurn_of_ready hready (workServer_of_role hserver hchan hlo hhi) hopen hpower htested hpassed).trans
      (chanHead_of_fits hp hform hcost hdma hkeys)
    have hadmit := (admitTurn_channel hlive ha hready.1).trans (admitChannel_of_turn hserver hrr hturn)
    obtain ⟨u, hu, hleaves⟩ := startItem_turned s1 (3 * n + (a.chan m).rr) m d p keys (((a.chan m).rr + 1) % 4)
    exact ⟨u, exec_of_eq rfl (hadmit.trans hu), hleaves⟩
  case unit =>
    intro s a o v t k d hlive ha hturn hready hform
    exact ⟨fun hop => ⟨_, rfl, admitTurn_unit_took hlive ha hturn hready hform (unitHead_of_form hform hop)⟩,
      fun s1 keys hop hkey => ⟨_, rfl, admitTurn_unit_took hlive ha hturn hready hform (unitHead_of_keyload hform hop hkey)⟩⟩
  case vault =>
    intro s a b t d hlive ha hb hlo hhi hready hopen hform hop hfull
    subst hb
    have hadmit := admitTurn_vault hlive ha hready.1 hlo hhi (vaultTurn_of_ready hready hopen hform hop hfull)
    have hnext : rrNext 48 8 a.vault.rr = 48 + (a.vault.rr - 47) % 8 := by
      simp only [rrNext]
      omega
    rw [startVault_turned, hnext] at hadmit
    exact ⟨_, exec_of_eq rfl hadmit, vaultTook_took .., rfl, vaultTook_frame ..⟩

end Sys2Proof.Proofs
end

section
/-! PROOFS. The commit of a due Calends (R71, R81, R438, R526): what none of its steps writes, operation by operation. -/

namespace Sys2Proof.Machine

/-- What the units' work at a commit leaves as it is: the host port's answer, the tick, the writes that wait, the flash, Vigil, the
alarm state, the debug port, and whether the block enters sleep. -/
structure Standing where
  host : HostPort
  tick : Tick
  lateWr : List (Nat × Nat)
  flash : Flash
  vigil : Vigil
  flt : Flt
  tap : TapPort
  entering : Bool

/-- The part of the state that `Standing` names. -/
def State.standing (s : State) : Standing := ⟨s.host, s.tick, s.lateWr, s.flash, s.vigil, s.flt, s.tap, s.boot.entering⟩

/-- The view of a record update. -/
theorem standing_mk
    {pending regs host tick rings vault fuses ch part boot jf mem link portHeld lateWr flash log nodes alm ledger conv krysa nms
      vigil flt sleep tap dram dmErr drbg seq outs} :
    State.standing {
      pending := pending, regs := regs, host := host, tick := tick, rings := rings, vault := vault, fuses := fuses, ch := ch
      part := part, boot := boot, jf := jf, mem := mem, link := link, portHeld := portHeld, lateWr := lateWr, flash := flash
      log := log, nodes := nodes, alm := alm, ledger := ledger, conv := conv, krysa := krysa, nms := nms, vigil := vigil
      flt := flt, sleep := sleep, tap := tap, dram := dram, dmErr := dmErr, drbg := drbg, seq := seq, outs := outs } =
    ⟨host, tick, lateWr, flash, vigil, flt, tap, boot.entering⟩ := rfl

theorem standing_eta (s : State) : Standing.mk s.host s.tick s.lateWr s.flash s.vigil s.flt s.tap s.boot.entering = s.standing := rfl

theorem MemFrame.standing {s t : State} (h : MemFrame s t) : t.standing = s.standing := by
  simp only [State.standing, h.host, h.tick, h.lateWr, h.flash, h.vigil, h.flt, h.tap, h.boot]

/-- A loop of steps that keep the view. -/
theorem foldl_standing {β : Type} {f : State → β → State} (h : ∀ s x, (f s x).standing = s.standing) (l : List β) (s : State) :
    (l.foldl f s).standing = s.standing := by
  induction l generalizing s with
  | nil => rfl
  | cons x l ih => exact (ih _).trans (h s x)

/-- The same of a loop that carries more than the state. -/
theorem foldl_fst_standing {β γ : Type} {f : State × γ → β → State × γ} (h : ∀ p x, (f p x).1.standing = p.1.standing) (l : List β)
    (p : State × γ) : (l.foldl f p).1.standing = p.1.standing := by
  induction l generalizing p with
  | nil => rfl
  | cons x l ih => exact (ih _).trans (h p x)

/-- Both branches of a pair. -/
theorem ite_fst_standing {β : Type} {s : State} {x y : State × β} {c : Prop} [Decidable c] (hx : x.1.standing = s.standing)
    (hy : y.1.standing = s.standing) : (if c then x else y).1.standing = s.standing := by
  split
  · exact hx
  · exact hy

end Sys2Proof.Machine
end

section
/-! PROOFS. The view of a commit, operation by operation in the order they call each other: memory and its channels, keys and counters,
then what the units do at a commit, then what the writes that waited and the alarm they may raise do (R20, R81, R82, R501). -/

namespace Sys2Proof.Machine

/-! ### Memory, keys, counters and the log -/

theorem State_putSt_standing (s : State) (off v : Nat) : (s.putSt off v).standing = s.standing :=
  (State_putSt_memFrame s off v (.refl _)).standing

theorem State_putStf_standing (s : State) (off hi lo v : Nat) :
    (s.putStf off hi lo v).standing = s.standing :=
  (State_putStf_memFrame s off hi lo v (.refl _)).standing

theorem State_drew_standing (s : State) (n : Nat) : (s.drew n).standing = s.standing :=
  (State_drew_memFrame s n (.refl _)).standing

theorem State_putWr_standing (s : State) (off v : Nat) : (s.putWr off v).standing = s.standing :=
  (State_putWr_memFrame s off v (.refl _)).standing

theorem State_evt_standing (s : State) (off n : Nat) : (s.evt off n).standing = s.standing :=
  (State_evt_memFrame s off n (.refl _)).standing

theorem State_modJob_standing (s : State) (j : Nat) (f : Job → Job) : (s.modJob j f).standing = s.standing :=
  (State_modJob_memFrame s j f (.refl _)).standing

theorem State_modRegion_standing (s : State) (n : Nat) (f : Region → Region) : (s.modRegion n f).standing = s.standing :=
  (State_modRegion_memFrame s n f (.refl _)).standing

theorem State_modMchan_standing (s : State) (n : Nat) (f : MemChan → MemChan) : (s.modMchan n f).standing = s.standing :=
  (State_modMchan_memFrame s n f (.refl _)).standing

theorem dropMeta_standing (s : State) (q : Nat → Bool) : (dropMeta s q).standing = s.standing :=
  (dropMeta_memFrame s q (.refl _)).standing

theorem setRoot_standing (s : State) (t h v : Nat) : (setRoot s t h v).standing = s.standing :=
  (setRoot_memFrame s t h v (.refl _)).standing

theorem dramPut_standing {s : State} (ad : Nat) (b : Bytes) : (dramPut s ad b).standing = s.standing :=
  (dramPut_memFrame (.refl _) ad b).standing

theorem State_emit_standing (s : State) (o : Out) : (s.emit o).standing = s.standing :=
  (State_emit_memFrame s o (.refl _)).standing

theorem answer_standing (s : State) (t : Txn) (st : Nat) (data : Bytes) : (answer s t st data).standing = s.standing :=
  (answer_memFrame s t st data (.refl _)).standing

theorem State_inc_standing (s : State) (off hi lo : Nat) : (s.inc off hi lo).standing = s.standing :=
  (State_inc_memFrame s off hi lo (.refl _)).standing

theorem State_logPut_standing (s : State) (ev cls : Nat) (data : Bytes) :
    (s.logPut ev cls data).standing = s.standing :=
  (State_logPut_memFrame s ev cls data (.refl _)).standing

theorem countLost_standing (s : State) (n grp : Nat) : (countLost s n grp).standing = s.standing :=
  (countLost_memFrame s n grp (.refl _)).standing

theorem countSubtree_standing (s : State) (n a : Nat) : (countSubtree s n a).standing = s.standing :=
  (countSubtree_memFrame s n a (.refl _)).standing

theorem State_modChan_standing (s : State) (n : Nat) (f : Chan → Chan) : (s.modChan n f).standing = s.standing :=
  (State_modChan_memFrame s n f (.refl _)).standing

theorem State_modSlot_standing (s : State) (n : Nat) (f : Slot → Slot) : (s.modSlot n f).standing = s.standing :=
  (State_modSlot_memFrame s n f (.refl _)).standing

theorem State_jPut_standing (s : State) (r : JRec) : (s.jPut r).standing = s.standing :=
  (State_jPut_memFrame s r (.refl _)).standing

theorem queueKey_standing (s : State) (n : Nat) (urgent : Bool) : (queueKey s n urgent).standing = s.standing :=
  (queueKey_memFrame s n urgent (.refl _)).standing

theorem memKey_standing (s : State) (ch : Nat) (r : KeyRef) (data : Bool) : (memKey s ch r data).1.standing = s.standing :=
  (memKey_memFrame s ch r data (.refl _)).standing

theorem evictLine_standing (s : State) (ch : Nat) (l : CLine) : (evictLine s ch l).standing = s.standing :=
  (evictLine_memFrame s ch l (.refl _)).standing

theorem evictNode_standing (f : Nat) (s : State) (ch : Nat) (n : TNode) : (evictNode f s ch n).standing = s.standing :=
  (evictNode_memFrame f s ch n (.refl _)).standing

theorem serve_standing (s : State) (t : Txn) : (serve s t).standing = s.standing :=
  (serve_memFrame s t (.refl _)).standing

theorem settleWhere_standing (s : State) (p : Txn → Bool) : (settleWhere s p).standing = s.standing :=
  (settleWhere_memFrame s p (.refl _)).standing

theorem keyFailed_standing (s : State) (kid : Nat) (data : Bool) (job : Option (Nat × Bool)) :
    (keyFailed s kid data job).standing = s.standing :=
  (keyFailed_memFrame s kid data job (.refl _)).standing

theorem accept_standing (s : State) (addr cls : Nat) (write : Bool) :
    (accept s addr cls write).1.standing = s.standing :=
  (accept_memFrame s addr cls write (.refl _)).standing

theorem denyCount_standing (s : State) (kid cls reason : Nat) :
    (denyCount s kid cls reason).standing = s.standing :=
  (denyCount_memFrame s kid cls reason (.refl _)).standing

theorem hostWrite_standing (s : State) (addr : Nat) (b : Bytes) : (hostWrite s addr b).1.standing = s.standing :=
  (hostWrite_memFrame s addr b (.refl _)).standing

theorem zeroOuts_standing (s : State) (outs : List (Nat × Nat)) : (zeroOuts s outs).standing = s.standing :=
  (zeroOuts_memFrame s outs (.refl _)).standing

theorem hostRead_standing (s : State) (addr n : Nat) : (hostRead s addr n).1.standing = s.standing :=
  (hostRead_memFrame s addr n (.refl _)).standing

/-! ### The units at a commit -/

theorem closeBudgets_standing (s : State) : (closeBudgets s).standing = s.standing := by
  simp only [closeBudgets, ↓foldl_standing, implies_true, ↓State_putSt_standing, ↓State_putStf_standing]

theorem State_modAlm_standing (s : State) (f : Almanac → Almanac) : (s.modAlm f).standing = s.standing := rfl

theorem commitAlm_standing (s : State) : (commitAlm s).standing = s.standing := by
  simp only [commitAlm, ↓apply_ite State.standing, ite_self, ↓State_drew_standing, ↓State_evt_standing, ↓State_modAlm_standing]

theorem commitJob_standing (s : State) (c : Nat × Job) : (commitJob s c).standing = s.standing := by
  simp only [commitJob, standing_mk, standing_eta, ↓apply_ite State.standing, ite_self, ↓State_evt_standing,
    ↓State_modJob_standing, ↓State_modRegion_standing]

theorem clearRoots_standing (s : State) (t : Nat) : (clearRoots s t).standing = s.standing := by
  simp only [clearRoots, ↓foldl_standing, implies_true, ↓setRoot_standing]

theorem initRegion_standing (s : State) (n : Nat) : (initRegion s n).standing = s.standing := by
  simp only [initRegion, standing_mk, standing_eta, ↓apply_ite State.standing, ite_self, ↓State_modRegion_standing,
    ↓clearRoots_standing]

theorem rebuildEnd_standing (s : State) (j : Nat) : (rebuildEnd s j).standing = s.standing := by
  unfold rebuildEnd
  grind only [standing_mk, standing_eta, State_evt_standing, State_modJob_standing, dropMeta_standing, initRegion_standing]

theorem jobCalends_standing (s : State) (j : Nat) : (jobCalends s j).standing = s.standing := by
  unfold jobCalends
  grind only [standing_mk, standing_eta, State_evt_standing, State_modJob_standing, State_modRegion_standing, rebuildEnd_standing]

theorem State_modJf_standing (s : State) (f : Journal → Journal) : (s.modJf f).standing = s.standing := rfl

theorem promote_standing (s : State) : (promote s).standing = s.standing := by
  unfold promote
  grind only [State_modJf_standing]

theorem takeLease_standing (s : State) (n : Nat) : (takeLease s n).standing = s.standing := by
  simp only [takeLease, ↓apply_ite State.standing, ite_self, ↓State_evt_standing, ↓State_jPut_standing, ↓State_modJf_standing,
    ↓promote_standing]

theorem requestLease_standing (s : State) : (requestLease s).standing = s.standing := by
  simp only [requestLease, standing_mk, standing_eta, ↓apply_ite State.standing, ite_self, ↓State_evt_standing, ↓takeLease_standing]

theorem settleAll_standing (s : State) : (settleAll s).standing = s.standing := by simp only [settleAll, ↓settleWhere_standing]

theorem commitEquinox_standing (s : State) : (commitEquinox s).standing = s.standing := by
  simp only [commitEquinox, standing_mk, standing_eta, ↓apply_ite State.standing, ↓foldl_standing, implies_true, ite_self,
    ↓commitJob_standing, ↓jobCalends_standing, ↓settleAll_standing]

theorem State_modSleep_standing (s : State) (f : Sleep → Sleep) : (s.modSleep f).standing = s.standing := rfl

theorem State_putFc_standing (s : State) (off v : Nat) : (s.putFc off v).standing = s.standing := rfl

theorem sleepRefuse_standing (s : State) (err : Nat) : (sleepRefuse s err).standing = s.standing := rfl

theorem commitImage_standing (s : State) : (commitImage s).standing = s.standing := by
  simp only [commitImage, ↓apply_ite State.standing, ite_self, ↓State_modSleep_standing, ↓State_putFc_standing,
    ↓sleepRefuse_standing]

theorem commitTier_standing (s : State) (c : Nat × TierEntry) : (commitTier s c).standing = s.standing := by
  simp only [commitTier, standing_mk, standing_eta, ↓apply_ite State.standing, ite_self, ↓State_evt_standing, ↓State_putSt_standing]

theorem commitTiers_standing (s : State) : (commitTiers s).standing = s.standing := by
  simp only [commitTiers, standing_mk, standing_eta, ↓foldl_standing, implies_true, ↓commitTier_standing]

theorem queueTomb_standing (s : State) (n : Nat) (x : Slot) : (queueTomb s n x).standing = s.standing := by
  simp only [queueTomb, ↓apply_ite State.standing, ite_self, ↓State_jPut_standing]

theorem eraseSlot_standing (s : State) (n : Nat) : (eraseSlot s n).standing = s.standing := by
  simp only [eraseSlot, ↓State_modSlot_standing, ↓queueTomb_standing]

theorem State_modRing_standing (s : State) (r : Nat) (f : Ring → Ring) : (s.modRing r f).standing = s.standing := rfl

theorem modItem_standing (s : State) (k i : Nat) (f : Item → Item) : (modItem s k i f).standing = s.standing := rfl

theorem releaseCost_standing (s : State) (it : Item) : (releaseCost s it).standing = s.standing := by
  simp only [releaseCost, standing_mk, standing_eta, ↓apply_ite State.standing, ite_self, ↓State_modChan_standing]

theorem finish_standing (s : State) (k i status : Nat) (result : Bytes) (zero : Bool) :
    (finish s k i status result zero).standing = s.standing := by
  unfold finish
  grind only [modItem_standing, releaseCost_standing, zeroOuts_standing]

theorem setMaterial_standing (s : State) (n : Nat) (key : Bytes) : (setMaterial s n key).standing = s.standing := rfl

theorem install_standing (s : State) (d : Bytes) (c : VaultChange) : (install s d c).standing = s.standing := by
  simp only [install, ↓State_modSlot_standing, ↓queueKey_standing, ↓setMaterial_standing]

theorem installRingKey_standing (s : State) (c : VaultChange) : (installRingKey s c).standing = s.standing := by
  simp only [installRingKey, ↓State_modSlot_standing, ↓queueKey_standing, ↓setMaterial_standing]

theorem renew_standing (s : State) (n : Nat) : (renew s n).standing = s.standing := by
  unfold renew
  grind only [State_drew_standing, State_modSlot_standing, queueKey_standing, queueTomb_standing, setMaterial_standing]

theorem setLimit_standing (s : State) (d : Bytes) : (setLimit s d).standing = s.standing := by
  simp only [setLimit, ↓apply_ite State.standing, ite_self, ↓State_evt_standing, ↓State_modSlot_standing, ↓queueKey_standing]

theorem setPersist_standing (s : State) (d : Bytes) : (setPersist s d).standing = s.standing := by
  simp only [setPersist, ↓apply_ite State.standing, ite_self, ↓State_modSlot_standing, ↓queueKey_standing, ↓queueTomb_standing]

theorem commitVaultOne_standing (p : State × VaultShadow) (c : VaultChange) : (commitVaultOne p c).1.standing = p.1.standing := by
  obtain ⟨s, v⟩ := p
  have fin (x : State) (st n m : Nat) (h : x.standing = s.standing) :
      (finish x c.ring c.idx st (vaultResult x n m 0) false).standing = s.standing := (finish_standing ..).trans h
  simp only [commitVaultOne]
  split
  · exact (setMaterial_standing ..).trans (State_modSlot_standing ..)
  split
  · rfl
  simp only [↓apply_ite Prod.fst, ↓apply_ite State.standing, ↓fin, ↓State_logPut_standing, standing_mk, standing_eta,
    ↓installRingKey_standing, ↓install_standing, ↓renew_standing, ↓eraseSlot_standing, ↓setLimit_standing, ↓setPersist_standing,
    ite_self]

theorem commitVault_standing (s0 : State) : (commitVault s0).standing = s0.standing := by
  simp only [commitVault, standing_mk, standing_eta, ↓apply_ite State.standing, ↓foldl_standing, ↓foldl_fst_standing,
    implies_true, ite_self, ↓commitVaultOne_standing, ↓queueTomb_standing]

theorem countCut_standing (s : State) (n : Nat) : (countCut s n).standing = s.standing := by
  simp only [countCut, ↓apply_ite State.standing, ite_self, ↓State_evt_standing, ↓State_inc_standing]

theorem dropCost_standing (s : State) (n : Nat) (core1 : Bool) (c : Cost) : (dropCost s n core1 c).standing = s.standing := rfl

theorem State_modConvs_standing (s : State) (f : Convs → Convs) : (s.modConvs f).standing = s.standing := rfl

theorem freeEngine_standing (s : State) (i : Nat) : (freeEngine s i).standing = s.standing := by
  simp only [freeEngine, ↓apply_ite State.standing, ite_self, ↓State_modConvs_standing, ↓State_modRing_standing]

theorem stopEngine_standing (s : State) (i : Nat) : (stopEngine s i).standing = s.standing := by
  simp only [stopEngine, ↓dropCost_standing, ↓freeEngine_standing]

theorem endStep_standing (s : State) (ch e : Nat) : (endStep s ch e).standing = s.standing := by
  simp only [endStep, ↓stopEngine_standing]

theorem cutEngines_standing (s : State) : (cutEngines s).standing = s.standing := by
  simp only [cutEngines, ↓foldl_standing, implies_true, ↓endStep_standing]

theorem endItem_standing (s : State) (x : Nat × Item) : (endItem s x).standing = s.standing := by
  simp only [endItem, ↓countCut_standing, ↓finish_standing]

theorem State_incBy_standing (s : State) (off hi lo d : Nat) : (s.incBy off hi lo d).standing = s.standing := rfl

theorem State_modPath_standing (s : State) (p : Nat) (f : Path → Path) : (s.modPath p f).standing = s.standing := rfl

theorem notGood_standing (s : State) (p : Nat) : (notGood s p).standing = s.standing := rfl

theorem grantEvents_standing (s : State) (cq : Nat) : (grantEvents s cq).standing = s.standing := rfl

theorem noteWait_standing (s : State) (source : Nat) : (noteWait s source).standing = s.standing := by
  simp only [noteWait, ↓apply_ite State.standing, ite_self, ↓State_evt_standing]

theorem unreserve_standing (s : State) (k : Nat) : (unreserve s k).standing = s.standing := rfl

theorem raiseEvent_standing (s : State) (cq : Nat) (e : SrcEvt) : (raiseEvent s cq e).standing = s.standing := by
  simp only [raiseEvent, ↓apply_ite State.standing, ite_self, ↓State_modRing_standing, ↓grantEvents_standing, ↓noteWait_standing,
    ↓unreserve_standing]

theorem raiseOnce_standing (s : State) (cq : Nat) (e : SrcEvt) : (raiseOnce s cq e).standing = s.standing := by
  simp only [raiseOnce, ↓apply_ite State.standing, ite_self, ↓State_modRing_standing, ↓raiseEvent_standing]

theorem linkEvent_standing (s : State) (p : Nat) (tx : Bool) (code status key : Nat) (result : Bytes) :
    (linkEvent s p tx code status key result).standing = s.standing := by
  unfold linkEvent
  grind only [raiseOnce_standing]

theorem pathEvent_standing (s : State) (p code flag : Nat) : (pathEvent s p code flag).standing = s.standing := by
  simp only [pathEvent, ↓State_evt_standing, ↓linkEvent_standing]

theorem toDown_standing (s : State) (p : Nat) : (toDown s p).standing = s.standing := rfl

theorem failPath_standing (s : State) (p : Nat) : (failPath s p).standing = s.standing := by
  simp only [failPath, ↓apply_ite State.standing, ite_self, ↓State_inc_standing, ↓State_logPut_standing, ↓State_modPath_standing,
    ↓notGood_standing, ↓pathEvent_standing, ↓toDown_standing]

theorem State_modSae_standing (s : State) (p : Nat) (tx : Bool) (e : Nat) (f : SaEntry → SaEntry) :
    (s.modSae p tx e f).standing = s.standing := rfl

theorem saEvent_standing (s : State) (p : Nat) (tx : Bool) (e code status flag : Nat) :
    (saEvent s p tx e code status flag).standing = s.standing := by simp only [saEvent, ↓State_evt_standing, ↓linkEvent_standing]

theorem killEntry_standing (s : State) (p : Nat) (tx : Bool) (e status : Nat) :
    (killEntry s p tx e status).standing = s.standing := by simp only [killEntry, ↓State_modSae_standing, ↓saEvent_standing]

theorem takeoverSas_standing (s : State) (p : Nat) (tx : Bool) (n : Nat) : (takeoverSas s p tx n).standing = s.standing := by
  simp only [takeoverSas, ↓apply_ite State.standing, ↓foldl_standing, implies_true, ite_self, ↓killEntry_standing]

theorem linkFence_standing (s : State) (p : Nat) (tx : Bool) (spare : Option Nat) :
    (linkFence s p tx spare).standing = s.standing := by
  unfold linkFence
  grind only [State_incBy_standing, State_modPath_standing, failPath_standing, notGood_standing, takeoverSas_standing]

theorem almClose_standing (s : State) (b : Bytes) (e mj mn : Nat) (pt : Bytes) :
    (almClose s b e mj mn pt).1.standing = s.standing := rfl

theorem almDropGroup_standing (s : State) (j : Nat) : (almDropGroup s j).standing = s.standing := rfl

theorem touchAlm_standing (s : State) (k i : Nat) (f : AlmNode → AlmNode) : (touchAlm s k i f).standing = s.standing := by
  unfold touchAlm
  grind only [State_modAlm_standing]

theorem almSetTag_standing (s : State) (j : Nat) (b : Bytes) : (almSetTag s j b).standing = s.standing := by
  simp only [almSetTag, ↓touchAlm_standing]

theorem almCe_standing (s : State) : (almCe s).standing = s.standing := rfl

theorem setAlmSeal_standing (s : State) (k i v : Nat) : (setAlmSeal s k i v).standing = s.standing := by
  simp only [setAlmSeal, ↓apply_ite State.standing, ite_self, ↓State_modAlm_standing, ↓touchAlm_standing]

theorem almEvict_standing (f : Nat) (s : State) (n : AlmNode) : (almEvict f s n).standing = s.standing := by
  induction f generalizing s n with
  | zero => rfl
  | succ f ih =>
    have h (l : List AlmNode) : (if n.level = 0 then s else l.foldl (almEvict f) s).standing = s.standing := by
      split
      · rfl
      · exact foldl_standing ih l s
    unfold almEvict
    grind [State_modAlm_standing, setAlmSeal_standing, dramPut_standing]

theorem almInsert_standing (s : State) (j : Nat) (n : AlmNode) : (almInsert s j n).standing = s.standing := by
  unfold almInsert
  grind only [State_modAlm_standing, almEvict_standing]

theorem almLevel_standing (s : State) (j k : Nat) : (almLevel s j k).1.standing = s.standing := by
  unfold almLevel
  grind only [almCe_standing, almInsert_standing, setAlmSeal_standing, touchAlm_standing]

theorem almTag_standing (s : State) (j : Nat) : (almTag s j).1.standing = s.standing := by
  have h : ∀ (p : State × Option AlmStop) k, (match p.2 with
      | some _ => p
      | none => almLevel p.1 j k).1.standing = p.1.standing := fun p k => by
    split
    · rfl
    · exact almLevel_standing ..
  unfold almTag
  grind [foldl_fst_standing h]

theorem almWrap_standing (s : State) (j e : Nat) (b pt : Bytes) : (almWrap s j e b pt).standing = s.standing := by
  simp only [almWrap]
  split
  · rw [almDropGroup_standing, almSetTag_standing]
  · refine (almSetTag_standing ..).trans (foldl_fst_standing (fun p i => ?_) _ _)
    grind [almClose_standing]

theorem almFlush_standing (s : State) (c : AlmCached) : (almFlush s c).1.standing = s.standing := by
  unfold almFlush
  grind only [almClose_standing, almDropGroup_standing, almSetTag_standing, almTag_standing, almWrap_standing]

theorem almCache_standing (s : State) (c : AlmCached) : (almCache s c).standing = s.standing := by
  unfold almCache
  grind only [State_modAlm_standing, almFlush_standing]

theorem almFetch_standing (s : State) (e : Nat) : (almFetch s e).1.standing = s.standing := by
  unfold almFetch
  grind only [State_modAlm_standing, almCache_standing, almCe_standing, almDropGroup_standing, almTag_standing]

theorem almRead_standing (s : State) (e : Nat) : (almRead s e).1.standing = s.standing := by
  unfold almRead
  grind only [almFetch_standing]

theorem almGet_standing (s : State) (node : Nat) : (almGet s node).1.standing = s.standing := by
  unfold almGet
  grind only [almRead_standing]

theorem almWrite_standing (s : State) (e : Nat) (x : AlmEntry) : (almWrite s e x).standing = s.standing := by
  simp only [almWrite, ↓apply_ite State.standing, ite_self, ↓State_modAlm_standing, ↓almCache_standing]

theorem almGiveUp_standing (s : State) (node : Nat) : (almGiveUp s node).standing = s.standing := by
  unfold almGiveUp
  grind only [almGet_standing, almWrite_standing]

theorem clearConv_standing (s : State) (id : Nat) : (clearConv s id).standing = s.standing := rfl

theorem convEvent_standing (s : State) (cq tag code key : Nat) (result : Bytes) :
    (convEvent s cq tag code key result).standing = s.standing := by
  simp only [convEvent, ↓apply_ite State.standing, ite_self, ↓State_modConvs_standing, ↓raiseEvent_standing, ↓raiseOnce_standing]

theorem endConv_standing (s : State) (id outcome detail : Nat) (implicit : Bool) :
    (endConv s id outcome detail implicit).standing = s.standing := by
  simp only [endConv, ↓apply_ite State.standing, ite_self, ↓State_evt_standing, ↓State_inc_standing, ↓almGiveUp_standing,
    ↓clearConv_standing, ↓convEvent_standing]

theorem loseConvs_standing (s : State) (ch : Nat) : (loseConvs s ch).standing = s.standing := by
  simp only [loseConvs, ↓foldl_standing, implies_true, ↓State_modConvs_standing, ↓endConv_standing, ↓stopEngine_standing]

theorem memFence_standing (s : State) (ch : Nat) : (memFence s ch).standing = s.standing := by
  simp only [memFence, ↓foldl_standing, implies_true, ↓State_modMchan_standing, ↓countLost_standing, ↓countSubtree_standing,
    ↓dramPut_standing, ↓setRoot_standing]

theorem redistribute_standing (s : State) (n : Nat) : (redistribute s n).standing = s.standing := by
  simp only [redistribute, standing_mk, standing_eta, ↓apply_ite State.standing, ite_self]

theorem dropTxn_standing (s : State) (t : Txn) (reason : Nat) : (dropTxn s t reason).standing = s.standing := by
  simp only [dropTxn, standing_mk, standing_eta, ↓answer_standing, ↓denyCount_standing]

theorem reissueOne_standing (ch : Nat) (s : State) (t : Txn) : (reissueOne ch s t).standing = s.standing := by
  unfold reissueOne
  grind only [standing_mk, standing_eta, dropTxn_standing, keyFailed_standing, memKey_standing]

theorem reissue_standing (s : State) (ch : Nat) : (reissue s ch).standing = s.standing := by
  simp only [reissue, ↓foldl_standing, implies_true, ↓reissueOne_standing]

theorem takeOver_standing (s : State) (n m : Nat) : (takeOver s n m).standing = s.standing := by
  simp only [takeOver, standing_mk, standing_eta, ↓State_evt_standing, ↓State_logPut_standing, ↓State_modChan_standing,
    ↓State_putWr_standing]

theorem fence_standing (s : State) (n cause : Nat) : (fence s n cause).standing = s.standing := by
  simp only [fence]
  (repeat' split) <;> simp only [standing_mk, standing_eta, ↓State_evt_standing, ↓State_logPut_standing, ↓State_modChan_standing,
    ↓linkFence_standing, ↓loseConvs_standing, ↓memFence_standing, ↓redistribute_standing, ↓reissue_standing, ↓takeOver_standing]

theorem fenceCuts_standing (s : State) (cuts : List Nat) : (fenceCuts s cuts).standing = s.standing := by
  simp only [fenceCuts, ↓foldl_standing, implies_true, ↓fence_standing]

theorem noteCut_standing (cuts : List Nat) (s : State) (n : Nat) : (noteCut cuts s n).standing = s.standing := rfl

theorem stageVault_standing (s : State) (k : Nat) (it : Item) (c : VaultChange) : (stageVault s k it c).standing = s.standing := rfl

theorem withItem_standing (s : State) (k i op : Nat) (f : Item → State) (h : ∀ y, (f y).standing = s.standing) :
    (withItem s k i op f).standing = s.standing := by
  unfold withItem
  grind only

theorem stageWith_standing (s : State) (k i op : Nat) (f : Item → State) (h : ∀ y, (f y).standing = s.standing) :
    (stageWith s k i op f).standing = s.standing := by
  unfold stageWith
  grind only [withItem_standing]

theorem derive_standing (s : State) (k i : Nat) : (derive s k i).standing = s.standing := by
  unfold derive
  grind only [stageVault_standing, stageWith_standing]

theorem generate_standing (s : State) (k i : Nat) : (generate s k i).standing = s.standing := by
  simp only [generate, implies_true, ↓State_drew_standing, ↓stageVault_standing, ↓stageWith_standing]

theorem scrubEntry_standing (s : State) (k i off n : Nat) : (scrubEntry s k i off n).standing = s.standing := by
  simp only [scrubEntry, ↓hostWrite_standing]

theorem importClear_standing (s : State) (k i : Nat) : (importClear s k i).standing = s.standing := by
  simp only [importClear, implies_true, ↓scrubEntry_standing, ↓stageVault_standing, ↓stageWith_standing]

theorem importWrapped_standing (s : State) (k i : Nat) : (importWrapped s k i).standing = s.standing := by
  unfold importWrapped
  grind only [hostRead_standing, stageVault_standing, stageWith_standing]

theorem krKeyload_standing (s : State) (k i : Nat) : (krKeyload s k i).standing = s.standing := by
  unfold krKeyload
  grind only [finish_standing, hostRead_standing, stageVault_standing, withItem_standing]

theorem stageLink_standing (s : State) (k i op : Nat) : (stageLink s k i op).standing = s.standing := by
  unfold stageLink
  grind only [standing_mk, standing_eta, modItem_standing, withItem_standing]

theorem stagePlain_standing (s : State) (k i op : Nat) : (stagePlain s k i op).standing = s.standing := by
  unfold stagePlain
  grind only [stageVault_standing, stageWith_standing]

theorem stageOne_standing (s : State) (k : Nat) (it : Item) : (stageOne s k it).standing = s.standing := by
  simp only [stageOne, ↓apply_ite State.standing, ite_self, ↓derive_standing, ↓generate_standing, ↓importClear_standing,
    ↓importWrapped_standing, ↓krKeyload_standing, ↓stageLink_standing, ↓stagePlain_standing]

theorem stageAll_standing (s : State) : (stageAll s).standing = s.standing := by
  simp only [stageAll, ↓foldl_standing, implies_true, ↓stageOne_standing]

theorem commitKeys_standing (s : State) : (commitKeys s).standing = s.standing := by
  simp only [commitKeys, fenceCuts_standing, foldl_standing (noteCut_standing _), foldl_standing countCut_standing,
    foldl_standing endItem_standing, commitTiers_standing, commitVault_standing, cutEngines_standing, stageAll_standing]

theorem State_modRxsc_standing (s : State) (p n : Nat) (f : RxSc → RxSc) : (s.modRxsc p n f).standing = s.standing := rfl

theorem State_modSecy_standing (s : State) (p n : Nat) (f : SecY → SecY) : (s.modSecy p n f).standing = s.standing := rfl

theorem commitActivate_standing (s : State) (p : Nat) (tx : Bool) (d : Bytes) :
    (commitActivate s p tx d).1.standing = s.standing := by
  have h (n : Nat) (f : RxSc → RxSc) (e : Nat) (g : SaEntry → SaEntry) :
      ((s.modSae p tx e g).modRxsc p n f).standing = s.standing := (State_modRxsc_standing ..).trans (State_modSae_standing ..)
  refine ite_fst_standing rfl (ite_fst_standing ((State_modSecy_standing ..).trans ?_) (ite_fst_standing (h ..)
    ((foldl_standing (fun s a => ?_) _ _).trans (h ..))))
  · grind [State_modSae_standing]
  · grind [State_modSae_standing]

theorem commitInstall_standing (s : State) (p : Nat) (tx : Bool) (r : KeyRef) (d : Bytes) :
    (commitInstall s p tx r d).1.standing = s.standing := by
  simp only [commitInstall, ↓apply_ite State.standing, ↓apply_ite Prod.fst, ite_self, ↓State_drew_standing, ↓State_modSae_standing]

theorem retireEntry_standing (s : State) (p : Nat) (tx : Bool) (e : Nat) : (retireEntry s p tx e).standing = s.standing := by
  unfold retireEntry
  grind only [State_modRxsc_standing, State_modSae_standing, State_modSecy_standing]

theorem retireSc_standing (s : State) (p : Nat) (tx : Bool) (ans : List (Option Nat)) :
    (retireSc s p tx ans).standing = s.standing := by
  refine foldl_standing (fun s a => ?_) _ s
  cases a with
  | none => rfl
  | some e => exact retireEntry_standing ..

theorem commitRxsc_standing (s : State) (p : Nat) (d : Bytes) : (commitRxsc s p d).1.standing = s.standing := by
  simp only [commitRxsc, ↓apply_ite State.standing, ↓apply_ite Prod.fst, ite_self, ↓State_modRxsc_standing, ↓retireSc_standing]

theorem commitTxsc_standing (s : State) (p : Nat) (d : Bytes) : (commitTxsc s p d).1.standing = s.standing := by
  simp only [commitTxsc, ↓apply_ite State.standing, ↓apply_ite Prod.fst, ite_self, ↓State_modSecy_standing, ↓retireSc_standing]

theorem commitLinkOne_standing (s : State) (c : LinkChange) (r : KeyRef) (d : Bytes) :
    (commitLinkOne s c r d).1.standing = s.standing := by
  unfold commitLinkOne
  grind only [State_modSae_standing, commitActivate_standing, commitInstall_standing, commitRxsc_standing, commitTxsc_standing,
    retireEntry_standing]

theorem commitLinkPath_standing (s : State) (p : Nat) : (commitLinkPath s p).standing = s.standing := by
  refine foldl_standing (fun s c => ?_) _ s
  grind [finish_standing, commitLinkOne_standing]

theorem drainTx_standing (s : State) (q : Nat) : (drainTx s q).standing = s.standing := by
  simp only [drainTx, ↓apply_ite State.standing, ↓foldl_standing, implies_true, ite_self, ↓State_emit_standing,
    ↓State_modPath_standing]

theorem offerTx_standing (s : State) (q x : Nat) (f : Bytes) : (offerTx s q x f).standing = s.standing := by
  simp only [offerTx, ↓State_modPath_standing, ↓drainTx_standing]

theorem secureOn_standing (s : State) (x q n : Nat) (f : Bytes) : (secureOn s x q n f).standing = s.standing := by
  unfold secureOn
  grind only [State_inc_standing, State_modSae_standing, State_putSt_standing, offerTx_standing, saEvent_standing]

theorem sendOn_standing (s : State) (x q : Nat) (f : Bytes) : (sendOn s x q f).standing = s.standing := by
  unfold sendOn
  grind only [State_inc_standing, secureOn_standing]

theorem takeHeld_standing (s : State) (x : Nat) : (takeHeld s x).standing = s.standing := by
  simp only [takeHeld, ↓apply_ite State.standing, ite_self, ↓State_modPath_standing, ↓State_putSt_standing]

theorem feed_standing (s : State) (q : Nat) : (feed s q).standing = s.standing := by
  simp only [feed, ↓apply_ite State.standing, ↓foldl_standing, implies_true, ite_self, ↓sendOn_standing, ↓takeHeld_standing]

theorem pump_standing (s : State) (x : Nat) : (pump s x).standing = s.standing := by
  unfold pump
  grind only [feed_standing]

theorem becomeUp_standing (s : State) (p : Nat) : (becomeUp s p).standing = s.standing := by
  simp only [becomeUp, ↓apply_ite State.standing, ite_self, ↓State_modPath_standing, ↓failPath_standing, ↓pathEvent_standing,
    ↓pump_standing, ↓toDown_standing]

theorem linkReturn_standing (s : State) (p : Nat) : (linkReturn s p).standing = s.standing := by
  simp only [linkReturn, ↓apply_ite State.standing, ite_self, ↓State_modPath_standing, ↓becomeUp_standing]

theorem commitLink_standing (s : State) : (commitLink s).standing = s.standing := by
  simp only [commitLink, standing_mk, standing_eta, ↓commitLinkPath_standing, ↓linkReturn_standing]

theorem commitKid_standing (s : State) (c : Nat × KidEntry) : (commitKid s c).standing = s.standing := by
  simp only [commitKid, standing_mk, standing_eta, ↓apply_ite State.standing, ite_self, ↓State_evt_standing,
    ↓State_putSt_standing, ↓State_putStf_standing]

theorem drainArea_standing (s : State) (c : Nat) (q : Nat → Bool) : (drainArea s c q).standing = s.standing := by
  simp only [drainArea, ↓foldl_standing, implies_true, ↓State_modMchan_standing, ↓dramPut_standing]

theorem markLines_standing (s : State) (n : Nat) (old : Region) : (markLines s n old).standing = s.standing := by
  simp only [markLines, ↓foldl_standing, implies_true, ↓State_modMchan_standing, ↓drainArea_standing, ↓dramPut_standing]

theorem commitRegion_standing (s : State) (c : Nat × Region) : (commitRegion s c).standing = s.standing := by
  simp only [commitRegion, ↓apply_ite State.standing, ite_self, ↓State_evt_standing, ↓State_modRegion_standing,
    ↓State_putStf_standing, ↓initRegion_standing, ↓markLines_standing]

theorem commitTree_standing (s : State) (c : Nat × TreeEntry) : (commitTree s c).standing = s.standing := by
  simp only [commitTree, standing_mk, standing_eta, ↓apply_ite State.standing, ite_self, ↓State_putStf_standing]

theorem commitMemTables_standing (s : State) : (commitMemTables s).standing = s.standing := by
  simp only [commitMemTables, standing_mk, standing_eta, ↓apply_ite State.standing, ↓foldl_standing, implies_true, ite_self,
    ↓commitKid_standing, ↓commitRegion_standing, ↓commitTree_standing, ↓settleAll_standing]

theorem State_modLg_standing (s : State) (f : Ledger → Ledger) : (s.modLg f).standing = s.standing := rfl

theorem commitProfile_standing (s : State) : (commitProfile s).standing = s.standing := by
  unfold commitProfile
  grind only [State_evt_standing, State_modLg_standing]

theorem applyShare_standing (s : State) (w : Nat × Nat) : (applyShare s w).standing = s.standing := by
  simp only [applyShare, ↓apply_ite State.standing, ite_self, ↓State_evt_standing, ↓State_modChan_standing]

theorem linkRoles_standing (s : State) : (linkRoles s).standing = s.standing := by
  simp only [linkRoles, ↓apply_ite State.standing, ↓foldl_standing, implies_true, ite_self, ↓State_incBy_standing,
    ↓State_modPath_standing]

theorem drainWbOne_standing (s : State) (ch : Nat) : (drainWbOne s ch).standing = s.standing := by
  unfold drainWbOne
  grind only [State_modMchan_standing, dramPut_standing]

theorem flushChan_standing (s : State) (ch : Nat) (p : Nat → Bool) : (flushChan s ch p).standing = s.standing := by
  simp only [flushChan, ↓foldl_standing, implies_true, ↓drainWbOne_standing, ↓evictLine_standing, ↓evictNode_standing]

theorem changeRole_standing (s : State) (n new : Nat) : (changeRole s n new).standing = s.standing := by
  simp only [changeRole, standing_mk, standing_eta, ↓apply_ite State.standing, ite_self, ↓State_modChan_standing,
    ↓State_modMchan_standing, ↓State_putWr_standing, ↓flushChan_standing, ↓loseConvs_standing, ↓settleWhere_standing]

theorem scrubSecret_standing (s : State) (k i : Nat) (d : Bytes) : (scrubSecret s k i d).standing = s.standing := by
  simp only [scrubSecret, ↓apply_ite State.standing, ite_self, ↓scrubEntry_standing]

theorem takeHead_standing (s : State) (k : Nat) (it : Item) : (takeHead s k it).standing = s.standing := rfl

theorem endHead_standing (s : State) (k : Nat) (d : Bytes) (st : Nat) (result : Bytes) :
    (endHead s k d st result).standing = s.standing := by
  simp only [endHead, ↓finish_standing, ↓scrubSecret_standing, ↓takeHead_standing]

theorem flushHead_standing (s : State) (k : Nat) (d : Bytes) : (flushHead s k d).standing = s.standing := by
  simp only [flushHead, ↓endHead_standing]

theorem fetchHead_standing (s : State) (k : Nat) : (fetchHead s k).1.standing = s.standing := by
  unfold fetchHead
  grind only [State_modRing_standing, hostRead_standing]

theorem stallHead_standing (s : State) (k : Nat) : (stallHead s k).standing = s.standing := rfl

theorem withHead_standing (s : State) (k : Nat) (f : State → Bytes → State × Bool) (h : ∀ t d, (f t d).1.standing = t.standing) :
    (withHead s k f).1.standing = s.standing := by
  unfold withHead
  grind only [fetchHead_standing, stallHead_standing]

theorem flushMarked_standing (k n : Nat) (s : State) : (flushMarked k n s).standing = s.standing := by
  induction n generalizing s with
  | zero => rfl
  | succ _ ih =>
    unfold flushMarked
    grind [withHead_standing, flushHead_standing]

theorem flushRings_standing (s : State) (n : Nat) : (flushRings s n).standing = s.standing := by
  simp only [flushRings, ↓foldl_standing, implies_true, ↓State_modRing_standing, ↓flushMarked_standing]

theorem moveSteer_standing (s : State) (t : List Nat) : (moveSteer s t).standing = s.standing := by
  simp only [moveSteer, standing_mk, standing_eta, ↓foldl_standing, implies_true, ↓flushChan_standing, ↓settleWhere_standing]

theorem unbindFenced_standing (s : State) : (unbindFenced s).standing = s.standing := by
  simp only [unbindFenced, ↓apply_ite State.standing, ↓foldl_standing, implies_true, ite_self, ↓State_modChan_standing]

theorem applyRoles_standing (s : State) (roles : List Nat) : (applyRoles s roles).standing = s.standing := by
  simp only [applyRoles, ↓apply_ite State.standing, ↓foldl_standing, implies_true, ite_self, ↓changeRole_standing,
    ↓flushRings_standing, ↓moveSteer_standing, ↓unbindFenced_standing]

theorem tryRoles_standing (s : State) (wr : List (Nat × Nat)) : (tryRoles s wr).standing = s.standing := by
  simp only [tryRoles, ↓apply_ite State.standing, ite_self, ↓State_evt_standing, ↓applyRoles_standing]

theorem commitRoles_standing (s : State) (ends : Bool) : (commitRoles s ends).standing = s.standing := by
  simp only [commitRoles, standing_mk, standing_eta, ↓apply_ite State.standing, ↓foldl_standing, implies_true, ite_self,
    ↓applyShare_standing, ↓linkRoles_standing, ↓tryRoles_standing]

theorem commitUcode_standing (s : State) : (commitUcode s).standing = s.standing := by
  simp only [commitUcode, ↓apply_ite State.standing, ↓foldl_standing, implies_true, ite_self, ↓State_evt_standing,
    ↓State_modConvs_standing]

theorem State_modKr_standing (s : State) (f : Krysa → Krysa) : (s.modKr f).standing = s.standing := rfl

theorem assignDone_standing (s : State) (st aux : Nat) : (assignDone s st aux).standing = s.standing := by
  unfold assignDone
  grind only [State_modKr_standing, finish_standing]

theorem dropEntries_standing (s : State) (lo hi : Nat) : (dropEntries s lo hi).standing = s.standing := by
  simp only [dropEntries, ↓foldl_standing, implies_true, ↓almWrite_standing]

theorem krSend_standing (s : State) (type : Nat) (body : Bytes) : (krSend s type body).standing = s.standing := by
  simp only [krSend, ↓apply_ite State.standing, ite_self, ↓State_emit_standing, ↓State_modKr_standing]

theorem sendMap_standing (s : State) : (sendMap s).standing = s.standing := by
  simp only [sendMap, ↓foldl_standing, implies_true, ↓krSend_standing]

theorem krApply_standing (s : State) (now : Nat) : (krApply s now).standing = s.standing := by
  unfold krApply
  grind only [State_evt_standing, State_inc_standing, State_logPut_standing, State_modKr_standing, State_putStf_standing,
    assignDone_standing, dropEntries_standing]

theorem State_modNms_standing (s : State) (f : Nms → Nms) : (s.modNms f).standing = s.standing := rfl

theorem nmsEnd_standing (s : State) (k i st value reason area next : Nat) :
    (nmsEnd s k i st value reason area next).standing = s.standing := by simp only [nmsEnd, ↓finish_standing]

theorem profileRefused_standing (s : State) : (profileRefused s).standing = s.standing := rfl

theorem loadEnd_standing (s : State) (k i op st reason : Nat) (b : Bytes) (refused : Bool) :
    (loadEnd s k i op st reason b refused).standing = s.standing := by
  simp only [loadEnd, ↓apply_ite State.standing, ite_self, ↓State_logPut_standing, ↓nmsEnd_standing, ↓profileRefused_standing]

theorem nmsCommitted_standing (s : State) (op : Nat) : (nmsCommitted s op).standing = s.standing := by
  unfold nmsCommitted
  grind only [State_modNms_standing, loadEnd_standing]

theorem stopEngines_standing (s : State) (id : Nat) : (stopEngines s id).standing = s.standing := by
  simp only [stopEngines, ↓apply_ite State.standing, ↓foldl_standing, implies_true, ite_self, ↓stopEngine_standing]

theorem ownedConvs_standing (s : State) : (ownedConvs s).standing = s.standing := by
  simp only [ownedConvs, ↓apply_ite State.standing, ↓foldl_standing, implies_true, ite_self, ↓endConv_standing,
    ↓stopEngines_standing]

theorem commitStaged_standing (s : State) (ends : Bool) : (commitStaged s ends).standing = s.standing := by
  simp only [commitStaged, ↓commitAlm_standing, ↓commitEquinox_standing, ↓commitImage_standing, ↓commitKeys_standing,
    ↓commitLink_standing, ↓commitMemTables_standing, ↓commitProfile_standing, ↓commitRoles_standing, ↓commitUcode_standing,
    ↓krApply_standing, ↓nmsCommitted_standing, ↓ownedConvs_standing]

theorem commitFields_standing (s : State) : (commitFields s).standing = s.standing := by
  refine foldl_standing (fun s e => ?_) _ s
  grind [State_putFc_standing]

theorem muteRing_standing (s : State) (k : Nat) : (muteRing s k).standing = s.standing := rfl

theorem commitRing_standing (s : State) (r : Nat) : (commitRing s r).standing = s.standing := by
  simp only [commitRing, ↓apply_ite State.standing, ite_self, ↓State_modRing_standing, ↓muteRing_standing]

theorem linkHbRestart_standing (s : State) (p : Nat) : (linkHbRestart s p).standing = s.standing := rfl

theorem commitRegs_standing (s : State) : (commitRegs s).standing = s.standing := by
  simp only [commitRegs, ↓apply_ite State.standing, ↓foldl_standing, implies_true, ite_self, ↓commitFields_standing,
    ↓commitRing_standing, ↓linkHbRestart_standing]

theorem sweepLate_standing (s : State) : (sweepLate s).standing = s.standing := rfl

theorem almTick_standing (s : State) (per : Nat) : (almTick s per).standing = s.standing := by
  simp only [almTick, ↓apply_ite State.standing, ite_self, ↓State_modAlm_standing, ↓sweepLate_standing]

theorem almRemap_standing (s : State) : (almRemap s).standing = s.standing := by
  simp only [almRemap]
  (repeat' split) <;> simp only [↓foldl_standing, implies_true, ↓State_evt_standing, ↓State_modAlm_standing, ↓almWrite_standing]

theorem assignTimeout_standing (s : State) : (assignTimeout s).standing = s.standing := by
  unfold assignTimeout
  grind only [assignDone_standing]

theorem claimConfirm_standing (s : State) : (claimConfirm s).standing = s.standing := by
  unfold claimConfirm
  grind only [State_modKr_standing, takeLease_standing]

theorem evalRing_standing (s : State) : (evalRing s).standing = s.standing := by
  simp only [evalRing, ↓apply_ite State.standing, ite_self, ↓State_evt_standing, ↓State_modKr_standing]

theorem refillLeases_standing (s : State) : (refillLeases s).standing = s.standing := by
  simp only [refillLeases, ↓foldl_standing, implies_true, ↓requestLease_standing]

theorem firstJoin_standing (s : State) : (firstJoin s).standing = s.standing := by
  simp only [firstJoin, ↓apply_ite State.standing, ite_self, ↓State_modJf_standing, ↓State_modKr_standing, ↓promote_standing,
    ↓refillLeases_standing]

theorem krClaim_standing (s : State) : (krClaim s).standing = s.standing := by
  simp only [krClaim, ↓apply_ite State.standing, ite_self, ↓State_evt_standing, ↓State_modKr_standing, ↓krSend_standing]

theorem State_modPeer_standing (s : State) (u : Nat) (f : Peer → Peer) : (s.modPeer u f).standing = s.standing := rfl

theorem markLost_standing (s : State) : (markLost s).standing = s.standing := by
  simp only [markLost, ↓apply_ite State.standing, ↓foldl_standing, implies_true, ite_self, ↓State_evt_standing,
    ↓State_logPut_standing, ↓State_modKr_standing, ↓State_modPeer_standing]

theorem ringDecide_standing (s : State) : (ringDecide s).standing = s.standing := by
  simp only [ringDecide, ↓apply_ite State.standing, ↓foldl_standing, implies_true, ite_self, ↓State_evt_standing,
    ↓State_modKr_standing, ↓requestLease_standing]

theorem ringKeys_standing (s : State) : (ringKeys s).standing = s.standing := by
  simp only [ringKeys, ↓apply_ite State.standing, ite_self, ↓State_modKr_standing]

theorem sendBeacon_standing (s : State) : (sendBeacon s).standing = s.standing := by
  simp only [sendBeacon, ↓State_modKr_standing, ↓krSend_standing]

theorem sendMove_standing (s : State) : (sendMove s).standing = s.standing := by
  simp only [sendMove]
  split
  · rfl
  simp only [↓apply_ite State.standing, ↓State_modKr_standing, ↓krSend_standing,
    ↓foldl_standing, implies_true, ite_self]
  refine foldl_fst_standing (fun p i => ?_) _ _
  grind [almRead_standing, almWrite_standing]

theorem holdProp_standing (s : State) (p : KChange) : (holdProp s p).standing = s.standing := by
  unfold holdProp
  grind only [State_modKr_standing, assignDone_standing]

theorem propose_standing (s : State) (p : KChange) : (propose s p).standing = s.standing := by
  simp only [propose, ↓holdProp_standing, ↓krSend_standing]

theorem takeover_standing (s : State) : (takeover s).standing = s.standing := by
  unfold takeover
  grind only [propose_standing]

theorem krTick_standing (s : State) : (krTick s).standing = s.standing := by
  simp only [krTick, ↓apply_ite State.standing, ite_self, ↓State_modKr_standing, ↓assignTimeout_standing, ↓claimConfirm_standing,
    ↓evalRing_standing, ↓firstJoin_standing, ↓krClaim_standing, ↓markLost_standing, ↓ringDecide_standing, ↓ringKeys_standing,
    ↓sendBeacon_standing, ↓sendMap_standing, ↓sendMove_standing, ↓takeover_standing]

theorem linkTick_standing (s : State) : (linkTick s).standing = s.standing := by
  simp only [linkTick, ↓apply_ite State.standing, ↓foldl_standing, implies_true, ite_self, ↓State_modPath_standing,
    ↓failPath_standing, ↓notGood_standing]

theorem markTick_standing (s : State) : (markTick s).standing = s.standing := by
  simp only [markTick, ↓apply_ite State.standing, ite_self, ↓State_jPut_standing, ↓State_modJf_standing]

theorem cqWrite_standing (s : State) (k status : Nat) (zero irq : Bool) (sqHead tag cal source op : Nat) (result : Bytes) :
    (cqWrite s k status zero irq sqHead tag cal source op result).standing = s.standing := by
  simp only [cqWrite, ↓apply_ite State.standing, ite_self, ↓State_evt_standing, ↓State_modRing_standing, ↓hostWrite_standing,
    ↓unreserve_standing]

theorem heldEvent_standing (s : State) (h : HeldFrame) (st op aux : Nat) : (heldEvent s h st op aux).standing = s.standing := by
  simp only [heldEvent, ↓apply_ite State.standing, ite_self, ↓cqWrite_standing, ↓unreserve_standing]

theorem discardHeld_standing (s : State) (h : HeldFrame) (why : Nat) : (discardHeld s h why).standing = s.standing := by
  simp only [discardHeld, ↓apply_ite State.standing, ite_self, ↓State_evt_standing, ↓State_inc_standing, ↓State_modLg_standing,
    ↓heldEvent_standing]

theorem charge_standing (s : State) (b a : Nat) : (charge s b a).standing = s.standing := rfl

theorem releaseHeld_standing (s : State) (h : HeldFrame) : (releaseHeld s h).standing = s.standing := by
  simp only [releaseHeld, ↓State_modLg_standing, ↓charge_standing, ↓heldEvent_standing, ↓hostWrite_standing]

theorem releaseBand_standing (b : Nat) (l : List HeldFrame) (s : State) : (releaseBand b l s).standing = s.standing := by
  induction l generalizing s with
  | nil => rfl
  | cons x l ih =>
    unfold releaseBand
    grind [releaseHeld_standing]

theorem rollBuckets_standing (s : State) : (rollBuckets s).standing = s.standing := rfl

theorem ledgerRelease_standing (s : State) (old : Option (List Band)) : (ledgerRelease s old).standing = s.standing := by
  simp only [ledgerRelease]
  split <;> simp only [↓foldl_standing, implies_true, ↓State_modLg_standing, ↓discardHeld_standing, ↓releaseBand_standing,
    ↓rollBuckets_standing]

theorem convTick_standing (s : State) (ticks : Nat) : (convTick s ticks).standing = s.standing := rfl

theorem eveEnd_standing (s : State) : (eveEnd s).standing = s.standing := by
  simp only [eveEnd, State_evt_standing, moveSteer_standing]
  rfl

theorem convExpire_standing (s : State) (id : Nat) : (convExpire s id).standing = s.standing := by
  simp only [convExpire, ↓apply_ite State.standing, ite_self, ↓endConv_standing, ↓stopEngines_standing]

theorem holdExpiry_standing (s : State) : (holdExpiry s).standing = s.standing := by
  simp only [holdExpiry, ↓apply_ite State.standing, ↓foldl_standing, implies_true, ite_self, ↓discardHeld_standing]

theorem wokenCalends_standing (s : State) : (wokenCalends s).standing = s.standing := by
  unfold wokenCalends
  grind only [State_evt_standing, State_modSleep_standing]

theorem afterWake_standing (s : State) : (afterWake s).standing = s.standing := by
  simp only [afterWake, ↓apply_ite State.standing, ↓foldl_standing, implies_true, ite_self, ↓convExpire_standing,
    ↓holdExpiry_standing, ↓wokenCalends_standing]

theorem remaskAll_standing (s : State) : (remaskAll s).standing = s.standing := by
  simp only [remaskAll, ↓foldl_standing, implies_true, ↓State_drew_standing, ↓State_modChan_standing]

theorem setQuotas_standing (s : State) : (setQuotas s).standing = s.standing := by
  simp only [setQuotas, ↓foldl_standing, implies_true, ↓State_modJob_standing]

theorem openBudgets_standing (s : State) : (openBudgets s).standing = s.standing := rfl

theorem linkZero_standing (s : State) : (linkZero s).standing = s.standing := rfl

theorem holdRxFrame_standing (s : State) (p : Nat) (f : Bytes) (err : Bool) : (holdRxFrame s p f err).standing = s.standing := by
  simp only [holdRxFrame, ↓apply_ite State.standing, ite_self, ↓State_evt_standing, ↓State_inc_standing, ↓State_modPath_standing]

theorem deliverRx_standing (s : State) (p : Nat) (g : Bytes) (heartbeat : Bool) :
    (deliverRx s p g heartbeat).standing = s.standing := by
  simp only [deliverRx, ↓apply_ite State.standing, ite_self, ↓State_emit_standing]

theorem macsecRx_standing (s : State) (p : Nat) (f : Bytes) : (macsecRx s p f).standing = s.standing := by
  unfold macsecRx
  grind only [State_inc_standing, State_modPath_standing, State_modSae_standing, State_putSt_standing, deliverRx_standing]

theorem lineRx_standing (s : State) (p : Nat) (f : Bytes) (err : Bool) : (lineRx s p f err).standing = s.standing := by
  simp only [lineRx, ↓apply_ite State.standing, ite_self, ↓State_emit_standing, ↓State_inc_standing, ↓holdRxFrame_standing,
    ↓macsecRx_standing]

theorem endTakeover_standing (s : State) (p : Nat) : (endTakeover s p).standing = s.standing := by
  simp only [endTakeover, ↓apply_ite State.standing, ↓foldl_standing, implies_true, ite_self, ↓State_modPath_standing,
    ↓lineRx_standing, ↓pump_standing]

theorem endTakeovers_standing (s : State) : (endTakeovers s).standing = s.standing := by
  simp only [endTakeovers, ↓endTakeover_standing]

theorem holdFrame_standing (s : State) (x : Nat) (f : Bytes) : (holdFrame s x f).standing = s.standing := by
  simp only [holdFrame, ↓apply_ite State.standing, ite_self, ↓State_evt_standing, ↓State_inc_standing, ↓State_modPath_standing]

theorem clientTx_standing (s : State) (p : Nat) (f : Bytes) : (clientTx s p f).standing = s.standing := by
  simp only [clientTx, ↓apply_ite State.standing, ite_self, ↓State_inc_standing, ↓holdFrame_standing, ↓offerTx_standing,
    ↓pump_standing, ↓sendOn_standing]

theorem heartbeatSend_standing (s : State) (p : Fin 2) : (heartbeatSend s p).standing = s.standing := by
  simp only [heartbeatSend, standing_mk, standing_eta, ↓apply_ite State.standing, ite_self, ↓State_modPath_standing,
    ↓secureOn_standing]

theorem memAccess_standing (s : State) (addr cls tag : Nat) (write : Bool) (data : Bytes) (be : Nat) :
    (memAccess s addr cls tag write data be).standing = s.standing := by
  unfold memAccess
  grind only [standing_mk, standing_eta, State_emit_standing, accept_standing, denyCount_standing, serve_standing]

theorem releaseOne_standing (s : State) (c : Instr) : (releaseOne s c).standing = s.standing := by
  unfold releaseOne
  grind only [clientTx_standing, heartbeatSend_standing, lineRx_standing, memAccess_standing]

theorem releasePorts_standing (s : State) : (releasePorts s).standing = s.standing := by
  simp only [releasePorts, standing_mk, standing_eta, ↓apply_ite State.standing, ↓foldl_standing, implies_true, ite_self,
    ↓endTakeovers_standing, ↓pump_standing, ↓releaseOne_standing]

/-! ### Control registers and the stores an alarm clears -/

theorem almZero_standing (s : State) : (almZero s).standing = s.standing := rfl

theorem clearLog_standing (s : State) : (clearLog s).standing = s.standing := rfl

theorem closeMemory_standing (s : State) : (closeMemory s).standing = s.standing := by
  simp only [closeMemory, standing_mk, standing_eta, ↓apply_ite State.standing, ↓foldl_standing, implies_true, ite_self,
    ↓answer_standing]

theorem convZero_standing (s : State) : (convZero s).standing = s.standing := rfl

theorem flushAlm_standing (s : State) : (flushAlm s).standing = s.standing := by
  simp only [flushAlm, ↓foldl_standing, implies_true, ↓State_modAlm_standing, ↓almEvict_standing, ↓almFlush_standing]

theorem krZero_standing (s : State) : (krZero s).standing = s.standing := rfl

theorem ledgerClear_standing (s : State) : (ledgerClear s).standing = s.standing := by
  simp only [ledgerClear, State_modLg_standing]
  exact foldl_standing (fun t (x : HeldFrame) => unreserve_standing t x.ring) _ s

theorem stopJobs_standing (s : State) : (stopJobs s).standing = s.standing := by
  simp only [stopJobs, standing_mk, standing_eta, ↓apply_ite State.standing, ite_self, ↓State_evt_standing]

theorem zeroJobs_standing (s : State) : (zeroJobs s).standing = s.standing := by
  simp only [zeroJobs, standing_mk, standing_eta, ↓stopJobs_standing]

theorem cutBurn_standing (s : State) : (cutBurn s).standing = s.standing := by
  unfold cutBurn
  split <;> rfl

theorem zeroKeys_standing (s : State) : (zeroKeys s).standing = s.standing := by
  simp only [zeroKeys, standing_mk, standing_eta, ↓State_modConvs_standing, ↓State_modKr_standing, ↓State_modNms_standing,
    ↓cutBurn_standing, ↓linkZero_standing]

theorem blowKill_standing (s : State) : (blowKill s).standing = s.standing := rfl

theorem killCfg_standing (s : State) (val : Nat) (readback : Bool) : (killCfg s val readback).standing = s.standing := by
  simp only [killCfg, standing_mk, standing_eta, ↓apply_ite State.standing, ite_self, ↓State_evt_standing]

theorem imgWrite_standing (s : State) (v : Nat) : (imgWrite s v).standing = s.standing := rfl

theorem kidCtl_standing (s : State) (k val : Nat) : (kidCtl s k val).standing = s.standing := by
  simp only [kidCtl, standing_mk, standing_eta, ↓apply_ite State.standing, ite_self, ↓State_evt_standing, ↓State_putStf_standing,
    ↓State_putWr_standing]

theorem linkCmd_standing (s : State) (p val : Nat) : (linkCmd s p val).standing = s.standing := by
  simp only [linkCmd, ↓apply_ite State.standing, ite_self, ↓State_modPath_standing]

theorem rgnCtl_standing (s : State) (n val : Nat) : (rgnCtl s n val).standing = s.standing := by
  simp only [rgnCtl, standing_mk, standing_eta, ↓apply_ite State.standing, ite_self, ↓State_evt_standing, ↓State_putStf_standing,
    ↓State_putWr_standing]

theorem roleWrite_standing (s : State) (n v : Nat) : (roleWrite s n v).standing = s.standing := by
  simp only [roleWrite, standing_mk, standing_eta, ↓apply_ite State.standing, ite_self, ↓State_putWr_standing]

theorem shareWrite_standing (s : State) (n v : Nat) : (shareWrite s n v).standing = s.standing := rfl

theorem sleepCtl_standing (s : State) (val : Nat) : (sleepCtl s val).standing = s.standing := by
  simp only [sleepCtl, ↓apply_ite State.standing, ite_self, ↓State_modSleep_standing]

theorem tierCtl_standing (s : State) (t val : Nat) : (tierCtl s t val).standing = s.standing := by
  simp only [tierCtl, standing_mk, standing_eta, ↓apply_ite State.standing, ite_self, ↓State_putWr_standing]

theorem treeCtl_standing (s : State) (t val : Nat) : (treeCtl s t val).standing = s.standing := by
  simp only [treeCtl, standing_mk, standing_eta, ↓apply_ite State.standing, ite_self, ↓State_putStf_standing, ↓State_putWr_standing]

theorem almCtl_standing (s : State) (val : Nat) : (almCtl s val).standing = s.standing := by
  simp only [almCtl, ↓apply_ite State.standing, ite_self, ↓State_modAlm_standing, ↓State_putWr_standing]

theorem eqxCtl_standing (s : State) (j val : Nat) : (eqxCtl s j val).standing = s.standing := by
  simp only [eqxCtl, standing_mk, standing_eta, ↓apply_ite State.standing, ite_self, ↓State_evt_standing, ↓State_modJob_standing,
    ↓State_putWr_standing]

theorem refuseWrite_standing {s : State} {off : Nat} {v : Nat} {t : State} (e : refuseWrite s off v = some t) :
    t.standing = s.standing := by
  grind [refuseWrite, State_evt_standing, State_modRing_standing]

theorem calWrite_standing (s : State) (off v : Nat) : (calWrite s off v).standing = s.standing := by
  unfold calWrite
  grind only [State_modKr_standing, State_putWr_standing, refuseWrite_standing]

end Sys2Proof.Machine
end

section
/-! PROOFS. The commit of a due Calends: its last steps, the writes that waited, and the statement (R12, R71, R81, R438, R526). -/

namespace Sys2Proof.Machine

/-! ### Where the sleep entry begins, and what a commit opens -/

theorem State_modTick_standing (s : State) (f : Tick → Tick) : (s.modTick f).standing = { s.standing with tick := f s.tick } := rfl

/-- Sleep entry begun or not: admission is closed exactly where it has (R526). -/
def Standing.enter (v : Standing) (b : Bool) : Standing := { v with tick := { v.tick with closed := b }, entering := b }

theorem sleepCalends_standing (s : State) (h : s.standing = s.standing.enter false) :
    ∃ b, (sleepCalends s).standing = s.standing.enter b := by
  simp only [sleepCalends]
  split
  · exact ⟨false, h⟩
  split
  · exact ⟨false, (sleepRefuse_standing ..).trans h⟩
  · exact ⟨true, (State_modSleep_standing ..).trans (linkZero_standing _)⟩

/-! ### The writes that waited: the count and the debug port keep, and no Calends falls due (R12, R81) -/

/-- The count, whether a Calends is due, and the debug port. -/
def State.tally (s : State) : Nat × Bool × TapPort := (s.tick.count, s.tick.due, s.tap)

theorem tally_of_standing {s t : State} (h : t.standing = s.standing) : t.tally = s.tally :=
  congrArg (fun v : Standing => (v.tick.count, v.tick.due, v.tap)) h

theorem due_of_tally {s t : State} (h : t.tally = s.tally) : t.tick.due = s.tick.due := congrArg (·.2.1) h

/-- Both branches. -/
theorem ite_tally {s x y : State} {c : Prop} [Decidable c] (hx : x.tally = s.tally) (hy : y.tally = s.tally) :
    (if c then x else y).tally = s.tally := by
  split
  · exact hx
  · exact hy

theorem hostError_tally (s : State) (write : Bool) (off reason : Nat) (deny : Bool) :
    (hostError s write off reason deny).tally = s.tally := by
  unfold hostError
  split
  · exact tally_of_standing (t := ((((hostSilent s).inc ..).putSt ..).logPut ..)) (s := hostSilent s) (by
      rw [State_logPut_standing, State_putSt_standing, State_inc_standing])
  · exact tally_of_standing (t := (((hostSilent s).inc ..).putSt ..)) (s := hostSilent s) (by
      rw [State_putSt_standing, State_inc_standing])

theorem regWrite_tally (s : State) (off be : Nat) (priv : Bool) (f : State → State) (h : ∀ t, (f t).tally = t.tally) :
    (regWrite s off be priv f).tally = s.tally := by
  unfold regWrite regAccess
  split
  · rfl
  split
  · exact hostError_tally ..
  dsimp only
  split
  · rfl
  · exact h _

theorem abortRequest_tally (s : State) (r val : Nat) : (abortRequest s r val).tally = s.tally :=
  regWrite_tally _ _ _ _ _ fun t => by
    dsimp only
    split <;> rfl

theorem doorbell_tally (s : State) (r val : Nat) : (doorbell s r val).tally = s.tally :=
  regWrite_tally _ _ _ _ _ fun _ =>
    ite_tally rfl (ite_tally rfl (ite_tally rfl (tally_of_standing ((grantEvents_standing ..).trans (State_modRing_standing ..)))))

theorem dropCommit_tally (s : State) (h : s.tick.due = false) : (dropCommit s).tally = s.tally := by
  refine (tally_of_standing (releasePorts_standing _)).trans ?_
  simp only [State.tally, h]

theorem finishProgram_tally (s : State) : (finishProgram s).tally = s.tally := by
  unfold finishProgram
  split <;> rfl

theorem eraseAll_tally (s : State) : (eraseAll s).tally = s.tally := by
  have h := tally_of_standing (s := finishProgram s) (t := eraseAll s) (by
    simp only [eraseAll, clearLog_standing, zeroJobs_standing, zeroKeys_standing, State_modJf_standing, krZero_standing,
      ledgerClear_standing, convZero_standing, almZero_standing, closeMemory_standing, flushAlm_standing])
  exact h.trans (finishProgram_tally s)

theorem alarmRise_tally (s : State) (source vg : Nat) (eraseOk : Bool) (h : s.tick.due = false) :
    (alarmRise s source vg eraseOk).tally = s.tally := by
  simp only [alarmRise]
  refine (tally_of_standing ((State_modJf_standing ..).trans (State_evt_standing ..))).trans ?_
  rw [eraseAll_tally, dropCommit_tally]
  · simp only [State.tally, State.modFlt]
  · exact h

theorem raiseAlarm_tally (s : State) (source vg : Nat) (eraseOk : Bool) (h : s.tick.due = false) :
    (raiseAlarm s source vg eraseOk).tally = s.tally := by
  simp only [raiseAlarm]
  refine ite_tally (ite_tally ?_ rfl) (ite_tally (ite_tally rfl (ite_tally ?_ ?_)) (ite_tally rfl ?rise))
  case rise => exact alarmRise_tally s source vg eraseOk h
  all_goals simp only [State.tally, State.modFlt]

theorem fltKill_tally (s : State) (val : Nat) (h : s.tick.due = false) : (fltKill s val).tally = s.tally := by
  refine ite_tally ((tally_of_standing (State_evt_standing ..)).trans ?_) (ite_tally (ite_tally ?_ rfl) ?_)
  · simp only [State.tally, State.modFlt]
  · exact (tally_of_standing (blowKill_standing _)).trans (raiseAlarm_tally s 3 0 true h)
  · simp only [State.tally, State.modFlt]

theorem actWrite_tally (s : State) (off val v : Nat) (h : s.tick.due = false) : (actWrite s off val v).tally = s.tally := by
  have of {t : State} (e : t.standing = s.standing) : t.tally = s.tally := tally_of_standing e
  exact ite_tally (doorbell_tally ..) <| ite_tally (of (shareWrite_standing ..)) <| ite_tally (abortRequest_tally ..) <|
    ite_tally (of (roleWrite_standing ..)) <| ite_tally (of (linkCmd_standing ..)) <| ite_tally (of (sleepCtl_standing ..)) <|
    ite_tally (of (tierCtl_standing ..)) <| ite_tally (of (rgnCtl_standing ..)) <| ite_tally (of (kidCtl_standing ..)) <|
    ite_tally (of (treeCtl_standing ..)) <| ite_tally (of (eqxCtl_standing ..)) <| ite_tally (of (almCtl_standing ..)) <|
    ite_tally (of (killCfg_standing ..)) <| ite_tally (fltKill_tally s val h) <| ite_tally (of (imgWrite_standing ..)) rfl

theorem putReg_tally (s : State) (r : RegRow) (off val : Nat) (h : s.tick.due = false) : (putReg s r off val).tally = s.tally := by
  unfold putReg
  cases r.kind with
  | ro => rfl
  | imm => rfl
  | hold => dsimp only; split <;> rfl
  | cal => exact tally_of_standing (calWrite_standing ..)
  | act => exact actWrite_tally _ _ _ _ h
  | evt => rfl
  | irqEn => rfl

theorem releaseWrites_tally (s : State) (h : s.tick.due = false) : (releaseWrites s).tally = s.tally := by
  have loop (l : List (Nat × Nat)) (t : State) (ht : t.tally = s.tally) : (l.foldl (fun s w =>
      match regRow w.1 with
      | some r => putReg s r w.1 w.2
      | none => s) t).tally = s.tally := by
    induction l generalizing t with
    | nil => exact ht
    | cons w l ih =>
      refine ih _ ?_
      dsimp only
      split
      · exact (putReg_tally _ _ _ _ ((due_of_tally ht).trans h)).trans ht
      · exact ht
  exact loop _ _ rfl

theorem releaseWrites_of_none (s : State) (h : s.lateWr = []) : releaseWrites s = s := by
  obtain ⟨⟩ := s
  simp only at h
  subst h
  rfl

/-! ### The commit -/

/-- The tick after a commit, before sleep entry is looked at. -/
def Tick.opened (t : Tick) : Tick := { t with due := false, closed := false, fixed := false, early := none }

/-- The commit's last steps: sleep entry, the writes that waited, the statistics and the ports (steps 3 and 4 of R81). -/
theorem commitEnds_of_releaseWrites (s : State) :
    (commitEnds s).standing = (releaseWrites (sleepCalends (s.modTick Tick.opened))).standing := by
  simp only [commitEnds, releasePorts_standing, ↓apply_ite State.standing, ↓State_modNms_standing, ite_self]
  rfl

theorem opened_standing (s : State) (h : s.boot.entering = false) :
    (s.modTick Tick.opened).standing = (s.modTick Tick.opened).standing.enter false := by
  simp only [State.standing, Standing.enter, State.modTick, Tick.opened, h]

theorem commitEnds_tally (s : State) (h : s.boot.entering = false) : (commitEnds s).tally = (s.tick.count, false, s.tap) := by
  have he := commitEnds_of_releaseWrites s
  obtain ⟨b, hb⟩ := sleepCalends_standing _ (opened_standing s h)
  have ht : (sleepCalends (s.modTick Tick.opened)).tally = (s.tick.count, false, s.tap) :=
    congrArg (fun v : Standing => (v.tick.count, v.tick.due, v.tap)) hb
  exact (tally_of_standing he).trans ((releaseWrites_tally _ (congrArg (·.2.1) ht)).trans ht)

theorem commitEnds_standing (s : State) (h : s.boot.entering = false) (hl : s.lateWr = []) :
    ∃ b, (commitEnds s).standing = { s.standing with tick := s.tick.opened : Standing }.enter b := by
  have he := commitEnds_of_releaseWrites s
  obtain ⟨b, hb⟩ := sleepCalends_standing _ (opened_standing s h)
  refine ⟨b, he.trans ?_⟩
  rw [releaseWrites_of_none _ ((congrArg Standing.lateWr hb).trans hl)]
  exact hb

theorem afterCommit_standing (s : State) (per : Nat) (old : Option (List Band)) (slept : Nat) :
    (afterCommit s per old slept).standing = { s.standing with tick := { s.tick with count := (s.tick.count + 1) % 2 ^ 48 } } := by
  simp only [afterCommit, convTick_standing, ledgerRelease_standing, markTick_standing, linkTick_standing, krTick_standing,
    almRemap_standing, almTick_standing, State_modTick_standing]

/-- Up to its last steps the commit counts the Calends and takes it as no longer due; nothing else of the view changes. -/
theorem commitRun_of_commitEnds (s : State) : ∃ t, commitRun s = commitEnds t ∧
    t.standing = { s.standing with tick := { s.tick with due := false, count := (s.tick.count + 1) % 2 ^ 48 } } := by
  have staged (u : State) (ends : Bool) : (commitRegs (commitStaged (closeBudgets u) ends)).standing = u.standing := by
    rw [commitRegs_standing, commitStaged_standing, closeBudgets_standing]
  have eve (u : State) (ends : Bool) : (if ends then eveEnd u else u).standing = u.standing := by
    rw [apply_ite State.standing, eveEnd_standing, ite_self]
  have opened (u : State) : (openBudgets (setQuotas (remaskAll (afterWake u)))).standing = u.standing := by
    rw [openBudgets_standing, setQuotas_standing, remaskAll_standing, afterWake_standing]
  have counted (u v : State) (per : Nat) (old : Option (List Band)) (slept : Nat) (h : u.standing = v.standing) :
      (afterCommit u per old slept).standing = { v.standing with tick := { v.tick with count := (v.tick.count + 1) % 2 ^ 48 } } := by
    have ht : u.tick = v.tick := congrArg Standing.tick h
    rw [afterCommit_standing, h, ht]
  simp only [commitRun]
  refine ⟨_, rfl, ?_⟩
  rw [opened, eve, counted _ _ _ _ _ (staged _ _)]
  rfl

theorem entering_of_live {s : State} (h : s.halted = false) : s.boot.entering = false := by
  simp only [State.halted, Bool.or_eq_false_iff] at h
  exact h.2

theorem calendsCommit_of_due {s : State} (hlive : s.halted = false) (hdue : s.tick.due = true) (hmark : markPassed s = false) :
    calendsCommit s = commitRun s := by
  simp [calendsCommit, hlive, hdue, hmark]

end Sys2Proof.Machine

namespace Sys2Proof.Proofs
open Sys2Proof.Machine

/-- Settles O20: the commit's steps write none of what the statement names but the count, the due flag and what sleep entry closes;
the writes that waited may write more, but never the count, the due flag or the debug port. -/
theorem calendsCommits : Obligations.CalendsCommits := by
  unfold Obligations.CalendsCommits
  refine ⟨fun s hlive hdue hmark => ?due, fun s hdue => ?idle⟩
  case idle => exact ⟨_, rfl, by simp [calendsCommit, hdue]⟩
  case due =>
    obtain ⟨t, hrun, ht⟩ := commitRun_of_commitEnds s
    have hu : calendsCommit s = commitEnds t := (calendsCommit_of_due hlive hdue hmark).trans hrun
    have hentering : t.boot.entering = false := (congrArg Standing.entering ht).trans (entering_of_live hlive)
    have htick : t.tick = { s.tick with due := false, count := (s.tick.count + 1) % 2 ^ 48 } := congrArg Standing.tick ht
    have htally : (commitEnds t).tally = ((s.tick.count + 1) % 2 ^ 48, false, s.tap) := by
      rw [commitEnds_tally t hentering, htick, show t.tap = s.tap from congrArg Standing.tap ht]
    have hpending : (commitEnds t).pending = s.pending := hu ▸ (calendsCommit_keeps s (.refl s)).pending
    refine ⟨commitEnds t, exec_of_eq rfl hu, congrArg (·.1) htally, congrArg (·.2.1) htally, congrArg (·.2.2) htally, hpending,
      fun hlate => ?_⟩
    obtain ⟨b, hb⟩ := commitEnds_standing t hentering ((congrArg Standing.lateWr ht).trans hlate)
    rw [ht, htick] at hb
    have hclosed : (commitEnds t).boot.entering = b := congrArg Standing.entering hb
    refine ⟨?_, congrArg Standing.host hb, congrArg Standing.flash hb, congrArg Standing.vigil hb, congrArg Standing.flt hb,
      (congrArg Standing.lateWr hb).trans hlate⟩
    rw [hclosed]
    exact congrArg Standing.tick hb

end Sys2Proof.Proofs
end

section
/-! PROOFS. Completions: what the write of one at the tail of its ring changes, which one is next in ring order, and the statements on
completions and on NOP assembled from that (R95, R99, R104 to R107, R117). -/

namespace Sys2Proof.Machine

open Sys2Proof.Claims

/-! ### The frame of a completion -/

/-- A state is its fields; those that `MemFrame` does not list are free in `ItemFrame`. -/
theorem itemFrame_of_memFrame {s t : State} (h : MemFrame s t) : ItemFrame s t := by
  obtain ⟨⟩ := t
  obtain ⟨⟩ := h
  simp only at *
  subst_vars
  rfl

theorem ItemFrame.trans {s t u : State} (hst : ItemFrame s t) (htu : ItemFrame t u) : ItemFrame s u := by
  unfold ItemFrame at hst htu ⊢
  conv_lhs => rw [htu, hst]

theorem itemFrame_modRing (s : State) (r : Nat) (f : Ring → Ring) : ItemFrame s (s.modRing r f) := rfl

theorem itemFrame_evt (s : State) (off n : Nat) : ItemFrame s (s.evt off n) := rfl

/-! ### A completion at the tail of its ring (R95, R105, R106, R107, R117) -/

/-- A completion ring once an entry that was reserved in it is written: the tail moves on, the phase turns at the wrap. -/
def Ring.written (q : Ring) : Ring :=
  { q with
    reserved := q.reserved - 1, tail := (q.tail + 1) % q.size
    phase := if (q.tail + 1) % q.size = 0 then !q.phase else q.phase }

/-- From s to t an entry of CQk is written, where the DMA write of its bytes leaves s2. -/
structure CqWritten (s s2 t : State) (k : Nat) : Prop where
  cq : t.ring (64 + k) = (s.ring (64 + k)).written
  others : ∀ q, q ≠ 64 + k → t.ring q = s.ring q
  dram : t.dram = s2.dram
  frame : ItemFrame s t

/-- The interrupt flag of a completion ring is no part of it (R117). -/
theorem CqWritten.evt_ite {s s2 t : State} {k : Nat} (p : Prop) [Decidable p] (off n : Nat) (h : CqWritten s s2 t k) :
    CqWritten s s2 (if p then t.evt off n else t) k := by
  split
  · exact ⟨h.cq, h.others, h.dram, ItemFrame.trans h.frame (itemFrame_evt ..)⟩
  · exact h

section
variable {s : State} {k status sqHead tag cal source op : Nat} {zero irq : Bool} {result : Bytes}

theorem cqWrite_of_written {s2 : State} (hwork : s.wedged 5 = false) (hen : (s.ring (64 + k)).en = true)
    (hlive : (s.ring (64 + k)).halted = false)
    (hdma : hostWrite s ((s.ring (64 + k)).base + 32 * (s.ring (64 + k)).tail)
      (completionBytes status (s.ring (64 + k)).phase zero irq sqHead tag cal source op result) = (s2, true)) :
    CqWritten s s2 (cqWrite s k status zero irq sqHead tag cal source op result) k := by
  have hmem : MemFrame s s2 := MemFrame.pair hdma (hostWrite_memFrame _ _ _ (.refl s))
  have hring : s2.ring = s.ring := funext fun q => by rw [State.ring, hmem.rings, State.ring]
  simp only [cqWrite, hwork, hen, hlive, hdma, unreserve, Bool.not_true, Bool.or_self, Bool.false_eq_true, if_false, if_true]
  refine CqWritten.evt_ite _ _ _ ⟨?cq, fun q hq => ?others, rfl, ?frame⟩
  case cq => simp [hring, Ring.written]
  case others => simp [hring, hq]
  case frame => exact ItemFrame.trans (itemFrame_of_memFrame hmem) (ItemFrame.trans (itemFrame_modRing ..) (itemFrame_modRing ..))

/-- What a ring that was disabled or is halted would take only gives its entry back. -/
theorem cqWrite_of_closed (hclosed : (s.ring (64 + k)).en = false ∨ (s.ring (64 + k)).halted = true) :
    cqWrite s k status zero irq sqHead tag cal source op result = unreserve s k := by
  obtain hdis | hhalt := hclosed
  · simp [cqWrite, hdis]
  · simp [cqWrite, hhalt]

end

/-! ### The next completion of a submission ring (R99, R106) -/

/-- SQk once its oldest item left it. -/
def popItem (s : State) (k : Nat) (rest : List Item) : State := s.modRing k (fun q => { q with items := rest })

theorem popItem_ring (s : State) (k : Nat) (rest : List Item) (q : Nat) :
    (popItem s k rest).ring q = if q = k then { s.ring k with items := rest } else s.ring q := modRing_ring ..

theorem popItem_cq (s : State) (k : Nat) (rest : List Item) : (popItem s k rest).ring (64 + k) = s.ring (64 + k) := by
  simp [popItem_ring]

theorem unreserve_popItem_ring (s : State) (k : Nat) (rest : List Item) (q : Nat) :
    (unreserve (popItem s k rest) k).ring q =
      if q = 64 + k then { s.ring (64 + k) with reserved := (s.ring (64 + k)).reserved - 1 }
      else if q = k then { s.ring k with items := rest } else s.ring q := by
  rw [unreserve, modRing_ring, popItem_cq, popItem_ring]

section
variable {s : State} {k : Nat} {it : Item} {rest : List Item} {r : Res} (hlive : s.halted = false) (hwork : s.wedged 5 = false)
  (hitems : (s.ring k).items = it :: rest) (hres : it.res = some r)
include hlive hwork hitems hres

/-- Where the oldest item has its result, it leaves the ring, and its completion is written unless it is dropped. -/
theorem completeNext_of_final :
    completeNext s k = if it.drop then unreserve (popItem s k rest) k
      else cqWrite (popItem s k rest) k r.status r.zeroized (dIrq it.desc) ((it.idx + 1) % (s.ring k).size) (dTag it.desc) it.cal k
        (dOp it.desc) r.result := by
  have hsize : ((popItem s k rest).ring k).size = (s.ring k).size := by simp [popItem_ring, Ring.size]
  simp only [completeNext, hlive, hwork, hitems, hres, Bool.or_self, Bool.false_eq_true, if_false]
  rw [← popItem, hsize]

theorem completeNext_of_written {s2 : State} (hkeep : it.drop = false) (hen : (s.ring (64 + k)).en = true)
    (hopen : (s.ring (64 + k)).halted = false)
    (hdma : hostWrite (popItem s k rest) ((s.ring (64 + k)).base + 32 * (s.ring (64 + k)).tail)
      (completionBytes r.status (s.ring (64 + k)).phase r.zeroized (dIrq it.desc) ((it.idx + 1) % (s.ring k).size) (dTag it.desc)
        it.cal k (dOp it.desc) r.result) = (s2, true)) :
    CqWritten (popItem s k rest) s2 (completeNext s k) k := by
  rw [completeNext_of_final hlive hwork hitems hres, hkeep]
  rw [← popItem_cq s k rest] at hen hopen hdma
  exact cqWrite_of_written hwork hen hopen hdma

/-- A completion that is dropped, or whose ring does not take it, only gives its entry back (R95). -/
theorem completeNext_of_lost
    (hlost : it.drop = true ∨ (s.ring (64 + k)).en = false ∨ (s.ring (64 + k)).halted = true) :
    completeNext s k = unreserve (popItem s k rest) k := by
  rw [completeNext_of_final hlive hwork hitems hres]
  obtain hdrop | hclosed := hlost
  · rw [hdrop, if_pos rfl]
  · rw [cqWrite_of_closed (by rwa [popItem_cq]), ite_self]

end

/-! ### The oldest event of a completion ring (R95, R106, R107) -/

/-- Entries for events that wait change what CQ number cq holds of events and reservations, and no other ring. -/
theorem grantEvents_ring (s : State) (cq q : Nat) :
    (grantEvents s cq).ring q =
      if q = 64 + cq then { s.ring (64 + cq) with
        events := (grantList (s.ring (64 + cq)).free (s.ring (64 + cq)).events).1
        reserved := (s.ring (64 + cq)).reserved + (grantList (s.ring (64 + cq)).free (s.ring (64 + cq)).events).2 }
      else s.ring q := modRing_ring ..

/-- CQ number cq once its oldest event, which holds an entry, left the events that wait. -/
def popEvent (s : State) (cq : Nat) (rest : List SrcEvt) : State :=
  (grantEvents s cq).modRing (64 + cq) (fun q => { q with events := rest })

theorem popEvent_ring (s : State) (cq : Nat) (rest : List SrcEvt) (q : Nat) :
    (popEvent s cq rest).ring q =
      if q = 64 + cq then { s.ring (64 + cq) with events := rest, reserved := ((grantEvents s cq).ring (64 + cq)).reserved }
      else s.ring q := by
  rw [popEvent, modRing_ring]
  split
  · simp [grantEvents_ring]
  · rw [grantEvents_ring, if_neg ‹_›]

theorem itemFrame_popEvent (s : State) (cq : Nat) (rest : List SrcEvt) : ItemFrame s (popEvent s cq rest) := rfl

theorem writeEvent_of_written {s s2 : State} {k : Nat} {e : SrcEvt} {rest : List SrcEvt} (hlive : s.halted = false)
    (hwork : s.wedged 5 = false) (hen : (s.ring (64 + k)).en = true) (hopen : (s.ring (64 + k)).halted = false)
    (hevents : ((grantEvents s k).ring (64 + k)).events = { e with held := true } :: rest)
    (hdma : hostWrite (popEvent s k rest) ((s.ring (64 + k)).base + 32 * (s.ring (64 + k)).tail)
      (completionBytes e.status (s.ring (64 + k)).phase false false 0xFFFF e.tag e.cal e.source e.code e.result) = (s2, true)) :
    CqWritten (popEvent s k rest) s2 (writeEvent s k) k := by
  have hwrite : writeEvent s k =
      cqWrite (popEvent s k rest) k e.status false false 0xFFFF e.tag e.cal e.source e.code e.result := by
    simp only [writeEvent, hlive, hwork, hevents, Bool.or_self, Bool.false_eq_true, if_false, if_true]
    rfl
  rw [hwrite]
  exact cqWrite_of_written hwork (by simpa [popEvent_ring]) (by simpa [popEvent_ring]) (by simpa [popEvent_ring] using hdma)

end Sys2Proof.Machine

namespace Sys2Proof.Proofs

open Sys2Proof.Machine Sys2Proof.Claims

/-- Settles O11: the item or the event leaves its ring first; then its entry is written, or given back unwritten. -/
theorem completionsAreWrittenInRingOrder : Obligations.CompletionsAreWrittenInRingOrder := by
  unfold Obligations.CompletionsAreWrittenInRingOrder
  refine ⟨fun s k it rest r hlive hwork hitems hres => ⟨fun s2 hkeep hen hopen hdma => ?written, fun hlost => ?lost⟩,
    fun s s1 s2 k e es rest hlive hwork hen hopen _ _ hs1 hevents hdma => ?event⟩
  case written =>
    obtain ⟨hcq, hothers, hdram, hframe⟩ := completeNext_of_written hlive hwork hitems hres hkeep hen hopen hdma
    rw [popItem_cq] at hcq
    refine ⟨_, rfl, ?sq, by rw [hcq]; rfl, by rw [hcq]; rfl, by rw [hcq]; rfl, fun q hk hq => ?rings, hdram,
      ItemFrame.trans (itemFrame_modRing ..) hframe⟩
    case sq => rw [hothers _ (by omega), popItem_ring, if_pos rfl]
    case rings => rw [hothers _ hq, popItem_ring, if_neg hk]
  case lost =>
    refine ⟨_, exec_of_eq rfl (completeNext_of_lost hlive hwork hitems hres hlost), ?sq, ?cq, fun q hk hq => ?rings, rfl⟩
    case sq => rw [unreserve_popItem_ring, if_neg (by omega), if_pos rfl]
    case cq => rw [unreserve_popItem_ring, if_pos rfl]
    case rings => rw [unreserve_popItem_ring, if_neg hq, if_neg hk]
  case event =>
    subst hs1
    obtain ⟨hcq, hothers, hdram, hframe⟩ := writeEvent_of_written hlive hwork hen hopen hevents hdma
    rw [popEvent_ring, if_pos rfl] at hcq
    refine ⟨_, rfl, by rw [hcq]; rfl, by rw [hcq]; rfl, by rw [hcq]; rfl, fun q hq => ?rings, hdram,
      ItemFrame.trans (itemFrame_popEvent ..) hframe⟩
    case rings => rw [hothers _ hq, popEvent_ring, if_neg hq]

/-- Settles O14: NOP ends the open item it names, without outputs to zeroize. -/
theorem nopCompletesOk : Obligations.NopCompletesOk := by
  unfold Obligations.NopCompletesOk
  intro s k i it h
  obtain ⟨hlive, hfind, -⟩ := id h
  have hnop : nop s k i = finish s k i stOK [] false := by
    simp only [nop, hlive, withItem_of_open h, Bool.false_eq_true, if_false]
  exact ⟨_, exec_of_eq rfl hnop, itemEnds_of_open hfind _ _, finish_frame hfind _ _⟩

end Sys2Proof.Proofs
end

section
/-! PROOFS. The lifecycle: which fuses decide its state, and the statement that no step moves it back (R120, R123). -/

namespace Sys2Proof.Machine

/-- The fuses of a KILLED block: the root-kill fuse, or LOCK over a blank root bank (R123). -/
def Fuses.killed (f : Fuses) : Prop := f.kill = true ∨ (f.share1 = [] ∧ f.lock = true)

theorem FusesKept.killed {a b : Fuses} (h : FusesKept a b) : a.killed → b.killed
  | .inl hkill => .inl (h.kill hkill)
  | .inr ⟨hblank, hlock⟩ => .inr ⟨h.dead hblank hlock, h.lock hlock⟩

section
variable {s : State}

theorem lifecycle_of_killed (h : s.fuses.killed) : lifecycle s = 3 := by
  obtain hkill | ⟨hblank, hlock⟩ := h
  · simp [lifecycle, hkill]
  · simp [lifecycle, rootBlank, hblank, hlock]

theorem lifecycle_of_blank (h : ¬ s.fuses.killed) (hblank : s.fuses.share1 = []) : lifecycle s = 0 := by
  simp_all [lifecycle, rootBlank, Fuses.killed]

theorem lifecycle_of_rooted (h : ¬ s.fuses.killed) (hroot : s.fuses.share1 ≠ []) :
    lifecycle s = if s.fuses.bankLock then 2 else 1 := by
  simp_all [lifecycle, rootBlank, Fuses.killed]

theorem lifecycle_le_killed (s : State) : lifecycle s ≤ 3 := by
  unfold lifecycle
  split_ifs <;> omega

end

/-- Where fuses only burn, the lifecycle only moves forward. -/
theorem lifecycle_le_of_fusesKept {s t : State} (h : FusesKept s.fuses t.fuses) : lifecycle s ≤ lifecycle t := by
  by_cases hdead : t.fuses.killed
  · exact (lifecycle_le_killed s).trans_eq (lifecycle_of_killed hdead).symm
  have hlive : ¬ s.fuses.killed := fun hs => hdead (h.killed hs)
  by_cases hblank : s.fuses.share1 = []
  · rw [lifecycle_of_blank hlive hblank]
    exact Nat.zero_le _
  rw [lifecycle_of_rooted hlive hblank, lifecycle_of_rooted hdead (h.root hblank)]
  by_cases hlock : s.fuses.bankLock = true
  · rw [if_pos hlock, if_pos (h.bankLock hlock)]
  · rw [if_neg hlock]
    split <;> omega

end Sys2Proof.Machine

namespace Sys2Proof.Proofs

open Sys2Proof.Machine

/-- Settles O5: the fuses decide the lifecycle, and a step only burns them. -/
theorem lifecycleOnlyMovesForward : Obligations.LifecycleOnlyMovesForward := by
  unfold Obligations.LifecycleOnlyMovesForward
  exact fun s t hstep => lifecycle_le_of_fusesKept (step_fusesKept hstep)

end Sys2Proof.Proofs
end

section
/-! PROOFS. What an operation of the Key Vault leaves of its slots: material as two shares, the KEY record that the journal takes, and each
change that a commit applies; the statement on staged vault changes assembled from that (R132, R137, R140, R145, R147, R166, R167, R175). -/

namespace Sys2Proof.Machine

open Sys2Proof.Claims

/-! ### Material as two shares (R145) -/

/-- A mask at least as long as the key cancels. -/
theorem bxor_cancel_right {a m : Bytes} (h : a.length ≤ m.length) : bxor (bxor a m) m = a := by
  induction a, m using bxor.induct with
  | case1 => rfl
  | case2 => simp at h
  | case3 a as b bs ih => simp [bxor, ih (by simpa using h)]

/-- The same mask on both shares cancels. -/
theorem bxor_remask {a b m : Bytes} (hab : a.length = b.length) (hm : a.length ≤ m.length) : bxor (bxor a m) (bxor b m) = bxor a b := by
  induction a generalizing b m with
  | nil => rfl
  | cons x xs ih =>
    obtain _ | ⟨y, ys⟩ := b
    · simp at hab
    obtain _ | ⟨z, zs⟩ := m
    · simp at hm
    simp only [List.length_cons, Nat.add_right_cancel_iff, Nat.add_le_add_iff_right] at hab hm
    have hbyte : x ^^^ z ^^^ (y ^^^ z) = x ^^^ y := by
      rw [BitVec.xor_comm y z, ← BitVec.xor_assoc, BitVec.xor_assoc x z z, BitVec.xor_self, BitVec.xor_zero]
    simp only [bxor, hbyte, ih hab hm]

theorem length_draw (s : State) (n : Nat) : (s.draw n).length = n := by simp [State.draw]

/-- A slot whose material is given as fresh shares under the mask m. -/
def Slot.masked (x : Slot) (key m : Bytes) : Slot := { x with share1 := bxor key m, share2 := m }

theorem masked_key (x : Slot) {key m : Bytes} (h : key.length ≤ m.length) : (x.masked key m).key = key := bxor_cancel_right h

theorem setMaterial_slot (s : State) (n : Nat) (key : Bytes) (q : Nat) :
    (setMaterial s n key).slot q = if q = n then (s.slot n).masked key (s.draw key.length) else s.slot q := by
  simp only [setMaterial, drew_read_slot, modSlot_slot]
  rfl

/-! ### A flag of a record -/

theorem bit_eq_bits (v n : Nat) : bit v n = decide (bits v n n = 1) := by
  simp only [bit, bits, Nat.testBit_eq_decide_div_mod_eq, Nat.shiftRight_eq_div_pow, Nat.add_sub_cancel_left, pow_one]

/-- A flag reads as it was set. -/
theorem bit_setBits_b2n (v n : Nat) (b : Bool) : bit (setBits v n n (b2n b)) n = b := by
  rw [bit_eq_bits, bits_setBits, Nat.add_sub_cancel_left]
  cases b <;> rfl

/-! ### A KEY record for the journal (R147, R148) -/

/-- From s to u slot n becomes x but for the counts of its persisted record, and every other slot stays. -/
def Refilled (s u : State) (n : Nat) (x : Slot) : Prop :=
  (∃ p q, u.slot n = { x with persCnt := p, persQueued := q }) ∧ ∀ m, m ≠ n → u.slot m = s.slot m

theorem Refilled.key {s u : State} {n : Nat} {x : Slot} (h : Refilled s u n x) : (u.slot n).key = x.key := by
  obtain ⟨⟨p, q, hslot⟩, -⟩ := h
  rw [hslot]
  rfl

/-- The journal takes or holds a record of slot n: the slot keeps all but the counts of its persisted record. -/
structure KeyRecorded (s u : State) (n : Nat) : Prop where
  slots : Refilled s u n (s.slot n)
  frame : u = { s with vault := { s.vault with slots := u.vault.slots }, jf := u.jf }

theorem KeyRecorded.refl (s : State) (n : Nat) : KeyRecorded s s n := ⟨⟨⟨_, _, rfl⟩, fun _ _ => rfl⟩, rfl⟩

theorem KeyRecorded.trans {s t u : State} {n : Nat} (hst : KeyRecorded s t n) (htu : KeyRecorded t u n) : KeyRecorded s u n := by
  obtain ⟨⟨⟨p, q, hslot⟩, hothers⟩, hframe⟩ := hst
  obtain ⟨⟨⟨p', q', hslot'⟩, hothers'⟩, hframe'⟩ := htu
  refine ⟨⟨⟨p', q', by rw [hslot', hslot]⟩, fun m hm => (hothers' m hm).trans (hothers m hm)⟩, ?_⟩
  conv_lhs => rw [hframe', hframe]

theorem modSlot_keyRecorded (s : State) (n : Nat) {f : Slot → Slot} {p : Nat} {q : Option Nat}
    (h : f (s.slot n) = { s.slot n with persCnt := p, persQueued := q }) : KeyRecorded s (s.modSlot n f) n :=
  ⟨⟨⟨p, q, by rw [modSlot_slot, if_pos rfl, h]⟩, fun m hm => by rw [modSlot_slot, if_neg hm]⟩, rfl⟩

theorem recDurable_keyRecorded (s : State) {r : JRec} (hkind : r.kind = 4) : KeyRecorded s (recDurable s r) r.id := by
  simp only [recDurable, hkind, Nat.reduceEqDiff, if_false, if_true]
  split
  · exact .refl s r.id
  · exact modSlot_keyRecorded s r.id rfl

theorem jPut_keyRecorded (s : State) {r : JRec} (hkind : r.kind = 4) : KeyRecorded s (s.jPut r) r.id := by
  simp only [State.jPut, hkind, Nat.reduceEqDiff, false_and, if_false]
  split
  · exact recDurable_keyRecorded s (r := { r with kind := 4, qn := s.jf.qn, since := s.alm.time }) rfl
  · exact ⟨⟨⟨_, _, rfl⟩, fun _ _ => rfl⟩, rfl⟩

theorem queueKey_keyRecorded (s : State) (n : Nat) (urgent : Bool) : KeyRecorded s (queueKey s n urgent) n := by
  simp only [queueKey]
  split
  · exact .refl s n
  · exact (modSlot_keyRecorded s n rfl).trans (jPut_keyRecorded _ rfl)

theorem queueTomb_keyRecorded (s : State) (n : Nat) (x : Slot) : KeyRecorded s (queueTomb s n x) n := by
  simp only [queueTomb]
  split
  · exact .refl s n
  · exact jPut_keyRecorded s rfl

/-- A change of slot n alone, then a record of it. -/
theorem KeyRecorded.refilled {s b u : State} {n : Nat} {x : Slot} (h : KeyRecorded b u n)
    (hb : ∀ m, b.slot m = if m = n then x else s.slot m) : Refilled s u n x := by
  obtain ⟨⟨⟨p, q, hslot⟩, hothers⟩, -⟩ := h
  exact ⟨⟨p, q, by rw [hslot, hb, if_pos rfl]⟩, fun m hm => by rw [hothers m hm, hb, if_neg hm]⟩

theorem KeyRecorded.drbg {s u : State} {n : Nat} (h : KeyRecorded s u n) : u.drbg = s.drbg := by rw [h.frame]

/-! ### The changes of a commit (R140, R166, R167) -/

/-- The material of an install: as it was staged, or what a DERIVE derives from its parent as it now is (R140). -/
def installMat (s : State) (d : Bytes) (c : VaultChange) : Bytes :=
  if dOp d = 0x41 then deriveMat (s.slot (newRecord s d c.attr).parent).key (leAt d 0x0B 1) (deriveCtx d) ((s.slot (vaultSlotOf d)).gen + 1)
    (leAt c.attr 0 1)
  else c.mat

/-- The slot that an install fills, before its material (R132). -/
def installSlot (s : State) (d : Bytes) (c : VaultChange) : Slot :=
  { newRecord s d c.attr with ctx := if dOp d = 0x41 then some (deriveCtx d) else none }

/-- What an install makes of its slot (R132, R140). -/
def installed (s : State) (d : Bytes) (c : VaultChange) : Slot :=
  (installSlot s d c).masked (installMat s d c) (s.draw (installMat s d c).length)

/-- The state that an install leaves before its record goes to the journal. -/
def installBase (s : State) (d : Bytes) (c : VaultChange) : State :=
  setMaterial (s.modSlot (vaultSlotOf d) (fun _ => installSlot s d c)) (vaultSlotOf d) (installMat s d c)

theorem installBase_slot (s : State) (d : Bytes) (c : VaultChange) (m : Nat) :
    (installBase s d c).slot m = if m = vaultSlotOf d then installed s d c else s.slot m := by
  rw [installBase, setMaterial_slot, modSlot_slot, if_pos rfl]
  split
  · rfl
  · rw [modSlot_slot, if_neg ‹_›]

theorem install_eq (s : State) (d : Bytes) (c : VaultChange) :
    install s d c = queueKey (installBase s d c) (vaultSlotOf d) false := rfl

theorem installed_key (s : State) (d : Bytes) (c : VaultChange) : (installed s d c).key = installMat s d c :=
  masked_key _ (length_draw ..).ge

/-- What INVALIDATE makes of a generated key: a fresh draw under the next generation, with no use counted. -/
def renewed (s : State) (n : Nat) : Slot :=
  { s.slot n with gen := (s.slot n).gen + 1, useCnt := 0, state := 1, created := s.count + 1 }.masked
    (s.draw (algLen (s.slot n).alg)) ((s.drew (algLen (s.slot n).alg)).draw (algLen (s.slot n).alg))

theorem renew_refilled {s : State} {n : Nat} (hlevel : (s.slot n).level ≠ 1) (horigin : (s.slot n).origin % 16 = 1) :
    Refilled s (renew s n) n (renewed s n) := by
  simp only [renew, hlevel, horigin, if_false, if_true]
  refine (queueKey_keyRecorded _ n false).refilled fun m => ?_
  rw [setMaterial_slot, length_draw]
  split
  · rw [drew_read_slot, modSlot_slot, if_pos rfl]
    rfl
  · rw [drew_read_slot, modSlot_slot, if_neg ‹_›]

theorem renewed_key (s : State) (n : Nat) : (renewed s n).key = s.draw (algLen (s.slot n).alg) :=
  masked_key _ (by simp only [length_draw, le_refl])

theorem eraseSlot_refilled (s : State) (n : Nat) : Refilled s (eraseSlot s n) n { gen := (s.slot n).gen + 1 } :=
  (queueTomb_keyRecorded _ n _).refilled fun m => by rw [modSlot_slot]

/-- A limit above the count leaves the slot LIVE. -/
theorem setLimit_refilled {s : State} {d : Bytes} (h : leAt d 0x10 5 = noLimit ∨ (s.slot (vaultSlotOf d)).useCnt < leAt d 0x10 5) :
    Refilled s (setLimit s d) (vaultSlotOf d) { s.slot (vaultSlotOf d) with useLimit := leAt d 0x10 5, state := 1 } := by
  have hunspent : (decide (leAt d 0x10 5 ≠ noLimit) && decide ((s.slot (vaultSlotOf d)).useCnt ≥ leAt d 0x10 5)) = false := by
    obtain hfree | hbelow := h
    · simp [hfree]
    · simp [hbelow]
  simp only [setLimit, hunspent, Bool.false_and, Bool.false_eq_true, if_false]
  exact (queueKey_keyRecorded _ _ false).refilled fun m => by rw [modSlot_slot]

theorem setPersist_refilled (s : State) (d : Bytes) : Refilled s (setPersist s d) (vaultSlotOf d)
    { s.slot (vaultSlotOf d) with flags := setBits (s.slot (vaultSlotOf d)).flags 1 1 (b2n (bit (leAt d 0x10 1) 0)) } := by
  simp only [setPersist]
  split
  · exact (queueKey_keyRecorded _ _ false).refilled fun m => by rw [modSlot_slot]
  · exact (queueTomb_keyRecorded _ _ _).refilled fun m => by rw [modSlot_slot]

/-! ### A change at its commit -/

/-- Without outputs to zeroize the end of an item changes rings and backlogs alone, found or not. -/
theorem finish_false_frame (s : State) (k i status : Nat) (result : Bytes) : finish s k i status result false = { s with
    rings := (finish s k i status result false).rings, part := (finish s k i status result false).part
    ch := (finish s k i status result false).ch } := by
  cases hfind : findItem s k i with
  | none => simp only [finish, hfind]
  | some it => exact finish_frame hfind status result

theorem finish_slot (s : State) (k i status : Nat) (result : Bytes) (q : Nat) : (finish s k i status result false).slot q = s.slot q := by
  rw [finish_false_frame]
  rfl

theorem finish_drbg (s : State) (k i status : Nat) (result : Bytes) : (finish s k i status result false).drbg = s.drbg := by
  rw [finish_false_frame]

/-- The item of a change that was applied ends OK with the slot as it now is (R170). -/
def appliedEnd (t : State) (c : VaultChange) (n created : Nat) : State := finish t c.ring c.idx stOK (vaultResult t n created 0) false

theorem Refilled.applied {s t : State} {n : Nat} {x : Slot} (h : Refilled s t n x) (c : VaultChange) (created : Nat) :
    Refilled s (appliedEnd t c n created) n x := by
  obtain ⟨⟨p, q, hslot⟩, hothers⟩ := h
  exact ⟨⟨p, q, by rw [appliedEnd, finish_slot, hslot]⟩, fun m hm => by rw [appliedEnd, finish_slot, hothers m hm]⟩

/-- A vault completion tells of the slot alone (R170). -/
theorem vaultResult_of_slot {s t : State} {n : Nat} (created aux : Nat) (h : t.slot n = s.slot n) :
    vaultResult t n created aux = vaultResult s n created aux := by
  simp only [vaultResult, h]

/-- The LOCK of the operator bank is blown, and the log tells (R175). -/
def bankClosed (s : State) : State :=
  { s with fuses := { s.fuses with bankLock := true } }.logPut 0x90 0 (toLe 1 1 ++ toLe 1 2)

theorem bankClosed_frame (s : State) : bankClosed s =
    { s with fuses := { s.fuses with bankLock := true }, regs := (bankClosed s).regs, log := (bankClosed s).log } := logPut_frame ..

theorem bankClosed_slot (s : State) : (bankClosed s).slot = s.slot := by
  rw [bankClosed_frame]
  rfl

section
variable {s : State} {v : VaultShadow} {c : VaultChange} {it : Item} (h : Commits s c it)
include h

theorem commitVaultOne_of_install (hop : dOp it.desc ≤ 0x43) (hok : installCheck s v it.desc c = stOK) :
    (commitVaultOne (s, v) c).1 = appliedEnd (install s it.desc c) c (vaultSlotOf it.desc) (s.count + 1) := by
  obtain ⟨hfixed, hfail, hfind, hseq⟩ := h
  have hring : dOp it.desc ≠ 0x78 := by omega
  simp only [commitVaultOne, hfixed, hfail, hfind, hseq, hring, hop, hok, ne_eq, not_true_eq_false, if_true, if_false]
  rfl

theorem commitVaultOne_of_subject (hop : 0x43 < dOp it.desc) (hclose : dOp it.desc ≠ 0x59) (hring : dOp it.desc ≠ 0x78)
    (hok : subjectCheck s it.desc = stOK) :
    (commitVaultOne (s, v) c).1 = appliedEnd
      (if dOp it.desc = 0x46 then renew s (vaultSlotOf it.desc) else if dOp it.desc = 0x47 then eraseSlot s (vaultSlotOf it.desc)
        else if dOp it.desc = 0x48 then setLimit s it.desc else setPersist s it.desc) c (vaultSlotOf it.desc) 0 := by
  obtain ⟨hfixed, hfail, hfind, hseq⟩ := h
  have hinstall : ¬ dOp it.desc ≤ 0x43 := by omega
  simp only [commitVaultOne, hfixed, hfail, hfind, hseq, hring, hclose, hinstall, hok, ne_eq, not_true_eq_false, if_false]
  split_ifs <;> rfl

theorem commitVaultOne_of_close (hop : dOp it.desc = 0x59) (hatt : s.fuses.attWritten = true) (hidle : s.vault.fuseBusy = none) :
    (commitVaultOne (s, v) c).1 = finish (bankClosed s) c.ring c.idx stOK (vaultResult s 0 0 0) false := by
  obtain ⟨hfixed, hfail, hfind, hseq⟩ := h
  rw [← vaultResult_of_slot (t := bankClosed s) 0 0 (congrFun (bankClosed_slot s) 0)]
  have hburns : (s.fuses.attWritten && s.vault.fuseBusy.isNone) = true := by simp [hatt, hidle]
  simp only [commitVaultOne, hfixed, hfail, hfind, hseq, hop, hburns, ne_eq, not_true_eq_false, if_true, if_false, Nat.reduceEqDiff,
    Nat.reduceLeDiff]
  rfl

end

section
variable {s u : State} {v : VaultShadow} {c : VaultChange} {it : Item} (h : Commits s c it) (hu : u = (commitVaultOne (s, v) c).1)
include h hu

theorem refilled_of_install (hop : dOp it.desc ≤ 0x43) (hok : installCheck s v it.desc c = stOK) :
    Refilled s u (vaultSlotOf it.desc) (installed s it.desc c) ∧ u.drbg = s.drbg + (installMat s it.desc c).length := by
  have hqueued := queueKey_keyRecorded (installBase s it.desc c) (vaultSlotOf it.desc) false
  rw [hu, commitVaultOne_of_install h hop hok, install_eq]
  exact ⟨(hqueued.refilled (installBase_slot s it.desc c)).applied c _, (finish_drbg ..).trans hqueued.drbg⟩

theorem refilled_of_invalidate (hop : dOp it.desc = 0x46) (hok : subjectCheck s it.desc = stOK)
    (hlevel : (s.slot (vaultSlotOf it.desc)).level ≠ 1) (horigin : (s.slot (vaultSlotOf it.desc)).origin % 16 = 1) :
    Refilled s u (vaultSlotOf it.desc) (renewed s (vaultSlotOf it.desc)) := by
  rw [hu, commitVaultOne_of_subject h (by omega) (by omega) (by omega) hok, if_pos hop]
  exact (renew_refilled hlevel horigin).applied c 0

theorem refilled_of_erase (hop : dOp it.desc = 0x47) (hok : subjectCheck s it.desc = stOK) :
    Refilled s u (vaultSlotOf it.desc) { gen := (s.slot (vaultSlotOf it.desc)).gen + 1 } := by
  rw [hu, commitVaultOne_of_subject h (by omega) (by omega) (by omega) hok, if_neg (by omega), if_pos hop]
  exact (eraseSlot_refilled ..).applied c 0

theorem refilled_of_limit (hop : dOp it.desc = 0x48) (hok : subjectCheck s it.desc = stOK)
    (hlimit : leAt it.desc 0x10 5 = noLimit ∨ (s.slot (vaultSlotOf it.desc)).useCnt < leAt it.desc 0x10 5) :
    Refilled s u (vaultSlotOf it.desc) { s.slot (vaultSlotOf it.desc) with useLimit := leAt it.desc 0x10 5, state := 1 } := by
  rw [hu, commitVaultOne_of_subject h (by omega) (by omega) (by omega) hok, if_neg (by omega), if_neg (by omega), if_pos hop]
  exact (setLimit_refilled hlimit).applied c 0

theorem refilled_of_persist (hop : dOp it.desc = 0x45) (hok : subjectCheck s it.desc = stOK) :
    Refilled s u (vaultSlotOf it.desc) { s.slot (vaultSlotOf it.desc) with
      flags := setBits (s.slot (vaultSlotOf it.desc)).flags 1 1 (b2n (bit (leAt it.desc 0x10 1) 0)) } := by
  rw [hu, commitVaultOne_of_subject h (by omega) (by omega) (by omega) hok, if_neg (by omega), if_neg (by omega), if_neg (by omega)]
  exact (setPersist_refilled ..).applied c 0

theorem closed_of_close (hop : dOp it.desc = 0x59) (hatt : s.fuses.attWritten = true) (hidle : s.vault.fuseBusy = none) :
    u.fuses = { s.fuses with bankLock := true } ∧ u.vault = s.vault ∧ Ended u c.ring c.idx stOK false (vaultResult s 0 0 0) := by
  obtain ⟨-, -, hfind, -⟩ := id h
  have hstill : findItem (bankClosed s) c.ring c.idx = some it := by
    rw [bankClosed_frame]
    exact hfind
  rw [hu, commitVaultOne_of_close h hop hatt hidle]
  refine ⟨?_, ?_, ended_of_open hstill ..⟩
  all_goals
    rw [finish_false_frame, bankClosed_frame]

end

end Sys2Proof.Machine

namespace Sys2Proof.Proofs

open Sys2Proof.Machine Sys2Proof.Claims

/-- Settles O44: each change is brought to the slot that it leaves, whose fields are then read off. -/
theorem stagedVaultChangesCommit : Obligations.StagedVaultChangesCommit := by
  unfold Obligations.StagedVaultChangesCommit
  intro s v c it n h hn
  subst hn
  refine ⟨fun _ hop hderive hok u hu => ?install, fun hop hok u hu => ?derive, fun hop hok hlevel horigin u hu => ?invalidate,
    fun hop hok u hu => ?erase, fun hop hok hlimit u hu => ?limit, fun hop hok u hu => ?persist,
    fun hop hatt hidle u hu => closed_of_close h hu hop hatt hidle⟩
  case install =>
    obtain ⟨hfilled, hdrbg⟩ := refilled_of_install h hu hop hok
    have hmat : installMat s it.desc c = c.mat := if_neg hderive
    have hkey := hfilled.key.trans ((installed_key ..).trans hmat)
    obtain ⟨⟨p, q, hslot⟩, hothers⟩ := hfilled
    rw [hmat] at hdrbg
    rw [hslot] at hkey ⊢
    exact ⟨rfl, rfl, hkey, rfl, rfl, rfl, rfl, hothers, hdrbg⟩
  case derive =>
    obtain ⟨hfilled, -⟩ := refilled_of_install h hu (by omega) hok
    have hkey := hfilled.key.trans ((installed_key ..).trans (if_pos hop))
    obtain ⟨⟨p, q, hslot⟩, hothers⟩ := hfilled
    rw [hslot] at hkey ⊢
    exact ⟨rfl, rfl, rfl, rfl, hkey, hothers⟩
  case invalidate =>
    have hfilled := refilled_of_invalidate h hu hop hok hlevel horigin
    have hkey := hfilled.key.trans (renewed_key ..)
    obtain ⟨⟨p, q, hslot⟩, hothers⟩ := hfilled
    rw [hslot] at hkey ⊢
    exact ⟨rfl, rfl, rfl, rfl, hkey, hothers⟩
  case erase =>
    obtain ⟨⟨p, q, hslot⟩, hothers⟩ := refilled_of_erase h hu hop hok
    rw [hslot]
    exact ⟨rfl, rfl, rfl, rfl, hothers⟩
  case limit =>
    have hfilled := refilled_of_limit h hu hop hok hlimit
    have hkey := hfilled.key
    obtain ⟨⟨p, q, hslot⟩, hothers⟩ := hfilled
    rw [hslot] at hkey ⊢
    exact ⟨rfl, rfl, rfl, hkey, hothers⟩
  case persist =>
    have hfilled := refilled_of_persist h hu hop hok
    have hkey := hfilled.key
    obtain ⟨⟨p, q, hslot⟩, hothers⟩ := hfilled
    rw [hslot] at hkey ⊢
    exact ⟨bit_setBits_b2n .., rfl, hkey, hothers⟩

end Sys2Proof.Proofs
end

section
/-! PROOFS. The alarm line rises (R20, R84, R485, R500 to R502): what of the state the erase spares, operation by operation, which stores
it empties, and what the rise leaves. -/

namespace Sys2Proof.Machine

open Sys2Proof.Claims

/-- The fields that no step of the alarm erase writes, the vault and the fuses among them; the others are blank. -/
def State.spared (s : State) : State := { s with
  regs := {}, rings := [], ch := [], jf := {}, mem := {}, link := {}, flash := {}, log := {}, alm := {}, ledger := {}, conv := {}
  krysa := {}, nms := {}, dram := [], dmErr := [], outs := [] }

theorem foldl_spared {β : Type} {f : State → β → State} (h : ∀ s x, (f s x).spared = s.spared) (l : List β) (s : State) :
    (l.foldl f s).spared = s.spared := by
  induction l generalizing s with
  | nil => rfl
  | cons x l ih => exact (ih _).trans (h s x)

theorem foldl_fst_spared {β γ : Type} {f : State × γ → β → State × γ} (h : ∀ p x, (f p x).1.spared = p.1.spared) (l : List β)
    (p : State × γ) : (l.foldl f p).1.spared = p.1.spared := by
  induction l generalizing p with
  | nil => rfl
  | cons x l ih => exact (ih _).trans (h p x)

theorem boot_of_spared {s t : State} (h : t.spared = s.spared) : t.boot = s.boot :=
  (congrArg State.boot h : t.spared.boot = s.spared.boot)

/-! ### The Almanac is written back (R359) -/

theorem modAlm_spared (s : State) (f : Almanac → Almanac) : (s.modAlm f).spared = s.spared := rfl
theorem dramPut_spared (s : State) (a : Nat) (b : Bytes) : (dramPut s a b).spared = s.spared := rfl
theorem almCe_spared (s : State) : (almCe s).spared = s.spared := rfl
theorem almDropGroup_spared (s : State) (j : Nat) : (almDropGroup s j).spared = s.spared := rfl
theorem almClose_spared (s : State) (b : Bytes) (e mj mn : Nat) (pt : Bytes) : (almClose s b e mj mn pt).1.spared = s.spared := rfl

theorem touchAlm_spared (s : State) (k i : Nat) (f : AlmNode → AlmNode) : (touchAlm s k i f).spared = s.spared := by
  unfold touchAlm
  split <;> rfl

theorem almSetTag_spared (s : State) (j : Nat) (b : Bytes) : (almSetTag s j b).spared = s.spared := touchAlm_spared ..

theorem setAlmSeal_spared (s : State) (k i v : Nat) : (setAlmSeal s k i v).spared = s.spared := by
  unfold setAlmSeal
  split
  · rfl
  · exact touchAlm_spared ..

theorem almEvict_spared (f : Nat) (s : State) (n : AlmNode) : (almEvict f s n).spared = s.spared := by
  induction f generalizing s n with
  | zero => rfl
  | succ f ih =>
    have hbelow (l : List AlmNode) : (if n.level = 0 then s else l.foldl (almEvict f) s).spared = s.spared := by
      split
      · rfl
      · exact foldl_spared ih l s
    unfold almEvict
    grind only [modAlm_spared, setAlmSeal_spared, dramPut_spared]

theorem almInsert_spared (s : State) (j : Nat) (n : AlmNode) : (almInsert s j n).spared = s.spared := by
  unfold almInsert
  grind only [modAlm_spared, almEvict_spared]

theorem almLevel_spared (s : State) (j k : Nat) : (almLevel s j k).1.spared = s.spared := by
  unfold almLevel
  grind only [almCe_spared, almInsert_spared, setAlmSeal_spared, touchAlm_spared]

theorem almTag_spared (s : State) (j : Nat) : (almTag s j).1.spared = s.spared := by
  have hlevel (p : State × Option AlmStop) (k : Nat) : (match p.2 with
      | some _ => p
      | none => almLevel p.1 j k).1.spared = p.1.spared := by
    split
    · rfl
    · exact almLevel_spared ..
  have hpath := foldl_fst_spared hlevel (List.range (almDepth s.alm.log2 + 1)).reverse (s, none)
  simp only [almTag]
  repeat' split
  all_goals exact hpath

theorem almWrap_spared (s : State) (j e : Nat) (b pt : Bytes) : (almWrap s j e b pt).spared = s.spared := by
  simp only [almWrap]
  split
  · exact (almDropGroup_spared ..).trans (almSetTag_spared ..)
  · refine (almSetTag_spared ..).trans (foldl_fst_spared (fun p i => ?_) _ _)
    repeat' split
    all_goals rfl

theorem almFlush_spared (s : State) (c : AlmCached) : (almFlush s c).1.spared = s.spared := by
  unfold almFlush
  grind only [almClose_spared, almDropGroup_spared, almSetTag_spared, almTag_spared, almWrap_spared]

theorem flushAlm_spared (s : State) : (flushAlm s).spared = s.spared :=
  (foldl_spared (almEvict_spared 10) _ _).trans (foldl_spared almFlush_spared _ _)

/-! ### The other steps of the erase (R57, R284, R501) -/

theorem finishProgram_spared (s : State) : (finishProgram s).spared = s.spared := by
  unfold finishProgram
  split <;> rfl

theorem closeMemory_spared (s : State) : (closeMemory s).spared = s.spared := by
  refine foldl_spared (fun t x => ?_) _ _
  split <;> rfl

theorem ledgerClear_frame (s : State) : ledgerClear s =
    { s with rings := (ledgerClear s).rings, ledger := { s.ledger with held := [] } } := by
  have hloop (l : List HeldFrame) (t : State) : l.foldl (fun t h => unreserve t h.ring) t =
      { t with rings := (l.foldl (fun t h => unreserve t h.ring) t).rings } := by
    induction l generalizing t with
    | nil => rfl
    | cons x l ih => exact ih _
  simp only [ledgerClear, State.modLg]
  rw [hloop]

theorem stopJobs_frame (s : State) : stopJobs s = { s with mem := (stopJobs s).mem, regs := (stopJobs s).regs } := by
  unfold stopJobs
  dsimp only
  split <;> rfl

theorem zeroJobs_frame (s : State) : zeroJobs s = { s with mem := (zeroJobs s).mem, regs := (zeroJobs s).regs } := by
  unfold zeroJobs
  dsimp only
  conv_lhs => rw [stopJobs_frame]

/-- The stores of R501 step 3 but those that hold keys, in the order of the erase. -/
def eraseStores (s : State) : State :=
  (krZero (ledgerClear (convZero (almZero (closeMemory (flushAlm (finishProgram s))))))).modJf
    (fun j => { j with queue := [], syncs := [], cur := none, granted := 0, ahead := [], queuedLeases := [] })

theorem ledgerClear_spared (s : State) : (ledgerClear s).spared = s.spared := by
  rw [ledgerClear_frame]
  rfl

theorem almZero_spared (s : State) : (almZero s).spared = s.spared := rfl
theorem convZero_spared (s : State) : (convZero s).spared = s.spared := rfl
theorem krZero_spared (s : State) : (krZero s).spared = s.spared := rfl
theorem modJf_spared (s : State) (f : Journal → Journal) : (s.modJf f).spared = s.spared := rfl

theorem eraseStores_spared (s : State) : (eraseStores s).spared = s.spared := by
  rw [eraseStores, modJf_spared, krZero_spared, ledgerClear_spared, convZero_spared, almZero_spared, closeMemory_spared, flushAlm_spared,
    finishProgram_spared]

theorem ledgerClear_conv (s : State) : (ledgerClear s).conv = s.conv := by rw [ledgerClear_frame]

theorem eraseStores_conv (s : State) : (eraseStores s).conv.table = [] :=
  congrArg Convs.table (ledgerClear_conv (convZero (almZero (closeMemory (flushAlm (finishProgram s))))))

theorem eraseStores_held (s : State) : (eraseStores s).ledger.held = [] := rfl
theorem eraseStores_queue (s : State) : (eraseStores s).jf.queue = [] := rfl

/-! ### Keys (R20) -/

/-- What a table reads at a key is its default or a value that it lists. -/
theorem tget_eq_or_mem {α : Type} (d : α) (m : Tab α) (k : Nat) : tget d m k = d ∨ ∃ c ∈ m, tget d m k = c.2 := by
  induction m with
  | nil => exact .inl rfl
  | cons c m ih =>
    obtain ⟨a, v⟩ := c
    unfold tget
    split
    · exact .inr ⟨_, List.mem_cons_self, rfl⟩
    · obtain hd | ⟨x, hx, hv⟩ := ih
      · exact .inl hd
      · exact .inr ⟨x, List.mem_cons_of_mem _ hx, hv⟩

theorem cutBurn_frame (s : State) : cutBurn s = { s with fuses := (cutBurn s).fuses } := by
  unfold cutBurn
  split <;> rfl

/-- The vault after its keys are zeroized: of each slot the generation alone stays. -/
def Vault.zeroed (v : Vault) : Vault :=
  { v with slots := tmap {} v.slots (fun _ x => { gen := x.gen }), root := none, staged := [], immediate := 0, fuseBusy := none }

theorem zeroKeys_spared (s : State) : (zeroKeys s).spared = { s.spared with fuses := (cutBurn s).fuses, vault := s.vault.zeroed } := by
  have hcut : (cutBurn s).spared = { s.spared with fuses := (cutBurn s).fuses } := by
    conv_lhs => rw [cutBurn_frame]
    rfl
  have hvault : (cutBurn s).vault = s.vault := by rw [cutBurn_frame]
  unfold zeroKeys
  generalize cutBurn s = t at hcut hvault ⊢
  rw [← hvault]
  exact congrArg (fun v : State => { v with vault := t.vault.zeroed }) hcut

theorem zeroKeys_vault (s : State) : (zeroKeys s).vault = s.vault.zeroed :=
  (congrArg State.vault (zeroKeys_spared s) : (zeroKeys s).spared.vault = _)

theorem zeroKeys_stores (s : State) : (zeroKeys s).ledger = s.ledger ∧ (zeroKeys s).jf = s.jf ∧
    (zeroKeys s).conv.table = s.conv.table.map (fun (c : Nat × Conv) => (c.1, { c.2 with key := [], keyRef := none })) := by
  have hledger : (cutBurn s).ledger = s.ledger := by rw [cutBurn_frame]
  have hjf : (cutBurn s).jf = s.jf := by rw [cutBurn_frame]
  have hconv : (cutBurn s).conv = s.conv := by rw [cutBurn_frame]
  unfold zeroKeys
  generalize cutBurn s = t at *
  rw [← hconv]
  exact ⟨hledger, hjf, rfl⟩

theorem zeroKeys_keysGone (s : State) : KeysGone (zeroKeys s) := by
  refine ⟨rfl, fun n => ?slots, fun n => ?banks, rfl, rfl, fun id => ?convs⟩
  case slots =>
    unfold State.slot
    rw [zeroKeys_vault]
    obtain hblank | ⟨c, hc, hx⟩ := tget_eq_or_mem {} s.vault.zeroed.slots n
    · rw [hblank]
      exact ⟨rfl, rfl, rfl⟩
    · obtain ⟨x, -, rfl⟩ := List.mem_map.mp (List.mem_filter.mp hc).1
      rw [hx]
      exact ⟨rfl, rfl, rfl⟩
  case banks =>
    obtain hblank | ⟨c, hc, hx⟩ := tget_eq_or_mem {} (zeroKeys s).ch n
    · exact congrArg Chan.bank hblank
    · obtain ⟨x, -, rfl⟩ := List.mem_map.mp hc
      exact congrArg Chan.bank hx
  case convs =>
    obtain hblank | ⟨c, hc, hx⟩ := tget_eq_or_mem {} (zeroKeys s).conv.table id
    · exact congrArg Conv.key hblank
    · obtain ⟨x, -, rfl⟩ := List.mem_map.mp hc
      exact congrArg Conv.key hx

/-! ### The commit that is given up (R84) -/

/-- Under the alarm the port uses no key: an access is refused, or passes outside every region. -/
theorem memAccess_spared {s : State} (halarm : s.boot.alarm = true) (addr cls tag : Nat) (write : Bool) (data : Bytes) (be : Nat) :
    (memAccess s addr cls tag write data be).spared = s.spared := by
  have haccept : accept s addr cls write = (s, .pass) ∨ ∃ reason, accept s addr cls write = (s, .refused reason) := by
    rw [accept_eq]
    cases hmeta : (metaAreas s).any (inArea (addr % 2 ^ 40 / 64 * 64)) with
    | true => exact .inr ⟨_, checkLine_metadata hmeta⟩
    | false =>
      cases hregion : regionOf s (addr % 2 ^ 40 / 64 * 64) with
      | none => exact .inl (checkLine_outside hmeta hregion)
      | some n =>
        have hclosed : refusal s n (addr % 2 ^ 40 / 64 * 64) (addr / 2 ^ 40 % 256) cls write = 9 := if_pos (by simp [memClosed, halarm])
        exact .inr ⟨_, checkLine_refused hmeta hregion (by rw [hclosed]; decide)⟩
  obtain hpass | ⟨reason, hrefused⟩ := haccept
  · rw [memAccess_pass tag data be hpass rfl]
    split
    · simp only [serve, serveCore, if_true]
      split <;> rfl
    · rfl
  · rw [memAccess_refused tag data be hrefused, denied, denyCount_frame]
    rfl

theorem releaseOne_spared {s : State} (halarm : s.boot.alarm = true) (c : Instr) : (releaseOne s c).spared = s.spared := by
  have hdead : linkDead s = true := by simp [linkDead, halarm]
  unfold releaseOne
  split
  · exact memAccess_spared halarm ..
  · exact memAccess_spared halarm ..
  · rw [if_pos hdead]
  · rw [if_pos hdead]
  · simp only [heartbeatSend, hdead, Bool.true_or, if_true]
  · rfl

theorem foldl_releaseOne_spared (l : List Instr) {s : State} (halarm : s.boot.alarm = true) : (l.foldl releaseOne s).spared = s.spared := by
  induction l generalizing s with
  | nil => rfl
  | cons c l ih =>
    have hone := releaseOne_spared halarm c
    have hstill : (releaseOne s c).boot.alarm = true := by rw [boot_of_spared hone, halarm]
    exact (ih hstill).trans hone

/-- The tick after a commit is given up. -/
def Tick.dropped (t : Tick) : Tick := { t with due := false, fixed := false, early := none, closed := true }

theorem dropCommit_spared {s : State} (halarm : s.boot.alarm = true) :
    (dropCommit s).spared = { s.spared with tick := s.tick.dropped, lateWr := [], portHeld := [] } := by
  have hdead : linkDead { s with tick := s.tick.dropped, lateWr := [] } = true := by simp [linkDead, halarm]
  have hdrop : dropCommit s = s.portHeld.foldl releaseOne { s with tick := s.tick.dropped, lateWr := [], portHeld := [] } := by
    unfold dropCommit releasePorts
    exact congrArg (fun t : State => t.portHeld.foldl releaseOne { t with portHeld := [] }) (if_pos hdead)
  rw [hdrop]
  exact foldl_releaseOne_spared _ halarm

/-! ### The rise (R500 to R502) -/

/-- The block as the alarm line has risen, before anything is given up or erased. -/
def risen (s : State) (source vg : Nat) (eraseOk : Bool) : State := { s with
  vigil := { s.vigil with cause := if s.vigil.cause = 0 then vg else s.vigil.cause }
  flt := { s.flt with
    source := source, acal := s.count % 2 ^ 32, phase := s.boot.phase
    stepDue := alarmCounts s && decide (source ≠ 3) && !s.boot.riseDone, killDue := !eraseOk, eraseFail := !eraseOk
    state := if s.boot.phase < 6 then 2 else 1, eraseNs := (Config.eraseNs s.count).toNat % 2001
    scrub := if s.boot.pfail then [] else scrubRanges s, scrubBusy := !s.boot.pfail, armed := none }
  boot := { s.boot with alarm := true, lockout := decide (s.boot.phase < 6), entering := false } }

/-- What the rise has erased when its event is raised. -/
def erased (s : State) (source vg : Nat) (eraseOk : Bool) : State := eraseStores (dropCommit (risen s source vg eraseOk))

/-- The end of the erase after the keys, and the event of the alarm. -/
def riseTail (s : State) : State := ((clearLog (zeroJobs s)).evt 0x5B00 1).modJf (fun j => { j with prog := none })

theorem alarmRise_eq (s : State) (source vg : Nat) (eraseOk : Bool) :
    alarmRise s source vg eraseOk = riseTail (zeroKeys (erased s source vg eraseOk)) := by
  simp only [alarmRise, decide_eq_true_eq]
  rfl

theorem riseTail_frame (s : State) : riseTail s = { s with
    mem := (riseTail s).mem, regs := (riseTail s).regs, log := { s.log with buf := [], lost := 0 }, jf := { s.jf with prog := none } } := by
  unfold riseTail
  generalize hz : zeroJobs s = z
  rw [zeroJobs_frame] at hz
  rw [← hz]
  rfl

theorem riseTail_spared (s : State) : (riseTail s).spared = s.spared := by
  rw [riseTail_frame]
  rfl

theorem riseTail_flag (s : State) : bit ((riseTail s).wr 0x5B00) 1 = true := bit_evt (clearLog (zeroJobs s)) 0x5B00 1

theorem keysGone_riseTail {s : State} (h : KeysGone s) : KeysGone (riseTail s) := by
  rw [riseTail_frame]
  exact h

theorem erased_spared (s : State) (source vg : Nat) (eraseOk : Bool) : (erased s source vg eraseOk).spared =
    { (risen s source vg eraseOk).spared with tick := s.tick.dropped, lateWr := [], portHeld := [] } := by
  rw [erased, eraseStores_spared, dropCommit_spared rfl]
  rfl

/-- Of what is spared the rise writes Vigil, the fault unit and the block state, the tick and what waits for a commit, the vault, and the
fuses where a burn was cut off. -/
theorem alarmRise_spared (s : State) (source vg : Nat) (eraseOk : Bool) : (alarmRise s source vg eraseOk).spared =
    { (risen s source vg eraseOk).spared with
      tick := s.tick.dropped, lateWr := [], portHeld := [], fuses := (cutBurn (erased s source vg eraseOk)).fuses
      vault := (erased s source vg eraseOk).vault.zeroed } := by
  rw [alarmRise_eq, riseTail_spared, zeroKeys_spared, erased_spared]

theorem alarmRise_fuses {s : State} (source vg : Nat) (eraseOk : Bool) (hidle : s.vault.fuseBusy = none) :
    (alarmRise s source vg eraseOk).fuses = s.fuses := by
  have hspared := erased_spared s source vg eraseOk
  have hrise := alarmRise_spared s source vg eraseOk
  generalize erased s source vg eraseOk = e at *
  generalize alarmRise s source vg eraseOk = u at *
  have hvault : e.vault = s.vault := (congrArg State.vault hspared : e.spared.vault = _)
  have hcut : cutBurn e = e := by simp only [cutBurn, hvault, hidle]
  calc
    u.fuses = (cutBurn e).fuses := (congrArg State.fuses hrise : u.spared.fuses = _)
    _ = e.fuses := by rw [hcut]
    _ = s.fuses := (congrArg State.fuses hspared : e.spared.fuses = _)

theorem alarmRise_keysGone (s : State) (source vg : Nat) (eraseOk : Bool) : KeysGone (alarmRise s source vg eraseOk) := by
  rw [alarmRise_eq]
  exact keysGone_riseTail (zeroKeys_keysGone _)

/-- The stores that the erase empties besides the keys. -/
theorem alarmRise_cleared (s : State) (source vg : Nat) (eraseOk : Bool) :
    (alarmRise s source vg eraseOk).conv.table = [] ∧ (alarmRise s source vg eraseOk).ledger.held = [] ∧
    (alarmRise s source vg eraseOk).jf.queue = [] ∧ (alarmRise s source vg eraseOk).log.buf = [] := by
  obtain ⟨hledger, hjf, hconv⟩ := zeroKeys_stores (erased s source vg eraseOk)
  have htable : (erased s source vg eraseOk).conv.table = [] := eraseStores_conv _
  have hheld : (erased s source vg eraseOk).ledger.held = [] := eraseStores_held _
  have hqueue : (erased s source vg eraseOk).jf.queue = [] := eraseStores_queue _
  rw [alarmRise_eq]
  generalize erased s source vg eraseOk = e at *
  generalize zeroKeys e = z at *
  rw [riseTail_frame]
  exact ⟨by rw [hconv, htable]; rfl, by rw [hledger, hheld], by rw [hjf, hqueue], rfl⟩

theorem alarmRise_raised (s : State) (source vg : Nat) (eraseOk : Bool) : AlarmRaised s (alarmRise s source vg eraseOk) source vg eraseOk := by
  have hspared := alarmRise_spared s source vg eraseOk
  obtain ⟨hconv, hheld, hqueue, hlog⟩ := alarmRise_cleared s source vg eraseOk
  have hkeys := alarmRise_keysGone s source vg eraseOk
  have hflag : bit ((alarmRise s source vg eraseOk).wr 0x5B00) 1 = true := by
    rw [alarmRise_eq]
    exact riseTail_flag _
  generalize alarmRise s source vg eraseOk = u at *
  have htick : u.tick = s.tick.dropped := (congrArg State.tick hspared : u.spared.tick = _)
  have hflt : u.flt = (risen s source vg eraseOk).flt := (congrArg State.flt hspared : u.spared.flt = _)
  refine ⟨(congrArg State.boot hspared : u.spared.boot = _), (congrArg State.vigil hspared : u.spared.vigil = _), ?flt, ?time, hkeys, hconv,
    hheld, hqueue, hlog, by rw [htick]; rfl, by rw [htick]; rfl, hflag, (congrArg State.host hspared : u.spared.host = _),
    (congrArg State.part hspared : u.spared.part = _), (congrArg State.nodes hspared : u.spared.nodes = _),
    (congrArg State.tap hspared : u.spared.tap = _), (congrArg State.seq hspared : u.spared.seq = _),
    (congrArg State.pending hspared : u.spared.pending = _)⟩
  case flt =>
    rw [hflt]
    rfl
  case time =>
    rw [hflt]
    exact Nat.lt_succ_iff.mp (Nat.mod_lt _ (by decide))

theorem raiseAlarm_of_live {s : State} (source vg : Nat) (eraseOk : Bool) (hlive : s.halted = false) :
    raiseAlarm s source vg eraseOk = alarmRise s source vg eraseOk := by
  obtain ⟨hreset, hasleep, -⟩ := awake_of_live hlive
  have halarm : s.boot.alarm = false := by
    simp only [State.halted, Bool.or_eq_false_iff] at hlive
    obtain ⟨⟨⟨⟨⟨-, halarm⟩, -⟩, -⟩, -⟩, -⟩ := hlive
    exact halarm
  simp only [raiseAlarm, hreset, hasleep, halarm, Bool.false_eq_true, if_false]

end Sys2Proof.Machine
end

section
/-! PROOFS. The immediate and fuse commands of the Key Vault and the Octave sweep: what WRAP, QUERY, ATTEST, DELIVER, OPBANK_WRITE and a
sweep visit leave, and the statement on them assembled from that (R126, R144 to R146, R154, R165, R168 to R174, R181). -/

namespace Sys2Proof.Machine

open Sys2Proof.Claims

theorem endImmediate_slot (s : State) : (endImmediate s).slot = s.slot := rfl
theorem endImmediate_pendingOf (s : State) : pendingOf (endImmediate s) = pendingOf s := rfl
theorem endImmediate_attestMessage (s : State) : attestMessage (endImmediate s) = attestMessage s := rfl

/-! ### An item that ends after a write to memory (R109, R153) -/

theorem findItem_of_rings {s t : State} (h : t.rings = s.rings) (k i : Nat) : findItem t k i = findItem s k i := by
  simp only [findItem, State.ring, h]

section
variable {s t : State} {k i op : Nat} {it : Item}

/-- An item ends where other work has left the rings as they were and only what an end may change changed. -/
theorem itemEnds_after (hfind : findItem s k i = some it) (hrings : t.rings = s.rings) (hframe : ItemFrame s t) (status : Nat) (result : Bytes) :
    ItemEnds s (finish t k i status result false) k i status false result := by
  obtain ⟨hended, hothers, hend⟩ := itemEnds_of_open ((findItem_of_rings hrings k i).trans hfind) status result
  exact ⟨hended, fun q hq => (hothers q hq).trans (by simp only [State.ring, hrings]), ItemFrame.trans hframe hend⟩

theorem finish_dram (s : State) (k i status : Nat) (result : Bytes) : (finish s k i status result false).dram = s.dram := by
  rw [finish_false_frame]

theorem finish_vault (s : State) (k i status : Nat) (result : Bytes) : (finish s k i status result false).vault = s.vault := by
  rw [finish_false_frame]

/-- What an immediate command that wrote its output leaves. -/
abbrev Answered (s s1 u : State) (k i : Nat) (result : Bytes) : Prop :=
  ItemEnds s u k i stOK false result ∧ u.dram = s1.dram ∧ u.vault = s1.vault

theorem answered_of_written (h : Open s k i op it) {s1 : State} {a : Nat} {b : Bytes} (hwrite : hostWrite (endImmediate s) a b = (s1, true))
    (result : Bytes) : Answered s s1 (finish s1 k i stOK result false) k i result := by
  obtain ⟨-, hfind, -⟩ := h
  have hmem : MemFrame (endImmediate s) s1 := .pair hwrite (hostWrite_memFrame _ a b (.refl _))
  have hframe : ItemFrame s s1 := ItemFrame.trans (rfl : ItemFrame s (endImmediate s)) (itemFrame_of_memFrame hmem)
  exact ⟨itemEnds_after hfind hmem.rings hframe stOK result, finish_dram .., finish_vault ..⟩

theorem immediateWith_of_open (h : Open s k i op it) (f : State → Item → State) : immediateWith s k i op f = f (endImmediate s) it := by
  obtain ⟨hlive, -⟩ := id h
  simp only [immediateWith, hlive, withItem_of_open h, Bool.false_eq_true, if_false]

theorem wrapKey_of_written {s1 : State} (h : Open s k i 0x44 it) (hwrite : hostWrite (endImmediate s) (addrAt it.desc 0x18)
    (kwWrap (it.hold.take 32) (it.hold.drop 32)) = (s1, true)) : wrapKey s k i =
      finish s1 k i stOK (vaultResult s1 (vaultSlotOf it.desc) 0 (kwWrap (it.hold.take 32) (it.hold.drop 32)).length) false := by
  simp only [wrapKey, immediateWith_of_open h, hwrite]

theorem queryKey_of_written {s1 : State} (h : Open s k i 0x4A it) (hwrite : hostWrite (endImmediate s) (addrAt it.desc 0x10)
    (slotRecord (vaultSlotOf it.desc) (s.slot (vaultSlotOf it.desc)) (pendingOf s (vaultSlotOf it.desc))) = (s1, true)) :
    queryKey s k i = finish s1 k i stOK (vaultResult s1 (vaultSlotOf it.desc) 0 0) false := by
  simp only [queryKey, immediateWith_of_open h, endImmediate_slot, endImmediate_pendingOf, hwrite]

theorem attest_of_written {s1 : State} (h : Open s k i 0x50 it) (hwrite : hostWrite (endImmediate s) (addrAt it.desc 0x18)
    (attestMessage s (sub it.desc 8 16) it.cal) = (s1, true)) :
    attest s k i = finish s1 k i stOK (cmac it.hold (attestMessage s (sub it.desc 8 16) it.cal)) false := by
  simp only [attest, immediateWith_of_open h, endImmediate_attestMessage, hwrite]

end

/-! ### A key delivered to a channel (R144, R154, R168, R171, R181) -/

/-- What a delivery to channel n may change besides the end of its item: banks, usage and what follows from it. -/
structure Delivering (s t : State) (n : Nat) : Prop where
  frame : t = { s with regs := t.regs, ch := t.ch, vault := { s.vault with slots := t.vault.slots }, jf := t.jf, drbg := t.drbg }
  role : (t.chan n).role = (s.chan n).role

theorem Delivering.trans {s t u : State} {n : Nat} (hst : Delivering s t n) (htu : Delivering t u n) : Delivering s u n := by
  refine ⟨?_, htu.role.trans hst.role⟩
  conv_lhs => rw [htu.frame, hst.frame]

theorem Delivering.itemFrame {s t : State} {n : Nat} (h : Delivering s t n) : ItemFrame s t := by
  unfold ItemFrame
  rw [h.frame]

theorem delivering_modChan (s : State) (n : Nat) {f : Chan → Chan} (h : (f (s.chan n)).role = (s.chan n).role) :
    Delivering s (s.modChan n f) n := ⟨rfl, by rw [modChan_chan, if_pos rfl, h]⟩

theorem delivering_loadCopy {s t : State} {n slot gen grant : Nat} {key : Bytes} (h : loadCopy s n slot gen key grant = some t) :
    Delivering s t n := by
  unfold loadCopy at h
  split at h
  · cases h
  · cases h
    exact ⟨rfl, by rw [drew_read_chan, modChan_chan, if_pos rfl]⟩

theorem delivering_of_keyRecorded {s t : State} {m : Nat} (h : KeyRecorded s t m) (n : Nat) : Delivering s t n := by
  have hregs : t.regs = s.regs := by rw [h.frame]
  have hch : t.ch = s.ch := by rw [h.frame]
  refine ⟨?_, by simp only [State.chan, hch]⟩
  rw [hregs, hch, h.drbg]
  exact h.frame

theorem persistAhead_keyRecorded (s : State) (n : Nat) : KeyRecorded s (persistAhead s n) n := by
  unfold persistAhead
  dsimp only
  split
  · exact queueKey_keyRecorded s n true
  · exact .refl s n

theorem delivering_addUses (s : State) (slot u n : Nat) : Delivering s (addUses s slot u) n := by
  have hcounted (t : State) (h : Delivering s t n) : Delivering s (persistAhead t slot) n :=
    h.trans (delivering_of_keyRecorded (persistAhead_keyRecorded t slot) n)
  have hflagged (c : Prop) [Decidable c] (t : State) (h : Delivering s t n) : Delivering s (if c then t.evt 0x2000 0 else t) n := by
    split
    · exact h.trans ⟨rfl, rfl⟩
    · exact h
  exact hcounted _ (hflagged _ _ ⟨rfl, rfl⟩)

/-- The copy of slot at generation gen lies in a bank, pinned and confirmed under this epoch (R139, R181). -/
def PinnedIn (bank : List KeyEntry) (slot gen epoch : Nat) : Prop :=
  ∃ e ∈ bank, e.slot = slot ∧ e.gen = gen ∧ e.node = none ∧ e.pinned = true ∧ e.epoch = epoch

theorem findCopy_spec {bank : List KeyEntry} {slot gen : Nat} {e : KeyEntry} (h : findCopy bank slot gen = some e) :
    e.slot = slot ∧ e.gen = gen ∧ e.node = none := by
  have hfound := List.find?_some h
  simp only [Bool.and_eq_true, decide_eq_true_eq] at hfound
  obtain ⟨⟨hslot, hgen⟩, hnode⟩ := hfound
  exact ⟨hslot, hgen, hnode⟩

theorem pinnedIn_touchCopy {bank : List KeyEntry} {slot gen epoch : Nat} (h : (findCopy bank slot gen).isSome = true) :
    PinnedIn (touchCopy bank slot gen (fun e => { e with pinned := true, epoch := epoch })) slot gen epoch := by
  obtain ⟨e, he⟩ := Option.isSome_iff_exists.mp h
  obtain ⟨hslot, hgen, hnode⟩ := findCopy_spec he
  simp only [touchCopy, he]
  exact ⟨_, List.mem_cons_self, hslot, hgen, hnode, rfl, rfl⟩

/-- Room is made by the pin of an entry alone. -/
theorem findCopy_unpinLru {bank : List KeyEntry} {slot gen : Nat} (h : (findCopy bank slot gen).isSome = true) (other : Nat) :
    (findCopy (unpinLru other bank) slot gen).isSome = true := by
  unfold unpinLru
  dsimp only
  split
  · simp only [findCopy, List.find?_isSome, List.mem_map, exists_exists_and_eq_and] at h ⊢
    obtain ⟨e, he, hcopy⟩ := h
    refine ⟨e, he, ?_⟩
    split <;> exact hcopy
  · exact h

/-- A loaded copy is found. -/
theorem findCopy_loadCopy {s t : State} {n slot gen grant : Nat} {key : Bytes} (h : loadCopy s n slot gen key grant = some t) :
    (findCopy (t.chan n).bank slot gen).isSome = true := by
  unfold loadCopy at h
  split at h
  · cases h
  · cases h
    rw [drew_read_chan, modChan_chan, if_pos rfl]
    simp [findCopy, newCopy]

theorem delivering_pinCopy (s : State) (n slot gen : Nat) : Delivering s (pinCopy s n slot gen) n := delivering_modChan s n rfl

theorem pinnedIn_pinCopy {t : State} {n slot gen : Nat} (h : (findCopy (t.chan n).bank slot gen).isSome = true) :
    PinnedIn ((pinCopy t n slot gen).chan n).bank slot gen t.vault.epoch := by
  rw [pinCopy, modChan_chan, if_pos rfl]
  exact pinnedIn_touchCopy h

theorem releaseCost_chan (s : State) (it : Item) (n : Nat) :
    ((releaseCost s it).chan n).bank = (s.chan n).bank ∧ ((releaseCost s it).chan n).role = (s.chan n).role := by
  unfold releaseCost
  dsimp only
  split
  · simp only [State.modChan, State.chan, tget_tmod]
    split
    · subst n
      exact ⟨rfl, rfl⟩
    · exact ⟨rfl, rfl⟩
  · exact ⟨rfl, rfl⟩

theorem finish_false_chan (s : State) (k i status : Nat) (result : Bytes) (n : Nat) :
    ((finish s k i status result false).chan n).bank = (s.chan n).bank ∧ ((finish s k i status result false).chan n).role = (s.chan n).role := by
  cases hfind : findItem s k i with
  | none => simp only [finish, hfind, and_self]
  | some it =>
    rw [finish_eq status result false hfind]
    exact releaseCost_chan s it n

section
variable {s : State} {k i : Nat} {it : Item}

/-- A delivery that ends OK leaves the state t to the end of its item. -/
def deliverEnd (t : State) (k i slot : Nat) : State := finish (endImmediate t) k i stOK (vaultResult t slot 0 0) false

/-- What a delivery of a key to channel n leaves. -/
abbrev Delivered (s u : State) (k i n slot gen : Nat) : Prop :=
  Ended u k i stOK false (vaultResult u slot 0 0) ∧ (∀ q, q ≠ k → u.ring q = s.ring q) ∧ ItemFrame s u ∧ PinnedCopy s u n slot gen

theorem delivered_of_delivering {t : State} {n slot gen : Nat} (hfind : findItem s k i = some it) (h : Delivering s t n)
    (hcopy : (findCopy (t.chan n).bank slot gen).isSome = true) :
    Delivered s (deliverEnd (pinCopy t n slot gen) k i slot) k i n slot gen := by
  have hpin := h.trans (delivering_pinCopy t n slot gen)
  have hcopied := pinnedIn_pinCopy hcopy
  have hepoch : t.vault.epoch = s.vault.epoch := by rw [h.frame]
  rw [hepoch] at hcopied
  generalize pinCopy t n slot gen = v at *
  have hrings : (endImmediate v).rings = s.rings := (by rw [hpin.frame] : v.rings = s.rings)
  have hframe : ItemFrame s (endImmediate v) := ItemFrame.trans hpin.itemFrame (rfl : ItemFrame v (endImmediate v))
  obtain ⟨hended, hothers, hend⟩ := itemEnds_after (t := endImmediate v) hfind hrings hframe stOK (vaultResult v slot 0 0)
  obtain ⟨hbank, hrole⟩ := finish_false_chan (endImmediate v) k i stOK (vaultResult v slot 0 0) n
  have hresult : vaultResult (deliverEnd v k i slot) slot 0 0 = vaultResult v slot 0 0 := vaultResult_of_slot 0 0 (finish_slot ..)
  refine ⟨?_, hothers, hend, ?_, hrole.trans hpin.role⟩
  · rw [hresult]
    exact hended
  · rw [deliverEnd, hbank]
    exact hcopied

theorem deliverCheck_of_admitted {c : Chan} {n : Nat} {r : KeyRef} {x : Slot} (hfence : c.fenced = false) (hlo : 1 ≤ c.role) (hhi : c.role ≤ 3)
    (hfilled : x.state ≠ 0) (horphan : x.state ≠ 3) (hgen : r.gen = 0 ∨ r.gen = x.gen) (hmasks : masksAdmit x c.role n = true) :
    deliverCheck c n r x true = stOK := by
  have hrole : ¬ (c.fenced = true ∨ c.role = 0 ∨ c.role = 4) := by
    rw [hfence]
    rintro (hf | hr | hr)
    · cases hf
    · omega
    · omega
  have hlive : ¬ (x.state = 0 ∨ (r.gen ≠ 0 ∧ r.gen ≠ x.gen)) := by
    rintro (hs | ⟨hzero, hother⟩)
    · exact hfilled hs
    · exact hgen.elim hzero hother
  simp only [deliverCheck, hrole, hlive, hmasks, horphan, Bool.not_true, Bool.true_eq_false, Bool.false_eq_true, or_self, if_false]

/-- A DELIVER whose checks pass: the bank's copy, the wait for a grant, or a new copy (R144, R171). -/
def deliverPassed (s : State) (k i n slot gen : Nat) (key : Bytes) : State :=
  let s1 := s.modChan n (fun c => { c with bank := unpinLru slot c.bank })
  match findCopy (s.chan n).bank slot gen with
  | some _ => deliverEnd (pinCopy s1 n slot gen) k i slot
  | none =>
    let now := s.slot slot
    let g := if now.gen = gen then grantSize now else 0
    if now.gen = gen ∧ g = 0 ∧ (now.useLimit = noLimit ∨ now.useCnt < now.useLimit) then s.evt 0x2000 3
    else match loadCopy s1 n slot gen key g with
      | none => finish (endImmediate s) k i stLocked (vaultResult s slot 0 0) false
      | some s => deliverEnd (pinCopy (if g = 0 then s else addUses s slot g) n slot gen) k i slot

theorem deliverKey_of_admitted (h : Open s k i 0x49 it) (hok : deliverCheck (s.chan (leAt it.desc 0x10 1 % 16)) (leAt it.desc 0x10 1 % 16)
    (keyRef it.desc 8) (slotOfRecord (it.hold.take 48)) (decide (leAt it.hold 48 1 = 1)) = stOK) : deliverKey s k i =
      deliverPassed s k i (leAt it.desc 0x10 1 % 16) (keyRef it.desc 8).slot (slotOfRecord (it.hold.take 48)).gen (it.hold.drop 49) := by
  obtain ⟨hlive, -⟩ := id h
  have hattr : stOK ≠ stAttr := by decide
  simp only [deliverKey, hlive, withItem_of_open h, hok, hattr, Bool.false_eq_true, if_false, ne_eq, not_true_eq_false]
  rfl

end

end Sys2Proof.Machine
end

section
/-! PROOFS. DELIVER, OPBANK_WRITE and the visit of the Octave sweep; the statement on the vault's immediate and fuse commands and its sweep
assembled from them (R126, R138, R144 to R146, R165, R168 to R174, R181). -/

namespace Sys2Proof.Machine

open Sys2Proof.Claims

/-! ### DELIVER past its checks (R144, R168, R171) -/

theorem addUses_ch (s : State) (slot u : Nat) : (addUses s slot u).ch = s.ch := by
  have hpersisted (t : State) : (persistAhead t slot).ch = t.ch := by rw [(persistAhead_keyRecorded t slot).frame]
  have hflagged (c : Prop) [Decidable c] (t : State) : (if c then t.evt 0x2000 0 else t).ch = t.ch := by split <;> rfl
  exact (hpersisted _).trans (hflagged _ _)

section
variable {s : State} {k i n slot gen : Nat} {it : Item} {key : Bytes}

/-- The channel with room in its bank for a pin of slot (R181). -/
def unpinned (s : State) (n slot : Nat) : State := s.modChan n (fun c => { c with bank := unpinLru slot c.bank })

theorem unpinned_delivering (s : State) (n slot : Nat) : Delivering s (unpinned s n slot) n := delivering_modChan s n rfl

/-- A copy that the bank holds is pinned where it lies. -/
theorem delivered_of_held (hfind : findItem s k i = some it) (hheld : (findCopy (s.chan n).bank slot gen).isSome = true) :
    Delivered s (deliverPassed s k i n slot gen key) k i n slot gen := by
  have hstill : (findCopy ((unpinned s n slot).chan n).bank slot gen).isSome = true := by
    rw [unpinned, modChan_chan, if_pos rfl]
    exact findCopy_unpinLru hheld slot
  obtain ⟨e, he⟩ := Option.isSome_iff_exists.mp hheld
  simp only [deliverPassed, he]
  exact delivered_of_delivering hfind (unpinned_delivering s n slot) hstill

/-- The uses that a new copy is granted of its slot as it now is. -/
def grantOf (s : State) (slot gen : Nat) : Nat := if (s.slot slot).gen = gen then grantSize (s.slot slot) else 0

/-- The grant of a limit not yet reached is held back. -/
abbrev GrantHeld (s : State) (slot gen : Nat) : Prop :=
  (s.slot slot).gen = gen ∧ grantOf s slot gen = 0 ∧ ((s.slot slot).useLimit = noLimit ∨ (s.slot slot).useCnt < (s.slot slot).useLimit)

theorem deliverPassed_of_grantHeld (hnone : findCopy (s.chan n).bank slot gen = none) (hheld : GrantHeld s slot gen) :
    deliverPassed s k i n slot gen key = s.evt 0x2000 3 := by
  simp only [deliverPassed, hnone]
  exact if_pos hheld

/-- A new copy takes its place in the bank, with its grant charged to the slot. -/
theorem delivered_of_loaded (hfind : findItem s k i = some it) (hnone : findCopy (s.chan n).bank slot gen = none)
    (hgranted : ¬ GrantHeld s slot gen) {t : State} (hload : loadCopy (unpinned s n slot) n slot gen key (grantOf s slot gen) = some t) :
    Delivered s (deliverPassed s k i n slot gen key) k i n slot gen := by
  have hpassed : deliverPassed s k i n slot gen key =
      deliverEnd (pinCopy (if grantOf s slot gen = 0 then t else addUses t slot (grantOf s slot gen)) n slot gen) k i slot := by
    simp only [deliverPassed, hnone]
    refine (if_neg hgranted).trans ?_
    simp only [unpinned, grantOf] at hload ⊢
    rw [hload]
    rfl
  have hloaded : Delivering s t n := (unpinned_delivering s n slot).trans (delivering_loadCopy hload)
  have hcopy := findCopy_loadCopy hload
  rw [hpassed]
  split
  · exact delivered_of_delivering hfind hloaded hcopy
  · refine delivered_of_delivering hfind (hloaded.trans (delivering_addUses t slot _ n)) ?_
    simp only [State.chan, addUses_ch] at hcopy ⊢
    exact hcopy

end

/-! ### OPBANK_WRITE (R165, R174) -/

/-- A bank fuse as burned, its written mark set where the read-back matches. -/
def Fuses.bankBurned (f : Fuses) (id : Nat) (w : Bytes) (back : Bool) : Fuses :=
  if id = 1 then { f with att := w, attWritten := back } else { f with du := w, duWritten := back }

/-- The vault after a burn: the slot's install staged, or the error of the bank. -/
def Vault.banked (v : Vault) (x : VaultChange) (back : Bool) : Vault :=
  if back then { v with staged := v.staged ++ [x] } else { v with opbankErr := true }

/-- The fixed slot that a bank fuse fills. -/
def bankSlot (d : Bytes) : Nat := if leAt d 8 1 = 1 then 0x00A else 0x00B

/-- The secret of a bank as its fuses hold it. -/
def bankWrapped (s : State) (d : Bytes) : Bytes := kwWrap (kdf (s.vault.root.getD []) "SX4-FUSE-WRAP" [1#8] 32) (sub d 0x10 32)

/-- The install that a burn stages. -/
def bankChange (it : Item) : VaultChange := { seq := it.seq, fixed := bankSlot it.desc, mat := sub it.desc 0x10 32 }

/-- The fuse unit is free again. -/
def fuseFreed (s : State) : State := { s with vault := { s.vault with fuseBusy := none } }

section
variable {s s1 : State} {k i : Nat} {it : Item} {ok : Bool}

/-- What a burn leaves before its item ends. -/
def bankState (s s1 : State) (it : Item) (back : Bool) : State := { s1 with
  fuses := s1.fuses.bankBurned (leAt it.desc 8 1) (bankWrapped s it.desc) back, vault := s1.vault.banked (bankChange it) back }

theorem bankState_slot (s s1 : State) (it : Item) (back : Bool) (q : Nat) : (bankState s s1 it back).slot q = s1.slot q := by
  cases back <;> rfl

theorem itemFrame_burned {s t : State} (h : ItemFrame s t) (f : Fuses) (v : Vault) :
    ItemFrame { s with fuses := f } { t with fuses := f, vault := v } := by
  unfold ItemFrame at h ⊢
  conv_lhs => rw [h]

theorem opbankWrite_of_open (h : Open s k i 0x58 it) (back : Bool)
    (hscrub : hostWrite (fuseFreed s) ((s.ring k).base + 64 * i + 0x10) (zeros 32) = (s1, ok)) : opbankWrite s k i back =
      finish (bankState s s1 it back) k i (if back then stOK else stLocked) (vaultResult s1 (bankSlot it.desc) 0 (leAt it.desc 8 1)) false := by
  obtain ⟨hlive, -⟩ := id h
  have hbase : ((fuseFreed s).ring k).base = (s.ring k).base := rfl
  have hentry : scrubEntry (fuseFreed s) k i 0x10 32 = s1 := by rw [scrubEntry, hbase, hscrub]
  have hresult : vaultResult (bankState s s1 it back) (bankSlot it.desc) 0 (leAt it.desc 8 1) =
      vaultResult s1 (bankSlot it.desc) 0 (leAt it.desc 8 1) := vaultResult_of_slot 0 _ (bankState_slot ..)
  unfold fuseFreed at hentry
  rw [← hresult]
  simp only [opbankWrite, hlive, withItem_of_open h, hentry, Bool.false_eq_true, if_false]
  cases back
  · rfl
  · rfl

theorem opbankWrite_answers (h : Open s k i 0x58 it) (back : Bool)
    (hscrub : hostWrite (fuseFreed s) ((s.ring k).base + 64 * i + 0x10) (zeros 32) = (s1, ok)) {u : State} (hu : u = opbankWrite s k i back) :
    Ended u k i (if back then stOK else stLocked) false (vaultResult s1 (bankSlot it.desc) 0 (leAt it.desc 8 1)) ∧
    (∀ q, q ≠ k → u.ring q = s.ring q) ∧ u.dram = s1.dram ∧
    u.fuses = s.fuses.bankBurned (leAt it.desc 8 1) (bankWrapped s it.desc) back ∧ u.vault = s1.vault.banked (bankChange it) back ∧
    ItemFrame { s with fuses := u.fuses } u := by
  obtain ⟨-, hfind, -⟩ := id h
  have hmem : MemFrame (fuseFreed s) s1 := .pair hscrub (hostWrite_memFrame _ _ _ (.refl _))
  have hrings : (bankState s s1 it back).rings = s.rings := hmem.rings
  have hfuses : s1.fuses = s.fuses := hmem.fuses
  have hframe : ItemFrame s s1 := ItemFrame.trans (rfl : ItemFrame s (fuseFreed s)) (itemFrame_of_memFrame hmem)
  obtain ⟨hended, hothers, hlast⟩ := itemEnds_of_open ((findItem_of_rings hrings k i).trans hfind) (if back then stOK else stLocked)
    (vaultResult s1 (bankSlot it.desc) 0 (leAt it.desc 8 1))
  have hend := finish_false_frame (bankState s s1 it back) k i (if back then stOK else stLocked)
    (vaultResult s1 (bankSlot it.desc) 0 (leAt it.desc 8 1))
  rw [← opbankWrite_of_open h back hscrub, ← hu] at hended hothers hlast hend
  refine ⟨hended, fun q hq => (hothers q hq).trans (by simp only [State.ring, hrings]), by rw [hend]; rfl, ?_, by rw [hend]; rfl, ?_⟩
  · rw [hend, ← hfuses]
    rfl
  · have hburned : u.fuses = (bankState s s1 it back).fuses := by rw [hend]
    rw [hburned]
    exact ItemFrame.trans (itemFrame_burned hframe _ _) hlast

end

/-! ### A visit of the Octave sweep (R138, R145, R146) -/

/-- Both shares under a new mask. -/
def Slot.remask (x : Slot) (m : Bytes) : Slot := { x with share1 := bxor x.share1 m, share2 := bxor x.share2 m }

theorem remask_key {x : Slot} {m : Bytes} (hshares : x.share1.length = x.share2.length) (hm : x.share1.length ≤ m.length) :
    (x.remask m).key = x.key := bxor_remask hshares hm

theorem bxor_nil (a : Bytes) : bxor a [] = a := by cases a <;> rfl

/-- The visited slot under a new mask, if it has material, and the sweep at the next slot. -/
def remasked (s : State) : State :=
  let n := s.vault.sweep
  let x := s.slot n
  let t := if x.share1 = [] then s else (s.modSlot n (fun x => x.remask (s.draw (s.slot n).share1.length))).drew x.share1.length
  { t with vault := { t.vault with sweep := n + 1 } }

theorem remasked_slot (s : State) (q : Nat) : (remasked s).slot q =
    if q = s.vault.sweep then (s.slot q).remask (s.draw (s.slot q).share1.length) else s.slot q := by
  unfold remasked
  dsimp only
  split
  next hempty =>
    have hsame : s.slot q = if q = s.vault.sweep then (s.slot q).remask (s.draw (s.slot q).share1.length) else s.slot q := by
      split
      · subst q
        have hdraw : s.draw (s.slot s.vault.sweep).share1.length = [] := by
          rw [hempty]
          rfl
        simp only [Slot.remask, hdraw, bxor_nil]
      · rfl
    exact hsame
  next hfilled =>
    have hmasked := modSlot_slot s s.vault.sweep (fun x => x.remask (s.draw (s.slot s.vault.sweep).share1.length)) q
    refine hmasked.trans ?_
    split
    · subst q
      rfl
    · rfl

theorem remasked_frame (s : State) : remasked s = { s with
    vault := { s.vault with slots := (remasked s).vault.slots, sweep := s.vault.sweep + 1 }
    drbg := s.drbg + (s.slot s.vault.sweep).share1.length } := by
  unfold remasked
  dsimp only
  split
  next hempty =>
    rw [hempty]
    rfl
  next hfilled => rfl

/-- A chain is told from the generations and parents of its slots. -/
theorem chainAux_congr {s t : State} (hparent : ∀ q, (t.slot q).parent = (s.slot q).parent) (hpgen : ∀ q, (t.slot q).pgen = (s.slot q).pgen)
    (hgen : ∀ q, (t.slot q).gen = (s.slot q).gen) (hrest : t.vault.restored = s.vault.restored) (f n : Nat) :
    chainAux t f n = chainAux s f n := by
  induction f generalizing n with
  | zero => rfl
  | succ f ih =>
    simp only [chainAux, chainEndsHere, hparent, hpgen, hgen, hrest, ih]
    exact if_congr Iff.rfl rfl rfl

theorem remasked_chainOk (s : State) (n : Nat) : chainOk (remasked s) n = chainOk s n := by
  have hrecord {α : Type} (f : Slot → α) (hf : ∀ x m, f (Slot.remask x m) = f x) (q : Nat) : f ((remasked s).slot q) = f (s.slot q) := by
    rw [remasked_slot]
    split
    · exact hf _ _
    · rfl
  have hrest : (remasked s).vault.restored = s.vault.restored := by rw [remasked_frame]
  have hchain := chainAux_congr (hrecord Slot.parent fun _ _ => rfl) (hrecord Slot.pgen fun _ _ => rfl) (hrecord Slot.gen fun _ _ => rfl) hrest
  simp only [chainOk, hrecord Slot.state fun _ _ => rfl, hchain]

/-- A slot whose chain is broken: without material, and reported. -/
def orphaned (s : State) (n : Nat) : State := (s.modSlot n (fun x => { x with state := 3, share1 := [], share2 := [] })).evt 0x2000 1

section
variable {s : State} (hlive : s.halted = false) (hup : s.vault.drbgUp = true) (hlt : s.vault.sweep < 4095)
include hlive hup hlt

theorem sweepVisit_eq (parityOk : Bool) (lastUs : Nat) : sweepVisit s parityOk lastUs =
    if !parityOk && decide ((s.slot s.vault.sweep).state ≠ 0) then raiseAlarm (remasked s) 2 0x10 true
    else if ((s.slot s.vault.sweep).state = 1 ∨ (s.slot s.vault.sweep).state = 2) ∧ !chainOk s s.vault.sweep then
      orphaned (remasked s) s.vault.sweep
    else remasked s := by
  have hnext : (s.vault.sweep + 1) % 4096 = s.vault.sweep + 1 := Nat.mod_eq_of_lt (by omega)
  have hinner : s.vault.sweep ≠ 4095 := by omega
  have hruns : (s.halted || !s.vault.drbgUp) = false := by simp [hlive, hup]
  rw [← remasked_chainOk]
  simp only [sweepVisit, hruns, hnext, hinner, Bool.false_eq_true, if_false, if_true, ne_eq, not_false_eq_true]
  rfl

theorem sweepVisit_of_whole (lastUs : Nat) (hchain : chainOk s s.vault.sweep = true) : sweepVisit s true lastUs = remasked s := by
  rw [sweepVisit_eq hlive hup hlt]
  simp [hchain]

theorem sweepVisit_of_broken (lastUs : Nat) (hstate : (s.slot s.vault.sweep).state = 1) (hchain : chainOk s s.vault.sweep = false) :
    sweepVisit s true lastUs = orphaned (remasked s) s.vault.sweep := by
  rw [sweepVisit_eq hlive hup hlt]
  simp [hchain, hstate]

theorem sweepVisit_of_badParity (lastUs : Nat) (hfilled : (s.slot s.vault.sweep).state ≠ 0) :
    sweepVisit s false lastUs = alarmRise (remasked s) 2 0x10 true := by
  have hstill : (remasked s).halted = false := by
    rw [remasked_frame]
    exact hlive
  rw [sweepVisit_eq hlive hup hlt, ← raiseAlarm_of_live 2 0x10 true hstill]
  simp [hfilled]

end

/-- A remasked slot takes no part in an alarm. -/
theorem alarmRaised_of_remasked {s u : State} {source vg : Nat} {eraseOk : Bool} (h : AlarmRaised (remasked s) u source vg eraseOk) :
    AlarmRaised s u source vg eraseOk := by
  rw [remasked_frame] at h
  exact h

end Sys2Proof.Machine

namespace Sys2Proof.Proofs

open Sys2Proof.Machine Sys2Proof.Claims

/-- Settles O45: each command is brought to the state it leaves before its item ends, each visit to the slot it leaves. -/
theorem vaultAnswersAtOnce : Obligations.VaultAnswersAtOnce := by
  unfold Obligations.VaultAnswersAtOnce
  intro s k i it
  refine ⟨fun s0 hs0 => ?immediate, fun n r x now h hr hn hx hnow hfence hlo hhi hfilled horphan hgen hadmit hmasks => ?deliver,
    fun s1 w n ok back h hn hw hscrub => ?opbank, fun n x lastUs hn hx hlive hup hlt hshares => ?sweep⟩
  case immediate =>
    subst hs0
    refine ⟨fun s1 out h hout hwrite => ?wrap, fun s1 h hwrite => ?query, fun s1 m h hm hwrite => ?attest⟩
    case wrap =>
      subst hout
      exact ⟨_, exec_of_eq rfl (wrapKey_of_written h hwrite), answered_of_written h hwrite _⟩
    case query => exact ⟨_, exec_of_eq rfl (queryKey_of_written h hwrite), answered_of_written h hwrite _⟩
    case attest =>
      subst hm
      exact ⟨_, exec_of_eq rfl (attest_of_written h hwrite), answered_of_written h hwrite _⟩
  case deliver =>
    subst hr hn hx hnow
    obtain ⟨-, hfind, -⟩ := id h
    have hok := deliverCheck_of_admitted hfence hlo hhi hfilled horphan hgen hmasks
    rw [← decide_eq_true hadmit] at hok
    have hpassed := deliverKey_of_admitted h hok
    refine ⟨fun hcopy => ⟨_, exec_of_eq rfl hpassed, ?_⟩, fun hnone hcurrent hzero hfree => ⟨_, exec_of_eq rfl hpassed, ?_⟩⟩
    · by_cases hheld : (findCopy (s.chan (leAt it.desc 0x10 1 % 16)).bank (keyRef it.desc 8).slot
          (slotOfRecord (it.hold.take 48)).gen).isSome = true
      · exact delivered_of_held hfind hheld
      · obtain ⟨hload, hgranted⟩ := hcopy.resolve_left hheld
        obtain ⟨t, ht⟩ := Option.isSome_iff_exists.mp hload
        refine delivered_of_loaded hfind (Option.not_isSome_iff_eq_none.mp hheld) ?_ ht
        rintro ⟨hsame, hnothing, hbelow⟩
        rw [grantOf, if_pos hsame] at hnothing
        obtain hother | hsome | ⟨hlimit, hreached⟩ := hgranted
        · exact hother hsame
        · exact hsome hnothing
        · exact hbelow.elim hlimit (by omega)
    · exact deliverPassed_of_grantHeld hnone ⟨hcurrent, (if_pos hcurrent).trans hzero, hfree⟩
  case opbank =>
    subst hn hw
    exact ⟨_, rfl, opbankWrite_answers h back hscrub rfl⟩
  case sweep =>
    subst hn hx
    have hslot := remasked_slot s s.vault.sweep
    have hothers (m : Nat) (hm : m ≠ s.vault.sweep) : (remasked s).slot m = s.slot m := by rw [remasked_slot, if_neg hm]
    rw [if_pos rfl] at hslot
    refine ⟨fun hstate hchain => ⟨_, exec_of_eq rfl (sweepVisit_of_whole hlive hup hlt lastUs hchain), ?whole⟩,
      fun hstate hchain => ⟨_, exec_of_eq rfl (sweepVisit_of_broken hlive hup hlt lastUs hstate hchain), ?broken⟩,
      fun hfilled => ⟨_, exec_of_eq rfl (sweepVisit_of_badParity hlive hup hlt lastUs hfilled), ?parity⟩⟩
    case whole =>
      refine ⟨?_, ?_, hothers, remasked_frame s⟩
      · rw [hslot]
        exact remask_key hshares (length_draw ..).ge
      · rw [hslot]
        rfl
    case broken =>
      have hemptied (m : Nat) : (orphaned (remasked s) s.vault.sweep).slot m = if m = s.vault.sweep then
          { (remasked s).slot m with state := 3, share1 := [], share2 := [] } else (remasked s).slot m := by
        refine (modSlot_slot (remasked s) s.vault.sweep _ m).trans ?_
        split
        · subst m
          rfl
        · rfl
      refine ⟨?_, fun m hm => ?_, bit_evt .., ?_⟩
      · rw [hemptied, if_pos rfl, hslot]
        rfl
      · rw [hemptied, if_neg hm, hothers m hm]
      · rw [orphaned, remasked_frame]
        rfl
    case parity =>
      refine ⟨alarmRaised_of_remasked (alarmRise_raised (remasked s) 2 0x10 true), fun hidle => ?_⟩
      have hstill : (remasked s).vault.fuseBusy = none := by
        rw [remasked_frame]
        exact hidle
      rw [alarmRise_fuses 2 0x10 true hstill, remasked_frame]

end Sys2Proof.Proofs
end

section
/-! PROOFS. The Almanac's store: what its operations leave of the rest of the state, and the end of the restore (R358, R359, R367). -/

namespace Sys2Proof.Machine

/-- The state beside the Almanac, the memory behind it and its counters; of the registers the event register of the channels. -/
def State.besideAlm (s : State) : State × Nat := ({ s with regs := {}, alm := {}, dram := [], dmErr := [] }, s.wr 0x3044)

theorem frame_of_besideAlm {s t : State} (h : t.besideAlm = s.besideAlm) :
    t = { s with regs := t.regs, alm := t.alm, dram := t.dram, dmErr := t.dmErr } :=
  congrArg (fun x => { x.1 with regs := t.regs, alm := t.alm, dram := t.dram, dmErr := t.dmErr }) h

theorem foldl_besideAlm {β : Type} {f : State → β → State} (h : ∀ s x, (f s x).besideAlm = s.besideAlm) (l : List β) (s : State) :
    (l.foldl f s).besideAlm = s.besideAlm := by
  induction l generalizing s with
  | nil => rfl
  | cons x l ih => exact (ih _).trans (h s x)

theorem foldl_fst_besideAlm {β γ : Type} {f : State × γ → β → State × γ} (h : ∀ p x, (f p x).1.besideAlm = p.1.besideAlm)
    (l : List β) (p : State × γ) : (l.foldl f p).1.besideAlm = p.1.besideAlm := by
  induction l generalizing p with
  | nil => rfl
  | cons x l ih => exact (ih _).trans (h p x)

theorem modAlm_besideAlm (s : State) (f : Almanac → Almanac) : (s.modAlm f).besideAlm = s.besideAlm := rfl
theorem dramPut_besideAlm (s : State) (a : Nat) (b : Bytes) : (dramPut s a b).besideAlm = s.besideAlm := rfl
theorem putSt_besideAlm (s : State) (off v : Nat) : (s.putSt off v).besideAlm = s.besideAlm := rfl
theorem almCe_besideAlm (s : State) : (almCe s).besideAlm = s.besideAlm := rfl
theorem almClose_besideAlm (s : State) (b : Bytes) (e mj mn : Nat) (pt : Bytes) : (almClose s b e mj mn pt).1.besideAlm = s.besideAlm := rfl

theorem evt_besideAlm (s : State) {off : Nat} (n : Nat) (hoff : 0x3044 ≠ off) : (s.evt off n).besideAlm = s.besideAlm := by
  unfold State.besideAlm
  rw [evt_wr, if_neg hoff]
  rfl

theorem almDropGroup_besideAlm (s : State) (j : Nat) : (almDropGroup s j).besideAlm = s.besideAlm :=
  evt_besideAlm _ 2 (by decide)

theorem touchAlm_besideAlm (s : State) (k i : Nat) (f : AlmNode → AlmNode) : (touchAlm s k i f).besideAlm = s.besideAlm := by
  unfold touchAlm
  split <;> rfl

theorem almSetTag_besideAlm (s : State) (j : Nat) (b : Bytes) : (almSetTag s j b).besideAlm = s.besideAlm := touchAlm_besideAlm ..

theorem setAlmSeal_besideAlm (s : State) (k i v : Nat) : (setAlmSeal s k i v).besideAlm = s.besideAlm := by
  unfold setAlmSeal
  split
  · rfl
  · exact touchAlm_besideAlm ..

theorem almEvict_besideAlm (f : Nat) (s : State) (n : AlmNode) : (almEvict f s n).besideAlm = s.besideAlm := by
  induction f generalizing s n with
  | zero => rfl
  | succ f ih =>
    have hbelow (l : List AlmNode) : (if n.level = 0 then s else l.foldl (almEvict f) s).besideAlm = s.besideAlm := by
      split
      · rfl
      · exact foldl_besideAlm ih l s
    unfold almEvict
    grind only [modAlm_besideAlm, setAlmSeal_besideAlm, dramPut_besideAlm]

theorem almInsert_besideAlm (s : State) (j : Nat) (n : AlmNode) : (almInsert s j n).besideAlm = s.besideAlm := by
  unfold almInsert
  grind only [modAlm_besideAlm, almEvict_besideAlm]

theorem almLevel_besideAlm (s : State) (j k : Nat) : (almLevel s j k).1.besideAlm = s.besideAlm := by
  unfold almLevel
  grind only [almCe_besideAlm, almInsert_besideAlm, setAlmSeal_besideAlm, touchAlm_besideAlm]

theorem almTag_besideAlm (s : State) (j : Nat) : (almTag s j).1.besideAlm = s.besideAlm := by
  have hlevel (p : State × Option AlmStop) (k : Nat) : (match p.2 with
      | some _ => p
      | none => almLevel p.1 j k).1.besideAlm = p.1.besideAlm := by
    split
    · rfl
    · exact almLevel_besideAlm ..
  have hpath := foldl_fst_besideAlm hlevel (List.range (almDepth s.alm.log2 + 1)).reverse (s, none)
  simp only [almTag]
  repeat' split
  all_goals exact hpath

theorem almWrap_besideAlm (s : State) (j e : Nat) (b pt : Bytes) : (almWrap s j e b pt).besideAlm = s.besideAlm := by
  simp only [almWrap]
  split
  · exact (almDropGroup_besideAlm ..).trans (almSetTag_besideAlm ..)
  · refine (almSetTag_besideAlm ..).trans (foldl_fst_besideAlm (fun p i => ?_) _ _)
    repeat' split
    all_goals rfl

theorem almFlush_besideAlm (s : State) (c : AlmCached) : (almFlush s c).1.besideAlm = s.besideAlm := by
  unfold almFlush
  grind only [almClose_besideAlm, almDropGroup_besideAlm, almSetTag_besideAlm, almTag_besideAlm, almWrap_besideAlm]

theorem almCache_besideAlm (s : State) (c : AlmCached) : (almCache s c).besideAlm = s.besideAlm := by
  unfold almCache
  grind only [modAlm_besideAlm, almFlush_besideAlm]

theorem almFetch_besideAlm (s : State) (e : Nat) : (almFetch s e).1.besideAlm = s.besideAlm := by
  unfold almFetch
  grind only [modAlm_besideAlm, almCache_besideAlm, almCe_besideAlm, almDropGroup_besideAlm, almTag_besideAlm]

theorem almRead_besideAlm (s : State) (e : Nat) : (almRead s e).1.besideAlm = s.besideAlm := by
  unfold almRead
  grind only [almFetch_besideAlm]

theorem almGet_besideAlm (s : State) (node : Nat) : (almGet s node).1.besideAlm = s.besideAlm := by
  unfold almGet
  grind only [almRead_besideAlm]

theorem almWrite_besideAlm (s : State) (e : Nat) (x : AlmEntry) : (almWrite s e x).besideAlm = s.besideAlm := by
  unfold almWrite
  grind only [modAlm_besideAlm, almCache_besideAlm]

theorem almGiveUp_besideAlm (s : State) (node : Nat) : (almGiveUp s node).besideAlm = s.besideAlm := by
  unfold almGiveUp
  grind only [almGet_besideAlm, almWrite_besideAlm]

/-- The restore writes entries, then counts them and raises its event (R367). -/
theorem almRestore_besideAlm (s : State) : (almRestore s).besideAlm = s.besideAlm := by
  unfold almRestore
  split
  · rfl
  · refine (evt_besideAlm _ 4 (by decide)).trans ?_
    simp only [modAlm_besideAlm, putSt_besideAlm]
    refine foldl_fst_besideAlm (fun p x => ?_) _ _
    split
    · split
      · exact almWrite_besideAlm ..
      · rfl
    · rfl

theorem almRestore_restoring {s : State} (hen : s.alm.en = true) (hwedge : s.wedged 0 = false) : (almRestore s).alm.restoring = false := by
  cases hr : s.alm.restoring with
  | false => simp [almRestore, hr]
  | true => simp [almRestore, hen, hr, hwedge]

end Sys2Proof.Machine
end

section
/-! PROOFS. What a fence leaves as it is, operation by operation: the conversations and the memory it cuts, the transactions that are
issued again, the SAs of its path (R199 to R202, R266, R267, R319). -/

namespace Sys2Proof.Machine

/-- A channel beside its backlogs and the bank of its delivered keys; the bank of a fenced channel is kept in sight. -/
def Chan.seat (x : Chan) : Chan := { x with bank := if x.fenced then x.bank else [], backP := 0, backG := 0, back0 := 0, back1 := 0 }

/-- What the operations of a fence leave as it is: the units that have no part in it, the event register of the channels, the seats. -/
structure Unfenced where
  rest : State
  events : Nat
  seats : Nat → Chan

/-- The part of the state that `Unfenced` names. -/
def State.unfenced (s : State) : Unfenced where
  rest := { s with
    regs := {}, rings := [], vault := {}, ch := [], jf := {}, mem := {}, link := {}, log := {}, alm := {}, conv := {}, dram := []
    dmErr := [], drbg := 0, outs := [] }
  events := s.wr 0x3044
  seats n := (s.chan n).seat

theorem seat_of_unfenced {s t : State} (h : t.unfenced = s.unfenced) (n : Nat) : (t.chan n).seat = (s.chan n).seat :=
  congrArg (fun x => x.seats n) h

theorem events_of_unfenced {s t : State} (h : t.unfenced = s.unfenced) : t.wr 0x3044 = s.wr 0x3044 := congrArg Unfenced.events h

theorem part_of_unfenced {s t : State} (h : t.unfenced = s.unfenced) : t.part = s.part := congrArg (fun x => x.rest.part) h

theorem boot_of_unfenced {s t : State} (h : t.unfenced = s.unfenced) : t.boot = s.boot := congrArg (fun x => x.rest.boot) h

theorem unfenced_of_besideAlm {s t : State} (h : t.besideAlm = s.besideAlm) : t.unfenced = s.unfenced := by
  have hch : t.ch = s.ch := congrArg (fun x => x.1.ch) h
  have hevents : t.wr 0x3044 = s.wr 0x3044 := congrArg Prod.snd h
  rw [frame_of_besideAlm h] at hevents ⊢
  simp only [State.unfenced, hevents, State.chan]

theorem foldl_unfenced {β : Type} {f : State → β → State} (h : ∀ s x, (f s x).unfenced = s.unfenced) (l : List β) (s : State) :
    (l.foldl f s).unfenced = s.unfenced := by
  induction l generalizing s with
  | nil => rfl
  | cons x l ih => exact (ih _).trans (h s x)

/-! ### Registers, the log and single updates -/

section
variable (s : State)

theorem putWr_unfenced {off : Nat} (v : Nat) (hoff : 0x3044 ≠ off) : (s.putWr off v).unfenced = s.unfenced := by
  unfold State.unfenced
  rw [putWr_wr, if_neg hoff]
  rfl

theorem evt_unfenced {off : Nat} (n : Nat) (hoff : 0x3044 ≠ off) : (s.evt off n).unfenced = s.unfenced := putWr_unfenced s _ hoff

theorem logPut_unfenced (ev cls : Nat) (data : Bytes) : (s.logPut ev cls data).unfenced = s.unfenced := by
  unfold State.unfenced State.chan
  rw [logPut_wr s ev cls data (by decide), logPut_frame]

theorem modChan_unfenced (n : Nat) {f : Chan → Chan} (hf : (f (s.chan n)).seat = (s.chan n).seat) :
    (s.modChan n f).unfenced = s.unfenced := by
  have hseats : (fun j => ((s.modChan n f).chan j).seat) = fun j => (s.chan j).seat := by
    funext j
    rw [modChan_chan]
    split
    · subst j
      exact hf
    · rfl
  simp only [State.unfenced, hseats, modChan_read_wr]
  rfl

theorem putSt_unfenced (off v : Nat) : (s.putSt off v).unfenced = s.unfenced := rfl
theorem inc_unfenced (off hi lo : Nat) : (s.inc off hi lo).unfenced = s.unfenced := rfl
theorem incBy_unfenced (off hi lo d : Nat) : (s.incBy off hi lo d).unfenced = s.unfenced := rfl
theorem drew_unfenced (n : Nat) : (s.drew n).unfenced = s.unfenced := rfl
theorem dramPut_unfenced (a : Nat) (b : Bytes) : (dramPut s a b).unfenced = s.unfenced := rfl
theorem setRoot_unfenced (t h v : Nat) : (setRoot s t h v).unfenced = s.unfenced := rfl
theorem withMem_unfenced (m : Mem) : ({ s with mem := m } : State).unfenced = s.unfenced := rfl
theorem modRing_unfenced (r : Nat) (f : Ring → Ring) : (s.modRing r f).unfenced = s.unfenced := rfl
theorem modMchan_unfenced (n : Nat) (f : MemChan → MemChan) : (s.modMchan n f).unfenced = s.unfenced := rfl
theorem modPath_unfenced (p : Nat) (f : Path → Path) : (s.modPath p f).unfenced = s.unfenced := rfl
theorem modSae_unfenced (p : Nat) (tx : Bool) (e : Nat) (f : SaEntry → SaEntry) : (s.modSae p tx e f).unfenced = s.unfenced := rfl
theorem modConvs_unfenced (f : Convs → Convs) : (s.modConvs f).unfenced = s.unfenced := rfl

/-! ### Events at the rings -/

theorem unreserve_unfenced (k : Nat) : (unreserve s k).unfenced = s.unfenced := rfl
theorem grantEvents_unfenced (cq : Nat) : (grantEvents s cq).unfenced = s.unfenced := rfl

theorem noteWait_unfenced (source : Nat) : (noteWait s source).unfenced = s.unfenced := by
  unfold noteWait
  split
  · exact evt_unfenced s 10 (by decide)
  · split
    · exact evt_unfenced s 2 (by decide)
    · rfl

theorem raiseEvent_unfenced (cq : Nat) (e : SrcEvt) : (raiseEvent s cq e).unfenced = s.unfenced := by
  unfold raiseEvent
  grind only [unreserve_unfenced, grantEvents_unfenced, modRing_unfenced, noteWait_unfenced]

theorem raiseOnce_unfenced (cq : Nat) (e : SrcEvt) : (raiseOnce s cq e).unfenced = s.unfenced := by
  unfold raiseOnce
  split
  · rfl
  · exact raiseEvent_unfenced ..

/-! ### Conversations (R398, R400) -/

theorem dropCost_unfenced (n : Nat) (core1 : Bool) (c : Cost) : (dropCost s n core1 c).unfenced = s.unfenced := modChan_unfenced s n rfl

theorem freeEngine_unfenced (i : Nat) : (freeEngine s i).unfenced = s.unfenced := by
  unfold freeEngine
  dsimp only
  split <;> rfl

theorem stopEngine_unfenced (i : Nat) : (stopEngine s i).unfenced = s.unfenced :=
  (freeEngine_unfenced ..).trans (dropCost_unfenced ..)

theorem convEvent_unfenced (cq tag code key : Nat) (result : Bytes) : (convEvent s cq tag code key result).unfenced = s.unfenced := by
  unfold convEvent
  grind only [raiseOnce_unfenced, raiseEvent_unfenced, modConvs_unfenced]

theorem clearConv_unfenced (id : Nat) : (clearConv s id).unfenced = s.unfenced := rfl

theorem almGiveUp_unfenced (node : Nat) : (almGiveUp s node).unfenced = s.unfenced := unfenced_of_besideAlm (almGiveUp_besideAlm s node)

theorem endConv_unfenced (id outcome detail : Nat) (implicit : Bool) : (endConv s id outcome detail implicit).unfenced = s.unfenced := by
  unfold endConv
  grind only [clearConv_unfenced, almGiveUp_unfenced, evt_unfenced, inc_unfenced, convEvent_unfenced]

theorem loseConvs_unfenced (ch : Nat) : (loseConvs s ch).unfenced = s.unfenced := by
  simp only [loseConvs, ↓foldl_unfenced, implies_true, ↓endConv_unfenced, ↓stopEngine_unfenced, ↓modConvs_unfenced]

/-! ### The caches of the channel (R266, R267) -/

theorem integEvent_unfenced (kind a n : Nat) : (integEvent s kind a n).unfenced = s.unfenced := logPut_unfenced ..

theorem countLost_unfenced (n grp : Nat) : (countLost s n grp).unfenced = s.unfenced :=
  (integEvent_unfenced ..).trans (evt_unfenced (s.modRegion n _) 3 (by decide))

theorem countSubtree_unfenced (n a : Nat) : (countSubtree s n a).unfenced = s.unfenced :=
  (integEvent_unfenced ..).trans (evt_unfenced (s.modRegion n _) 4 (by decide))

theorem memFence_unfenced (ch : Nat) : (memFence s ch).unfenced = s.unfenced := by
  simp only [memFence, ↓foldl_unfenced, implies_true, ↓countSubtree_unfenced, ↓countLost_unfenced, ↓setRoot_unfenced,
    ↓dramPut_unfenced, ↓modMchan_unfenced]

/-! ### Transactions that are issued again (R202, R217, R220) -/

theorem denyCount_unfenced (kid cls reason : Nat) : (denyCount s kid cls reason).unfenced = s.unfenced := by
  unfold denyCount
  grind only [inc_unfenced, evt_unfenced, putSt_unfenced]

theorem answer_unfenced (t : Txn) (st : Nat) (data : Bytes) : (answer s t st data).unfenced = s.unfenced := rfl

theorem dropTxn_unfenced (t : Txn) (reason : Nat) : (dropTxn s t reason).unfenced = s.unfenced := by
  rw [dropTxn, answer_unfenced, denyCount_unfenced, withMem_unfenced]

theorem keyFailed_unfenced (kid : Nat) (data : Bool) : (keyFailed s kid data none).unfenced = s.unfenced :=
  evt_unfenced (s.putStf (0x3501C + 32 * kid) (if data then 3 else 4) (if data then 3 else 4) 1) 3 (by decide)

theorem dlvRefused_unfenced : (dlvRefused s).unfenced = s.unfenced := evt_unfenced (s.inc 0x3200C 15 0) 4 (by decide)

end

section
variable {s : State} {n : Nat}

theorem fenced_of_unfenced {t : State} (h : t.unfenced = s.unfenced) (j : Nat) : (t.chan j).fenced = (s.chan j).fenced :=
  (congrArg Chan.fenced (seat_of_unfenced h j) : (t.chan j).seat.fenced = (s.chan j).seat.fenced)

/-- The bank of a channel that is not fenced is out of sight. -/
theorem rebank_unfenced (hopen : (s.chan n).fenced = false) (b : Chan → List KeyEntry) :
    (s.modChan n (fun c => { c with bank := b c })).unfenced = s.unfenced :=
  modChan_unfenced s n (by simp [Chan.seat, hopen])

theorem loadCopy_unfenced {t : State} {slot gen grant : Nat} {key : Bytes} (hopen : (s.chan n).fenced = false)
    (h : loadCopy s n slot gen key grant = some t) : t.unfenced = s.unfenced := by
  unfold loadCopy at h
  split at h
  · cases h
  · cases h
    exact (drew_unfenced ..).trans (rebank_unfenced hopen _)

/-- A use that counts nothing touches the channel's copy, or loads one. -/
theorem useCopy_unfenced (hopen : (s.chan n).fenced = false) (slot : Nat) : (useCopy s n slot 0).1.unfenced = s.unfenced := by
  have hrebank {t : State} (h : t.unfenced = s.unfenced) (b : Chan → List KeyEntry) :
      (t.modChan n (fun c => { c with bank := b c })).unfenced = s.unfenced :=
    (rebank_unfenced ((fenced_of_unfenced h n).trans hopen) b).trans h
  simp only [useCopy, ge_iff_le, Nat.zero_le, if_true]
  cases findCopy (s.chan n).bank slot (s.slot slot).gen with
  | some e => exact hrebank (hrebank rfl _) _
  | none =>
    cases hload : loadCopy s n slot (s.slot slot).gen (s.slot slot).key 0 with
    | none => rfl
    | some t => exact hrebank (loadCopy_unfenced hopen hload) _

theorem lineKey_unfenced (hopen : (s.chan n).fenced = false) (slot : Nat) : (lineKey s n slot).1.unfenced = s.unfenced := by
  have huse := useCopy_unfenced hopen slot
  unfold lineKey
  split
  all_goals
    rename_i h
    rw [h] at huse
    exact huse

theorem revalFail_unfenced (hopen : (s.chan n).fenced = false) (slot : Nat) : (revalFail s n slot).unfenced = s.unfenced := by
  unfold revalFail
  dsimp only
  split
  · exact rebank_unfenced hopen _
  · rfl

theorem memKey_unfenced (hopen : (s.chan n).fenced = false) (r : KeyRef) (data : Bool) : (memKey s n r data).1.unfenced = s.unfenced := by
  simp only [memKey, keyDenied]
  repeat' split
  · rfl
  · exact dlvRefused_unfenced s
  · exact revalFail_unfenced hopen _
  · exact lineKey_unfenced hopen _

theorem unfenced_of_memKey {a : State} {r : KeyRef} {data : Bool} {key : Option Bytes} (h : memKey s n r data = (a, key))
    (hopen : (s.chan n).fenced = false) : a.unfenced = s.unfenced := by
  rw [← memKey_unfenced hopen r data, h]

theorem fenced_of_memServed (h : memServed s n = true) : (s.chan n).fenced = false := by
  simp only [memServed, Bool.and_eq_true, Bool.not_eq_true'] at h
  exact h.2

/-- Each key of the transaction is delivered to its new channel, which is not fenced. -/
theorem reissueOne_unfenced (ch : Nat) (s : State) (t : Txn) : (reissueOne ch s t).unfenced = s.unfenced := by
  have hdrop {a : State} (h : a.unfenced = s.unfenced) (kid : Nat) (data : Bool) :
      (dropTxn (keyFailed a kid data none) t 9).unfenced = s.unfenced :=
    (dropTxn_unfenced ..).trans ((keyFailed_unfenced ..).trans h)
  simp only [reissueOne]
  split
  · rfl
  split
  · exact dropTxn_unfenced ..
  next hserved =>
  have hopen {a : State} (h : a.unfenced = s.unfenced) : (a.chan (s.steerOf t.addr)).fenced = false :=
    (fenced_of_unfenced h _).trans (fenced_of_memServed (by simpa using hserved))
  split
  next h => exact hdrop (unfenced_of_memKey h (hopen rfl)) ..
  next h =>
  have hdata := unfenced_of_memKey h (hopen rfl)
  split
  · exact (withMem_unfenced ..).trans hdata
  split
  next h => exact hdrop ((unfenced_of_memKey h (hopen hdata)).trans hdata) ..
  next h =>
  have htag := (unfenced_of_memKey h (hopen hdata)).trans hdata
  split
  · exact (withMem_unfenced ..).trans htag
  split
  next h => exact hdrop ((unfenced_of_memKey h (hopen htag)).trans htag) ..
  next h => exact (withMem_unfenced ..).trans ((unfenced_of_memKey h (hopen htag)).trans htag)

theorem reissue_unfenced (s : State) (ch : Nat) : (reissue s ch).unfenced = s.unfenced := foldl_unfenced (reissueOne_unfenced ch) _ _

end

/-! ### The path of a LINK channel (R311, R319) -/

section
variable (s : State) (p : Nat)

theorem linkEvent_unfenced (tx : Bool) (code status key : Nat) (result : Bytes) :
    (linkEvent s p tx code status key result).unfenced = s.unfenced := by
  unfold linkEvent
  split
  · rfl
  · exact raiseOnce_unfenced ..

theorem pathEvent_unfenced (code flag : Nat) : (pathEvent s p code flag).unfenced = s.unfenced :=
  (evt_unfenced _ _ (by decide)).trans (linkEvent_unfenced ..)

theorem saEvent_unfenced (tx : Bool) (e code status flag : Nat) : (saEvent s p tx e code status flag).unfenced = s.unfenced :=
  (evt_unfenced _ _ (by decide)).trans (linkEvent_unfenced ..)

theorem killEntry_unfenced (tx : Bool) (e status : Nat) : (killEntry s p tx e status).unfenced = s.unfenced :=
  (saEvent_unfenced ..).trans (modSae_unfenced ..)

theorem takeoverSas_unfenced (tx : Bool) (n : Nat) : (takeoverSas s p tx n).unfenced = s.unfenced := by
  refine foldl_unfenced (fun t e => ?_) _ _
  dsimp only
  split
  · rfl
  · exact killEntry_unfenced ..

theorem notGood_unfenced : (notGood s p).unfenced = s.unfenced := rfl
theorem toDown_unfenced : (toDown s p).unfenced = s.unfenced := rfl

theorem failPath_unfenced : (failPath s p).unfenced = s.unfenced := by
  unfold failPath
  grind only [logPut_unfenced, pathEvent_unfenced, modPath_unfenced, toDown_unfenced, inc_unfenced, notGood_unfenced]

theorem linkFence_unfenced (tx : Bool) (spare : Option Nat) : (linkFence s p tx spare).unfenced = s.unfenced := by
  unfold linkFence
  grind only [modPath_unfenced, incBy_unfenced, takeoverSas_unfenced, failPath_unfenced, notGood_unfenced]

end

end Sys2Proof.Machine
end

section
/-! PROOFS. A fence: the channel it marks, the spare that takes its place, and what it leaves of the rest (R199 to R202, R266, R267). -/

namespace Sys2Proof.Machine

open Sys2Proof.Claims

/-- A fenced channel as a fence leaves it (R199). -/
def Chan.fencedBy (x : Chan) (cause cal : Nat) : Chan :=
  { x with fenced := true, cause := cause, faultCal := cal, powered := false, needKat := false, bank := [] }

/-- The spare y in the place of channel x (R201). -/
def Chan.heirOf (y x : Chan) : Chan := { y with
  role := x.role, replacing := true, ringsOf := x.ringsOf, shareP := x.shareP, shareG := x.shareG, backP := 0, backG := 0
  back0 := 0, back1 := 0, rr := 0, stepPassed := false, bank := [] }

/-- The spare that takes the place of channel n: a SPARE has none (R201). -/
def fenceHeir (s : State) (n : Nat) : Option Nat := if (s.chan n).role = 4 then none else spareChan s

/-- The first steps of a fence: the channel is marked, its events rise, and it waits for no token. -/
def fenceMarked (s : State) (n cause : Nat) : State :=
  let x := s.chan n
  let t := s.modChan n (fun y => y.fencedBy cause (s.count % 2 ^ 24))
  let t := if x.role = 4 ∧ cause = 7 then t.evt 0x3044 3 else t
  let t := (t.evt 0x3044 0).logPut 0x30 1 (toLe 1 n ++ toLe 1 cause ++ toLe 1 x.role)
  { t with boot := { t.boot with tokens := t.boot.tokens.filter (fun c => decide (c ≠ n)) } }

/-- The place of channel n passes to a spare, or is left empty (R32, R35, R201). -/
def passPlace (s : State) (x : Chan) (heir : Option Nat) (n : Nat) : State :=
  match heir with
  | some m => takeOver s n m
  | none =>
    let s := { s with part := { s.part with voided := s.part.voided ++ [n] } }
    let s := if x.role = 4 then s else s.evt 0x3044 2
    if x.role = 1 ∨ s.part.steer.contains n then redistribute s n else s

/-- The state in which the place of a fenced channel passes: its conversations and caches are gone. -/
def fenceCut (s : State) (n cause : Nat) : State := memFence (loseConvs (fenceMarked s n cause) n) n

/-- The fields that a fence writes are free. -/
def FenceFrame (s u : State) : Prop :=
  u = { s with regs := u.regs, rings := u.rings, vault := u.vault, ch := u.ch, part := u.part, boot := u.boot, jf := u.jf, mem := u.mem
               link := u.link, log := u.log, alm := u.alm, conv := u.conv, dram := u.dram, dmErr := u.dmErr, drbg := u.drbg
               outs := u.outs }

theorem FenceFrame.trans {s t u : State} (hst : FenceFrame s t) (htu : FenceFrame t u) : FenceFrame s u := by
  unfold FenceFrame at hst htu ⊢
  conv_lhs => rw [htu, hst]

theorem fenceFrame_of_unfenced {s t : State} (h : t.unfenced = s.unfenced) : FenceFrame s t :=
  (congrArg (fun x : Unfenced => { x.rest with
    regs := t.regs, rings := t.rings, vault := t.vault, ch := t.ch, part := t.part, boot := t.boot, jf := t.jf, mem := t.mem
    link := t.link, log := t.log, alm := t.alm, conv := t.conv, dram := t.dram, dmErr := t.dmErr, drbg := t.drbg
    outs := t.outs }) h :)

theorem fenceFrame_logPut (s : State) (ev cls : Nat) (data : Bytes) : FenceFrame s (s.logPut ev cls data) :=
  fenceFrame_of_unfenced (logPut_unfenced ..)

theorem bit_or_pow (v n : Nat) : bit (v ||| 2 ^ n) n = true := by simp [bit]

section
variable {s : State} {n : Nat}

theorem spareChan_spec {m : Nat} (h : spareChan s = some m) : m < 16 ∧ (s.chan m).role = 4 := by
  have hmem := List.mem_of_find?_eq_some h
  have hspec := List.find?_some h
  simp only [Bool.and_eq_true, decide_eq_true_eq] at hspec
  exact ⟨List.mem_range.mp hmem, hspec.1.1.1⟩

theorem fenceHeir_spec {m : Nat} (h : fenceHeir s n = some m) : m < 16 ∧ m ≠ n := by
  unfold fenceHeir at h
  split at h
  · cases h
  next hrole =>
    obtain ⟨hlt, hspare⟩ := spareChan_spec h
    exact ⟨hlt, fun hmn => hrole (hmn ▸ hspare)⟩

/-- The path and direction that channel n serves where it is a LINK channel. -/
def fencePath (s : State) (n : Nat) : Option (Nat × Bool) :=
  if (s.chan n).role = 2 then (linkBinding s n).orElse (fun _ => linkBinding s (s.chan n).ringsOf) else none

/-- The last step of a fence: the path of a LINK channel (R319). -/
def fenceLink (s : State) (path : Option (Nat × Bool)) (heir : Option Nat) : State :=
  match path with
  | some (p, tx) => linkFence s p tx heir
  | none => s

theorem fenceLink_unfenced (s : State) (path : Option (Nat × Bool)) (heir : Option Nat) :
    (fenceLink s path heir).unfenced = s.unfenced := by
  unfold fenceLink
  split
  · exact linkFence_unfenced ..
  · rfl

theorem fence_eq (s : State) (n cause : Nat) : fence s n cause = if (s.chan n).fenced || decide ((s.chan n).role = 0) then s
    else fenceLink (reissue (passPlace (fenceCut s n cause) (s.chan n) (fenceHeir s n) n) n) (fencePath s n) (fenceHeir s n) := by
  unfold fence
  extract_lets x heir path t1 t2 t3 b marked t5 cut p voided noted passed out
  have hmarked : marked = fenceMarked s n cause := rfl
  have hcut : cut = fenceCut s n cause := by rw [fenceCut, ← hmarked]
  have hpassed : passed = passPlace cut (s.chan n) (fenceHeir s n) n := rfl
  have hout : out = reissue (passPlace (fenceCut s n cause) (s.chan n) (fenceHeir s n) n) n := by rw [← hcut, ← hpassed]
  rw [← hout]
  rfl

/-- What follows the passing of the place changes nothing that `Unfenced` names. -/
theorem fence_unfenced (cause : Nat) (hopen : (s.chan n).fenced = false) (hrole : (s.chan n).role ≠ 0) :
    (fence s n cause).unfenced = (passPlace (fenceCut s n cause) (s.chan n) (fenceHeir s n) n).unfenced := by
  have hrun : ((s.chan n).fenced || decide ((s.chan n).role = 0)) = false := by simp [hopen, hrole]
  rw [fence_eq, hrun, if_neg Bool.false_ne_true, fenceLink_unfenced, reissue_unfenced]

theorem fenceCut_unfenced (cause : Nat) : (fenceCut s n cause).unfenced = (fenceMarked s n cause).unfenced :=
  (memFence_unfenced ..).trans (loseConvs_unfenced ..)

/-! ### The mark -/

theorem logPut_chan (s : State) (ev cls : Nat) (data : Bytes) (j : Nat) : (s.logPut ev cls data).chan j = s.chan j := by
  rw [logPut_frame]
  rfl

theorem fenceMarked_chan (cause j : Nat) : (fenceMarked s n cause).chan j =
    if j = n then (s.chan n).fencedBy cause (s.count % 2 ^ 24) else s.chan j := by
  have hmod := modChan_chan s n (fun y => y.fencedBy cause (s.count % 2 ^ 24)) j
  refine (logPut_chan ..).trans ?_
  split <;> exact hmod

theorem fenceMarked_unmarked (cause : Nat) : (fenceMarked s n cause).part = s.part ∧ (fenceMarked s n cause).boot =
    { s.boot with tokens := s.boot.tokens.filter (fun c => decide (c ≠ n)) } := by
  simp only [fenceMarked]
  rw [logPut_frame]
  split <;> exact ⟨rfl, rfl⟩

theorem fenceMarked_frame (cause : Nat) : FenceFrame s (fenceMarked s n cause) := by
  refine FenceFrame.trans ?_ (FenceFrame.trans (fenceFrame_logPut ..) rfl)
  split <;> rfl

theorem fenceMarked_events (cause : Nat) : (fenceMarked s n cause).wr 0x3044 =
    (if (s.chan n).role = 4 ∧ cause = 7 then s.wr 0x3044 ||| 2 ^ 3 else s.wr 0x3044) ||| 2 ^ 0 := by
  refine (logPut_wr _ _ _ _ (by decide)).trans ?_
  rw [evt_wr, if_pos rfl]
  split <;> simp

/-! ### The place -/

theorem takeOver_chan (m j : Nat) : (takeOver s n m).chan j = if j = m then (s.chan m).heirOf (s.chan n) else s.chan j :=
  have hmod := modChan_chan s m (fun y => y.heirOf (s.chan n)) j
  (logPut_chan ..).trans hmod

theorem takeOver_part (m : Nat) : (takeOver s n m).part = { s.part with
    steer := s.part.steer.map (fun c => if c = n then m else c), spareFor := n, spareUsed := true
    voided := s.part.voided ++ [n, m], taken := s.part.taken ++ [n, m] } := by
  rw [takeOver, logPut_frame]
  rfl

theorem takeOver_boot (m : Nat) : (takeOver s n m).boot = s.boot := by
  rw [takeOver, logPut_frame]
  rfl

theorem takeOver_events {m : Nat} (hn : n < 16) (hm : m < 16) : (takeOver s n m).wr 0x3044 = s.wr 0x3044 ||| 2 ^ 1 := by
  refine (logPut_wr _ _ _ _ (by decide)).trans ?_
  rw [evt_wr, if_pos rfl, putWr_wr, if_neg (by omega), putWr_wr, if_neg (by omega)]
  rfl

theorem takeOver_frame (m : Nat) : FenceFrame s (takeOver s n m) :=
  FenceFrame.trans (by rfl) (fenceFrame_logPut ..)

theorem redistribute_frame (s : State) (n : Nat) : redistribute s n = { s with part := (redistribute s n).part } := by
  simp only [redistribute]
  split <;> rfl

/-- Without a spare only the partition changes, and the event of the missing spare rises (R32, R35). -/
theorem passPlace_none_frame (x : Chan) : passPlace s x none n =
    { s with regs := (passPlace s x none n).regs, part := (passPlace s x none n).part } := by
  simp only [passPlace]
  split <;> split
  case isTrue.isTrue => rw [redistribute_frame]
  case isFalse.isTrue =>
    rw [redistribute_frame]
    rfl
  all_goals rfl

theorem passPlace_none_events (x : Chan) :
    (passPlace s x none n).wr 0x3044 = if x.role = 4 then s.wr 0x3044 else s.wr 0x3044 ||| 2 ^ 2 := by
  have hmove (t : State) (c : Prop) [Decidable c] : (if c then redistribute t n else t).wr 0x3044 = t.wr 0x3044 := by
    split
    · rw [redistribute_frame]
      rfl
    · rfl
  simp only [passPlace]
  rw [hmove]
  split
  · rfl
  · rw [evt_wr, if_pos rfl]
    rfl

end

/-- What a fence of channel n leaves of the seats, the partition and the tokens. -/
structure FenceLeaves (s u : State) (n cause : Nat) : Prop where
  self : (u.chan n).seat = ((s.chan n).fencedBy cause (s.count % 2 ^ 24)).seat
  heir : ∀ m, fenceHeir s n = some m → (u.chan m).seat = ((s.chan m).heirOf (s.chan n)).seat
  others : ∀ j, j ≠ n → fenceHeir s n ≠ some j → (u.chan j).seat = (s.chan j).seat
  boot : u.boot = { s.boot with tokens := s.boot.tokens.filter (fun c => decide (c ≠ n)) }
  frame : FenceFrame s u

/-- The seat of a spare in the place of a channel follows from their two seats. -/
theorem seat_heirOf (y x : Chan) : (y.heirOf x).seat = { y.seat with
    role := x.seat.role, replacing := true, ringsOf := x.seat.ringsOf, shareP := x.seat.shareP, shareG := x.seat.shareG
    rr := 0, stepPassed := false, bank := [] } := by
  cases hy : y.fenced <;> simp [Chan.seat, Chan.heirOf, hy]

section
variable {s : State} {n : Nat}

theorem passPlace_leaves {t : State} {cause : Nat} (ht : t.unfenced = (fenceMarked s n cause).unfenced) :
    FenceLeaves s (passPlace t (s.chan n) (fenceHeir s n) n) n cause := by
  have hseat (j : Nat) : (t.chan j).seat = (if j = n then (s.chan n).fencedBy cause (s.count % 2 ^ 24) else s.chan j).seat :=
    (seat_of_unfenced ht j).trans (congrArg Chan.seat (fenceMarked_chan cause j))
  have hself := (hseat n).trans (congrArg Chan.seat (if_pos rfl))
  have hother {j : Nat} (hj : j ≠ n) := (hseat j).trans (congrArg Chan.seat (if_neg hj))
  have hboot := (boot_of_unfenced ht).trans (fenceMarked_unmarked cause).2
  have hframe := (fenceMarked_frame cause).trans (fenceFrame_of_unfenced ht)
  cases hheir : fenceHeir s n with
  | none =>
    have hpass := passPlace_none_frame (s := t) (n := n) (s.chan n)
    have hchan (j : Nat) : (passPlace t (s.chan n) none n).chan j = t.chan j := by
      rw [hpass]
      rfl
    refine ⟨?_, fun m hm => ?_, fun j hj _ => ?_, ?_, hframe.trans ?_⟩
    · rw [hchan, hself]
    · simp [hheir] at hm
    · rw [hchan, hother hj]
    · rw [hpass]
      exact hboot
    · rw [hpass]
      rfl
  | some m =>
    obtain ⟨-, hmn⟩ := fenceHeir_spec hheir
    refine ⟨?_, fun k hk => ?_, fun j hj hjm => ?_, (takeOver_boot m).trans hboot, hframe.trans (takeOver_frame m)⟩
    · rw [passPlace, takeOver_chan, if_neg hmn.symm, hself]
    · obtain rfl : m = k := Option.some.inj (hheir.symm.trans hk)
      rw [passPlace, takeOver_chan, if_pos rfl, seat_heirOf, hself, hother hmn, seat_heirOf]
      rfl
    · rw [passPlace, takeOver_chan, if_neg (fun h => hjm (hheir.trans (congrArg some h.symm))), hother hj]

theorem FenceLeaves.of_unfenced {t u : State} {cause : Nat} (h : FenceLeaves s t n cause) (hu : u.unfenced = t.unfenced) :
    FenceLeaves s u n cause where
  self := (seat_of_unfenced hu n).trans h.self
  heir m hm := (seat_of_unfenced hu m).trans (h.heir m hm)
  others j hj hheir := (seat_of_unfenced hu j).trans (h.others j hj hheir)
  boot := (boot_of_unfenced hu).trans h.boot
  frame := h.frame.trans (fenceFrame_of_unfenced hu)

theorem fence_leaves (cause : Nat) (hopen : (s.chan n).fenced = false) (hrole : (s.chan n).role ≠ 0) :
    FenceLeaves s (fence s n cause) n cause :=
  (passPlace_leaves (fenceCut_unfenced cause)).of_unfenced (fence_unfenced cause hopen hrole)

/-- A bit of the event register that the mark left set is set after the fence. -/
theorem fence_event {cause i : Nat} (hn : n < 16) (hopen : (s.chan n).fenced = false) (hrole : (s.chan n).role ≠ 0)
    (h : bit ((fenceMarked s n cause).wr 0x3044) i = true) : bit ((fence s n cause).wr 0x3044) i = true := by
  rw [events_of_unfenced (fence_unfenced cause hopen hrole)]
  rw [← events_of_unfenced (fenceCut_unfenced cause)] at h
  cases hheir : fenceHeir s n with
  | none =>
    rw [passPlace_none_events]
    split
    · exact h
    · exact bit_or _ _ h
  | some m =>
    rw [passPlace, takeOver_events hn (fenceHeir_spec hheir).1]
    exact bit_or _ _ h

theorem fence_spareEvent (cause : Nat) (hopen : (s.chan n).fenced = false) (hrole : (s.chan n).role ≠ 0) (hspare : (s.chan n).role ≠ 4)
    (hnone : spareChan s = none) : bit ((fence s n cause).wr 0x3044) 2 = true := by
  have hheir : fenceHeir s n = none := (if_neg hspare).trans hnone
  rw [events_of_unfenced (fence_unfenced cause hopen hrole), hheir, passPlace_none_events, if_neg hspare]
  exact bit_or_pow _ 2

theorem fence_part {cause m : Nat} (hopen : (s.chan n).fenced = false) (hrole : (s.chan n).role ≠ 0) (hheir : fenceHeir s n = some m) :
    (fence s n cause).part.spareUsed = true ∧ (fence s n cause).part.spareFor = n ∧
      (fence s n cause).part.steer = s.part.steer.map (fun c => if c = n then m else c) := by
  have hcut : (fenceCut s n cause).part = s.part := (part_of_unfenced (fenceCut_unfenced cause)).trans (fenceMarked_unmarked cause).1
  rw [part_of_unfenced (fence_unfenced cause hopen hrole), hheir, passPlace, takeOver_part, hcut]
  exact ⟨rfl, rfl, rfl⟩

/-- The fence of a channel in service, as the statements on fences have it. -/
theorem fencedNow_fence (cause : Nat) (hn : n < 16) (hopen : (s.chan n).fenced = false) (hrole : (s.chan n).role ≠ 0) :
    FencedNow s (fence s n cause) n cause := by
  have hleaves := fence_leaves cause hopen hrole
  have hself {α : Type} (f : Chan → α) := congrArg f hleaves.self
  refine ⟨hself Chan.fenced, hself Chan.cause, hself Chan.faultCal, hself Chan.powered, ?bank, ?tokens,
    fence_event hn hopen hrole ?mark, fun hspare hcause => fence_event hn hopen hrole ?spareMark, fun m hm hspare => ?heir,
    fun hnone hspare => fence_spareEvent cause hopen hrole hspare hnone, fun j hj hjm => ?others, hleaves.frame⟩
  case bank =>
    have hfenced : ((fence s n cause).chan n).fenced = true := hself Chan.fenced
    simpa [Chan.seat, Chan.fencedBy, hfenced] using hself Chan.bank
  case tokens => simp [hleaves.boot]
  case mark =>
    rw [fenceMarked_events]
    exact bit_or_pow _ 0
  case spareMark =>
    rw [fenceMarked_events, if_pos ⟨hspare, hcause⟩]
    exact bit_or _ _ (bit_or_pow _ 3)
  case heir =>
    have hheir : fenceHeir s n = some m := (if_neg hspare).trans hm
    have hm {α : Type} (f : Chan → α) := congrArg f (hleaves.heir m hheir)
    exact ⟨hm Chan.role, hm Chan.ringsOf, hm Chan.replacing, fence_part hopen hrole hheir⟩
  case others =>
    have hheir : fenceHeir s n ≠ some j := by
      unfold fenceHeir
      split
      · exact nofun
      · exact hjm
    have hseat {α : Type} (f : Chan → α) := congrArg f (hleaves.others j hj hheir)
    exact ⟨hseat Chan.role, hseat Chan.fenced⟩

end

end Sys2Proof.Machine
end

section
/-! PROOFS. Power tokens: what powering channels and fencing those whose tests fail leaves, the end of P5, and the statement on P4, P5
and POWER_TOKEN_GRANT assembled from that (R31, R196, R197, R367, R516, R517, R522). -/

namespace Sys2Proof.Machine

/-! ### Fences of one moment (R31, R197) -/

/-- What fences of the channels of a list leave of power, roles and tokens. -/
structure FencesLeave (s u : State) (l : List Nat) : Prop where
  powered : ∀ j, j ∉ l → (u.chan j).powered = (s.chan j).powered
  role : ∀ j, (s.chan j).role ≠ 0 → (u.chan j).role ≠ 0
  fenced : ∀ j, (s.chan j).fenced = true → (u.chan j).fenced = true
  cut : ∀ j ∈ l, (s.chan j).role ≠ 0 → (u.chan j).fenced = true
  tokens : u.boot.tokens ⊆ s.boot.tokens

theorem FencesLeave.refl (s : State) : FencesLeave s s [] := ⟨fun _ _ => rfl, fun _ => id, fun _ => id, nofun, List.Subset.refl _⟩

theorem FencesLeave.cons {s t u : State} {n : Nat} {l : List Nat} (h : FencesLeave s t [n]) (hl : FencesLeave t u l) :
    FencesLeave s u (n :: l) where
  powered j hj := by
    simp only [List.mem_cons, not_or] at hj
    obtain ⟨hjn, hjl⟩ := hj
    exact (hl.powered j hjl).trans (h.powered j (by simpa using hjn))
  role j hj := hl.role j (h.role j hj)
  fenced j hj := hl.fenced j (h.fenced j hj)
  cut j hj hrole := by
    rcases List.mem_cons.mp hj with rfl | hj
    · exact hl.fenced j (h.cut j (by simp) hrole)
    · exact hl.cut j hj (h.role j hrole)
  tokens := List.Subset.trans hl.tokens h.tokens

/-- A channel that is fenced or IDLE is not fenced again. -/
theorem fence_of_out {s : State} {n : Nat} (cause : Nat) (h : (s.chan n).fenced = true ∨ (s.chan n).role = 0) : fence s n cause = s := by
  rw [fence_eq, if_pos (by simpa using h)]

theorem FenceLeaves.fencesLeave {s u : State} {n cause : Nat} (h : FenceLeaves s u n cause) (hopen : (s.chan n).fenced = false)
    (hrole : (s.chan n).role ≠ 0) : FencesLeave s u [n] := by
  have hself {α : Type} (f : Chan → α) := congrArg f h.self
  have hbeside {j : Nat} (hj : j ≠ n) : (u.chan j).powered = (s.chan j).powered ∧ (u.chan j).fenced = (s.chan j).fenced ∧
      ((u.chan j).role = (s.chan j).role ∨ (u.chan j).role = (s.chan n).role) := by
    by_cases hheir : fenceHeir s n = some j
    · have hseat {α : Type} (f : Chan → α) := congrArg f (h.heir j hheir)
      exact ⟨hseat Chan.powered, hseat Chan.fenced, .inr (hseat Chan.role)⟩
    · have hseat {α : Type} (f : Chan → α) := congrArg f (h.others j hj hheir)
      exact ⟨hseat Chan.powered, hseat Chan.fenced, .inl (hseat Chan.role)⟩
  refine ⟨fun j hj => (hbeside (by simpa using hj)).1, fun j hj => ?role, fun j hj => ?fenced, fun j hj _ => ?cut, ?tokens⟩
  case role =>
    by_cases hjn : j = n
    · subst j
      exact fun hzero => hrole ((hself Chan.role).symm.trans hzero)
    · obtain ⟨-, -, hsame | hsame⟩ := hbeside hjn
      · rwa [hsame]
      · rwa [hsame]
  case fenced =>
    by_cases hjn : j = n
    · subst j
      exact hself Chan.fenced
    · exact (hbeside hjn).2.1.trans hj
  case cut =>
    obtain rfl : j = n := by simpa using hj
    exact hself Chan.fenced
  case tokens =>
    rw [h.boot]
    exact List.filter_subset_self _

theorem fence_fencesLeave (s : State) (n cause : Nat) : FencesLeave s (fence s n cause) [n] := by
  by_cases hout : (s.chan n).fenced = true ∨ (s.chan n).role = 0
  · rw [fence_of_out cause hout]
    refine ⟨fun _ _ => rfl, fun _ => id, fun _ => id, fun j hj hrole => ?_, List.Subset.refl _⟩
    obtain rfl : j = n := by simpa using hj
    exact hout.resolve_right hrole
  · obtain ⟨hopen, hrole⟩ := not_or.mp hout
    exact (fence_leaves cause (by simpa using hopen) hrole).fencesLeave (by simpa using hopen) hrole

theorem foldl_fence_leaves (cause : Nat) (l : List Nat) (s : State) : FencesLeave s (l.foldl (fun s n => fence s n cause) s) l := by
  induction l generalizing s with
  | nil => exact .refl s
  | cons n l ih => exact (fence_fencesLeave s n cause).cons (ih _)

theorem katFence_leaves (s : State) (bad : List Nat) : FencesLeave s (katFence s bad) (fenceOrder s bad) := foldl_fence_leaves 7 _ s

/-- The order of R31 lists every channel of a role once. -/
theorem mem_fenceOrder {s : State} {l : List Nat} {n : Nat} : n ∈ fenceOrder s l ↔ n ∈ l ∧ (s.chan n).role ≤ 4 := by
  simp only [fenceOrder, List.mem_append, List.mem_filter, decide_eq_true_eq, ← and_or_left]
  exact and_congr_right fun _ => by omega

theorem katFence_single {s : State} {n : Nat} (hrole : (s.chan n).role ≤ 4) : katFence s [n] = fence s n 7 := by
  have hone : fenceOrder s [n] = [n] := by
    interval_cases h : (s.chan n).role <;> simp [fenceOrder, h]
  rw [katFence, hone]
  rfl

/-! ### Power (R196, R522) -/

theorem powerOn_chan (s : State) (n j : Nat) (pass : Bool) : (powerOn s n pass).chan j =
    if j = n then { s.chan n with powered := true, testOk := pass, needKat := false } else s.chan j := modChan_chan ..

theorem powerOn_boot (s : State) (n : Nat) (pass : Bool) :
    (powerOn s n pass).boot = { s.boot with tokens := s.boot.tokens.filter (fun c => decide (c ≠ n)) } := rfl

theorem powerOn_frame (s : State) (n : Nat) (pass : Bool) :
    powerOn s n pass = { s with ch := (powerOn s n pass).ch, boot := (powerOn s n pass).boot } := rfl

theorem powerOn_place (s : State) (n j : Nat) (pass : Bool) :
    ((powerOn s n pass).chan j).role = (s.chan j).role ∧ ((powerOn s n pass).chan j).fenced = (s.chan j).fenced := by
  rw [powerOn_chan]
  split
  · subst j
    exact ⟨rfl, rfl⟩
  · exact ⟨rfl, rfl⟩

/-- Every channel of the list is powered, and none of them waits for a token. -/
theorem foldl_powerOn (f : Nat → Bool) (l : List Nat) (s : State) (j : Nat) :
    let u := l.foldl (fun s n => powerOn s n (f n)) s
    (u.chan j).role = (s.chan j).role ∧ ((s.chan j).powered = true ∨ j ∈ l → (u.chan j).powered = true) ∧
      (j ∈ u.boot.tokens → j ∈ s.boot.tokens ∧ j ∉ l) := by
  induction l generalizing s with
  | nil => simp
  | cons n l ih =>
    obtain ⟨hrole, hpowered, htokens⟩ := ih (powerOn s n (f n))
    refine ⟨hrole.trans (powerOn_place s n j (f n)).1, fun hj => hpowered ?_, fun hj => ?_⟩
    · rw [powerOn_chan]
      by_cases hjn : j = n
      · simp [hjn]
      · simpa [hjn] using hj
    · obtain ⟨hmem, hnot⟩ := htokens hj
      rw [powerOn_boot] at hmem
      simp only [List.mem_filter, decide_eq_true_eq] at hmem
      exact ⟨hmem.1, by simp [hmem.2, hnot]⟩

/-! ### The three commands -/

/-- Every channel that waits is powered, and those whose tests fail are fenced (R197, R516). -/
def powerWaiting (s : State) (bad : List Nat) : State :=
  katFence (s.boot.tokens.foldl (fun s n => powerOn s n (!bad.contains n)) s) (s.boot.tokens.filter (fun n => bad.contains n))

theorem powerWaiting_leaves (s : State) (bad : List Nat) : (powerWaiting s bad).boot.tokens = [] ∧
    ∀ n ∈ s.boot.tokens, (s.chan n).role ≠ 0 → (s.chan n).role ≤ 4 →
      if n ∈ bad then ((powerWaiting s bad).chan n).fenced = true else ((powerWaiting s bad).chan n).powered = true := by
  have hpower := foldl_powerOn (fun n => !bad.contains n) s.boot.tokens s
  have hfences := katFence_leaves (s.boot.tokens.foldl (fun s n => powerOn s n (!bad.contains n)) s)
    (s.boot.tokens.filter (fun n => bad.contains n))
  refine ⟨List.eq_nil_iff_forall_not_mem.mpr fun j hj => ?_, fun n hn hrole hlast => ?_⟩
  · obtain ⟨-, -, htokens⟩ := hpower j
    obtain ⟨hmem, hnot⟩ := htokens (hfences.tokens hj)
    exact hnot hmem
  · obtain ⟨hsame, hpowered, -⟩ := hpower n
    rw [← hsame] at hrole hlast
    split
    next hbad => exact hfences.cut n (mem_fenceOrder.mpr ⟨by simp [hn, hbad], hlast⟩) hrole
    next hgood => exact (hfences.powered n (by simp [mem_fenceOrder, hgood])).trans (hpowered (.inr hn))

theorem p4_eq {s : State} {r : BootReport} (hlive : s.halted = false) (hphase : s.boot.phase = 4) (hwait : s.boot.p4Done = false) :
    p4 s r = (phaseEnd (powerWaiting s (r.badChans.map (·.val))) 4 5 r.us).modBoot (fun b => { b with p4Done := true }) := by
  simp [p4, powerWaiting, hlive, hphase, hwait]

theorem tokenGrant_eq {s : State} {n : Nat} {rest : List Nat} (pass : Bool) (hlive : s.halted = false)
    (hfirst : s.boot.tokens = n :: rest) : tokenGrant s pass = if pass then powerOn s n pass else katFence (powerOn s n pass) [n] := by
  simp [tokenGrant, hlive, hfirst]

/-- The state that P5 restores from: what the device could not read is noted. -/
def p5Read (s : State) (r : BootReport) : State :=
  s.modJf (fun j => { j with
    unreadable := j.unreadable ++ r.unreadable.filter (fun x => (tkeys s.flash.pages).contains x && !j.unreadable.contains x) })

theorem p5_eq {s : State} (r : BootReport) (hlive : s.halted = false) (hen : s.alm.en = true) (hrestoring : s.alm.restoring = true)
    (hwedge : s.wedged 0 = false) : p5 s r = (almRestore (p5Read s r)).modBoot (fun b => { b with
      p5Done := true, times := tins b.times 5 (min r.us (2 ^ 32 - 1)) }) := by
  simp [p5, p5Read, hlive, hen, hrestoring, hwedge]

end Sys2Proof.Machine

namespace Sys2Proof.Proofs

open Sys2Proof.Machine Sys2Proof.Claims

/-- Settles O30: a token powers one channel, and fences it where it fails; P4 powers the channels that wait, then fences those that
failed, which leaves the power of the others; P5 restores through the operations of the Almanac's store alone. -/
theorem channelsArePoweredAndTested : Obligations.ChannelsArePoweredAndTested := by
  unfold Obligations.ChannelsArePoweredAndTested
  refine ⟨fun s n rest hlive hfirst hrole hlast => ⟨?passed, fun hopen hn => ?failed⟩, fun s r hlive hphase hwait => ?p4,
    fun s r hlive hen hrestoring hwedge => ?p5⟩
  case passed =>
    refine ⟨_, exec_of_eq rfl (tokenGrant_eq true hlive hfirst), ?_, fun j hj => ?_, ?_, powerOn_frame s n true⟩
    · exact (powerOn_chan s n n true).trans (if_pos rfl)
    · exact (powerOn_chan s n j true).trans (if_neg hj)
    · refine (powerOn_boot s n true).trans ?_
      simp [hfirst]
  case failed =>
    obtain ⟨hsame, hstill⟩ := powerOn_place s n n false
    rw [← hsame] at hrole hlast
    rw [← hstill] at hopen
    exact ⟨_, exec_of_eq rfl ((tokenGrant_eq false hlive hfirst).trans (katFence_single hlast)), fencedNow_fence 7 hn hopen hrole⟩
  case p4 =>
    obtain ⟨htokens, hchannels⟩ := powerWaiting_leaves s (r.badChans.map (·.val))
    have hrun := p4_eq (r := r) hlive hphase hwait
    generalize powerWaiting s (r.badChans.map (·.val)) = t at htokens hchannels hrun
    exact ⟨_, exec_of_eq rfl hrun, rfl, rfl, htokens, fun n hn hrole hlast _ => hchannels n hn hrole hlast⟩
  case p5 =>
    have hframe := frame_of_besideAlm (almRestore_besideAlm (p5Read s r))
    refine ⟨_, exec_of_eq rfl (p5_eq r hlive hen hrestoring hwedge), ?_, almRestore_restoring (s := p5Read s r) hen hwedge, ?_⟩
    · rw [hframe]
      rfl
    · rw [hframe]
      rfl

end Sys2Proof.Proofs
end

section
/-! PROOFS. The bytes of a tag line: what a field reads after it, or another one, was written (R240, R243). -/

namespace Sys2Proof.Machine

/-! ### Fields of a byte string -/

theorem length_sub (bs : Bytes) (off n : Nat) : (sub bs off n).length = n := by
  simp only [sub, zeros, List.length_append, List.length_take, List.length_drop, List.length_replicate]
  omega

theorem getElem_sub (bs : Bytes) (off n k : Nat) (hk : k < (sub bs off n).length) : (sub bs off n)[k] = byteAt bs (off + k) := by
  rw [length_sub] at hk
  simp only [sub, zeros, byteAt, List.getElem_append, List.getElem_take, List.getElem_drop, List.getElem_replicate,
    List.length_take, List.length_drop, lt_min_iff, List.getD_eq_getElem?_getD]
  split
  · rw [List.getElem?_eq_getElem (by omega), Option.getD_some]
  · rw [List.getElem?_eq_none (by omega), Option.getD_none]

/-- A field depends on its own bytes alone. -/
theorem sub_congr {a b : Bytes} {off n : Nat} (h : ∀ k, off ≤ k → k < off + n → byteAt a k = byteAt b k) : sub a off n = sub b off n := by
  refine List.ext_getElem (by simp only [length_sub]) fun k hk _ => ?_
  rw [getElem_sub, getElem_sub]
  rw [length_sub] at hk
  exact h _ (by omega) (by omega)

theorem byteAt_overlay (bs : Bytes) (off : Nat) (xs : Bytes) (k : Nat) :
    byteAt (overlay bs off xs) k = if off ≤ k ∧ k < off + xs.length then byteAt xs (k - off) else byteAt bs k := by
  have hfront : ∀ i, i < off → (sub bs 0 off)[i]? = some (byteAt bs i) := fun i hi => by
    rw [List.getElem?_eq_getElem (by rwa [length_sub]), getElem_sub, Nat.zero_add]
  simp only [byteAt, overlay, List.getD_eq_getElem?_getD, List.append_assoc, List.getElem?_append, length_sub, List.getElem?_drop]
  split
  case isTrue hbefore => rw [hfront k hbefore, if_neg (by omega), Option.getD_some, byteAt, List.getD_eq_getElem?_getD]
  case isFalse hbefore =>
    split
    case isTrue hin => rw [if_pos (by omega)]
    case isFalse hin => rw [if_neg (by omega), show off + xs.length + (k - off - xs.length) = k by omega]

theorem byteAt_overlay_outside {bs : Bytes} {off : Nat} {xs : Bytes} {k : Nat} (hk : k < off ∨ off + xs.length ≤ k) :
    byteAt (overlay bs off xs) k = byteAt bs k := by
  rw [byteAt_overlay, if_neg (by omega)]

/-- A field inside the bytes that were written. -/
theorem sub_overlay_inside {bs : Bytes} {off : Nat} {xs : Bytes} {q n : Nat} (hlow : off ≤ q) (hhigh : q + n ≤ off + xs.length) :
    sub (overlay bs off xs) q n = sub xs (q - off) n := by
  refine List.ext_getElem (by simp only [length_sub]) fun k hk _ => ?_
  rw [getElem_sub, getElem_sub, byteAt_overlay]
  rw [length_sub] at hk
  rw [if_pos (by omega), show q + k - off = q - off + k by omega]

theorem sub_all {xs : Bytes} {n : Nat} (h : xs.length = n) : sub xs 0 n = xs := by
  subst h
  simp [sub, zeros]

theorem sub_append_left (xs ys : Bytes) {n : Nat} (hn : xs.length = n) : sub (xs ++ ys) 0 n = xs := by
  subst hn
  simp [sub, zeros]

theorem sub_append_right (xs ys : Bytes) {n m : Nat} (hn : xs.length = n) (hm : ys.length = m) : sub (xs ++ ys) n m = ys := by
  subst hn hm
  simp [sub, zeros]

theorem leN_toLe (n v : Nat) : leN (toLe n v) = v % 256 ^ n := by
  induction n generalizing v with
  | zero => simp [toLe, leN, Nat.mod_one]
  | succ n ih => rw [toLe, leN, ih, BitVec.toNat_ofNat, pow_succ' 256 n, Nat.mod_mul]

/-! ### Fields of a tag line (R240) -/

theorem tlMajor_tlSetMajor (b : Bytes) (m : Nat) : tlMajor (tlSetMajor b m) = m % 2 ^ 64 := by
  rw [tlMajor, tlSetMajor, leAt, sub_overlay_inside (Nat.zero_le 0) (by rw [toLe_length]), sub_all (toLe_length 8 m), leN_toLe,
    show 256 ^ 8 = 2 ^ 64 by decide]

theorem byteAt_tlSetMajor {b : Bytes} {k : Nat} (m : Nat) (hk : 8 ≤ k) : byteAt (tlSetMajor b m) k = byteAt b k :=
  byteAt_overlay_outside (.inr (by simpa [toLe_length] using hk))

theorem length_entry (m : Nat) {tag : Bytes} (htag : tag.length = 6) : (toLe 1 m ++ tag).length = 7 := by
  rw [List.length_append, toLe_length, htag]

theorem byteAt_tlSet {b : Bytes} {i k : Nat} (m : Nat) {tag : Bytes} (htag : tag.length = 6) (hk : k < 8 + 7 * i ∨ 15 + 7 * i ≤ k) :
    byteAt (tlSet b i m tag) k = byteAt b k :=
  byteAt_overlay_outside (by rw [length_entry m htag]; omega)

theorem tlMinor_tlSet (b : Bytes) (i m : Nat) {tag : Bytes} (htag : tag.length = 6) : tlMinor (tlSet b i m tag) i = m % 256 := by
  rw [tlMinor, tlSet, leAt, sub_overlay_inside (Nat.le_refl _) (by rw [length_entry m htag]; omega), Nat.sub_self,
    sub_append_left _ _ (toLe_length 1 m), leN_toLe, pow_one]

theorem tlTag_tlSet (b : Bytes) (i m : Nat) {tag : Bytes} (htag : tag.length = 6) : tlTag (tlSet b i m tag) i = tag := by
  rw [tlTag, tlSet, sub_overlay_inside (by omega) (by rw [length_entry m htag]; omega), show 9 + 7 * i - (8 + 7 * i) = 1 by omega,
    sub_append_right _ _ (toLe_length 1 m) htag]

/-- What the bytes of a poisoned tag leave of its line: every other byte. -/
theorem byteAt_poisoned {b : Bytes} {i k : Nat} (hk : k < 9 + 7 * i ∨ 15 + 7 * i ≤ k) :
    byteAt (overlay b (9 + 7 * i) tagPoison) k = byteAt b k :=
  byteAt_overlay_outside (by simp only [tagPoison, List.length_replicate]; omega)

theorem tlTag_poisoned (b : Bytes) (i : Nat) : tlTag (overlay b (9 + 7 * i) tagPoison) i = tagPoison := by
  rw [tlTag, sub_overlay_inside (Nat.le_refl _) (by simp [tagPoison]), Nat.sub_self, sub_all (by simp [tagPoison])]

section
variable {a b : Bytes} {i : Nat}

theorem tlMajor_congr (h : ∀ k, k < 8 → byteAt a k = byteAt b k) : tlMajor a = tlMajor b :=
  congrArg leN (sub_congr fun k _ hk => h k (by omega))

theorem tlMinor_congr (h : byteAt a (8 + 7 * i) = byteAt b (8 + 7 * i)) : tlMinor a i = tlMinor b i :=
  congrArg leN (sub_congr fun k hk hk' => by rw [show k = 8 + 7 * i by omega]; exact h)

theorem tlTag_congr (h : ∀ k, 9 + 7 * i ≤ k → k < 15 + 7 * i → byteAt a k = byteAt b k) : tlTag a i = tlTag b i :=
  sub_congr fun k hk hk' => h k hk (by omega)

end

/-! ### Lengths of ciphertexts and tags (R212, R243) -/

theorem length_bxor (a b : Bytes) : (bxor a b).length = a.length := by
  induction a, b using bxor.induct with
  | case1 => rfl
  | case2 => rfl
  | case3 a as b bs ih => rw [bxor, List.length_cons, ih, List.length_cons]

theorem length_lineTag (key : Bytes) (kid laddr mj mn : Nat) (line : Bytes) : (lineTag key kid laddr mj mn line).length = 6 := by
  simp only [lineTag]
  split
  · rfl
  · simp only [List.length_take, length_bxor, toBe, List.length_reverse, toLe_length]
    rfl

theorem length_openLine (t : Txn) (b : Bytes) (i laddr : Nat) (ct : Bytes) : (openLine t b i laddr ct).1.length = ct.length :=
  length_bxor _ _

theorem length_closeLine (t : Txn) (mj mn laddr : Nat) (pt : Bytes) : (closeLine t mj mn laddr pt).1.length = pt.length :=
  length_bxor _ _

theorem length_closeLine_tag (t : Txn) (mj mn laddr : Nat) (pt : Bytes) : (closeLine t mj mn laddr pt).2.length = 6 := by
  simp only [closeLine]
  split
  · rfl
  · exact length_lineTag _ _ _ _ _ _

end Sys2Proof.Machine
end

section
/-! PROOFS. Equinox: what the keys of a job leave of memory, one line under conversion, and one group whose tag line is resident (R275,
R276, R281). -/

namespace Sys2Proof.Machine

open Sys2Proof.Claims

/-! ### Memory beside the use of keys (R17, R180, R217) -/

/-- What no use of a key changes: the tables of memory and its channels' caches, DRAM and its errors. -/
def State.memory (s : State) : Mem × List Host.Cell × Tab Nat := (s.mem, s.dram, s.dmErr)

theorem memory_eq_iff {s t : State} : t.memory = s.memory ↔ t.mem = s.mem ∧ t.dram = s.dram ∧ t.dmErr = s.dmErr := by
  simp only [State.memory, Prod.mk.injEq]

theorem useCopy_memory (s : State) (n slot : Nat) : (useCopy s n slot 0).1.memory = s.memory := by
  simp only [useCopy, loadCopy, ge_iff_le, Nat.zero_le, if_true]
  cases findCopy (s.chan n).bank slot (s.slot slot).gen with
  | some e => rfl
  | none => cases makeRoom (boundKeys s n) (dropCopy (s.chan n).bank slot) <;> rfl

theorem lineKey_memory (s : State) (n slot : Nat) : (lineKey s n slot).1.memory = s.memory := by
  have huse := useCopy_memory s n slot
  unfold lineKey
  split
  all_goals
    rename_i h
    rw [h] at huse
    exact huse

theorem keyDenied_memory (s : State) (st role n slot : Nat) : (keyDenied s st role n slot).memory = s.memory := by
  simp only [keyDenied, revalFail]
  repeat' split
  all_goals rfl

theorem memKey_memory (s : State) (ch : Nat) (r : KeyRef) (data : Bool) : (memKey s ch r data).1.memory = s.memory := by
  simp only [memKey]
  split
  · exact keyDenied_memory _ _ _ _ _
  · exact lineKey_memory _ _ _

theorem memory_of_memKey {s t : State} {ch : Nat} {r : KeyRef} {data : Bool} {key : Option Bytes} (h : memKey s ch r data = (t, key)) :
    t.memory = s.memory := by
  rw [← memKey_memory s ch r data, h]

theorem keyFailed_memory (s : State) (kid : Nat) (data : Bool) : (keyFailed s kid data none).memory = s.memory := rfl

/-! ### The keys of a job (R275, R281) -/

/-- The keys of one set that may be used: DATA, and TAG outside ENC mode. -/
def KeySet (s : State) (ch mode : Nat) (d t : KeyRef) (dk tk : Bytes) (s2 : State) : Prop :=
  ∃ s1, memKey s ch d true = (s1, some dk) ∧ if mode = 0 then s2 = s1 ∧ tk = [] else memKey s1 ch t false = (s2, some tk)

section
variable {s s2 : State} {ch kid mode : Nat} {d t : KeyRef}

theorem jobKeys_of_keySet {dk tk : Bytes} (h : KeySet s ch mode d t dk tk s2) : jobKeys s ch kid mode d t = (s2, some (dk, tk)) := by
  obtain ⟨s1, hdata, htag⟩ := h
  by_cases hmode : mode = 0
  · rw [if_pos hmode] at htag
    obtain ⟨rfl, rfl⟩ := htag
    simp only [jobKeys, hdata, if_pos hmode]
  · rw [if_neg hmode] at htag
    simp only [jobKeys, hdata, if_neg hmode, htag]

/-- A DATA key that may not be used ends the use of its set, and is noted in the status of the KeyID. -/
theorem jobKeys_denied (h : keyCheck s [(d, memPermit ch true)] ≠ stOK) : jobKeys s ch kid mode d t =
    (keyFailed (keyDenied s (keyCheck s [(d, memPermit ch true)]) 1 ch d.slot) kid true none, none) := by
  simp only [jobKeys, memKey, if_pos h]

theorem jobKeys_memory (s : State) (ch kid mode : Nat) (d t : KeyRef) : (jobKeys s ch kid mode d t).1.memory = s.memory := by
  have hdata := memKey_memory s ch d true
  unfold jobKeys
  split
  next s1 h =>
    rw [h] at hdata
    exact (keyFailed_memory s1 kid true).trans hdata
  next s1 dk h =>
    rw [h] at hdata
    have htag := (memKey_memory s1 ch t false).trans hdata
    split
    · exact hdata
    · split
      next s2 h2 =>
        rw [h2] at htag
        exact (keyFailed_memory s2 kid false).trans htag
      next s2 tk h2 =>
        rw [h2] at htag
        exact htag

theorem memory_of_keySet {dk tk : Bytes} (h : KeySet s ch mode d t dk tk s2) : s2.memory = s.memory := by
  rw [← jobKeys_memory s ch 0 mode d t, jobKeys_of_keySet h]

end

/-! ### One line under conversion (R276) -/

/-- What a conversion makes of a line depends on what DRAM holds of that line alone. -/
theorem convertedLine_congr {s t : State} {old new : Txn} {l : CLine} {a i : Nat} (hraw : dramGet t (a + 64 * i) 64 = dramGet s (a + 64 * i) 64)
    (hdm : t.dm (a + 64 * i) = s.dm (a + 64 * i)) : convertedLine t old new l a i = convertedLine s old new l a i := by
  simp only [convertedLine, hraw, hdm]

theorem dramGet_congr {s t : State} {a n : Nat} (h : ∀ x, a ≤ x → x < a + n → tget dramInit t.dram x = tget dramInit s.dram x) :
    dramGet t a n = dramGet s a n := by
  refine List.map_congr_left fun k hk => ?_
  have hk := List.mem_range.mp hk
  exact h _ (by omega) (by omega)

/-- One line of DRAM at a line address holds b now, in t as against s; all else of DRAM and of its errors is as before. -/
structure LineSet (s t : State) (a : Nat) (b : Bytes) : Prop where
  bytes : dramGet t a 64 = b
  others : ∀ x, x < a ∨ a + 64 ≤ x → tget dramInit t.dram x = tget dramInit s.dram x ∧ t.dm x = s.dm x

theorem lineSet_same {s t : State} {a : Nat} (hdram : t.dram = s.dram) (herr : t.dmErr = s.dmErr) : LineSet s t a (dramGet s a 64) :=
  ⟨by rw [dramGet, hdram, dramGet], fun x _ => ⟨by rw [hdram], by rw [State.dm, herr, State.dm]⟩⟩

theorem lineSet_dramPut (s : State) {a : Nat} {b : Bytes} (ha : a % 64 = 0) (hb : b.length = 64) : LineSet s (dramPut s a b) a b := by
  obtain ⟨hstored, hkept, herrors⟩ := dramWritten_of_put (s := s) (a := a) (b := b) rfl rfl
  rw [hb] at hstored hkept herrors
  exact ⟨hstored, fun x hx => ⟨hkept x hx, by rw [herrors, if_neg (by omega)]⟩⟩

/-- The entry of line i in a tag line reads mn and tag now, in nb' as against nb; every other byte is as before. -/
structure EntrySet (nb nb' : Bytes) (i mn : Nat) (tag : Bytes) : Prop where
  minor : tlMinor nb' i = mn
  tag : tlTag nb' i = tag
  others : ∀ k, k < 8 + 7 * i ∨ 15 + 7 * i ≤ k → byteAt nb' k = byteAt nb k

theorem entrySet_same (nb : Bytes) (i : Nat) : EntrySet nb nb i (tlMinor nb i) (tlTag nb i) := ⟨rfl, rfl, fun _ _ => rfl⟩

theorem entrySet_poisoned (nb : Bytes) (i : Nat) : EntrySet nb (overlay nb (9 + 7 * i) tagPoison) i (tlMinor nb i) tagPoison :=
  ⟨tlMinor_congr (byteAt_poisoned (by omega)), tlTag_poisoned nb i, fun _ hk => byteAt_poisoned (by omega)⟩

theorem entrySet_tlSet (nb : Bytes) (i : Nat) {mn : Nat} {tag : Bytes} (hmn : mn < 256) (htag : tag.length = 6) :
    EntrySet nb (tlSet nb i mn tag) i mn tag :=
  ⟨(tlMinor_tlSet nb i mn htag).trans (Nat.mod_eq_of_lt hmn), tlTag_tlSet nb i mn htag, fun _ hk => byteAt_tlSet mn htag hk⟩

/-- The part of a state that the lines of a group may change. -/
abbrev LinesOnly (s t : State) : Prop := t = { s with dram := t.dram, dmErr := t.dmErr, regs := t.regs }

theorem LinesOnly.trans {s t u : State} (h : LinesOnly s t) (h' : LinesOnly t u) : LinesOnly s u := by
  rw [LinesOnly, h', h]

theorem convertLine_spec {old new : Txn} {l : CLine} {a i : Nat} {p : State × Bytes} (ha : a % 64 = 0)
    (hmn : tlMinor p.2 i = tlMinor l.data i) (htag : tlTag p.2 i = tlTag l.data i) :
    let c := convertedLine p.1 old new l a i
    let q := convertLine old new (old.reg.epoch * 2 ^ 40) a l.data p i
    LinesOnly p.1 q.1 ∧ LineSet p.1 q.1 (a + 64 * i) c.1 ∧ EntrySet p.2 q.2 i c.2.1 c.2.2 := by
  obtain ⟨s, nb⟩ := p
  have hsame := entrySet_same nb i
  have hpoison := entrySet_poisoned nb i
  rw [hmn] at hsame hpoison
  rw [htag] at hsame
  simp only [convertedLine, convertLine, Bool.not_eq_true']
  by_cases hwritten : lineState old.reg.mode l.data i = .written
  case neg =>
    simp only [if_pos hwritten]
    exact ⟨trivial, lineSet_same rfl rfl, hsame⟩
  simp only [if_neg (not_not_intro hwritten)]
  by_cases hbad : s.dm (a + 64 * i) = 2 ∨ (openLine old l.data i (a + 64 * i) (dramGet s (a + 64 * i) 64)).2 = false
  case pos =>
    simp only [if_pos hbad]
    refine ⟨?_, ?_, ?_⟩
    · split <;> rfl
    · split
      · exact lineSet_same rfl rfl
      · exact lineSet_same rfl rfl
    · split
      · exact hsame
      · exact hpoison
  case neg =>
    simp only [if_neg hbad]
    refine ⟨rfl, lineSet_dramPut s (by omega) ?_, entrySet_tlSet nb i (by decide) (length_closeLine_tag _ _ _ _ _)⟩
    rw [length_closeLine, length_openLine, dramGet_length]

/-! ### One group under conversion (R275, R276) -/

/-- Where the first n lines of the group at address a, tag line l, stand converted, and the others as they were in s. -/
structure Converting (s : State) (old new : Txn) (l : CLine) (a n : Nat) (p : State × Bytes) : Prop where
  frame : LinesOnly s p.1
  others : ∀ x, x < a ∨ a + 64 * n ≤ x → tget dramInit p.1.dram x = tget dramInit s.dram x ∧ p.1.dm x = s.dm x
  major : tlMajor p.2 = old.reg.epoch * 2 ^ 40 % 2 ^ 64
  entries : ∀ k, 8 + 7 * n ≤ k → byteAt p.2 k = byteAt l.data k
  lines : ∀ i, i < n → dramGet p.1 (a + 64 * i) 64 = (convertedLine s old new l a i).1 ∧
    tlMinor p.2 i = (convertedLine s old new l a i).2.1 ∧ tlTag p.2 i = (convertedLine s old new l a i).2.2

theorem converting_zero (s : State) (old new : Txn) (l : CLine) (a : Nat) :
    Converting s old new l a 0 (s, tlSetMajor l.data (old.reg.epoch * 2 ^ 40)) :=
  ⟨rfl, fun _ _ => ⟨rfl, rfl⟩, tlMajor_tlSetMajor _ _, fun _ hk => byteAt_tlSetMajor _ hk, fun _ hi => absurd hi (Nat.not_lt_zero _)⟩

theorem converting_succ {s : State} {old new : Txn} {l : CLine} {a n : Nat} {p : State × Bytes} (ha : a % 64 = 0)
    (h : Converting s old new l a n p) :
    Converting s old new l a (n + 1) (convertLine old new (old.reg.epoch * 2 ^ 40) a l.data p n) := by
  obtain ⟨hframe, hothers, hmajor, hentries, hlines⟩ := h
  obtain ⟨hstep, hline, hentry⟩ := convertLine_spec (old := old) (new := new) (l := l) (a := a) (i := n) (p := p) ha
    (tlMinor_congr (hentries _ (by omega))) (tlTag_congr fun k hk _ => hentries k (by omega))
  have hnow : convertedLine p.1 old new l a n = convertedLine s old new l a n :=
    convertedLine_congr (dramGet_congr fun x hx _ => (hothers x (by omega)).1) (hothers _ (by omega)).2
  rw [hnow] at hline hentry
  refine ⟨hframe.trans hstep, fun x hx => ?_, ?_, fun k hk => ?_, fun i hi => ?_⟩
  · obtain ⟨hdram, hdm⟩ := hline.others x (by omega)
    obtain ⟨hdram', hdm'⟩ := hothers x (by omega)
    exact ⟨hdram.trans hdram', hdm.trans hdm'⟩
  · exact (tlMajor_congr fun k hk => hentry.others k (by omega)).trans hmajor
  · exact (hentry.others k (by omega)).trans (hentries k (by omega))
  · by_cases hlast : i = n
    · subst hlast
      exact ⟨hline.bytes, hentry.minor, hentry.tag⟩
    · obtain ⟨hbytes, hminor, htag⟩ := hlines i (by omega)
      refine ⟨?_, ?_, ?_⟩
      · exact (dramGet_congr fun x hx hx' => (hline.others x (by omega)).1).trans hbytes
      · exact (tlMinor_congr (hentry.others _ (by omega))).trans hminor
      · exact (tlTag_congr fun k hk hk' => hentry.others k (by omega)).trans htag

/-- The lines of a group, one after the other. -/
theorem converting_lines (s : State) (old new : Txn) (l : CLine) {a : Nat} (ha : a % 64 = 0) (n : Nat) :
    Converting s old new l a n ((List.range n).foldl (convertLine old new (old.reg.epoch * 2 ^ 40) a l.data)
      (s, tlSetMajor l.data (old.reg.epoch * 2 ^ 40))) := by
  induction n with
  | zero => exact converting_zero s old new l a
  | succ n ih =>
    rw [List.range_succ, List.foldl_append]
    exact converting_succ ha ih

/-- The state once the lines of a resident group were converted, before its tag line is stored. -/
def linesConverted (s : State) (old new : Txn) (l : CLine) : State × Bytes :=
  (List.range 8).foldl (convertLine old new (old.reg.epoch * 2 ^ 40) old.addr l.data)
    (hit s old, tlSetMajor l.data (old.reg.epoch * 2 ^ 40))

/-- A group whose tag line is LOST counts as converted (R275). -/
theorem convertWith_lost {s : State} {j g : Nat} {old new : Txn} {l : CLine} (hres : Resident s old l) (hlost : tlMajor l.data = majorLost) :
    convertWith s j g old new = unitDone (hit s old) j g := by
  simp only [convertWith, loadTag_of_resident hres, if_pos hlost]

theorem convertWith_resident {s : State} {j g : Nat} {old new : Txn} {l : CLine} (hres : Resident s old l) (hkept : tlMajor l.data ≠ majorLost)
    (hepoch : new.epoch = old.reg.epoch) : convertWith s j g old new =
      unitDone (storeTag (linesConverted s old new l).1 old.ch (old.addr / 512) (linesConverted s old new l).2) j g := by
  simp only [convertWith, loadTag_of_resident hres, if_neg hkept, hepoch, linesConverted]

theorem unitDone_job (s : State) (j g : Nat) :
    ((unitDone s j g).job j).conv = g :: (s.job j).conv ∧ ((unitDone s j g).job j).units = (s.job j).units + 1 := by
  simp only [unitDone, modJob_job, if_pos, and_self]

/-- What unit g of job j leaves of its group once it was converted: its lines, its tag line l, the job, and nothing else. -/
structure GroupConverted (s u : State) (j g : Nat) (old new : Txn) (l : CLine) : Prop where
  conv : (u.job j).conv = g :: (s.job j).conv
  units : (u.job j).units = (s.job j).units + 1
  lines : ∀ i, i < 8 → dramGet u (old.addr + 64 * i) 64 = (convertedLine s old new l old.addr i).1
  others : ∀ x, x < old.addr ∨ old.addr + 512 ≤ x → tget dramInit u.dram x = tget dramInit s.dram x ∧ u.dm x = s.dm x
  tagLine : ∃ b, findLine u old.ch (old.addr / 512) = some { l with data := b, dirty := true } ∧
    tlMajor b = old.reg.epoch * 2 ^ 40 % 2 ^ 64 ∧
    ∀ i, i < 8 → tlMinor b i = (convertedLine s old new l old.addr i).2.1 ∧ tlTag b i = (convertedLine s old new l old.addr i).2.2
  frame : u = { s with mem := u.mem, dram := u.dram, dmErr := u.dmErr, regs := u.regs }

theorem convertWith_converts {s : State} {old new : Txn} {l : CLine} (j g : Nat) (hres : Resident s old l)
    (hkept : tlMajor l.data ≠ majorLost) (hepoch : new.epoch = old.reg.epoch) (ha : old.addr % 64 = 0) :
    GroupConverted s (convertWith s j g old new) j g old new l := by
  rw [convertWith_resident hres hkept hepoch]
  have hlines : Converting (hit s old) old new l old.addr 8 (linesConverted s old new l) := converting_lines _ old new l ha 8
  generalize linesConverted s old new l = p at hlines
  obtain ⟨hframe, hothers, hmajor, -, hlines⟩ := hlines
  have hhit := hit_frame s old
  have hverdict : ∀ i, convertedLine (hit s old) old new l old.addr i = convertedLine s old new l old.addr i := fun i =>
    convertedLine_congr (by rw [hhit]; rfl) (by rw [hhit]; rfl)
  simp only [hverdict] at hlines
  have hmem : p.1.mem = (hit s old).mem := by rw [hframe]
  have hfound : findLine p.1 old.ch (old.addr / 512) = some l := (findLine_of_mem hmem _ _).trans (findLine_hit hres)
  have hstored : findLine (storeTag p.1 old.ch (old.addr / 512) p.2) old.ch (old.addr / 512) = some { l with data := p.2, dirty := true } :=
    findLine_touchLine _ hfound rfl rfl
  have hstate : storeTag p.1 old.ch (old.addr / 512) p.2 = { s with dram := p.1.dram, dmErr := p.1.dmErr, regs := p.1.regs, mem := { s.mem with
      chan := (storeTag p.1 old.ch (old.addr / 512) p.2).mem.chan } } := by
    rw [storeTag, touchLine_frame, hframe, hhit]
  generalize storeTag p.1 old.ch (old.addr / 512) p.2 = v at hstored hstate ⊢
  have hjob : v.job j = s.job j := by rw [hstate]; rfl
  have hdram : v.dram = p.1.dram := by rw [hstate]
  have hdm : ∀ x, v.dm x = p.1.dm x := fun x => by rw [hstate]; rfl
  obtain ⟨hconv, hunits⟩ := unitDone_job v j g
  rw [hjob] at hconv hunits
  refine ⟨hconv, hunits, fun i hi => ?_, fun x hx => ?_, ⟨p.2, hstored, hmajor, fun i hi => (hlines i hi).2⟩, ?_⟩
  · exact (congrArg (fun d => tgetN dramInit d _ _) hdram).trans (hlines i hi).1
  · obtain ⟨hbyte, hsame⟩ := hothers x (by omega)
    rw [hhit] at hbyte hsame
    exact ⟨(congrArg (fun d => tget dramInit d x) hdram).trans hbyte, (hdm x).trans hsame⟩
  · rw [hstate]
    rfl

end Sys2Proof.Machine
end

section
/-! PROOFS. Equinox: what EQX_GROUP_CONVERT does under keys that are refused and under keys at hand, what EQX_REBUILD_WRITE writes over, and
the statement on both assembled from them (R273, R275, R276, R281, R282). -/

namespace Sys2Proof.Machine

open Sys2Proof.Claims

/-! ### One unit of a REKEY (R273, R275, R281) -/

theorem exec_eqxGroupConvert {s s0 : State} (j : Fin 4) {ret : DramReturn} (hs : s = noteDram s0 ret) (hlive : portDead s0 = false) :
    exec (.eqxGroupConvert j ret) s0 = .next (convertGroup s j) := by
  rw [hs]
  exact congrArg _ (if_neg (by simp [hlive]))

/-- The job is marked failing under the old or the new set of keys (R281). -/
def jobFails (s : State) (j : Nat) (new : Bool) : State := s.modJob j (fun x => { x with failing := some new })

/-- A set of keys that may not be used fails the job, and leaves its work and DRAM as they were. -/
theorem jobFails_leaves {s t : State} (j : Nat) (new : Bool) (h : t.memory = s.memory) :
    ((jobFails t j new).job j).failing = some new ∧ ((jobFails t j new).job j).conv = (s.job j).conv ∧ (jobFails t j new).dram = s.dram := by
  obtain ⟨hmem, hdram, -⟩ := memory_eq_iff.mp h
  have hjob : (jobFails t j new).job j = { s.job j with failing := some new } := by
    rw [jobFails, modJob_job, if_pos rfl, State.job, hmem, State.job]
  exact ⟨by rw [hjob], by rw [hjob], hdram⟩

section
variable {s : State} {j g a ch : Nat} {jb : Job} {r : Region} (hjb : jb = s.job j) (hr : r = s.region jb.region)
  (ha : a = r.base * 2 ^ 20 + 512 * g) (hch : ch = s.steerOf a) (hnext : nextUnit s j = some g) (hkind : jb.kind = 0)
include hjb hr ha hch hnext hkind

theorem convertGroup_old_denied (h : keyCheck s [(jb.oldD, memPermit ch true)] ≠ stOK) : convertGroup s j =
    jobFails (keyFailed (keyDenied s (keyCheck s [(jb.oldD, memPermit ch true)]) 1 ch jb.oldD.slot) jb.keyid true none) j false := by
  subst hjb hr ha hch
  simp only [convertGroup, hnext, hkind, jobKeys_denied h, ne_eq, not_true_eq_false, if_false]
  rfl

theorem convertGroup_new_denied {s2 : State} {k : Bytes × Bytes} (hold : jobKeys s ch jb.keyid r.mode jb.oldD jb.oldT = (s2, some k))
    (h : keyCheck s2 [((s.kid jb.keyid).data, memPermit ch true)] ≠ stOK) : convertGroup s j =
      jobFails (jobKeys s2 ch jb.keyid r.mode (s.kid jb.keyid).data (s.kid jb.keyid).tag).1 j true := by
  subst hjb hr ha hch
  simp only [convertGroup, hnext, hkind, hold, jobKeys_denied h, ne_eq, not_true_eq_false, if_false]
  rfl

/-- With all its keys at hand the job converts the group. -/
theorem convertGroup_keys {od ot nd nt sk : Bytes} {s5 : State} {old new : Txn} (hkeys : JobKeys s jb r ch od ot nd nt sk s5)
    (hold : old = { addr := a, kid := jb.keyid, rgn := jb.region, reg := r, ch := ch, epoch := jb.oldEpoch, dkey := od, tkey := ot, skey := sk })
    (hnew : new = { old with epoch := r.epoch, dkey := nd, tkey := nt }) :
    s5.memory = s.memory ∧ convertGroup s j = convertWith s5 j g old new := by
  subst hold hnew
  obtain ⟨s1, s2, s3, s4, holdD, holdT, hnewD, hnewT, htree⟩ := hkeys
  have hset : KeySet s ch r.mode jb.oldD jb.oldT od ot s2 := ⟨s1, holdD, holdT⟩
  have hset' : KeySet s2 ch r.mode (s.kid jb.keyid).data (s.kid jb.keyid).tag nd nt s4 := ⟨s3, hnewD, hnewT⟩
  have hkept := (memory_of_keySet hset').trans (memory_of_keySet hset)
  have htrees : s4.tree = s.tree := by
    obtain ⟨hmem, -, -⟩ := memory_eq_iff.mp hkept
    funext t
    rw [State.tree, hmem, State.tree]
  by_cases hmode : r.mode = 2
  · rw [if_pos hmode, ← htrees] at htree
    rw [hmode] at hset hset'
    refine ⟨(memory_of_memKey htree).trans hkept, ?_⟩
    subst hjb hr ha hch
    simp only [convertGroup, hnext, hkind, hmode, jobKeys_of_keySet hset, jobKeys_of_keySet hset', htree, ne_eq, not_true_eq_false, if_false]
  · rw [if_neg hmode] at htree
    obtain ⟨rfl, rfl⟩ := htree
    refine ⟨hkept, ?_⟩
    subst hjb hr ha hch
    simp only [convertGroup, hnext, hkind, jobKeys_of_keySet hset, jobKeys_of_keySet hset', hmode, ne_eq, not_true_eq_false,
      not_false_eq_true, if_false, if_true]

end

/-! ### Zeros in DRAM -/

theorem dramGet_zeros_iff {s : State} {a n : Nat} :
    dramGet s a n = zeros n ↔ ∀ x, a ≤ x → x < a + n → tget dramInit s.dram x = 0#8 := by
  rw [zeros, List.eq_replicate_iff, and_iff_right (dramGet_length s a n), dramGet, tgetN, List.forall_mem_map]
  simp only [List.mem_range]
  exact ⟨fun h x hlow hhigh => by simpa [Nat.add_sub_cancel' hlow] using h (x - a) (by omega), fun h k hk => h _ (by omega) (by omega)⟩

/-- Zeros that were written, by their number. -/
theorem zeros_of_dramWritten {s u : State} {a n : Nat} (h : DramWritten s u a (zeros n)) :
    dramGet u a n = zeros n ∧ ∀ x, x < a ∨ a + n ≤ x → tget dramInit u.dram x = tget dramInit s.dram x := by
  obtain ⟨hstored, hkept, -⟩ := h
  have hlength : (zeros n).length = n := List.length_replicate
  rw [hlength] at hstored hkept
  exact ⟨hstored, hkept⟩

/-- Zeros stay zeros where zeros are written, wherever the two areas lie. -/
theorem dramGet_zeros_of_dramWritten {s u : State} {a n b m : Nat} (h : dramGet s a n = zeros n) (hwritten : DramWritten s u b (zeros m)) :
    dramGet u a n = zeros n := by
  obtain ⟨hstored, hkept⟩ := zeros_of_dramWritten hwritten
  rw [dramGet_zeros_iff] at h hstored ⊢
  intro x hlow hhigh
  by_cases hin : b ≤ x ∧ x < b + m
  · exact hstored x hin.1 hin.2
  · exact (hkept x (by omega)).trans (h x hlow hhigh)

/-! ### Metadata dropped and DRAM written (R223, R282) -/

/-- A state differs from another in the caches and in DRAM alone. -/
abbrev CachesOnly (s t : State) : Prop := t = { s with dram := t.dram, dmErr := t.dmErr, mem := { s.mem with chan := t.mem.chan } }

theorem cachesOnly_dramPut {s t : State} (h : CachesOnly s t) (a : Nat) (b : Bytes) : CachesOnly s (dramPut t a b) := by
  rw [CachesOnly, dramPut, h]

theorem cachesOnly_dropMeta (s : State) (q : Nat → Bool) : CachesOnly s (dropMeta s q) := by
  rw [CachesOnly, dropMeta_frame]

theorem dramPut_mchan (s : State) (a : Nat) (b : Bytes) (c : Nat) : (dramPut s a b).mchan c = s.mchan c := rfl

theorem dropMeta_dramWritten (s : State) (q : Nat → Bool) (a : Nat) (b : Bytes) : DramWritten s (dramPut (dropMeta s q) a b) a b := by
  obtain ⟨c, hc⟩ := exists_chan_dropMeta s q
  rw [hc]
  exact dramWritten_of_put rfl rfl

/-- What a unit that wrote metadata and data leaves once it is done: the caches and DRAM as it left them, and the job. -/
theorem unitDone_of_cachesOnly {s t : State} {jb x : Job} {j g : Nat} (hjb : jb = s.job j)
    (hx : x = { jb with conv := g :: jb.conv, units := jb.units + 1 }) (h : CachesOnly s t) :
    unitDone t j g = { s with dram := t.dram, dmErr := t.dmErr, mem := { s.mem with chan := t.mem.chan, jobs := tput {} s.mem.jobs j x } } := by
  subst hjb hx
  rw [h]
  rfl

end Sys2Proof.Machine

namespace Sys2Proof.Proofs

open Sys2Proof.Machine Sys2Proof.Claims

/-! ### EQX_REBUILD_WRITE (R282) -/

theorem exec_eqxRebuildWrite (s : State) (j : Fin 4) : exec (.eqxRebuildWrite j) s = .next (rebuildWrite s j) := rfl

section
variable {s : State} {j g : Nat} {jb : Job} {r : Region} (hjb : jb = s.job j) (hr : r = s.region jb.region)
  (hnext : nextUnit s j = some g) (hkind : jb.kind = 1)
include hjb hr hnext hkind

theorem rebuildWrite_tagLine (hphase : jb.phase = 0) (hscrub : jb.scrub = false) :
    rebuildWrite s j = unitDone (renewed s (r.tag * 2 ^ 17 + 64 * g) (zeros 64)) j g := by
  subst hjb hr
  simp only [rebuildWrite, hnext, hkind, hphase, hscrub, ne_eq, not_true_eq_false, Bool.false_eq_true, if_false, if_true, renewed]

theorem rebuildWrite_scrub (hphase : jb.phase = 0) (hscrub : jb.scrub = true) : rebuildWrite s j =
    unitDone (dramPut (renewed s (r.tag * 2 ^ 17 + 64 * g) (zeros 64)) (r.base * 2 ^ 20 + 512 * g) (zeros 512)) j g := by
  subst hjb hr
  simp only [rebuildWrite, hnext, hkind, hphase, hscrub, ne_eq, not_true_eq_false, if_false, if_true, renewed]

theorem rebuildWrite_tree (hphase : jb.phase ≠ 0) : rebuildWrite s j =
    unitDone (dramPut (dropMeta s (fun x => inArea x ((s.tree r.tree).base * 2 ^ 16 + 512 * g, 512)))
      ((s.tree r.tree).base * 2 ^ 16 + 512 * g) (zeros 512)) j g := by
  subst hjb hr
  simp only [rebuildWrite, hnext, hkind, hphase, ne_eq, not_true_eq_false, if_false]

end

/-- A line of the metadata that starts anew leaves all but the caches and DRAM (R282). -/
theorem renewed_cachesOnly (s : State) (a : Nat) (b : Bytes) : CachesOnly s (renewed s a b) :=
  cachesOnly_dramPut (cachesOnly_dropMeta s _) a b

section
variable {s : State} {j : Fin 4} {jb x : Job} {r : Region} {g : Nat} (hjb : jb = s.job j) (hr : r = s.region jb.region)
  (hnext : nextUnit s j = some g) (hkind : jb.kind = 1) (hx : x = { jb with conv := g :: jb.conv, units := jb.units + 1 })
include hjb hr hnext hkind hx

theorem rebuilds_tagLine (hphase : jb.phase = 0) (hscrub : jb.scrub = false) : ∃ u, exec (.eqxRebuildWrite j) s = .next u ∧
    DramWritten s u (r.tag * 2 ^ 17 + 64 * g) (zeros 64) ∧ Dropped s u (r.tag * 2 ^ 17 + 64 * g) ∧
    u = { s with dram := u.dram, dmErr := u.dmErr, mem := { s.mem with chan := u.mem.chan, jobs := tput {} s.mem.jobs j x } } := by
  have hrun := rebuildWrite_tagLine hjb hr hnext hkind hphase hscrub
  have hwritten := renewed_written s (r.tag * 2 ^ 17 + 64 * g) (zeros 64)
  have hdropped := renewed_dropped s (r.tag * 2 ^ 17 + 64 * g) (zeros 64)
  rw [unitDone_of_cachesOnly hjb hx (renewed_cachesOnly s _ _)] at hrun
  generalize renewed s (r.tag * 2 ^ 17 + 64 * g) (zeros 64) = t at hrun hwritten hdropped
  exact ⟨_, exec_of_eq (exec_eqxRebuildWrite s j) hrun, dramWritten_of_eq hwritten rfl rfl, hdropped, rfl⟩

theorem rebuilds_scrub (hphase : jb.phase = 0) (hscrub : jb.scrub = true) : ∃ u, exec (.eqxRebuildWrite j) s = .next u ∧
    dramGet u (r.tag * 2 ^ 17 + 64 * g) 64 = zeros 64 ∧ dramGet u (r.base * 2 ^ 20 + 512 * g) 512 = zeros 512 ∧
    (∀ y, (y < r.tag * 2 ^ 17 + 64 * g ∨ r.tag * 2 ^ 17 + 64 * g + 64 ≤ y) →
      (y < r.base * 2 ^ 20 + 512 * g ∨ r.base * 2 ^ 20 + 512 * g + 512 ≤ y) → tget dramInit u.dram y = tget dramInit s.dram y) ∧
    Dropped s u (r.tag * 2 ^ 17 + 64 * g) ∧
    u = { s with dram := u.dram, dmErr := u.dmErr, mem := { s.mem with chan := u.mem.chan, jobs := tput {} s.mem.jobs j x } } := by
  have hrun := rebuildWrite_scrub hjb hr hnext hkind hphase hscrub
  obtain ⟨htag, hkept⟩ := zeros_of_dramWritten (renewed_written s (r.tag * 2 ^ 17 + 64 * g) (zeros 64))
  have hdropped := renewed_dropped s (r.tag * 2 ^ 17 + 64 * g) (zeros 64)
  have hcaches := renewed_cachesOnly s (r.tag * 2 ^ 17 + 64 * g) (zeros 64)
  generalize renewed s (r.tag * 2 ^ 17 + 64 * g) (zeros 64) = v at hrun htag hkept hdropped hcaches
  have hwritten : DramWritten v (dramPut v (r.base * 2 ^ 20 + 512 * g) (zeros 512)) (r.base * 2 ^ 20 + 512 * g) (zeros 512) :=
    dramWritten_of_put rfl rfl
  have hmchan := dramPut_mchan v (r.base * 2 ^ 20 + 512 * g) (zeros 512)
  rw [unitDone_of_cachesOnly hjb hx (cachesOnly_dramPut hcaches _ _)] at hrun
  generalize dramPut v (r.base * 2 ^ 20 + 512 * g) (zeros 512) = w at hrun hwritten hmchan
  obtain ⟨hdata, hkept'⟩ := zeros_of_dramWritten hwritten
  exact ⟨_, exec_of_eq (exec_eqxRebuildWrite s j) hrun, dramGet_zeros_of_dramWritten htag hwritten, hdata,
    fun y htagLine hlines => (hkept' y hlines).trans (hkept y htagLine), fun c hc => (hmchan c).trans (hdropped c hc), rfl⟩

theorem rebuilds_tree (hphase : jb.phase ≠ 0) : ∃ u, exec (.eqxRebuildWrite j) s = .next u ∧
    DramWritten s u ((s.tree r.tree).base * 2 ^ 16 + 512 * g) (zeros 512) ∧
    (∀ c, c < 16 → (∀ l ∈ (u.mchan c).cc, inArea l.addr ((s.tree r.tree).base * 2 ^ 16 + 512 * g, 512) = false) ∧
      ∀ l ∈ (u.mchan c).tc, inArea l.addr ((s.tree r.tree).base * 2 ^ 16 + 512 * g, 512) = false) ∧
    u = { s with dram := u.dram, dmErr := u.dmErr, mem := { s.mem with chan := u.mem.chan, jobs := tput {} s.mem.jobs j x } } := by
  have hrun := rebuildWrite_tree hjb hr hnext hkind hphase
  generalize (s.tree r.tree).base * 2 ^ 16 + 512 * g = a at hrun ⊢
  have hwritten := dropMeta_dramWritten s (fun y => inArea y (a, 512)) a (zeros 512)
  have hmchan := fun c (hc : c < 16) => (dramPut_mchan _ a (zeros 512) c).trans (dropMeta_mchan s (fun y => inArea y (a, 512)) hc)
  rw [unitDone_of_cachesOnly hjb hx (cachesOnly_dramPut (cachesOnly_dropMeta s _) _ _)] at hrun
  generalize dramPut (dropMeta s (fun y => inArea y (a, 512))) a (zeros 512) = w at hrun hwritten hmchan
  refine ⟨_, exec_of_eq (exec_eqxRebuildWrite s j) hrun, dramWritten_of_eq hwritten rfl rfl, fun c hc => ?_, rfl⟩
  change (∀ l ∈ (w.mchan c).cc, _) ∧ ∀ l ∈ (w.mchan c).tc, _
  rw [hmchan c hc]
  exact ⟨fun l hl => by simpa using (List.mem_filter.mp hl).2, fun l hl => by simpa using (List.mem_filter.mp hl).2⟩

end

/-! ### EQX_GROUP_CONVERT (R273, R275, R276, R281) -/

section
variable {s s0 : State} {j : Fin 4} {jb : Job} {r : Region} {g a ch : Nat} {ret : DramReturn} (hjb : jb = s.job j)
  (hr : r = s.region jb.region) (hnext : nextUnit s j = some g) (hs : s = noteDram s0 ret) (hlive : portDead s0 = false)
  (hkind : jb.kind = 0) (ha : a = r.base * 2 ^ 20 + 512 * g) (hch : ch = s.steerOf a)
include hjb hr hnext hs hlive hkind ha hch

theorem convert_old_denied (hdenied : keyCheck s [(jb.oldD, memPermit ch true)] ≠ stOK) : ∃ u, exec (.eqxGroupConvert j ret) s0 = .next u ∧
    (u.job j).failing = some false ∧ (u.job j).conv = jb.conv ∧ bit (u.stw (0x3501C + 32 * jb.keyid)) 3 = true ∧ u.dram = s.dram := by
  have hrun := convertGroup_old_denied hjb hr ha hch hnext hkind hdenied
  obtain ⟨hfails, hconv, hdram⟩ := jobFails_leaves (s := s) j.val false
    ((keyFailed_memory _ jb.keyid true).trans (keyDenied_memory s (keyCheck s [(jb.oldD, memPermit ch true)]) 1 ch jb.oldD.slot))
  rw [← hjb] at hconv
  exact ⟨_, exec_of_eq (exec_eqxGroupConvert j hs hlive) hrun, hfails, hconv, keyFailed_bit _ jb.keyid none, hdram⟩

theorem convert_new_denied {s2 : State} {k : Bytes × Bytes} (hold : jobKeys s ch jb.keyid r.mode jb.oldD jb.oldT = (s2, some k))
    (hdenied : keyCheck s2 [((s.kid jb.keyid).data, memPermit ch true)] ≠ stOK) : ∃ u, exec (.eqxGroupConvert j ret) s0 = .next u ∧
      (u.job j).failing = some true ∧ (u.job j).conv = jb.conv ∧ u.dram = s.dram := by
  have hrun := convertGroup_new_denied hjb hr ha hch hnext hkind hold hdenied
  have hkept : s2.memory = s.memory := by rw [← jobKeys_memory s ch jb.keyid r.mode jb.oldD jb.oldT, hold]
  obtain ⟨hfails, hconv, hdram⟩ := jobFails_leaves (s := s) j.val true
    ((jobKeys_memory s2 ch jb.keyid r.mode (s.kid jb.keyid).data (s.kid jb.keyid).tag).trans hkept)
  rw [← hjb] at hconv
  exact ⟨_, exec_of_eq (exec_eqxGroupConvert j hs hlive) hrun, hfails, hconv, hdram⟩

variable {l : CLine} {od ot nd nt sk : Bytes} {s4 : State} {old new : Txn} (hkeys : JobKeys s jb r ch od ot nd nt sk s4)
  (hline : findLine s ch (a / 512) = some l) (hunmarked : ∀ x ∈ (s.mchan ch).cc, x.grp = a / 512 → x.marked = false)
  (hold : old = { addr := a, kid := jb.keyid, rgn := jb.region, reg := r, ch := ch, epoch := jb.oldEpoch, dkey := od, tkey := ot, skey := sk })
  (hnew : new = { old with epoch := r.epoch, dkey := nd, tkey := nt })
include hkeys hline hunmarked hold hnew

/-- With all its keys at hand the job converts the group whose tag line it finds, in the memory as it was. -/
theorem convert_run : exec (.eqxGroupConvert j ret) s0 = .next (convertWith s4 j g old new) ∧ s4.memory = s.memory ∧
    Resident s4 old l ∧ s4.job j = jb := by
  obtain ⟨hkept, hrun⟩ := convertGroup_keys hjb hr ha hch hnext hkind hkeys hold hnew
  obtain ⟨hmem, -, -⟩ := memory_eq_iff.mp hkept
  subst hold
  exact ⟨exec_of_eq (exec_eqxGroupConvert j hs hlive) hrun, hkept,
    ⟨(findLine_of_mem hmem _ _).trans hline, by rwa [State.mchan, hmem]⟩, by rw [hjb, State.job, hmem, State.job]⟩

theorem convert_lost (hlost : tlMajor l.data = majorLost) : ∃ u, exec (.eqxGroupConvert j ret) s0 = .next u ∧
    (u.job j).conv = g :: jb.conv ∧ (u.job j).units = jb.units + 1 ∧ u = { s4 with mem := u.mem } := by
  obtain ⟨hexec, -, hres, hjob⟩ := convert_run hjb hr hnext hs hlive hkind ha hch hkeys hline hunmarked hold hnew
  obtain ⟨hconv, hunits⟩ := unitDone_job (hit s4 old) j g
  have hsame : (hit s4 old).job j = jb := by
    rw [hit_frame]
    exact hjob
  rw [hsame] at hconv hunits
  rw [convertWith_lost hres hlost] at hexec
  refine ⟨_, hexec, hconv, hunits, ?_⟩
  rw [hit_frame]
  rfl

theorem convert_resident (hpresent : tlMajor l.data ≠ majorLost) : ∃ u, exec (.eqxGroupConvert j ret) s0 = .next u ∧
    (u.job j).conv = g :: jb.conv ∧ (u.job j).units = jb.units + 1 ∧
    (∀ i, i < 8 → dramGet u (a + 64 * i) 64 = (convertedLine s old new l a i).1) ∧
    (∀ x, x < a ∨ a + 512 ≤ x → tget dramInit u.dram x = tget dramInit s.dram x ∧ u.dm x = s.dm x) ∧
    (∃ b, findLine u ch (a / 512) = some { l with data := b, dirty := true } ∧ tlMajor b = r.epoch * 2 ^ 40 % 2 ^ 64 ∧
      ∀ i, i < 8 → tlMinor b i = (convertedLine s old new l a i).2.1 ∧ tlTag b i = (convertedLine s old new l a i).2.2) ∧
    u = { s4 with mem := u.mem, dram := u.dram, dmErr := u.dmErr, regs := u.regs } := by
  obtain ⟨hexec, hkept, hres, hjob⟩ := convert_run hjb hr hnext hs hlive hkind ha hch hkeys hline hunmarked hold hnew
  obtain ⟨-, hdram, herr⟩ := memory_eq_iff.mp hkept
  have haddr : old.addr = a := by rw [hold]
  have hchan : old.ch = ch := by rw [hold]
  have hreg : old.reg = r := by rw [hold]
  obtain ⟨hconv, hunits, hlines, hothers, htagLine, hframe⟩ :=
    convertWith_converts (new := new) j.val g hres hpresent (by rw [hnew, hreg]) (by rw [haddr, ha]; omega)
  have hdm : ∀ x, s4.dm x = s.dm x := fun x => by rw [State.dm, herr, State.dm]
  have hverdict : ∀ i, convertedLine s4 old new l a i = convertedLine s old new l a i := fun i =>
    convertedLine_congr (by rw [dramGet, hdram, dramGet]) (hdm _)
  simp only [haddr, hchan, hreg, hverdict, hdram, hdm, hjob] at hconv hunits hlines hothers htagLine
  exact ⟨_, hexec, hconv, hunits, hlines, hothers, htagLine, hframe⟩

end

/-! ### The statement -/

/-- Settles O57: a REKEY with a key refused fails, one with all its keys at hand converts the lines of the group one by one; a REBUILD
renews the tag line, the data with SCRUB, or the tree lines of its unit. -/
theorem equinoxConvertsAndRebuilds : Obligations.EquinoxConvertsAndRebuilds := by
  unfold Obligations.EquinoxConvertsAndRebuilds
  intro s j jb r g hjb hr hnext
  refine ⟨fun s0 a ch ret hs hlive hkind ha hch => ⟨fun hdenied => ?oldDenied, fun s2 k hold hdenied => ?newDenied,
    fun l od ot nd nt sk s4 old new hkeys hline hunmarked hold hnew => ⟨fun hlost => ?lost, fun hpresent => ?resident⟩⟩,
    fun hkind x hx => ⟨fun hphase hscrub => ?tagLine, fun hphase hscrub => ?scrub, fun hphase => ?tree⟩⟩
  case oldDenied => exact convert_old_denied hjb hr hnext hs hlive hkind ha hch hdenied
  case newDenied => exact convert_new_denied hjb hr hnext hs hlive hkind ha hch hold hdenied
  case lost => exact convert_lost hjb hr hnext hs hlive hkind ha hch hkeys hline hunmarked hold hnew hlost
  case resident => exact convert_resident hjb hr hnext hs hlive hkind ha hch hkeys hline hunmarked hold hnew hpresent
  case tagLine => exact rebuilds_tagLine hjb hr hnext hkind hx hphase hscrub
  case scrub => exact rebuilds_scrub hjb hr hnext hkind hx hphase hscrub
  case tree => exact rebuilds_tree hjb hr hnext hkind hx hphase

end Sys2Proof.Proofs
end

section
/-! PROOFS. What a staged LINK change makes of its SecY and its entry at the commit, opcode by opcode, and the statement on committed
LINK changes assembled from that (R298, R300 to R302, R304). -/

namespace Sys2Proof.Machine

/-! ### Reads of one path that changed -/

section
variable (s : State) (p : Nat)

/-- A change of an entry leaves every SecY. -/
theorem modSae_secy (tx : Bool) (e : Nat) (f : SaEntry → SaEntry) (r n : Nat) : (s.modSae p tx e f).secy r n = s.secy r n := by
  unfold State.modSae State.secy
  rw [modPath_path]
  split
  · next h => cases tx <;> rw [h] <;> rfl
  · rfl

/-- A change of a SecY leaves every entry. -/
theorem modSecy_sae (n : Nat) (f : SecY → SecY) (r : Nat) (tx : Bool) (e : Nat) : (s.modSecy p n f).sae r tx e = s.sae r tx e := by
  by_cases hr : r = p
  · simp [State.modSecy, State.sae, hr]
  · simp [State.modSecy, State.sae, hr]

/-- A change of a receive SC leaves every entry. -/
theorem modRxsc_sae (n : Nat) (f : RxSc → RxSc) (r : Nat) (tx : Bool) (e : Nat) : (s.modRxsc p n f).sae r tx e = s.sae r tx e := by
  by_cases hr : r = p
  · simp [State.modRxsc, State.sae, hr]
  · simp [State.modRxsc, State.sae, hr]

/-! ### TXSC_SET (R298) -/

/-- A SecY as the descriptor of a TXSC_SET with EN sets it. -/
def SecY.setBy (d : Bytes) (y : SecY) : SecY :=
  { y with
    en := true, vmatch := bit (leAt d 9 1) 1, sciTx := bit (leAt d 9 1) 2, es := bit (leAt d 9 1) 3, scb := bit (leAt d 9 1) 4
    encrypt := bit (leAt d 9 1) 5, offset := leAt d 0x0A 1, suite := leAt d 0x0B 1, vid := leAt d 0x0C 2, sci := sub d 0x10 8 }

/-- With no SA bound to the SecY, a TXSC_SET with EN sets it, whatever its suite was. -/
theorem commitTxsc_of_unbound {d : Bytes} (hen : bit (leAt d 9 1) 0 = true) (hfree : ∀ a ∈ (s.secy p (leAt d 8 1)).ans, a = none) :
    commitTxsc s p d = (s.modSecy p (leAt d 8 1) (SecY.setBy d), stOK) := by
  have hnone : (s.secy p (leAt d 8 1)).ans.any (·.isSome) = false := by
    rw [List.any_eq_false]
    intro a ha
    simp [hfree a ha]
  simp [commitTxsc, hnone, hen]
  rfl

/-! ### SA_INSTALL (R300, R304) -/

/-- The entry that an SA_INSTALL leaves: READY, with the key of the slot under a fresh mask. -/
def installedEntry (r : KeyRef) (d : Bytes) : SaEntry :=
  { state := 1, suite := leAt d 0x0A 1, ssci := if xpn (leAt d 0x0A 1) then sub d 0x0C 4 else []
    salt := if xpn (leAt d 0x0A 1) then sub d 0x20 12 else [], pn := leAt d 0x18 8, slot := r.slot, gen := r.gen, epoch := s.vault.epoch
    share1 := bxor (s.slot r.slot).share1 (s.draw (s.slot r.slot).share1.length)
    share2 := bxor (s.slot r.slot).share2 (s.draw (s.slot r.slot).share1.length)
    h := aesEnc (s.slot r.slot).key (zeros 16) }

theorem installedEntry_key {r : KeyRef} (d : Bytes) (h : (s.slot r.slot).share1.length = (s.slot r.slot).share2.length) :
    (installedEntry s r d).key = (s.slot r.slot).key :=
  bxor_remask h (length_draw s _).ge

theorem commitInstall_of_permitted {tx : Bool} {r : KeyRef} {d : Bytes} (hkey : keyCheck s [(r, fun _ => true)] = stOK)
    (hpermit : saPermit ((linkServer s p tx).getD 16) (leAt d 0x0A 1) tx (s.slot r.slot) = true)
    (hfree : (s.sae p tx (leAt d 8 2)).state = 0) : commitInstall s p tx r d =
      ((s.modSae p tx (leAt d 8 2) (fun _ => installedEntry s r d)).drew (s.slot r.slot).share1.length, stOK) := by
  simp only [commitInstall, hkey, hpermit, hfree, ne_eq, not_true_eq_false, if_false, Bool.true_eq_false]
  rfl

/-! ### SA_ACTIVATE of a transmit entry (R301) -/

/-- An entry as its activation for an AN leaves it. -/
def SaEntry.activated (sc an : Nat) (x : SaEntry) : SaEntry := { x with state := 3, bound := some (sc, an), retireAt := none }

/-- The last encoding SA is BOUND again. -/
def SaEntry.demoted (x : SaEntry) : SaEntry := { x with state := if x.state = 3 then 2 else x.state }

/-- The entry that SecY sc encodes with, at another AN than an, makes room. -/
def demoteEncoding (sc an : Nat) : State :=
  match (s.secy p sc).enc with
  | some a =>
    if a = an then s
    else match (s.secy p sc).ans.getD a none with
      | some e => s.modSae p true e SaEntry.demoted
      | none => s
  | none => s

theorem demoteEncoding_secy (sc an n : Nat) : (demoteEncoding s p sc an).secy p n = s.secy p n := by
  unfold demoteEncoding
  split
  · split
    · rfl
    · split
      · exact modSae_secy ..
      · rfl
  · rfl

/-- An entry bound to no AN of the SecY has no part in it. -/
theorem demoteEncoding_sae_unbound {sc e : Nat} (an : Nat) (hunbound : ∀ a, (s.secy p sc).ans.getD a none ≠ some e) :
    (demoteEncoding s p sc an).sae p true e = s.sae p true e := by
  unfold demoteEncoding
  split
  · next a _ =>
    split
    · rfl
    · split
      · next e' he' =>
        rw [modSae_sae, if_neg]
        rintro rfl
        exact hunbound a he'
      · rfl
  · rfl

theorem demoteEncoding_sae_old {sc an a e : Nat} (henc : (s.secy p sc).enc = some a) (hbound : (s.secy p sc).ans.getD a none = some e)
    (ha : a ≠ an) : (demoteEncoding s p sc an).sae p true e = (s.sae p true e).demoted := by
  simp only [demoteEncoding, henc, if_neg ha, hbound]
  rw [modSae_sae, if_pos rfl]

/-- A SecY that binds entry e to an and encodes with it. -/
def SecY.encodesWith (an e : Nat) (y : SecY) : SecY := { y with ans := y.ans.set an (some e), enc := some an }

/-- The path once a transmit entry is ACTIVE and the last encoding SA has made room. -/
def activateTx (sc an e : Nat) : State := demoteEncoding (s.modSae p true e (SaEntry.activated sc an)) p sc an

theorem commitActivate_of_ready {d : Bytes} (hen : (s.secy p (leAt d 8 1)).en = true) (hready : (s.sae p true (leAt d 0x0A 2)).state = 1)
    (hsuite : (s.sae p true (leAt d 0x0A 2)).suite = (s.secy p (leAt d 8 1)).suite)
    (hfree : (s.secy p (leAt d 8 1)).ans.getD (leAt d 9 1 % 4) none = none) : commitActivate s p true d =
      ((activateTx s p (leAt d 8 1) (leAt d 9 1 % 4) (leAt d 0x0A 2)).modSecy p (leAt d 8 1)
        (SecY.encodesWith (leAt d 9 1 % 4) (leAt d 0x0A 2)), stOK) := by
  simp only [commitActivate, if_true, hen, hready, hsuite, hfree, ne_eq, not_true_eq_false, decide_true, decide_false, Bool.not_true,
    Bool.true_or, Bool.or_false, Bool.false_eq_true, if_false]
  rfl

theorem activateTx_secy (sc an e : Nat) : (activateTx s p sc an e).secy p sc = s.secy p sc :=
  (demoteEncoding_secy ..).trans (modSae_secy ..)

theorem activateTx_sae {sc e : Nat} (an : Nat) (hunbound : ∀ a, (s.secy p sc).ans.getD a none ≠ some e) :
    (activateTx s p sc an e).sae p true e = (s.sae p true e).activated sc an := by
  rw [activateTx, demoteEncoding_sae_unbound _ _ _ (by simpa only [modSae_secy] using hunbound), modSae_sae, if_pos rfl]

theorem activateTx_sae_old {sc an a e e' : Nat} (henc : (s.secy p sc).enc = some a)
    (hbound : (s.secy p sc).ans.getD a none = some e') (ha : a ≠ an) (he : e' ≠ e) :
    (activateTx s p sc an e).sae p true e' = (s.sae p true e').demoted := by
  rw [activateTx, demoteEncoding_sae_old _ _ (by rwa [modSae_secy]) (by rwa [modSae_secy]) ha, modSae_sae, if_neg he]

/-! ### SA_RETIRE (R302) -/

/-- An entry that retires is FREE; the others of its direction stay. -/
theorem retireEntry_sae (tx : Bool) (e j : Nat) : (retireEntry s p tx e).sae p tx j = if j = e then {} else s.sae p tx j := by
  unfold retireEntry
  dsimp only
  rw [modSae_sae]
  congr 1
  split
  · split
    · exact modSecy_sae ..
    · exact modRxsc_sae ..
  · rfl

end

/-! ### The commit of one change, by opcode -/

section
variable (s : State) (c : LinkChange) (r : KeyRef) {d : Bytes}

theorem commitLinkOne_txscSet (h : dOp d = 0x10) :
    commitLinkOne s c r d = ((commitTxsc s c.path d).1, (commitTxsc s c.path d).2, {}) := by simp [commitLinkOne, h]

theorem commitLinkOne_install (h : dOp d = 0x12) : commitLinkOne s c r d =
    ((commitInstall s c.path c.tx r d).1, (commitInstall s c.path c.tx r d).2,
      (commitInstall s c.path c.tx r d).1.sae c.path c.tx (leAt d 8 2)) := by simp [commitLinkOne, h]

theorem commitLinkOne_activate (h : dOp d = 0x13) : commitLinkOne s c r d =
    ((commitActivate s c.path c.tx d).1, (commitActivate s c.path c.tx d).2,
      (commitActivate s c.path c.tx d).1.sae c.path c.tx (leAt d 0x0A 2)) := by simp [commitLinkOne, h]

theorem commitLinkOne_retire (h : dOp d = 0x14) {e : Nat}
    (hbound : s.boundEntry c.path c.tx (leAt d 8 1) (leAt d 9 1 % 4) = some e) : commitLinkOne s c r d =
      (retireEntry s c.path c.tx e, stOK, (retireEntry s c.path c.tx e).sae c.path c.tx e) := by simp [commitLinkOne, h, hbound]

/-- SA_UPDATE_PN of an entry that is not FREE raises its PN (R302). -/
theorem commitLinkOne_updatePn (h : dOp d = 0x15) (hheld : (s.sae c.path c.tx (leAt d 8 2)).state ≠ 0) :
    (commitLinkOne s c r d).1 = s.modSae c.path c.tx (leAt d 8 2) (fun x => { x with pn := max x.pn (leAt d 0x10 8) }) ∧
      (commitLinkOne s c r d).2.1 = stOK := by simp [commitLinkOne, h, hheld]

end

end Sys2Proof.Machine

namespace Sys2Proof.Proofs

open Sys2Proof.Machine Sys2Proof.Claims

/-- Settles O33: the opcode selects the change, and the SecY and the entries it names are read off. -/
theorem stagedLinkChangesCommit : Obligations.StagedLinkChangesCommit := by
  unfold Obligations.StagedLinkChangesCommit
  intro s c r d
  refine ⟨?txscSet, ?install, ?activate, ?retire, ?updatePn⟩
  case txscSet =>
    intro hop hen hfree
    rw [commitLinkOne_txscSet s c r hop, commitTxsc_of_unbound s c.path hen hfree]
    exact ⟨rfl, (modSecy_secy ..).trans (if_pos rfl)⟩
  case install =>
    intro hop hkey hpermit hfree
    rw [commitLinkOne_install s c r hop, commitInstall_of_permitted s c.path hkey hpermit hfree]
    have hentry := (modSae_sae s c.path c.tx (leAt d 8 2) (fun _ => installedEntry s r d) _).trans (if_pos rfl)
    exact ⟨rfl, installedEntry s r d, hentry, rfl, rfl, rfl, rfl, rfl, rfl, rfl, installedEntry_key s d⟩
  case activate =>
    intro hop htx hen hready hsuite hfree hunbound
    rw [commitLinkOne_activate s c r hop, htx, commitActivate_of_ready s c.path hen hready hsuite hfree]
    refine ⟨rfl, (modSecy_sae ..).trans (activateTx_sae _ _ _ hunbound), ?_, fun a e henc hbound he hactive => ?_⟩
    · rw [modSecy_secy, if_pos rfl, activateTx_secy]
      rfl
    · have ha : a ≠ leAt d 9 1 % 4 := by
        rintro rfl
        exact absurd (hbound.symm.trans hfree) (Option.some_ne_none e)
      rw [modSecy_sae, activateTx_sae_old s c.path henc hbound ha he]
      exact if_pos hactive
  case retire =>
    intro hop e hbound
    rw [commitLinkOne_retire s c r hop hbound]
    exact ⟨rfl, (retireEntry_sae ..).trans (if_pos rfl)⟩
  case updatePn =>
    intro hop hheld
    obtain ⟨hstate, hstatus⟩ := commitLinkOne_updatePn s c r hop hheld
    exact ⟨hstatus, by rw [hstate, modSae_sae, if_pos rfl]⟩

end Sys2Proof.Proofs
end

section
/-! PROOFS. What events of the backhaul link leave as it is, what a loop over the entries of a path direction makes of each entry, and
the statement on entries that retire or are checked again assembled from that (R295, R301, R302, R305, R308). -/

namespace Sys2Proof.Machine

/-! ### Events (R107, R305) -/

/-- The block beside its rings and event registers. -/
def State.unrung (s : State) : State := { s with rings := [], regs := { s.regs with wr := [] } }

section
variable (s : State) (p : Nat)

theorem evt_unrung (off n : Nat) : (s.evt off n).unrung = s.unrung := rfl
theorem modRing_unrung (r : Nat) (f : Ring → Ring) : (s.modRing r f).unrung = s.unrung := rfl
theorem unreserve_unrung (k : Nat) : (unreserve s k).unrung = s.unrung := rfl
theorem grantEvents_unrung (cq : Nat) : (grantEvents s cq).unrung = s.unrung := rfl

theorem noteWait_unrung (source : Nat) : (noteWait s source).unrung = s.unrung := by
  unfold noteWait
  split
  · exact evt_unrung ..
  · split
    · exact evt_unrung ..
    · rfl

theorem raiseEvent_unrung (cq : Nat) (e : SrcEvt) : (raiseEvent s cq e).unrung = s.unrung := by
  unfold raiseEvent
  grind only [unreserve_unrung, grantEvents_unrung, modRing_unrung, noteWait_unrung]

theorem raiseOnce_unrung (cq : Nat) (e : SrcEvt) : (raiseOnce s cq e).unrung = s.unrung := by
  unfold raiseOnce
  split
  · exact modRing_unrung ..
  · exact raiseEvent_unrung ..

theorem linkEvent_unrung (tx : Bool) (code status key : Nat) (result : Bytes) :
    (linkEvent s p tx code status key result).unrung = s.unrung := by
  unfold linkEvent
  split
  · rfl
  · exact raiseOnce_unrung ..

theorem saEvent_unrung (tx : Bool) (e code status flag : Nat) : (saEvent s p tx e code status flag).unrung = s.unrung :=
  (evt_unrung ..).trans (linkEvent_unrung ..)

theorem pathEvent_unrung (code flag : Nat) : (pathEvent s p code flag).unrung = s.unrung :=
  (evt_unrung ..).trans (linkEvent_unrung ..)

end

section
variable {s t : State} (h : t.unrung = s.unrung)
include h

theorem vault_of_unrung : t.vault = s.vault := congrArg (fun x => x.vault) h

theorem path_of_unrung (p : Nat) : t.path p = s.path p := congrArg (fun x => x.path p) h

theorem sae_of_unrung (p : Nat) (tx : Bool) (e : Nat) : t.sae p tx e = s.sae p tx e := congrArg (fun x => x.sae p tx e) h

theorem stw_of_unrung (off : Nat) : t.stw off = s.stw off := congrArg (fun x => x.stw off) h

theorem frame_of_unrung : t = { s with link := t.link, rings := t.rings, regs := t.regs } :=
  congrArg (fun x => { x with link := t.link, rings := t.rings, regs := t.regs }) h

end

/-! ### Loops over the entries of a direction -/

/-- What every step of a loop keeps, the loop keeps. -/
theorem foldl_view {β γ : Type} (view : State → γ) {f : State → β → State} (h : ∀ s x, view (f s x) = view s) (l : List β)
    (s : State) : view (l.foldl f s) = view s := by
  induction l generalizing s with
  | nil => rfl
  | cons x l ih => exact (ih _).trans (h s x)

theorem tget_of_unlisted {α : Type} (d : α) {m : Tab α} {k : Nat} (h : k ∉ tkeys m) : tget d m k = d := by
  induction m with
  | nil => rfl
  | cons c m ih =>
    simp only [tkeys, List.map_cons, List.mem_cons, not_or] at h
    obtain ⟨hhead, htail⟩ := h
    rw [tget, if_neg hhead, ih htail]

/-- The entries of a direction that are listed. -/
def Path.entries (x : Path) (tx : Bool) : Tab SaEntry := if tx then x.txe else x.rxe

section
variable {f : State → Nat → State} {upd : SaEntry → SaEntry} {s : State} {p : Nat} {tx : Bool}

/-- A loop whose step changes its own entry, and has nothing more to change the second time, changes each entry it names. -/
theorem foldl_sae (I : State → Prop) (hkeep : ∀ t e, I t → I (f t e))
    (hown : ∀ t e j, I t → (f t e).sae p tx j = if j = e then upd (t.sae p tx e) else t.sae p tx j)
    (hagain : ∀ x, upd (upd x) = upd x) (l : List Nat) (hs : I s) (j : Nat) :
    (l.foldl f s).sae p tx j = if j ∈ l then upd (s.sae p tx j) else s.sae p tx j := by
  induction l generalizing s with
  | nil => simp
  | cons e l ih =>
    rw [List.foldl_cons, ih (hkeep s e hs), hown s e j hs]
    by_cases hj : j = e
    · subst hj
      simp [hagain]
    · simp [hj]

/-- Over all listed entries it changes every entry: the others are FREE, and stay so. -/
theorem foldl_tkeys_sae (I : State → Prop) (hkeep : ∀ t e, I t → I (f t e))
    (hown : ∀ t e j, I t → (f t e).sae p tx j = if j = e then upd (t.sae p tx e) else t.sae p tx j)
    (hagain : ∀ x, upd (upd x) = upd x) (hfree : upd {} = {}) (hs : I s) (j : Nat) :
    ((tkeys ((s.path p).entries tx)).foldl f s).sae p tx j = upd (s.sae p tx j) := by
  rw [foldl_sae I hkeep hown hagain _ hs]
  split
  · rfl
  · next hj =>
    have hunlisted : s.sae p tx j = {} := show tget {} ((s.path p).entries tx) j = {} from tget_of_unlisted _ hj
    rw [hunlisted, hfree]

end

/-! ### Overlaps that run out (R301, R302) -/

section
variable (s : State) (p e : Nat)

/-- An entry retires with its AN in its own direction of its own path. -/
theorem retireEntry_sae_other {r : Nat} {tx tx' : Bool} (h : r ≠ p ∨ tx' ≠ tx) (j : Nat) :
    (retireEntry s p tx e).sae r tx' j = s.sae r tx' j := by
  unfold retireEntry
  dsimp only
  rw [modSae_sae_other _ (h.imp_right Or.inl)]
  split
  · split
    · exact modSecy_sae ..
    · exact modRxsc_sae ..
  · rfl

theorem modSae_path_other {r : Nat} (tx : Bool) (f : SaEntry → SaEntry) (h : r ≠ p) : (s.modSae p tx e f).path r = s.path r :=
  (modPath_path ..).trans (if_neg h)

theorem retireEntry_path_other {r : Nat} (tx : Bool) (h : r ≠ p) : (retireEntry s p tx e).path r = s.path r := by
  unfold retireEntry
  dsimp only
  rw [modSae_path_other _ _ _ _ _ h]
  split
  · split
    · exact (modPath_path ..).trans (if_neg h)
    · exact (modPath_path ..).trans (if_neg h)
  · rfl

theorem retireEntry_frame (tx : Bool) : ({ retireEntry s p tx e with link := {} } : State) = { s with link := {} } := by
  unfold retireEntry
  dsimp only
  split
  · split <;> rfl
  · rfl

end

/-- An entry at the end of overlaps at count c. -/
def SaEntry.overlapped (c : Nat) (x : SaEntry) : SaEntry := if ∃ k ∈ x.retireAt, k ≤ c then {} else x

theorem overlapped_overlapped (c : Nat) (x : SaEntry) : (x.overlapped c).overlapped c = x.overlapped c := by
  by_cases h : ∃ k ∈ x.retireAt, k ≤ c
  · have hout : x.overlapped c = {} := if_pos h
    rw [hout]
    exact if_neg (by simp)
  · have hruns : x.overlapped c = x := if_neg h
    rw [hruns, hruns]

/-- One step of the loop over the entries that may name an overlap. -/
def overlapOne (p : Nat) (s : State) (e : Nat) : State :=
  match (s.sae p false e).retireAt with
  | some c => if c ≤ s.count then retireEntry s p false e else s
  | none => s

theorem overlapEnd_of_live {s : State} (p : Nat) (h : linkDead s = false) :
    overlapEnd s p = (tkeys ((s.path p).entries false)).foldl (overlapOne p) s := if_neg (by simp [h])

/-- Either the overlap of the entry has run out and it retires, or the step does nothing. -/
theorem overlapOne_cases (p : Nat) (s : State) (e : Nat) :
    (overlapOne p s e = retireEntry s p false e ∧ ∃ k ∈ (s.sae p false e).retireAt, k ≤ s.count) ∨
      (overlapOne p s e = s ∧ ¬∃ k ∈ (s.sae p false e).retireAt, k ≤ s.count) := by
  unfold overlapOne
  cases hat : (s.sae p false e).retireAt with
  | none => simp
  | some c => by_cases hc : c ≤ s.count <;> simp [hc]

theorem overlapOne_sae (p : Nat) (s : State) (e j : Nat) :
    (overlapOne p s e).sae p false j = if j = e then (s.sae p false e).overlapped s.count else s.sae p false j := by
  rw [SaEntry.overlapped]
  obtain ⟨heq, hout⟩ | ⟨heq, hrun⟩ := overlapOne_cases p s e
  · rw [heq, retireEntry_sae, if_pos hout]
  · rw [heq, if_neg hrun]
    split
    · next h => rw [h]
    · rfl

/-- What retiring keeps, the loop keeps. -/
theorem overlapOne_view {γ : Type} (view : State → γ) {p : Nat} (h : ∀ s e, view (retireEntry s p false e) = view s) (s : State)
    (e : Nat) : view (overlapOne p s e) = view s := by
  obtain ⟨heq, -⟩ | ⟨heq, -⟩ := overlapOne_cases p s e
  · rw [heq, h]
  · rw [heq]

section
variable {s : State} (p : Nat) (hlive : linkDead s = false)
include hlive

theorem overlapEnd_view {γ : Type} (view : State → γ) (h : ∀ s e, view (retireEntry s p false e) = view s) :
    view (overlapEnd s p) = view s := by
  rw [overlapEnd_of_live p hlive, foldl_view view (overlapOne_view view h)]

theorem overlapEnd_sae (e : Nat) : (overlapEnd s p).sae p false e = (s.sae p false e).overlapped s.count := by
  have htick : ∀ t e, (overlapOne p t e).count = t.count :=
    overlapOne_view State.count fun t e => congrArg (fun x => x.count) (retireEntry_frame t p e false)
  rw [overlapEnd_of_live p hlive]
  refine foldl_tkeys_sae (fun t => t.count = s.count) (fun t e ht => (htick t e).trans ht) (fun t e j ht => ?_)
    (overlapped_overlapped s.count) (if_neg (by simp)) rfl e
  rw [overlapOne_sae, ht]

end

/-! ### Entries of an older epoch (R295, R308) -/

/-- A key is told from the slots of the vault. -/
theorem keyCheck_congr {s t : State} (h : t.vault = s.vault) (refs : List (KeyRef × (Slot → Bool))) :
    keyCheck t refs = keyCheck s refs := by
  have hslot (q : Nat) : t.slot q = s.slot q := by simp only [State.slot, h]
  have hchain (n : Nat) : chainOk t n = chainOk s n := by
    simp only [chainOk, hslot, chainAux_congr (fun q => congrArg Slot.parent (hslot q)) (fun q => congrArg Slot.pgen (hslot q))
      (fun q => congrArg Slot.gen (hslot q)) (congrArg Vault.restored h)]
  have hlive (r : KeyRef) : refLive t r = refLive s r := by simp [refLive, hslot]
  simp only [keyCheck, hlive, hslot, hchain]

/-- An entry that died: its copy is gone, its AN stays bound (R308). -/
def SaEntry.dead (x : SaEntry) : SaEntry :=
  { state := 5, suite := x.suite, bound := x.bound, frames := x.frames, pn := x.pn, slot := x.slot, gen := x.gen, epoch := x.epoch
    retireAt := x.retireAt }

/-- An entry once it has been checked against the epoch of s. -/
def SaEntry.revalidated (s : State) (x : SaEntry) : SaEntry :=
  if x.state = 0 ∨ x.epoch = s.vault.epoch then x
  else if keyCheck s [({ slot := x.slot, gen := x.gen }, fun _ => true)] = stOK then { x with epoch := s.vault.epoch }
  else { x with epoch := s.vault.epoch }.dead

theorem revalidated_revalidated (s : State) (x : SaEntry) : (x.revalidated s).revalidated s = x.revalidated s := by
  have hchecked : (x.revalidated s).state = 0 ∨ (x.revalidated s).epoch = s.vault.epoch := by
    rw [SaEntry.revalidated]
    split
    · assumption
    · split
      · exact .inr rfl
      · exact .inr rfl
  exact if_pos hchecked

section
variable (s : State) (p : Nat) (tx : Bool) (e : Nat)

theorem killEntry_unrung (status : Nat) : (killEntry s p tx e status).unrung = (s.modSae p tx e SaEntry.dead).unrung := saEvent_unrung ..

theorem killEntry_sae (status j : Nat) :
    (killEntry s p tx e status).sae p tx j = if j = e then (s.sae p tx e).dead else s.sae p tx j :=
  (sae_of_unrung (killEntry_unrung s p tx e status) p tx j).trans (modSae_sae ..)

theorem inc_sae (off hi lo j : Nat) : (s.inc off hi lo).sae p tx j = s.sae p tx j := rfl

/-- The entry takes the epoch in force. -/
def renewEpoch : State := s.modSae p tx e (fun x => { x with epoch := s.vault.epoch })

theorem renewEpoch_sae (j : Nat) : (renewEpoch s p tx e).sae p tx j =
    if j = e then { s.sae p tx e with epoch := s.vault.epoch } else s.sae p tx j := modSae_sae ..

/-- An entry is FREE or checked already, or it takes the epoch and lives on, or it takes the epoch and dies. -/
theorem revalOne_cases :
    (((s.sae p tx e).state = 0 ∨ (s.sae p tx e).epoch = s.vault.epoch) ∧ revalOne p tx s e = s) ∨
    (¬((s.sae p tx e).state = 0 ∨ (s.sae p tx e).epoch = s.vault.epoch) ∧
      ((keyCheck s [({ slot := (s.sae p tx e).slot, gen := (s.sae p tx e).gen }, fun _ => true)] = stOK ∧
          revalOne p tx s e = renewEpoch s p tx e) ∨
        (keyCheck s [({ slot := (s.sae p tx e).slot, gen := (s.sae p tx e).gen }, fun _ => true)] ≠ stOK ∧
          revalOne p tx s e = killEntry ((renewEpoch s p tx e).inc 0x3200C 31 16) p tx e stOrphan))) := by
  have hkey := keyCheck_congr (show (renewEpoch s p tx e).vault = s.vault from rfl)
    [({ slot := (s.sae p tx e).slot, gen := (s.sae p tx e).gen }, fun _ => true)]
  unfold revalOne
  dsimp only
  split
  · next h => exact .inl ⟨h, rfl⟩
  · next h =>
    refine .inr ⟨h, ?_⟩
    split
    · next hgood => exact .inl ⟨hkey.symm.trans hgood, rfl⟩
    · next hlost => exact .inr ⟨hkey ▸ hlost, rfl⟩

theorem revalOne_sae (j : Nat) :
    (revalOne p tx s e).sae p tx j = if j = e then (s.sae p tx e).revalidated s else s.sae p tx j := by
  rw [SaEntry.revalidated]
  obtain ⟨hchecked, heq⟩ | ⟨hstale, ⟨hgood, heq⟩ | ⟨hlost, heq⟩⟩ := revalOne_cases s p tx e
  · rw [heq, if_pos hchecked]
    split
    · next h => rw [h]
    · rfl
  · rw [heq, if_neg hstale, if_pos hgood, renewEpoch_sae]
  · rw [heq, if_neg hstale, if_neg hlost, killEntry_sae]
    simp only [inc_sae, renewEpoch_sae, if_true]
    split
    · rfl
    · rfl

/-- What a change of the entry and an event leave, the check leaves. -/
theorem revalOne_view {γ : Type} (view : State → γ) (hsae : ∀ s f, view (s.modSae p tx e f) = view s)
    (hinc : ∀ s off hi lo, view (State.inc s off hi lo) = view s) (hring : ∀ s t : State, t.unrung = s.unrung → view t = view s) :
    view (revalOne p tx s e) = view s := by
  obtain ⟨-, heq⟩ | ⟨-, ⟨-, heq⟩ | ⟨-, heq⟩⟩ := revalOne_cases s p tx e
  · rw [heq]
  · rw [heq, renewEpoch, hsae]
  · rw [heq, hring _ _ (killEntry_unrung ..), hsae, hinc, renewEpoch, hsae]

/-- The check of an entry of a path leaves the other entries and paths, the vault, and all but the link, the registers and the rings. -/
theorem revalOne_sae_other {r : Nat} {tx' : Bool} (h : r ≠ p ∨ tx' ≠ tx) (j : Nat) :
    (revalOne p tx s e).sae r tx' j = s.sae r tx' j :=
  revalOne_view s p tx e (fun t => t.sae r tx' j) (fun _ _ => modSae_sae_other _ (h.imp_right Or.inl)) (fun _ _ _ _ => rfl)
    (fun _ _ h => sae_of_unrung h ..)

theorem revalOne_path_other {r : Nat} (h : r ≠ p) : (revalOne p tx s e).path r = s.path r :=
  revalOne_view s p tx e (fun t => t.path r) (fun _ _ => modSae_path_other _ _ _ _ _ h) (fun _ _ _ _ => rfl)
    (fun _ _ h => path_of_unrung h r)

theorem revalOne_vault : (revalOne p tx s e).vault = s.vault :=
  revalOne_view s p tx e State.vault (fun _ _ => rfl) (fun _ _ _ _ => rfl) (fun _ _ h => vault_of_unrung h)

theorem revalOne_frame : ({ revalOne p tx s e with link := {}, regs := {}, rings := [] } : State) =
    { s with link := {}, regs := {}, rings := [] } :=
  revalOne_view s p tx e (fun t => ({ t with link := {}, regs := {}, rings := [] } : State)) (fun _ _ => rfl) (fun _ _ _ _ => rfl)
    (fun _ _ h => congrArg (fun x => ({ x with link := {}, regs := {}, rings := [] } : State)) h)

end

/-- The entries of one direction of a path are checked. -/
def revalWay (s : State) (p : Nat) (tx : Bool) : State := (tkeys ((s.path p).entries tx)).foldl (revalOne p tx) s

section
variable (s : State) (p : Nat) (tx : Bool)

theorem revalWay_vault : (revalWay s p tx).vault = s.vault := foldl_view State.vault (revalOne_vault · p tx) ..

theorem revalWay_sae (e : Nat) : (revalWay s p tx).sae p tx e = (s.sae p tx e).revalidated s := by
  refine foldl_tkeys_sae (fun t => t.vault = s.vault) (fun t e ht => (revalOne_vault t p tx e).trans ht) (fun t e j ht => ?_)
    (revalidated_revalidated s) (if_pos (.inl rfl)) rfl e
  simp only [revalOne_sae, SaEntry.revalidated, ht, keyCheck_congr ht]

theorem revalWay_sae_other {r : Nat} {tx' : Bool} (h : r ≠ p ∨ tx' ≠ tx) (e : Nat) : (revalWay s p tx).sae r tx' e = s.sae r tx' e :=
  foldl_view (fun t => t.sae r tx' e) (fun t x => revalOne_sae_other t p tx x h e) ..

theorem revalWay_path_other {r : Nat} (h : r ≠ p) : (revalWay s p tx).path r = s.path r :=
  foldl_view (fun t => t.path r) (fun t x => revalOne_path_other t p tx x h) ..

theorem revalWay_frame : ({ revalWay s p tx with link := {}, regs := {}, rings := [] } : State) =
    { s with link := {}, regs := {}, rings := [] } :=
  foldl_view (fun t => ({ t with link := {}, regs := {}, rings := [] } : State)) (revalOne_frame · p tx) ..

end

section
variable {s : State} (p : Nat) (hlive : linkDead s = false)
include hlive

theorem revalidate_of_live : revalidate s p = revalWay (revalWay s p true) p false := if_neg (by simp [hlive])

theorem revalidate_sae (tx : Bool) (e : Nat) : (revalidate s p).sae p tx e = (s.sae p tx e).revalidated s := by
  rw [revalidate_of_live p hlive]
  cases tx with
  | true => rw [revalWay_sae_other _ _ _ (.inr (by decide)), revalWay_sae]
  | false =>
    rw [revalWay_sae, revalWay_sae_other _ _ _ (.inr (by decide))]
    simp only [SaEntry.revalidated, revalWay_vault, keyCheck_congr (revalWay_vault s p true)]

theorem revalidate_path_other {r : Nat} (h : r ≠ p) : (revalidate s p).path r = s.path r := by
  rw [revalidate_of_live p hlive, revalWay_path_other _ _ _ h, revalWay_path_other _ _ _ h]

theorem revalidate_frame : revalidate s p =
    { s with link := (revalidate s p).link, regs := (revalidate s p).regs, rings := (revalidate s p).rings } := by
  have hrest := (revalWay_frame (revalWay s p true) p false).trans (revalWay_frame s p true)
  rw [← revalidate_of_live p hlive] at hrest
  exact congrArg (fun x => ({ x with
    link := (revalidate s p).link, regs := (revalidate s p).regs, rings := (revalidate s p).rings } : State)) hrest

end

end Sys2Proof.Machine

namespace Sys2Proof.Proofs

open Sys2Proof.Machine Sys2Proof.Claims

/-- Settles O36: both rows are loops over the entries of a path, in which each step changes its own entry. -/
theorem entriesRetireAndRevalidate : Obligations.EntriesRetireAndRevalidate := by
  unfold Obligations.EntriesRetireAndRevalidate
  refine ⟨fun s p hlive => ⟨overlapEnd s p, rfl, ?ranOut, ?runs, ?transmit, ?paths, ?frame⟩,
    fun s p hlive => ⟨revalidate s p, rfl, ?stale, ?checked, fun q => revalidate_path_other p hlive, revalidate_frame p hlive⟩⟩
  case ranOut =>
    intro e c hat hc
    rw [overlapEnd_sae p hlive]
    exact if_pos ⟨c, hat, hc⟩
  case runs =>
    intro e hrun
    rw [overlapEnd_sae p hlive]
    exact if_neg fun ⟨c, hat, hc⟩ => Nat.not_le.mpr (hrun c hat) hc
  case transmit =>
    exact fun e => overlapEnd_view p hlive (fun t => t.sae p true e) fun t j => retireEntry_sae_other t p j (.inr (by decide)) e
  case paths =>
    exact fun q hq => overlapEnd_view p hlive (fun t => t.path q) fun t j => retireEntry_path_other t p j false hq
  case frame =>
    have hrest := overlapEnd_view p hlive (fun t => ({ t with link := {} } : State)) fun t j => retireEntry_frame t p j false
    exact congrArg (fun x => ({ x with link := (overlapEnd s p).link } : State)) hrest
  case stale =>
    intro tx e hheld hold
    rw [revalidate_sae p hlive, SaEntry.revalidated, if_neg (not_or.mpr ⟨hheld, hold⟩)]
    split
    · rfl
    · exact ⟨rfl, rfl, rfl⟩
  case checked =>
    intro tx e hchecked
    rw [revalidate_sae p hlive]
    exact if_pos hchecked

end Sys2Proof.Proofs
end

section
/-! PROOFS. What sending a frame leaves of the paths, how a path fails, is flushed, recovers and returns, and the statement on failover
assembled from that (R311, R313, R315, R317). -/

namespace Sys2Proof.Machine

/-! ### What a sent frame leaves (R290, R315, R316) -/

/-- A path beside the frames held for it. -/
def Path.unheld (x : Path) : Path := { x with holdTx := [], gap := false }

/-- A path beside its held frames and what sending a frame on it changes. -/
def Path.unsent (x : Path) : Path := { x.unheld with txe := [], txq := [] }

theorem fields_of_unheld {x y : Path} (h : x.unheld = y.unheld) :
    x.state = y.state ∧ x.ready = y.ready ∧ x.txq = y.txq ∧ x.flush = y.flush ∧ x.conn = y.conn :=
  ⟨congrArg (fun z => z.state) h, congrArg (fun z => z.ready) h, congrArg (fun z => z.txq) h, congrArg (fun z => z.flush) h,
    congrArg (fun z => z.conn) h⟩

theorem fields_of_unsent {x y : Path} (h : x.unsent = y.unsent) : x.state = y.state ∧ x.ready = y.ready ∧ x.phy = y.phy :=
  ⟨congrArg (fun z => z.state) h, congrArg (fun z => z.ready) h, congrArg (fun z => z.phy) h⟩

/-- The block beside what sending frames on path q changes. -/
def State.unsent (q : Nat) (s : State) : State × (Nat → Path) :=
  ({ s with link := { s.link with paths := [] }, regs := {}, rings := [], outs := [] },
    fun r => if r = q then (s.path r).unsent else (s.path r).unheld)

section
variable {s t : State} {q : Nat} (h : t.unsent q = s.unsent q)
include h

theorem frame_of_unsent : t = { s with link := t.link, regs := t.regs, rings := t.rings, outs := t.outs } :=
  congrArg (fun x => { x.1 with link := t.link, regs := t.regs, rings := t.rings, outs := t.outs }) h

theorem path_of_unsent : (t.path q).unsent = (s.path q).unsent := by
  have hq := congrArg (fun x => x.2 q) h
  simpa only [State.unsent, if_true] using hq

theorem path_of_unsent_other {r : Nat} (hr : r ≠ q) : (t.path r).unheld = (s.path r).unheld := by
  have hother := congrArg (fun x => x.2 r) h
  simpa only [State.unsent, if_neg hr] using hother

end

section
variable (s : State) (q : Nat)

theorem modPath_unsent {f : Path → Path} (h : (f (s.path q)).unsent = (s.path q).unsent) : (s.modPath q f).unsent q = s.unsent q := by
  refine Prod.ext rfl (funext fun r => ?_)
  simp only [State.unsent, modPath_path]
  split
  · next hr => rw [h, hr]
  · rfl

/-- A change of what is held for any path is out of sight. -/
theorem modPath_unsent_of_unheld {r : Nat} {f : Path → Path} (h : (f (s.path r)).unheld = (s.path r).unheld) :
    (s.modPath r f).unsent q = s.unsent q := by
  have hsent : (f (s.path r)).unsent = (s.path r).unsent := congrArg (fun x : Path => { x with txe := [], txq := [] }) h
  refine Prod.ext rfl (funext fun j => ?_)
  simp only [State.unsent, modPath_path]
  by_cases hj : j = r
  · subst hj
    simp only [if_true, h, hsent]
  · simp only [if_neg hj]

theorem unsent_of_unrung {s t : State} (h : t.unrung = s.unrung) : t.unsent q = s.unsent q := congrArg (fun x => x.unsent q) h

theorem putSt_unsent (off v : Nat) : (s.putSt off v).unsent q = s.unsent q := rfl
theorem inc_unsent (off hi lo : Nat) : (s.inc off hi lo).unsent q = s.unsent q := rfl
theorem saEvent_unsent (p : Nat) (tx : Bool) (e code status flag : Nat) : (saEvent s p tx e code status flag).unsent q = s.unsent q :=
  unsent_of_unrung q (saEvent_unrung ..)
theorem modSae_unsent (e : Nat) (f : SaEntry → SaEntry) : (s.modSae q true e f).unsent q = s.unsent q := modPath_unsent s q rfl

theorem drainTx_unsent : (drainTx s q).unsent q = s.unsent q := by
  unfold drainTx
  dsimp only
  split
  · have hempty : (s.modPath q (fun x => { x with txq := [] })).unsent q = s.unsent q := modPath_unsent s q rfl
    rw [foldl_emit]
    exact hempty
  · rfl

theorem offerTx_unsent (x : Nat) (f : Bytes) : (offerTx s q x f).unsent q = s.unsent q :=
  (drainTx_unsent ..).trans (modPath_unsent s q rfl)

theorem secureOn_unsent (x n : Nat) (f : Bytes) : (secureOn s x q n f).unsent q = s.unsent q := by
  unfold secureOn
  dsimp only
  split
  · rfl
  · grind only [offerTx_unsent, putSt_unsent, saEvent_unsent, modSae_unsent]

theorem sendOn_unsent (x : Nat) (f : Bytes) : (sendOn s x q f).unsent q = s.unsent q := by
  unfold sendOn
  split
  · rfl
  · split
    · rfl
    · exact secureOn_unsent ..

theorem takeHeld_unsent (x : Nat) : (takeHeld s x).unsent q = s.unsent q := by
  have hempty : (s.modPath x (fun y => { y with holdTx := [] })).unsent q = s.unsent q := modPath_unsent_of_unheld s q rfl
  unfold takeHeld
  dsimp only
  split
  · rw [modPath_unsent_of_unheld _ _ rfl, putSt_unsent, hempty]
  · exact hempty

theorem feed_unsent : (feed s q).unsent q = s.unsent q := by
  have htake (c : Prop) [Decidable c] (t : State) (x : Nat) : (if c then t else takeHeld t x).unsent q = t.unsent q := by
    split
    · rfl
    · exact takeHeld_unsent ..
  have hsend (t : State) (f : Bool × Bytes) : (sendOn t (if f.1 then 1 - q else q) q f.2).unsent q = t.unsent q := sendOn_unsent ..
  unfold feed
  dsimp only
  rw [foldl_view (State.unsent q) hsend, htake, htake]

end

/-! ### Where held frames go (R313, R315) -/

section
variable {s : State} {p : Nat}

theorem pump_cases (s : State) (p : Nat) : pump s p = s ∨ ∃ q, holdOutlet s p = some q ∧ pump s p = feed s q := by
  unfold pump
  split
  · exact .inl rfl
  · split
    · exact .inl rfl
    · next q hq => exact .inr ⟨q, hq, rfl⟩

/-- The frames held for a path that is UP go out on it. -/
theorem pump_unsent_of_up (hup : (s.path p).state = 0) : (pump s p).unsent p = s.unsent p := by
  obtain heq | ⟨q, hq, heq⟩ := pump_cases s p
  · rw [heq]
  · have hown : q = p := by
      rw [holdOutlet, if_pos hup] at hq
      grind only
    rw [heq, hown, feed_unsent]

/-- The frames held for a path that is not UP go out on the other. -/
theorem pump_unsent_of_failed (hfailed : (s.path p).state ≠ 0) : (pump s p).unsent (1 - p) = s.unsent (1 - p) := by
  obtain heq | ⟨q, hq, heq⟩ := pump_cases s p
  · rw [heq]
  · have hother : q = 1 - p := by
      rw [holdOutlet, if_neg hfailed] at hq
      grind only
    rw [heq, hother, feed_unsent]

end

/-! ### Failure of a path (R311, R313) -/

/-- An UP path as its failure leaves it: DOWN where the other path y is UP, else HELD (R313). -/
def Path.failing (x y : Path) : Path :=
  if y.state = 0 then { x with good := 0, fresh := true, ready := false, flush := true, state := 1, conn := false, gap := true }
  else { x with good := 0, fresh := true, ready := false, flush := true, state := 2, heldTicks := 0, heldNew := true }

/-- The other path at a failure: one that is DOWN is HELD, with no path left to carry its frames (R313). -/
def Path.stranded (x : Path) : Path :=
  if x.state = 1 then { x with state := 2, heldTicks := 0, heldNew := true, conn := false } else x

theorem failing_state (x y : Path) : (x.failing y).state = if y.state = 0 then 1 else 2 := by
  unfold Path.failing
  split <;> rfl

/-- Whatever the other path is, the failure is to be flushed, the count of good service starts again, and the reports of the link stay. -/
theorem failing_spec (x y : Path) : (x.failing y).flush = true ∧ (x.failing y).good = 0 ∧ (x.failing y).phy = x.phy ∧
    (x.failing y).missed = x.missed ∧ (x.failing y).hbOk = x.hbOk := by
  unfold Path.failing
  split <;> exact ⟨rfl, rfl, rfl, rfl, rfl⟩

theorem stranded_state (x : Path) : x.stranded.state = if x.state = 1 then 2 else x.state := by
  unfold Path.stranded
  split <;> rfl

theorem logPut_path (s : State) (ev cls : Nat) (data : Bytes) (r : Nat) : (s.logPut ev cls data).path r = s.path r := by
  rw [logPut_frame]
  rfl

theorem notGood_path (s : State) (p : Nat) : (notGood s p).path p = { s.path p with good := 0, fresh := true, ready := false } := by
  rw [notGood, modPath_path, if_pos rfl]

theorem notGood_path_other (s : State) {p r : Nat} (h : r ≠ p) : (notGood s p).path r = s.path r := by
  rw [notGood, modPath_path, if_neg h]

section
variable {s : State} {p : Nat} (hp : p ≤ 1) (hup : (s.path p).state = 0)
include hp hup

/-- The failure of an UP path changes both paths and the count of failovers, and then is an event and a log entry. -/
theorem failPath_of_up : ∃ t, failPath s p = (pathEvent t p 4 0).logPut 0x50 1 [BitVec.ofNat 8 p] ∧
    t.path p = (s.path p).failing (s.path (1 - p)) ∧ t.path (1 - p) = (s.path (1 - p)).stranded ∧
    t = { s with link := t.link, regs := (s.inc (0x38000 + 0x40 * p) 31 16).regs } := by
  have hne : 1 - p ≠ p := by omega
  have hother : ((notGood s p).inc (0x38000 + 0x40 * p) 31 16).path (1 - p) = s.path (1 - p) := notGood_path_other s hne
  have hown : ((notGood s p).inc (0x38000 + 0x40 * p) 31 16).path p = { s.path p with good := 0, fresh := true, ready := false } :=
    notGood_path s p
  unfold failPath
  rw [if_neg (not_not.mpr hup)]
  refine ⟨_, rfl, ?_⟩
  rw [hother]
  by_cases h0 : (s.path (1 - p)).state = 0
  · simp [h0, toDown, hne, hother, hown, Path.failing, Path.stranded]
    rfl
  · by_cases h1 : (s.path (1 - p)).state = 1
    · simp [h1, hne, hne.symm, hother, hown, Path.failing, Path.stranded]
      rfl
    · simp [h0, h1, hne, hother, hown, Path.failing, Path.stranded]
      rfl

theorem failPath_path : (failPath s p).path p = (s.path p).failing (s.path (1 - p)) := by
  obtain ⟨t, heq, hown, -, -⟩ := failPath_of_up hp hup
  rw [heq, logPut_path, path_of_unrung (pathEvent_unrung ..), hown]

theorem failPath_path_other : (failPath s p).path (1 - p) = (s.path (1 - p)).stranded := by
  obtain ⟨t, heq, -, hother, -⟩ := failPath_of_up hp hup
  rw [heq, logPut_path, path_of_unrung (pathEvent_unrung ..), hother]

theorem failPath_stf :
    (failPath s p).stf (0x38000 + 0x40 * p) 31 16 = satInc 16 (s.stf (0x38000 + 0x40 * p) 31 16) := by
  obtain ⟨t, heq, -, -, hframe⟩ := failPath_of_up hp hup
  rw [State.stf, heq, logPut_stw, stw_of_unrung (pathEvent_unrung ..), hframe]
  exact inc_stf ..

theorem failPath_frame : failPath s p = { s with
    link := (failPath s p).link, regs := (failPath s p).regs, rings := (failPath s p).rings, log := (failPath s p).log } := by
  obtain ⟨t, heq, -, -, hframe⟩ := failPath_of_up hp hup
  rw [heq, logPut_frame, frame_of_unrung (pathEvent_unrung t p 4 0), hframe]

end

/-! ### The link input (R51, R311) -/

/-- The path once its link input is low. -/
def unlinked (s : State) (p : Nat) : State := notGood (s.modPath p (fun x => { x with phy := false })) p

section
variable {s : State} (p : Nat)

theorem unlinked_path : (unlinked s p).path p = { s.path p with phy := false, good := 0, fresh := true, ready := false } := by
  rw [unlinked, notGood_path, modPath_path, if_pos rfl]

theorem unlinked_path_other {r : Nat} (h : r ≠ p) : (unlinked s p).path r = s.path r := by
  rw [unlinked, notGood_path_other _ h, modPath_path, if_neg h]

theorem phyDown_of_live (h : linkDead s = false) : phyDown s p = failPath (unlinked s p) p := if_neg (by simpa [linkDead] using h)

end

/-! ### Heartbeat intervals (R311) -/

section
variable {s : State} (p : Nat)

/-- The path once an interval without a valid frame has ended. -/
def missedBeat (s : State) (p : Nat) : State :=
  (notGood s p).modPath p (fun x => { x with hbOk := false, missed := min 3 ((s.path p).missed + 1) })

theorem missedBeat_path : (missedBeat s p).path p = { s.path p with
    good := 0, fresh := true, ready := false, hbOk := false, missed := min 3 ((s.path p).missed + 1) } := by
  rw [missedBeat, modPath_path, if_pos rfl, notGood_path]

theorem missedBeat_path_other {r : Nat} (h : r ≠ p) : (missedBeat s p).path r = s.path r := by
  rw [missedBeat, modPath_path, if_neg h, notGood_path_other _ h]

variable (hlive : linkDead s = false) (hon : bit (s.fc (0x4000 + 0x40 * p)) 15 = true)
include hlive hon

theorem heartbeatEnd_of_seen (hseen : (s.path p).hbSeen = true) :
    heartbeatEnd s p = s.modPath p (fun x => { x with hbSeen := false, hbOk := true, missed := 0 }) := by
  simp [heartbeatEnd, hlive, hon, hseen]

theorem heartbeatEnd_of_missed (hseen : (s.path p).hbSeen = false) : heartbeatEnd s p =
    if min 3 ((s.path p).missed + 1) = 3 ∧ pathServed s p = true then failPath (missedBeat s p) p else missedBeat s p := by
  simp [heartbeatEnd, hlive, hon, hseen]
  rfl

end

/-! ### Flush, recovery and return (R313, R315, R317) -/

/-- A path as step 3 of its failover leaves it: its hold buffer connected where the other path carries its frames (R315). -/
def Path.flushed (x : Path) : Path := { x with txq := [], flush := false, conn := decide (x.state = 1), good := 0, fresh := true }

/-- A path that is UP again. -/
def Path.returned (x : Path) : Path := { x with state := 0, ready := false, failback := false }

section
variable {s : State} {p : Nat}

theorem failoverFlush_of_pending (hlive : linkDead s = false) (hflush : (s.path p).flush = true) : failoverFlush s p =
    pump ((s.incBy (0x38018 + 0x40 * p) 31 16 (s.path p).txq.length).modPath p Path.flushed) p := if_neg (by simp [hlive, hflush])

theorem pathRecovered_of_good (hlive : linkDead s = false) (hfailed : (s.path p).state = 1 ∨ (s.path p).state = 2)
    (hnew : (s.path p).ready = false) (hgood : s.fcf (0x4014 + 0x40 * p) 7 0 ≤ (s.path p).good) :
    pathRecovered s p = pathEvent (s.modPath p (fun x => { x with ready := true })) p 5 2 :=
  if_neg (by obtain h | h := hfailed <;> simp [hlive, h, hnew, hgood])

theorem pathReturn_of_drained (hlive : linkDead s = false) (hreturning : (s.path p).state = 3)
    (hdrained : (s.path (1 - p)).txq.any (fun f => decide (f.1 = p)) = false) : pathReturn s p = becomeUp s p :=
  if_neg (by simp only [hlive, hreturning, hdrained]; decide)

/-- The block once path p is UP again and its held frames have gone out. -/
def resumed (s : State) (p : Nat) : State := pump (pathEvent (s.modPath p Path.returned) p 6 4) p

theorem resumed_unsent (s : State) (p : Nat) : (resumed s p).unsent p = (s.modPath p Path.returned).unsent p := by
  have hevent := pathEvent_unrung (s.modPath p Path.returned) p 6 4
  have hup : ((pathEvent (s.modPath p Path.returned) p 6 4).path p).state = 0 := by
    rw [path_of_unrung hevent, modPath_path, if_pos rfl]
    rfl
  exact (pump_unsent_of_up hup).trans (unsent_of_unrung p hevent)

theorem resumed_path (s : State) (p : Nat) : ((resumed s p).path p).unsent = (s.path p).returned.unsent :=
  (path_of_unsent (resumed_unsent s p)).trans (congrArg Path.unsent ((modPath_path ..).trans (if_pos rfl)))

theorem resumed_path_other (s : State) {p r : Nat} (h : r ≠ p) : ((resumed s p).path r).unheld = (s.path r).unheld :=
  (path_of_unsent_other (resumed_unsent s p) h).trans (congrArg Path.unheld ((modPath_path ..).trans (if_neg h)))

/-- A HELD path that is not READY goes DOWN, now that the other is UP to carry its frames (R313). -/
def giveWay (s : State) (r : Nat) : State := if (s.path r).state = 2 ∧ !(s.path r).ready then toDown s r else s

theorem giveWay_state (s : State) (r : Nat) : ((giveWay s r).path r).state =
    if (s.path r).state = 2 ∧ (s.path r).ready = false then 1 else (s.path r).state := by
  unfold giveWay
  split
  · next h => rw [toDown, modPath_path, if_pos rfl, if_pos (by simpa using h)]
  · next h => rw [if_neg (by simpa using h)]

theorem giveWay_path_other (s : State) {r j : Nat} (h : j ≠ r) : (giveWay s r).path j = s.path j := by
  unfold giveWay
  split
  · rw [toDown, modPath_path, if_neg h]
  · rfl

theorem giveWay_frame (s : State) (r : Nat) : giveWay s r = { s with link := (giveWay s r).link } := by
  unfold giveWay
  split <;> rfl

/-- A path whose link input is high comes UP to stay. -/
theorem becomeUp_of_linked (hp : p ≤ 1) (hphy : (s.path p).phy = true) : becomeUp s p = giveWay (resumed s p) (1 - p) := by
  have hlinked : ((giveWay (resumed s p) (1 - p)).path p).phy = true := by
    rw [giveWay_path_other _ (by omega)]
    obtain ⟨-, -, hsame⟩ := fields_of_unsent (resumed_path s p)
    exact hsame.trans hphy
  exact if_pos hlinked

end

end Sys2Proof.Machine

namespace Sys2Proof.Proofs

open Sys2Proof.Machine Sys2Proof.Claims

/-- Settles O35, row by row: an UP path fails in one way whatever its cause, and what its held frames send leaves its state alone. -/
theorem pathsFailOverAndReturn : Obligations.PathsFailOverAndReturn := by
  unfold Obligations.PathsFailOverAndReturn
  intro s p hlive
  have hp : p.val ≤ 1 := Nat.le_of_lt_succ p.isLt
  have hne : 1 - p.val ≠ p.val := by omega
  refine ⟨fun hup => ⟨phyDown s p, rfl, ?down⟩, ⟨phyUp s p, rfl, ?up⟩,
    fun hon => ⟨fun hseen => ⟨heartbeatEnd s p, rfl, ?seen⟩, fun hseen hfew => ⟨heartbeatEnd s p, rfl, ?missed⟩,
      fun hseen hlast hup hserved => ⟨heartbeatEnd s p, rfl, ?third⟩⟩,
    fun hflush hfailed => ⟨failoverFlush s p, rfl, ?flush⟩, fun hfailed hnew hgood => ⟨pathRecovered s p, rfl, ?recovered⟩,
    fun hreturning hdrained hphy => ⟨pathReturn s p, rfl, ?returned⟩⟩
  case down =>
    have hup' : ((unlinked s p).path p).state = 0 := by rw [unlinked_path]; exact hup
    have hown := failPath_path hp hup'
    have hother := failPath_path_other hp hup'
    rw [unlinked_path_other _ hne] at hown hother
    rw [unlinked_path] at hown
    obtain ⟨hflush, hgood, hphy, -, -⟩ := failing_spec
      { s.path p with phy := false, good := 0, fresh := true, ready := false } (s.path (1 - p))
    rw [phyDown_of_live _ hlive, hown, hother, stranded_state, failing_state]
    exact ⟨hphy, hgood, hflush, rfl, rfl, failPath_stf hp hup', failPath_frame hp hup'⟩
  case up => exact ⟨(modPath_path ..).trans (if_pos rfl), fun q hq => (modPath_path ..).trans (if_neg hq), rfl⟩
  case seen =>
    rw [heartbeatEnd_of_seen p hlive hon hseen]
    exact ⟨(modPath_path ..).trans (if_pos rfl), fun q hq => (modPath_path ..).trans (if_neg hq), rfl⟩
  case missed =>
    have hmissed : min 3 ((s.path p).missed + 1) = (s.path p).missed + 1 := by omega
    rw [heartbeatEnd_of_missed p hlive hon hseen, hmissed, if_neg (by omega), missedBeat_path, hmissed]
    exact ⟨rfl, fun q hq => missedBeat_path_other p hq, rfl⟩
  case third =>
    have hmissed : min 3 ((s.path p).missed + 1) = 3 := by omega
    have hup' : ((missedBeat s p).path p).state = 0 := by rw [missedBeat_path]; exact hup
    have hown := failPath_path hp hup'
    rw [missedBeat_path_other _ hne, missedBeat_path, hmissed] at hown
    obtain ⟨hflush, -, -, hcount, hlost⟩ := failing_spec
      { s.path p with good := 0, fresh := true, ready := false, hbOk := false, missed := 3 } (s.path (1 - p))
    rw [heartbeatEnd_of_missed p hlive hon hseen, if_pos ⟨hmissed, hserved⟩, hown, failing_state]
    exact ⟨hcount, hlost, hflush, rfl, failPath_frame hp hup'⟩
  case flush =>
    have hflushed : ((s.incBy (0x38018 + 0x40 * p) 31 16 (s.path p).txq.length).modPath p Path.flushed).path p = (s.path p).flushed :=
      (modPath_path ..).trans (if_pos rfl)
    have hpump := pump_unsent_of_failed (by rw [hflushed]; exact hfailed)
    have hpath := path_of_unsent_other hpump hne.symm
    rw [hflushed] at hpath
    obtain ⟨hstate, -, htxq, hdone, hconn⟩ := fields_of_unheld hpath
    have hframe := frame_of_unsent hpump
    rw [failoverFlush_of_pending hlive hflush]
    exact ⟨htxq, hdone, hconn, hstate, hframe⟩
  case recovered =>
    have hevent := pathEvent_unrung (s.modPath p (fun x => { x with ready := true })) p 5 2
    have hframe := frame_of_unrung hevent
    rw [pathRecovered_of_good hlive hfailed hnew hgood]
    refine ⟨?_, fun q hq => ?_, bit_evt .., hframe⟩
    · rw [path_of_unrung hevent, modPath_path, if_pos rfl]
    · rw [path_of_unrung hevent, modPath_path, if_neg hq]
  case returned =>
    obtain ⟨hup, hcleared, -⟩ := fields_of_unsent (resumed_path s p)
    obtain ⟨hstate, hready, -, -, -⟩ := fields_of_unheld (resumed_path_other s hne)
    rw [pathReturn_of_drained hlive hreturning hdrained, becomeUp_of_linked hp hphy, giveWay_path_other _ hne.symm, giveWay_state, hstate,
      hready]
    refine ⟨hup, hcleared, rfl, ?_⟩
    rw [giveWay_frame, frame_of_unsent (resumed_unsent s p)]
    rfl

end Sys2Proof.Proofs
end

section
/-! PROOFS. The count of admissions and acceptances (R82): no access to memory and no record for the journal takes a number of it. -/

namespace Sys2Proof.Machine

/-- A loop whose accumulator holds a state. -/
theorem seq_of_foldl {β γ : Type} {f : γ → β → γ} (g : γ → State) (h : ∀ p x, (g (f p x)).seq = (g p).seq) (l : List β)
    (p : γ) : (g (l.foldl f p)).seq = (g p).seq := by
  induction l generalizing p with
  | nil => rfl
  | cons x l ih => exact (ih _).trans (h p x)

theorem foldl_seq {β : Type} {f : State → β → State} (h : ∀ s x, (f s x).seq = s.seq) (l : List β) (s : State) :
    (l.foldl f s).seq = s.seq := seq_of_foldl id h l s

section
variable (s : State)

theorem setRoot_seq (t h v : Nat) : (setRoot s t h v).seq = s.seq := rfl
theorem metaCe_seq : (metaCe s).seq = s.seq := rfl
theorem tagFailed_seq : (tagFailed s).seq = s.seq := rfl
theorem dlvRefused_seq : (dlvRefused s).seq = s.seq := rfl
theorem answer_seq (t : Txn) (st : Nat) (data : Bytes) : (answer s t st data).seq = s.seq := rfl
theorem poisonRead_seq (data : Bytes) : (poisonRead s data).1.seq = s.seq := rfl

theorem logPut_seq (ev cls : Nat) (data : Bytes) : (s.logPut ev cls data).seq = s.seq := by
  rw [logPut_frame]

theorem integEvent_seq (kind a n : Nat) : (integEvent s kind a n).seq = s.seq := logPut_seq ..
theorem countLost_seq (n grp : Nat) : (countLost s n grp).seq = s.seq := integEvent_seq ..
theorem countSubtree_seq (n a : Nat) : (countSubtree s n a).seq = s.seq := integEvent_seq ..
theorem partRefused_seq (t : Txn) : (partRefused s t).1.seq = s.seq := integEvent_seq ..

theorem loseSubtree_seq (t h : Nat) : (loseSubtree s t h).seq = s.seq := by
  unfold loseSubtree
  split
  · exact countSubtree_seq ..
  · rfl

/-! ### Keys (R17, R139, R180, R217) -/

theorem revalFail_seq (n slot : Nat) : (revalFail s n slot).seq = s.seq := by
  unfold revalFail
  grind only [modChan_seq, inc_seq]

theorem keyDenied_seq (st role n slot : Nat) : (keyDenied s st role n slot).seq = s.seq := by
  unfold keyDenied
  grind only [dlvRefused_seq, revalFail_seq]

theorem useCopy_seq (n slot : Nat) : (useCopy s n slot 0).1.seq = s.seq := by
  simp only [useCopy, loadCopy, ge_iff_le, Nat.zero_le, if_true]
  cases findCopy (s.chan n).bank slot (s.slot slot).gen with
  | some e => rfl
  | none => cases makeRoom (boundKeys s n) (dropCopy (s.chan n).bank slot) <;> rfl

theorem lineKey_seq (n slot : Nat) : (lineKey s n slot).1.seq = s.seq := by
  unfold lineKey
  grind only [useCopy_seq]

theorem memKey_seq (ch : Nat) (r : KeyRef) (data : Bool) : (memKey s ch r data).1.seq = s.seq := by
  unfold memKey
  grind only [keyDenied_seq, lineKey_seq]

theorem keyFailed_seq (kid : Nat) (data : Bool) (job : Option (Nat × Bool)) : (keyFailed s kid data job).seq = s.seq := by
  unfold keyFailed
  grind only [modJob_seq, evt_seq, putStf_seq]

/-! ### Caches (R231, R232, R264) -/

theorem pushWb_seq (ch a : Nat) (b : Bytes) : (pushWb s ch a b).seq = s.seq := by
  unfold pushWb
  grind only [modMchan_seq, dramPut_seq]

theorem touchNode_seq (ch t k i h : Nat) (f : TNode → TNode) : (touchNode s ch t k i h f).seq = s.seq := by
  unfold touchNode
  split <;> rfl

theorem touchLine_seq (ch grp : Nat) (f : CLine → CLine) : (touchLine s ch grp f).seq = s.seq := by
  unfold touchLine
  split <;> rfl

theorem setChildSeal_seq (ch t k i h depth v : Nat) : (setChildSeal s ch t k i h depth v).seq = s.seq := by
  unfold setChildSeal
  grind only [setRoot_seq, touchNode_seq]

theorem sealInto_seq (ch t k i h depth a : Nat) (b : Bytes) : (sealInto s ch t k i h depth a b).seq = s.seq := by
  unfold sealInto
  grind only [memKey_seq, setChildSeal_seq, loseSubtree_seq]

theorem evictLine_seq (ch : Nat) (l : CLine) : (evictLine s ch l).seq = s.seq := by
  unfold evictLine
  grind only [modMchan_seq, sealInto_seq, pushWb_seq]

theorem evictNode_seq (f : Nat) (s : State) (ch : Nat) (n : TNode) : (evictNode f s ch n).seq = s.seq := by
  induction f generalizing s n with
  | zero => rfl
  | succ f ih =>
    have hlines (l : List CLine) : (l.foldl (fun s l => evictLine s ch l) s).seq = s.seq := foldl_seq (fun s l => evictLine_seq s ch l) l s
    have hnodes (l : List TNode) : (l.foldl (fun s x => evictNode f s ch x) s).seq = s.seq := foldl_seq ih l s
    unfold evictNode
    grind only [modMchan_seq, sealInto_seq, pushWb_seq]

theorem insertNode_seq (ch : Nat) (path : List Nat) (n : TNode) : (insertNode s ch path n).seq = s.seq := by
  unfold insertNode
  grind only [modMchan_seq, evictNode_seq]

theorem insertLine_seq (ch : Nat) (l : CLine) : (insertLine s ch l).seq = s.seq := by
  unfold insertLine
  grind only [modMchan_seq, evictLine_seq]

theorem releaseMarked_seq (ch grp : Nat) : (releaseMarked s ch grp).seq = s.seq := by
  unfold releaseMarked
  grind only [modMchan_seq, dramPut_seq]

theorem dropMeta_seq (q : Nat → Bool) : (dropMeta s q).seq = s.seq := foldl_seq (fun s c => modMchan_seq s c _) _ s

/-! ### Tag lines (R225, R247, R263) -/

theorem sealHolds_seq (f : Fetch) (b : Bytes) (lvl addr sv : Nat) : (sealHolds s f b lvl addr sv).1.seq = s.seq := by
  unfold sealHolds
  grind only [tagFailed_seq]

theorem loadPath_seq (f : Fetch) (k : Nat) (s : State) : (loadPath f k s).1.seq = s.seq := by
  induction k generalizing s with
  | zero => rfl
  | succ k ih =>
    unfold loadPath
    grind only [touchNode_seq, insertNode_seq, dropMeta_seq, countSubtree_seq, setChildSeal_seq, metaCe_seq, sealHolds_seq]

theorem loadFlat_seq (f : Fetch) (epoch : Nat) : (loadFlat s f epoch).1.seq = s.seq := by
  unfold loadFlat
  grind only [insertLine_seq, dropMeta_seq, countLost_seq, metaCe_seq]

theorem loadLeaf_seq (f : Fetch) (epoch : Nat) : (loadLeaf s f epoch).1.seq = s.seq := by
  unfold loadLeaf
  grind only [loadPath_seq, insertLine_seq, dropMeta_seq, countLost_seq, metaCe_seq, sealHolds_seq]

theorem loadTag_seq (f : Fetch) (epoch : Nat) : (loadTag s f epoch).1.seq = s.seq := by
  unfold loadTag
  grind only [releaseMarked_seq, touchLine_seq, modMchan_seq, loadLeaf_seq, loadFlat_seq]

theorem storeTag_seq (ch grp : Nat) (b : Bytes) : (storeTag s ch grp b).seq = s.seq := touchLine_seq ..

theorem poisonLine_seq (t : Txn) (b : Bytes) (i : Nat) : (poisonLine s t b i).1.seq = s.seq := storeTag_seq ..

/-! ### A transaction served (R225, R229, R230, R250) -/

theorem reencrypt_seq (t : Txn) (b : Bytes) (i : Nat) (pt : Bytes) : (reencrypt s t b i pt).seq = s.seq := by
  simp only [reencrypt, apply_ite State.seq, integEvent_seq, evt_seq, modRegion_seq, inc_seq, storeTag_seq, ite_self]
  refine seq_of_foldl Prod.fst (fun p j => ?_) _ (s, _)
  grind only [dramPut_seq, tagFailed_seq]

theorem writeLine_seq (t : Txn) (b pt : Bytes) : (writeLine s t b pt).seq = s.seq := by
  unfold writeLine
  grind only [reencrypt_seq, storeTag_seq, dramPut_seq]

theorem serveCore_seq (t : Txn) : (serveCore s t).1.seq = s.seq := by
  have htag := loadTag_seq s t.fetch t.epoch
  unfold serveCore
  dsimp only
  split
  · split <;> rfl
  · split
    all_goals
      rename_i h
      rw [h] at htag
      grind only [inc_seq, partRefused_seq, poisonRead_seq, tagFailed_seq, poisonLine_seq, writeLine_seq, integEvent_seq, evt_seq]

theorem serve_seq (t : Txn) : (serve s t).seq = s.seq := serveCore_seq s t

theorem passGroup_seq (n : Nat) : (passGroup s n).seq = s.seq := by
  unfold passGroup
  grind only [dramPut_seq, dropMeta_seq, modRegion_seq, evt_seq]

theorem freeAhead_seq : (freeAhead s).seq = s.seq := by
  refine foldl_seq (fun s _ => ?_) _ s
  grind only [passGroup_seq]

theorem serveWaiting_seq (t : Txn) : (serveWaiting s t).seq = s.seq := by
  unfold serveWaiting
  grind only [serve_seq, freeAhead_seq]

theorem serveOldest_seq (grp : Nat) : (serveOldest s grp).seq = s.seq := by
  unfold serveOldest
  grind only [serveWaiting_seq]

theorem settleWhere_seq (p : Txn → Bool) : (settleWhere s p).seq = s.seq := by
  refine foldl_seq (fun s _ => ?_) _ s
  grind only [serveOldest_seq]

/-! ### The DMA (R46, R219, R220) -/

theorem bindKeys_seq (n kid cls : Nat) (write : Bool) (a : Nat) : (bindKeys s n kid cls write a).1.seq = s.seq := by
  unfold bindKeys
  grind only [memKey_seq, keyFailed_seq]

theorem accept_seq (addr cls : Nat) (write : Bool) : (accept s addr cls write).1.seq = s.seq := by
  rw [accept_eq, checkLine]
  cases regionOf s (addr % 2 ^ 40 / 64 * 64) <;>
    simp only [apply_ite Prod.fst, apply_ite State.seq, bindKeys_seq, ite_self]

theorem denyCount_seq (kid cls reason : Nat) : (denyCount s kid cls reason).seq = s.seq := by rw [denyCount_frame]

theorem dmaLine_seq (addr : Nat) (write : Bool) (data : Bytes) (be : Nat) : (dmaLine s addr write data be).1.seq = s.seq := by
  unfold dmaLine settle
  grind only [settleWhere_seq, accept_seq, denyCount_seq, serveCore_seq, freeAhead_seq]

theorem hostRead_seq (addr n : Nat) : (hostRead s addr n).1.seq = s.seq := by
  unfold hostRead
  exact seq_of_foldl (fun p : State × DmaRead => p.1) (fun _ _ => dmaLine_seq ..) _ (s, .ok [])

theorem hostWrite_seq (addr : Nat) (b : Bytes) : (hostWrite s addr b).1.seq = s.seq := by
  unfold hostWrite
  exact seq_of_foldl (fun p : (State × Bool) × Bytes => p.1.1) (fun _ _ => dmaLine_seq ..) _ ((s, true), b)

theorem zeroOuts_seq (outs : List (Nat × Nat)) : (zeroOuts s outs).seq = s.seq := foldl_seq (fun s _ => hostWrite_seq s ..) outs s

/-! ### Records (R428) -/

theorem recDurable_seq (r : JRec) : (recDurable s r).seq = s.seq := by
  unfold recDurable
  grind only [State.modSlot]

theorem jPut_seq (r : JRec) : (s.jPut r).seq = s.seq := by
  unfold State.jPut
  grind only [recDurable_seq, inc_seq]

end

end Sys2Proof.Machine
end

section
/-! PROOFS. What the work on a downlink leaves as it is, operation by operation: the units outside `NodeFrame` and the submission rings
(R341, R342, R380, R434 to R436). -/

namespace Sys2Proof.Machine

open Sys2Proof.Claims

/-- What no step of a node frame writes before its item ends: the units that `NodeFrame` does not name, and the submission rings. -/
def State.besideFrame (s : State) : State × (Nat → Ring) :=
  ({ s with
    rings := [], part := {}, ch := [], mem := {}, regs := {}, vault := {}, jf := {}, alm := {}, log := {}, dram := [], dmErr := []
    drbg := 0, outs := [], ledger := {}, conv := {}, krysa := {} }, fun q => if q < 64 then s.ring q else {})

theorem nodeFrame_of_besideFrame {s t : State} (h : t.besideFrame = s.besideFrame) : NodeFrame s t :=
  congrArg (fun x : State × (Nat → Ring) => ({ x.1 with
    rings := t.rings, part := t.part, ch := t.ch, mem := t.mem, regs := t.regs, vault := t.vault, jf := t.jf, alm := t.alm
    log := t.log, dram := t.dram, dmErr := t.dmErr, drbg := t.drbg, outs := t.outs, ledger := t.ledger, conv := t.conv
    krysa := t.krysa } : State)) h

theorem ring_of_besideFrame {s t : State} (h : t.besideFrame = s.besideFrame) {q : Nat} (hq : q < 64) : t.ring q = s.ring q := by
  have hrings := congrFun (congrArg Prod.snd h) q
  simpa only [State.besideFrame, if_pos hq] using hrings

theorem besideFrame_of_pair {β : Type} {s t : State} {p : State × β} {x : β} (h : p = (t, x)) (hp : p.1.besideFrame = s.besideFrame) :
    t.besideFrame = s.besideFrame := by
  rw [h] at hp
  exact hp

theorem besideFrame_of_memFrame {s t : State} (h : MemFrame s t) (hseq : t.seq = s.seq) : t.besideFrame = s.besideFrame := by
  obtain ⟨⟩ := t
  obtain ⟨⟩ := h
  simp only at *
  subst_vars
  rfl

theorem besideFrame_of_besideAlm {s t : State} (h : t.besideAlm = s.besideAlm) : t.besideFrame = s.besideFrame := by
  rw [frame_of_besideAlm h]
  rfl

section
variable (s : State)

theorem hostRead_besideFrame (addr n : Nat) : (hostRead s addr n).1.besideFrame = s.besideFrame :=
  besideFrame_of_memFrame (hostRead_memFrame s addr n (.refl s)) (hostRead_seq s addr n)

theorem hostWrite_besideFrame (addr : Nat) (b : Bytes) : (hostWrite s addr b).1.besideFrame = s.besideFrame :=
  besideFrame_of_memFrame (hostWrite_memFrame s addr b (.refl s)) (hostWrite_seq s addr b)

theorem zeroOuts_besideFrame (outs : List (Nat × Nat)) : (zeroOuts s outs).besideFrame = s.besideFrame :=
  besideFrame_of_memFrame (zeroOuts_memFrame s outs (.refl s)) (zeroOuts_seq s outs)

theorem evt_besideFrame (off n : Nat) : (s.evt off n).besideFrame = s.besideFrame := rfl
theorem inc_besideFrame (off hi lo : Nat) : (s.inc off hi lo).besideFrame = s.besideFrame := rfl
theorem modJf_besideFrame (f : Journal → Journal) : (s.modJf f).besideFrame = s.besideFrame := rfl
theorem modLg_besideFrame (f : Ledger → Ledger) : (s.modLg f).besideFrame = s.besideFrame := rfl

/-- Completion rings are out of sight. -/
theorem modRing_besideFrame (r : Nat) (f : Ring → Ring) : (s.modRing (64 + r) f).besideFrame = s.besideFrame := by
  refine Prod.ext rfl (funext fun q => ?_)
  simp only [State.besideFrame]
  split
  · rw [modRing_ring, if_neg (by omega)]
  · rfl

/-! ### The counter (R341 step 4, R434 to R436) -/

theorem jPut_besideFrame (r : JRec) : (s.jPut r).besideFrame = s.besideFrame :=
  besideFrame_of_memFrame (State_jPut_memFrame s r (.refl s)) (jPut_seq s r)

theorem promote_besideFrame : (promote s).besideFrame = s.besideFrame := by
  unfold promote
  split <;> rfl

theorem takeLease_besideFrame (n : Nat) : (takeLease s n).besideFrame = s.besideFrame := by
  unfold takeLease
  grind only [evt_besideFrame, modJf_besideFrame, jPut_besideFrame, promote_besideFrame]

theorem requestLease_besideFrame : (requestLease s).besideFrame = s.besideFrame := by
  unfold requestLease
  split
  · rfl
  · split
    · rfl
    · exact takeLease_besideFrame ..

theorem grant_besideFrame (page : Option Nat) : (grant s page).1.besideFrame = s.besideFrame := by
  unfold grant
  grind only [evt_besideFrame, modJf_besideFrame, promote_besideFrame, requestLease_besideFrame]

/-! ### The decision (R380) -/

theorem lgReject_besideFrame (off hi lo : Nat) (full : Bool) : (lgReject s off hi lo full).besideFrame = s.besideFrame := by
  unfold lgReject
  grind only [evt_besideFrame, inc_besideFrame]

theorem charge_besideFrame (b a : Nat) : (charge s b a).besideFrame = s.besideFrame := rfl

theorem ledgerDecide_besideFrame (q : TxReq) : (ledgerDecide s q).1.besideFrame = s.besideFrame := by
  unfold ledgerDecide
  grind only [lgReject_besideFrame, charge_besideFrame, modRing_besideFrame, modLg_besideFrame]

theorem downSend_besideFrame (q : DownReq) (level : Nat) (e : Option AlmEntry) : (downSend s q level e).1.besideFrame = s.besideFrame := by
  unfold downSend
  grind only [grant_besideFrame, ledgerDecide_besideFrame]

theorem almGet_besideFrame (node : Nat) : (almGet s node).1.besideFrame = s.besideFrame :=
  besideFrame_of_besideAlm (almGet_besideAlm s node)

theorem downlinkCore_besideFrame (q : DownReq) : (downlinkCore s q).1.besideFrame = s.besideFrame := by
  unfold downlinkCore
  grind only [inc_besideFrame, almGet_besideFrame, downSend_besideFrame]

theorem countDown_besideFrame (st : Nat) : (countDown s st).besideFrame = s.besideFrame := by
  unfold countDown
  grind only [inc_besideFrame]

end

end Sys2Proof.Machine
end

section
/-! PROOFS. DOWNLINK: the end of its item after whatever its steps came to, the decision on a frame that its band and rate admit, and the
statement on downlinks assembled from that (R109, R341, R343, R344, R379 to R381). -/

namespace Sys2Proof.Machine

open Sys2Proof.Claims

/-! ### The end of an item whose work went on elsewhere (R109, R112) -/

theorem NodeFrame.trans {s t u : State} (hst : NodeFrame s t) (htu : NodeFrame t u) : NodeFrame s u := by
  unfold NodeFrame at hst htu ⊢
  conv_lhs => rw [htu, hst]

theorem nodeFrame_modItem (s : State) (k i : Nat) (f : Item → Item) : NodeFrame s (modItem s k i f) := rfl

theorem nodeFrame_releaseCost (s : State) (it : Item) : NodeFrame s (releaseCost s it) := by
  unfold releaseCost
  dsimp only
  split <;> rfl

theorem nodeFrame_finish (s : State) (k i status : Nat) (result : Bytes) (zero : Bool) : NodeFrame s (finish s k i status result zero) := by
  cases hfind : findItem s k i with
  | none =>
    simp only [finish, hfind]
    rfl
  | some it =>
    rw [finish_eq status result zero hfind]
    refine NodeFrame.trans (NodeFrame.trans ?_ (nodeFrame_releaseCost ..)) (nodeFrame_modItem ..)
    split
    · exact nodeFrame_of_besideFrame (zeroOuts_besideFrame ..)
    · rfl

theorem findItem_of_ring {s t : State} {k : Nat} (h : t.ring k = s.ring k) (i : Nat) : findItem t k i = findItem s k i := by
  simp only [findItem, h]

/-- A change that keeps the index and the result of an item changes what is found, and nothing of what is looked for. -/
theorem findItem_modItem (s : State) (k i : Nat) (f : Item → Item) (hf : ∀ x, (f x).idx = x.idx ∧ (f x).res = x.res) :
    findItem (modItem s k i f) k i = (findItem s k i).map f := by
  simp only [findItem, modItem_ring, if_true]
  induction (s.ring k).items with
  | nil => rfl
  | cons x l ih =>
    obtain ⟨hidx, hres⟩ := hf x
    by_cases hx : x.idx = i ∧ x.res = none
    · simp [hx, hidx, hres]
    · have hmiss : (decide (x.idx = i) && decide (x.res = none)) = false := by simpa using hx
      simp only [List.map_cons, if_neg hx, List.find?_cons, hmiss, ih]

theorem mem_items_modItem {s : State} {k i : Nat} {x : Item} (f : Item → Item) (hx : x ∈ (s.ring k).items) (hidx : x.idx ≠ i) :
    x ∈ ((modItem s k i f).ring k).items := by
  rw [modItem_ring, if_pos rfl]
  exact List.mem_map.mpr ⟨x, hx, if_neg (fun h => hidx h.1)⟩

/-- The item that is found gets its result, and an item with another index stays. -/
theorem itemEndsOf_finish {s u : State} {k i : Nat} {it : Item} (hfind : findItem u k i = some it)
    (hkept : ∀ x ∈ (s.ring k).items, x.idx ≠ i → x ∈ (u.ring k).items) (status : Nat) (result : Bytes) (zero : Bool) :
    ItemEndsOf s (finish u k i status result zero) k i status (zero && decide (it.outs ≠ [])) result := by
  obtain ⟨hmem, hidx, hres⟩ := findItem_spec hfind
  have hring := finish_ring status result zero hfind k
  rw [if_pos rfl] at hring
  unfold ItemEndsOf Ended
  rw [hring]
  exact ⟨⟨_, List.mem_map.mpr ⟨it, hmem, if_pos ⟨hidx, hres⟩⟩, hidx, rfl⟩,
    fun x hx hother => List.mem_map.mpr ⟨x, hkept x hx hother, if_neg (fun h => hother h.1)⟩⟩

theorem finish_ledger (s : State) (k i status : Nat) (result : Bytes) : (finish s k i status result false).ledger = s.ledger := by
  rw [finish_false_frame]

theorem countDown_frame (s : State) (st : Nat) : countDown s st = { s with regs := (countDown s st).regs } := by
  unfold countDown
  split
  · rfl
  split
  · rfl
  split <;> rfl

/-! ### DOWNLINK (R341, R343, R344) -/

/-- The MIC bytes of a frame that its descriptor does not tell: an S154 header gives them with its security level (R331). -/
def headerMic (src : Bytes) (q : DownReq) : Nat :=
  if q.hlf then 0 else ((s154Parse src q.hdr q.aux).map (fun a => s154Mic a.level)).getD 0

/-- The block once the output of an open downlink is known to hold m bytes more than was known at admission. -/
def aimed (s : State) (k i : Nat) (d : Bytes) (m : Nat) : State :=
  if m = 0 then s else modItem s k i (fun x => { x with outs := [(addrAt d 0x10, frameOut 0x21 d + m)] })

/-- How a downlink ends once its answer is known. -/
def downEnd (s : State) (k i : Nat) (d : Bytes) (a : DownAns) : State :=
  if a.status = stOK then
    match hostWrite s (addrAt d 0x10) a.frame with
    | (s, true) => finish (countDown s stOK) k i stOK a.result false
    | (s, false) => finish s k i stMalformed a.result true
  else finish (countDown s a.status) k i a.status a.result (decide (a.status ≠ stHeld))

section
variable {s s1 s3 u : State} {k i : Nat} {it : Item} {src : Bytes} {a : DownAns}

theorem downlink_of_read (h : Works s k i 0x21 it) (hread : hostRead s (addrAt it.desc 8) (frameIn 0x21 it.desc) = (s1, .ok src))
    (hcore : downlinkCore (aimed s1 k i it.desc (headerMic src (downReq s1 k it src))) (downReq s1 k it src) = (s3, a)) :
    downlink s false k i = downEnd s3 k i it.desc a := by
  obtain ⟨hopen, hfenced⟩ := h
  obtain ⟨hlive, -⟩ := id hopen
  unfold aimed headerMic at hcore
  simp only [downlink, hlive, withItem_of_open hopen, hfenced, hread, hcore]
  rfl

theorem downEnd_of_written {d : Bytes} {s4 : State} (hstatus : a.status = stOK)
    (hwrite : hostWrite s3 (addrAt d 0x10) a.frame = (s4, true)) :
    downEnd s3 k i d a = finish (countDown s4 stOK) k i stOK a.result false := by
  simp only [downEnd, if_pos hstatus, hwrite]

theorem downEnd_of_unwritten {d : Bytes} {s4 : State} (hstatus : a.status = stOK)
    (hwrite : hostWrite s3 (addrAt d 0x10) a.frame = (s4, false)) : downEnd s3 k i d a = finish s4 k i stMalformed a.result true := by
  simp only [downEnd, if_pos hstatus, hwrite]

theorem downEnd_of_held (d : Bytes) (hstatus : a.status = stHeld) :
    downEnd s3 k i d a = finish (countDown s3 stHeld) k i stHeld a.result false := by
  simp [downEnd, hstatus, stOK, stHeld]

theorem downEnd_of_rejected (d : Bytes) (hok : a.status ≠ stOK) (hheld : a.status ≠ stHeld) :
    downEnd s3 k i d a = finish (countDown s3 a.status) k i a.status a.result true := by
  rw [downEnd, if_neg hok, decide_eq_true hheld]

theorem aimed_nodeFrame (s : State) (k i : Nat) (d : Bytes) (m : Nat) : NodeFrame s (aimed s k i d m) := by
  unfold aimed
  split <;> rfl

theorem mem_items_aimed {x : Item} (d : Bytes) (m : Nat) (hx : x ∈ (s.ring k).items) (hidx : x.idx ≠ i) :
    x ∈ ((aimed s k i d m).ring k).items := by
  unfold aimed
  split
  · exact hx
  · exact mem_items_modItem _ hx hidx

/-- The open item of a downlink, with outputs where it had some or gained some. -/
theorem findItem_aimed (h : findItem s k i = some it) (d : Bytes) (m : Nat) :
    ∃ it2, findItem (aimed s k i d m) k i = some it2 ∧ (it2.outs ≠ [] ↔ m ≠ 0 ∨ it.outs ≠ []) := by
  unfold aimed
  split
  next hm => exact ⟨it, h, by simp [hm]⟩
  next hm =>
    rw [findItem_modItem, h]
    · exact ⟨_, rfl, by simp [hm]⟩
    · exact fun _ => ⟨rfl, rfl⟩

/-- Whatever a node frame did since its output was known, its item ends with the status, and nothing but what a node frame may change
changed. -/
theorem downlink_ends {d : Bytes} {m : Nat} (hk : k < 64) (hfind : findItem s k i = some it) (h1 : s1.besideFrame = s.besideFrame)
    (hu : u.besideFrame = (aimed s1 k i d m).besideFrame) (status : Nat) (result : Bytes) (zero : Bool) :
    ItemEndsOf s (finish u k i status result zero) k i status (zero && decide (m ≠ 0 ∨ it.outs ≠ [])) result ∧
      NodeFrame s (finish u k i status result zero) := by
  have hring1 := ring_of_besideFrame h1 hk
  have hring := ring_of_besideFrame hu hk
  obtain ⟨it2, hfind2, houts⟩ := findItem_aimed ((findItem_of_ring hring1 i).trans hfind) d m
  constructor
  · rw [← decide_eq_decide.mpr houts]
    refine itemEndsOf_finish ((findItem_of_ring hring i).trans hfind2) (fun x hx hidx => ?_) status result zero
    rw [hring]
    exact mem_items_aimed d m (by rwa [hring1]) hidx
  · have hwork : NodeFrame s u :=
      NodeFrame.trans (NodeFrame.trans (nodeFrame_of_besideFrame h1) (aimed_nodeFrame ..)) (nodeFrame_of_besideFrame hu)
    exact NodeFrame.trans hwork (nodeFrame_finish ..)

end

/-! ### The decision on a frame that its band and rate admit (R379, R380) -/

/-- A charge where the band has a current bucket (R379). -/
theorem charge_of_bucket {s : State} {b c : Nat} {rest : List Nat} (h : s.ledger.buckets[b]? = some (c :: rest)) (a : Nat) :
    charge s b a = { s with ledger := { s.ledger with buckets := s.ledger.buckets.set b (min 0xFFFFFFFF (c + a) :: rest) } } := by
  simp only [charge, State.modLg, List.modify_eq_set_getElem?, h]
  rfl

/-- A rejection is a matter of counters and events. -/
theorem lgReject_frame (s : State) (off hi lo : Nat) :
    lgReject s off hi lo false = { s with regs := (lgReject s off hi lo false).regs } := rfl

/-- The air-time of a request's frame at its rate of a band (R378). -/
abbrev airIn (b : Band) (q : TxReq) : Nat := airtime (b.rates.getD q.rate {}) q.frame.length

section
variable {s : State} {q : TxReq} {b : Band} (hup : s.wedged 1 = false) (hband : s.band q.band = some b)
  (hvalid : (b.rates.getD q.rate {}).valid = true) (hshort : ¬ (airIn b q > b.maxTx ∨ airIn b q > b.budget))
include hup hband hvalid hshort

theorem ledgerDecide_of_fits (hnone : ∀ h ∈ s.ledger.held, h.band ≠ q.band) (hfits : usedAir s q.band + airIn b q ≤ b.budget) :
    ledgerDecide s q = (charge s q.band (airIn b q), stOK, airIn b q) := by
  have hall : s.ledger.held.all (fun h => decide (h.band ≠ q.band)) = true := by simpa using hnone
  simp only [ledgerDecide, hup, hband, hvalid, if_neg hshort, if_pos (And.intro hall hfits)]
  rfl

theorem ledgerDecide_of_full (hfull : b.budget < usedAir s q.band + airIn b q) (hhold : q.hold = 0) :
    ledgerDecide s q = (lgReject s 0x39208 31 16 false, stReject, airIn b q) := by
  simp only [ledgerDecide, hup, hband, hvalid, if_neg hshort, if_neg (fun h => Nat.not_lt.mpr (And.right h) hfull), if_pos hhold]
  rfl

end

end Sys2Proof.Machine

namespace Sys2Proof.Proofs

open Sys2Proof.Machine Sys2Proof.Claims

/-- Settles O38: the work of a downlink leaves the submission rings alone, so whatever its answer, one end of its item follows; the two
decisions are those of the ledger on a frame that its band and rate admit. -/
theorem downlinksAreSecuredAndCharged : Obligations.DownlinksAreSecuredAndCharged := by
  unfold Obligations.DownlinksAreSecuredAndCharged
  constructor
  · rintro s s1 _ s3 k i _ it src _ a hworks hread rfl rfl rfl hcore
    obtain ⟨⟨-, hfind, -⟩, -⟩ := id hworks
    have h1 : s1.besideFrame = s.besideFrame := besideFrame_of_pair hread (hostRead_besideFrame ..)
    have h3 : s3.besideFrame = (aimed s1 k i it.desc (headerMic src (downReq s1 k it src))).besideFrame :=
      besideFrame_of_pair hcore (downlinkCore_besideFrame ..)
    have hexec : exec (.downlink k i) s = .next (downEnd s3 k i it.desc a) := exec_of_eq rfl (downlink_of_read hworks hread hcore)
    refine ⟨fun s4 hstatus hwrite => ?written, fun s4 hstatus hwrite => ?unwritten, fun hstatus => ?held, fun hok hheld => ?rejected⟩
    case written =>
      have h4 : s4.besideFrame = s3.besideFrame := besideFrame_of_pair hwrite (hostWrite_besideFrame ..)
      have hledger : s4.ledger = s3.ledger := (MemFrame.pair hwrite (hostWrite_memFrame s3 _ _ (.refl s3))).ledger
      obtain ⟨hends, hframe⟩ := downlink_ends k.isLt hfind h1 ((countDown_besideFrame s4 stOK).trans (h4.trans h3)) stOK a.result false
      refine ⟨_, exec_of_eq hexec (downEnd_of_written hstatus hwrite), hends, ?_, ?_, hframe⟩
      · rw [finish_dram, countDown_frame]
      · rw [finish_ledger, countDown_frame, hledger]
    case unwritten =>
      have h4 : s4.besideFrame = s3.besideFrame := besideFrame_of_pair hwrite (hostWrite_besideFrame ..)
      exact ⟨_, exec_of_eq hexec (downEnd_of_unwritten hstatus hwrite), downlink_ends k.isLt hfind h1 (h4.trans h3) ..⟩
    case held =>
      obtain ⟨hends, hframe⟩ := downlink_ends k.isLt hfind h1 ((countDown_besideFrame s3 stHeld).trans h3) stHeld a.result false
      refine ⟨_, exec_of_eq hexec (downEnd_of_held _ hstatus), hends, ?_, ?_, hframe⟩
      · rw [finish_dram, countDown_frame]
      · rw [finish_ledger, countDown_frame]
    case rejected =>
      exact ⟨_, exec_of_eq hexec (downEnd_of_rejected _ hok hheld),
        downlink_ends k.isLt hfind h1 ((countDown_besideFrame s3 a.status).trans h3) ..⟩
  · rintro s q b _ hup hband rfl hvalid hmax hbudget
    have hshort : ¬ (airIn b q > b.maxTx ∨ airIn b q > b.budget) := not_or.mpr ⟨Nat.not_lt.mpr hmax, Nat.not_lt.mpr hbudget⟩
    refine ⟨fun c rest hnone hbucket hfits => ?fits, fun hfull hhold => ?full⟩
    case fits =>
      rw [ledgerDecide_of_fits hup hband hvalid hshort hnone hfits, charge_of_bucket hbucket]
      exact ⟨rfl, rfl⟩
    case full =>
      rw [ledgerDecide_of_full hup hband hvalid hshort hfull hhold]
      exact ⟨rfl, lgReject_frame ..⟩

end Sys2Proof.Proofs
end

section
/-! PROOFS. The held store at a Calends: the frames that its loop discards, what a discarded frame and its report leave as it was, and the
statement on expiry assembled from that (R382 step 4, R383). -/

namespace Sys2Proof.Machine

/-- Of a list that loses, one by one, its elements with a property, the others stay. -/
theorem diff_filter_self {α : Type} [DecidableEq α] (p : α → Bool) (l : List α) : l.diff (l.filter p) = l.filter (fun x => !p x) := by
  induction l with
  | nil => rfl
  | cons x l ih =>
    by_cases hx : p x = true
    · simp [hx, ih]
    · have hmiss : x ∉ l.filter p := fun h => hx (List.mem_filter.mp h).2
      simp [hx, List.cons_diff_of_not_mem hmiss, ih]

/-! ### What a report leaves -/

/-- What the report of a held frame does not write: the units beyond memory, its channels, keys and counters, and the items of rings. -/
def State.besideReport (s : State) : State × (Nat → List Item) :=
  ({ s with
    rings := [], regs := {}, vault := {}, ch := [], jf := {}, mem := {}, log := {}, alm := {}, dram := [], dmErr := [], drbg := 0
    outs := [] }, fun q => (s.ring q).items)

theorem items_of_besideReport {s t : State} (h : t.besideReport = s.besideReport) (q : Nat) : (t.ring q).items = (s.ring q).items :=
  congrFun (congrArg Prod.snd h) q

theorem ledger_of_besideReport {s t : State} (h : t.besideReport = s.besideReport) : t.ledger = s.ledger :=
  congrArg (fun v : State × (Nat → List Item) => v.1.ledger) h

theorem frame_of_besideReport {s t : State} (h : t.besideReport = s.besideReport) :
    t = { s with rings := t.rings, regs := t.regs, vault := t.vault, ch := t.ch, jf := t.jf, mem := t.mem, log := t.log, alm := t.alm
                 dram := t.dram, dmErr := t.dmErr, drbg := t.drbg, outs := t.outs } :=
  congrArg (fun v : State × (Nat → List Item) => ({ v.1 with
    rings := t.rings, regs := t.regs, vault := t.vault, ch := t.ch, jf := t.jf, mem := t.mem, log := t.log, alm := t.alm
    dram := t.dram, dmErr := t.dmErr, drbg := t.drbg, outs := t.outs } : State)) h

theorem besideReport_of_memFrame {s t : State} (h : MemFrame s t) (hseq : t.seq = s.seq) : t.besideReport = s.besideReport := by
  obtain ⟨⟩ := t
  obtain ⟨⟩ := h
  simp only at *
  subst_vars
  rfl

/-- A change of the ledger is seen the same wherever the rest is. -/
theorem modLg_besideReport_congr {s t : State} (f : Ledger → Ledger) (h : t.besideReport = s.besideReport) :
    (t.modLg f).besideReport = (s.modLg f).besideReport :=
  congrArg (fun v : State × (Nat → List Item) => ({ v.1 with ledger := f v.1.ledger }, v.2)) h

section
variable (s : State)

theorem evt_besideReport (off n : Nat) : (s.evt off n).besideReport = s.besideReport := rfl
theorem inc_besideReport (off hi lo : Nat) : (s.inc off hi lo).besideReport = s.besideReport := rfl

theorem hostWrite_besideReport (addr : Nat) (b : Bytes) : (hostWrite s addr b).1.besideReport = s.besideReport :=
  besideReport_of_memFrame (hostWrite_memFrame s addr b (.refl s)) (hostWrite_seq s addr b)

/-- A ring that keeps its items changes out of sight. -/
theorem modRing_besideReport (r : Nat) {f : Ring → Ring} (hf : ∀ x, (f x).items = x.items) :
    (s.modRing r f).besideReport = s.besideReport := by
  refine Prod.ext rfl (funext fun q => ?_)
  simp only [State.besideReport, modRing_ring]
  split
  · next h => rw [hf, h]
  · rfl

theorem unreserve_besideReport (k : Nat) : (unreserve s k).besideReport = s.besideReport :=
  modRing_besideReport s (64 + k) fun _ => rfl

theorem cqWrite_besideReport (k status : Nat) (zero irq : Bool) (sqHead tag cal source op : Nat) (result : Bytes) :
    (cqWrite s k status zero irq sqHead tag cal source op result).besideReport = s.besideReport := by
  simp only [cqWrite, ↓apply_ite State.besideReport, ite_self, ↓evt_besideReport, ↓modRing_besideReport, implies_true,
    ↓unreserve_besideReport, ↓hostWrite_besideReport]

/-! ### The loop over what has expired -/

theorem heldEvent_besideReport (h : HeldFrame) (st op aux : Nat) : (heldEvent s h st op aux).besideReport = s.besideReport := by
  unfold heldEvent
  split
  · exact unreserve_besideReport ..
  · exact cqWrite_besideReport ..

theorem discardHeld_besideReport (h : HeldFrame) (why : Nat) :
    (discardHeld s h why).besideReport = (s.modLg (fun l => { l with held := l.held.erase h })).besideReport := by
  rw [discardHeld, heldEvent_besideReport, evt_besideReport]
  split <;> exact inc_besideReport ..

theorem foldl_discardHeld_besideReport (why : Nat) (l : List HeldFrame) :
    (l.foldl (fun s h => discardHeld s h why) s).besideReport = (s.modLg (fun g => { g with held := g.held.diff l })).besideReport := by
  induction l generalizing s with
  | nil => rfl
  | cons x l ih =>
    rw [List.foldl_cons, ih, modLg_besideReport_congr _ (discardHeld_besideReport s x why)]
    simp only [State.modLg, List.diff_cons]

theorem holdExpiry_besideReport (hlive : s.halted = false) :
    (holdExpiry s).besideReport =
      (s.modLg (fun l => { l with held := l.held.filter (fun h => decide (s.count ≤ h.expiry)) })).besideReport := by
  have hstay : s.ledger.held.diff (s.ledger.held.filter (fun h => decide (h.expiry < s.count))) =
      s.ledger.held.filter (fun h => decide (s.count ≤ h.expiry)) := by
    rw [diff_filter_self]
    exact List.filter_congr fun h _ => Bool.eq_iff_iff.mpr (by simp)
  rw [holdExpiry, if_neg (by simp [hlive]), foldl_discardHeld_besideReport]
  simp only [State.modLg, hstay]

end

end Sys2Proof.Machine

namespace Sys2Proof.Proofs

open Sys2Proof.Machine Sys2Proof.Claims

/-- Settles O21: each discard takes one frame out of the store, and its report writes nothing else that the statement keeps. -/
theorem heldFramesExpire : Obligations.HeldFramesExpire := by
  unfold Obligations.HeldFramesExpire
  intro s hlive
  have hview := holdExpiry_besideReport s hlive
  have hledger := ledger_of_besideReport hview
  refine ⟨_, rfl, hledger, fun k _ => items_of_besideReport hview k, ?frame⟩
  exact (frame_of_besideReport hview).trans (by rw [hledger]; rfl)

end Sys2Proof.Proofs
end

section
/-! PROOFS. One step: the command at the front of the queue, run on the rest; that it always goes on, and what it keeps (R508, R537). -/

namespace Sys2Proof.Machine

theorem step_of_empty {s : State} (h : s.pending = []) : step s = .next s := by simp only [step, h]

theorem step_of_front {s : State} {c : Instr} {rest : List Instr} (h : s.pending = c :: rest) :
    step s = exec c { s with pending := rest } := by simp only [step, h]

/-- A step goes on from the queue without its front, and keeps what every command keeps. -/
theorem step_keeps (s : State) : ∃ t, step s = .next t ∧ Keeps { s with pending := s.pending.tail } t := by
  cases hq : s.pending with
  | nil =>
    have hsame : ({ s with pending := [] } : State) = s := by rw [← hq]
    exact ⟨s, step_of_empty hq, by simpa only [List.tail_nil, hsame] using Keeps.refl s⟩
  | cons c rest =>
    obtain ⟨t, ht, hkeeps⟩ := exec_keeps { s with pending := rest } c
    exact ⟨t, (step_of_front hq).trans ht, hkeeps⟩

end Sys2Proof.Machine

namespace Sys2Proof.Proofs

open Sys2Proof.Machine Sys2Proof.Claims

/-- Settles O3: every command keeps the canonical form of DRAM and burns only, up to the 16 steps of the alarm count. -/
theorem memoryStaysCanonical : Obligations.MemoryStaysCanonical := by
  unfold Obligations.MemoryStaysCanonical
  rintro s t ⟨hwf, hcount⟩ hstep
  obtain ⟨u, hu, hkeeps⟩ := step_keeps s
  cases hu.symm.trans hstep
  exact ⟨hkeeps.dram hwf, (hkeeps.fuses.alarmCount hcount).2⟩

/-- Settles O2: every command of the table goes on and leaves the queue alone. -/
theorem everyStepGoesOnAndTakesOneCommand : Obligations.EveryStepGoesOnAndTakesOneCommand := by
  unfold Obligations.EveryStepGoesOnAndTakesOneCommand
  intro s
  obtain ⟨t, hstep, hkeeps⟩ := step_keeps s
  exact ⟨t, hstep, hkeeps.pending⟩

/-- Settles O1: the two cases of a step. -/
theorem stepRunsFrontCommand : Obligations.StepRunsFrontCommand :=
  ⟨fun _ _ _ h => step_of_front h, fun _ h => step_of_empty h⟩

end Sys2Proof.Proofs
end

section
/-! PROOFS. A write to an event register at the host port (R541, R542), and the kill field and the command kill (R508, R510 to R512). -/

namespace Sys2Proof.Machine

open Sys2Proof.Claims

/-- An event register clears the bits written as 1, in every state that answers accesses. -/
theorem exec_eventRegisterClear_of_row {s : State} {off : BitVec 18} {val : Word} {priv : Bool} (same : Word) {r : RegRow}
    (hdead : hostDead s = false) (htaken : WriteTaken off.toNat priv) (hrow : regRow off.toNat = some r) (hk : r.kind = .evt) :
    exec (.eventRegisterClear off val 15 priv same) s = .next ((hostOk s 0).w1c off.toNat (val.toNat &&& r.mask) same.toNat) := by
  have hwrite : writeReg s off.toNat val.toNat 15 priv same.toNat = (hostOk s 0).w1c off.toNat (val.toNat &&& r.mask) same.toNat := by
    simp [writeReg, regAccess_of_accepted hdead htaken, hrow, hk]
  exact congrArg _ hwrite

/-- A write of full width to a register that its own command names takes effect in an awake block. -/
theorem regWrite_of_up {s : State} (hup : HostUp s) {off : Nat} {priv : Bool} (htaken : WriteTaken off priv) (f : State → State) :
    regWrite s off 15 priv f = f (hostOk s 0) := by
  obtain ⟨hdead, hshut⟩ := hup
  have hopen : hostShut (hostOk s 0) = false := hshut
  simp [regWrite, regAccess_of_accepted hdead htaken, hopen]

section
variable {s : State} (hup : HostUp s)
include hup

theorem exec_killNBurn_of_up (val : Word) (back : Bool) :
    exec (.killNBurn val back true) s = .next (killCfg (hostOk s 0) val.toNat back) :=
  exec_of_eq rfl (regWrite_of_up hup (off := 0x13C00) (by decide) _)

theorem exec_killArm_of_up : exec (.killArm true) s = .next (fltKill (hostOk s 0) armCode) :=
  exec_of_eq rfl (regWrite_of_up hup (off := 0x13C04) (by decide) _)

theorem exec_killDisarm_of_up (val : Word) : exec (.killDisarm val true) s = .next (fltKill (hostOk s 0) val.toNat) :=
  exec_of_eq rfl (regWrite_of_up hup (off := 0x13C04) (by decide) _)

theorem exec_kill_of_up : exec (.kill true) s = .next (fltKill (hostOk s 0) killCode) :=
  exec_of_eq rfl (regWrite_of_up hup (off := 0x13C04) (by decide) _)

end

theorem halted_of_hostUp {s : State} (hup : HostUp s) : s.halted = false := by
  obtain ⟨hdead, hshut⟩ := hup
  simp only [hostDead, hostShut, Bool.or_eq_false_iff] at hdead hshut
  simp [State.halted, hdead, hshut]

/-! ### FLT_KILLCFG (R510) -/

section
variable {s : State} {val : Nat} (hgo : bit val 31 = true)
include hgo

theorem killCfg_of_blank (hrooted : lifecycle s = 1) (hcarnival : s.vault.carnival = false) (hdebug : s.boot.debug = false)
    (hwritten : s.fuses.killNWritten = false) (hdamaged : s.fuses.killNDamaged = false) (hn : val % 16 ≠ 0) (back : Bool) :
    killCfg s val back = { s with fuses := { s.fuses with killN := val % 16, killNWritten := back, killNDamaged := !back } } := by
  cases back <;> simp [killCfg, hgo, hrooted, hcarnival, hdebug, hwritten, hdamaged, hn]

theorem killCfg_of_refused (hwhy : lifecycle s ≠ 1 ∨ s.fuses.killNWritten = true ∨ s.fuses.killNDamaged = true ∨ val % 16 = 0) (back : Bool) :
    killCfg s val back = s.evt 0x5B00 4 := by
  unfold killCfg
  rw [hgo, if_neg (by decide)]
  exact if_pos (by tauto)

end

/-! ### FLT_KILL (R512) -/

theorem fltKill_arm (s : State) : fltKill s armCode = (s.modFlt (fun f => { f with armed := some (tickNow s) })).evt 0x5B00 3 := if_pos rfl

theorem fltKill_disarm (s : State) {val : Nat} (harm : val ≠ armCode) (hkill : val ≠ killCode) :
    fltKill s val = s.modFlt (fun f => { f with armed := none }) := by
  rw [fltKill, if_neg harm, if_neg hkill]

theorem fltKill_kill {s : State} (harmed : killArmed s = true) (hlife : lifecycle s = 1 ∨ lifecycle s = 2) (hcarnival : s.vault.carnival = false)
    (hdebug : s.boot.debug = false) : fltKill s killCode = blowKill (raiseAlarm s 3 0 true) := by
  have hmay : (killArmed s && (decide (lifecycle s = 1) || decide (lifecycle s = 2)) && !s.vault.carnival && !s.boot.debug) = true := by
    simp [harmed, hlife, hcarnival, hdebug]
  rw [fltKill, if_neg (by decide), if_pos rfl, if_pos hmay]

/-- The root-kill fuse takes no part in what an alarm leaves. -/
theorem alarmRaised_blowKill {s u : State} {source vg : Nat} {eraseOk : Bool} (h : AlarmRaised s u source vg eraseOk) :
    AlarmRaised s (blowKill u) source vg eraseOk := h

end Sys2Proof.Machine

namespace Sys2Proof.Proofs

open Sys2Proof.Machine Sys2Proof.Claims

/-- Settles O17: the event register alone is written, with what `w1c` leaves of it. -/
theorem eventBitsClearByOne : Obligations.EventBitsClearByOne := by
  unfold Obligations.EventBitsClearByOne
  intro s off val priv same r hdead htaken hrow hk
  refine ⟨_, exec_eventRegisterClear_of_row same hdead htaken hrow hk, rfl, ?_, fun o ho => ?_, rfl, rfl, rfl⟩
  · rw [State.w1c, putWr_wr, if_pos rfl]
    rfl
  · rw [State.w1c, putWr_wr, if_neg ho]
    rfl

/-- Settles O24: each write reaches `killCfg` or `fltKill` at the open host port, read case by case. -/
theorem killIsArmedAndFired : Obligations.KillIsArmedAndFired := by
  unfold Obligations.KillIsArmedAndFired
  refine ⟨fun s val ok hup hgo hrooted hcarnival hdebug hwritten hdamaged hn => ⟨_, exec_killNBurn_of_up hup val ok, ?burned⟩,
    fun s val ok hup hgo hwhy => ⟨_, exec_killNBurn_of_up hup val ok, killCfg_of_refused (s := hostOk s 0) hgo hwhy ok⟩,
    fun s hup => ⟨_, exec_killArm_of_up hup, ?armed⟩,
    fun s val hup harm hkill => ⟨_, exec_killDisarm_of_up hup val, fltKill_disarm (hostOk s 0) harm hkill⟩,
    fun s hlapsed => ⟨_, rfl, ?lapse⟩,
    fun s hup harmed hlife hcarnival hdebug => ⟨_, exec_kill_of_up hup, ?kill⟩⟩
  case burned =>
    rw [killCfg_of_blank (s := hostOk s 0) hgo hrooted hcarnival hdebug hwritten hdamaged hn ok]
    exact ⟨rfl, by cases ok <;> rfl⟩
  case armed =>
    rw [fltKill_arm]
    exact ⟨decide_eq_true rfl, (evt_wr ..).trans (if_pos rfl), rfl⟩
  case lapse => simp [armLapse, hlapsed, State.modFlt]
  case kill =>
    have hlive : (hostOk s 0).halted = false := halted_of_hostUp hup
    rw [fltKill_kill (s := hostOk s 0) harmed hlife hcarnival hdebug, raiseAlarm_of_live 3 0 true hlive]
    refine ⟨alarmRaised_blowKill (alarmRise_raised (hostOk s 0) 3 0 true), rfl, fun hidle => ?_⟩
    rw [blowKill, alarmRise_fuses (s := hostOk s 0) 3 0 true hidle]
    rfl

end Sys2Proof.Proofs
end

section
/-! PROOFS. One instruction of a conversation engine: how an engine goes on, what an instruction that writes RD and a branch leave, and the
statements on arithmetic, loads and stores assembled from that (R388, R400, R404, R413 to R415). -/

namespace Sys2Proof.Machine

open Sys2Proof.Claims

section
variable {s t u : State} {ch e pc w : Nat} {g g' : Engine}

/-! ### One engine changes -/

theorem engineIs_modEngine (s : State) (ch e : Nat) (f : Engine → Engine) : EngineIs s (s.modEngine ch e f) ch e (f (s.engine ch e)) :=
  ⟨(modEngine_engine ..).trans (if_pos rfl), fun n hn => (tget_tins _ _ _ _ n).trans (if_neg hn), rfl⟩

theorem EngineIs.trans (hst : EngineIs s t ch e g) (htu : EngineIs t u ch e g') : EngineIs s u ch e g' := by
  obtain ⟨-, hothers, hframe⟩ := hst
  obtain ⟨hengine, hothers', hframe'⟩ := htu
  refine ⟨hengine, fun n hn => (hothers' n hn).trans (hothers n hn), ?_⟩
  conv_lhs => rw [hframe', hframe]

/-! ### Going on (R400, R413, R415) -/

/-- The instruction at the engine's pc runs where its OP is the command's. -/
theorem engineOp_of_at {op : Nat} (h : AtInstr s ch e op w) (f : State → Nat → Nat → Engine → Nat → State) :
    engineOp op f ch e s = f s ch e (s.engine ch e) w := by
  obtain ⟨hlive, hdue, hon, hfence, hfetch, hop⟩ := h
  simp only [engineOp, hlive, hdue, hon, hfence, hfetch, hop, Bool.or_self, Bool.not_true, Bool.false_eq_true, if_false, if_true]

/-- An instruction is fetched by the conversation's protocol and the pc. -/
theorem fetch_congr (hid : g'.id = g.id) (hpc : g'.pc = g.pc) (hprograms : t.conv.programs = s.conv.programs)
    (hproto : (t.convAt g.id).proto = (s.convAt g.id).proto) : g'.fetch t = g.fetch s := by
  simp only [Engine.fetch, State.program, hid, hpc, hprograms, hproto]

/-- That the engine may go on depends on its step, its count and its program alone. -/
theorem nextOk_congr (hid : (t.engine ch e).id = (s.engine ch e).id) (hcount : (t.engine ch e).count = (s.engine ch e).count)
    (hprograms : t.conv.programs = s.conv.programs)
    (hproto : (t.convAt (s.engine ch e).id).proto = (s.convAt (s.engine ch e).id).proto) (h : NextOk s ch e pc) : NextOk t ch e pc := by
  obtain ⟨hbelow, w, hfetch, hdefined⟩ := h
  exact ⟨by rw [hcount]; exact hbelow, w, (fetch_congr (s := s) (t := t) (g := { s.engine ch e with pc := pc }) (g' := { t.engine ch e with pc := pc }) hid rfl
    hprograms hproto).trans hfetch, hdefined⟩

theorem nextOk_modEngine (h : NextOk s ch e pc) {f : Engine → Engine} (hid : (f (s.engine ch e)).id = (s.engine ch e).id)
    (hcount : (f (s.engine ch e)).count = (s.engine ch e).count) : NextOk (s.modEngine ch e f) ch e pc := by
  have hengine : (s.modEngine ch e f).engine ch e = f (s.engine ch e) := (modEngine_engine ..).trans (if_pos rfl)
  exact nextOk_congr (s := s) ((congrArg Engine.id hengine).trans hid) ((congrArg Engine.count hengine).trans hcount) rfl rfl h

/-- An engine whose next instruction stands and is defined stays as it is. -/
theorem settleEngine_of_next (hon : (s.engine ch e).on = true) (hfetch : (s.engine ch e).fetch s = some w) (hdefined : iOp w ≤ 0x1E)
    (hbelow : (s.engine ch e).count < 256) : settleEngine s ch e = s := by
  have hruns : ¬ (iOp w > 0x1E ∨ (s.engine ch e).count ≥ 256) := by omega
  simp only [settleEngine, hon, hfetch, hruns, Bool.not_true, Bool.false_eq_true, if_false]

/-- An engine with a next instruction goes on there. -/
theorem advance_of_next (hon : (s.engine ch e).on = true) (h : NextOk s ch e pc) :
    advance s ch e (pc : Int) = s.modEngine ch e (fun g => { g with pc := pc, count := g.count + 1 }) := by
  obtain ⟨hbelow, w, hfetch, hdefined⟩ := h
  have hengine : (s.modEngine ch e (fun g => { g with pc := pc, count := g.count + 1 })).engine ch e =
      { s.engine ch e with pc := pc, count := (s.engine ch e).count + 1 } := (modEngine_engine ..).trans (if_pos rfl)
  rw [advance, if_neg (by omega), Int.toNat_natCast]
  exact settleEngine_of_next (by rw [hengine]; exact hon) (by rw [hengine]; exact hfetch) hdefined (by rw [hengine]; exact hbelow)

theorem went_advance (hon : (s.engine ch e).on = true) (h : NextOk s ch e pc) : Went s (advance s ch e (pc : Int)) ch e pc := by
  rw [advance_of_next hon h]
  exact engineIs_modEngine ..

/-- An engine that an instruction changed goes on at the next one. -/
theorem engineIs_advance {f : Engine → Engine} (hon : (f (s.engine ch e)).on = true) (hid : (f (s.engine ch e)).id = (s.engine ch e).id)
    (hcount : (f (s.engine ch e)).count = (s.engine ch e).count) (h : NextOk s ch e pc) :
    EngineIs s (advance (s.modEngine ch e f) ch e (pc : Int)) ch e
      { f (s.engine ch e) with pc := pc, count := (f (s.engine ch e)).count + 1 } := by
  have hengine : (s.modEngine ch e f).engine ch e = f (s.engine ch e) := (modEngine_engine ..).trans (if_pos rfl)
  have hwent := went_advance (hengine ▸ hon) (nextOk_modEngine h hid hcount)
  rw [Went, hengine] at hwent
  exact EngineIs.trans (engineIs_modEngine s ch e f) hwent

/-! ### An instruction that writes RD, and a branch (R414) -/

theorem wrote_aluOp (f : Engine → Nat → Nat) (hon : (s.engine ch e).on = true) (h : NextOk s ch e ((s.engine ch e).pc + 1)) :
    Wrote s (aluOp f s ch e (s.engine ch e) w) ch e w (f (s.engine ch e) w) :=
  engineIs_advance (f := fun x => x.setReg (iRd w) (f (s.engine ch e) w)) hon rfl rfl h

theorem wrote_of_at {op : Nat} (h : AtInstr s ch e op w) (hnext : NextOk s ch e ((s.engine ch e).pc + 1)) (f : Engine → Nat → Nat) :
    Wrote s (engineOp op (aluOp f) ch e s) ch e w (f (s.engine ch e) w) := by
  obtain ⟨-, -, hon, -⟩ := id h
  rw [engineOp_of_at h]
  exact wrote_aluOp f hon hnext

/-- RD holds a result modulo 2^32. -/
theorem wrote_congr {v v' : Nat} (hv : v % 2 ^ 32 = v' % 2 ^ 32) (h : Wrote s u ch e w v) : Wrote s u ch e w v' := by
  rwa [Wrote, ← hv]

theorem went_of_lands {op : Nat} {c : Prop} (h : AtInstr s ch e op w) (hlands : Lands s ch e w c pc) (hnext : NextOk s ch e pc)
    {f : Nat → Nat → Bool} (hf : f ((s.engine ch e).reg (iRa w)) ((s.engine ch e).reg (iRb w)) = true ↔ c) :
    Went s (engineOp op (branchOp f) ch e s) ch e pc := by
  obtain ⟨-, -, hon, -⟩ := id h
  have hpc : (if f ((s.engine ch e).reg (iRa w)) ((s.engine ch e).reg (iRb w)) then ((s.engine ch e).pc : Int) + 1 + iSimm w
      else ((s.engine ch e).pc : Int) + 1) = pc := by
    obtain ⟨hc, hto⟩ | ⟨hc, rfl⟩ := hlands
    · rw [if_pos (hf.mpr hc), hto]
      rfl
    · rw [if_neg (mt hf.mp hc)]
      push_cast
      rfl
  rw [engineOp_of_at h, branchOp, hpc]
  exact went_advance hon hnext

/-! ### The operands of ADDI -/

theorem iImm_lt (w : Nat) : iImm w < 2 ^ 14 := Nat.mod_lt _ (by decide)

/-- A register of an engine is a 32-bit word. -/
theorem reg_lt (h : ∀ v ∈ g.g, v < 2 ^ 32) (n : Nat) : g.reg n < 2 ^ 32 := by
  unfold Engine.reg
  rw [List.getD_eq_getElem?_getD]
  cases hn : g.g[n]? with
  | none => exact Nat.two_pow_pos 32
  | some v => exact h v (List.mem_of_getElem? hn)

/-- A sum with a signed IMM, modulo 2^32. -/
theorem addi_mod {a : Nat} (ha : a < 2 ^ 32) (w : Nat) :
    unsigned 32 (a + iSimm w) % 2 ^ 32 = (if iImm w < 2 ^ 13 then a + iImm w else a + 2 ^ 32 - (2 ^ 14 - iImm w)) % 2 ^ 32 := by
  have himm := iImm_lt w
  unfold unsigned iSimm signed
  split <;> omega

/-! ### Stores into the entry (R388, R414) -/

theorem modConv_convAt_self (s : State) (id : Nat) (f : Conv → Conv) : (s.modConv id f).convAt id = f (s.convAt id) :=
  (modConv_convAt ..).trans (if_pos rfl)

theorem modConv_convAt_other (s : State) {id j : Nat} (f : Conv → Conv) (hj : j ≠ id) : (s.modConv id f).convAt j = s.convAt j :=
  (modConv_convAt ..).trans (if_neg hj)

theorem nextOk_modConv (h : NextOk s ch e pc) (id : Nat) {f : Conv → Conv} (hproto : (f (s.convAt id)).proto = (s.convAt id).proto) :
    NextOk (s.modConv id f) ch e pc := by
  refine nextOk_congr (s := s) rfl rfl rfl ?_ h
  rw [modConv_convAt]
  split
  · next hid => rw [hproto, hid]
  · rfl

/-- An engine that goes on after its entry was changed. -/
theorem entryStored {id : Nat} {f : Conv → Conv} (h : EngineIs (s.modConv id f) u ch e g) :
    u.convAt id = f (s.convAt id) ∧ (∀ j, j ≠ id → u.convAt j = s.convAt j) ∧
    EngineIs { s with conv := { s.conv with table := u.conv.table } } u ch e g := by
  obtain ⟨hengine, hothers, hframe⟩ := h
  have htable : u.conv.table = (s.modConv id f).conv.table := by rw [hframe]
  have hconvAt (j : Nat) : u.convAt j = (s.modConv id f).convAt j := congrArg (fun m => tget ({} : Conv) m j) htable
  refine ⟨(hconvAt id).trans (modConv_convAt_self ..), fun j hj => (hconvAt j).trans (modConv_convAt_other s f hj), hengine, hothers, ?_⟩
  rw [htable]
  exact hframe

/-- STE changes ARG or CHAL and goes on. -/
theorem entryStored_advance {id : Nat} {f : Conv → Conv} (hproto : (f (s.convAt id)).proto = (s.convAt id).proto)
    (hon : (s.engine ch e).on = true) (h : NextOk s ch e ((s.engine ch e).pc + 1))
    (hu : u = advance (s.modConv id f) ch e ((s.engine ch e).pc + 1)) :
    u.convAt id = f (s.convAt id) ∧ (∀ j, j ≠ id → u.convAt j = s.convAt j) ∧
    EngineIs { s with conv := { s.conv with table := u.conv.table } } u ch e
      { s.engine ch e with pc := (s.engine ch e).pc + 1, count := (s.engine ch e).count + 1 } := by
  subst hu
  exact entryStored (went_advance (s := s.modConv id f) hon (nextOk_modConv h id hproto))

/-! ### NKEY (R404, R414) -/

/-- The entry with the node key derived into KEY. -/
def Conv.keyed (s : State) (id : Nat) (r : KeyRef) (c : Conv) : Conv := { c with key := nodeKey s (id / 256) r c.node, keyRef := some r }

theorem deriveKey_of_ok {s1 : State} {id epoch : Nat} {f : EpochField} {r : KeyRef}
    (h : frameKey s (id / 256) f (s.convAt id).node epoch = (s1, .ok, r)) :
    deriveKey s id epoch f = (s1.modConv id (Conv.keyed s1 id r), .ok) := by
  simp only [deriveKey, h]
  rfl

/-- A derivation within the declared cost goes on with its work counted. -/
theorem nkeyOp_of_ok {s1 : State} {f : EpochField} {r : KeyRef} {work : Nat}
    (hfield : epochField s (s.convAt g.id).node (g.reg (iRa w) % 256) = some f)
    (hkey : frameKey s (g.id / 256) f (s.convAt g.id).node (g.reg (iRa w) % 256) = (s1, .ok, r))
    (hwork : work = g.work + 3 * (s1.stw 0x3901C - s.stw 0x3901C)) (hdeclared : work ≤ g.cost.p + 64) :
    nkeyOp s ch e g w =
      advance ((s1.modConv g.id (Conv.keyed s1 g.id r)).modEngine ch e (fun x => { x with work := work })) ch e (g.pc + 1) := by
  subst hwork
  simp only [nkeyOp, hfield, deriveKey_of_ok hkey]
  exact if_neg (Nat.not_lt.mpr hdeclared)

theorem b2n_decide (p : Prop) [Decidable p] : b2n (decide p) = if p then 1 else 0 := by simp only [b2n, decide_eq_true_eq]

end

end Sys2Proof.Machine

namespace Sys2Proof.Proofs

open Sys2Proof.Machine Sys2Proof.Claims

/-- Settles O40: eleven instructions are one rule for RD or for the next instruction, five are one rule for branches. -/
theorem engineArithmetic : Obligations.EngineArithmetic := by
  unfold Obligations.EngineArithmetic
  rintro s ch e w a b rfl rfl hwords
  refine ⟨fun hnext => ⟨fun h => ⟨_, rfl, ?nop⟩, fun h => ⟨_, rfl, wrote_of_at h hnext _⟩, fun h => ⟨_, rfl, wrote_of_at h hnext _⟩,
      fun h => ⟨_, rfl, wrote_of_at h hnext _⟩, fun h => ⟨_, rfl, wrote_of_at h hnext _⟩, fun h => ⟨_, rfl, wrote_of_at h hnext _⟩,
      fun h => ⟨_, rfl, wrote_of_at h hnext _⟩, fun h => ⟨_, rfl, wrote_of_at h hnext _⟩,
      fun h => ⟨_, rfl, wrote_congr (addi_mod (reg_lt hwords (iRa w)) w) (wrote_of_at h hnext _)⟩,
      fun h => ⟨_, rfl, wrote_of_at h hnext _⟩, fun h => ⟨_, rfl, wrote_of_at h hnext _⟩⟩,
    fun pc hnext => ⟨fun h hlands => ⟨_, rfl, went_of_lands h hlands hnext decide_eq_true_iff⟩,
      fun h hlands => ⟨_, rfl, went_of_lands h hlands hnext decide_eq_true_iff⟩,
      fun h hlands => ⟨_, rfl, went_of_lands h hlands hnext decide_eq_true_iff⟩,
      fun h hlands => ⟨_, rfl, went_of_lands h hlands hnext decide_eq_true_iff⟩,
      fun h hlands => ⟨_, rfl, went_of_lands h hlands hnext (by simp)⟩⟩⟩
  case nop =>
    obtain ⟨-, -, hon, -⟩ := id h
    rw [engineOp_of_at h]
    exact went_advance hon hnext


/-- Settles O41: each load is an instruction that writes RD, each store changes the entry or the engine before it goes on. -/
theorem engineLoadsAndStores : Obligations.EngineLoadsAndStores := by
  unfold Obligations.EngineLoadsAndStores
  rintro s ch e w hnext g rfl
  refine ⟨fun h haligned hbelow => ⟨_, rfl, ?lde⟩, fun h hinside => ⟨_, rfl, ?ldi⟩, fun h hfield => ⟨_, rfl, ?hdr⟩,
    fun h hinside => ⟨_, rfl, ?chk⟩, fun h => ⟨_, rfl, ?rand⟩, fun h harg => ⟨_, rfl, ?arg⟩, fun h hchal => ⟨_, rfl, ?chal⟩,
    fun h hinside => ⟨_, rfl, ?sto⟩, fun h hinside => ⟨_, rfl, ?kout⟩,
    fun f s1 r work h hfield hkey hconv hwork hdeclared => ⟨_, rfl, ?nkey⟩, fun h hretry => ⟨_, rfl, ?rtry⟩⟩
  all_goals
    obtain ⟨-, -, hon, -⟩ := id h
    rw [engineOp_of_at h]
  case lde =>
    rw [ldeOp, if_neg (by omega)]
    exact wrote_aluOp _ hon hnext
  case ldi =>
    rw [ldiOp, if_neg (not_le_of_gt (show effAddr _ w < _ from hinside))]
    exact wrote_aluOp _ hon hnext
  case hdr =>
    rw [hdrOp, if_neg (Nat.not_lt.mpr hfield)]
    exact wrote_aluOp _ hon hnext
  case chk =>
    rw [chkOp, if_neg (not_lt_of_ge (show effAddr _ w + 8 ≤ _ from hinside))]
    exact wrote_congr (congrArg (· % 2 ^ 32) (b2n_decide _)) (wrote_aluOp _ hon hnext)
  case rand => exact wrote_aluOp (s := s.drew 4) _ hon hnext
  case arg =>
    have hword : [0x14, 0x18, 0x1C].contains (iImm w) = true := by simpa using harg
    rw [steOp, if_pos hword]
    exact entryStored_advance rfl hon hnext rfl
  case chal =>
    have hword : [0x20, 0x24].contains (iImm w) = true := by simpa using hchal
    have hnot : ¬ [0x14, 0x18, 0x1C].contains (iImm w) = true := by
      rw [List.contains_iff_mem]
      simp only [List.mem_cons, List.not_mem_nil, or_false]
      omega
    rw [steOp, if_neg hnot, if_pos hword]
    exact entryStored_advance rfl hon hnext rfl
  case sto =>
    rw [stoOp, if_neg (not_le_of_gt (show effAddr _ w < _ from hinside))]
    exact engineIs_advance (f := fun x => { x with output := overlay x.output (effAddr (s.engine ch e) w) _ }) hon rfl rfl hnext
  case kout =>
    rw [koutOp, if_neg (not_lt_of_ge (show effAddr _ w + 16 ≤ _ from hinside))]
    exact engineIs_advance (f := fun x => { x with output := overlay x.output (effAddr (s.engine ch e) w) _ }) hon rfl rfl hnext
  case nkey =>
    have hengine : s1.engine ch e = s.engine ch e := by simp only [State.engine, hconv]
    have hentry : s1.convAt = s.convAt := by funext n; simp only [State.convAt, hconv]
    have hnext' : NextOk s1 ch e ((s.engine ch e).pc + 1) := nextOk_congr (s := s) (by rw [hengine]) (by rw [hengine])
      (by rw [hconv]) (by rw [hentry]) hnext
    have hwent := engineIs_advance (s := s1.modConv (s.engine ch e).id (Conv.keyed s1 (s.engine ch e).id r))
      (f := fun x => { x with work := work }) (hengine ▸ hon) rfl rfl (nextOk_modConv hnext' (s.engine ch e).id rfl)
    obtain ⟨hself, hothers, hgoes⟩ := entryStored hwent
    rw [nkeyOp_of_ok hfield hkey hwork hdeclared, ← hconv, ← hentry, ← hengine]
    rw [← hengine] at hself hothers hgoes
    exact ⟨hothers, hself, hgoes⟩
  case rtry =>
    rw [rtryOp, if_neg hretry]
    exact entryStored (wrote_aluOp (s := s.modConv (s.engine ch e).id _) _ hon (nextOk_modConv hnext _ rfl))

end Sys2Proof.Proofs
end

section
/-! PROOFS. The end of a conversation: what its report and the engines that stop leave as it was, and what the cleared entry leaves
(R398, R400, R411). -/

namespace Sys2Proof.Machine

open Sys2Proof.Claims

/-- What the end of a conversation does not write before its entry is cleared: all but rings of completions, engines, the Almanac,
channels' backlogs and counters. -/
def State.besideEnding (s : State) : State × (Nat → Ring) :=
  ({ s with
    regs := {}, rings := [], ch := [], alm := {}, dram := [], dmErr := [], conv := { s.conv with engines := [], reserve := 0 } },
    fun q => if q < 64 then s.ring q else {})

section
variable {s t : State} (h : t.besideEnding = s.besideEnding)
include h

theorem ring_of_besideEnding {q : Nat} (hq : q < 64) : t.ring q = s.ring q := by
  have hrings := congrFun (congrArg Prod.snd h) q
  simpa only [State.besideEnding, if_pos hq] using hrings

theorem table_of_besideEnding : t.conv.table = s.conv.table := congrArg (fun v : State × (Nat → Ring) => v.1.conv.table) h

theorem frame_of_besideEnding :
    t = { s with conv := t.conv, regs := t.regs, rings := t.rings, ch := t.ch, alm := t.alm, dram := t.dram, dmErr := t.dmErr } :=
  congrArg (fun v : State × (Nat → Ring) => ({ v.1 with
    conv := t.conv, regs := t.regs, rings := t.rings, ch := t.ch, alm := t.alm, dram := t.dram, dmErr := t.dmErr } : State)) h

theorem convAt_of_besideEnding (j : Nat) : t.convAt j = s.convAt j :=
  congrArg (fun m => tget ({} : Conv) m j) (table_of_besideEnding h)

end

theorem foldl_besideEnding {β : Type} {f : State → β → State} (h : ∀ s x, (f s x).besideEnding = s.besideEnding) (l : List β) (s : State) :
    (l.foldl f s).besideEnding = s.besideEnding := by
  induction l generalizing s with
  | nil => rfl
  | cons x l ih => exact (ih _).trans (h s x)

theorem besideEnding_of_besideAlm {s t : State} (h : t.besideAlm = s.besideAlm) : t.besideEnding = s.besideEnding := by
  rw [frame_of_besideAlm h]
  rfl

section
variable (s : State)

theorem evt_besideEnding (off n : Nat) : (s.evt off n).besideEnding = s.besideEnding := rfl
theorem inc_besideEnding (off hi lo : Nat) : (s.inc off hi lo).besideEnding = s.besideEnding := rfl
theorem dropCost_besideEnding (n : Nat) (core1 : Bool) (c : Cost) : (dropCost s n core1 c).besideEnding = s.besideEnding := rfl
theorem spend_besideEnding (n : Nat) : (s.modConvs (fun c => { c with reserve := n })).besideEnding = s.besideEnding := rfl
theorem freed_besideEnding (i : Nat) : (s.modConvs (fun c => { c with engines := tdel c.engines i })).besideEnding = s.besideEnding := rfl

theorem modRing_besideEnding (k : Nat) (f : Ring → Ring) : (s.modRing (64 + k) f).besideEnding = s.besideEnding := by
  refine Prod.ext rfl (funext fun q => ?_)
  simp only [State.besideEnding]
  split
  · rw [modRing_ring, if_neg (by omega)]
  · rfl

theorem noteWait_besideEnding (source : Nat) : (noteWait s source).besideEnding = s.besideEnding := by
  unfold noteWait
  repeat' split
  all_goals rfl

theorem raiseEvent_besideEnding (cq : Nat) (e : SrcEvt) : (raiseEvent s cq e).besideEnding = s.besideEnding := by
  unfold raiseEvent unreserve grantEvents
  grind only [modRing_besideEnding, noteWait_besideEnding]

theorem raiseOnce_besideEnding (cq : Nat) (e : SrcEvt) : (raiseOnce s cq e).besideEnding = s.besideEnding := by
  unfold raiseOnce
  split
  · exact modRing_besideEnding ..
  · exact raiseEvent_besideEnding ..

theorem convEvent_besideEnding (cq tag code key : Nat) (result : Bytes) :
    (convEvent s cq tag code key result).besideEnding = s.besideEnding := by
  unfold convEvent
  split
  · exact raiseOnce_besideEnding ..
  split
  · exact (raiseEvent_besideEnding ..).trans (spend_besideEnding ..)
  · exact raiseEvent_besideEnding ..

theorem almGiveUp_besideEnding (node : Nat) : (almGiveUp s node).besideEnding = s.besideEnding :=
  besideEnding_of_besideAlm (almGiveUp_besideAlm s node)

theorem freeEngine_besideEnding (i : Nat) : (freeEngine s i).besideEnding = s.besideEnding := by
  unfold freeEngine
  dsimp only
  split
  · rfl
  · exact (freed_besideEnding ..).trans (modRing_besideEnding ..)

theorem stopEngine_besideEnding (i : Nat) : (stopEngine s i).besideEnding = s.besideEnding :=
  (freeEngine_besideEnding ..).trans (dropCost_besideEnding ..)

theorem stopEngines_besideEnding (id : Nat) : (stopEngines s id).besideEnding = s.besideEnding := by
  refine foldl_besideEnding (fun t i => ?_) _ s
  dsimp only
  split
  · exact stopEngine_besideEnding ..
  · rfl

end

theorem endConv_of_free {s : State} {id outcome detail : Nat} {implicit : Bool} (hfree : (s.convAt id).state = 0) :
    endConv s id outcome detail implicit = s := by
  unfold endConv
  exact if_pos hfree

/-- A conversation in progress is reported, then its entry is cleared. -/
theorem endConv_of_open {s : State} {id : Nat} (hopen : (s.convAt id).state ≠ 0) (outcome detail : Nat) (implicit : Bool) :
    ∃ t, endConv s id outcome detail implicit = clearConv t id ∧ t.besideEnding = s.besideEnding := by
  unfold endConv
  dsimp only
  rw [if_neg hopen]
  refine ⟨_, rfl, ?_⟩
  grind only [almGiveUp_besideEnding, evt_besideEnding, inc_besideEnding, convEvent_besideEnding]

/-- Entry id is free after it ended; the other entries, the submission rings and the rest of the block are as they were. -/
structure ConvEnded (s u : State) (id : Nat) : Prop where
  gone : u.convAt id = {}
  others : ∀ j, j ≠ id → u.convAt j = s.convAt j
  rings : ∀ q, q < 64 → u.ring q = s.ring q
  frame : u = { s with conv := u.conv, regs := u.regs, rings := u.rings, ch := u.ch, alm := u.alm, dram := u.dram, dmErr := u.dmErr }

theorem convEnded_clearConv {s t : State} (h : t.besideEnding = s.besideEnding) (id : Nat) : ConvEnded s (clearConv t id) id where
  gone := modConv_convAt_self t id (fun _ => {})
  others j hj := (modConv_convAt_other t (fun _ => {}) hj).trans (convAt_of_besideEnding h j)
  rings q hq := ring_of_besideEnding h hq
  frame := by
    conv_lhs => rw [frame_of_besideEnding h]
    rfl

theorem convEnded_endConv {s t : State} {id : Nat} (h : t.besideEnding = s.besideEnding) (hopen : (s.convAt id).state ≠ 0)
    (outcome detail : Nat) (implicit : Bool) : ConvEnded s (endConv t id outcome detail implicit) id := by
  obtain ⟨r, hr, hview⟩ := endConv_of_open (s := t) (convAt_of_besideEnding h id ▸ hopen) outcome detail implicit
  rw [hr]
  exact convEnded_clearConv (hview.trans h) id

end Sys2Proof.Machine
end

section
/-! PROOFS. The commands and timers of a conversation, the turn of a channel's engines, and the statement on the life of a conversation
assembled from them (R78, R398 to R401, R408, R409, R413). -/

namespace Sys2Proof.Machine

open Sys2Proof.Claims

/-! ### CONV_START, CONV_END and CONV_QUERY (R408, R409) -/

section
variable {s s1 : State} {k i n : Nat} {it : Item}

/-- The key that a CONV_START binds: a REKEY names its epoch (R404). -/
def startKey (s : State) (d : Bytes) : Option KeyRef :=
  if leAt d 0x0C 1 = 3 then
    (epochField s (leAt d 8 4) (leAt (sub d 0x10 12) 0 1)).map (fun f => ({ slot := f.slot, gen := f.gen } : KeyRef)) else none

theorem convStart_of_free {g : Option (Nat × AlmEntry)} (h : Open s k i 0x30 it) (howner : ownerOf s (leAt it.desc 8 4) = .own)
    (hget : almGet s (leAt it.desc 8 4) = (s1, g))
    (hwhy : startWhy s1 it.ch (leAt it.desc 8 4) (leAt it.desc 0x0C 1) (sub it.desc 0x10 12) (g.map (·.2)) = 0)
    (hfree : freeConv s1 it.ch = some n) : convStart s k i =
      finish (openConv s1 n (leAt it.desc 8 4) (leAt it.desc 0x0C 1) (dTag it.desc) (sub it.desc 0x10 12) ((g.map (·.2)).any (·.s154))
        false 0 0 (startKey s1 it.desc)) k i stOK (toLe 2 n ++ toLe 1 s1.conv.seq) false := by
  obtain ⟨hlive, -⟩ := id h
  simp only [convStart, hlive, withItem_of_open h, howner, hget, hwhy, hfree, Bool.false_eq_true, if_false]
  rfl

theorem convEnd_of_idle (h : Open s k i 0x31 it) (hn : n = leAt it.desc 8 2) (hch : n / 256 = it.ch) (hidle : onEngine s n = false) :
    convEnd s k i = finish (endConv s n 5 0 false) k i stOK [] false := by
  obtain ⟨hlive, -⟩ := id h
  subst hn
  simp only [convEnd, hlive, withItem_of_open h, hch, hidle, Bool.false_eq_true, if_false, ne_eq, not_true_eq_false]

theorem convQuery_of_written (h : Open s k i 0x32 it) (hn : n = leAt it.desc 8 2) (hch : n / 256 = it.ch)
    (hwrite : hostWrite s (addrAt it.desc 0x10) (s.convAt n).bytes = (s1, true)) : convQuery s k i = finish s1 k i stOK [] false := by
  obtain ⟨hlive, -⟩ := id h
  subst hn
  simp only [convQuery, hlive, withItem_of_open h, hch, hwrite, Bool.false_eq_true, if_false, ne_eq, not_true_eq_false]

end

theorem convAt_of_conv {s t : State} (h : t.conv = s.conv) : t.convAt = s.convAt := by
  funext j
  simp only [State.convAt, h]

theorem finish_conv (s : State) (k i status : Nat) (result : Bytes) : (finish s k i status result false).conv = s.conv := by
  rw [finish_false_frame]

/-! ### The entry that a CONV_START opens (R398, R402) -/

section
variable (s : State) (n node proto tag : Nat) (arg : Bytes) (s154 byUplink : Bool) (cal rxSub : Nat) (key : Option KeyRef)

/-- An entry as it is opened. -/
def openedConv : Conv :=
  { node := node, proto := proto, state := 1, seq := s.conv.seq, retry := s.fcf (0x6020 + 8 * (proto - 1)) 27 24
    retry0 := s.fcf (0x6020 + 8 * (proto - 1)) 27 24, life := s.fcf (0x6024 + 8 * (proto - 1)) 23 0, tag := tag, arg := sub arg 0 12
    chal := s.draw 8, oppCal := cal, oppSub := rxSub, cq := convCq s (n / 256), s154 := s154, byUplink := byUplink, keyRef := key }

theorem openConv_convAt (j : Nat) : (openConv s n node proto tag arg s154 byUplink cal rxSub key).convAt j =
    if j = n then openedConv s n node proto tag arg s154 byUplink cal rxSub key else s.convAt j :=
  modConv_convAt (s.drew 8) n (fun _ => openedConv s n node proto tag arg s154 byUplink cal rxSub key) j

theorem openConv_steps : tget [] (openConv s n node proto tag arg s154 byUplink cal rxSub key).conv.steps (n / 256) =
    tget [] s.conv.steps (n / 256) ++ [{ id := n, kind := 0 }] :=
  (tget_tins [] (n / 256) _ s.conv.steps (n / 256)).trans (if_pos rfl)

theorem openConv_nodeFrame : NodeFrame s (openConv s n node proto tag arg s154 byUplink cal rxSub key) := rfl

/-- An item ends OK with the conversation that it opened, after a lookup in the Almanac. -/
theorem openConv_ends {s s1 t : State} {k i : Nat} {it : Item} {result : Bytes} (hview : s1.besideAlm = s.besideAlm) (hk : k < 64)
    (hfind : findItem s k i = some it)
    (ht : t = finish (openConv s1 n node proto tag arg s154 byUplink cal rxSub key) k i stOK result false) :
    ItemEndsOf s t k i stOK false result ∧ t.conv = (openConv s1 n node proto tag arg s154 byUplink cal rxSub key).conv ∧
    t.drbg = s1.drbg + 8 ∧ NodeFrame s t := by
  have hframe := besideFrame_of_besideAlm hview
  have hring : s1.ring k = s.ring k := ring_of_besideFrame hframe hk
  subst ht
  refine ⟨itemEndsOf_finish (it := it) ?_ ?_ stOK result false, finish_conv .., finish_drbg .., ?_⟩
  · exact (findItem_of_ring (s := s) hring i).trans hfind
  · intro x hx _
    exact hring.symm ▸ hx
  · exact NodeFrame.trans (nodeFrame_of_besideFrame hframe) (NodeFrame.trans (openConv_nodeFrame ..) (nodeFrame_finish ..))

end

/-! ### Timers (R398) -/

/-- A step that was queued, now or before, waits in the queue of the conversation's channel. -/
theorem mem_queueStep (s : State) (id kind : Nat) :
    ({ id := id, kind := kind } : ConvStep) ∈ tget [] (queueStep s id kind).conv.steps (id / 256) := by
  unfold queueStep
  dsimp only
  split
  next hqueued =>
    obtain ⟨x, hx, hsame⟩ := List.any_eq_true.mp hqueued
    obtain ⟨rfl, rfl⟩ : x.id = id ∧ x.kind = kind := by simpa using hsame
    exact hx
  next =>
    have hread := tget_tins [] (id / 256) (tget [] s.conv.steps (id / 256) ++ [({ id := id, kind := kind } : ConvStep)]) s.conv.steps (id / 256)
    rw [if_pos rfl] at hread
    exact (congrArg (_ ∈ ·) hread).mpr (List.mem_append_right _ List.mem_cons_self)

theorem queueStep_frame (s : State) (id kind : Nat) : queueStep s id kind = { s with conv := (queueStep s id kind).conv } := by
  unfold queueStep
  dsimp only
  split <;> rfl

theorem queueStep_table (s : State) (id kind : Nat) : (queueStep s id kind).conv.table = s.conv.table := by
  unfold queueStep
  dsimp only
  split <;> rfl

section
variable {s : State} {id : Nat} (hlive : s.halted = false)
include hlive

theorem convTimeout_of_retry (hsent : (s.convAt id).state = 2) (htimer : (s.convAt id).timer = 0) (hretry : (s.convAt id).retry ≠ 0) :
    convTimeout s id = queueStep (s.modConv id (fun c => { c with state := 1 })) id 2 := by
  simp [convTimeout, hlive, hsent, htimer, hretry]

theorem convTimeout_of_spent (hsent : (s.convAt id).state = 2) (htimer : (s.convAt id).timer = 0) (hretry : (s.convAt id).retry = 0) :
    convTimeout s id = endConv (stopEngines s id) id 1 0 false := by
  simp [convTimeout, hlive, hsent, htimer, hretry]

theorem convExpire_of_due (hopen : (s.convAt id).state ≠ 0) (hlife : (s.convAt id).life = 0) :
    convExpire s id = endConv (stopEngines s id) id 2 0 false := by
  simp [convExpire, hlive, hopen, hlife]

end

/-! ### The turn of a channel's engines (R78, R400, R413) -/

/-- The channel's engines may take a step at this time, and none of them runs. -/
abbrev EnginesFree (a : State) (ch : Nat) : Prop :=
  admitOpen a a.tick.t = true ∧ (a.chan ch).fenced = false ∧ (a.chan ch).powered = true ∧ (a.chan ch).needKat = false ∧
    (a.chan ch).role = 3 ∧ (a.chan ch).stepPassed = false ∧ a.conv.engines = []

section
variable {s a b : State} {ch : Nat} {y : ConvStep} {rest : List ConvStep}

theorem endTakeovers_of_none (h : ∀ p, (s.path p).takeTx = false ∧ (s.path p).takeRx = false) : endTakeovers s = s := by
  have hone (p : Nat) : endTakeover s p = s := by
    obtain ⟨htx, hrx⟩ := h p
    simp [endTakeover, htx, hrx]
  rw [endTakeovers, hone, hone]

theorem stepOpen_of_free (hfree : EnginesFree a ch) : (!admitOpen a a.tick.t || (a.chan ch).fenced || !(a.chan ch).powered ||
    (a.chan ch).needKat || decide ((a.chan ch).role ≠ 3) || (a.chan ch).stepPassed) = false := by
  obtain ⟨hopen, hfence, hpower, htested, hrole, hpassed, -⟩ := hfree
  simp [hopen, hfence, hpower, htested, hrole, hpassed]

section
variable (hfree : EnginesFree a ch) (hsteps : tget [] a.conv.steps ch = y :: rest)
include hfree hsteps

/-- Where no engine runs, the oldest step goes to engine 0. -/
theorem step_of_free : [0, 1].find? (fun e => !(a.engine ch e).on) = some 0 ∧
    (tget [] a.conv.steps ch).find? (fun y => !onEngine a y.id) = some y := by
  obtain ⟨-, -, -, -, -, -, hengines⟩ := hfree
  simp [hsteps, State.engine, onEngine, hengines, tget]

theorem stepTurn_of_misfit
    (hmisfit : costFits a ch a.tick.t (stepCost a y.id) = false ∨ (a.ring (64 + (a.convAt y.id).cq)).free < 2) :
    stepTurn a ch = (passStep a ch, false) := by
  obtain ⟨hslot, hfirst⟩ := step_of_free hfree hsteps
  have hwaits : (!costFits a ch a.tick.t (stepCost a y.id) || decide ((a.ring (64 + (a.convAt y.id).cq)).free < 2)) = true := by
    rcases hmisfit with hcost | hroom
    · simp only [hcost, Bool.not_false, Bool.true_or]
    · simp only [hroom, decide_true, Bool.or_true]
  simp only [stepTurn, stepOpen_of_free hfree, hslot, hfirst, Bool.false_eq_true, if_false]
  exact if_pos hwaits

theorem stepTurn_of_fit (hcost : costFits a ch a.tick.t (stepCost a y.id) = true) (hroom : 2 ≤ (a.ring (64 + (a.convAt y.id).cq)).free)
    (hnow : (if (a.convAt y.id).proto ≤ 4 then builtinWait a y else none) = none) : stepTurn a ch = (startStep a ch 0 y, true) := by
  obtain ⟨hslot, hfirst⟩ := step_of_free hfree hsteps
  have hfits : ¬ (!costFits a ch a.tick.t (stepCost a y.id) || decide ((a.ring (64 + (a.convAt y.id).cq)).free < 2)) = true := by
    simp only [hcost, Bool.not_true, Bool.false_or, decide_eq_true_eq]
    omega
  simp only [stepTurn, stepOpen_of_free hfree, hslot, hfirst, hnow, Bool.false_eq_true, if_false]
  exact if_neg hfits

end

section
variable (hlive : s.halted = false) (ha : endTakeovers (s.at t) = a)
include hlive ha

/-- The engines took their turn. -/
theorem convStep_of_started (hrr : (a.chan ch).rr = 3) (hturn : stepTurn a ch = (b, true)) :
    convStep s ch t = b.modChan ch (fun c => { c with rr := 0 }) := by
  have hsource : sourceTurn ch a (a.chan ch).rr = (b, true) := by rw [hrr, sourceTurn, if_pos rfl, hturn]
  have hscan := scanRings_of_first (lo := 0) (n := 4) (Nat.zero_le _) (by omega) hsource
  rw [hrr] at hscan
  simp [convStep, hlive, ha, channelTurn, hscan, hrr]

/-- The engines' step waits and the channel's rings have nothing. -/
theorem convStep_of_passed (hrr : (a.chan ch).rr = 3) (hturn : stepTurn a ch = (passStep a ch, false))
    (hrings : ∀ j, j < 3 → (a.ring (3 * (a.chan ch).ringsOf + j)).en = false) : convStep s ch t = passStep a ch := by
  have hringsOf : ((passStep a ch).chan ch).ringsOf = (a.chan ch).ringsOf := by simp [passStep]
  have hnothing (j : Nat) (hj : j < 3) : sourceTurn ch (passStep a ch) j = (passStep a ch, false) := by
    have hdead : ringLive (passStep a ch) (3 * (a.chan ch).ringsOf + j) = false := by simp [ringLive, passStep, hrings j hj]
    rw [sourceTurn, if_neg (by omega), hringsOf, chanTurn, hdead]
    rfl
  have hengines : sourceTurn ch a 3 = (passStep a ch, false) := by rw [sourceTurn, if_pos rfl, hturn]
  have hscan : scanRings (sourceTurn ch) (rrOrder 0 4 3) a = (passStep a ch, none) := by
    rw [show rrOrder 0 4 3 = [3, 0, 1, 2] from rfl]
    simp [scanRings, hengines, hnothing]
  simp [convStep, hlive, ha, channelTurn, hrr, hscan]

end

/-! ### A step starts (R400, R413) -/

/-- What a step that starts may change: conversations, rings and backlogs. -/
def StepFrame (s u : State) : Prop := u = { s with conv := u.conv, rings := u.rings, ch := u.ch }

theorem StepFrame.trans {s t u : State} (hst : StepFrame s t) (htu : StepFrame t u) : StepFrame s u := by
  unfold StepFrame at *
  rw [htu, hst]

theorem stepFrame_modConvs (s : State) (f : Convs → Convs) : StepFrame s (s.modConvs f) := rfl
theorem stepFrame_modRing (s : State) (r : Nat) (f : Ring → Ring) : StepFrame s (s.modRing r f) := rfl
theorem stepFrame_modChan (s : State) (n : Nat) (f : Chan → Chan) : StepFrame s (s.modChan n f) := rfl

/-- The step that starts is taken from the queue, with two completion entries reserved for it. -/
def stepTaken (a : State) (ch : Nat) (y : ConvStep) : State :=
  (a.modConvs (fun v => { v with
    steps := tins v.steps ch ((tget [] v.steps ch).erase y), ran := tins v.ran ch (tget 0 v.ran ch + 1) })).modRing
      (64 + (a.convAt y.id).cq) (fun r => { r with reserved := r.reserved + 2 })

theorem stepTaken_steps (hsteps : tget [] a.conv.steps ch = y :: rest) : tget [] (stepTaken a ch y).conv.steps ch = rest := by
  have hread := tget_tins [] ch ((tget [] a.conv.steps ch).erase y) a.conv.steps ch
  rw [if_pos rfl] at hread
  exact hread.trans (by rw [hsteps, List.erase_cons_head])

theorem stepTaken_reserved (a : State) (ch : Nat) (y : ConvStep) : ((stepTaken a ch y).ring (64 + (a.convAt y.id).cq)).reserved =
    (a.ring (64 + (a.convAt y.id).cq)).reserved + 2 := by
  rw [stepTaken, modRing_ring, if_pos rfl]
  rfl

theorem stepTaken_stepFrame (a : State) (ch : Nat) (y : ConvStep) : StepFrame a (stepTaken a ch y) :=
  (stepFrame_modConvs ..).trans (stepFrame_modRing ..)

/-- An engine at the START of an operator program. -/
def startedEngine (a : State) (y : ConvStep) (core1 : Bool) : Engine :=
  { on := true, id := y.id, kind := 0, g := List.replicate 16 0, cost := stepCost a y.id, core1 := core1, reserved := 2
    pc := (a.program (a.convAt y.id).proto).start, output := zeros 64 }

/-- The block once an operator step runs on engine 0. -/
def engineStarted (a : State) (ch : Nat) (y : ConvStep) : State :=
  addCost ((stepTaken a ch y).modEngine ch 0 (fun _ => startedEngine a y (pickCore a ch))) ch (pickCore a ch) (stepCost a y.id)

theorem engineStarted_engine (a : State) (ch : Nat) (y : ConvStep) :
    (engineStarted a ch y).engine ch 0 = startedEngine a y (pickCore a ch) :=
  (modEngine_engine (stepTaken a ch y) ch 0 (fun _ => startedEngine a y (pickCore a ch)) ch 0).trans (if_pos rfl)

theorem startStep_of_operator {w : Nat} (hkind : y.kind = 0) (hproto : 5 ≤ (a.convAt y.id).proto)
    (hfetch : (a.program (a.convAt y.id).proto).code[(a.program (a.convAt y.id).proto).start]? = some w) (hdefined : iOp w ≤ 0x1E) :
    startStep a ch 0 y = engineStarted a ch y := by
  have hstart : startStep a ch 0 y = settleEngine (engineStarted a ch y) ch 0 := by
    have hoperator : ¬ (a.convAt y.id).proto ≤ 4 := by omega
    unfold startStep
    dsimp only
    refine (if_neg hoperator).trans ?_
    simp only [startEngine, hkind]
    rfl
  have hengine := engineStarted_engine a ch y
  rw [hstart]
  refine settleEngine_of_next (w := w) ?_ ?_ hdefined ?_
  · rw [hengine]
    rfl
  · rw [hengine]
    exact hfetch
  · rw [hengine]
    exact Nat.zero_lt_succ _

/-- A built-in TIMEOUT that has a retry left takes it, and gives its completion entries back. -/
def timeoutRun (a : State) (ch : Nat) (y : ConvStep) : State :=
  ((((((stepTaken a ch y).modChan ch (fun x => { x with admP := x.admP + (stepCost a y.id).p })).modConvs
    (fun v => { v with reserve := 2 })).modConv y.id (fun c => { c with retry := c.retry - 1 })).modRing (64 + (a.convAt y.id).cq)
      (fun r => { r with reserved := r.reserved - 2 })).modConvs (fun v => { v with reserve := 0 }))

theorem timeoutRun_table (a : State) (ch : Nat) (y : ConvStep) : (timeoutRun a ch y).conv.table =
    (a.modConv y.id (fun c => { c with retry := c.retry - 1 })).conv.table := by
  simp only [timeoutRun, stepTaken, State.modConvs, State.modConv, State.modRing, State.modChan, State.convAt]

theorem timeoutRun_convAt (a : State) (ch : Nat) (y : ConvStep) (j : Nat) : (timeoutRun a ch y).convAt j =
    if j = y.id then { a.convAt y.id with retry := (a.convAt y.id).retry - 1 } else a.convAt j := by
  have hsame := congrArg (fun m => tget ({} : Conv) m j) (timeoutRun_table a ch y)
  exact hsame.trans (modConv_convAt a y.id (fun c => { c with retry := c.retry - 1 }) j)

theorem timeoutRun_steps (a : State) (ch : Nat) (y : ConvStep) : (timeoutRun a ch y).conv.steps = (stepTaken a ch y).conv.steps := by
  simp only [timeoutRun, State.modConvs, State.modConv, State.modRing, State.modChan]

theorem timeoutRun_engines (a : State) (ch : Nat) (y : ConvStep) : (timeoutRun a ch y).conv.engines = a.conv.engines := by
  simp only [timeoutRun, stepTaken, State.modConvs, State.modConv, State.modRing, State.modChan]

theorem timeoutRun_stepFrame (a : State) (ch : Nat) (y : ConvStep) : StepFrame a (timeoutRun a ch y) :=
  (stepTaken_stepFrame ..).trans <| (stepFrame_modChan ..).trans <| (stepFrame_modConvs ..).trans <| (stepFrame_modConvs ..).trans <|
    (stepFrame_modRing ..).trans (stepFrame_modConvs ..)

theorem startStep_of_timeout (hkind : y.kind = 2) (hproto : (a.convAt y.id).proto ≤ 4) (hopen : (a.convAt y.id).state = 1)
    (hretry : (a.convAt y.id).retry ≠ 0) : startStep a ch 0 y = timeoutRun a ch y := by
  unfold startStep
  dsimp only
  refine (if_pos hproto).trans ?_
  have hrun (b : State) (hentry : b.convAt y.id = a.convAt y.id) : builtinStep b y =
      ((((b.modConvs (fun v => { v with reserve := 2 })).modConv y.id (fun c => { c with retry := c.retry - 1 })).modRing
        (64 + (a.convAt y.id).cq) (fun r => { r with reserved := r.reserved - 2 })).modConvs (fun v => { v with reserve := 0 })) := by
    have hnext : builtinTimeout (b.modConvs (fun v => { v with reserve := 2 })) y.id =
        (b.modConvs (fun v => { v with reserve := 2 })).modConv y.id (fun c => { c with retry := c.retry - 1 }) := by
      have hmore : ¬ ((b.modConvs (fun v => { v with reserve := 2 })).convAt y.id).retry = 0 := by
        rw [show (b.modConvs (fun v => { v with reserve := 2 })).convAt y.id = b.convAt y.id from rfl, hentry]
        exact hretry
      exact if_neg hmore
    simp only [builtinStep, hkind, hentry, hopen, hnext, Nat.reduceEqDiff, if_false, if_true]
    rfl
  exact hrun _ rfl

end

end Sys2Proof.Machine

namespace Sys2Proof.Proofs

open Sys2Proof.Machine Sys2Proof.Claims

/-- Settles O39: what each command and timer leaves of the entry, and the turn of the engines read case by case. -/
theorem conversationsOpenAndEnd : Obligations.ConversationsOpenAndEnd := by
  unfold Obligations.ConversationsOpenAndEnd
  refine ⟨fun s s1 k i n it g h howner hget hwhy hfree => ?start, fun s k i n it h hn hch hidle => ?finish,
    fun s s1 k i n it h hn hch hwrite => ?query, fun s ch c n hn hlive => ?timers,
    fun s a ch tm n cq kind rest c ha hc hcq hopen hfence hpower htested hrole hpassed hrr hpaths hengines hsteps => ?steps⟩
  case start =>
    obtain ⟨-, hfind, -⟩ := id h
    have hview : s1.besideAlm = s.besideAlm := by simpa only [hget] using almGet_besideAlm s (leAt it.desc 8 4)
    have hconv : s1.conv = s.conv := by rw [frame_of_besideAlm hview]
    have hexec := convStart_of_free h howner hget hwhy hfree
    obtain ⟨hends, hopened, hdrbg, hframe⟩ := openConv_ends _ _ _ _ _ _ _ _ _ _ hview k.isLt hfind hexec
    have hentry (j : Nat) : (convStart s k i).convAt j = _ := (congrFun (convAt_of_conv hopened) j).trans (openConv_convAt ..)
    have hself := hentry n
    rw [if_pos rfl] at hself
    rw [hconv] at hends
    refine ⟨_, rfl, hends, congrArg Conv.state hself, congrArg Conv.node hself, congrArg Conv.proto hself,
      (congrArg Conv.seq hself).trans (congrArg Convs.seq hconv), congrArg Conv.chal hself, hdrbg, congrArg Conv.tag hself,
      fun j hj => ?_, ?_, ?_, hframe⟩
    · rw [hentry, if_neg hj, convAt_of_conv hconv]
    · rw [hopened, ← hconv]
      rfl
    · rw [hopened, ← hconv]
      exact openConv_steps ..
  case finish =>
    obtain ⟨-, hfind, -⟩ := id h
    refine ⟨_, exec_of_eq rfl (convEnd_of_idle h hn hch hidle), ?_⟩
    rw [convAt_of_conv (finish_conv ..)]
    by_cases hopen : (s.convAt n).state = 0
    · rw [endConv_of_free hopen]
      exact ⟨itemEndsOf_finish hfind (fun _ hx _ => hx) stOK [] false, hopen, fun _ _ => rfl, nodeFrame_finish ..⟩
    · have hended := convEnded_endConv rfl hopen 5 0 false
      have hring := hended.rings k k.isLt
      refine ⟨itemEndsOf_finish ((findItem_of_ring hring i).trans hfind) (fun _ hx _ => hring.symm ▸ hx) stOK [] false,
        by rw [hended.gone], hended.others, NodeFrame.trans ?_ (nodeFrame_finish ..)⟩
      unfold NodeFrame
      rw [hended.frame]
  case query =>
    obtain ⟨-, hfind, -⟩ := id h
    have hmem : MemFrame s s1 := .pair hwrite (hostWrite_memFrame s _ _ (.refl s))
    exact ⟨_, exec_of_eq rfl (convQuery_of_written h hn hch hwrite),
      itemEnds_after hfind hmem.rings (itemFrame_of_memFrame hmem) stOK [], finish_dram ..⟩
  case timers =>
    subst hn
    have hstop := stopEngines_besideEnding s (256 * ch + c)
    refine ⟨fun hsent htimer hretry => ⟨_, exec_of_eq rfl (convTimeout_of_retry hlive hsent htimer hretry), ?retry⟩,
      fun hsent htimer hretry => ⟨_, exec_of_eq rfl (convTimeout_of_spent hlive hsent htimer hretry), ?spent⟩,
      fun hopen hlife => ⟨_, exec_of_eq rfl (convExpire_of_due hlive hopen hlife), ?expired⟩⟩
    case retry =>
      have htable (j : Nat) := congrArg (fun m => tget ({} : Conv) m j)
        (queueStep_table (s.modConv (256 * ch + c) (fun c => { c with state := 1 })) (256 * ch + c) 2)
      exact ⟨(htable _).trans (modConv_convAt_self ..), fun j hj => (htable j).trans (modConv_convAt_other s _ hj), mem_queueStep ..,
        queueStep_frame ..⟩
    case spent =>
      have hended := convEnded_endConv hstop (by rw [hsent]; decide) 1 0 false
      exact ⟨hended.gone, hended.others, hended.frame⟩
    case expired =>
      have hended := convEnded_endConv hstop hopen 2 0 false
      exact ⟨hended.gone, hended.others, hended.frame⟩
  case steps =>
    subst ha hc hcq
    have hlive : s.halted = false := by
      simp only [admitOpen, Bool.and_eq_true, Bool.not_eq_true'] at hopen
      obtain ⟨⟨⟨⟨hlive, -⟩, -⟩, -⟩, -⟩ := hopen
      exact hlive
    have hat : endTakeovers (s.at tm) = s.at tm := endTakeovers_of_none hpaths
    have hfree : EnginesFree (s.at tm) ch := ⟨hopen, hfence, hpower, htested, hrole, hpassed, hengines⟩
    refine ⟨fun hmisfit hrings => ⟨_, exec_of_eq rfl (convStep_of_passed hlive hat hrr
        (stepTurn_of_misfit hfree hsteps hmisfit) hrings), ?passed⟩,
      fun w hcost hroom hkind hproto hfetch hdefined => ⟨_, exec_of_eq rfl ((convStep_of_started hlive hat hrr
        (stepTurn_of_fit hfree hsteps hcost hroom ?builtin)).trans (congrArg (State.modChan · ch _) (startStep_of_operator hkind hproto hfetch hdefined))), ?operator⟩,
      fun hcost hroom hkind hproto hopened hretry => ⟨_, exec_of_eq rfl ((convStep_of_started hlive hat hrr
        (stepTurn_of_fit hfree hsteps hcost hroom ?now)).trans (congrArg (State.modChan · ch _) (startStep_of_timeout hkind hproto hopened hretry))), ?timeout⟩⟩
    case builtin => exact if_neg (Nat.not_le.mpr hproto)
    case now => exact (if_pos hproto).trans (by simp [builtinWait, hkind])
    case passed => exact ⟨(modChan_chan ..).trans (if_pos rfl), fun j hj => (modChan_chan ..).trans (if_neg hj), rfl⟩
    case operator =>
      subst hkind
      have hengine := engineStarted_engine (s.at tm) ch { id := n, kind := 0 }
      have htaken := stepTaken_steps (a := s.at tm) hsteps
      have hreserved := stepTaken_reserved (s.at tm) ch { id := n, kind := 0 }
      refine ⟨?_, ?_, ?_, ?_, ?_, hreserved, htaken, rfl, rfl⟩
      all_goals
        refine (congrArg _ hengine).trans ?_
        rfl
    case timeout =>
      subst hkind
      have hentry := timeoutRun_convAt (s.at tm) ch { id := n, kind := 2 }
      have hqueue := timeoutRun_steps (s.at tm) ch { id := n, kind := 2 }
      have hidle := timeoutRun_engines (s.at tm) ch { id := n, kind := 2 }
      have hframe := timeoutRun_stepFrame (s.at tm) ch { id := n, kind := 2 }
      have htaken := stepTaken_steps (a := s.at tm) hsteps
      rw [← hqueue] at htaken
      generalize timeoutRun (s.at tm) ch { id := n, kind := 2 } = u at *
      exact ⟨(hentry n).trans (if_pos rfl), fun j hj => (hentry j).trans (if_neg hj), htaken, hidle.trans hengines,
        hframe.trans (stepFrame_modChan ..)⟩

end Sys2Proof.Proofs
end

section
/-! PROOFS. The commands of the journal manager: what a page written at once leaves, what the format lays down, and the statement
assembled from that (R423, R427, R432, R438, R441 to R444). -/

namespace Sys2Proof.Machine

open Sys2Proof.Claims

/-! ### A page written at once (R437, R443) -/

/-- Only pages, counters and what follows from durable LEASE and MARK records change. -/
structure Lays (s u : State) : Prop where
  frame : u = { s with
    flash := { s.flash with pages := u.flash.pages }, regs := u.regs
    jf := { s.jf with
      jcnt := u.jf.jcnt, lastJcnt := u.jf.lastJcnt, leaseHi := u.jf.leaseHi, ahead := u.jf.ahead, mark := u.jf.mark
      queuedLeases := u.jf.queuedLeases, markQueued := u.jf.markQueued, cur := u.jf.cur, granted := u.jf.granted } }

theorem Lays.refl (s : State) : Lays s s := ⟨rfl⟩

theorem Lays.trans {s t u : State} (h : Lays s t) (k : Lays t u) : Lays s u := ⟨by rw [k.frame, h.frame]⟩

section
variable {s u : State} (h : Lays s u)
include h

theorem Lays.bad : u.jf.bad = s.jf.bad := by rw [h.frame]
theorem Lays.count : u.count = s.count := by rw [h.frame]; rfl
theorem Lays.activeRing : activeRing u = activeRing s := by simp only [Machine.activeRing, h.bad]

end

/-- A durable CKPT, LEASE, MARK or LABEL record. -/
theorem recDurable_lays {r : JRec} (h : r.kind = 1 ∨ r.kind = 2 ∨ r.kind = 3 ∨ r.kind = 8) (s : State) : Lays s (recDurable s r) := by
  obtain h | h | h | h := h <;> exact ⟨by simp only [recDurable, h]; rfl⟩

theorem recDurable_flash (s : State) (r : JRec) : (recDurable s r).flash = s.flash := by
  unfold recDurable
  dsimp only
  repeat' split
  all_goals rfl

/-- The highest durable lease, and the durable MARK, once a record is durable. -/
def topLease (m : Nat) (r : JRec) : Nat := if r.kind = 2 then max m r.id else m
def topMark (m : Nat) (r : JRec) : Nat := if r.kind = 3 then max m (beN (r.data.take 6)) else m

theorem recDurable_leaseHi (s : State) (r : JRec) : (recDurable s r).jf.leaseHi = topLease s.jf.leaseHi r := by
  unfold recDurable topLease
  dsimp only
  repeat' split
  all_goals rfl

theorem recDurable_mark (s : State) (r : JRec) : (recDurable s r).jf.mark = topMark s.jf.mark r := by
  unfold recDurable topMark
  by_cases h2 : r.kind = 2
  · simp [h2]
  · rw [if_neg h2]
    dsimp only
    repeat' split
    all_goals rfl

theorem foldl_recDurable_leaseHi (l : List JRec) (s : State) : (l.foldl recDurable s).jf.leaseHi = l.foldl topLease s.jf.leaseHi := by
  induction l generalizing s with
  | nil => rfl
  | cons r l ih => rw [List.foldl_cons, ih, recDurable_leaseHi, List.foldl_cons]

theorem foldl_recDurable_mark (l : List JRec) (s : State) : (l.foldl recDurable s).jf.mark = l.foldl topMark s.jf.mark := by
  induction l generalizing s with
  | nil => rfl
  | cons r l ih => rw [List.foldl_cons, ih, recDurable_mark, List.foldl_cons]

/-- Numbering is out of sight of what depends on no number. -/
theorem number_foldl {f : Nat → JRec → Nat} (hf : ∀ m r j, f m { r with jcnt := j } = f m r) (l : List JRec) (j m : Nat) :
    (number j l).foldl f m = l.foldl f m := by
  induction l generalizing j m with
  | nil => rfl
  | cons r l ih => rw [number, List.foldl_cons, hf, ih, List.foldl_cons]

theorem promote_lays (s : State) : Lays s (promote s) := by
  unfold promote
  split <;> exact ⟨rfl⟩

theorem promote_flash (s : State) : (promote s).flash = s.flash := by
  unfold promote
  split <;> rfl

theorem promote_leaseHi (s : State) : (promote s).jf.leaseHi = s.jf.leaseHi := by
  unfold promote
  split <;> rfl

theorem promote_mark (s : State) : (promote s).jf.mark = s.jf.mark := by
  unfold promote
  split <;> rfl

theorem foldl_recDurable_flash (l : List JRec) (s : State) : (l.foldl recDurable s).flash = s.flash := by
  induction l generalizing s with
  | nil => rfl
  | cons r l ih => rw [List.foldl_cons, ih, recDurable_flash]

theorem foldl_recDurable_lays {l : List JRec} (h : ∀ r ∈ l, r.kind = 1 ∨ r.kind = 2 ∨ r.kind = 3 ∨ r.kind = 8) (s : State) :
    Lays s (l.foldl recDurable s) := by
  induction l generalizing s with
  | nil => exact Lays.refl s
  | cons r l ih =>
    exact (recDurable_lays (h r List.mem_cons_self) s).trans (ih (fun x hx => h x (List.mem_cons_of_mem r hx)) _)

theorem number_kind {P : Nat → Prop} {l : List JRec} (h : ∀ r ∈ l, P r.kind) (j : Nat) : ∀ r ∈ number j l, P r.kind := by
  induction l generalizing j with
  | nil => exact fun r hr => absurd hr List.not_mem_nil
  | cons x l ih =>
    intro r hr
    obtain rfl | hr := List.mem_cons.mp hr
    · exact h x List.mem_cons_self
    · exact ih (fun y hy => h y (List.mem_cons_of_mem x hy)) _ r hr

/-- The page with its records, before what follows from them. -/
def paged (s : State) (row : Nat) (recs : List JRec) : State :=
  (({ s with flash := { s.flash with
      pages := tins s.flash.pages row ((number s.jf.jcnt recs).flatMap (sealRec (jKey s))) } } : State).modJf (fun j => { j with
    jcnt := j.jcnt + (number s.jf.jcnt recs).length
    lastJcnt := (number s.jf.jcnt recs).foldl (fun m r => max m r.jcnt) j.lastJcnt })).inc 0x39328 31 0

theorem writeNow_eq (s : State) (row : Nat) (recs : List JRec) :
    writeNow s row recs = promote ((number s.jf.jcnt recs).foldl recDurable (paged s row recs)) := rfl

theorem writeNow_lays {recs : List JRec} (h : ∀ r ∈ recs, r.kind = 1 ∨ r.kind = 2 ∨ r.kind = 3 ∨ r.kind = 8) (s : State) (row : Nat) :
    Lays s (writeNow s row recs) := by
  have hpaged : Lays s (paged s row recs) := ⟨rfl⟩
  have hdurable := foldl_recDurable_lays (number_kind (P := fun n => n = 1 ∨ n = 2 ∨ n = 3 ∨ n = 8) h s.jf.jcnt) (paged s row recs)
  exact (hpaged.trans hdurable).trans (promote_lays _)

theorem writeNow_pages (s : State) (row : Nat) (recs : List JRec) :
    ∃ b, (writeNow s row recs).flash.pages = tins s.flash.pages row b := by
  rw [writeNow_eq, promote_flash, foldl_recDurable_flash]
  exact ⟨_, rfl⟩

theorem writeNow_leaseHi (s : State) (row : Nat) (recs : List JRec) : (writeNow s row recs).jf.leaseHi = recs.foldl topLease s.jf.leaseHi := by
  rw [writeNow_eq, promote_leaseHi, foldl_recDurable_leaseHi, number_foldl (fun _ _ _ => rfl)]
  rfl

theorem writeNow_mark (s : State) (row : Nat) (recs : List JRec) : (writeNow s row recs).jf.mark = recs.foldl topMark s.jf.mark := by
  rw [writeNow_eq, promote_mark, foldl_recDurable_mark, number_foldl (fun _ _ _ => rfl)]
  rfl

/-! ### The format (R443) -/

/-- n bytes hold a value modulo 256^n. -/
theorem beN_toBe (n v : Nat) : beN (toBe n v) = v % 256 ^ n := by
  rw [beN, toBe, List.foldl_reverse]
  induction n generalizing v with
  | zero => simp [toLe, Nat.mod_one]
  | succ n ih =>
    rw [toLe, List.foldr_cons, ih, BitVec.toNat_ofNat, pow_succ' 256 n, Nat.mod_mul]
    omega

theorem topMark_markRec (m c : Nat) : topMark m (markRec c) = max m (c % 2 ^ 48) := by
  have htake : (toBe 6 c ++ zeros 2).take 6 = toBe 6 c := List.take_left' (by rw [toBe, List.length_reverse, toLe_length])
  rw [topMark, markRec, if_pos rfl, htake, beN_toBe]
  norm_num

/-- The device erased, with its geometry and bad blocks. -/
def blank (s : State) (img snap : Nat) : State :=
  ({ (s.modJf (fun j => { j with img := img, snap := snap, bad := s.flash.factory, unreadable := [] })) with
    flash := { s.flash with pages := [] } } : State).incBy 0x3932C 31 0
      (idxs (81 + 2 * img + snap) (fun b => !s.flash.factory.contains b)).length

/-- The blank device with its two labels. -/
def labelled (s : State) : State :=
  writeNow (writeNow s 0 [{ kind := 8, data := labelBody s, urgent := true }]) 1
    [{ kind := 8, data := labelBody (writeNow s 0 [{ kind := 8, data := labelBody s, urgent := true }]), urgent := true }]

/-- The labelled device with the first page of its ring: a CKPT, three leases from n on and a MARK. -/
def firstPage (s : State) (b n : Nat) : State :=
  writeNow (expectLeases s n) (64 * b) ([{ kind := 1, data := ckptBody (expectLeases s n), urgent := true }]
    ++ leaseRecs (expectLeases s n) n ++ [markRec (s.count + 2 ^ 24)])

/-- The write pointers of the ring behind its first page. -/
def pointed (s : State) (b : Nat) : State :=
  s.modJf (fun j => { j with
    wblk := b, wpage := 1, sblk := 0, spage := 64, erased := (activeRing s).drop 1 ++ snapBlocks s, rot := none, rotDue := false })

theorem format_eq (s : State) (img snap floor : Nat) : format s img snap floor =
    let t := labelled (blank s img snap)
    let b := (activeRing t).headD 1
    (gradeRing (setJState (pointed (firstPage t b (floor + 1)) b) 1)).evt 0x5304 0 := rfl

theorem labelled_lays (s : State) : Lays s (labelled s) :=
  (writeNow_lays (by simp) s 0).trans (writeNow_lays (by simp) _ 1)

theorem labelled_pages {s : State} (hblank : s.flash.pages = []) : ∃ x y, (labelled s).flash.pages = [(0, x), (1, y)] := by
  obtain ⟨x, hx⟩ := writeNow_pages s 0 [{ kind := 8, data := labelBody s, urgent := true }]
  unfold labelled
  obtain ⟨y, hy⟩ := writeNow_pages (writeNow s 0 [{ kind := 8, data := labelBody s, urgent := true }]) 1
    [{ kind := 8, data := labelBody (writeNow s 0 [{ kind := 8, data := labelBody s, urgent := true }]), urgent := true }]
  exact ⟨x, y, by rw [hy, hx, hblank]; rfl⟩

theorem labelled_leaseHi (s : State) : (labelled s).jf.leaseHi = s.jf.leaseHi := by
  rw [labelled, writeNow_leaseHi, writeNow_leaseHi]
  rfl

theorem labelled_mark (s : State) : (labelled s).jf.mark = s.jf.mark := by
  rw [labelled, writeNow_mark, writeNow_mark]
  rfl

section
variable (s : State) (b n : Nat)

theorem firstPage_lays : Lays (expectLeases s n) (firstPage s b n) :=
  writeNow_lays (by
    intro r hr
    simp only [leaseRecs, markRec, List.mem_append, List.mem_map, List.mem_singleton] at hr
    obtain (rfl | ⟨j, -, rfl⟩) | rfl := hr <;> simp) _ _

theorem firstPage_leaseHi : (firstPage s b n).jf.leaseHi = max s.jf.leaseHi (n + 2) := by
  rw [firstPage, writeNow_leaseHi]
  show max (max (max s.jf.leaseHi (n + 0)) (n + 1)) (n + 2) = _
  omega

theorem firstPage_mark : (firstPage s b n).jf.mark = max s.jf.mark ((s.count + 2 ^ 24) % 2 ^ 48) := by
  rw [firstPage, writeNow_mark, List.foldl_append, List.foldl_cons, List.foldl_nil, topMark_markRec]
  rfl

end

/-- What the format leaves in the journal and on the device. -/
structure Formatted (s u : State) (img snap floor : Nat) : Prop where
  img : u.jf.img = img
  snap : u.jf.snap = snap
  bad : u.jf.bad = s.flash.factory
  unreadable : u.jf.unreadable = []
  pages : tkeys u.flash.pages = [0, 1, 64 * (activeRing u).headD 1]
  mark : u.jf.mark = max s.jf.mark ((s.count + 2 ^ 24) % 2 ^ 48)
  leaseHi : u.jf.leaseHi = max s.jf.leaseHi (floor + 3)
  wblk : u.jf.wblk = (activeRing u).headD 1
  wpage : u.jf.wpage = 1
  erased : u.jf.erased = (activeRing u).drop 1 ++ snapBlocks u
  mounted : 64 ≤ ((List.range 81).drop 1).countP (fun b => !s.flash.factory.contains b) → 8 ≤ (snapBlocks u).length → u.jf.state = 1
  event : bit (u.wr 0x5304) 0 = true

/-- Enough good blocks leave the state of the journal as it is (R431). -/
theorem gradeRing_good {s : State} (hgood : 64 ≤ ((List.range 81).drop 1).countP (fun b => !s.jf.bad.contains b))
    (hsnap : 8 ≤ (snapBlocks s).length) : gradeRing s = s := by
  unfold gradeRing
  dsimp only
  split
  · rw [if_neg (by omega), if_neg (by omega)]
  · rfl

theorem activeRing_headD (s : State) : 1 ≤ (activeRing s).headD 1 := by
  cases hring : activeRing s with
  | nil => exact le_rfl
  | cons b l =>
    have hmem : b ∈ activeRing s := hring ▸ List.mem_cons_self
    have hblock := (List.mem_filter.mp (List.mem_of_mem_take hmem)).1
    obtain ⟨j, hj, rfl⟩ := List.mem_iff_getElem.mp hblock
    simp

theorem firstPage_pages {s : State} {x y : Bytes} (hpages : s.flash.pages = [(0, x), (1, y)]) {b : Nat} (hb : 1 ≤ b) (n : Nat) :
    tkeys (firstPage s b n).flash.pages = [0, 1, 64 * b] := by
  obtain ⟨z, hz⟩ := writeNow_pages (expectLeases s n) (64 * b) ([{ kind := 1, data := ckptBody (expectLeases s n), urgent := true }]
    ++ leaseRecs (expectLeases s n) n ++ [markRec (s.count + 2 ^ 24)])
  rw [firstPage, hz, show (expectLeases s n).flash.pages = _ from hpages]
  have h0 : ¬ 64 * b < 0 ∧ 64 * b ≠ 0 := by omega
  have h1 : ¬ 64 * b < 1 ∧ 64 * b ≠ 1 := by omega
  simp [tins, tkeys, h0, h1]

/-- What the format has laid down on the device when it sets the write pointers. -/
structure LaidDown (s f : State) (img snap floor b : Nat) : Prop where
  img : f.jf.img = img
  snap : f.jf.snap = snap
  bad : f.jf.bad = s.flash.factory
  unreadable : f.jf.unreadable = []
  first : b = (activeRing f).headD 1
  pages : tkeys f.flash.pages = [0, 1, 64 * b]
  mark : f.jf.mark = max s.jf.mark ((s.count + 2 ^ 24) % 2 ^ 48)
  leaseHi : f.jf.leaseHi = max s.jf.leaseHi (floor + 3)
  frame : f = { s with jf := f.jf, flash := { s.flash with pages := f.flash.pages }, regs := f.regs }

theorem laidDown (s : State) (img snap floor : Nat) {l : State} (hl : l = labelled (blank s img snap)) {b : Nat}
    (hb : b = (activeRing l).headD 1) : LaidDown s (firstPage l b (floor + 1)) img snap floor b := by
  obtain ⟨x, y, hpages⟩ := labelled_pages (s := blank s img snap) rfl
  have hlabels := labelled_lays (blank s img snap)
  have hhi := labelled_leaseHi (blank s img snap)
  have hmark := labelled_mark (blank s img snap)
  rw [← hl] at hpages hlabels hhi hmark
  have hfirst := firstPage_lays l b (floor + 1)
  refine ⟨?img, ?snap, ?bad, ?unreadable, ?first, firstPage_pages hpages (hb ▸ activeRing_headD l) _, ?mark, ?leaseHi, ?frame⟩
  case img => rw [hfirst.frame, hlabels.frame]; rfl
  case snap => rw [hfirst.frame, hlabels.frame]; rfl
  case bad => rw [hfirst.frame, hlabels.frame]; rfl
  case unreadable => rw [hfirst.frame, hlabels.frame]; rfl
  case first => rw [hfirst.activeRing, hb]; rfl
  case mark => rw [firstPage_mark, hlabels.count, hmark]; rfl
  case leaseHi => rw [firstPage_leaseHi, hhi]; rfl
  case frame => rw [hfirst.frame, hlabels.frame]; rfl

/-- The journal goes into use behind the first page of its ring. -/
theorem opened_leaves {s f : State} {img snap floor b : Nat} (h : LaidDown s f img snap floor b) :
    Formatted s ((gradeRing (setJState (pointed f b) 1)).evt 0x5304 0) img snap floor := by
  have hstate := setJState_frame (pointed f b) 1
  have hgrade := gradeRing_leaves (s := setJState (pointed f b) 1) (by rw [hstate]; exact (by decide : (1 : Nat) ≠ 4))
  have hgood := gradeRing_good (s := setJState (pointed f b) 1)
  generalize setJState (pointed f b) 1 = p at *
  obtain ⟨-, hframe⟩ := hgrade
  have hring : activeRing (gradeRing p) = activeRing f := by rw [hframe, hstate]; rfl
  have hblocks : snapBlocks (gradeRing p) = snapBlocks f := by rw [hframe, hstate]; rfl
  have hpblocks : snapBlocks p = snapBlocks f := by rw [hstate]; rfl
  have hpbad : p.jf.bad = f.jf.bad := by rw [hstate]; rfl
  have hpstate : p.jf.state = 1 := by rw [hstate]
  rw [hpbad, h.bad, hpblocks, ← hblocks] at hgood
  generalize gradeRing p = g at *
  refine ⟨?img, ?snap, ?bad, ?unreadable, ?pages, ?mark, ?leaseHi, ?wblk, ?wpage, ?erased, ?mounted, bit_evt _ _ _⟩
  case img => rw [← h.img, hframe, hstate]; rfl
  case snap => rw [← h.snap, hframe, hstate]; rfl
  case bad => rw [← h.bad, hframe, hstate]; rfl
  case unreadable => rw [← h.unreadable, hframe, hstate]; rfl
  case pages =>
    show tkeys g.flash.pages = [0, 1, 64 * (activeRing g).headD 1]
    rw [hring, ← h.first, ← h.pages, hframe, hstate]
    rfl
  case mark => rw [← h.mark, hframe, hstate]; rfl
  case leaseHi => rw [← h.leaseHi, hframe, hstate]; rfl
  case wblk =>
    show g.jf.wblk = (activeRing g).headD 1
    rw [hring, ← h.first, hframe, hstate]
    rfl
  case wpage => rw [hframe, hstate]; rfl
  case erased =>
    show g.jf.erased = (activeRing g).drop 1 ++ snapBlocks g
    rw [hring, hblocks, hframe, hstate]
    rfl
  case mounted =>
    intro hmany hsnap
    show g.jf.state = 1
    rw [hgood hmany hsnap, hpstate]

theorem opened_frame {s f : State} {img snap floor b : Nat} (h : LaidDown s f img snap floor b) {u : State}
    (hu : u = (gradeRing (setJState (pointed f b) 1)).evt 0x5304 0) :
    u = { s with jf := u.jf, flash := { s.flash with pages := u.flash.pages }, regs := u.regs, log := u.log } := by
  have hstate := setJState_frame (pointed f b) 1
  have hgrade := gradeRing_leaves (s := setJState (pointed f b) 1) (by rw [hstate]; exact (by decide : (1 : Nat) ≠ 4))
  generalize setJState (pointed f b) 1 = p at *
  obtain ⟨-, hframe⟩ := hgrade
  rw [hu, hframe, hstate]
  show { f with jf := _, regs := _, log := _ } = _
  rw [h.frame]
  rfl

theorem format_leaves (s : State) (img snap floor : Nat) : Formatted s (format s img snap floor) img snap floor :=
  opened_leaves (laidDown s img snap floor rfl rfl)

theorem format_frame {s u : State} {img snap floor : Nat} (h : u = format s img snap floor) :
    u = { s with jf := u.jf, flash := { s.flash with pages := u.flash.pages }, regs := u.regs, log := u.log } :=
  opened_frame (laidDown s img snap floor rfl rfl) h

/-! ### JF_SYNC (R442, R444) -/

theorem syncDone_of_open {s : State} (h : ∀ w ∈ s.jf.syncs, syncOpen s w = true) : syncDone s = s := by
  have hnone : s.jf.syncs.filter (fun w => !syncOpen s w) = [] := List.filter_eq_nil_iff.mpr (fun w hw => by simp [h w hw])
  simp only [syncDone, hnone, List.any_nil, Bool.not_false, List.filter_true, List.foldl_nil]
  rfl

theorem syncDone_of_one {s : State} {w : SyncWait} (hone : s.jf.syncs = [w]) (hdurable : syncOpen s w = false) :
    syncDone s = finish (s.modJf (fun j => { j with syncs := [] })) w.ring w.idx stOK (jResult s) false := by
  have hdone : s.jf.syncs.filter (fun w => !syncOpen s w) = [w] := by simp [hone, hdurable]
  have hnone : s.jf.syncs.filter (fun x => !([w].any (fun y => decide (y = x)))) = [] := by simp [hone]
  simp only [syncDone, hdone, State.modJf, hnone, List.foldl_cons, List.foldl_nil]
  rfl

/-- Every queued record is urgent, and one more JF_SYNC waits. -/
def syncing (s : State) (k i : Nat) : State :=
  { s with jf := { s.jf with
    queue := s.jf.queue.map (fun r => { r with urgent := true }), syncs := s.jf.syncs ++ [{ ring := k, idx := i, qn := s.jf.qn }] } }

theorem syncOpen_syncing (s : State) (k i : Nat) (w : SyncWait) : syncOpen (syncing s k i) w = syncOpen s w := by
  simp only [syncOpen, syncing, List.any_map]
  rfl

theorem jfSync_of_running {s : State} {k i : Nat} {it : Item} (h : Open s k i 0x71 it) (hmounted : s.jf.state ≠ 0) (hwrites : s.jf.state ≠ 3)
    (hfresh : ∀ w ∈ s.jf.syncs, w.ring = k → w.idx ≠ i) : jfSync s k i = syncDone (syncing s k i) := by
  obtain ⟨hlive, -⟩ := id h
  have hnew : s.jf.syncs.any (fun w => decide (w.ring = k) && decide (w.idx = i)) = false := by
    rw [List.any_eq_false]
    exact fun w hw => by simpa using hfresh w hw
  simp only [jfSync, hlive, withItem_of_open h, hmounted, hwrites, or_self, hnew, Bool.false_eq_true, if_false]
  rfl

end Sys2Proof.Machine

namespace Sys2Proof.Proofs

open Sys2Proof.Machine Sys2Proof.Claims

section
variable {s : State} {k : Fin 64} {i : Nat} {it : Item}

/-! ### JF_FORMAT -/

section
variable (h : Open s k i 0x70 it)
include h

theorem formatBeyondDevice (hbeyond : s.flash.blocks < 81 + 2 * leAt it.desc 0x0C 2 + leAt it.desc 0x0E 2) :
    ∃ u, exec (.jfFormat k i) s = .next u ∧ ItemEnds s u k i stMalformed false (jResult s) ∧ u.jf = s.jf ∧ u.flash = s.flash := by
  obtain ⟨hlive, hfind, -⟩ := id h
  have hstep : jfFormat (decide (lifecycle s = 1) || decide (lifecycle s = 2)) s k i = finish s k i stMalformed (jResult s) false := by
    simp only [jfFormat, hlive, withItem_of_open h, gt_iff_lt, hbeyond, if_true, Bool.false_eq_true, if_false]
  refine ⟨_, exec_of_eq rfl hstep, itemEnds_of_open hfind _ _, ?_⟩
  rw [finish_frame hfind]
  exact ⟨rfl, rfl⟩

variable (hfits : 81 + 2 * leAt it.desc 0x0C 2 + leAt it.desc 0x0E 2 ≤ s.flash.blocks)
include hfits

theorem formatRefused (hwhy : (s.jf.result ≠ 2 ∧ s.jf.result ≠ 3) ∨ s.vault.carnival = true ∨ (lifecycle s ≠ 1 ∧ lifecycle s ≠ 2)) :
    ∃ u, exec (.jfFormat k i) s = .next u ∧ ItemEnds s u k i stLocked false (jResult s) ∧ u.jf = s.jf ∧ u.flash = s.flash := by
  obtain ⟨hlive, hfind, -⟩ := id h
  have hlocked : (!(decide (s.jf.result = 2) || decide (s.jf.result = 3)) || s.vault.carnival
      || !(decide (lifecycle s = 1) || decide (lifecycle s = 2))) = true := by
    obtain ⟨h2, h3⟩ | hcarnival | ⟨h1, h2⟩ := hwhy <;> simp [*]
  have hstep : jfFormat (decide (lifecycle s = 1) || decide (lifecycle s = 2)) s k i = finish s k i stLocked (jResult s) false := by
    simp only [jfFormat, hlive, withItem_of_open h, gt_iff_lt, Nat.not_lt.mpr hfits, hlocked, if_true, Bool.false_eq_true, if_false]
  refine ⟨_, exec_of_eq rfl hstep, itemEnds_of_open hfind _ _, ?_⟩
  rw [finish_frame hfind]
  exact ⟨rfl, rfl⟩

theorem formatLaysDown (hblank : s.jf.result = 2 ∨ s.jf.result = 3) (hcarnival : s.vault.carnival = false)
    (hrooted : lifecycle s = 1 ∨ lifecycle s = 2) : ∃ u, exec (.jfFormat k i) s = .next u ∧ Ended u k i stOK false (jResult u) ∧
      (∀ q, q ≠ k.val → u.ring q = s.ring q) ∧ Formatted s u (leAt it.desc 0x0C 2) (leAt it.desc 0x0E 2) (leAt it.desc 0x10 4) ∧
      u = { s with
        rings := u.rings, part := u.part, ch := u.ch, jf := u.jf, flash := { s.flash with pages := u.flash.pages }, regs := u.regs
        log := u.log, vault := u.vault, alm := u.alm } := by
  obtain ⟨hlive, hfind, -⟩ := id h
  have hopen : (!(decide (s.jf.result = 2) || decide (s.jf.result = 3)) || s.vault.carnival
      || !(decide (lifecycle s = 1) || decide (lifecycle s = 2))) = false := by
    simp only [hcarnival, Bool.or_false, Bool.or_eq_false_iff, Bool.not_eq_false', Bool.or_eq_true, decide_eq_true_eq]
    exact ⟨hblank, hrooted⟩
  have hformat := format_leaves s (leAt it.desc 0x0C 2) (leAt it.desc 0x0E 2) (leAt it.desc 0x10 4)
  obtain ⟨t, ht⟩ : ∃ t, t = format s (leAt it.desc 0x0C 2) (leAt it.desc 0x0E 2) (leAt it.desc 0x10 4) := ⟨_, rfl⟩
  have hstep : jfFormat (decide (lifecycle s = 1) || decide (lifecycle s = 2)) s k i = finish t k i stOK (jResult t) false := by
    simp only [jfFormat, hlive, withItem_of_open h, gt_iff_lt, Nat.not_lt.mpr hfits, hopen, Bool.false_eq_true, if_false, ht]
  rw [← ht] at hformat
  have htframe := format_frame ht
  have hrings : t.rings = s.rings := by rw [htframe]
  obtain ⟨hended, hothers, -⟩ := itemEnds_of_open ((findItem_of_rings hrings k i).trans hfind) stOK (jResult t)
  refine ⟨_, exec_of_eq rfl hstep, ?_⟩
  have hframe := finish_false_frame t k i stOK (jResult t)
  generalize finish t k i stOK (jResult t) false = u at *
  have hresult : jResult u = jResult t := by rw [hframe]; rfl
  refine ⟨hresult ▸ hended, fun q hq => (hothers q hq).trans (by simp only [State.ring, hrings]), ?_⟩
  obtain ⟨himg, hsnap, hbad, hunreadable, hpages, hmark, hhi, hwblk, hwpage, herased, hmounted, hevent⟩ := hformat
  rw [hframe]
  refine ⟨⟨himg, hsnap, hbad, hunreadable, hpages, hmark, hhi, hwblk, hwpage, herased, hmounted, hevent⟩, ?_⟩
  rw [htframe]

end

/-! ### JF_SYNC and JF_SCRUB -/

section
variable (h : Open s k i 0x71 it)
include h

theorem syncRefused (hshut : s.jf.state = 0 ∨ s.jf.state = 3) :
    ∃ u, exec (.jfSync k i) s = .next u ∧ ItemEnds s u k i stLocked false (jResult s) ∧ u.jf = s.jf := by
  obtain ⟨hlive, hfind, -⟩ := id h
  have hstep : jfSync s k i = finish s k i stLocked (jResult s) false := by
    simp only [jfSync, hlive, withItem_of_open h, hshut, if_true, Bool.false_eq_true, if_false]
  refine ⟨_, exec_of_eq rfl hstep, itemEnds_of_open hfind _ _, ?_⟩
  rw [finish_frame hfind]

variable (hmounted : s.jf.state ≠ 0) (hwrites : s.jf.state ≠ 3)
include hmounted hwrites

theorem syncOfNothing (hqueue : s.jf.queue = []) (hprog : s.jf.prog = none) (hsyncs : s.jf.syncs = []) :
    ∃ u, exec (.jfSync k i) s = .next u ∧ ItemEnds s u k i stOK false (jResult s) ∧ u.jf = s.jf := by
  obtain ⟨-, hfind, -⟩ := id h
  have hone : (syncing s k i).jf.syncs = [{ ring := k, idx := i, qn := s.jf.qn }] := by
    simp only [syncing, hsyncs, List.nil_append]
  have hdurable : syncOpen (syncing s k i) { ring := k, idx := i, qn := s.jf.qn } = false := by
    rw [syncOpen_syncing]
    simp [syncOpen, hqueue, hprog]
  have hback : (syncing s k i).modJf (fun j => { j with syncs := [] }) = s := by
    simp only [syncing, State.modJf, hqueue, List.map_nil]
    rw [← hqueue, ← hsyncs]
  have hstep : jfSync s k i = finish s k i stOK (jResult s) false := by
    rw [jfSync_of_running h hmounted hwrites (by simp [hsyncs]), syncDone_of_one hone hdurable, hback]
    rfl
  refine ⟨_, exec_of_eq rfl hstep, itemEnds_of_open hfind _ _, ?_⟩
  rw [finish_frame hfind]

theorem syncWaits (hqueued : ∃ r ∈ s.jf.queue, r.qn < s.jf.qn) (hopen : ∀ w ∈ s.jf.syncs, syncOpen s w = true)
    (hfresh : ∀ w ∈ s.jf.syncs, w.ring = k.val → w.idx ≠ i) : ∃ u, exec (.jfSync k i) s = .next u ∧ u = { s with jf := { s.jf with
      queue := s.jf.queue.map (fun r => { r with urgent := true }), syncs := s.jf.syncs ++ [{ ring := k, idx := i, qn := s.jf.qn }] } } := by
  have hall : ∀ w ∈ (syncing s k i).jf.syncs, syncOpen (syncing s k i) w = true := by
    intro w hw
    rw [syncOpen_syncing]
    obtain hw | hw := List.mem_append.mp hw
    · exact hopen w hw
    · obtain rfl := List.mem_singleton.mp hw
      obtain ⟨r, hr, hlt⟩ := hqueued
      simp only [syncOpen, Bool.or_eq_true, List.any_eq_true]
      exact Or.inl ⟨r, hr, decide_eq_true hlt⟩
  refine ⟨_, exec_of_eq rfl (jfSync_of_running h hmounted hwrites hfresh), ?_⟩
  rw [syncDone_of_open hall]
  rfl

end

theorem scrubStarts (h : Open s k i 0x72 it) : ∃ u, exec (.jfScrub k i) s = .next u ∧ ItemEnds s u k i stOK false (jResult s) ∧
    u.jf = if s.jf.scrub = none then { s.jf with scrub := some 0, scrubAt := s.alm.time } else s.jf := by
  obtain ⟨hlive, hfind, -⟩ := id h
  obtain ⟨t, ht⟩ : ∃ t, t = if s.jf.scrub = none then s.modJf (fun j => { j with scrub := some 0, scrubAt := s.alm.time }) else s := ⟨_, rfl⟩
  have hstep : jfScrub s k i = finish t k i stOK (jResult t) false := by
    simp only [jfScrub, hlive, withItem_of_open h, ht, Bool.false_eq_true, if_false]
  have hframe : t = { s with jf := t.jf } := by rw [ht]; split <;> rfl
  have hresult : jResult t = jResult s := by rw [ht]; split <;> rfl
  have hjf : t.jf = if s.jf.scrub = none then { s.jf with scrub := some 0, scrubAt := s.alm.time } else s.jf := by rw [ht]; split <;> rfl
  refine ⟨_, exec_of_eq rfl (hresult ▸ hstep), itemEnds_after hfind (by rw [hframe]) (by unfold ItemFrame; rw [hframe]) _ _, ?_⟩
  rw [finish_false_frame, hjf]

end

/-- Settles O49: the format is laid down as written, a JF_SYNC waits for what is queued, and a JF_SCRUB starts a pass. -/
theorem journalCommandsComplete : Obligations.JournalCommandsComplete := by
  unfold Obligations.JournalCommandsComplete
  intro s k i it
  refine ⟨fun h => ⟨formatBeyondDevice h, formatRefused h, fun hfits hblank hcarnival hrooted => ?format⟩,
    fun h => ⟨syncRefused h, syncOfNothing h, syncWaits h⟩, scrubStarts⟩
  case format =>
    obtain ⟨u, hexec, hended, hothers, hformat, hframe⟩ := formatLaysDown h hfits hblank hcarnival hrooted
    obtain ⟨himg, hsnap, hbad, hunreadable, hpages, hmark, hhi, hwblk, hwpage, herased, hmounted, hevent⟩ := hformat
    exact ⟨u, hexec, hended, hothers, himg, hsnap, hbad, hunreadable, hpages, hmark, hhi, hwblk, hwpage, herased, hmounted, hevent, hframe⟩

end Sys2Proof.Proofs
end

section
/-! PROOFS. Page programs: which records a page takes, what follows once it stands and where it fails, and the statement assembled
from that (R425 to R428, R431, R442). -/

namespace Sys2Proof.Machine

open Sys2Proof.Claims

/-! ### Records that become durable (R428) -/

/-- What no durable record changes: all but leases, the MARK, persisted counts, the log and the dirty entries of the Almanac. -/
def State.besideDurable (s : State) : State :=
  { s with
    jf := { s.jf with leaseHi := 0, ahead := [], queuedLeases := [], mark := 0, markQueued := none, cur := none, granted := 0 }
    vault := {}, log := {}, alm := {} }

theorem recDurable_besideDurable (s : State) (r : JRec) : (recDurable s r).besideDurable = s.besideDurable := by
  unfold recDurable
  dsimp only
  repeat' split
  all_goals rfl

theorem promote_besideDurable (s : State) : (promote s).besideDurable = s.besideDurable := by
  unfold promote
  split <;> rfl

theorem foldl_recDurable_besideDurable (l : List JRec) (s : State) : (l.foldl recDurable s).besideDurable = s.besideDurable := by
  induction l generalizing s with
  | nil => rfl
  | cons r l ih => rw [List.foldl_cons, ih, recDurable_besideDurable]

theorem frame_of_besideDurable {s t : State} (h : t.besideDurable = s.besideDurable) : t = { s with
    jf := { s.jf with
      leaseHi := t.jf.leaseHi, ahead := t.jf.ahead, queuedLeases := t.jf.queuedLeases, mark := t.jf.mark, markQueued := t.jf.markQueued
      cur := t.jf.cur, granted := t.jf.granted }
    vault := t.vault, log := t.log, alm := t.alm } := by
  have hview := congrArg (fun v : State => ({ v with
    jf := { v.jf with
      leaseHi := t.jf.leaseHi, ahead := t.jf.ahead, queuedLeases := t.jf.queuedLeases, mark := t.jf.mark, markQueued := t.jf.markQueued
      cur := t.jf.cur, granted := t.jf.granted }
    vault := t.vault, log := t.log, alm := t.alm } : State)) h
  exact hview

/-! ### Every JF_SYNC whose records are durable ends (R442) -/

/-- One JF_SYNC ends OK. -/
def endSync (s : State) (w : SyncWait) : State := finish s w.ring w.idx stOK (jResult s) false

/-- The JF_SYNCs that go on waiting. -/
def keptSyncs (s : State) : List SyncWait :=
  s.jf.syncs.filter (fun w => !(s.jf.syncs.filter (fun w => !syncOpen s w)).any (fun x => decide (x = w)))

theorem syncDone_eq (s : State) : syncDone s =
    (s.jf.syncs.filter (fun w => !syncOpen s w)).foldl endSync { s with jf := { s.jf with syncs := keptSyncs s } } := rfl

theorem endSync_frame (s : State) (w : SyncWait) : endSync s w = { s with
    rings := (endSync s w).rings, part := (endSync s w).part, ch := (endSync s w).ch } := finish_false_frame ..

theorem endSyncs_frame (l : List SyncWait) (s : State) : l.foldl endSync s = { s with
    rings := (l.foldl endSync s).rings, part := (l.foldl endSync s).part, ch := (l.foldl endSync s).ch } := by
  induction l generalizing s with
  | nil => rfl
  | cons w l ih =>
    rw [List.foldl_cons, ih, endSync_frame]

theorem syncDone_frame (s : State) : syncDone s = { s with
    jf := { s.jf with syncs := keptSyncs s }, rings := (syncDone s).rings, part := (syncDone s).part, ch := (syncDone s).ch } := by
  rw [syncDone_eq, endSyncs_frame]

theorem jResult_endSync (s : State) (w : SyncWait) : jResult (endSync s w) = jResult s := by
  rw [endSync_frame]
  rfl

section
variable {s : State} {k i : Nat}

/-- An item that has its result keeps it while others end. -/
theorem ended_finish {status : Nat} {zero : Bool} {result : Bytes} (h : Ended s k i status zero result) (k' i' status' : Nat) (result' : Bytes)
    (zero' : Bool) : Ended (finish s k' i' status' result' zero') k i status zero result := by
  cases hfind : findItem s k' i' with
  | none => simpa only [finish, hfind] using h
  | some it =>
    obtain ⟨x, hx, hidx, hres⟩ := h
    unfold Ended
    rw [finish_ring status' result' zero' hfind]
    split
    case isTrue hk =>
      subst hk
      exact ⟨x, List.mem_map.mpr ⟨x, hx, if_neg (by simp [hres])⟩, hidx, hres⟩
    case isFalse => exact ⟨x, hx, hidx, hres⟩

theorem findItem_isSome : (findItem s k i).isSome = true ↔ ∃ x ∈ (s.ring k).items, x.idx = i ∧ x.res = none := by
  simp [findItem, List.find?_isSome]

/-- An item that is open stays open while an item with another ring or index ends. -/
theorem findItem_finish_other (h : (findItem s k i).isSome = true) {k' i' : Nat} (hother : ¬ (k' = k ∧ i' = i)) (status : Nat)
    (result : Bytes) (zero : Bool) : (findItem (finish s k' i' status result zero) k i).isSome = true := by
  cases hfind : findItem s k' i' with
  | none => simpa only [finish, hfind] using h
  | some it =>
    obtain ⟨x, hx, hidx, hres⟩ := findItem_isSome.mp h
    rw [findItem_isSome, finish_ring status result zero hfind]
    split
    case isTrue hk =>
      subst hk
      exact ⟨x, List.mem_map.mpr ⟨x, hx, if_neg (fun hboth => hother ⟨rfl, hboth.1.symm.trans hidx⟩)⟩, hidx, hres⟩
    case isFalse => exact ⟨x, hx, hidx, hres⟩

theorem ended_endSyncs {status : Nat} {zero : Bool} {result : Bytes} (l : List SyncWait) (h : Ended s k i status zero result) :
    Ended (l.foldl endSync s) k i status zero result := by
  induction l generalizing s with
  | nil => exact h
  | cons w l ih => exact ih (ended_finish h ..)

theorem endSyncs_ended {l : List SyncWait} {w : SyncWait} (hw : w ∈ l) (hopen : (findItem s w.ring w.idx).isSome = true) :
    Ended (l.foldl endSync s) w.ring w.idx stOK false (jResult s) := by
  induction l generalizing s with
  | nil => exact absurd hw List.not_mem_nil
  | cons x l ih =>
    rw [List.foldl_cons]
    by_cases hx : x.ring = w.ring ∧ x.idx = w.idx
    · obtain ⟨it, hfind⟩ := Option.isSome_iff_exists.mp hopen
      obtain ⟨hring, hidx⟩ := hx
      refine ended_endSyncs l ?_
      rw [endSync, hring, hidx]
      exact ended_of_open hfind _ _
    · have hrest : w ∈ l := (List.mem_cons.mp hw).resolve_left (fun h => hx (h ▸ ⟨rfl, rfl⟩))
      rw [← jResult_endSync s x]
      exact ih hrest (findItem_finish_other hopen hx ..)

end

theorem syncDone_ended {s : State} {w : SyncWait} (hw : w ∈ s.jf.syncs) (hdurable : syncOpen s w = false)
    (hopen : (findItem s w.ring w.idx).isSome = true) : Ended (syncDone s) w.ring w.idx stOK false (jResult s) := by
  rw [syncDone_eq]
  exact endSyncs_ended (List.mem_filter.mpr ⟨hw, by simp [hdurable]⟩) hopen

theorem issueErase_frame (s : State) : issueErase s = { s with flash := { s.flash with erasing := (issueErase s).flash.erasing } } := by
  unfold issueErase
  split
  · rfl
  · split <;> rfl

/-! ### Where a page program starts (R428) -/

section
variable {s : State}

theorem pageDue_nil (bytes room : Nat) : pageDue s [] bytes room = false := by simp [pageDue]

theorem pageProgram_idle (h : jWrites s = false ∨ s.jf.prog.isSome = true ∨ s.flash.erasing.isSome = true ∨ s.jf.queue = []) :
    pageProgram s = s := by
  unfold pageProgram
  obtain h | h | h | h := h
  · simp [h]
  · simp [h]
  · simp [h]
  · simp only [waitRing, waitSnap, h, List.filter_nil, pageDue_nil, Bool.false_eq_true, if_false, ite_self]

variable (hrun : s.halted = false) (hwrites : jWrites s = true) (hidle : s.jf.prog = none) (herasing : s.flash.erasing = none)
  (hdue : pageDue s (waitRing s) ((waitRing s).map JRec.size).sum (pageSize s) = true)
include hrun hwrites hidle herasing hdue

theorem pageProgram_due : pageProgram s = progRing s := by
  obtain ⟨hreset, halarm, hlockout, hpfail⟩ := boot_of_running hrun
  simp only [pageProgram, hreset, halarm, hlockout, hpfail, hwrites, hidle, herasing, hdue, Option.isSome_none, Bool.not_true, Bool.or_self,
    Bool.false_eq_true, if_false, if_true]

end

/-- Numbering keeps the count of records. -/
theorem number_length (j : Nat) (l : List JRec) : (number j l).length = l.length := by
  induction l generalizing j with
  | nil => rfl
  | cons r l ih => rw [number, List.length_cons, ih, List.length_cons]

/-- The write pointer at the next active block. -/
def turned (s : State) (b : Nat) : State :=
  s.modJf (fun j => { j with wblk := b, wpage := 0, erased := j.erased.filter (· ≠ b), rotDue := true })

theorem ringSlot_room {s : State} (h : s.jf.wpage < 64) : ringSlot s = some s := if_pos h

theorem ringSlot_full {s : State} (hfull : 64 ≤ s.jf.wpage) {b : Nat} (hb : b = nextActive s s.jf.wblk) (hfree : b ∈ s.jf.erased) :
    ringSlot s = some (turned s b) := by
  have herased : s.jf.erased.contains b = true := List.contains_iff_mem.mpr hfree
  rw [ringSlot, if_neg (by omega)]
  simp only [← hb, herased, if_true]
  rfl

/-- The CKPT that the first page of a block begins with. -/
def pageCkpt (s : State) : List JRec := if s.jf.wpage = 0 then [{ kind := 1, data := ckptBody s, urgent := true }] else []

/-- The records that go to a page: urgent ones first, then normal ones, as they fit behind its CKPT. -/
def pageTakes (s : State) : List JRec :=
  (takeFit (pageSize s - ((pageCkpt s).map JRec.size).sum) ((waitRing s).filter (·.urgent) ++ (waitRing s).filter (fun r => !r.urgent))).1

/-- A page program under way. -/
def programming (s : State) : State :=
  { s with jf := { s.jf with
    queue := s.jf.queue.filter (fun r => !(pageTakes s).any (fun x => decide (x.qn = r.qn)))
    jcnt := s.jf.jcnt + (pageCkpt s ++ pageTakes s).length
    prog := some { row := 64 * s.jf.wblk + s.jf.wpage, recs := number s.jf.jcnt (pageCkpt s ++ pageTakes s) } } }

theorem progRing_of_slot {s t : State} (h : ringSlot s = some t) : progRing s = programming t := by
  rw [programming, ← number_length t.jf.jcnt]
  simp only [progRing, h]
  rfl

/-! ### A page program that failed (R431) -/

/-- Copies of records are queued, or count as durable at once. -/
structure Copied (s u : State) : Prop where
  beside : ({ u with jf := { u.jf with queue := [], qn := 0 } } : State).besideDurable =
    ({ s with jf := { s.jf with queue := [], qn := 0 } } : State).besideDurable
  kept : s.jf.queue <+: u.jf.queue

theorem Copied.refl (s : State) : Copied s s := ⟨rfl, [], List.append_nil _⟩
theorem Copied.trans {s t u : State} (h : Copied s t) (k : Copied t u) : Copied s u := ⟨k.beside.trans h.beside, h.kept.trans k.kept⟩

theorem jPut_copied {r : JRec} (hkind : r.kind ≠ 5) (s : State) : Copied s (s.jPut r) := by
  by_cases hstate : s.jf.state = 4
  · have hput : s.jPut r = recDurable s (waiting s r) := by
      simp only [State.jPut, hstate, if_true]
      rfl
    have hframe := frame_of_besideDurable (recDurable_besideDurable s (waiting s r))
    rw [hput]
    generalize recDurable s (waiting s r) = u at *
    rw [hframe]
    exact ⟨rfl, [], List.append_nil _⟩
  · rw [jPut_eq hstate hkind]
    exact ⟨rfl, ⟨_, rfl⟩⟩

theorem copyForward_copied (b : Nat) {l : List JRec} (hl : ∀ r ∈ l, r.kind ≠ 5) (s : State) : Copied s (copyForward s b l) := by
  induction l generalizing s with
  | nil => exact Copied.refl s
  | cons r l ih =>
    exact (jPut_copied (r := { r with src := some b }) (hl r List.mem_cons_self) s).trans
      (ih (fun x hx => hl x (List.mem_cons_of_mem r hx)) _)

theorem gradeRing_frame (s : State) : gradeRing s = { s with
    jf := { s.jf with state := (gradeRing s).jf.state }, regs := (gradeRing s).regs, log := (gradeRing s).log } := by
  obtain h | h | h := gradeRing_cases s <;> rw [h]
  · rw [setJState_frame]
  · rw [setJState_frame]

/-- What a block that turned bad leaves, in every state of the journal. -/
structure TurnedBad (s u : State) (b : Nat) : Prop where
  flash : u.flash = s.flash
  rings : u.rings = s.rings
  nms : u.nms = s.nms
  prog : u.jf.prog = s.jf.prog
  wpage : u.jf.wpage = s.jf.wpage
  bad : b ∈ u.jf.bad
  event : bit (u.wr 0x5304) 4 = true
  kept : s.jf.queue <+: u.jf.queue

theorem TurnedBad.copied {s t u : State} {b : Nat} (h : TurnedBad s t b) (k : Copied t u) : TurnedBad s u b := by
  obtain ⟨hbeside, hkept⟩ := k
  have hregs : u.regs = t.regs := by
    have hview := congrArg State.regs hbeside
    exact hview
  exact {
    flash := (congrArg State.flash hbeside).trans h.flash
    rings := (congrArg State.rings hbeside).trans h.rings
    nms := (congrArg State.nms hbeside).trans h.nms
    prog := (congrArg (·.jf.prog) hbeside).trans h.prog
    wpage := (congrArg (·.jf.wpage) hbeside).trans h.wpage
    bad := (show u.jf.bad = t.jf.bad from congrArg (·.jf.bad) hbeside) ▸ h.bad
    event := (show u.wr 0x5304 = t.wr 0x5304 by simp only [State.wr, hregs]) ▸ h.event
    kept := h.kept.trans hkept }

theorem setBad_turnedBad (s : State) (b : Nat) : TurnedBad s (setBad s b) b := by
  obtain ⟨t, ht⟩ : ∃ t, t = (s.modJf (fun j => { j with bad := if j.bad.contains b then j.bad else b :: j.bad })).evt 0x5304 4 := ⟨_, rfl⟩
  have htbad : b ∈ t.jf.bad := by
    rw [ht]
    show b ∈ if s.jf.bad.contains b then s.jf.bad else b :: s.jf.bad
    split
    · exact List.contains_iff_mem.mp ‹_›
    · exact List.mem_cons_self
  have hbit : bit ((gradeRing t).wr 0x5304) 4 = true := gradeRing_bit (by rw [ht]; exact bit_evt _ _ _)
  have hframe := gradeRing_frame t
  have hset : setBad s b = (gradeRing t).jPut { kind := 1, data := ckptBody (gradeRing t), urgent := true } := by rw [ht]; rfl
  rw [hset]
  refine TurnedBad.copied (t := gradeRing t) ?_ (jPut_copied (show (1 : Nat) ≠ 5 by decide) _)
  generalize gradeRing t = g at *
  refine ⟨?_, ?_, ?_, ?_, ?_, ?_, hbit, ?_⟩
  case refine_6 => rw [hframe]; exact htbad
  case refine_7 => rw [hframe, ht]; exact ⟨[], List.append_nil _⟩
  all_goals rw [hframe, ht]; rfl

/-- The records of a page that failed wait again, before all others, and its block has no room left. -/
def requeued (s : State) (p : PageProg) : State :=
  s.modJf (fun j => { j with
    prog := none, queue := p.recs.filter (fun r => decide (r.kind ≠ 1)) ++ j.queue
    wpage := if p.snap then j.wpage else 64, spage := if p.snap then 64 else j.spage })

theorem pageFail_turnedBad (s : State) (p : PageProg) : TurnedBad (requeued s p) (pageFail s p) (p.row / 64) := by
  have hlive : ∀ r ∈ (if p.snap then [] else liveOf s (p.row / 64) true), r.kind ≠ 5 := by
    intro r hr
    split at hr
    · exact absurd hr List.not_mem_nil
    · exact liveOf_kind hr
  exact (setBad_turnedBad (requeued s p) (p.row / 64)).copied (copyForward_copied (p.row / 64) hlive _)

/-! ### A page program that stood (R428) -/

/-- The page with its records on the device, before what follows from them. -/
def stood (s : State) (p : PageProg) : State :=
  (({ s with flash := { s.flash with pages := tins s.flash.pages p.row (pageBytes s p) } } : State).modJf (fun j => { j with
    prog := none
    lastJcnt := p.recs.foldl (fun m r => max m r.jcnt) j.lastJcnt
    wpage := if p.snap then j.wpage else j.wpage + 1
    spage := if p.snap then j.spage + 1 else j.spage })).inc 0x39328 31 0

theorem pageOk_eq (s : State) (p : PageProg) : pageOk s p = issueErase (syncDone (promote (p.recs.foldl recDurable (stood s p)))) := rfl

theorem durable_frame (s : State) (l : List JRec) : promote (l.foldl recDurable s) = { s with
    jf := { s.jf with
      leaseHi := (promote (l.foldl recDurable s)).jf.leaseHi, ahead := (promote (l.foldl recDurable s)).jf.ahead
      queuedLeases := (promote (l.foldl recDurable s)).jf.queuedLeases, mark := (promote (l.foldl recDurable s)).jf.mark
      markQueued := (promote (l.foldl recDurable s)).jf.markQueued, cur := (promote (l.foldl recDurable s)).jf.cur
      granted := (promote (l.foldl recDurable s)).jf.granted }
    vault := (promote (l.foldl recDurable s)).vault, log := (promote (l.foldl recDurable s)).log
    alm := (promote (l.foldl recDurable s)).alm } :=
  frame_of_besideDurable ((promote_besideDurable _).trans (foldl_recDurable_besideDurable l s))

theorem pageDone_of_running {s : State} (hrun : s.halted = false) {p : PageProg} (hprog : s.jf.prog = some p) (ok : Bool) :
    pageDone s ok = if ok then pageOk s p else pageFail s p := by
  obtain ⟨hreset, halarm, hlockout, -⟩ := boot_of_running hrun
  simp only [pageDone, hprog, hreset, halarm, hlockout, Bool.or_self, Bool.false_eq_true, if_false]

theorem nmsDurable_idle {s : State} (h : s.nms.wait = none) : nmsDurable s = s := by simp only [nmsDurable, h]

end Sys2Proof.Machine

namespace Sys2Proof.Proofs

open Sys2Proof.Machine Sys2Proof.Claims

section
variable {s : State} (hrun : s.halted = false)
include hrun

/-! ### PAGE_PROGRAM -/

section
variable (hwrites : jWrites s = true) (hidle : s.jf.prog = none) (herasing : s.flash.erasing = none)
  (hdue : pageDue s (waitRing s) ((waitRing s).map JRec.size).sum (pageSize s) = true)
include hwrites hidle herasing hdue

theorem pageTakesRecords (hroom : s.jf.wpage < 64) : ∃ u, exec .pageProgram s = .next u ∧ u = programming s :=
  ⟨_, exec_of_eq rfl ((pageProgram_due hrun hwrites hidle herasing hdue).trans (progRing_of_slot (ringSlot_room hroom))), rfl⟩

theorem pageTurnsBlock {b : Nat} (hfull : 64 ≤ s.jf.wpage) (hb : b = nextActive s s.jf.wblk) (hfree : b ∈ s.jf.erased) :
    ∃ u, exec .pageProgram s = .next u ∧ u.jf.wblk = b ∧ u.jf.wpage = 0 ∧ u.jf.rotDue = true ∧ b ∉ u.jf.erased ∧
      (∃ p, u.jf.prog = some p ∧ p.row = 64 * b ∧ p.snap = false ∧ (p.recs.headD {}).kind = 1) ∧ u = { s with jf := u.jf } := by
  refine ⟨_, exec_of_eq rfl ((pageProgram_due hrun hwrites hidle herasing hdue).trans (progRing_of_slot (ringSlot_full hfull hb hfree))),
    rfl, rfl, rfl, ?_, ⟨_, rfl, rfl, rfl, rfl⟩, rfl⟩
  show b ∉ s.jf.erased.filter (· ≠ b)
  simp

end

/-! ### PAGE_PROGRAM_DONE and JOURNAL_NO_ANSWER -/

section
variable {p : PageProg} (hprog : s.jf.prog = some p) (hwait : s.nms.wait = none)
include hprog hwait

theorem pageStands : ∃ u, exec (.pageProgramDone true) s = .next u ∧
    tget [] u.flash.pages p.row = pageBytes s p ∧ (∀ r, r ≠ p.row → tget [] u.flash.pages r = tget [] s.flash.pages r) ∧
    u.jf.prog = none ∧ u.jf.wpage = (if p.snap then s.jf.wpage else s.jf.wpage + 1) ∧ u.jf.queue = s.jf.queue ∧
    u.jf.lastJcnt = p.recs.foldl (fun m r => max m r.jcnt) s.jf.lastJcnt ∧
    ∀ w ∈ s.jf.syncs, (∀ r ∈ s.jf.queue, w.qn ≤ r.qn) → (findItem s w.ring w.idx).isSome = true →
      Ended u w.ring w.idx stOK false (jResult u) := by
  obtain ⟨d, hd⟩ : ∃ d, d = promote (p.recs.foldl recDurable (stood s p)) := ⟨_, rfl⟩
  have hframe := durable_frame (stood s p) p.recs
  rw [← hd] at hframe
  have hdone := syncDone_frame d
  have hended := fun w hw hdurable hopen => syncDone_ended (s := d) (w := w) hw hdurable hopen
  obtain ⟨e, he⟩ : ∃ e, e = syncDone d := ⟨_, rfl⟩
  rw [← he] at hdone hended
  have herase := issueErase_frame e
  have hwaits : (issueErase e).nms.wait = none := by rw [herase, hdone, hframe]; exact hwait
  have hstep : nmsDurable (pageDone s true) = issueErase e := by
    rw [pageDone_of_running hrun hprog, if_pos rfl, pageOk_eq, ← hd, ← he, nmsDurable_idle hwaits]
  refine ⟨_, exec_of_eq rfl hstep, ?_⟩
  generalize issueErase e = u at *
  have hpages : u.flash.pages = tins s.flash.pages p.row (pageBytes s p) := by rw [herase, hdone, hframe]; rfl
  have hrings : d.rings = s.rings := by rw [hframe]; rfl
  have hsyncs : d.jf.syncs = s.jf.syncs := by rw [hframe]; rfl
  have hnone : d.jf.prog = none := by rw [hframe]; rfl
  have hqueue : d.jf.queue = s.jf.queue := by rw [hframe]; rfl
  have hresult : jResult u = jResult d := by rw [herase, hdone]; rfl
  have hring : u.rings = e.rings := by rw [herase]
  refine ⟨?_, fun r hr => ?_, ?_, ?_, ?_, ?_, fun w hw hbefore hopen => ?_⟩
  · rw [hpages, tget_tins, if_pos rfl]
  · rw [hpages, tget_tins, if_neg hr]
  · rw [herase, hdone, hframe]; rfl
  · rw [herase, hdone, hframe]; rfl
  · rw [herase, hdone, hframe]; rfl
  · rw [herase, hdone, hframe]; rfl
  · have hdurable : syncOpen d w = false := by
      simpa [syncOpen, hnone, hqueue] using hbefore
    rw [hresult]
    unfold Ended
    simp only [State.ring, hring]
    exact hended w (hsyncs ▸ hw) hdurable ((findItem_of_rings hrings w.ring w.idx).symm ▸ hopen)

theorem pageFails : ∃ u, exec (.pageProgramDone false) s = .next u ∧ u.flash = s.flash ∧ u.jf.prog = none ∧
    p.row / 64 ∈ u.jf.bad ∧ (p.snap = false → 64 = u.jf.wpage) ∧
    (p.recs.filter (fun r => decide (r.kind ≠ 1)) ++ s.jf.queue) <+: u.jf.queue ∧ bit (u.wr 0x5304) 4 = true ∧ u.rings = s.rings := by
  obtain ⟨hflash, hrings, hnms, hnone, hwpage, hbad, hevent, hkept⟩ := pageFail_turnedBad s p
  have hstep : nmsDurable (pageDone s false) = pageFail s p := by
    rw [pageDone_of_running hrun hprog, if_neg (by decide), nmsDurable_idle (by rw [hnms]; exact hwait)]
  refine ⟨_, exec_of_eq rfl hstep, hflash, hnone, hbad, fun hring => ?_, hkept, hevent, hrings⟩
  rw [hwpage]
  show 64 = if p.snap then s.jf.wpage else 64
  rw [hring]
  rfl

end

theorem deviceSilent (hmounted : s.jf.state = 1 ∨ s.jf.state = 2) : ∃ u, exec .journalNoAnswer s = .next u ∧
    u.jf = { s.jf with state := 3, prog := none, queue := (match s.jf.prog with | some p => p.recs | none => []) ++ s.jf.queue } ∧
    bit (u.wr 0x5304) 5 = true ∧ u = { s with jf := u.jf, regs := u.regs, log := u.log } := by
  obtain ⟨hreset, -⟩ := boot_of_running hrun
  obtain ⟨t, ht⟩ : ∃ t, t = s.modJf (fun j => { j with
    queue := match j.prog with | some p => p.recs ++ j.queue | none => j.queue, prog := none }) := ⟨_, rfl⟩
  have hstep : noAnswer s = setJState t 3 := by
    rw [ht]
    exact if_neg (by simp [hreset, hmounted])
  have hstate : t.jf.state ≠ 3 := by
    rw [ht]
    show s.jf.state ≠ 3
    omega
  have hqueue : t.jf.queue = (match s.jf.prog with | some p => p.recs | none => []) ++ s.jf.queue := by
    rw [ht, State.modJf]
    cases s.jf.prog <;> rfl
  refine ⟨_, exec_of_eq rfl hstep, ?_, ?_, ?_⟩
  · rw [setJState_frame, ← hqueue, ht]
    rfl
  · rw [setJState, if_neg hstate]
    dsimp only
    rw [logPut_wr _ _ _ _ (by decide)]
    exact bit_evt _ _ _
  · rw [setJState_frame, ht]
    rfl

end

/-- Settles O50: a page takes what fits, its records are durable once it stands and wait again where it fails. -/
theorem pagesAreProgrammed : Obligations.PagesAreProgrammed := by
  unfold Obligations.PagesAreProgrammed
  intro s hrun
  refine ⟨fun ck f hwrites hidle herasing hdue hroom hck hf => ?takes, fun b hwrites hidle herasing hdue hfull hb hfree =>
    pageTurnsBlock hrun hwrites hidle herasing hdue hfull hb hfree, fun h => ⟨_, rfl, pageProgram_idle h⟩,
    fun p hprog hwait => pageStands hrun hprog hwait, fun p hprog hwait => pageFails hrun hprog hwait, deviceSilent hrun⟩
  case takes =>
    subst hck hf
    exact pageTakesRecords hrun hwrites hidle herasing hdue hroom

end Sys2Proof.Proofs
end

section
/-! PROOFS. Messages of the Krysa ring: what is sent opens under its key; the commands of the ring agent, and the statement assembled
from that (R451, R452, R461, R462, R466 to R468). -/

namespace Sys2Proof.Machine

open Sys2Proof.Claims

/-! ### A sealed message opens (R452) -/

/-- A field holds its value modulo its width. -/
theorem toLe_mod (n v : Nat) : toLe n (v % 256 ^ n) = toLe n v := by
  induction n generalizing v with
  | zero => rfl
  | succ n ih =>
    have hlow : v % 256 ^ (n + 1) % 2 ^ 8 = v % 2 ^ 8 := Nat.mod_mod_of_dvd v (pow_succ' 256 n ▸ Dvd.intro _ rfl)
    have hhigh : v % 256 ^ (n + 1) / 256 = v / 256 % 256 ^ n := by rw [pow_succ', Nat.mod_mul_right_div_self]
    rw [toLe, toLe, hhigh, ih]
    congr 1
    exact BitVec.eq_of_toNat_eq (by rw [BitVec.toNat_ofNat, BitVec.toNat_ofNat, hlow])

theorem toBe_beN_toBe (n v : Nat) : toBe n (beN (toBe n v)) = toBe n v := by
  rw [beN_toBe, toBe, toLe_mod, toBe]

theorem toBe_len (n v : Nat) : (toBe n v).length = n := by rw [toBe, List.length_reverse, toLe_length]

/-- A counter block keeps 16 bytes. -/
theorem incBlock_length {w : Nat} {b : Bytes} (hb : b.length = 16) (hw : w ≤ 16) : (incBlock w b).length = 16 := by
  rw [incBlock, List.length_append, List.length_take, toBe_len, hb]
  omega

theorem gcmJ0_length (h : BitVec 128) (iv : Bytes) : (gcmJ0 h iv).length = 16 := by
  unfold gcmJ0
  split
  case isTrue hiv => rw [List.length_append, toBe_len, hiv]
  case isFalse => rw [toBe_len]

theorem aesEncRk_len (rks : List Bytes) {b : Bytes} (hb : b.length = 16) : (aesEncRk rks b).length = 16 := by
  cases rks with
  | nil => exact hb
  | cons k ks => rw [aesEncRk, length_bxor, shiftRows, List.length_map]; rfl

theorem gcmTag_len (key iv aad ct : Bytes) : (gcmTag key iv aad ct).length = 16 := by rw [gcmTag, length_bxor, toBe_len]

/-- A text of one block is masked with 16 bytes of keystream. -/
theorem gcmText_of_block (key iv : Bytes) : ∃ m : Bytes, m.length = 16 ∧ ∀ x : Bytes, x.length = 16 → gcmText key iv x = bxor x m := by
  refine ⟨aesEncRk (roundKeys key) (incBlock 4 (gcmJ0 (ghKey key) iv)),
    aesEncRk_len _ (incBlock_length (gcmJ0_length _ _) (by decide)), fun x hx => ?_⟩
  have hchunks : chunks 16 x = [x] := by
    have htake : x.take 16 = x := List.take_of_length_le (Nat.le_of_eq hx)
    have hdrop : x.drop 16 = [] := List.drop_eq_nil_of_le (Nat.le_of_eq hx)
    have hsome : x.isEmpty = false := by
      rw [List.isEmpty_eq_false_iff]
      rintro rfl
      simp at hx
    rw [chunks, hx, chunksAux, hsome, htake, hdrop]
    rfl
  rw [gcmText, ctr, hchunks, ctrAux, ctrAux, List.append_nil]

theorem gcmText_gcmText {p : Bytes} (hp : p.length = 16) (key iv : Bytes) :
    (gcmText key iv p).length = 16 ∧ gcmText key iv (gcmText key iv p) = p := by
  obtain ⟨m, hm, hmask⟩ := gcmText_of_block key iv
  have hlen : (bxor p m).length = 16 := (length_bxor p m).trans hp
  rw [hmask p hp]
  exact ⟨hlen, (hmask _ hlen).trans (bxor_cancel_right (by omega))⟩

/-- The header of a message (R451). -/
def krHeader (type origin len cal seq : Nat) : Bytes :=
  toBe 1 type ++ toBe 1 origin ++ [0#8, 0#8] ++ toBe 2 len ++ toBe 6 cal ++ toBe 2 seq

/-- A message as it is sent (R451, R452). -/
def krMessage (key : Bytes) (type origin cal seq : Nat) (body : Bytes) : Bytes :=
  let h := krHeader type origin body.length cal seq
  let ct := gcmText key (krIv origin cal seq) body
  h ++ ct ++ gcmTag key (krIv origin cal seq) h ct

section
variable (type origin len cal seq : Nat)

theorem krHeader_length : (krHeader type origin len cal seq).length = 14 := by simp [krHeader, toBe_len]

theorem krHeader_type : sub (krHeader type origin len cal seq) 0 1 = toBe 1 type := by
  simp only [krHeader, List.append_assoc]
  exact sub_append_left _ _ (toBe_len 1 type)

/-- A field that stands between two parts of a string. -/
theorem sub_between {a b c : Bytes} {n m : Nat} (hn : a.length = n) (hm : b.length = m) : sub (a ++ b ++ c) n m = b := by
  subst hn hm
  simp [sub, zeros]

theorem krHeader_origin : sub (krHeader type origin len cal seq) 1 1 = toBe 1 origin := by
  have hcut : krHeader type origin len cal seq = toBe 1 type ++ toBe 1 origin ++ ([0#8, 0#8] ++ toBe 2 len ++ toBe 6 cal ++ toBe 2 seq) := by
    simp [krHeader]
  rw [hcut, sub_between (toBe_len _ _) (toBe_len _ _)]

theorem krHeader_len : sub (krHeader type origin len cal seq) 4 2 = toBe 2 len := by
  have hcut : krHeader type origin len cal seq =
      (toBe 1 type ++ toBe 1 origin ++ [0#8, 0#8]) ++ toBe 2 len ++ (toBe 6 cal ++ toBe 2 seq) := by simp [krHeader]
  rw [hcut, sub_between (by simp [toBe_len]) (toBe_len _ _)]

theorem krHeader_cal : sub (krHeader type origin len cal seq) 6 6 = toBe 6 cal := by
  rw [krHeader, sub_between (by simp [toBe_len]) (toBe_len _ _)]

theorem krHeader_seq : sub (krHeader type origin len cal seq) 12 2 = toBe 2 seq := by
  rw [krHeader]
  exact sub_append_right _ _ (by simp [toBe_len]) (toBe_len _ _)

theorem krHeader_hops : overlay (krHeader type origin len cal seq) 2 [0#8] = krHeader type origin len cal seq := by
  have hcut : krHeader type origin len cal seq = (toBe 1 type ++ toBe 1 origin) ++ (0#8 :: 0#8 :: (toBe 2 len ++ toBe 6 cal ++ toBe 2 seq)) := by
    simp [krHeader]
  rw [hcut, overlay, sub_append_left _ _ (by simp [toBe_len])]
  have htype : (toBe 1 type).drop 3 = [] := List.drop_eq_nil_of_le (by rw [toBe_len]; decide)
  have horigin : (toBe 1 origin).drop 2 = [] := List.drop_eq_nil_of_le (by rw [toBe_len]; decide)
  simp [toBe_len, List.drop_append, htype, horigin]

/-- A field of the header reads the same in the message. -/
theorem sub_krMessage (key body : Bytes) {off n : Nat} (h : off + n ≤ 14) :
    sub (krMessage key type origin cal seq body) off n = sub (krHeader type origin body.length cal seq) off n := by
  have hlen := krHeader_length type origin body.length cal seq
  refine sub_congr fun j hlow hhigh => ?_
  rw [krMessage, List.append_assoc, byteAt, byteAt, List.getD_append _ _ _ _ (by omega)]

/-- A message opens under its key to the body that was sealed in it. -/
theorem krOpen_krMessage {key body : Bytes} (hkey : key ≠ []) (hbody : body.length = 16) :
    krOpen key (krMessage key type origin cal seq body) = some body := by
  obtain ⟨hlen, hopens⟩ := gcmText_gcmText hbody key (krIv origin cal seq)
  have hhead := krHeader_length type origin 16 cal seq
  have hiv : krIv (beN (toBe 1 origin)) (beN (toBe 6 cal)) (beN (toBe 2 seq)) = krIv origin cal seq := by
    simp only [krIv, toBe_beN_toBe]
  have hmessage : krMessage key type origin cal seq body = krHeader type origin 16 cal seq ++ gcmText key (krIv origin cal seq) body ++
      gcmTag key (krIv origin cal seq) (krHeader type origin 16 cal seq) (gcmText key (krIv origin cal seq) body) := by
    rw [krMessage, hbody]
  have htag := gcmTag_len key (krIv origin cal seq) (krHeader type origin 16 cal seq) (gcmText key (krIv origin cal seq) body)
  have hn : beAt (krMessage key type origin cal seq body) 4 2 = 16 := by
    rw [beAt, sub_krMessage _ _ _ _ _ _ (by decide), krHeader_len, beN_toBe, hbody]
    rfl
  have hh : overlay (sub (krMessage key type origin cal seq body) 0 14) 2 [0#8] = krHeader type origin 16 cal seq := by
    rw [sub_krMessage _ _ _ _ _ _ (by decide), hbody, sub_all hhead, krHeader_hops]
  have hct : sub (krMessage key type origin cal seq body) 14 16 = gcmText key (krIv origin cal seq) body := by
    rw [hmessage, sub_between hhead hlen]
  have ht : sub (krMessage key type origin cal seq body) (14 + 16) 16 =
      gcmTag key (krIv origin cal seq) (krHeader type origin 16 cal seq) (gcmText key (krIv origin cal seq) body) := by
    rw [hmessage, sub_append_right _ _ (by rw [List.length_append, hhead, hlen]) htag]
  have hsize : (krMessage key type origin cal seq body).length = 30 + 16 := by
    rw [hmessage, List.length_append, List.length_append, hhead, hlen, htag]
  have hsealed : krIv (beAt (krMessage key type origin cal seq body) 1 1) (beAt (krMessage key type origin cal seq body) 6 6)
      (beAt (krMessage key type origin cal seq body) 12 2) = krIv origin cal seq := by
    rw [beAt, beAt, beAt, sub_krMessage _ _ _ _ _ _ (by decide), sub_krMessage _ _ _ _ _ _ (by decide), sub_krMessage _ _ _ _ _ _ (by decide),
      krHeader_origin, krHeader_cal, krHeader_seq, hiv]
  simp only [krOpen, if_neg hkey, hn, hh, hct, ht, hsize, hsealed, hopens]
  rfl

end

/-- A message goes out of both ports. -/
theorem krSend_of_keyed {s : State} (hkey : s.krysa.key ≠ []) (hseq : s.krysa.seq < 65536) (hwedge : s.wedged 3 = false) (type : Nat)
    (body : Bytes) : krSend s type body = { s with
      krysa := { s.krysa with seq := s.krysa.seq + 1 }
      outs := .krysa false (krMessage s.krysa.key type (unitNo s) s.count s.krysa.seq body)
        :: .krysa true (krMessage s.krysa.key type (unitNo s) s.count s.krysa.seq body) :: s.outs } := by
  simp only [krSend, hkey, ge_iff_le, Nat.not_le.mpr hseq, hwedge, Bool.false_eq_true, or_self, if_false]
  rfl

/-- Sending counts a message and puts it on the wire, and nothing else. -/
theorem krSend_frame (s : State) (type : Nat) (body : Bytes) : krSend s type body = { s with
    krysa := { s.krysa with seq := (krSend s type body).krysa.seq }, outs := (krSend s type body).outs } := by
  unfold krSend
  dsimp only
  split <;> rfl

/-! ### A change that this unit proposes (R461) -/

/-- A change of the next version, where no proposal of a lower origin or of this unit's own is held, becomes the one held. -/
theorem holdProp_of_next {s : State} {p : KChange} (hver : p.ver = s.krysa.mapver + 1) (horigin : p.origin = unitNo s)
    (hfirst : ∀ q, s.krysa.prop = some q → unitNo s < q.origin) : holdProp s p = s.modKr (fun k => { k with prop := some p }) := by
  unfold holdProp
  rw [if_neg (by omega)]
  split
  case h_1 => rfl
  case h_2 q hq =>
    have hlower := hfirst q hq
    rw [if_pos (by omega)]
    dsimp only
    rw [if_neg]
    rintro ⟨hown, -⟩
    have hown : q.origin = unitNo s := hown
    omega

/-- The body of the CHANGE message of a proposal (R454). -/
def changeBody (p : KChange) : Bytes :=
  toBe 4 p.ver ++ toBe 1 p.kind ++ toBe 1 p.dst ++ toBe 1 p.src ++ [0#8] ++ toBe 4 p.lo ++ toBe 4 p.hi

theorem changeBody_length (p : KChange) : (changeBody p).length = 16 := by simp [changeBody, toBe_len]

theorem propose_eq {s : State} {p : KChange} (hver : p.ver = s.krysa.mapver + 1) (horigin : p.origin = unitNo s)
    (hfirst : ∀ q, s.krysa.prop = some q → unitNo s < q.origin) :
    propose s p = (krSend s 3 (changeBody p)).modKr (fun k => { k with prop := some p }) := by
  have hframe := krSend_frame s 3 (changeBody p)
  have hunit : unitNo (krSend s 3 (changeBody p)) = unitNo s := by rw [hframe]; rfl
  have hprop : (krSend s 3 (changeBody p)).krysa.prop = s.krysa.prop := by rw [hframe]
  have hmap : (krSend s 3 (changeBody p)).krysa.mapver = s.krysa.mapver := by rw [hframe]
  show holdProp (krSend s 3 (changeBody p)) p = _
  exact holdProp_of_next (by rw [hmap, hver]) (by rw [hunit, horigin]) (by rw [hprop, hunit]; exact hfirst)

/-- A KR_ASSIGN that nothing refuses finds no proposal that ranks before its own. -/
theorem ranks_of_assignWhy {s : State} {lo hi dst : Nat} (h : assignWhy s lo hi dst = 0) (q : KChange) (hq : s.krysa.prop = some q) :
    unitNo s < q.origin := by
  by_contra hrank
  simp only [assignWhy, hq, decide_eq_true (Nat.not_lt.mp hrank), if_true] at h
  split at h
  · exact absurd h (by decide)
  · split at h
    · exact absurd h (by decide)
    · exact absurd h (by decide)

section
variable {s : State} {k i : Nat} {it : Item} (h : Open s k i 0x79 it) (hnone : s.krysa.assign = none)
include h hnone

theorem krAssign_refused (hwhy : assignWhy s (leAt it.desc 8 4) (leAt it.desc 0x0C 4) (leAt it.desc 0x10 1 % 64) ≠ 0) :
    krAssign s k i = finish s k i stLocked
      (krResult s (assignWhy s (leAt it.desc 8 4) (leAt it.desc 0x0C 4) (leAt it.desc 0x10 1 % 64))) false := by
  obtain ⟨hlive, -⟩ := id h
  simp only [krAssign, hlive, withItem_of_open h, hnone, Option.isSome_none, if_pos hwhy, Bool.false_eq_true, if_false]

theorem krAssign_proposes (hwhy : assignWhy s (leAt it.desc 8 4) (leAt it.desc 0x0C 4) (leAt it.desc 0x10 1 % 64) = 0) :
    krAssign s k i = propose (s.modKr (fun x => { x with assign := some (k, i, it.cal) }))
      { ver := s.krysa.mapver + 1, origin := unitNo s, kind := 1, dst := leAt it.desc 0x10 1 % 64, lo := leAt it.desc 8 4
        src := if covered s.krysa.map (leAt it.desc 8 4) (leAt it.desc 0x0C 4) (fun _ => true) = 0 then 0xFF else unitNo s
        hi := leAt it.desc 0x0C 4 } := by
  obtain ⟨hlive, -⟩ := id h
  simp only [krAssign, hlive, withItem_of_open h, hnone, Option.isSome_none, hwhy, ne_eq, not_true_eq_false, Bool.false_eq_true, if_false]

end

/-! ### KR_KEYLOAD and KR_QUERY (R467, R468) -/

section
variable {s : State} {k i : Nat} {it : Item} (h : Open s k i 0x78 it) (hnew : it.staged = false)
include h hnew

theorem krKeyload_locked (hwhy : (lifecycle s ≠ 1 ∧ lifecycle s ≠ 2) ∨ s.vault.carnival = true) :
    krKeyload s k i = finish s k i stLocked (vaultResult s 0x009 0 0) false := by
  obtain ⟨hlive, -⟩ := id h
  have hlocked : (!(decide (lifecycle s = 1) || decide (lifecycle s = 2)) || s.vault.carnival) = true := by
    obtain ⟨h1, h2⟩ | hcarnival := hwhy <;> simp [*]
  simp only [krKeyload, hlive, withItem_of_open h, hnew, hlocked, if_true, Bool.false_eq_true, if_false]

variable (hrooted : lifecycle s = 1 ∨ lifecycle s = 2) (hcarnival : s.vault.carnival = false) {s1 : State} {b : Bytes}
  (hread : hostRead s (addrAt it.desc 0x10) 56 = (s1, .ok b))
include hrooted hcarnival hread

theorem krKeyload_reads : krKeyload s k i = match kwUnwrap it.hold b with
    | none => finish s1 k i stAuthFail (vaultResult s1 0x009 0 0) false
    | some p => if attrOk p 0 && decide (leAt p 0 1 = 2) then
        stageVault s1 k it { attr := p.take 16, mat := p.drop 16, pgen := (it.keys.headD {}).gen }
      else finish s1 k i stAttr (vaultResult s1 0x009 0 0) false := by
  obtain ⟨hlive, -⟩ := id h
  have hopen : (!(decide (lifecycle s = 1) || decide (lifecycle s = 2)) || s.vault.carnival) = false := by
    simpa only [hcarnival, Bool.or_false, Bool.not_eq_false', Bool.or_eq_true, decide_eq_true_eq] using hrooted
  simp only [krKeyload, hlive, withItem_of_open h, hnew, hopen, hread, Bool.false_eq_true, if_false] <;> rfl

end

end Sys2Proof.Machine

namespace Sys2Proof.Proofs

open Sys2Proof.Machine Sys2Proof.Claims

section
variable {s : State} {k : Fin 64} {i : Nat} {it : Item}

/-! ### KR_KEYLOAD -/

section
variable (h : Open s k i 0x78 it) (hnew : it.staged = false)
include h hnew

theorem keyloadLocked (hwhy : (lifecycle s ≠ 1 ∧ lifecycle s ≠ 2) ∨ s.vault.carnival = true) : ∃ u, exec (.krKeyload k i) s = .next u ∧
    ItemEnds s u k i stLocked false (vaultResult s 0x009 0 0) ∧ u.vault = s.vault ∧ u.krysa = s.krysa := by
  obtain ⟨-, hfind, -⟩ := id h
  refine ⟨_, exec_of_eq rfl (krKeyload_locked h hnew hwhy), itemEnds_of_open hfind _ _, finish_vault .., ?_⟩
  rw [finish_frame hfind]

variable (hrooted : lifecycle s = 1 ∨ lifecycle s = 2) (hcarnival : s.vault.carnival = false) {s1 : State} {b : Bytes}
  (hread : hostRead s (addrAt it.desc 0x10) 56 = (s1, .ok b))
include hrooted hcarnival hread

theorem keyloadBroken (hbroken : kwUnwrap it.hold b = none) : ∃ u, exec (.krKeyload k i) s = .next u ∧
    ItemEnds s u k i stAuthFail false (vaultResult s1 0x009 0 0) ∧ u.vault = s1.vault ∧ u.krysa = s.krysa := by
  obtain ⟨-, hfind, -⟩ := id h
  have hframe := MemFrame.pair hread (hostRead_memFrame s _ _ (.refl s))
  have hstep := krKeyload_reads h hnew hrooted hcarnival hread
  rw [hbroken] at hstep
  refine ⟨_, exec_of_eq rfl hstep, itemEnds_after hfind hframe.rings (itemFrame_of_memFrame hframe) _ _, finish_vault .., ?_⟩
  rw [finish_false_frame]
  exact hframe.krysa

theorem keyloadStages {p : Bytes} (hkey : kwUnwrap it.hold b = some p) (hattr : attrOk p 0 = true) (halg : leAt p 0 1 = 2) :
    ∃ u, exec (.krKeyload k i) s = .next u ∧
      VaultStaged s1 u k i it { attr := p.take 16, mat := p.drop 16, pgen := (it.keys.headD {}).gen } ∧
      u = { s1 with rings := u.rings, vault := { s1.vault with staged := u.vault.staged } } := by
  obtain ⟨-, hfind, -⟩ := id h
  obtain ⟨-, hidx, -⟩ := findItem_spec hfind
  have hstep := krKeyload_reads h hnew hrooted hcarnival hread
  have hok : (attrOk p 0 && decide (leAt p 0 1 = 2)) = true := by simp [hattr, halg]
  simp only [hkey, hok, if_true] at hstep
  exact ⟨_, exec_of_eq rfl hstep, onlyStaged_stageVault s1 k hidx _⟩

end

/-! ### KR_ASSIGN -/

section
variable (h : Open s k i 0x79 it) (hnone : s.krysa.assign = none)
include h hnone

theorem assignRefused {n : Nat} (hwhy : assignWhy s (leAt it.desc 8 4) (leAt it.desc 0x0C 4) (leAt it.desc 0x10 1 % 64) = n) (hn : n ≠ 0) :
    ∃ u, exec (.krAssign k i) s = .next u ∧ ItemEnds s u k i stLocked false (krResult s n) ∧ u.krysa = s.krysa := by
  obtain ⟨-, hfind, -⟩ := id h
  subst hwhy
  refine ⟨_, exec_of_eq rfl (krAssign_refused h hnone hn), itemEnds_of_open hfind _ _, ?_⟩
  rw [finish_frame hfind]

theorem assignProposes {ch : KChange} (hch : ch =
      { ver := s.krysa.mapver + 1, origin := unitNo s, kind := 1, dst := leAt it.desc 0x10 1 % 64, lo := leAt it.desc 8 4
        src := if covered s.krysa.map (leAt it.desc 8 4) (leAt it.desc 0x0C 4) (fun _ => true) = 0 then 0xFF else unitNo s
        hi := leAt it.desc 0x0C 4 })
    (hwhy : assignWhy s (leAt it.desc 8 4) (leAt it.desc 0x0C 4) (leAt it.desc 0x10 1 % 64) = 0) : ∃ u, exec (.krAssign k i) s = .next u ∧
      u.krysa = { s.krysa with assign := some (k.val, i, it.cal), seq := u.krysa.seq, prop := some ch } ∧
      (s.krysa.key.length = 32 → s.krysa.seq < 65536 → s.wedged 3 = false → ∃ m, u.outs = .krysa false m :: .krysa true m :: s.outs ∧
        beAt m 0 1 = 3 ∧ krOpen s.krysa.key m = some (changeBody ch)) ∧
      u = { s with krysa := u.krysa, outs := u.outs } := by
  obtain ⟨t, ht⟩ : ∃ t, t = s.modKr (fun x => { x with assign := some (k.val, i, it.cal) }) := ⟨_, rfl⟩
  have hunit : unitNo t = unitNo s := by rw [ht]; rfl
  have hver : ch.ver = t.krysa.mapver + 1 := by rw [hch, ht]; rfl
  have horigin : ch.origin = unitNo t := by rw [hch, hunit]
  have hfirst : ∀ q, t.krysa.prop = some q → unitNo t < q.origin := by
    rw [hunit, ht]
    exact ranks_of_assignWhy hwhy
  have hstep : krAssign s k i = (krSend t 3 (changeBody ch)).modKr (fun x => { x with prop := some ch }) := by
    rw [krAssign_proposes h hnone hwhy, ← ht, ← hch, propose_eq hver horigin hfirst]
  have hframe := krSend_frame t 3 (changeBody ch)
  refine ⟨_, exec_of_eq rfl hstep, ?_, fun hkey hseq hwedge => ?_, ?_⟩
  · rw [hframe, ht]
    rfl
  · have hkeyed : s.krysa.key ≠ [] := by
      intro hempty
      simp [hempty] at hkey
    have hsend := krSend_of_keyed (s := t) (by rw [ht]; exact hkeyed) (by rw [ht]; exact hseq) (by rw [ht]; exact hwedge) 3 (changeBody ch)
    rw [hsend, ht]
    refine ⟨_, rfl, ?_, krOpen_krMessage _ _ _ _ hkeyed (changeBody_length ch)⟩
    rw [beAt, sub_krMessage _ _ _ _ _ _ (by decide), krHeader_type, beN_toBe]
    rfl
  · rw [hframe, ht]
    rfl

end

theorem mapWritten {s1 : State} (h : Open s k i 0x7A it) (hwrite : hostWrite s (addrAt it.desc 8)
      (sub (s.krysa.map.flatMap (fun r => toLe 4 r.lo ++ toLe 4 r.hi ++ toLe 1 r.owner ++ zeros 3)) 0 3072) = (s1, true)) :
    ∃ u, exec (.krQuery k i) s = .next u ∧ ItemEnds s u k i stOK false (krResult s 0) ∧ u.dram = s1.dram ∧ u.krysa = s.krysa := by
  obtain ⟨hlive, hfind, -⟩ := id h
  have hframe := MemFrame.pair hwrite (hostWrite_memFrame s _ _ (.refl s))
  have hresult : krResult s1 0 = krResult s 0 := by simp only [krResult, hframe.krysa]
  have hstep : krQuery s k i = finish s1 k i stOK (krResult s 0) false := by
    simp only [krQuery, hlive, withItem_of_open h, hwrite, hresult, if_true, Bool.false_eq_true, if_false]
  refine ⟨_, exec_of_eq rfl hstep, itemEnds_after hfind hframe.rings (itemFrame_of_memFrame hframe) _ _, finish_dram .., ?_⟩
  rw [finish_false_frame]
  exact hframe.krysa

end

/-- Settles O52: a KR_KEYLOAD is one read and one staging, a KR_ASSIGN one refusal or one proposal, a KR_QUERY one write. -/
theorem ringCommandsComplete : Obligations.RingCommandsComplete := by
  unfold Obligations.RingCommandsComplete
  intro s k i it
  refine ⟨fun h hnew => ⟨keyloadLocked h hnew, fun s1 b hrooted hcarnival hread => ⟨keyloadBroken h hnew hrooted hcarnival hread,
    fun p => keyloadStages h hnew hrooted hcarnival hread⟩⟩, fun lo hi dst h hnone hlo hhi hdst => ?assign, fun s1 => mapWritten⟩
  subst hlo hhi hdst
  refine ⟨fun n => assignRefused h hnone, fun ch hch hwhy => ?_⟩
  obtain ⟨u, hexec, hkrysa, hsent, hframe⟩ := assignProposes h hnone hch hwhy
  rw [hch] at hsent
  exact ⟨u, hexec, hkrysa, hsent, hframe⟩

end Sys2Proof.Proofs
end

section
/-! PROOFS. What the oldest waiting message of the Krysa ring does to the agent, by its type, and the statement assembled from that
(R370, R436, R454, R455, R457, R460, R461, R463, R464). -/

namespace Sys2Proof.Machine

open Sys2Proof.Claims

/-- The oldest message is taken from those that wait. -/
def dequeued (s : State) (rest : List KMsg) : State := { s with krysa := { s.krysa with inbox := rest } }

theorem processMsg_of_next {s : State} {type : Nat} {x : KMsg} {rest : List KMsg} (h : NextMsg s type x rest) (f : State → KMsg → State) :
    processMsg s type f = f (dequeued s rest) x := by
  obtain ⟨⟨hrun, hon, hwedge⟩, hinbox, htype⟩ := h
  simp only [processMsg, hrun, hon, hwedge, hinbox, htype, Bool.not_true, Bool.or_self, Bool.false_eq_true, if_false, if_true]
  rfl

/-! ### A claim for the next lease (R457) -/

/-- What a claim, made or not, may change: counts and what is claimed, FLOOR, one event and the wire. -/
structure ClaimMade (s u : State) : Prop where
  frame : u = { s with
    krysa := { s.krysa with
      wanted := u.krysa.wanted, claim := u.krysa.claim, claimAck := u.krysa.claimAck, floor := u.krysa.floor, seq := u.krysa.seq }
    regs := u.regs, outs := u.outs }
  floor : s.krysa.floor ≤ u.krysa.floor
  claim : ∀ n c, u.krysa.claim = some (n, c) → s.krysa.claim = some (n, c) ∨ (n = nextLease s ∧ c = s.count)
  others : ∀ off, off ≠ 0x5304 → u.wr off = s.wr off

theorem krClaim_idle {s : State} (h : s.krysa.wanted = 0) : krClaim s = s := by
  simp only [krClaim, h, true_or, or_true, if_true]

theorem krClaim_made (s : State) : ClaimMade s (krClaim s) := by
  unfold krClaim
  dsimp only
  split
  · exact ⟨rfl, le_rfl, fun n c h => Or.inl h, fun _ _ => rfl⟩
  split
  · exact ⟨rfl, le_rfl, fun n c h => Or.inl h, fun off hoff => by rw [State.evt, putWr_wr, if_neg hoff]; rfl⟩
  · have hframe := krSend_frame (s.modKr (fun k => { k with claim := some (nextLease s, s.count), claimAck := [], floor := max k.floor (nextLease s) }))
      2 (toBe 4 (nextLease s))
    generalize krSend _ 2 (toBe 4 (nextLease s)) = u at *
    refine ⟨?_, ?_, fun n c h => Or.inr ?_, fun off _ => ?_⟩
    · rw [hframe]
      rfl
    · rw [hframe]
      exact le_max_left _ _
    · rw [hframe] at h
      have h : some (nextLease s, s.count) = some (n, c) := h
      simp only [Option.some.injEq, Prod.mk.injEq] at h
      exact ⟨h.1.symm, h.2.symm⟩
    · rw [hframe]
      rfl

/-- The next lease lies above FLOOR on the ring (R434). -/
theorem floor_lt_nextLease {s : State} (hon : ringOn s = true) : s.krysa.floor < nextLease s := by
  have hfloor : leaseFloor s = s.krysa.floor := by rw [leaseFloor, hon, if_pos rfl]
  rw [nextLease, hfloor]
  exact Nat.lt_succ_of_le (le_max_right _ _)

theorem promote_frame (s : State) : promote s = { s with jf := { s.jf with
    cur := (promote s).jf.cur, granted := (promote s).jf.granted, ahead := (promote s).jf.ahead } } := by
  unfold promote
  split <;> rfl

/-- A lease that is taken waits as an urgent record (R435, R436). -/
theorem takeLease_leaves {s : State} (hstate : s.jf.state ≠ 4) (n : Nat) : n ∈ (takeLease s n).jf.queuedLeases ∧
    (∃ r ∈ (takeLease s n).jf.queue, r.kind = 2 ∧ r.id = n ∧ r.urgent = true) ∧
    takeLease s n = { s with jf := (takeLease s n).jf, regs := (takeLease s n).regs } := by
  obtain ⟨t, ht⟩ : ∃ t, t = (if n ≥ 0x0FF00000 then s.evt 0x5304 2 else s).modJf (fun j =>
    { j with leaseTop := max j.leaseTop n, queuedLeases := j.queuedLeases ++ [n] }) := ⟨_, rfl⟩
  have htaken : takeLease s n = promote (t.jPut { kind := 2, id := n, data := leaseBody t n, urgent := true }) := by rw [ht]; rfl
  have htframe : t = { s with jf := t.jf, regs := t.regs } := by rw [ht]; split <;> rfl
  have htstate : t.jf.state ≠ 4 := by rw [ht]; split <;> exact hstate
  have htqueued : n ∈ t.jf.queuedLeases := by rw [ht]; split <;> exact List.mem_append_right _ List.mem_cons_self
  have hwaits := waiting_mem_jPut (s := t) (r := { kind := 2, id := n, data := leaseBody t n, urgent := true }) htstate (show (2 : Nat) ≠ 5 by decide)
  have hput := (jPut_queues (s := t) (r := { kind := 2, id := n, data := leaseBody t n, urgent := true }) htstate
    (show (2 : Nat) ≠ 5 by decide)).frame
  rw [htaken]
  generalize t.jPut { kind := 2, id := n, data := leaseBody t n, urgent := true } = p at *
  have hpromoted := promote_frame p
  have hqueue : (promote p).jf.queue = p.jf.queue := by rw [hpromoted]
  have hqueued : (promote p).jf.queuedLeases = t.jf.queuedLeases := by rw [hpromoted, hput]
  refine ⟨hqueued ▸ htqueued, ⟨_, hqueue ▸ hwaits, rfl, rfl, rfl⟩, ?_⟩
  rw [hpromoted, hput, htframe]

/-! ### A BEACON (R454, R455, R457, R460) -/

/-- The sender of a BEACON as this unit knows it from now on. -/
def heardFrom (s : State) (x : KMsg) : Peer :=
  { s.peer x.origin with
    heard := some s.count, beaconAt := almNow s, lease := true, links := beAt x.body 0 1 % 4, floor := beAt x.body 2 4
    mapver := beAt x.body 6 4, maporg := beAt x.body 10 1 }

/-- What a BEACON tells of its sender is known, before leases and claims are looked at. -/
def beaconTaken (s : State) (x : KMsg) : State :=
  { s with krysa := { s.krysa with
    peers := tins s.krysa.peers x.origin (heardFrom s x), floor := max s.krysa.floor (beAt x.body 2 4)
    sendMap := s.krysa.sendMap || (!recent s (s.peer x.origin).heard && decide (beAt x.body 6 4 < s.krysa.mapver))
    claimAck := match s.krysa.claim with
      | some (n, _) => if beAt x.body 2 4 ≥ n ∧ !s.krysa.claimAck.contains x.origin then x.origin :: s.krysa.claimAck else s.krysa.claimAck
      | none => s.krysa.claimAck } }

/-- The same where this unit claims no lease. -/
def beaconKnown (s : State) (x : KMsg) : State :=
  { s with krysa := { s.krysa with
    peers := tins s.krysa.peers x.origin (heardFrom s x), floor := max s.krysa.floor (beAt x.body 2 4)
    sendMap := s.krysa.sendMap || (!recent s (s.peer x.origin).heard && decide (beAt x.body 6 4 < s.krysa.mapver)) } }

theorem beaconTaken_unclaimed {s : State} (h : s.krysa.claim = none) (x : KMsg) : beaconTaken s x = beaconKnown s x := by
  simp only [beaconTaken, h, beaconKnown]

theorem onBeacon_eq (s : State) (x : KMsg) : onBeacon s x = krClaim (claimConfirm (wrapLease (beaconTaken s x))) := rfl

theorem claimConfirm_none {s : State} (h : s.krysa.claim = none) : claimConfirm s = s := by simp only [claimConfirm, h]

theorem claimConfirm_all {s : State} {n c : Nat} (hclaim : s.krysa.claim = some (n, c)) (hall : ∀ v ∈ liveOthers s, v ∈ s.krysa.claimAck) :
    claimConfirm s = takeLease (s.modKr (fun k => { k with claim := none, claimAck := [], wanted := k.wanted - 1 })) n := by
  have hconfirmed : (liveOthers s).all (fun u => s.krysa.claimAck.contains u) = true := by
    rw [List.all_eq_true]
    exact fun v hv => List.contains_iff_mem.mpr (hall v hv)
  simp only [claimConfirm, hclaim, hconfirmed, if_true]

/-- The sendings that the beacon of every live unit followed (R460). -/
def confirmedTimes (s : State) : List (Nat × Nat) :=
  if s.krysa.state ≠ 3 then [] else match s.krysa.sendFrom with
  | none => []
  | some f => s.alm.times.filter (fun p => decide (f ≤ p.2) &&
      decide (p.2 ≤ (liveOthers s).foldl (fun m u => min m (s.peer u).beaconAt) (almNow s)))

/-- The own lease renewed by a sending, where there is one (R460). -/
def leaseRenewed (s : State) (o : Option (Nat × Nat)) : State := { s with krysa := { s.krysa with
  leaseFrom := match o with | none => s.krysa.leaseFrom | some p => some (max (s.krysa.leaseFrom.getD 0) p.2) } }

theorem wrapLease_eq (s : State) : wrapLease s = leaseRenewed s (confirmedTimes s).head? := by
  by_cases hwrapped : s.krysa.state = 3
  · cases hfrom : s.krysa.sendFrom with
    | none =>
      simp only [wrapLease, confirmedTimes, hwrapped, hfrom, ne_eq, not_true_eq_false, if_false, List.head?_nil]
      rfl
    | some f =>
      simp only [wrapLease, confirmedTimes, hwrapped, hfrom, ne_eq, not_true_eq_false, if_false]
      generalize List.head? _ = o
      cases o <;> rfl
  · simp only [wrapLease, confirmedTimes, hwrapped, ne_eq, not_false_eq_true, if_true, List.head?_nil]
    rfl

/-- No member of a list brings the minimum below a bound that all keep. -/
theorem le_foldl_min (g : Nat → Nat) (l : List Nat) (a b : Nat) :
    b ≤ l.foldl (fun m u => min m (g u)) a ↔ b ≤ a ∧ ∀ v ∈ l, b ≤ g v := by
  induction l generalizing a with
  | nil => simp
  | cons v l ih => simp [ih, and_assoc]

theorem peer_beaconTaken (s : State) (x : KMsg) (v : Nat) :
    (beaconTaken s x).peer v = if v = x.origin then heardFrom s x else s.peer v := tget_tins ..

theorem liveOthers_beaconTaken (s : State) (x : KMsg) : liveOthers (beaconTaken s x) = liveOthers s := by
  have hothers : others (beaconTaken s x) = others s := rfl
  rw [liveOthers, liveOthers, hothers]
  refine List.filter_congr fun v _ => ?_
  rw [peer_beaconTaken]
  split
  case isTrue h => rw [h]; rfl
  case isFalse => rfl

/-- The sendings that count once this BEACON is known. -/
def timesWith (s : State) (x : KMsg) : List (Nat × Nat) :=
  if s.krysa.state ≠ 3 then [] else match s.krysa.sendFrom with
  | none => []
  | some f => s.alm.times.filter (fun p => decide (f ≤ p.2) && decide (p.2 ≤ almNow s) &&
      (liveOthers s).all (fun v => decide (p.2 ≤ if v = x.origin then almNow s else (s.peer v).beaconAt)))

theorem confirmedTimes_beaconTaken (s : State) (x : KMsg) : confirmedTimes (beaconTaken s x) = timesWith s x := by
  have hbound (p : Nat × Nat) : decide (p.2 ≤ (liveOthers (beaconTaken s x)).foldl (fun m u => min m ((beaconTaken s x).peer u).beaconAt)
      (almNow (beaconTaken s x))) = (decide (p.2 ≤ almNow s) &&
        (liveOthers s).all (fun v => decide (p.2 ≤ if v = x.origin then almNow s else (s.peer v).beaconAt))) := by
    have hnow : almNow (beaconTaken s x) = almNow s := rfl
    have hsent (v : Nat) : ((beaconTaken s x).peer v).beaconAt = if v = x.origin then almNow s else (s.peer v).beaconAt := by
      rw [peer_beaconTaken]
      split <;> rfl
    rw [Bool.eq_iff_iff, decide_eq_true_eq, le_foldl_min, liveOthers_beaconTaken, hnow]
    simp only [hsent, Bool.and_eq_true, decide_eq_true_eq, List.all_eq_true]
  simp only [confirmedTimes, timesWith, hbound, Bool.and_assoc]
  rfl

/-! ### A CLAIM (R457) -/

section
variable {s : State} {x : KMsg}

/-- FLOOR is raised to the lease that another unit claims. -/
def floorRaised (s : State) (m : Nat) : State := { s with krysa := { s.krysa with floor := max s.krysa.floor m } }

theorem onClaim_eq : onClaim s x = match (floorRaised s (beAt x.body 0 4)).krysa.claim with
    | some (n, _) => if beAt x.body 0 4 > n ∨ (beAt x.body 0 4 = n ∧ x.origin < unitNo s) then
        krClaim ((floorRaised s (beAt x.body 0 4)).modKr (fun k => { k with claim := none, claimAck := [] }))
      else floorRaised s (beAt x.body 0 4)
    | none => floorRaised s (beAt x.body 0 4) := rfl

theorem onClaim_alone (h : s.krysa.claim = none) : onClaim s x = floorRaised s (beAt x.body 0 4) := by
  have hclaim : (floorRaised s (beAt x.body 0 4)).krysa.claim = none := h
  rw [onClaim_eq, hclaim]

variable {n c : Nat} (h : s.krysa.claim = some (n, c))
include h

theorem onClaim_some : onClaim s x = if beAt x.body 0 4 > n ∨ (beAt x.body 0 4 = n ∧ x.origin < unitNo s) then
      krClaim ((floorRaised s (beAt x.body 0 4)).modKr (fun k => { k with claim := none, claimAck := [] }))
    else floorRaised s (beAt x.body 0 4) := by
  have hclaim : (floorRaised s (beAt x.body 0 4)).krysa.claim = some (n, c) := h
  rw [onClaim_eq, hclaim]

end

/-! ### A CHANGE (R461) -/

/-- The proposal held is this one. -/
def holding (s : State) (p : KChange) : State := { s with krysa := { s.krysa with prop := some p } }

section
variable {s : State} {p q : KChange}

theorem holdProp_other (h : p.ver ≠ s.krysa.mapver + 1) : holdProp s p = s := if_pos h

variable (hver : p.ver = s.krysa.mapver + 1)
include hver

theorem holdProp_first (h : s.krysa.prop = none) : holdProp s p = holding s p := by
  simp only [holdProp, hver, h, ne_eq, not_true_eq_false, if_false]
  rfl

theorem holdProp_behind (h : s.krysa.prop = some q) (hrank : q.origin ≤ p.origin) : holdProp s p = s := by
  simp only [holdProp, hver, h, ne_eq, not_true_eq_false, if_false, if_neg (Nat.not_lt.mpr hrank)]

theorem holdProp_before (h : s.krysa.prop = some q) (hrank : p.origin < q.origin) : holdProp s p =
    if q.origin = unitNo (holding s p) ∧ q.kind = 1 then assignDone (holding s p) stLocked 3 else holding s p := by
  simp only [holdProp, hver, h, ne_eq, not_true_eq_false, if_false, if_pos hrank]
  rfl

end

theorem assignDone_none {s : State} (h : s.krysa.assign = none) (st aux : Nat) : assignDone s st aux = s := by simp only [assignDone, h]

/-- No KR_ASSIGN waits any more. -/
def unassigned (s : State) : State := { s with krysa := { s.krysa with assign := none } }

theorem assignDone_some {s : State} {k i cal : Nat} (h : s.krysa.assign = some (k, i, cal)) (st aux : Nat) :
    assignDone s st aux = finish (unassigned s) k i st (krResult s aux) false := by
  simp only [assignDone, h]
  rfl

/-! ### An ENTRY (R370, R463, R464) -/

/-- The move under way that an entry belongs to. -/
def movesEntry (src : Nat) (e : AlmEntry) (m : KMove) : Bool :=
  decide (m.src = src) && !m.ended && decide (m.lo ≤ e.node) && decide (e.node ≤ m.hi)

/-- An entry as it is placed at the unit it moves to. -/
def movedEntry (s : State) (src : Nat) (e : AlmEntry) (m : KMove) : AlmEntry :=
  { e with
    refTime := (m.since + 2 ^ 64 - e.refTime) % 2 ^ 64, owner := src, present := true, jitter := min 65535 (e.jitter + transitUs s) }

section
variable {s : State} {src : Nat} {b : Bytes}

theorem placeEntry_stray (h : s.krysa.movesIn.find? (movesEntry src (almOfBytes b)) = none) : placeEntry s src b = s := by
  unfold movesEntry at h
  simp only [placeEntry, h]

theorem placeEntry_moved {m : KMove} {j : Nat} (h : s.krysa.movesIn.find? (movesEntry src (almOfBytes b)) = some m)
    (hindex : almIndex s (almOfBytes b).node = some j) : placeEntry s src b =
      (almWrite s j (movedEntry s src (almOfBytes b) m)).modKr (fun k => { k with hoRecv := k.hoRecv + 1 }) := by
  unfold movesEntry at h
  simp only [placeEntry, h, hindex]
  rfl

end

/-- The entry last written heads the cache. -/
theorem almCache_head (s : State) (c : AlmCached) : ∃ l, (almCache s c).alm.cache = c :: l := ⟨_, rfl⟩

/-- What is written to the Almanac stands dirty in its cache. -/
theorem almWrite_cached {s : State} (hwedge : s.wedged 0 = false) (j : Nat) (e : AlmEntry) :
    ∃ c ∈ (almWrite s j e).alm.cache, c.idx = j ∧ c.dirty = true ∧ c.data = ({ e with snapDirty := e.present } : AlmEntry).bytes := by
  obtain ⟨d, hd⟩ : ∃ d, d = ({ e with snapDirty := e.present } : AlmEntry).bytes := ⟨_, rfl⟩
  have hcache : (almWrite s j e).alm.cache = (almCache s { idx := j, data := d, dirty := true }).alm.cache := by
    rw [almWrite, hwedge, if_neg (by decide), hd]
    dsimp only [State.modAlm]
    split <;> rfl
  obtain ⟨l, hl⟩ := almCache_head s { idx := j, data := d, dirty := true }
  exact ⟨{ idx := j, data := d, dirty := true }, by rw [hcache, hl]; exact List.mem_cons_self, rfl, rfl, hd⟩

/-- One entry of 32 bytes behind the count and a reserved byte. -/
theorem entries_of_one {x : KMsg} (hone : beAt x.body 0 1 = 1) (hlen : x.body.length = 34) :
    (chunks 32 (x.body.drop 2)).take (min 31 (beAt x.body 0 1)) = [x.body.drop 2] := by
  have hrest : (x.body.drop 2).length = 32 := by rw [List.length_drop, hlen]
  have hsome : (x.body.drop 2).isEmpty = false := by
    rw [List.isEmpty_eq_false_iff, ← List.length_pos_iff, hrest]
    decide
  have htake : (x.body.drop 2).take 32 = x.body.drop 2 := List.take_of_length_le (Nat.le_of_eq hrest)
  have hdrop : (x.body.drop 2).drop 32 = [] := List.drop_eq_nil_of_le (Nat.le_of_eq hrest)
  rw [hone, chunks, hrest, chunksAux, hsome, htake, hdrop]
  rfl

theorem onEntry_one {s : State} {x : KMsg} (hone : beAt x.body 0 1 = 1) (hlen : x.body.length = 34) :
    onEntry s x = placeEntry s x.origin (x.body.drop 2) := by
  rw [onEntry, entries_of_one hone hlen]
  rfl

/-! ### A MAP (R454) -/

/-- The ranges that a MAP carries. -/
def mapRanges (x : KMsg) : List KRange :=
  ((chunks 9 (x.body.drop 6)).take (beAt x.body 1 1)).map (fun r => { lo := beAt r 0 4, hi := beAt r 4 4, owner := beAt r 8 1 })

section
variable {s : State} {x : KMsg}

theorem onMap_newer (hfirst : beAt x.body 0 1 = 0) (hnewer : s.krysa.mapver < beAt x.body 2 4)
    (hprop : ∀ p, s.krysa.prop = some p → p.ver ≠ beAt x.body 2 4) : onMap s x = { s with krysa := { s.krysa with
      map := mapRanges x, mapver := beAt x.body 2 4, maporg := x.origin, prop := none, sendMap := true } } := by
  have hother : (match s.krysa.prop with | some p => decide (p.ver = beAt x.body 2 4) | none => false) = false := by
    cases hheld : s.krysa.prop with
    | none => rfl
    | some p => simpa using hprop p hheld
  unfold onMap
  dsimp only
  rw [if_pos]
  · rfl
  · exact ⟨hfirst, hnewer, by rw [Bool.not_eq_true']; exact hother⟩

theorem onMap_later (hlater : beAt x.body 0 1 ≠ 0) (hver : beAt x.body 2 4 = s.krysa.mapver) (hnext : beAt x.body 0 1 = s.krysa.map.length) :
    onMap s x = { s with krysa := { s.krysa with map := s.krysa.map ++ mapRanges x, sendMap := true } } := by
  unfold onMap
  dsimp only
  rw [if_neg (fun h => hlater h.1), if_pos ⟨hlater, hver, hnext⟩]
  rfl

theorem onMap_stale (hold : beAt x.body 2 4 ≤ s.krysa.mapver)
    (hother : beAt x.body 0 1 = 0 ∨ beAt x.body 2 4 ≠ s.krysa.mapver ∨ beAt x.body 0 1 ≠ s.krysa.map.length) : onMap s x = s := by
  unfold onMap
  dsimp only
  rw [if_neg (fun h => absurd h.2.1 (Nat.not_lt.mpr hold)), if_neg]
  rintro ⟨hlater, hver, hnext⟩
  tauto

end

end Sys2Proof.Machine

namespace Sys2Proof.Proofs

open Sys2Proof.Machine Sys2Proof.Claims

section
variable {s : State} {x : KMsg} {rest : List KMsg}

/-! ### BEACON -/

section
variable (h : NextMsg s 1 x rest)
include h

theorem beaconIsKnown (hclaim : s.krysa.claim = none) (hwanted : s.krysa.wanted = 0) :
    exec .beacon s = .next (leaseRenewed (beaconKnown (dequeued s rest) x) (timesWith s x).head?) := by
  have hno : (leaseRenewed (beaconKnown (dequeued s rest) x) (timesWith (dequeued s rest) x).head?).krysa.claim = none := hclaim
  have hwants : (leaseRenewed (beaconKnown (dequeued s rest) x) (timesWith (dequeued s rest) x).head?).krysa.wanted = 0 := hwanted
  refine exec_of_eq rfl ?_
  rw [processMsg_of_next h, onBeacon_eq, wrapLease_eq, confirmedTimes_beaconTaken, beaconTaken_unclaimed (s := dequeued s rest) hclaim,
    claimConfirm_none hno, krClaim_idle hwants]
  rfl

theorem beaconConfirms {n c : Nat} (hclaim : s.krysa.claim = some (n, c)) (hwanted : s.krysa.wanted = 1) (hfloor : n ≤ beAt x.body 2 4)
    (hstate : s.jf.state = 1 ∨ s.jf.state = 2) (hall : ∀ v ∈ liveOthers s, v = x.origin ∨ v ∈ s.krysa.claimAck) :
    ∃ u, exec .beacon s = .next u ∧ u.krysa.claim = none ∧ u.krysa.wanted = 0 ∧ (u.peer x.origin).heard = some s.count ∧
      n ∈ u.jf.queuedLeases ∧ (∃ r ∈ u.jf.queue, r.kind = 2 ∧ r.id = n ∧ r.urgent = true) ∧
      u = { s with krysa := u.krysa, jf := u.jf, regs := u.regs } := by
  obtain ⟨b, hb⟩ : ∃ b, b = wrapLease (beaconTaken (dequeued s rest) x) := ⟨_, rfl⟩
  have hbframe : b = { s with krysa := b.krysa } := by rw [hb, wrapLease_eq]; rfl
  have hbclaim : b.krysa.claim = some (n, c) := by rw [hb, wrapLease_eq]; exact hclaim
  have hbwanted : b.krysa.wanted = 1 := by rw [hb, wrapLease_eq]; exact hwanted
  have hbpeer : b.peer x.origin = heardFrom (dequeued s rest) x := by
    rw [hb, wrapLease_eq]
    exact (peer_beaconTaken (dequeued s rest) x x.origin).trans (if_pos rfl)
  have hlive : liveOthers b = liveOthers s := by
    rw [hb, wrapLease_eq]
    exact liveOthers_beaconTaken (dequeued s rest) x
  have hacks : b.krysa.claimAck = if beAt x.body 2 4 ≥ n ∧ !s.krysa.claimAck.contains x.origin then x.origin :: s.krysa.claimAck
      else s.krysa.claimAck := by
    rw [hb, wrapLease_eq]
    show (match s.krysa.claim with
      | some (n, _) => if beAt x.body 2 4 ≥ n ∧ !s.krysa.claimAck.contains x.origin then x.origin :: s.krysa.claimAck else s.krysa.claimAck
      | none => s.krysa.claimAck) = _
    rw [hclaim]
  have hconfirmed : ∀ v ∈ liveOthers b, v ∈ b.krysa.claimAck := by
    intro v hv
    rw [hacks]
    have hv := hall v (hlive ▸ hv)
    split
    case isTrue => exact hv.elim (fun h => h ▸ List.mem_cons_self) (List.mem_cons_of_mem _)
    case isFalse hknown =>
      refine hv.elim (fun h => h ▸ ?_) (fun h => h)
      have hacked : s.krysa.claimAck.contains x.origin = true := by
        by_contra hnot
        exact hknown ⟨hfloor, by simpa using hnot⟩
      exact List.contains_iff_mem.mp hacked
  obtain ⟨t, ht⟩ : ∃ t, t = b.modKr (fun k => { k with claim := none, claimAck := [], wanted := k.wanted - 1 }) := ⟨_, rfl⟩
  have htstate : t.jf.state ≠ 4 := by
    rw [ht, hbframe]
    show s.jf.state ≠ 4
    omega
  obtain ⟨hqueued, hwaits, hframe⟩ := takeLease_leaves htstate n
  have hkrysa : (takeLease t n).krysa = t.krysa := by rw [hframe]
  have htwanted : t.krysa.wanted = 0 := by
    rw [ht]
    show b.krysa.wanted - 1 = 0
    omega
  have hstep : processMsg s 1 onBeacon = takeLease t n := by
    rw [processMsg_of_next h, onBeacon_eq, ← hb, claimConfirm_all hbclaim hconfirmed, ← ht, krClaim_idle (by rw [hkrysa, htwanted])]
  refine ⟨_, exec_of_eq rfl hstep, ?_, by rw [hkrysa, htwanted], ?_, hqueued, hwaits, ?_⟩
  · rw [hkrysa, ht]
    rfl
  · have hpeers : (takeLease t n).krysa.peers = b.krysa.peers := by rw [hkrysa, ht]; rfl
    rw [State.peer, hpeers]
    exact congrArg Peer.heard hbpeer
  · rw [hframe, ht, hbframe]
    rfl

end

/-! ### CLAIM -/

section
variable (h : NextMsg s 2 x rest)
include h

theorem claimAlone (hclaim : s.krysa.claim = none) : exec .claim s = .next (floorRaised (dequeued s rest) (beAt x.body 0 4)) :=
  exec_of_eq rfl ((processMsg_of_next h _).trans (onClaim_alone (s := dequeued s rest) hclaim))

variable {n c : Nat} (hclaim : s.krysa.claim = some (n, c))
include hclaim

theorem claimStands (hbehind : beAt x.body 0 4 < n ∨ (beAt x.body 0 4 = n ∧ unitNo s ≤ x.origin)) :
    exec .claim s = .next (floorRaised (dequeued s rest) (beAt x.body 0 4)) := by
  have hstands : ¬ (beAt x.body 0 4 > n ∨ (beAt x.body 0 4 = n ∧ x.origin < unitNo (dequeued s rest))) := by
    have hunit : unitNo (dequeued s rest) = unitNo s := rfl
    omega
  exact exec_of_eq rfl ((processMsg_of_next h _).trans ((onClaim_some (s := dequeued s rest) hclaim).trans (if_neg hstands)))

theorem claimVoided (hbefore : n < beAt x.body 0 4 ∨ (beAt x.body 0 4 = n ∧ x.origin < unitNo s)) : ∃ u, exec .claim s = .next u ∧
    beAt x.body 0 4 ≤ u.krysa.floor ∧ u.krysa.inbox = rest ∧
    (∀ n' c', u.krysa.claim = some (n', c') → beAt x.body 0 4 < n' ∧ c' = s.count) ∧
    u = { s with krysa := u.krysa, regs := u.regs, outs := u.outs } := by
  obtain ⟨t, ht⟩ : ∃ t, t = (floorRaised (dequeued s rest) (beAt x.body 0 4)).modKr (fun k => { k with claim := none, claimAck := [] }) :=
    ⟨_, rfl⟩
  have hstep : processMsg s 2 onClaim = krClaim t := by
    rw [processMsg_of_next h, onClaim_some (s := dequeued s rest) hclaim, if_pos (by exact hbefore), ht]
  obtain ⟨⟨-, hon, -⟩, -⟩ := h
  obtain ⟨hframe, hfloor, hclaimed, -⟩ := krClaim_made t
  have hraised : beAt x.body 0 4 ≤ t.krysa.floor := by rw [ht]; exact le_max_right _ _
  have hnext : t.krysa.floor < nextLease t := floor_lt_nextLease (by rw [ht]; exact hon)
  have hcount : t.count = s.count := by rw [ht]; rfl
  have hframed : t = { s with krysa := t.krysa } := by rw [ht]; rfl
  have hinbox : t.krysa.inbox = rest := by rw [ht]; rfl
  refine ⟨_, exec_of_eq rfl hstep, hraised.trans hfloor, ?_, fun n' c' hnew => ?_, ?_⟩
  · rw [hframe, hinbox]
  · obtain hold | ⟨rfl, rfl⟩ := hclaimed n' c' hnew
    · have hnone : t.krysa.claim = none := by rw [ht]; rfl
      rw [hnone] at hold
      exact absurd hold (by simp)
    · exact ⟨hraised.trans_lt hnext, hcount⟩
  · rw [hframe, hframed]

end

/-! ### CHANGE -/

/-- The change that a CHANGE message proposes. -/
def proposed (x : KMsg) : KChange :=
  { ver := beAt x.body 0 4, origin := x.origin, kind := beAt x.body 4 1, dst := beAt x.body 5 1, src := beAt x.body 6 1
    lo := beAt x.body 8 4, hi := beAt x.body 12 4 }

section
variable (h : NextMsg s 3 x rest)
include h

theorem exec_change {u : State} (hu : holdProp (dequeued s rest) (proposed x) = u) : exec .change s = .next u :=
  exec_of_eq rfl ((processMsg_of_next h _).trans hu)

variable {q : KChange} (hver : (proposed x).ver = s.krysa.mapver + 1) (hheld : s.krysa.prop = some q)
  (hrank : (proposed x).origin < q.origin)
include hver hheld hrank

theorem changeHeld (hassign : s.krysa.assign = none) : exec .change s = .next (holding (dequeued s rest) (proposed x)) := by
  refine exec_change h ?_
  rw [holdProp_before (s := dequeued s rest) hver hheld hrank]
  split
  · exact assignDone_none (s := holding (dequeued s rest) (proposed x)) hassign _ _
  · rfl

theorem assignGivesWay {k i cal : Nat} (hown : q.origin = unitNo s) (hkind : q.kind = 1) (hassign : s.krysa.assign = some (k, i, cal))
    (hopen : (findItem s k i).isSome = true) : ∃ u, exec .change s = .next u ∧
      u.krysa = { s.krysa with inbox := rest, prop := some (proposed x), assign := none } ∧ Ended u k i stLocked false (krResult s 3) := by
  obtain ⟨it, hfind⟩ := Option.isSome_iff_exists.mp hopen
  have hstep : holdProp (dequeued s rest) (proposed x) =
      finish (unassigned (holding (dequeued s rest) (proposed x))) k i stLocked (krResult s 3) false := by
    have hresult : krResult (holding (dequeued s rest) (proposed x)) 3 = krResult s 3 := rfl
    rw [holdProp_before (s := dequeued s rest) hver hheld hrank, if_pos ⟨hown, hkind⟩, ← hresult]
    exact assignDone_some (s := holding (dequeued s rest) (proposed x)) hassign _ _
  have hfound : findItem (unassigned (holding (dequeued s rest) (proposed x))) k i = some it := (findItem_of_rings rfl k i).trans hfind
  refine ⟨_, exec_change h hstep, ?_, ended_of_open hfound _ _⟩
  rw [finish_false_frame]
  rfl

end

/-! ### ENTRY -/

section
variable (h : NextMsg s 4 x rest) (hone : beAt x.body 0 1 = 1) (hlen : x.body.length = 34)
include h hone hlen

theorem entryStray (hstray : s.krysa.movesIn.find? (movesEntry x.origin (almOfBytes (x.body.drop 2))) = none) :
    exec .entry s = .next (dequeued s rest) :=
  exec_of_eq rfl ((processMsg_of_next h _).trans ((onEntry_one hone hlen).trans (placeEntry_stray hstray)))

theorem entryPlaced {m : KMove} {j : Nat} (hmove : s.krysa.movesIn.find? (movesEntry x.origin (almOfBytes (x.body.drop 2))) = some m)
    (hindex : almIndex s (almOfBytes (x.body.drop 2)).node = some j) (hwedge : s.wedged 0 = false) : ∃ u, exec .entry s = .next u ∧
      u.krysa = { s.krysa with inbox := rest, hoRecv := s.krysa.hoRecv + 1 } ∧ ∃ c ∈ u.alm.cache, c.idx = j ∧ c.dirty = true ∧
        c.data = ({ movedEntry s x.origin (almOfBytes (x.body.drop 2)) m with snapDirty := true } : AlmEntry).bytes := by
  obtain ⟨w, hw⟩ : ∃ w, w = almWrite (dequeued s rest) j (movedEntry s x.origin (almOfBytes (x.body.drop 2)) m) := ⟨_, rfl⟩
  have hstep : processMsg s 4 onEntry = w.modKr (fun k => { k with hoRecv := k.hoRecv + 1 }) := by
    rw [processMsg_of_next h, onEntry_one hone hlen, placeEntry_moved (s := dequeued s rest) hmove hindex, hw]
    rfl
  have hkrysa : w.krysa = (dequeued s rest).krysa := by rw [hw, frame_of_besideAlm (almWrite_besideAlm _ _ _)]
  obtain ⟨c, hc, hidx, hdirty, hdata⟩ := almWrite_cached (s := dequeued s rest) hwedge j (movedEntry s x.origin (almOfBytes (x.body.drop 2)) m)
  rw [← hw] at hc
  refine ⟨_, exec_of_eq rfl hstep, ?_, c, hc, hidx, hdirty, hdata⟩
  show ({ w.krysa with hoRecv := w.krysa.hoRecv + 1 } : Krysa) = _
  rw [hkrysa]
  rfl

end

end

/-- Settles O53: each message is what its own function makes of the agent once it is taken from those that wait. -/
theorem ringMessagesAreProcessed : Obligations.RingMessagesAreProcessed := by
  unfold Obligations.RingMessagesAreProcessed
  intro s x rest me hme
  subst hme
  refine ⟨fun h => ⟨fun l hclaim hwanted hl => ?beacon, fun n c hclaim hwanted hfloor hstate hall =>
      beaconConfirms h hclaim hwanted hfloor hstate hall⟩,
    fun m h hm => ?claim, fun p h hp => ?change, fun h hone hlen e he f hf => ?entry, fun h => exec_of_eq rfl (processMsg_of_next h _),
    fun rs h hrs => ?map⟩
  case beacon =>
    subst hl
    exact beaconIsKnown h hclaim hwanted
  case claim =>
    subst hm
    exact ⟨claimAlone h, fun n c hclaim => ⟨claimStands h hclaim, claimVoided h hclaim⟩⟩
  case change =>
    obtain rfl : p = proposed x := hp
    exact ⟨fun hother => exec_change h (holdProp_other hother), fun hver hnone => exec_change h (holdProp_first hver hnone),
      fun q hver hheld => ⟨fun hrank => exec_change h (holdProp_behind (s := dequeued s rest) hver hheld hrank),
        changeHeld h hver hheld, fun k i cal hrank hown hkind hassign hopen =>
          assignGivesWay h hver hheld hrank hown hkind hassign hopen⟩⟩
  case entry =>
    subst he hf
    exact ⟨entryStray h hone hlen, fun m j hmove hindex hwedge => entryPlaced h hone hlen hmove hindex hwedge⟩
  case map =>
    subst hrs
    exact ⟨fun hfirst hnewer hprop => exec_of_eq rfl ((processMsg_of_next h _).trans (onMap_newer (s := dequeued s rest) hfirst hnewer hprop)),
      fun hlater hver hnext => exec_of_eq rfl ((processMsg_of_next h _).trans (onMap_later (s := dequeued s rest) hlater hver hnext)),
      fun hold hother => exec_of_eq rfl ((processMsg_of_next h _).trans (onMap_stale (s := dequeued s rest) hold hother))⟩

end Sys2Proof.Proofs
end

section
/-! PROOFS. What a frame that arrives at a port of the Krysa ring does, what ports, claims and leases do in time, and the statement
assembled from that (R450 to R453, R455, R457, R460). -/

namespace Sys2Proof.Machine

open Sys2Proof.Claims

/-! ### A frame at a port (R453) -/

/-- What has left the block once a message was forwarded, where it goes on. -/
def forwardedOuts (s : State) (east : Bool) (m : Bytes) : List Out :=
  if beAt m 1 1 = unitNo s ∨ krCount s - 1 ≤ beAt m 2 1 ∨ portUp s (!east) = false then s.outs
  else .krysa (!east) (overlay m 2 (toBe 1 (beAt m 2 1 + 1))) :: s.outs

/-- The state once a message was forwarded. -/
def forwarded (s : State) (east : Bool) (m : Bytes) : State := { s with outs := forwardedOuts s east m }

theorem krForward_eq (s : State) (east : Bool) (m : Bytes) : krForward s east m = forwarded s east m := by
  have hgoes : (beAt m 1 1 = unitNo s ∨ beAt m 2 1 ≥ krCount s - 1 ∨ (!portUp s (!east)) = true) ↔
      (beAt m 1 1 = unitNo s ∨ krCount s - 1 ≤ beAt m 2 1 ∨ portUp s (!east) = false) := by
    rw [Bool.not_eq_true', ge_iff_le]
  unfold krForward forwarded forwardedOuts
  dsimp only
  by_cases h : beAt m 1 1 = unitNo s ∨ krCount s - 1 ≤ beAt m 2 1 ∨ portUp s (!east) = false
  · rw [if_pos (hgoes.mpr h), if_pos h]
  · rw [if_neg (fun h' => h (hgoes.mp h')), if_neg h]
    rfl

/-- The port was heard at this count. -/
def heardAt (s : State) (east : Bool) : State := { s with krysa := { s.krysa with
  eastHeard := if east then some s.count else s.krysa.eastHeard, westHeard := if east then s.krysa.westHeard else some s.count } }

/-- A new message is noted at its sender and, of a TYPE that the ring defines, waits for processing. -/
def noted (s : State) (m body : Bytes) : State := { s with krysa := { s.krysa with
  peers := tins s.krysa.peers (beAt m 1 1) { s.peer (beAt m 1 1) with last := some (beAt m 6 6, beAt m 12 2) }
  inbox := if 1 ≤ beAt m 0 1 ∧ beAt m 0 1 ≤ 6 then
      s.krysa.inbox ++ [{ type := beAt m 0 1, origin := beAt m 1 1, cal := beAt m 6 6, body := body }] else s.krysa.inbox } }

/-- What a message that authenticated does: the own BEACON back, a duplicate, or a new one for processing. -/
def authenticated (s : State) (m body : Bytes) : State :=
  if beAt m 1 1 = unitNo s then (if beAt m 0 1 = 1 then beaconReturned s (beAt m 6 6) else s)
  else if beAt m 1 1 ≥ krCount s then s
  else if (match (s.peer (beAt m 1 1)).last with
      | some l => decide (beAt m 6 6 < l.1) || (decide (beAt m 6 6 = l.1) && decide (beAt m 12 2 ≤ l.2))
      | none => false) then s
  else noted s m body

section
variable {s : State} (h : Agent s) (east : Bool) (m : Bytes)
include h

theorem ringMessage_damaged : ringMessage s east m false = s.inc 0x3981C 31 16 := by
  obtain ⟨hrun, hon, hwedge⟩ := h
  simp only [ringMessage, hrun, hon, hwedge, Bool.not_true, Bool.or_self, Bool.false_eq_true, if_false, Bool.not_false, if_true]

theorem ringMessage_forged (hkey : krOpen s.krysa.key m = none) (hold : krOpen s.krysa.oldKey m = none) :
    ringMessage s east m true = ((forwarded s east m).inc 0x3981C 15 0).evt 0x5804 7 := by
  have hclosed : (krOpen (forwarded s east m).krysa.key m).orElse (fun _ => krOpen (forwarded s east m).krysa.oldKey m) = none := by
    show (krOpen s.krysa.key m).orElse (fun _ => krOpen s.krysa.oldKey m) = none
    rw [hkey, hold]
    rfl
  obtain ⟨hrun, hon, hwedge⟩ := h
  simp only [ringMessage, hrun, hon, hwedge, Bool.not_true, Bool.or_self, Bool.false_eq_true, if_false, krForward_eq, hclosed]

theorem ringMessage_opens {b : Bytes} (hopens : (krOpen s.krysa.key m).orElse (fun _ => krOpen s.krysa.oldKey m) = some b) :
    ringMessage s east m true = authenticated (heardAt (forwarded s east m) east) m b := by
  have hopened : (krOpen (forwarded s east m).krysa.key m).orElse (fun _ => krOpen (forwarded s east m).krysa.oldKey m) = some b := hopens
  obtain ⟨hrun, hon, hwedge⟩ := h
  simp only [ringMessage, hrun, hon, hwedge, Bool.not_true, Bool.or_self, Bool.false_eq_true, if_false, krForward_eq, hopened]
  cases east <;> rfl

end

/-! ### The own BEACON back (R455, R460) -/

section
variable (s : State) (cal : Nat)

/-- The round trip of the own BEACON is known. -/
def roundTrip : State :=
  if cal > s.krysa.backCal then
    { s with krysa := { s.krysa with backCal := cal, rtt := (s.count - cal) * s.perEc + s.tick.t } }
  else s

theorem roundTrip_frame : roundTrip s cal = { s with krysa := { s.krysa with
    backCal := (roundTrip s cal).krysa.backCal, rtt := (roundTrip s cal).krysa.rtt } } := by
  unfold roundTrip
  split <;> rfl

theorem beaconReturned_eq : beaconReturned s cal = match s.alm.times.find? (fun p => decide (p.1 = cal)) with
    | some p => (roundTrip s cal).modKr (fun k => { k with leaseFrom := some (max (k.leaseFrom.getD 0) p.2) })
    | none => roundTrip s cal := by
  have htimes : (roundTrip s cal).alm.times = s.alm.times := by rw [roundTrip_frame]
  rw [← htimes]
  rfl

theorem beaconReturned_frame : beaconReturned s cal = { s with krysa := { s.krysa with
    backCal := (beaconReturned s cal).krysa.backCal, rtt := (beaconReturned s cal).krysa.rtt
    leaseFrom := (beaconReturned s cal).krysa.leaseFrom } } := by
  have hframe := roundTrip_frame s cal
  rw [beaconReturned_eq]
  generalize roundTrip s cal = t at *
  split
  · rw [hframe]
    rfl
  · rw [hframe]

variable {s cal}

theorem beaconReturned_rtt (h : s.krysa.backCal < cal) : (beaconReturned s cal).krysa.rtt = (s.count - cal) * s.perEc + s.tick.t := by
  have hrtt : (roundTrip s cal).krysa.rtt = (s.count - cal) * s.perEc + s.tick.t := by rw [roundTrip, if_pos h]
  rw [beaconReturned_eq, ← hrtt]
  split <;> rfl

theorem beaconReturned_lease {a : Nat} (h : s.alm.times.find? (fun p => decide (p.1 = cal)) = some (cal, a)) :
    (beaconReturned s cal).krysa.leaseFrom = some (max (s.krysa.leaseFrom.getD 0) a) := by
  have hkept : (roundTrip s cal).krysa.leaseFrom = s.krysa.leaseFrom := by rw [roundTrip_frame]
  rw [beaconReturned_eq, h, ← hkept]
  rfl

end

/-! ### Claims that time out (R457) -/

/-- The claim of a lease is given up. -/
def claimVoid (s : State) : State := (s.modKr (fun k => { k with claim := none, claimAck := [] })).evt 0x5804 6

theorem claimTimeout_due {s : State} (hrun : s.halted = false) (hwedge : s.wedged 3 = false) {n c : Nat} (hclaim : s.krysa.claim = some (n, c))
    (hdue : 64 ≤ s.count - c) : claimTimeout s = krClaim (claimVoid s) := by
  simp only [claimTimeout, hclaim, hrun, hwedge, Nat.not_lt.mpr hdue, decide_false, Bool.or_self, Bool.false_eq_true, if_false]
  rfl

theorem claimTimeout_early {s : State} {n c : Nat} (hclaim : s.krysa.claim = some (n, c)) (hearly : s.count - c < 64) : claimTimeout s = s := by
  simp only [claimTimeout, hclaim, decide_eq_true hearly, Bool.or_true, if_true]

/-! ### Leases that run out (R460) -/

/-- The lease of one unit ends where it has run out. -/
def expirePeer (s : State) (u : Nat) : State :=
  if (s.peer u).lease && leaseOut s u then s.modPeer u (fun p => { p with lease := false }) else s

/-- The own lease ends where it has run out. -/
def expireOwn (s : State) : State := if ownLease s then s else s.modKr (fun k => { k with leaseFrom := none })

theorem leaseExpiry_eq {s : State} (hup : s.boot.inReset = false) (hawake : s.boot.asleep = false) :
    leaseExpiry s = (others (expireOwn s)).foldl expirePeer (expireOwn s) := by
  simp only [leaseExpiry, hup, hawake, Bool.or_self, Bool.false_eq_true, if_false]
  rfl

/-- What the end of leases leaves: units whose lease still holds, and all but what is known of units. -/
structure Expires (s u : State) : Prop where
  frame : u = { s with krysa := { s.krysa with peers := u.krysa.peers } }
  out : ∀ v, leaseOut u v = leaseOut s v
  held : ∀ v, leaseOut s v = false → u.peer v = s.peer v
  ended : ∀ v, (s.peer v).lease = false → (u.peer v).lease = false

theorem Expires.refl (s : State) : Expires s s := ⟨rfl, fun _ => rfl, fun _ _ => rfl, fun _ h => h⟩

theorem Expires.trans {s t u : State} (h : Expires s t) (k : Expires t u) : Expires s u :=
  ⟨by rw [k.frame, h.frame], fun v => (k.out v).trans (h.out v),
    fun v hv => (k.held v ((h.out v).trans hv)).trans (h.held v hv), fun v hv => k.ended v (h.ended v hv)⟩

theorem expirePeer_expires (s : State) (w : Nat) : Expires s (expirePeer s w) := by
  unfold expirePeer
  split
  case isFalse => exact Expires.refl s
  case isTrue h =>
    simp only [Bool.and_eq_true] at h
    have hpeer (v : Nat) := modPeer_peer s w (fun p => { p with lease := false }) v
    refine ⟨rfl, fun v => ?_, fun v hv => ?_, fun v hv => ?_⟩
    · have hnow : almNow (s.modPeer w (fun p => { p with lease := false })) = almNow s := rfl
      by_cases hvw : v = w
      · subst hvw
        rw [h.2, leaseOut, hpeer, if_pos rfl]
        rfl
      · rw [leaseOut, leaseOut, hpeer, if_neg hvw, hnow]
    · rw [hpeer, if_neg]
      rintro rfl
      simp [h.2] at hv
    · rw [hpeer]
      split
      · rfl
      · exact hv

theorem expirePeer_ended {s : State} {v : Nat} (h : leaseOut s v = true) : ((expirePeer s v).peer v).lease = false := by
  unfold expirePeer
  cases hlease : (s.peer v).lease with
  | true => rw [h, Bool.and_self, if_pos rfl, modPeer_peer, if_pos rfl]
  | false => rw [Bool.false_and, if_neg (by decide), hlease]

theorem foldl_expirePeer (l : List Nat) (s : State) : Expires s (l.foldl expirePeer s) ∧
    ∀ v ∈ l, leaseOut s v = true → ((l.foldl expirePeer s).peer v).lease = false := by
  induction l generalizing s with
  | nil => exact ⟨Expires.refl s, fun v hv => absurd hv List.not_mem_nil⟩
  | cons w l ih =>
    obtain ⟨hexpires, hended⟩ := ih (expirePeer s w)
    have hone := expirePeer_expires s w
    refine ⟨hone.trans hexpires, fun v hv hout => ?_⟩
    obtain rfl | hv := List.mem_cons.mp hv
    · exact hexpires.ended _ (expirePeer_ended hout)
    · exact hended v hv ((hone.out v).trans hout)

end Sys2Proof.Machine

namespace Sys2Proof.Proofs

open Sys2Proof.Machine Sys2Proof.Claims

section
variable {s : State}

/-! ### RING_MESSAGE_FORWARD -/

section
variable (h : Agent s) (east : Bool) (m : Bytes)
include h

theorem frameDropped : ∃ u, exec (.ringMessageForward east m false) s = .next u ∧ u = { s with regs := u.regs } ∧
    u.stf 0x3981C 31 16 = satInc 16 (s.stf 0x3981C 31 16) :=
  ⟨_, exec_of_eq rfl (ringMessage_damaged h east m), rfl, inc_stf s 0x3981C 31 16⟩

theorem messageForged (hkey : krOpen s.krysa.key m = none) (hold : krOpen s.krysa.oldKey m = none) :
    ∃ u, exec (.ringMessageForward east m true) s = .next u ∧ u.outs = forwardedOuts s east m ∧ bit (u.wr 0x5804) 7 = true ∧
      u = { s with regs := u.regs, outs := u.outs } :=
  ⟨_, exec_of_eq rfl (ringMessage_forged h east m hkey hold), rfl, bit_evt _ _ _, rfl⟩

variable {b : Bytes} (hopens : (krOpen s.krysa.key m).orElse (fun _ => krOpen s.krysa.oldKey m) = some b)
include hopens

theorem ownMessageReturned (hown : beAt m 1 1 = unitNo s) : ∃ u, exec (.ringMessageForward east m true) s = .next u ∧
    u.outs = forwardedOuts s east m ∧
    u = { s with outs := u.outs, krysa := { s.krysa with
      eastHeard := if east then some s.count else s.krysa.eastHeard, westHeard := if east then s.krysa.westHeard else some s.count
      backCal := u.krysa.backCal, rtt := u.krysa.rtt, leaseFrom := u.krysa.leaseFrom } } ∧
    (beAt m 0 1 ≠ 1 → u.krysa.backCal = s.krysa.backCal ∧ u.krysa.rtt = s.krysa.rtt ∧ u.krysa.leaseFrom = s.krysa.leaseFrom) ∧
    (beAt m 0 1 = 1 → (s.krysa.backCal < beAt m 6 6 → u.krysa.rtt = (s.count - beAt m 6 6) * s.perEc + s.tick.t) ∧
      (∀ a, s.alm.times.find? (fun p => decide (p.1 = beAt m 6 6)) = some (beAt m 6 6, a) →
        u.krysa.leaseFrom = some (max (s.krysa.leaseFrom.getD 0) a))) := by
  have hunit : beAt m 1 1 = unitNo (heardAt (forwarded s east m) east) := hown
  have hstep : ringMessage s east m true = if beAt m 0 1 = 1 then beaconReturned (heardAt (forwarded s east m) east) (beAt m 6 6)
      else heardAt (forwarded s east m) east := by
    rw [ringMessage_opens h east m hopens, authenticated, if_pos hunit]
  by_cases htype : beAt m 0 1 = 1
  · rw [if_pos htype] at hstep
    have hframe := beaconReturned_frame (heardAt (forwarded s east m) east) (beAt m 6 6)
    have hrtt := fun hlater => beaconReturned_rtt (s := heardAt (forwarded s east m) east) (cal := beAt m 6 6) hlater
    have hlease := fun a htimes => beaconReturned_lease (s := heardAt (forwarded s east m) east) (cal := beAt m 6 6) (a := a) htimes
    generalize beaconReturned (heardAt (forwarded s east m) east) (beAt m 6 6) = u at *
    refine ⟨u, exec_of_eq rfl hstep, ?_, ?_, fun hother => absurd htype hother, fun _ => ⟨hrtt, hlease⟩⟩
    · rw [hframe]
      rfl
    · rw [hframe]
      rfl
  · rw [if_neg htype] at hstep
    exact ⟨_, exec_of_eq rfl hstep, rfl, rfl, fun _ => ⟨rfl, rfl, rfl⟩, fun h => absurd h htype⟩

variable (hother : beAt m 1 1 ≠ unitNo s) (hunit : beAt m 1 1 < krCount s)
include hother hunit

theorem authenticated_other : ringMessage s east m true =
    if (match (s.peer (beAt m 1 1)).last with
      | some l => decide (beAt m 6 6 < l.1) || (decide (beAt m 6 6 = l.1) && decide (beAt m 12 2 ≤ l.2))
      | none => false) then heardAt (forwarded s east m) east
    else noted (heardAt (forwarded s east m) east) m b := by
  have hnot : ¬ beAt m 1 1 ≥ krCount (heardAt (forwarded s east m) east) := Nat.not_le.mpr hunit
  rw [ringMessage_opens h east m hopens, authenticated, if_neg (by exact hother), if_neg hnot]
  rfl

theorem duplicateDropped {c q : Nat} (hlast : (s.peer (beAt m 1 1)).last = some (c, q))
    (hnot : beAt m 6 6 < c ∨ (beAt m 6 6 = c ∧ beAt m 12 2 ≤ q)) : ∃ u, exec (.ringMessageForward east m true) s = .next u ∧
      u.outs = forwardedOuts s east m ∧ u = { s with outs := u.outs, krysa := { s.krysa with
        eastHeard := if east then some s.count else s.krysa.eastHeard
        westHeard := if east then s.krysa.westHeard else some s.count } } := by
  have hdup : (decide (beAt m 6 6 < c) || (decide (beAt m 6 6 = c) && decide (beAt m 12 2 ≤ q))) = true := by
    simpa only [Bool.or_eq_true, Bool.and_eq_true, decide_eq_true_eq] using hnot
  have hstep := authenticated_other h east m hopens hother hunit
  simp only [hlast, hdup, if_true] at hstep
  exact ⟨_, exec_of_eq rfl hstep, rfl, rfl⟩

theorem messageWaits (hlast : (s.peer (beAt m 1 1)).last = none) (hlow : 1 ≤ beAt m 0 1) (hhigh : beAt m 0 1 ≤ 6) :
    ∃ u, exec (.ringMessageForward east m true) s = .next u ∧ u.outs = forwardedOuts s east m ∧
      u = { s with outs := u.outs, krysa := { s.krysa with
        eastHeard := if east then some s.count else s.krysa.eastHeard, westHeard := if east then s.krysa.westHeard else some s.count
        peers := tins s.krysa.peers (beAt m 1 1) { s.peer (beAt m 1 1) with last := some (beAt m 6 6, beAt m 12 2) }
        inbox := s.krysa.inbox ++ [{ type := beAt m 0 1, origin := beAt m 1 1, cal := beAt m 6 6, body := b }] } } := by
  have hstep := authenticated_other h east m hopens hother hunit
  simp only [hlast, Bool.false_eq_true, if_false] at hstep
  refine ⟨_, exec_of_eq rfl hstep, rfl, ?_⟩
  rw [noted, if_pos ⟨hlow, hhigh⟩]
  rfl

end

/-! ### Ports, claims and leases -/

theorem portGoesDown (s : State) (east : Bool) : ∃ u, exec (.krysaPortDown east) s = .next u ∧ portUp u east = false ∧
    u = { s with krysa := { s.krysa with eastLow := east || s.krysa.eastLow, westLow := !east || s.krysa.westLow } } := by
  refine ⟨_, rfl, ?_, ?_⟩
  all_goals cases east <;> rfl

theorem portComesUp (s : State) (east : Bool) : ∃ u, exec (.krysaPortUp east) s = .next u ∧
    u = { s with krysa := { s.krysa with eastLow := !east && s.krysa.eastLow, westLow := east && s.krysa.westLow } } := by
  refine ⟨_, rfl, ?_⟩
  cases east <;> rfl

theorem claimTimesOut {n c : Nat} (hrun : s.halted = false) (hwedge : s.wedged 3 = false) (hclaim : s.krysa.claim = some (n, c))
    (hdue : 64 ≤ s.count - c) : ∃ u, exec .claimTimeout s = .next u ∧ bit (u.wr 0x5804) 6 = true ∧
      (∀ n' c', u.krysa.claim = some (n', c') → c' = s.count) ∧ (s.krysa.wanted = 0 → u.krysa.claim = none) ∧
      u = { s with krysa := u.krysa, regs := u.regs, outs := u.outs } := by
  obtain ⟨hframe, -, hclaimed, hothers⟩ := krClaim_made (claimVoid s)
  have hnone : (claimVoid s).krysa.claim = none := rfl
  refine ⟨_, exec_of_eq rfl (claimTimeout_due hrun hwedge hclaim hdue), ?_, fun n' c' hnew => ?_, fun hwanted => ?_, ?_⟩
  · rw [hothers 0x5804 (by decide)]
    exact bit_evt _ _ _
  · obtain hold | ⟨-, hcount⟩ := hclaimed n' c' hnew
    · rw [hnone] at hold
      exact absurd hold (by simp)
    · exact hcount
  · rw [krClaim_idle (by exact hwanted), hnone]
  · generalize krClaim (claimVoid s) = u at *
    rw [hframe]
    rfl

theorem leasesRunOut (hup : s.boot.inReset = false) (hawake : s.boot.asleep = false) : ∃ u, exec .ownershipLeaseExpiry s = .next u ∧
    u.krysa.leaseFrom = (if ownLease s then s.krysa.leaseFrom else none) ∧
    (∀ v ∈ others s, leaseOut s v = true → (u.peer v).lease = false) ∧ (∀ v, leaseOut s v = false → u.peer v = s.peer v) ∧
    u = { s with krysa := { s.krysa with leaseFrom := u.krysa.leaseFrom, peers := u.krysa.peers } } := by
  have hframed : expireOwn s = { s with krysa := { s.krysa with leaseFrom := if ownLease s then s.krysa.leaseFrom else none } } := by
    unfold expireOwn
    split <;> rfl
  have hothers : others (expireOwn s) = others s := by rw [hframed]; rfl
  have hout (v : Nat) : leaseOut (expireOwn s) v = leaseOut s v := by rw [hframed]; rfl
  have hpeer (v : Nat) : (expireOwn s).peer v = s.peer v := by rw [hframed]; rfl
  have hstep := leaseExpiry_eq hup hawake
  rw [hothers] at hstep
  obtain ⟨⟨hframe, -, hheld, -⟩, hended⟩ := foldl_expirePeer (others s) (expireOwn s)
  generalize (others s).foldl expirePeer (expireOwn s) = u at *
  refine ⟨u, exec_of_eq rfl hstep, ?_, fun v hv hv' => hended v hv ((hout v).trans hv'),
    fun v hv => (hheld v ((hout v).trans hv)).trans (hpeer v), ?_⟩
  · rw [hframe, hframed]
  · rw [hframe, hframed]

end

/-- Settles O54: a message is forwarded first and then authenticated; ports, claims and leases change by time alone. -/
theorem ringTransportAndTimeouts : Obligations.RingTransportAndTimeouts := by
  unfold Obligations.RingTransportAndTimeouts
  intro s east
  refine ⟨portGoesDown s east, portComesUp s east, fun m h => ⟨frameDropped h east m, fun l hl => ?message⟩,
    fun n c hrun hwedge hclaim => ⟨claimTimesOut hrun hwedge hclaim, fun hearly => ⟨_, rfl, claimTimeout_early hclaim hearly⟩⟩, leasesRunOut⟩
  obtain rfl : l = forwardedOuts s east m := hl
  exact ⟨messageForged h east m, fun b hopens => ownMessageReturned h east m hopens, fun b hopens hother hunit =>
    ⟨fun c q => duplicateDropped h east m hopens hother hunit, messageWaits h east m hopens hother hunit⟩⟩

end Sys2Proof.Proofs
end

section
/-! PROOFS. A command of the NMS on an item of a channel's ring whose Calends is due: it finds no work (R81), where the statements on
the NMS commands ask for a result of every ring. -/

namespace Sys2Proof.Machine

open Sys2Proof.Claims

/-- From the Calends instant on, no command finds work on the ring of a channel (R81). -/
theorem withItem_of_due {s : State} {k : Nat} (hk : k < 48) (hdue : s.tick.due = true) (i op : Nat) (f : Item → State) :
    withItem s k i op f = s := by
  unfold withItem
  split
  · exact if_neg (fun h => h.2 ⟨hk, Or.inl hdue⟩)
  · rfl

theorem nmsLoad_of_due {s : State} {k : Nat} (hk : k < 48) (hdue : s.tick.due = true) (i op : Nat) : nmsLoad s k i op = s := by
  unfold nmsLoad
  split
  · rfl
  · exact withItem_of_due hk hdue ..

theorem updActivate_of_due {s : State} {k : Nat} (hk : k < 48) (hdue : s.tick.due = true) (i : Nat) (ok : Bool) :
    updActivate s k i ok = s := by
  unfold updActivate
  split
  · rfl
  · exact withItem_of_due hk hdue ..

/-- An open item with an NMS opcode. -/
def strayItem (op : Byte) : Item := { desc := [op] }

/-- A block whose NMS is ready and whose commit is due, with such an item in SQ0. -/
def straying (op : Byte) : State :=
  { boot := { inReset := false }, nms := { ready := true }, tick := { due := true }, rings := [(0, { items := [strayItem op] })] }

/-- The item has no result. -/
theorem straying_unended {op : Byte} {status : Nat} {zero : Bool} {result : Bytes} : ¬ Ended (straying op) 0 0 status zero result := by
  rintro ⟨it, hit, -, hres⟩
  obtain rfl : it = strayItem op := List.mem_singleton.mp hit
  exact absurd hres (by simp [strayItem])

end Sys2Proof.Machine

namespace Sys2Proof.Proofs

open Sys2Proof.Machine Sys2Proof.Claims

/-- Refutes O46: its statement asks for the end of a load in every ring, and a load in SQ0 with a Calends due stays as it is, as its
hypotheses do not name the rings of the NMS. -/
theorem not_nmsLoadsAreVerifiedAndStored : ¬ Obligations.NmsLoadsAreVerifiedAndStored := by
  unfold Obligations.NmsLoadsAreVerifiedAndStored
  intro h
  obtain ⟨hshut, -, -⟩ := h (straying 0x60) 0 0 (strayItem 0x60)
  obtain ⟨hload, -⟩ := hshut (Or.inl rfl)
  obtain ⟨u, hexec, ⟨hended, -, -⟩, -, -⟩ := hload ⟨by decide, rfl, by decide, by decide⟩
  have hidle : exec (.nmsProfileLoad 0 0) (straying 0x60) = .next (straying 0x60) :=
    congrArg Host.Outcome.next (nmsLoad_of_due (k := 0) (by decide) rfl 0 0x60)
  obtain rfl : straying 0x60 = u := Host.Outcome.next.inj (hidle.symm.trans hexec)
  exact straying_unended hended

/-- Refutes O47: its statement asks for the end of an activation in every ring, and one in SQ0 with a Calends due stays as it is, as its
hypotheses do not name the rings of the NMS. -/
theorem not_nmsUpdatesAndFuses : ¬ Obligations.NmsUpdatesAndFuses := by
  unfold Obligations.NmsUpdatesAndFuses
  intro h
  obtain ⟨-, -, hactivate, -, -, -⟩ := h (straying 0x63) 0 0 (strayItem 0x63)
  obtain ⟨u, hexec, ⟨hended, -, -⟩, -, -⟩ := hactivate ⟨by decide, rfl, by decide, by decide⟩ rfl true
  have hidle : exec (.nmsUpdActivate 0 0 true) (straying 0x63) = .next (straying 0x63) :=
    congrArg Host.Outcome.next (updActivate_of_due (k := 0) (by decide) rfl 0 true)
  obtain rfl : straying 0x63 = u := Host.Outcome.next.inj (hidle.symm.trans hexec)
  exact straying_unended hended

end Sys2Proof.Proofs
end
